-- ==== Sys2Proof/Word.lean ====
section
/-!
DEFINITION. The word types of the YM-2 model: what the manual numbers in bits.
-/
namespace Sys2Proof

/-- One byte of an address space (R6, R36). -/
abbrev Byte := BitVec 8

/-- A 32-bit register, count or FP32 bit pattern. -/
abbrev W32 := BitVec 32

/-- A 64-bit register, count or module address (R36). -/
abbrev W64 := BitVec 64

/-- A 64-byte window-table or ring-table entry, or a command descriptor, taken as one little-endian number (R39, R129, R138). -/
abbrev Block512 := BitVec 512

/-- Bits `[lo + w - 1 : lo]` of a word, as a word of width `w`. -/
def field {n : Nat} (x : BitVec n) (lo w : Nat) : BitVec w := (x >>> lo).setWidth w

/-- Bits `[lo + w - 1 : lo]` of a word, as a number. -/
def fieldNat {n : Nat} (x : BitVec n) (lo w : Nat) : Nat := (x.toNat >>> lo) % 2 ^ w

/-- `x` with bits `[lo + w - 1 : lo]` replaced by `v`. -/
def setField {n : Nat} (x : BitVec n) (lo w : Nat) (v : BitVec w) : BitVec n :=
  (x &&& ~~~(((BitVec.allOnes w).setWidth n) <<< lo)) ||| ((v.setWidth n) <<< lo)

end Sys2Proof
end

