-- ==== Sys2Proof/Syntax.lean ====
section
/-!
DEFINITION. The commands the block takes: one constructor of `Instr` for each row of spec/opcode_table.json, with the
operands the row's rule gives it, and the small types those operands are made of.
-/
namespace Sys2Proof

/-- The status codes of R7. -/
inductive Status where
  | ok | stepAdopted | precondFallback | prunedCatchup
  | reservedField | level | badOpcode | engineAbsent | lengthBound | rearmOverrun | quota | conflict
  | windowClosed | starved | upstream | stepHeld | peerLost | eccUncorr | key | aborted | hallLost
  | access | timeout
  deriving DecidableEq, Repr

/-- The four issue queues of a loom (R141). -/
inductive Queue where
  | load | matrix | landing | store
  deriving DecidableEq, Repr

/-- The two lanes of an issue queue (R141). -/
inductive Lane where
  | forward | backward
  deriving DecidableEq, Repr

/-- The three axes of the torus (R261). -/
inductive Axis where
  | x | y | z
  deriving DecidableEq, Repr

/-- What the ECC of a memory said of the words that were read: none was wrong, or the `word`-th 64-bit word of the read was corrected, was
uncorrectable, or was reported uncorrectable by the HBM stack itself (R227, R228, R232). -/
inductive Ecc where
  | clean
  | corrected (word : Nat)
  | uncorrectable (word : Nat)
  | stackError (word : Nat)
  deriving DecidableEq, Repr

/-- How the host answered a request of the module (R301). -/
inductive HostAnswer where
  | success | unsupportedRequest | completerAbort | poisoned
  deriving DecidableEq, Repr

/-- What takes a host away from a function (R285). -/
inductive DepartCause where
  | linkDown | hotReset | perst | functionReset
  deriving DecidableEq, Repr

/-- An item of the module: the descriptor `idx` of command ring `ring`; `sub` is 0 for the descriptor itself and counts
the commands that a pattern call of that descriptor emitted from 1 (R157). -/
structure ItemId where
  ring : Nat
  idx : Nat
  sub : Nat
  deriving DecidableEq, Repr

/-- The fields of a hello (R266). -/
structure Hello where
  serial : W64
  grade : Nat
  level : Nat
  x : Nat
  y : Nat
  z : Nat
  nx : Nat
  ny : Nat
  nz : Nat
  zRole : Bool
  port : Nat
  encapsulated : Bool
  admitted : Bool
  deriving DecidableEq, Repr

/-- The first datagram of a remote write (R186, R190, R276, R319). `address` is the space-4 address it was sent to, `express` and `vc`
the class and the dateline virtual channel it travels on (R264). -/
structure RemoteHead where
  origin : Nat
  address : W64
  generation : W32
  sourceOwner : Nat
  sourceFormat : Nat
  sourceBytes : Nat
  sealedPush : Bool
  context : Nat
  pushNonce : W64
  pushCounter : W32
  express : Bool
  vc : Nat
  deriving DecidableEq, Repr

/-- A member's opening datagram of a collective (R273). -/
structure OpenHead where
  axis : Axis
  tag : Nat
  position : Nat
  opcode : Nat
  elements : Nat
  group : Nat
  reduceType : Nat
  express : Bool
  rootCounter : Option W64
  deriving DecidableEq, Repr

/-- What the start-up tests read of one image set (R310): whether its signatures hold and its three images name one another, the SHA-384 hash
of the key that signed them, and the lowest security version among them. -/
structure ImageSet where
  good : Bool
  keyHash : BitVec 384
  version : BitVec 16
  deriving DecidableEq, Repr

/-- What the start-up tests and loads found (R308, R309). A bit of a mask is set for each unit that failed. -/
structure StartupResult where
  railsReached : Bool
  primary : ImageSet
  secondary : ImageSet
  loomFail : BitVec 8
  hbmFail : BitVec 8
  galleryFail : BitVec 8
  flightFail : BitVec 12
  deriving DecidableEq, Repr

/-- What a host-memory timeout ends (R302). -/
inductive TimeoutOf where
  | item (it : ItemId)
  | descriptor (ring : Nat)
  | recordWrite (ring : Nat)
  deriving DecidableEq, Repr

/-- The request a host completion answers (R301): bytes of space 3 that an item reads, or a descriptor of a ring. -/
inductive HostRequest where
  | item (it : ItemId)
  | descriptor (ring : Nat)
  deriving DecidableEq, Repr

/-- Which of the causes of R326 tripped the undervoltage comparator. -/
inductive UndervoltageCause where
  | busLow | senseOpen
  deriving DecidableEq, Repr

/-- What wakes the module from MODULE_SLEEP (R331). -/
inductive WakeCause where
  | comparator (n : Nat)
  | i3c
  deriving DecidableEq, Repr

/-- What a clock says of itself in an announce message, in the order in which the best-master-clock algorithm compares clocks (R280;
log 4). -/
structure PtpClock where
  priority1 : Nat
  clockClass : Nat
  accuracy : Nat
  variance : Nat
  priority2 : Nat
  identity : W64
  steps : Nat
  deriving DecidableEq, Repr

/-- The PTP messages of R280: an announce of a peer's master clock, any other message received, a message sent, and the management message
that turns the pulse-per-second output on or off (R290; log 4). -/
inductive PtpMessage where
  | announce (port : Nat) (clock : PtpClock)
  | received (port : Nat)
  | sent (port : Nat)
  | ppsOutput (enable : Bool)
  deriving DecidableEq, Repr

/-- The sensors of R313. -/
inductive Sensor where
  | junction (hall : Nat) | rail (hall : Nat) | stepRate (hall : Nat)
  | inputVoltage | inputPower | coolantFlow | bootState
  deriving DecidableEq, Repr

/-- A PLDM request that the model tells apart (R313, R342): a sensor's reading, the heartbeat of comparator 6, and the event alert on
ALERT#, whose pending events a poll takes. -/
inductive PldmRequest where
  | readSensor (sensor : Sensor)
  | heartbeatEnable (intervalNs : W64)
  | heartbeatDisable
  | alertEnable
  | alertDisable
  | pollEvents
  deriving DecidableEq, Repr

/-- An SPDM request that the model tells apart (R311, R312). `openSession` says whether the requester's certificate chain holds, and gives the
SHA-384 hash of the root it leads to (R315). -/
inductive SpdmRequest where
  | getCertificate (slot : Nat)
  | challenge (slot : Nat) (nonce : BitVec 256)
  | getMeasurement (index : Nat) (signed : Bool) (nonce : BitVec 256)
  | openSession (authenticated : Bool) (root : BitVec 384 := 0)
  | keyUpdate (session : Nat)
  | heartbeat (session : Nat)
  | endSession (session : Nat)
  | unsupported (code : Nat)
  deriving DecidableEq, Repr

/-- The instructions of the debug port besides unlock and internal scan: the challenge, and the three that a locked port accepts too (R323). `other`
is any that R323 does not name. -/
inductive JtagInstruction where
  | challenge | bypass | idcode | extest | other
  deriving DecidableEq, Repr

/-- Where a branch of a multicast tree is pruned (R278): at the source of the item; at this module, which passes the tree of an origin on by a
port; or at a module beyond a port, whose report of the receivers it pruned is on its way back to the source. -/
inductive PrunePlace where
  | source
  | branch (origin out : Nat)
  | report (origin port : Nat) (receivers : List W64)
  deriving DecidableEq, Repr

/-- A snoop of the host to the module's CXL device cache (R303). -/
inductive Snoop where
  | data | invalidate | current
  deriving DecidableEq, Repr

/-- The slice of an adapter window that a bobbin unit asked for (R119). -/
structure SliceId where
  context : Nat
  slot : Nat
  bWindow : Bool
  layer : Nat
  position : Nat
  deriving DecidableEq, Repr

/-- The commands of the block. A last operand written with `:=` may be left out of a command; it then has the value that stands there. -/
inductive Instr where
  -- doorbells, treadle, items, knots (R128–R152)
  | doorbellPWrite (ring : Nat) (value : W32)
  | doorbellHWrite (ring : Nat) (value : W32)
  | descriptorFetch (hall : Nat) (entryEcc : Ecc := .clean) (tableEcc : Ecc := .clean) (knotEcc : Ecc := .clean)
  | parkedCommandResume (ring : Nat)
  | dobbyChoice (hall loom : Nat) (queue : Queue) (knotEcc : Ecc := .clean)
  | pieceComplete (hall loom : Nat) (queue : Queue)
  | itemComplete (it : ItemId) (knotEcc : Ecc := .clean)
  | knotUpdateArrive (position : Nat) (knotEcc : Ecc := .clean)
  | starvationLimit (it : ItemId)
  | ringStalled (ring : Nat)
  -- opcodes (R161)
  | nop (it : ItemId)
  | knotSet (it : ItemId) (knotEcc : Ecc := .clean)
  | knotWait (it : ItemId) (knotEcc : Ecc := .clean)
  | fence (it : ItemId)
  | callPattern (it : ItemId) (routineEcc : Ecc := .clean)
  | timestamp (it : ItemId)
  | loadTile (it : ItemId)
  | storeTile (it : ItemId)
  | copy (it : ItemId)
  | gather (it : ItemId)
  | scatter (it : ItemId)
  | prefetch (it : ItemId)
  | offload (it : ItemId)
  | restore (it : ItemId)
  | streamArm (it : ItemId)
  | matmul (it : ItemId)
  | matmulT (it : ItemId)
  | conv (it : ItemId)
  | matmulAcc (it : ItemId)
  | epilog (it : ItemId)
  | eltwise (it : ItemId)
  | rowreduce (it : ItemId)
  | softmaxFwd (it : ItemId)
  | softmaxBwd (it : ItemId)
  | normFwd (it : ItemId)
  | normBwd (it : ItemId)
  | convert (it : ItemId)
  | adaptFwd (it : ItemId)
  | adaptBwd (it : ItemId)
  | bobbinBind (it : ItemId)
  | collReduceScatter (it : ItemId)
  | collAllGather (it : ItemId)
  | collAllReduce (it : ItemId)
  | send (it : ItemId)
  | recv (it : ItemId)
  | multicast (it : ItemId)
  | windowOpen (it : ItemId)
  | windowClose (it : ItemId)
  | buddyPush (it : ItemId)
  | updateBind (it : ItemId)
  | statsSnap (it : ItemId)
  | cardRun (it : ItemId)
  -- card words (R159)
  | cardRead (it : ItemId)
  | cardWrite (it : ItemId)
  | cardCompare (it : ItemId)
  | cardPass (it : ItemId)
  | cardMode (it : ItemId)
  -- loom steps (R63–R103)
  | warpTileLoad (hall loom : Nat) (it : ItemId) (unit : Nat)
  | tilePass (hall loom : Nat)
  | replayRerun (hall loom : Nat)
  | promotion (hall loom : Nat)
  | tileEpilogue (hall loom : Nat)
  | stage3Term (hall loom : Nat)
  -- bobbin unit (R119–R121)
  | bobbinWorkItemStart (hall loom : Nat) (it : ItemId) (unit : Nat)
  | bobbinSliceFill (hall loom : Nat) (slice : SliceId) (ecc : Ecc)
  -- ledger, cache, streams, scrub (R207–R231)
  | ledgerAdmit (hall : Nat) (slotEcc : Ecc := .clean)
  | ledgerResponse (hall request : Nat) (ecc : Ecc)
  | cacheFill (hall request : Nat) (ecc : Ecc)
  | streamGrant (hall : Nat) (stateEcc : Ecc := .clean)
  | streamTransferComplete (hall descriptor : Nat) (answer : HostAnswer)
  | streamStarved (hall descriptor : Nat)
  | correctedWriteback (word : Nat)
  | sramScrubRead (word : Nat) (ecc : Ecc)
  | hbmScrubRead (hall offset : Nat) (ecc : Ecc)
  -- selvedge (R233–R257)
  | selvedgeUpdateBegin (selvedge : Nat)
  | selvedgeBlockUpdate (selvedge : Nat)
  | selvedgeUpdateEnd (selvedge : Nat)
  -- selvedge instructions (R365)
  | fma (selvedge d a b c : Nat)
  | add (selvedge d a b : Nat)
  | sub (selvedge d a b : Nat)
  | mul (selvedge d a b : Nat)
  | div (selvedge d a b : Nat)
  | sqrt (selvedge d a : Nat)
  | min (selvedge d a b : Nat)
  | max (selvedge d a b : Nat)
  | abs (selvedge d a : Nat)
  | neg (selvedge d a : Nat)
  | lt (selvedge d a b : Nat)
  | sel (selvedge d a b c : Nat)
  | const (selvedge d : Nat) (immediate : W32)
  | exp (selvedge d a : Nat)
  | ln (selvedge d a : Nat)
  | pow (selvedge d a b : Nat)
  | repeatBlock (selvedge times : Nat) (body : List W64)
  -- fabric (R258–R280)
  | helloSend (port : Nat)
  | helloReceive (port : Nat) (hello : Hello)
  | linkTrained (port : Nat)
  | admitPendingRelease (port : Nat)
  | linkDown (port : Nat)
  | lossNotice (port : Nat) (axis : Axis) (coordinate lane : Nat)
  | remoteWriteAccept (port : Nat) (head : RemoteHead)
  | remoteDatagram (port origin : Nat) (data : List Byte) (express : Bool := false)
  | negativeAck (it : ItemId) (receiver : Nat) (status : Status) (port : Nat := 0) (passing : Option Nat := none)
  | expressForward (portIn vc origin : Nat) (destinations : List W64) (data : List Byte) (length : Nat := 0) (stall : Nat := 0)
  | frameReceive (port : Nat) (etherType : BitVec 16) (priority : Nat)
  | pfcFrame (port : Nat) (priorities : BitVec 8)
  | creditReceive (port datagrams : Nat) (express : Bool)
  | channelAcquire (it : ItemId)
  | collectiveOpen (head : OpenHead) (port : Nat := 0)
  | joinTimeout (it : ItemId)
  | collectiveWithdrawal (port : Nat) (axis : Axis) (tag coordinate group : Nat)
  | collectiveData (axis : Axis) (tag shard phase : Nat) (data : List Byte) (port : Nat := 0) (group : Nat := 2) (express : Bool := false)
  | multicastChunkAck (it : ItemId) (receiver : Nat) (port : Nat := 0) (passing : Option Nat := none)
  | multicastPrune (it : ItemId) (receivers : List Nat) (place : PrunePlace := .source)
  | ptpMessage (message : PtpMessage)
  | ptpLock (offsetNs : Int)
  | ppsIn
  -- host and security (R285, R297–R324)
  | hostDepart (function : Nat) (cause : DepartCause)
  | configRequest (function : Nat)
  | bar4Access (function : Nat) (write : Bool) (offset length : Nat) (data : List Byte)
  | hostCompletion (request : HostRequest) (answer : HostAnswer) (address : W64) (data : List Byte)
  | hostMemoryTimeout (what : TimeoutOf)
  | cxlSnoop (line : Nat) (kind : Snoop)
  | spdmRequest (request : SpdmRequest)
  | keyInstall (slot : Nat) (key : BitVec 256) (ownerSession : Bool) (session : Nat := 0)
  | keyErase (slot : Nat) (ownerSession : Bool) (session : Nat := 0)
  | rollbackRaise (version : BitVec 16)
  | pldmRequest (request : PldmRequest)
  | secOwnerWrite (hash : BitVec 384)
  | secStatusRead
  | jtagChallenge (instruction : JtagInstruction := .challenge)
  | jtagUnlock (signatureValid : Bool) (scope : W32 := 0)
  | jtagInternalScan (hall : Nat)
  -- start-up, power, newel (R16–R24, R286–R289, R306–R343)
  | moduleReset
  | moduleSleepEnter
  | moduleWake (cause : WakeCause)
  | startup (result : StartupResult)
  | powerOn
  | undervoltage (cause : UndervoltageCause)
  | startupRestart
  | powerOff
  | inputSwitchOpen
  | inputSwitchReclose
  | prechargeBypassClose
  | tamperResponse
  | glitchZeroise
  | protectionEnter (watts : Nat := 0)
  | protectionExit (watts : Nat := 0)
  | rkTargetWrite (hall : Nat) (value : W32)
  | idleLowering (hall : Nat)
  | idleExit (hall : Nat)
  | thermalThrottle (hall celsius : Nat)
  | hallPark (hall celsius : Nat)
  | hallResume (hall celsius : Nat)
  | hallCoreShutoff (hall celsius : Nat)
  | monitorWindowEnd (hall : Nat) (rate : BitVec 16)
  | rkMonCtlWrite (hall : Nat) (value : W32)
  | rkMonRateRead (hall : Nat)
  | rkMonExtRead (hall : Nat)
  | railFault (hall : Nat)
  | hallDieFailure (hall : Nat)
  | hallQuiesce (hall : Nat)
  | temperatureTrip (celsius : Nat)
  | coolantFlowTrip (pulses : Nat)
  | wakeTimer0Trip
  | wakeTimer1Trip
  | generalComparatorTrip
  | nwlCmpCtlWrite (comparator : Nat) (value : W32)
  | nwlCmpValWrite (comparator : Nat) (value : W64)
  -- register rows (R344–R362)
  | ringSelect (hall : Nat) (value : W32)
  | ringCommit (hall : Nat)
  | ringEnable (hall function : Nat)
  | ringReset (hall : Nat)
  | knotOwnerWrite (hall : Nat) (value : W32)
  | patternLoad (hall : Nat)
  | patternLoadComplete (hall : Nat)
  | patternClear (hall : Nat)
  | diagEnter (hall : Nat) (value : W32)
  | diagEntryComplete (hall : Nat)
  | diagExit (hall : Nat)
  | quiesce (hall : Nat)
  | ctxBaseWrite (hall : Nat) (value : W32)
  | levelNegotiate (value : W32)
  | eventClear (page : Nat) (value : W32)
  | windowCommit (hall : Nat)
  | windowClear (hall : Nat)
  | windowFetch (hall : Nat)
  | cacheShareSet (hall : Nat) (value : W32)
  | shareZeroDone (hall : Nat)
  | cacheInvalidate (hall : Nat)
  | ldgCapWrite (hall : Nat) (value : W32)
  | strStateRead (hall : Nat)
  | reg64LowRead (offset : Nat)
  | selvedgeProgLoad (value : W32)
  | selvedgeProgLoadDone
  | flightEnable (port : Nat) (value : W32)
  | flightAdmit (port : Nat)
  | flightReject (port : Nat)
  | registerWrite (function offset width : Nat) (value : W64)
  | managementSpaceAccess (ring : Nat) (write : Bool) (offset width : Nat) (value : W64)
  | ptpLockLoss
  | perstRelease (function : Nat) (split refclkToggles : Bool)
  | hostLinkTrained (speed width : Nat) (cxl : Bool) (function : Nat := 0)
  | sensePinMate
  deriving DecidableEq, Repr

end Sys2Proof
end

