-- ==== Sys2Proof/Decode.lean ====
section
/-!
DEFINITION. The commands that words spell. The table of the block gives none of its rows bits (no `fixed`, no `match`,
no `pattern`), so no word spells a command; the 64-byte descriptors of R138 are data of the rings, decoded in
Sys2Proof/Machine/Operands.lean.
-/
namespace Sys2Proof

/-- The command that the word `w` of `nbits` bits spells by the table's bits: none, since no row gives bits. -/
def decodeTableWord (_nbits _w : Nat) : Option Instr := none

end Sys2Proof
end

