-- ==== Sys2Proof/Config.lean ====
section
/-!
DEFINITION. What an implementation fixes and the specification leaves open: every free value of the model is one of these
constants without a body, so no proof can see what it is. The counter they are applied to stands in `State.free`.
-/
namespace Sys2Proof.Config

/-- A fresh 32-bit value the specification leaves open, the n-th one drawn (log 2). -/
opaque freeWord : Nat → W32

/-- A fresh 64-bit value the specification leaves open: install nonces (R315), elapsed steps (R10), log 5 and 10. -/
opaque freeLong : Nat → W64

/-- A fresh 256-bit random value: the module key (R314), a JTAG nonce (R323), log 5. -/
opaque freeKey : Nat → BitVec 256

/-- The descriptors a pattern routine emits for its parameters and its window entries (R156): the manual gives no
encoding of treadle code. The image, the parameter bytes, then the entries the routine may look at (log 9). -/
opaque routineEmits : List Byte → List Byte → List (W32 × Block512) → List Block512

/-- The static call depth of a routine of a book, whose images the manual gives no encoding to read from (R156; log 9). -/
opaque routineDepth : Nat → List (Nat × List Byte) → Nat

/-- The image bytes of Kwedun pattern routine `index` of the signed firmware (R155, R308 step 3), log 9. -/
opaque kwedunRoutine : Nat → List Byte

/-- The tenant-callable bit of Kwedun pattern routine `index` (R158), log 9. -/
opaque kwedunTenant : Nat → Bool

/-- The selvedge program `index` of the signed firmware and its rounding choice (R237, R308 step 3), log 9. -/
opaque kwedunProgram : Nat → List W64 × BitVec 8

/-- The certificate chain of slot 0 (R311), over the serial, the identity key and the measured image set: the manual gives its certificates and
not their bytes (log 9). -/
opaque certificateChain : W64 → BitVec 384 → Bool → List Byte

/-- A signature by the identity key over a nonce and what is signed (R311): ECDSA draws a number of its own for each (log 9). -/
opaque signature : BitVec 384 → BitVec 256 → BitVec 384 → Nat → List Byte

/-- The byte string in which measured operator images are digested, whose order and framing R312 does not give (log 9). -/
opaque measuredBytes : List (Nat × Bool × List Byte) → List Byte

/-- The SHA-384 digests of measurement blocks whose contents the manual does not give (R312), log 9. -/
opaque firmwareDigest : Nat → BitVec 384

/-- What a card word READ returns from a unit that is no store: R159 gives no contents. The unit, the loom, the word's operand and its
address, and a fresh number (log 8). -/
opaque cardUnitData : Nat → Nat → W32 → W64 → Nat → W64

/-- The locally administered MAC address of a port, which R267 takes from the serial in a way it does not state (log 3). -/
opaque ethSelf : W64 → Nat → BitVec 48

/-- The IEEE 1149.1 identification code of the debug port, of which R323 states no value (log 5). -/
opaque jtagIdcode : W32

/-- The two XTS keys under which a context's windows in host memory are held (R115): of the data key and the context, in a way that no rule
states (log 53). -/
opaque hostXts : List Byte → Nat → BitVec 512

/-- What the power stage measures at its input at a newel time, in the layout of `PWR_INPUT` (R332); the board decides it (log 13). -/
opaque inputReading : W64 → W32

/-- What a stall-cause counter holds at a newel time: it counts steps, which the model does not (R294). The counter is 256 times the page
number plus the selector (log 42). -/
opaque stallSteps : Nat → W64 → W32

/-- What a narrow accumulator holds after an addition that overflowed it, when its value is meaningless (R87): a fresh number and the cell
(log 46). -/
opaque freeAccum : Nat → Nat → BitVec 20

/-- The value an arithmetic rule leaves unstated for these operands (an operation code and its operand words), log 11. -/
opaque openResult : Nat → W32 → W32 → W32

end Sys2Proof.Config
end

