-- ==== Sys2Proof/Machine/Float.lean ====
section
/-!
DEFINITION. Number formats, exact values, rounding and the FP32 operations (R43–R48, R54–R61, R89). A value is kept exact
as a signed dyadic number; every narrowing goes through `roundMag`, once.
-/
namespace Sys2Proof.Machine

/-- A decoded value: NaN, a signed infinity, or (−1)^neg × m × 2^e, exactly. -/
inductive Val where
  | nan
  | inf (neg : Bool)
  | fin (neg : Bool) (m : Nat) (e : Int)
  deriving DecidableEq, Repr

/-- Which specials a floating-point format has (R44): none, the one NaN code of E4M3, or IEEE infinities and NaNs. -/
inductive Specials where
  | none | nanOnly | ieee
  deriving DecidableEq, Repr

/-- The fields of a floating-point format (R44). -/
structure Fmt where
  eb : Nat
  mb : Nat
  bias : Int
  specials : Specials
  deriving DecidableEq, Repr

def fmtE2M1 : Fmt := ⟨2, 1, 1, .none⟩
def fmtE3M2 : Fmt := ⟨3, 2, 3, .none⟩
def fmtE2M3 : Fmt := ⟨2, 3, 1, .none⟩
def fmtE4M3 : Fmt := ⟨4, 3, 7, .nanOnly⟩
def fmtE5M2 : Fmt := ⟨5, 2, 15, .ieee⟩
def fmtBF16 : Fmt := ⟨8, 7, 127, .ieee⟩
def fmtFP16 : Fmt := ⟨5, 10, 15, .ieee⟩
def fmtFP32 : Fmt := ⟨8, 23, 127, .ieee⟩

/-- The bits of one element of a format, sign included. -/
def Fmt.bits (f : Fmt) : Nat := 1 + f.eb + f.mb

/-- The exponent of the smallest subnormal, which is the finest unit of the format. -/
def Fmt.unitExp (f : Fmt) : Int := 1 - f.bias - f.mb

/-- The largest finite magnitude as a significand and an exponent (R44). -/
def Fmt.largest (f : Fmt) : Nat × Int :=
  match f.specials with
  | .none => (2 ^ (f.mb + 1) - 1, (2 ^ f.eb - 1 : Nat) - f.bias - f.mb)
  | .nanOnly => (2 ^ (f.mb + 1) - 2, (2 ^ f.eb - 1 : Nat) - f.bias - f.mb)
  | .ieee => (2 ^ (f.mb + 1) - 1, (2 ^ f.eb - 2 : Nat) - f.bias - f.mb)

/-- The value of an element code (R44). -/
def Fmt.decode (f : Fmt) (code : Nat) : Val :=
  let neg := code.testBit (f.eb + f.mb)
  let ex := (code >>> f.mb) % 2 ^ f.eb
  let ma := code % 2 ^ f.mb
  if f.specials = .ieee ∧ ex = 2 ^ f.eb - 1 then (if ma = 0 then .inf neg else .nan)
  else if f.specials = .nanOnly ∧ ex = 2 ^ f.eb - 1 ∧ ma = 2 ^ f.mb - 1 then .nan
  else if ex = 0 then .fin neg ma f.unitExp
  else .fin neg (2 ^ f.mb + ma) (f.unitExp + ex - 1)

/-- The canonical NaN code of a format (R59). -/
def Fmt.nanCode (f : Fmt) : Nat :=
  match f.specials with
  | .none => 0
  | .nanOnly => 2 ^ (f.eb + f.mb) - 1
  | .ieee => (2 ^ f.eb - 1) <<< f.mb + 2 ^ (f.mb - 1)

/-- The code of an infinity. -/
def Fmt.infCode (f : Fmt) (neg : Bool) : Nat :=
  (2 ^ f.eb - 1) <<< f.mb + (if neg then 2 ^ (f.eb + f.mb) else 0)

/-- The code of sign and magnitude k × 2^q, with q the unit of k's binade and k at most 2^(mb+1). -/
def Fmt.pack (f : Fmt) (neg : Bool) (k : Nat) (q : Int) : Nat :=
  let (k, q) := if k = 2 ^ (f.mb + 1) then (2 ^ f.mb, q + 1) else (k, q)
  let body := if k < 2 ^ f.mb then k else ((q - f.unitExp + 1).toNat) <<< f.mb + (k - 2 ^ f.mb)
  body + (if neg then 2 ^ (f.eb + f.mb) else 0)

/-- How a conversion rounds: to nearest, ties to even, or stochastically with the 16-bit value r (R56, R57). -/
inductive Rounding where
  | nearest
  | stochastic (r : Nat)
  deriving DecidableEq, Repr

/-- floor(log2 (num / den)) for positive num and den. -/
def floorLog2 (num den : Nat) : Int :=
  let g : Int := (Nat.log2 num : Int) - (Nat.log2 den : Int)
  let ge := if g ≥ 0 then decide (den <<< g.toNat ≤ num) else decide (den ≤ num <<< (-g).toNat)
  if ge then g else g - 1

/-- An integer quotient rounded by the mode: `num / den` with den positive. -/
def roundQuot (mode : Rounding) (num den : Nat) : Nat :=
  let k := num / den
  let rem := num % den
  if rem = 0 then k
  else match mode with
    | .nearest => if 2 * rem > den ∨ (2 * rem = den ∧ k % 2 = 1) then k + 1 else k
    | .stochastic r => if r < rem * 65536 / den then k + 1 else k

/-- The magnitude num / den × 2^e rounded to a format's precision, its exponent range unbounded above (R58): a significand
and the exponent of its unit. -/
def roundMag (f : Fmt) (mode : Rounding) (num den : Nat) (e : Int) : Nat × Int :=
  if num = 0 then (0, f.unitExp)
  else
    let top := floorLog2 num den + e
    let q := if top - f.mb ≥ f.unitExp then top - f.mb else f.unitExp
    let sh := e - q
    (if sh ≥ 0 then roundQuot mode (num <<< sh.toNat) den else roundQuot mode num (den <<< (-sh).toNat), q)

/-- Whether the rounded magnitude k × 2^q is beyond the largest finite one (R58). -/
def Fmt.beyond (f : Fmt) (k : Nat) (q : Int) : Bool :=
  let (lm, le) := f.largest
  if q ≥ le then decide (k <<< (q - le).toNat > lm) else decide (k > lm <<< (le - q).toNat)

/-- Conversion of a magnitude num / den × 2^e with its sign, and whether it was beyond the largest (R56–R58). -/
def convertMag (f : Fmt) (mode : Rounding) (saturate : Bool) (neg : Bool) (num den : Nat) (e : Int) : Nat × Bool :=
  let (k, q) := roundMag f mode num den e
  if f.beyond k q then
    let (lm, le) := f.largest
    (if saturate ∨ f.specials = .none then f.pack neg lm le
     else if f.specials = .nanOnly then f.nanCode
     else f.infCode neg, true)
  else (f.pack neg k q, false)

/-! ### FP32 -/

/-- The value of an FP32 word. -/
def dec32 (w : W32) : Val := fmtFP32.decode w.toNat

/-- +0, 1.0 and the canonical NaN (R59), and the infinities. -/
def zero32 : W32 := 0
def one32 : W32 := 0x3F800000
def nan32 : W32 := 0x7FC00000
def inf32 (neg : Bool) : W32 := if neg then 0xFF800000 else 0x7F800000

/-- num / den × 2^e with its sign rounded to FP32, ties to even, an overflow giving an infinity (R89). -/
def rneQ (neg : Bool) (num den : Nat) (e : Int) : W32 :=
  BitVec.ofNat 32 (convertMag fmtFP32 .nearest false neg num den e).1

/-- rne32 of an exact value (R89). -/
def rne32 : Val → W32
  | .nan => nan32
  | .inf n => inf32 n
  | .fin n m e => rneQ n m 1 e

/-- The exact value of an integer. -/
def Val.ofInt (i : Int) : Val := .fin (decide (i < 0)) i.natAbs 0

/-- Whether a value is zero, of either sign. -/
def Val.isZero : Val → Bool
  | .fin _ m _ => m == 0
  | _ => false

/-- Whether a value is finite. -/
def Val.isFinite : Val → Bool
  | .fin .. => true
  | _ => false

/-- The opposite value. -/
def Val.neg : Val → Val
  | .nan => .nan
  | .inf n => .inf !n
  | .fin n m e => .fin (!n) m e

/-- The magnitude. -/
def Val.abs : Val → Val
  | .nan => .nan
  | .inf _ => .inf false
  | .fin _ m e => .fin false m e

/-- The signed significand of a finite value. -/
def signedSig (neg : Bool) (m : Nat) : Int := if neg then -(m : Int) else m

/-- The exact sum, with the special values and zero signs of IEEE 754-2019. -/
def Val.add : Val → Val → Val
  | .nan, _ => .nan
  | _, .nan => .nan
  | .inf a, .inf b => if a = b then .inf a else .nan
  | .inf a, _ => .inf a
  | _, .inf b => .inf b
  | .fin na ma ea, .fin nb mb eb =>
    let e := if ea ≤ eb then ea else eb
    let a := signedSig na (ma <<< (ea - e).toNat)
    let b := signedSig nb (mb <<< (eb - e).toNat)
    let s := a + b
    if s = 0 then .fin (na && nb) 0 e else .fin (decide (s < 0)) s.natAbs e

/-- The exact product. -/
def Val.mul : Val → Val → Val
  | .nan, _ => .nan
  | _, .nan => .nan
  | .inf a, .inf b => .inf (a != b)
  | .inf a, .fin n m _ => if m = 0 then .nan else .inf (a != n)
  | .fin n m _, .inf b => if m = 0 then .nan else .inf (n != b)
  | .fin na ma ea, .fin nb mb eb => .fin (na != nb) (ma * mb) (ea + eb)

/-- a < b; false where either is NaN. -/
def Val.lt : Val → Val → Bool
  | .nan, _ => false
  | _, .nan => false
  | .inf a, .inf b => a && !b
  | .inf a, .fin .. => a
  | .fin .., .inf b => !b
  | .fin na ma ea, .fin nb mb eb =>
    let e := if ea ≤ eb then ea else eb
    decide (signedSig na (ma <<< (ea - e).toNat) < signedSig nb (mb <<< (eb - e).toNat))

/-- FP32 addition. -/
def add32 (a b : W32) : W32 := rne32 ((dec32 a).add (dec32 b))
/-- FP32 subtraction. -/
def sub32 (a b : W32) : W32 := rne32 ((dec32 a).add (dec32 b).neg)
/-- FP32 multiplication. -/
def mul32 (a b : W32) : W32 := rne32 ((dec32 a).mul (dec32 b))
/-- FP32 fused multiply-add: a × b + c with one rounding. -/
def fma32 (a b c : W32) : W32 := rne32 (((dec32 a).mul (dec32 b)).add (dec32 c))
/-- FP32 negation; a NaN stays the canonical NaN (R59). -/
def neg32 (a : W32) : W32 := rne32 (dec32 a).neg
/-- FP32 magnitude. -/
def abs32 (a : W32) : W32 := rne32 (dec32 a).abs

/-- The quotient of two exact values rounded once to FP32, with the special values of IEEE 754-2019. -/
def divVal : Val → Val → W32
  | .nan, _ => nan32
  | _, .nan => nan32
  | .inf _, .inf _ => nan32
  | .inf a, .fin n _ _ => inf32 (a != n)
  | .fin n _ _, .inf b => rneQ (n != b) 0 1 0
  | .fin na ma ea, .fin nb mb eb =>
    if mb = 0 then (if ma = 0 then nan32 else inf32 (na != nb)) else rneQ (na != nb) ma mb (ea - eb)

/-- FP32 division. -/
def div32 (a b : W32) : W32 := divVal (dec32 a) (dec32 b)

/-- The integer square root by Newton's rule from above. -/
def isqrtLoop : Nat → Nat → Nat → Nat
  | 0, _, x => x
  | fuel + 1, n, x =>
    let y := (x + n / x) / 2
    if y < x then isqrtLoop fuel n y else x

/-- floor(sqrt n). -/
def isqrt (n : Nat) : Nat := if n = 0 then 0 else isqrtLoop (Nat.log2 n + 8) n (2 ^ (Nat.log2 n / 2 + 1))

/-- sqrt(num / den × 2^e) rounded once to FP32. The root is taken to at least 60 bits; an inexact one is put strictly
between its neighbours. -/
def sqrtQ (num den : Nat) (e : Int) : W32 :=
  if num = 0 then 0
  else
    let odd := e % 2 != 0
    let n0 := if odd then 2 * num else num
    let e0 := if odd then e - 1 else e
    let k := 64 + Nat.log2 den
    let t := (n0 <<< (2 * k)) / den
    let r := isqrt t
    let exact := r * r == t && (n0 <<< (2 * k)) % den == 0
    let h := e0 / 2 - k
    if exact then rneQ false r 1 h else rneQ false (2 * r + 1) 1 (h - 1)

/-- FP32 square root: of −0 it is −0, of any other negative value NaN. -/
def sqrt32 (a : W32) : W32 :=
  match dec32 a with
  | .nan => nan32
  | .inf n => if n then nan32 else inf32 false
  | .fin n m e => if m = 0 then a else if n then nan32 else sqrtQ m 1 e

/-- FP32 1 / √a (R179): of ±0 it is ±∞, of a negative value NaN. -/
def rsqrt32 (a : W32) : W32 :=
  match dec32 a with
  | .nan => nan32
  | .inf n => if n then nan32 else 0
  | .fin n m e => if m = 0 then inf32 n else if n then nan32 else sqrtQ 1 m (-e)

/-- The maximum under IEEE 754-2019 `maximum`: NaN if either is NaN, and +0 above −0. -/
def max32 (a b : W32) : W32 :=
  match dec32 a, dec32 b with
  | .nan, _ => nan32
  | _, .nan => nan32
  | va, vb => if va.lt vb then b else if vb.lt va then a else if a.msb then b else a

/-- The minimum under IEEE 754-2019 `minimum`. -/
def min32 (a b : W32) : W32 :=
  match dec32 a, dec32 b with
  | .nan, _ => nan32
  | _, .nan => nan32
  | va, vb => if va.lt vb then a else if vb.lt va then b else if a.msb then a else b

/-- rne32 of a natural number. -/
def nat32 (n : Nat) : W32 := rneQ false n 1 0

/-! ### Window formats (R43–R46) -/

/-- What an element code of a window format stands for. -/
inductive ElemKind where
  | float (f : Fmt)
  | int8
  | firstMoment
  | secondMoment
  | scaleByte
  deriving DecidableEq, Repr

/-- The format codes of R43; none for every other value, which is reserved. -/
def formatKind : Nat → Option ElemKind
  | 0x01 => some (.float fmtE2M1)
  | 0x02 => some (.float fmtE3M2)
  | 0x03 => some (.float fmtE2M3)
  | 0x04 => some (.float fmtE4M3)
  | 0x05 => some (.float fmtE5M2)
  | 0x06 => some (.float fmtE4M3)
  | 0x07 => some (.float fmtE5M2)
  | 0x08 => some (.float fmtBF16)
  | 0x09 => some (.float fmtFP16)
  | 0x0A => some (.float fmtFP32)
  | 0x0B => some .int8
  | 0x0C => some .firstMoment
  | 0x0D => some .secondMoment
  | 0x0E => some .scaleByte
  | _ => none

/-- Element bits of a format code (R43). -/
def formatBits (code : Nat) : Nat :=
  if code = 0x01 then 4 else if code = 0x02 ∨ code = 0x03 then 6
  else if code = 0x08 ∨ code = 0x09 then 16 else if code = 0x0A then 32 else 8

/-- Whether a format has an E8M0 scale per 32 elements. -/
def isMx (code : Nat) : Bool := 1 ≤ code && code ≤ 5

/-- The value of an element code without any scale; a raw scale byte e is 2^(e − 127), 0xFF a NaN (R45). KM8 codes have no value here
(R53, R178, R241). -/
def elemValue (code : Nat) (bits : Nat) : Val :=
  match formatKind code with
  | some (.float f) => f.decode bits
  | some .int8 => Val.ofInt (BitVec.ofNat 8 bits).toInt
  | some .scaleByte => if bits = 0xFF then .nan else .fin false 1 ((bits : Int) - 127)
  | _ => .nan

/-- A value times the E8M0 scale `sc` (R45): NaN for scale code 0xFF. -/
def scaleE8M0 (sc : Nat) (v : Val) : Val :=
  if sc = 0xFF then .nan
  else match v with
    | .fin n m e => .fin n m (e + sc - 127)
    | v => v

/-! ### Conversion into a window format (R56–R61) -/

/-- The random value of R57 for a seed and a linear index. -/
def stochasticR (seed : W32) (n : Nat) : Nat :=
  let h : W32 := seed ^^^ (BitVec.ofNat 32 n * 0x9E3779B9)
  let h := (h ^^^ (h >>> (16 : Nat))) * 0x85EBCA6B
  let h := (h ^^^ (h >>> (13 : Nat))) * 0xC2B2AE35
  let h := h ^^^ (h >>> (16 : Nat))
  h.toNat >>> 16

/-- A conversion control byte (R165) with its seed. -/
structure Conv where
  stochastic : Bool
  saturate : Bool
  seed : W32
  deriving DecidableEq, Repr

/-- The rounding of the element with linear index `n`. -/
def Conv.mode (c : Conv) (n : Nat) : Rounding := if c.stochastic then .stochastic (stochasticR c.seed n) else .nearest

/-- The outcome of one conversion: the code, whether it saturated, and whether a NaN was written (R62). -/
structure Coded where
  code : Nat
  saturated : Bool
  wroteNan : Bool
  deriving DecidableEq, Repr

/-- Conversion of x / s into a format without block scales (R56–R59, R61); s is the destination's per-tensor scale. What counts as a
saturation is the model's choice (log 44). -/
def convertPlain (fmt : Nat) (c : Conv) (n : Nat) (x s : W32) : Coded :=
  let q : Val ⊕ (Bool × Nat × Nat × Int) :=
    match dec32 x, dec32 s with
    | .nan, _ => .inl .nan
    | _, .nan => .inl .nan
    | .inf _, .inf _ => .inl .nan
    | .inf a, .fin b _ _ => .inl (.inf (a != b))
    | .fin a _ _, .inf b => .inr (a != b, 0, 1, 0)
    | .fin a m e, .fin b k f => if k = 0 then (if m = 0 then .inl .nan else .inl (.inf (a != b))) else .inr (a != b, m, k, e - f)
  match formatKind fmt with
  | some (.float f) =>
    match q with
    | .inl (.inf neg) =>
      if f.specials = .nanOnly then
        (if c.saturate then ⟨f.pack neg f.largest.1 f.largest.2, true, false⟩ else ⟨f.nanCode, true, true⟩)
      else ⟨f.infCode neg, false, false⟩
    | .inl _ => ⟨f.nanCode, false, true⟩
    | .inr (neg, num, den, e) =>
      let mode := if fmt = 0x0A then .nearest else c.mode n
      let (code, sat) := convertMag f mode c.saturate neg num den e
      ⟨code, sat, sat && !c.saturate && f.specials == .nanOnly⟩
  | some .int8 =>
    match q with
    | .inl (.inf neg) => ⟨if neg then 0x80 else 0x7F, true, false⟩
    | .inl _ => ⟨0, false, false⟩
    | .inr (neg, num, den, e) =>
      let k := if e ≥ 0 then roundQuot (c.mode n) (num <<< e.toNat) den else roundQuot (c.mode n) num (den <<< (-e).toNat)
      if neg then (if k > 128 then ⟨0x80, true, false⟩ else ⟨(256 - k) % 256, false, false⟩)
      else if k > 127 then ⟨0x7F, true, false⟩ else ⟨k, false, false⟩
  | _ => ⟨0, false, false⟩

/-- emax of an MX element format (R60 step 3). -/
def mxEmax (code : Nat) : Int :=
  match code with
  | 0x01 => 2 | 0x02 => 4 | 0x03 => 2 | 0x04 => 8 | _ => 15

/-- The element format of an MX code. -/
def mxFmt (code : Nat) : Fmt :=
  match code with
  | 0x01 => fmtE2M1 | 0x02 => fmtE3M2 | 0x03 => fmtE2M3 | 0x04 => fmtE4M3 | _ => fmtE5M2

/-- The larger of two finite magnitudes. -/
def maxMag (a b : Val) : Val := if a.lt b then b else a

/-- Conversion of one block of at most 32 exact values with linear indices to an MX format: the scale code and the elements (R60). What
counts as a saturation and as a NaN output, and the zeros of a block whose amax is 0, are the model's choice (log 44). -/
def convertBlock (code : Nat) (c : Conv) (xs : List (Nat × Val)) : Nat × List Coded :=
  let vs := xs.map Prod.snd
  if vs.any fun v => !v.isFinite then (0xFF, xs.map fun _ => ⟨0, false, true⟩)
  else
    match vs.foldl (fun a v => maxMag a v.abs) (.fin false 0 0) with
    | .fin _ m e =>
      if m = 0 then (0, xs.map fun _ => ⟨0, false, false⟩)
      else
        let x0 := floorLog2 m 1 + e - mxEmax code
        let x := if x0 < -127 then -127 else if x0 > 127 then 127 else x0
        let f := mxFmt code
        ((x + 127).toNat, xs.map fun p =>
          match p.2 with
          | .fin n k g =>
            let (cd, sat) := convertMag f (c.mode p.1) c.saturate n k 1 (g - x)
            ⟨cd, sat, sat && !c.saturate && f.specials == .nanOnly⟩
          | _ => ⟨0, false, true⟩)
    | _ => (0xFF, xs.map fun _ => ⟨0, false, true⟩)

end Sys2Proof.Machine
end

