-- ==== Sys2Proof/Machine/Elementary.lean ====
section
/-!
DEFINITION. The correctly rounded elementary functions of the epilogue, the landing class and the selvedge (R101, R178,
R365). Each is evaluated to more than 400 significant bits with integers and rounded once; a value that agrees with a
short dyadic number to 200 bits is that number (`snap`), which covers every exact case (log 15).
-/
namespace Sys2Proof.Machine

/-- The fixed-point precision, in bits after the point. -/
def fixBits : Nat := 640

/-- An approximation m × 2^e of a real number. -/
structure Apx where
  m : Int
  e : Int
  deriving DecidableEq, Repr

/-- An approximation that agrees with a dyadic number of 40 bits to 200 bits is that number. -/
def Apx.snap (a : Apx) : Apx :=
  let n := a.m.natAbs
  let l := Nat.log2 n
  if n = 0 ∨ l < 240 then a
  else
    let s := l - 40
    let k := (n + 2 ^ (s - 1)) >>> s
    let d := if k <<< s ≥ n then k <<< s - n else n - k <<< s
    if d < 2 ^ (l - 200) then ⟨if a.m < 0 then -(k : Int) else k, a.e + s⟩ else a

/-- rne32 of an approximation; `neg0` is the sign of a zero. -/
def Apx.round (a : Apx) (neg0 : Bool) : W32 :=
  let b := a.snap
  if b.m = 0 then rneQ neg0 0 1 0 else rneQ (decide (b.m < 0)) b.m.natAbs 1 b.e

/-- The product. -/
def Apx.mul (a b : Apx) : Apx := ⟨a.m * b.m, a.e + b.e⟩

/-- The sum. -/
def Apx.add (a b : Apx) : Apx :=
  let e := if a.e ≤ b.e then a.e else b.e
  ⟨a.m * 2 ^ (a.e - e).toNat + b.m * 2 ^ (b.e - e).toNat, e⟩

/-- The quotient to 640 bits more than the divisor has. -/
def Apx.div (a b : Apx) : Apx :=
  let s := fixBits + Nat.log2 b.m.natAbs
  ⟨(a.m * 2 ^ s) / b.m, a.e - b.e - s⟩

/-- An approximation cut to a manageable length. -/
def Apx.trim (a : Apx) : Apx :=
  let l := Nat.log2 a.m.natAbs
  if l > 2 * fixBits then ⟨a.m / 2 ^ (l - 2 * fixBits), a.e + (l - 2 * fixBits : Nat)⟩ else a

/-- A finite value as an approximation. -/
def Apx.ofVal : Val → Apx
  | .fin n m e => ⟨signedSig n m, e⟩
  | _ => ⟨0, 0⟩

/-- The fixed-point number of an approximation, rounded down. -/
def Apx.toFix (a : Apx) : Int :=
  let s := a.e + fixBits
  if s ≥ 0 then a.m * 2 ^ s.toNat else a.m / 2 ^ (-s).toNat

/-- Product of two fixed-point numbers. -/
def fixMul (a b : Int) : Int := a * b / 2 ^ fixBits

/-- The sum of t^(2i+1)/(2i+1) from i = `i`, for a power `p` of t and t² (`t2`). -/
def atanhSum : Nat → Nat → Int → Int → Int
  | 0, _, _, _ => 0
  | fuel + 1, i, p, t2 => p / (2 * i + 1 : Nat) + atanhSum fuel (i + 1) (fixMul p t2) t2

/-- artanh of a fixed-point number of magnitude at most 1/3. -/
def fixAtanh (t : Int) : Int := atanhSum 220 0 t (fixMul t t)

/-- arctan(1/n) by its alternating series. -/
def arctanInv : Nat → Nat → Int → Nat → Int
  | 0, _, _, _ => 0
  | fuel + 1, i, p, n => p / (2 * i + 1 : Nat) - arctanInv fuel (i + 1) (p / (n * n : Nat)) n

/-- ln 2. -/
def fixLn2 : Int := 2 * fixAtanh (2 ^ fixBits / 3)

/-- π by Machin's formula. -/
def fixPi : Int := 16 * arctanInv 150 0 (2 ^ fixBits / 5) 5 - 4 * arctanInv 50 0 (2 ^ fixBits / 239) 239

/-- The Taylor sum of e^r from term `p` = r^i / i! on. -/
def expSum : Nat → Nat → Int → Int → Int
  | 0, _, _, _ => 0
  | fuel + 1, i, p, r => p + expSum fuel (i + 1) (fixMul p r / (i + 1 : Nat)) r

/-- e^x of a fixed-point number of magnitude below 2^12, as an approximation. -/
def expFix (x : Int) : Apx :=
  let k := (2 * x + fixLn2) / (2 * fixLn2)
  ⟨expSum 110 0 (2 ^ fixBits) (x - k * fixLn2), k - fixBits⟩

/-- ln of m × 2^e with m positive, as a fixed-point number. -/
def lnFix (m : Nat) (e : Int) : Int :=
  let l := Nat.log2 m
  let y : Int := ((m : Int) * 2 ^ (fixBits + 1)) / 2 ^ (l + 1)
  let (y, l) := if y > 2 ^ fixBits * 3 / 2 then (y / 2, l + 1) else (y, l)
  let t := ((y - 2 ^ fixBits) * 2 ^ fixBits) / (y + 2 ^ fixBits)
  2 * fixAtanh t + (e + l) * fixLn2

/-- e^a (R178, R365). -/
def exp32 (a : W32) : W32 :=
  match dec32 a with
  | .nan => nan32
  | .inf n => if n then 0 else inf32 false
  | .fin n m e =>
    if m = 0 then one32
    else if floorLog2 m 1 + e ≥ 8 then (if n then 0 else inf32 false)
    else (expFix (Apx.ofVal (.fin n m e)).toFix).round false

/-- ln a: of ±0 it is −∞, of a negative value NaN. -/
def ln32 (a : W32) : W32 :=
  match dec32 a with
  | .nan => nan32
  | .inf n => if n then nan32 else inf32 false
  | .fin n m e =>
    if m = 0 then inf32 true
    else if n then nan32
    else if a = one32 then 0
    else (Apx.mk (lnFix m e) (-(fixBits : Int))).round false

/-- Whether a finite value is an integer, and whether it is an odd one. -/
def Val.intParity : Val → Option Bool
  | .fin _ m e =>
    if m = 0 then some false
    else if e ≥ 0 then some (e = 0 ∧ m % 2 = 1)
    else if m % 2 ^ (-e).toNat = 0 then some ((m >>> (-e).toNat) % 2 = 1) else none
  | _ => none

/-- Whether a magnitude m × 2^e is 1. -/
def magIsOne (m : Nat) (e : Int) : Bool := if e > 0 then false else m == 2 ^ (-e).toNat

/-- a^b for exact values, with the special values of the IEEE 754-2019 `pow`. -/
def powVal (a b : Val) : W32 :=
  if b.isZero then one32
  else match a, b with
    | .fin false m e, .nan => if magIsOne m e then one32 else nan32
    | .nan, _ => nan32
    | _, .nan => nan32
    | .inf _, .inf nb => if nb then 0 else inf32 false
    | .inf na, .fin nb m e =>
      let odd := (Val.fin nb m e).intParity == some true
      if nb then rneQ (na && odd) 0 1 0 else inf32 (na && odd)
    | .fin _ m e, .inf nb =>
      if m = 0 then (if nb then inf32 false else 0)
      else
        if magIsOne m e then one32
        else if decide (floorLog2 m 1 + e ≥ 0) != nb then inf32 false else 0
    | .fin na m e, .fin nb k f =>
      let par := (Val.fin nb k f).intParity
      let odd := par == some true
      if m = 0 then (if nb then inf32 (na && odd) else rneQ (na && odd) 0 1 0)
      else if na ∧ par = none then nan32
      else
        let ln := lnFix m e
        let x := (Apx.mk (signedSig nb k) f).mul ⟨ln, -(fixBits : Int)⟩
        let neg := na && odd
        if ln = 0 then (if neg then 0xBF800000 else one32)
        else if floorLog2 x.m.natAbs 1 + x.e ≥ 8 then (if x.m < 0 then rneQ neg 0 1 0 else inf32 neg)
        else
          let y := expFix x.toFix
          (if neg then Apx.mk (-y.m) y.e else y).round neg

/-- POW of two FP32 words (R365). -/
def pow32 (a b : W32) : W32 := powVal (dec32 a) (dec32 b)

/-! ### Activations (R101) -/

/-- 1.0 as an approximation. -/
def apxOne : Apx := ⟨1, 0⟩

/-- √(2/π) as an approximation. -/
def sqrt2OverPi : Apx := ⟨isqrt ((2 ^ (fixBits + 1) * 2 ^ (2 * fixBits) / fixPi).toNat), -(fixBits : Int)⟩

/-- The argument u = √(2/π)(y + 0.044715 y³) of the tanh form of GELU. -/
def geluArg (y : Apx) : Apx :=
  let y3 := (y.mul y).mul y
  let inner := (y.mul ⟨1000000, 0⟩).add (y3.mul ⟨44715, 0⟩)
  ((sqrt2OverPi.mul inner).trim).div ⟨1000000, 0⟩

/-- 1 / (1 + e^(−x)). -/
def logistic (x : Apx) : Apx := apxOne.div (apxOne.add (expFix (-(x.toFix)))).trim

/-- The sum of 2^n z^(2n+1) / (2n+1)!! from term `p` on, with z² = `z2`. -/
def erfSum : Nat → Nat → Int → Int → Int
  | 0, _, _, _ => 0
  | fuel + 1, n, p, z2 => p + erfSum fuel (n + 1) (fixMul p (2 * z2) / (2 * n + 3 : Nat)) z2

/-- The normal density factor e^(−y²/2) / √(2π). -/
def normalDensity (y : Apx) : Apx :=
  let y2 := (y.mul y).mul ⟨1, -1⟩
  let root := isqrt ((2 * fixPi * 2 ^ fixBits).toNat)
  (expFix (-(y2.toFix))).div ⟨root, -(fixBits : Int)⟩

/-- 0.5 (1 + erf(y/√2)) for |y| below 32: ½ + φ(y) Σ y^(2n+1)/(2n+1)!!. -/
def normalCdf (y : Apx) : Apx :=
  let z2 := ((y.mul y).mul ⟨1, -1⟩).toFix
  let series := erfSum 2400 0 y.toFix z2
  (Apx.mk 1 (-1)).add ((normalDensity y).mul ⟨series, -(fixBits : Int)⟩)

/-- The factor S with GELU or SiLU f(y) = y × S, for codes 2 to 4. -/
def gateFactor (code : Nat) (y : Apx) : Apx :=
  match code with
  | 2 => logistic ((geluArg y).mul ⟨2, 0⟩)
  | 3 => normalCdf y
  | _ => logistic y

/-- From magnitude 2^this on, the gate of a code is 0 or 1 to more than FP32 can show, for any FP32 factor. -/
def gateLimit (code : Nat) : Int := if code = 4 then 9 else 5

/-- The activation `code` of an FP32 word (R101). -/
def activation (code : Nat) (y : W32) : W32 :=
  match code, dec32 y with
  | 0, _ => y
  | _, .nan => nan32
  | _, .inf n => if n then 0 else inf32 false
  | 1, .fin n _ _ => if n then 0 else y
  | 5, .fin n m e => if n then 0 else rneQ false (m * m) 1 (e + e)
  | c, .fin n m e =>
    if m = 0 then y
    else if floorLog2 m 1 + e ≥ gateLimit c then (if n then rneQ true 0 1 0 else y)
    else
      let a := Apx.ofVal (.fin n m e)
      (a.mul (gateFactor c a)).trim.round n

/-- f′(y) of activation codes 2 to 4, for |y| below the gate limit. -/
def gateDeriv (code : Nat) (y : Apx) : Apx :=
  match code with
  | 3 => (normalCdf y).add (y.mul (normalDensity y))
  | 2 =>
    let s := gateFactor 2 y
    let one_s := apxOne.add ⟨-s.m, s.e⟩
    let u' := ((sqrt2OverPi.mul (Apx.add ⟨1000000, 0⟩ ((y.mul y).mul ⟨3 * 44715, 0⟩))).trim).div ⟨1000000, 0⟩
    s.add (((y.mul s).mul one_s).mul (u'.mul ⟨2, 0⟩))
  | _ =>
    let s := logistic y
    let one_s := apxOne.add ⟨-s.m, s.e⟩
    s.add ((y.mul s).mul one_s)

/-- rne32 of b × f′(a) with one rounding (R178, R179): f is activation `code`. The manual states no f′(±∞) for codes 2 to
4: that result is free (log 11). -/
def activationGrad (code : Nat) (a b : W32) : W32 :=
  match dec32 a with
  | .nan => nan32
  | .inf n =>
    if code = 1 then (if n then mul32 b 0 else mul32 b one32)
    else if code = 5 then (if n then mul32 b 0 else mul32 b (inf32 false))
    else Config.openResult (16 + code) a b
  | .fin n m e =>
    match code with
    | 1 => if n || m == 0 then mul32 b 0 else mul32 b one32
    | 5 => if n then mul32 b 0 else rne32 ((dec32 b).mul (.fin false (2 * m) e))
    | c =>
      match dec32 b with
      | .nan => nan32
      | .inf nb => if m = 0 then inf32 nb else
          let d := if floorLog2 m 1 + e ≥ gateLimit c then (if n then Apx.mk (-1) 0 else apxOne)
            else gateDeriv c (Apx.ofVal (.fin n m e))
          inf32 (nb != decide (d.m < 0))
      | .fin nb mb eb =>
        if floorLog2 m 1 + e ≥ gateLimit c ∧ m ≠ 0 then (if n then rneQ (!nb) 0 1 0 else b)
        else
          let d := gateDeriv c (Apx.ofVal (.fin n m e))
          (d.mul (Apx.ofVal (.fin nb mb eb))).trim.round (nb != decide (d.m < 0))

end Sys2Proof.Machine
end

