-- ==== Sys2Proof/Machine/Crypto.lean ====
section
/-!
DEFINITION. The cryptographic functions the specification names and does not spell out: AES-256 (FIPS 197), the AES key wrap
of the key store (RFC 3394), AES-256-GCM (SP 800-38D), AES-256-XTS (IEEE 1619), SHA-384 (FIPS 180-4), HMAC and
the counter-mode KDF of SP 800-108r1 (R314–R319). PRESUMED: the algorithms are those standards' (log 14).
-/
namespace Sys2Proof.Machine

/-! ### AES-256 -/

/-- A byte looked up in a table of sixteen rows. -/
def aesLook (t : List (List Byte)) (b : Byte) : Byte := (t.getD (b.toNat / 16) []).getD (b.toNat % 16) 0

/-- The substitution table of AES, a row for each high digit. -/
def aesSbox : List (List Byte) :=
  [[0x63, 0x7C, 0x77, 0x7B, 0xF2, 0x6B, 0x6F, 0xC5, 0x30, 0x01, 0x67, 0x2B, 0xFE, 0xD7, 0xAB, 0x76],
   [0xCA, 0x82, 0xC9, 0x7D, 0xFA, 0x59, 0x47, 0xF0, 0xAD, 0xD4, 0xA2, 0xAF, 0x9C, 0xA4, 0x72, 0xC0],
   [0xB7, 0xFD, 0x93, 0x26, 0x36, 0x3F, 0xF7, 0xCC, 0x34, 0xA5, 0xE5, 0xF1, 0x71, 0xD8, 0x31, 0x15],
   [0x04, 0xC7, 0x23, 0xC3, 0x18, 0x96, 0x05, 0x9A, 0x07, 0x12, 0x80, 0xE2, 0xEB, 0x27, 0xB2, 0x75],
   [0x09, 0x83, 0x2C, 0x1A, 0x1B, 0x6E, 0x5A, 0xA0, 0x52, 0x3B, 0xD6, 0xB3, 0x29, 0xE3, 0x2F, 0x84],
   [0x53, 0xD1, 0x00, 0xED, 0x20, 0xFC, 0xB1, 0x5B, 0x6A, 0xCB, 0xBE, 0x39, 0x4A, 0x4C, 0x58, 0xCF],
   [0xD0, 0xEF, 0xAA, 0xFB, 0x43, 0x4D, 0x33, 0x85, 0x45, 0xF9, 0x02, 0x7F, 0x50, 0x3C, 0x9F, 0xA8],
   [0x51, 0xA3, 0x40, 0x8F, 0x92, 0x9D, 0x38, 0xF5, 0xBC, 0xB6, 0xDA, 0x21, 0x10, 0xFF, 0xF3, 0xD2],
   [0xCD, 0x0C, 0x13, 0xEC, 0x5F, 0x97, 0x44, 0x17, 0xC4, 0xA7, 0x7E, 0x3D, 0x64, 0x5D, 0x19, 0x73],
   [0x60, 0x81, 0x4F, 0xDC, 0x22, 0x2A, 0x90, 0x88, 0x46, 0xEE, 0xB8, 0x14, 0xDE, 0x5E, 0x0B, 0xDB],
   [0xE0, 0x32, 0x3A, 0x0A, 0x49, 0x06, 0x24, 0x5C, 0xC2, 0xD3, 0xAC, 0x62, 0x91, 0x95, 0xE4, 0x79],
   [0xE7, 0xC8, 0x37, 0x6D, 0x8D, 0xD5, 0x4E, 0xA9, 0x6C, 0x56, 0xF4, 0xEA, 0x65, 0x7A, 0xAE, 0x08],
   [0xBA, 0x78, 0x25, 0x2E, 0x1C, 0xA6, 0xB4, 0xC6, 0xE8, 0xDD, 0x74, 0x1F, 0x4B, 0xBD, 0x8B, 0x8A],
   [0x70, 0x3E, 0xB5, 0x66, 0x48, 0x03, 0xF6, 0x0E, 0x61, 0x35, 0x57, 0xB9, 0x86, 0xC1, 0x1D, 0x9E],
   [0xE1, 0xF8, 0x98, 0x11, 0x69, 0xD9, 0x8E, 0x94, 0x9B, 0x1E, 0x87, 0xE9, 0xCE, 0x55, 0x28, 0xDF],
   [0x8C, 0xA1, 0x89, 0x0D, 0xBF, 0xE6, 0x42, 0x68, 0x41, 0x99, 0x2D, 0x0F, 0xB0, 0x54, 0xBB, 0x16]]

/-- One byte through the substitution table. -/
def aesSub (b : Byte) : Byte := aesLook aesSbox b

/-- The inverse substitution table. -/
def aesInvSbox : List (List Byte) :=
  [[0x52, 0x09, 0x6A, 0xD5, 0x30, 0x36, 0xA5, 0x38, 0xBF, 0x40, 0xA3, 0x9E, 0x81, 0xF3, 0xD7, 0xFB],
   [0x7C, 0xE3, 0x39, 0x82, 0x9B, 0x2F, 0xFF, 0x87, 0x34, 0x8E, 0x43, 0x44, 0xC4, 0xDE, 0xE9, 0xCB],
   [0x54, 0x7B, 0x94, 0x32, 0xA6, 0xC2, 0x23, 0x3D, 0xEE, 0x4C, 0x95, 0x0B, 0x42, 0xFA, 0xC3, 0x4E],
   [0x08, 0x2E, 0xA1, 0x66, 0x28, 0xD9, 0x24, 0xB2, 0x76, 0x5B, 0xA2, 0x49, 0x6D, 0x8B, 0xD1, 0x25],
   [0x72, 0xF8, 0xF6, 0x64, 0x86, 0x68, 0x98, 0x16, 0xD4, 0xA4, 0x5C, 0xCC, 0x5D, 0x65, 0xB6, 0x92],
   [0x6C, 0x70, 0x48, 0x50, 0xFD, 0xED, 0xB9, 0xDA, 0x5E, 0x15, 0x46, 0x57, 0xA7, 0x8D, 0x9D, 0x84],
   [0x90, 0xD8, 0xAB, 0x00, 0x8C, 0xBC, 0xD3, 0x0A, 0xF7, 0xE4, 0x58, 0x05, 0xB8, 0xB3, 0x45, 0x06],
   [0xD0, 0x2C, 0x1E, 0x8F, 0xCA, 0x3F, 0x0F, 0x02, 0xC1, 0xAF, 0xBD, 0x03, 0x01, 0x13, 0x8A, 0x6B],
   [0x3A, 0x91, 0x11, 0x41, 0x4F, 0x67, 0xDC, 0xEA, 0x97, 0xF2, 0xCF, 0xCE, 0xF0, 0xB4, 0xE6, 0x73],
   [0x96, 0xAC, 0x74, 0x22, 0xE7, 0xAD, 0x35, 0x85, 0xE2, 0xF9, 0x37, 0xE8, 0x1C, 0x75, 0xDF, 0x6E],
   [0x47, 0xF1, 0x1A, 0x71, 0x1D, 0x29, 0xC5, 0x89, 0x6F, 0xB7, 0x62, 0x0E, 0xAA, 0x18, 0xBE, 0x1B],
   [0xFC, 0x56, 0x3E, 0x4B, 0xC6, 0xD2, 0x79, 0x20, 0x9A, 0xDB, 0xC0, 0xFE, 0x78, 0xCD, 0x5A, 0xF4],
   [0x1F, 0xDD, 0xA8, 0x33, 0x88, 0x07, 0xC7, 0x31, 0xB1, 0x12, 0x10, 0x59, 0x27, 0x80, 0xEC, 0x5F],
   [0x60, 0x51, 0x7F, 0xA9, 0x19, 0xB5, 0x4A, 0x0D, 0x2D, 0xE5, 0x7A, 0x9F, 0x93, 0xC9, 0x9C, 0xEF],
   [0xA0, 0xE0, 0x3B, 0x4D, 0xAE, 0x2A, 0xF5, 0xB0, 0xC8, 0xEB, 0xBB, 0x3C, 0x83, 0x53, 0x99, 0x61],
   [0x17, 0x2B, 0x04, 0x7E, 0xBA, 0x77, 0xD6, 0x26, 0xE1, 0x69, 0x14, 0x63, 0x55, 0x21, 0x0C, 0x7D]]

/-- One byte through the inverse substitution table. -/
def aesInvSub (b : Byte) : Byte := aesLook aesInvSbox b

/-- Doubling in the AES field. -/
def aesXtime (b : Byte) : Byte := (b <<< 1) ^^^ (if b.msb then 0x1B else 0)

/-- Multiplication in the AES field by a constant below 16: the product of the polynomials, reduced by x^8 + x^4 + x^3 + x + 1. -/
def aesMul (k : Nat) (b : Byte) : Byte :=
  let n := b.toNat
  let m := n * (k % 2) ^^^ 2 * n * (k / 2 % 2) ^^^ 4 * n * (k / 4 % 2) ^^^ 8 * n * (k / 8 % 2)
  let m := m ^^^ m / 1024 * 0x46C
  let m := m ^^^ m / 512 * 0x236
  BitVec.ofNat 8 (m ^^^ m / 256 * 0x11B)

/-- The bytewise exclusive or of two byte strings. -/
def xorBytes (a b : List Byte) : List Byte := List.zipWith (· ^^^ ·) a b

/-- The big-endian bytes of a number. -/
def beBytes (n v : Nat) : List Byte := (List.range n).map fun i => BitVec.ofNat 8 (v >>> (8 * (n - 1 - i)))

/-- The number a byte string spells, most significant byte first. -/
def beNat (bs : List Byte) : Nat := bs.foldl (fun acc b => acc * 256 + b.toNat) 0

/-- A list cut into pieces of `n`, at most `fuel` of them. -/
def chunksOf {α : Type} (n : Nat) : Nat → List α → List (List α)
  | 0, _ => []
  | _, [] => []
  | fuel + 1, xs => xs.take n :: chunksOf n fuel (xs.drop n)

/-- One more word of the AES-256 key schedule; `ws` holds the words so far, latest first. -/
def aesNextWord (ws : List (List Byte)) : List Byte :=
  let i := ws.length
  let prev := ws.headD []
  let back := ws.getD 7 []
  let t :=
    if i % 8 == 0 then
      let rc : Byte := (List.range (i / 8 - 1)).foldl (fun a _ => aesXtime a) 1
      xorBytes ((prev.drop 1 ++ prev.take 1).map aesSub) [rc, 0, 0, 0]
    else if i % 8 == 4 then prev.map aesSub
    else prev
  xorBytes back t

/-- The fifteen round keys of a 32-byte key. -/
def aesRoundKeys (key : List Byte) : List (List Byte) :=
  let first := (chunksOf 4 8 key).reverse
  let ws := (List.range 52).foldl (fun ws _ => aesNextWord ws :: ws) first
  chunksOf 16 15 (ws.reverse.flatten)

/-- Row rotation: output byte i comes from input byte `perm i` (column-major). -/
def aesShift (step : Nat) (st : List Byte) : List Byte :=
  (List.range 16).map fun i => st.getD ((i + step * (i % 4)) % 16) 0

/-- One column times the circulant matrix of `ks`. -/
def aesMixColumn (ks : List Nat) (c : List Byte) : List Byte :=
  (List.range 4).map fun r =>
    (List.range 4).foldl (fun acc j => acc ^^^ aesMul (ks.getD ((j + 4 - r) % 4) 0) (c.getD j 0)) 0

/-- The column mix of a whole block. -/
def aesMix (ks : List Nat) (st : List Byte) : List Byte := ((chunksOf 4 4 st).map (aesMixColumn ks)).flatten

/-- AES encryption of one 16-byte block under round keys. -/
def aesEncrypt (rks : List (List Byte)) (block : List Byte) : List Byte :=
  let st := xorBytes block (rks.headD [])
  let st := ((rks.drop 1).take 13).foldl
    (fun st rk => xorBytes (aesMix [2, 3, 1, 1] (aesShift 4 (st.map aesSub))) rk) st
  xorBytes (aesShift 4 (st.map aesSub)) (rks.getD 14 [])

/-- AES decryption of one 16-byte block under round keys. -/
def aesDecrypt (rks : List (List Byte)) (block : List Byte) : List Byte :=
  let st := xorBytes block (rks.getD 14 [])
  let st := ((rks.drop 1).take 13).reverse.foldl
    (fun st rk => aesMix [14, 11, 13, 9] (xorBytes ((aesShift 12 st).map aesInvSub) rk)) st
  xorBytes ((aesShift 12 st).map aesInvSub) (rks.headD [])

/-! ### Key wrap of the key store (R314) -/

/-- AES key wrap of a 32-byte key under a 32-byte key. -/
def keyWrap (kek key : List Byte) : List Byte :=
  let rks := aesRoundKeys kek
  let start : List Byte × List (List Byte) := (List.replicate 8 0xA6, chunksOf 8 4 key)
  let stepW := fun (ar : List Byte × List (List Byte)) (t : Nat) =>
    let i := (t - 1) % 4
    let b := aesEncrypt rks (ar.1 ++ ar.2.getD i [])
    (xorBytes (b.take 8) (beBytes 8 t), ar.2.set i (b.drop 8))
  let r := ((List.range 24).map (· + 1)).foldl stepW start
  r.1 ++ r.2.flatten

/-- The unwrapped key, or none where the integrity check value is wrong. -/
def keyUnwrap (kek wrapped : List Byte) : Option (List Byte) :=
  let rks := aesRoundKeys kek
  let start : List Byte × List (List Byte) := (wrapped.take 8, chunksOf 8 4 (wrapped.drop 8))
  let stepU := fun (ar : List Byte × List (List Byte)) (t : Nat) =>
    let i := (t - 1) % 4
    let b := aesDecrypt rks (xorBytes ar.1 (beBytes 8 t) ++ ar.2.getD i [])
    (b.take 8, ar.2.set i (b.drop 8))
  let r := (((List.range 24).map (· + 1)).reverse).foldl stepU start
  if r.1 == List.replicate 8 0xA6 then some r.2.flatten else none

/-! ### AES-256-XTS on a 64-byte data unit (R317) -/

/-- The next XTS tweak: multiplication by the field's generator, little-endian. -/
def xtsNext (t : List Byte) : List Byte :=
  let carries : List Byte := 0 :: (t.take 15).map (fun b : Byte => b >>> (7 : Nat))
  let sh : List Byte := List.zipWith (fun (b c : Byte) => (b <<< (1 : Nat)) ||| c) t carries
  if (t.getLastD 0).msb then xorBytes sh (0x87 :: List.replicate 15 0) else sh

/-- The four tweaks of a data unit at `tweak`. -/
def xtsTweaks (key2 : List Byte) (tweak : Nat) : List (List Byte) :=
  let t0 := aesEncrypt (aesRoundKeys key2) ((beBytes 16 tweak).reverse)
  let t1 := xtsNext t0
  let t2 := xtsNext t1
  [t0, t1, t2, xtsNext t2]

/-- Encryption of a 64-byte unit; `keys` are the two 32-byte keys in a row. -/
def xtsEncrypt (keys : List Byte) (tweak : Nat) (unit : List Byte) : List Byte :=
  let rks := aesRoundKeys (keys.take 32)
  (List.zipWith (fun t b => xorBytes (aesEncrypt rks (xorBytes b t)) t)
    (xtsTweaks (keys.drop 32) tweak) (chunksOf 16 4 unit)).flatten

/-- Decryption of a 64-byte unit. -/
def xtsDecrypt (keys : List Byte) (tweak : Nat) (unit : List Byte) : List Byte :=
  let rks := aesRoundKeys (keys.take 32)
  (List.zipWith (fun t b => xorBytes (aesDecrypt rks (xorBytes b t)) t)
    (xtsTweaks (keys.drop 32) tweak) (chunksOf 16 4 unit)).flatten

/-! ### AES-256-GCM with a 96-bit IV (R318, R319) -/

/-- Multiplication in the GCM field. -/
def gcmMul (x y : BitVec 128) : BitVec 128 :=
  let stepG := fun (zv : BitVec 128 × BitVec 128) (i : Nat) =>
    let z := if x.getLsbD (127 - i) then zv.1 ^^^ zv.2 else zv.1
    let v := if zv.2.getLsbD 0 then (zv.2 >>> 1) ^^^ (0xE1#128 <<< 120) else zv.2 >>> 1
    (z, v)
  ((List.range 128).foldl stepG (0, y)).1

/-- A byte string filled up with zeros to whole 16-byte blocks, as blocks. -/
def gcmBlocks (bs : List Byte) : List (List Byte) :=
  (chunksOf 16 (bs.length / 16 + 1) bs).map fun b => b ++ List.replicate (16 - b.length) 0

/-- The GHASH of additional data and ciphertext. -/
def gcmHash (h : BitVec 128) (aad cipher : List Byte) : BitVec 128 :=
  let blocks := gcmBlocks aad ++ gcmBlocks cipher ++ [beBytes 8 (8 * aad.length) ++ beBytes 8 (8 * cipher.length)]
  blocks.foldl (fun y b => gcmMul (y ^^^ BitVec.ofNat 128 (beNat b)) h) 0

/-- The counter-mode key stream over a byte string, from counter value 2 on. -/
def gcmStream (rks : List (List Byte)) (iv data : List Byte) : List Byte :=
  let ks := (List.range (data.length / 16 + 1)).map fun i => aesEncrypt rks (iv ++ beBytes 4 (i + 2))
  xorBytes data ks.flatten

/-- The 16-byte tag of a ciphertext. -/
def gcmTag (rks : List (List Byte)) (iv aad cipher : List Byte) : List Byte :=
  let h := BitVec.ofNat 128 (beNat (aesEncrypt rks (List.replicate 16 0)))
  xorBytes (beBytes 16 (gcmHash h aad cipher).toNat) (aesEncrypt rks (iv ++ beBytes 4 1))

/-- A sealed chunk: the ciphertext and then its tag. -/
def gcmSeal (key iv aad plain : List Byte) : List Byte :=
  let rks := aesRoundKeys key
  let c := gcmStream rks iv plain
  c ++ gcmTag rks iv aad c

/-- The plaintext of a sealed chunk, or none where its tag is wrong. -/
def gcmOpen (key iv aad chunk : List Byte) : Option (List Byte) :=
  let rks := aesRoundKeys key
  let c := chunk.take (chunk.length - 16)
  if chunk.length < 16 then none
  else if gcmTag rks iv aad c == chunk.drop (chunk.length - 16) then some (gcmStream rks iv c) else none

/-! ### SHA-384, HMAC and the KDF (R316) -/

/-- The round constants of SHA-384. -/
def shaK : List W64 :=
  [0x428A2F98D728AE22, 0x7137449123EF65CD, 0xB5C0FBCFEC4D3B2F, 0xE9B5DBA58189DBBC, 0x3956C25BF348B538, 0x59F111F1B605D019, 0x923F82A4AF194F9B, 0xAB1C5ED5DA6D8118] ++
  [0xD807AA98A3030242, 0x12835B0145706FBE, 0x243185BE4EE4B28C, 0x550C7DC3D5FFB4E2, 0x72BE5D74F27B896F, 0x80DEB1FE3B1696B1, 0x9BDC06A725C71235, 0xC19BF174CF692694] ++
  [0xE49B69C19EF14AD2, 0xEFBE4786384F25E3, 0x0FC19DC68B8CD5B5, 0x240CA1CC77AC9C65, 0x2DE92C6F592B0275, 0x4A7484AA6EA6E483, 0x5CB0A9DCBD41FBD4, 0x76F988DA831153B5] ++
  [0x983E5152EE66DFAB, 0xA831C66D2DB43210, 0xB00327C898FB213F, 0xBF597FC7BEEF0EE4, 0xC6E00BF33DA88FC2, 0xD5A79147930AA725, 0x06CA6351E003826F, 0x142929670A0E6E70] ++
  [0x27B70A8546D22FFC, 0x2E1B21385C26C926, 0x4D2C6DFC5AC42AED, 0x53380D139D95B3DF, 0x650A73548BAF63DE, 0x766A0ABB3C77B2A8, 0x81C2C92E47EDAEE6, 0x92722C851482353B] ++
  [0xA2BFE8A14CF10364, 0xA81A664BBC423001, 0xC24B8B70D0F89791, 0xC76C51A30654BE30, 0xD192E819D6EF5218, 0xD69906245565A910, 0xF40E35855771202A, 0x106AA07032BBD1B8] ++
  [0x19A4C116B8D2D0C8, 0x1E376C085141AB53, 0x2748774CDF8EEB99, 0x34B0BCB5E19B48A8, 0x391C0CB3C5C95A63, 0x4ED8AA4AE3418ACB, 0x5B9CCA4F7763E373, 0x682E6FF3D6B2B8A3] ++
  [0x748F82EE5DEFB2FC, 0x78A5636F43172F60, 0x84C87814A1F0AB72, 0x8CC702081A6439EC, 0x90BEFFFA23631E28, 0xA4506CEBDE82BDE9, 0xBEF9A3F7B2C67915, 0xC67178F2E372532B] ++
  [0xCA273ECEEA26619C, 0xD186B8C721C0C207, 0xEADA7DD6CDE0EB1E, 0xF57D4F7FEE6ED178, 0x06F067AA72176FBA, 0x0A637DC5A2C898A6, 0x113F9804BEF90DAE, 0x1B710B35131C471B] ++
  [0x28DB77F523047D84, 0x32CAAB7B40C72493, 0x3C9EBE0A15C9BEBC, 0x431D67C49C100D4C, 0x4CC5D4BECB3E42B6, 0x597F299CFC657E2A, 0x5FCB6FAB3AD6FAEC, 0x6C44198C4A475817]

/-- The initial hash value of SHA-384. -/
def shaInit : List W64 :=
  [0xCBBB9D5DC1059ED8, 0x629A292A367CD507, 0x9159015A3070DD17, 0x152FECD8F70E5939] ++
  [0x67332667FFC00B31, 0x8EB44A8768581511, 0xDB0C2E0D64F98FA7, 0x47B5481DBEFA4FA4]

/-- The message schedule, latest word first. -/
def shaSchedule (block : List W64) : List W64 :=
  let next := fun (ws : List W64) (_ : Nat) =>
    let w2 := ws.getD 1 0
    let w15 := ws.getD 14 0
    let s0 := w15.rotateRight 1 ^^^ w15.rotateRight 8 ^^^ (w15 >>> 7)
    let s1 := w2.rotateRight 19 ^^^ w2.rotateRight 61 ^^^ (w2 >>> 6)
    (s1 + ws.getD 6 0 + s0 + ws.getD 15 0) :: ws
  ((List.range 64).foldl next block.reverse).reverse

/-- One round over the eight working words. -/
def shaRound (v : List W64) (kw : W64 × W64) : List W64 :=
  match v with
  | [a, b, c, d, e, f, g, h] =>
    let s1 := e.rotateRight 14 ^^^ e.rotateRight 18 ^^^ e.rotateRight 41
    let ch := (e &&& f) ^^^ (~~~e &&& g)
    let t1 := h + s1 + ch + kw.1 + kw.2
    let s0 := a.rotateRight 28 ^^^ a.rotateRight 34 ^^^ a.rotateRight 39
    let mj := (a &&& b) ^^^ (a &&& c) ^^^ (b &&& c)
    [t1 + (s0 + mj), a, b, c, d + t1, e, f, g]
  | _ => v

/-- One block into the hash value. -/
def shaBlock (hv : List W64) (block : List Byte) : List W64 :=
  let ws := shaSchedule ((chunksOf 8 16 block).map fun b => BitVec.ofNat 64 (beNat b))
  List.zipWith (· + ·) hv ((shaK.zip ws).foldl shaRound hv)

/-- SHA-384 of a byte string. -/
def sha384 (msg : List Byte) : List Byte :=
  let z := (239 - msg.length % 128) % 128
  let padded := msg ++ [0x80] ++ List.replicate z 0 ++ beBytes 16 (8 * msg.length)
  let hv := (chunksOf 128 (padded.length / 128) padded).foldl shaBlock shaInit
  ((hv.take 6).map fun w => beBytes 8 w.toNat).flatten

/-- HMAC-SHA-384 with a key of at most 128 bytes. -/
def hmac384 (key msg : List Byte) : List Byte :=
  let k := key ++ List.replicate (128 - key.length) 0
  sha384 (xorBytes k (List.replicate 128 0x5C) ++ sha384 (xorBytes k (List.replicate 128 0x36) ++ msg))

/-- The counter-mode KDF: `bits` output bits from a key, a label and a context input (R316). -/
def kdf (key label context : List Byte) (bits : Nat) : List Byte :=
  let block := fun (i : Nat) => hmac384 key (beBytes 4 (i + 1) ++ label ++ [0] ++ context ++ beBytes 4 bits)
  ((List.range (bits / 384 + 1)).map block).flatten.take (bits / 8)

/-- The label "KW-XTS" (R316). -/
def labelXts : List Byte := [0x4B, 0x57, 0x2D, 0x58, 0x54, 0x53]
/-- The label "KW-HOST" (R316). -/
def labelHost : List Byte := [0x4B, 0x57, 0x2D, 0x48, 0x4F, 0x53, 0x54]
/-- The label "KW-PUSH" (R316). -/
def labelPush : List Byte := [0x4B, 0x57, 0x2D, 0x50, 0x55, 0x53, 0x48]

end Sys2Proof.Machine
end

