-- ==== Sys2Proof/Machine/State.lean ====
section
/-!
DEFINITION. The state of the module as plain data: every register, table, queue, buffer, counter and mode that the
specification gives it, the reasons a command may stop, and the state right after reset. A table with many entries is a
list of (key, value) pairs in rising key order that lists no entry equal to the default its docstring names (`Table`).
-/
namespace Sys2Proof.Machine

/-- Why a command ends in a fault. The module answers a failure with a status, a recorded fault or an event (R281), so
no meaning raises one; the constructor stands for a state the specification gives no way to leave or go on from. -/
inductive Fault where
  /-- Raised by nothing: the specification names no machine stop. Safe. -/
  | stopped
  deriving DecidableEq, Repr

/-- Why a command is refused. -/
inductive Refusal where
  /-- Raised by a dispatch arm whose command has no meaning in this model yet, by its mnemonic. Safe. -/
  | notModelled (mnemonic : String)
  deriving DecidableEq, Repr

/-- A sparse table: pairs of a key and a value, keys strictly rising, no value equal to the table's default. -/
abbrev Table (α : Type) := List (Nat × α)

/-- The bytes of the address spaces by module address (R36), sparse over the default 0 (R308; log 7 for space 3). The
address of a byte of host memory reached through function 1 (R298) carries bit 64. -/
abbrev Memory := List Host.Cell

/-! ### Boot, fuses, newel, power, security, host interface -/

/-- The part's fuses (R2, R310, R314, R324, R354). `grade` is 0 A, 1 B, 2 E; `kwedunHash` is the SHA-384 hash of the Kwedun key, `identityKey`
the private half of the identity key. -/
structure Part where
  grade : BitVec 2
  hallFused : BitVec 8
  flightFused : BitVec 12
  serial : W64
  rollback : BitVec 16
  kwedunHash : BitVec 384
  identityKey : BitVec 384
  deriving DecidableEq, Repr

/-- `HIF_BOOT.STATE` (R307). -/
inductive BootState where
  | booting | ready | failed | locked
  deriving DecidableEq, Repr

/-- Start-up and loss (R307–R309, R286, R289). -/
structure Boot where
  state : BootState
  step : Nat
  hallsOk : BitVec 8
  secondary : Bool
  errCode : BitVec 8
  errUnit : BitVec 8
  flightsFailed : BitVec 12
  hallsLost : BitVec 8
  diesFailed : BitVec 8
  imageVersion : BitVec 16
  deriving DecidableEq, Repr

/-- The newel (R339–R342). `ctl` is keyed by comparator (default 0), `val` by comparator (default per R341). `spent` has a bit for each
time comparator that has tripped for its present value; `cycle` counts crystal cycles modulo 64 in MODULE_SLEEP. `ppsOut` says that the
PTP output drives PPS_OUT, `pldmAlert` that PLDM drives ALERT#, with `pldmPending` (R290); `foreign` keeps the last announce heard on each
port and `slave` the port whose master the boundary clock follows (R280). -/
structure Newel where
  powered : Bool
  time : W64
  source : BitVec 2
  firstLockDue : Bool
  slewNs : Int
  ctl : Table W32
  val : Table W64
  spent : BitVec 8
  alertLow : Bool
  heartbeatNs : W64
  cycle : BitVec 6
  ppsOut : Bool
  pldmAlert : Bool
  pldmPending : Bool
  foreign : Table (Option PtpClock)
  slave : Option Nat
  deriving DecidableEq, Repr

/-- The power stage and the module's power state (R325–R332). `lowInput` holds from an undervoltage until the input has been back for
1 s (R326); `inputAt` is the newel time from which R304 measures readiness on the input's side, once `inputSeen` says that the input has been
there since it was last lost. -/
structure Power where
  limit : BitVec 13
  volts : BitVec 14
  watts : BitVec 14
  protect : Bool
  switchOpen : Bool
  precharged : Bool
  senseMated : Bool
  asleep : Bool
  off : Bool
  lowInput : Bool
  inputSeen : Bool
  inputAt : W64
  deriving DecidableEq, Repr

/-- One slot of the volatile key store (R314, R315, R319): the data key wrapped under the module key by AES key wrap. -/
structure KeySlot where
  wrapped : BitVec 320
  nonce : W64
  pushCount : W32
  deriving DecidableEq, Repr

/-- An SPDM session (R311, R315): whether its requester's certificate chains to the owner root, and how often its keys have been updated. -/
structure Session where
  id : Nat
  owner : Bool
  updates : Nat
  deriving DecidableEq, Repr

/-- The security block (R314, R321–R324). `keys` lists the slots that hold a key; the measured images are those of the operator routines and
programs as of the last load (R312), each with its key and tenant bit; `debugScope` is the scope under which the debug port was opened (R323). -/
structure Security where
  keys : List (Nat × KeySlot)
  moduleKey : BitVec 256
  debugOpen : Bool
  debugScope : W32
  tamper : Bool
  glitch : Bool
  owner : BitVec 384
  ownerSet : Bool
  sessions : List Session
  challenge : Option (BitVec 256)
  scanning : BitVec 8
  measuredRoutines : List (Nat × Bool × List Byte)
  measuredPrograms : List (Nat × Bool × List Byte)
  deriving DecidableEq, Repr

/-- `HIF_BAR4` of one function (R307). -/
structure Bar4 where
  base : BitVec 7
  hall : BitVec 3
  enable : Bool
  deriving DecidableEq, Repr

/-- The host interface (R297–R307, R338). `released` holds one more than the newel time from which a function's readiness interval
runs, 0 while its PERST# is held (R304). `sris` has a bit for each port (R336, R338). `msix` holds the MSI-X tables of the functions, keyed by 2,048 × function + vector (R298). -/
structure HostIf where
  timeoutMs : BitVec 10
  bar4f0 : Bar4
  bar4f1 : Bar4
  speed : BitVec 3
  width : BitVec 5
  cxl : Bool
  split : Bool
  cohBase : Table W64
  cohLimit : Table W64
  departed : BitVec 2
  configReady : BitVec 2
  released : Table Nat
  sris : BitVec 2
  deviceCache : List Nat
  msix : Table (BitVec 128)
  deriving DecidableEq, Repr

/-- The module page's own registers (R354). `resetDue` notes a write of `RESET` that the same command then carries out. -/
structure ModulePage where
  levelReq : BitVec 4
  levelAct : BitVec 4
  sleep : Bool
  vector : BitVec 11
  function : Bool
  vectorEnable : Bool
  resetDue : Bool
  deriving DecidableEq, Repr

/-- The stored part of a page header (R347, R350). -/
structure Page where
  raw : W32
  mask : W32
  code : BitVec 8
  count : BitVec 16
  info0 : W32
  info1 : W32
  sel : BitVec 8
  deriving DecidableEq, Repr

/-- The header of a page right after reset: every bit 0 (R347). -/
def Page.zero : Page := ⟨0, 0, 0, 0, 0, 0, 0⟩

/-! ### Halls -/

/-- DIAGNOSTIC state of a hall (R160). -/
inductive Diag where
  | none | entering | inside
  deriving DecidableEq, Repr

/-- The treadle page of a hall (R356). `load` is the pattern load in flight. -/
structure Treadle where
  ctxBase : BitVec 17
  starveLoad : BitVec 6
  starveMatrix : BitVec 6
  starveLanding : BitVec 6
  starveStore : BitVec 6
  ringSel : BitVec 11
  ringData : Block512
  knotSel : BitVec 8
  patSrc : W64
  patIndex : BitVec 10
  patTenant : Bool
  patLen : BitVec 16
  load : Option (Nat × Bool × List Byte)
  evtRing : BitVec 11
  diag : Diag
  diagRing : BitVec 11
  lastServed : Nat
  deriving DecidableEq, Repr

/-- The treadle page right after reset (R356). -/
def Treadle.reset : Treadle :=
  { ctxBase := 0, starveLoad := 24, starveMatrix := 24, starveLanding := 24, starveStore := 24, ringSel := 0
    ringData := 0, knotSel := 0, patSrc := 0, patIndex := 512, patTenant := false, patLen := 0, load := none
    evtRing := 0, diag := .none, diagRing := 0, lastServed := 2047 }

/-- The rail keeper and step-rate monitor of a hall (R18–R24, R335, R362). `target` is the stored target and `inForce` the one in effect,
which differs from it where a write came during protection (R22). The rail slews from `railMv`, its value at newel time `railSince`, to
`goalMv` (R18). `state` is 0 ACTIVE, 1 IDLE, 2 PARKED, 3 OFF; `since` is the newel time at which the monitor's window in progress
began. -/
structure Keeper where
  target : BitVec 10
  inForce : BitVec 10
  idleDis : Bool
  railMv : BitVec 10
  railSince : W64
  goalMv : BitVec 10
  state : BitVec 2
  throttle : Bool
  tj : BitVec 8
  window : BitVec 2
  rate : BitVec 16
  rateMin : BitVec 16
  rateMax : BitVec 16
  endNs : W64
  endLatch : W64
  since : W64
  deriving DecidableEq, Repr

/-- The rail keeper page right after reset (R335, R362). -/
def Keeper.reset : Keeper :=
  { target := 750, inForce := 750, idleDis := false, railMv := 0, railSince := 0, goalMv := 0, state := 0, throttle := false, tj := 0
    window := 1, rate := 0, rateMin := 0, rateMax := 0, endNs := 0, endLatch := 0, since := 0 }

/-- One hall: its treadle, keeper, and the pages of its window table, gallery, ledger and stream arbiter. -/
structure Hall where
  treadle : Treadle
  keeper : Keeper
  winIndex : BitVec 16
  winStage : Block512
  share : BitVec 4
  shareBusy : Bool
  shareOld : BitVec 4
  accesses : Nat
  hbmCap : BitVec 11
  galCap : BitVec 11
  strSel : BitVec 12
  pendGenLatch : BitVec 16
  grants : Nat
  deriving DecidableEq, Repr

/-- A hall right after reset. -/
def Hall.reset : Hall :=
  { treadle := Treadle.reset, keeper := Keeper.reset, winIndex := 0, winStage := 0, share := 0, shareBusy := false
    shareOld := 0, accesses := 0, hbmCap := 256, galCap := 256, strSel := 0, pendGenLatch := 0, grants := 0 }

/-! ### Rings, items, queues and knots -/

/-- One ring of a ring table with its counts (R129, R130, R143, R295). Byte 17 of `entry` holds the state; `ahead` are the descriptors that
have been read and not expanded, at most 8 (R135); `noRecord` says that no further record goes to its completion ring (R283). -/
structure Ring where
  entry : Block512
  p : W32
  f : W32
  c : W32
  h : W32
  sinceIrq : Nat
  function : Nat
  parked : Option ItemId
  ahead : List Block512
  enabledAt : Option W64
  busyNs : W64
  busySince : Option W64
  noRecord : Bool
  deriving DecidableEq, Repr

/-- A ring right after reset: DISABLED, counts 0 (R308 step 7). -/
def Ring.reset : Ring := ⟨0, 0, 0, 0, 0, 0, 0, none, [], none, 0, none, false⟩

/-- A piece of work of a loom queue (R141, R142). `spans` are the module addresses and lengths that its memory
requests cover, with true for a write. `part` counts the pieces of one unit in one queue: warp blocks and then weft tiles in LOAD,
passes in MATRIX. `first` marks the first piece of its item in its lane, which holds the wait (R150). -/
structure Piece where
  item : ItemId
  unit : Nat
  part : Nat
  queue : Queue
  lane : Lane
  hall : Nat
  loom : Nat
  first : Bool
  spans : List (Nat × Nat × Bool)
  deriving DecidableEq, Repr

/-- Where an item stands: waiting to run, zero length and waiting only for its wait entry (R163, R164), waiting on something
outside the looms (a link, a stream, an arrival count, a selvedge), or with its outcome decided. -/
inductive Phase where
  | dispatched | zero | external | decided
  deriving DecidableEq, Repr

/-- An item that has been fetched and has no record yet (R7, R10, R144). `wins`, `scales` and `ctxs` are what the treadle
read when it expanded the command (R40, R49, R110); `runs` is its tag list as pairs of a tag and a row count (R112).
`setsKnot` is false where the set entry itself failed step 4 of R139; `hallByte` is byte 8 of its record (R10) and
`looms` are the looms its pieces went to; `unitsDone` are the output tiles and chunks that loom steps have finished and `linesDone` the lines that a `PREFETCH` has filled or
declined; `failedAt` is the
expansion position of the piece that gave `status` and `failures` are those of all pieces that have failed (R144); `image` is the routine of a
pattern call as it stood at expansion, `calls` its commands not yet emitted, and `caller` the call that emitted a command (R156,
R157); `progress` counts the commands that a descriptor's calls have emitted, or keeps the entries of a `KNOT_WAIT` that were met;
`termMet` says that the term knot has been met (R118, R150); `buffers` are the
source handles that a stream arming fills, with the stream descriptor's key (R221). -/
structure Item where
  id : ItemId
  hall : Nat
  desc : Block512
  phase : Phase
  status : Status
  failedAt : Option Nat
  failures : List Nat
  adjust : Option Status
  setsKnot : Bool
  waitMet : Bool
  wins : List (W32 × Block512)
  scales : List (W32 × W32)
  ctxs : List (Nat × BitVec 4096)
  runs : List (Nat × Nat)
  buffers : List (W32 × Nat)
  emit : List Piece
  calls : List Block512
  caller : Option ItemId
  termMet : Bool
  image : List Byte
  unitCount : Nat
  unitsDone : List Nat
  linesDone : List Nat
  progress : Nat
  replay : Nat
  bytes : Nat
  hallByte : Nat
  looms : List Nat
  deriving DecidableEq, Repr

/-- What the dobby selector of one loom queue remembers (R154), and the lane whose head is running. -/
structure Selector where
  last : Lane
  passed : Nat
  running : Option Lane
  deriving DecidableEq, Repr

/-- A selector right after reset. -/
def Selector.reset : Selector := ⟨.forward, 0, none⟩

/-- One knot (R146). -/
structure Knot where
  count : W32
  poison : Bool
  owner : BitVec 14
  deriving DecidableEq, Repr

/-- A knot right after reset (R146). -/
def Knot.reset : Knot := ⟨0, false, 0x3FFF⟩

/-- What an item's end does to a knot (R151). -/
inductive KnotAction where
  | add (n : W32) | poison | assign (n : W32)
  deriving DecidableEq, Repr

/-- An update on its way to the knot `key` = 256 × hall + knot of another hall (R147). -/
structure KnotMsg where
  key : Nat
  action : KnotAction
  deriving DecidableEq, Repr

/-- A routine of the pattern book (R155, R158). -/
structure Routine where
  image : List Byte
  tenant : Bool
  deriving DecidableEq, Repr

/-! ### Looms -/

/-- The special tag of a cell (R55). -/
inductive Tag where
  | none | posInf | negInf | nan
  deriving DecidableEq, Repr

/-- A warp element as a cell register or a row latch holds it (R63, R67): its code and the E8M0 scale code that travels with it (127 where
the format has no block scale). -/
abbrev WarpElem := BitVec 16 × BitVec 8

/-- One of the two warp registers of a loom's cells with their scale latches (R63, R68, R69): one row a tile reduction position, a register
that no row lists holding 0. `owner` is the item, unit and pass whose tile it is; none at reset. -/
structure WarpTile where
  owner : Option (ItemId × Nat × Nat)
  rows : List (List WarpElem)
  deriving DecidableEq, Repr

/-- The warp registers and scale latches at reset: zeros (log 46). -/
def WarpTile.reset : WarpTile := ⟨none, []⟩

/-- A loom-store slot that a LOAD piece has filled and that reads full (R67, R75, R91). `part` is the LOAD piece's. What a matrix command
loads stands in the loom stores from address `base` on, `len` bytes: a warp block with element (a, b) at position a + 64b and its scales behind,
or one weft tile (log 45). What a landing or bobbin command loads is `held` beside them, by the handle and the address it was read from. -/
structure Slot where
  item : ItemId
  unit : Nat
  part : Nat
  base : Nat
  len : Nat
  held : List (W32 × Nat × List Byte)
  deriving DecidableEq, Repr

/-- One shaft's part of an output tile (R63, R87–R97). Lists run over rows, then columns, of the outputs it writes. An
accumulator is none once an addition of the interval has overflowed it (R87). `base` is the first pass of the interval the shaft is in and
`done` counts the passes of the tile it has run, so that a rerun begins with `done` = `base`. `tagsStart` are the tags as the interval
began; `hit` is the pass of the overflow that counts and is detected first, and the step of that pass (R94, R95). -/
structure ShaftRun where
  rows : Nat
  level : Nat
  base : Nat
  done : Nat
  align : Int
  acc : List (List (Option Int))
  tags : List (List Tag)
  tagsStart : List (List Tag)
  land : List (List W32)
  hit : Option (Nat × Nat)
  deriving DecidableEq, Repr

/-- An output tile in progress on a loom (R66, R88, R100). `pass` counts the passes done; `due` is true when the passes
of an interval have run and wait for their promotion; `gate` says that its stage 3 has begun, the term knot met; `terms` are the low-rank
terms of stage 3 by row and column, keyed by the shaft whose rows they are (R118, R120). -/
structure TileRun where
  item : ItemId
  unit : Nat
  lane : Lane
  pass : Nat
  due : Bool
  finished : Bool
  gate : Bool
  shafts : List ShaftRun
  terms : Table (List (List W32))
  deriving DecidableEq, Repr

/-- One loom: the two warp registers of its cells (R63), its 32 row latches (`latches`, R67, R68), the narrow accumulators of its cells
(`accums`, keyed by 2048 × shaft + 64 × row + column, default 0), the slots its LOAD pieces have filled, its output tiles, those that wait
for their epilogue included, the mode and pass-control values that card words set by unit, and how often each unit has been driven
(R159). -/
structure Loom where
  shadow : WarpTile
  active : WarpTile
  latches : List (List WarpElem)
  accums : Table (BitVec 20)
  slots : List Slot
  runs : List TileRun
  modes : Table W32
  controls : Table W32
  drives : Table Nat
  deriving DecidableEq, Repr

/-- A loom right after reset. -/
def Loom.reset : Loom :=
  { shadow := WarpTile.reset, active := WarpTile.reset, latches := [], accums := [], slots := [], runs := [], modes := []
    controls := [], drives := [] }

/-- A line group of the bobbin cache holding one slice (R119). -/
structure SliceLine where
  slice : SliceId
  lines : Nat
  lastUse : Nat
  deriving DecidableEq, Repr

/-- A work item of the bobbin unit (R121). `pinned` are the slice it reads and the next one. -/
structure WorkItem where
  item : ItemId
  unit : Nat
  needs : List SliceId
  deriving DecidableEq, Repr

/-- A loom's bobbin unit (R119–R121). `wanted` are the slices requested and not yet filled, each with the item that asked for it, and
`asked` the tiles and units whose slices have been worked out (R120). -/
structure Bobbin where
  cache : List SliceLine
  work : List WorkItem
  wanted : List (SliceId × ItemId)
  asked : List (ItemId × Nat)
  clock : Nat
  deriving DecidableEq, Repr

/-- A bobbin unit right after reset. -/
def Bobbin.reset : Bobbin := ⟨[], [], [], [], 0⟩

/-! ### Ledger, cache and streams -/

/-- Who issued a ledger request (R214): part of a loom piece, a row of a `GATHER` or `SCATTER` piece (R226), a stream transfer, a bobbin
unit's slice, a `PREFETCH` fill, the treadle for a descriptor, for what it reads as it expands an item, or for a record of a ring, and a
selvedge. -/
inductive Requester where
  | piece (item : ItemId) (unit : Nat) (queue : Queue) (part : Nat)
  | row (item : ItemId) (unit : Nat) (queue : Queue) (loom row : Nat)
  | stream (descriptor transfer : Nat)
  | slice (loom : Nat) (slice : SliceId)
  | fill (item : ItemId)
  | descriptor (ring index : Nat)
  | operand (item : ItemId)
  | record (ring : Nat)
  | selvedge (port : Nat) (item : ItemId)
  deriving DecidableEq, Repr

/-- A request that waits for admission or holds a slot (R214–R217). `target` is 64 × hall + pseudo-channel, or
512 + 96 × hall + bank group. `owner`, `hint` and `keySlot` are those of the window it goes through (R208, R210); `mixed` says that reads
of several key states were merged into it (R217). -/
structure Request where
  id : Nat
  parts : List (Requester × Nat × Nat)
  target : Nat
  address : Nat
  length : Nat
  write : Bool
  tte : Option Nat
  lost : Nat
  owner : Nat
  hint : BitVec 8
  keySlot : Option Nat
  mixed : Bool
  deriving DecidableEq, Repr

/-- A row that a `GATHER` or `SCATTER` piece has not requested yet (R226): its loom, its requester, the window it goes through and its
span. -/
structure LaterRow where
  loom : Nat
  from_ : Requester
  via : Option Block512
  span : Nat × Nat × Bool
  deriving DecidableEq, Repr

/-- A hall's ledger: requests waiting, oldest first, and the slots (R214); `later` are the rows held back for want of room among the 4 that a
loom keeps outstanding (R226). -/
structure Ledger where
  waiting : List Request
  slots : List Request
  later : List LaterRow
  next : Nat
  deriving DecidableEq, Repr

/-- A ledger right after reset. -/
def Ledger.reset : Ledger := ⟨[], [], [], 0⟩

/-- A scrubber (R231): the number of the 64-byte unit it reads next, in address order, and one more than the newel time of its last read, 0
before its first. -/
structure Scrub where
  next : Nat
  last : Nat
  deriving DecidableEq, Repr

/-- A scrubber right after reset: at the first unit. -/
def Scrub.reset : Scrub := ⟨0, 0⟩

/-- A line of a hall's tensor cache (R207–R211): its 4 KiB line index, the owner and hint of the window it was filled
through, its key state and the access count at its last use. -/
structure CacheLine where
  line : Nat
  owner : Nat
  hint : BitVec 8
  keySlot : Option Nat
  lastUse : Nat
  deriving DecidableEq, Repr

/-- An arming of a stream descriptor (R175, R218–R221). `full` lists the entries of a gallery buffer whose token reads
full, `flying` the transfers granted and not complete. -/
structure Arming where
  item : ItemId
  src : W32
  dst : W32
  srcWin : Block512
  dstWin : Block512
  rate : W32
  passes : W32
  gen : BitVec 16
  granted : Nat
  completed : Nat
  full : List Nat
  flying : List Nat
  deriving DecidableEq, Repr

/-- A stream descriptor (R218, R222). `owner` is the context whose ring last armed it, 0x3FFF the operator. -/
structure Stream where
  active : Option Arming
  pending : Option Arming
  gen : BitVec 16
  owner : Option Nat
  since : Nat
  passed : Nat
  agedAt : Option Nat
  deriving DecidableEq, Repr

/-- A stream descriptor right after reset: IDLE, generation 0. -/
def Stream.reset : Stream := ⟨none, none, 0, none, 0, 0, none⟩

/-! ### Selvedges -/

/-- A statistics record of a context and group (R191, R252). -/
structure Stats where
  t : W64
  localSum : W32
  reducedSum : W32
  shardBatch : W32
  globalBatch : W32
  counter : W64
  time : W64
  deriving DecidableEq, Repr

/-- A record of zeros. -/
def Stats.zero : Stats := ⟨0, 0, 0, 0, 0, 0, 0⟩

/-- An update handed to a selvedge (R234, R236): `total` elements of a reduced shard, of which `reduced` have arrived as FP32
words, and the module's own contribution to them. `first` is the index e of the first (R238); `cut` is the status with which a running
update stops at its first incomplete block (R254). -/
structure Update where
  item : ItemId
  context : Nat
  slot : Nat
  first : Nat
  onB : Bool
  total : Nat
  reduced : List W32
  localGrad : List W32
  rootCounter : W64
  shardBatch : W32
  globalBatch : W32
  cut : Option Status
  deriving DecidableEq, Repr

/-- What a selvedge read when it began an update (R110, R240, R248): the context's record, and the group that its slot names. `program` is
the operator program it began with, `factors` the Cholesky factors of rule 1 by layer (R250), `next` the block it updates next. -/
structure UpdateRun where
  record : BitVec 4096
  group : Nat
  counter : W64
  t : W64
  adopted : Bool
  fallback : Bool
  program : Option (List W64 × BitVec 8)
  factors : List (List (List W32))
  next : Nat
  deriving DecidableEq, Repr

/-- One selvedge (R233–R237, R252, R255, R256). `binds` and `stats` are keyed by 8 × context + group. -/
structure Selvedge where
  queue : List Update
  run : Option UpdateRun
  regs : Table W32
  serving : Nat
  unserved : Bool
  place : Nat
  binds : Table Nat
  stats : Table Stats
  deriving DecidableEq, Repr

/-- A selvedge right after reset: no table chosen, nothing bound. -/
def Selvedge.reset : Selvedge := ⟨[], none, [], 0, false, 0, [], []⟩

/-- `SLV_PROG_CTL` and `SLV_PROG_SRC` of the host-interface selvedge page (R255), with the image being copied. -/
structure ProgControl where
  index : BitVec 10
  src : W64
  load : Option (Nat × List W64 × BitVec 8)
  deriving DecidableEq, Repr

/-! ### Fabric -/

/-- `FLT_STATE.LINK` (R267). -/
inductive Link where
  | disabled | training | hello | awaitAdmit | admitPending | up | down
  deriving DecidableEq, Repr

/-- What the module sends on its links. -/
inductive Packet where
  | hello (h : Hello)
  | loss (axis : Axis) (coordinate lane : Nat)
  | opening (h : OpenHead)
  | partialData (axis : Axis) (tag group shard phase : Nat) (data : List Byte)
  | withdrawal (axis : Axis) (tag coordinate group : Nat)
  | head (h : RemoteHead)
  | body (origin : Nat) (data : List Byte)
  | ack (origin : Nat)
  | nack (origin : Nat) (s : Status)
  | forwarded (origin : Nat) (destinations : List W64) (data : List Byte) (length stall : Nat)
  | pruned (origin : Nat) (receivers : List W64)
  | credit (express : Bool) (datagrams : Nat)
  | ptp
  deriving DecidableEq, Repr

/-- The Ethernet frame of an encapsulated datagram (R258, R259). -/
structure Frame where
  peer : BitVec 48
  self : BitVec 48
  priority : Nat
  etherType : BitVec 16
  deriving DecidableEq, Repr

/-- One flight (R258–R269). `credits` and `xcredits` count the axis-class and express-class datagrams that the peer can still
take; `spent` lists the axis-class ones it has not given back, in the order sent, each with its sender's number and whether it went against
the shared buffer, and `xspent` the senders of the express ones (R265). `held` are the requests that wait for credit or for a paused
priority, each with its priority, and `replies` the responses that wait for a paused one (R259, R264). `passed` counts the grants at which a
sender's ready channel was passed over, `lastAxis` and `lastExpress` are the senders served last in a class and `xpassed` the grants at which
a ready express class was passed over (R264). `heardAt` is the newel time of the last datagram that came (R269), `dryAt` one more than the
newel time since which no express credit is left, 0 while one is, and `dry` the same for each express sender whose own reservation is spent
(R278); `inbox` are the requests that wait in this flight's own receive buffer, by sender and priority (R259, R265). -/
structure Flight where
  enable : Bool
  mode : Bool
  link : Link
  mismatch : BitVec 3
  peerSerial : W64
  peerGrade : BitVec 2
  peerPort : BitVec 4
  peerCoord : BitVec 12
  linkTo : BitVec 16
  joinTo : BitVec 16
  ethPeer : BitVec 48
  admitted : Bool
  peerAdmitted : Bool
  channels : List ItemId
  credits : Nat
  xcredits : Nat
  held : List (Nat × Packet)
  paused : BitVec 8
  spent : List (Nat × Bool)
  xspent : List Nat
  replies : List (Nat × Packet)
  passed : Table Nat
  lastAxis : Nat
  lastExpress : Nat
  xpassed : Nat
  heardAt : W64
  dryAt : Nat
  dry : Table Nat
  inbox : List (Nat × Nat)
  deriving DecidableEq, Repr

/-- A flight right after reset (R267). The credits are the buffers of R265 in datagrams of 8 KiB: 1 MiB and 512 KiB for the axis
channels, 256 KiB for the express channels. -/
def Flight.reset : Flight :=
  { enable := false, mode := false, link := .disabled, mismatch := 0, peerSerial := 0, peerGrade := 0, peerPort := 0
    peerCoord := 0, linkTo := 500, joinTo := 2000, ethPeer := 0, admitted := false, peerAdmitted := false
    channels := [], credits := 192, xcredits := 32, held := [], paused := 0, spent := [], xspent := [], replies := [], passed := []
    lastAxis := 0, lastExpress := 0, xpassed := 0, heardAt := 0, dryAt := 0, dry := [], inbox := [] }

/-- An open collective of this module (R271–R274). `joined` are the positions whose opening has come; `got` counts the bytes
that have arrived of shard j in the reduction, at key j, and of block j in the gather, at key 16 + j; `express` says that it
holds an express channel, and `joinedAt` is the newel time at which this member joined (R273). -/
structure Collective where
  item : ItemId
  axis : Axis
  tag : Nat
  opcode : Nat
  elements : Nat
  group : Nat
  position : Nat
  reduceType : Nat
  plus : Bool
  lane : Nat
  express : Bool
  joined : List Nat
  rootCounter : W64
  update : Bool
  started : Bool
  got : Table Nat
  joinedAt : W64
  deriving DecidableEq, Repr

/-- A remote write that a flight has accepted and is placing (R276, R277); `closers` are the closes of its window that wait for it (R189). -/
structure Receiving where
  port : Nat
  head : RemoteHead
  windowKey : Nat
  got : Nat
  chunk : List Byte
  closers : List ItemId
  deriving DecidableEq, Repr

/-- An axis-class remote write of another module that this module passes on (R262, R263): the port it comes in on, the port it leaves by, on
which it holds a channel, its dateline virtual channel, the remote hall of its address, the bytes still to come, and the acknowledgements that
have still to pass back. -/
structure Transit where
  port : Nat
  origin : Nat
  out : Nat
  vc : Nat
  hall : Nat
  left : Nat
  owed : Nat
  deriving DecidableEq, Repr

/-- A branch on which this module passes an express write of another module on (R262, R278): the port it comes in on, the port it leaves by,
the receivers beyond, and the stall threshold of a multicast, 0 for another write; `pruned` says that this module has pruned the branch. -/
structure Passage where
  port : Nat
  origin : Nat
  out : Nat
  receivers : List W64
  stall : Nat
  pruned : Bool
  deriving DecidableEq, Repr

/-- A send that waits for its acknowledgements (R186, R188, R190, R278). `receivers` are the addresses it goes to with the
generations it expects; `done` counts the chunks that each has acknowledged; `refusals` are the statuses that receivers gave. -/
structure Sending where
  item : ItemId
  bytes : Nat
  receivers : List (Nat × W32)
  done : Table Nat
  pruned : List Nat
  catchUp : Bool
  refusals : Table Status
  deriving DecidableEq, Repr

/-! ### What leaves the module -/

/-- What the module answers or drives on its pins and links (R129, R300, R304, R311, R313, R323, R341, R355). -/
inductive Reply where
  | msix (function vector : Nat) (entry : BitVec 128)
  | data (value : W64)
  | bytes (data : List Byte) (poisoned : Bool)
  | unsupported
  | configRetry (function : Nat)
  | configOk (function : Nat)
  | packet (port : Nat) (frame : Option Frame) (p : Packet)
  | pause (port : Nat) (priorities : BitVec 8)
  | measurement (index : Nat) (value : BitVec 384)
  | certificate (chain : List Byte)
  | signature (bytes : List Byte)
  | sessionOpen | sessionClosed | requestError
  | accepted | refusedRequest
  | challenge (serial : W64) (nonce : BitVec 256)
  | wakePulse | ppsPulse | heartbeat
  | snoop (line : Nat) (hit : Bool)
  deriving DecidableEq, Repr

/-- The state of the module. `busyAt` is the newel time at which a hall last had work to dispatch or to issue (R20), keyed by hall;
`heldSince` is one more than the newel time since which R132 has held a ring's fetching, 0 while it does not (R133); `stale` names by axis, tag
and position the openings still to come of a collective that has failed here in its opening exchange (R273). -/
structure State where
  pending : List Instr
  free : Nat
  out : List Reply
  part : Part
  boot : Boot
  newel : Newel
  power : Power
  sec : Security
  hif : HostIf
  mod : ModulePage
  pages : Table Page
  counters : Table W32
  latch : Table W32
  lowHalf : Table W32
  halls : Table Hall
  mem : Memory
  poison : List Nat
  corrected : List Nat
  full : List Nat
  windows : Table Block512
  arrived : Table Nat
  rings : Table Ring
  busyAt : Table W64
  heldSince : Table Nat
  items : List Item
  lanes : Table (List Piece)
  sel : Table Selector
  knots : Table Knot
  loomKnots : Table Knot
  knotMsgs : List KnotMsg
  patterns : Table (Option Routine)
  looms : Table Loom
  bobbins : Table Bobbin
  ledgers : Table Ledger
  scrubs : Table Scrub
  caches : Table (List CacheLine)
  streams : Table Stream
  selvs : Table Selvedge
  progs : Table (Option (List W64 × BitVec 8))
  slvCtl : ProgControl
  flights : Table Flight
  xprCoord : W32
  xprHeld : List ItemId
  colls : List Collective
  openings : List OpenHead
  stale : List (Axis × Nat × Nat)
  transits : List Transit
  passages : List Passage
  rxs : List Receiving
  txs : List Sending
  deriving DecidableEq, Repr

/-- The module right after a module reset, before start-up has run: every field at the value the specification gives
for reset, or at the value INVENTORY.md and the assumption log name. -/
def State.reset : State :=
  { pending := [], free := 0, out := []
    part := { grade := 0, hallFused := 0, flightFused := 0, serial := 0, rollback := 0, kwedunHash := 0
              identityKey := 0 }
    boot := { state := .booting, step := 0, hallsOk := 0, secondary := false, errCode := 0, errUnit := 0
              flightsFailed := 0, hallsLost := 0, diesFailed := 0, imageVersion := 0 }
    newel := { powered := true, time := 0, source := 0, firstLockDue := true, slewNs := 0, ctl := [], val := []
               spent := 0, alertLow := false, heartbeatNs := 0, cycle := 0, ppsOut := false, pldmAlert := false
               pldmPending := false, foreign := [], slave := none }
    power := { limit := 4200, volts := 0, watts := 0, protect := false, switchOpen := false, precharged := false
               senseMated := true, asleep := false, off := false, lowInput := false, inputSeen := false, inputAt := 0 }
    sec := { keys := [], moduleKey := 0, debugOpen := false, debugScope := 0, tamper := false, glitch := false, owner := 0
             ownerSet := false, sessions := [], challenge := none, scanning := 0
             measuredRoutines := [], measuredPrograms := [] }
    hif := { timeoutMs := 50, bar4f0 := ⟨0, 0, false⟩, bar4f1 := ⟨0, 0, false⟩, speed := 0, width := 0, cxl := false
             split := false, cohBase := [], cohLimit := [], departed := 0, configReady := 0, released := [], sris := 0
             deviceCache := [], msix := [] }
    mod := { levelReq := 1, levelAct := 1, sleep := false, vector := 0, function := false, vectorEnable := false, resetDue := false }
    pages := [], counters := [], latch := [], lowHalf := [], halls := [], mem := [], poison := [], corrected := []
    full := [], windows := [], arrived := [], rings := [], busyAt := [], heldSince := [], items := [], lanes := [], sel := [], knots := []
    loomKnots := [], knotMsgs := [], patterns := [], looms := [], bobbins := [], ledgers := [], scrubs := [], caches := []
    streams := [], selvs := [], progs := [], slvCtl := ⟨0, 0, none⟩, flights := [], xprCoord := 0, xprHeld := []
    colls := [], openings := [], stale := [], transits := [], passages := [], rxs := [], txs := [] }

end Sys2Proof.Machine
end

