-- ==== Sys2Proof/Machine/Ops.lean ====
section
/-!
DEFINITION. The named operations over the state's tables, memory, presence of blocks, free values and module addresses,
which every meaning is written with.
-/
namespace Sys2Proof.Machine

/-! ### Sparse tables and ordered lists -/

/-- The value a table holds at a key; the default `d` where it lists none. -/
def Table.get {α : Type} (d : α) : Table α → Nat → α
  | [], _ => d
  | (k, v) :: t, i => if k = i then v else Table.get d t i

/-- A table without the entry at a key. -/
def Table.erase {α : Type} (t : Table α) (i : Nat) : Table α := t.filter fun p => p.1 != i

/-- A table with the entry (i, v) put in key order. -/
def Table.insert {α : Type} : Table α → Nat → α → Table α
  | [], i, v => [(i, v)]
  | (k, w) :: t, i, v => if k < i then (k, w) :: Table.insert t i v else if k = i then (i, v) :: t else (i, v) :: (k, w) :: t

/-- A table that holds `v` at `i`; writing the default removes the entry, so equal tables are equal data. -/
def Table.set {α : Type} [DecidableEq α] (d : α) (t : Table α) (i : Nat) (v : α) : Table α :=
  if v = d then t.erase i else t.insert i v

/-- A natural number put into an ascending list without repeats. -/
def insertNat : List Nat → Nat → List Nat
  | [], a => [a]
  | b :: t, a => if b < a then b :: insertNat t a else if b = a then b :: t else a :: b :: t

/-- A list without a value. -/
def removeNat (l : List Nat) (a : Nat) : List Nat := l.filter (· != a)

/-- The element of a list that comes first in an order given by `better`. -/
def pickBest {α : Type} (better : α → α → Bool) : List α → Option α
  | [] => none
  | a :: t => match pickBest better t with
    | none => some a
    | some b => if better b a then some b else some a

/-- The position-wise update of a list. -/
def modifyAt {α : Type} (l : List α) (i : Nat) (f : α → α) : List α :=
  match l[i]? with
  | some a => l.set i (f a)
  | none => l

/-! ### Bytes -/

/-- The number a byte string spells, least significant byte first (R6). -/
def leNat : List Byte → Nat
  | [] => 0
  | b :: bs => b.toNat + 256 * leNat bs

/-- The `n` little-endian bytes of a number (R6). -/
def leBytes : Nat → Nat → List Byte
  | 0, _ => []
  | n + 1, v => BitVec.ofNat 8 v :: leBytes n (v / 256)

/-- Bits of a 512-bit block at byte `b`, `n` bytes long, as a number. -/
def byteField {w : Nat} (x : BitVec w) (b n : Nat) : Nat := fieldNat x (8 * b) (8 * n)

/-! ### Memory -/

/-- What an address that the memory does not list reads as (R308; log 7). -/
def memDefault : Byte := 0

/-- The byte at a module address. -/
def Memory.read (m : Memory) (a : Nat) : Byte := Table.get memDefault m a

/-- The memory with one byte written; the canonical form is kept. -/
def Memory.write (m : Memory) (a : Nat) (b : Byte) : Memory := Table.set memDefault m a b

/-- `n` bytes from an address up. -/
def Memory.readBytes (m : Memory) (a n : Nat) : List Byte := (List.range n).map fun i => m.read (a + i)

/-- A byte string written from an address up. -/
def Memory.writeBytes (m : Memory) (a : Nat) : List Byte → Memory
  | [] => m
  | b :: bs => Memory.writeBytes (m.write a b) (a + 1) bs

/-- The canonical form: addresses strictly rising, no entry equal to the default. -/
def Memory.wf : Memory → Bool
  | [] => true
  | [(_, b)] => b != memDefault
  | (a, b) :: (a', b') :: t => b != memDefault && decide (a < a') && Memory.wf ((a', b') :: t)

/-- The memory with every byte of a range zero. -/
def Memory.zeroRange (m : Memory) (lo hi : Nat) : Memory := m.filter fun c => c.1 < lo || hi ≤ c.1

/-! ### Free values -/

/-- Draw the next free value: its number, and the state that has used it. -/
def State.draw (s : State) : Nat × State := (s.free, { s with free := s.free + 1 })

/-- Append what leaves the module. -/
def State.emit (s : State) (r : Reply) : State := { s with out := s.out ++ [r] }

/-- An interrupt through a vector of a function's own MSI-X table (R298). -/
def State.interrupt (s : State) (function vector : Nat) : State :=
  s.emit (.msix function vector (Table.get 0 s.hif.msix (2048 * function + vector)))

/-! ### Tables of the state -/

/-- Hall `h` of the module. -/
def State.hall (s : State) (h : Nat) : Hall := Table.get Hall.reset s.halls h
/-- Change hall `h`. -/
def State.modHall (s : State) (h : Nat) (f : Hall → Hall) : State :=
  { s with halls := Table.set Hall.reset s.halls h (f (s.hall h)) }
/-- Change the treadle of hall `h`. -/
def State.modTreadle (s : State) (h : Nat) (f : Treadle → Treadle) : State :=
  s.modHall h fun hl => { hl with treadle := f hl.treadle }
/-- Change the rail keeper of hall `h`. -/
def State.modKeeper (s : State) (h : Nat) (f : Keeper → Keeper) : State :=
  s.modHall h fun hl => { hl with keeper := f hl.keeper }
/-- Ring `g`. -/
def State.ring (s : State) (g : Nat) : Ring := Table.get Ring.reset s.rings g
/-- Change ring `g`. -/
def State.modRing (s : State) (g : Nat) (f : Ring → Ring) : State :=
  { s with rings := Table.set Ring.reset s.rings g (f (s.ring g)) }
/-- The header of page `p`, the BAR0 offset of the page divided by 4,096. -/
def State.page (s : State) (p : Nat) : Page := Table.get Page.zero s.pages p
/-- A counter of page `p`. -/
def State.counter (s : State) (p sel : Nat) : W32 := Table.get 0 s.counters (256 * p + sel)
/-- Add to a counter, modulo 2^32 (R351). -/
def State.bump (s : State) (p sel n : Nat) : State :=
  { s with counters := Table.set 0 s.counters (256 * p + sel) (s.counter p sel + BitVec.ofNat 32 n) }
/-- The key of a knot. -/
def knotKey (h k : Nat) : Nat := 256 * h + k
/-- A knot by its key. -/
def State.knot (s : State) (k : Nat) : Knot := Table.get Knot.reset s.knots k
/-- Change a knot. -/
def State.modKnot (s : State) (k : Nat) (f : Knot → Knot) : State :=
  { s with knots := Table.set Knot.reset s.knots k (f (s.knot k)) }
/-- The key of a loom. -/
def loomKey (h l : Nat) : Nat := 96 * h + l
/-- Loom `l` of hall `h`. -/
def State.loom (s : State) (h l : Nat) : Loom := Table.get Loom.reset s.looms (loomKey h l)
/-- Change a loom. -/
def State.modLoom (s : State) (h l : Nat) (f : Loom → Loom) : State :=
  { s with looms := Table.set Loom.reset s.looms (loomKey h l) (f (s.loom h l)) }
/-- A loom's bobbin unit. -/
def State.bobbin (s : State) (h l : Nat) : Bobbin := Table.get Bobbin.reset s.bobbins (loomKey h l)
/-- Change a bobbin unit. -/
def State.modBobbin (s : State) (h l : Nat) (f : Bobbin → Bobbin) : State :=
  { s with bobbins := Table.set Bobbin.reset s.bobbins (loomKey h l) (f (s.bobbin h l)) }
/-- The ledger of a hall. -/
def State.ledger (s : State) (h : Nat) : Ledger := Table.get Ledger.reset s.ledgers h
/-- Change a ledger. -/
def State.modLedger (s : State) (h : Nat) (f : Ledger → Ledger) : State :=
  { s with ledgers := Table.set Ledger.reset s.ledgers h (f (s.ledger h)) }
/-- The tensor-cache lines of a hall. -/
def State.cache (s : State) (h : Nat) : List CacheLine := Table.get [] s.caches h
/-- Replace the tensor-cache lines of a hall. -/
def State.setCache (s : State) (h : Nat) (c : List CacheLine) : State := { s with caches := Table.set [] s.caches h c }
/-- A stream descriptor. -/
def State.stream (s : State) (h d : Nat) : Stream := Table.get Stream.reset s.streams (4096 * h + d)
/-- Change a stream descriptor. -/
def State.modStream (s : State) (h d : Nat) (f : Stream → Stream) : State :=
  { s with streams := Table.set Stream.reset s.streams (4096 * h + d) (f (s.stream h d)) }
/-- A selvedge. -/
def State.selv (s : State) (p : Nat) : Selvedge := Table.get Selvedge.reset s.selvs p
/-- Change a selvedge. -/
def State.modSelv (s : State) (p : Nat) (f : Selvedge → Selvedge) : State :=
  { s with selvs := Table.set Selvedge.reset s.selvs p (f (s.selv p)) }
/-- A flight. -/
def State.flight (s : State) (p : Nat) : Flight := Table.get Flight.reset s.flights p
/-- Change a flight. -/
def State.modFlight (s : State) (p : Nat) (f : Flight → Flight) : State :=
  { s with flights := Table.set Flight.reset s.flights p (f (s.flight p)) }
/-- The key of a window-table entry. -/
def windowKey (h i : Nat) : Nat := 65536 * h + i
/-- A window-table entry (R39). -/
def State.window (s : State) (k : Nat) : Block512 := Table.get 0 s.windows k
/-- Write a window-table entry. -/
def State.setWindow (s : State) (k : Nat) (w : Block512) : State := { s with windows := Table.set 0 s.windows k w }
/-- The arrival count of a window (R187). -/
def State.arrival (s : State) (k : Nat) : Nat := Table.get 0 s.arrived k
/-- Set an arrival count. -/
def State.setArrival (s : State) (k n : Nat) : State := { s with arrived := Table.set 0 s.arrived k n }
/-- The key of a lane of a loom queue. -/
def laneKey (h l : Nat) (q : Queue) (ln : Lane) : Nat :=
  8 * loomKey h l + 2 * (match q with | .load => 0 | .matrix => 1 | .landing => 2 | .store => 3) +
    (match ln with | .forward => 0 | .backward => 1)
/-- The pieces of a lane, head first. -/
def State.lane (s : State) (k : Nat) : List Piece := Table.get [] s.lanes k
/-- Replace the pieces of a lane. -/
def State.setLane (s : State) (k : Nat) (ps : List Piece) : State := { s with lanes := Table.set [] s.lanes k ps }
/-- The key of a loom queue's selector. -/
def selKey (h l : Nat) (q : Queue) : Nat := laneKey h l q .forward / 2
/-- The dobby selector's memory for a loom queue. -/
def State.selector (s : State) (k : Nat) : Selector := Table.get Selector.reset s.sel k
/-- Replace it. -/
def State.setSelector (s : State) (k : Nat) (v : Selector) : State := { s with sel := Table.set Selector.reset s.sel k v }
/-- A routine of the pattern book. -/
def State.routine (s : State) (h i : Nat) : Option Routine := Table.get none s.patterns (1024 * h + i)
/-- Replace a routine. -/
def State.setRoutine (s : State) (h i : Nat) (r : Option Routine) : State :=
  { s with patterns := Table.set none s.patterns (1024 * h + i) r }

/-- The item with an id, if it is in the module. -/
def State.item (s : State) (i : ItemId) : Option Item := s.items.find? fun t => t.id == i
/-- Change an item. -/
def State.modItem (s : State) (i : ItemId) (f : Item → Item) : State :=
  { s with items := s.items.map fun t => if t.id == i then f t else t }

/-! ### Ring states (R129) -/

/-- The state field of a ring entry. -/
def ringState (e : Block512) : Nat := fieldNat e 136 2
/-- DISABLED, ENABLED, FENCED and ERROR. -/
def ringDisabled : Nat := 0
def ringEnabled : Nat := 1
def ringFenced : Nat := 2
def ringError : Nat := 3
/-- Whether any ring of the module is ENABLED (R140). -/
def State.anyRingEnabled (s : State) : Bool := s.rings.any fun p => ringState p.2.entry == ringEnabled

/-! ### Presence (R2–R4, R286, R309) -/

/-- Whether hall `h` was fused off or failed at start-up. -/
def State.hallAbsent (s : State) (h : Nat) : Bool :=
  decide (h ≥ 8) || s.part.hallFused.getLsbD h || !s.boot.hallsOk.getLsbD h
/-- Whether hall `h` was lost at run time. -/
def State.hallLost (s : State) (h : Nat) : Bool := s.boot.hallsLost.getLsbD h
/-- Whether hall `h` can be named: neither absent nor lost (R288). -/
def State.hallHere (s : State) (h : Nat) : Bool := !s.hallAbsent h && !s.hallLost h
/-- Whether the flight `p` is absent: fused off, not of the grade (R33), or failed at start-up (R309). -/
def State.flightAbsent (s : State) (p : Nat) : Bool :=
  decide (p ≥ 12) || s.part.flightFused.getLsbD p || s.boot.flightsFailed.getLsbD p ||
    (s.part.grade == 2 && p % 2 == 1)
/-- The home hall of a flight and of a selvedge (R33). -/
def homeHall (p : Nat) : Nat :=
  match p with
  | 0 => 0 | 1 => 7 | 2 => 3 | 3 => 4 | 4 => 1 | 5 => 6 | 6 => 2 | 7 => 5 | 8 => 0 | 9 => 7 | 10 => 3 | 11 => 4 | _ => 0
/-- Whether the selvedge `p` is present (R233); it is out of service with its hall's die (R29). -/
def State.selvPresent (s : State) (p : Nat) : Bool :=
  (p == 12 || (decide (p < 12) && !s.flightAbsent p)) && !s.boot.diesFailed.getLsbD (homeHall p)
/-- Whether the module has come up. -/
def State.ready (s : State) : Bool := s.boot.state == .ready
/-- Whether hall `h` has ended start-up, is not lost and the module is up. -/
def State.hallUp (s : State) (h : Nat) : Bool := s.ready && s.hallHere h

/-- Whether the looms and the treadle of hall `h` run: the hall is up and neither parked nor off (R334). -/
def State.hallRuns (s : State) (h : Nat) : Bool := s.hallUp h && decide ((s.hall h).keeper.state.toNat < 2)

/-- Whether the host interface has power and a path: neither OFF nor in MODULE_SLEEP, and hall 0's die, through which every host access
passes, is alive (R283, R331). -/
def State.hostInterfaceUp (s : State) : Bool := !s.power.off && !s.power.asleep && !s.boot.diesFailed.getLsbD 0

/-- Whether the blocks other than the newel have power (R330, R331). -/
def State.awake (s : State) : Bool := !s.power.off && !s.power.asleep

/-! ### Pages (R344) -/

/-- Page numbers: the BAR0 offset divided by 4,096 (R344). -/
def pgModule : Nat := 0
def pgNewel : Nat := 1
def pgPower : Nat := 2
def pgSecurity : Nat := 3
def pgHif : Nat := 4
def pgTreadle (h : Nat) : Nat := 0x1000 * (h + 1)
def pgCorridor (h : Nat) : Nat := 0x1000 * (h + 1) + 1
def pgGallery (h : Nat) : Nat := 0x1000 * (h + 1) + 2
def pgHbm (h : Nat) : Nat := 0x1000 * (h + 1) + 3
def pgLedger (h : Nat) : Nat := 0x1000 * (h + 1) + 4
def pgStream (h : Nat) : Nat := 0x1000 * (h + 1) + 5
def pgWindow (h : Nat) : Nat := 0x1000 * (h + 1) + 6
def pgKeeper (h : Nat) : Nat := 0x1000 * (h + 1) + 7
def pgSwitch (h : Nat) : Nat := 0x1000 * (h + 1) + 8
def pgLoom (h l : Nat) : Nat := 0x1000 * (h + 1) + 0x800 + l
def pgFlight (p : Nat) : Nat := 0x9000 + 16 * p
def pgSelvedge (p : Nat) : Nat := if p = 12 then 0xA000 else 0x9001 + 16 * p
def pgExpress : Nat := 0xA001

/-! ### Module addresses (R36, R37) -/

/-- The size of a loom store. -/
def storeSize (st : Nat) : Nat := if st = 2 then 2 ^ 19 else 2 ^ 20
/-- The size of a hall's gallery: 6 GiB. -/
def gallerySize : Nat := 6 * 2 ^ 30
/-- The size of an HBM stack: 72 GiB. -/
def stackSize : Nat := 72 * 2 ^ 30

/-- The space of a module address. -/
def addrSpace (a : Nat) : Nat := (a >>> 60) % 16
/-- The hall field of an address in space 0, 1 or 2. -/
def addrHall (a : Nat) : Nat := (a >>> 57) % 8
/-- The offset within the region: below 1 MiB in space 0, the gallery or stack offset, or the I/O virtual address. -/
def addrOffset (a : Nat) : Nat :=
  match addrSpace a with
  | 0 => a % 2 ^ 20
  | 1 => a % 2 ^ 33
  | 2 => a % 2 ^ 37
  | 3 => a % 2 ^ 57
  | 5 => a % 2 ^ 24
  | _ => a % 2 ^ 60
/-- The loom of a space-0 address, and its store. -/
def addrLoom (a : Nat) : Nat := (a >>> 50) % 128
def addrStore (a : Nat) : Nat := (a >>> 48) % 4

/-- The address of hall gallery offset `o` and of stack offset `o`. -/
def galleryAddr (h o : Nat) : Nat := 2 ^ 60 + (h <<< 57) + o
def hbmAddr (h o : Nat) : Nat := 2 * 2 ^ 60 + (h <<< 57) + o
/-- The address of a byte of a loom store. -/
def storeAddr (h l st o : Nat) : Nat := (h <<< 57) + (l <<< 50) + (st <<< 48) + o

/-- Whether an address has no reserved bit set and an offset below its limit (R36, R37). -/
def addrShapeOk (a : Nat) : Bool :=
  match addrSpace a with
  | 0 => (a >>> 20) % 2 ^ 28 == 0 && addrLoom a < 96 && addrStore a < 3 && a % 2 ^ 20 < storeSize (addrStore a)
  | 1 => (a >>> 33) % 2 ^ 24 == 0 && a % 2 ^ 33 < gallerySize
  | 2 => (a >>> 37) % 2 ^ 20 == 0 && a % 2 ^ 37 < stackSize
  | 3 => (a >>> 57) % 8 == 0
  | 5 => (a >>> 24) % 2 ^ 36 == 0
  | _ => false

/-- Whether an address lies in space 0, 1 or 2 of a hall that is absent or lost (R37, R288). -/
def State.addrAbsent (s : State) (a : Nat) : Bool := addrSpace a < 3 && !s.hallHere (addrHall a)

/-- The end, exclusive, of the valid region of R36 that an address lies in. -/
def regionEnd (a : Nat) : Nat :=
  a - addrOffset a + (match addrSpace a with
    | 0 => storeSize (addrStore a)
    | 1 => gallerySize
    | 2 => stackSize
    | 3 => 2 ^ 57
    | 5 => 2 ^ 24
    | _ => 0)

/-- Whether `n` bytes from `a` lie within one valid region of R36. -/
def rangeOk (a n : Nat) : Bool := addrShapeOk a && decide (a + n ≤ regionEnd a)

/-- Whether a gallery offset falls in the tensor-cache range for share k: the top k × 4 MiB of its bank group (R32). -/
def inCacheRange (k o : Nat) : Bool := decide (o % 2 ^ 26 ≥ 2 ^ 26 - k * 2 ^ 22)

/-- Whether `n` bytes of gallery from offset `o` meet the tensor-cache range. -/
def meetsCacheRange (k o n : Nat) : Bool :=
  decide (n > 0) && (inCacheRange k o || inCacheRange k (o + n - 1) || (decide (k > 0) && o / 2 ^ 26 != (o + n - 1) / 2 ^ 26))

/-- Whether `n` bytes from `a` are scratch that is really tensor cache (R32). -/
def State.hitsCacheRange (s : State) (a n : Nat) : Bool :=
  addrSpace a == 1 && meetsCacheRange (s.hall (addrHall a)).share.toNat (addrOffset a) n

/-- Whether `n` bytes from `a` meet a released cache range that is still being zeroed (R212). -/
def State.hitsZeroing (s : State) (a n : Nat) : Bool :=
  addrSpace a == 1 && (s.hall (addrHall a)).shareBusy && meetsCacheRange (s.hall (addrHall a)).shareOld.toNat (addrOffset a) n

/-- The address as the memory lists it: host memory of function 1 carries bit 64 (R298). -/
def hostKey (function a : Nat) : Nat := if addrSpace a = 3 ∧ function = 1 then a + 2 ^ 64 else a

/-! ### Poison and tokens (R203, R228) -/

/-- The 64-bit words that `n` bytes from `a` touch. -/
def wordsOf (a n : Nat) : List Nat :=
  if n = 0 then [] else (List.range ((a + n - 1) / 8 - a / 8 + 1)).map fun i => 8 * (a / 8 + i)

/-- Whether a range touches a poisoned word. -/
def State.poisoned (s : State) (a n : Nat) : Bool :=
  decide (n > 0) && s.poison.any fun w => decide (w < a + n) && decide (a < w + 8)

/-- A write of `n` bytes from `a` clears the poison of every word it covers whole (R228). -/
def State.unpoison (s : State) (a n : Nat) : State :=
  { s with poison := s.poison.filter fun w => !(decide (a ≤ w) && decide (w + 8 ≤ a + n)) }

/-- Poison a word (R228). -/
def State.addPoison (s : State) (w : Nat) : State := { s with poison := insertNat s.poison w }

/-- The 64-byte granules that `n` bytes of a loom store from `a` touch, by address (R203). -/
def granulesOf (a n : Nat) : List Nat :=
  if n = 0 then [] else (List.range ((a + n - 1) / 64 - a / 64 + 1)).map fun i => 64 * (a / 64 + i)

/-- Whether every granule of a range reads full; whether every one reads empty. -/
def State.allFull (s : State) (a n : Nat) : Bool := (granulesOf a n).all fun g => s.full.contains g
def State.allEmpty (s : State) (a n : Nat) : Bool := (granulesOf a n).all fun g => !s.full.contains g

/-- Mark every granule of a range full, or empty. -/
def State.markFull (s : State) (a n : Nat) : State := { s with full := (granulesOf a n).foldl insertNat s.full }
def State.markEmpty (s : State) (a n : Nat) : State :=
  { s with full := s.full.filter fun g => !(granulesOf a n).contains g }

end Sys2Proof.Machine
end

