-- ==== Sys2Proof/Machine/Flags.lean ====
section
/-!
DEFINITION. The flags of the module: status codes and their classes (R7, R8), page events, recorded faults and the event
summary (R347–R350, R354, R355).
-/
namespace Sys2Proof.Machine

/-- The code of a status (R7). -/
def statusCode : Status → BitVec 8
  | .ok => 0x00
  | .stepAdopted => 0x01
  | .precondFallback => 0x02
  | .prunedCatchup => 0x03
  | .reservedField => 0x10
  | .level => 0x11
  | .badOpcode => 0x12
  | .engineAbsent => 0x13
  | .lengthBound => 0x14
  | .rearmOverrun => 0x15
  | .quota => 0x16
  | .conflict => 0x17
  | .windowClosed => 0x18
  | .starved => 0x19
  | .upstream => 0x1A
  | .stepHeld => 0x1B
  | .peerLost => 0x1C
  | .eccUncorr => 0x1D
  | .key => 0x1E
  | .aborted => 0x1F
  | .hallLost => 0x20
  | .access => 0x21
  | .timeout => 0x22

/-- Whether a status is of the failure class: a code of 0x10 or above (R8). -/
def statusFailed (st : Status) : Bool := decide (0x10 ≤ (statusCode st).toNat)

/-- `PG_EVT_PEND`: `RAW` AND `MASK` (R347). -/
def Page.pend (p : Page) : W32 := p.raw &&& p.mask

/-- The bit of `MOD_EVT_SUM` that a page counts in (R354). -/
def sumBit (p : Nat) : Nat :=
  if p < 0x1000 then 20
  else if p < 0x9000 then p / 0x1000 - 1
  else if p < 0xA000 then 8 + (p - 0x9000) / 16
  else 21

/-- Whether the block of a page is absent, so that its page reads as zero (R3, R347). -/
def State.pageAbsent (s : State) (p : Nat) : Bool :=
  if p < 0x1000 then false
  else if p < 0x9000 then !s.hallHere (p / 0x1000 - 1)
  else if p < 0xA000 then s.flightAbsent ((p - 0x9000) / 16)
  else false

/-- `MOD_EVT_SUM` (R354). -/
def State.eventSum (s : State) : W32 :=
  s.pages.foldl (fun acc p => if p.2.pend = 0 || s.pageAbsent p.1 then acc else acc ||| (1#32 <<< sumBit p.1)) 0

/-- Change a page header, and raise the vector when the summary leaves zero while `ENABLE` is 1 (R355). -/
def State.modPage (s : State) (p : Nat) (f : Page → Page) : State :=
  let s' := { s with pages := Table.set Page.zero s.pages p (f (s.page p)) }
  if s.eventSum = 0 ∧ s'.eventSum ≠ 0 ∧ s.mod.vectorEnable then
    s'.interrupt (if s.mod.function then 1 else 0) s.mod.vector.toNat
  else s'

/-- A page header with event bit `b` set (R349). -/
def Page.withEvent (b : Nat) (p : Page) : Page := { p with raw := p.raw ||| (1#32 <<< b) }

/-- Set event bit `b` of a page (R349). -/
def State.event (s : State) (p b : Nat) : State := s.modPage p (Page.withEvent b)

/-- A page header with one more fault recorded (R350); `FAULT` is bit 31 (R349). -/
def Page.withFault (code : BitVec 8) (i0 i1 : W32) (p : Page) : Page :=
  let p := p.withEvent 31
  if p.count = 0 then { p with code := code, info0 := i0, info1 := i1, count := 1 }
  else { p with count := if p.count = 0xFFFF then p.count else p.count + 1 }

/-- Record a fault on a page (R350). -/
def State.fault (s : State) (p : Nat) (st : Status) (i0 i1 : W32) : State :=
  s.modPage p (Page.withFault (statusCode st) i0 i1)

/-- A page header after a write of `v` to `PG_EVT_CLR` (R347, R350). -/
def Page.cleared (v : W32) (p : Page) : Page :=
  let p := { p with raw := p.raw &&& ~~~v }
  if v.getLsbD 31 then { p with code := 0, count := 0, info0 := 0, info1 := 0 } else p

/-- The word of `PG_FAULT_CODE` (R347). -/
def Page.faultWord (p : Page) : W32 := (p.code.setWidth 32) ||| ((p.count.setWidth 32) <<< 16)

/-- The faults a treadle page records for a refused register write. -/
def State.refuse (s : State) (p : Nat) (value : W32) : State := s.fault p .access value 0

end Sys2Proof.Machine
end

