-- ==== Sys2Proof/Machine/Newel.lean ====
section
/-!
DEFINITION. The newel: its time (R339, R340), the eight comparators and what their trips do (R341, R342), the resources they claim
(R290), and how the module wakes (R331).
-/
namespace Sys2Proof.Machine

/-! ### Comparators (R341, R342) -/

/-- The value of a comparator at reset; 0 where R341 gives none (log 4). -/
def cmpReset : Nat → W64
  | 0 => 740
  | 1 => 920
  | 2 => 105
  | _ => 0
/-- `NWL_CMPn_VAL`. -/
def State.cmpVal (s : State) (n : Nat) : W64 := Table.get (cmpReset n) s.newel.val n
/-- The stored bits of `NWL_CMPn_CTL`. -/
def State.cmpBits (s : State) (n : Nat) : W32 := Table.get 0 s.newel.ctl n
/-- Comparators 0, 1 and 4 are always in service. -/
def cmpFixed (n : Nat) : Bool := n == 0 || n == 1 || n == 4
/-- The time comparators. -/
def cmpTimed (n : Nat) : Bool := n == 5 || n == 6 || n == 7
/-- `ENABLE`, `WAKE`, `ALT` and `TRIPPED` of a comparator. -/
def State.cmpEnabled (s : State) (n : Nat) : Bool := cmpFixed n || (s.cmpBits n).getLsbD 0
def State.cmpWake (s : State) (n : Nat) : Bool := (s.cmpBits n).getLsbD 1
def State.cmpAlt (s : State) (n : Nat) : Bool := (s.cmpBits n).getLsbD 2
def State.cmpTripped (s : State) (n : Nat) : Bool := (s.cmpBits n).getLsbD 3
/-- `NWL_CMPn_CTL` as it reads. -/
def State.cmpCtl (s : State) (n : Nat) : W32 := if cmpFixed n then s.cmpBits n ||| 1 else s.cmpBits n

/-- ALERT# is held low while comparator 2 is tripped with `ALT`, or, where PLDM holds it, while PLDM has an event pending (R290, R313). -/
def State.driveAlert (s : State) : State :=
  { s with newel := { s.newel with alertLow := (s.cmpAlt 2 && s.cmpTripped 2) || (s.newel.pldmAlert && s.newel.pldmPending) } }

/-- A trip of a comparator that watches a sensor of R313 is an event that PLDM reports on ALERT#, where it holds that pin (log 13). -/
def State.noteSensor (s : State) (n : Nat) : State :=
  if s.newel.pldmAlert && decide (n < 4) then { s with newel := { s.newel with pldmPending := true } } else s

/-- Store the bits of a comparator. -/
def State.setCmp (s : State) (n : Nat) (v : W32) : State :=
  ({ s with newel := { s.newel with ctl := Table.set 0 s.newel.ctl n v } } : State).driveAlert

/-- Store the value of a comparator; a write arms it for one trip. -/
def State.setCmpVal (s : State) (n : Nat) (v : W64) : State :=
  { s with newel := { s.newel with
      val := Table.set (cmpReset n) s.newel.val n v, spent := s.newel.spent &&& ~~~(1#8 <<< n) } }

/-- The module wakes: start-up begins again from step 1 (R331). -/
def State.wake (s : State) : State :=
  { s with power := { s.power with asleep := false }, newel := { s.newel with firstLockDue := true } }

/-- A trip sets `TRIPPED` and raises the newel page's event; in MODULE_SLEEP it wakes the module with `WAKE`. -/
def State.trip (s : State) (n : Nat) : State :=
  let wakes := s.power.asleep && s.cmpWake n
  let s := ((s.noteSensor n).setCmp n (s.cmpBits n ||| 8)).event pgNewel n
  if wakes then s.wake else s

/-- Whether a time comparator is due: in service, its value passed, and not tripped before for that value. -/
def State.timeDue (s : State) (n : Nat) : Bool :=
  cmpTimed n && s.cmpEnabled n && !s.newel.spent.getLsbD n && decide ((s.cmpVal n).toNat ≤ s.newel.time.toNat)

/-- The trip of a time comparator and its second feature: a WAKE0# pulse, the PLDM heartbeat, which advances the value, or a PPS_OUT
pulse. -/
def State.timeTrip (s : State) (n : Nat) : State :=
  if s.timeDue n then
    let s := { s with newel := { s.newel with spent := s.newel.spent ||| (1#8 <<< n) } }
    let s := s.trip n
    if s.cmpAlt n then
      if n = 5 then s.emit .wakePulse
      else if n = 6 then (s.emit .heartbeat).setCmpVal 6 (s.cmpVal 6 + s.newel.heartbeatNs)
      else s.emit .ppsPulse
    else s
  else s

/-! ### Writes (R290, R342) -/

/-- The resource of R290 that a write of `v` to comparator `n` would give to a second feature. -/
def State.cmpConflict (s : State) (n : Nat) (v : W32) : Option Nat :=
  let wake := v.getLsbD 1
  let alt := v.getLsbD 2
  if n = 2 then (if alt && s.newel.pldmAlert then some 5 else none)
  else if n = 5 ∨ n = 6 then
    if (wake && alt) || (s.cmpWake n && alt) || (s.cmpAlt n && wake) then some (n - 2) else none
  else if n = 7 then
    let watchdog := s.cmpEnabled 7 && !s.cmpAlt 7
    if (alt && watchdog) || (v.getLsbD 0 && !alt && s.cmpAlt 7) then some 2 else if alt && s.newel.ppsOut then some 1 else none
  else none

/-- The bits of `NWL_CMPn_CTL` that a write sets. -/
def cmpMask : Nat → W32
  | 2 | 5 | 6 | 7 => 7
  | 3 => 3
  | _ => 0

/-- A write of `NWL_CMPn_CTL`. -/
def State.cmpCtlWrite (s : State) (n : Nat) (v : W32) : State :=
  match s.cmpConflict n v with
  | some r => s.fault pgNewel .conflict (BitVec.ofNat 32 r) 0
  | none =>
    let kept := (s.cmpBits n &&& 8) &&& ~~~v
    (s.setCmp n ((v &&& cmpMask n) ||| kept)).timeTrip n

/-- Whether a value is in range for a comparator. -/
def cmpInRange (n : Nat) (v : W64) : Bool :=
  if n = 2 then decide (60 ≤ v.toNat ∧ v.toNat ≤ 110) else if n = 3 then decide (v.toNat ≤ 2000) else cmpTimed n

/-- A write of `NWL_CMPn_VAL`. -/
def State.cmpValWrite (s : State) (n : Nat) (v : W64) : State :=
  if cmpFixed n ∨ n ≥ 8 then s
  else if cmpInRange n v then (s.setCmpVal n v).timeTrip n
  else s.refuse pgNewel (v.setWidth 32)

/-! ### Trips the environment reports (R341) -/

/-- Comparator 2 at a junction temperature. -/
def State.temperatureTrip (s : State) (celsius : Nat) : State :=
  if s.newel.powered && s.cmpEnabled 2 && decide ((s.cmpVal 2).toNat ≤ celsius) then s.trip 2 else s

/-- Comparator 3 at a flow; with a threshold of 0 it never trips. -/
def State.flowTrip (s : State) (pulses : Nat) : State :=
  if s.newel.powered && s.cmpEnabled 3 && decide (pulses < (s.cmpVal 3).toNat) then s.trip 3 else s

/-- `MODULE_WAKE`: the trip of an enabled comparator with `WAKE`, or an I3C wake command. -/
def State.moduleWake (s : State) (c : WakeCause) : State :=
  if s.newel.powered && s.power.asleep then
    match c with
    | .i3c => s.wake
    | .comparator n =>
      if cmpTimed n then (if s.cmpWake n then s.timeTrip n else s)
      else if s.cmpEnabled n && s.cmpWake n then s.trip n else s
  else s

/-! ### Time (R280, R339, R340) -/

/-- The largest offset that is slewed at the first lock: 1 ms. -/
def stepLimitNs : Int := 1000000

/-- `PTP_LOCK`: the reference is `offset` ns ahead of the count. Only the first lock after start-up or wake may step, and only
forward. -/
def State.ptpLock (s : State) (offset : Int) : State :=
  if s.newel.powered && s.awake then
    let stepIt := s.newel.firstLockDue && decide (offset > stepLimitNs)
    let n := s.newel
    { s with newel := { n with
        time := if stepIt then n.time + BitVec.ofInt 64 offset else n.time, slewNs := if stepIt then 0 else offset
        source := 1, firstLockDue := false } }
  else s

/-- `PTP_LOCK_LOSS`: the count runs on the crystal. -/
def State.ptpLoss (s : State) : State :=
  if s.newel.powered ∧ s.newel.source = 1 then { s with newel := { s.newel with source := 0, slewNs := 0 } } else s

/-- `PPS_IN` as the grandmaster reference. While PTP holds a lock to another master, whether the input serves is a free value (log 4). -/
def State.ppsIn (s : State) : State :=
  if s.newel.powered && s.awake then
    let use (s : State) : State := { s with newel := { s.newel with source := 2 } }
    if s.newel.source = 1 then
      let (n, s) := s.draw
      if (Config.freeWord n).getLsbD 0 then use s else s
    else use s
  else s

/-! ### The boundary clock (R280; log 4) -/

/-- The clock of this module as its own announce messages give it: the defaults of the default profile, and its serial. -/
def State.ownClock (s : State) : PtpClock :=
  { priority1 := 128, clockClass := 248, accuracy := 0xFE, variance := 0xFFFF, priority2 := 128, identity := s.part.serial, steps := 0 }

/-- The figures by which the best-master-clock algorithm compares clocks, in order. -/
def clockFigures (c : PtpClock) : List Nat :=
  [c.priority1, c.clockClass, c.accuracy, c.variance, c.priority2, c.identity.toNat, c.steps]

/-- Whether a list of figures comes before another of its length: the first that differs decides. -/
def figuresBefore : List Nat → List Nat → Bool
  | a :: as, b :: bs => decide (a < b) || (a == b && figuresBefore as bs)
  | _, _ => false

/-- Whether a clock is better than another. -/
def betterClock (a b : PtpClock) : Bool := figuresBefore (clockFigures a) (clockFigures b)

/-- The best of the announced clocks and this module's own, with the port it was heard on. -/
def State.bestMaster (s : State) : PtpClock × Option Nat :=
  s.newel.foreign.foldl (fun best p => match p.2 with
    | some c => if betterClock c best.1 then (c, some p.1) else best
    | none => best) (s.ownClock, none)

/-- Let the clock follow the best master. -/
def State.followMaster (s : State) : State := { s with newel := { s.newel with slave := s.bestMaster.2 } }

/-- Keep, or forget, the announce heard on a port. -/
def State.setForeign (s : State) (p : Nat) (c : Option PtpClock) : State :=
  ({ s with newel := { s.newel with foreign := Table.set none s.newel.foreign p c } } : State).followMaster

/-- The EtherType of PTP, and the frame of a datagram on a port (R258, R259, R280). -/
def etherPtp : BitVec 16 := 0x88F7
def State.frameOf (s : State) (p prio : Nat) (ty : BitVec 16) : Option Frame :=
  if (s.flight p).mode then some ⟨(s.flight p).ethPeer, Config.ethSelf s.part.serial p, prio, ty⟩ else none

/-- A datagram has come in on a port (R269). -/
def State.hear (s : State) (p : Nat) : State :=
  if s.flightAbsent p then s else s.modFlight p fun f => { f with heardAt := s.newel.time }

/-- Whether a port is UP for messages of the clock. -/
def State.clockPort (s : State) (p : Nat) : Bool := s.ready && !s.flightAbsent p && (s.flight p).link == .up

/-! ### Commands -/

/-- `PTP_LOCK` (R339). -/
def execPtpLock (offsetNs : Int) (s : State) : Host.Outcome State Fault Refusal := .next (s.ptpLock offsetNs)
/-- `PTP_LOCK_LOSS` (R280, R340). -/
def execPtpLockLoss (s : State) : Host.Outcome State Fault Refusal := .next s.ptpLoss
/-- `PPS_IN` (R280, R340). -/
def execPpsIn (s : State) : Host.Outcome State Fault Refusal := .next s.ppsIn
/-- `MODULE_WAKE` (R331). -/
def execModuleWake (cause : WakeCause) (s : State) : Host.Outcome State Fault Refusal := .next (s.moduleWake cause)
/-- `TEMPERATURE_TRIP` (R341). -/
def execTemperatureTrip (celsius : Nat) (s : State) : Host.Outcome State Fault Refusal := .next (s.temperatureTrip celsius)
/-- `COOLANT_FLOW_TRIP` (R341). -/
def execCoolantFlowTrip (pulses : Nat) (s : State) : Host.Outcome State Fault Refusal := .next (s.flowTrip pulses)
/-- `WAKE_TIMER_0_TRIP` (R341). -/
def execWakeTimer0Trip (s : State) : Host.Outcome State Fault Refusal := .next (if s.newel.powered then s.timeTrip 5 else s)
/-- `WAKE_TIMER_1_TRIP` (R341, R342). -/
def execWakeTimer1Trip (s : State) : Host.Outcome State Fault Refusal := .next (if s.newel.powered then s.timeTrip 6 else s)
/-- `GENERAL_COMPARATOR_TRIP` (R341). -/
def execGeneralComparatorTrip (s : State) : Host.Outcome State Fault Refusal := .next (if s.newel.powered then s.timeTrip 7 else s)

end Sys2Proof.Machine
end

