-- ==== Sys2Proof/Machine/ModulePages.lean ====
section
/-!
DEFINITION. Register pages (R344–R351) and the five module pages, which an operator command reaches through space 5 (R353): the module page
(R354), the newel (R342), the power stage (R332), the security page (R324) and the host-interface page (R307).
-/
namespace Sys2Proof.Machine

/-! ### Pages (R344, R347, R348) -/

/-- The page at a page number, and the numbers of the block it belongs to. -/
inductive PageId where
  | module | newel | power | security | hif
  | treadle (h : Nat) | corridor (h : Nat) | gallery (h : Nat) | hbm (h : Nat) | ledger (h : Nat) | stream (h : Nat)
  | window (h : Nat) | keeper (h : Nat) | switch (h : Nat) | loom (h l : Nat)
  | flight (p : Nat) | selvedge (p : Nat) | express
  deriving DecidableEq, Repr

/-- The page of a hall by its number within the hall. -/
def hallPage (h r : Nat) : Option PageId :=
  match r with
  | 0 => some (.treadle h) | 1 => some (.corridor h) | 2 => some (.gallery h) | 3 => some (.hbm h) | 4 => some (.ledger h)
  | 5 => some (.stream h) | 6 => some (.window h) | 7 => some (.keeper h) | 8 => some (.switch h)
  | _ => if 0x800 ≤ r ∧ r < 0x860 then some (.loom h (r - 0x800)) else none

/-- The page with a number; none where an offset names no page. -/
def pageOf (n : Nat) : Option PageId :=
  match n with
  | 0 => some .module | 1 => some .newel | 2 => some .power | 3 => some .security | 4 => some .hif
  | _ =>
    if n < 0x1000 then none
    else if n < 0x9000 then hallPage (n / 0x1000 - 1) (n % 0x1000)
    else if n < 0x90C0 then
      (if n % 16 = 0 then some (.flight ((n - 0x9000) / 16)) else if n % 16 = 1 then some (.selvedge ((n - 0x9000) / 16)) else none)
    else if n = 0xA000 then some (.selvedge 12) else if n = 0xA001 then some .express else none

/-- `TYPE` and `INSTANCE`. -/
def PageId.ident : PageId → Nat × Nat
  | .module => (0x01, 0) | .newel => (0x02, 0) | .power => (0x03, 0) | .security => (0x04, 0) | .hif => (0x05, 0)
  | .treadle h => (0x10, h) | .corridor h => (0x11, h) | .gallery h => (0x12, h) | .hbm h => (0x13, h) | .ledger h => (0x14, h)
  | .stream h => (0x15, h) | .window h => (0x16, h) | .keeper h => (0x17, h) | .switch h => (0x18, h) | .loom _ l => (0x20, l)
  | .flight p => (0x30, p) | .selvedge p => (0x31, p) | .express => (0x32, 0)

/-- `PG_CAPS.COUNT`. -/
def PageId.caps : PageId → Nat
  | .treadle _ => 2048 | .ledger _ => 2048 | .stream _ => 4096 | .window _ => 65536 | .gallery _ => 96 | .loom _ _ => 4
  | .selvedge _ => 512
  | .module | .newel | .power | .security | .hif | .corridor _ | .hbm _ | .keeper _ | .switch _ | .flight _ | .express => 0

/-- The hall of a page. -/
def PageId.hall : PageId → Option Nat
  | .treadle h | .corridor h | .gallery h | .hbm h | .ledger h | .stream h | .window h | .keeper h | .switch h | .loom h _ => some h
  | .module | .newel | .power | .security | .hif | .flight _ | .selvedge _ | .express => none

/-- Whether the block of a page is present. -/
def State.pagePresent (s : State) : PageId → Bool
  | .flight p => !s.flightAbsent p
  | .selvedge p => s.selvPresent p
  | id => match id.hall with
    | some h => s.hallHere h
    | none => true

/-- The module, security and host-interface pages work before READY (R305, R309). -/
def PageId.early : PageId → Bool
  | .module | .security | .hif => true
  | _ => false

/-- Whether a page answers at all. -/
def State.pageAnswers (s : State) (id : PageId) : Bool := s.hostInterfaceUp && (id.early || s.ready)

/-- `PG_STATE.STATE`; LOCKED, for which R347 has no value, reads as FAILED. -/
def State.pageState (s : State) (id : PageId) : Nat :=
  if !s.pagePresent id then
    match id.hall with
    | some h => if s.hallLost h && !s.hallAbsent h then 3 else 4
    | none => 4
  else match s.boot.state with
    | .booting => 0
    | .failed | .locked => 5
    | .ready => match id.hall with
      | some h => if (s.hall h).treadle.diag = .inside then 2 else 1
      | none => 1

/-- A number as a register word. -/
def wordOf (n : Nat) : W32 := BitVec.ofNat 32 n
/-- A flag at a bit of a register. -/
def flagAt (b : Bool) (i : Nat) : Nat := if b then 2 ^ i else 0

/-- `PG_CTRL` of the module page and of a treadle page. -/
def State.pageCtrl (s : State) : PageId → Nat
  | .module => flagAt s.mod.sleep 1
  | .treadle h => flagAt ((s.hall h).treadle.diag != .none) 0 + (s.hall h).treadle.diagRing.toNat * 4
  | _ => 0

/-- The selectors of the stall-cause counters of a page (R294). -/
def PageId.stallCounter (id : PageId) (sel : Nat) : Bool :=
  match id with
  | .loom _ _ => decide (0x30 ≤ sel ∧ sel < 0x50)
  | .flight _ => decide (0x30 ≤ sel ∧ sel < 0x38)
  | _ => false

/-- `PG_COUNT_VAL` (R351). A stall-cause counter is 0 until start-up begins and free from then on (log 42). -/
def State.countVal (s : State) (n : Nat) (id : PageId) (sel : Nat) : W32 :=
  if sel < 0x20 then 0
  else if id.stallCounter sel && s.boot.step != 0 then Config.stallSteps (256 * n + sel) s.newel.time
  else s.counter n sel

/-- A register of the page header. -/
def State.headerRead (s : State) (n : Nat) (id : PageId) (rel : Nat) : W32 :=
  let p := s.page n
  match rel with
  | 0x000 => wordOf (id.ident.1 + id.ident.2 * 256 + flagAt (s.pagePresent id) 16)
  | 0x004 => wordOf (1 + s.mod.levelAct.toNat * 256)
  | 0x008 => wordOf id.caps
  | 0x00C => wordOf (s.pageState id)
  | 0x010 => wordOf (s.pageCtrl id)
  | 0x014 => p.raw
  | 0x018 => p.mask
  | 0x01C => p.pend
  | 0x024 => p.faultWord
  | 0x028 => p.info0
  | 0x02C => p.info1
  | 0x030 => p.sel.setWidth 32
  | 0x034 => s.countVal n id p.sel.toNat
  | _ => 0

/-- A write of a header register other than `PG_CTRL`. -/
def State.headerWrite (s : State) (n rel : Nat) (v : W32) : State :=
  match rel with
  | 0x018 => s.modPage n fun p => { p with mask := v }
  | 0x020 => s.modPage n (Page.cleared v)
  | 0x030 => s.modPage n fun p => { p with sel := v.setWidth 8 }
  | _ => s

/-! ### Halves of 64-bit registers (R345) -/

/-- The low half of a 64-bit word, and the high half. -/
def lowWord (v : W64) : W32 := v.setWidth 32
def highWord (v : W64) : W32 := (v >>> 32).setWidth 32
/-- A 64-bit word of two halves. -/
def joinWords (lo hi : W32) : W64 := (lo.setWidth 64) ||| ((hi.setWidth 64) <<< 32)

/-- Keep the low half of a 64-bit register, by its BAR0 offset, until its high half is written. -/
def State.stageLow (s : State) (off : Nat) (v : W32) : State :=
  { s with lowHalf := s.lowHalf.insert off v }
/-- The 64-bit value that a write of a high half makes, over the present one; the staged half is used up. -/
def State.joinHigh (s : State) (off : Nat) (old : W64) (hi : W32) : W64 × State :=
  let lo := match s.lowHalf.find? fun p => p.1 == off with
    | some (_, v) => v
    | none => lowWord old
  (joinWords lo hi, { s with lowHalf := s.lowHalf.erase off })

/-! ### The module page (R140, R331, R354) -/

/-- Its registers as they read. -/
def State.moduleRead (s : State) (rel : Nat) : W32 :=
  match rel with
  | 0x040 => s.mod.levelReq.setWidth 32
  | 0x044 => s.mod.levelAct.setWidth 32
  | 0x048 => wordOf (s.part.grade.toNat + s.part.hallFused.toNat * 2 ^ 8 + s.part.flightFused.toNat * 2 ^ 16)
  | 0x050 => lowWord s.part.serial
  | 0x054 => highWord s.part.serial
  | 0x058 => s.eventSum
  | 0x05C => wordOf (s.mod.vector.toNat + flagAt s.mod.function 11 + flagAt s.mod.vectorEnable 31)
  | _ => 0

/-- `LEVEL_NEGOTIATE`: a write of `MOD_LEVEL_REQ`. -/
def State.levelWrite (s : State) (v : W32) : State :=
  if s.anyRingEnabled then s.refuse pgModule v
  else { s with mod := { s.mod with levelReq := v.setWidth 4, levelAct := if v.setWidth 4 = 0#4 then 0 else 1 } }

/-- A write of the module page's `PG_CTRL`: `SLEEP` is stored, and `RESET` is carried out with it. -/
def State.moduleCtrlWrite (s : State) (v : W32) : State :=
  { s with mod := { s.mod with sleep := v.getLsbD 1, resetDue := s.mod.resetDue || v.getLsbD 0 } }

/-- A write to the module page. -/
def State.moduleWrite (s : State) (rel : Nat) (v : W32) : State :=
  match rel with
  | 0x010 => s.moduleCtrlWrite v
  | 0x040 => s.levelWrite v
  | 0x05C =>
    if v.getLsbD 11 && !s.hif.split then s.refuse pgModule v
    else { s with mod := { s.mod with vector := v.setWidth 11, function := v.getLsbD 11, vectorEnable := v.getLsbD 31 } }
  | _ => s

/-! ### The newel page (R342) -/

/-- Its registers as they read. -/
def State.newelRead (s : State) (rel : Nat) : W32 :=
  if rel = 0x040 then lowWord s.newel.time
  else if rel = 0x044 then highWord s.newel.time
  else if rel = 0x048 then s.newel.source.setWidth 32
  else if 0x050 ≤ rel ∧ rel < 0x070 then s.cmpCtl ((rel - 0x050) / 4)
  else if 0x080 ≤ rel ∧ rel < 0x0C0 then
    let v := s.cmpVal ((rel - 0x080) / 8)
    if rel % 8 = 0 then lowWord v else highWord v
  else 0

/-- A write to the newel page. -/
def State.newelWrite (s : State) (rel : Nat) (v : W32) : State :=
  if 0x050 ≤ rel ∧ rel < 0x070 then s.cmpCtlWrite ((rel - 0x050) / 4) v
  else if 0x080 ≤ rel ∧ rel < 0x0C0 then
    let n := (rel - 0x080) / 8
    let off := 4096 * pgNewel + 0x080 + 8 * n
    if rel % 8 = 0 then s.stageLow off v
    else
      let (w, s) := s.joinHigh off (s.cmpVal n) v
      s.cmpValWrite n w
  else s

/-! ### The power-stage page (R332) -/

/-- Its registers as they read. `PWR_INPUT` holds its reset value until start-up begins and is a measurement from then on (log 13). -/
def State.powerRead (s : State) (rel : Nat) : W32 :=
  match rel with
  | 0x040 => s.power.limit.setWidth 32
  | 0x044 =>
    if s.boot.step = 0 then wordOf (s.power.volts.toNat + s.power.watts.toNat * 2 ^ 16)
    else Config.inputReading s.newel.time &&& 0x3FFF3FFF
  | 0x048 => wordOf (flagAt s.power.protect 0 + flagAt s.power.switchOpen 1 + flagAt s.power.precharged 2)
  | _ => 0

/-- A write to the power-stage page. -/
def State.powerWrite (s : State) (rel : Nat) (v : W32) : State :=
  match rel with
  | 0x040 =>
    let w := fieldNat v 0 13
    if 3000 ≤ w ∧ w ≤ 4200 ∧ w % 50 = 0 then { s with power := { s.power with limit := v.setWidth 13 } } else s.refuse pgPower v
  | _ => s

/-! ### The security page (R324) -/

/-- `SEC_STATUS`. -/
def State.secStatus (s : State) : W32 :=
  wordOf (s.sec.keys.length % 2 ^ 15 + flagAt s.sec.debugOpen 16 + flagAt s.sec.tamper 17 + flagAt s.sec.glitch 18 + flagAt s.sec.ownerSet 19)

/-- Its registers as they read. -/
def State.securityRead (s : State) (rel : Nat) : W32 :=
  if rel = 0x040 then s.secStatus
  else if rel = 0x044 then s.part.rollback.setWidth 32
  else if 0x080 ≤ rel ∧ rel < 0x0B0 then field s.sec.owner (8 * (rel - 0x080)) 32
  else 0

/-- `SEC_OWNER_WRITE`: the whole hash, once after each module reset. -/
def State.ownerWrite (s : State) (hash : BitVec 384) : State :=
  if s.sec.ownerSet then s.refuse pgSecurity (hash.setWidth 32)
  else { s with sec := { s.sec with owner := hash, ownerSet := true } }

/-- A write to the security page. A hash written word by word counts as written with its last word. -/
def State.securityWrite (s : State) (rel : Nat) (v : W32) : State :=
  if 0x080 ≤ rel ∧ rel < 0x0B0 then
    if s.sec.ownerSet then s.refuse pgSecurity v
    else { s with sec := { s.sec with owner := setField s.sec.owner (8 * (rel - 0x080)) 32 v, ownerSet := rel == 0x0AC } }
  else s

/-! ### The host-interface page (R307) -/

/-- The code of a boot state. -/
def bootCode : BootState → Nat
  | .booting => 0 | .ready => 1 | .failed => 2 | .locked => 3
/-- `HIF_BAR4` of one function. -/
def Bar4.word (b : Bar4) : W32 := wordOf (b.base.toNat + b.hall.toNat * 2 ^ 8 + flagAt b.enable 31)
/-- The 64-bit value of a coherent range's bound, by its place: even for `BASE`, odd for `LIMIT`. -/
def State.cohWord (s : State) (j : Nat) : W64 :=
  if j % 2 = 0 then Table.get 0 s.hif.cohBase (j / 2) else Table.get 0 s.hif.cohLimit (j / 2)

/-- Its registers as they read. -/
def State.hifRead (s : State) (rel : Nat) : W32 :=
  let b := s.boot
  if rel = 0x040 then wordOf (bootCode b.state + b.step % 16 * 2 ^ 8 + b.hallsOk.toNat * 2 ^ 16 + flagAt b.secondary 24)
  else if rel = 0x044 then wordOf (b.errCode.toNat + b.errUnit.toNat * 2 ^ 8)
  else if rel = 0x048 then s.hif.timeoutMs.setWidth 32
  else if rel = 0x04C then s.hif.bar4f0.word
  else if rel = 0x050 then s.hif.bar4f1.word
  else if rel = 0x058 then
    wordOf (s.hif.speed.toNat + s.hif.width.toNat * 2 ^ 3 + flagAt s.hif.cxl 8 + flagAt s.hif.split 9)
  else if 0x060 ≤ rel ∧ rel < 0x0A0 then
    let v := s.cohWord ((rel - 0x060) / 8)
    if rel % 8 = 0 then lowWord v else highWord v
  else 0

/-- Write `HIF_BAR4` of a function. -/
def State.bar4Write (s : State) (f : Nat) (v : W32) : State :=
  if fieldNat v 0 7 > 71 then s.refuse pgHif v
  else
    let b : Bar4 := ⟨v.setWidth 7, field v 8 3, v.getLsbD 31⟩
    { s with hif := if f = 0 then { s.hif with bar4f0 := b } else { s.hif with bar4f1 := b } }

/-- The bits of a coherent range's bound that are stored. -/
def cohMask : W64 := 0x01FFFFFFFFFFF000

/-- Write a bound of a coherent range. -/
def State.cohWrite (s : State) (j : Nat) (v : W64) : State :=
  let v := v &&& cohMask
  { s with hif := if j % 2 = 0 then { s.hif with cohBase := Table.set 0 s.hif.cohBase (j / 2) v }
                  else { s.hif with cohLimit := Table.set 0 s.hif.cohLimit (j / 2) v } }

/-- A write to the host-interface page. -/
def State.hifWrite (s : State) (rel : Nat) (v : W32) : State :=
  if rel = 0x048 then
    let ms := fieldNat v 0 10
    if 1 ≤ ms ∧ ms ≤ 1000 then { s with hif := { s.hif with timeoutMs := v.setWidth 10 } } else s.refuse pgHif v
  else if rel = 0x04C then s.bar4Write 0 v
  else if rel = 0x050 then s.bar4Write 1 v
  else if 0x060 ≤ rel ∧ rel < 0x0A0 then
    let j := (rel - 0x060) / 8
    let off := 4096 * pgHif + 0x060 + 8 * j
    if rel % 8 = 0 then s.stageLow off v
    else
      let (w, s) := s.joinHigh off (s.cohWord j) v
      s.cohWrite j w
  else s

/-! ### A word of a module page (R353) -/

/-- A block register of a module page. -/
def State.moduleBlockRead (s : State) (id : PageId) (rel : Nat) : W32 :=
  match id with
  | .module => s.moduleRead rel
  | .newel => s.newelRead rel
  | .power => s.powerRead rel
  | .security => s.securityRead rel
  | .hif => s.hifRead rel
  | _ => 0

/-- A write to a block register of a module page. -/
def State.moduleBlockWrite (s : State) (id : PageId) (rel : Nat) (v : W32) : State :=
  match id with
  | .module => s.moduleWrite rel v
  | .newel => s.newelWrite rel v
  | .power => s.powerWrite rel v
  | .security => s.securityWrite rel v
  | .hif => s.hifWrite rel v
  | _ => s

/-- The value of a 32-bit register of a module page; an offset that names no page reads as zero. -/
def State.managementWord (s : State) (off : Nat) : W32 :=
  match pageOf (off / 4096) with
  | some id => if off % 4096 < 0x040 then s.headerRead (off / 4096) id (off % 4096) else s.moduleBlockRead id (off % 4096)
  | none => 0

/-- Whether a 64-bit RO register has its low half at an offset of a page (R345). -/
def wideRead : PageId → Nat → Bool
  | .module, 0x050 => true
  | .newel, 0x040 => true
  | .keeper _, 0x05C => true
  | .flight _, 0x048 => true
  | .flight _, 0x068 => true
  | _, _ => false

/-- The half that an earlier read of the low half of a 64-bit RO register has latched for the register at an offset (R345). -/
def State.latched (s : State) (off : Nat) : Option W32 :=
  match pageOf (off / 4096) with
  | some id => if wideRead id (off % 4096 - 4) then (s.latch.find? fun p => p.1 == off).map (·.2) else none
  | none => none

/-- Write a 32-bit register of a module page. -/
def State.managementWrite (s : State) (off : Nat) (v : W32) : State :=
  match pageOf (off / 4096) with
  | some id =>
    let rel := off % 4096
    if rel < 0x040 ∧ (rel ≠ 0x010 ∨ id ≠ .module) then s.headerWrite (off / 4096) rel v else s.moduleBlockWrite id rel v
  | none => s

/-- A read of `SEC_STATUS` clears `GLITCH`. -/
def State.secStatusRead (s : State) : State := { s with sec := { s.sec with glitch := false } }

/-- `n` bytes of the management space from offset `off`. A high half whose low half is read with it comes with that; one that the read begins with
is the latched one, where one is (R345). -/
def State.managementBytes (s : State) (off n : Nat) : List Byte :=
  if n = 0 then []
  else
    let w0 := off / 4
    let word (i : Nat) : W32 :=
      if i = 0 then (s.latched (4 * w0)).getD (s.managementWord (4 * w0)) else s.managementWord (4 * (w0 + i))
    let bs := ((List.range ((off + n - 1) / 4 - w0 + 1)).map fun i => leBytes 4 (word i).toNat).flatten
    (bs.drop (off % 4)).take n

/-- What a read of the 32-bit register at an offset of a module page leaves: a low half latches its high half, a high half uses up what is latched,
and `SEC_STATUS` loses its `GLITCH` (R324, R345). -/
def State.managementTouch (s : State) (off : Nat) : State :=
  match pageOf (off / 4096) with
  | none => s
  | some id =>
    let rel := off % 4096
    let s := if wideRead id rel then { s with latch := s.latch.insert (off + 4) (s.managementWord (off + 4)) }
      else if wideRead id (rel - 4) then { s with latch := s.latch.erase off } else s
    if id = .security ∧ rel = 0x040 then s.secStatusRead else s

/-- The same of all registers that `n` bytes from an offset touch. -/
def State.managementReads (s : State) (off n : Nat) : State :=
  (List.range ((off + n + 3) / 4 - off / 4)).foldl (fun s i => s.managementTouch (4 * (off / 4 + i))) s

/-- Bytes written into the management space, in whole aligned 4-byte units, the lowest first. -/
def State.managementStore (s : State) (off : Nat) (bs : List Byte) : State :=
  ((chunksOf 4 (bs.length / 4) bs).zipIdx).foldl (fun s p => s.managementWrite (off + 4 * p.2) (wordOf (leNat p.1))) s

/-! ### Commands -/

/-- `LEVEL_NEGOTIATE` (R140). -/
def execLevelNegotiate (value : W32) (s : State) : Host.Outcome State Fault Refusal :=
  .next (if s.pageAnswers .module then s.levelWrite value else s)
/-- `EVENT_CLEAR` of the page with number `page` (R350). -/
def execEventClear (page : Nat) (value : W32) (s : State) : Host.Outcome State Fault Refusal :=
  .next (match pageOf page with
    | some id => if s.pageAnswers id && s.pagePresent id then s.headerWrite page 0x020 value else s
    | none => s)
/-- `SEC_OWNER_WRITE` (R324). -/
def execSecOwnerWrite (hash : BitVec 384) (s : State) : Host.Outcome State Fault Refusal :=
  .next (if s.pageAnswers .security then s.ownerWrite hash else s)
/-- `SEC_STATUS_READ` (R324). -/
def execSecStatusRead (s : State) : Host.Outcome State Fault Refusal :=
  .next (if s.pageAnswers .security then s.secStatusRead.emit (.data (s.secStatus.setWidth 64)) else s)
/-- `NWL_CMP_CTL_WRITE` (R290, R342). -/
def execNwlCmpCtlWrite (comparator : Nat) (value : W32) (s : State) : Host.Outcome State Fault Refusal :=
  .next (if s.pageAnswers .newel && decide (comparator < 8) then s.cmpCtlWrite comparator value else s)
/-- `NWL_CMP_VAL_WRITE` (R341, R342). -/
def execNwlCmpValWrite (comparator : Nat) (value : W64) (s : State) : Host.Outcome State Fault Refusal :=
  .next (if s.pageAnswers .newel && decide (comparator < 8) then s.cmpValWrite comparator value else s)

end Sys2Proof.Machine
end

