-- ==== Sys2Proof/Machine/Windows.lean ====
section
/-!
DEFINITION. Tensor windows: the fields of an entry (R39), extents, element and scale addresses (R46, R47), the checks of
R41 and R48, the contexts that own them (R105, R106), the keys they are held under (R314–R317), and reading and writing
bytes and elements through them.
-/
namespace Sys2Proof.Machine

/-! ### Fields of an entry (R39) -/

def winBase (w : Block512) : Nat := byteField w 0 8
def winFormat (w : Block512) : Nat := byteField w 8 1
def winRank (w : Block512) : Nat := fieldNat w 72 3
def winOpen (w : Block512) : Bool := w.getLsbD 75
def winOwner (w : Block512) : Nat := fieldNat w 80 14
def winGen (w : Block512) : W32 := field w 96 32
def winDim (w : Block512) (i : Nat) : Nat := fieldNat w (128 + 24 * i) 24
def winHint (w : Block512) : BitVec 8 := field w 248 8
def winStride (w : Block512) (j : Nat) : Nat := fieldNat w (256 + 40 * (j - 1)) 40
def winScaleOff (w : Block512) : Int := (field w 416 40).toInt
def winLayout (w : Block512) : Nat := byteField w 57 1
def winLevel (w : Block512) : Nat := fieldNat w 464 4
/-- The reserved bits of an entry. -/
def winReservedZero (w : Block512) : Bool :=
  fieldNat w 76 4 == 0 && fieldNat w 94 2 == 0 && fieldNat w 468 12 == 0 && fieldNat w 480 32 == 0
/-- The operator's owner value (R39). -/
def operatorOwner : Nat := 0x3FFF
/-- An entry with its open bit or its generation replaced. -/
def winSetOpen (w : Block512) (b : Bool) : Block512 := setField w 75 1 (if b then 1 else 0)
def winSetGen (w : Block512) (g : W32) : Block512 := setField w 96 32 g

/-- The rows of a window: the product of d1–d4. -/
def winRows (w : Block512) : Nat := winDim w 1 * winDim w 2 * winDim w 3 * winDim w 4
/-- All elements of a window. -/
def winCount (w : Block512) : Nat := winDim w 0 * winRows w
/-- The bytes of a packed row of `n` elements. -/
def rowBytes (fmt n : Nat) : Nat := (n * formatBits fmt + 7) / 8
/-- The indices (i1, …, i4) of the row with linear index `r`. -/
def rowIndex (w : Block512) (r : Nat) : Nat × Nat × Nat × Nat :=
  let d1 := Nat.max 1 (winDim w 1)
  let d2 := Nat.max 1 (winDim w 2)
  let d3 := Nat.max 1 (winDim w 3)
  (r % d1, r / d1 % d2, r / (d1 * d2) % d3, r / (d1 * d2 * d3))
/-- The address of row (i1, …, i4). -/
def rowAddrAt (w : Block512) (i : Nat × Nat × Nat × Nat) : Nat :=
  winBase w + i.1 * winStride w 1 + i.2.1 * winStride w 2 + i.2.2.1 * winStride w 3 + i.2.2.2 * winStride w 4
/-- The address of the row with linear index `r`. -/
def rowAddr (w : Block512) (r : Nat) : Nat := rowAddrAt w (rowIndex w r)
/-- The length of a window's extent, lowest byte to highest. -/
def winExtent (w : Block512) : Nat :=
  if winCount w = 0 then 0
  else (winDim w 1 - 1) * winStride w 1 + (winDim w 2 - 1) * winStride w 2 + (winDim w 3 - 1) * winStride w 3 +
    (winDim w 4 - 1) * winStride w 4 + rowBytes (winFormat w) (winDim w 0)
/-- Whether every stride equals the product of the sizes below it (R238). -/
def winPacked (w : Block512) : Bool :=
  let rb := rowBytes (winFormat w) (winDim w 0)
  (winRank w < 2 || winStride w 1 == rb) && (winRank w < 3 || winStride w 2 == rb * winDim w 1) &&
    (winRank w < 4 || winStride w 3 == rb * winDim w 1 * winDim w 2) &&
    (winRank w < 5 || winStride w 4 == rb * winDim w 1 * winDim w 2 * winDim w 3)

/-- The base S of a window's scales, as an integer (R47). -/
def scaleBase (w : Block512) : Int := winBase w + winScaleOff w
/-- The offset from S of the scale of element i0 of row r (R47). -/
def scaleOffset (w : Block512) (i0 r : Nat) : Nat :=
  match winLayout w with
  | 1 => i0 / 32 + winDim w 0 / 32 * r
  | 2 => i0 / 32 + 64 * ((winDim w 0 + 2047) / 2048) * r
  | 4 => 2 * (i0 / 128 + winDim w 0 / 128 * r)
  | _ => 0
/-- The address of that scale. -/
def scaleAddr (w : Block512) (i0 r : Nat) : Nat := (scaleBase w + scaleOffset w i0 r).toNat
/-- The bytes from S to the last scale, inclusive; a per-tensor scale is there whatever the sizes are (R47). -/
def scaleExtent (w : Block512) : Nat :=
  if winLayout w = 3 then 4
  else if winCount w = 0 then 0
  else match winLayout w with
    | 1 | 2 => scaleOffset w (winDim w 0 - 1) (winRows w - 1) + 1
    | 4 => scaleOffset w (winDim w 0 - 1) (winRows w - 1) + 2
    | _ => 0

/-- The format and layout pairs of R48. -/
def pairOk (w : Block512) : Bool :=
  let f := winFormat w
  let l := winLayout w
  if isMx f then l == 1 || l == 2
  else if f == 6 || f == 7 || f == 0x0B then l == 0 || l == 3
  else if f == 0x0C || f == 0x0D then l == 4 && winDim w 0 % 128 == 0
  else l == 0

/-- The rank and the sizes of R39. -/
def dimsOk (w : Block512) : Bool :=
  let r := winRank w
  decide (1 ≤ r ∧ r ≤ 5) && (List.range 5).all (fun i => decide (i < r) || winDim w i == 1) &&
    (!isMx (winFormat w) || winDim w 0 % 32 == 0)

/-! ### Contexts (R105–R109) -/

/-- The address of bobbin context `c`'s record. -/
def State.ctxAddr (s : State) (c : Nat) : Nat :=
  galleryAddr (c / 1536) ((s.hall (c / 1536)).treadle.ctxBase.toNat * 65536 + c % 1536 * 512)
/-- A context's 512-byte record, byte 0 lowest. -/
def State.ctx (s : State) (c : Nat) : BitVec 4096 := BitVec.ofNat 4096 (leNat (s.mem.readBytes (s.ctxAddr c) 512))
/-- Write bytes `b` to `b + n − 1` of a context's record. -/
def State.ctxWrite (s : State) (c b n v : Nat) : State :=
  { s with mem := s.mem.writeBytes (s.ctxAddr c + b) (leBytes n v) }
def ctxState (r : BitVec 4096) : Nat := fieldNat r 48 2
def ctxHold (r : BitVec 4096) : Bool := fieldNat r 50 2 == 1
def ctxKey (r : BitVec 4096) : Nat := fieldNat r 32 14
def ctxCounter (r : BitVec 4096) : W64 := field r 64 64
def ctxSlotValid (r : BitVec 4096) (i : Nat) : Bool := r.getLsbD (128 + i)
def ctxGroupValid (r : BitVec 4096) (g : Nat) : Bool := r.getLsbD (136 + g)
def ctxRule (r : BitVec 4096) (g : Nat) : Nat := fieldNat r (144 + 4 * g) 4
/-- Byte field `b` of slot `i` (R108). -/
def slotField (r : BitVec 4096) (i b n : Nat) : Nat := byteField r (64 + 32 * i + b) n
def slotRank (r : BitVec 4096) (i : Nat) : Nat := fieldNat r (8 * (64 + 32 * i + 24)) 9
def slotGroup (r : BitVec 4096) (i : Nat) : Nat := fieldNat r (8 * (64 + 32 * i + 26)) 3
def slotScale (r : BitVec 4096) (i : Nat) : W32 := field r (8 * (64 + 32 * i + 28)) 32
/-- Value `j` of group `g`: learning rate, β1, β2, ε, decay, clip (R109). -/
def groupValue (r : BitVec 4096) (g j : Nat) : W32 := field r (8 * (320 + 24 * g + 4 * j)) 32
/-- BOUND, FREE and SUSPENDED (R107). -/
def ctxFree : Nat := 0
def ctxBound : Nat := 1
/-- Whether any context of hall `h` is not FREE. -/
def State.anyCtxInUse (s : State) (h : Nat) : Bool := (List.range 1536).any fun i => ctxState (s.ctx (1536 * h + i)) != ctxFree
/-- Whether any context of hall `h` is BOUND. -/
def State.anyCtxBound (s : State) (h : Nat) : Bool := (List.range 1536).any fun i => ctxState (s.ctx (1536 * h + i)) == ctxBound
/-- Whether `n` bytes from `a` meet a hall's context table (R105). -/
def State.meetsCtxTable (s : State) (a n : Nat) : Bool :=
  let t := galleryAddr (addrHall a) ((s.hall (addrHall a)).treadle.ctxBase.toNat * 65536)
  addrSpace a == 1 && decide (n > 0) && decide (a < t + 1536 * 512) && decide (t < a + n)
/-- The key `64 × …` of a context whose hall can be named. -/
def State.ctxHere (s : State) (c : Nat) : Bool := s.hallHere (c / 1536)

/-- The tensor-cache lines of context `c` over all halls. -/
def State.ctxLines (s : State) (c : Nat) : Nat :=
  (s.caches.map fun p => (p.2.filter fun l => l.owner == c).length).sum

/-- The gallery use of context `c` after its lines change from `b` to `a`: 4 KiB a line, rounded up to 64 KiB (R211). -/
def State.rechargeLines (s : State) (c b a : Nat) : State :=
  let use := byteField (s.ctx c) 36 4
  if s.ctxHere c ∧ (b + 15) / 16 ≠ (a + 15) / 16 then s.ctxWrite c 36 4 (use + (a + 15) / 16 - (b + 15) / 16) else s

/-- Replace the lines of a hall's cache and settle the quota charge of every context whose lines change (R126, R211). -/
def State.replaceCache (s : State) (h : Nat) (ls : List CacheLine) : State :=
  if ls = s.cache h then s
  else
    let owners := ((s.cache h ++ ls).map (·.owner)).foldl (fun acc c => if c = 0x3FFF then acc else insertNat acc c) []
    let s' := s.setCache h ls
    owners.foldl (fun st c => st.rechargeLines c (s.ctxLines c) (s'.ctxLines c)) s'

/-! ### Keys (R314–R317) -/

/-- The data key of a slot, unwrapped under the module key; none where the slot is empty. -/
def State.dataKey (s : State) (slot : Nat) : Option (List Byte) :=
  match s.sec.keys.find? fun p => p.1 == slot with
  | some (_, k) => keyUnwrap (beBytes 32 s.sec.moduleKey.toNat) (beBytes 40 k.wrapped.toNat)
  | none => none
/-- The slot of the key of context `c`. -/
def State.keySlotOf (s : State) (c : Nat) : Nat := ctxKey (s.ctx c)
/-- Whether context `c` has a valid key. -/
def State.keyValid (s : State) (c : Nat) : Bool := (s.dataKey (s.keySlotOf c)).isSome
/-- The two XTS keys of context `c`. -/
def State.xtsKeys (s : State) (c : Nat) : Option (List Byte) :=
  (s.dataKey (s.keySlotOf c)).map fun k => kdf k labelXts (beBytes 2 c) 512

/-- How bytes go through a window: `keys` the XTS keys of a context-owned window in HBM or host memory, `slot` the key state of one in HBM
(R208). -/
structure Access where
  keys : Option (List Byte)
  slot : Option Nat
  function : Nat

/-- The XTS keys of context `c` for its windows in host memory (R115; log 53). -/
def State.hostKeys (s : State) (c : Nat) : Option (List Byte) :=
  (s.dataKey (s.keySlotOf c)).map fun k => beBytes 64 (Config.hostXts k c).toNat

/-- The access of a window for an item of function `fn`. -/
def State.access (s : State) (fn : Nat) (w : Block512) : Access :=
  if addrSpace (winBase w) = 2 ∧ winOwner w ≠ operatorOwner then
    ⟨s.xtsKeys (winOwner w), some (s.keySlotOf (winOwner w)), fn⟩
  else if addrSpace (winBase w) = 3 ∧ winOwner w ≠ operatorOwner then ⟨s.hostKeys (winOwner w), none, fn⟩
  else ⟨none, none, fn⟩

/-- The plain access. -/
def Access.plain : Access := ⟨none, none, 0⟩

/-- The decrypted bytes of the 64-byte units that `n` bytes from `a` touch. The tweak of a unit is its address (R317; log 53 for space 3). -/
def decryptUnits (m : Memory) (keys : List Byte) (fn a n : Nat) : List Byte :=
  let u0 := a / 64 * 64
  ((List.range ((a + n - 1) / 64 - a / 64 + 1)).map fun i =>
    xtsDecrypt keys (u0 + 64 * i) (m.readBytes (hostKey fn (u0 + 64 * i)) 64)).flatten

/-- `n` bytes read through an access; in space 5 the registers of the module pages (R353). -/
def State.load (s : State) (ac : Access) (a n : Nat) : List Byte :=
  if addrSpace a = 5 then s.managementBytes (addrOffset a) n
  else match ac.keys with
  | none => s.mem.readBytes (hostKey ac.function a) n
  | some ks => if n = 0 then [] else ((decryptUnits s.mem ks ac.function a n).drop (a % 64)).take n

/-- The memory with bytes written through an access (R317: read, decryption, merge, re-encryption). -/
def Memory.store (m : Memory) (ac : Access) (a : Nat) (bs : List Byte) : Memory :=
  match ac.keys with
  | none => m.writeBytes (hostKey ac.function a) bs
  | some ks =>
    if bs.length = 0 then m
    else
      let u0 := a / 64 * 64
      let old := decryptUnits m ks ac.function a bs.length
      let new := old.take (a - u0) ++ bs ++ old.drop (a - u0 + bs.length)
      let units := chunksOf 64 (new.length / 64) new
      m.writeBytes (hostKey ac.function u0) ((units.zipIdx.map fun p => xtsEncrypt ks (u0 + 64 * p.2) p.1).flatten)

/-- The cache lines of a hall after a write of `n` bytes at `a` with key state `slot`: lines of another key state over the
written bytes are invalidated (R208). -/
def cacheAfterWrite (ls : List CacheLine) (slot : Option Nat) (o n : Nat) : List CacheLine :=
  ls.filter fun l => l.keySlot == slot || !(decide (o < (l.line + 1) * 4096) && decide (l.line * 4096 < o + n))

/-- Bytes written through an access: the memory changes, whole words covered lose their poison (R228), and cache lines
of another key state go (R208). -/
def State.store (s : State) (ac : Access) (a : Nat) (bs : List Byte) : State :=
  if addrSpace a = 5 then s.managementStore (addrOffset a) bs
  else
  let s := { s with mem := s.mem.store ac a bs }
  let s := s.unpoison (hostKey ac.function a) bs.length
  if addrSpace a = 2 then
    s.replaceCache (addrHall a) (cacheAfterWrite (s.cache (addrHall a)) ac.slot (addrOffset a) bs.length)
  else s

/-! ### Elements -/

/-- The code of element i0 of the row at address `ra`. -/
def State.codeAt (s : State) (ac : Access) (fmt ra i0 : Nat) : Nat :=
  let b := formatBits fmt
  let bit := i0 * b
  (leNat (s.load ac (ra + bit / 8) ((bit % 8 + b + 7) / 8)) >>> (bit % 8)) % 2 ^ b

/-- Write the code of element i0 of the row at address `ra`. -/
def State.putCode (s : State) (ac : Access) (fmt ra i0 code : Nat) : State :=
  let b := formatBits fmt
  let bit := i0 * b
  let n := (bit % 8 + b + 7) / 8
  if bit % 8 = 0 ∧ b % 8 = 0 then s.store ac (ra + bit / 8) (leBytes n code)
  else
    let old := BitVec.ofNat 16 (leNat (s.load ac (ra + bit / 8) n))
    let mask : BitVec 16 := (BitVec.ofNat 16 (2 ^ b - 1)) <<< (bit % 8)
    let new := (old &&& ~~~mask) ||| ((BitVec.ofNat 16 code <<< (bit % 8)) &&& mask)
    s.store ac (ra + bit / 8) (leBytes n new.toNat)

/-- The E8M0 code of element i0 of row r of an MX window; 127, the scale 1, for another format. -/
def State.scaleCode (s : State) (ac : Access) (w : Block512) (i0 r : Nat) : Nat :=
  if isMx (winFormat w) then leNat (s.load ac (scaleAddr w i0 r) 1) else 127

/-- The exact value of an element, block scale applied, per-tensor scale not. -/
def State.elemExact (s : State) (ac : Access) (w : Block512) (i0 r : Nat) : Val :=
  let v := elemValue (winFormat w) (s.codeAt ac (winFormat w) (rowAddr w r) i0)
  if isMx (winFormat w) then scaleE8M0 (s.scaleCode ac w i0 r) v else v

/-- The FP32 value of an element under the per-tensor scale `ts`, rounded once (R178). -/
def State.elem32 (s : State) (ac : Access) (w : Block512) (ts : W32) (i0 r : Nat) : W32 :=
  let v := s.elemExact ac w i0 r
  if winLayout w = 3 then rne32 (v.mul (dec32 ts)) else rne32 v

/-- A row of `n` FP32 values. -/
def State.row32 (s : State) (ac : Access) (w : Block512) (ts : W32) (n r : Nat) : List W32 :=
  (List.range n).map fun i => s.elem32 ac w ts i r

/-- What a conversion counts: saturations, NaN outputs and bytes written (R10, R62). -/
structure Tally where
  saturated : Nat
  nans : Nat
  bytes : Nat
  deriving DecidableEq, Repr

/-- Two tallies together. -/
def Tally.plus (a b : Tally) : Tally := ⟨a.saturated + b.saturated, a.nans + b.nans, a.bytes + b.bytes⟩

/-- The tally of some coded elements. -/
def tallyOf (cs : List Coded) (bytes : Nat) : Tally :=
  ⟨(cs.filter (·.saturated)).length, (cs.filter (·.wroteNan)).length, bytes⟩

/-- The whole bytes of `n` elements from c0 on of the row at address `ra`: first address and length. -/
def wholeBytes (fmt ra c0 n : Nat) : Nat × Nat :=
  let b := formatBits fmt
  let lo := (c0 * b + 7) / 8
  (ra + lo, (c0 + n) * b / 8 - lo)

/-- Write elements i0 = c0, c0 + 1, … of row r with codes. Together they are one write: every word that they cover whole loses its
poison (R228). -/
def State.putCodes (s : State) (ac : Access) (w : Block512) (r c0 : Nat) (cs : List Coded) : State :=
  let p := wholeBytes (winFormat w) (rowAddr w r) c0 cs.length
  ((cs.zipIdx c0).foldl (fun s p => s.putCode ac (winFormat w) (rowAddr w r) p.2 p.1.code) s).unpoison (hostKey ac.function p.1) p.2

/-- One MX block of row r starting at column b: the values of columns in `xs` from `c0` on, and the present values
elsewhere, exact under their present scale, converted together (R102). -/
def State.putBlock (s : State) (ac : Access) (w : Block512) (cv : Conv) (r b c0 : Nat) (xs : List W32) : State × Tally :=
  let vals := (List.range 32).map fun j =>
    let i := b + j
    (i + winDim w 0 * r, if decide (c0 ≤ i) && decide (i < c0 + xs.length) then dec32 (xs.getD (i - c0) 0) else s.elemExact ac w i r)
  let (sc, cs) := convertBlock (winFormat w) cv vals
  let s := s.store ac (scaleAddr w b r) [BitVec.ofNat 8 sc]
  (s.putCodes ac w r b cs, tallyOf cs (rowBytes (winFormat w) 32 + 1))

/-- Stage 7 over consecutive columns of one row: conversion of FP32 values into the destination window (R56–R61, R100,
R102). `ts` is the destination's per-tensor scale. -/
def State.putRow (s : State) (ac : Access) (w : Block512) (cv : Conv) (ts : W32) (r c0 : Nat) (xs : List W32) : State × Tally :=
  if isMx (winFormat w) then
    let b0 := c0 / 32
    let b1 := (c0 + xs.length + 31) / 32
    let st := (List.range (b1 - b0)).foldl (fun st j =>
      let (s', t) := st.1.putBlock ac w cv r (32 * (b0 + j)) c0 xs
      (s', st.2.plus t)) (s, ⟨0, 0, 0⟩)
    let p := wholeBytes (winFormat w) (rowAddr w r) (32 * b0) (32 * (b1 - b0))
    ((st.1.unpoison (hostKey ac.function p.1) p.2).unpoison (hostKey ac.function (scaleAddr w (32 * b0) r)) (b1 - b0), st.2)
  else
    let sc := if winLayout w = 3 then ts else one32
    let cs := (xs.zipIdx c0).map fun p => convertPlain (winFormat w) cv (p.2 + winDim w 0 * r) p.1 sc
    (s.putCodes ac w r c0 cs, tallyOf cs (rowBytes (winFormat w) xs.length))

/-! ### The checks of expansion (R41, R48, R204, R256) -/

/-- The hall and index of a handle (R38). -/
def handleHall (h : W32) : Nat := fieldNat h 16 3
def handleKey (h : W32) : Nat := windowKey (fieldNat h 16 3) (fieldNat h 0 16)
/-- The handle "none" (R163). -/
def noHandle : W32 := 0xFFFFFFFF

/-- The first stack offset of the selvedge reserve (R256). -/
def reserveBase : Nat := stackSize - 24 * 2 ^ 20

/-- Steps 1–6 of R41, then R48, R204 and R256, for a handle named by a command of a ring owned by `owner`. -/
def State.checkHandle (s : State) (owner : Nat) (hd : W32) : Option Status :=
  let w := s.window (handleKey hd)
  let base := winBase w
  let ext := winExtent w
  if fieldNat hd 19 13 ≠ 0 then some .reservedField
  else if !s.hallHere (handleHall hd) then some .engineAbsent
  else if !winReservedZero w || (formatKind (winFormat w)).isNone || decide (winLayout w > 4) then some .reservedField
  else if winLevel w > s.mod.levelAct.toNat then some .level
  else if s.addrAbsent base then some .engineAbsent
  else if !addrShapeOk base || !dimsOk w || !rangeOk base ext ||
      (owner != operatorOwner && (winOwner w != owner || addrSpace base == 5)) then some .access
  else if !pairOk w then some .access
  else if decide (scaleExtent w > 0) && (decide (scaleBase w < 0) || !rangeOk (scaleBase w).toNat (scaleExtent w)) then some .access
  else if addrSpace base == 0 && base % 64 != 0 then some .access
  else if addrSpace base == 2 && decide (addrOffset base + ext > reserveBase) then some .access
  else none

/-- The per-tensor scale of a window, 1.0 where it has none (R49). -/
def State.tensorScale (s : State) (fn : Nat) (w : Block512) : W32 :=
  if winLayout w = 3 then BitVec.ofNat 32 (leNat (s.load (s.access fn w) (scaleBase w).toNat 4)) else one32

/-! ### Faults of an access when it is made -/

/-- The byte spans of the first `n` elements of the first `rows` rows, with the scales of an MX or KM8 window. -/
def winSpans (w : Block512) (n rows : Nat) : List (Nat × Nat) :=
  (List.range rows).flatMap fun r =>
    (rowAddr w r, rowBytes (winFormat w) n) ::
      (if isMx (winFormat w) then [(scaleAddr w 0 r, (n + 31) / 32)]
       else if winLayout w = 4 then [(scaleAddr w 0 r, 2 * ((n + 127) / 128))] else [])

/-- A failure when a condition holds. -/
def failIf (c : Bool) (st : Status) : Option Status := if c then some st else none

/-- Whether an access to the management space is made of whole aligned 4-byte units: elements of 4 bytes, or the runs of bytes of a byte
window (R353). -/
def unitAccess (w : Block512) (spans : List (Nat × Nat)) : Bool :=
  (formatBits (winFormat w) == 32 || winFormat w == 0x0E) && spans.all fun p => p.1 % 4 == 0 && p.2 % 4 == 0

/-- What stops an access to the given spans of a window when it is made: a lost hall (R288), a departed host (R285), the
management space, whose registers only whole 4-byte or 8-byte units reach (R353), the tensor-cache range (R32), a missing key
(R115, R315). -/
def State.accessFault (s : State) (fn : Nat) (w : Block512) (spans : List (Nat × Nat)) : Option Status :=
  let base := winBase w
  if addrSpace base < 3 ∧ s.hallLost (addrHall base) then some .hallLost
  else if addrSpace base = 3 ∧ s.boot.diesFailed.getLsbD 0 then some .hallLost
  else if addrSpace base = 3 ∧ s.hif.departed.getLsbD fn then some .timeout
  else if addrSpace base = 5 then failIf (!unitAccess w spans) .access
  else if spans.any fun p => s.hitsCacheRange p.1 p.2 then some .access
  else if (addrSpace base = 2 ∨ addrSpace base = 3) ∧ winOwner w ≠ operatorOwner ∧ !s.keyValid (winOwner w) then some .key
  else none

/-- Whether any of the spans touches a poisoned word (R230). -/
def State.spansPoisoned (s : State) (spans : List (Nat × Nat)) : Bool := spans.any fun p => s.poisoned p.1 p.2

end Sys2Proof.Machine
end

