-- ==== Sys2Proof/Machine/Operands.lean ====
section
/-!
DEFINITION. The command descriptor: its header and operand fields (R138, R149, R163–R192), the opcodes (R161), the reserved
bits and values of each opcode (R139 step 3, R163) and the knot entries it names (R139 step 4).
-/
namespace Sys2Proof.Machine

/-! ### Opcodes (R161) -/

/-- The level-1 opcodes. -/
inductive Opcode where
  | nop | knotSet | knotWait | fence | callPattern | timestamp
  | loadTile | storeTile | copy | gather | scatter | prefetch | offload | restore | streamArm
  | matmul | matmulT | conv | matmulAcc
  | epilog | eltwise | rowreduce | softmaxFwd | softmaxBwd | normFwd | normBwd | convert
  | adaptFwd | adaptBwd | bobbinBind
  | collReduceScatter | collAllGather | collAllReduce | send | recv | multicast | windowOpen | windowClose | buddyPush
  | updateBind | statsSnap | cardRun
  deriving DecidableEq, Repr

/-- The opcode of a code; none for a code that R162 leaves undefined. -/
def opcodeOf : Nat → Option Opcode
  | 0x00 => some .nop | 0x01 => some .knotSet | 0x02 => some .knotWait | 0x03 => some .fence
  | 0x04 => some .callPattern | 0x05 => some .timestamp
  | 0x10 => some .loadTile | 0x11 => some .storeTile | 0x12 => some .copy | 0x13 => some .gather
  | 0x14 => some .scatter | 0x15 => some .prefetch | 0x16 => some .offload | 0x17 => some .restore
  | 0x18 => some .streamArm
  | 0x20 => some .matmul | 0x21 => some .matmulT | 0x22 => some .conv | 0x23 => some .matmulAcc
  | 0x30 => some .epilog | 0x31 => some .eltwise | 0x32 => some .rowreduce | 0x33 => some .softmaxFwd
  | 0x34 => some .softmaxBwd | 0x35 => some .normFwd | 0x36 => some .normBwd | 0x37 => some .convert
  | 0x40 => some .adaptFwd | 0x41 => some .adaptBwd | 0x42 => some .bobbinBind
  | 0x50 => some .collReduceScatter | 0x51 => some .collAllGather | 0x52 => some .collAllReduce
  | 0x53 => some .send | 0x54 => some .recv | 0x55 => some .multicast | 0x56 => some .windowOpen
  | 0x57 => some .windowClose | 0x58 => some .buddyPush
  | 0x60 => some .updateBind | 0x61 => some .statsSnap | 0xE0 => some .cardRun
  | _ => none

/-! ### Fields of a descriptor (R138) -/

def descCode (d : Block512) : Nat := byteField d 0 1
def descLevel (d : Block512) : Nat := fieldNat d 8 4
def descClass (d : Block512) : Nat := fieldNat d 12 4
/-- The lane the command's pieces go to. -/
def descLane (d : Block512) : Lane := if d.getLsbD 16 then .backward else .forward
/-- The interrupt flag. -/
def descIrq (d : Block512) : Bool := d.getLsbD 17
/-- Bit `k` of the flags field, bytes 2–3. -/
def descFlag (d : Block512) (k : Nat) : Bool := d.getLsbD (16 + k)
def descId (d : Block512) : W32 := field d 32 32
def descWait (d : Block512) : W32 := field d 64 32
def descSet (d : Block512) : W32 := field d 96 32
/-- The 32-bit operand at byte `b`: a handle, a count, a seed or an FP32 pattern. -/
def word32 (d : Block512) (b : Nat) : W32 := field d (8 * b) 32
/-- Size `j` of the shape field (R164). -/
def descShape (d : Block512) (j : Nat) : Nat := fieldNat d (192 + 24 * j) 24
/-- The shape of a movement command. -/
def shapeOf (d : Block512) : List Nat := (List.range 5).map (descShape d)
/-- The conversion control byte (R165) at byte `b` with the seed at bytes 36–39. -/
def convControl (d : Block512) (b : Nat) : Conv :=
  { stochastic := d.getLsbD (8 * b), saturate := !d.getLsbD (8 * b + 1), seed := word32 d 36 }
/-- The opcode of a descriptor. -/
def descOp (d : Block512) : Option Opcode := opcodeOf (descCode d)

/-- The adapter flag of a matrix command (R176). -/
def adapterFlag (d : Block512) : Bool := descFlag d 2
/-- The update flag of `COLL_REDUCE_SCATTER` (R185). -/
def updateFlag (d : Block512) : Bool := descCode d == 0x50 && descFlag d 2

/-! ### Knot entries (R149) -/

def entryValid (e : W32) : Bool := e.msb
def entryHall (e : W32) : Nat := fieldNat e 28 3
def entryKnot (e : W32) : Nat := fieldNat e 20 8
def entryKey (e : W32) : Nat := knotKey (entryHall e) (entryKnot e)
/-- The target of a wait entry, and the increment of a set entry. -/
def entryTarget (e : W32) : Nat := fieldNat e 0 20
def entryIncrement (e : W32) : Nat := fieldNat e 0 16
/-- An empty wait entry has its other bits zero; an empty set entry too, and a valid one a zero reserved field and an
increment that is not the reserved value 0. -/
def waitEntryOk (e : W32) : Bool := entryValid e || e == 0
def setEntryOk (e : W32) : Bool := if entryValid e then fieldNat e 16 4 == 0 && entryIncrement e != 0 else e == 0

/-- A wait of target T on a count is met when (count − T) mod 2^20 < 2^19 (R150). -/
def waitMetBy (count : W32) (t : Nat) : Bool := decide ((count.toNat + 2 ^ 20 - t % 2 ^ 20) % 2 ^ 20 < 2 ^ 19)

/-! ### Reserved bits (R138, R163) -/

/-- Bytes `b` to `b + n − 1` as a bit range. -/
def bytesR (b n : Nat) : Nat × Nat := (8 * b, 8 * n)

/-- The bit ranges of the operands that an opcode's table defines, as (first bit, width). -/
def definedBits (o : Opcode) (d : Block512) : List (Nat × Nat) :=
  let matrixBase := [bytesR 16 12, (264, 8), (272, 4), (280, 2), bytesR 36 12]
  let adapter := if adapterFlag d then [bytesR 28 4, (256, 3), bytesR 48 10] else []
  let landing := [bytesR 16 13, bytesR 29 1, (248, 2), bytesR 32 8]
  match o with
  | .nop | .fence => []
  | .knotSet => [bytesR 16 1, (136, 3), (144, 1), bytesR 20 4]
  | .knotWait => [bytesR 16 24]
  | .callPattern => [(128, 10), (144, 1), bytesR 20 4] ++ (if d.getLsbD 144 then [] else [bytesR 24 40])
  | .timestamp => [bytesR 16 8]
  | .loadTile | .copy | .offload | .restore => [bytesR 16 23]
  | .storeTile => [bytesR 16 23, (312, 1)]
  | .gather => [bytesR 16 8, bytesR 40 4]
  | .scatter => [bytesR 16 8, (313, 1), bytesR 40 4]
  | .prefetch => [bytesR 16 4, bytesR 24 15]
  | .streamArm => [(128, 12), bytesR 20 16]
  | .matmul | .matmulT | .matmulAcc => matrixBase ++ adapter
  | .conv => matrixBase ++ [bytesR 48 6]
  | .epilog => landing ++ [bytesR 40 8]
  | .softmaxFwd => landing ++ [bytesR 52 4]
  | .normFwd => landing ++ [bytesR 40 4]
  | .normBwd => landing ++ [bytesR 40 12]
  | .eltwise | .rowreduce | .softmaxBwd | .convert => landing
  | .adaptFwd => [bytesR 16 4, bytesR 28 4, (256, 3), bytesR 48 4, bytesR 56 2]
  | .adaptBwd => [bytesR 16 12, bytesR 28 4, (256, 3), bytesR 48 4, bytesR 56 2]
  | .bobbinBind => [(128, 14), bytesR 20 4]
  | .collReduceScatter =>
    if updateFlag d then [bytesR 16 4, (192, 5), bytesR 25 3, (224, 14), (240, 3), bytesR 32 8]
    else [bytesR 16 8, (192, 5), bytesR 25 3]
  | .collAllGather | .collAllReduce => [bytesR 16 8, (192, 5), bytesR 25 3]
  | .send => [bytesR 16 4, bytesR 24 12, (288, 1)]
  | .recv => [bytesR 16 4, bytesR 24 8, (288, 3)]
  | .multicast => [bytesR 16 12]
  | .windowOpen | .windowClose => [bytesR 16 4]
  | .buddyPush => [bytesR 16 2, bytesR 20 16]
  | .updateBind => [bytesR 16 2, (144, 3), (160, 10)]
  | .statsSnap => [bytesR 16 2, (144, 3), bytesR 19 5]
  | .cardRun => [bytesR 16 8]

/-- The flag bits an opcode defines beside lane and interrupt. -/
def definedFlags : Opcode → List Nat
  | .matmul | .matmulT | .matmulAcc | .bobbinBind | .collReduceScatter => [2]
  | .adaptBwd => [2, 3, 4, 5]
  | _ => []

/-- The bits of a descriptor that some field covers, for an opcode. -/
def definedMask (o : Opcode) (d : Block512) : Block512 :=
  let rs : List (Nat × Nat) := definedBits o d ++ [(0, 18), (32, 96)] ++ (definedFlags o).map fun k => (16 + k, 1)
  rs.foldl (fun m p => m ||| ((BitVec.ofNat 512 (2 ^ p.2 - 1)) <<< p.1)) 0

/-- The reserved values of an opcode's operand fields, other than knot entries (R83, R101, R163, R179–R187). -/
def reservedValueOk (o : Opcode) (d : Block512) : Bool :=
  let op := byteField d 28 1
  let mode := byteField d 29 1
  match o with
  | .knotSet => d.getLsbD 144 || word32 d 20 != 0
  | .knotWait => (List.range 6).all fun i => waitEntryOk (word32 d (16 + 4 * i))
  | .matmul | .matmulT | .matmulAcc =>
    fieldNat d 264 2 != 3 && fieldNat d 268 4 == 0 && fieldNat d 272 4 ≤ 5 &&
      (!adapterFlag d || waitEntryOk (word32 d 52))
  | .conv => fieldNat d 264 2 != 3 && fieldNat d 268 4 == 0 && fieldNat d 272 4 ≤ 5
  | .epilog => op ≤ 5 && mode == 0
  | .eltwise => (op ≤ 10 || (17 ≤ op && op ≤ 21)) && mode ≤ 2
  | .rowreduce => op ≤ 4 && mode == 0
  | .softmaxFwd => op == 0 && mode ≤ 5
  | .normFwd | .normBwd => op == 0 && mode ≤ 1
  | .softmaxBwd | .convert => op == 0 && mode == 0
  | .collReduceScatter | .collAllReduce => fieldNat d 192 2 != 3 && fieldNat d 194 2 ≤ 1
  | .collAllGather => fieldNat d 192 2 != 3 && fieldNat d 194 2 == 0
  | .recv => fieldNat d 288 2 != 3
  | _ => true

/-- Step 3 of R139. -/
def reservedOk (o : Opcode) (d : Block512) : Bool :=
  (d &&& ~~~(definedMask o d)) == 0 && waitEntryOk (descWait d) && setEntryOk (descSet d) && reservedValueOk o d

/-- Step 2 of R139: the opcode is defined and the class field agrees with it. -/
def opcodeOk (d : Block512) : Bool := (descOp d).isSome && descClass d == descCode d / 16

/-! ### The knots a command names (R139 step 4, R148, R163) -/

/-- The knot keys a descriptor names in entries other than its set entry, in byte order. -/
def knotsNamed (o : Opcode) (d : Block512) : List (Nat × Nat) :=
  let named (e : W32) : List (Nat × Nat) := if entryValid e then [(entryHall e, entryKnot e)] else []
  named (descWait d) ++ named (descSet d) ++
    (match o with
     | .knotSet => [(fieldNat d 136 3, byteField d 16 1)]
     | .knotWait => (List.range 6).flatMap fun i => named (word32 d (16 + 4 * i))
     | .matmul | .matmulT | .matmulAcc => if adapterFlag d then named (word32 d 52) else []
     | _ => [])

/-- Why a ring of owner `owner` may not name a knot. -/
def State.knotRefusal (s : State) (owner : Nat) (k : Nat × Nat) : Option Status :=
  if !s.hallHere k.1 then some .engineAbsent
  else if owner != operatorOwner && (s.knot (knotKey k.1 k.2)).owner.toNat != owner then some .access
  else none

/-- The first of some checks that fails. -/
def firstFail : List (Option Status) → Option Status
  | [] => none
  | none :: t => firstFail t
  | some st :: _ => some st


/-- Whether the set entry of a descriptor, taken alone, passes steps 3 and 4 (R139): only then is its knot poisoned when the
command fails. -/
def State.setUsable (s : State) (owner : Nat) (d : Block512) : Bool :=
  setEntryOk (descSet d) &&
    (!entryValid (descSet d) || (s.knotRefusal owner (entryHall (descSet d), entryKnot (descSet d))).isNone)

/-- Opcodes a tenant ring may not issue (R136, R161). -/
def operatorOnly : Opcode → Bool
  | .bobbinBind | .updateBind | .cardRun => true
  | _ => false

/-- Why a tenant ring's bound context may not expand a command (R137, R288); an operator ring always may. -/
def State.ringContextRefusal (s : State) (owner : Nat) : Option Status :=
  if owner = operatorOwner then none
  else if !s.ctxHere owner then some .engineAbsent
  else if ctxState (s.ctx owner) ≠ ctxBound then some .access
  else none

/-- Steps 1 to 4 of R139 with the ownership rules of R136 and R137, for a descriptor of a ring of owner `owner`. -/
def State.headCheck (s : State) (owner : Nat) (d : Block512) : Option Status :=
  if descLevel d > s.mod.levelAct.toNat then some .level
  else if !opcodeOk d then some .badOpcode
  else match descOp d with
    | none => some .badOpcode
    | some o =>
      if !reservedOk o d then some .reservedField
      else firstFail ((knotsNamed o d).map (s.knotRefusal owner) ++
        [s.ringContextRefusal owner, failIf (owner != operatorOwner && operatorOnly o) .access])

end Sys2Proof.Machine
end

