-- ==== Sys2Proof/Machine/Links.lean ====
section
/-!
DEFINITION. The torus and its links: coordinates (R261), routes (R262), the direction and lane of a collective (R272), datagrams and
their credits (R259, R264, R265), channels (R263), and what a failing item does on the fabric (R269, R273).
-/
namespace Sys2Proof.Machine

/-! ### Coordinates (R36, R261) -/

/-- The bit position of an axis in `XPR_COORD`, which is also its first port. -/
def axisPos : Axis → Nat
  | .x => 0
  | .y => 4
  | .z => 8
/-- The coordinate of this module on an axis, and the size of the axis. -/
def State.coord (s : State) (a : Axis) : Nat := fieldNat s.xprCoord (axisPos a) 4
def State.axisSize (s : State) (a : Axis) : Nat := fieldNat s.xprCoord (16 + axisPos a) 4 + 1
/-- The axis of an operand field, and of a port. -/
def axisOf : Nat → Axis
  | 0 => .x
  | 1 => .y
  | _ => .z
def portAxis (p : Nat) : Axis := axisOf (p / 4)
/-- The axis of a collective. -/
def descAxis (d : Block512) : Axis := axisOf (fieldNat d 192 2)
/-- The group size of a collective. -/
def descGroup (d : Block512) : Nat := byteField d 25 1
/-- The tag of a collective. -/
def descTag (d : Block512) : Nat := byteField d 26 2
/-- The format that a collective reduces in. -/
def reduceFormat (d : Block512) : Nat := if fieldNat d 194 2 = 0 then 0x0A else 8
/-- The coordinate on an axis that a space-4 address names, its remote hall, window index and byte offset. -/
def peerCoord (a : Nat) : Axis → Nat
  | .x => (a >>> 56) % 16
  | .y => (a >>> 52) % 16
  | .z => (a >>> 48) % 16
def peerHall (a : Nat) : Nat := (a >>> 45) % 8
def peerWindow (a : Nat) : Nat := (a >>> 29) % 65536
def peerOffset (a : Nat) : Nat := a % 2 ^ 29 * 64
/-- The axes on which an address differs from this module. -/
def State.awayAxes (s : State) (a : Nat) : List Axis := [Axis.x, .y, .z].filter fun ax => peerCoord a ax != s.coord ax

/-! ### Ports, links and routes (R33, R260, R262, R272) -/

/-- The port of an axis in a direction, on a lane. -/
def axisPort (a : Axis) (plus : Bool) (lane : Nat) : Nat := axisPos a + (if plus then 0 else 2) + lane
/-- Whether a port goes in the + direction. -/
def portPlus (p : Nat) : Bool := p % 4 < 2
/-- Whether a port is UP; a flight is out of service with its hall's die (R29). -/
def State.portUp (s : State) (p : Nat) : Bool :=
  !s.flightAbsent p && (s.flight p).link == .up && !s.boot.diesFailed.getLsbD (homeHall p)

/-- A link of the torus on this module's line of an axis: the coordinate at its lower end, and its lane. -/
structure LinkId where
  axis : Axis
  lower : Nat
  lane : Nat
  deriving DecidableEq, Repr

/-- The link of a port. -/
def State.portLink (s : State) (p : Nat) : LinkId :=
  let a := portAxis p
  let n := s.axisSize a
  ⟨a, if portPlus p then s.coord a else (s.coord a + n - 1) % n, p % 2⟩

/-- The shorter way round an axis to a coordinate: the direction, + on a tie, and the links of the way (R262). -/
def State.wayRound (s : State) (a : Axis) (dest lane : Nat) : Bool × List LinkId :=
  let n := s.axisSize a
  let c := s.coord a
  let fwd := (dest + n - c % n) % n
  if fwd ≤ n - fwd then (true, (List.range fwd).map fun i => ⟨a, (c + i) % n, lane⟩)
  else (false, (List.range (n - fwd)).map fun i => ⟨a, (c + 2 * n - 1 - i) % n, lane⟩)

/-- The lane of traffic to an address: bit 0 of the remote window index, lane 0 for express traffic and on grade E. -/
def State.sendLane (s : State) (express : Bool) (a : Nat) : Nat :=
  if express ∨ s.part.grade = 2 then 0 else peerWindow a % 2

/-- The first port of the route to an address and the links of the route on this module's own line, X first; none for this module's
own address. -/
def State.route (s : State) (express : Bool) (a : Nat) : Option (Nat × List LinkId) :=
  match s.awayAxes a with
  | [] => none
  | ax :: _ =>
    let lane := s.sendLane express a
    let (plus, links) := s.wayRound ax (peerCoord a ax) lane
    some (axisPort ax plus lane, links)

/-- The direction and lane of a collective tag. -/
def State.tagWay (s : State) (tag : Nat) : Bool × Nat :=
  if s.part.grade = 2 then (tag % 2 == 0, 0) else (decide (tag % 4 < 2), tag % 2)

/-- The neighbour of position `p` in a group of `g`, in the ring's direction or against it. -/
def nextPos (plus : Bool) (g p : Nat) : Nat := if plus then (p + 1) % g else (p + g - 1) % g
def prevPos (plus : Bool) (g p : Nat) : Nat := nextPos (!plus) g p

/-- The last and the first member of a ring in its direction. -/
def lastPos (plus : Bool) (g : Nat) : Nat := if plus then g - 1 else 0
def firstPos (plus : Bool) (g : Nat) : Nat := if plus then 0 else g - 1

/-- The port on which a member sends, and the one on which its data arrives, the completing flight. Where the group does not fill
the axis, the link from the last member to the first is replaced by a path the other way. -/
def State.collPorts (s : State) (a : Axis) (tag g p : Nat) : Nat × Nat :=
  let (plus, lane) := s.tagWay tag
  let wrap := decide (g < s.axisSize a)
  (axisPort a (if wrap && p == lastPos plus g then !plus else plus) lane,
    axisPort a (if wrap && p == firstPos plus g then plus else !plus) lane)

/-- The links that a group of size `g` uses on its lane. -/
def State.groupLinks (s : State) (a : Axis) (tag g : Nat) : List LinkId :=
  let n := s.axisSize a
  let base := s.coord a / Nat.max 1 g * g
  (List.range (if g = n then g else g - 1)).map fun k => ⟨a, (base + k) % n, (s.tagWay tag).2⟩

/-! ### Datagrams and credits (R258, R259, R264, R265) -/

/-- The priority of a datagram: its class and its dateline virtual channel choose one of the four buffers of the request class, and of the
response class (R259, R264). -/
def priorityOf (express : Bool) (vc : Nat) : Nat := (if express then 6 else 4) + vc

/-- The virtual channel of a datagram on the link of port `p`, having come so far on channel `vc` (R264). -/
def State.linkVc (s : State) (p vc : Nat) : Nat :=
  if (s.portLink p).lower + 1 = s.axisSize (portAxis p) then 1 else vc

/-- The dateline virtual channel of a datagram that set out at coordinate `c` of an axis and came in here on port `q`: 1 once it has crossed
the link between the last coordinate and 0 (R264). -/
def State.arrivedVc (s : State) (q c : Nat) : Nat :=
  let here := s.coord (portAxis q)
  if (if portPlus q then decide (c < here) else decide (here < c)) then 1 else 0

/-- The EtherType of Kwedun datagrams (R258), and that of a packet. -/
def etherKwedun : BitVec 16 := 0x88B5
def Packet.etherType : Packet → BitVec 16
  | .ptp => etherPtp
  | _ => etherKwedun

/-- The number that names an item on the links. -/
def originOf (i : ItemId) : Nat := (i.ring * 2 ^ 32 + i.idx) * 2 ^ 32 + i.sub

/-- The number of a collective's channel. -/
def collSender (a : Axis) (tag : Nat) : Nat := 2 ^ 100 + 65536 * axisPos a + tag

/-- The channel a request travels on: that of its item, or of its collective by axis and tag. -/
def Packet.sender : Packet → Nat
  | .head h => h.origin
  | .body o _ => o
  | .forwarded o _ _ _ _ => o
  | .opening h => collSender h.axis h.tag
  | .partialData a t _ _ _ _ => collSender a t
  | _ => 0

/-- Whether an address is that of the next module on an axis. -/
def State.oneHop (s : State) (a : Nat) : Bool :=
  (s.awayAxes a).length == 1 && match s.route false a with
    | some (_, ls) => ls.length == 1
    | none => false

/-- Whether the receiver of a request consumes it without waiting on another channel, so that it may use shared credits (R265): the next
member keeps the data, or the next module is its destination. -/
def State.sharedOk (s : State) : Packet → Bool
  | .partialData a t _ j phase _ => match s.colls.find? fun c => c.axis == a && c.tag == t with
    | some c =>
      let n := nextPos c.plus c.group c.position
      if phase = 0 then j == n else nextPos c.plus c.group n == j
    | none => false
  | .head h => s.oneHop h.address.toNat
  | .body o _ => match s.txs.find? fun x => originOf x.item == o with
    | some x => x.receivers.all fun r => s.oneHop r.1
    | none => false
  | _ => false

/-- The datagrams of a reservation of one axis channel, of the buffer the axis channels share, and of one express channel (R265). -/
def axisReserve : Nat := 4
def sharedReserve : Nat := 64
def expressReserve : Nat := 2

/-- The reserved credits that a sender has spent, and the shared ones that all have. -/
def Flight.ownSpent (f : Flight) (sender : Nat) : Nat := (f.spent.filter fun x => x == (sender, false)).length
def Flight.sharedSpent (f : Flight) : Nat := (f.spent.filter (·.2)).length

/-- Whether a flight can send a request of a priority now (R259, R265). -/
def Flight.maySend (f : Flight) (prio sender : Nat) (shared : Bool) : Bool :=
  !f.paused.getLsbD prio &&
    (if prio < 6 then
      decide (0 < f.credits) &&
        (decide (f.ownSpent sender < axisReserve) || (shared && decide (f.sharedSpent < sharedReserve)))
    else decide (0 < f.xcredits) && decide ((f.xspent.filter (· == sender)).length < expressReserve))

/-- The express datagrams of a sender among some that have not been given back, and whether they take up its reservation. -/
def xspentBy (sender : Nat) (l : List Nat) : Nat := (l.filter (· == sender)).length
def reserveSpent (sender : Nat) (l : List Nat) : Bool := decide (expressReserve ≤ xspentBy sender l)

/-- A flight with one credit of a sender spent at a newel time: a reserved one first. -/
def Flight.spend (prio sender : Nat) (now : W64) (f : Flight) : Flight :=
  if prio < 6 then
    { f with credits := f.credits - 1, spent := f.spent ++ [(sender, decide (axisReserve ≤ f.ownSpent sender))] }
  else
    { f with xcredits := f.xcredits - 1, xspent := f.xspent ++ [sender], dryAt := if f.xcredits ≤ 1 then now.toNat + 1 else f.dryAt
             dry := if reserveSpent sender (f.xspent ++ [sender]) then Table.set 0 f.dry sender (now.toNat + 1) else f.dry }

/-- A flight to which `n` credits of a class come back, those spent first. -/
def Flight.refill (express : Bool) (n : Nat) (f : Flight) : Flight :=
  if express then
    { f with xcredits := Nat.min 32 (f.xcredits + n), xspent := f.xspent.drop n, dryAt := if f.xcredits + n = 0 then f.dryAt else 0
             dry := f.dry.filter fun x => reserveSpent x.1 (f.xspent.drop n) }
  else { f with credits := Nat.min 192 (f.credits + n), spent := f.spent.drop n }

/-- One more than the newel time since which an express sender has had no credit to send on, for want of its own or of any; 0 while it has
one (R278). -/
def Flight.drySince (f : Flight) (sender : Nat) : Nat :=
  let own := Table.get 0 f.dry sender
  if own = 0 then f.dryAt else if f.dryAt = 0 then own else Nat.min own f.dryAt

/-- Whether a request is of the express class. -/
def heldExpress (q : Nat × Packet) : Bool := decide (6 ≤ q.1)

/-- The requests that may go now: the first of each sender and class that finds a credit and an open priority. -/
def State.readyHeld (s : State) (p : Nat) : List (Nat × Packet) :=
  let f := s.flight p
  let firsts := f.held.zipIdx.filter fun q =>
    !((f.held.take q.2).any fun x => x.2.sender == q.1.2.sender && heldExpress x == heldExpress q.1)
  (firsts.map (·.1)).filter fun q => f.maySend q.1 q.2.sender (s.sharedOk q.2)

/-- The next of some senders in turn after `last`. -/
def roundRobin (last : Nat) (l : List (Nat × Packet)) : Option (Nat × Packet) :=
  let lower (a b : Nat × Packet) := decide (a.2.sender < b.2.sender)
  (pickBest lower (l.filter fun q => decide (last < q.2.sender))).orElse fun _ => pickBest lower l

/-- The request of a class that is served: an aged channel first, the longest aged before others, else the next in turn (R264). -/
def Flight.choose (f : Flight) (last : Nat) (l : List (Nat × Packet)) : Option (Nat × Packet) :=
  let losses (q : Nat × Packet) := Table.get 0 f.passed q.2.sender
  (pickBest (fun a b => decide (losses a > losses b)) (l.filter fun q => decide (8 ≤ losses q))).orElse fun _ => roundRobin last l

/-- One grant of a port (R264): the axis class unless the express class has been ready and passed over at 7 grants. -/
def State.grantPort (s : State) (p : Nat) : Option State :=
  let f := s.flight p
  let ready := s.readyHeld p
  let ax := ready.filter fun q => !heldExpress q
  let ex := ready.filter heldExpress
  let takeX := !ex.isEmpty && (ax.isEmpty || decide (7 ≤ f.xpassed))
  match f.choose (if takeX then f.lastExpress else f.lastAxis) (if takeX then ex else ax) with
  | none => none
  | some q =>
    let held := f.held.erase q
    let lost := ((if takeX then ex else ax).filter fun x => x.2.sender != q.2.sender).map fun x => x.2.sender
    let passed := lost.foldl (fun m x => Table.set 0 m x (Table.get 0 m x + 1)) (Table.set 0 f.passed q.2.sender 0)
    let f' := { f.spend q.1 q.2.sender s.newel.time with
      held := held, passed := passed.filter fun x => held.any fun y => y.2.sender == x.1
      xpassed := if takeX || ex.isEmpty then 0 else f.xpassed + 1
      lastAxis := if takeX then f.lastAxis else q.2.sender, lastExpress := if takeX then q.2.sender else f.lastExpress }
    some ((s.modFlight p fun _ => f').emit (.packet p (s.frameOf p q.1 etherKwedun) q.2))

/-- Serve a port as long as something may go. -/
def State.drainPort (p : Nat) : Nat → State → State
  | 0, s => s
  | n + 1, s => match s.grantPort p with
    | some s => State.drainPort p n s
    | none => s

/-- Send a request-class datagram on a port; it waits its turn, for a credit, and while its priority is paused. -/
def State.sendRequest (s : State) (p prio : Nat) (pk : Packet) : State :=
  let s := s.modFlight p fun f => { f with held := f.held ++ [(prio, pk)] }
  State.drainPort p (s.flight p).held.length s

/-- Send a response-class datagram of a class, having come so far on channel `vc`; it never waits on the request class (R264), and waits only
while its priority is paused (R259). -/
def State.sendReply (s : State) (p : Nat) (express : Bool) (vc : Nat) (pk : Packet) : State :=
  let prio := priorityOf express (s.linkVc p vc)
  if (s.flight p).paused.getLsbD prio then s.modFlight p fun f => { f with replies := f.replies ++ [(prio, pk)] }
  else s.emit (.packet p (s.frameOf p prio pk.etherType) pk)

/-- A response of the axis class that sets out here. -/
def State.sendResponse (s : State) (p : Nat) (pk : Packet) : State := s.sendReply p false 0 pk

/-- Send what a flight held, responses first, as far as it now may. -/
def State.flushHeld (s : State) (p : Nat) : State :=
  let f := s.flight p
  let s := s.modFlight p fun f => { f with replies := f.replies.filter fun q => f.paused.getLsbD q.1 }
  let s := (f.replies.filter fun q => !f.paused.getLsbD q.1).foldl (fun s q => s.emit (.packet p (s.frameOf p q.1 q.2.etherType) q.2)) s
  State.drainPort p f.held.length s

/-! ### Receive buffers (R259, R265) -/

/-- The priorities that a flight's own receive buffer holds datagrams of: in encapsulated mode those it pauses at its peer (R259). -/
def Flight.pauseMask (f : Flight) : BitVec 8 := f.inbox.foldl (fun m x => m ||| 1#8 <<< x.2) 0

/-- Change what waits in the receive buffer of a port; in encapsulated mode a change of the priorities it holds is sent as a pause (R259). -/
def State.setInbox (s : State) (p : Nat) (l : List (Nat × Nat)) : State :=
  let f := s.flight p
  let s := if l = f.inbox then s else s.modFlight p fun f => { f with inbox := l }
  if f.mode && (s.flight p).pauseMask != f.pauseMask then s.emit (.pause p (s.flight p).pauseMask) else s

/-- A request that has come in on a port waits in its receive buffer, where it keeps its credit. -/
def State.bufferIn (s : State) (p sender prio : Nat) : State :=
  (s.hear p).setInbox p (if (s.flight p).inbox.contains (sender, prio) then (s.flight p).inbox else (s.flight p).inbox ++ [(sender, prio)])

/-- A request that has come in on a port is taken out of its receive buffer, and its credit goes back to the peer (R264, R265). -/
def State.takeIn (s : State) (p sender prio : Nat) : State :=
  ((s.hear p).setInbox p ((s.flight p).inbox.erase (sender, prio))).sendReply p (decide (6 ≤ prio)) 0 (.credit (decide (6 ≤ prio)) 1)

/-- The payload of one datagram: 8 KiB. -/
def datagramBytes : Nat := 8192

/-- A byte string cut into datagrams. -/
def datagrams (bs : List Byte) : List (List Byte) := chunksOf datagramBytes ((bs.length + datagramBytes - 1) / datagramBytes) bs

/-! ### Channels (R263, R265) -/

/-- The axis channels of a port, the channels of one pool of a Y port, and the express channels of the module. -/
def axisChannels : Nat := 32
def poolChannels : Nat := 4
def expressChannels : Nat := 16

/-- The pool of a `SEND` on a Y port: its remote hall. -/
def State.poolOf (s : State) (i : ItemId) : Option Nat :=
  match s.item i with
  | some t => if descOp t.desc = some .send then some (peerHall (byteField t.desc 24 8)) else none
  | none => none

/-- Whether a port has an axis channel free, in a pool where one is named: this module's items and the writes in transit hold channels. -/
def State.channelRoom (s : State) (p : Nat) (pool : Option Nat) : Bool :=
  let used := (s.flight p).channels
  let passing := s.transits.filter (·.out == p)
  decide (used.length + passing.length < axisChannels) &&
    (portAxis p != .y || (match pool with
      | some h => decide ((used.filter fun j => s.poolOf j == some h).length + (passing.filter (·.hall == h)).length < poolChannels)
      | none => true))

/-- Whether a port has an axis channel free for item `i`. -/
def State.channelFree (s : State) (p : Nat) (i : ItemId) : Bool := s.channelRoom p (s.poolOf i)

/-- An item with a channel on a port. -/
def State.holdChannel (s : State) (p : Nat) (i : ItemId) : State := s.modFlight p fun f => { f with channels := f.channels ++ [i] }

/-- Take the channel an item needs; none where no channel is free. -/
def State.takeChannel (s : State) (express : Bool) (p : Nat) (i : ItemId) : Option State :=
  if express then
    if s.xprHeld.length < expressChannels then some { s with xprHeld := s.xprHeld ++ [i] } else none
  else if s.channelFree p i then some (s.holdChannel p i)
  else none

/-! ### Items that leave the fabric (R263, R273) -/

/-- Whether a datagram belongs to an item or to its collective. -/
def Packet.ofItem (i : ItemId) (c : Option Collective) : Packet → Bool
  | .head h => h.origin == originOf i
  | .body o _ => o == originOf i
  | .opening h => (c.map fun c => c.axis == h.axis && c.tag == h.tag).getD false
  | .partialData a t _ _ _ _ => (c.map fun c => c.axis == a && c.tag == t).getD false
  | _ => false

/-- Whether a flight still holds datagrams of an item for want of credit. -/
def State.holdsFor (s : State) (i : ItemId) : Bool :=
  let c := s.colls.find? fun c => c.item == i
  s.flights.any fun f => f.2.held.any fun q => q.2.ofItem i c

/-- Give back what an item holds on the fabric: its channels, its collective, its open sends and its held datagrams. -/
def State.releaseLinks (s : State) (i : ItemId) : State :=
  let c := s.colls.find? fun c => c.item == i
  if c.isNone && !s.xprHeld.contains i && !(s.txs.any fun x => x.item == i) &&
      !(s.flights.any fun f => f.2.channels.contains i) then s
  else
    let clean (f : Flight) : Flight :=
      { f with channels := f.channels.filter (· != i), held := f.held.filter fun q => !q.2.ofItem i c }
    let s := (s.flights.map (·.1)).foldl (fun s p => s.modFlight p clean) s
    { s with xprHeld := s.xprHeld.filter (· != i), txs := s.txs.filter fun x => x.item != i
             colls := s.colls.filter fun c => c.item != i }

/-- Whether the neighbour beyond a port belongs to this module's group of size `g` on the port's axis. -/
def State.groupBeyond (s : State) (p g : Nat) : Bool :=
  let a := portAxis p
  let n := s.axisSize a
  let c := s.coord a
  (if portPlus p then (c + 1) % n else (c + n - 1) % n) / Nat.max 1 g == c / Nat.max 1 g

/-- Send a withdrawal both ways round a group, over the links of the lane that are UP (R273). -/
def State.withdraw (s : State) (a : Axis) (tag g : Nat) : State :=
  let lane := (s.tagWay tag).2
  ([axisPort a true lane, axisPort a false lane].filter fun p => s.portUp p && s.groupBeyond p g).foldl
    (fun s p => s.sendResponse p (.withdrawal a tag (s.coord a) g)) s

/-- The collectives. -/
def collectiveOp : Opcode → Bool
  | .collReduceScatter | .collAllGather | .collAllReduce => true
  | _ => false

/-- Whether an item's update has been cut off from its peers, so that it has left the fabric already (R254). -/
def State.updateCut (s : State) (i : ItemId) : Bool := s.selvs.any fun v => v.2.queue.any fun u => u.item == i && u.cut.isSome

/-- What an item that fails does on the fabric: a member of a collective withdraws, before or after it has joined, save one
refused for its tag and one that has withdrawn; every channel is given back. -/
def State.leaveFabric (s : State) (i : ItemId) (st : Status) : State :=
  match s.item i with
  | none => s
  | some t =>
    let member := ((descOp t.desc).map collectiveOp).getD false && st != .conflict && !s.updateCut i && (t.phase == .dispatched || t.phase == .external)
    (if member then s.withdraw (descAxis t.desc) (descTag t.desc) (descGroup t.desc) else s).releaseLinks i

end Sys2Proof.Machine
end

