-- ==== Sys2Proof/Machine/Rails.lean ====
section
/-!
DEFINITION. The rail keepers (R16, R18, R20–R22): what a keeper drives, how it slews, and when a hall last had work.
-/
namespace Sys2Proof.Machine

/-- The states of a hall in `RK_STATUS` (R335). -/
def keeperActive : BitVec 2 := 0
def keeperIdle : BitVec 2 := 1
def keeperParked : BitVec 2 := 2
def keeperOff : BitVec 2 := 3

/-- What R16 calls for above 105 °C: 10 mV for each degree, never below 0.65 V. -/
def thermalRail (target tj : Nat) : Nat := if tj ≤ 105 then target else Nat.max 650 (target - 10 * (tj - 105))

/-- The rail that a keeper drives once it has slewed: the lowest of the target in effect, protection's 0.72 V and what R16, R20 or parking
call for (R22, R334). -/
def State.railGoal (s : State) (h : Nat) : Nat :=
  let k := (s.hall h).keeper
  let t := thermalRail k.inForce.toNat k.tj.toNat
  if k.state = keeperOff then 0
  else if k.state = keeperParked then 650
  else
    let t := if s.power.protect then Nat.min t 720 else t
    if k.state = keeperIdle then Nat.min t 650 else t

/-- The rail at a newel time: it moves toward the goal at 10 mV/µs, 1 mV every 100 ns (R18). -/
def Keeper.railNow (k : Keeper) (now : W64) : Nat :=
  let moved := (now.toNat - k.railSince.toNat) / 100
  if k.railMv.toNat ≤ k.goalMv.toNat then Nat.min k.goalMv.toNat (k.railMv.toNat + moved)
  else Nat.max k.goalMv.toNat (k.railMv.toNat - moved)

/-- A keeper that slews from its present rail to a goal from a newel time on; one that slews there already goes on. -/
def Keeper.slewTo (k : Keeper) (goal : Nat) (now : W64) : Keeper :=
  if BitVec.ofNat 10 goal = k.goalMv then k
  else { k with railMv := BitVec.ofNat 10 (k.railNow now), railSince := now, goalMv := BitVec.ofNat 10 goal }

/-- Whether R16 lowers a keeper's rail below its target (R335; log 37). -/
def Keeper.throttles (k : Keeper) : Bool := decide (thermalRail k.inForce.toNat k.tj.toNat < k.inForce.toNat)

/-- Let a hall's keeper slew to what it drives now. -/
def State.retune (s : State) (h : Nat) : State :=
  s.modKeeper h fun k => { k.slewTo (s.railGoal h) s.newel.time with throttle := k.throttles }

/-- The switch-domain rail of a hall in mV: that of the hall core, and 0.65 V while the core is off (R29, R329); nothing drives it in MODULE_SLEEP
and OFF (R343). -/
def State.switchRail (s : State) (h : Nat) : Nat :=
  let mv := (s.hall h).keeper.railNow s.newel.time
  if !s.newel.powered || s.power.asleep then 0 else if mv = 0 then 650 else mv

/-- Retune every hall that is up. -/
def State.retuneAll (s : State) : State := ((List.range 8).filter s.hallUp).foldl State.retune s

/-- A hall leaves IDLE, and its keeper slews back to the target (R20). -/
def State.leaveIdle (s : State) (h : Nat) : State :=
  if s.hallUp h && (s.hall h).keeper.state == keeperIdle then (s.modKeeper h fun k => { k with state := keeperActive }).retune h else s

/-- Note that a hall has work to dispatch or to issue now (R20). -/
def State.touch (s : State) (h : Nat) : State := { s with busyAt := Table.set 0 s.busyAt h s.newel.time }

/-- The newel time at which a hall last had work. -/
def State.lastBusy (s : State) (h : Nat) : Nat := (Table.get 0 s.busyAt h).toNat

end Sys2Proof.Machine
end

