-- ==== Sys2Proof/Machine/Items.lean ====
section
/-!
DEFINITION. Rings, knots and items: ring fields and states (R129, R130), updates of knots (R146–R151), how an item fails and
completes, and its completion record (R7, R10, R134, R144, R282–R284).
-/
namespace Sys2Proof.Machine

/-! ### Ring fields (R129) -/

def ringCommandBase (e : Block512) : Nat := byteField e 0 8
def ringCompletionBase (e : Block512) : Nat := byteField e 8 8
/-- The entries N of the command ring and of the completion ring. -/
def ringSize (e : Block512) : Nat := 2 ^ fieldNat e 128 5
def ringOwner (e : Block512) : Nat := fieldNat e 144 14
def ringFirstLoom (e : Block512) : Nat := fieldNat e 160 7
def ringLoomCount (e : Block512) : Nat := fieldNat e 168 7
def ringVector (e : Block512) : Nat := byteField e 22 2
def ringWriteback (e : Block512) : Nat := byteField e 24 8
def ringModeration (e : Block512) : Nat := byteField e 32 2
/-- The hall of a ring (R128). -/
def ringHall (g : Nat) : Nat := g / 2048

/-- Put ring `g` into a state; entering ERROR raises the treadle page's event 1 and names the ring in `TRD_EVT_RING` (R349,
R356). A ring that had descriptors to dispatch counts as work until now (R20). -/
def State.setRingState (s : State) (g st : Nat) : State :=
  let s := if (ringState (s.ring g).entry == ringEnabled && (s.ring g).p != (s.ring g).f) || !(s.ring g).ahead.isEmpty then
    s.touch (ringHall g) else s
  let s := s.modRing g fun r => { r with entry := setField r.entry 136 2 (BitVec.ofNat 2 st) }
  if st = ringError then
    (s.modTreadle (ringHall g) fun t => { t with evtRing := BitVec.ofNat 11 (g % 2048) }).event (pgTreadle (ringHall g)) 1
  else s

/-! ### The stairwells (R28, R29) -/

/-- The route of a hall's traffic to another hall (R28): the halls whose switches it crosses, column first, row first, or by the detour
between two halls of one row. -/
def rowHalls (r c1 c2 : Nat) : List Nat := ((List.range 4).filter fun c => Nat.min c1 c2 ≤ c && c ≤ Nat.max c1 c2).map fun c => 4 * r + c
def hallRoutes (a b : Nat) : List (List Nat) :=
  [a :: rowHalls (b / 4) (a % 4) (b % 4), b :: rowHalls (a / 4) (a % 4) (b % 4)] ++
    (if a / 4 = b / 4 then [[a, b] ++ rowHalls (1 - a / 4) (a % 4) (b % 4)] else [])
/-- Whether some route crosses only switches in service; a switch goes out of service when its hall's die fails (R29). -/
def State.hallReaches (s : State) (a b : Nat) : Bool := (hallRoutes a b).any fun r => r.all fun h => !s.boot.diesFailed.getLsbD h

/-- The hall through which an address of space 0 to 3 is reached: host memory is reached through hall 0 (R33). -/
def addrHome (a : Nat) : Nat := if addrSpace a = 3 then 0 else addrHall a

/-! ### Requests (R213, R214) -/

/-- The pseudo-channel of a stack offset (R213). -/
def pseudoChannel (o : Nat) : Nat := ((o >>> 12) ^^^ (o >>> 18) ^^^ (o >>> 24)) % 64

/-- The target of a request (R214). -/
def ledgerTarget (a : Nat) : Nat :=
  if addrSpace a = 2 then 64 * addrHall a + pseudoChannel (addrOffset a) else 512 + 96 * addrHall a + addrOffset a / 2 ^ 26

/-- A span cut at 4 KiB boundaries (R214). -/
def splitSpan (a n : Nat) : List (Nat × Nat) :=
  if n = 0 then [] else
    (List.range ((a + n - 1) / 4096 - a / 4096 + 1)).map fun i =>
      let lo := Nat.max a ((a / 4096 + i) * 4096)
      (lo, Nat.min (a + n) ((a / 4096 + i + 1) * 4096) - lo)

/-- Put requests at the end of a ledger's waiting list. `via` is the window they go through, none for one that uses none. -/
def State.request (s : State) (h : Nat) (from_ : Requester) (tte : Option Nat) (via : Option Block512)
    (spans : List (Nat × Nat × Bool)) : State :=
  let owner := (via.map winOwner).getD operatorOwner
  let hint := (via.map winHint).getD 0
  let slot (a : Nat) : Option Nat := if addrSpace a = 2 ∧ owner ≠ operatorOwner then some (s.keySlotOf owner) else none
  let parts := spans.flatMap fun p => (splitSpan p.1 p.2.1).map fun q => (q.1, q.2, p.2.2)
  s.modLedger h fun g =>
    { g with
      waiting := g.waiting ++ parts.zipIdx.map fun p =>
        { id := g.next + p.2, parts := [(from_, p.1.1, p.1.2.1)], target := ledgerTarget p.1.1, address := p.1.1, length := p.1.2.1
          write := p.1.2.2, tte := tte, lost := 0, owner := owner, hint := hint, keySlot := slot p.1.1, mixed := false }
      next := g.next + parts.length }

/-- Spans that reach gallery or HBM and so go through a ledger (R214), marked read or written. -/
def ledgerSpans (write : Bool) (l : List (Nat × Nat)) : List (Nat × Nat × Bool) :=
  (l.filter fun p => (addrSpace p.1 == 1 || addrSpace p.1 == 2) && decide (p.2 > 0)).map fun p => (p.1, p.2, write)

/-- A request that the treadle of hall `h` makes; what waits for it makes it urgent (R208, R214). -/
def State.treadleRequest (s : State) (h : Nat) (from_ : Requester) (write : Bool) (a n : Nat) : State :=
  s.request h from_ (some 0) none (ledgerSpans write [(a, n)])

/-! ### Knots (R146–R151) -/

/-- Whether a knot reads as poisoned: its own bit, or its hall is lost (R288). -/
def State.knotPoisoned (s : State) (k : Nat) : Bool := (s.knot k).poison || !s.hallHere (k / 256)

/-- A knot after an update (R151). -/
def Knot.after (a : KnotAction) (k : Knot) : Knot :=
  match a with
  | .add n => { k with count := k.count + n }
  | .poison => { k with poison := true }
  | .assign n => { k with count := n, poison := false }

/-- Apply an update at the knot. The knots of a lost hall stay poisoned until reset (R287). -/
def State.knotAct (s : State) (k : Nat) (a : KnotAction) : State := s.modKnot k (Knot.after a)

/-- An update made by hall `h`: at once for its own knots, across the stairwells for another hall's (R147). One that every route crosses a
switch out of service does not move (R28). -/
def State.knotSend (s : State) (h k : Nat) (a : KnotAction) : State :=
  if k / 256 = h then s.knotAct k a
  else if s.hallReaches h (k / 256) then { s with knotMsgs := s.knotMsgs ++ [⟨k, a⟩] } else s

/-! ### What an item is -/

/-- The ring entry of an item's ring, its owner and its PCIe function. -/
def State.itemRing (s : State) (it : ItemId) : Ring := s.ring it.ring
def State.itemOwner (s : State) (it : ItemId) : Nat := ringOwner (s.itemRing it).entry
def State.itemFunction (s : State) (it : ItemId) : Nat := (s.itemRing it).function

/-- Whether `a` comes before `b` on one ring: an earlier descriptor, or an earlier command of one pattern call. Indices run
modulo 2^32 (R130). -/
def itemBefore (a b : ItemId) : Bool :=
  a.ring == b.ring &&
    ((a.idx != b.idx && decide ((b.idx + 2 ^ 32 - a.idx) % 2 ^ 32 < 2 ^ 31)) ||
      (a.idx == b.idx && decide (0 < a.sub ∧ a.sub < b.sub)))

/-- The item that a pattern call's command belongs to. -/
def itemParent (i : ItemId) : ItemId := { i with sub := 0 }

/-- Commands that the treadle executes itself, without a loom lane (R161). -/
def treadleOp : Opcode → Bool
  | .nop | .knotSet | .knotWait | .fence | .callPattern | .timestamp | .streamArm | .bobbinBind
  | .collReduceScatter | .collAllGather | .collAllReduce | .send | .recv | .multicast | .windowOpen | .windowClose
  | .buddyPush | .updateBind | .statsSnap | .cardRun => true
  | _ => false

/-- The control commands that execute in ring order (R167). -/
def controlOp : Opcode → Bool
  | .nop | .knotSet | .knotWait | .fence | .callPattern | .timestamp => true
  | _ => false

/-- The opcode of an item. -/
def Item.op (t : Item) : Option Opcode := descOp t.desc

/-- All lanes with their keys. -/
def State.lanePieces (s : State) : List (Nat × List Piece) := s.lanes

/-- The calls that a command stands within. Calls nest to a depth of 4 (R156). -/
def State.callersOf : Nat → State → Option ItemId → List ItemId
  | 0, _, _ => []
  | _, _, none => []
  | n + 1, s, some c => c :: State.callersOf n s ((s.item c).bind (·.caller))

/-- Whether any lane holds a piece of an item. -/
def State.inLanes (s : State) (i : ItemId) : Bool := s.lanes.any fun p => p.2.any fun q => q.item == i

/-- Whether the head of a lane satisfies a test. -/
def headIs (ps : List Piece) (f : Piece → Bool) : Bool :=
  match ps with
  | q :: _ => f q
  | [] => false

/-- The head of a lane is running when its queue's selector says so. -/
def State.laneRunning (s : State) (key : Nat) : Bool :=
  match (s.selector (key / 2)).running with
  | some .forward => key % 2 == 0
  | some .backward => key % 2 == 1
  | none => false

/-- A lane without the pieces of an item that have not started (R144). -/
def State.dropFrom (s : State) (i : ItemId) (key : Nat) (ps : List Piece) : List Piece :=
  if s.laneRunning key then ps.take 1 ++ (ps.drop 1).filter (·.item != i) else ps.filter (·.item != i)

/-- Drop the pieces of an item that have not started, and the command from its ring's pending slot. -/
def State.dropPieces (s : State) (i : ItemId) : State :=
  let s := s.touch (ringHall i.ring)
  let lanes := (s.lanes.map fun p => (p.1, s.dropFrom i p.1 p.2)).filter fun p => !p.2.isEmpty
  let s : State := { s with lanes := lanes }
  let s := s.modItem i fun t => { t with emit := [], calls := [] }
  if (s.ring i.ring).parked = some i then s.modRing i.ring fun r => { r with parked := none } else s

/-- The expansion position of part `k` of unit `u` in a queue, from 1 on (R142; log 45): units in ascending order, and within one the LOAD
pieces of a pass and the pass, five parts of LOAD to one of MATRIX, then LANDING and STORE. -/
def pieceAt (u : Nat) (q : Queue) (k : Nat) : Nat :=
  2 ^ 66 * u + 1 + match q with
    | .load => 8 * (k / 5) + k % 5
    | .matrix => 8 * k + 5
    | .landing => 2 ^ 64 + k
    | .store => 2 ^ 65 + k
/-- The expansion position of a piece. -/
def Piece.place (p : Piece) : Nat := pieceAt p.unit p.queue p.part

/-- The failure of the piece at expansion position `u`: the first failing piece in expansion order decides (R144). -/
def Item.failAt (st : Status) (u : Nat) (t : Item) : Item :=
  let t := { t with failures := insertNat t.failures u }
  match t.failedAt with
  | some v => if u < v then { t with status := st, failedAt := some u, phase := .decided } else { t with phase := .decided }
  | none => { t with status := st, failedAt := some u, phase := .decided }

/-- A descriptor whose active arming has ended: the pending one becomes active at entry 0 (R224). -/
def Stream.next (st : Stream) : Stream := { st with active := st.pending, pending := none, since := 0, passed := 0, agedAt := none }

/-- A descriptor without the armings of an item. -/
def Stream.without (i : ItemId) (st : Stream) : Stream :=
  let st := if st.pending.any fun a => a.item == i then { st with pending := none } else st
  if st.active.any fun a => a.item == i then st.next else st

/-- End the armings of an item, by completing or by failing (R224). -/
def State.dropArmings (s : State) (i : ItemId) : State :=
  s.streams.foldl (fun s p => s.modStream (p.1 / 4096) (p.1 % 4096) (Stream.without i)) s

/-- Fail one item: it leaves the fabric, its armings end, and its pieces that have not started are dropped. -/
def State.failOne (s : State) (i : ItemId) (st : Status) (u : Nat) : State :=
  (((s.leaveFabric i st).dropArmings i).modItem i (Item.failAt st u)).dropPieces i

/-- A call whose command `u` has failed with a status: the first failing command in the order of emission decides, and a command that fails
again with another status at the same place decides anew (R144, R157). -/
def Item.failSub (st : Status) (u : Nat) (t : Item) : Item :=
  match t.failedAt with
  | some v => if u ≤ v then { t with status := st, failedAt := some u, phase := .decided } else { t with phase := .decided }
  | none => { t with status := st, failedAt := some u, phase := .decided }

/-- The position of a command that ends because another command of its call has failed: behind every piece of its own. -/
def lastPlace : Nat := 2 ^ 200

/-- What a call has emitted ends, since the call has failed: what has not started is dropped, what has runs to its end, and a call among it emits
nothing more (R144, R157). -/
def State.endCalled : Nat → State → ItemId → State
  | 0, s, _ => s
  | n + 1, s, c =>
    (s.items.filter fun u =>
        u.caller == some c && u.phase != .decided && (u.phase != .external || u.op == some .callPattern)).foldl
      (fun s u => State.endCalled n (s.failOne u.id .aborted lastPlace) u.id) s

/-- A command of a pattern call has failed: the call fails, it emits nothing more, and its other commands end when the pieces they have
started have ended (R144, R157); a call that a call emitted fails that call in turn. -/
def State.failCallers : Nat → State → ItemId → State
  | 0, s, _ => s
  | n + 1, s, i =>
    match s.item i with
    | none => s
    | some t => match t.caller with
      | none => s
      | some c =>
        let s := (s.modItem c (Item.failSub t.status i.sub)).dropPieces c
        State.failCallers n (State.endCalled 4 s c) c

/-- Fail an item at an expansion position, and the call that emitted it. Calls nest to a depth of 4 (R156). -/
def State.failAt (s : State) (i : ItemId) (st : Status) (u : Nat) : State :=
  State.failCallers 4 (s.failOne i st u) i

/-- The places of the running pieces of an item. -/
def State.runningPlaces (s : State) (i : ItemId) : List Nat :=
  (s.lanes.filter fun l => s.laneRunning l.1).filterMap fun l => match l.2 with
    | q :: _ => if q.item == i then some q.place else none
    | [] => none

/-- Nothing further moves for an item: its running pieces end where they stand (R28, R145). -/
def State.haltPieces (s : State) (i : ItemId) : State :=
  s.modItem i fun t => { t with failures := (s.runningPlaces i).foldl insertNat t.failures }

/-- Fail an item as a whole: nothing further moves for it. -/
def State.failItem (s : State) (i : ItemId) (st : Status) : State := (s.failAt i st 0).haltPieces i

/-- Decide an item that has not failed: every effect is in place. -/
def State.finish (s : State) (i : ItemId) (bytes : Nat) : State :=
  s.modItem i fun t => { t with phase := .decided, bytes := t.bytes + bytes }

/-- Note an adjustment of an item, and of the calls that it stands within (R8, R144, R157): the first one raised stands. -/
def State.adjust (s : State) (i : ItemId) (st : Status) : State :=
  (i :: State.callersOf 4 s ((s.item i).bind (·.caller))).foldl (fun s j =>
    s.modItem j fun t => { t with adjust := t.adjust.orElse fun _ => some st }) s

/-- The final status of an item (R144). -/
def Item.finalStatus (t : Item) : Status := if statusFailed t.status then t.status else t.adjust.getD t.status

/-! ### Waiting on knots (R150) -/

/-- What a wait entry says of the knot it names. -/
inductive WaitState where
  | met | unmet | poisoned
  deriving DecidableEq, Repr

/-- A wait entry evaluated at its knot; an empty entry is met. -/
def State.waitState (s : State) (e : W32) : WaitState :=
  if !entryValid e then .met
  else if s.knotPoisoned (entryKey e) then .poisoned
  else if waitMetBy (s.knot (entryKey e)).count (entryTarget e) then .met
  else .unmet

/-- Whether every earlier control command of an item's ring has run (R167). -/
def State.controlTurn (s : State) (i : ItemId) : Bool :=
  s.items.all fun t => !(itemBefore t.id i && (t.op.map controlOp).getD false && t.phase == .dispatched)

/-- Whether an item's wait is being evaluated: the treadle executes it in its turn, or its first piece heads a lane. -/
def State.atWait (s : State) (t : Item) : Bool :=
  (t.phase == .zero || t.phase == .dispatched) && !t.waitMet &&
    (t.phase == .zero || match t.op with
     | some o => if controlOp o then s.controlTurn t.id else if treadleOp o then true
       else s.lanes.any fun p => match p.2 with
         | q :: _ => q.item == t.id && q.first
         | [] => false
     | none => false)

/-- Evaluate one item's wait: met once is met for good, poisoned fails the item (R150). -/
def State.settleWait (s : State) (t : Item) : State :=
  if s.atWait t then
    match s.waitState (descWait t.desc) with
    | .met => s.modItem t.id fun u => { u with waitMet := true, phase := if u.phase = .zero then .decided else u.phase }
    | .poisoned => s.failItem t.id .upstream
    | .unmet => s
  else s

/-- Evaluate every wait that stands at its knot. -/
def State.settleWaits (s : State) : State := s.items.foldl State.settleWait s

/-- Apply a knot update and let the waiters see it (R147, R150). -/
def State.knotUpdate (s : State) (h k : Nat) (a : KnotAction) : State := (s.knotSend h k a).settleWaits

/-! ### The turn of an item in its lanes (R141) -/

/-- The key of a piece's lane. -/
def Piece.key (p : Piece) : Nat := laneKey p.hall p.loom p.queue p.lane

/-- Whether every piece ahead of item `i` in a lane belongs to an item whose outcome is decided, and none of them is a piece of a failed item that
runs on (R144). -/
def State.laneTurn (s : State) (i : ItemId) (ps : List Piece) : Bool :=
  (ps.takeWhile (·.item != i)).all fun q =>
    match s.item q.item with
    | some t => t.phase != .dispatched && (!statusFailed t.status || t.failures.contains q.place)
    | none => true

/-- Whether it is an item's turn on every lane it uses: no command before it in a lane still has work to do. -/
def State.itemTurn (s : State) (t : Item) : Bool :=
  s.lanes.all fun p =>
    !(p.2.any (·.item == t.id) || t.emit.any fun q => q.key == p.1) || s.laneTurn t.id p.2

/-- Whether an item that has failed has a piece that has started and neither ended nor failed: it runs to its end (R144). -/
def State.runsOn (s : State) (t : Item) : Bool :=
  t.phase == .decided && statusFailed t.status && (s.runningPlaces t.id).any fun p => !t.failures.contains p

/-- The item of an opcode's row, when it may run now: dispatched, in its turn, its wait met, or failed with a piece that runs on. -/
def State.runnable (s : State) (i : ItemId) (o : Opcode) : Option Item :=
  match s.item i with
  | some t => if (t.phase = .dispatched ∨ s.runsOn t) ∧ t.op = some o ∧ t.waitMet ∧ s.itemTurn t then some t else none
  | none => none

/-! ### Ending an item (R10, R134, R144, R151, R282–R284) -/

/-- Note that a piece or a card word of an item has run on a loom. -/
def State.ranOn (s : State) (i : ItemId) (l : Nat) : State := s.modItem i fun t => { t with looms := insertNat t.looms l }

/-- The loom byte of a record: the one loom that ran the item, else 0xFF (R10). -/
def Item.loomByte (t : Item) : Nat :=
  match t.looms with
  | l :: ls => if ls.all (· == l) then l else 255
  | [] => 255

/-- The 32 bytes of a completion record (R10). -/
def recordBytes (t : Item) (elapsed time : W64) : List Byte :=
  leBytes 4 (descId t.desc).toNat ++ [statusCode t.finalStatus] ++ leBytes 1 (Nat.min t.replay 4) ++
    leBytes 2 t.id.ring ++ leBytes 1 t.hallByte ++ leBytes 1 t.loomByte ++ leBytes 6 elapsed.toNat ++
    leBytes 8 t.bytes ++ leBytes 8 time.toNat

/-- Whether the host of a function can be reached: it has not departed, and hall 0's die, through which every host access passes, is alive
(R283, R285). -/
def State.hostReachable (s : State) (fn : Nat) : Bool := !s.hif.departed.getLsbD fn && !s.boot.diesFailed.getLsbD 0

/-- Whether memory at an address can take a record: it is not that of a hall whose die has failed, nor that of a host that has departed or
cannot be reached (R283). -/
def State.recordMemoryHere (s : State) (fn a : Nat) : Bool :=
  if addrSpace a < 3 then !s.boot.diesFailed.getLsbD (addrHall a) else s.hostReachable fn

/-- Whether a ring's completion ring can be written (R283, R289). -/
def State.canRecord (s : State) (g : Nat) : Bool :=
  let r := s.ring g
  !r.noRecord && !s.boot.diesFailed.getLsbD (ringHall g) && s.recordMemoryHere r.function (ringCompletionBase r.entry) &&
    s.hallReaches (ringHall g) (addrHome (ringCompletionBase r.entry))

/-- Raise a ring's interrupt for a record, under its moderation count and the item's interrupt flag (R129, R138). None reaches a host that
cannot be reached (R283). -/
def State.ringInterrupt (s : State) (g : Nat) (irq : Bool) : State :=
  let r := s.ring g
  if ringVector r.entry = 0xFFFF ∨ s.boot.diesFailed.getLsbD 0 then s
  else if irq || ringModeration r.entry ≤ r.sinceIrq + 1 then
    (s.modRing g fun r => { r with sinceIrq := 0 }).interrupt r.function (ringVector r.entry)
  else s.modRing g fun r => { r with sinceIrq := r.sinceIrq + 1 }

/-- Bytes written by the module itself at a module address. -/
def State.put (s : State) (fn a : Nat) (bs : List Byte) : State := s.store ⟨none, none, fn⟩ a bs

/-- Write an item's record. -/
def State.writeRecord (s : State) (t : Item) : State :=
  let g := t.id.ring
  let r := s.ring g
  let a := ringCompletionBase r.entry + 32 * (r.c.toNat % ringSize r.entry)
  let (n, s) := s.draw
  (s.put r.function a (recordBytes t (Config.freeLong n) s.newel.time)).treadleRequest (ringHall g) (.record g) true a 32

/-- Count a record that is written, write the count back and raise the interrupt (R134). -/
def State.countRecord (s : State) (t : Item) : State :=
  let g := t.id.ring
  let s := s.modRing g fun r => { r with c := r.c + 1 }
  let r := s.ring g
  let s := if s.recordMemoryHere r.function (ringWriteback r.entry) && s.hallReaches (ringHall g) (addrHome (ringWriteback r.entry)) then
      (s.put r.function (ringWriteback r.entry) (leBytes 4 r.c.toNat)).treadleRequest (ringHall g) (.record g) true (ringWriteback r.entry) 4
    else s
  s.ringInterrupt g (descIrq t.desc)

/-- Apply an item's set entry: the increment on success or adjustment, poison on failure (R151). -/
def State.applySet (s : State) (t : Item) : State :=
  let e := descSet t.desc
  if entryValid e && t.setsKnot then
    s.knotSend t.hall (entryKey e) (if statusFailed t.finalStatus then .poison else .add (BitVec.ofNat 32 (entryIncrement e)))
  else s

/-- A FENCED ring enters DISABLED once C equals F (R284). -/
def State.ringSettle (s : State) (g : Nat) : State :=
  let r := s.ring g
  if ringState r.entry = ringFenced ∧ r.c = r.f then s.setRingState g ringDisabled else s

/-- The busy time of a ring ends with its last item that has been fetched, those it has read ahead among them (R295). -/
def State.busySettle (s : State) (g : Nat) : State :=
  if s.items.any (fun t => t.id.ring == g) || !(s.ring g).ahead.isEmpty then s
  else s.modRing g fun r =>
    { r with busyNs := (match r.busySince with | some b => r.busyNs + (s.newel.time - b) | none => r.busyNs)
             busySince := none }

/-- Remove an item. -/
def State.removeItem (s : State) (i : ItemId) : State :=
  let s := s.releaseLinks i
  ({ s with items := s.items.filter fun t => t.id != i } : State).busySettle i.ring

/-- End a whole item: the record, then the set knot, then C, the writeback and the interrupt (R134). -/
def State.endItem (s : State) (t : Item) : State :=
  let ok := s.canRecord t.id.ring
  let s := if ok then s.writeRecord t else s
  let s := s.applySet t
  let s := if ok then s.countRecord t else s
  ((s.removeItem t.id).ringSettle t.id.ring).settleWaits

/-- Whether a call has a command in the module. -/
def State.hasCommands (s : State) (c : ItemId) : Bool := s.items.any fun u => u.caller == some c

/-- The share of a command that a pattern call emitted in the record of its call: its bytes, its replay count and its looms (R10, R157). -/
def State.shareIn (s : State) (t : Item) : State :=
  s.modItem (t.caller.getD (itemParent t.id)) fun p =>
    { p with bytes := p.bytes + t.bytes, replay := Nat.max p.replay t.replay, looms := t.looms.foldl insertNat p.looms }

/-- End a command that a pattern call emitted: its set knot, and its share in the record of its call (R157). -/
def State.endSub (s : State) (t : Item) : State :=
  let c := t.caller.getD (itemParent t.id)
  let s := (s.applySet t).shareIn t
  let s := s.releaseLinks t.id
  let s := { s with items := s.items.filter fun u => u.id != t.id }
  let s := if s.hasCommands c then s else s.modItem c fun p =>
    if p.calls.isEmpty && p.phase = .external then { p with phase := .decided } else p
  s.settleWaits

/-- A knot was read with an uncorrectable error as an item used it for the entry `e`: it is poisoned, and its waiters see it (R286). -/
def State.loseKnot (s : State) (e : W32) : State := if entryValid e then (s.knotAct (entryKey e) .poison).settleWaits else s

/-- Whether an item's outcome is decided, none of its pieces is left, and none of the commands it emitted (R144, R157). -/
def State.itemEnded (s : State) (t : Item) : Bool :=
  t.phase == .decided && t.emit.isEmpty && !s.inLanes t.id && !s.hasCommands t.id

/-- Whether the record of a ring, or the writeback of its count, lies in a range that is being zeroed, so that the write waits (R212). -/
def State.recordWaits (s : State) (g : Nat) : Bool :=
  let r := s.ring g
  s.canRecord g && (s.hitsZeroing (ringCompletionBase r.entry + 32 * (r.c.toNat % ringSize r.entry)) 32 ||
    s.hitsZeroing (ringWriteback r.entry) 4)

/-- Whether what an item sends as it ends has no route: its record, its ring's writeback, or the update of its set knot (R28). -/
def State.endCut (s : State) (t : Item) : Bool :=
  let e := s.ring t.id.ring
  let h := ringHall t.id.ring
  s.boot.diesFailed != 0 && ((entryValid (descSet t.desc) && t.setsKnot && !s.hallReaches t.hall (entryKey (descSet t.desc) / 256)) ||
    (t.id.sub == 0 && [ringCompletionBase e.entry, ringWriteback e.entry].any fun a =>
      s.recordMemoryHere e.function a && !s.hallReaches h (addrHome a)))

/-- An item that ends as it stands: the command of a call with its share in the call, another with its record, which waits for a range that is
being zeroed (R212). -/
def State.endAs (s : State) (t : Item) : State :=
  if t.id.sub ≠ 0 then s.endSub t else if s.recordWaits t.id.ring then s else s.endItem t

/-- `ITEM_COMPLETE`. One whose last traffic has no route fails with it (R28). -/
def State.complete (s : State) (i : ItemId) : State :=
  match s.item i with
  | some t =>
    if !s.itemEnded t then s
    else if s.endCut t && !statusFailed t.status then
      let s := s.failItem i .hallLost
      match s.item i with
      | some t => s.endAs t
      | none => s
    else s.endAs t
  | none => s

/-- A selector after pieces are taken away: one whose running head goes is free again. -/
def State.selectorAfter (s : State) (f : Piece → Bool) (k : Nat) (v : Selector) : Selector :=
  match v.running with
  | some .forward => if headIs (s.lane (2 * k)) f then { v with running := none } else v
  | some .backward => if headIs (s.lane (2 * k + 1)) f then { v with running := none } else v
  | none => v

/-- Take away every piece that satisfies a test, running or not. -/
def State.stopPieces (s : State) (f : Piece → Bool) : State :=
  let sel := (s.sel.map fun p => (p.1, s.selectorAfter f p.1 p.2)).filter fun p => p.2 != Selector.reset
  { s with
    lanes := (s.lanes.map fun p => (p.1, p.2.filter fun q => !f q)).filter fun p => !p.2.isEmpty
    sel := sel }

/-- Fail an item with a status that replaces any outcome it had. -/
def State.failOver (s : State) (i : ItemId) (st : Status) (byte : Option Nat) : State :=
  (s.failOne i st 0).modItem i fun t => { t with status := st, hallByte := byte.getD t.hallByte }

/-- Every unrecorded item that satisfies a test fails at once and completes, its running pieces with it (R284, R287, R322, R343). `byte`
is byte 8 of the records, where it is not the item's own. -/
def State.flushItems (s : State) (f : ItemId → Bool) (st : Status) (byte : Option Nat) : State :=
  let ids := (s.items.map (·.id)).filter f
  let s := s.stopPieces fun q => f q.item
  let s := ids.foldl (fun s i => s.failOver i st byte) s
  let s := (ids.filter (·.sub != 0)).reverse.foldl (fun s i => match s.item i with
    | some t => s.shareIn t
    | none => s) s
  let s := { s with items := s.items.filter fun t => !(f t.id && t.id.sub != 0) }
  (ids.filter (·.sub == 0)).foldl State.complete s

/-- An item as its descriptor is fetched, with nothing expanded (R139). -/
def Item.blank (id : ItemId) (d : Block512) (setsKnot : Bool) : Item :=
  { id := id, hall := ringHall id.ring, desc := d, phase := .decided, status := .ok, failedAt := none, failures := [], adjust := none
    setsKnot := setsKnot, waitMet := false, wins := [], scales := [], ctxs := [], runs := [], buffers := [], emit := []
    calls := [], caller := none, termMet := false, image := [], unitCount := 0, unitsDone := [], linesDone := [], progress := 0, replay := 0, bytes := 0
    hallByte := ringHall id.ring, looms := [] }

/-- The items of the descriptors that ring `g` has read and not expanded: they were fetched, and no piece of them will run (R135, R282). -/
def State.aheadItems (s : State) (g : Nat) : List Item :=
  let r := s.ring g
  r.ahead.zipIdx.map fun x =>
    Item.blank ⟨g, (r.f - BitVec.ofNat 32 r.ahead.length + BitVec.ofNat 32 x.2).toNat, 0⟩ x.1 (s.setUsable (ringOwner r.entry) x.1)

/-- Make items of what the rings that satisfy a test have read ahead, before every fetched item of theirs is ended. -/
def State.admitAhead (s : State) (f : Nat → Bool) : State :=
  let gs := (s.rings.map Prod.fst).filter f
  let s := { s with items := s.items ++ gs.flatMap s.aheadItems }
  gs.foldl (fun s g => s.modRing g fun r => { r with ahead := [] }) s

/-- Every unrecorded item of a ring fails. Its pieces that have started run to their boundary, and the items that have none complete at once
(R284). -/
def State.fenceItems (s : State) (g : Nat) (st : Status) (byte : Nat) : State :=
  let s := s.admitAhead (· == g)
  let ids := (s.items.map (·.id)).filter fun i => i.ring == g
  let s := ids.foldl (fun s i => s.failOver i st (some byte)) s
  ((ids.filter (·.sub != 0)).reverse ++ ids.filter (·.sub == 0)).foldl State.complete s

end Sys2Proof.Machine
end

