-- ==== Sys2Proof/Machine/Checks.lean ====
section
/-!
DEFINITION. Step 5 of the fetch checks (R139, R164): the windows a command names (R41, R163, R166), tag lists and adapter
windows (R111–R118), and the operand checks of each opcode.
-/
namespace Sys2Proof.Machine

/-! ### Shapes of the matrix commands (R64, R66, R78–R82, R177) -/

/-- The shape of a matrix command: the reduction length of one tap `k`, the output columns `n` and rows `m`, the taps, the tile
reduction positions (R64), and the passes, column tiles and row blocks of its output tiles. -/
structure MatShape where
  k : Nat
  n : Nat
  m : Nat
  taps : Nat
  tileK : Nat
  tapTiles : Nat
  passes : Nat
  colTiles : Nat
  rowBlocks : Nat
  deriving DecidableEq, Repr

/-- The parameters of one spatial dimension j of a convolution, from the geometry bytes (R176): stride, dilation, front and back
padding. -/
structure ConvDim where
  stride : Nat
  dilation : Nat
  front : Nat
  back : Nat
  deriving DecidableEq, Repr

def convDim (d : Block512) (j : Nat) : ConvDim :=
  let b := 384 + 16 * (j - 1)
  ⟨fieldNat d b 4, fieldNat d (b + 4) 4, fieldNat d (b + 8) 4, fieldNat d (b + 12) 4⟩

/-- The output size O_j of R82 as an integer. -/
def convOut (g : ConvDim) (dj kj : Nat) : Int :=
  if g.stride = 0 then 0
  else ((dj : Int) + g.front + g.back - g.dilation * ((kj : Int) - 1) - 1).fdiv g.stride + 1

/-- O_1, O_2, O_3 of a convolution. -/
def convSizes (d : Block512) (weft warp : Block512) : List Nat :=
  [1, 2, 3].map fun j => (convOut (convDim d j) (winDim weft j) (winDim warp j)).toNat

/-- The shape of a matrix command over its weft and warp windows. -/
def matShape (o : Opcode) (d weft warp : Block512) : MatShape :=
  let tileK := if winFormat weft = 1 ∧ winFormat warp = 1 then 64 else 32
  let mk (k n m taps : Nat) : MatShape :=
    let tt := (k + tileK - 1) / tileK
    ⟨k, n, m, taps, tileK, tt, taps * tt, (n + 63) / 64, (m + 127) / 128⟩
  match o with
  | .conv =>
    let os := convSizes d weft warp
    mk (winDim weft 0) (winDim warp 4) (os.getD 0 0 * os.getD 1 0 * os.getD 2 0 * winDim weft 4)
      (winDim warp 1 * winDim warp 2 * winDim warp 3)
  | .matmulT => mk (winDim warp 1) (winDim warp 0) (winDim weft 1) 1
  | _ => mk (winDim warp 0) (winDim warp 1) (winDim weft 1) 1

/-- The formats a shaft takes (R52, R53). -/
def shaftFormat (f : Nat) : Bool := (1 ≤ f && f ≤ 9) || f == 0x0B
/-- The pairings of R52 and R53. -/
def pairingOk (a b : Nat) : Bool := shaftFormat a && shaftFormat b && ((a == 0x0B) == (b == 0x0B))
/-- The float formats of a weft (R117). -/
def weftFloat (f : Nat) : Bool := 1 ≤ f && f ≤ 9

/-! ### Windows a command names -/

/-- A check list (R164): the checks whose failure is not `ST_LENGTH_BOUND`, whether the command is zero length, and the length
checks, which a zero-length command does not meet. -/
structure Checked where
  early : List (Option Status)
  zero : Bool
  late : List (Option Status)

/-- What the checks say. -/
inductive Verdict where
  | fail (st : Status)
  | zero
  | run
  deriving DecidableEq, Repr

/-- The order of R164. -/
def Checked.verdict (c : Checked) : Verdict :=
  match firstFail c.early with
  | some st => .fail st
  | none => if c.zero then .zero else match firstFail c.late with
    | some st => .fail st
    | none => .run

/-- The window of a handle. -/
def State.winOf (s : State) (h : W32) : Block512 := s.window (handleKey h)

/-- The handles an opcode names: the byte and whether it may be none (R163). A source b where the operation or mode takes none (R178) is
neither checked nor refused, and an X or U handle of a phase of `ADAPT_BWD` that is not selected (R184) is accepted and only checked as a
window is (DESIGN CHOICE; log 56). -/
def operandHandles (o : Opcode) (d : Block512) : List (Nat × Bool) :=
  let op := byteField d 28 1
  let mode := byteField d 29 1
  match o with
  | .timestamp => [(16, true)]
  | .callPattern => if d.getLsbD 144 then [(20, false)] else []
  | .loadTile | .storeTile | .copy | .offload | .restore => [(16, false), (20, false)]
  | .gather | .scatter => [(16, false), (20, false), (40, false)]
  | .prefetch => [(16, false)]
  | .streamArm => [(20, false), (24, false)]
  | .matmul | .matmulT | .matmulAcc =>
    [(16, false), (20, false), (24, false)] ++ (if adapterFlag d then [(28, true)] else []) ++
      [(40, true), (44, true)] ++ (if adapterFlag d then [(48, false)] else [])
  | .conv => [(16, false), (20, false), (24, false), (40, true), (44, true)]
  | .eltwise => [(16, false)] ++ (if (op ≤ 5 || 17 ≤ op) && mode != 2 then [(20, false)] else []) ++ [(24, false)]
  | .epilog => [(16, false), (24, false), (40, true), (44, true)]
  | .softmaxFwd => [(16, false)] ++ (if mode / 2 != 0 then [(20, false)] else []) ++ [(24, false)]
  | .softmaxBwd => [(16, false), (20, false), (24, false)]
  | .normFwd => [(16, false), (20, true), (24, false)] ++ (if mode == 1 then [(40, true)] else [])
  | .normBwd => [(16, false), (20, true), (24, false)] ++ (if mode == 1 then [(40, true)] else []) ++ [(44, false), (48, true)]
  | .rowreduce | .convert => [(16, false), (24, false)]
  | .adaptFwd => [(16, false), (28, true), (48, false)]
  | .adaptBwd => [(16, false), (20, !descFlag d 4), (24, !descFlag d 3), (28, true), (48, !(descFlag d 2 || descFlag d 4))]
  | .bobbinBind => [(20, false)]
  | .collReduceScatter => if updateFlag d then [(16, false)] else [(16, false), (20, false)]
  | .collAllGather | .collAllReduce => [(16, false), (20, false)]
  | .send | .recv | .windowOpen | .windowClose => [(16, false)]
  | .multicast => [(16, false), (20, false)]
  | .buddyPush | .statsSnap => [(20, false)]
  | .cardRun => [(16, false), (20, false)]
  | .nop | .knotSet | .knotWait | .fence | .updateBind => []

/-- R41, R48, R204 and R256 for one operand handle (R163). -/
def State.handleCheck (s : State) (owner : Nat) (d : Block512) (p : Nat × Bool) : Option Status :=
  let h := word32 d p.1
  if h = noHandle then failIf (!p.2) .access else s.checkHandle owner h

/-- The bytes of operands an opcode writes through. -/
def destBytes (o : Opcode) (d : Block512) : List Nat :=
  match o with
  | .timestamp => [16]
  | .loadTile | .storeTile | .copy | .gather | .scatter | .offload | .restore | .statsSnap | .cardRun => [20]
  | .streamArm | .matmul | .matmulT | .conv | .matmulAcc | .epilog | .eltwise | .rowreduce | .softmaxBwd | .normFwd
  | .convert => [24]
  | .softmaxFwd => if byteField d 29 1 / 2 == 2 then [24, 20] else [24]
  | .normBwd => [24, 48]
  | .adaptFwd => [48]
  | .adaptBwd => if descFlag d 2 then [48] else []
  | .collReduceScatter => if updateFlag d then [] else [20]
  | .collAllGather | .collAllReduce => [20]
  | _ => []

/-- The windows among the named operands at the given bytes. -/
def State.namedWindows (s : State) (d : Block512) (bs : List Nat) : List (W32 × Block512) :=
  (bs.filter fun b => word32 d b != noHandle).map fun b => (word32 d b, s.winOf (word32 d b))

/-- Whether two extents meet (R166). -/
def overlaps (a b : Block512) : Bool :=
  decide (0 < winExtent a) && decide (0 < winExtent b) && decide (winBase a < winBase b + winExtent b) &&
    decide (winBase b < winBase a + winExtent a)

/-- Whether the landing class may name one handle as source and destination (R166). -/
def inPlaceOp : Opcode → Bool
  | .epilog | .eltwise | .rowreduce | .softmaxBwd | .normBwd | .convert => true
  | _ => false

/-- Whether a write through a window, its scales included, meets a context table (R105). -/
def State.writesCtxTable (s : State) (w : Block512) : Bool :=
  s.meetsCtxTable (winBase w) (winExtent w) ||
    (winLayout w != 3 && s.meetsCtxTable (scaleBase w).toNat (scaleExtent w))

/-- R105 and R166 over the windows a command names. -/
def State.destChecks (s : State) (o : Opcode) (d : Block512) : List (Option Status) :=
  let dests := s.namedWindows d (destBytes o d)
  let srcs := s.namedWindows d (((operandHandles o d).map (·.1)).filter fun b => !(destBytes o d).contains b)
  dests.flatMap fun x =>
    [failIf (s.writesCtxTable x.2) .access,
     failIf (srcs.any fun y => overlaps x.2 y.2 && !(inPlaceOp o && x.1 == y.1)) .access]

/-- A field that names a context (R163, R288), on a ring of owner `owner` when only its own is allowed. -/
def State.contextField (s : State) (owner : Nat) (own : Bool) (c : Nat) : Option Status :=
  if c ≥ 12288 then some .access
  else if !s.ctxHere c then some .engineAbsent
  else failIf (own && owner != operatorOwner && owner != c) .access

/-! ### Tag lists and adapter windows (R111–R118) -/

/-- What a tag list gives a command: its runs, the contexts it names with their records, and the first failure. -/
structure TagPlan where
  runs : List (Nat × Nat)
  ctxs : List (Nat × BitVec 4096)
  status : Option Status

/-- The distinct context tags of a list of runs, in order of first use. -/
def contextTags (runs : List (Nat × Nat)) : List Nat :=
  (runs.map (·.1)).foldl (fun acc t => if t = operatorOwner || acc.contains t then acc else acc ++ [t]) []

/-- The handle at byte `b` of slot `i` of a record. -/
def slotHandle (r : BitVec 4096) (i b : Nat) : W32 := BitVec.ofNat 32 (slotField r i b 4)

/-- R115 for the slot windows of one context. `k` and `n` are given where the command fixes them; `grads` lists the byte of each
gradient window the command writes. -/
def State.adapterCheck (s : State) (c : Nat) (r : BitVec 4096) (slot layer : Nat) (k n : Option Nat) (grads : List Nat) :
    Option Status :=
  let win (b : Nat) := s.winOf (slotHandle r slot b)
  let dims (w : Block512) := (List.range 5).map (winDim w)
  let bf (w : Block512) : Bool := winFormat w == 8 || winFormat w == 9
  let used := [0, 4] ++ grads
  firstFail (used.map (fun b => s.checkHandle c (slotHandle r slot b)) ++
    [failIf (!bf (win 0) || !bf (win 4) || winDim (win 0) 1 != slotRank r slot || winDim (win 4) 1 != slotRank r slot ||
        decide (layer ≥ winDim (win 0) 2) || decide (layer ≥ winDim (win 4) 2) ||
        (k.map fun k => winDim (win 0) 0 != k).getD false || (n.map fun n => winDim (win 4) 0 != n).getD false ||
        grads.any fun b => winFormat (win b) != 0x0A || dims (win b) != dims (win (b - 8)) || s.writesCtxTable (win b)) .access,
     failIf ((used.any fun b => addrSpace (winBase (win b)) == 2 || addrSpace (winBase (win b)) == 3) && !s.keyValid c) .key])

/-- The entries of a tag list window: tag and row count, with the reserved bits of each. -/
def State.tagEntries (s : State) (fn : Nat) (w : Block512) : List (Nat × Nat × Bool) :=
  let bs := s.load (s.access fn w) (winBase w) (winDim w 0 / 8 * 8)
  (chunksOf 8 (winDim w 0 / 8) bs).map fun e =>
    let v := leNat (e.take 2)
    (v % 2 ^ 14, leNat (e.drop 4), v / 2 ^ 14 == 0 && leNat ((e.drop 2).take 2) == 0)

/-- The tags of a command (R112): its runs and the checks of R112, R114 and R115 in their order. A zero-length command meets
no length check (R164). -/
def State.tagPlan (s : State) (owner fn : Nat) (h : W32) (rows slot layer : Nat) (k n : Option Nat) (grads : List Nat)
    (zero : Bool) : TagPlan :=
  let w := s.winOf h
  let es := s.tagEntries fn w
  let e := winDim w 0 / 8
  let listed := h != noHandle
  let runs := if listed then es.map fun x => (x.1, x.2.1) else [(owner, rows)]
  let tags := contextTags runs
  let bound (b : Bool) := failIf (listed && !zero && b) .lengthBound
  let status := firstFail ([
    failIf (listed && winFormat w != 0x0E) .access,
    bound (winDim w 0 % 8 != 0 || e < 1 || e > 4096),
    failIf (listed && s.hitsCacheRange (winBase w) (8 * e)) .access,
    failIf (listed && s.poisoned (hostKey fn (winBase w)) (8 * e)) .eccUncorr,
    failIf (listed && es.any fun x => !x.2.2) .reservedField,
    bound (es.any fun x => x.2.1 == 0),
    bound ((es.dropLast).any fun x => x.2.1 % 32 != 0),
    bound ((es.map fun x => x.2.1).sum != rows)] ++
    tags.map (fun c => failIf (decide (c ≥ 12288) || (owner != operatorOwner && c != owner)) .access) ++
    tags.map (fun c => failIf (!s.ctxHere c) .engineAbsent) ++
    tags.map (fun c => failIf (ctxState (s.ctx c) != ctxBound) .access) ++
    tags.map (fun c => failIf (!ctxSlotValid (s.ctx c) slot) .access) ++
    tags.map fun c => s.adapterCheck c (s.ctx c) slot layer k n grads)
  ⟨runs, tags.map fun c => (c, s.ctx c), status⟩

/-- The largest rank among the contexts of a plan. -/
def TagPlan.rank (p : TagPlan) (slot : Nat) : Nat := p.ctxs.foldl (fun a c => Nat.max a (slotRank c.2 slot)) 0

/-- The tag plan of a descriptor that names a slot; no runs and no failure for one that names none. -/
def State.planOf (s : State) (owner fn : Nat) (o : Opcode) (d : Block512) : TagPlan :=
  let weft := s.winOf (word32 d 16)
  let slot := fieldNat d 256 3
  let layer := byteField d 56 2
  match o with
  | .matmul | .matmulAcc | .matmulT =>
    if adapterFlag d then
      let sh := matShape o d weft (s.winOf (word32 d 20))
      let (k, n) := if o = .matmulT then (sh.n, sh.k) else (sh.k, sh.n)
      s.tagPlan owner fn (word32 d 28) sh.m slot layer (some k) (some n) [] (sh.k == 0 || sh.n == 0 || sh.m == 0)
    else ⟨[], [], none⟩
  | .adaptFwd =>
    s.tagPlan owner fn (word32 d 28) (winDim weft 1) slot layer (some (winDim weft 0)) none []
      (winDim weft 0 == 0 || winDim weft 1 == 0)
  | .adaptBwd =>
    let k := if word32 d 20 = noHandle then none else some (winDim (s.winOf (word32 d 20)) 0)
    s.tagPlan owner fn (word32 d 28) (winDim weft 1) slot layer k (some (winDim weft 0))
      ((if descFlag d 4 then [8] else []) ++ (if descFlag d 3 then [12] else []))
      (winDim weft 0 == 0 || winDim weft 1 == 0 || fieldNat d 18 3 == 0)
  | _ => ⟨[], [], none⟩

/-! ### Checks of each family -/

/-- The spaces of source and destination (R171, R174). -/
def moveSpaces : Opcode → List Nat × List Nat
  | .loadTile => ([1, 2, 3], [0])
  | .storeTile => ([0], [1, 2, 3])
  | .prefetch => ([2], [])
  | .offload => ([1, 2], [3])
  | .restore => ([3], [1, 2])
  | _ => ([1, 2, 3], [1, 2, 3])

/-- The 32-bit row indices of an index window (R172). -/
def State.indexList (s : State) (fn : Nat) (w : Block512) : List Nat :=
  (chunksOf 4 (winDim w 0 / 4) (s.load (s.access fn w) (winBase w) (winDim w 0 / 4 * 4))).map leNat

/-- Whether an `OFFLOAD` or `RESTORE` travels sealed: the module window is owned by a context (R174). -/
def sealedMove (o : Opcode) (src dst : Block512) : Bool :=
  match o with
  | .offload => winOwner src != operatorOwner
  | .restore => winOwner dst != operatorOwner
  | _ => false

/-- The plaintext bytes of a shape in a packed format, its block scales included (R51). -/
def shapeBytes (fmt : Nat) (sh : List Nat) : Nat :=
  let rows := (sh.drop 1).foldl (· * ·) 1
  let s0 := sh.headD 0
  rows * (rowBytes fmt s0 + (if isMx fmt then (s0 + 31) / 32 else if fmt = 0x0C ∨ fmt = 0x0D then 2 * ((s0 + 127) / 128) else 0))

/-- The sealed image of some plaintext bytes: 16 bytes more for each chunk of 64 KiB (R174). -/
def sealedBytes (n : Nat) : Nat := n + 16 * ((n + 65535) / 65536)

/-- The movement class (R51, R170–R174). -/
def State.moveChecks (s : State) (fn : Nat) (o : Opcode) (d : Block512) : Checked :=
  let src := s.winOf (word32 d 16)
  let dst := if o = .prefetch then src else s.winOf (word32 d 20)
  let (sps, dps) := moveSpaces o
  let sealed := sealedMove o src dst
  let indexed := o = .gather ∨ o = .scatter
  let iw := s.winOf (word32 d 40)
  let e := winDim iw 0 / 4
  let (ixw, oth) := if o = .gather then (src, dst) else (dst, src)
  let modw := if o = .offload then src else dst
  let host := if o = .offload then dst else src
  let sh := shapeOf d
  let spaces := [failIf (!sps.contains (addrSpace (winBase src)) ||
    (o != .prefetch && !dps.contains (addrSpace (winBase dst)))) .access]
  let formats := [failIf (o != .prefetch && !sealed && winFormat src != winFormat dst) .access]
  if indexed then
    let idx := s.indexList fn iw
    { early := spaces ++ formats ++ [
        failIf (decide (winRank src > 2) || decide (winRank dst > 2)) .access,
        failIf (winFormat iw != 0x0E || !([1, 2, 3].contains (addrSpace (winBase iw)))) .access,
        failIf (o = .scatter && d.getLsbD 313 && winFormat dst != 0x0A) .access]
      zero := winDim iw 0 == 0 || winDim src 0 == 0
      late := [
        failIf (winDim iw 0 % 4 != 0 || e > 65536) .lengthBound,
        failIf (idx.any fun i => decide (i ≥ winDim ixw 1)) .lengthBound,
        failIf (e > winDim oth 1) .lengthBound,
        failIf (winDim dst 0 < winDim src 0) .lengthBound] }
  else
    { early := spaces ++ formats ++ [failIf (sealed && o = .offload && winGen host == 0xFFFFFFFF) .key]
      zero := sh.contains 0
      late := [
        failIf ((if sealed then [modw] else if o = .prefetch then [src] else [src, dst]).any fun w =>
          (List.range 5).any fun j => decide (descShape d j > winDim w j)) .lengthBound,
        failIf (sealed && decide (winExtent host < sealedBytes (shapeBytes (winFormat modw) sh))) .lengthBound] }

/-- `STREAM_ARM` (R175, R219) on a ring of hall `h`. A gallery buffer that meets the tensor-cache range is no scratch (R32). -/
def State.streamChecks (s : State) (owner h : Nat) (d : Block512) : Checked :=
  let src := s.winOf (word32 d 20)
  let dst := s.winOf (word32 d 24)
  let st := s.stream h (fieldNat d 128 12)
  let entry := rowBytes (winFormat dst) (winDim dst 0)
  let db := winBase dst
  let cached := (List.range (Nat.min 256 (winDim dst 1))).any (fun e => s.hitsCacheRange (rowAddr dst e) entry) ||
    (isMx (winFormat dst) && s.hitsCacheRange (scaleBase dst).toNat (scaleExtent dst))
  { early := [
      failIf (owner != operatorOwner && (st.active.isSome || st.pending.isSome) && st.owner != some owner) .access,
      failIf (!([1, 2, 3].contains (addrSpace (winBase src))) || winFormat src != winFormat dst) .access,
      failIf (winRank dst != 2 || addrHall db != h ||
        !(addrSpace db == 0 || (addrSpace db == 1 && decide (winDim dst 1 ≤ 256) && !cached))) .access,
      failIf (entry % 64 != 0 || entry < 64 || entry > 65536 || winDim dst 1 < 2) .access,
      failIf (word32 d 28 == 0) .access]
    zero := winExtent src == 0 || word32 d 32 == 0
    late := [] }

/-- The formats of a column scale and of a bias window (R100). -/
def scaleFormatOk (w : Block512) : Bool := winFormat w == 0x0A
def biasFormatOk (w : Block512) : Bool := winFormat w == 0x0A || winFormat w == 8

/-- The matrix class (R52, R53, R82, R100, R117, R118, R177). -/
def State.matrixChecks (s : State) (owner fn : Nat) (o : Opcode) (d : Block512) : Checked :=
  let weft := s.winOf (word32 d 16)
  let warp := s.winOf (word32 d 20)
  let out := s.winOf (word32 d 24)
  let u := s.winOf (word32 d 48)
  let sh := matShape o d weft warp
  let cs := word32 d 40
  let bi := word32 d 44
  let adapted := adapterFlag d && o != .conv
  let plan := s.planOf owner fn o d
  let zero := sh.k == 0 || sh.n == 0 || (if o = .conv then winDim weft 4 == 0 else sh.m == 0)
  let dims := [1, 2, 3].map fun j => (convDim d j, winDim weft j, winDim warp j, winDim out j)
  { early := [
      failIf (!pairingOk (winFormat warp) (winFormat weft)) .access,
      failIf (o != .conv && [weft, warp, out].any fun w => decide (winRank w > 2)) .access,
      failIf (if o = .conv then winDim warp 0 != winDim weft 0 else winDim weft 0 != sh.k) .access,
      failIf ([0x0C, 0x0D, 0x0E].contains (winFormat out) || (o = .matmulAcc && winFormat out != 0x0A)) .access,
      failIf (cs != noHandle && !scaleFormatOk (s.winOf cs)) .access,
      failIf (bi != noHandle && !biasFormatOk (s.winOf bi)) .access,
      failIf (adapted && (winFormat u != 0x0A || winRank u != 2)) .access,
      plan.status]
    zero := zero
    late := [
      failIf (o = .conv && dims.any fun p =>
        let g := p.1
        g.stride < 1 || g.stride > 8 || g.dilation < 1 || g.dilation > 8 || g.front > 14 || g.back > 14 ||
          p.2.2.1 < 1 || p.2.2.1 > 15 || decide (convOut g p.2.1 p.2.2.1 < 1) ||
          decide ((p.2.2.2 : Int) < convOut g p.2.1 p.2.2.1)) .lengthBound,
      failIf (winDim out 0 < sh.n || (if o = .conv then winDim out 4 < winDim weft 4 else winDim out 1 < sh.m)) .lengthBound,
      failIf (cs != noHandle && winDim (s.winOf cs) 0 < sh.n) .lengthBound,
      failIf (bi != noHandle && winDim (s.winOf bi) 0 < sh.n) .lengthBound,
      failIf (adapted && (winDim u 0 < plan.rank (fieldNat d 256 3) || winDim u 1 < sh.m)) .lengthBound] }

/-- All five sizes of a window. -/
def winDims (w : Block512) : List Nat := (List.range 5).map (winDim w)

/-- The landing class (R178–R183). R182 names no status for a dy, or a source b of `SOFTMAX_BWD`, whose sizes differ from those of source a,
nor R179 for a mode that does not fit the operand b given: such a command fails with `ST_LENGTH_BOUND` (DESIGN CHOICE; log 56). -/
def State.landingChecks (s : State) (o : Opcode) (d : Block512) : Checked :=
  let a := s.winOf (word32 d 16)
  let dst := s.winOf (word32 d 24)
  let b := s.winOf (word32 d 20)
  let op := byteField d 28 1
  let mode := byteField d 29 1
  let opt (byte : Nat) (f : Block512 → Bool) : Bool := word32 d byte != noHandle && f (s.winOf (word32 d byte))
  let usesB := o = .eltwise && (op ≤ 5 || 17 ≤ op)
  let stats := o = .softmaxFwd && mode / 2 != 0
  let norm := o = .normFwd || o = .normBwd
  let srcs := (s.namedWindows d (((operandHandles o d).map (·.1)).filter (· != 24))).map (·.2)
  let len := winDim a 0
  { early := [
      failIf (srcs.any fun w => winFormat w == 0x0C || winFormat w == 0x0D) .access,
      failIf ([0x0C, 0x0D, 0x0E].contains (winFormat dst)) .access,
      failIf (o = .epilog && winFormat a != 0x0A) .access,
      failIf (o = .epilog && (opt 40 (fun w => !scaleFormatOk w) || opt 44 fun w => !biasFormatOk w)) .access,
      failIf (stats && winFormat b != 0x0A) .access,
      failIf (norm && (opt 20 (fun w => !biasFormatOk w) || (mode == 1 && opt 40 fun w => !biasFormatOk w))) .access,
      failIf (o = .normBwd && opt 48 fun w => winFormat w != 0x0A) .access]
    zero := winCount a == 0
    late := [
      failIf (usesB && (if mode == 2 then word32 d 20 != noHandle || op == 5
        else if mode == 0 then winDims b != winDims a else winDim b 0 != len)) .lengthBound,
      failIf (o = .epilog && (opt 40 (fun w => winDim w 0 < len) || opt 44 fun w => winDim w 0 < len)) .lengthBound,
      failIf (stats && winDims b != 2 :: (winDims a).drop 1) .lengthBound,
      failIf (o = .softmaxBwd && winDims b != winDims a) .lengthBound,
      failIf (norm && (opt 20 (fun w => winDim w 0 != len) || (mode == 1 && opt 40 fun w => winDim w 0 != len))) .lengthBound,
      failIf (o = .normBwd && winDims (s.winOf (word32 d 44)) != winDims a) .lengthBound,
      failIf (o = .normBwd && opt 48 fun w => winDim w 0 < len) .lengthBound,
      failIf ((List.range 5).any fun j =>
        decide (winDim dst j < if j = 0 ∧ o = .rowreduce then 1 else winDim a j)) .lengthBound] }

/-- The bobbin class (R117, R123, R184). -/
def State.bobbinChecks (s : State) (owner fn : Nat) (o : Opcode) (d : Block512) : Checked :=
  let w (b : Nat) := s.winOf (word32 d b)
  let here (b : Nat) := word32 d b != noHandle
  let plan := s.planOf owner fn o d
  let r := plan.rank (fieldNat d 256 3)
  let rows := winDim (w 16) 1
  let rank2 (b : Nat) (f : Nat → Bool) := failIf (here b && (winRank (w b) != 2 || !f (winFormat (w b)))) .access
  let fits (b : Nat) (r : Nat) := failIf (here b && (winDim (w b) 0 < r || winDim (w b) 1 < rows)) .lengthBound
  let fp32 (f : Nat) : Bool := f == 0x0A
  match o with
  | .adaptFwd =>
    { early := [rank2 16 weftFloat, rank2 48 fp32, plan.status]
      zero := winDim (w 16) 0 == 0 || rows == 0
      late := [fits 48 r] }
  | .adaptBwd =>
    let grads := plan.ctxs.flatMap fun c =>
      ((if descFlag d 4 then [8] else []) ++ (if descFlag d 3 then [12] else [])).map fun b =>
        s.winOf (slotHandle c.2 (fieldNat d 256 3) b)
    { early := [rank2 16 (fun f => weftFloat f || f == 0x0A), rank2 20 weftFloat, rank2 24 fp32, rank2 48 fp32, plan.status,
        failIf (grads.any fun g => s.writesCtxTable g || [16, 20, 24, 48].any fun b => here b && overlaps g (w b)) .access]
      zero := winDim (w 16) 0 == 0 || rows == 0 || fieldNat d 18 3 == 0
      late := [fits 20 0, fits 24 r, fits 48 r] }
  | _ =>
    { early := [s.contextField owner false (fieldNat d 128 14), failIf (winFormat (w 20) != 0x0E) .access]
      zero := false
      late := [failIf (winDim (w 20) 0 < 512) .lengthBound] }

/-! ### The fabric and selvedge classes -/

/-- R163 and R262 for a remote address. -/
def State.remoteCheck (s : State) (express : Bool) (a : Nat) : Option Status :=
  failIf (addrSpace a != 4 || [Axis.x, .y, .z].any (fun ax => decide (peerCoord a ax ≥ s.axisSize ax)) ||
    (s.awayAxes a).isEmpty || (!express && (s.awayAxes a).length != 1)) .access

/-- The entries of a multicast destination list: address, generation and whether the reserved bytes are zero (R188). -/
def State.multicastList (s : State) (fn : Nat) (w : Block512) : List (Nat × W32 × Bool) :=
  (chunksOf 16 (winDim w 0 / 16) (s.load (s.access fn w) (winBase w) (winDim w 0 / 16 * 16))).map fun e =>
    (leNat (e.take 8), BitVec.ofNat 32 (leNat ((e.drop 8).take 4)), leNat (e.drop 12) == 0)

/-- The index within gradient window `g` of the first element of source `src`, when `src` lies in `g` (R238). -/
def gradIndex (g src : Block512) : Option Nat :=
  if winCount g > 0 ∧ winBase g ≤ winBase src ∧ winBase src + winExtent src ≤ winBase g + winExtent g then
    some ((winBase src - winBase g) / Nat.max 1 (formatBits (winFormat g) / 8))
  else none

/-- The update checks of R239 for the slot of a context: those before and those of length. -/
def State.updateChecks (s : State) (owner : Nat) (d : Block512) : List (Option Status) × List (Option Status) :=
  let c := fieldNat d 224 14
  let slot := fieldNat d 240 3
  let r := s.ctx c
  let src := s.winOf (word32 d 16)
  let win (b : Nat) := s.winOf (slotHandle r slot b)
  let e := winCount src
  let g := descGroup d
  let onA := gradIndex (win 8) src
  let first := (onA.orElse fun _ => gradIndex (win 12) src).getD 0
  let span := 128 * ((winCount (win 0) + 127) / 128) + winCount (win 4)
  ([s.contextField owner true c,
    failIf (ctxState r != ctxBound || !ctxSlotValid r slot) .access,
    firstFail ([0, 4, 8, 12, 16, 20].map fun b => s.checkHandle c (slotHandle r slot b)),
    failIf (!winPacked src || !winPacked (win 8) || !winPacked (win 12) ||
      (onA.isNone && (gradIndex (win 12) src).isNone)) .access,
    failIf (winFormat (win 16) != 0x0C || winFormat (win 20) != 0x0D || winLayout (win 16) != 4 ||
      winLayout (win 20) != 4 || winOwner (win 16) != c || winOwner (win 20) != c) .access,
    failIf ([0, 4, 16, 20].any fun b => s.writesCtxTable (win b)) .access],
   [failIf (winCount (win 16) < span || winCount (win 20) < span) .lengthBound,
    failIf (e / g % 128 != 0 || first % 128 != 0) .lengthBound])

/-- The collectives (R185, R239, R271). -/
def State.collChecks (s : State) (owner : Nat) (o : Opcode) (d : Block512) : Checked :=
  let src := s.winOf (word32 d 16)
  let dst := s.winOf (word32 d 20)
  let g := descGroup d
  let e := winCount src
  let upd := updateFlag d
  let plainLayout (w : Block512) : Bool := winLayout w == 0 || winLayout w == 3
  let fmt := reduceFormat d
  let (uEarly, uLate) := if upd then s.updateChecks owner d else ([], [])
  { early := [
      failIf (g < 2 || g > 16 || s.axisSize (descAxis d) % g != 0) .access,
      failIf (if o = .collAllGather then winFormat src != winFormat dst
        else winFormat src != fmt || (!upd && winFormat dst != fmt)) .access,
      failIf (!plainLayout src || (!upd && !plainLayout dst)) .access] ++ uEarly
    zero := e == 0
    late := [
      failIf (o = .collReduceScatter && e % g != 0) .lengthBound,
      failIf (!upd && winCount dst < (match o with
        | .collReduceScatter => e / g
        | .collAllGather => g * e
        | _ => e)) .lengthBound] ++ uLate }

/-- The remaining fabric commands (R186–R190). -/
def State.fabricChecks (s : State) (owner fn : Nat) (o : Opcode) (d : Block512) : Checked :=
  let src := s.winOf (word32 d 16)
  match o with
  | .send =>
    { early := [s.remoteCheck (d.getLsbD 288) (byteField d 24 8)], zero := winCount src == 0, late := [] }
  | .multicast =>
    let lw := s.winOf (word32 d 20)
    let es := s.multicastList fn lw
    let n := winDim lw 0 / 16
    { early := [failIf (winFormat lw != 0x0E) .access, failIf (word32 d 24 == 0 || (word32 d 24).toNat > 1000000) .access,
        failIf (es.any fun e => !e.2.2) .reservedField, firstFail (es.map fun e => s.remoteCheck true e.1)]
      zero := winCount src == 0
      late := [failIf (winDim lw 0 % 16 != 0 || n < 1 || n > 256) .lengthBound] }
  | .buddyPush =>
    let c := fieldNat d 128 16
    let w := s.winOf (word32 d 20)
    { early := [s.contextField owner true c, failIf (winOwner w != c) .access, s.remoteCheck true (byteField d 24 8)]
      zero := winCount w == 0
      late := [] }
  | .recv =>
    { early := [], zero := false, late := [failIf (decide (byteField d 24 8 > winExtent src)) .lengthBound] }
  | _ => { early := [], zero := false, late := [] }

/-- `UPDATE_BIND` and `STATS_SNAP` (R191). -/
def State.selvedgeChecks (s : State) (owner : Nat) (o : Opcode) (d : Block512) : Checked :=
  let c := fieldNat d 128 16
  let ix := fieldNat d 160 10
  let p := byteField d 19 1
  let w := s.winOf (word32 d 20)
  match o with
  | .updateBind =>
    { early := [s.contextField owner false c, failIf (ix < 512 || (Table.get none s.progs ix).isNone) .access]
      zero := false, late := [] }
  | _ =>
    { early := [s.contextField owner true c, failIf (p > 12) .access, failIf (!s.selvPresent p) .engineAbsent,
        failIf (s.selv p).unserved .hallLost, failIf (winFormat w != 0x0E) .access]
      zero := false
      late := [failIf (winDim w 0 < 32) .lengthBound] }

/-- One card word (R159), 128 bits. -/
def cardUnit (w : BitVec 128) : Nat := fieldNat w 124 4
def cardAction (w : BitVec 128) : Nat := fieldNat w 120 4
def cardBypass (w : BitVec 128) : Bool := w.getLsbD 119
def cardLoom (w : BitVec 128) : Nat := fieldNat w 112 7
def cardCount (w : BitVec 128) : Nat := fieldNat w 96 16
def cardOperand (w : BitVec 128) : W32 := field w 64 32
def cardAddress (w : BitVec 128) : W64 := field w 0 64
/-- Word `i` of a card window. -/
def State.cardWord (s : State) (fn : Nat) (w : Block512) (i : Nat) : BitVec 128 :=
  BitVec.ofNat 128 (leNat (s.load (s.access fn w) (winBase w + 16 * i) 16))
/-- The bytes a word puts into the result window. -/
def cardResultBytes (w : BitVec 128) : Nat :=
  match cardAction w with
  | 0 => 8 * cardCount w
  | 2 => (cardCount w + 7) / 8
  | _ => 0
/-- The bytes that the first `n` words put there. -/
def State.cardResults (s : State) (fn : Nat) (w : Block512) (n : Nat) : Nat :=
  ((List.range n).map fun i => cardResultBytes (s.cardWord fn w i)).sum

/-- `CARD_RUN` (R159, R160, R192) on ring `g`. -/
def State.cardChecks (s : State) (fn g : Nat) (d : Block512) : Checked :=
  let t := (s.hall (ringHall g)).treadle
  let w := s.winOf (word32 d 16)
  let n := winDim w 0 / 16
  { early := [failIf (t.diag != .inside || t.diagRing.toNat != g % 2048) .access, failIf (winFormat w != 0x0E) .access]
    zero := false
    late := [failIf (winDim w 0 % 16 != 0 || n < 1 || n > 4096) .lengthBound,
      failIf (winExtent (s.winOf (word32 d 20)) < s.cardResults fn w n) .lengthBound] }

/-- The control class (R158, R167, R169). -/
def State.controlChecks (s : State) (owner h : Nat) (o : Opcode) (d : Block512) : Checked :=
  match o with
  | .callPattern =>
    let bad := match s.routine h (fieldNat d 128 10) with
      | none => true
      | some r => owner != operatorOwner && !r.tenant
    let w := s.winOf (word32 d 20)
    let window := d.getLsbD 144
    { early := [failIf bad .access, failIf (window && winFormat w != 0x0E) .access]
      zero := false
      late := [failIf (window && winDim w 0 > 4096) .lengthBound] }
  | .timestamp =>
    let here := word32 d 16 != noHandle
    let w := s.winOf (word32 d 16)
    let off := (word32 d 20).toNat
    { early := [failIf (here && winFormat w != 0x0E) .access, failIf (off % 8 != 0) .access]
      zero := false
      late := [failIf (here && decide (off + 8 > winExtent w)) .lengthBound] }
  | _ => { early := [], zero := false, late := [] }

/-- The operand checks of an opcode. -/
def State.opcodeChecks (s : State) (g owner fn : Nat) (o : Opcode) (d : Block512) : Checked :=
  match o with
  | .nop | .knotSet | .knotWait | .fence | .callPattern | .timestamp => s.controlChecks owner (ringHall g) o d
  | .loadTile | .storeTile | .copy | .gather | .scatter | .prefetch | .offload | .restore => s.moveChecks fn o d
  | .streamArm => s.streamChecks owner (ringHall g) d
  | .matmul | .matmulT | .conv | .matmulAcc => s.matrixChecks owner fn o d
  | .epilog | .eltwise | .rowreduce | .softmaxFwd | .softmaxBwd | .normFwd | .normBwd | .convert => s.landingChecks o d
  | .adaptFwd | .adaptBwd | .bobbinBind => s.bobbinChecks owner fn o d
  | .collReduceScatter | .collAllGather | .collAllReduce => s.collChecks owner o d
  | .send | .recv | .multicast | .windowOpen | .windowClose | .buddyPush => s.fabricChecks owner fn o d
  | .updateBind | .statsSnap => s.selvedgeChecks owner o d
  | .cardRun => s.cardChecks fn g d

/-- The per-tensor scales that the treadle reads as it expands a command (R49), where they lie in the tensor-cache range (R32) or in a
poisoned word (R230). -/
def State.scaleChecks (s : State) (fn : Nat) (o : Opcode) (d : Block512) : List (Option Status) :=
  ((s.namedWindows d ((operandHandles o d).map (·.1))).filter fun w => winLayout w.2 == 3).flatMap fun w =>
    let a := (scaleBase w.2).toNat
    [failIf (s.hitsCacheRange a 4) .access, failIf (s.poisoned (hostKey fn a) 4) .eccUncorr]

/-- All checks of R139 for a descriptor of ring `g`. The handles come first within step 5; a handle that fails R41 leaves
nothing of its entry to check. -/
def State.fetchVerdict (s : State) (g : Nat) (d : Block512) : Verdict :=
  let r := s.ring g
  let owner := ringOwner r.entry
  match s.headCheck owner d with
  | some st => .fail st
  | none => match descOp d with
    | none => .fail .badOpcode
    | some o => match firstFail ((operandHandles o d).map (s.handleCheck owner d)) with
      | some st => .fail st
      | none =>
        let c := s.opcodeChecks g owner r.function o d
        Checked.verdict { c with early := c.early ++ s.destChecks o d ++ s.scaleChecks r.function o d }

end Sys2Proof.Machine
end

