-- ==== Sys2Proof/Machine/Expand.lean ====
section
/-!
DEFINITION. The shapes that a command is split by (R66, R81, R113, R117, R123, R142, R170): rows, segments and chunks, the places of a
convolution, work units, and the looms that units go to.
-/
namespace Sys2Proof.Machine

/-! ### Elements and bytes of a shape -/

/-- The row of a window that row `r` of a shape is: its indices run over s1–s4. -/
def shapeRowAddr (w : Block512) (sh : List Nat) (r : Nat) : Nat :=
  let s1 := Nat.max 1 (sh.getD 1 1)
  let s2 := Nat.max 1 (sh.getD 2 1)
  let s3 := Nat.max 1 (sh.getD 3 1)
  rowAddrAt w (r % s1, r / s1 % s2, r / (s1 * s2) % s3, r / (s1 * s2 * s3))

/-- The linear row index within the window of row `r` of a shape. -/
def shapeRowIndex (w : Block512) (sh : List Nat) (r : Nat) : Nat :=
  let s1 := Nat.max 1 (sh.getD 1 1)
  let s2 := Nat.max 1 (sh.getD 2 1)
  let s3 := Nat.max 1 (sh.getD 3 1)
  r % s1 + winDim w 1 * (r / s1 % s2 + winDim w 2 * (r / (s1 * s2) % s3 + winDim w 3 * (r / (s1 * s2 * s3))))

/-- The rows of a shape. -/
def shapeRows (sh : List Nat) : Nat := (sh.drop 1).foldl (· * ·) 1

/-- The elements in 64 KiB of a format. -/
def chunkElems (fmt : Nat) : Nat := 65536 * 8 / formatBits fmt

/-- The parts of rows of length `s0` that elements `lo` to `hi − 1` of a shape cover: row, first element, count. -/
def segments (s0 lo hi : Nat) : List (Nat × Nat × Nat) :=
  if s0 = 0 ∨ hi ≤ lo then []
  else (List.range ((hi - 1) / s0 - lo / s0 + 1)).map fun j =>
    let r := lo / s0 + j
    let a := if j = 0 then lo % s0 else 0
    let b := if r = (hi - 1) / s0 then (hi - 1) % s0 + 1 else s0
    (r, a, b - a)

/-- The bytes that elements c0 to c0 + n − 1 of the row at `ra` occupy: address and length. -/
def elemSpan (fmt ra c0 n : Nat) : Nat × Nat :=
  let b := formatBits fmt
  let lo := c0 * b / 8
  (ra + lo, ((c0 + n) * b + 7) / 8 - lo)

/-- The bytes of the block scales of elements c0 to c0 + n − 1 of row r (R47); none where the window has no block scales. -/
def scaleSpans (w : Block512) (r c0 n : Nat) : List (Nat × Nat) :=
  if n = 0 then []
  else if isMx (winFormat w) then [(scaleAddr w c0 r, (c0 + n - 1) / 32 - c0 / 32 + 1)]
  else if winLayout w = 4 then [(scaleAddr w c0 r, 2 * ((c0 + n - 1) / 128 - c0 / 128 + 1))]
  else []

/-- The bytes of elements c0 to c0 + n − 1 of row r and of their block scales. -/
def rowSpans (w : Block512) (r c0 n : Nat) : List (Nat × Nat) := elemSpan (winFormat w) (rowAddr w r) c0 n :: scaleSpans w r c0 n

/-- The linear index of the row (i1, …, i4). -/
def rowOf (w : Block512) (i : Nat × Nat × Nat × Nat) : Nat :=
  i.1 + winDim w 1 * (i.2.1 + winDim w 2 * (i.2.2.1 + winDim w 3 * i.2.2.2))

/-! ### Pieces -/

/-- What an expansion needs of its ring: the item, hall, lane, first loom and loom count (R142). -/
structure Place where
  item : ItemId
  hall : Nat
  lane : Lane
  firstLoom : Nat
  loomCount : Nat

/-- The loom that unit `t` goes to (R142). -/
def Place.loom (p : Place) (t : Nat) : Nat := p.firstLoom + t % Nat.max 1 p.loomCount

/-- Piece `k` of unit `t` in a queue. -/
def Place.piece (p : Place) (t : Nat) (q : Queue) (k : Nat) (spans : List (Nat × Nat × Bool)) : Piece :=
  { item := p.item, unit := t, part := k, queue := q, lane := p.lane, hall := p.hall, loom := p.loom t, first := false, spans := spans }

/-- Mark the first piece of the command in each lane it uses (R150). -/
def markFirst : List Nat → List Piece → List Piece
  | _, [] => []
  | seen, p :: ps => { p with first := !seen.contains p.key } :: markFirst (if seen.contains p.key then seen else p.key :: seen) ps

/-- The elements, segments and chunks of a movement command: its row length, rows and chunk count. -/
def moveChunks (fmt s0 rows : Nat) : Nat := (s0 * rows + chunkElems fmt - 1) / chunkElems fmt

/-- The segments of chunk `t`. -/
def chunkSegments (fmt s0 rows t : Nat) : List (Nat × Nat × Nat) :=
  let e := chunkElems fmt
  segments s0 (t * e) (Nat.min (s0 * rows) ((t + 1) * e))

/-- A block of a window: `n` elements from `c0` of each of the rows `rs`, with their block scales. -/
def blockSpans (w : Block512) (rs : List Nat) (c0 n : Nat) : List (Nat × Nat) := rs.flatMap fun r => rowSpans w r c0 n

/-- The spatial indices and batch of output position `x` of a convolution. -/
def convPosition (os : List Nat) (x : Nat) : Nat × Nat × Nat × Nat :=
  let o1 := Nat.max 1 (os.getD 0 1)
  let o2 := Nat.max 1 (os.getD 1 1)
  let o3 := Nat.max 1 (os.getD 2 1)
  (x % o1, x / o1 % o2, x / (o1 * o2) % o3, x / (o1 * o2 * o3))

/-- The kernel indices of tap `τ`. -/
def tapIndex (warp : Block512) (tau : Nat) : Nat × Nat × Nat :=
  let k1 := Nat.max 1 (winDim warp 1)
  let k2 := Nat.max 1 (winDim warp 2)
  (tau % k1, tau / k1 % k2, tau / (k1 * k2))

/-- The input index i_j of R81, none outside the input. -/
def convIndex (g : ConvDim) (o t dj : Nat) : Option Nat :=
  let i : Int := (o : Int) * g.stride + (t : Int) * g.dilation - g.front
  if 0 ≤ i ∧ i < dj then some i.toNat else none

/-- The input row (i1, i2, i3, b) that output position `x` reads for a tap, none where the element enters as zero (R81). -/
def convInput (d weft warp : Block512) (x tau : Nat) : Option (Nat × Nat × Nat × Nat) :=
  let p := convPosition (convSizes d weft warp) x
  let t := tapIndex warp tau
  match convIndex (convDim d 1) p.1 t.1 (winDim weft 1), convIndex (convDim d 2) p.2.1 t.2.1 (winDim weft 2),
      convIndex (convDim d 3) p.2.2.1 t.2.2 (winDim weft 3) with
  | some a, some b, some c => some (a, b, c, p.2.2.2)
  | _, _, _ => none

/-- The output row that result row `m` of a matrix command goes to. -/
def outRow (o : Opcode) (d weft warp out : Block512) (m : Nat) : Nat :=
  match o with
  | .conv => rowOf out (convPosition (convSizes d weft warp) m)
  | _ => m

/-- Whether a window lies in the landing store of the loom that unit `t` goes to, so that its output does not leave that store (R142). -/
def Place.landingStore (p : Place) (t : Nat) (w : Block512) : Bool :=
  addrSpace (winBase w) == 0 && addrStore (winBase w) == 2 && addrHall (winBase w) == p.hall && addrLoom (winBase w) == p.loom t

/-! ### Weft tiles and bobbin work units (R113, R117, R123) -/

/-- Runs cut into weft tiles of 32 rows: tag, first row, rows. -/
def cutRuns : Nat → List (Nat × Nat) → List (Nat × Nat × Nat)
  | _, [] => []
  | r0, (tag, n) :: rs =>
    ((List.range ((n + 31) / 32)).map fun i => (tag, r0 + 32 * i, Nat.min 32 (n - 32 * i))) ++ cutRuns (r0 + n) rs

/-- A work unit of a bobbin command. -/
inductive BobbinUnit where
  /-- One tile of `ADAPT_FWD` or of phase DU: tag, first row, rows. -/
  | rows (tag r0 n : Nat)
  /-- One block of 64 positions of a phase's gradient for one tag: phase GB or GA, first position. -/
  | grad (onB : Bool) (tag pos : Nat)
  deriving DecidableEq, Repr

/-- The work units of a bobbin command in order; tiles without an adapter are skipped (R111). -/
def bobbinUnits (o : Opcode) (d : Block512) (runs : List (Nat × Nat)) (n k : Nat) : List BobbinUnit :=
  let tiles := (cutRuns 0 runs).filterMap fun t => if t.1 = operatorOwner then none else some (.rows t.1 t.2.1 t.2.2)
  let grads (onB : Bool) (len : Nat) := (contextTags runs).flatMap fun c =>
    (List.range ((len + 63) / 64)).map fun j => BobbinUnit.grad onB c (64 * j)
  match o with
  | .adaptFwd => tiles
  | _ => (if descFlag d 2 then tiles else []) ++ (if descFlag d 3 then grads true n else []) ++
      (if descFlag d 4 then grads false k else [])

/-- The windows that a gradient unit reduces: dY with U for GB, X with dU for GA (R123). -/
def gradOperands (onB : Bool) : Nat × Nat := if onB then (16, 24) else (20, 48)

end Sys2Proof.Machine
end

