-- ==== Sys2Proof/Machine/Tokens.lean ====
section
/-!
DEFINITION. What a command reads and writes through its windows, and the full/empty tokens that order it: loom-store granules (R75,
R171, R203, R204) and the entries of a stream's gallery buffer (R221).
-/
namespace Sys2Proof.Machine

/-! ### The windows an item was expanded with (R40, R49) -/

/-- The window of the handle at byte `b`, as the command was expanded; none for the handle none. -/
def Item.win (t : Item) (b : Nat) : Option Block512 :=
  if word32 t.desc b = noHandle then none
  else (t.wins.find? fun w => w.1 == word32 t.desc b).map (·.2)

/-- The same, an entry of zeros where there is none. -/
def Item.winD (t : Item) (b : Nat) : Block512 := (t.win b).getD 0

/-- The window of any handle the item was expanded with. -/
def Item.handleWin (t : Item) (h : W32) : Block512 := ((t.wins.find? fun w => w.1 == h).map (·.2)).getD 0

/-- The per-tensor scale of the handle at byte `b`, 1.0 where it has none (R49). -/
def Item.scale (t : Item) (b : Nat) : W32 := ((t.scales.find? fun w => w.1 == word32 t.desc b).map (·.2)).getD one32

/-- The record of a context as the command was expanded (R110). -/
def Item.ctx (t : Item) (c : Nat) : BitVec 4096 := ((t.ctxs.find? fun p => p.1 == c).map (·.2)).getD 0

/-! ### The looms of units (R142) -/

/-- Where an item's pieces go. -/
def State.placeOf (s : State) (t : Item) : Place :=
  let e := (s.ring t.id.ring).entry
  ⟨t.id, t.hall, descLane t.desc, ringFirstLoom e, ringLoomCount e⟩

/-- The loom that unit `u` of an item runs on. -/
def State.unitLoom (s : State) (t : Item) (u : Nat) : Nat := (s.placeOf t).loom u

/-! ### Reads and writes of rows -/

/-- A read of `n` elements from `c0` of some rows of a window named by a handle. -/
structure Read where
  handle : W32
  win : Block512
  rows : List Nat
  c0 : Nat
  n : Nat

/-- All bytes a read touches, block scales included. -/
def Read.all (r : Read) : List (Nat × Nat) := blockSpans r.win r.rows r.c0 r.n

/-- A read of every element of a window. -/
def readAll (h : W32) (w : Block512) : Read := ⟨h, w, List.range (winRows w), 0, winDim w 0⟩

/-- The read of the window at byte `b` of an item, whole. -/
def Item.reads (t : Item) (bs : List Nat) : List Read :=
  bs.filterMap fun b => (t.win b).map fun w => readAll (word32 t.desc b) w

/-- The stream descriptor whose tokens guard a source handle of an item (R221). -/
def Item.buffer (t : Item) (h : W32) : Option Nat := (t.buffers.find? fun p => p.1 == h).map (·.2)

/-- Whether a read finds its tokens full (R75, R153, R221), and waits for no zeroing (R212). -/
def State.readReady (s : State) (t : Item) (r : Read) : Bool :=
  if r.all.any fun p => s.hitsZeroing p.1 p.2 then false
  else if addrSpace (winBase r.win) = 0 then r.all.all fun p => s.allFull p.1 p.2
  else match t.buffer r.handle with
    | none => true
    | some k =>
      let st := Table.get Stream.reset s.streams k
      match st.active with
      | some a =>
        if a.dst = r.handle then r.rows.all fun i => a.full.contains i
        else !(st.pending.any fun p => p.dst == r.handle)
      | none => true

/-- Empty the tokens that a read consumes: granules of a loom store, or entries of a stream's buffer. -/
def State.consume (s : State) (t : Item) (r : Read) : State :=
  if addrSpace (winBase r.win) = 0 then r.all.foldl (fun s p => s.markEmpty p.1 p.2) s
  else match t.buffer r.handle with
    | none => s
    | some k =>
      s.modStream (k / 4096) (k % 4096) fun st =>
        { st with active := st.active.map fun a =>
            if a.dst = r.handle then { a with full := a.full.filter fun i => !r.rows.contains i } else a }

/-- Whether the granules a write covers read empty (R203), and wait for no zeroing (R212); a window outside the loom
stores has no tokens. -/
def State.writeReady (s : State) (r : Read) : Bool :=
  !(r.all.any fun p => s.hitsZeroing p.1 p.2) && (addrSpace (winBase r.win) != 0 || r.all.all fun p => s.allEmpty p.1 p.2)

/-- The granules of the loom stores that some reads touch. -/
def Read.granules (r : Read) : List Nat :=
  if addrSpace (winBase r.win) = 0 then r.all.flatMap fun p => granulesOf p.1 p.2 else []

/-- Empty the tokens that a read consumes, save those that the reads `left` still need. -/
def State.consumeExcept (s : State) (t : Item) (left : List Read) (r : Read) : State :=
  if addrSpace (winBase r.win) = 0 then
    let keep := left.flatMap Read.granules
    let gone := r.granules.filter fun g => !keep.contains g
    { s with full := s.full.filter fun g => !gone.contains g }
  else
    let keep := (left.filter fun x => x.handle == r.handle).flatMap (·.rows)
    s.consume t { r with rows := r.rows.filter fun i => !keep.contains i }

/-- Mark the granules of a finished write full, save those that the writes `left` still complete (R203). -/
def State.produceExcept (s : State) (left : List Read) (r : Read) : State :=
  let keep := left.flatMap Read.granules
  { s with full := (r.granules.filter fun g => !keep.contains g).foldl insertNat s.full }

/-- Mark the granules of a finished write full (R203, R204). -/
def State.produce (s : State) (r : Read) : State :=
  if addrSpace (winBase r.win) = 0 then r.all.foldl (fun s p => s.markFull p.1 p.2) s else s

/-! ### What stops an access when it is made (R32, R230, R285, R288, R315) -/

/-- The first thing that stops some reads, poison included when the data is used. -/
def State.readFault (s : State) (fn : Nat) (uses : Bool) (rs : List Read) : Option Status :=
  firstFail (rs.map fun r =>
    (s.accessFault fn r.win r.all).orElse fun _ =>
      failIf (uses && r.all.any fun p => s.poisoned (hostKey fn p.1) p.2) .eccUncorr)

/-- Carry the poison of a source range into its destination range (R230): every destination word that takes a byte of a
poisoned source word. -/
def State.carryPoison (s : State) (src dst n : Nat) : State :=
  if s.poison.isEmpty then s
  else (List.range n).foldl (fun s i =>
    if s.poison.contains ((src + i) / 8 * 8) then s.addPoison ((dst + i) / 8 * 8) else s) s

/-! ### What one unit of a command reads and writes -/

/-- The row lengths and rows of a movement command, and the rows of its windows in order (R170, R172). -/
structure MoveRows where
  s0 : Nat
  rows : Nat
  src : Nat → Nat
  dst : Nat → Nat

/-- The rows that a movement command moves; `idx` is the index list of a `GATHER` or `SCATTER`. -/
def moveRowsOf (o : Opcode) (d src dst : Block512) (idx : List Nat) : MoveRows :=
  match o with
  | .gather => ⟨winDim src 0, idx.length, fun r => idx.getD r 0, id⟩
  | .scatter => ⟨winDim src 0, idx.length, id, fun r => idx.getD r 0⟩
  | _ => ⟨descShape d 0, shapeRows (shapeOf d), shapeRowIndex src (shapeOf d), shapeRowIndex dst (shapeOf d)⟩

/-- The index list of a `GATHER` or `SCATTER`, empty for another command. -/
def State.itemIndices (s : State) (t : Item) : List Nat :=
  if t.op = some .gather ∨ t.op = some .scatter then s.indexList (s.itemFunction t.id) (t.winD 40) else []

/-- The rows of an item's movement. -/
def State.movesOf (s : State) (t : Item) : MoveRows :=
  moveRowsOf (t.op.getD .nop) t.desc (t.winD 16) (t.winD 20) (s.itemIndices t)

/-- Whether a movement adds into the rows of its destination (R172). -/
def Item.addsRows (t : Item) : Bool := t.op == some .scatter && t.desc.getLsbD 313

/-- The segments of unit `u` of a movement: row, first element, count. -/
def MoveRows.segs (m : MoveRows) (fmt u : Nat) : List (Nat × Nat × Nat) := chunkSegments fmt m.s0 m.rows u

/-- What unit `u` of a movement reads, and what it writes. -/
def MoveRows.reads (m : MoveRows) (t : Item) (u : Nat) : List Read :=
  (m.segs (winFormat (t.winD 16)) u).map fun g => ⟨word32 t.desc 16, t.winD 16, [m.src g.1], g.2.1, g.2.2⟩
def MoveRows.writes (m : MoveRows) (t : Item) (u : Nat) : List Read :=
  (m.segs (winFormat (t.winD 16)) u).map fun g => ⟨word32 t.desc 20, t.winD 20, [m.dst g.1], g.2.1, g.2.2⟩

/-- The rows of a weft window that some rows of a matrix command read in pass `k` (R65, R81). -/
def weftRowsOf (o : Opcode) (t : Item) (sh : MatShape) (rows : List Nat) (k : Nat) : List Nat :=
  match o with
  | .conv => rows.filterMap fun m => (convInput t.desc (t.winD 16) (t.winD 20) m (k / sh.tapTiles)).map (rowOf (t.winD 16))
  | _ => rows

/-- What some rows of a matrix command read of the weft window in pass `k`. -/
def weftRead (o : Opcode) (t : Item) (sh : MatShape) (rows : List Nat) (k : Nat) : Read :=
  let k0 := sh.tileK * (k % sh.tapTiles)
  ⟨word32 t.desc 16, t.winD 16, weftRowsOf o t sh rows k, k0, Nat.min sh.tileK (sh.k - k0)⟩

/-- The positions `a0` to `a0 + an − 1` along the reduction and the columns of output tile `unit`, as a read of the warp window in tap `tau`
(R67, R70, R80). -/
def warpRead (o : Opcode) (t : Item) (sh : MatShape) (unit tau a0 an : Nat) : Read :=
  let warp := t.winD 20
  let n0 := 64 * (unit % sh.colTiles)
  let cn := Nat.min 64 (sh.n - n0)
  match o with
  | .matmulT => ⟨word32 t.desc 20, warp, (List.range an).map (a0 + ·), n0, cn⟩
  | .conv =>
    let ti := tapIndex warp tau
    ⟨word32 t.desc 20, warp, (List.range cn).map fun b => rowOf warp (ti.1, ti.2.1, ti.2.2, n0 + b), a0, an⟩
  | _ => ⟨word32 t.desc 20, warp, (List.range cn).map (n0 + ·), a0, an⟩

/-- The warp tile that pass `k` of output tile `unit` reads. -/
def tileRead (o : Opcode) (t : Item) (sh : MatShape) (unit k : Nat) : Read :=
  let k0 := sh.tileK * (k % sh.tapTiles)
  warpRead o t sh unit (k / sh.tapTiles) k0 (Nat.min sh.tileK (sh.k - k0))

/-- The warp block that holds that tile, as much of it as the window has (R67). -/
def blockRead (o : Opcode) (t : Item) (sh : MatShape) (unit k : Nat) : Read :=
  let k0 := sh.tileK * (k % sh.tapTiles) / 64 * 64
  warpRead o t sh unit (k / sh.tapTiles) k0 (Nat.min 64 (sh.k - k0))

/-- The rows of output tile `unit`, and those of one of its shafts (R65, R66). -/
def tileRowsOf (sh : MatShape) (unit : Nat) : List Nat :=
  (List.range (Nat.min 128 (sh.m - 128 * (unit / sh.colTiles)))).map (128 * (unit / sh.colTiles) + ·)
def shaftRowsOf (sh : MatShape) (unit shaft : Nat) : List Nat := ((tileRowsOf sh unit).drop (32 * shaft)).take 32

/-- What pass `k` of an output tile reads: its weft rows and its warp tile. -/
def passReads (o : Opcode) (t : Item) (sh : MatShape) (unit k : Nat) : List Read :=
  [weftRead o t sh (tileRowsOf sh unit) k, tileRead o t sh unit k]

/-- The first pass that reads the warp block of pass `k`, and how many passes read the block that pass `k` is the first of (R67, R80). -/
def blockFirst (sh : MatShape) (k : Nat) : Nat :=
  let j := k % sh.tapTiles
  k - j + j / (64 / sh.tileK) * (64 / sh.tileK)
def blockPasses (sh : MatShape) (k : Nat) : Nat := Nat.min (64 / sh.tileK) (sh.tapTiles - k % sh.tapTiles)

/-- The LOAD piece of a unit that fetches the warp block of pass `k`, and the one that fetches a shaft's weft tile of it: five parts for each
pass. -/
def blockPart (sh : MatShape) (k : Nat) : Nat := 5 * blockFirst sh k
def weftPart (k shaft : Nat) : Nat := 5 * k + 1 + shaft
/-- Whether a part is a warp block's. -/
def isBlockPart (part : Nat) : Bool := part % 5 == 0
/-- The last pass that reads what a part fetches. -/
def partLast (sh : MatShape) (part : Nat) : Nat := if isBlockPart part then part / 5 + blockPasses sh (part / 5) - 1 else part / 5

/-- A slot that a LOAD piece of an item has filled. -/
def Loom.slot (lm : Loom) (i : ItemId) (unit part : Nat) : Option Slot :=
  lm.slots.find? fun x => x.item == i && x.unit == unit && x.part == part

/-- Whether a loom has a slot of an item whose granules read full (R75). -/
def State.slotHere (s : State) (lm : Loom) (i : ItemId) (unit part : Nat) : Bool :=
  (lm.slot i unit part).any fun x => s.allFull x.base x.len

/-- Whether the warp block of pass `k` is there: in its slot, or in loom-store granules that read full (R75). -/
def State.blockHere (s : State) (t : Item) (sh : MatShape) (lm : Loom) (unit k : Nat) (r : Read) : Bool :=
  if addrSpace (winBase (t.winD 20)) = 0 then s.readReady t r else s.slotHere lm t.id unit (blockPart sh k)

/-- Whether the rows of a shaft that pass `k` reads are there; a pass whose rows are all padding reads none (R81). -/
def State.weftHere (s : State) (t : Item) (o : Opcode) (sh : MatShape) (lm : Loom) (unit shaft k : Nat) (rows : List Nat) : Bool :=
  (weftRead o t sh rows k).rows.isEmpty ||
    (if addrSpace (winBase (t.winD 16)) = 0 then s.readReady t (weftRead o t sh rows k) else s.slotHere lm t.id unit (weftPart k shaft))

/-- Whether everything that pass `k` reads is there (R75). -/
def State.passHere (s : State) (t : Item) (o : Opcode) (sh : MatShape) (lm : Loom) (unit k : Nat) : Bool :=
  s.blockHere t sh lm unit k (tileRead o t sh unit k) &&
    (List.range 4).all fun f => s.weftHere t o sh lm unit f k (shaftRowsOf sh unit f)

/-- Whether the warp block and the first weft row of each shaft are there for pass `k` (R153). -/
def State.passHead (s : State) (t : Item) (o : Opcode) (sh : MatShape) (lm : Loom) (unit k : Nat) : Bool :=
  s.blockHere t sh lm unit k (blockRead o t sh unit k) &&
    (List.range 4).all fun f => s.weftHere t o sh lm unit f k ((shaftRowsOf sh unit f).take 1)

/-- The tile of a unit that a loom holds. -/
def Loom.tile (lm : Loom) (i : ItemId) (unit : Nat) : Option TileRun := lm.runs.find? fun r => r.item == i && r.unit == unit
def State.tileOf (s : State) (t : Item) (u : Nat) : Option TileRun := (s.loom t.hall (s.unitLoom t u)).tile t.id u

/-- The passes that a unit's tile has run on its loom. -/
def Loom.passOf (lm : Loom) (i : ItemId) (unit : Nat) : Nat := ((lm.tile i unit).map (·.pass)).getD 0

/-- The first pass that some shaft of a tile has not promoted. -/
def TileRun.base (r : TileRun) : Nat := r.shafts.foldl (fun a x => Nat.min a x.base) r.pass

/-- The first pass of a unit that has not been promoted. -/
def State.tileBase (s : State) (t : Item) (u : Nat) : Nat := ((s.tileOf t u).map TileRun.base).getD 0

/-- The promotion interval of a matrix command, in passes (R83). -/
def intervalOf (d : Block512) : Nat :=
  match fieldNat d 264 2 with
  | 0 => 8
  | 1 => 4
  | _ => 16

/-- The source windows of a landing command, by operand byte. -/
def landingSources (o : Opcode) (d : Block512) : List Nat :=
  ((operandHandles o d).map (·.1)).filter fun b => b != 24 && b != 48 && !(destBytes o d).contains b

/-- Whether a source of a landing command is one row for all rows: a column window, or a broadcast operand (R179–R183). -/
def rowSource (o : Opcode) (d : Block512) (b : Nat) : Bool :=
  b == 40 || (b == 44 && o == .epilog) || (b == 20 && (o == .normFwd || o == .normBwd)) ||
    (b == 20 && o == .eltwise && byteField d 29 1 == 1)

/-- The rows of a landing unit (R178). -/
def landingRows (t : Item) (unit : Nat) : List Nat :=
  (List.range (Nat.min 32 (winRows (t.winD 16) - 32 * unit))).map (32 * unit + ·)

/-- What the rows `rs` of a landing command read of its sources: whole rows of a, and of the others as many columns as a row takes. -/
def Item.landingReads (t : Item) (o : Opcode) (rs : List Nat) : List Read :=
  (landingSources o t.desc).filterMap fun b => (t.win b).map fun w =>
    ⟨word32 t.desc b, w, if rowSource o t.desc b then [0] else rs.filter (· < winRows w), 0, Nat.min (winDim (t.winD 16) 0) (winDim w 0)⟩

/-- The destination row of row `r` of source a. -/
def landingDest (t : Item) (r : Nat) : Nat := shapeRowIndex (t.winD 24) (winDims (t.winD 16)) r

/-- What a landing unit writes: destination rows, stats rows, and dγ. -/
def Item.landingWrites (t : Item) (o : Opcode) (u : Nat) : List Read :=
  let n := if o = .rowreduce then 1 else winDim (t.winD 16) 0
  let rs := landingRows t u
  let dst : Read := ⟨word32 t.desc 24, t.winD 24, rs.map (landingDest t), 0, n⟩
  let stats : List Read := if o = .softmaxFwd ∧ byteField t.desc 29 1 / 2 = 2 then [⟨word32 t.desc 20, t.winD 20, rs, 0, 2⟩] else []
  let gamma : List Read := if o = .normBwd ∧ (t.win 48).isSome then [⟨word32 t.desc 48, t.winD 48, [0], 0, n⟩] else []
  dst :: (stats ++ gamma)

/-- The columns of the last MX block of a row that a result of `n` columns covers in part (R102): the present values that are read. -/
def partialRead (h : W32) (w : Block512) (rows : List Nat) (n : Nat) : List Read :=
  if isMx (winFormat w) ∧ n % 32 ≠ 0 then [⟨h, w, rows, n / 32 * 32, 32⟩] else []

/-- The priors it reads: dγ, and part-covered MX blocks of the destination (R102). -/
def Item.landingPriors (t : Item) (o : Opcode) (u : Nat) : List Read :=
  (t.landingWrites o u).flatMap fun r => if r.handle == word32 t.desc 48 && o == .normBwd && r.rows == [0] then [r]
    else partialRead r.handle r.win r.rows r.n

/-- The rows of a bobbin unit with their tag's rank: rows of U or dU, or the rows of one tag (R111, R123). -/
def tagRows (runs : List (Nat × Nat)) (c : Nat) : List Nat :=
  (cutRuns 0 runs).flatMap fun x => if x.1 = c then (List.range x.2.2).map (x.2.1 + ·) else []

/-- The rank of a context at the command's slot. -/
def Item.rank (t : Item) (c : Nat) : Nat := slotRank (t.ctx c) (fieldNat t.desc 256 3)

/-- The window of a context's slot at byte `b`, as the command was expanded. -/
def Item.slotWin (t : Item) (c b : Nat) : Block512 := t.handleWin (slotHandle (t.ctx c) (fieldNat t.desc 256 3) b)
/-- The row of a slot window that holds index `j` at the command's layer. -/
def Item.layerRow (t : Item) (w : Block512) (j : Nat) : Nat := j + winDim w 1 * byteField t.desc 56 2

/-- The rows of a context's slot window at the command's layer, `n` positions from `c0` along d0, as a read. -/
def Item.slotPart (t : Item) (c b c0 n : Nat) : Read :=
  let w := t.slotWin c b
  ⟨slotHandle (t.ctx c) (fieldNat t.desc 256 3) b, w, (List.range (t.rank c)).map (t.layerRow w), c0, n⟩

/-- The work units of a bobbin command, in order. -/
def Item.bobbinUnits (t : Item) (o : Opcode) : List BobbinUnit :=
  Sys2Proof.Machine.bobbinUnits o t.desc t.runs (winDim (t.winD 16) 0) (if word32 t.desc 20 = noHandle then 0 else winDim (t.winD 20) 0)

/-- What one work unit reads of the command's operand windows: the rows of X or dY that carry a tag, and of U and dU those columns that the
row's rank gives (R117, R123). -/
def Item.unitReads (t : Item) (o : Opcode) (unit : Nat) : List Read :=
  match (t.bobbinUnits o)[unit]? with
  | some (.rows _ r0 n) => [⟨word32 t.desc 16, t.winD 16, (List.range n).map (r0 + ·), 0, winDim (t.winD 16) 0⟩]
  | some (.grad onB c pos) =>
    let (big, small) := gradOperands onB
    let w := t.winD big
    [⟨word32 t.desc big, w, tagRows t.runs c, pos, Nat.min 64 (winDim w 0 - pos)⟩,
      ⟨word32 t.desc small, t.winD small, tagRows t.runs c, 0, t.rank c⟩]
  | none => []

/-- What a unit reads through the slot's windows: the adapter, or the gradient that it adds into. -/
def Item.unitSlots (t : Item) (o : Opcode) (u : Nat) : List Read :=
  match (t.bobbinUnits o)[u]? with
  | some (.rows c _ _) => let b := if o = .adaptFwd then 0 else 4; [t.slotPart c b 0 (winDim (t.slotWin c b) 0)]
  | some (.grad onB c pos) =>
    let b := if onB then 12 else 8
    [t.slotPart c b pos (Nat.min 64 (winDim (t.slotWin c b) 0 - pos))]
  | none => []

/-- The rows of U or dU that a unit writes, as many columns of each as its rank gives (R117). -/
def Item.unitWrites (t : Item) (o : Opcode) (u : Nat) : List Read :=
  match (t.bobbinUnits o)[u]? with
  | some (.rows c r0 n) => [⟨word32 t.desc 48, t.winD 48, (List.range n).map (r0 + ·), 0, t.rank c⟩]
  | _ => []

/-- All that a unit writes, the gradients that it adds into included, and what it reads of that before (R123, R124). -/
def Item.unitGives (t : Item) (o : Opcode) (u : Nat) : List Read :=
  match (t.bobbinUnits o)[u]? with
  | some (.grad ..) => t.unitSlots o u
  | _ => t.unitWrites o u
def Item.unitPriors (t : Item) (o : Opcode) (u : Nat) : List Read :=
  match (t.bobbinUnits o)[u]? with
  | some (.grad ..) => t.unitSlots o u
  | _ => if o = .adaptBwd ∧ descFlag t.desc 5 then t.unitWrites o u else []

/-- The opcodes that run passes. -/
def matrixOp : Opcode → Bool
  | .matmul | .matmulT | .conv | .matmulAcc => true
  | _ => false

/-- The term knot of a matrix command (R118). -/
def Item.termKnot (t : Item) : W32 :=
  match t.op with
  | some .matmul | some .matmulT | some .matmulAcc => if adapterFlag t.desc then word32 t.desc 52 else 0
  | _ => 0

/-- The commands that move data within the module or to the host. -/
def movementOp : Opcode → Bool
  | .loadTile | .storeTile | .copy | .gather | .scatter | .prefetch | .offload | .restore => true
  | _ => false

/-- The opcodes whose work the bobbin unit does. -/
def bobbinOp : Opcode → Bool
  | .adaptFwd | .adaptBwd => true
  | _ => false

/-! ### A matrix command (R65–R103, R118, R122) -/

/-- A matrix command with its shape and windows. -/
structure Mat where
  t : Item
  o : Opcode
  sh : MatShape
  weft : Block512
  warp : Block512
  out : Block512
  deriving DecidableEq, Repr

/-- The matrix command of an item. -/
def matOf (t : Item) (o : Opcode) : Mat :=
  ⟨t, o, matShape o t.desc (t.winD 16) (t.winD 20), t.winD 16, t.winD 20, t.winD 24⟩

/-- First column and first row of output tile `u`, its columns, and the rows of one of its shafts (R65, R66). -/
def Mat.n0 (m : Mat) (u : Nat) : Nat := 64 * (u % m.sh.colTiles)
def Mat.m0 (m : Mat) (u : Nat) : Nat := 128 * (u / m.sh.colTiles)
def Mat.cols (m : Mat) (u : Nat) : Nat := Nat.min 64 (m.sh.n - m.n0 u)
def Mat.shaftRows (m : Mat) (u shaft : Nat) : Nat := Nat.min 32 (m.sh.m - m.m0 u - 32 * shaft)
/-- The rows of a tile. -/
def Mat.tileRows (m : Mat) (u : Nat) : Nat := Nat.min 128 (m.sh.m - m.m0 u)

/-- First reduction position of a pass and how many the windows have (R64, R73, R79). -/
def Mat.k0 (m : Mat) (pass : Nat) : Nat := m.sh.tileK * (pass % m.sh.tapTiles)
def Mat.kn (m : Mat) (pass : Nat) : Nat := Nat.min m.sh.tileK (m.sh.k - m.k0 pass)

/-- Some reads outside the loom stores. -/
def outsideReads (rs : List Read) : List Read := rs.filter fun r => addrSpace (winBase r.win) != 0 && !r.rows.isEmpty

/-- What pass `k` of an output tile has fetched from outside the loom stores, by the LOAD piece's part: the warp block that it is the first to
read, and the weft tile of each shaft (R142). -/
def Mat.passLoads (m : Mat) (u k : Nat) : List (Nat × List Read) :=
  let block := if blockFirst m.sh k = k then [(blockPart m.sh k, outsideReads [blockRead m.o m.t m.sh u k])] else []
  let wefts := (List.range 4).map fun f => (weftPart k f, outsideReads [weftRead m.o m.t m.sh (shaftRowsOf m.sh u f) k])
  (block ++ wefts).filter fun x => !x.2.isEmpty

/-- What pass `k` of a unit reads in the loom stores. -/
def Mat.storeReads (m : Mat) (u k : Nat) : List Read := (passReads m.o m.t m.sh u k).filter fun r => addrSpace (winBase r.win) == 0

/-- What some consecutive passes of a unit read in the loom stores. -/
def Mat.runReads (m : Mat) (u lo n : Nat) : List Read := (List.range n).flatMap fun i => m.storeReads u (lo + i)

/-- The tag of a row of a list of runs. -/
def rowTag : List (Nat × Nat) → Nat → Nat
  | [], _ => operatorOwner
  | (tag, n) :: rs, r => if r < n then tag else rowTag rs (r - n)

/-- The byte of the slot window that stage 3 reads: B for a forward product, A for `MATMUL_T`. -/
def Mat.slotByte (m : Mat) : Nat := if m.o = .matmulT then 0 else 4

/-- The contexts an adapted command's rows carry. -/
def Mat.contexts (m : Mat) : List Nat := if adapterFlag m.t.desc ∧ m.o ≠ .conv then contextTags m.t.runs else []
/-- The context of a shaft's rows in a tile; none without an adapter. -/
def Mat.shaftContext (m : Mat) (u shaft : Nat) : Option Nat :=
  let tag := rowTag m.t.runs (m.m0 u + 32 * shaft)
  if m.contexts.contains tag then some tag else none

/-- The shafts of a tile whose rows take a term. -/
def Mat.termShafts (m : Mat) (u : Nat) : List Nat :=
  (List.range 4).filter fun k => decide (0 < m.shaftRows u k) && (m.shaftContext u k).isSome

/-- What the term of a shaft reads of the U or dU window: its own rows, and of them the columns that their rank gives (R117, R118). -/
def Mat.termReads (m : Mat) (u k : Nat) : List Read :=
  match m.shaftContext u k with
  | some c => if m.shaftRows u k = 0 then [] else [⟨word32 m.t.desc 48, m.t.winD 48, shaftRowsOf m.sh u k, 0, m.t.rank c⟩]
  | none => []

/-- The adapter part that a tile's terms read. -/
def Mat.slotReads (m : Mat) (u : Nat) : List Read :=
  (m.termShafts u).filterMap fun k => (m.shaftContext u k).map fun c => m.t.slotPart c m.slotByte (m.n0 u) (m.cols u)

/-- The output rows of some result rows, as a write of `n` columns from `c0`. -/
def Mat.writes (m : Mat) (m0 rows c0 n : Nat) : Read :=
  ⟨word32 m.t.desc 24, m.out, (List.range rows).map fun i => outRow m.o m.t.desc m.weft m.warp m.out (m0 + i), c0, n⟩

/-- What output tile `u` writes. -/
def Mat.tileWrite (m : Mat) (u : Nat) : Read := m.writes (m.m0 u) (m.tileRows u) (m.n0 u) (m.cols u)

/-- What the epilogue of a unit reads under full tokens: its columns of the scale and bias windows, and U or dU. -/
def Mat.lateReads (m : Mat) (u : Nat) : List Read :=
  ([40, 44].filterMap fun b => (m.t.win b).map fun w => ⟨word32 m.t.desc b, w, [0], m.n0 u, m.cols u⟩) ++
    (m.termShafts u).flatMap (m.termReads u)

/-- What it reads of its destination: the prior of `MATMUL_ACC`, and part-covered MX blocks (R100, R102). -/
def Mat.priorReads (m : Mat) (u : Nat) : List Read :=
  let w := m.tileWrite u
  if m.o = .matmulAcc then [w]
  else if isMx (winFormat m.out) ∧ m.n0 u + m.cols u = m.sh.n ∧ m.sh.n % 32 ≠ 0 then [{ w with c0 := m.sh.n / 32 * 32, n := 32 }]
  else []

/-- A matrix command that an item is. -/
def Item.mat (t : Item) : Option Mat :=
  match t.op with
  | some o => if matrixOp o then some (matOf t o) else none
  | none => none

/-! ### What the LOAD pieces of a unit fetch (R67, R75, R91, R142) -/

/-- What the LOAD pieces of a unit fetch from outside the loom stores, by the piece's part. -/
def Item.unitLoads (t : Item) (o : Opcode) (unit : Nat) : List (Nat × List Read) :=
  if matrixOp o then (List.range (matOf t o).sh.passes).flatMap ((matOf t o).passLoads unit)
  else if bobbinOp o then
    let parts : List (List Read) := match (t.bobbinUnits o)[unit]? with
      | some (.grad _ c _) => ((cutRuns 0 t.runs).filter fun x => x.1 == c).map fun x =>
          (t.unitReads o unit).map fun r => { r with rows := (List.range x.2.2).map (x.2.1 + ·) }
      | some (.rows ..) => [t.unitReads o unit]
      | none => []
    ((parts.map outsideReads).filter fun l => !l.isEmpty).zipIdx.map fun l => (l.2, l.1)
  else if movementOp o then []
  else [(0, outsideReads (t.landingReads o (landingRows t unit)))].filter fun x => !x.2.isEmpty

/-- What one part of them fetches. -/
def Item.partReads (t : Item) (o : Opcode) (unit part : Nat) : List Read :=
  (((if matrixOp o then (matOf t o).passLoads unit (part / 5) else t.unitLoads o unit).filter fun x => x.1 == part).flatMap Prod.snd)

/-- Whether a part of a unit is still to be fetched: its loom has no slot of it, and something that is left of the unit reads it. -/
def State.partLeft (s : State) (t : Item) (o : Opcode) (unit part : Nat) : Bool :=
  !t.unitsDone.contains unit && ((s.loom t.hall (s.unitLoom t unit)).slot t.id unit part).isNone &&
    (!matrixOp o || decide (s.tileBase t unit ≤ partLast (matOf t o).sh part))

/-- The loads of a unit that are left. -/
def State.partsLeft (s : State) (t : Item) (o : Opcode) (unit : Nat) : List (Nat × List Read) :=
  (t.unitLoads o unit).filter fun x => s.partLeft t o unit x.1
def State.loadsLeft (s : State) (t : Item) (o : Opcode) (unit : Nat) : List Read := (s.partsLeft t o unit).flatMap Prod.snd

/-- The passes that the warp blocks resident in a slot's loom serve, where it is a block of a command of a lane. -/
def State.slotPasses (s : State) (ln : Lane) (x : Slot) : Nat :=
  match s.item x.item with
  | none => 0
  | some t => match t.mat with
    | none => 0
    | some m => if descLane t.desc == ln && isBlockPart x.part then blockPasses m.sh (x.part / 5) else 0

/-- Whether a LOAD piece of a matrix command finds its loom with room: a loom keeps the warp tiles of at most P + 4 passes of a stream resident
(R91; log 45). -/
def State.loadRoom (s : State) (m : Mat) (p : Piece) : Bool :=
  !isBlockPart p.part ||
    decide (((s.loom p.hall p.loom).slots.map (s.slotPasses p.lane)).sum + blockPasses m.sh (p.part / 5) ≤ intervalOf m.t.desc + 4)

/-- The bytes that a part of a matrix command takes in its store: a block of 64 × 64 elements or a weft tile, and the scales of an MX format
(R67; log 45). -/
def Mat.partBytes (m : Mat) (u part : Nat) : Nat :=
  if isBlockPart part then
    512 * formatBits (winFormat m.warp) + (if isMx (winFormat m.warp) then 128 else 0)
  else
    m.shaftRows u (part % 5 - 1) * (m.sh.tileK * formatBits (winFormat m.weft) / 8 + (if isMx (winFormat m.weft) then m.sh.tileK / 32 else 0))

/-- The first 64-byte-aligned place of a loom store whose granules read empty, for `n` bytes (R67, R203; log 45). -/
def State.storeRoom (s : State) (h l st n : Nat) : Option Nat :=
  let lo := storeAddr h l st 0
  let hi := lo + storeSize st
  (lo :: ((s.full.filter fun g => decide (lo ≤ g) && decide (g < hi)).map (· + 64))).find? fun a => decide (a + n ≤ hi) && s.allEmpty a n

/-- Where a LOAD piece of a matrix command puts what it fetches: a block in the warp store, a weft tile in the weft store. -/
def State.partRoom (s : State) (m : Mat) (p : Piece) : Option Nat :=
  s.storeRoom p.hall p.loom (if isBlockPart p.part then 0 else 1) (m.partBytes p.unit p.part)

/-! ### The tokens of one piece (R75, R153, R224) -/

/-- Only the first row of a read. -/
def Read.firstRow (r : Read) : Read := { r with rows := r.rows.take 1 }

/-- The reads that a piece makes under full tokens before it issues: of a movement its source, of a LOAD piece what it fetches (R221), of a
landing or bobbin piece its first rows in the loom stores (R153). -/
def State.pieceReads (s : State) (t : Item) (p : Piece) : List Read :=
  match t.op with
  | none => []
  | some o =>
    if movementOp o then (if p.queue = .load ∨ o = .storeTile ∨ o = .offload then (s.movesOf t).reads t p.unit else [])
    else if p.queue = .load then t.partReads o p.unit p.part
    else if p.queue = .landing then
      ((if bobbinOp o then t.unitReads o p.unit else if matrixOp o then [] else t.landingReads o (landingRows t p.unit)).filter fun r =>
        addrSpace (winBase r.win) == 0).map Read.firstRow
    else []

/-- The queues in the order in which a unit's pieces run. -/
def queueRank : Queue → Nat
  | .load => 0
  | .matrix => 1
  | .landing => 2
  | .store => 3

/-- Whether a piece of the same unit that runs before piece `p` is still there: a LANDING or STORE piece finds its operands only behind
them (R142). -/
def State.aheadOf (s : State) (p : Piece) : Bool :=
  let before (q : Piece) : Bool := q.item == p.item && q.unit == p.unit && decide (queueRank q.queue < queueRank p.queue)
  s.lanes.any (fun l => l.2.any before) || match s.item p.item with
    | some t => t.emit.any before
    | none => false

/-- Whether the first operands of a piece read full. -/
def State.operandsHere (s : State) (t : Item) (p : Piece) : Bool :=
  match t.op with
  | none => true
  | some o =>
    if matrixOp o && p.queue == .matrix then
      let sh := matShape o t.desc (t.winD 16) (t.winD 20)
      let lm := s.loom p.hall p.loom
      let k := lm.passOf p.item p.unit
      decide (k ≥ sh.passes) || s.passHead t o sh lm p.unit k
    else if matrixOp o && p.queue == .load then
      s.loadRoom (matOf t o) p && (s.partRoom (matOf t o) p).isSome && (s.pieceReads t p).all (s.readReady t)
    else (s.pieceReads t p).all (s.readReady t) && !((p.queue == .landing || p.queue == .store) && s.aheadOf p)

/-- Whether the head of a lane is ready (R153): its wait is met and its first operands read full. -/
def State.headReady (s : State) (p : Piece) : Bool :=
  match s.item p.item with
  | none => true
  | some t => t.phase != .dispatched || (t.waitMet && s.operandsHere t p)

/-! ### A command unit by unit (R142, R144) -/

/-- Whether a piece of unit `u` of an item has started: it is the running head of its lane. -/
def State.unitStarted (s : State) (i : ItemId) (u : Nat) : Bool :=
  s.lanes.any fun l => s.laneRunning l.1 && headIs l.2 fun q => q.item == i && q.unit == u

/-- How the units of a command run: what stops one and the place of the piece that it stops, whether one finds its tokens, what it does, what
a unit that waits has asked for, what it takes under full tokens and what it gives under empty ones. -/
structure UnitWork where
  fault : State → Nat → Option (Status × Nat)
  ready : State → Nat → Bool
  run : Nat → State → State
  hold : Nat → State → State
  takes : Nat → List Read
  gives : Nat → List Read

/-- The tokens after unit `u` has run: what it took is empty, and what it gave is full, save what the units `us` behind it still read or
write. -/
def State.settleTokens (s : State) (w : UnitWork) (t : Item) (u : Nat) (us : List Nat) : State :=
  (w.gives u).foldl (fun s r => s.produceExcept (us.flatMap w.gives) r)
    ((w.takes u).foldl (fun s r => s.consumeExcept t (us.flatMap w.takes) r) s)

/-- Run the units of an item that are left, in order, as far as their tokens reach. A unit whose accesses are stopped fails the item at its
place; of a failed item only what has started runs on (R144). -/
def State.runUnits (w : UnitWork) (i : ItemId) : List Nat → State → State
  | [], s => s
  | u :: us, s =>
    match s.item i with
    | none => s
    | some t =>
      if t.unitsDone.contains u || (t.phase != .dispatched && !s.unitStarted i u) then State.runUnits w i us s
      else match w.fault s u with
        | some f => State.runUnits w i us (s.failAt i f.1 f.2)
        | none => if w.ready s u then State.runUnits w i us ((w.run u s).settleTokens w t u us) else w.hold u s

/-- Note that a unit of an item is done: its bytes and its replay count. -/
def State.unitFinished (s : State) (i : ItemId) (u bytes replay : Nat) : State :=
  s.modItem i fun t => { t with unitsDone := insertNat t.unitsDone u, bytes := t.bytes + bytes, replay := Nat.max t.replay replay }

/-- Decide an item whose last unit is done. -/
def State.finishIf (s : State) (i : ItemId) : State :=
  match s.item i with
  | some t => if t.phase = .dispatched ∧ (List.range t.unitCount).all t.unitsDone.contains then s.finish i 0 else s
  | none => s

/-- Run all units of an item that are left, and decide it once none is. -/
def State.runAll (w : UnitWork) (t : Item) (s : State) : State := (State.runUnits w t.id (List.range t.unitCount) s).finishIf t.id

/-- A failure of a unit at the place of one of its pieces. -/
def atPlace (u : Nat) (q : Queue) (st : Option Status) : Option (Status × Nat) := st.map fun x => (x, pieceAt u q 0)

end Sys2Proof.Machine
end

