-- ==== Sys2Proof/Machine/Shaft.lean ====
section
/-!
DEFINITION. The arithmetic of a shaft (R55, R63–R99): element values and their scale exponents, the tree group of one weft row and
one column, the narrow accumulator, promotion, overflow and wide mode. It is written over plain lists, apart from the
machine's state.
-/
namespace Sys2Proof.Machine

/-! ### Elements -/

/-- An element as a cell holds it: its code and the E8M0 scale code that travels with it (127 in a format without one). -/
abbrev Elem := BitVec 16 × BitVec 8

/-- The exact value of an element, block scale applied (R45, R54). -/
def elemVal (fmt : Nat) (e : Elem) : Val :=
  let v := elemValue fmt e.1.toNat
  if isMx fmt then scaleE8M0 e.2.toNat v else v

/-- Whether a value is finite and not zero. -/
def Val.used (v : Val) : Bool := v.isFinite && !v.isZero

/-- The exponent of the leading bit of a finite nonzero value. -/
def Val.topBit : Val → Int
  | .fin _ m e => (Nat.log2 m : Int) + e
  | _ => 0

/-- The largest of some integers. -/
def maxInt : List Int → Option Int
  | [] => none
  | a :: t => match maxInt t with
    | none => some a
    | some b => some (if a < b then b else a)

/-- The largest scale exponent among some elements (R84, R85): none when none of them is finite and nonzero (R86). -/
def sigmaOf (fmt : Nat) (es : List Elem) : Option Int :=
  let vs := (es.map (elemVal fmt)).filter Val.used
  if vs.isEmpty then none
  else if isMx fmt then maxInt ((es.filter fun e => e.2 != 0xFF).map fun e => (e.2.toNat : Int) - 127)
  else if fmt = 0x0B then some 0
  else maxInt (vs.map Val.topBit)

/-- The element bound L of R84. -/
def elemBound (fmt : Nat) : Int :=
  match fmt with
  | 0x01 => 3 | 0x02 => 5 | 0x03 => 3 | 0x04 => 9 | 0x05 => 16 | 0x0B => 7 | _ => 1

/-- The alignment exponent A of an interval, from the elements of its passes (R84, R86). -/
def alignment (fmtW fmtX : Nat) (warps wefts : List Elem) : Int :=
  match sigmaOf fmtW warps, sigmaOf fmtX wefts with
  | some sw, some sx => sw + sx + elemBound fmtW + elemBound fmtX - 14
  | _, _ => -160

/-! ### Special tags (R55) -/

/-- The tag a product sets by itself. -/
def tagOf : Val → Tag
  | .fin .. => .none
  | .inf neg => if neg then .negInf else .posInf
  | .nan => .nan

/-- A cell's tag after a product of tag `b`. -/
def Tag.meet (a b : Tag) : Tag :=
  match a, b with
  | a, .none => a
  | .none, b => b
  | a, b => if a = b then a else .nan

/-- The FP32 value that a tag gives; none for the tag none. -/
def Tag.value : Tag → Option W32
  | .none => Option.none
  | .posInf => some (inf32 false)
  | .negInf => some (inf32 true)
  | .nan => some nan32

/-! ### One tree group (R87, R98) -/

/-- m × 2^e rounded to the nearest integer, ties to even. -/
def rneNat (m : Nat) (e : Int) : Nat :=
  if e ≥ 0 then m <<< e.toNat else roundQuot .nearest m (2 ^ (-e).toNat)

/-- A product on the grid of 2^g; a special product counts as zero (R87). -/
def onGrid (g : Int) : Val → Int
  | .fin neg m e => signedSig neg (rneNat m (e - g))
  | _ => 0

/-- rne(q / 2^6). -/
def rneShift6 (q : Int) : Int := signedSig (decide (q < 0)) (roundQuot .nearest q.natAbs 64)

/-- The products of one weft row and one warp column. -/
def products (xs ws : List Val) : List Val := List.zipWith Val.mul xs ws

/-- The sums on the guard grid of each group of `n` consecutive reduction positions. -/
def groupSums (g : Int) (n : Nat) (ps : List Val) : List Int :=
  (chunksOf n ((ps.length + n - 1) / n) ps).map fun c => (c.map (onGrid g)).sum

/-- The reduction positions in one group: the whole tree in native order, G in YM-1 order (R83). -/
def groupSize (ctl : Nat) (tileK : Nat) : Nat :=
  match ctl / 4 % 4 with
  | 0 => tileK
  | 1 => 4
  | 2 => 8
  | _ => 16

/-- One addition into the narrow accumulator, or its replacement; none where it leaves the 20-bit range or was meaningless. -/
def accumulate (replace : Bool) (v : Option Int) (g : Int) : Option Int :=
  match (if replace then some g else v.map (· + g)) with
  | some x => if x < -(2 ^ 19) ∨ x > 2 ^ 19 - 1 then none else some x
  | none => none

/-- The groups of one pass into the accumulator. A group after the first adds; an overflow stays. -/
def accumulateAll : Bool → Option Int → List Int → Option Int
  | _, v, [] => v
  | replace, v, g :: gs =>
    match accumulate replace v g with
    | none => none
    | some x => accumulateAll false (some x) gs

/-! ### A shaft over one pass -/

/-- What a shaft needs of its command and its tile: operand formats, tile reduction length, control byte, and whether a shaft of the tile is in
wide mode, which makes its passes slow (R96). -/
structure ShaftSpec where
  fmtW : Nat
  fmtX : Nat
  tileK : Nat
  ctl : Nat
  slow : Bool

/-- The pass length S (R64, R99), four times as long while a shaft is in wide mode (R96). -/
def ShaftSpec.steps (p : ShaftSpec) : Nat :=
  (if p.fmtW = 8 ∨ p.fmtW = 9 ∨ p.fmtX = 8 ∨ p.fmtX = 9 ∨ (p.tileK = 64 ∧ groupSize p.ctl 64 = 4) then 64 else 32) *
    if p.slow then 4 else 1

/-- The operands of one pass of one shaft: each weft row, none where its elements enter as zero (R81), and the warp rows by
reduction position. -/
structure PassData where
  weft : List (Option (List Elem))
  warp : List (List Elem)

/-- The warp columns of a pass as values. -/
def PassData.columns (p : ShaftSpec) (d : PassData) : List (List Val) :=
  match d.warp with
  | [] => []
  | r :: _ => (List.range r.length).map fun c => d.warp.map fun row => elemVal p.fmtW (row.getD c (0, 127))

/-- The weft rows of a pass as values. -/
def PassData.rowsOf (p : ShaftSpec) (d : PassData) : List (List Val) :=
  d.weft.map fun r => match r with
    | some es => es.map (elemVal p.fmtX)
    | none => List.replicate d.warp.length (.fin false 0 0)

/-- A matrix of one value. -/
def grid {α : Type} (rows cols : Nat) (a : α) : List (List α) := List.replicate rows (List.replicate cols a)

/-- A shaft at the first pass of its output tile (R55, R66, R93). -/
def ShaftRun.start (rows cols : Nat) : ShaftRun :=
  { rows := rows, level := 0, base := 0, done := 0, align := 0, acc := grid rows cols none, tags := grid rows cols .none
    tagsStart := grid rows cols .none, land := grid rows cols zero32, hit := none }

/-- A shaft as an interval begins: A from the interval's tiles, nothing accumulated (R84, R88). -/
def ShaftRun.begin (r : ShaftRun) (p : ShaftSpec) (ds : List PassData) : ShaftRun :=
  let warps := ds.flatMap fun d => d.warp.flatten
  let wefts := ds.flatMap fun d => (d.weft.filterMap id).flatten
  { r with align := alignment p.fmtW p.fmtX warps wefts, acc := r.acc.map fun row => row.map fun _ => none
           tagsStart := r.tags, hit := none }

/-- What one cell becomes in a pass: accumulator, tag and whether this pass overflowed it. -/
structure CellOut where
  acc : Option Int
  tag : Tag
  overflowed : Bool

/-- One cell of a shaft in narrow mode. A cell that has overflowed counts no second overflow in its interval (log 47). -/
def narrowCell (p : ShaftSpec) (g : Int) (first : Bool) (v : Option Int) (tag : Tag) (xs ws : List Val) : CellOut :=
  let ps := products xs ws
  let v' := accumulateAll first v ((groupSums g (groupSize p.ctl p.tileK) ps).map rneShift6)
  ⟨v', ps.foldl (fun t q => t.meet (tagOf q)) tag, v'.isNone && (first || v.isSome)⟩

/-- The earliest step of a pass at which an overflow that counts is detected: the cell (i, c) is updated at pass step
i × (S / 32) + c + 8 (R71, R94). -/
def firstHit (steps : Nat) (cells : List (List CellOut)) : Option Nat :=
  let at_ := (cells.zipIdx.flatMap fun r => r.1.zipIdx.map fun c => (c.1, r.2 * (steps / 32) + c.2 + 8)).filterMap fun x =>
    if x.1.overflowed ∧ x.1.tag = .none then some x.2 else none
  at_.foldl (fun a b => match a with
    | none => some b
    | some x => some (Nat.min x b)) none

/-- The step of its tile at which an overflow is detected. -/
def detectedAt (steps : Nat) (h : Nat × Nat) : Nat := h.1 * steps + h.2

/-- The earlier detected of two overflows (R95). -/
def earlierHit (steps : Nat) : Option (Nat × Nat) → Option (Nat × Nat) → Option (Nat × Nat)
  | none, b => b
  | a, none => a
  | some a, some b => some (if detectedAt steps b < detectedAt steps a then b else a)

/-- A shaft after a pass in narrow mode, with the overflows it ignored (R87, R94; log 47). -/
def ShaftRun.narrowPass (r : ShaftRun) (p : ShaftSpec) (first : Bool) (pass : Nat) (d : PassData) : ShaftRun × Nat :=
  let g := r.align + 2 * r.level - 6
  let cols := d.columns p
  let cells := List.zipWith (fun xs at_ => List.zipWith (fun ws x => narrowCell p g first x.1 x.2 xs ws) cols at_)
    (d.rowsOf p) (List.zipWith List.zip r.acc r.tags)
  ({ r with
      acc := cells.map fun row => row.map (·.acc)
      tags := cells.map fun row => row.map (·.tag)
      hit := earlierHit p.steps r.hit ((firstHit p.steps cells).map fun st => (pass, st)) },
   ((cells.flatten).filter fun c => c.overflowed && c.tag != .none).length)

/-- One cell in wide mode (R96): the landing value and the tag. -/
def wideCell (g : Int) (fresh : Bool) (l : W32) (tag : Tag) (xs ws : List Val) : W32 × Tag :=
  let ps := products xs ws
  let q := (ps.map (onGrid g)).sum
  let y := rneQ (decide (q < 0)) q.natAbs 1 g
  let tag := ps.foldl (fun t q => t.meet (tagOf q)) tag
  (tag.value.getD (if fresh then y else add32 l y), tag)

/-- A shaft after a pass in wide mode; `fresh` at the tile's first group. -/
def ShaftRun.widePass (r : ShaftRun) (p : ShaftSpec) (fresh : Bool) (d : PassData) : ShaftRun :=
  let g := r.align - 6
  let cols := d.columns p
  let cells := List.zipWith (fun xs at_ => List.zipWith (fun ws x => wideCell g fresh x.1 x.2 xs ws) cols at_)
    (d.rowsOf p) (List.zipWith List.zip r.land r.tags)
  { r with land := cells.map fun row => row.map (·.1), tags := cells.map fun row => row.map (·.2) }

/-- A shaft after its next pass, the interval having begun at pass `base`; the overflows it ignored. -/
def ShaftRun.run (r : ShaftRun) (p : ShaftSpec) (d : PassData) : ShaftRun × Nat :=
  let (x, n) := if r.level < 4 then r.narrowPass p (r.done == r.base) r.done d else (r.widePass p (r.done == 0) d, 0)
  ({ x with done := r.done + 1 }, n)

/-! ### Replay and promotion (R89, R93, R95) -/

/-- A shaft that begins its rerun: one level up, at the interval's first pass, with nothing of the interval kept. The special tags are
again those with which the interval began (log 47). -/
def ShaftRun.raise (r : ShaftRun) : ShaftRun :=
  { r with level := r.level + 1, done := r.base, acc := r.acc.map fun row => row.map fun _ => none, tags := r.tagsStart, hit := none }

/-- The promoted value of one cell (R89). -/
def promoteCell (ae : Int) (first : Bool) (v : Option Int) (tag : Tag) (l : W32) : W32 :=
  match tag.value with
  | some x => x
  | none =>
    let v := v.getD 0
    let a := rneQ (decide (v < 0)) v.natAbs 1 ae
    if first then a else add32 l a

/-- A shaft after the promotion of its interval, which ends at pass `hi`; the tile's first interval begins at pass 0. A shaft in wide mode
has nothing to promote. -/
def ShaftRun.promote (r : ShaftRun) (hi : Nat) : ShaftRun :=
  if r.level < 4 then
    let ae := r.align + 2 * r.level
    { r with base := hi, land := List.zipWith (fun vs rest => List.zipWith (fun v x => promoteCell ae (r.base == 0) v x.1 x.2) vs rest)
              r.acc (List.zipWith List.zip r.tags r.land) }
  else { r with base := hi }

/-- How many of a shaft's promotions gave an infinity that no tag stands for: an infinite a, counted as a saturation (R89, R62;
log 48). R62 and R89 speak of promotions alone: that the infinities which the roundings of wide mode give (R96) count nowhere is the model's
choice (log 48, DESIGN CHOICE). -/
def ShaftRun.infinities (r : ShaftRun) : Nat :=
  if r.level < 4 then
    ((r.acc.flatten.zip r.tags.flatten).filter fun x => x.2 == .none &&
      (let v := x.1.getD 0
       !(dec32 (rneQ (decide (v < 0)) v.natAbs 1 (r.align + 2 * r.level))).isFinite)).length
  else 0

end Sys2Proof.Machine
end

