-- ==== Sys2Proof/Machine/Epilogue.lean ====
section
/-!
DEFINITION. The reduction order of the bobbin and landing units (R116), the epilogue stages (R100, R101), and the writing of a result
row with its tally (R62, R102).
-/
namespace Sys2Proof.Machine

/-! ### The reduction order (R116) -/

/-- The exact sum of some exact values; an empty sum is +0. -/
def exactSum : List Val → Val
  | [] => .fin false 0 0
  | [v] => v
  | v :: vs => v.add (exactSum vs)

/-- Group results added in ascending order; the first gives T. -/
def addGroups : List W32 → W32
  | [] => zero32
  | g :: gs => gs.foldl add32 g

/-- Steps 2 to 4 of R116 over exact terms. -/
def reduceVals (vs : List Val) : W32 :=
  addGroups ((chunksOf 32 ((vs.length + 31) / 32) vs).map fun c => rne32 (exactSum c))

/-- R116 over FP32 terms. -/
def reduce32 (xs : List W32) : W32 := reduceVals (xs.map dec32)

/-- R116 over the products of two lists of exact values. -/
def reduceProducts (xs ys : List Val) : W32 := reduceVals (List.zipWith Val.mul xs ys)

/-! ### The stages of one element (R100) -/

/-- Stages 4 to 6. -/
def stages456 (cs bias : Option W32) (act : Nat) (y : W32) : W32 :=
  let y := match cs with
    | some c => mul32 y c
    | none => y
  let y := match bias with
    | some b => add32 y b
    | none => y
  if act = 0 then y else activation act y

/-- Stages 1 to 6 of an element of a matrix command. -/
def stages (scale : W32) (prior term cs bias : Option W32) (act : Nat) (l : W32) : W32 :=
  let y := mul32 l scale
  let y := match prior with
    | some p => add32 p y
    | none => y
  let y := match term with
    | some t => add32 y t
    | none => y
  stages456 cs bias act y

/-- The value for output column `n` of a column window named at byte `b` (R100); none where the handle is none. -/
def State.columnValue (s : State) (t : Item) (b n : Nat) : Option W32 :=
  (t.win b).map fun w => s.elem32 (s.access (s.itemFunction t.id) w) w (t.scale b) n 0

/-! ### What LOAD pieces hold -/

/-- The state as unit `u` of an item sees its source at byte `b`: where a LOAD piece has fetched it, what it then read, decrypted as it was
read (R75, R178, R221). -/
def State.heldView (s : State) (t : Item) (u b : Nat) : State :=
  let slots := (s.loom t.hall (s.unitLoom t u)).slots.filter fun x => x.item == t.id && x.unit == u
  let held := (slots.flatMap (·.held)).filter fun e => e.1 == word32 t.desc b
  if held.isEmpty then s
  else { s with mem := held.foldl (fun m e => m.writeBytes e.2.1 e.2.2) s.mem, sec := { s.sec with keys := [] } }

/-! ### Looms and tallies -/

/-- Count a tally on a loom's operator page (R62). -/
def State.countTally (s : State) (h l : Nat) (t : Tally) : State :=
  let s := if t.saturated = 0 then s else s.bump (pgLoom h l) 0x24 t.saturated
  if t.nans = 0 then s else s.bump (pgLoom h l) 0x25 t.nans

/-- Some writes in order, and their tallies together. -/
def tallied {α : Type} (f : State → α → State × Tally) (s : State) (l : List α) : State × Tally :=
  l.foldl (fun st x => ((f st.1 x).1, st.2.plus (f st.1 x).2)) (s, ⟨0, 0, 0⟩)

/-- Stage 7 for one row of an item's destination at byte `b`, from column `c0` (R100, R102). -/
def State.writeRow (s : State) (t : Item) (b : Nat) (cv : Conv) (r c0 : Nat) (xs : List W32) : State × Tally :=
  let w := t.winD b
  s.putRow (s.access (s.itemFunction t.id) w) w cv (t.scale b) r c0 xs

/-- Count rows that the bobbin unit has processed under a context (R106). -/
def State.serveRows (s : State) (c n : Nat) : State :=
  if s.ctxHere c then s.ctxWrite c 48 8 (byteField (s.ctx c) 48 8 + n) else s

end Sys2Proof.Machine
end

