-- ==== Sys2Proof/Machine/Ledger.lean ====
section
/-!
DEFINITION. Memory requests and what they find: the ledger (R213–R217), the gallery tensor cache (R206–R212), poison and
corrected words (R227–R231).
-/
namespace Sys2Proof

/-- The word that an ECC result names, none where no word was wrong. -/
def Ecc.word : Ecc → Option Nat
  | .clean => none
  | .corrected w | .uncorrectable w | .stackError w => some w

/-- Whether a word was uncorrectable, in the module's code or the stack's (R228, R232). -/
def Ecc.bad : Ecc → Bool
  | .uncorrectable _ | .stackError _ => true
  | _ => false

/-- Whether a word was corrected. -/
def Ecc.fixed : Ecc → Bool
  | .corrected _ => true
  | _ => false

/-- The ECC of a read of `n` words: a word beyond them is no part of it. -/
def Ecc.within (n : Nat) (e : Ecc) : Ecc := if e.word.any fun w => decide (w < n) then e else .clean

end Sys2Proof

namespace Sys2Proof.Machine

/-! ### Poison and corrections (R228, R231, R232) -/

/-- The page of the block that holds an address, with its counters of corrected errors and of poisoned words (R232, R352). -/
def memoryPage (a : Nat) : Nat × Nat × Nat :=
  match addrSpace a with
  | 0 => (pgLoom (addrHall a) (addrLoom a), 0x26, 0x27)
  | 1 => (pgGallery (addrHall a), 0x20, 0x21)
  | _ => (pgHbm (addrHall a), 0x20, 0x21)

/-- A read found an uncorrectable error in the word at `w`: the word is poisoned, the page's event raised, and the address
recorded (R228). -/
def State.poisonWord (s : State) (w : Nat) : State :=
  let p := memoryPage w
  ((((s.addPoison w).bump p.1 p.2.2 1).event p.1 0).fault p.1 .eccUncorr (BitVec.ofNat 32 w) (BitVec.ofNat 32 (w / 2 ^ 32)))

/-- A read found a single-bit error in the word at `w`: it is corrected, counted and waits for its write-back (R228). -/
def State.correctWord (s : State) (w : Nat) : State :=
  let p := memoryPage w
  (({ s with corrected := insertNat s.corrected w }).bump p.1 p.2.1 1).event p.1 1

/-- What a read of the words from `base` up does for what their ECC says. -/
def State.readEcc (s : State) (base : Nat) : Ecc → State
  | .clean => s
  | .corrected w => s.correctWord (base + 8 * w)
  | .uncorrectable w => s.poisonWord (base + 8 * w)
  | .stackError w =>
    let s := s.poisonWord (base + 8 * w)
    if addrSpace base = 2 then s.bump (pgHbm (addrHall base)) 0x22 1 else s

/-! ### The tensor cache (R206–R212) -/

/-- The line index, the bank group and the set of a stack offset for share `k` (R207). -/
def cacheLineIndex (o : Nat) : Nat := o / 4096
def cacheBank (l : Nat) : Nat := l % 96
def cacheSet (k l : Nat) : Nat := if k = 0 then 0 else l / 96 % (64 * k)

/-- The line that a lookup hits: the same line and key state (R208). -/
def cacheHit (ls : List CacheLine) (l : Nat) (slot : Option Nat) : Option CacheLine :=
  ls.find? fun c => c.line == l && c.keySlot == slot

/-- D(h) = floor(2^(h / 8)) (R210): three integer square roots of 2^h. A line that `PREFETCH` fills through a window of hint 0, for which R210 gives
no D, takes D(0) = 1 by the same formula (DESIGN CHOICE; log 50). -/
def reuseDistance (h : Nat) : Nat := isqrt (isqrt (isqrt (2 ^ h)))

/-- The predicted next use of a line. -/
def CacheLine.nextUse (c : CacheLine) : Nat := c.lastUse + reuseDistance c.hint.toNat

/-- Whether context `c` uses more gallery than its quota (R127), and whether it is at or above it (R211). -/
def State.overQuota (s : State) (c : Nat) : Bool :=
  c != operatorOwner && decide (byteField (s.ctx c) 36 4 > byteField (s.ctx c) 24 4)
def State.atQuota (s : State) (c : Nat) : Bool :=
  c != operatorOwner && decide (byteField (s.ctx c) 36 4 ≥ byteField (s.ctx c) 24 4)

/-- The line of a full set that a fill replaces at access count `t` (R210). -/
def State.victim (s : State) (t : Nat) (ls : List CacheLine) : Option CacheLine :=
  let lru := pickBest fun a b : CacheLine => decide (a.lastUse < b.lastUse)
  let overs := ls.filter fun c => s.overQuota c.owner
  let kept := ls.filter fun c => c.hint != 255
  let past := kept.filter fun c => decide (c.nextUse < t)
  (lru overs).orElse fun _ =>
  (pickBest (fun a b => decide (a.nextUse < b.nextUse)) past).orElse fun _ =>
  (pickBest (fun a b => decide (a.nextUse > b.nextUse) || (a.nextUse == b.nextUse && decide (a.lastUse < b.lastUse))) kept).orElse
    fun _ => lru ls

/-- One more cache access of hall `h` (R210). -/
def State.cacheAccess (s : State) (h : Nat) : State := s.modHall h fun hl => { hl with accesses := hl.accesses + 1 }

/-- Count a hit on a line and note its use. -/
def State.touchLine (s : State) (h : Nat) (c : CacheLine) : State :=
  let s := (s.cacheAccess h).bump (pgGallery h) 0x22 1
  let t := (s.hall h).accesses
  s.setCache h ((s.cache h).map fun x => if x = c then { x with lastUse := t } else x)

/-- Fill the line of stack offset `o` of hall `h` (R207–R211). The same line under another key state is replaced, and counts as its context's own
line of the set. A fill that a quota declines, and one in a hall with no tensor-cache share, leaves the cache as it is. -/
def State.fillLine (s : State) (h o owner : Nat) (hint : BitVec 8) (slot : Option Nat) : State :=
  let k := (s.hall h).share.toNat
  if k = 0 then s
  else
    let l := cacheLineIndex o
    let keep := (s.cache h).filter fun c => c.line != l
    let same := keep.filter fun c => cacheBank c.line == cacheBank l && cacheSet k c.line == cacheSet k l
    let t := (s.hall h).accesses + 1
    let own := ((s.cache h).find? fun c => c.line == l && c.owner == owner).orElse fun _ =>
      pickBest (fun a b : CacheLine => decide (a.lastUse < b.lastUse)) (same.filter fun c => c.owner == owner)
    let new : CacheLine := ⟨l, owner, hint, slot, t⟩
    if s.atQuota owner then
      match own with
      | none => s.bump (pgGallery h) 0x24 1
      | some v => (s.cacheAccess h).replaceCache h (keep.filter (· != v) ++ [new])
    else if same.length < 16 then (s.cacheAccess h).replaceCache h (keep ++ [new])
    else match s.victim t same with
      | none => s
      | some v => (s.cacheAccess h).replaceCache h (keep.filter (· != v) ++ [new])

/-! ### The ledger (R213–R217) -/

/-- The window of an item that an address lies in. -/
def Item.windowAt (t : Item) (a : Nat) : Option Block512 :=
  (t.wins.find? fun w => (decide (winBase w.2 ≤ a) && decide (a < winBase w.2 + winExtent w.2)) ||
    (decide (scaleBase w.2 ≤ a) && decide ((a : Int) < scaleBase w.2 + scaleExtent w.2))).map (·.2)

/-- The loom of a row's requester. -/
def Requester.rowLoom : Requester → Option Nat
  | .row _ _ _ l _ => some l
  | _ => none

/-- Those who asked for a request. -/
def Request.from_ (r : Request) : List Requester := r.parts.map (·.1)

/-- The rows that a loom has outstanding (R226). -/
def Ledger.rowsOut (g : Ledger) (l : Nat) : List Requester :=
  (((g.waiting ++ g.slots).flatMap Request.from_).filter fun q => q.rowLoom == some l).eraseDups

/-- The rows that a loom keeps outstanding (R226). -/
def rowLimit : Nat := 4

/-- Request the rows held back, as far as their looms have room (R226). -/
def State.issueRows (s : State) (h : Nat) : State :=
  (s.ledger h).later.foldl (fun s x =>
    if ((s.ledger h).rowsOut x.loom).contains x.from_ || decide (((s.ledger h).rowsOut x.loom).length < rowLimit) then
      s.request h x.from_ (some 0) x.via [x.span]
    else s.modLedger h fun g => { g with later := g.later ++ [x] }) (s.modLedger h fun g => { g with later := [] })

/-- How many spans each row of a movement has in its pieces: its elements and, where it has them, its block scales; of an adding `SCATTER`'s
destination, a read and a write. -/
def Item.spansPerRow (t : Item) (q : Queue) : Nat :=
  if t.addsRows && q == .store then 2
  else match t.wins.find? fun w => w.1 == word32 t.desc 16 with
    | some w => if isMx (winFormat w.2) || winLayout w.2 == 4 then 2 else 1
    | none => 1

/-- The requests of a piece when it is issued; those of `PREFETCH` are fills (R216), and those of `GATHER` and `SCATTER` one or more for
each row (R226). -/
def State.requestPiece (s : State) (t : Item) (p : Piece) : State :=
  if t.op = some .gather ∨ t.op = some .scatter then
    (s.modLedger p.hall fun g =>
      { g with later := g.later ++ p.spans.zipIdx.map fun x =>
          ⟨p.loom, .row p.item p.unit p.queue p.loom (x.2 / t.spansPerRow p.queue), t.windowAt x.1.1, x.1⟩ }).issueRows p.hall
  else
    let fill := t.op = some .prefetch
    p.spans.foldl (fun s sp => s.request p.hall (if fill then .fill p.item else .piece p.item p.unit p.queue p.part)
      (if fill then none else some 0) (t.windowAt sp.1) [sp]) s

/-- The slots a ledger has, the most that one target may hold, and those it holds (R214, R215). -/
def ledgerSlots : Nat := 2048
def State.ledgerCap (s : State) (h target : Nat) : Nat :=
  if target < 512 then (s.hall h).hbmCap.toNat else (s.hall h).galCap.toNat
def Ledger.held (g : Ledger) (target : Nat) : Nat := (g.slots.filter fun r => r.target == target).length

/-- Whether a waiting request is admissible (R216). -/
def State.admissible (s : State) (h : Nat) (r : Request) : Bool :=
  let g := s.ledger h
  decide (g.slots.length < ledgerSlots) && decide (g.held r.target < s.ledgerCap h r.target)

/-- The order of R216: aged before others, oldest first; then the lowest time-to-empty, `none` standing for the highest; then the
oldest. -/
def admitBefore (a b : Request) : Bool :=
  let aged (r : Request) := decide (r.lost ≥ 8)
  if aged a || aged b then (aged a && !aged b) || (aged a && aged b && decide (a.id < b.id))
  else match a.tte, b.tte with
    | some x, some y => decide (x < y) || (x == y && decide (a.id < b.id))
    | some _, none => true
    | none, some _ => false
    | none, none => decide (a.id < b.id)

/-- The item a requester belongs to. -/
def Requester.item : Requester → Option ItemId
  | .piece i _ _ _ | .row i _ _ _ _ | .fill i | .operand i | .selvedge _ i => some i
  | _ => none

/-- Whether waiting request `q` merges into `r` (R217): a read of less than 4 KiB of the same target and region, or a
contiguous write of the same item. -/
def mergesWith (r q : Request) : Bool :=
  q.id != r.id && q.target == r.target && q.address / 4096 == r.address / 4096 && q.write == r.write &&
    (if r.write then
        (q.from_.head?.bind Requester.item).isSome && q.from_.head?.bind Requester.item == r.from_.head?.bind Requester.item &&
          (q.address + q.length == r.address || r.address + r.length == q.address)
      else decide (r.length < 4096) && decide (q.length < 4096))

/-- Two requests as one: each part is delivered to its own requester (R217). -/
def mergeInto (r q : Request) : Request :=
  let lo := Nat.min r.address q.address
  { r with
    parts := r.parts ++ q.parts
    address := lo
    length := Nat.max (r.address + r.length) (q.address + q.length) - lo
    hint := if r.hint = 0 then q.hint else r.hint
    mixed := r.mixed || q.mixed || r.keySlot != q.keySlot }

/-- A request that was not admitted at an admission: one that was admissible has been passed over once more, one that was not counts no
losses and begins again (R216). -/
def State.passOver (s : State) (h : Nat) (q : Request) : Request :=
  { q with lost := if s.admissible h q then q.lost + 1 else 0 }

/-- The request in slot `id` of a ledger. -/
def Ledger.slot (g : Ledger) (id : Nat) : Option Request := g.slots.find? fun r => r.id == id

/-- Free a slot; a row held back may take its place among those outstanding. -/
def State.freeSlot (s : State) (h id : Nat) : State :=
  (s.modLedger h fun g => { g with slots := g.slots.filter fun r => r.id != id }).issueRows h

/-- Whether an item's command moves data within the module, so that it carries poison and does not fail (R230). -/
def Item.carriesPoison (t : Item) : Bool :=
  match t.op with
  | some .loadTile | some .storeTile | some .copy | some .gather | some .scatter | some .prefetch | some .restore => true
  | _ => false

/-- Those whose own part of a request has a byte in the word at `w` (R217, R230). -/
def Request.usersOf (r : Request) (w : Nat) : List Requester :=
  (r.parts.filter fun p => decide (w < p.2.1 + p.2.2) && decide (p.2.1 < w + 8)).map (·.1)

/-- A descriptor of ring `g` was read with an uncorrectable error: it and what was read behind it are not expanded, F goes back to it, and
the ring enters ERROR (R135, R286). -/
def State.loseDescriptor (s : State) (g idx : Nat) : State :=
  let r := s.ring g
  let place := (idx + 2 ^ 32 - (r.f - BitVec.ofNat 32 r.ahead.length).toNat) % 2 ^ 32
  if place < r.ahead.length then
    ((s.modRing g fun r => { r with f := BitVec.ofNat 32 idx, ahead := r.ahead.take place }).busySettle g).setRingState g ringError
  else s

/-- What a failed read does to those who asked for it: each item that uses the data fails, and so does a ring whose descriptor it was
(R230, R286, R288). -/
def State.failUsers (s : State) (from_ : List Requester) (st : Status) : State :=
  from_.foldl (fun s r => match r with
    | .piece i u q k => match s.item i with
      | some t => if t.carriesPoison && st == .eccUncorr then s else s.failAt i st (pieceAt u q k)
      | none => s
    | .row i u q _ _ => if st == .eccUncorr then s else s.failAt i st (pieceAt u q 0)
    | .operand i => match s.item i with
      | some t => if t.phase = .decided then s else s.failItem i st
      | none => s
    | .selvedge _ i => match s.item i with
      | some t => if t.phase = .external then s.failItem i st else s
      | none => s
    | .descriptor g idx => s.loseDescriptor g idx
    | _ => s) s

/-- The requests that wait for memory of a hall to which no route is left are taken away, and the items that made them fail (R28). -/
def State.cutRequests (s : State) (h : Nat) : State :=
  let cut (r : Request) : Bool := !s.hallReaches h (addrHall r.address)
  let gone := (s.ledger h).waiting.filter cut
  (gone.flatMap (·.from_)).foldl (fun s q => s.failUsers [q] .hallLost)
    (s.modLedger h fun g => { g with waiting := g.waiting.filter fun r => !cut r })

/-- An uncorrectable error in the ledger's own state of a request, of which nothing is left: the slot is free, every item that asked for it
fails, and a descriptor that it was to bring is lost (R227, R228, R230; log 52). -/
def State.loseRequest (s : State) (h : Nat) (r : Request) : State :=
  r.from_.foldl (fun s q => match q, q.item with
    | .descriptor g idx, _ => s.loseDescriptor g idx
    | _, some i => match s.item i with
      | some t => if t.phase = .decided then s else s.failItem i .eccUncorr
      | none => s
    | _, none => s) (s.freeSlot h r.id)

/-- Admit one request (R28, R216, R217). -/
def State.admitOne (s : State) (h : Nat) (slotEcc : Ecc) : State :=
  let s := s.cutRequests h
  let g := s.ledger h
  match pickBest admitBefore (g.waiting.filter (s.admissible h)) with
  | none => s
  | some r =>
    let partners := g.waiting.filter (mergesWith r)
    let gone (q : Request) : Bool := q.id == r.id || partners.any fun p => p.id == q.id
    let capped := g.waiting.filter fun q => decide (g.held q.target ≥ s.ledgerCap h q.target)
    let rest := (g.waiting.filter fun q => !gone q).map (s.passOver h)
    let new := partners.foldl mergeInto r
    let s := s.modLedger h fun g => { g with waiting := rest, slots := g.slots ++ [new] }
    let s := (((s.bump (pgLedger h) 0x20 1).bump (pgLedger h) 0x21 capped.length).bump (pgLedger h) 0x22
      (if r.lost ≥ 8 then 1 else 0)).bump (pgLedger h) 0x23 partners.length
    if slotEcc.bad then s.loseRequest h new else s

/-- Whether a request looks its line up in the tensor cache: a read of an HBM stack (R208). -/
def Request.cached (r : Request) : Bool := !r.write && addrSpace r.address == 2
/-- Whether it is a `PREFETCH` fill. -/
def Request.fills (r : Request) : Bool := r.from_.any fun q => match q with
  | .fill _ => true
  | _ => false
/-- Whether it allocates on a miss: its window has a reuse hint, or it is a `PREFETCH` fill. One that merged reads of several key states
allocates nothing (log 50). -/
def Request.allocates (r : Request) : Bool := r.cached && !r.mixed && (r.hint != 0 || r.fills)
/-- The line a request hits; one that merged reads of several key states hits none (log 50). -/
def State.requestHit (s : State) (r : Request) : Option CacheLine :=
  if r.mixed then none else cacheHit (s.cache (addrHall r.address)) (cacheLineIndex (addrOffset r.address)) r.keySlot
/-- The word that a request begins in, and how many it covers. -/
def Request.word (r : Request) : Nat := r.address / 8 * 8
def Request.words (r : Request) : Nat := (wordsOf r.address r.length).length

/-- Whether every requester of a request is a `PREFETCH` that has taken its line already (R173). -/
def State.lineTaken (s : State) (r : Request) : Bool :=
  r.fills && r.from_.all fun q => match q with
    | .fill i => (s.item i).all fun t => t.linesDone.contains (r.address / 4096)
    | _ => false

/-- Note a line that a `PREFETCH` has filled, found or been declined (R173). -/
def State.takeLine (s : State) (i : ItemId) (line : Nat) : State :=
  s.modItem i fun t => { t with linesDone := insertNat t.linesDone line }

/-- A request ends: its slot is free, and the `PREFETCH`es among its requesters have taken its line. -/
def State.endRequest (s : State) (h : Nat) (r : Request) : State :=
  (r.from_.foldl (fun s q => match q with
    | .fill i => s.takeLine i (r.address / 4096)
    | _ => s) s).freeSlot h r.id

/-- A hit of request `r` on line `c`. One whose line has an uncorrectable error drops the line and stays, to be served again from HBM
(R229). -/
def State.respondHit (s : State) (h : Nat) (r : Request) (c : CacheLine) (ecc : Ecc) : State :=
  let th := addrHall r.address
  if ecc.bad then (s.replaceCache th ((s.cache th).filter (· != c))).bump (pgGallery th) 0x25 1
  else
    let s := (s.touchLine th c).endRequest h r
    if ecc.fixed then (s.bump (pgGallery th) 0x20 1).event (pgGallery th) 1 else s

/-- The answer to a request from the memory itself. -/
def State.respondRead (s : State) (h : Nat) (r : Request) (ecc : Ecc) : State :=
  let s := (s.readEcc r.word ecc).endRequest h r
  match ecc.word with
  | some w => if ecc.bad then s.failUsers (r.usersOf (r.word + 8 * w)) .eccUncorr else s
  | none => s

/-- `LEDGER_RESPONSE`: the answer to a request that fills no line. -/
def State.respond (s : State) (h id : Nat) (ecc : Ecc) : State :=
  match (s.ledger h).slot id with
  | none => s
  | some r =>
    let th := addrHall r.address
    let ecc := ecc.within r.words
    if r.write ∨ s.lineTaken r then s.endRequest h r
    else if s.hallLost th then (s.endRequest h r).failUsers r.from_ .hallLost
    else if r.cached then
      match s.requestHit r with
      | some c => s.respondHit h r c ecc
      | none =>
        if r.allocates ∧ (s.hall th).share ≠ 0 then s else (s.bump (pgGallery th) 0x23 1).respondRead h r ecc
    else s.respondRead h r ecc

/-- `CACHE_FILL`: the answer to a read that missed and allocates. The line is filled as it is delivered; an uncorrectable
error leaves it unfilled (R173, R209). -/
def State.fillAnswer (s : State) (h id : Nat) (ecc : Ecc) : State :=
  match (s.ledger h).slot id with
  | none => s
  | some r =>
    let th := addrHall r.address
    let ecc := ecc.within r.words
    if r.allocates ∧ (s.hall th).share ≠ 0 ∧ (s.requestHit r).isNone ∧ !s.lineTaken r ∧ !s.hallLost th then
      let s := (s.bump (pgGallery th) 0x23 1).respondRead h r ecc
      if ecc.bad then (if r.fills then s.bump (pgGallery th) 0x27 1 else s)
      else s.fillLine th (addrOffset r.address) r.owner r.hint r.keySlot
    else s

/-- Whether a hall's ledger still works on a requester that satisfies a test. -/
def State.ledgerBusy (s : State) (h : Nat) (f : Requester → Bool) : Bool :=
  (s.ledger h).waiting.any (fun r => r.from_.any f) || (s.ledger h).slots.any (fun r => r.from_.any f) ||
    (s.ledger h).later.any fun x => f x.from_

/-- Whether a requester is a piece. -/
def Requester.ofPiece (p : Piece) : Requester → Bool
  | .piece i u q k => i == p.item && u == p.unit && q == p.queue && k == p.part
  | .row i u q _ _ => i == p.item && u == p.unit && q == p.queue
  | _ => false

/-- Whether every request of a piece has been answered. -/
def State.requestsDone (s : State) (p : Piece) : Bool := !s.ledgerBusy p.hall (Requester.ofPiece p)

/-- Whether every request of a stream transfer has been answered. -/
def State.transferDone (s : State) (h d i : Nat) : Bool := !s.ledgerBusy h (· == .stream d i)

/-- A line looked up in the tensor cache by an access that takes no ledger slot, of the flights and of `BAR4`: a hit counts and is used, a
miss counts (R208, R210). `fill` gives the owner, hint and key state under which a miss allocates. -/
def State.lookupLine (s : State) (slot : Option Nat) (fill : Option (Nat × BitVec 8)) (a : Nat) : State :=
  let th := addrHall a
  match cacheHit (s.cache th) (cacheLineIndex (addrOffset a)) slot with
  | some c => s.touchLine th c
  | none =>
    let s := s.bump (pgGallery th) 0x23 1
    match fill with
    | some f => if s.poisoned (a / 4096 * 4096) 4096 then s else s.fillLine th (addrOffset a) f.1 f.2 slot
    | none => s

/-- The lookups of a read of `n` bytes from `a` through a window, none for one that uses none. -/
def State.lookupRead (s : State) (via : Option Block512) (a n : Nat) : State :=
  if addrSpace a != 2 || !s.hallHere (addrHall a) then s
  else
    let slot := via.bind fun w => if winOwner w ≠ operatorOwner then some (s.keySlotOf (winOwner w)) else none
    let fill := via.bind fun w => if winHint w ≠ 0 then some (winOwner w, winHint w) else none
    (splitSpan a n).foldl (fun s p => s.lookupLine slot fill p.1) s

/-! ### Scrubbers (R231) -/

/-- The scrubber of key `k`. -/
def State.scrubber (s : State) (k : Nat) : Scrub := Table.get Scrub.reset s.scrubs k

/-- The keys of the scrubbers: bank group `b` of a gallery, the stores of loom `l`, pseudo-channel `c` of a stack. -/
def galleryScrub (h b : Nat) : Nat := 96 * h + b
def loomScrub (h l : Nat) : Nat := 4096 + 96 * h + l
def stackScrub (h c : Nat) : Nat := 8192 + 64 * h + c

/-- The scrubber that reads the 64-byte unit at an address, the unit's number in that scrubber's address order, and how many units it
has. The stack offsets of a pseudo-channel take one 4 KiB line of each 64 (R213). -/
def scrubUnit (a : Nat) : Nat × Nat × Nat :=
  let h := addrHall a
  let o := addrOffset a
  match addrSpace a with
  | 0 => (loomScrub h (addrLoom a), 16384 * addrStore a + o / 64, 40960)
  | 1 => (galleryScrub h (o / 2 ^ 26), o % 2 ^ 26 / 64, 2 ^ 20)
  | _ => (stackScrub h (pseudoChannel o), 64 * (o / 2 ^ 18) + o % 4096 / 64, stackSize / 4096)

/-- Whether a memory target is idle: no ledger holds a slot on it. -/
def State.targetIdle (s : State) (target : Nat) : Bool := s.ledgers.all fun g => g.2.slots.all fun r => r.target != target

/-- A cache line of a bank group, chosen freely since the manual gives no way of a line its place in the bank; it goes, or none does
where the word holds none (R229; log 49). -/
def State.dropScrubbed (s : State) (h b : Nat) : State :=
  let mine := (s.cache h).filter fun c => cacheBank c.line == b
  let (n, s) := s.draw
  match mine[(Config.freeWord n).toNat % (mine.length + 1)]? with
  | some c => (s.replaceCache h ((s.cache h).filter (· != c))).bump (pgGallery h) 0x25 1
  | none => s

/-- What a scrub read of the unit at `a` finds: an uncorrectable error in the tensor-cache range drops a line and poisons nothing (R229,
R231). -/
def State.scrubEcc (s : State) (a : Nat) (ecc : Ecc) : State :=
  if ecc.bad && s.hitsCacheRange a 64 then s.dropScrubbed (addrHall a) (addrOffset a / 2 ^ 26) else s.readEcc a ecc

/-- Count a pass of a scrubber that has read its last unit (R232). -/
def State.countPass (s : State) (a : Nat) : State :=
  match addrSpace a with
  | 1 => s.bump (pgGallery (addrHall a)) 0x26 1
  | 2 => s.bump (pgHbm (addrHall a)) 0x23 1
  | _ => s

/-- A scrubber reads the unit at `a`, when that is its next one and its memory is idle. -/
def State.scrub (s : State) (a : Nat) (ecc : Ecc) : State :=
  let (k, u, n) := scrubUnit a
  if (s.scrubber k).next = u ∧ (addrSpace a = 0 ∨ s.targetIdle (ledgerTarget a)) then
    let s := s.scrubEcc a (ecc.within 8)
    let s := { s with scrubs := Table.set Scrub.reset s.scrubs k ⟨if u + 1 = n then 0 else u + 1, s.newel.time.toNat + 1⟩ }
    if u + 1 = n then s.countPass a else s
  else s

/-- The newel time between two reads of a pseudo-channel's scrubber (R231). -/
def stackScrubNs : Nat := 65536

/-! ### Commands -/

/-- `LEDGER_ADMIT` (R216, R227). -/
def execLedgerAdmit (hall : Nat) (s : State) (slotEcc : Ecc := .clean) : Host.Outcome State Fault Refusal :=
  .next (s.admitOne hall slotEcc)

/-- `LEDGER_RESPONSE` (R214, R228, R229). -/
def execLedgerResponse (hall request : Nat) (ecc : Ecc) (s : State) : Host.Outcome State Fault Refusal :=
  .next (s.respond hall request ecc)

/-- `CACHE_FILL` (R209–R211). -/
def execCacheFill (hall request : Nat) (ecc : Ecc) (s : State) : Host.Outcome State Fault Refusal :=
  .next (s.fillAnswer hall request ecc)

/-- `CORRECTED_WRITEBACK`: the bank is idle and the corrected word is written back (R228). -/
def execCorrectedWriteback (word : Nat) (s : State) : Host.Outcome State Fault Refusal :=
  .next { s with corrected := removeNat s.corrected word }

/-- `SRAM_SCRUB_READ`: the next unit of a loom's stores or of a bank group of the gallery (R231). -/
def execSramScrubRead (word : Nat) (ecc : Ecc) (s : State) : Host.Outcome State Fault Refusal :=
  .next (if addrSpace word < 2 ∧ addrShapeOk word ∧ s.hallHere (addrHall word) ∧ s.awake then s.scrub (word / 64 * 64) ecc else s)

/-- `HBM_SCRUB_READ`: the next unit of a pseudo-channel, 65,536 ns after the one before it (R231). -/
def execHbmScrubRead (hall offset : Nat) (ecc : Ecc) (s : State) : Host.Outcome State Fault Refusal :=
  let a := hbmAddr hall (offset / 64 * 64)
  let last := (s.scrubber (scrubUnit a).1).last
  .next (if decide (hall < 8) && s.hallHere hall && decide (offset < stackSize) && s.awake &&
      (last == 0 || decide (last - 1 + stackScrubNs ≤ s.newel.time.toNat)) then s.scrub a ecc else s)

end Sys2Proof.Machine
end

