-- ==== Sys2Proof/Machine/Fetch.lean ====
section
/-!
DEFINITION. Expansion of a command into pieces and their way into the lanes of the looms (R66, R113, R117, R123, R141–R143, R170,
R178), and the treadle's fetch of one descriptor (R132, R135, R139, R168).
-/
namespace Sys2Proof.Machine

/-! ### Pieces (R142, R161, R214) -/

/-- The requests of some reads, or of some writes. -/
def readSpans (rs : List Read) : List (Nat × Nat × Bool) := ledgerSpans false (rs.flatMap Read.all)
def writeSpans (rs : List Read) : List (Nat × Nat × Bool) := ledgerSpans true (rs.flatMap Read.all)

/-- The pieces of unit `u` of a movement command (R161, R170, R172). An adding `SCATTER` reads each row of its destination before it writes
it. -/
def State.movePieces (s : State) (t : Item) (o : Opcode) (p : Place) (u : Nat) : List Piece :=
  let m := s.movesOf t
  let rd := readSpans (m.reads t u)
  let wr := writeSpans (m.writes t u)
  match o with
  | .loadTile | .prefetch => [p.piece u .load 0 rd]
  | .restore => [p.piece u .load 0 wr]
  | .storeTile => [p.piece u .store 0 wr]
  | .offload => [p.piece u .store 0 rd]
  | _ => [p.piece u .load 0 rd,
      p.piece u .store 0 (if t.addsRows then (m.writes t u).flatMap fun r => readSpans [r] ++ writeSpans [r] else wr)]

/-- The LOAD pieces of a unit that fetch some parts. -/
def Place.loads (p : Place) (u : Nat) (l : List (Nat × List Read)) : List Piece := l.map fun x => p.piece u .load x.1 (readSpans x.2)

/-- The STORE piece of a unit, where what it writes through a window leaves the landing store (R142). -/
def Place.stores (p : Place) (u : Nat) (r : Read) : List Piece :=
  if p.landingStore u r.win then [] else [p.piece u .store 0 (writeSpans [r])]

/-- The pieces of one output tile: pass by pass, the LOAD pieces of the warp block that the pass is the first to read and of its weft tiles, and
the pass; then the epilogue, with what it reads from outside the loom stores; and a STORE piece (R66, R142; log 45). -/
def Mat.pieces (m : Mat) (p : Place) (u : Nat) : List Piece :=
  ((List.range m.sh.passes).flatMap fun k => p.loads u (m.passLoads u k) ++ [p.piece u .matrix k []]) ++
    [p.piece u .landing 0 (readSpans (m.lateReads u ++ m.priorReads u))] ++ p.stores u (m.tileWrite u)

/-- The pieces of one unit of a landing command (R161, R178): beside its destination it reads priors and writes stats and dγ. -/
def Item.landingPieces (t : Item) (o : Opcode) (p : Place) (u : Nat) : List Piece :=
  let ws := t.landingWrites o u
  p.loads u (t.unitLoads o u) ++ [p.piece u .landing 0 (readSpans (t.landingPriors o u) ++ writeSpans (ws.drop 1))] ++
    (ws.take 1).flatMap (p.stores u)

/-- The pieces of one unit of an adapter command: a LOAD piece for each weft tile of rows that it fetches from outside the loom, and its LANDING
piece, which reads and writes U, dU or a gradient (R142, R161). -/
def Item.bobbinPieces (t : Item) (o : Opcode) (p : Place) (u : Nat) : List Piece :=
  p.loads u (t.unitLoads o u) ++ [p.piece u .landing 0 (readSpans (t.unitPriors o u) ++ writeSpans (t.unitGives o u))]

/-- The units of a command whose work runs in the looms (R142, R170, R178). -/
def State.unitsOf (s : State) (t : Item) (o : Opcode) : Nat :=
  if movementOp o then moveChunks (winFormat (t.winD 16)) (s.movesOf t).s0 (s.movesOf t).rows
  else if matrixOp o then (matOf t o).sh.colTiles * (matOf t o).sh.rowBlocks
  else if bobbinOp o then (t.bobbinUnits o).length
  else if treadleOp o then 0
  else (winRows (t.winD 16) + 31) / 32

/-- The pieces of unit `u` of a command. -/
def State.unitPieces (s : State) (t : Item) (o : Opcode) (p : Place) (u : Nat) : List Piece :=
  if movementOp o then s.movePieces t o p u
  else if matrixOp o then (matOf t o).pieces p u
  else if bobbinOp o then t.bobbinPieces o p u
  else t.landingPieces o p u

/-! ### One command -/

/-- The slot windows a command reads or writes through the contexts it names (R110, R115). -/
def State.slotWindows (s : State) (d : Block512) (ctxs : List (Nat × BitVec 4096)) : List (W32 × Block512) :=
  let slot := if updateFlag d then fieldNat d 240 3 else fieldNat d 256 3
  ctxs.flatMap fun c => [0, 4, 8, 12, 16, 20].map fun b => (slotHandle c.2 slot b, s.winOf (slotHandle c.2 slot b))

/-- The contexts whose records a command keeps as it was expanded. -/
def State.namedContexts (s : State) (d : Block512) (plan : TagPlan) : List (Nat × BitVec 4096) :=
  if updateFlag d then [(fieldNat d 224 14, s.ctx (fieldNat d 224 14))] else plan.ctxs

/-- The handles among some that name the gallery buffer of an active or pending arming of the hall that holds it (R221). -/
def State.streamBuffers (s : State) (hs : List W32) : List (W32 × Nat) :=
  hs.flatMap fun h =>
    let b := winBase (s.winOf h)
    if addrSpace b = 1 then
      (s.streams.filter fun p => p.1 / 4096 == addrHall b &&
        ((p.2.active.map (·.dst)) == some h || (p.2.pending.map (·.dst)) == some h)).map fun p => (h, p.1)
    else []

/-- An item that has been checked and expanded. A command that has no work for a loom waits only for its wait entry, like a zero-length one
(R111, R164). -/
def State.expand (s : State) (t : Item) (o : Opcode) : Item :=
  let units := s.unitsOf t o
  { t with
    phase := if units = 0 ∧ !treadleOp o then .zero else .dispatched
    emit := markFirst [] ((List.range units).flatMap (s.unitPieces t o (s.placeOf t))), unitCount := units }

/-- The item of a descriptor. -/
def State.newItem (s : State) (id : ItemId) (d : Block512) : Item :=
  let r := s.ring id.ring
  let fn := r.function
  let owner := ringOwner r.entry
  let h := ringHall id.ring
  let o := (descOp d).getD .nop
  let base := Item.blank id d (s.setUsable owner d)
  match s.fetchVerdict id.ring d with
  | .fail st => { base with status := st, failedAt := some 0 }
  | .zero => { base with phase := .zero }
  | .run =>
    let plan := s.planOf owner fn o d
    let ctxs := s.namedContexts d plan
    let named := s.namedWindows d ((operandHandles o d).map (·.1))
    let wins := named ++ s.slotWindows d ctxs
    s.expand { base with
      wins := wins, scales := named.map fun w => (w.1, s.tensorScale fn w.2), ctxs := ctxs
      runs := plan.runs, buffers := s.streamBuffers (wins.map (·.1))
      image := if o = .callPattern then ((s.routine h (fieldNat d 128 10)).map (·.image)).getD [] else [] } o

/-- The pieces a lane holds (R141). -/
def laneDepth : Nat := 64

/-- Append pieces to their lanes until one finds no room; the rest stays (R141, R143). -/
def State.pushPieces (s : State) : List Piece → State × List Piece
  | [] => (s, [])
  | p :: ps =>
    if (s.lane p.key).length < laneDepth then (s.setLane p.key (s.lane p.key ++ [p])).pushPieces ps else (s, p :: ps)

/-- Emit the pieces of an item: what finds no room parks the command in its ring's pending slot (R143). -/
def State.emitPieces (s : State) (i : ItemId) : State :=
  match s.item i with
  | none => s
  | some t =>
    let (s', rest) := s.pushPieces t.emit
    let s' := s'.modItem i fun t => { t with emit := rest }
    s'.modRing i.ring fun r => { r with parked := if rest.isEmpty then none else some i }

/-- Whether an item holds what follows it on its ring: a `KNOT_WAIT` or `FENCE` until it has completed (R168), a pattern call until it has
emitted all its commands, which enter the lanes at the call's place (R143, R155). -/
def Item.holdsRing (t : Item) : Bool :=
  t.op == some .knotWait || t.op == some .fence ||
    (t.op == some .callPattern && (t.phase == .dispatched || !t.calls.isEmpty))

/-- Whether a ring is held. -/
def State.ringHeld (s : State) (g : Nat) : Bool := s.items.any fun t => t.id.ring == g && t.holdsRing

/-- The operands whose windows the treadle itself reads of a command: its tag, index or destination list, and the image, parameters or card words
that it executes from. -/
def operandLists (d : Block512) : List Nat :=
  match descOp d with
  | some .matmul | some .matmulT | some .matmulAcc => if adapterFlag d then [28] else []
  | some .adaptFwd | some .adaptBwd => [28]
  | some .gather | some .scatter => [40]
  | some .multicast | some .bobbinBind => [20]
  | some .callPattern => if d.getLsbD 144 then [20] else []
  | some .cardRun => [16]
  | _ => []

/-- Whether some of what the treadle would read for a command lies in a range that is being zeroed, so that its expansion waits (R212). -/
def State.operandsWait (s : State) (d : Block512) : Bool :=
  (s.namedWindows d (operandLists d)).any fun w => s.hitsZeroing (winBase w.2) (winExtent w.2)

/-- What the treadle itself reads of memory for a command: the records of the contexts it names, its tag, index or destination list, and the
image, parameters or card words that it executes from, with the window each goes through (R214). -/
def State.operandSpans (s : State) (t : Item) : List (Option Block512 × Nat × Nat) :=
  t.ctxs.map (fun c => (none, s.ctxAddr c.1, 512)) ++
    (s.namedWindows t.desc (operandLists t.desc)).map fun w => (some w.2, winBase w.2, winDim w.2 0)

/-- Request what the treadle reads for an item, as it expands it. -/
def State.requestOperands (s : State) (t : Item) : State :=
  (s.operandSpans t).foldl (fun s x => s.request t.hall (.operand t.id) (some 0) x.1 (ledgerSpans false [x.2])) s

/-- Put a command into the module: check it, expand it, emit what finds room, and evaluate its wait. An idle hall leaves IDLE (R20). `c` is
the pattern call that emitted the command. -/
def State.dispatchFor (s : State) (c : Option ItemId) (id : ItemId) (d : Block512) : State :=
  let s := (s.leaveIdle (ringHall id.ring)).touch (ringHall id.ring)
  let t := { s.newItem id d with caller := c }
  let s := { s with items := s.items ++ [t] }
  ((if t.phase = .decided then s else s.requestOperands t).emitPieces id).settleWaits

/-- The same for a descriptor of a ring. -/
def State.dispatch (s : State) (id : ItemId) (d : Block512) : State := s.dispatchFor none id d

/-! ### The treadle's fetch (R132, R135) -/

/-- Whether the treadle may read another descriptor of a ring: ENABLED, a descriptor submitted, and a completion entry free (R132). -/
def Ring.mayRead (r : Ring) : Bool :=
  ringState r.entry == ringEnabled && r.p != r.f && decide ((r.f - r.h).toNat < ringSize r.entry)

/-- Whether R132 holds the fetching of a ring, for want of a completion entry. -/
def Ring.heldFull (r : Ring) : Bool :=
  ringState r.entry == ringEnabled && r.p != r.f && decide (ringSize r.entry ≤ (r.f - r.h).toNat)

/-- Note since when R132 has held a ring's fetching (R133). -/
def State.noteHeld (s : State) (g : Nat) : State :=
  let was := Table.get 0 s.heldSince g
  let now := if (s.ring g).heldFull then (if was = 0 then s.newel.time.toNat + 1 else was) else 0
  { s with heldSince := Table.set 0 s.heldSince g now }

/-- Whether a requester is a descriptor of ring `g`. -/
def Requester.ofRing (g : Nat) : Requester → Bool
  | .descriptor r _ => r == g
  | _ => false

/-- Whether the treadle may go on with ring `g`: none held or parked, and a descriptor that has come to expand, or one to read. Descriptors
read before the ring entered ERROR are expanded as usual (R135). -/
def State.fetchable (s : State) (g : Nat) : Bool :=
  let r := s.ring g
  r.parked.isNone && !s.ringHeld g &&
    ((!r.ahead.isEmpty && !s.ledgerBusy (ringHall g) (Requester.ofRing g)) || (r.mayRead && decide (r.ahead.length < 8)))

/-- The ring of hall `h` that the round-robin serves next. -/
def State.nextRing (s : State) (h : Nat) : Option Nat :=
  let last := (s.hall h).treadle.lastServed
  let can := ((s.rings.map (·.1)).filter fun g => ringHall g == h && s.fetchable g)
  match can.find? fun g => decide (g % 2048 > last) with
  | some g => some g
  | none => can.head?

/-- The address of descriptor `i` of a ring. -/
def descriptorAddr (e : Block512) (i : Nat) : Nat := ringCommandBase e + 64 * (i % ringSize e)

/-- Whether the next descriptor of a ring lies in a range that is being zeroed, so that its read waits (R212). -/
def State.descriptorWaits (s : State) (g : Nat) : Bool :=
  s.hitsZeroing (descriptorAddr (s.ring g).entry (s.ring g).f.toNat) 64

/-- Whether the next descriptor of a ring can be read: its memory is there, and no word of it is poisoned (R228, R285, R288). -/
def State.descriptorReadable (s : State) (g : Nat) : Bool :=
  let r := s.ring g
  let a := descriptorAddr r.entry r.f.toNat
  (if addrSpace a < 3 then s.hallHere (addrHall a) else s.hostReachable r.function) && !s.poisoned (hostKey r.function a) 64

/-- The next descriptor of a ring as its memory holds it. -/
def State.descriptorAt (s : State) (g : Nat) : Block512 :=
  let r := s.ring g
  BitVec.ofNat 512 (leNat (s.mem.readBytes (hostKey r.function (descriptorAddr r.entry r.f.toNat)) 64))

/-- Read descriptors of ring `g` ahead, up to 8 and never beyond P. One that cannot be read puts the ring into ERROR, and no item comes of
it (R135). -/
def State.readAhead (g : Nat) : Nat → State → State
  | 0, s => s
  | n + 1, s =>
    let r := s.ring g
    if r.mayRead && decide (r.ahead.length < 8) && !s.descriptorWaits g then
      if s.descriptorReadable g then
        State.readAhead g n ((s.modRing g fun r =>
          { r with f := r.f + 1, ahead := r.ahead ++ [s.descriptorAt g], busySince := r.busySince.orElse fun _ => some s.newel.time }).treadleRequest
            (ringHall g) (.descriptor g r.f.toNat) false (descriptorAddr r.entry r.f.toNat) 64)
      else s.setRingState g ringError
    else s

/-- An uncorrectable error in a window table, found as a command's windows were looked up: the command fails (R227, R228, R230; log 52). -/
def State.loseEntry (s : State) (i : ItemId) : State :=
  match s.item i with
  | some t => if t.phase = .decided ∨ t.wins.isEmpty then s else s.failItem i .eccUncorr
  | none => s

/-- Expand a descriptor that has come; an uncorrectable error in the knot that it waits on poisons that knot (R286). -/
def State.expandRead (s : State) (i : ItemId) (d : Block512) (tableEcc knotEcc : Ecc) : State :=
  let s := (if knotEcc.bad then s.loseKnot (descWait d) else s).dispatch i d
  if tableEcc.bad then s.loseEntry i else s

/-- Read ahead on ring `g`, and expand the first descriptor read once what has been read has come (R214). -/
def State.fetchFrom (s : State) (g : Nat) (tableEcc knotEcc : Ecc) : State :=
  let s := s.modTreadle (ringHall g) fun t => { t with lastServed := g % 2048 }
  let s := (State.readAhead g 8 s).noteHeld g
  let r := s.ring g
  match r.ahead with
  | [] => s
  | d :: ds =>
    if s.ledgerBusy (ringHall g) (Requester.ofRing g) || s.operandsWait d then s
    else (s.modRing g fun r => { r with ahead := ds }).expandRead ⟨g, (r.f - BitVec.ofNat 32 r.ahead.length).toNat, 0⟩ d tableEcc knotEcc

/-- One fetch of hall `h`'s treadle. A ring entry that is read with an uncorrectable error puts its ring into ERROR (R286). -/
def State.fetch (s : State) (h : Nat) (entryEcc tableEcc knotEcc : Ecc) : State :=
  if s.hallRuns h then
    match s.nextRing h with
    | some g => if entryEcc.bad then s.setRingState g ringError else s.fetchFrom g tableEcc knotEcc
    | none => s
  else s

end Sys2Proof.Machine
end

