-- ==== Sys2Proof/Machine/Queues.lean ====
section
/-!
DEFINITION. Doorbells (R131), parked commands and pattern calls (R143, R155–R157), the dobby selector (R153, R154), pieces that complete
(R141, R144), knot updates that arrive (R147), and the limit of R133.
-/
namespace Sys2Proof.Machine

/-! ### Doorbells (R131) -/

/-- A write of P: ignored unless the ring is ENABLED, refused when P − F would exceed N. -/
def State.doorbellP (s : State) (g : Nat) (v : W32) : State :=
  let r := s.ring g
  if !s.ready || ringState r.entry != ringEnabled then s
  else if (v - r.f).toNat > ringSize r.entry then s.fault (pgTreadle (ringHall g)) .lengthBound (BitVec.ofNat 32 g) 0
  else ((s.modRing g fun r => { r with p := v }).noteHeld g).touch (ringHall g)

/-- A write of H: ignored unless the ring is ENABLED, refused when C − H would exceed N. -/
def State.doorbellH (s : State) (g : Nat) (v : W32) : State :=
  let r := s.ring g
  if !s.ready || ringState r.entry != ringEnabled then s
  else if (r.c - v).toNat > ringSize r.entry then s.fault (pgTreadle (ringHall g)) .lengthBound (BitVec.ofNat 32 g) 0
  else (s.modRing g fun r => { r with h := v }).noteHeld g

/-! ### Pattern calls (R155–R158) -/

/-- Dispatch the next command of a call. The commands that the calls of one descriptor emit are numbered in the order of emission, which the
descriptor's item counts. One that fails its checks fails the call. -/
def State.emitCall (s : State) (i : ItemId) : State :=
  match s.item i, s.item (itemParent i) with
  | some t, some top => match t.calls with
    | [] => s
    | d :: ds =>
      if s.operandsWait d then s else
      let sub : ItemId := { i with sub := top.progress + 1 }
      let s := s.modItem top.id fun t => { t with progress := t.progress + 1 }
      let s := (s.modItem i fun t => { t with calls := ds }).dispatchFor (some i) sub d
      match s.item sub with
      | some u => if u.phase = .decided ∧ statusFailed u.status then s.failCallers 4 sub else s
      | none => s
  | _, _ => s

/-- Whether a command that a call has emitted, itself or through another call, holds what follows it (R155, R168). -/
def State.callHeld (s : State) (i : ItemId) : Bool :=
  s.items.any fun u => u.holdsRing && (State.callersOf 4 s u.caller).contains i

/-- Emit a call's commands one after another until one parks, holds the ring, or none is left. -/
def State.pumpCall : Nat → State → ItemId → State
  | 0, s, _ => s
  | n + 1, s, i =>
    match s.item i with
    | none => s
    | some t =>
      if t.calls.isEmpty || (s.ring i.ring).parked.isSome || s.callHeld i || !s.hallRuns t.hall then s
      else State.pumpCall n (s.emitCall i) i

/-- Go on with a call, and with the calls that emitted it once it has emitted everything. Calls nest to a depth of 4 (R156). -/
def State.pumpUp : Nat → State → ItemId → State
  | 0, s, _ => s
  | n + 1, s, i =>
    match s.item i with
    | none => s
    | some t =>
      let s := State.pumpCall t.calls.length s i
      match t.caller with
      | some c => State.pumpUp n s c
      | none => s

/-- Go on with the call that emitted a command, if one did. -/
def State.pumpCaller (s : State) (c : Option ItemId) : State :=
  match c with
  | some c => State.pumpUp 4 s c
  | none => s

/-- Go on with the command parked in a ring's pending slot (R143); the rest of its pattern call follows. A hall that does not run dispatches
nothing, and a call that parking or a zeroing range has held goes on here (R212, R334; log 19). -/
def State.resumeRing (s : State) (g : Nat) : State :=
  match (s.ring g).parked with
  | none => (s.items.filter fun t => t.id.ring == g && !t.calls.isEmpty).foldl (fun s t => State.pumpUp 4 s t.id) s
  | some i => if !s.hallRuns (ringHall g) then s else ((s.emitPieces i).settleWaits).pumpCaller ((s.item i).bind (·.caller))

/-- The ring of a hall whose parked command waits for room in a lane. -/
def State.parkedOn (s : State) (key : Nat) : Option Nat :=
  (s.rings.find? fun p => match p.2.parked with
    | none => false
    | some i => match s.item i with
      | none => false
      | some t => match t.emit with
        | q :: _ => q.key == key
        | [] => false).map (·.1)

/-! ### The dobby selector (R153, R154) -/

/-- The other lane. -/
def otherLane : Lane → Lane
  | .forward => .backward
  | .backward => .forward

/-- Whether a shaft of a tile has an overflow that counts and waits for its replay. -/
def TileRun.overflow (r : TileRun) : Bool := r.shafts.any fun x => x.hit.isSome

/-- Whether a tile has run the passes of whole promotion intervals, or all of its own (R88). -/
def TileRun.atBoundary (m : Mat) (r : TileRun) : Bool := r.pass % intervalOf m.t.desc == 0 || decide (r.pass = m.sh.passes)

/-- Whether an item still works on its output tiles: it is dispatched, or it has failed and a piece of it runs on. -/
def State.tileLives (s : State) (t : Item) : Bool := t.phase == .dispatched || s.runsOn t

/-- Whether a loom's MATRIX queue may change to another stream: every output tile of `ln` in progress stands at the end of a promotion
interval, and no replay of it is due (R76, R90). A tile of an item that has ended is none in progress. -/
def State.matrixBoundary (s : State) (h l : Nat) (ln : Lane) : Bool :=
  (s.loom h l).runs.all fun r => r.lane != ln || r.finished || match s.item r.item with
    | none => true
    | some t => match t.mat with
      | none => true
      | some m => !s.tileLives t || (!r.overflow && r.atBoundary m)

/-- What the selector does where it stands: the lane it issues and what it remembers (R154). Where it may not change streams it makes no
choice, and what it remembers stays. -/
def dobbyDecision (sel : Selector) (ready : Lane → Bool) (mayChange : Bool) : Option (Lane × Nat) :=
  let mine := sel.last
  let other := otherLane sel.last
  if !mayChange then (if ready mine then some (mine, sel.passed) else none)
  else if ready mine && ready other then
    if sel.passed ≥ 8 then some (other, 0) else some (mine, sel.passed + 1)
  else if ready mine then some (mine, 0)
  else if ready other then some (other, 0)
  else none

/-- The waits of the heads of a loom queue are evaluated, and the knots they wait on read with an uncorrectable error (R286). -/
def State.loseHeadKnots (s : State) (h l : Nat) (q : Queue) : State :=
  [Lane.forward, Lane.backward].foldl (fun s ln => match (s.lane (laneKey h l q ln)).head?.bind fun p => s.item p.item with
    | some t => if s.atWait t then s.loseKnot (descWait t.desc) else s
    | none => s) s

/-- One choice of a loom queue: the head it issues starts, and its memory requests go to the hall's ledger. -/
def State.dobby (s : State) (h l : Nat) (q : Queue) (knotEcc : Ecc) : State :=
  let s := if knotEcc.bad && s.hallRuns h then s.loseHeadKnots h l q else s
  let key := selKey h l q
  let sel := s.selector key
  let head (ln : Lane) := (s.lane (laneKey h l q ln)).head?
  let ready (ln : Lane) : Bool := match head ln with
    | some p => s.headReady p
    | none => false
  if !s.hallRuns h || sel.running.isSome then s
  else match dobbyDecision sel ready (q != .matrix || s.matrixBoundary h l sel.last) with
    | none => s
    | some (ln, passed) =>
      let s := s.setSelector key ⟨ln, passed, some ln⟩
      match head ln with
      | none => s
      | some p => match s.item p.item with
        | none => s
        | some t => (s.requestPiece t p).touch h

/-! ### Pieces that complete (R141, R144) -/

/-- Whether a piece's own part of its item's work is done: a fetch by its requests, a pass by the tile's count, and the rest with its
unit. -/
def State.workDone (s : State) (t : Item) (o : Opcode) (p : Piece) : Bool :=
  if p.queue = .load ∧ !movementOp o then true
  else if p.queue = .matrix then
    t.unitsDone.contains p.unit || decide (p.part < (s.loom p.hall p.loom).passOf p.item p.unit)
  else t.unitsDone.contains p.unit

/-- Whether a LOAD piece of a matrix command has room for what it has fetched: it waits for each granule to read empty (R203). -/
def State.roomFor (s : State) (t : Item) (p : Piece) : Bool :=
  p.queue != .load || match t.mat with
    | some m => (s.partRoom m p).isSome
    | none => true

/-- Whether the work of a running piece is done, and every memory request of the piece has been answered. A piece of an item that has failed
ends when its work is done or has failed; one of an item whose effects are all in place has nothing left (R144). -/
def State.pieceDone (s : State) (p : Piece) : Bool :=
  s.requestsDone p &&
    (match s.item p.item with
     | none => true
     | some t => match t.op with
       | none => true
       | some o => (t.phase != .dispatched && !statusFailed t.status) || (s.workDone t o p && s.roomFor t p) || t.failures.contains p.place)

/-- Some codes packed one behind another, `n` places of `bits` bits, those beyond the codes zero (R46). -/
def packCodes (bits n : Nat) (cs : List Nat) : List Byte := leBytes (bits * n / 8) ((cs.zipIdx.map fun x => x.1 <<< (x.2 * bits)).sum)

/-- The codes of elements c0 to c0 + n − 1 of a row of a window, and its E8M0 scales, one for each 32 of `width` elements. -/
def State.rowCodes (s : State) (fn : Nat) (w : Block512) (r c0 n : Nat) : List Nat :=
  (List.range n).map fun a => s.codeAt (s.access fn w) (winFormat w) (rowAddr w r) (c0 + a)
def State.rowScales (s : State) (fn : Nat) (w : Block512) (r c0 n width : Nat) : List Byte :=
  (List.range (width / 32)).map fun j => if 32 * j < n then BitVec.ofNat 8 (s.scaleCode (s.access fn w) w (c0 + 32 * j) r) else 0

/-- Some rows of a read as a loom store holds them: each row `width` elements, a row that is none all zero, then the scales of an MX format, row
by row (R67). -/
def State.packRows (s : State) (fn width : Nat) (r : Read) (rows : List (Option Nat)) : List Byte :=
  let bits := formatBits (winFormat r.win)
  (rows.flatMap fun x => packCodes bits width ((x.map fun i => s.rowCodes fn r.win i r.c0 r.n).getD [])) ++
    if isMx (winFormat r.win) then rows.flatMap fun x => (x.map fun i => s.rowScales fn r.win i r.c0 r.n width).getD (List.replicate (width / 32) 0)
    else []

/-- A warp block as the warp store holds it: element (a, b) at position a + 64b, and behind the elements of an MX block its 128 scales
(R67, R80). -/
def State.blockBytes (s : State) (fn : Nat) (r : Read) : List Byte :=
  s.packRows fn 64 r (r.rows.map some ++ List.replicate (64 - r.rows.length) none)

/-- A weft tile as the weft store holds it: its rows one behind another, one that a convolution's padding covers zero, and then their scales
(R64, R81; log 45). -/
def State.tileBytes (s : State) (fn : Nat) (m : Mat) (u k shaft : Nat) : List Byte :=
  s.packRows fn m.sh.tileK (weftRead m.o m.t m.sh [] k)
    ((shaftRowsOf m.sh u shaft).map fun x => (weftRowsOf m.o m.t m.sh [x] k).head?)

/-- What a LOAD piece of a matrix command puts into its loom store. -/
def State.partData (s : State) (m : Mat) (p : Piece) : List Byte :=
  let fn := s.itemFunction m.t.id
  if isBlockPart p.part then s.blockBytes fn (blockRead m.o m.t m.sh p.unit (p.part / 5))
  else s.tileBytes fn m p.unit (p.part / 5) (p.part % 5 - 1)

/-- What a LOAD piece of a landing or bobbin command holds of its reads, as the piece reads it. -/
def State.heldBytes (s : State) (fn : Nat) (rds : List Read) : List (W32 × Nat × List Byte) :=
  rds.flatMap fun r => r.all.map fun p => (r.handle, hostKey fn p.1, s.load (s.access fn r.win) p.1 p.2)

/-- A loom with one slot more; slots of items that have gone go. -/
def State.addSlot (s : State) (h l : Nat) (x : Slot) : State :=
  s.modLoom h l fun lm => { lm with slots := (lm.slots.filter fun y => (s.item y.item).isSome) ++ [x] }

/-- What a LOAD piece has fetched goes into its slot, which reads full: a matrix command's into the loom store, from `base` on (R75, R203). -/
def State.putSlot (s : State) (t : Item) (p : Piece) (rds : List Read) : State :=
  match t.mat with
  | some m => match s.partRoom m p with
    | none => s
    | some a =>
      let bs := s.partData m p
      ((s.put 0 a bs).markFull a bs.length).addSlot p.hall p.loom ⟨p.item, p.unit, p.part, a, bs.length, []⟩
  | none => s.addSlot p.hall p.loom ⟨p.item, p.unit, p.part, 0, 0, s.heldBytes (s.itemFunction t.id) rds⟩

/-- A LOAD piece of a matrix, landing or bobbin command has fetched what it fetches: the slot is full, and the entries of a stream's buffer
that nothing else of the command still reads are empty. Data found poisoned fails the item at the piece's place (R75, R221, R230). -/
def State.fillSlot (s : State) (t : Item) (o : Opcode) (p : Piece) : State :=
  let rds := s.pieceReads t p
  match s.readFault (s.itemFunction t.id) true rds with
  | some st => s.failAt t.id st p.place
  | none =>
    let s := s.putSlot t p rds
    rds.foldl (fun s r => s.consumeExcept t ((List.range t.unitCount).flatMap (s.loadsLeft t o)) r) s

/-- What the completion of a piece leaves behind. -/
def State.afterPiece (s : State) (p : Piece) : State :=
  match s.item p.item with
  | none => s
  | some t => match t.op with
    | none => s
    | some o => if p.queue = .load ∧ !movementOp o ∧ (t.phase = .dispatched ∨ statusFailed t.status) then s.fillSlot t o p else s

/-- The running piece of a loom queue completes: it leaves its lane, and a command parked for the room goes on (R143). -/
def State.completePiece (s : State) (h l : Nat) (q : Queue) : State :=
  let key := selKey h l q
  match (s.selector key).running with
  | none => s
  | some ln =>
    let k := laneKey h l q ln
    match s.lane k with
    | [] => s.setSelector key { s.selector key with running := none }
    | p :: ps =>
      if s.pieceDone p then
        let s := (((s.setLane k ps).setSelector key { s.selector key with running := none }).touch h).afterPiece p
        match s.parkedOn k with
        | some g => (s.resumeRing g).settleWaits
        | none => s.settleWaits
      else s

/-! ### Knot updates that arrive (R147) -/

/-- The update at a place of the list arrives at its knot, behind every earlier one for the same knot. A knot that is read with an
uncorrectable error is poisoned (R286). -/
def State.knotArrive (s : State) (n : Nat) (knotEcc : Ecc) : State :=
  match s.knotMsgs[n]? with
  | none => s
  | some m =>
    if (s.knotMsgs.take n).any fun x => x.key == m.key then s
    else
      let s := ({ s with knotMsgs := s.knotMsgs.eraseIdx n }).knotAct m.key m.action
      (if knotEcc.bad then s.knotAct m.key .poison else s).settleWaits

/-! ### The ring-drain bound (R133) -/

/-- The ring-drain bound: 100 ms of newel time. -/
def drainBoundNs : Nat := 100000000

/-- `RING_STALLED`: fetching held by R132 beyond the ring-drain bound (R133). -/
def State.stall (s : State) (g : Nat) : State :=
  let since := Table.get 0 s.heldSince g
  if (s.ring g).heldFull && since != 0 && decide (since - 1 + drainBoundNs < s.newel.time.toNat) then
    (s.modTreadle (ringHall g) fun t => { t with evtRing := BitVec.ofNat 11 (g % 2048) }).event (pgTreadle (ringHall g)) 0
  else s

/-! ### Commands -/

/-- `DOORBELL_P_WRITE` (R131). -/
def execDoorbellPWrite (ring : Nat) (value : W32) (s : State) : Host.Outcome State Fault Refusal := .next (s.doorbellP ring value)
/-- `DOORBELL_H_WRITE` (R131). -/
def execDoorbellHWrite (ring : Nat) (value : W32) (s : State) : Host.Outcome State Fault Refusal := .next (s.doorbellH ring value)
/-- `DOBBY_CHOICE` (R153, R154, R286). -/
def execDobbyChoice (hall loom : Nat) (queue : Queue) (s : State) (knotEcc : Ecc := .clean) : Host.Outcome State Fault Refusal :=
  .next (s.dobby hall loom queue knotEcc)
/-- `KNOT_UPDATE_ARRIVE` (R147, R286). -/
def execKnotUpdateArrive (position : Nat) (s : State) (knotEcc : Ecc := .clean) : Host.Outcome State Fault Refusal :=
  .next (s.knotArrive position knotEcc)
/-- `RING_STALLED` (R133). -/
def execRingStalled (ring : Nat) (s : State) : Host.Outcome State Fault Refusal := .next (s.stall ring)

end Sys2Proof.Machine
end

