-- ==== Sys2Proof/Machine/Reset.lean ====
section
/-!
DEFINITION. Zeroing of stores (R160, R287, R322), zeroisation of the keys (R321), and the module reset with its stop sequence (R306, R331,
R343).
-/
namespace Sys2Proof.Machine

/-! ### Zeroing -/

/-- Zero the bytes from `lo` below `hi`, and what was noted of their words. -/
def State.zeroBytes (s : State) (lo hi : Nat) : State :=
  let out (w : Nat) : Bool := w < lo || hi ≤ w
  { s with mem := s.mem.zeroRange lo hi, poison := s.poison.filter out, corrected := s.corrected.filter out }

/-- The table without the entries of hall `h`, whose keys run from `n × h`. -/
def dropHall {α : Type} (n h : Nat) (t : Table α) : Table α := t.filter fun p => p.1 / n != h

/-- Zero the loom stores and bobbin caches of a hall; the tokens stay as they are (R203, R323). -/
def State.zeroLoomBytes (s : State) (h : Nat) : State :=
  let blank (x : Slot) : Slot := { x with held := x.held.map fun e => (e.1, e.2.1, e.2.2.map fun _ => 0) }
  let s := s.zeroBytes (storeAddr h 0 0 0) (storeAddr h 96 0 0)
  { s with looms := s.looms.map fun p => if p.1 / 96 = h then (p.1, { p.2 with slots := p.2.slots.map blank }) else p
           bobbins := dropHall 96 h s.bobbins }

/-- Zero the loom stores and bobbin caches of a hall; every token is empty (R203, R287 step 5). -/
def State.zeroLooms (s : State) (h : Nat) : State :=
  let s := s.zeroLoomBytes h
  { s with full := s.full.filter fun g => !(addrSpace g == 0 && addrHall g == h), looms := dropHall 96 h s.looms }

/-- Zero a hall's gallery and invalidate its tensor cache. -/
def State.zeroGallery (s : State) (h : Nat) : State :=
  (s.replaceCache h []).zeroBytes (galleryAddr h 0) (galleryAddr h gallerySize)

/-- The bytes of a hall's context table. -/
def ctxTableSize : Nat := 1536 * 512

/-- Zero a hall's gallery except its context table, and invalidate its tensor cache (R160). -/
def State.zeroScratch (s : State) (h : Nat) : State :=
  let t := (s.hall h).treadle.ctxBase.toNat * 65536
  let s := s.replaceCache h []
  (s.zeroBytes (galleryAddr h 0) (galleryAddr h t)).zeroBytes (galleryAddr h (t + ctxTableSize)) (galleryAddr h gallerySize)

/-- The stores that DIAGNOSTIC entry and DIAGNOSTIC exit zero (R160). -/
def State.zeroHallStores (s : State) (h : Nat) : State := (s.zeroLooms h).zeroScratch h

/-- The stores that an internal scan zeroes (R323). -/
def State.zeroScanned (s : State) (h : Nat) : State := (s.zeroLoomBytes h).zeroScratch h

/-! ### Zeroisation (R321) -/

/-- Every key slot and the module key are erased, and a new module key is drawn. -/
def State.zeroise (s : State) : State :=
  let (n, s) := s.draw
  { s with sec := { s.sec with keys := [], moduleKey := Config.freeKey n } }

/-! ### Module reset (R306, R343) -/

/-- Steps 1 to 3 of the stop sequence: the keys go, and every fetched item without a record completes. -/
def State.stopSequence (s : State) : State :=
  (({ s with sec := { s.sec with keys := [], moduleKey := 0 } } : State).admitAhead fun _ => true).flushItems (fun _ => true) .aborted (some 255)

/-- Whether a listed byte is one of host memory. -/
def hostCell (c : Host.Cell) : Bool := addrSpace c.1 == 3

/-- A module reset: after the stop sequence everything is as at reset but what the newel, the input stage, the fuses and the host's own
memory hold. -/
def State.moduleReset (s : State) (asleep lowInput : Bool) : State :=
  let s := s.stopSequence
  let r := State.reset
  { r with
    pending := s.pending, free := s.free, out := s.out, part := s.part
    newel := { s.newel with source := 0, slewNs := 0, firstLockDue := true, foreign := [], slave := none }
    power := { r.power with
      volts := s.power.volts, watts := s.power.watts, switchOpen := s.power.switchOpen, precharged := s.power.precharged
      senseMated := s.power.senseMated, asleep := asleep, lowInput := lowInput, inputSeen := s.power.inputSeen, inputAt := s.power.inputAt }
    hif := { r.hif with split := s.hif.split, sris := s.hif.sris, released := s.hif.released }
    pages := s.pages.filter fun p => p.1 == pgNewel
    mem := s.mem.filter hostCell }

/-- Carry out a noted write of `RESET`; `SLEEP` in the same write stops the module in MODULE_SLEEP (R331, R354). -/
def State.carryReset (s : State) : State := if s.mod.resetDue then s.moduleReset s.mod.sleep false else s

/-- `MODULE_RESET`: a write of `RESET` without `SLEEP`. -/
def execModuleReset (s : State) : Host.Outcome State Fault Refusal :=
  .next (if s.hostInterfaceUp then s.moduleReset false false else s)
/-- `MODULE_SLEEP_ENTER`: a write of `RESET` and `SLEEP` together. -/
def execModuleSleepEnter (s : State) : Host.Outcome State Fault Refusal :=
  .next (if s.hostInterfaceUp then s.moduleReset true false else s)

end Sys2Proof.Machine
end

