-- ==== Sys2Proof/Machine/Control.lean ====
section
/-!
DEFINITION. The control commands that the treadle executes (R156–R158, R167, R168).
-/
namespace Sys2Proof.Machine

/-! ### Running an item -/

/-- The halls whose window tables and knots an item names, as far as their dies are alive; R288 says what it finds of the others. -/
def State.namedHalls (s : State) (t : Item) : List Nat :=
  (t.wins.map (fun w => handleHall w.1) ++ ((t.op.map fun o => (knotsNamed o t.desc).map (·.1)).getD [])).filter fun h =>
    !s.boot.diesFailed.getLsbD h

/-- The halls that the traffic of an item goes to: those of its windows, hall 0 for host memory (R33), those of the flights it sends on, and
those whose window tables and knots it names. -/
def State.itemHalls (s : State) (t : Item) : List Nat :=
  s.namedHalls t ++
  ((t.wins.filter fun w => decide (addrSpace (winBase w.2) ≤ 3)).map fun w => addrHome (winBase w.2)) ++
  (match t.op with
    | some .send => (s.route (t.desc.getLsbD 288) (byteField t.desc 24 8)).toList.map fun r => homeHall r.1
    | some .buddyPush => (s.route true (byteField t.desc 24 8)).toList.map fun r => homeHall r.1
    | some o =>
      if collectiveOp o then
        let a := descAxis t.desc
        let g := descGroup t.desc
        let (x, y) := s.collPorts a (descTag t.desc) g (s.coord a % Nat.max 1 g)
        [homeHall x, homeHall y]
      else []
    | none => [])

/-- Whether the traffic of an item has no route (R28). -/
def State.cutOff (s : State) (t : Item) : Bool :=
  s.boot.diesFailed != 0 && (s.itemHalls t).any fun h => !s.hallReaches t.hall h

/-- Do a step of an item's work, unless its traffic has no route: then the item fails (R28). -/
def State.orCut (s : State) (t : Item) (f : State → State) : State := if s.cutOff t then s.failItem t.id .hallLost else f s

/-- The windows of the management space that an item reads: those of the operands that it does not write. -/
def Item.managementWins (t : Item) : List Block512 :=
  match t.op with
  | none => []
  | some o =>
    (((operandHandles o t.desc).map (·.1)).filter fun b => !(destBytes o t.desc).contains b).filterMap fun b =>
      (t.win b).filter fun w => addrSpace (winBase w) == 5

/-- What an item's reads of the management space leave, once it has made them (R324, R345, R353). -/
def State.afterManagementRead (s : State) (t : Item) : State :=
  let made : Bool := match s.item t.id with
    | some u => u.phase == .decided && !statusFailed u.status
    | none => true
  if made then t.managementWins.foldl (fun s w => s.managementReads (addrOffset (winBase w)) (winExtent w)) s else s

/-- Run an opcode on its item when it may run now. -/
def State.withItem (s : State) (i : ItemId) (o : Opcode) (f : Item → State → State) : State :=
  match s.runnable i o with
  | some t =>
    if !s.hallRuns t.hall then s else s.orCut t fun s => ((f t s).afterManagementRead t).carryReset
  | none => s

/-- `KNOT_SET`: the update at the knot it names, before its own set entry (R151, R167). A knot of its own hall that is read with an uncorrectable
error is poisoned (R286). -/
def State.knotSet (knotEcc : Ecc) (t : Item) (s : State) : State :=
  let k := knotKey (fieldNat t.desc 136 3) (byteField t.desc 16 1)
  let v := word32 t.desc 20
  let s := (s.finish t.id 0).knotSend t.hall k (if t.desc.getLsbD 144 then .assign v else .add v)
  (if knotEcc.bad && k / 256 == t.hall then s.knotAct k .poison else s).settleWaits

/-- The wait entries of a `KNOT_WAIT` that are not met yet; `progress` keeps those that were, one bit each. -/
def openWaits (t : Item) : List (Nat × W32) :=
  ((List.range 6).filter fun i => !(BitVec.ofNat 6 t.progress).getLsbD i).map fun i => (i, word32 t.desc (16 + 4 * i))

/-- The knot of the open wait entry that an ECC result names was read with an uncorrectable error: it is poisoned (R286). -/
def State.loseWaitKnot (s : State) (t : Item) (knotEcc : Ecc) : State :=
  match (openWaits t).find? fun w => knotEcc.bad && knotEcc.word == some w.1 with
  | some w => s.loseKnot w.2
  | none => s

/-- `KNOT_WAIT`: met when every entry has been met; a poisoned knot fails it at once (R150, R168). -/
def State.knotWait (knotEcc : Ecc) (t : Item) (s : State) : State :=
  let s := s.loseWaitKnot t knotEcc
  let ws := (openWaits t).map fun w => (w.1, s.waitState w.2)
  if ws.any fun w => w.2 == .poisoned then s.failItem t.id .upstream
  else
    let met := (ws.filter fun w => w.2 == .met).map fun w => 2 ^ w.1
    let s := s.modItem t.id fun t => { t with progress := t.progress + met.sum }
    if ws.all fun w => w.2 == .met then s.finish t.id 0 else s

/-- `FENCE`: it completes once every earlier item of its ring has, the calls that it stands within aside (R144, R168). -/
def State.fence (t : Item) (s : State) : State :=
  let within := State.callersOf 4 s t.caller
  if s.items.any fun u => itemBefore u.id t.id && !within.contains u.id then s else s.finish t.id 0

/-- The parameters of a pattern call: 40 bytes inline, or a window (R169). -/
def State.callParameters (s : State) (t : Item) : List Byte :=
  if t.desc.getLsbD 144 then
    let w := t.winD 20
    s.load (s.access (s.itemFunction t.id) w) (winBase w) (rowBytes (winFormat w) (winDim w 0))
  else (List.range 40).map fun i => BitVec.ofNat 8 (byteField t.desc (24 + i) 1)

/-- What a pattern call reads: its parameter window, where it has one. -/
def Item.callReads (t : Item) : List Read := if t.desc.getLsbD 144 then t.reads [20] else []

/-- What stops a pattern call: an uncorrectable error in its routine (R286), or an access to its parameter window. -/
def State.callFault (s : State) (t : Item) (routineEcc : Ecc) : Option Status :=
  (failIf routineEcc.bad .eccUncorr).orElse fun _ => s.readFault (s.itemFunction t.id) true t.callReads

/-- `CALL_PATTERN`: the routine emits its commands at the call's place (R155–R157). What they are depends on the image, the
parameters and the window entries alone (R156; log 9). -/
def State.callPattern (routineEcc : Ecc) (t : Item) (s : State) : State :=
  match s.callFault t routineEcc with
  | some st => s.failItem t.id st
  | none =>
    if !t.callReads.all (s.readReady t) then s
    else
    let ds := Config.routineEmits t.image (s.callParameters t) (s.windows.map fun p => (BitVec.ofNat 32 p.1, p.2))
    let s := t.callReads.foldl (fun s r => s.consume t r) s
    if ds.isEmpty then (s.finish t.id 0).pumpCaller t.caller
    else State.pumpUp 4 (s.modItem t.id fun t => { t with phase := .external, calls := ds }) t.id

/-- An item that has ended sets a knot of its own hall, which is read with an uncorrectable error: it is poisoned (R286). -/
def State.loseSetKnot (s s' : State) (i : ItemId) : State :=
  match s.item i with
  | some t =>
    if (s'.item i).isNone && t.setsKnot && entryKey (descSet t.desc) / 256 == t.hall then s'.loseKnot (descSet t.desc) else s'
  | none => s'

/-- `ITEM_COMPLETE`, after which the call that emitted the item goes on (R155, R168). -/
def State.completeItem (s : State) (i : ItemId) (knotEcc : Ecc) : State :=
  (if knotEcc.bad then s.loseSetKnot (s.complete i) i else s.complete i).pumpCaller ((s.item i).bind (·.caller))

/-- `NOP` (R167). -/
def execNop (it : ItemId) (s : State) : Host.Outcome State Fault Refusal :=
  .next (s.withItem it .nop fun t s => s.finish t.id 0)
/-- `KNOT_SET` (R151, R167, R286). -/
def execKnotSet (it : ItemId) (s : State) (knotEcc : Ecc := .clean) : Host.Outcome State Fault Refusal :=
  .next (s.withItem it .knotSet (State.knotSet knotEcc))
/-- `KNOT_WAIT` (R150, R167, R168, R286). -/
def execKnotWait (it : ItemId) (s : State) (knotEcc : Ecc := .clean) : Host.Outcome State Fault Refusal :=
  .next (s.withItem it .knotWait (State.knotWait knotEcc))
/-- `FENCE` (R144, R168). -/
def execFence (it : ItemId) (s : State) : Host.Outcome State Fault Refusal := .next (s.withItem it .fence State.fence)

end Sys2Proof.Machine
end

