-- ==== Sys2Proof/Machine/Slices.lean ====
section
/-!
DEFINITION. The bobbin cache of a loom (R119–R121): slices, lines, replacement, requests and misses.
-/
namespace Sys2Proof.Machine

/-! ### Slices (R119) -/

/-- The slices of some consecutive positions along d0 of a slot window. -/
def sliceRun (t : Item) (c : Nat) (onB : Bool) (first n : Nat) : List SliceId :=
  (List.range n).map fun i => ⟨c, fieldNat t.desc 256 3, onB, byteField t.desc 56 2, first + i⟩

/-- The read that brings a slice. -/
def Item.sliceRead (t : Item) (sl : SliceId) : Read :=
  let b := if sl.bWindow then 4 else 0
  t.slotPart sl.context b (64 * sl.position) (Nat.min 64 (winDim (t.slotWin sl.context b) 0 - 64 * sl.position))

/-- The lines a slice takes. -/
def sliceLines (t : Item) (sl : SliceId) : Nat := (t.rank sl.context + 15) / 16

/-! ### The cache of one unit (R119, R121) -/

/-- The pinned slices: what each work item is reading, and its next (R121). -/
def Bobbin.pinned (b : Bobbin) : List SliceId := b.work.flatMap fun w => w.needs.take 2

/-- Whether a slice is in the cache. -/
def Bobbin.has (b : Bobbin) (sl : SliceId) : Bool := b.cache.any fun l => l.slice == sl

/-- The least recently used line that is not pinned. -/
def Bobbin.oldest (b : Bobbin) : Option SliceLine :=
  pickBest (fun x y => decide (x.lastUse < y.lastUse)) (b.cache.filter fun l => !b.pinned.contains l.slice)

/-- Make room for `n` lines: unpinned slices go, least recently used first. -/
def Bobbin.makeRoom (b : Bobbin) (n : Nat) : Nat → Bobbin
  | 0 => b
  | k + 1 =>
    if (b.cache.map (·.lines)).sum + n ≤ 128 then b
    else match b.oldest with
      | some l => Bobbin.makeRoom { b with cache := b.cache.filter (· != l) } n k
      | none => b

/-- The contexts that have valid lines, and those of them that have a pinned one. -/
def Bobbin.contexts (b : Bobbin) : List Nat := (b.cache.map fun l => l.slice.context).foldl insertNat []
def Bobbin.pinnedContexts (b : Bobbin) : List Nat := (b.pinned.filter b.has).map (·.context)

/-- The most contexts that have valid lines. -/
def contextLimit : Nat := 16

/-- Free every line of the least recently used context that has no pinned line, for the sake of a context beyond the limit. At most 8 slices
are pinned, so there is one (log 51). -/
def Bobbin.freeContext (b : Bobbin) : Bobbin :=
  let last (c : Nat) := ((b.cache.filter fun l => l.slice.context == c).map (·.lastUse)).foldl Nat.max 0
  match pickBest (fun x y => decide (last x < last y)) (b.contexts.filter fun c => !b.pinnedContexts.contains c) with
  | some c => { b with cache := b.cache.filter fun l => l.slice.context != c }
  | none => b

/-- Fill a slice of `n` lines; one that has its lines already takes no others. -/
def Bobbin.fill (b : Bobbin) (sl : SliceId) (n : Nat) : Bobbin :=
  if b.has sl then b
  else
  let b := if b.contexts.length ≥ contextLimit ∧ !b.contexts.contains sl.context then b.freeContext else b
  let b := b.makeRoom n b.cache.length
  { b with cache := b.cache ++ [⟨sl, n, b.clock⟩], clock := b.clock + 1 }

/-- A slice that is in the cache is read: its line counts as used. -/
def Bobbin.use (b : Bobbin) (sl : SliceId) : Bobbin :=
  { b with cache := b.cache.map fun l => if l.slice == sl then { l with lastUse := b.clock } else l, clock := b.clock + 1 }

/-- A work item after it has read the slices at hand, one after another. -/
def Bobbin.readOn (b : Bobbin) (w : WorkItem) : WorkItem := { w with needs := w.needs.dropWhile b.has }

/-- Every work item reads on; the lines read count as used. -/
def Bobbin.advance (b : Bobbin) : Bobbin :=
  let read := b.work.flatMap fun w => w.needs.takeWhile b.has
  { b with
    cache := b.cache.map fun l => if read.contains l.slice then { l with lastUse := b.clock } else l
    work := b.work.map b.readOn
    clock := if read.isEmpty then b.clock else b.clock + 1 }

/-! ### Requests (R106, R120) -/

/-- Count a slice miss of a context (R106). -/
def State.countMiss (s : State) (c : Nat) : State :=
  if s.ctxHere c then s.ctxWrite c 56 4 (byteField (s.ctx c) 56 4 + 1) else s

/-- Request a slice that is not in the cache: a miss of its context. -/
def State.requestSlice (s : State) (t : Item) (l : Nat) (sl : SliceId) : State :=
  let r := t.sliceRead sl
  let s := (s.countMiss sl.context).modBobbin t.hall l fun b => { b with wanted := b.wanted ++ [(sl, t.id)] }
  s.request t.hall (.slice l sl) (some 0) (some r.win) (ledgerSpans false r.all)

/-- Request those of some slices that are neither in a loom's cache nor on their way. -/
def State.wantSlices (s : State) (t : Item) (l : Nat) (sls : List SliceId) : State :=
  sls.foldl (fun s sl =>
    let b := s.bobbin t.hall l
    if b.has sl || b.wanted.any (·.1 == sl) then s else s.requestSlice t l sl) s

/-- Whether all of some slices are in a loom's cache. -/
def State.slicesHere (s : State) (t : Item) (l : Nat) (sls : List SliceId) : Bool := sls.all (s.bobbin t.hall l).has

/-- A whole unit of work reads its slices, which are in the cache, one after another. -/
def State.readSlices (s : State) (t : Item) (l : Nat) (sls : List SliceId) : State :=
  sls.foldl (fun s sl => s.modBobbin t.hall l fun b => b.use sl) s

end Sys2Proof.Machine
end

