-- ==== Sys2Proof/Machine/Matrix.lean ====
section
/-!
DEFINITION. The matrix commands (R65–R103, R118, R122, R176, R177) and the steps of a loom that carry them out: warp tiles, passes,
replays, promotions, stage-3 terms and epilogues.
-/
namespace Sys2Proof.Machine

/-! ### What a pass multiplies (R64–R70, R80, R81) -/

/-- What its shafts need (R64, R83), and what they need in a tile, whose passes are slow once a shaft of it is in wide mode (R96). -/
def Mat.spec (m : Mat) : ShaftSpec := ⟨winFormat m.warp, winFormat m.weft, m.sh.tileK, byteField m.t.desc 33 1, false⟩
/-- The promotion interval P (R83). -/
def Mat.interval (m : Mat) : Nat := intervalOf m.t.desc

/-- One element of a window. -/
def State.elemAt (s : State) (ac : Access) (w : Block512) (i0 r : Nat) : Elem :=
  (BitVec.ofNat 16 (s.codeAt ac (winFormat w) (rowAddr w r) i0), BitVec.ofNat 8 (s.scaleCode ac w i0 r))

/-- Element `j` of row `i` of what a slot holds in its loom store, with the scale that travels with it: rows of `width` elements, and the scales
of an MX format behind the last of `rows` (R67, R70). -/
def State.storedElem (s : State) (fmt base width rows i j : Nat) : Elem :=
  let n := formatBits fmt
  let bit := (width * i + j) * n
  (BitVec.ofNat 16 ((leNat (s.mem.readBytes (base + bit / 8) 3) >>> (bit % 8)) % 2 ^ n),
    if isMx fmt then s.mem.read (base + width * rows * n / 8 + width / 32 * i + j / 32) else 127)

/-- The bytes of elements `j` to `j + c − 1` of that row and of their scales. -/
def storedSpans (fmt base width rows i j c : Nat) : List (Nat × Nat) :=
  let n := formatBits fmt
  if c = 0 then []
  else elemSpan fmt (base + width * i * n / 8) j c ::
    if isMx fmt then [(base + width * rows * n / 8 + width / 32 * i + j / 32, (j + c - 1) / 32 - j / 32 + 1)] else []

/-- The slot of a part of a unit, as long as it reads full; that of the warp block of a pass, and that of a shaft's weft tile. -/
def State.fullSlot (s : State) (m : Mat) (u part : Nat) : Option Slot :=
  ((s.loom m.t.hall (s.unitLoom m.t u)).slot m.t.id u part).filter fun x => s.allFull x.base x.len
def State.blockSlot (s : State) (m : Mat) (u pass : Nat) : Option Slot := s.fullSlot m u (blockPart m.sh pass)
def State.tileSlot (s : State) (m : Mat) (u pass shaft : Nat) : Option Slot := s.fullSlot m u (weftPart pass shaft)

/-- The warp element at reduction position `a` and column `b` of a pass's tile, read through the warp window (R65, R70, R80). -/
def State.warpElem (s : State) (m : Mat) (u pass a b : Nat) : Elem :=
  let ac := s.access (s.itemFunction m.t.id) m.warp
  let ti := tapIndex m.warp (pass / m.sh.tapTiles)
  match m.o with
  | .matmulT => s.elemAt ac m.warp (m.n0 u + b) (m.k0 pass + a)
  | .conv => s.elemAt ac m.warp (m.k0 pass + a) (rowOf m.warp (ti.1, ti.2.1, ti.2.2, m.n0 u + b))
  | _ => s.elemAt ac m.warp (m.k0 pass + a) (m.n0 u + b)

/-- The warp tile of a pass, by reduction position, then column: from the slot of its block, or through the window where the command has no
such slot. A window in the loom stores is read at its own strides (log 45). -/
def State.warpRows (s : State) (m : Mat) (u pass : Nat) : List (List Elem) :=
  let at_ : Nat → Nat → Elem := match s.blockSlot m u pass with
    | some x => fun a b =>
      let k := m.k0 pass % 64 + a
      if m.o = .matmulT then s.storedElem (winFormat m.warp) x.base 64 64 k b else s.storedElem (winFormat m.warp) x.base 64 64 b k
    | none => s.warpElem m u pass
  (List.range (m.kn pass)).map fun a => (List.range (m.cols u)).map (at_ a)

/-- The weft tile of a shaft in a pass, from its slot, or through the window where the command has no such slot: a row that a convolution's
padding covers enters as zero (R65, R81). -/
def State.weftRows (s : State) (m : Mat) (u pass shaft : Nat) : List (Option (List Elem)) :=
  let ac := s.access (s.itemFunction m.t.id) m.weft
  let rows := shaftRowsOf m.sh u shaft
  let slot := s.tileSlot m u pass shaft
  rows.zipIdx.map fun x => (weftRowsOf m.o m.t m.sh [x.1] pass).head?.map fun r =>
    (List.range (m.kn pass)).map fun a => match slot with
      | some y => s.storedElem (winFormat m.weft) y.base m.sh.tileK rows.length x.2 a
      | none => s.elemAt ac m.weft (m.k0 pass + a) r

/-- The operands of a shaft in some consecutive passes. -/
def State.passes (s : State) (m : Mat) (u shaft lo n : Nat) : List PassData :=
  (List.range n).map fun j => ⟨s.weftRows m u (lo + j) shaft, s.warpRows m u (lo + j)⟩

/-- What a pass reads of its slots. -/
def State.slotSpans (s : State) (m : Mat) (u pass : Nat) : List (Nat × Nat) :=
  let k := m.k0 pass % 64
  let warp := match s.blockSlot m u pass with
    | some x =>
      if m.o = .matmulT then (List.range (m.kn pass)).flatMap fun a => storedSpans (winFormat m.warp) x.base 64 64 (k + a) 0 (m.cols u)
      else (List.range (m.cols u)).flatMap fun b => storedSpans (winFormat m.warp) x.base 64 64 b k (m.kn pass)
    | none => []
  warp ++ (List.range 4).flatMap fun f => match s.tileSlot m u pass f with
    | some y => (List.range (m.shaftRows u f)).flatMap fun i =>
        storedSpans (winFormat m.weft) y.base m.sh.tileK (m.shaftRows u f) i 0 (m.kn pass)
    | none => []

/-- What stops a pass when it reads its operands from the loom stores. -/
def State.passFault (s : State) (m : Mat) (u pass : Nat) : Option Status :=
  (s.readFault (s.itemFunction m.t.id) true (m.storeReads u pass)).orElse fun _ =>
    failIf (s.spansPoisoned (s.slotSpans m u pass)) .eccUncorr

/-! ### An output tile (R66, R88–R97) -/

/-- What a step adds to the counters of R97 and R62: replays, tiles that reach wide mode, ignored overflows, discarded passes,
infinite promotions. -/
structure Counts where
  replays : Nat
  wide : Nat
  ignored : Nat
  discarded : Nat
  infinite : Nat

/-- No counts, and counts together. -/
def Counts.zero : Counts := ⟨0, 0, 0, 0, 0⟩
def Counts.plus (a b : Counts) : Counts :=
  ⟨a.replays + b.replays, a.wide + b.wide, a.ignored + b.ignored, a.discarded + b.discarded, a.infinite + b.infinite⟩
/-- The counts of the shafts of a tile together. -/
def Counts.sum (l : List (ShaftRun × Counts)) : Counts := (l.map Prod.snd).foldl Counts.plus Counts.zero

/-- An output tile before its first pass. -/
def Mat.tileStart (m : Mat) (u : Nat) : TileRun :=
  { item := m.t.id, unit := u, lane := descLane m.t.desc, pass := 0, due := false, finished := false, gate := false
    shafts := ((List.range 4).filter fun k => decide (0 < m.shaftRows u k)).map fun k => ShaftRun.start (m.shaftRows u k) (m.cols u)
    terms := [] }

/-- The tile of a unit as its loom holds it, or as it starts. -/
def State.tileNow (s : State) (m : Mat) (u : Nat) : TileRun := (s.tileOf m.t u).getD (m.tileStart u)

/-- First pass of the interval that a pass belongs to, and the end of that interval (R88). -/
def Mat.lo (m : Mat) (pass : Nat) : Nat := pass / m.interval * m.interval
def Mat.hi (m : Mat) (pass : Nat) : Nat := Nat.min (m.lo pass + m.interval) m.sh.passes

/-- The highest ladder level of some shafts, and of a tile's (R97). -/
def topLevel (xs : List ShaftRun) : Nat := (xs.map (·.level)).foldl Nat.max 0
def TileRun.level (r : TileRun) : Nat := topLevel r.shafts

/-- What the shafts of a tile need while their highest level is `level` (R96). -/
def Mat.specAt (m : Mat) (level : Nat) : ShaftSpec := { m.spec with slow := decide (4 ≤ level) }
/-- The pass length of a tile (R64, R96). -/
def Mat.stepsOf (m : Mat) (r : TileRun) : Nat := (m.specAt r.level).steps

/-- Whether a pass that begins `later` steps behind the last of a tile has started by the time each overflow of the tile is detected (R95). -/
def Mat.startsBefore (m : Mat) (r : TileRun) (later : Nat) : Bool :=
  (r.shafts.filterMap (·.hit)).all fun h => decide (r.pass * m.stepsOf r + later ≤ detectedAt (m.stepsOf r) h)

/-- Whether the next pass of a tile may start: none is started behind a promotion that is due, nor, once an overflow that counts has been
detected, one that had not started by then (R95). A pass starts S steps behind the one before it. -/
def Mat.mayStart (m : Mat) (r : TileRun) : Bool :=
  !r.finished && !r.due && decide (r.pass < m.sh.passes) && m.startsBefore r 0

/-- The next pass of one shaft against a warp tile (R65, R87). A shaft whose replay is due keeps nothing of a pass of a later interval; one
that has ended its interval is promoted before it begins the next (R88, R89, R95). -/
def State.shaftPass (s : State) (m : Mat) (p : ShaftSpec) (u f : Nat) (warp : List (List Elem)) (x : ShaftRun) : ShaftRun × Counts :=
  let j := x.done
  if x.hit.isSome && decide (x.base < m.lo j) then ({ x with done := j + 1 }, Counts.zero)
  else
    let (x, c) := if x.base < m.lo j then (x.promote (m.lo j), { Counts.zero with infinite := x.infinities }) else (x, Counts.zero)
    let x := if x.base = j then x.begin p (s.passes m u f j (m.hi j - j)) else x
    let (x, n) := x.run p ⟨s.weftRows m u j f, warp⟩
    (x, { c with ignored := n })

/-- One pass of a tile against a warp tile: every shaft in lockstep (R72). -/
def State.stepPass (s : State) (m : Mat) (warp : List (List Elem)) (r : TileRun) : TileRun × Counts :=
  let ran := r.shafts.zipIdx.map fun x => s.shaftPass m (m.specAt r.level) r.unit x.2 warp x.1
  let r' := { r with pass := r.pass + 1, shafts := ran.map Prod.fst }
  ({ r' with due := decide (r'.pass = m.hi r.pass) && !r'.overflow }, Counts.sum ran)

/-- Some passes more of one shaft, each with the warp tile its own. -/
def State.rerun (s : State) (m : Mat) (p : ShaftSpec) (u f : Nat) : Nat → ShaftRun → ShaftRun × Counts
  | 0, x => (x, Counts.zero)
  | n + 1, x =>
    let (y, c) := s.shaftPass m p u f (s.warpRows m u x.done) x
    let (z, d) := s.rerun m p u f n y
    (z, c.plus d)

/-- The first pass that a replay of a tile reruns: the interval's of its shafts whose overflow has been detected (R95). -/
def TileRun.replayFrom (r : TileRun) : Nat := (r.shafts.filter fun x => x.hit.isSome).foldl (fun a x => Nat.min a x.base) r.pass

/-- One replay: every shaft whose overflow has been detected goes one level up and reruns what has run since the start of its interval, the
passes of the next interval included; the others hold (R93, R95). The passes that the loom reruns count once (R97); where a rerun overflows
again, its restart is a replay of its own (log 47). -/
def State.stepReplay (s : State) (m : Mat) (r : TileRun) : TileRun × Counts :=
  let raised := r.shafts.map fun x => if x.hit.isSome then x.raise else x
  let ran := r.shafts.zipIdx.map fun x =>
    if x.1.hit.isSome then s.rerun m (m.specAt (topLevel raised)) r.unit x.2 (r.pass - x.1.base) x.1.raise else (x.1, Counts.zero)
  let r' := { r with shafts := ran.map Prod.fst }
  ({ r' with due := decide (r'.pass = m.hi (r.pass - 1)) && !r'.overflow },
   (Counts.sum ran).plus { Counts.zero with
     wide := if decide (r'.level ≥ 4) && decide (r.level < 4) then 1 else 0, discarded := r.pass - r.replayFrom })

/-- The promotion that ends an interval (R89). -/
def Mat.stepPromote (m : Mat) (r : TileRun) : TileRun × Counts :=
  ({ r with shafts := r.shafts.map fun x => x.promote r.pass, due := false, finished := decide (r.pass = m.sh.passes) },
   { Counts.zero with infinite := (r.shafts.map (·.infinities)).sum })

/-- A tile run to the end of its last promotion: the steps a loom takes one at a time. -/
def State.runTile (s : State) (m : Mat) : Nat → TileRun → TileRun × Counts
  | 0, r => (r, Counts.zero)
  | n + 1, r =>
    if r.finished then (r, Counts.zero)
    else
      let (r1, c1) :=
        if m.mayStart r then s.stepPass m (s.warpRows m r.unit r.pass) r
        else if r.overflow then
          let (r', c) := s.stepReplay m r
          (r', { c with replays := 1 })
        else m.stepPromote r
      let (r2, c2) := s.runTile m n r1
      (r2, c1.plus c2)

/-- Enough steps for any tile: its passes, their promotions, and four levels for each shaft. -/
def Mat.fuel (m : Mat) : Nat := 2 * m.sh.passes + 20

/-- Count what a step of a tile counts on its loom's page (R97, R62). -/
def State.countSteps (s : State) (h l : Nat) (c : Counts) : State :=
  let add (s : State) (sel n : Nat) : State := if n = 0 then s else s.bump (pgLoom h l) sel n
  add (add (add (add (add s 0x20 c.replays) 0x21 c.wide) 0x22 c.ignored) 0x23 c.discarded) 0x24 c.infinite

/-! ### The registers of a loom's cells (R63, R67–R69) -/

/-- What the row latches hold once a tile has come down the chain: one cell row's elements each (R65, R68). -/
def Mat.latchRows (m : Mat) (rows : List (List Elem)) : List (List Elem) := (chunksOf (m.sh.tileK / 32) 32 rows).map List.flatten

/-- A tile enters through the row latches into the shadow registers of all four shafts at once (R68). -/
def Loom.loadTile (lm : Loom) (m : Mat) (u pass : Nat) (rows : List (List Elem)) : Loom :=
  { lm with latches := m.latchRows rows, shadow := ⟨some (m.t.id, u, pass), rows⟩ }

/-- The swap (R69): each pair of registers changes parts, so that the tile of the pass before stands in the shadow registers (log 46). -/
def Loom.swap (lm : Loom) : Loom := { lm with active := lm.shadow, shadow := lm.active }

/-- Whether a register tile is that of a pass of a unit: units of one column tile share it (R69). -/
def Mat.sameTile (m : Mat) (u pass : Nat) (w : WarpTile) : Bool :=
  match w.owner with
  | some (i, v, p) => i == m.t.id && p == pass && v % m.sh.colTiles == u % m.sh.colTiles
  | none => false

/-- The warp tiles of some passes come in one after another, each swapped in for its own pass. -/
def State.latchPasses (s : State) (m : Mat) (h l u lo n : Nat) : State :=
  s.modLoom h l fun lm => (List.range n).foldl (fun lm j => (lm.loadTile m u (lo + j) (s.warpRows m u (lo + j))).swap) lm

/-- What the narrow accumulators of a shaft hold, by cell: one that has overflowed holds a meaningless value, for which `n` is a fresh
number; a discarded column's sums are of zero products (R73; logs 45, 46). In wide mode they are not used (R96). -/
def ShaftRun.cells (x : ShaftRun) (f n : Nat) : List (Nat × BitVec 20) :=
  if x.level < 4 then
    x.acc.zipIdx.flatMap fun r => (r.1 ++ List.replicate (64 - r.1.length) (some 0)).zipIdx.map fun c =>
      let k := 2048 * f + 64 * r.2 + c.2
      (k, match c.1 with
        | some v => BitVec.ofInt 20 v
        | none => Config.freeAccum n k)
  else []

/-- The narrow accumulators of a loom after a tile's step. -/
def State.putAccums (s : State) (h l : Nat) (r : TileRun) : State :=
  let (n, s) := s.draw
  s.modLoom h l fun lm =>
    { lm with accums := (r.shafts.zipIdx.flatMap fun x => x.1.cells x.2 n).foldl (fun a c => Table.set 0 a c.1 c.2) lm.accums }

/-! ### Stage 3 (R116, R118, R122) -/

/-- The term of one output element (R118, R122). -/
def State.termAt (s : State) (m : Mat) (c row col : Nat) : W32 :=
  let fn := s.itemFunction m.t.id
  let u := m.t.winD 48
  let w := m.t.slotWin c m.slotByte
  let r := m.t.rank c
  let us := (List.range r).map fun j => dec32 (s.elem32 (s.access fn u) u one32 j row)
  let ws := (List.range r).map fun j => s.elemExact (s.access fn w) w col (m.t.layerRow w j)
  let sum := reduceProducts us ws
  if m.o = .matmulT then sum else mul32 (slotScale (m.t.ctx c) (fieldNat m.t.desc 256 3)) sum

/-- The terms of one shaft of a tile by row and column. -/
def State.shaftTerms (s : State) (m : Mat) (u k : Nat) : List (List W32) :=
  match m.shaftContext u k with
  | none => []
  | some c => (List.range (m.shaftRows u k)).map fun i => (List.range (m.cols u)).map fun b =>
      s.termAt m c (m.m0 u + 32 * k + i) (m.n0 u + b)

/-- Stage 3 takes the terms of one shaft of a tile: the tile's wait for the term knot is over. -/
def TileRun.withTerms (r : TileRun) (k : Nat) (ts : List (List W32)) : TileRun :=
  { r with gate := true, terms := Table.set [] r.terms k ts }
/-- Whether stage 3 has taken the terms of a shaft, and of every shaft that takes one. -/
def TileRun.termed (r : TileRun) (k : Nat) : Bool := r.terms.any fun x => x.1 == k
def Mat.allTermed (m : Mat) (r : TileRun) : Bool := (m.termShafts r.unit).all r.termed

/-- Count the rows that the terms of a shaft serve: once for each output tile (R106; log 48). -/
def State.serveShaft (s : State) (m : Mat) (u k : Nat) : State :=
  match m.shaftContext u k with
  | some c => s.serveRows c (m.shaftRows u k)
  | none => s

/-- The slices that the term of a shaft reads (R119, R121). -/
def Mat.termSlices (m : Mat) (u k : Nat) : List SliceId :=
  match m.shaftContext u k with
  | some c => sliceRun m.t c (m.slotByte == 4) (m.n0 u / 64) 1
  | none => []

/-- What the wait of a tile for the term knot says: once its stage 3 has begun, a later poisoning does not undo it (R118, R150). -/
def State.tileTerm (s : State) (t : Item) (gate : Bool) : WaitState := if gate then .met else s.waitState t.termKnot

/-- The units of an item that are not done. -/
def Item.unitsOpen (t : Item) : List Nat := (List.range t.unitCount).filter fun u => !t.unitsDone.contains u

/-- The same of all output tiles of a command that are left. -/
def State.termState (s : State) (t : Item) : WaitState :=
  s.tileTerm t (!t.unitsOpen.isEmpty && t.unitsOpen.all fun u => (s.tileOf t u).any (·.gate))

/-- Note that the term knot has been met for a tile. -/
def State.noteTerm (s : State) (i : ItemId) : State := s.modItem i fun t => { t with termMet := true }

/-! ### Stages 1 to 7 of a tile (R100) -/

/-- The per-tensor scale s of stage 1. -/
def Mat.scale (m : Mat) : W32 := mul32 (m.t.scale 20) (m.t.scale 16)

/-- One output row of a tile through the epilogue. -/
def State.epilogueRow (s : State) (m : Mat) (u row : Nat) (land : List W32) (terms : Option (List W32)) : State × Tally :=
  let ac := s.access (s.itemFunction m.t.id) m.out
  let dst := outRow m.o m.t.desc m.weft m.warp m.out row
  let xs := land.zipIdx.map fun x =>
    let col := m.n0 u + x.2
    let prior := if m.o = .matmulAcc then some (s.elem32 ac m.out one32 col dst) else none
    stages m.scale prior (terms.map fun ts => ts.getD x.2 zero32) (s.columnValue m.t 40 col) (s.columnValue m.t 44 col)
      (fieldNat m.t.desc 272 4) x.1
  s.writeRow m.t 24 (convControl m.t.desc 35) dst (m.n0 u) xs

/-- A tile whose last promotion is done is written, row by row. -/
def State.epilogueTile (s : State) (m : Mat) (r : TileRun) : State × Tally :=
  tallied (fun s y =>
    let ts := ((r.terms.find? fun t => t.1 == y.1).map (·.2)).bind fun rows => rows[y.2.1]?
    s.epilogueRow m r.unit (m.m0 r.unit + 32 * y.1 + y.2.1) y.2.2 ts) s
    (r.shafts.zipIdx.flatMap fun x => x.1.land.zipIdx.map fun y => (x.2, y.2, y.1))

/-- Write a tile and note that its unit is done (R97, R100). -/
def State.writeTile (s : State) (m : Mat) (r : TileRun) : State :=
  let (s, tl) := s.epilogueTile m r
  (s.countTally m.t.hall (s.unitLoom m.t r.unit) tl).unitFinished m.t.id r.unit tl.bytes r.level

/-! ### What the units of a command read -/

/-- What the passes that are left of a unit still read in the loom stores (R75, R91). -/
def State.passNeeds (s : State) (m : Mat) (u : Nat) : List Read :=
  if m.t.unitsDone.contains u then [] else m.runReads u (s.tileBase m.t u) (m.sh.passes - s.tileBase m.t u)

/-- The priors of a unit that stand outside the loom stores. -/
def Mat.outerPriors (m : Mat) (u : Nat) : List Read := outsideReads (m.priorReads u)

/-- What stops the epilogue of a unit. -/
def State.lateFault (s : State) (m : Mat) (u : Nat) : Option (Status × Nat) :=
  let fn := s.itemFunction m.t.id
  (atPlace u .landing (s.readFault fn true (m.lateReads u ++ m.slotReads u ++ m.priorReads u))).orElse fun _ =>
    atPlace u .store (s.readFault fn false [m.tileWrite u])

/-- What stops the loads of a pass that are left, and what stops the pass, at their places. -/
def State.passStop (s : State) (m : Mat) (u k : Nat) : Option (Status × Nat) :=
  let load (x : Nat × List Read) : Option (Status × Nat) :=
    if s.partLeft m.t m.o u x.1 then (s.readFault (s.itemFunction m.t.id) true x.2).map fun st => (st, pieceAt u .load x.1) else none
  ((m.passLoads u k).findSome? load).orElse fun _ =>
    if k < s.tileBase m.t u then none else (s.passFault m u k).map fun st => (st, pieceAt u .matrix k)

/-- What stops a unit, at the place of the first piece that it stops (R144). -/
def State.matFault (s : State) (m : Mat) (u : Nat) : Option (Status × Nat) :=
  ((List.range m.sh.passes).findSome? (s.passStop m u)).orElse fun _ => s.lateFault m u

/-! ### A whole command -/

/-- Empty some slots of a loom: their granules read empty (R75, R91). -/
def State.emptySlots (s : State) (h l : Nat) (f : Slot → Bool) : State :=
  ((s.loom h l).slots.filter f).foldl (fun s x => s.markEmpty x.base x.len)
    (s.modLoom h l fun lm => { lm with slots := lm.slots.filter fun x => !f x })

/-- Take a tile off its loom, with what its unit's LOAD pieces have left there. -/
def State.dropTile (s : State) (t : Item) (u : Nat) : State :=
  (s.emptySlots t.hall (s.unitLoom t u) fun x => x.item == t.id && x.unit == u).modLoom t.hall (s.unitLoom t u) fun lm =>
    { lm with runs := lm.runs.filter fun r => !(r.item == t.id && r.unit == u) }

/-- The slices that the terms of a tile still need. -/
def Mat.tileSlices (m : Mat) (r : TileRun) : List SliceId :=
  ((m.termShafts r.unit).filter fun k => !r.termed k).flatMap (m.termSlices r.unit)

/-- A tile with the terms of all its shafts, the slices read through the bobbin cache. -/
def State.termTile (s : State) (m : Mat) (r : TileRun) : State × TileRun :=
  let ks := (m.termShafts r.unit).filter fun k => !r.termed k
  (ks.foldl (fun s k => (s.readSlices m.t (s.unitLoom m.t r.unit) (m.termSlices r.unit k)).serveShaft m r.unit k) s,
   ks.foldl (fun r k => r.withTerms k (s.shaftTerms m r.unit k)) r)

/-- Note the ladder level of a tile that has replayed: the record carries the highest over all tiles of the item (R97). -/
def State.noteReplay (s : State) (i : ItemId) (n : Nat) : State := s.modItem i fun t => { t with replay := Nat.max t.replay n }

/-- Run one unit to the end. -/
def State.matUnit (m : Mat) (u : Nat) (s : State) : State :=
  let l := s.unitLoom m.t u
  let (r, c) := s.runTile m m.fuel (s.tileNow m u)
  let s := (s.latchPasses m m.t.hall l u (m.sh.passes - 2) (Nat.min 2 m.sh.passes)).putAccums m.t.hall l r
  let (s, r) := (s.countSteps m.t.hall l c).termTile m r
  ((s.writeTile m r).dropTile m.t u).ranOn m.t.id l

/-- How the units of a matrix command run from a state on; one that lacks a slice asks for it (R120). -/
def State.matWork (s : State) (m : Mat) : UnitWork :=
  let takes (u : Nat) := s.loadsLeft m.t m.o u ++ s.passNeeds m u ++ m.lateReads u ++ m.outerPriors u
  { fault := fun s u => s.matFault m u
    ready := fun s u => (takes u).all (s.readReady m.t) && s.writeReady (m.tileWrite u) &&
      s.slicesHere m.t (s.unitLoom m.t u) (m.tileSlices (s.tileNow m u))
    run := State.matUnit m
    hold := fun u s => s.wantSlices m.t (s.unitLoom m.t u) (m.tileSlices (s.tileNow m u))
    takes := takes
    gives := fun u => [m.tileWrite u] }

/-- The tiles of an item whose stage 3 has been applied are written; no other (R118). -/
def State.writeTermed (s : State) (m : Mat) : State :=
  if !m.t.termMet then s
  else (List.range m.t.unitCount).foldl (fun s u => match s.tileOf m.t u with
    | some r => if r.finished && r.gate && m.allTermed r then ((s.writeTile m r).produce (m.tileWrite u)).dropTile m.t u else s
    | none => s) s

/-- Fail a command on its term knot (R118). -/
def State.failTerm (s : State) (m : Mat) (st : Status) : State := (s.writeTermed m).failItem m.t.id st

/-- The shared body of the matrix commands: every output tile that is left, once the term knot is met. -/
def State.matrix (o : Opcode) (t : Item) (s : State) : State :=
  let m := matOf t o
  match s.termState t with
  | .poisoned => s.failTerm m .upstream
  | .unmet => s
  | .met => State.runAll (s.matWork m) t (s.noteTerm t.id)

/-! ### The steps of a loom -/

/-- Whether unit `u` of an item still runs on hall `h`: the item is dispatched and its wait met, or it has failed and a piece of the unit
has started (R144). -/
def State.unitRuns (s : State) (h : Nat) (t : Item) (u : Nat) : Bool :=
  s.hallRuns h && t.hall == h && t.waitMet && decide (u < t.unitCount) && !t.unitsDone.contains u &&
    (t.phase == .dispatched || (s.runsOn t && s.unitStarted t.id u))

/-- The command of a MATRIX piece, when the piece may still run. -/
def State.pieceMat (s : State) (h : Nat) (p : Piece) : Option Mat :=
  match (s.item p.item).bind Item.mat with
  | none => none
  | some m => if s.unitRuns h m.t p.unit && !m.t.failures.contains p.place then some m else none

/-- The MATRIX piece a loom is running, with its command, when that still runs. -/
def State.matrixHead (s : State) (h l : Nat) : Option (Piece × Mat) :=
  match (s.selector (selKey h l .matrix)).running with
  | none => none
  | some ln => match s.lane (laneKey h l .matrix ln) with
    | [] => none
    | p :: _ => (s.pieceMat h p).map fun m => (p, m)

/-- `WARP_TILE_LOAD`: the tile of the unit's next pass comes down the row latches into the shadow registers (R68, R69, R75). -/
def State.warpLoad (s : State) (h l : Nat) (i : ItemId) (u : Nat) : State :=
  match (s.item i).bind Item.mat with
  | none => s
  | some m =>
    if s.unitRuns h m.t u && s.unitLoom m.t u == l then
      s.orCut m.t fun s =>
        let done := (s.loom h l).passOf i u
        let pass := if m.sameTile u done (s.loom h l).active then done + 1 else done
        let rd := tileRead m.o m.t m.sh u pass
        if pass ≥ m.sh.passes ∨ !s.blockHere m.t m.sh (s.loom h l) u pass rd then s
        else match s.passFault m u pass with
          | some st => s.failAt i st (pieceAt u .matrix pass)
          | none => s.modLoom h l fun lm => lm.loadTile m u pass (s.warpRows m u pass)
    else s

/-- Whether a tile's item still works on it. -/
def State.liveTile (s : State) (r : TileRun) : Bool := (s.item r.item).any s.tileLives

/-- Replace or add a tile of a loom; tiles of items that no longer run go. -/
def State.putTile (s : State) (h l : Nat) (r : TileRun) : State :=
  s.modLoom h l fun lm =>
    if lm.runs.any fun x => x.item == r.item && x.unit == r.unit then
      { lm with runs := lm.runs.map fun x => if x.item == r.item && x.unit == r.unit then r else x }
    else { lm with runs := lm.runs.filter s.liveTile ++ [r] }

/-- Whether everything is there that pass `k` of a tile needs: its own operands, and those of all passes of an interval that it opens, over
which A is formed (R75, R84). -/
def State.passReady (s : State) (m : Mat) (lm : Loom) (u k : Nat) : Bool :=
  s.passHere m.t m.o m.sh lm u k &&
    (decide (k ≠ m.lo k) || (List.range (m.hi k - k)).all fun i => s.passHere m.t m.o m.sh lm u (k + i))

/-- Whether another tile of the loom holds the next pass of a tile: its promotion is due, or an overflow of it was detected before that pass
would have started, behind those that have run since it stopped (R89, R95). -/
def State.tileHeld (s : State) (m : Mat) (lm : Loom) (r : TileRun) : Bool :=
  lm.runs.any fun x => !(x.item == r.item && x.unit == r.unit) && s.liveTile x &&
    (x.due || match (s.item x.item).bind Item.mat with
      | some w => !w.startsBefore x ((r.pass - r.base) * m.stepsOf r)
      | none => false)

/-- Whether the pass of a MATRIX piece may start, its warp tile aside. -/
def State.passMayStart (s : State) (m : Mat) (lm : Loom) (p : Piece) : Bool :=
  let r := s.tileNow m p.unit
  !s.tileHeld m lm r && m.mayStart r && p.part == r.pass && s.passReady m lm p.unit r.pass

/-- What a step sets free: the slots that no later pass of the unit reads, and the granules of the loom stores that nothing left of the
command reads, once the passes from `lo` to `hi` have been promoted without overflow (R75, R91). -/
def State.freeSlots (s : State) (m : Mat) (u lo hi : Nat) : State :=
  let spent (x : Slot) : Bool := x.item == m.t.id && x.unit == u && decide (partLast m.sh x.part < hi)
  let s := s.emptySlots m.t.hall (s.unitLoom m.t u) spent
  let left := (List.range m.t.unitCount).flatMap (s.passNeeds m)
  (m.runReads u lo (hi - lo)).foldl (fun s r => s.consumeExcept m.t left r) s

/-- A tile of a loom after a step: what the step counts is counted, and what it has promoted is free (R91). -/
def State.stepTile (s : State) (m : Mat) (h l : Nat) (r r' : TileRun) (c : Counts) : State :=
  (((s.putTile h l r').putAccums h l r').countSteps h l c).freeSlots m r.unit r.base r'.base

/-- `TILE_PASS`: the running piece's pass. The swap takes the shadow tile where it is the pass's own (R65, R69, R87). While another tile of
the loom waits for its promotion, or for a replay that had been detected, no pass starts (R95). -/
def State.tilePass (s : State) (h l : Nat) : State :=
  match s.matrixHead h l with
  | none => s
  | some (p, m) => s.orCut m.t fun s =>
    let r := s.tileNow m p.unit
    let lm := s.loom h l
    let swaps := !m.sameTile p.unit r.pass lm.active
    if !s.passMayStart m lm p || (swaps && !m.sameTile p.unit r.pass lm.shadow) then s
    else match s.passFault m p.unit r.pass with
      | some st => s.failAt m.t.id st p.place
      | none =>
        let lm := if swaps then lm.swap else lm
        let (r', c) := s.stepPass m lm.active.rows r
        ((s.modLoom h l fun _ => lm).stepTile m h l r r' c).ranOn m.t.id l

/-- The tiles of a loom that satisfy a test, with their commands, where they still run, and the first of them. -/
def State.tilesWith (s : State) (h l : Nat) (f : Mat → TileRun → Bool) : List (Mat × TileRun) :=
  (s.loom h l).runs.filterMap fun r => match (s.item r.item).bind Item.mat with
    | none => none
    | some m => if s.unitRuns h m.t r.unit && f m r then some (m, r) else none
def State.tileWith (s : State) (h l : Nat) (f : Mat → TileRun → Bool) : Option (Mat × TileRun) := (s.tilesWith h l f).head?

/-- Whether a pass of the loom is still to run that had started when the overflows were detected: the next MATRIX piece of the stream in
progress may start (R95). -/
def State.passPending (s : State) (h l : Nat) : Bool :=
  let sel := s.selector (selKey h l .matrix)
  let left (p : Piece) : Bool := match s.pieceMat h p with
    | some m => decide ((s.tileNow m p.unit).pass ≤ p.part)
    | none => false
  match (s.lane (laneKey h l .matrix (sel.running.getD sel.last))).find? left with
  | none => false
  | some p => (s.pieceMat h p).any fun m => s.passMayStart m (s.loom h l) p

/-- The passes of another tile that a replay of some shafts reruns with it: those that had started behind the overflow (R95, R97). -/
def TileRun.rerunBehind (shafts : List Nat) (r : TileRun) : Nat :=
  if !r.overflow && !r.due && !r.finished && shafts.any fun k => decide (k < r.shafts.length) then r.pass - r.base else 0

/-- The shafts of some tiles whose overflow has been detected. -/
def overflowShafts (xs : List (Mat × TileRun)) : List Nat :=
  xs.flatMap fun x => (x.2.shafts.zipIdx.filter fun y => y.1.hit.isSome).map Prod.snd

/-- One tile in a replay: the warp tiles of the rerun passes come in anew, and the record takes its level (R95, R97). -/
def State.replayTile (s : State) (h l : Nat) (x : Mat × TileRun) : State :=
  let (r', c) := s.stepReplay x.1 x.2
  ((s.latchPasses x.1 h l x.2.unit (x.2.pass - c.discarded) c.discarded).stepTile x.1 h l x.2 r' c).noteReplay x.1.t.id r'.level

/-- `REPLAY_RERUN` (R95): every tile of the loom with an overflow that counts joins one rerun, once the passes that had started have run. -/
def State.replay (s : State) (h l : Nat) : State :=
  match s.tilesWith h l fun _ r => r.overflow with
  | [] => s
  | (m, r) :: rest =>
    if s.passPending h l then s
    else s.orCut m.t fun s =>
      let joined := (m, r) :: rest
      let behind := ((s.tilesWith h l fun _ _ => true).map fun x => x.2.rerunBehind (overflowShafts joined)).sum
      (joined.foldl (fun s x => s.replayTile h l x) s).countSteps h l { Counts.zero with replays := 1, discarded := behind }

/-- `PROMOTION` (R89). -/
def State.promotion (s : State) (h l : Nat) : State :=
  match s.tileWith h l fun _ r => r.due with
  | none => s
  | some (m, r) => s.orCut m.t fun s =>
    let (r', c) := m.stepPromote r
    ((s.putTile h l r').countSteps h l c).freeSlots m r.unit r.base r'.base

/-- Whether the requests of a unit's LANDING piece have been answered. -/
def State.landingAnswered (s : State) (m : Mat) (u : Nat) : Bool := !s.ledgerBusy m.t.hall (· == .piece m.t.id u .landing 0)

/-- Whether the epilogue of a unit finds what it reads, and room for what it writes. -/
def State.lateReady (s : State) (m : Mat) (u : Nat) : Bool :=
  s.landingAnswered m u && (m.lateReads u ++ m.outerPriors u).all (s.readReady m.t) && s.writeReady (m.tileWrite u)

/-- `TILE_EPILOGUE`: once the term knot is met, a finished tile that waits for no term is written (R100, R118). A poisoned term knot fails
the item. -/
def State.tileEpilogue (s : State) (h l : Nat) : State :=
  match s.tileWith h l fun m r => r.finished && m.allTermed r with
  | none => s
  | some (m, r) => s.orCut m.t fun s =>
    match s.tileTerm m.t r.gate with
    | .poisoned => s.failTerm m .upstream
    | .unmet => s
    | .met =>
      let s := s.noteTerm m.t.id
      match s.lateFault m r.unit with
      | some f => s.failAt m.t.id f.1 f.2
      | none =>
        if s.lateReady m r.unit then
          let w := s.matWork m
          let rest := m.t.unitsOpen.filter fun u => u != r.unit
          ((((s.writeTile m r).dropTile m.t r.unit).ranOn m.t.id l).settleTokens w m.t r.unit rest).finishIf m.t.id
        else s

/-- Whether the term of one shaft of a tile is ready: the bobbin unit has read every slice of its work item, and U reads full (R120,
R121). -/
def State.termReady (s : State) (m : Mat) (h l : Nat) (r : TileRun) (k : Nat) : Bool :=
  !r.termed k && ((s.bobbin h l).work.any fun w => w.item == m.t.id && w.unit == 4 * r.unit + k && w.needs.isEmpty) &&
    (m.termReads r.unit k).all (s.readReady m.t)

/-- The first shaft of a tile whose term is ready. -/
def State.readyShaft (s : State) (m : Mat) (h l : Nat) (r : TileRun) : Option Nat := (m.termShafts r.unit).find? (s.termReady m h l r)

/-- Whether stage 3 has something to do for a tile: its term knot is poisoned, or met and the term of a shaft is ready. -/
def State.stage3Due (s : State) (h l : Nat) (m : Mat) (r : TileRun) : Bool :=
  r.finished && !m.allTermed r &&
    (s.tileTerm m.t r.gate == .poisoned || (s.tileTerm m.t r.gate == .met && (s.readyShaft m h l r).isSome))

/-- `STAGE3_TERM`: once the term knot is met, stage 3 takes the terms of a shaft that are ready; a miss for one tag holds only the rows of
that tag (R118, R120). The shaft's work item ends. A poisoned term knot fails the item. -/
def State.stage3 (s : State) (h l : Nat) : State :=
  match s.tileWith h l (s.stage3Due h l) with
  | none => s
  | some (m, r) => s.orCut m.t fun s =>
    match s.readyShaft m h l r with
    | none => s.failTerm m .upstream
    | some k =>
      if s.tileTerm m.t r.gate == .poisoned then s.failTerm m .upstream
      else
        let s := s.noteTerm m.t.id
        match s.readFault (s.itemFunction m.t.id) true (m.termReads r.unit k ++ m.slotReads r.unit) with
        | some st => s.failAt m.t.id st (pieceAt r.unit .landing 0)
        | none =>
          let s' := (s.putTile h l (r.withTerms k (s.shaftTerms m r.unit k))).serveShaft m r.unit k
          s'.modBobbin h l fun b => { b with work := b.work.filter fun w => !(w.item == m.t.id && w.unit == 4 * r.unit + k) }

/-! ### Commands -/

/-- `MATMUL` (R177). -/
def execMatmul (it : ItemId) (s : State) : Host.Outcome State Fault Refusal := .next (s.withItem it .matmul (State.matrix .matmul))
/-- `MATMUL_T` (R70, R122, R177). -/
def execMatmulT (it : ItemId) (s : State) : Host.Outcome State Fault Refusal :=
  .next (s.withItem it .matmulT (State.matrix .matmulT))
/-- `CONV` (R78–R82). -/
def execConv (it : ItemId) (s : State) : Host.Outcome State Fault Refusal := .next (s.withItem it .conv (State.matrix .conv))
/-- `MATMUL_ACC` (R100, R177). -/
def execMatmulAcc (it : ItemId) (s : State) : Host.Outcome State Fault Refusal :=
  .next (s.withItem it .matmulAcc (State.matrix .matmulAcc))
/-- `WARP_TILE_LOAD` (R68, R69). -/
def execWarpTileLoad (hall loom : Nat) (it : ItemId) (unit : Nat) (s : State) : Host.Outcome State Fault Refusal :=
  .next (s.warpLoad hall loom it unit)
/-- `TILE_PASS` (R65, R87). -/
def execTilePass (hall loom : Nat) (s : State) : Host.Outcome State Fault Refusal := .next (s.tilePass hall loom)
/-- `REPLAY_RERUN` (R95). -/
def execReplayRerun (hall loom : Nat) (s : State) : Host.Outcome State Fault Refusal := .next (s.replay hall loom)
/-- `PROMOTION` (R89). -/
def execPromotion (hall loom : Nat) (s : State) : Host.Outcome State Fault Refusal := .next (s.promotion hall loom)
/-- `TILE_EPILOGUE` (R100). -/
def execTileEpilogue (hall loom : Nat) (s : State) : Host.Outcome State Fault Refusal := .next (s.tileEpilogue hall loom)
/-- `STAGE3_TERM` (R118). -/
def execStage3Term (hall loom : Nat) (s : State) : Host.Outcome State Fault Refusal := .next (s.stage3 hall loom)

end Sys2Proof.Machine
end

