-- ==== Sys2Proof/Machine/Bobbin.lean ====
section
/-!
DEFINITION. The bobbin path (R106–R125, R184): the installing of contexts, the two adapter commands, and the work items and slices
of a loom's bobbin unit.
-/
namespace Sys2Proof.Machine

/-! ### `BOBBIN_BIND` (R110, R184) -/

/-- Whether the reserved bits of a record image are zero and its values defined (R106–R109, R184). -/
def imageOk (r : BitVec 4096) : Bool :=
  fieldNat r 46 2 == 0 && fieldNat r 52 4 == 0 && fieldNat r 60 4 == 0 && fieldNat r 176 16 == 0 &&
    ctxState r != 3 && decide (fieldNat r 50 2 < 2) &&
    (List.range 8).all (fun g => !ctxGroupValid r g || decide (ctxRule r g < 3)) &&
    (List.range 8).all fun i => slotField r i 25 1 / 2 == 0 && slotField r i 26 1 / 8 == 0 && slotField r i 27 1 == 0

/-- The halls the part was made with. -/
def State.hallsMade (s : State) : Nat := ((List.range 8).filter fun h => !s.part.hallFused.getLsbD h).length

/-- What refuses an image: level, reserved values, then quotas and slots whose group is not valid (R110, R184). -/
def State.imageCheck (s : State) (r : BitVec 4096) : Option Status :=
  if fieldNat r 56 4 > s.mod.levelAct.toNat then some .level
  else if !imageOk r then some .reservedField
  else if byteField r 24 4 > s.hallsMade * 98304 ∨ byteField r 28 4 > s.hallsMade * 1179648 ∨
      (List.range 8).any fun i => ctxSlotValid r i && !ctxGroupValid r (slotGroup r i) then some .access
  else none

/-- A statistics record as a bind leaves it: zeros, but for the t that its sums belong to (R252). -/
def Stats.cleared (v : Stats) : Stats := { Stats.zero with t := v.t }

/-- A successful bind sets the statistics of the context's groups to zeros in every selvedge (R191, R252). -/
def State.clearStats (s : State) (c : Nat) : State :=
  let clear (v : Selvedge) : Selvedge :=
    { v with stats := (v.stats.map fun x => if x.1 / 8 = c then (x.1, Stats.cleared x.2) else x).filter fun x => x.2 != Stats.zero }
  { s with selvs := (s.selvs.map fun p => (p.1, clear p.2)).filter fun p => p.2 != Selvedge.reset }

/-- `BOBBIN_BIND`: the record is installed whole, but for the use and statistics fields, and the step counter unless the
counter-load flag is set. -/
def State.bobbinBind (t : Item) (s : State) : State :=
  let c := fieldNat t.desc 128 14
  let w := t.winD 20
  let fn := s.itemFunction t.id
  match s.readFault fn true [⟨word32 t.desc 20, w, [0], 0, 512⟩] with
  | some st => s.failItem t.id st
  | none =>
    if !s.readReady t ⟨word32 t.desc 20, w, [0], 0, 512⟩ then s
    else
      let bs := s.load (s.access fn w) (winBase w) 512
      let r := BitVec.ofNat 4096 (leNat bs)
      match s.imageCheck r with
      | some st => s.failItem t.id st
      | none =>
        let put (s : State) (b n : Nat) : State := s.put 0 (s.ctxAddr c + b) ((bs.drop b).take n)
        let s := put (put (put s 0 8) 16 20) 64 448
        let s := if descFlag t.desc 2 then put s 8 8 else s
        let s := s.treadleRequest t.hall (.operand t.id) true (s.ctxAddr c) 512
        ((s.clearStats c).consume t ⟨word32 t.desc 20, w, [0], 0, 512⟩).finish t.id 512

/-! ### The adapter commands (R117, R123, R124) -/

/-- The exact stored values of a row of the window at byte `b`. -/
def State.exactRow (s : State) (t : Item) (w : Block512) (n r : Nat) : List Val :=
  (List.range n).map fun i => s.elemExact (s.access (s.itemFunction t.id) w) w i r

/-- U or dU values of one row of unit `u`: the row of X or dY reduced against A or B (R117, R123). -/
def State.adaptRow (s : State) (t : Item) (o : Opcode) (u c row : Nat) : List W32 :=
  let x := t.winD 16
  let n := winDim x 0
  let w := t.slotWin c (if o = .adaptFwd then 0 else 4)
  let f := if o = .adaptFwd then t.scale 16 else mul32 (slotScale (t.ctx c) (fieldNat t.desc 256 3)) (t.scale 16)
  let xs := (s.heldView t u 16).exactRow t x n row
  (List.range (t.rank c)).map fun j => mul32 f (reduceProducts xs (s.exactRow t w n (t.layerRow w j)))

/-- One row of U or dU written; with the accumulate flag DU adds (R123). -/
def State.putAdapt (s : State) (t : Item) (o : Opcode) (u c row : Nat) : State × Tally :=
  let new := s.adaptRow t o u c row
  let w := t.winD 48
  let prior := s.row32 (s.access (s.itemFunction t.id) w) w one32 new.length row
  s.writeRow t 48 ⟨false, false, 0⟩ row 0 (if o = .adaptBwd ∧ descFlag t.desc 5 then List.zipWith add32 prior new else new)

/-- One block of 64 positions of a gradient, all r, for one tag: the segment reduction is added in (R124). -/
def State.putGrad (s : State) (t : Item) (u : Nat) (onB : Bool) (c pos : Nat) : State × Tally :=
  let rows := tagRows t.runs c
  let big := t.winD (gradOperands onB).1
  let small := t.winD (gradOperands onB).2
  let g := t.slotWin c (if onB then 12 else 8)
  let f := if onB then mul32 (slotScale (t.ctx c) (fieldNat t.desc 256 3)) (t.scale 16) else t.scale 20
  let fn := s.itemFunction t.id
  let vB := s.heldView t u (gradOperands onB).1
  let vS := s.heldView t u (gradOperands onB).2
  let acG := s.access fn g
  let n := Nat.min 64 (winDim big 0 - pos)
  tallied (fun s j =>
    let ss := rows.map fun r => vS.elemExact (vS.access fn small) small j r
    let row := t.layerRow g j
    let xs := (List.range n).map fun i =>
      let sum := mul32 f (reduceProducts ss (rows.map fun r => vB.elemExact (vB.access fn big) big (pos + i) r))
      add32 (s.elem32 acG g one32 (pos + i) row) sum
    s.putRow acG g ⟨false, false, 0⟩ one32 row pos xs) s (List.range (t.rank c))

/-- Fetch what a unit has left to fetch into its slots. -/
def State.fetchLeft (s : State) (t : Item) (o : Opcode) (u : Nat) : State :=
  (s.partsLeft t o u).foldl (fun st x => st.addSlot t.hall (st.unitLoom t u) ⟨t.id, u, x.1, 0, 0, s.heldBytes (s.itemFunction t.id) x.2⟩) s

/-- Carry out one work unit, all its operands fetched; the rows it serves count once for each unit (R106; log 48). -/
def State.bobbinUnit (s : State) (t : Item) (o : Opcode) (u : Nat) : State :=
  let l := s.unitLoom t u
  let ended (s : State) (c n : Nat) (tl : Tally) : State :=
    ((((s.serveRows c n).countTally t.hall l tl).unitFinished t.id u tl.bytes 0).ranOn t.id l).modLoom t.hall l fun lm =>
      { lm with slots := lm.slots.filter fun x => !(x.item == t.id && x.unit == u) }
  match (t.bobbinUnits o)[u]? with
  | none => s
  | some (.rows c r0 n) =>
    let (s', tl) := tallied (fun s i => s.putAdapt t o u c (r0 + i)) s (List.range n)
    ended s' c n tl
  | some (.grad onB c pos) =>
    let (s', tl) := s.putGrad t u onB c pos
    ended s' c (tagRows t.runs c).length tl

/-! ### What one work unit reads and writes -/

/-- The phase of a work unit: DU or the tiles of `ADAPT_FWD`, then GB, then GA (R123). -/
def BobbinUnit.phase : BobbinUnit → Nat
  | .rows .. => 0
  | .grad true .. => 1
  | .grad false .. => 2

/-- What a unit takes under full tokens. The dU that the command's own phase DU writes is not among it (R123). -/
def Item.unitTakes (t : Item) (o : Opcode) (u : Nat) : List Read :=
  (t.unitReads o u).filter fun r => addrSpace (winBase r.win) == 0 && !(descFlag t.desc 2 && o == .adaptBwd && r.handle == word32 t.desc 48)

/-- What stops a unit, at the place of the piece that it stops; an accumulating DU uses its prior. -/
def State.bobbinFault (s : State) (t : Item) (o : Opcode) (u : Nat) : Option (Status × Nat) :=
  let fn := s.itemFunction t.id
  (atPlace u .load (s.readFault fn true (s.loadsLeft t o u))).orElse fun _ =>
    atPlace u .landing ((s.readFault fn true (t.unitReads o u ++ t.unitSlots o u)).orElse fun _ =>
      s.readFault fn (o == .adaptBwd && descFlag t.desc 5) (t.unitWrites o u))

/-- Whether every unit of the phases before a unit's own is done (R123). -/
def Item.phaseReached (t : Item) (o : Opcode) (u : Nat) : Bool :=
  let phase (v : Nat) : Nat := (((t.bobbinUnits o)[v]?).map BobbinUnit.phase).getD 0
  (List.range t.unitCount).all fun v => decide (phase u ≤ phase v) || t.unitsDone.contains v

/-- The context and the slices of a work item, in the order it reads them; none when the item has no such work. For a matrix
command `unit` is four times the output tile plus the shaft. -/
def sliceNeeds (t : Item) (o : Opcode) (unit : Nat) : Option (List SliceId) :=
  if matrixOp o then
    let m := matOf t o
    if decide (unit / 4 < t.unitCount) && (m.termShafts (unit / 4)).contains (unit % 4) then some (m.termSlices (unit / 4) (unit % 4))
    else none
  else match (t.bobbinUnits o)[unit]? with
    | some (.rows c _ _) => some (sliceRun t c (o == .adaptBwd) 0 ((winDim (t.winD 16) 0 + 63) / 64))
    | some (.grad ..) => some []
    | none => none

/-- The slices of a unit of an adapter command. -/
def Item.unitNeeds (t : Item) (o : Opcode) (u : Nat) : List SliceId := (sliceNeeds t o u).getD []

/-- What a unit takes under full tokens, from a state on: what is left to fetch, its operands in the loom stores, and priors outside them. -/
def State.unitTokens (s : State) (t : Item) (o : Opcode) (u : Nat) : List Read :=
  s.loadsLeft t o u ++ t.unitTakes o u ++ outsideReads (t.unitPriors o u)

/-- Whether a unit's tokens, its slices aside, stand right. -/
def State.unitReady (s : State) (t : Item) (o : Opcode) (u : Nat) (takes : List Read) : Bool :=
  takes.all (s.readReady t) && (t.unitWrites o u).all s.writeReady

/-- Put another work item into progress on a loom, when fewer than four are; its slices are requested (R120, R121). -/
def State.addWork (s : State) (t : Item) (l u : Nat) (needs : List SliceId) : State :=
  let b := s.bobbin t.hall l
  if decide (b.work.length < 4) && !(b.work.any fun w => w.item == t.id && w.unit == u) then
    (s.wantSlices t l needs).modBobbin t.hall l fun b => Bobbin.advance { b with work := b.work ++ [⟨t.id, u, needs⟩] }
  else s

/-- How the units of an adapter command run from a state on. The slices go through the bobbin cache: a unit that lacks one becomes a work item
and waits for it (R120). -/
def State.bobbinWork (s : State) (t : Item) (o : Opcode) : UnitWork :=
  { fault := fun s u => s.bobbinFault t o u
    ready := fun st u => st.unitReady t o u (s.unitTokens t o u) && st.slicesHere t (st.unitLoom t u) (t.unitNeeds o u)
    run := fun u s => ((s.readSlices t (s.unitLoom t u) (t.unitNeeds o u)).fetchLeft t o u).bobbinUnit t o u
    hold := fun u st => if st.unitReady t o u (s.unitTokens t o u) then st.addWork t (st.unitLoom t u) u (t.unitNeeds o u) else st
    takes := s.unitTokens t o
    gives := t.unitWrites o }

/-- The shared body of the two adapter commands: every unit that is left, in the fixed order. -/
def State.bobbinCommand (o : Opcode) (t : Item) (s : State) : State := State.runAll (s.bobbinWork t o) t s

/-! ### Work items and slices (R119–R121) -/

/-- End a work item. -/
def State.dropWork (s : State) (h l : Nat) (w : WorkItem) : State :=
  s.modBobbin h l fun b => { b with work := b.work.filter fun x => x != w }

/-- Carry out the adapter unit of a work item that has read its slices. -/
def State.endUnit (s : State) (h l : Nat) (t : Item) (o : Opcode) (w : WorkItem) : State :=
  if s.cutOff t then (s.dropWork h l w).failItem t.id .hallLost
  else match s.bobbinFault t o w.unit with
  | some f => (s.dropWork h l w).failAt t.id f.1 f.2
  | none =>
    let rest := t.unitsOpen.filter fun u => u != w.unit
    ((((s.dropWork h l w).fetchLeft t o w.unit).bobbinUnit t o w.unit).settleTokens (s.bobbinWork t o) t w.unit rest).finishIf t.id

/-- Adapter units whose slices have all been read are carried out and end (R121). The term of a shaft waits for stage 3. -/
def State.endWork (s : State) (h l : Nat) : State :=
  ((s.bobbin h l).work.filter fun w => w.needs.isEmpty).foldl (fun s w =>
    match s.item w.item with
    | none => s.dropWork h l w
    | some t => match t.op with
      | none => s.dropWork h l w
      | some o =>
        if !s.unitRuns h t (if matrixOp o then w.unit / 4 else w.unit) then s.dropWork h l w
        else if bobbinOp o then s.endUnit h l t o w
        else s) s

/-- Whether the loom has been given the pieces of a unit. -/
def State.given (s : State) (h l : Nat) (i : ItemId) (u : Nat) : Bool :=
  s.lanes.any fun p => p.2.any fun q => q.item == i && q.unit == u && q.hall == h && q.loom == l

/-- Whether the bobbin unit takes an adapter unit next from the loom's LANDING queue: its piece stands in the lane, and the unit of every
piece before it is done or in progress (R104, R141). -/
def State.unitNext (s : State) (h l : Nat) (t : Item) (u : Nat) : Bool :=
  let ps := s.lane (laneKey h l .landing (descLane t.desc))
  let mine (q : Piece) : Bool := q.item == t.id && q.unit == u
  let begun (q : Piece) : Bool :=
    ((s.bobbin h l).work.any fun w => w.item == q.item && w.unit == q.unit) || match s.item q.item with
      | some x => x.phase != .dispatched || x.unitsDone.contains q.unit
      | none => true
  ps.any mine && (ps.takeWhile fun q => !mine q).all begun

/-- Whether the bobbin unit may start on a work item: an adapter unit in its turn, phase and tokens, or the term of a shaft of an output
tile that the loom has been given. -/
def State.workReady (s : State) (h l : Nat) (t : Item) (o : Opcode) (unit : Nat) : Bool :=
  if matrixOp o then s.given h l t.id (unit / 4) || (s.tileOf t (unit / 4)).isSome
  else bobbinOp o && s.unitNext h l t unit && t.phaseReached o unit && s.unitReady t o unit (s.unitTokens t o unit)

/-- `BOBBIN_WORK_ITEM_START`: another work item when fewer than four are in progress (R121). -/
def State.workStart (s : State) (h l : Nat) (i : ItemId) (unit : Nat) : State :=
  match s.item i with
  | none => s
  | some t => match t.op with
    | none => s
    | some o =>
      let u := if matrixOp o then unit / 4 else unit
      let b := s.bobbin h l
      if s.unitRuns h t u && s.unitLoom t u == l && decide (b.work.length < 4) &&
          !(b.work.any fun w => w.item == i && w.unit == unit) && s.workReady h l t o unit then
        s.orCut t fun s => match sliceNeeds t o unit with
          | none => s
          | some needs => (s.addWork t l unit needs).endWork h l
      else s

/-- The slices that a unit of an item needs on its loom: of an output tile those of all its shafts. -/
def unitSlices (t : Item) (o : Opcode) (u : Nat) : List SliceId :=
  if matrixOp o then (List.range 4).flatMap fun k => (sliceNeeds t o (4 * u + k)).getD [] else (sliceNeeds t o u).getD []

/-- The slices that the units left of an item still bring, but for slice `sl` on loom `l`: those that their looms lack. -/
def State.slicesLeft (s : State) (t : Item) (o : Opcode) (l : Nat) (sl : SliceId) : List Read :=
  t.unitsOpen.flatMap fun u =>
    let k := s.unitLoom t u
    ((unitSlices t o u).filter fun x => !(k == l && x == sl) && !(s.bobbin t.hall k).has x).map t.sliceRead

/-- Request the slices of one unit that a loom has been given, once (R120). -/
def State.askUnit (s : State) (p : Piece) : State :=
  match s.item p.item with
  | none => s
  | some t => match t.op with
    | none => s
    | some o =>
      if (s.bobbin p.hall p.loom).asked.contains (p.item, p.unit) || !(matrixOp o || bobbinOp o) then s
      else (s.modBobbin p.hall p.loom fun b => { b with asked := (b.asked.filter fun x => (s.item x.1).isSome) ++ [(p.item, p.unit)] }).wantSlices
        t p.loom (unitSlices t o p.unit)

/-- Every bobbin unit works out and requests the slices of the tiles that its loom has been given: their LANDING pieces stand in a lane
(R120). -/
def State.askSlices (s : State) : State := (s.lanes.flatMap fun p => p.2.filter fun q => q.queue == .landing).foldl State.askUnit s

/-- Whether the ledger still works on a slice. -/
def State.sliceFlying (s : State) (h l : Nat) (sl : SliceId) : Bool := s.ledgerBusy h (· == .slice l sl)

/-- Request again what a work item reads next, where it was replaced before its use (R121). -/
def State.requestHeads (s : State) (h l : Nat) : State :=
  (s.bobbin h l).work.foldl (fun s w => match w.needs, s.item w.item with
    | sl :: _, some t => s.wantSlices t l [sl]
    | _, _ => s) s

/-- A slice could not be read: the item that asked for it fails, and every item of whose work it is part (R120). -/
def State.loseSlice (s : State) (h l : Nat) (sl : SliceId) (i : ItemId) (st : Status) : State :=
  let users := ((s.bobbin h l).work.filter fun w => w.needs.contains sl).map (·.item)
  (insertItem i users).foldl (fun s j => s.failItem j st)
    (s.modBobbin h l fun b => { b with work := b.work.filter fun w => !w.needs.contains sl })
where
  /-- An item together with some others, once. -/
  insertItem (i : ItemId) (l : List ItemId) : List ItemId := if l.contains i then l else i :: l

/-- What the code of the bobbin cache says of a slice as it is read: a corrected word counts, an uncorrectable one counts and is lost
(R120, R227, R228; log 52). -/
def State.cacheEcc (s : State) (h l : Nat) (ecc : Ecc) : State :=
  if ecc.bad then (s.bump (pgLoom h l) 0x29 1).event (pgLoom h l) 0
  else if ecc.fixed then (s.bump (pgLoom h l) 0x28 1).event (pgLoom h l) 1
  else s

/-- Whether the entries of a stream's buffer that a slice is read from do not read full yet (R221), or lie in a range being zeroed (R212). -/
def State.sliceWaits (s : State) (i : ItemId) (sl : SliceId) : Bool := (s.item i).any fun t => !s.readReady t (t.sliceRead sl)

/-- `BOBBIN_SLICE_FILL`: a requested slice arrives, for a work item in progress or one to come (R119–R121). An uncorrectable error fails
every item that needs it. -/
def State.sliceFill (s : State) (h l : Nat) (sl : SliceId) (ecc : Ecc) : State :=
  match (s.bobbin h l).wanted.find? fun w => w.1 == sl with
  | none => s
  | some w =>
    if s.sliceFlying h l sl || s.sliceWaits w.2 sl then s
    else
      let s := s.modBobbin h l fun b => { b with wanted := b.wanted.filter fun x => x.1 != sl }
      match s.item w.2 with
      | none => s.requestHeads h l
      | some t =>
        let s := s.cacheEcc h l ecc
        match firstFail [failIf ecc.bad .eccUncorr, failIf (s.cutOff t) .hallLost, s.readFault (s.itemFunction t.id) true [t.sliceRead sl]] with
        | some st => s.loseSlice h l sl w.2 st
        | none =>
          let s := s.consumeExcept t ((t.op.map fun o => s.slicesLeft t o l sl).getD []) (t.sliceRead sl)
          ((s.modBobbin h l fun b => (b.fill sl (sliceLines t sl)).advance).endWork h l).requestHeads h l

/-! ### Commands -/

/-- `ADAPT_FWD` (R117). -/
def execAdaptFwd (it : ItemId) (s : State) : Host.Outcome State Fault Refusal :=
  .next (s.withItem it .adaptFwd (State.bobbinCommand .adaptFwd))
/-- `ADAPT_BWD` (R123, R124). -/
def execAdaptBwd (it : ItemId) (s : State) : Host.Outcome State Fault Refusal :=
  .next (s.withItem it .adaptBwd (State.bobbinCommand .adaptBwd))
/-- `BOBBIN_BIND` (R110, R184). -/
def execBobbinBind (it : ItemId) (s : State) : Host.Outcome State Fault Refusal := .next (s.withItem it .bobbinBind State.bobbinBind)
/-- `BOBBIN_WORK_ITEM_START` (R121). -/
def execBobbinWorkItemStart (hall loom : Nat) (it : ItemId) (unit : Nat) (s : State) : Host.Outcome State Fault Refusal :=
  .next (s.workStart hall loom it unit)
/-- `BOBBIN_SLICE_FILL` (R119, R120). -/
def execBobbinSliceFill (hall loom : Nat) (slice : SliceId) (ecc : Ecc) (s : State) : Host.Outcome State Fault Refusal :=
  .next (s.sliceFill hall loom slice ecc)

end Sys2Proof.Machine
end

