-- ==== Sys2Proof/Machine/SelvedgeProg.lean ====
section
/-!
DEFINITION. Selvedge programs (R237, R364, R365): the instructions over the 64 registers of an element, the checks of a program
image, its loading, and a program run.
-/
namespace Sys2Proof.Machine

/-! ### Instructions (R365) -/

/-- The registers q0–q63 of one element, those not listed being +0. -/
abbrev Regs := Table W32

/-- A register, and a register written. -/
def Regs.q (r : Regs) (i : Nat) : W32 := Table.get 0 r (i % 64)
def Regs.put (r : Regs) (d : Nat) (v : W32) : Regs := Table.set 0 r (d % 64) v

/-- The operation of an instruction that is no REPEAT. -/
inductive SlvOp where
  | fma | add | sub | mul | div | sqrt | min | max | abs | neg | lt | sel | const | exp | ln | pow
  deriving DecidableEq, Repr

/-- Its result from its sources and its immediate. -/
def SlvOp.eval (op : SlvOp) (a b c imm : W32) : W32 :=
  match op with
  | .fma => fma32 a b c
  | .add => add32 a b
  | .sub => sub32 a b
  | .mul => mul32 a b
  | .div => div32 a b
  | .sqrt => sqrt32 a
  | .min => min32 a b
  | .max => max32 a b
  | .abs => abs32 a
  | .neg => neg32 a
  | .lt => if (dec32 a).lt (dec32 b) then one32 else zero32
  | .sel => if !(dec32 c).isZero && dec32 c != .nan then a else b
  | .const => imm
  | .exp => exp32 a
  | .ln => ln32 a
  | .pow => pow32 a b

/-- The operation of an opcode. -/
def slvOpOf : Nat → Option SlvOp
  | 0x01 => some .fma | 0x02 => some .add | 0x03 => some .sub | 0x04 => some .mul
  | 0x05 => some .div | 0x06 => some .sqrt | 0x07 => some .min | 0x08 => some .max
  | 0x09 => some .abs | 0x0A => some .neg | 0x0B => some .lt | 0x0C => some .sel
  | 0x0D => some .const | 0x0E => some .exp | 0x0F => some .ln | 0x10 => some .pow
  | _ => none

/-- The registers after one operation. -/
def Regs.step (r : Regs) (op : SlvOp) (d a b c : Nat) (imm : W32) : Regs := r.put d (op.eval (r.q a) (r.q b) (r.q c) imm)

/-- Fields of an instruction word. -/
def slvCode (w : W64) : Nat := fieldNat w 56 8
def slvImm (w : W64) : W32 := field w 0 32
def slvTimes (w : W64) : Nat := fieldNat w 16 16
def slvLength (w : W64) : Nat := fieldNat w 0 16

/-- The registers after one instruction word that is no REPEAT. -/
def Regs.word (r : Regs) (w : W64) : Regs :=
  match slvOpOf (slvCode w) with
  | some op => r.step op (fieldNat w 48 6) (fieldNat w 40 6) (fieldNat w 32 6) (fieldNat w 24 6) (slvImm w)
  | none => r

/-- `n` applications of a function. -/
def times {α : Type} (f : α → α) : Nat → α → α
  | 0, a => a
  | n + 1, a => times f n (f a)

/-- The registers after a run of instructions; a fuel of their number is enough. -/
def Regs.run : Nat → List W64 → Regs → Regs
  | 0, _, r => r
  | _, [], r => r
  | n + 1, w :: ws, r =>
    if slvCode w = 0x20 then
      let body := ws.take (slvLength w)
      Regs.run n (ws.drop (slvLength w)) (times (Regs.run n body) (slvTimes w) r)
    else Regs.run n ws (r.word w)

/-- The registers after a whole program. -/
def Regs.program (r : Regs) (ws : List W64) : Regs := r.run ws.length ws

/-! ### The checks of an image (R364, R365) -/

/-- Whether the bits an instruction's layout fixes as zero are zero. -/
def slvBitsOk (w : W64) : Bool :=
  fieldNat w 54 2 == 0 && fieldNat w 46 2 == 0 && fieldNat w 38 2 == 0 &&
    (if slvCode w = 0x0D ∨ slvCode w = 0x20 then fieldNat w 32 14 == 0 else fieldNat w 30 2 == 0 && fieldNat w 0 24 == 0)

/-- Whether a run of instructions keeps the rules, `depth` more bodies being allowed inside it. -/
def slvBlockOk : Nat → Nat → List W64 → Bool
  | 0, _, _ => false
  | _, _, [] => true
  | n + 1, depth, w :: ws =>
    slvBitsOk w &&
      (if slvCode w = 0x20 then
        decide (0 < depth) && decide (0 < slvTimes w) && decide (0 < slvLength w) && decide (slvLength w ≤ ws.length) &&
          slvBlockOk n (depth - 1) (ws.take (slvLength w)) && slvBlockOk n depth (ws.drop (slvLength w))
      else (slvOpOf (slvCode w)).isSome && slvBlockOk n depth ws)

/-- The instruction count that a header names. -/
def imageCount (bs : List Byte) : Nat := leNat (bs.take 2)

/-- Whether an image is accepted: header, count, and every instruction. -/
def slvImageOk (bs : List Byte) : Bool :=
  let n := imageCount bs
  let words := (chunksOf 8 n (bs.drop 64)).map fun b => BitVec.ofNat 64 (leNat b)
  decide (1 ≤ n ∧ n ≤ 4096) && decide (bs.length = 64 + 8 * n) && bs.getD 2 0 == 1 && decide ((bs.getD 3 0).toNat ≤ 2) &&
    ((bs.take 64).drop 4).all (· == 0) && slvBlockOk (n + 1) 4 words

/-- The instruction words of an image. -/
def imageWords (bs : List Byte) : List W64 := (chunksOf 8 (imageCount bs) (bs.drop 64)).map fun b => BitVec.ofNat 64 (leNat b)

/-! ### Loading (R237, R255) -/

/-- The bytes of the image at `SLV_PROG_SRC`, none where it does not lie within one valid region of space 1, 2 or 3. An image with a poisoned word,
for which R237 and R364 name no outcome, is refused too (DESIGN CHOICE; log 56). -/
def State.programImage (s : State) : Option (List Byte) :=
  let a := s.slvCtl.src.toNat
  let here := (addrSpace a == 1 || addrSpace a == 2 || addrSpace a == 3) && a % 64 == 0 && !s.addrAbsent a
  if here && rangeOk a 64 then
    let n := imageCount (s.mem.readBytes a 2)
    if rangeOk a (64 + 8 * n) && decide (n ≤ 4096) && !s.poisoned a (64 + 8 * n) then some (s.mem.readBytes a (64 + 8 * n)) else none
  else none

/-- Start the load that `SLV_PROG_CTL` names, or refuse it (R237); an image in an absent hall is refused by R37. -/
def State.progLoad (s : State) (index : Nat) : State :=
  let refused := s.fault (pgSelvedge 12) .access (BitVec.ofNat 32 index) 0
  if s.addrAbsent s.slvCtl.src.toNat then s.fault (pgSelvedge 12) .engineAbsent (BitVec.ofNat 32 index) 0
  else match s.programImage with
    | none => refused
    | some bs =>
      if slvImageOk bs then { s with slvCtl := { s.slvCtl with load := some (index, imageWords bs, bs.getD 3 0) } }
      else refused

/-- A write of `SLV_PROG_CTL`: the index, and a load when `LOAD` is set and none is under way. An index below 512 is outside the field's range, and
the write is refused as a whole (R346; log 28). -/
def State.progCtlWrite (s : State) (v : W32) : State :=
  if s.slvCtl.load.isSome then s
  else if fieldNat v 0 10 < 512 then s.fault (pgSelvedge 12) .access (BitVec.ofNat 32 (fieldNat v 0 10)) 0
  else
    let s := { s with slvCtl := { s.slvCtl with index := field v 0 10 } }
    if v.getLsbD 16 then s.progLoad (fieldNat v 0 10) else s

/-- The operator programs, each with its index, and its rounding choice before its words (R312). -/
def measuredPrograms (ps : Table (Option (List W64 × BitVec 8))) : List (Nat × Bool × List Byte) :=
  (ps.filter fun p => 512 ≤ p.1).filterMap fun p => p.2.map fun x => (p.1, false, x.2 :: x.1.flatMap fun w => leBytes 8 w.toNat)

/-- Every copy of a load is complete. An image that lies in a range being zeroed is read once that is done (R212). -/
def State.progLoaded (s : State) : State :=
  match s.slvCtl.load with
  | none => s
  | some (i, ws, rounding) =>
    if s.hitsZeroing s.slvCtl.src.toNat (64 + 8 * ws.length) then s else
    let progs := Table.set none s.progs i (some (ws, rounding))
    { s with progs := progs, slvCtl := { s.slvCtl with load := none }
             sec := { s.sec with measuredPrograms := measuredPrograms progs } }

/-! ### Commands -/

/-- One instruction on the registers of a selvedge. -/
def State.slvStep (s : State) (p : Nat) (op : SlvOp) (d a b c : Nat) (imm : W32) : State :=
  if s.ready && s.selvPresent p then s.modSelv p fun sv => { sv with regs := Regs.step sv.regs op d a b c imm } else s

/-- `FMA` (R365). -/
def execFma (selvedge d a b c : Nat) (s : State) : Host.Outcome State Fault Refusal := .next (s.slvStep selvedge .fma d a b c 0)
/-- `ADD` (R365). -/
def execAdd (selvedge d a b : Nat) (s : State) : Host.Outcome State Fault Refusal := .next (s.slvStep selvedge .add d a b 0 0)
/-- `SUB` (R365). -/
def execSub (selvedge d a b : Nat) (s : State) : Host.Outcome State Fault Refusal := .next (s.slvStep selvedge .sub d a b 0 0)
/-- `MUL` (R365). -/
def execMul (selvedge d a b : Nat) (s : State) : Host.Outcome State Fault Refusal := .next (s.slvStep selvedge .mul d a b 0 0)
/-- `DIV` (R365). -/
def execDiv (selvedge d a b : Nat) (s : State) : Host.Outcome State Fault Refusal := .next (s.slvStep selvedge .div d a b 0 0)
/-- `SQRT` (R365). -/
def execSqrt (selvedge d a : Nat) (s : State) : Host.Outcome State Fault Refusal := .next (s.slvStep selvedge .sqrt d a 0 0 0)
/-- `MIN` (R365). -/
def execMin (selvedge d a b : Nat) (s : State) : Host.Outcome State Fault Refusal := .next (s.slvStep selvedge .min d a b 0 0)
/-- `MAX` (R365). -/
def execMax (selvedge d a b : Nat) (s : State) : Host.Outcome State Fault Refusal := .next (s.slvStep selvedge .max d a b 0 0)
/-- `ABS` (R365). -/
def execAbs (selvedge d a : Nat) (s : State) : Host.Outcome State Fault Refusal := .next (s.slvStep selvedge .abs d a 0 0 0)
/-- `NEG` (R365). -/
def execNeg (selvedge d a : Nat) (s : State) : Host.Outcome State Fault Refusal := .next (s.slvStep selvedge .neg d a 0 0 0)
/-- `LT` (R365). -/
def execLt (selvedge d a b : Nat) (s : State) : Host.Outcome State Fault Refusal := .next (s.slvStep selvedge .lt d a b 0 0)
/-- `SEL` (R365). -/
def execSel (selvedge d a b c : Nat) (s : State) : Host.Outcome State Fault Refusal := .next (s.slvStep selvedge .sel d a b c 0)
/-- `CONST` (R365). -/
def execConst (selvedge d : Nat) (immediate : W32) (s : State) : Host.Outcome State Fault Refusal :=
  .next (s.slvStep selvedge .const d 0 0 0 immediate)
/-- `EXP` (R365). -/
def execExp (selvedge d a : Nat) (s : State) : Host.Outcome State Fault Refusal := .next (s.slvStep selvedge .exp d a 0 0 0)
/-- `LN` (R365). -/
def execLn (selvedge d a : Nat) (s : State) : Host.Outcome State Fault Refusal := .next (s.slvStep selvedge .ln d a 0 0 0)
/-- `POW` (R365). -/
def execPow (selvedge d a b : Nat) (s : State) : Host.Outcome State Fault Refusal := .next (s.slvStep selvedge .pow d a b 0 0)
/-- `REPEAT`: the body runs N times (R365). -/
def execRepeatBlock (selvedge count : Nat) (body : List W64) (s : State) : Host.Outcome State Fault Refusal :=
  .next (if s.ready && s.selvPresent selvedge then
    s.modSelv selvedge fun sv => { sv with regs := times (fun r => Regs.program r body) count sv.regs } else s)
/-- `SELVEDGE_PROG_LOAD` (R237, R255). -/
def execSelvedgeProgLoad (value : W32) (s : State) : Host.Outcome State Fault Refusal :=
  .next (if s.ready then s.progCtlWrite value else s)
/-- `SELVEDGE_PROG_LOAD_DONE` (R255). -/
def execSelvedgeProgLoadDone (s : State) : Host.Outcome State Fault Refusal := .next s.progLoaded

end Sys2Proof.Machine
end

