-- ==== Sys2Proof/Machine/Movement.lean ====
section
/-!
DEFINITION. The movement commands (R51, R170–R174): copies between stores, gallery, HBM and host, gathers and scatters, cache
prefetch, and sealed images in host memory (R316, R318).
-/
namespace Sys2Proof.Machine

/-! ### Moving bytes -/

/-- A byte with `n` of its bits from bit `lo` on taken from another byte. -/
def mergeBits (old new : Byte) (lo n : Nat) : Byte :=
  let mask : Byte := (BitVec.ofNat 8 (2 ^ n - 1)) <<< lo
  (old &&& ~~~mask) ||| (new &&& mask)

/-- Copy `n` bits from bit `lo` on of one byte. -/
def State.moveByteBits (s : State) (acS acD : Access) (src dst lo n : Nat) : State :=
  if n = 0 then s
  else s.store acD dst [mergeBits ((s.load acD dst 1).headD 0) ((s.load acS src 1).headD 0) lo n]

/-- Move `n` bits from bit `o` on of the byte at `src` to the same bits at `dst`: the rest of a first partial byte, whole bytes, then the low
bits of a last one. Poison travels with the words unless the destination lies outside the module (R230). -/
def State.moveBits (s : State) (acS acD : Access) (src dst o n : Nat) : State :=
  let lead := if o = 0 then 0 else Nat.min n (8 - o)
  let skip := if o = 0 then 0 else 1
  let whole := (n - lead) / 8
  let s1 := s.moveByteBits acS acD src dst o lead
  let s1 := if whole = 0 then s1 else s1.store acD (dst + skip) (s.load acS (src + skip) whole)
  let s1 := s1.moveByteBits acS acD (src + skip + whole) (dst + skip + whole) 0 ((n - lead) % 8)
  if s.poison.isEmpty ∨ addrSpace dst = 3 then s1
  else (List.range ((o + n + 7) / 8)).foldl (fun st i =>
    if s.poison.contains (hostKey acS.function (src + i) / 8 * 8) then st.addPoison ((dst + i) / 8 * 8) else st) s1

/-- How many elements share a block scale; 0 where there are no block scales. -/
def scaleGroup (w : Block512) : Nat := if isMx (winFormat w) then 32 else if winLayout w = 4 then 128 else 0

/-- The block scales of the blocks that begin among elements c0 to c0 + n − 1 of a row, with the row and first column each has in the
destination: source address, destination address, bytes. -/
def scaleMoves (src dst : Block512) (rS rD c0 d0 n : Nat) : List (Nat × Nat × Nat) :=
  let per := scaleGroup src
  if per = 0 then []
  else
    let j0 := (c0 + per - 1) / per
    (List.range ((c0 + n + per - 1) / per - j0)).map fun j =>
      (scaleAddr src (per * (j0 + j)) rS, scaleAddr dst (d0 + per * (j0 + j) - c0) rD, if per = 32 then 1 else 2)

/-- Elements c0 to c0 + n − 1 of row rS of one window, moved to column d0 of row rD of another, with their block scales (R51); and the bytes
that this counts. -/
def State.movePart (s : State) (fn : Nat) (src dst : Block512) (rS rD c0 d0 n : Nat) : State × Nat :=
  let acS := s.access fn src
  let acD := s.access fn dst
  let b := formatBits (winFormat src)
  let sc := scaleMoves src dst rS rD c0 d0 n
  let s := s.moveBits acS acD (rowAddr src rS + c0 * b / 8) (rowAddr dst rD + d0 * b / 8) (c0 * b % 8) (n * b)
  (sc.foldl (fun s m => s.moveBits acS acD m.1 m.2.1 0 (8 * m.2.2)) s,
    ((c0 + n) * b + 7) / 8 - (c0 * b + 7) / 8 + (sc.map fun m => m.2.2).sum)

/-- Move the segments of unit `u` of a movement in order, and note that the unit is done. -/
def State.moveUnit (s : State) (t : Item) (m : MoveRows) (u : Nat) : State :=
  let fn := s.itemFunction t.id
  let src := t.winD 16
  let (s, n) := (m.segs (winFormat src) u).foldl (fun st g =>
    let (s', n) := st.1.movePart fn src (t.winD 20) (m.src g.1) (m.dst g.1) g.2.1 g.2.1 g.2.2
    (s', st.2 + n)) (s, 0)
  s.unitFinished t.id u n 0

/-- The queues that a movement's reads and its writes stand in (R161). -/
def readQueue (o : Opcode) : Queue := if o = .storeTile ∨ o = .offload then .store else .load
def writeQueue (o : Opcode) : Queue := if o = .loadTile ∨ o = .restore then .load else .store

/-- What stops the accesses of unit `u` of a movement. -/
def State.moveFault (s : State) (o : Opcode) (t : Item) (m : MoveRows) (u : Nat) : Option (Status × Nat) :=
  let fn := s.itemFunction t.id
  (atPlace u (readQueue o) (s.readFault fn (addrSpace (winBase (t.winD 20)) == 3) (m.reads t u))).orElse fun _ =>
    atPlace u (writeQueue o) (s.readFault fn false (m.writes t u))

/-- The units of a movement that copies rows (R171). -/
def moveWork (o : Opcode) (t : Item) (m : MoveRows) : UnitWork :=
  { fault := fun s u => s.moveFault o t m u
    ready := fun s u => (m.reads t u).all (s.readReady t) && (m.writes t u).all s.writeReady
    run := fun u s => s.moveUnit t m u
    hold := fun _ s => s
    takes := fun u => if o = .storeTile && t.desc.getLsbD 312 then [] else m.reads t u
    gives := m.writes t }

/-- `LOAD_TILE`, `STORE_TILE`, `COPY`, and the plaintext forms of `OFFLOAD` and `RESTORE`: the rows of the shape, chunk by chunk. -/
def State.moveShape (o : Opcode) (t : Item) (s : State) : State := s.runAll (moveWork o t (s.movesOf t)) t

/-! ### Gather and scatter (R172) -/

/-- Add elements c0 to c0 + n − 1 of a row of a scatter into its FP32 destination; none where a prior or a source word is poisoned. -/
def State.addPart (s : State) (fn : Nat) (src dst : Block512) (rS rD c0 n : Nat) : Option State :=
  let acS := s.access fn src
  let acD := s.access fn dst
  let aS := rowAddr src rS + 4 * c0
  let aD := rowAddr dst rD + 4 * c0
  if s.poisoned (hostKey fn aD) (4 * n) || s.poisoned (hostKey fn aS) (4 * n) then none
  else
    let word (ac : Access) (a i : Nat) : W32 := BitVec.ofNat 32 (leNat (s.load ac (a + 4 * i) 4))
    some (s.store acD aD ((List.range n).flatMap fun i => leBytes 4 (add32 (word acD aD i) (word acS aS i)).toNat))

/-- The segments of an adding scatter in ascending order, with the bytes added; it stops at the first poisoned word (R172). -/
def State.addParts (s : State) (fn : Nat) (src dst : Block512) (m : MoveRows) : List (Nat × Nat × Nat) → Nat → State × Nat × Bool
  | [], n => (s, n, true)
  | g :: gs, n => match s.addPart fn src dst (m.src g.1) (m.dst g.1) g.2.1 g.2.2 with
    | none => (s, n, false)
    | some s' => s'.addParts fn src dst m gs (n + 4 * g.2.2)

/-- Unit `u` of an adding scatter: rows added before a poisoned word stay. -/
def State.addUnit (s : State) (t : Item) (m : MoveRows) (u : Nat) : State :=
  let (s, n, ok) := s.addParts (s.itemFunction t.id) (t.winD 16) (t.winD 20) m (m.segs (winFormat (t.winD 16)) u) 0
  if ok then s.unitFinished t.id u n 0
  else (s.modItem t.id fun t => { t with bytes := t.bytes + n }).failAt t.id .eccUncorr (pieceAt u .store 0)

/-- The units of an adding scatter, which reads its destination as well. -/
def scatterAddWork (t : Item) (m : MoveRows) : UnitWork := { moveWork .scatter t m with run := fun u s => s.addUnit t m u }

/-- `GATHER` and `SCATTER`: the whole index list is read before anything moves. -/
def State.indexed (o : Opcode) (t : Item) (s : State) : State :=
  match s.readFault (s.itemFunction t.id) true (t.reads [40]) with
  | some st => s.failItem t.id st
  | none =>
    if (s.itemIndices t).any fun i => decide (i ≥ winDim (t.winD (if o = .gather then 16 else 20)) 1) then s.failItem t.id .lengthBound
    else s.runAll (if o = .scatter && t.desc.getLsbD 313 then scatterAddWork t (s.movesOf t) else moveWork o t (s.movesOf t)) t

/-! ### Prefetch (R173) -/

/-- The stack lines a region touches, ascending. -/
def linesOf (spans : List (Nat × Nat)) : List Nat :=
  spans.foldl (fun acc p => (splitSpan p.1 p.2).foldl (fun acc q => insertNat acc (q.1 / 4096)) acc) []

/-- Prefetch one line: a hit is left as it is, a line with a poisoned word stays unfilled and is counted, another is filled or
declined. -/
def State.prefetchLine (s : State) (w : Block512) (slot : Option Nat) (line : Nat) : State :=
  let a := line * 4096
  let h := addrHall a
  match cacheHit (s.cache h) (cacheLineIndex (addrOffset a)) slot with
  | some c => s.touchLine h c
  | none =>
    if s.poisoned a 4096 then s.bump (pgGallery h) 0x27 1
    else (s.bump (pgGallery h) 0x23 1).fillLine h (addrOffset a) (winOwner w) (winHint w) slot

/-- The lines that a `PREFETCH` fills: those that its region touches and that its requests have not taken yet. -/
def State.prefetchLines (s : State) (t : Item) : List Nat :=
  let w := t.winD 16
  let m := s.movesOf t
  let rows := (List.range m.rows).map m.src
  let all := linesOf (blockSpans w rows 0 m.s0)
  if s.hallHere (addrHall (winBase w)) then all.filter fun l => !t.linesDone.contains l else []

/-- `PREFETCH`: every line that is left is filled, found or declined; it never faults, and its bytes moved is 0. -/
def State.prefetch (t : Item) (s : State) : State :=
  let w := t.winD 16
  let slot := if winOwner w = operatorOwner then none else some (s.keySlotOf (winOwner w))
  ((s.prefetchLines t).foldl (fun s l => (s.prefetchLine w slot l).takeLine t.id l) s).finish t.id 0

/-! ### Closing a window (R187, R189) -/

/-- Every `RECV` that waits on a window fails when it closes. -/
def State.failReceivers (s : State) (key : Nat) : State :=
  (s.items.filter fun t => t.phase == .external && t.op == some .recv && handleKey (word32 t.desc 16) == key).foldl
    (fun s t => s.failItem t.id .windowClosed) s

/-- Close a window: the open bit clears and the generation increments (R39, R189). -/
def State.closeWindow (s : State) (key : Nat) : State :=
  let w := s.window key
  (s.setWindow key (winSetGen (winSetOpen w false) (winGen w + 1))).failReceivers key

/-! ### Sealed images (R174, R316, R318) -/

/-- The key of context `c` that host images are sealed under. -/
def State.hostImageKey (s : State) (c : Nat) : Option (List Byte) :=
  match s.dataKey (s.keySlotOf c), s.sec.keys.find? fun p => p.1 == s.keySlotOf c with
  | some k, some (_, slot) => some (kdf k labelHost (beBytes 2 c ++ beBytes 8 slot.nonce.toNat) 256)
  | _, _ => none

/-- The IV and the additional data of chunk `i` of a host image. -/
def imageIv (hd gen : W32) (i : Nat) : List Byte :=
  beBytes 1 (handleHall hd) ++ beBytes 2 (fieldNat hd 0 16) ++ [0] ++ beBytes 4 gen.toNat ++ beBytes 4 i
def imageAad (c len : Nat) : List Byte := beBytes 2 c ++ beBytes 4 len

/-- The rows of a module window that a shape takes. -/
def shapeRowsOf (w : Block512) (sh : List Nat) : List Nat := (List.range (shapeRows sh)).map (shapeRowIndex w sh)

/-- The bytes of a module window's shape in the order in which they travel, as addresses and lengths: row by row, the packed elements and then
their scales. -/
def travelSpans (w : Block512) (sh : List Nat) : List (Nat × Nat) :=
  (shapeRowsOf w sh).flatMap fun r => rowSpans w r 0 (sh.headD 0)

/-- All that a shape takes of a window, as a read. -/
def shapeRead (h : W32) (w : Block512) (sh : List Nat) : Read := ⟨h, w, shapeRowsOf w sh, 0, sh.headD 0⟩

/-- The plaintext of a module window's shape. -/
def State.plaintext (s : State) (fn : Nat) (w : Block512) (sh : List Nat) : List Byte :=
  (travelSpans w sh).flatMap fun p => s.load (s.access fn w) p.1 p.2

/-- Bytes at addresses joined into runs of consecutive addresses, each one write. -/
def joinRuns : List (Nat × Byte) → List (Nat × List Byte)
  | [] => []
  | (a, b) :: t => match joinRuns t with
    | (a', bs) :: r => if a + 1 = a' then (a, b :: bs) :: r else (a, [b]) :: (a', bs) :: r
    | [] => [(a, [b])]

/-- Write plaintext bytes into a module window's shape from byte position `pos` of that order. -/
def State.putPlaintext (s : State) (fn : Nat) (w : Block512) (sh : List Nat) (pos : Nat) (bs : List Byte) : State :=
  let places := (travelSpans w sh).flatMap fun p => (List.range p.2).map (p.1 + ·)
  (joinRuns ((places.drop pos).zip bs)).foldl (fun s p => s.store (s.access fn w) p.1 p.2) s

/-- The chunks of a byte string, 64 KiB each. -/
def chunks64 (bs : List Byte) : List (List Byte) := chunksOf 65536 ((bs.length + 65535) / 65536) bs

/-- What a sealed `OFFLOAD` does once its host window is closed: each chunk is sealed and written with its tag behind it. -/
def State.sealImage (s : State) (t : Item) (rd : Read) : State :=
  let fn := s.itemFunction t.id
  let src := t.winD 16
  let hd := word32 t.desc 20
  match s.hostImageKey (winOwner src) with
  | none => s.failItem t.id .key
  | some k =>
    let gen := winGen (s.window (handleKey hd))
    let image := ((chunks64 (s.plaintext fn src (shapeOf t.desc))).zipIdx.map fun p =>
      gcmSeal k (imageIv hd gen p.2) (imageAad (winOwner src) p.1.length) p.1).flatten
    ((s.store ⟨none, none, fn⟩ (winBase (t.winD 20)) image).consume t rd).finish t.id image.length

/-- A sealed `OFFLOAD`: first the host window closes, whatever becomes of the command then, but that a generation at its end fails it with nothing
changed (R318). It waits for the tokens of what it reads before it begins. -/
def State.offloadSealed (t : Item) (s : State) : State :=
  let fn := s.itemFunction t.id
  let key := handleKey (word32 t.desc 20)
  let rd := shapeRead (word32 t.desc 16) (t.winD 16) (shapeOf t.desc)
  let stop := (s.readFault fn true [rd]).orElse fun _ => s.accessFault fn (t.winD 20) []
  if stop.isNone && !s.readReady t rd then s
  else if winGen (s.window key) = 0xFFFFFFFF then s.failItem t.id .key
  else match stop with
    | some st => (s.closeWindow key).failItem t.id st
    | none => (s.closeWindow key).sealImage t rd

/-- The sealed chunks of an image of `n` plaintext bytes, with the plaintext length of each. -/
def imageChunks (n : Nat) (image : List Byte) : List (List Byte × Nat) :=
  (chunksOf 65552 ((n + 65535) / 65536) image).zipIdx.map fun p => (p.1, Nat.min 65536 (n - 65536 * p.2))

/-- Verify and write the chunks of an image in order, up to the first that fails. -/
def State.restoreChunks (s : State) (fn : Nat) (w : Block512) (sh : List Nat) (key : List Byte) (hd gen : W32) :
    List (List Byte × Nat) → Nat → State × Nat × Bool
  | [], i => (s, 65536 * i, true)
  | (c, len) :: cs, i => match gcmOpen key (imageIv hd gen i) (imageAad (winOwner w) len) c with
    | none => (s, 65536 * i, false)
    | some plain => (s.putPlaintext fn w sh (65536 * i) plain).restoreChunks fn w sh key hd gen cs (i + 1)

/-- A sealed `RESTORE`: each chunk is verified before it is written (R174). -/
def State.restoreSealed (t : Item) (s : State) : State :=
  let fn := s.itemFunction t.id
  let host := t.winD 16
  let dst := t.winD 20
  let sh := shapeOf t.desc
  let n := shapeBytes (winFormat dst) sh
  match (s.accessFault fn host []).orElse fun _ => s.readFault fn false [shapeRead (word32 t.desc 20) dst sh] with
  | some st => s.failItem t.id st
  | none => match s.hostImageKey (winOwner dst) with
    | none => s.failItem t.id .key
    | some k =>
      let image := s.load ⟨none, none, fn⟩ (winBase host) (sealedBytes n)
      let (s, done, ok) := s.restoreChunks fn dst sh k (word32 t.desc 16) (winGen host) (imageChunks n image) 0
      let s := s.modItem t.id fun t => { t with bytes := t.bytes + Nat.min n done }
      if ok then s.finish t.id 0 else s.failItem t.id .key

/-! ### Commands -/

/-- `LOAD_TILE` (R170, R171). -/
def execLoadTile (it : ItemId) (s : State) : Host.Outcome State Fault Refusal :=
  .next (s.withItem it .loadTile (State.moveShape .loadTile))
/-- `STORE_TILE` (R170, R171). -/
def execStoreTile (it : ItemId) (s : State) : Host.Outcome State Fault Refusal :=
  .next (s.withItem it .storeTile (State.moveShape .storeTile))
/-- `COPY` (R170, R171). -/
def execCopy (it : ItemId) (s : State) : Host.Outcome State Fault Refusal := .next (s.withItem it .copy (State.moveShape .copy))
/-- `GATHER` (R172). -/
def execGather (it : ItemId) (s : State) : Host.Outcome State Fault Refusal := .next (s.withItem it .gather (State.indexed .gather))
/-- `SCATTER` (R172). -/
def execScatter (it : ItemId) (s : State) : Host.Outcome State Fault Refusal :=
  .next (s.withItem it .scatter (State.indexed .scatter))
/-- `PREFETCH` (R173). -/
def execPrefetch (it : ItemId) (s : State) : Host.Outcome State Fault Refusal := .next (s.withItem it .prefetch State.prefetch)
/-- `OFFLOAD` (R174, R318). -/
def execOffload (it : ItemId) (s : State) : Host.Outcome State Fault Refusal :=
  .next (s.withItem it .offload fun t s =>
    if sealedMove .offload (t.winD 16) (t.winD 20) then s.offloadSealed t else State.moveShape .offload t s)
/-- `RESTORE` (R174, R318). -/
def execRestore (it : ItemId) (s : State) : Host.Outcome State Fault Refusal :=
  .next (s.withItem it .restore fun t s =>
    if sealedMove .restore (t.winD 16) (t.winD 20) then s.restoreSealed t else State.moveShape .restore t s)

end Sys2Proof.Machine
end

