-- ==== Sys2Proof/Machine/Streams.lean ====
section
/-!
DEFINITION. Streams (R175, R218–R224): armings, the arbiter's grants by deadline, transfers into a buffer's entries, and the limit on
an entry that stays full.
-/
namespace Sys2Proof.Machine

/-! ### Chunks and entries (R220) -/

/-- The bytes of an entry, the chunks of the source, and the transfers of an arming. -/
def Arming.entryBytes (a : Arming) : Nat := rowBytes (winFormat a.dstWin) (winDim a.dstWin 0)
def Arming.chunks (a : Arming) : Nat := (winCount a.srcWin + winDim a.dstWin 0 - 1) / Nat.max 1 (winDim a.dstWin 0)
def Arming.transfers (a : Arming) : Nat := a.chunks * a.passes.toNat

/-- The entry that transfer `i` writes. -/
def Arming.entry (a : Arming) (i : Nat) : Nat := i % Nat.max 1 (winDim a.dstWin 1)

/-- The parts of source rows that transfer `i` reads: row, first element, count. -/
def Arming.parts (a : Arming) (i : Nat) : List (Nat × Nat × Nat) :=
  let e := winDim a.dstWin 0
  let c := i % Nat.max 1 a.chunks
  segments (winDim a.srcWin 0) (c * e) (Nat.min (winCount a.srcWin) ((c + 1) * e))

/-- The parts with the entry's column each starts at. -/
def placeParts : Nat → List (Nat × Nat × Nat) → List ((Nat × Nat × Nat) × Nat)
  | _, [] => []
  | at_, p :: ps => (p, at_) :: placeParts (at_ + p.2.2) ps

/-- The bytes of an entry of a buffer: its elements, and their block scales in an MX format. -/
def Arming.entryParts (a : Arming) (e : Nat) : List (Nat × Nat) := rowSpans a.dstWin e 0 (winDim a.dstWin 0)

/-- Whether an entry of a buffer reads full, and whether it reads empty: every granule of it, those of its block scales among them (R203,
R220). -/
def State.entryFull (s : State) (a : Arming) (e : Nat) : Bool :=
  if addrSpace (winBase a.dstWin) = 0 then (a.entryParts e).all fun p => s.allFull p.1 p.2 else a.full.contains e
def State.entryEmpty (s : State) (a : Arming) (e : Nat) : Bool :=
  if addrSpace (winBase a.dstWin) = 0 then (a.entryParts e).all fun p => s.allEmpty p.1 p.2 else !a.full.contains e

/-! ### Armings (R175, R218, R224) -/

/-- The arming of a `STREAM_ARM` item. -/
def armingOf (t : Item) (gen : BitVec 16) : Arming :=
  { item := t.id, src := word32 t.desc 20, dst := word32 t.desc 24, srcWin := t.winD 20, dstWin := t.winD 24
    rate := word32 t.desc 28, passes := word32 t.desc 32, gen := gen, granted := 0, completed := 0, full := [], flying := [] }

/-- `STREAM_ARM`: active, pending, or refused with `ST_REARM_OVERRUN`. -/
def State.streamArm (t : Item) (s : State) : State :=
  let d := fieldNat t.desc 128 12
  let st := s.stream t.hall d
  if st.pending.isSome then (s.bump (pgStream t.hall) 0x23 1).failItem t.id .rearmOverrun
  else
    let gen := st.gen + 1
    let a := armingOf t gen
    let s := s.modItem t.id fun t => { t with phase := .external }
    let s := if st.active.isSome then s.bump (pgStream t.hall) 0x22 1 else s
    s.modStream t.hall d fun st =>
      let st := { st with gen := gen, owner := some (s.itemOwner t.id) }
      if st.active.isSome then { st with pending := some a }
      else { st with active := some a, since := 0, passed := 0, agedAt := none }

/-! ### Grants (R222) -/

/-- Whether a descriptor is eligible: its next entry reads empty and no transfer is under way into it. -/
def State.eligible (s : State) (st : Stream) : Bool :=
  match st.active with
  | none => false
  | some a =>
    let e := a.entry a.granted
    decide (a.granted < a.transfers) && s.entryEmpty a e && !(a.flying.any fun i => a.entry i == e)

/-- The level of an arming: bytes of the entries that are full or granted and still in transfer. -/
def State.level (s : State) (a : Arming) : Nat :=
  (((List.range (winDim a.dstWin 1)).filter fun e => s.entryFull a e || a.flying.any fun i => a.entry i == e).length) * a.entryBytes

/-- The time-to-empty in steps. -/
def State.timeToEmpty (s : State) (a : Arming) : Nat := s.level a * 1024 / Nat.max 1 a.rate.toNat

/-- What the arbiter compares: descriptor, state and time-to-empty. -/
structure Candidate where
  d : Nat
  st : Stream
  tte : Nat

/-- The order of R222. -/
def candidateBefore (x y : Candidate) : Bool :=
  match x.st.agedAt, y.st.agedAt with
  | some a, some b => decide (a < b) || (a == b && decide (x.d < y.d))
  | some _, none => true
  | none, some _ => false
  | none, none =>
    decide (x.tte < y.tte) || (x.tte == y.tte &&
      (decide (x.st.since < y.st.since) || (x.st.since == y.st.since && decide (x.d < y.d))))

/-- A descriptor that was eligible and passed over at grant `n`: at the eighth it becomes aged. -/
def Stream.passedOver (n : Nat) (st : Stream) : Stream :=
  { st with passed := st.passed + 1
            agedAt := if st.agedAt.isNone && decide (st.passed + 1 ≥ 8) then some n else st.agedAt }

/-- A descriptor as seen at grant `n`: since when it has been eligible. -/
def Stream.seen (n : Nat) (eligible : Bool) (st : Stream) : Stream :=
  if !eligible then { st with since := 0, passed := 0 } else if st.since = 0 then { st with since := n } else st

/-- What a transfer reads of its source, and what it writes of its buffer: addresses and lengths. -/
def Arming.sourceSpans (a : Arming) (i : Nat) : List (Nat × Nat) := (a.parts i).flatMap fun p => rowSpans a.srcWin p.1 p.2.1 p.2.2
def Arming.entrySpans (a : Arming) (i : Nat) : List (Nat × Nat) :=
  (placeParts 0 (a.parts i)).flatMap fun p => rowSpans a.dstWin (a.entry i) p.2 p.1.2.2

/-- Put the requests of a transfer into the hall's ledger: its reads, and its writes of a gallery buffer (R214). -/
def State.requestTransfer (s : State) (h d : Nat) (tte : Nat) (a : Arming) (i : Nat) : State :=
  (s.request h (.stream d i) (some tte) (some a.srcWin) (ledgerSpans false (a.sourceSpans i))).request h (.stream d i) (some tte)
    (some a.dstWin) (ledgerSpans true (a.entrySpans i))

/-- `STREAM_GRANT`: one transfer starts. An uncorrectable error in the state of its descriptor fails the arming (R227, R228, R230; log 52). -/
def State.streamGrant (s : State) (h : Nat) (stateEcc : Ecc) : State :=
  if !s.hallUp h then s
  else
    let n := (s.hall h).grants + 1
    let mine := s.streams.filter fun p => p.1 / 4096 == h
    let s := mine.foldl (fun s p => s.modStream h (p.1 % 4096) (Stream.seen n (s.eligible p.2))) s
    let cands := (mine.filter fun p => s.eligible p.2).map fun p =>
      (⟨p.1 % 4096, s.stream h (p.1 % 4096), (p.2.active.map s.timeToEmpty).getD 0⟩ : Candidate)
    match pickBest candidateBefore cands with
    | none => s
    | some c => match c.st.active with
      | none => s
      | some a =>
        if stateEcc.bad then s.failItem a.item .eccUncorr else
        let s := s.modHall h fun hl => { hl with grants := n }
        let s := (cands.filter fun x => x.d != c.d).foldl (fun s x => s.modStream h x.d (Stream.passedOver n)) s
        let s := (s.bump (pgStream h) 0x20 1).bump (pgStream h) 0x21 (if c.st.agedAt.isSome then 1 else 0)
        let s := s.modStream h c.d fun st =>
          { st with passed := 0, agedAt := none
                    active := some { a with granted := a.granted + 1, flying := a.flying ++ [a.granted] } }
        s.requestTransfer h c.d c.tte a a.granted

/-! ### Transfers (R220, R223) -/

/-- Mark an entry full. -/
def State.fillEntry (s : State) (h d : Nat) (a : Arming) (e : Nat) : State :=
  if addrSpace (winBase a.dstWin) = 0 then (a.entryParts e).foldl (fun s p => s.markFull p.1 p.2) s
  else s.modStream h d fun st => { st with active := st.active.map fun a => { a with full := insertNat a.full e } }

/-- The status of a failing host completion (R301). -/
def answerStatus : HostAnswer → Option Status
  | .success => none
  | .unsupportedRequest | .completerAbort => some .access
  | .poisoned => some .eccUncorr

/-- What stops transfer `i` when it completes. -/
def State.transferFault (s : State) (a : Arming) (i : Nat) (answer : HostAnswer) : Option Status :=
  let fn := s.itemFunction a.item
  let host := if addrSpace (winBase a.srcWin) = 3 then answerStatus answer else none
  (s.accessFault fn a.srcWin (a.sourceSpans i)).orElse fun _ => (s.accessFault fn a.dstWin (a.entrySpans i)).orElse fun _ => host

/-- Whether a transfer touches a range that is being zeroed, and so waits (R212). -/
def State.transferHeld (s : State) (a : Arming) (i : Nat) : Bool :=
  (a.sourceSpans i ++ a.entrySpans i).any fun p => s.hitsZeroing p.1 p.2

/-- What stops a transfer for want of a route (R28). -/
def State.transferCut (s : State) (a : Arming) : Option Status :=
  (s.item a.item).bind fun t => failIf (s.cutOff t) .hallLost

/-- `STREAM_TRANSFER_COMPLETE`: the oldest transfer under way whose data has come writes its entry. -/
def State.streamComplete (s : State) (h d : Nat) (answer : HostAnswer) : State :=
  match (s.stream h d).active with
  | none => s
  | some a => match a.flying with
    | [] => s
    | i :: rest =>
      if !s.transferDone h d i || s.transferHeld a i then s
      else match (s.transferCut a).orElse fun _ => s.transferFault a i answer with
        | some st => s.failItem a.item st
        | none =>
          let e := a.entry i
          let fn := s.itemFunction a.item
          let (s, n) := (placeParts 0 (a.parts i)).foldl (fun st p =>
            let (s', n) := st.1.movePart fn a.srcWin a.dstWin p.1.1 e p.1.2.1 p.2 p.1.2.2
            (s', st.2 + n)) (s, 0)
          let s := s.modItem a.item fun t => { t with bytes := t.bytes + n }
          let s := s.modStream h d fun st =>
            { st with active := some { a with flying := rest, completed := a.completed + 1 } }
          let s := s.fillEntry h d a e
          if a.completed + 1 = a.transfers then (s.finish a.item 0).dropArmings a.item else s

/-- `STREAM_STARVED`: the next entry has stayed full for the LOAD limit of the hall (R224). -/
def State.streamStarved (s : State) (h d : Nat) : State :=
  match (s.stream h d).active with
  | none => s
  | some a =>
    if s.hallRuns h && decide (a.granted < a.transfers) && !s.entryEmpty a (a.entry a.granted) then
      s.failItem a.item .starved
    else s

/-! ### Commands -/

/-- `STREAM_ARM` (R175, R218). -/
def execStreamArm (it : ItemId) (s : State) : Host.Outcome State Fault Refusal := .next (s.withItem it .streamArm State.streamArm)
/-- `STREAM_GRANT` (R222, R227). -/
def execStreamGrant (hall : Nat) (s : State) (stateEcc : Ecc := .clean) : Host.Outcome State Fault Refusal :=
  .next (s.streamGrant hall stateEcc)
/-- `STREAM_TRANSFER_COMPLETE` (R220, R223). -/
def execStreamTransferComplete (hall descriptor : Nat) (answer : HostAnswer) (s : State) : Host.Outcome State Fault Refusal :=
  .next (s.streamComplete hall descriptor answer)
/-- `STREAM_STARVED` (R224). -/
def execStreamStarved (hall descriptor : Nat) (s : State) : Host.Outcome State Fault Refusal :=
  .next (s.streamStarved hall descriptor)

end Sys2Proof.Machine
end

