-- ==== Sys2Proof/Machine/Selvedge.lean ====
section
/-!
DEFINITION. The selvedges (R233–R257): KM8, the standard and the preconditioned rule, step counters, statistics, updates block by
block, and the two selvedge commands.
-/
namespace Sys2Proof.Machine

/-! ### KM8 (R241–R243) -/

/-- The scale s of a KM8 block from its FP16 field. -/
def km8Scale (f : Nat) : Val :=
  match fmtFP16.decode f with
  | .fin n m e => .fin n m (e - 16)
  | v => v

/-- The signed q of a first-moment code. -/
def km8Code (c : Nat) : Val := Val.ofInt (if c < 128 then (c : Int) else (c : Int) - 256)

/-- A decoded first moment, and a decoded second moment. -/
def km8First (f c : Nat) : W32 := rne32 ((km8Code c).mul (km8Scale f))
def km8Second (f c : Nat) : W32 :=
  let r := (Val.ofInt c).mul (km8Scale f)
  rne32 (r.mul r)

/-- The FP16 code of num / den × 2^e rounded towards +∞, at most 65,504 (R243). -/
def fp16Ceil (num den : Nat) (e : Int) : Nat :=
  if num = 0 then 0
  else
    let top := floorLog2 num den + e
    let q := if top - 10 ≥ -24 then top - 10 else -24
    let sh := e - q
    let (n, d) := if sh ≥ 0 then (num <<< sh.toNat, den) else (num, den <<< (-sh).toNat)
    (convertMag fmtFP16 .nearest true false ((n + d - 1) / d) 1 q).1

/-- The magnitude of a finite value, as a significand and an exponent. -/
def Val.magnitude : Val → Nat × Int
  | .fin _ m e => (m, e)
  | _ => (0, 0)

/-- One value of a block divided by its scale, rounded to even and clamped to its codes; and whether it falls beyond Q times the scale, which
counts (R243). -/
def km8Encode (f : Nat) (lo hi : Int) (x : W32) : Nat × Bool :=
  let q : Int := match dec32 x, km8Scale f with
    | .fin n m e, .fin _ ms es => if ms = 0 then 0 else
        let sh := e - es
        signedSig n (if sh ≥ 0 then roundQuot .nearest (m <<< sh.toNat) ms else roundQuot .nearest m (ms <<< (-sh).toNat))
    | .inf n, _ => if n then lo - 1 else hi + 1
    | _, _ => 0
  let c := if q < lo then lo else if q > hi then hi else q
  ((c % 256).toNat, ((Val.ofInt hi).mul (km8Scale f)).lt (dec32 x).abs)

/-- A whole block: the field f, the codes, and what it counts. The values are first moments, or √v for the second (R243). -/
def km8Block (second : Bool) (xs : List W32) : Nat × List Nat × Nat × Nat :=
  let lo : Int := if second then 0 else -127
  let hi : Int := if second then 255 else 127
  let q := if second then 255 else 127
  if xs.any fun x => dec32 x == .nan then (0x7E00, xs.map fun _ => 0, 0, xs.length)
  else
    let a := (xs.map fun x => (dec32 x).abs).foldl maxMag (.fin false 0 0)
    if a.isZero then (0, xs.map fun _ => 0, 0, 0)
    else
      let f := match a with
        | .fin _ m e => fp16Ceil m q (e + 16)
        | _ => 0x7BFF
      let cs := xs.map (km8Encode f lo hi)
      (f, cs.map (·.1), (cs.filter (·.2)).length, 0)

/-! ### Elements in a window's linear order (R57, R238) -/

/-- The spans of `n` elements from linear index `e` of a window. -/
def linearSpans (w : Block512) (e n : Nat) : List (Nat × Nat) :=
  (segments (winDim w 0) e (e + n)).map fun p => elemSpan (winFormat w) (rowAddr w p.1) p.2.1 p.2.2

/-- The code of the element at linear index `e`, and writing one. -/
def State.codeLinear (s : State) (ac : Access) (w : Block512) (e : Nat) : Nat :=
  s.codeAt ac (winFormat w) (rowAddr w (e / Nat.max 1 (winDim w 0))) (e % Nat.max 1 (winDim w 0))
def State.putLinear (s : State) (ac : Access) (w : Block512) (e code : Nat) : State :=
  s.putCode ac (winFormat w) (rowAddr w (e / Nat.max 1 (winDim w 0))) (e % Nat.max 1 (winDim w 0)) code

/-- The address of the KM8 block scale of the element at linear index `e`. -/
def km8Addr (w : Block512) (e : Nat) : Nat := scaleAddr w (e % Nat.max 1 (winDim w 0)) (e / Nat.max 1 (winDim w 0))

/-! ### The windows of an update -/

/-- The record whose slots an update uses: the one that its command's expansion read (R110). -/
def State.slotRecord (s : State) (u : Update) : BitVec 4096 :=
  match s.item u.item with
  | some t => t.ctx u.context
  | none => s.ctx u.context

/-- The window at byte `b` of an update's slot, as its command was expanded. -/
def State.slotOf (s : State) (u : Update) (b : Nat) : Block512 :=
  match s.item u.item with
  | some t => t.handleWin (slotHandle (s.slotRecord u) u.slot b)
  | none => s.winOf (slotHandle (s.slotRecord u) u.slot b)

/-- The adapter window that an update changes, the other factor's, the gradient window of the first, and the two moment windows. -/
def State.adapterOf (s : State) (u : Update) : Block512 := s.slotOf u (if u.onB then 4 else 0)
def State.otherOf (s : State) (u : Update) : Block512 := s.slotOf u (if u.onB then 0 else 4)
def State.gradOf (s : State) (u : Update) : Block512 := s.slotOf u (if u.onB then 12 else 8)
def State.momentOf (s : State) (u : Update) (second : Bool) : Block512 := s.slotOf u (if second then 20 else 16)

/-- The moment element of gradient element `e` (R238). -/
def State.momentIndex (s : State) (u : Update) (e : Nat) : Nat :=
  if u.onB then 128 * ((winCount (s.slotOf u 0) + 127) / 128) + e else e

/-- The update group that an update's slot names (R110). -/
def State.updGroup (s : State) (u : Update) : Nat := slotGroup (s.slotRecord u) u.slot

/-! ### The standard rule (R244) -/

/-- The division by the global batch. -/
def invBatch (b : W32) : W32 := if b = 0 then one32 else rneQ false 1 b.toNat 0

/-- β^t, correctly rounded, for the 64-bit step number. -/
def betaPower (beta : W32) (t : W64) : W32 := powVal (dec32 beta) (Val.ofInt t.toNat)

/-- The values of a group, in the order of R109. -/
structure GroupValues where
  lr : W32
  b1 : W32
  b2 : W32
  eps : W32
  wd : W32
  clip : W32

/-- The values of group `g` of a record. -/
def groupOf (r : BitVec 4096) (g : Nat) : GroupValues :=
  ⟨groupValue r g 0, groupValue r g 1, groupValue r g 2, groupValue r g 3, groupValue r g 4, groupValue r g 5⟩

/-- One element under the standard rule: g is the value after the division by the global batch. The result is p, m and v. -/
def standardRule (k : GroupValues) (b1t b2t g p m v : W32) : W32 × W32 × W32 :=
  let g := if (Val.fin false 0 0).lt (dec32 k.clip) then min32 (max32 g (neg32 k.clip)) k.clip else g
  let m' := add32 (mul32 k.b1 m) (mul32 (sub32 one32 k.b1) g)
  let v' := add32 (mul32 k.b2 v) (mul32 (sub32 one32 k.b2) (mul32 g g))
  let mh := div32 m' (sub32 one32 b1t)
  let vh := div32 v' (sub32 one32 b2t)
  (sub32 p (mul32 k.lr (add32 (div32 mh (add32 (sqrt32 vh) k.eps)) (mul32 k.wd p))), m', v')

/-! ### The preconditioned rule (R250, R251) -/

/-- Entry (i, j) of a list of rows. -/
def entry (m : List (List W32)) (i j : Nat) : W32 := (m.getD i []).getD j zero32

/-- A dot product taken in ascending order, one FMA a term, from +0. -/
def fmaDot (xs ys : List W32) : W32 := (xs.zip ys).foldl (fun acc p => fma32 p.1 p.2 acc) zero32

/-- The columns of the other factor at a layer: r lists along d0. -/
def State.factorColumns (s : State) (fn : Nat) (w : Block512) (layer : Nat) : List (List W32) :=
  (List.range (winDim w 1)).map fun j => s.row32 (s.access fn w) w one32 (winDim w 0) (j + winDim w 1 * layer)

/-- M of a layer (R250 step 1). -/
def gram (cols : List (List W32)) : List (List W32) := cols.map fun a => cols.map fun b => fmaDot a b

/-- λ0 of a matrix (R250 step 2). -/
def lambda0 (eps : W32) (m : List (List W32)) : W32 :=
  let diag := (List.range m.length).map fun i => entry m i i
  let trace := match diag with
    | [] => zero32
    | d :: ds => ds.foldl add32 d
  let tau := div32 trace (nat32 m.length)
  if (dec32 tau).isZero then eps else mul32 eps tau

/-- x minus the products of two lists in order, one FMA a term. -/
def fmsChain (x : W32) (xs ys : List W32) : W32 := (xs.zip ys).foldl (fun acc p => fma32 (neg32 p.1) p.2 acc) x

/-- The columns of L built so far, one more column at a time; none when a pivot fails (R250 step 3). Column j is the list of L_ij for
i from 0. -/
def choleskyFrom (m : List (List W32)) (limit : Val) (n : Nat) : Nat → List (List W32) → Option (List (List W32))
  | 0, cols => some cols
  | k + 1, cols =>
    let j := n - (k + 1)
    let row (i : Nat) := cols.map fun c => c.getD i zero32
    let pivot := fmsChain (entry m j j) (row j) (row j)
    if (dec32 pivot).isFinite && limit.lt (dec32 pivot) then
      let d := sqrt32 pivot
      let col := (List.range n).map fun i =>
        if i < j then zero32 else if i = j then d else div32 (fmsChain (entry m i j) (row i) (row j)) d
      choleskyFrom m limit n k (cols ++ [col])
    else none

/-- Cholesky of M + λI. -/
def cholesky (m : List (List W32)) (lambda : W32) : Option (List (List W32)) :=
  let n := m.length
  let a := (List.range n).map fun i => (List.range n).map fun j => if i = j then add32 (entry m i i) lambda else entry m i j
  let largest := ((List.range n).map fun i => entry a i i).foldl max32 (inf32 true)
  choleskyFrom a ((dec32 largest).mul (.fin false 1 (-24))) n n []

/-- The λ of R250 in turn, with how many rises each stands for. -/
def lambdas (l0 : W32) : List (W32 × Nat) :=
  [(l0, 0), (mul32 (nat32 10) l0, 1), (mul32 (nat32 100) l0, 2), (mul32 (nat32 1000) l0, 3), (mul32 (nat32 10000) l0, 4)]

/-- The factor of one matrix, and the rises of λ it took. -/
def factorise (eps : W32) (m : List (List W32)) : Option (List (List W32)) × Nat :=
  let l0 := lambda0 eps m
  match ((lambdas l0).filterMap fun p => (cholesky m p.1).map fun l => (l, p.2)).head? with
  | some (l, n) => (some l, n)
  | none => (none, 4)

/-- Forward substitution, then back substitution; L is given by columns. -/
def solveForward (l : List (List W32)) (g : List W32) : List W32 :=
  (List.range g.length).foldl (fun ys i =>
    let w := (List.range i).foldl (fun w k => fma32 (neg32 ((l.getD k []).getD i zero32)) (ys.getD k zero32) w) (g.getD i zero32)
    ys ++ [div32 w ((l.getD i []).getD i zero32)]) []
def solveBack (l : List (List W32)) (ys : List W32) : List W32 :=
  let n := ys.length
  (List.range n).foldl (fun xs c =>
    let i := n - 1 - c
    let w := (List.range (n - 1 - i)).foldl (fun w d =>
      let k := n - 1 - d
      fma32 (neg32 ((l.getD i []).getD k zero32)) (xs.getD (k - i - 1) zero32) w) (ys.getD i zero32)
    div32 w ((l.getD i []).getD i zero32) :: xs) []

/-! ### Beginning an update (R240, R248, R250) -/

/-- The closing slot of a record (R247). -/
def closingSlot (r : BitVec 4096) : Nat := ((List.range 8).filter (ctxSlotValid r)).foldl Nat.max 0

/-- The elements of one layer of a window. -/
def layerSize (w : Block512) : Nat := winDim w 0 * winDim w 1

/-- The operator program bound to a group of a context (R191). -/
def State.boundProgram (s : State) (p c g : Nat) : Option (List W64 × BitVec 8) :=
  match Table.get 0 (s.selv p).binds (8 * c + g) with
  | 0 => none
  | i => Table.get none s.progs i

/-- The windows that an update uses under a rule. -/
def State.updateWindows (s : State) (u : Update) (rule : Nat) : List Block512 :=
  [s.adapterOf u, s.momentOf u false, s.momentOf u true] ++ (if rule = 1 then [s.otherOf u] else [])

/-- Whether a selvedge reaches its table: its serving hall is not lost, and the switch of its home hall is in service (R28, R235). -/
def State.selvServed (s : State) (p : Nat) : Bool := s.hallHere (s.selv p).serving && !s.boot.diesFailed.getLsbD (homeHall p)

/-- Whether the traffic of a selvedge to some windows has no route (R28). -/
def State.selvCut (s : State) (p : Nat) (ws : List Block512) : Bool :=
  s.boot.diesFailed != 0 && (!s.selvServed p || ws.any fun w =>
    addrSpace (winBase w) ≤ 3 && !s.hallReaches (s.selv p).serving (addrHome (winBase w)))

/-- What stops an update as it begins (R235, R240). The state, the counter and the groups are those of the record as it stands now, the slot
and its windows those of the expansion (R110). -/
def State.updateRefusal (s : State) (p : Nat) (u : Update) : Option Status :=
  if (s.selv p).unserved || !s.selvServed p then some .hallLost
  else if !s.ctxHere u.context then some .hallLost
  else
    let r := s.ctx u.context
    let g := s.updGroup u
    let rule := ctxRule r g
    let size := Nat.max 1 (layerSize (s.gradOf u))
    if ctxState r ≠ ctxBound ∨ !ctxSlotValid r u.slot ∨ !ctxGroupValid r g ∨ (rule = 2 ∧ (s.boundProgram p u.context g).isNone) then
      some .access
    else if !s.keyValid u.context ∧ (s.updateWindows u rule).any fun w => addrSpace (winBase w) = 2 ∨ addrSpace (winBase w) = 3 then
      some .key
    else if rule = 1 ∧ (u.total % size ≠ 0 ∨ u.first % size ≠ 0) then some .lengthBound
    else if s.selvCut p (s.updateWindows u rule) then some .hallLost
    else none

/-- The layers of an update's shard: the first, and how many (R240, R250). -/
def State.shardLayers (s : State) (u : Update) : Nat × Nat :=
  let size := Nat.max 1 (layerSize (s.gradOf u))
  (u.first / size, u.total / size)

/-- What the preconditioned rule reads of the other factor: the shard's layers of it. -/
def State.otherRead (s : State) (u : Update) : Read :=
  let w := s.otherOf u
  let (l0, n) := s.shardLayers u
  ⟨0, w, (List.range (winDim w 1 * n)).map (winDim w 1 * l0 + ·), 0, winDim w 0⟩

/-- The factors of every layer of a shard, and the rises of λ (R250): none when some matrix is singular. -/
def State.factorsOf (s : State) (fn : Nat) (u : Update) (eps : W32) : Option (List (List (List W32))) × Nat :=
  let (l0, n) := s.shardLayers u
  let fs := (List.range n).map fun l => factorise eps (gram (s.factorColumns fn (s.otherOf u) (l0 + l)))
  (fs.foldr (fun f acc => match f.1, acc with
    | some m, some ms => some (m :: ms)
    | _, _ => none) (some []), (fs.map (·.2)).sum)

/-- The statistics key of a context's group. -/
def statsKey (c g : Nat) : Nat := 8 * c + g

/-- Change the statistics of a key. -/
def Selvedge.modStats (v : Selvedge) (k : Nat) (f : Stats → Stats) : Selvedge :=
  { v with stats := Table.set Stats.zero v.stats k (f (Table.get Stats.zero v.stats k)) }

/-- Take the first update off a selvedge's queue. -/
def State.popUpdate (s : State) (p : Nat) : State := s.modSelv p fun v => { v with queue := v.queue.drop 1, run := none }

/-- Whether an update's item can still run. -/
def State.updateLive (s : State) (u : Update) : Bool :=
  match s.item u.item with
  | some t => t.phase == .external
  | none => false

/-- End an update that fails before it has written anything. -/
def State.refuseUpdate (s : State) (p : Nat) (u : Update) (st : Status) : State := (s.failItem u.item st).popUpdate p

/-- The step number of an update, and whether it adopts or is held (R248). -/
def stepOf (u : Update) (r : BitVec 4096) : W64 × Bool × Bool :=
  if ctxCounter r = u.rootCounter then (u.rootCounter + 1, false, false)
  else if ctxHold r then (0, false, true)
  else (u.rootCounter + 1, true, false)

/-! ### Requests of a selvedge (R214, R234) -/

/-- A selvedge's requests for its running update, in the ledger of its serving hall. What the selvedge waits for is urgent, as a loom's are
(R216). -/
def State.selvRequest (s : State) (p : Nat) (u : Update) (write : Bool) (w : Block512) (spans : List (Nat × Nat)) : State :=
  s.request (s.selv p).serving (.selvedge p u.item) (some 0) (some w) (ledgerSpans write spans)

/-- Whether a selvedge waits for answers to its requests for an update. -/
def State.selvWaits (s : State) (p : Nat) (u : Update) : Bool :=
  s.ledgerBusy (s.selv p).serving fun q => q == .selvedge p u.item

/-- What a block of an update covers of a window from linear index `e`. -/
def blockOf (w : Block512) (e : Nat) : List (Nat × Nat) :=
  linearSpans w e 128 ++ (if winLayout w = 4 then [(km8Addr w e, 2)] else [])

/-- The windows of block `b` of an update, each with the index its block begins at. -/
def State.blockWindows (s : State) (u : Update) (b : Nat) : List (Block512 × Nat) :=
  let e := u.first + 128 * b
  let mu := s.momentIndex u e
  [(s.adapterOf u, e), (s.momentOf u false, mu), (s.momentOf u true, mu)]

/-- Request the reads of a block, or its writes. -/
def State.requestBlock (s : State) (p : Nat) (u : Update) (write : Bool) (b : Nat) : State :=
  if 128 * b < u.total then
    (s.blockWindows u b).foldl (fun s w => s.selvRequest p u write w.1 (blockOf w.1 w.2)) s
  else s

/-! ### Beginning -/

/-- An update begins: the selvedge takes its record, forms every factor that rule 1 needs before an element is written (R250), and asks for
its first block. -/
def State.takeUpdate (s : State) (p : Nat) (u : Update) (t : W64) (adopted : Bool) : State :=
  let r := s.ctx u.context
  let g := s.updGroup u
  let fn := s.itemFunction u.item
  let pre := ctxRule r g = 1
  let s := if adopted then s.adjust u.item .stepAdopted else s
  let (fs, rises) := if pre then s.factorsOf fn u (groupOf r g).eps else (some [], 0)
  let s := if rises = 0 then s else s.bump (pgSelvedge p) 0x25 rises
  let s := if fs.isNone then (s.bump (pgSelvedge p) 0x24 1).adjust u.item .precondFallback else s
  let s := s.request (s.selv p).serving (.selvedge p u.item) (some 0) none (ledgerSpans false [(s.ctxAddr u.context, 512)])
  let s := if pre then s.selvRequest p u false (s.otherOf u) (s.otherRead u).all else s
  let s := s.requestBlock p u false 0
  let begun : UpdateRun :=
    { record := r, group := g, counter := ctxCounter r, t := t, adopted := adopted, fallback := fs.isNone
      program := if ctxRule r g = 2 then s.boundProgram p u.context g else none, factors := fs.getD [], next := 0 }
  s.modSelv p fun v =>
    { v.modStats (statsKey u.context g) fun x => if x.t = t then x else { x with t := t, localSum := zero32, reducedSum := zero32 } with
      run := some begun }

/-- `SELVEDGE_UPDATE_BEGIN`. It waits while what it reads is being zeroed (R212). -/
def State.updateBegin (s : State) (p : Nat) : State :=
  match (s.selv p).run, (s.selv p).queue with
  | none, u :: _ =>
    if !s.ready || !s.selvPresent p then s
    else if !s.updateLive u then s.popUpdate p
    else match s.updateRefusal p u with
      | some st => s.refuseUpdate p u st
      | none =>
        let r := s.ctx u.context
        let (t, adopted, held) := stepOf u r
        if held then (s.bump (pgSelvedge p) 0x23 1).refuseUpdate p u .stepHeld
        else
          let rds := if ctxRule r (s.updGroup u) = 1 then [s.otherRead u] else []
          if rds.any fun x => x.all.any fun q => s.hitsZeroing q.1 q.2 then s
          else match s.readFault (s.itemFunction u.item) true rds with
            | some st => s.refuseUpdate p u st
            | none => s.takeUpdate p u t adopted
  | _, _ => s

/-! ### One block (R243–R246, R254) -/

/-- What one element of a block becomes: p, m, v, whether p is stored with stochastic rounding, whether it was kept. -/
structure ElemOut where
  p : W32
  m : W32
  v : W32
  stochastic : Bool
  kept : Bool

/-- The gradient of shard element `i` after the division by the global batch; a kept element is zero in a substitution (R251). -/
def Update.grad (u : Update) (i : Nat) : W32 := mul32 (u.reduced.getD i zero32) (invBatch u.globalBatch)
def Update.isKept (u : Update) (i : Nat) : Bool := !(dec32 (u.reduced.getD i zero32)).isFinite

/-- The preconditioned gradient of shard element `i`: its row of r elements solved with its layer's factor (R251). -/
def precondGrad (u : Update) (g : Block512) (factors : List (List (List W32))) (i : Nat) : W32 :=
  let d0 := Nat.max 1 (winDim g 0)
  let size := Nat.max 1 (layerSize g)
  let layer := i / size
  let j := i % size / d0
  let row := (List.range (winDim g 1)).map fun c =>
    let x := layer * size + c * d0 + i % d0
    if u.isKept x then zero32 else u.grad x
  let l := factors.getD layer []
  (solveBack l (solveForward l row)).getD j zero32

/-- The registers of an element before its program runs (R365). -/
def startRegs (u : Update) (k : GroupValues) (t : W64) (g p m v : W32) : Regs :=
  ([g, p, m, v, k.lr, k.b1, k.b2, k.eps, k.wd, k.clip, nat32 t.toNat, nat32 u.shardBatch.toNat, nat32 u.globalBatch.toNat].zipIdx).foldl
    (fun r x => r.put x.2 x.1) []

/-- One element of an update. -/
def updateElem (u : Update) (run : UpdateRun) (grad : Block512) (i : Nat) (p m v : W32) : ElemOut :=
  if u.isKept i then ⟨p, m, v, true, true⟩
  else
    let k := groupOf run.record run.group
    match run.program with
    | some (ws, rounding) =>
      let r := (startRegs u k run.t (u.grad i) p m v).program ws
      ⟨r.q 1, r.q 2, r.q 3, rounding == 1 || (rounding == 2 && r.q 15 != 0), false⟩
    | none =>
      let g := if run.factors.isEmpty then u.grad i else precondGrad u grad run.factors i
      let (p', m', v') := standardRule k (betaPower k.b1 run.t) (betaPower k.b2 run.t) g p m v
      ⟨p', m', v', true, false⟩

/-- The registers a selvedge holds after an element under an operator program. -/
def lastRegs (u : Update) (run : UpdateRun) (i : Nat) (p m v : W32) : Option Regs :=
  match run.program with
  | some (ws, _) => if u.isKept i then none
    else some ((startRegs u (groupOf run.record run.group) run.t (u.grad i) p m v).program ws)
  | none => none

/-- The conversion of an adapter element (R246): the seed is made of the context and the step. -/
def adapterConv (u : Update) (t : W64) (stochastic : Bool) : Conv :=
  ⟨stochastic, true, ((BitVec.ofNat 32 u.context) <<< (16 : Nat)) ^^^ t.setWidth 32⟩

/-- What stops the reads and writes of a block (R28, R254). -/
def State.blockFault (s : State) (p : Nat) (u : Update) (b : Nat) : Option Status :=
  let fn := s.itemFunction u.item
  let ws := s.blockWindows u b
  (failIf (s.selvCut p (ws.map (·.1))) .hallLost).orElse fun _ =>
    firstFail (ws.map fun w =>
      let spans := blockOf w.1 w.2
      (s.accessFault fn w.1 spans).orElse fun _ => failIf (spans.any fun q => s.poisoned (hostKey fn q.1) q.2) .eccUncorr)

/-- Whether a block lies in a range that is being zeroed, and so waits (R212). -/
def State.blockHeld (s : State) (u : Update) (b : Nat) : Bool :=
  (s.blockWindows u b).any fun w => (blockOf w.1 w.2).any fun q => s.hitsZeroing q.1 q.2

/-- Write a KM8 block of moments; with its saturations and NaN outputs. -/
def State.putMoments (s : State) (ac : Access) (w : Block512) (mu : Nat) (second : Bool) (xs : List W32) : State × Tally :=
  let (f, codes, sat, nan) := km8Block second (if second then xs.map sqrt32 else xs)
  let s := codes.zipIdx.foldl (fun s c => s.putLinear ac w (mu + c.2) c.1) s
  (s.store ac (km8Addr w mu) (leBytes 2 f), ⟨sat, nan, codes.length + 2⟩)

/-- Add the squares of a block to a statistics record, element by element (R252). -/
def addStats (u : Update) (is_ : List Nat) (x : Stats) : Stats :=
  is_.foldl (fun x i =>
    if u.isKept i then x
    else
      let g := u.grad i
      let l := div32 (u.localGrad.getD i zero32) (nat32 u.shardBatch.toNat)
      { x with reducedSum := add32 x.reducedSum (mul32 g g)
               localSum := if u.shardBatch = 0 then x.localSum else add32 x.localSum (mul32 l l) }) x

/-- Whether the reduced elements that block `b` needs have arrived: its own, and under rule 1 its whole layers (R251, R254). -/
def blockArrived (u : Update) (run : UpdateRun) (grad : Block512) (b : Nat) : Bool :=
  let size := Nat.max 1 (layerSize grad)
  let need := if run.factors.isEmpty then 128 * (b + 1) else ((128 * (b + 1) + size - 1) / size) * size
  decide (Nat.min need u.total ≤ u.reduced.length)

/-- The elements of the next block of an update as they stand: the index in the shard, p, m and v (R241, R242, R244). -/
def State.blockOlds (s : State) (u : Update) (run : UpdateRun) : List (Nat × W32 × W32 × W32) :=
  let fn := s.itemFunction u.item
  let i0 := 128 * run.next
  let w := s.adapterOf u
  let m1 := s.momentOf u false
  let m2 := s.momentOf u true
  let mu := s.momentIndex u (u.first + i0)
  let f1 := leNat (s.load (s.access fn m1) (km8Addr m1 mu) 2)
  let f2 := leNat (s.load (s.access fn m2) (km8Addr m2 mu) 2)
  (List.range 128).map fun j =>
    (i0 + j, rne32 (elemValue (winFormat w) (s.codeLinear (s.access fn w) w (u.first + i0 + j))),
      km8First f1 (s.codeLinear (s.access fn m1) m1 (mu + j)), km8Second f2 (s.codeLinear (s.access fn m2) m2 (mu + j)))

/-- What they become. -/
def State.blockOuts (s : State) (u : Update) (run : UpdateRun) : List ElemOut :=
  (s.blockOlds u run).map fun x => updateElem u run (s.gradOf u) x.1 x.2.1 x.2.2.1 x.2.2.2

/-- One block updated. A kept element of the adapter window is not written (R245, R251). -/
def State.updateBlock (s : State) (p : Nat) (u : Update) (run : UpdateRun) : State :=
  let fn := s.itemFunction u.item
  let i0 := 128 * run.next
  let w := s.adapterOf u
  let m1 := s.momentOf u false
  let m2 := s.momentOf u true
  let mu := s.momentIndex u (u.first + i0)
  let acW := s.access fn w
  let ac1 := s.access fn m1
  let ac2 := s.access fn m2
  let olds := s.blockOlds u run
  let outs := s.blockOuts u run
  let codes := (outs.zipIdx.filter fun x => !x.1.kept).map fun x =>
    (u.first + i0 + x.2, convertPlain (winFormat w) (adapterConv u run.t x.1.stochastic) (u.first + i0 + x.2) x.1.p one32)
  let s := codes.foldl (fun s c => s.putLinear acW w c.1 c.2.code) s
  let (s, t1) := s.putMoments ac1 m1 mu false (outs.map (·.m))
  let (s, t2) := s.putMoments ac2 m2 mu true (outs.map (·.v))
  let tl := (t1.plus t2).plus (tallyOf (codes.map (·.2)) (rowBytes (winFormat w) codes.length))
  let count (s : State) (sel n : Nat) : State := if n = 0 then s else s.bump (pgSelvedge p) sel n
  let s := count (count (count (count s 0x21 codes.length) 0x26 (128 - codes.length)) 0x28 tl.saturated) 0x29 tl.nans
  let s := s.modItem u.item fun t => { t with bytes := t.bytes + tl.bytes }
  let s := (s.requestBlock p u true run.next).requestBlock p u false (run.next + 1)
  let last := (olds.filterMap fun x => lastRegs u run x.1 x.2.1 x.2.2.1 x.2.2.2).getLast?
  s.modSelv p fun v =>
    { v.modStats (statsKey u.context run.group) (addStats u ((List.range 128).map (i0 + ·))) with
      run := some { run with next := run.next + 1 }, regs := last.getD v.regs }

/-- `SELVEDGE_BLOCK_UPDATE`: the next block, once its reads have been answered and its elements have arrived (R254). One that a lost peer
leaves incomplete ends the update. -/
def State.blockUpdate (s : State) (p : Nat) : State :=
  match (s.selv p).run, (s.selv p).queue with
  | some run, u :: _ =>
    if !s.updateLive u || u.total ≤ 128 * run.next || s.selvWaits p u then s
    else if blockArrived u run (s.gradOf u) run.next then
      if s.blockHeld u run.next then s
      else match s.blockFault p u run.next with
        | some st => s.failItem u.item st
        | none => s.updateBlock p u run
    else match u.cut with
      | some st => s.failItem u.item st
      | none => s
  | _, _ => s

/-! ### The end of an update (R247–R249, R252) -/

/-- The counter that an update writes at its end; none where it writes none (R247, R248). -/
def counterAfter (u : Update) (run : UpdateRun) (closing : Nat) : Option W64 :=
  if closing = u.slot then some run.t
  else if run.adopted then some u.rootCounter else none

/-- Write the counter if it still holds what the selvedge read, 8 bytes of the item (R10); count a write that is dropped (R249). -/
def State.counterWrite (s : State) (p : Nat) (u : Update) (run : UpdateRun) : State :=
  match counterAfter u run (closingSlot (s.slotRecord u)) with
  | none => s
  | some v =>
    if ctxCounter (s.ctx u.context) = run.counter then
      ((s.ctxWrite u.context 8 8 v.toNat).modItem u.item fun t => { t with bytes := t.bytes + 8 }).request (s.selv p).serving (.selvedge p u.item) (some 0) none
        (ledgerSpans true [(s.ctxAddr u.context + 8, 8)])
    else s.bump (pgSelvedge p) 0x27 1

/-- An update whose blocks are written ends: its counter, its statistics, its item. -/
def State.closeUpdate (s : State) (p : Nat) (u : Update) (run : UpdateRun) : State :=
  let s := s.counterWrite p u run
  let s := s.ctxWrite u.context 60 4 (byteField (s.ctx u.context) 60 4 + 1)
  let counter := ctxCounter (s.ctx u.context)
  let s := s.bump (pgSelvedge p) 0x20 1
  let s := if run.adopted then s.bump (pgSelvedge p) 0x22 1 else s
  let s := s.modSelv p fun v => v.modStats (statsKey u.context run.group) fun x =>
    { x with shardBatch := u.shardBatch, globalBatch := u.globalBatch, counter := counter, time := s.newel.time }
  (s.finish u.item 0).popUpdate p

/-- `SELVEDGE_UPDATE_END`: an update whose item has failed only leaves the selvedge; one whose context's hall is lost, or whose peers are,
fails with its counter unchanged (R254, R288). The item ends behind what it has to send. -/
def State.updateEnd (s : State) (p : Nat) : State :=
  match (s.selv p).run, (s.selv p).queue with
  | some run, u :: _ =>
    if !s.updateLive u then s.popUpdate p
    else if 128 * run.next < u.total || s.selvWaits p u || s.holdsFor u.item then s
    else if !s.ctxHere u.context then s.refuseUpdate p u .hallLost
    else match u.cut with
      | some st => s.refuseUpdate p u st
      | none => s.closeUpdate p u run
  | _, _ => s

/-- Hand an update to a selvedge (R234, R236). No hall completes one that the host interface's runs (R10). -/
def State.giveUpdate (s : State) (p : Nat) (u : Update) : State :=
  (s.modSelv p fun v => { v with queue := v.queue ++ [u] }).modItem u.item fun t => if p = 12 then { t with hallByte := 255 } else t

/-! ### `UPDATE_BIND` and `STATS_SNAP` (R191) -/

/-- The selvedges that are present. -/
def State.presentSelvs (s : State) : List Nat := (List.range 13).filter s.selvPresent

/-- `UPDATE_BIND`: in every present selvedge that has a table. -/
def State.updateBind (t : Item) (s : State) : State :=
  let c := fieldNat t.desc 128 16
  let g := fieldNat t.desc 144 3
  let ix := fieldNat t.desc 160 10
  (s.presentSelvs.foldl (fun s p => s.modSelv p fun v => { v with binds := Table.set 0 v.binds (8 * c + g) ix }) s).finish t.id 0

/-- The 32 bytes of a statistics record. -/
def statsBytes (x : Stats) : List Byte :=
  leBytes 4 x.localSum.toNat ++ leBytes 4 x.reducedSum.toNat ++ leBytes 4 x.shardBatch.toNat ++ leBytes 4 x.globalBatch.toNat ++
    leBytes 8 x.counter.toNat ++ leBytes 8 x.time.toNat

/-- `STATS_SNAP`. -/
def State.statsSnap (t : Item) (s : State) : State :=
  let c := fieldNat t.desc 128 16
  let g := fieldNat t.desc 144 3
  let p := byteField t.desc 19 1
  let w := t.winD 20
  let fn := s.itemFunction t.id
  let wr : Read := ⟨word32 t.desc 20, w, [0], 0, 32⟩
  match s.readFault fn false [wr] with
  | some st => s.failItem t.id st
  | none =>
    if (s.selv p).unserved || !s.selvServed p then s.failItem t.id .hallLost
    else if s.writeReady wr then
      (((s.store (s.access fn w) (winBase w) (statsBytes (Table.get Stats.zero (s.selv p).stats (8 * c + g)))).produce wr).treadleRequest t.hall (.operand t.id) true
        (winBase w) 32).finish t.id 32
    else s

/-! ### Commands -/

/-- `UPDATE_BIND` (R191). -/
def execUpdateBind (it : ItemId) (s : State) : Host.Outcome State Fault Refusal := .next (s.withItem it .updateBind State.updateBind)
/-- `STATS_SNAP` (R191, R252). -/
def execStatsSnap (it : ItemId) (s : State) : Host.Outcome State Fault Refusal := .next (s.withItem it .statsSnap State.statsSnap)
/-- `SELVEDGE_UPDATE_BEGIN` (R240, R248, R250). -/
def execSelvedgeUpdateBegin (selvedge : Nat) (s : State) : Host.Outcome State Fault Refusal := .next (s.updateBegin selvedge)
/-- `SELVEDGE_BLOCK_UPDATE` (R254). -/
def execSelvedgeBlockUpdate (selvedge : Nat) (s : State) : Host.Outcome State Fault Refusal := .next (s.blockUpdate selvedge)
/-- `SELVEDGE_UPDATE_END` (R249). -/
def execSelvedgeUpdateEnd (selvedge : Nat) (s : State) : Host.Outcome State Fault Refusal := .next (s.updateEnd selvedge)

end Sys2Proof.Machine
end

