-- ==== Sys2Proof/Machine/Fabric.lean ====
section
/-!
DEFINITION. Flights: discovery, admission and loss (R266–R270), frames, flow control and credits (R259, R264, R265), `SEND`, `MULTICAST`
and `BUDDY_PUSH` on the sending side (R186, R188, R190, R278, R319), remote writes on the receiving side (R276, R277), and `RECV`,
`WINDOW_OPEN` and `WINDOW_CLOSE` (R187, R189). The items of the collectives stand in Collective.lean.
-/
namespace Sys2Proof.Machine

/-! ### `PTP_MESSAGE` (R280) -/

/-- `PTP_MESSAGE`: a boundary clock takes note of an announce and follows the best master; what other received messages do to its count shows
in a later lock. It sends on a port that is UP, as a response, which in encapsulated mode is a frame of its own EtherType. -/
def State.ptpMessage (s : State) : PtpMessage → State
  | .announce p c =>
    if s.clockPort p && c.identity != s.part.serial then (s.hear p).setForeign p (some { c with steps := c.steps + 1 }) else s
  | .received p => if s.clockPort p then s.hear p else s
  | .sent p => if s.clockPort p then s.sendResponse p .ptp else s
  | .ppsOutput on =>
    if on && s.cmpAlt 7 then s.emit .requestError else ({ s with newel := { s.newel with ppsOut := on } } : State).emit .accepted

/-! ### Discovery and admission (R266–R268) -/

/-- The hello of a port. -/
def State.helloOf (s : State) (p : Nat) : Hello :=
  { serial := s.part.serial, grade := s.part.grade.toNat, level := s.mod.levelAct.toNat, x := s.coord .x, y := s.coord .y
    z := s.coord .z, nx := s.axisSize .x, ny := s.axisSize .y, nz := s.axisSize .z, zRole := s.xprCoord.getLsbD 28, port := p
    encapsulated := (s.flight p).mode, admitted := (s.flight p).admitted }

/-- The states in which a port sends hellos. -/
def Link.sendsHello : Link → Bool
  | .hello | .awaitAdmit | .admitPending | .up => true
  | .disabled | .training | .down => false

/-- Whether a flight is out of service: the module is not READY (R305, R322), or it is absent, or gone with its hall's die (R29). -/
def State.flightOut (s : State) (p : Nat) : Bool := !s.ready || s.flightAbsent p || s.boot.diesFailed.getLsbD (homeHall p)

/-- `HELLO_SEND`: the port says what it is. -/
def State.helloSend (s : State) (p : Nat) : State :=
  if !s.flightOut p && (s.flight p).link.sendsHello then s.sendResponse p (.hello (s.helloOf p)) else s

/-- The coordinates and sizes that a hello carries, by axis. -/
def helloCoord (h : Hello) : Axis → Nat
  | .x => h.x
  | .y => h.y
  | .z => h.z

/-- The port that pairs with port `p`: the opposite direction, the same lane (R260). -/
def pairedPort (p : Nat) : Nat := if portPlus p then p + 2 else p - 2

/-- The first check of R266 that a hello fails, as the code of `MISMATCH` (R267); 0 when it passes them all. -/
def State.helloMismatch (s : State) (p : Nat) (h : Hello) : BitVec 3 :=
  let a := portAxis p
  let n := s.axisSize a
  let want := if portPlus p then (s.coord a + 1) % n else (s.coord a + n - 1) % n
  if h.level ≠ s.mod.levelAct.toNat then 1
  else if h.nx ≠ s.axisSize .x ∨ h.ny ≠ s.axisSize .y ∨ h.nz ≠ s.axisSize .z ∨ h.zRole ≠ s.xprCoord.getLsbD 28 then 2
  else if [Axis.x, .y, .z].any fun b => helloCoord h b != if b == a then want else s.coord b then 3
  else if h.port ≠ pairedPort p ∨ h.encapsulated ≠ (s.flight p).mode then 4
  else 0

/-- The peer that a flight page shows, from the last hello (R267). -/
def Flight.seePeer (h : Hello) (f : Flight) : Flight :=
  { f with peerSerial := h.serial, peerGrade := BitVec.ofNat 2 h.grade, peerPort := BitVec.ofNat 4 h.port
           peerCoord := BitVec.ofNat 12 (h.x + 16 * h.y + 256 * h.z), peerAdmitted := h.admitted }

/-- A port whose link comes UP: every credit is there, and nothing has been passed over. -/
def Flight.bringUp (now : W64) (f : Flight) : Flight :=
  { f with link := .up, credits := 192, xcredits := 32, paused := 0, spent := [], xspent := [], passed := [], xpassed := 0, heardAt := now
           dryAt := 0, dry := [], inbox := [] }

/-! ### Bytes of a window in element order (R35, R276) -/

/-- The bytes of a window's elements. -/
def winBytes (w : Block512) : Nat := winRows w * rowBytes (winFormat w) (winDim w 0)

/-- Where bytes `pos` to `pos + n − 1` of a window's elements lie: addresses and lengths, row by row. -/
def byteParts (w : Block512) (pos n : Nat) : List (Nat × Nat) :=
  let rb := Nat.max 1 (rowBytes (winFormat w) (winDim w 0))
  if n = 0 then []
  else (List.range ((pos + n - 1) / rb - pos / rb + 1)).map fun j =>
    let r := pos / rb + j
    let a := if j = 0 then pos % rb else 0
    let b := if r = (pos + n - 1) / rb then (pos + n - 1) % rb + 1 else rb
    (rowAddr w r + a, b - a)

/-- The tensor-cache lookups of a flight's read of those bytes through a window (R208). -/
def State.lookupElements (s : State) (w : Block512) (pos n : Nat) : State :=
  (byteParts w pos n).foldl (fun s p => s.lookupRead (some w) p.1 p.2) s

/-- Those bytes. -/
def State.elementBytes (s : State) (fn : Nat) (w : Block512) (pos n : Nat) : List Byte :=
  (byteParts w pos n).flatMap fun p => s.load (s.access fn w) p.1 p.2

/-- Write bytes over some parts of memory in order. -/
def State.storeParts (s : State) (ac : Access) : List (Nat × Nat) → List Byte → State
  | [], _ => s
  | (a, n) :: ps, bs => (s.store ac a (bs.take n)).storeParts ac ps (bs.drop n)

/-- Write a window's element bytes from position `pos`. -/
def State.putElementBytes (s : State) (fn : Nat) (w : Block512) (pos : Nat) (bs : List Byte) : State :=
  s.storeParts (s.access fn w) (byteParts w pos bs.length) bs

/-! ### `SEND` (R186, R262, R263, R270) -/

/-- The first datagram of a write of `n` bytes that leaves by port `p`. -/
def State.headOf (s : State) (t : Item) (express : Bool) (p a : Nat) (gen : W32) (w : Block512) : RemoteHead :=
  { origin := originOf t.id, address := BitVec.ofNat 64 a, generation := gen, sourceOwner := winOwner w
    sourceFormat := winFormat w, sourceBytes := winBytes w, sealedPush := false, context := 0, pushNonce := 0, pushCounter := 0
    express := express, vc := s.linkVc p 0 }

/-- Send a byte string on a port as datagrams of an item. -/
def State.sendBody (s : State) (p prio : Nat) (i : ItemId) (bs : List Byte) : State :=
  (datagrams bs).foldl (fun s d => s.sendRequest p prio (.body (originOf i) d)) s

/-- Change an open send. -/
def State.modSending (s : State) (i : ItemId) (f : Sending → Sending) : State :=
  { s with txs := s.txs.map fun x => if x.item = i then f x else x }

/-- Note an item as sent: it waits for its acknowledgements, and its bytes count as moved. -/
def State.openSending (s : State) (i : ItemId) (bytes : Nat) (rs : List (Nat × W32)) : State :=
  let s := s.modItem i fun t => { t with phase := .external, bytes := t.bytes + bytes }
  { s with txs := s.txs ++ [⟨i, bytes, rs, [], [], false, []⟩] }

/-- What every sending item does first: its first port must be UP, its source must be readable and its tokens full, and a channel
must be free. It waits without holding anything; none stands for an item that fails or waits, in the state given. -/
def State.startSend (s : State) (t : Item) (express : Bool) (p : Nat) (rd : Read) : State × Bool :=
  if !s.portUp p then (s.failItem t.id .peerLost, false)
  else match s.readFault (s.itemFunction t.id) true [rd] with
    | some st => (s.failItem t.id st, false)
    | none =>
      if s.readReady t rd then
        match s.takeChannel express p t.id with
        | some s' => ((s'.consume t rd).lookupElements rd.win 0 (winBytes rd.win), true)
        | none => (s, false)
      else (s, false)

/-- `SEND`. -/
def State.send (t : Item) (s : State) : State :=
  let w := t.winD 16
  let a := byteField t.desc 24 8
  let express := t.desc.getLsbD 288
  match s.route express a with
  | none => s.failItem t.id .access
  | some (p, _) =>
    let data := s.elementBytes (s.itemFunction t.id) w 0 (winBytes w)
    let (s, go) := s.startSend t express p (readAll (word32 t.desc 16) w)
    if go then
      let prio := priorityOf express (s.linkVc p 0)
      let s := s.openSending t.id data.length [(a, word32 t.desc 32)]
      (s.sendRequest p prio (.head (s.headOf t express p a (word32 t.desc 32) w))).sendBody p prio t.id data
    else s

/-! ### `BUDDY_PUSH` (R190, R319) -/

/-- The key of pushes sealed under a data key for a context and the sender's install nonce. -/
def pushKey (k : List Byte) (c : Nat) (nonce : W64) : List Byte := kdf k labelPush (beBytes 2 c ++ beBytes 8 nonce.toNat) 256
/-- The IV and the additional data of chunk `i` of a push. -/
def pushIv (counter : W32) (i : Nat) : List Byte := beBytes 4 counter.toNat ++ beBytes 4 i ++ beBytes 4 0
def pushAad (c window : Nat) (gen : W32) : List Byte := beBytes 2 c ++ beBytes 2 window ++ beBytes 4 gen.toNat

/-- A key store whose slot has made one more push. -/
def Security.countPush (slot : Nat) (x : Security) : Security :=
  { x with keys := x.keys.map fun p => if p.1 = slot then (p.1, { p.2 with pushCount := p.2.pushCount + 1 }) else p }

/-- `BUDDY_PUSH`: the window's element bytes, sealed in chunks of 64 KiB, on an express channel. -/
def State.buddyPush (t : Item) (s : State) : State :=
  let w := t.winD 20
  let c := fieldNat t.desc 128 16
  let a := byteField t.desc 24 8
  let gen := word32 t.desc 32
  let slot := s.keySlotOf c
  match s.route true a, s.dataKey slot, s.sec.keys.find? fun p => p.1 == slot with
  | some (p, _), some k, some (_, ks) =>
    if ks.pushCount = 0xFFFFFFFF then s.failItem t.id .key
    else
      let data := s.elementBytes (s.itemFunction t.id) w 0 (winBytes w)
      let (s, go) := s.startSend t true p (readAll (word32 t.desc 20) w)
      if go then
        let key := pushKey k c ks.nonce
        let sealedChunks := (chunks64 data).zipIdx.map fun x => gcmSeal key (pushIv ks.pushCount x.2) (pushAad c (peerWindow a) gen) x.1
        let prio := priorityOf true (s.linkVc p 0)
        let head := { s.headOf t true p a gen w with sealedPush := true, context := c, pushNonce := ks.nonce, pushCounter := ks.pushCount }
        let s := { s with sec := s.sec.countPush slot }
        let s := s.openSending t.id sealedChunks.flatten.length [(a, gen)]
        let s := s.modSending t.id fun x => { x with bytes := data.length }
        sealedChunks.foldl (fun s x => s.sendBody p prio t.id x) (s.sendRequest p prio (.head head))
      else s
  | none, _, _ => s.failItem t.id .access
  | _, _, _ => s.failItem t.id .key

/-! ### `MULTICAST` (R188, R278) -/

/-- The receivers of a multicast: addresses and expected generations. -/
def State.receiversOf (s : State) (t : Item) : List (Nat × W32) :=
  (s.multicastList (s.itemFunction t.id) (t.winD 20)).map fun e => (e.1, e.2.1)

/-- The distinct first ports of some routes. -/
def State.firstPorts (s : State) (rs : List (Nat × W32)) : List Nat :=
  rs.foldl (fun acc r => match s.route true r.1 with
    | some (p, _) => insertNat acc p
    | none => acc) []

/-- `MULTICAST`: one datagram stream on each branch that leaves this module, headed by the receivers of the branch. -/
def State.multicast (t : Item) (s : State) : State :=
  let w := t.winD 16
  let fn := s.itemFunction t.id
  match s.readFault fn true (t.reads [20]) with
  | some st => s.failItem t.id st
  | none =>
    let rs := s.receiversOf t
    let ps := s.firstPorts rs
    if ps.any fun p => !s.hallReaches t.hall (homeHall p) then s.failItem t.id .hallLost
    else if ps.any fun p => !s.portUp p then s.failItem t.id .peerLost
    else
      let data := s.elementBytes fn w 0 (winBytes w)
      let (s, go) := s.startSend t true (ps.headD 0) (readAll (word32 t.desc 16) w)
      if go then
        let s := s.openSending t.id (data.length * ps.length) rs
        let s := s.modSending t.id fun x => { x with bytes := data.length }
        let s := rs.foldl (fun s r => match s.route true r.1 with
          | some (p, _) => s.sendRequest p (priorityOf true (s.linkVc p 0)) (.head (s.headOf t true p r.1 r.2 w))
          | none => s) s
        ps.foldl (fun s p => s.sendBody p (priorityOf true (s.linkVc p 0)) t.id data) s
      else s

/-! ### Acknowledgements (R186, R264, R278) -/

/-- The chunks of a send: 64 KiB each. -/
def Sending.chunks (x : Sending) : Nat := (x.bytes + 65535) / 65536
/-- The chunks that a receiver has acknowledged. -/
def Sending.acked (x : Sending) (r : Nat) : Nat := Table.get 0 x.done r
/-- The refusal of a receiver. -/
def Sending.refusal (x : Sending) (r : Nat) : Option Status := (x.refusals.find? fun p => p.1 == r).map (·.2)
/-- Whether a receiver needs nothing more. -/
def Sending.served (x : Sending) (r : Nat) : Bool := decide (x.chunks ≤ x.acked r) || (x.refusal r).isSome
/-- The catch-up of one pruned receiver: the chunks it has not acknowledged, by unicast (R278). -/
def State.catchUpTo (s : State) (t : Item) (x : Sending) (r : Nat) : State :=
  match (x.receivers[r]?).bind fun e => s.route true e.1 with
  | none => s
  | some (p, _) =>
    let from_ := 65536 * x.acked r
    let bs := s.elementBytes (s.itemFunction t.id) (t.winD 16) from_ (x.bytes - from_)
    if s.portUp p then
      ((s.lookupElements (t.winD 16) from_ (x.bytes - from_)).modItem t.id fun t => { t with bytes := t.bytes + bs.length }).sendBody p (priorityOf true (s.linkVc p 0)) t.id bs
    else s.modSending t.id fun y => { y with refusals := Table.insert y.refusals r .peerLost }

/-- What an open send comes to once its acknowledgements have changed. -/
def State.endSending (s : State) (t : Item) (x : Sending) : State :=
  match (List.range x.receivers.length).findSome? x.refusal with
  | some st => s.failItem t.id st
  | none =>
    let s := if x.pruned.isEmpty then s else s.adjust t.id .prunedCatchup
    (s.finish t.id 0).releaseLinks t.id

/-- What a catch-up reads of the source: all that some pruned receiver has not acknowledged. -/
def Sending.catchUpSpans (x : Sending) (w : Block512) : List (Nat × Nat) :=
  (x.pruned.filter fun r => !x.served r).flatMap fun r => byteParts w (65536 * x.acked r) (x.bytes - 65536 * x.acked r)

/-- What stops the reads of a catch-up as it begins: its traffic has no route (R28), or its source cannot be read (R32, R230, R281, R288). -/
def State.catchUpFault (s : State) (t : Item) (x : Sending) : Option Status :=
  let fn := s.itemFunction t.id
  let spans := x.catchUpSpans (t.winD 16)
  firstFail [failIf (s.cutOff t) .hallLost, s.accessFault fn (t.winD 16) spans,
    failIf (spans.any fun q => s.poisoned (hostKey fn q.1) q.2) .eccUncorr]

/-- Begin the catch-up of a send: every pruned receiver is served, in list order (R278). It waits while its source is being zeroed (R212). -/
def State.beginCatchUp (s : State) (t : Item) (x : Sending) : State :=
  match s.catchUpFault t x with
  | some st => s.failItem t.id st
  | none =>
    if (x.catchUpSpans (t.winD 16)).any fun q => s.hitsZeroing q.1 q.2 then s
    else
      let s := s.modSending t.id fun y => { y with catchUp := true }
      let s := (x.pruned.filter fun r => !x.served r).foldl (fun s r => s.catchUpTo t x r) s
      match s.txs.find? fun x => x.item == t.id with
      | some y => if (List.range x.receivers.length).all y.served then s.endSending t y else s
      | none => s

/-- Settle an open send: it ends when every receiver is served; the catch-up begins when every unpruned one is. -/
def State.settleSending (s : State) (i : ItemId) : State :=
  match s.txs.find? fun x => x.item == i, s.item i with
  | some x, some t =>
    let rs := List.range x.receivers.length
    if rs.all x.served then s.endSending t x
    else if !x.catchUp && rs.all fun r => x.pruned.contains r || x.served r then s.beginCatchUp t x
    else s
  | _, _ => s

/-- A receiver of this module's own send holds one more chunk. -/
def State.ownAck (s : State) (i : ItemId) (r : Nat) : State :=
  (s.modSending i fun x =>
    if r < x.receivers.length then { x with done := Table.set 0 x.done r (Nat.min x.chunks (x.acked r + 1)) } else x).settleSending i

/-- A response to a write of another module that this module has passed on goes back by the way the write came (R262). A transit ends with its
last acknowledgement, and with a negative one. -/
def State.passReply (s : State) (p origin : Nat) (pk : Packet) (last : Bool) : State :=
  match s.transits.find? fun x => x.out == p && x.origin == origin with
  | some x =>
    let step (y : Transit) : Transit := if y = x then { y with owed := y.owed - 1, left := if last then 0 else y.left } else y
    ({ s with transits := (s.transits.map step).filter fun y => !(y.out == p && y.origin == origin && (last || decide (y.owed = 0))) } : State).sendReply
      x.port false (s.linkVc p 0) pk
  | none => match s.passages.find? fun x => x.out == p && x.origin == origin with
    | some x => s.sendReply x.port true (if portAxis x.port = portAxis p then s.linkVc p 0 else 0) pk
    | none => s

/-- `MULTICAST_CHUNK_ACK`: a receiver holds one more chunk, of this module's item, or of the write numbered `passing` on its way. -/
def State.chunkAck (s : State) (i : ItemId) (r p : Nat) (passing : Option Nat) : State :=
  if !s.portUp p then s
  else match passing with
    | some o => (s.hear p).passReply p o (.ack o) false
    | none => (s.hear p).ownAck i r

/-- The first port towards receiver `r` of a send. -/
def State.receiverPort (s : State) (x : Sending) (r : Nat) : Option Nat :=
  ((x.receivers[r]?).bind fun e => s.route true e.1).map (·.1)

/-- Whether a sender's branch at port `p` has been without express credits for `us` microseconds while its branch at another of the ports `ps`
is ready (R278). -/
def State.branchStalled (s : State) (sender p us : Nat) (ps : List Nat) : Bool :=
  decide ((s.flight p).drySince sender ≠ 0) && decide ((s.flight p).drySince sender - 1 + 1000 * us ≤ s.newel.time.toNat) &&
    ps.any fun q => q != p && s.portUp q && (s.flight q).drySince sender == 0

/-- Whether receivers may be pruned. Where they take in every receiver that is left beneath a first port, the branch parts at this module and
must be stalled; a branch that parts elsewhere is pruned by the flight that replicates there. -/
def State.mayPrune (s : State) (t : Item) (x : Sending) (rs : List Nat) : Bool :=
  let open_ := (List.range x.receivers.length).filter fun r => !x.served r && !x.pruned.contains r
  let ps := open_.foldl (fun acc r => match s.receiverPort x r with
    | some p => insertNat acc p
    | none => acc) []
  ps.all fun p => !((open_.filter fun r => s.receiverPort x r == some p).all rs.contains) ||
    s.branchStalled (originOf t.id) p (byteField t.desc 24 4) ps

/-- The receivers of a source's own multicast are pruned. -/
def State.pruneOwn (s : State) (i : ItemId) (rs : List Nat) : State :=
  match s.item i with
  | some t =>
    if t.op = some .multicast ∧ s.txs.all (fun x => x.item != i || s.mayPrune t x rs) then
      (s.modSending i fun x =>
        if x.catchUp then x
        else { x with pruned := (rs.filter fun r => decide (r < x.receivers.length) && !x.served r).foldl insertNat x.pruned }).settleSending i
    else s
  | none => s

/-- A branch of another module's multicast is pruned where this module replicates it: what waits for it is dropped, nothing more of the
stream goes on by it, and the source hears which receivers it was (R278). -/
def State.pruneBranch (s : State) (origin out : Nat) : State :=
  match s.passages.find? fun x => x.out == out && x.origin == origin with
  | none => s
  | some x =>
    let ps := (s.passages.filter fun y => y.origin == origin && y.port == x.port && !y.pruned).map (·.out)
    if x.pruned || x.stall = 0 || !s.branchStalled origin out x.stall ps then s
    else
      let s := { s with passages := s.passages.map fun y => if y = x then { y with pruned := true } else y }
      (s.modFlight out fun f => { f with held := f.held.filter fun q => q.2.sender != origin }).sendReply x.port true 0 (.pruned origin x.receivers)

/-- `MULTICAST_PRUNE`: a stalled branch is pruned, with every receiver beneath it; the report of one goes back to the source. -/
def State.prune (s : State) (i : ItemId) (rs : List Nat) : PrunePlace → State
  | .source => s.pruneOwn i rs
  | .branch o out => if s.ready then s.pruneBranch o out else s
  | .report o p ds => if s.portUp p then (s.hear p).passReply p o (.pruned o ds) false else s

/-- A receiver refused a write of this module's own, or a forwarding module met a link that is not UP, which fails an express item at once
(R270) unless it serves pruned receivers (R278). -/
def State.ownNack (s : State) (i : ItemId) (r : Nat) (st : Status) : State :=
  if st = .peerLost ∧ s.txs.any fun x => x.item == i && !x.catchUp && decide (r < x.receivers.length) then s.failItem i st
  else (s.modSending i fun x =>
    if r < x.receivers.length && (x.refusal r).isNone && statusFailed st then { x with refusals := Table.insert x.refusals r st } else x).settleSending i

/-- `NEGATIVE_ACK`: of this module's own item, or of the write numbered `passing` on its way. -/
def State.negativeAck (s : State) (i : ItemId) (r : Nat) (st : Status) (p : Nat) (passing : Option Nat) : State :=
  if !s.portUp p then s
  else match passing with
    | some o => (s.hear p).passReply p o (.nack o st) true
    | none => (s.hear p).ownNack i r st

/-! ### The loss of a link (R187, R269, R270, R273) -/

/-- Whether an item of the fabric uses a link: its collective's group includes it, or its route does, or its catch-up does. -/
def State.usesLink (s : State) (l : LinkId) (i : ItemId) : Bool :=
  (s.colls.any fun c => c.item == i && (s.groupLinks c.axis c.tag c.group).contains l) ||
    (s.txs.any fun x => x.item == i && x.receivers.any fun r =>
      match s.route (s.xprHeld.contains i) r.1 with
      | some (_, ls) => ls.contains l
      | none => false)

/-- Whether an item is a `RECV` that names an axis (R187, R269), executing or waiting to. -/
def recvOnAxis (a : Axis) (t : Item) : Bool :=
  t.op == some .recv && (t.phase == .external || t.phase == .dispatched) && t.desc.getLsbD 290 && axisOf (fieldNat t.desc 288 2) == a

/-- The items that hold something on the fabric. -/
def State.fabricItems (s : State) : List ItemId := s.colls.map (·.item) ++ s.txs.map (·.item)

/-- The receivers of a send whose routes include a link. -/
def State.lostReceivers (s : State) (l : LinkId) (x : Sending) : List Nat :=
  ((List.range x.receivers.length).filter fun r =>
    match (x.receivers[r]?).bind fun e => s.route true e.1 with
    | some (_, ls) => ls.contains l
    | none => false)

/-- Whether an item's update runs in a selvedge, so that the blocks that have arrived whole are still written (R254). -/
def State.updateRuns (s : State) (i : ItemId) : Bool :=
  s.selvs.any fun v => v.2.run.isSome && ((v.2.queue.take 1).any fun u => u.item == i && u.cut.isNone)

/-- Cut a running update off from its peers: its member withdraws, and it ends at its first incomplete block (R254). -/
def State.cutUpdate (s : State) (i : ItemId) (st : Status) : State :=
  let s := s.leaveFabric i st
  let cut (v : Selvedge) : Selvedge :=
    { v with queue := v.queue.map fun u => if u.item = i then { u with cut := u.cut.orElse fun _ => some st } else u }
  (s.selvs.map (·.1)).foldl (fun s p => s.modSelv p cut) s

/-- What a lost link does to one item that uses it: the item fails; an update that runs stops at its first incomplete block (R254); a
`MULTICAST` in its catch-up stops serving the receivers beyond the link and goes on with the others (R278). -/
def State.loseItem (s : State) (l : LinkId) (st : Status) (i : ItemId) : State :=
  match s.txs.find? fun x => x.item == i && x.catchUp with
  | some x =>
    let gone := (s.lostReceivers l x).filter fun r => !x.served r
    (s.modSending i fun y => { y with refusals := gone.foldl (fun m r => Table.insert m r st) y.refusals }).settleSending i
  | none => if s.updateRuns i then s.cutUpdate i st else s.failItem i st

/-- What a lost link does to every item whose group or route includes it: each fails with the status given. -/
def State.failOnLink (s : State) (l : LinkId) (st : Status) : State :=
  (s.fabricItems.filter (s.usesLink l)).foldl (fun s i => s.loseItem l st i) s

/-- The ports of an axis, one in each direction, that are UP, on lane `l` where that port is UP. -/
def State.bothWays (s : State) (a : Axis) (l : Nat) : List Nat :=
  [true, false].filterMap fun plus =>
    if s.portUp (axisPort a plus l) then some (axisPort a plus l)
    else if s.portUp (axisPort a plus (1 - l)) then some (axisPort a plus (1 - l)) else none

/-- A `WINDOW_CLOSE` completes once no write is left that was accepted on its window before the close (R189). -/
def State.settleCloses (s : State) : State :=
  (s.items.filter fun t => t.op == some .windowClose && t.phase == .external &&
    !(s.rxs.any fun r => r.closers.contains t.id)).foldl (fun s t => s.finish t.id 0) s

/-- Forget what a port was doing: its link is down, what it held is gone, and so are the writes it was taking in or passing on. -/
def State.dropPort (s : State) (p : Nat) : State :=
  let s := s.modFlight p fun f => { f with link := .down, admitted := false, peerAdmitted := false, held := [], replies := [], inbox := [] }
  let s : State := { s with rxs := s.rxs.filter fun r => r.port != p, transits := s.transits.filter fun x => x.port != p && x.out != p
                            passages := s.passages.filter fun x => x.port != p && x.out != p }
  s.setForeign p none

/-- The declaration of R269 on a port that is UP. The port goes to DOWN, raises its event, sends its loss notices, and fails what
uses it. -/
def State.declareDown (s : State) (p : Nat) : State :=
  let l := s.portLink p
  let s := ((s.dropPort p).event (pgFlight p) 0).bump (pgFlight p) 0x21 1
  let s := (s.bothWays l.axis l.lane).foldl (fun s q => s.sendResponse q (.loss l.axis l.lower l.lane)) s
  let s := s.failOnLink l .peerLost
  ((s.items.filter (recvOnAxis l.axis)).foldl (fun s t => s.failItem t.id .peerLost) s).settleCloses

/-- A port that is UP declares its link down: with `ENABLE` clear it goes on to DISABLED; another retrains. -/
def State.linkDown (s : State) (p : Nat) : State :=
  if s.portUp p then
    let s := s.declareDown p
    if (s.flight p).enable then s else s.modFlight p fun f => { f with link := .disabled }
  else s

/-- A unit of `LINK_TO`, in nanoseconds (R267). -/
def linkToNs : Nat := 10000

/-- `LINK_DOWN`: nothing has come in on a port that is UP for its link timeout of newel time. -/
def State.linkTimeout (s : State) (p : Nat) : State :=
  let f := s.flight p
  if decide (f.heardAt.toNat + linkToNs * f.linkTo.toNat ≤ s.newel.time.toNat) then s.linkDown p else s

/-- `LOSS_NOTICE`: the items whose group or route includes the lost link fail, a `RECV` that names the axis with them (R187), and the notice
goes on round the axis, up to the ends of the link. -/
def State.lossNotice (s : State) (p : Nat) (a : Axis) (c l : Nat) : State :=
  let s := s.hear p
  let atEnd := s.coord a == c || s.coord a == (c + 1) % s.axisSize a
  let onward := axisPort a (!portPlus p) (p % 2)
  let from_ := if portPlus p then c else (c + 1) % s.axisSize a
  let s := if !atEnd && s.portUp onward then s.sendReply onward false (s.arrivedVc p from_) (.loss a c l) else s
  let s := s.failOnLink ⟨a, c, l⟩ .peerLost
  (s.items.filter (recvOnAxis a)).foldl (fun s t => s.failItem t.id .peerLost) s

/-- `HELLO_RECEIVE`. A peer of another serial than the one that is being admitted needs an approval of its own (R268). -/
def State.helloReceive (s : State) (p : Nat) (h : Hello) : State :=
  let f := s.flight p
  if s.flightOut p || !f.enable || !f.link.sendsHello then s
  else
    let s := (s.hear p).modFlight p (Flight.seePeer h)
    if f.link = .up then (if h.admitted then s else s.linkDown p)
    else
      let m := s.helloMismatch p h
      if m ≠ 0 then
        ((s.modFlight p fun f => { f with mismatch := m, link := .hello, admitted := false }).event (pgFlight p) 0).bump (pgFlight p) 0x22 1
      else
        let s := s.modFlight p fun f => { f with mismatch := 0 }
        if f.link = .hello ∨ f.peerSerial ≠ h.serial then
          (s.modFlight p fun f => { f with link := .awaitAdmit, admitted := false }).event (pgFlight p) 0
        else if f.link = .admitPending ∧ f.admitted ∧ h.admitted then s.modFlight p (Flight.bringUp s.newel.time)
        else s

/-- `LINK_TRAINED`: a port that trains, or retrains after a loss, enters HELLO. -/
def State.linkTrained (s : State) (p : Nat) : State :=
  let f := s.flight p
  if !s.flightOut p && f.enable && (f.link == .training || f.link == .down) then
    s.modFlight p fun f => { f with link := .hello, admitted := false, peerAdmitted := false }
  else s

/-- `ADMIT_PENDING_RELEASE`: no collective item is open on the axis, so the port sets the admitted flag; the link is UP when both
ends have set it. -/
def State.admitRelease (s : State) (p : Nat) : State :=
  let f := s.flight p
  if f.link = .admitPending ∧ !f.admitted ∧ !(s.colls.any fun c => c.axis == portAxis p) then
    s.modFlight p fun f => if f.peerAdmitted then { f with admitted := true }.bringUp s.newel.time else { f with admitted := true }
  else s

/-! ### `FLT_CTL` and `FLT_ADMIT` (R261, R267, R305) -/

/-- Take a port to DISABLED. -/
def State.portOff (s : State) (p : Nat) : State :=
  let s := if s.portUp p then s.declareDown p else s
  s.modFlight p fun f => { f with link := .disabled, admitted := false, peerAdmitted := false, held := [], replies := [], inbox := [] }

/-- A write of `FLT_CTL`. -/
def State.flightEnable (s : State) (p : Nat) (v : W32) : State :=
  let f := s.flight p
  let en := v.getLsbD 0
  let mode := v.getLsbD 1
  if s.flightAbsent p then s
  else if !s.ready || (f.enable && mode != f.mode) then s.refuse (pgFlight p) v
  else
    let s := s.modFlight p fun f => { f with enable := en, mode := mode }
    if en && !f.enable then
      if s.axisSize (portAxis p) = 1 then s else s.modFlight p fun f => { f with link := .training, mismatch := 0 }
    else if !en && f.enable then s.portOff p else s

/-- `ADMIT`: the peer shown is approved. -/
def State.flightAdmit (s : State) (p : Nat) : State :=
  if (s.flight p).link = .awaitAdmit ∧ !s.flightAbsent p then s.modFlight p fun f => { f with link := .admitPending } else s

/-- `REJECT`: the peer shown is refused. -/
def State.flightReject (s : State) (p : Nat) : State :=
  if ((s.flight p).link = .awaitAdmit ∨ (s.flight p).link = .admitPending) ∧ !s.flightAbsent p then
    (s.modFlight p fun f => { f with enable := false }).portOff p
  else s

/-! ### Frames, flow control, credits, forwarding (R259, R262, R264, R265, R270) -/

/-- `FRAME_RECEIVE`: a frame of another EtherType or priority is dropped and counted; what an accepted frame carries arrives as the
command of its own. A PTP frame is taken on any priority: R259 speaks of the priorities of datagrams (DESIGN CHOICE; log 56). -/
def State.frameReceive (s : State) (p : Nat) (ty : BitVec 16) (prio : Nat) : State :=
  if s.flightAbsent p || !(s.flight p).mode || (s.flight p).link == .disabled then s
  else if ty = etherPtp ∨ (ty = etherKwedun ∧ 4 ≤ prio ∧ prio ≤ 7) then s.hear p
  else s.bump (pgFlight p) 0x20 1

/-- `PFC_FRAME`: bit q set pauses priority q; only priorities 4–7 are honoured. -/
def State.pfcFrame (s : State) (p : Nat) (prios : BitVec 8) : State :=
  if s.flightAbsent p || !(s.flight p).mode then s
  else (s.modFlight p fun f => { f with paused := prios &&& 0xF0 }).flushHeld p

/-- The next port of express traffic to an address; none for this module itself. -/
def State.nextPort (s : State) (dest : W64) : Option Nat := (s.route true dest.toNat).map (·.1)

/-- The branch of an express write noted on a port it leaves by. -/
def State.passage (s : State) (origin q : Nat) : Option Passage := s.passages.find? fun x => x.out == q && x.origin == origin

/-- Note a branch of an express write as its first datagram passes, in place of an earlier one. -/
def State.notePassage (s : State) (x : Passage) : State :=
  { s with passages := (s.passages.filter fun y => !(y.out == x.out && y.origin == x.origin)) ++ [x] }

/-- Pass express traffic on by port `q` to those of its destinations that lie beyond it. The first datagram of a write says how long the write
is; its branch is noted for what comes back. Nothing of the stream goes on by a branch that has been pruned (R278). -/
def State.passOn (portIn vc origin : Nat) (dests : List W64) (data : List Byte) (length stall : Nat) (s : State) (q : Nat) : State :=
  if s.portUp q then
    let vc := if portAxis q = portAxis portIn then vc else 0
    let beyond := dests.filter fun d => s.nextPort d == some q
    if length = 0 && ((s.passage origin q).map (·.pruned)).getD false then s
    else
      (if length = 0 then s else s.notePassage ⟨portIn, origin, q, beyond, stall, false⟩).sendRequest q (priorityOf true (s.linkVc q vc))
        (.forwarded origin beyond data length stall)
  else s.sendReply portIn true 0 (.nack origin .peerLost)

/-- `EXPRESS_FORWARD`: the datagram goes on towards its modules without entering a hall, once on each port where their routes part (R278);
where a next link is not UP, a negative acknowledgement goes back. What is for this module is not forwarded. -/
def State.expressForward (s : State) (portIn vc origin : Nat) (dests : List W64) (data : List Byte) (length stall : Nat) : State :=
  let ports := dests.foldl (fun acc d => match s.nextPort d with
    | some q => insertNat acc q
    | none => acc) []
  if s.ready && s.portUp portIn then
    ports.foldl (State.passOn portIn vc origin dests data length stall) (s.takeIn portIn origin (priorityOf true vc))
  else s

/-! ### Remote writes, at the receiver (R276, R277, R288, R319) -/

/-- What stops a write through a window by where its base lies (R37): an absent hall, a reserved space, bit or offset, space 4, and space 5,
which commands of the operator's rings alone reach (R353). -/
def State.baseRefusal (s : State) (base : Nat) : Option Status :=
  if s.addrAbsent base then some .engineAbsent
  else if !addrShapeOk base || addrSpace base == 5 then some .access
  else none

/-- R276: the status that a first datagram is refused with, if it is; a window of a lost hall is absent (R288), and bytes beyond the limit of
their region are not written (R37). -/
def State.acceptRefusal (s : State) (h : RemoteHead) : Option Status :=
  let a := h.address.toNat
  let key := windowKey (peerHall a) (peerWindow a)
  let w := s.window key
  if !s.hallHere (peerHall a) then some .engineAbsent
  else if !winOpen w || winGen w != h.generation then some .windowClosed
  else if h.sourceOwner != operatorOwner && winOwner w != h.sourceOwner then some .access
  else if (s.baseRefusal (winBase w)).isSome then s.baseRefusal (winBase w)
  else if winFormat w != h.sourceFormat || !winPacked w || s.meetsCtxTable (winBase w + peerOffset a) h.sourceBytes then some .access
  else if peerOffset a + h.sourceBytes > winExtent w then some .lengthBound
  else if h.sourceBytes ≠ 0 && !rangeOk (winBase w + peerOffset a) h.sourceBytes then some .access
  else if winOwner w != operatorOwner && (addrSpace (winBase w) == 2 || addrSpace (winBase w) == 3) && !s.keyValid (winOwner w) then some .key
  else none

/-- Whether an address is this module's own. -/
def State.addressedHere (s : State) (a : Nat) : Bool := (s.awayAxes a).isEmpty

/-- The bytes a receiver takes in before it places them: a whole sealed chunk of a push, or whatever one datagram brings. -/
def Receiving.chunkLength (r : Receiving) : Nat := Nat.min 65536 (r.head.sourceBytes - r.got) + 16

/-- The port by which axis-class traffic that came in on port `p` goes on round its axis, on the same lane (R262). -/
def onwardPort (p : Nat) : Nat := axisPort (portAxis p) (!portPlus p) (p % 2)

/-- The chunks of a write: 64 KiB each. -/
def chunkCount (n : Nat) : Nat := (n + 65535) / 65536

/-- The first datagram of an axis-class write for another module of the axis goes on, and its transit is noted (R262). It waits for a channel of
the port it leaves by (R263). -/
def State.passWrite (s : State) (p : Nat) (h : RemoteHead) : State :=
  let q := onwardPort p
  let prio := priorityOf h.express h.vc
  if h.express || s.awayAxes h.address.toNat != [portAxis p] || !s.portUp q then s.takeIn p h.origin prio
  else if s.channelRoom q (some (peerHall h.address.toNat)) then
    let vc := s.linkVc q h.vc
    let x : Transit := ⟨p, h.origin, q, vc, peerHall h.address.toNat, h.sourceBytes, chunkCount h.sourceBytes⟩
    let s := s.takeIn p h.origin prio
    ({ s with transits := if h.sourceBytes = 0 then s.transits else s.transits ++ [x] } : State).sendRequest q (priorityOf false vc) (.head { h with vc := vc })
  else s.bufferIn p h.origin prio

/-- A further datagram of a write in transit goes on. -/
def State.passBody (s : State) (x : Transit) (data : List Byte) : State :=
  let step (y : Transit) : Transit := if y = x then { y with left := y.left - data.length } else y
  let s := s.takeIn x.port x.origin (priorityOf false 0)
  ({ s with transits := s.transits.map step } : State).sendRequest x.out (priorityOf false x.vc) (.body x.origin data)

/-- `REMOTE_WRITE_ACCEPT`: the flight accepts the write or refuses it whole. -/
def State.acceptWrite (s : State) (p : Nat) (h : RemoteHead) : State :=
  if !s.ready || !s.portUp p then s
  else if !s.addressedHere h.address.toNat then s.passWrite p h
  else
    let s := s.takeIn p h.origin (priorityOf h.express h.vc)
    match s.acceptRefusal h with
    | some st => s.sendReply p h.express 0 (.nack h.origin st)
    | none =>
      let key := windowKey (peerHall h.address.toNat) (peerWindow h.address.toNat)
      { s with rxs := s.rxs ++ [⟨p, h, key, 0, [], []⟩] }

/-- The `RECV`s that a window's arrival count has satisfied complete (R187). -/
def State.settleReceivers (s : State) (key : Nat) : State :=
  (s.items.filter fun t => t.op == some .recv && t.phase == .external && handleKey (word32 t.desc 16) == key &&
    decide (byteField t.desc 24 8 ≤ s.arrival key)).foldl (fun s t => s.finish t.id 0) s

/-- The acknowledgements due when a receiver's count goes from `a` to `b` bytes of `n`: one for each 64 KiB chunk, the last one
included. -/
def acksDue (a b n : Nat) : Nat := b / 65536 - a / 65536 + (if b = n ∧ n % 65536 ≠ 0 then 1 else 0)

/-- End a write that stops before its end: the sender gets the status, and what was written stays (R270, R288, R319). -/
def State.dropWrite (s : State) (r : Receiving) (st : Status) : State :=
  ({ s with rxs := s.rxs.filter fun x => !(x.port == r.port && x.head.origin == r.head.origin) }.sendReply r.port
    r.head.express 0 (.nack r.head.origin st)).settleCloses

/-- Place plaintext bytes of an accepted write, in order; count them, acknowledge whole chunks and let receivers see them. -/
def State.placeWrite (s : State) (r : Receiving) (bs : List Byte) (chunk : List Byte) : State :=
  let w := s.window r.windowKey
  let a := winBase w + peerOffset r.head.address.toNat + r.got
  let got := r.got + bs.length
  let s := s.store (s.access 0 w) a bs
  let s := if addrSpace a = 0 then s.markFull a bs.length else s
  let s := s.setArrival r.windowKey (s.arrival r.windowKey + bs.length)
  let s := (List.range (acksDue r.got got r.head.sourceBytes)).foldl (fun s _ => s.sendReply r.port r.head.express 0 (.ack r.head.origin)) s
  let mine (x : Receiving) : Bool := x.port == r.port && x.head.origin == r.head.origin
  let rxs := (s.rxs.map fun x => if mine x then { x with got := got, chunk := chunk } else x).filter fun x =>
    decide (x.got < x.head.sourceBytes)
  let s := { s with rxs := rxs }
  (s.settleReceivers r.windowKey).settleCloses

/-- Verify and place a whole sealed chunk of a push (R319). -/
def State.placeSealed (s : State) (r : Receiving) (chunk : List Byte) : State :=
  let w := s.window r.windowKey
  let c := winOwner w
  match s.dataKey (s.keySlotOf c) with
  | none => s.dropWrite r .key
  | some k =>
    match gcmOpen (pushKey k r.head.context r.head.pushNonce) (pushIv r.head.pushCounter (r.got / 65536))
        (pushAad r.head.context (r.windowKey % 65536) r.head.generation) chunk with
    | none => s.dropWrite r .key
    | some plain => s.placeWrite r plain []

/-- What stops a write that is being placed. -/
def State.writeStop (s : State) (r : Receiving) (n : Nat) : Option Status :=
  let base := winBase (s.window r.windowKey)
  if s.hallLost (r.windowKey / 65536) || !s.hallReaches (homeHall r.port) (r.windowKey / 65536) ||
      (addrSpace base ≤ 3 && !s.hallReaches (homeHall r.port) (addrHome base)) then some .hallLost
  else s.accessFault 0 (s.window r.windowKey) [(winBase (s.window r.windowKey) + peerOffset r.head.address.toNat + r.got, n)]

/-- The priority on which a write arrives. -/
def Receiving.priority (r : Receiving) : Nat := priorityOf r.head.express r.head.vc

/-- Whether bytes of a write must wait: their loom-store granules are not empty (R203), or they lie in a range being zeroed (R212). -/
def State.writeHeld (s : State) (a n : Nat) : Bool := s.hitsZeroing a n || (addrSpace a == 0 && !s.allEmpty a n)

/-- `REMOTE_DATAGRAM`: the next bytes of an accepted write, or of one in transit. What belongs to neither is dropped, the rest of a refused
write among it. -/
def State.remoteDatagram (s : State) (p origin : Nat) (data : List Byte) (express : Bool) : State :=
  if !s.ready || !s.portUp p then s
  else match s.rxs.find? fun r => r.port == p && r.head.origin == origin with
  | none => match s.transits.find? fun x => x.port == p && x.origin == origin && decide (0 < x.left) with
    | some x => s.passBody x data
    | none => s.takeIn p origin (priorityOf express 0)
  | some r =>
    let chunk := r.chunk ++ data
    let n := if r.head.sealedPush then r.chunkLength - 16 else (data.take (r.head.sourceBytes - r.got)).length
    let a := winBase (s.window r.windowKey) + peerOffset r.head.address.toNat + r.got
    match s.writeStop r n with
    | some st => (s.takeIn p origin r.priority).dropWrite r st
    | none =>
      if r.head.sealedPush && decide (chunk.length < r.chunkLength) then
        let s := s.takeIn p origin r.priority
        { s with rxs := s.rxs.map fun x => if x.port == p && x.head.origin == origin then { x with chunk := chunk } else x }
      else if s.writeHeld a n then s.bufferIn p origin r.priority
      else if r.head.sealedPush then (s.takeIn p origin r.priority).placeSealed r (chunk.take r.chunkLength)
      else (s.takeIn p origin r.priority).placeWrite r (data.take n) []

/-! ### `RECV`, `WINDOW_OPEN`, `WINDOW_CLOSE` (R187, R189, R318) -/

/-- Whether the window table of an item's window is out of service (R288). -/
def windowHall (t : Item) : Nat := handleHall (word32 t.desc 16)

/-- `RECV`. -/
def State.recv (t : Item) (s : State) : State :=
  let key := handleKey (word32 t.desc 16)
  if s.hallLost (windowHall t) then s.failItem t.id .hallLost
  else if !winOpen (s.window key) then s.failItem t.id .windowClosed
  else if byteField t.desc 24 8 ≤ s.arrival key then s.finish t.id 0
  else s.modItem t.id fun t => { t with phase := .external }

/-- `WINDOW_OPEN`: an open window stays as it is. -/
def State.windowOpen (t : Item) (s : State) : State :=
  let key := handleKey (word32 t.desc 16)
  let w := s.window key
  if s.hallLost (windowHall t) then s.failItem t.id .hallLost
  else if winOpen w then s.finish t.id 0
  else ((s.setWindow key (winSetOpen w true)).setArrival key 0).finish t.id 0

/-- `WINDOW_CLOSE`: a closed window stays as it is; a close waits for the writes accepted before it. -/
def State.windowClose (t : Item) (s : State) : State :=
  let key := handleKey (word32 t.desc 16)
  let w := s.window key
  if s.hallLost (windowHall t) then s.failItem t.id .hallLost
  else if !winOpen w then s.finish t.id 0
  else if addrSpace (winBase w) = 3 ∧ winGen w = 0xFFFFFFFF then s.failItem t.id .key
  else
    let close (r : Receiving) : Receiving := if r.windowKey = key then { r with closers := r.closers ++ [t.id] } else r
    let s := { s.closeWindow key with rxs := s.rxs.map close }
    (s.modItem t.id fun t => { t with phase := .external }).settleCloses

/-! ### Commands -/

/-- `PTP_MESSAGE` (R280). -/
def execPtpMessage (message : PtpMessage) (s : State) : Host.Outcome State Fault Refusal := .next (s.ptpMessage message)
/-- `HELLO_SEND` (R266). -/
def execHelloSend (port : Nat) (s : State) : Host.Outcome State Fault Refusal := .next (s.helloSend port)
/-- `HELLO_RECEIVE` (R266–R269). -/
def execHelloReceive (port : Nat) (hello : Hello) (s : State) : Host.Outcome State Fault Refusal := .next (s.helloReceive port hello)
/-- `LINK_TRAINED` (R267, R269). -/
def execLinkTrained (port : Nat) (s : State) : Host.Outcome State Fault Refusal := .next (s.linkTrained port)
/-- `ADMIT_PENDING_RELEASE` (R268). -/
def execAdmitPendingRelease (port : Nat) (s : State) : Host.Outcome State Fault Refusal := .next (s.admitRelease port)
/-- `LINK_DOWN` (R269). -/
def execLinkDown (port : Nat) (s : State) : Host.Outcome State Fault Refusal := .next (s.linkTimeout port)
/-- `LOSS_NOTICE` (R269). -/
def execLossNotice (port : Nat) (axis : Axis) (coordinate lane : Nat) (s : State) : Host.Outcome State Fault Refusal :=
  .next (s.lossNotice port axis coordinate lane)
/-- `REMOTE_WRITE_ACCEPT` (R186, R276). -/
def execRemoteWriteAccept (port : Nat) (head : RemoteHead) (s : State) : Host.Outcome State Fault Refusal :=
  .next (s.acceptWrite port head)
/-- `REMOTE_DATAGRAM` (R187, R276, R277, R288, R319). -/
def execRemoteDatagram (port origin : Nat) (data : List Byte) (s : State) (express : Bool := false) : Host.Outcome State Fault Refusal :=
  .next (s.remoteDatagram port origin data express)
/-- `NEGATIVE_ACK` (R186, R270, R278). -/
def execNegativeAck (it : ItemId) (receiver : Nat) (status : Status) (s : State) (port : Nat := 0) (passing : Option Nat := none) :
    Host.Outcome State Fault Refusal := .next (s.negativeAck it receiver status port passing)
/-- `EXPRESS_FORWARD` (R262, R264, R270, R278). -/
def execExpressForward (portIn vc origin : Nat) (destinations : List W64) (data : List Byte) (s : State) (length : Nat := 0)
    (stall : Nat := 0) : Host.Outcome State Fault Refusal := .next (s.expressForward portIn vc origin destinations data length stall)
/-- `FRAME_RECEIVE` (R259). -/
def execFrameReceive (port : Nat) (etherType : BitVec 16) (priority : Nat) (s : State) : Host.Outcome State Fault Refusal :=
  .next (s.frameReceive port etherType priority)
/-- `PFC_FRAME` (R259). -/
def execPfcFrame (port : Nat) (priorities : BitVec 8) (s : State) : Host.Outcome State Fault Refusal := .next (s.pfcFrame port priorities)
/-- `SEND` (R186, R262, R263, R270). -/
def execSend (it : ItemId) (s : State) : Host.Outcome State Fault Refusal := .next (s.withItem it .send State.send)
/-- `RECV` (R187). -/
def execRecv (it : ItemId) (s : State) : Host.Outcome State Fault Refusal := .next (s.withItem it .recv State.recv)
/-- `MULTICAST` (R188, R278). -/
def execMulticast (it : ItemId) (s : State) : Host.Outcome State Fault Refusal := .next (s.withItem it .multicast State.multicast)
/-- `MULTICAST_CHUNK_ACK` (R278). -/
def execMulticastChunkAck (it : ItemId) (receiver : Nat) (s : State) (port : Nat := 0) (passing : Option Nat := none) :
    Host.Outcome State Fault Refusal := .next (s.chunkAck it receiver port passing)
/-- `MULTICAST_PRUNE` (R278). -/
def execMulticastPrune (it : ItemId) (receivers : List Nat) (s : State) (place : PrunePlace := .source) : Host.Outcome State Fault Refusal :=
  .next (s.prune it receivers place)
/-- `WINDOW_OPEN` (R189). -/
def execWindowOpen (it : ItemId) (s : State) : Host.Outcome State Fault Refusal := .next (s.withItem it .windowOpen State.windowOpen)
/-- `WINDOW_CLOSE` (R189, R318). -/
def execWindowClose (it : ItemId) (s : State) : Host.Outcome State Fault Refusal := .next (s.withItem it .windowClose State.windowClose)
/-- `BUDDY_PUSH` (R190, R319). -/
def execBuddyPush (it : ItemId) (s : State) : Host.Outcome State Fault Refusal := .next (s.withItem it .buddyPush State.buddyPush)
/-- `FLIGHT_ENABLE` (R267). -/
def execFlightEnable (port : Nat) (value : W32) (s : State) : Host.Outcome State Fault Refusal := .next (s.flightEnable port value)
/-- `FLIGHT_ADMIT` (R268). -/
def execFlightAdmit (port : Nat) (s : State) : Host.Outcome State Fault Refusal := .next (s.flightAdmit port)
/-- `FLIGHT_REJECT` (R267). -/
def execFlightReject (port : Nat) (s : State) : Host.Outcome State Fault Refusal := .next (s.flightReject port)

end Sys2Proof.Machine
end

