-- ==== Sys2Proof/Machine/Collective.lean ====
section
/-!
DEFINITION. Collectives (R185, R234, R248, R271–R274): the opening exchange, the ring reduction and the gather, the shard handed to a
selvedge, withdrawals and timeouts; and the acquisition of a channel by an item that waited for one (R263).
-/
namespace Sys2Proof.Machine

/-! ### Shards and windows of a collective (R271) -/

/-- The first element of shard `j`, and its length. -/
def Collective.shardStart (c : Collective) (j : Nat) : Nat := j * c.elements / Nat.max 1 c.group
def Collective.shardLength (c : Collective) (j : Nat) : Nat := c.shardStart (j + 1) - c.shardStart j
/-- The member a member sends to. -/
def Collective.next (c : Collective) : Nat := nextPos c.plus c.group c.position
/-- The shard whose reduction starts at this member, and the shard that ends here. -/
def Collective.firstShard (c : Collective) : Nat := prevPos c.plus c.group c.position

/-- The opcodes. -/
def codeReduceScatter : Nat := 0x50
def codeAllGather : Nat := 0x51
def codeAllReduce : Nat := 0x52

/-- The bytes of an element of a window of a collective. -/
def elemBytes (w : Block512) : Nat := formatBits (winFormat w) / 8

/-- The bytes of block `j` in a phase: shard j of the reduction and of the gather that follows one, a whole source in an all-gather. -/
def Collective.blockBytes (c : Collective) (sz j : Nat) : Nat :=
  if c.opcode = codeAllGather then c.elements * sz else c.shardLength j * sz
/-- Where block `j` lies in a destination that takes every block. -/
def Collective.blockStart (c : Collective) (sz j : Nat) : Nat :=
  if c.opcode = codeAllGather then j * c.elements * sz else c.shardStart j * sz

/-- The port that a collective sends on. -/
def State.collSendPort (s : State) (c : Collective) : Nat := (s.collPorts c.axis c.tag c.group c.position).1
/-- Its completing flight. -/
def State.collRecvPort (s : State) (c : Collective) : Nat := (s.collPorts c.axis c.tag c.group c.position).2

/-- The port on which a member that stands between the ends of a ring passes on what goes the other way to close it, where the group does not fill
its axis (R272): it holds a channel there too (R263). -/
def State.collPassPort (s : State) (c : Collective) : Option Nat :=
  if c.group < s.axisSize c.axis ∧ c.position ≠ firstPos c.plus c.group ∧ c.position ≠ lastPos c.plus c.group then
    some (axisPort c.axis (!c.plus) c.lane) else none
/-- Take the channels of a collective: its express channel, or one on each port it sends on (R263). -/
def State.takeChannels (s : State) (c : Collective) : Option State :=
  match s.takeChannel c.express (s.collSendPort c) c.item, s.collPassPort c with
  | some s, some p => if c.express then some s else s.takeChannel false p c.item
  | r, _ => r

/-- Whether the traffic of a member between its flights and a window has no route (R28). -/
def State.collCut (s : State) (c : Collective) (w : Block512) : Bool :=
  s.boot.diesFailed != 0 && addrSpace (winBase w) ≤ 3 &&
    [s.collSendPort c, s.collRecvPort c].any fun p => !s.hallReaches (homeHall p) (addrHome (winBase w))
/-- What stops a member's reads or writes of a window while its data moves. -/
def State.collFault (s : State) (t : Item) (c : Collective) (uses : Bool) (b : Nat) : Option Status :=
  (failIf (s.collCut c (t.winD b)) .hallLost).orElse fun _ => s.readFault (s.itemFunction t.id) uses [readAll (word32 t.desc b) (t.winD b)]

/-- The open collective of a tag on an axis. -/
def State.collective (s : State) (a : Axis) (tag : Nat) : Option Collective := s.colls.find? fun c => c.axis == a && c.tag == tag
/-- Change it. -/
def State.modCollective (s : State) (c : Collective) (f : Collective → Collective) : State :=
  { s with colls := s.colls.map fun x => if x.axis = c.axis ∧ x.tag = c.tag then f x else x }

/-! ### The sum at a member (R274) -/

/-- A BF16 code of an exact value, rounded once to nearest even. -/
def bf16Code : Val → Nat
  | .nan => fmtBF16.nanCode
  | .inf neg => fmtBF16.infCode neg
  | .fin neg m e => (convertMag fmtBF16 .nearest false neg m 1 e).1

/-- One element of a partial sum with the member's own added. -/
def reduceElem (reduceType : Nat) (part own : Nat) : Nat :=
  if reduceType = 0 then (add32 (BitVec.ofNat 32 part) (BitVec.ofNat 32 own)).toNat
  else bf16Code ((fmtBF16.decode part).add (fmtBF16.decode own))

/-- A run of elements. -/
def reduceBytes (reduceType sz : Nat) (part own : List Byte) : List Byte :=
  ((chunksOf sz (part.length / sz) part).zip (chunksOf sz (own.length / sz) own)).flatMap fun p =>
    leBytes sz (reduceElem reduceType (leNat p.1) (leNat p.2))

/-- The FP32 value of a reduced element. -/
def reducedWord (reduceType : Nat) (bs : List Byte) : W32 :=
  if reduceType = 0 then BitVec.ofNat 32 (leNat bs) else rne32 (fmtBF16.decode (leNat bs))

/-! ### Sending (R263, R265, R274) -/

/-- Send data of a block to the next member, and count the bytes. -/
def State.sendBlock (s : State) (c : Collective) (shard phase : Nat) (bs : List Byte) : State :=
  let p := s.collSendPort c
  let prio := priorityOf c.express (s.linkVc p 0)
  let s := s.modItem c.item fun t => { t with bytes := t.bytes + bs.length }
  (datagrams bs).foldl (fun s d => s.sendRequest p prio (.partialData c.axis c.tag c.group shard phase d)) s

/-! ### Handing a shard to a selvedge (R234, R252) -/

/-- The selvedge that updates the shard of an item: the host interface's where the slot's A window lies in space 3, else the one of
the completing flight. -/
def State.shardSelvedge (s : State) (t : Item) (c : Collective) : Nat :=
  let r := t.ctx (fieldNat t.desc 224 14)
  if addrSpace (winBase (t.handleWin (slotHandle r (fieldNat t.desc 240 3) 0))) = 3 then 12 else s.collRecvPort c

/-- The update of an item's shard, with no element there yet. -/
def State.updateOf (s : State) (t : Item) (c : Collective) : Update :=
  let ctx := fieldNat t.desc 224 14
  let slot := fieldNat t.desc 240 3
  let r := t.ctx ctx
  let src := t.winD 16
  let onA := gradIndex (t.handleWin (slotHandle r slot 8)) src
  let onB := gradIndex (t.handleWin (slotHandle r slot 12)) src
  let own := s.elementBytes (s.itemFunction t.id) src (elemBytes src * c.shardStart c.position) (elemBytes src * c.shardLength c.position)
  { item := t.id, context := ctx, slot := slot, first := (onA.orElse fun _ => onB).getD 0 + c.shardStart c.position, onB := onA.isNone
    total := c.shardLength c.position, reduced := []
    localGrad := (chunksOf (elemBytes src) (c.shardLength c.position) own).map (reducedWord c.reduceType)
    rootCounter := c.rootCounter, shardBatch := word32 t.desc 32, globalBatch := word32 t.desc 36, cut := none }

/-- Hand reduced elements of the shard to its selvedge; the first of them bring the update. -/
def State.handShard (s : State) (t : Item) (c : Collective) (first : Bool) (bs : List Byte) : State :=
  let p := s.shardSelvedge t c
  let s := if first then s.giveUpdate p (s.updateOf t c) else s
  let ws := (chunksOf (elemBytes (t.winD 16)) (bs.length / Nat.max 1 (elemBytes (t.winD 16))) bs).map (reducedWord c.reduceType)
  let add (u : Update) : Update := if u.item = t.id then { u with reduced := u.reduced ++ ws } else u
  s.modSelv p fun v => { v with queue := v.queue.map add }

/-! ### Completion (R271) -/

/-- Whether everything a member receives has come. -/
def Collective.allArrived (c : Collective) (sz : Nat) : Bool :=
  let others := (List.range c.group).filter (· != c.position)
  let reduced := ((List.range c.group).filter (· != c.firstShard)).all fun j => decide (c.shardLength j * sz ≤ Table.get 0 c.got j)
  let gathered := others.all fun j => decide (c.blockBytes sz j ≤ Table.get 0 c.got (16 + j))
  c.started && (c.opcode == codeAllGather || reduced) && (c.opcode == codeReduceScatter || gathered)

/-- A collective completes once all its data has come and gone; one with update completes with its update. -/
def State.settleCollective (s : State) (a : Axis) (tag : Nat) : State :=
  match s.collective a tag with
  | none => s
  | some c => match s.item c.item with
    | none => s
    | some t =>
      let src := t.winD 16
      if t.phase = .external ∧ !c.update ∧ c.allArrived (elemBytes src) ∧ !s.holdsFor c.item then
        let s := s.consume t (readAll (word32 t.desc 16) src)
        let s := s.produce (readAll (word32 t.desc 20) (t.winD 20))
        (s.finish t.id 0).releaseLinks t.id
      else s

/-! ### The opening exchange (R248, R271, R273) -/

/-- End a member for what its opening and that of position `h` disagree on: every member sees it, so none withdraws. What the members not
heard yet will open belongs to the collective that has failed. -/
def State.failOpening (s : State) (c : Collective) (h : Nat) (st : Status) : State :=
  let late := (List.range c.group).filter fun j => j != h && !c.joined.contains j
  let s := { s with stale := s.stale ++ late.map fun j => (c.axis, c.tag, j) }
  (s.modItem c.item fun t => { t with phase := .decided }).failItem c.item st

/-- Start moving data: the member's first shard of a reduction, or its whole source of an all-gather. -/
def State.startCollective (s : State) (c : Collective) : State :=
  match s.item c.item with
  | none => s
  | some t =>
    let src := t.winD 16
    let fn := s.itemFunction t.id
    let sz := elemBytes src
    match s.collFault t c true 16 with
    | some st => s.failItem t.id st
    | none =>
      let s := s.modCollective c fun c => { c with started := true }
      let s :=
        if c.opcode = codeAllGather then
          let bs := s.elementBytes fn src 0 (c.elements * sz)
          let s := (s.lookupElements src 0 (c.elements * sz)).putElementBytes fn (t.winD 20) (c.blockStart sz c.position) bs
          (s.modItem t.id fun t => { t with bytes := t.bytes + bs.length }).sendBlock c c.position 1 bs
        else
          (s.lookupElements src (c.shardStart c.firstShard * sz) (c.shardLength c.firstShard * sz)).sendBlock c c.firstShard 0
            (s.elementBytes fn src (c.shardStart c.firstShard * sz) (c.shardLength c.firstShard * sz))
      s.settleCollective c.axis c.tag

/-- What another member's opening does to an open collective. One of a collective that has failed here is forgotten. -/
def State.hearOpening (s : State) (h : OpenHead) : State :=
  if s.stale.contains (h.axis, h.tag, h.position) then { s with stale := s.stale.erase (h.axis, h.tag, h.position) }
  else match s.collective h.axis h.tag with
  | none => { s with openings := s.openings ++ [h] }
  | some c =>
    if h.position = c.position ∨ c.joined.contains h.position then s
    else if h.elements ≠ c.elements then s.failOpening c h.position .lengthBound
    else if h.opcode ≠ c.opcode ∨ h.reduceType ≠ c.reduceType then s.failOpening c h.position .access
    else
      let s := s.modCollective c fun c =>
        { c with joined := insertNat c.joined h.position
                 rootCounter := if h.position = 0 then h.rootCounter.getD c.rootCounter else c.rootCounter }
      match s.collective h.axis h.tag with
      | some c => if c.joined.length = c.group ∧ !c.started then s.startCollective c else s
      | none => s

/-- The openings heard before this member joined, of its own group. -/
def State.earlyOpenings (s : State) (a : Axis) (tag : Nat) : List OpenHead := s.openings.filter fun h => h.axis == a && h.tag == tag

/-- Whether a datagram of a collective that came in on port `q` only passes through this module's flights, on the path that closes a ring
which does not fill its axis (R272). -/
def State.passesThrough (s : State) (q : Nat) (a : Axis) (tag g : Nat) : Bool :=
  q != (s.collPorts a tag g (s.coord a % Nat.max 1 g)).2

/-- Pass it on, as long as the path goes on within the group. -/
def State.passCollective (s : State) (q g prio : Nat) (pk : Packet) : State :=
  if s.portUp (onwardPort q) && s.groupBeyond (onwardPort q) g then s.sendRequest (onwardPort q) prio pk else s

/-- The coordinate of the member of this module's group at a position. -/
def State.memberCoord (s : State) (a : Axis) (g p : Nat) : Nat := s.coord a / Nat.max 1 g * Nat.max 1 g + p

/-- `COLLECTIVE_OPEN`: an opening goes on round the group, and this member takes note of it. -/
def State.collectiveOpen (s : State) (q : Nat) (h : OpenHead) : State :=
  if !s.ready || !s.portUp q then s
  else
  let vc := s.arrivedVc q (s.memberCoord h.axis h.group h.position)
  let s := s.takeIn q (collSender h.axis h.tag) (priorityOf h.express vc)
  if s.passesThrough q h.axis h.tag h.group then s.passCollective q h.group (priorityOf h.express 0) (.opening h)
  else
  let p := s.coord h.axis % Nat.max 1 h.group
  let (plus, _) := s.tagWay h.tag
  let out := (s.collPorts h.axis h.tag h.group p).1
  let s := if nextPos plus h.group p ≠ h.position ∧ p ≠ h.position ∧ s.portUp out then
      s.sendRequest out (priorityOf h.express (s.linkVc out vc)) (.opening h) else s
  if p = h.position then s else s.hearOpening h

/-- What this member says as it joins. -/
def openHeadOf (c : Collective) : OpenHead :=
  { axis := c.axis, tag := c.tag, position := c.position, opcode := c.opcode, elements := c.elements, group := c.group
    reduceType := c.reduceType, express := c.express, rootCounter := if c.update && c.position == 0 then some c.rootCounter else none }

/-- The collective of an item as it joins. -/
def State.collectiveOf (s : State) (t : Item) : Collective :=
  let d := t.desc
  let a := descAxis d
  let g := descGroup d
  let tag := descTag d
  let (plus, lane) := s.tagWay tag
  let p := s.coord a % Nat.max 1 g
  { item := t.id, axis := a, tag := tag, opcode := descCode d, elements := winCount (t.winD 16), group := g, position := p
    reduceType := fieldNat d 194 2, plus := plus, lane := lane, express := d.getLsbD 196, joined := [p]
    rootCounter := if updateFlag d && p == 0 then ctxCounter (s.ctx (fieldNat d 224 14)) else 0
    update := updateFlag d, started := false, got := [], joinedAt := s.newel.time }

/-- The shared body of the three collectives. A tag already open is a conflict, a first port that is not UP is a lost peer; without a
free channel or its tokens the member waits and holds nothing; else it joins. -/
def State.joinCollective (t : Item) (s : State) : State :=
  let c := s.collectiveOf t
  let out := s.collSendPort c
  let rd := readAll (word32 t.desc 16) (t.winD 16)
  let wr := if c.update then [] else [readAll (word32 t.desc 20) (t.winD 20)]
  let fn := s.itemFunction t.id
  if (s.collective c.axis c.tag).isSome then s.failItem t.id .conflict
  else if !s.portUp out then s.failItem t.id .peerLost
  else match (s.readFault fn true [rd]).orElse fun _ => s.readFault fn false wr with
    | some st => s.failItem t.id st
    | none =>
      if s.readReady t rd && wr.all s.writeReady then
        match s.takeChannels c with
        | none => s
        | some s =>
          let early := s.earlyOpenings c.axis c.tag
          let s := { s with colls := s.colls ++ [c], openings := s.openings.filter fun h => !(h.axis == c.axis && h.tag == c.tag) }
          let s := s.modItem t.id fun t => { t with phase := .external }
          let s := s.sendRequest out (priorityOf c.express (s.linkVc out 0)) (.opening (openHeadOf c))
          early.foldl State.hearOpening s
      else s

/-! ### Data (R271, R274) -/

/-- Whether a datagram would begin an update of a selvedge that holds 16 updates: the fabric holds it back (R236). -/
def State.updateHeld (s : State) (t : Item) (c : Collective) (j phase : Nat) : Bool :=
  c.update && phase == 0 && j == c.position && Table.get 0 c.got j == 0 && decide (16 ≤ (s.selv (s.shardSelvedge t c)).queue.length)

/-- A datagram of the reduction: the member adds its own part, and passes the sum on or keeps it. -/
def State.reduceData (s : State) (t : Item) (c : Collective) (j : Nat) (data : List Byte) : State :=
  let src := t.winD 16
  let fn := s.itemFunction t.id
  let sz := elemBytes src
  let off := Table.get 0 c.got j
  if j ≥ c.group ∨ j = c.firstShard ∨ c.shardLength j * sz < off + data.length ∨ data = [] then s
  else match s.collFault t c true 16 with
    | some st => s.failItem t.id st
    | none =>
      let own := s.elementBytes fn src (c.shardStart j * sz + off) data.length
      let s := s.lookupElements src (c.shardStart j * sz + off) data.length
      let sum := reduceBytes c.reduceType sz data own
      let s := s.modCollective c fun c => { c with got := Table.set 0 c.got j (off + data.length) }
      if j ≠ c.position then s.sendBlock c j 0 sum
      else if c.update then s.handShard t c (off == 0) sum
      else match s.collFault t c false 20 with
        | some st => s.failItem t.id st
        | none =>
          let at_ := if c.opcode = codeReduceScatter then off else c.shardStart j * sz + off
          let s := s.putElementBytes fn (t.winD 20) at_ sum
          let s := s.modItem t.id fun t => { t with bytes := t.bytes + sum.length }
          if c.opcode = codeAllReduce then s.sendBlock c j 1 sum else s

/-- A datagram of the gather: the member keeps a copy, and passes it on unless the next member is where it began. -/
def State.gatherData (s : State) (t : Item) (c : Collective) (j : Nat) (data : List Byte) : State :=
  let dst := t.winD 20
  let fn := s.itemFunction t.id
  let sz := elemBytes (t.winD 16)
  let off := Table.get 0 c.got (16 + j)
  if j ≥ c.group ∨ j = c.position ∨ c.opcode = codeReduceScatter ∨ c.blockBytes sz j < off + data.length then s
  else match s.collFault t c false 20 with
    | some st => s.failItem t.id st
    | none =>
      let s := s.putElementBytes fn dst (c.blockStart sz j + off) data
      let s := s.modItem t.id fun t => { t with bytes := t.bytes + data.length }
      let s := s.modCollective c fun c => { c with got := Table.set 0 c.got (16 + j) (off + data.length) }
      if c.next = j then s else s.sendBlock c j 1 data

/-- Whether what a datagram needs of a member's windows is being zeroed, so that it waits (R212). -/
def State.dataHeld (s : State) (t : Item) (c : Collective) (j phase n : Nat) : Bool :=
  let sz := elemBytes (t.winD 16)
  let meets (w : Block512) (pos : Nat) : Bool := (byteParts w pos n).any fun q => s.hitsZeroing q.1 q.2
  if phase = 0 then
    meets (t.winD 16) (c.shardStart j * sz + Table.get 0 c.got j) ||
      (j == c.position && !c.update &&
        meets (t.winD 20) ((if c.opcode = codeReduceScatter then 0 else c.shardStart j * sz) + Table.get 0 c.got j))
  else meets (t.winD 20) (c.blockStart sz j + Table.get 0 c.got (16 + j))

/-- The member here that data of a collective is for: open, started, and of the same group. -/
def State.dataFor (s : State) (a : Axis) (tag g : Nat) : Option (Collective × Item) :=
  (s.collective a tag).bind fun c => (s.item c.item).bind fun t =>
    if c.started ∧ t.phase = .external ∧ c.group = g then some (c, t) else none

/-- `COLLECTIVE_DATA`. What passes through goes on in its own class; what no member waits for is dropped. -/
def State.collectiveData (s : State) (q : Nat) (a : Axis) (tag g j phase : Nat) (data : List Byte) (express : Bool) : State :=
  let prio := priorityOf express (if (s.portLink q).lower + 1 = s.axisSize a then 1 else 0)
  if !s.ready || !s.portUp q then s
  else if s.passesThrough q a tag g then
    (s.takeIn q (collSender a tag) prio).passCollective q g (priorityOf express 0) (.partialData a tag g j phase data)
  else match s.dataFor a tag g with
  | none => s.takeIn q (collSender a tag) prio
  | some (c, t) =>
    if s.dataHeld t c j phase data.length || s.updateHeld t c j phase then s.bufferIn q (collSender a tag) prio
    else
      let s := s.takeIn q (collSender a tag) prio
      (if phase = 0 then s.reduceData t c j data else s.gatherData t c j data).settleCollective a tag

/-! ### Withdrawals and limits (R273) -/

/-- `JOIN_TIMEOUT`: a member that has joined fails when the others have not within the join timeout of the port it sends on. -/
def State.joinTimeout (s : State) (i : ItemId) : State :=
  match s.colls.find? fun c => c.item == i with
  | some c =>
    let limit := 1000000 * (s.flight (s.collSendPort c)).joinTo.toNat
    if !c.started && decide (c.joinedAt.toNat + limit ≤ s.newel.time.toNat) then s.failItem i .timeout else s
  | none => s

/-- The member of a collective that has been dispatched and has not joined, the first fetched where there are more. -/
def State.waitingMember (s : State) (a : Axis) (tag g : Nat) : Option Item :=
  s.items.find? fun t => (t.op.map collectiveOp).getD false && t.phase == .dispatched && descAxis t.desc == a && descTag t.desc == tag &&
    descGroup t.desc == g

/-- `COLLECTIVE_WITHDRAWAL`: it goes on round its group, and a member not yet complete fails. -/
def State.collectiveWithdrawal (s : State) (p : Nat) (a : Axis) (tag c g : Nat) : State :=
  let g := Nat.max 1 g
  if !s.ready || !s.portUp p || s.coord a / g ≠ c / g then s
  else
    let s := s.hear p
    let onward := axisPort a (!portPlus p) (p % 2)
    let s := if s.coord a ≠ c ∧ s.portUp onward ∧ s.groupBeyond onward g then
        s.sendReply onward false (s.arrivedVc p c) (.withdrawal a tag c g) else s
    let s := { s with openings := s.openings.filter fun h => !(h.axis == a && h.tag == tag && h.position == c % g), stale := s.stale.erase (a, tag, c % g) }
    match s.collective a tag with
    | some x => if s.coord a = c then s else s.failItem x.item .timeout
    | none => match s.waitingMember a tag g with
      | some t => if s.coord a = c then s else s.failItem t.id .timeout
      | none => s

/-! ### Credits and channels (R263, R265) -/

/-- `CREDIT_RECEIVE`: credits of a class come back, and what was held goes out as far as they allow. -/
def State.creditReceive (s : State) (p n : Nat) (express : Bool) : State :=
  if s.portUp p then
    let s := ((s.hear p).modFlight p (Flight.refill express n)).flushHeld p
    (s.colls.map fun c => (c.axis, c.tag)).foldl (fun s x => s.settleCollective x.1 x.2) s
  else s

/-- `CHANNEL_ACQUIRE`: an item that waited for a channel tries again; so does a `MULTICAST` that waited to begin its catch-up. -/
def State.channelAcquire (s : State) (i : ItemId) : State :=
  match (s.item i).bind Item.op with
  | some .send => s.withItem i .send State.send
  | some .multicast => (s.withItem i .multicast State.multicast).settleSending i
  | some .buddyPush => s.withItem i .buddyPush State.buddyPush
  | some .collReduceScatter => s.withItem i .collReduceScatter State.joinCollective
  | some .collAllGather => s.withItem i .collAllGather State.joinCollective
  | some .collAllReduce => s.withItem i .collAllReduce State.joinCollective
  | _ => s

/-! ### Commands -/

/-- `COLL_REDUCE_SCATTER` (R185, R271–R274). -/
def execCollReduceScatter (it : ItemId) (s : State) : Host.Outcome State Fault Refusal :=
  .next (s.withItem it .collReduceScatter State.joinCollective)
/-- `COLL_ALL_GATHER` (R185, R271–R274). -/
def execCollAllGather (it : ItemId) (s : State) : Host.Outcome State Fault Refusal :=
  .next (s.withItem it .collAllGather State.joinCollective)
/-- `COLL_ALL_REDUCE` (R185, R271–R274). -/
def execCollAllReduce (it : ItemId) (s : State) : Host.Outcome State Fault Refusal :=
  .next (s.withItem it .collAllReduce State.joinCollective)
/-- `COLLECTIVE_OPEN` (R273). -/
def execCollectiveOpen (head : OpenHead) (s : State) (port : Nat := 0) : Host.Outcome State Fault Refusal := .next (s.collectiveOpen port head)
/-- `JOIN_TIMEOUT` (R273). -/
def execJoinTimeout (it : ItemId) (s : State) : Host.Outcome State Fault Refusal := .next (s.joinTimeout it)
/-- `COLLECTIVE_WITHDRAWAL` (R273). -/
def execCollectiveWithdrawal (port : Nat) (axis : Axis) (tag coordinate group : Nat) (s : State) : Host.Outcome State Fault Refusal :=
  .next (s.collectiveWithdrawal port axis tag coordinate group)
/-- `COLLECTIVE_DATA` (R274). -/
def execCollectiveData (axis : Axis) (tag shard phase : Nat) (data : List Byte) (s : State) (port : Nat := 0) (group : Nat := 2)
    (express : Bool := false) : Host.Outcome State Fault Refusal := .next (s.collectiveData port axis tag group shard phase data express)
/-- `CREDIT_RECEIVE` (R265). -/
def execCreditReceive (port datagrams : Nat) (express : Bool) (s : State) : Host.Outcome State Fault Refusal :=
  .next (s.creditReceive port datagrams express)
/-- `CHANNEL_ACQUIRE` (R263). -/
def execChannelAcquire (it : ItemId) (s : State) : Host.Outcome State Fault Refusal := .next (s.channelAcquire it)

end Sys2Proof.Machine
end

