-- ==== Sys2Proof/Machine/Host.lean ====
section
/-!
DEFINITION. The host's side: ring reset and departure (R284, R285), readiness (R304), BAR4 (R300), completions and the host-memory
timeout (R301, R302), the CXL device cache (R303), and the link (R298, R306, R307).
-/
namespace Sys2Proof.Machine

/-! ### Ring reset and host departure (R283–R285) -/

/-- The hall byte of a record that no hall's execution completed (R10). -/
def noHallByte : Nat := 255

/-- A ring reset: the ring is fenced, every item of it without a record completes with `ST_ABORTED` once its running pieces have ended, and
the ring is DISABLED once C equals F. -/
def State.fenceRing (s : State) (g : Nat) : State :=
  ((((s.setRingState g ringFenced).modRing g fun r => { r with parked := none }).fenceItems g .aborted noHallByte).ringSettle g).settleWaits

/-- A write of DISABLED to the state of a ring. While the ring is FENCED it is refused (R129, R284), but that a ring left FENCED by records
that could not be written is DISABLED by it (R285). -/
def State.resetRing (s : State) (g : Nat) : State :=
  let st := ringState (s.ring g).entry
  if st = ringEnabled ∨ st = ringError then s.fenceRing g
  else if st = ringFenced then
    if s.items.any fun t => t.id.ring == g then s.refuse (pgTreadle (ringHall g)) (BitVec.ofNat 32 g) else s.setRingState g ringDisabled
  else s

/-- The host-interface state of one function as its reset leaves it: its window and its MSI-X table (R298, R306). -/
def HostIf.resetFunction (f : Nat) (h : HostIf) : HostIf :=
  let h := { h with msix := h.msix.filter fun p => p.1 / 2048 != f }
  if f = 0 then { h with bar4f0 := ⟨0, 0, false⟩ } else { h with bar4f1 := ⟨0, 0, false⟩ }

/-- Whether the module presents a function (R298). -/
def State.functionHere (s : State) (f : Nat) : Bool := f == 0 || (f == 1 && s.hif.split)

/-- The items that use host memory through a function, on rings of others: none has a pending answer after the departure. -/
def State.usesHost (s : State) (f : Nat) (t : Item) : Bool :=
  (s.ring t.id.ring).function == f && t.phase == .external && t.wins.any fun w => addrSpace (winBase w.2) == 3

/-- `HOST_DEPART`: the function's state is reset but on a link that merely goes down, its rings are reset, and what waits on host
memory through it fails. -/
def State.hostDepart (s : State) (f : Nat) (cause : DepartCause) : State :=
  if !s.functionHere f then s
  else
    let hif := { s.hif with departed := s.hif.departed ||| (1#2 <<< f) }
    let hif := if cause = .linkDown then hif else hif.resetFunction f
    let hif := if cause = .perst then
        { hif with released := Table.set 0 hif.released f 0, configReady := hif.configReady &&& ~~~(1#2 <<< f) } else hif
    let s := { s with hif := hif }
    let gs := (s.rings.filter fun p => p.2.function == f).map Prod.fst
    let s := gs.foldl (fun s g =>
      if ringState (s.ring g).entry = ringEnabled ∨ ringState (s.ring g).entry = ringError then s.fenceRing g else s) s
    (s.items.filter (s.usesHost f)).foldl (fun s t => s.failItem t.id .timeout) s

/-! ### Readiness (R304) -/

/-- The longest readiness interval: 100 ms. -/
def readinessNs : Nat := 100000000

/-- The newel time from which a function's readiness is measured: the later of its PERST# release and of the input's reaching 740 V, or of the end of
the 1 s of R326; none before both (R304, R326). -/
def State.readyFrom (s : State) (f : Nat) : Option Nat :=
  let released := Table.get 0 s.hif.released f
  if released = 0 ∨ !s.power.inputSeen then none else some (Nat.max (released - 1) s.power.inputAt.toNat)

/-- `CONFIG_REQUEST`: Retry Status until the function is ready. Within the interval the module may be ready or not: a free value. -/
def State.configRequest (s : State) (f : Nat) : State :=
  if !s.hostInterfaceUp then s
  else if !s.functionHere f then s.emit .unsupported
  else
    let answer (s : State) : State :=
      { s with hif := { s.hif with configReady := s.hif.configReady ||| (1#2 <<< f), departed := s.hif.departed &&& ~~~(1#2 <<< f) } }.emit
        (.configOk f)
    if s.hif.configReady.getLsbD f then answer s
    else match s.readyFrom f with
      | none => s.emit (.configRetry f)
      | some since =>
        if since + readinessNs ≤ s.newel.time.toNat then answer s
        else
          let (n, s) := s.draw
          if (Config.freeWord n).getLsbD 0 then answer s else s.emit (.configRetry f)

/-- `PERST_RELEASE`: the strap and the reference clock of the port are sampled, and the readiness interval begins. Port-1 signals are ignored in
x16 mode (R336). -/
def State.perstRelease (s : State) (f : Nat) (split toggles : Bool) : State :=
  if !s.hostInterfaceUp ∨ (f = 1 ∧ !split) then s
  else { s with hif := { s.hif with
    split := split, sris := if toggles then s.hif.sris &&& ~~~(1#2 <<< f) else s.hif.sris ||| (1#2 <<< f), released := Table.set 0 s.hif.released f (s.newel.time.toNat + 1)
    configReady := s.hif.configReady &&& ~~~(1#2 <<< f) } }

/-- `HOST_LINK_TRAINED`: the result of a port's training and negotiation is reported, and the host of its function is back. -/
def State.linkTrainedHost (s : State) (f speed width : Nat) (cxl : Bool) : State :=
  if s.hostInterfaceUp && s.functionHere f then
    { s with hif := { s.hif with
      speed := BitVec.ofNat 3 speed, width := BitVec.ofNat 5 width, cxl := cxl, departed := s.hif.departed &&& ~~~(1#2 <<< f)
      deviceCache := [] } }
  else s

/-! ### BAR4 (R300, R305) -/

/-- The window register of a function. -/
def State.bar4 (s : State) (f : Nat) : Bar4 := if f = 0 then s.hif.bar4f0 else s.hif.bar4f1
/-- The size of BAR4. -/
def bar4Size : Nat := 64 * 2 ^ 30

/-- The stack address that a BAR4 access reaches; none where it completes with Unsupported Request. -/
def State.bar4Target (s : State) (f off n : Nat) : Option Nat :=
  let b := s.bar4 f
  let o := b.base.toNat * 2 ^ 30 + off
  if s.ready && s.functionHere f && b.enable && s.hallHere b.hall.toNat && decide (off + n ≤ bar4Size) && decide (o + n ≤ stackSize) then
    some (hbmAddr b.hall.toNat o)
  else none

/-- `BAR4_ACCESS`. Its lookups carry key state none and allocate nothing (R208). -/
def State.bar4Access (s : State) (f : Nat) (write : Bool) (off n : Nat) (data : List Byte) : State :=
  if !s.hostInterfaceUp then s
  else match s.bar4Target f off n with
    | none => s.emit .unsupported
    | some a =>
      if write then
        let kept := Nat.min n (reserveBase - addrOffset a)
        s.store Access.plain a (data.take kept)
      else (s.lookupRead none a n).emit (.bytes (s.load Access.plain a n) (s.poisoned a n))

/-! ### Requests of the module to the host (R135, R301–R303) -/

/-- Whether an item waits for host memory. -/
def waitsOnHost (t : Item) : Bool := (t.phase == .dispatched || t.phase == .external) && t.wins.any fun w => addrSpace (winBase w.2) == 3

/-- The lines of the device cache. -/
def deviceLines : Nat := 4096

/-- Whether an I/O virtual address lies in a coherent range. -/
def State.coherent (s : State) (a : Nat) : Bool :=
  s.hif.cxl && (List.range 4).any fun i =>
    let b := (Table.get 0 s.hif.cohBase i).toNat / 4096
    let l := (Table.get 0 s.hif.cohLimit i).toNat / 4096
    decide (b ≤ a / 4096) && decide (a / 4096 ≤ l)

/-- The device cache after a coherent access to the line of an address: the specification does not say which accesses keep their line, a
free value. -/
def State.fillDevice (s : State) (a : Nat) : State :=
  if s.coherent a then
    let (n, s) := s.draw
    if (Config.freeWord n).getLsbD 0 then
      let ls := s.hif.deviceCache.filter (· != a / 64) ++ [a / 64]
      { s with hif := { s.hif with deviceCache := ls.drop (ls.length - deviceLines) } }
    else s
  else s

/-- Host data as a request delivers it. -/
def State.deliver (s : State) (f : Nat) (a : Nat) (data : List Byte) : State :=
  (s.put f (3 * 2 ^ 60 + a % 2 ^ 57) data).fillDevice (a % 2 ^ 57)

/-- `HOST_COMPLETION`: data arrives, or the first failing completion fails the item; a descriptor that cannot be read puts its ring
into ERROR (R135). -/
def State.hostCompletion (s : State) (q : HostRequest) (answer : HostAnswer) (a : W64) (data : List Byte) : State :=
  match q with
  | .item i => match s.item i with
    | none => s
    | some t =>
      if waitsOnHost t then
        match answerStatus answer with
        | some st => s.failItem i st
        | none => s.deliver (s.itemFunction i) a.toNat data
      else s
  | .descriptor g =>
    let r := s.ring g
    if ringState r.entry = ringEnabled ∧ r.p ≠ r.f ∧ addrSpace (ringCommandBase r.entry) = 3 then
      match answer with
      | .success => s.deliver r.function a.toNat data
      | _ => s.setRingState g ringError
    else s

/-- `HOST_MEMORY_TIMEOUT`. A ring whose records can no longer be written takes no further record, while its items still run (R283). -/
def State.hostTimeout (s : State) : TimeoutOf → State
  | .item i => match s.item i with
    | some t => if waitsOnHost t then s.failItem i .timeout else s
    | none => s
  | .descriptor g =>
    let r := s.ring g
    if ringState r.entry = ringEnabled ∧ r.p ≠ r.f ∧ addrSpace (ringCommandBase r.entry) = 3 then s.setRingState g ringError else s
  | .recordWrite g =>
    let r := s.ring g
    if ringState r.entry ≠ ringDisabled ∧ (addrSpace (ringCompletionBase r.entry) = 3 ∨ addrSpace (ringWriteback r.entry) = 3) then
      (s.modRing g fun r => { r with noRecord := true }).setRingState g ringError
    else s

/-- `CXL_SNOOP`: the device cache holds no dirty line, so it answers from its tags alone. -/
def State.cxlSnoop (s : State) (line : Nat) (kind : Snoop) : State :=
  if s.hif.cxl && s.hostInterfaceUp then
    let hit := s.hif.deviceCache.contains line
    let s := match kind with
      | .invalidate => { s with hif := { s.hif with deviceCache := s.hif.deviceCache.filter (· != line) } }
      | .data | .current => s
    s.emit (.snoop line hit)
  else s

/-! ### Commands -/

/-- `HOST_DEPART` (R285, R306). -/
def execHostDepart (function : Nat) (cause : DepartCause) (s : State) : Host.Outcome State Fault Refusal :=
  .next (s.hostDepart function cause)
/-- `CONFIG_REQUEST` (R304). -/
def execConfigRequest (function : Nat) (s : State) : Host.Outcome State Fault Refusal := .next (s.configRequest function)
/-- `BAR4_ACCESS` (R300, R305). -/
def execBar4Access (function : Nat) (write : Bool) (offset length : Nat) (data : List Byte) (s : State) :
    Host.Outcome State Fault Refusal := .next (s.bar4Access function write offset length data)
/-- `HOST_COMPLETION` (R135, R301). -/
def execHostCompletion (request : HostRequest) (answer : HostAnswer) (address : W64) (data : List Byte) (s : State) :
    Host.Outcome State Fault Refusal := .next (s.hostCompletion request answer address data)
/-- `HOST_MEMORY_TIMEOUT` (R283, R302). -/
def execHostMemoryTimeout (what : TimeoutOf) (s : State) : Host.Outcome State Fault Refusal := .next (s.hostTimeout what)
/-- `CXL_SNOOP` (R303). -/
def execCxlSnoop (line : Nat) (kind : Snoop) (s : State) : Host.Outcome State Fault Refusal := .next (s.cxlSnoop line kind)
/-- `PERST_RELEASE` (R298, R304, R338). -/
def execPerstRelease (function : Nat) (split refclkToggles : Bool) (s : State) : Host.Outcome State Fault Refusal :=
  .next (s.perstRelease function split refclkToggles)
/-- `HOST_LINK_TRAINED` (R303, R307). -/
def execHostLinkTrained (speed width : Nat) (cxl : Bool) (s : State) (function : Nat := 0) : Host.Outcome State Fault Refusal :=
  .next (s.linkTrainedHost function speed width cxl)
/-- `RING_RESET` of the ring a hall's treadle page has selected (R284, R356). -/
def execRingReset (hall : Nat) (s : State) : Host.Outcome State Fault Refusal :=
  .next (if s.hallUp hall then s.resetRing (2048 * hall + (s.hall hall).treadle.ringSel.toNat) else s)

end Sys2Proof.Machine
end

