-- ==== Sys2Proof/Machine/Power.lean ====
section
/-!
DEFINITION. What moves the rails: targets, idling, protection and temperature (R16–R22, R334, R335), the step-rate monitor (R23, R24, R362), the input stage (R325–R328,
R330), and hall loss (R286–R289) with the selvedges it moves (R235).
-/
namespace Sys2Proof.Machine

/-! ### Rails (R16, R18, R20, R22) -/

/-- `RK_TARGET_WRITE`: a value out of range or no multiple of 5 mV is not taken (R18); during protection it is stored, and takes effect when
protection ends (R22). -/
def State.targetWrite (s : State) (h : Nat) (v : W32) : State :=
  let mv := fieldNat v 0 10
  if 650 ≤ mv ∧ mv ≤ 850 ∧ mv % 5 = 0 then
    (s.modKeeper h fun k => { k with target := v.setWidth 10, inForce := if s.power.protect then k.inForce else v.setWidth 10 }).retune h
  else s.refuse (pgKeeper h) v

/-- Whether hall `h` has nothing in its issue queues and its treadle nothing to dispatch: no piece and no command of a call to emit, no descriptor
that has been read ahead on a ring that nothing holds, and no ring to go on with (R20). -/
def State.hallQuiet (s : State) (h : Nat) : Bool :=
  !(s.lanes.any fun p => p.1 / (8 * 96) == h) && !(s.items.any fun t => t.hall == h && (!t.emit.isEmpty || !t.calls.isEmpty)) &&
    (s.nextRing h).isNone && !(s.rings.any fun p => ringHall p.1 == h && p.2.parked.isNone && !p.2.ahead.isEmpty && !s.ringHeld p.1)

/-- How long a hall must have had no work before it idles: 50 µs of newel time. -/
def idleAfterNs : Nat := 50000

/-- `IDLE_LOWERING`. -/
def State.idleLower (s : State) (h : Nat) : State :=
  let k := (s.hall h).keeper
  if s.hallUp h && k.state == keeperActive && !k.idleDis && s.hallQuiet h && decide (s.lastBusy h + idleAfterNs ≤ s.newel.time.toNat) then
    (s.modKeeper h fun k => { k with state := keeperIdle }).retune h
  else s

/-- `IDLE_EXIT`: there is something to dispatch. The dispatch itself leaves IDLE too (R20). -/
def State.idleExit (s : State) (h : Nat) : State := if s.hallQuiet h then s else s.leaveIdle h

/-- A write of `RK_CTL`: disabling idle lowering ends it. -/
def State.keeperCtlWrite (s : State) (h : Nat) (v : W32) : State :=
  let s := s.modKeeper h fun k => { k with idleDis := v.getLsbD 0 }
  if v.getLsbD 0 then s.leaveIdle h else s

/-! ### Protection (R21, R22) -/

/-- The power stage's measure of the input power. -/
def State.measurePower (s : State) (watts : Nat) : State :=
  { s with power := { s.power with watts := BitVec.ofNat 14 (Nat.min watts 16383) } }

/-- `PROTECTION_ENTER`: the power stage has measured at least `watts` for 2 ms; protection begins where that is more than the limit. -/
def State.protectOn (s : State) (watts : Nat) : State :=
  if !s.awake then s
  else
    let s := s.measurePower watts
    if !s.power.protect && decide (s.power.limit.toNat < watts) then
      (({ s with power := { s.power with protect := true } } : State).event pgModule 0).retuneAll
    else s

/-- Every stored target takes effect (R22). -/
def State.applyTargets (s : State) : State :=
  (List.range 8).foldl (fun s h => s.modKeeper h fun k => { k with inForce := k.target }) s

/-- `PROTECTION_EXIT`: the input power has stayed at `watts` or below for 100 ms; protection ends where that is within the limit. -/
def State.protectOff (s : State) (watts : Nat) : State :=
  if !s.awake then s
  else
    let s := s.measurePower watts
    if s.power.protect && decide (watts ≤ s.power.limit.toNat) then
      ((({ s with power := { s.power with protect := false } } : State).event pgModule 1).applyTargets).retuneAll
    else s

/-! ### The step-rate monitor (R24, R362) -/

/-- The length of a monitor's window in ns. -/
def windowNs (w : BitVec 2) : Nat := 100000 * 10 ^ w.toNat

/-- `MONITOR_WINDOW_END`: not while the hall is parked or off. A window that ends before its length has passed does not occur. -/
def State.monitorEnd (s : State) (h : Nat) (rate : BitVec 16) : State :=
  let k := (s.hall h).keeper
  let stop := k.since.toNat + windowNs k.window
  if s.hallRuns h && decide (stop ≤ s.newel.time.toNat) then
    let first := k.rateMin == 0 && k.rateMax == 0
    s.modKeeper h fun k => { k with
      rate := rate, rateMin := if first || decide (rate.toNat < k.rateMin.toNat) then rate else k.rateMin
      rateMax := if first || decide (k.rateMax.toNat < rate.toNat) then rate else k.rateMax
      endNs := BitVec.ofNat 64 stop, since := BitVec.ofNat 64 stop }
  else s

/-- A write of `RK_MON_CTL`: the window in progress is discarded, and the next starts at once. -/
def State.monitorWrite (s : State) (h : Nat) (v : W32) : State :=
  s.modKeeper h fun k => { k with window := v.setWidth 2, since := s.newel.time }

/-! ### Hall loss (R235, R286–R289) -/

/-- Halls joined to a hall by a stairwell (R27). -/
def neighbourHalls (h : Nat) : List Nat :=
  (List.range 8).filter fun g => (g / 4 == h / 4 && (g + 1 == h || h + 1 == g)) || (g % 4 == h % 4 && g / 4 != h / 4)

/-- How many selvedges have their table in a hall. -/
def State.servedBy (s : State) (h : Nat) : Nat :=
  (s.presentSelvs.filter fun p => !(s.selv p).unserved && (s.selv p).serving == h).length

/-- The hall of a list that serves the fewest selvedges, the lowest number on ties. -/
def State.leastServing (s : State) (hs : List Nat) : Option Nat :=
  hs.foldl (fun best h => match best with
    | none => some h
    | some b => if s.servedBy h < s.servedBy b then some h else some b) none

/-- The lowest free place of a hall's selvedge reserve (R256). -/
def State.freePlace (s : State) (h : Nat) : Option Nat :=
  (List.range 4).find? fun i => !(s.presentSelvs.any fun p => !(s.selv p).unserved && (s.selv p).serving == h && (s.selv p).place == i)

/-- Move a selvedge's table to another hall at run time, without its contents. -/
def State.moveSelv (s : State) (p : Nat) : State :=
  let home := homeHall p
  let target := (s.leastServing ((neighbourHalls home).filter s.hallHere)).bind fun g => (s.freePlace g).map fun i => (g, i)
  match target with
  | some (g, i) => s.modSelv p fun v => { v with serving := g, place := i, stats := [], binds := [] }
  | none => s.modSelv p fun v => { v with serving := home, unserved := true, place := 0, stats := [], binds := [] }

/-- Whether a waiting item uses the window table or the memory of hall `h` without accesses of its own: a `RECV` or a `WINDOW_CLOSE`. -/
def waitsInHall (h : Nat) (t : Item) : Bool :=
  t.phase == .external && (t.op == some .recv || t.op == some .windowClose) &&
    (handleHall (word32 t.desc 16) == h || t.wins.any fun w => addrSpace (winBase w.2) < 3 && addrHall (winBase w.2) == h)

/-- What a loss takes out of service and what it does elsewhere (R287 steps 5 to 7, R288). -/
def State.takeAway (s : State) (h : Nat) : State :=
  let s := (s.zeroLooms h).replaceCache h []
  let s := { s with ledgers := s.ledgers.erase h, streams := dropHall 4096 h s.streams
                    boot := { s.boot with hallsLost := s.boot.hallsLost ||| (1#8 <<< h) } }
  let s := s.modKeeper h fun k => { k with state := keeperOff, railMv := 0, railSince := s.newel.time, goalMv := 0, throttle := false }
  let s := (s.presentSelvs.filter fun p => homeHall p == h && (s.selv p).serving == h && !(s.selv p).unserved).foldl State.moveSelv s
  ((s.items.filter (waitsInHall h)).foldl (fun s t => s.failItem t.id .hallLost) s).settleWaits

/-- A ring in ERROR with nothing read ahead. -/
def Ring.inError (r : Ring) : Ring := { r with entry := setField r.entry 136 2 (BitVec.ofNat 2 ringError), parked := none, ahead := [] }

/-- Every ring of a hall enters ERROR (R287, R289); the last of those that were not in it stays named in `TRD_EVT_RING`. -/
def State.errorRings (s : State) (h : Nat) : State :=
  let gs := (List.range 2048).map (2048 * h + ·)
  let last := (gs.filter fun g => ringState (s.ring g).entry != ringError).getLast?
  let s : State := { s with
    rings := (s.rings.filter fun p => p.1 / 2048 < h) ++ gs.map (fun g => (g, (s.ring g).inError)) ++ s.rings.filter fun p => h < p.1 / 2048 }
  match last with
  | some g => (s.modTreadle h fun t => { t with evtRing := BitVec.ofNat 11 (g % 2048) }).event (pgTreadle h) 1
  | none => s

/-- Poison every knot of a hall. -/
def State.poisonKnots (s : State) (h : Nat) : State :=
  (List.range 256).foldl (fun s k => s.modKnot (knotKey h k) fun n => { n with poison := true }) s

/-- A hall is lost while its die is alive (R287). -/
def State.loseHall (s : State) (h : Nat) : State :=
  if s.hallUp h then
    let s := (s.poisonKnots h).admitAhead fun g => ringHall g == h
    ((s.flushItems (fun i => ringHall i.ring == h) .hallLost none).errorRings h).takeAway h
  else s

/-- Items of a dead hall leave without records and without their set knots, which its treadle can no longer write (R289). -/
def State.dropItems (s : State) (f : ItemId → Bool) : State :=
  let ids := (s.items.map (·.id)).filter f
  let s := s.stopPieces fun q => f q.item
  let s := ids.foldl (fun s i => (s.failOne i .hallLost 0).releaseLinks i) s
  { s with items := s.items.filter fun t => !f t.id }

/-- The flights and selvedges homed on a hall (R33). -/
def homedPorts (h : Nat) : List Nat := (List.range 13).filter fun p => homeHall p == h

/-- A flight goes out of service with its hall's die: its link is down, and what it carried has no route (R28, R29). -/
def State.loseFlight (s : State) (p : Nat) : State :=
  if (s.flight p).link = .disabled then s
  else
    let l := s.portLink p
    let s := (s.flight p).channels.foldl (fun s i => s.failItem i .hallLost) s
    ((s.dropPort p).failOnLink l .hallLost).settleCloses

/-- A selvedge goes out of service with its hall's die: the updates given to it fail. -/
def State.loseSelv (s : State) (p : Nat) : State :=
  ((s.selv p).queue.foldl (fun s u => if s.updateLive u then s.failItem u.item .hallLost else s) s).modSelv p fun v =>
    { v with queue := [], run := none }

/-- What goes out of service with a die: its switch, and the flights and selvedges homed on it (R29). -/
def State.loseHomed (s : State) (h : Nat) : State :=
  let s := ((homedPorts h).filter fun p => decide (p < 12) && !s.flightAbsent p).foldl State.loseFlight s
  (homedPorts h).foldl State.loseSelv s

/-- A present hall whose die has failed: its items are dropped and its rings in ERROR, its knots poisoned, and its memory gone (R289). -/
def State.loseDead (s : State) (h : Nat) : State :=
  let s := (s.dropItems fun i => ringHall i.ring == h).errorRings h
  if s.hallLost h then s else (s.poisonKnots h).takeAway h

/-- A hall's die fails (R289). The die of an absent hall takes its switch, flights and selvedges with it (R29). -/
def State.dieFails (s : State) (h : Nat) : State :=
  if s.ready && decide (h < 8) && !s.boot.diesFailed.getLsbD h then
    let s := { s with boot := { s.boot with diesFailed := s.boot.diesFailed ||| (1#8 <<< h) } }
    let s := (s.fault pgModule .hallLost (wordOf h) 0).event pgModule 2
    let s := if s.hallAbsent h then s else s.loseDead h
    (s.loseHomed h).settleWaits
  else s

/-! ### Temperature and parking (R16, R330, R334) -/

/-- A hall's junction reads a temperature: the rail follows R16; at 115 °C the hall parks; a parked hall at 125 °C is lost. -/
def State.junction (s : State) (h celsius : Nat) : State :=
  if s.hallUp h then
    let s := s.modKeeper h fun k => { k with tj := BitVec.ofNat 8 (Nat.min celsius 255) }
    let s := if 115 ≤ celsius then s.modKeeper h fun k => { k with state := keeperParked } else s
    let s := s.retune h
    if 125 ≤ celsius then s.loseHall h else s
  else s

/-- `HALL_RESUME`: a parked hall at 100 °C or below for 1 s resumes where it stopped. Its monitor begins a new window there; the one in
progress as it parked is discarded (DESIGN CHOICE, log 37: the rules do not say what becomes of it). -/
def State.hallResume (s : State) (h celsius : Nat) : State :=
  if s.hallUp h && (s.hall h).keeper.state == keeperParked && decide (celsius ≤ 100) then
    (s.modKeeper h fun k => { k with tj := BitVec.ofNat 8 celsius, state := keeperActive, since := s.newel.time }).retune h
  else s

/-! ### The input (R325–R328, R330) -/

/-- `UNDERVOLTAGE`: comparator 0 trips and the module resets; start-up waits for the input. The precharge bypass opens again, though the input switch
may stay closed, since the bus has fallen: R328 does not say (DESIGN CHOICE; log 56). -/
def State.undervoltage (s : State) (c : UndervoltageCause) : State :=
  if s.newel.powered then
    let s := (s.trip 0).moduleReset s.power.asleep true
    { s with power := { s.power with inputSeen := false, precharged := false, senseMated := s.power.senseMated && c != .senseOpen } }
  else s

/-- `STARTUP_RESTART`: the input has been at 740 V or more for 1 s. -/
def State.startupRestart (s : State) : State :=
  if s.newel.powered && s.power.lowInput && s.power.senseMated && !s.power.switchOpen then
    { s with power := { s.power with lowInput := false, inputSeen := true, inputAt := s.newel.time } }
  else s

/-- `POWER_OFF`: the input falls below 300 V and the newel stops. -/
def State.powerOff (s : State) : State :=
  if s.newel.powered then
    let s := s.moduleReset false false
    { s with newel := { State.reset.newel with powered := false }, pages := []
             power := { s.power with off := true, precharged := false, inputSeen := false, volts := 0, watts := 0 }
             hif := { s.hif with released := [] } }
  else s

/-- `POWER_ON`: the input reaches 300 V and the newel starts from 0; start-up follows. -/
def State.powerOn (s : State) : State :=
  if s.power.off then
    { s with newel := State.reset.newel, power := { s.power with off := false } }
  else s

/-- `INPUT_SWITCH_OPEN`: comparator 1 trips; the internal bus then falls (R326). -/
def State.switchOpens (s : State) : State :=
  if s.newel.powered && !s.power.switchOpen then
    ({ s with power := { s.power with switchOpen := true, precharged := false } } : State).trip 1
  else s

/-- `INPUT_SWITCH_RECLOSE`: through precharge, after 1 s within range. -/
def State.switchCloses (s : State) : State :=
  if s.power.switchOpen then { s with power := { s.power with switchOpen := false, precharged := false } } else s

/-- The input has reached 740 V and precharge is complete (R343): from here R304 measures readiness on the input's side, but for a restart, which R326
times from the end of its 1 s. -/
def State.inputReached (s : State) : State :=
  { s with power := { s.power with
      precharged := true, inputSeen := s.power.inputSeen || !s.power.lowInput
      inputAt := if s.power.inputSeen || s.power.lowInput then s.power.inputAt else s.newel.time } }

/-- `PRECHARGE_BYPASS_CLOSE`: delayed until the sense pin has mated. -/
def State.prechargeDone (s : State) : State :=
  if s.newel.powered && s.power.senseMated && !s.power.switchOpen then s.inputReached else s

/-- `SENSE_PIN_MATE`. -/
def State.senseMates (s : State) : State := { s with power := { s.power with senseMated := true } }

/-! ### Commands -/

/-- `PROTECTION_ENTER` (R21). -/
def execProtectionEnter (s : State) (watts : Nat := 0) : Host.Outcome State Fault Refusal := .next (s.protectOn watts)
/-- `PROTECTION_EXIT` (R21). -/
def execProtectionExit (s : State) (watts : Nat := 0) : Host.Outcome State Fault Refusal := .next (s.protectOff watts)
/-- `RK_TARGET_WRITE` (R18, R22). -/
def execRkTargetWrite (hall : Nat) (value : W32) (s : State) : Host.Outcome State Fault Refusal :=
  .next (if s.hostInterfaceUp && s.hallUp hall then s.targetWrite hall value else s)
/-- `IDLE_LOWERING` (R20). -/
def execIdleLowering (hall : Nat) (s : State) : Host.Outcome State Fault Refusal := .next (s.idleLower hall)
/-- `IDLE_EXIT` (R20). -/
def execIdleExit (hall : Nat) (s : State) : Host.Outcome State Fault Refusal := .next (s.idleExit hall)
/-- `THERMAL_THROTTLE` (R16). -/
def execThermalThrottle (hall celsius : Nat) (s : State) : Host.Outcome State Fault Refusal := .next (s.junction hall celsius)
/-- `HALL_PARK` (R334). -/
def execHallPark (hall celsius : Nat) (s : State) : Host.Outcome State Fault Refusal :=
  .next (if 115 ≤ celsius then s.junction hall celsius else s)
/-- `HALL_RESUME` (R330, R334). -/
def execHallResume (hall celsius : Nat) (s : State) : Host.Outcome State Fault Refusal := .next (s.hallResume hall celsius)
/-- `HALL_CORE_SHUTOFF` (R286, R334). -/
def execHallCoreShutoff (hall celsius : Nat) (s : State) : Host.Outcome State Fault Refusal :=
  .next (if 125 ≤ celsius ∧ (s.hall hall).keeper.state = keeperParked then s.junction hall celsius else s)
/-- `MONITOR_WINDOW_END` (R23, R24). -/
def execMonitorWindowEnd (hall : Nat) (rate : BitVec 16) (s : State) : Host.Outcome State Fault Refusal :=
  .next (s.monitorEnd hall rate)
/-- `RK_MON_CTL_WRITE` (R362). -/
def execRkMonCtlWrite (hall : Nat) (value : W32) (s : State) : Host.Outcome State Fault Refusal :=
  .next (if s.hostInterfaceUp && s.hallUp hall then s.monitorWrite hall value else s)
/-- `RAIL_FAULT` (R286). -/
def execRailFault (hall : Nat) (s : State) : Host.Outcome State Fault Refusal := .next (s.loseHall hall)
/-- `HALL_DIE_FAILURE` (R289). -/
def execHallDieFailure (hall : Nat) (s : State) : Host.Outcome State Fault Refusal := .next (s.dieFails hall)
/-- `HALL_QUIESCE` (R287). -/
def execHallQuiesce (hall : Nat) (s : State) : Host.Outcome State Fault Refusal := .next (s.loseHall hall)
/-- `UNDERVOLTAGE` (R326). -/
def execUndervoltage (cause : UndervoltageCause) (s : State) : Host.Outcome State Fault Refusal := .next (s.undervoltage cause)
/-- `STARTUP_RESTART` (R326). -/
def execStartupRestart (s : State) : Host.Outcome State Fault Refusal := .next s.startupRestart
/-- `POWER_OFF` (R330). -/
def execPowerOff (s : State) : Host.Outcome State Fault Refusal := .next s.powerOff
/-- `POWER_ON` (R343). -/
def execPowerOn (s : State) : Host.Outcome State Fault Refusal := .next s.powerOn
/-- `INPUT_SWITCH_OPEN` (R327). -/
def execInputSwitchOpen (s : State) : Host.Outcome State Fault Refusal := .next s.switchOpens
/-- `INPUT_SWITCH_RECLOSE` (R327). -/
def execInputSwitchReclose (s : State) : Host.Outcome State Fault Refusal := .next s.switchCloses
/-- `PRECHARGE_BYPASS_CLOSE` (R328). -/
def execPrechargeBypassClose (s : State) : Host.Outcome State Fault Refusal := .next s.prechargeDone
/-- `SENSE_PIN_MATE` (R328). -/
def execSensePinMate (s : State) : Host.Outcome State Fault Refusal := .next s.senseMates

end Sys2Proof.Machine
end

