-- ==== Sys2Proof/Machine/Security.lean ====
section
/-!
DEFINITION. The security block: attestation (R311, R312), the rollback counter (R310), PLDM (R313, R342), keys (R314, R315), glitches and
tamper (R321, R322), and the debug port (R323).
-/
namespace Sys2Proof.Machine

/-! ### Attestation (R310–R312) -/

/-- The sessions that may be open at once. -/
def maxSessions : Nat := 4

/-- SHA-384 as a register word. -/
def digest384 (bs : List Byte) : BitVec 384 := BitVec.ofNat 384 (beNat (sha384 bs))

/-- Measurement 5: the grade, `HALLS_OK`, the rollback counter and the debug state, from bit 0 up in the order R312 lists them (log 9). -/
def State.measuredState (s : State) : BitVec 384 :=
  BitVec.ofNat 384 (s.part.grade.toNat + s.boot.hallsOk.toNat * 2 ^ 2 + s.part.rollback.toNat * 2 ^ 10 + flagAt s.sec.debugOpen 26)

/-- A measurement block; none where R312 lists no such index. -/
def State.measurement (s : State) (i : Nat) : Option (BitVec 384) :=
  let set := if s.boot.secondary then 8 else 0
  match i with
  | 1 => some (Config.firmwareDigest 1)
  | 2 | 3 | 4 => some (Config.firmwareDigest (i + set))
  | 5 => some s.measuredState
  | 6 => some (digest384 (Config.measuredBytes s.sec.measuredRoutines))
  | 7 => some (digest384 (Config.measuredBytes s.sec.measuredPrograms))
  | _ => none

/-- The certificate chain of slot 0: it names the serial and the identity key, and the image set measured. -/
def State.chain (s : State) : List Byte := Config.certificateChain s.part.serial s.part.identityKey s.boot.secondary

/-- Sign with the identity key. -/
def State.sign (s : State) (nonce : BitVec 256) (what : BitVec 384) : State :=
  let (n, s) := s.draw
  s.emit (.signature (Config.signature s.part.identityKey nonce what n))

/-- Replace the sessions. -/
def State.setSessions (s : State) (l : List Session) : State := { s with sec := { s.sec with sessions := l } }

/-- Whether a session is open. -/
def State.inSession (s : State) (n : Nat) : Bool := s.sec.sessions.any fun x => x.id == n

/-- Open a session under the lowest number that is free. It is the owner's where the requester's certificate chain holds and leads to the root whose
hash `SEC_OWNER` has been given (R315). -/
def State.openSession (s : State) (chains : Bool) (root : BitVec 384) : State :=
  match (List.range maxSessions).find? fun n => !s.inSession n with
  | some n => (s.setSessions (s.sec.sessions ++ [⟨n, chains && s.sec.ownerSet && root == s.sec.owner, 0⟩])).emit .sessionOpen
  | none => s.emit .requestError

/-- `SPDM_REQUEST`. -/
def State.spdm (s : State) : SpdmRequest → State
  | .getCertificate slot => if slot = 0 then s.emit (.certificate s.chain) else s.emit .requestError
  | .challenge slot nonce => if slot = 0 then s.sign nonce (digest384 s.chain) else s.emit .requestError
  | .getMeasurement i signed nonce => match s.measurement i with
    | some d =>
      let s := s.emit (.measurement i d)
      if signed then s.sign nonce d else s
    | none => s.emit .requestError
  | .openSession chains root => s.openSession chains root
  | .keyUpdate n =>
    if s.inSession n then
      (s.setSessions (s.sec.sessions.map fun x => if x.id = n then { x with updates := x.updates + 1 } else x)).emit .accepted
    else s.emit .requestError
  | .heartbeat n => if s.inSession n then s.emit .accepted else s.emit .requestError
  | .endSession n =>
    if s.inSession n then (s.setSessions (s.sec.sessions.filter fun x => x.id != n)).emit .sessionClosed else s.emit .requestError
  | .unsupported _ => s.emit .requestError

/-- `ROLLBACK_RAISE`: only upwards, and only to the version that the running set carries. -/
def State.rollbackRaise (s : State) (v : BitVec 16) : State :=
  if 3 ≤ s.boot.step ∧ s.part.rollback.toNat < v.toNat ∧ v = s.boot.imageVersion then
    ({ s with part := { s.part with rollback := v } } : State).emit .accepted
  else s.emit .requestError

/-! ### PLDM (R313, R342) -/

/-- A sensor's reading; none for one of a hall that is not there. -/
def State.sensor (s : State) : Sensor → Option Nat
  | .junction h => if s.hallHere h then some (s.hall h).keeper.tj.toNat else none
  | .rail h => if s.hallHere h then some ((s.hall h).keeper.railNow s.newel.time) else none
  | .stepRate h => if s.hallHere h then some (s.hall h).keeper.rate.toNat else none
  | .inputVoltage => some (fieldNat (s.powerRead 0x044) 0 14)
  | .inputPower => some (fieldNat (s.powerRead 0x044) 16 14)
  | .coolantFlow => some (flagAt (s.cmpTripped 3) 0)
  | .bootState => some (bootCode s.boot.state)

/-- Turn the PLDM event alert on or off, with nothing pending (R290). -/
def State.setAlert (s : State) (on : Bool) : State :=
  ({ s with newel := { s.newel with pldmAlert := on, pldmPending := false } } : State).driveAlert

/-- `PLDM_REQUEST`. -/
def State.pldm (s : State) : PldmRequest → State
  | .readSensor x => match s.sensor x with
    | some v => s.emit (.data (BitVec.ofNat 64 v))
    | none => s.emit .requestError
  | .heartbeatEnable ns =>
    if s.cmpWake 6 then s.emit .requestError
    else (({ s with newel := { s.newel with heartbeatNs := ns } } : State).cmpCtlWrite 6 5).emit .accepted
  | .heartbeatDisable => (if s.cmpAlt 6 then s.cmpCtlWrite 6 0 else s).emit .accepted
  | .alertEnable =>
    if s.cmpAlt 2 then s.emit .requestError
    else if s.newel.pldmAlert then s.emit .accepted else (s.setAlert true).emit .accepted
  | .alertDisable => (if s.newel.pldmAlert then s.setAlert false else s).emit .accepted
  | .pollEvents =>
    (({ s with newel := { s.newel with pldmPending := false } } : State).driveAlert).emit
      (.data (BitVec.ofNat 64 (flagAt s.newel.pldmPending 0)))

/-! ### Keys (R314, R315) -/

/-- The slots of the key store. -/
def keySlots : Nat := 16384

/-- Whether a key request comes inside the session it names, and that is one of the owner (R315). -/
def State.ownerSession (s : State) (claimed : Bool) (session : Nat) : Bool :=
  claimed && s.sec.sessions.any fun x => x.id == session && x.owner

/-- Whether the module key is drawn: step 7 of start-up, or a zeroisation since (R314, R321). -/
def State.moduleKeyDrawn (s : State) : Bool := s.boot.state == .ready || s.boot.state == .locked

/-- `KEY_INSTALL`. -/
def State.keyInstall (s : State) (slot : Nat) (key : BitVec 256) (claimed : Bool) (session : Nat) : State :=
  if s.ownerSession claimed session && s.moduleKeyDrawn && decide (slot < keySlots) && !(s.sec.keys.any fun p => p.1 == slot) &&
      !s.sec.debugOpen && s.sec.ownerSet then
    let (n, s) := s.draw
    let w := BitVec.ofNat 320 (beNat (keyWrap (beBytes 32 s.sec.moduleKey.toNat) (beBytes 32 key.toNat)))
    ({ s with sec := { s.sec with keys := Table.insert s.sec.keys slot ⟨w, Config.freeLong n, 0⟩ } } : State).emit .accepted
  else s.emit .requestError

/-- `KEY_ERASE`. -/
def State.keyErase (s : State) (slot : Nat) (claimed : Bool) (session : Nat) : State :=
  if s.ownerSession claimed session && decide (slot < keySlots) then
    ({ s with sec := { s.sec with keys := Table.erase s.sec.keys slot } } : State).emit .accepted
  else s.emit .requestError

/-! ### Glitch and tamper (R321, R322) -/

/-- `GLITCH_ZEROISE`. -/
def State.glitch (s : State) : State :=
  if s.awake then { s.zeroise with sec := { s.zeroise.sec with glitch := true } } else s

/-- Step 3 of R322: every gallery, tensor cache, loom store and bobbin cache is zero. -/
def State.zeroAllStores (s : State) : State :=
  (List.range 8).foldl (fun s h => (s.zeroLoomBytes h).zeroGallery h) s

/-- The flights stop: their links go down once the withdrawals are sent (R273). -/
def State.stopFlights (s : State) : State := ((List.range 12).filter s.portUp).foldl State.declareDown s

/-- The selvedges stop: what they hold has ended with its items. -/
def State.stopSelvs (s : State) : State :=
  (s.selvs.map (·.1)).foldl (fun s p => s.modSelv p fun v => { v with queue := [], run := none }) s

/-- Step 2 of R322: every fetched item ends with `ST_KEY`, every ring is in ERROR, and the flights and selvedges stop with them (R306). -/
def State.stopWork (s : State) : State :=
  let s := (s.admitAhead fun _ => true).flushItems (fun _ => true) .key none
  let s := ((List.range 8).filter s.hallHere).foldl State.errorRings s
  let s := s.stopFlights.stopSelvs
  { s with rxs := [], transits := [], passages := [], openings := [], stale := [] }

/-- `TAMPER_RESPONSE`: comparator 4 trips; the keys go, every item ends with `ST_KEY`, every ring is in ERROR, the stores are zero and the
module is LOCKED. In MODULE_SLEEP only the newel has power, and there is nothing to end. -/
def State.tamper (s : State) : State :=
  if !s.newel.powered then s
  else
    let s := s.trip 4
    if s.power.asleep then s
    else
      let s := s.zeroise.stopWork.zeroAllStores
      { s with boot := { s.boot with state := .locked }, sec := { s.sec with tamper := true } }

/-! ### The debug port (R323) -/

/-- `JTAG_CHALLENGE`: an instruction of the debug port. The challenge returns the serial and a fresh nonce. A locked port takes BYPASS, IDCODE and
boundary scan besides, which change nothing in the module, and refuses any other; an open one takes any, and those that R323 does not name do
nothing (R323; log 5). -/
def State.jtagInstruct (s : State) (i : JtagInstruction) : State :=
  if !s.awake then s
  else match i with
    | .challenge =>
      let (n, s) := s.draw
      ({ s with sec := { s.sec with challenge := some (Config.freeKey n) } } : State).emit (.challenge s.part.serial (Config.freeKey n))
    | .idcode => s.emit (.data (Config.jtagIdcode.setWidth 64))
    | .bypass | .extest => s.emit .accepted
    | .other => s.emit (if s.sec.debugOpen then .accepted else .refusedRequest)

/-- `JTAG_UNLOCK`: on a valid signature over the serial, an outstanding challenge and the requested scope the key store is zeroised and the port
opens. -/
def State.jtagUnlock (s : State) (valid : Bool) (scope : W32) : State :=
  if !s.awake then s
  else if valid && s.sec.challenge.isSome then
    let s := s.zeroise
    ({ s with sec := { s.sec with debugOpen := true, debugScope := scope, challenge := none } } : State).emit .accepted
  else s.emit .refusedRequest

/-- `JTAG_INTERNAL_SCAN`: it claims resource 6 of R290, which DIAGNOSTIC state may hold, and zeroes the hall's stores. -/
def State.jtagScan (s : State) (h : Nat) : State :=
  if !s.awake then s
  else if s.sec.debugOpen && s.hallHere h && (s.hall h).treadle.diag == .none then
    let s := if s.sec.scanning.getLsbD h then s else s.zeroScanned h
    ({ s with sec := { s.sec with scanning := s.sec.scanning ||| (1#8 <<< h) } } : State).emit .accepted
  else s.emit .refusedRequest

/-! ### Commands -/

/-- `SPDM_REQUEST` (R311, R312). -/
def execSpdmRequest (request : SpdmRequest) (s : State) : Host.Outcome State Fault Refusal :=
  .next (if s.awake then s.spdm request else s)
/-- `ROLLBACK_RAISE` (R310). -/
def execRollbackRaise (version : BitVec 16) (s : State) : Host.Outcome State Fault Refusal :=
  .next (if s.awake then s.rollbackRaise version else s)
/-- `PLDM_REQUEST` (R313, R342). -/
def execPldmRequest (request : PldmRequest) (s : State) : Host.Outcome State Fault Refusal :=
  .next (if s.awake then s.pldm request else s)
/-- `KEY_INSTALL` (R315). -/
def execKeyInstall (slot : Nat) (key : BitVec 256) (ownerSession : Bool) (s : State) (session : Nat := 0) : Host.Outcome State Fault Refusal :=
  .next (if s.awake then s.keyInstall slot key ownerSession session else s)
/-- `KEY_ERASE` (R315). -/
def execKeyErase (slot : Nat) (ownerSession : Bool) (s : State) (session : Nat := 0) : Host.Outcome State Fault Refusal :=
  .next (if s.awake then s.keyErase slot ownerSession session else s)
/-- `GLITCH_ZEROISE` (R321). -/
def execGlitchZeroise (s : State) : Host.Outcome State Fault Refusal := .next s.glitch
/-- `TAMPER_RESPONSE` (R322). -/
def execTamperResponse (s : State) : Host.Outcome State Fault Refusal := .next s.tamper
/-- `JTAG_CHALLENGE` (R323). -/
def execJtagChallenge (s : State) (instruction : JtagInstruction := .challenge) : Host.Outcome State Fault Refusal :=
  .next (s.jtagInstruct instruction)
/-- `JTAG_UNLOCK` (R323). -/
def execJtagUnlock (signatureValid : Bool) (s : State) (scope : W32 := 0) : Host.Outcome State Fault Refusal :=
  .next (s.jtagUnlock signatureValid scope)
/-- `JTAG_INTERNAL_SCAN` (R323). -/
def execJtagInternalScan (hall : Nat) (s : State) : Host.Outcome State Fault Refusal := .next (s.jtagScan hall)

end Sys2Proof.Machine
end

