-- ==== Sys2Proof/Machine/Boot.lean ====
section
/-!
DEFINITION. Start-up (R308, R309), what it loads (R155, R237) and where the selvedges' tables stand (R235, R256).
-/
namespace Sys2Proof.Machine

/-! ### Selvedges at start-up (R235, R256) -/

/-- Choose the serving hall of every selvedge: its home hall where that is present, then, in ascending number, the neighbour that serves the
fewest. -/
def State.serveSelvs (s : State) : State :=
  let mark (s : State) (p g : Nat) : State := s.modSelv p fun v => { v with serving := g, unserved := false, place := 0 }
  let s := s.presentSelvs.foldl (fun s p => s.modSelv p fun v => { v with serving := homeHall p, unserved := true }) s
  let s := (s.presentSelvs.filter fun p => s.hallHere (homeHall p)).foldl (fun s p => mark s p (homeHall p)) s
  (s.presentSelvs.filter fun p => !s.hallHere (homeHall p)).foldl (fun s p =>
    match s.leastServing ((neighbourHalls (homeHall p)).filter s.hallHere) with
    | some g => mark s p g
    | none => s) s

/-- Give each table its place in ascending selvedge number; a fifth table of one hall has no room. -/
def State.placeSelvs (s : State) : State :=
  s.presentSelvs.foldl (fun s p =>
    let v := s.selv p
    let n := (s.presentSelvs.filter fun q => q < p && !(s.selv q).unserved && (s.selv q).serving == v.serving).length
    if v.unserved then s
    else if n < 4 then s.modSelv p fun v => { v with place := n }
    else s.modSelv p fun v => { v with serving := homeHall p, unserved := true, place := 0 }) s

/-! ### Loads (R155, R237, R308 step 3) -/

/-- The Kwedun routines of the pattern books of the halls present. -/
def State.loadRoutines (s : State) : State :=
  { s with patterns := ((List.range 8).filter s.hallHere).flatMap fun h =>
      (List.range 512).map fun i => (1024 * h + i, some ⟨Config.kwedunRoutine i, Config.kwedunTenant i⟩) }

/-- The Kwedun selvedge programs. -/
def State.loadPrograms (s : State) : State := { s with progs := (List.range 512).map fun i => (i, some (Config.kwedunProgram i)) }

/-! ### Start-up (R308–R310) -/

/-- Whether an image set verifies: its signatures hold under the key whose hash is fused, and its images name one another (R310). -/
def State.setVerifies (s : State) (x : ImageSet) : Bool := x.good && x.keyHash == s.part.kwedunHash

/-- Whether it is accepted: it verifies, and no image of it lies below the rollback counter. -/
def State.setAccepted (s : State) (x : ImageSet) : Bool := s.setVerifies x && decide (s.part.rollback.toNat ≤ x.version.toNat)

/-- The code of a start-up that accepts neither set: 7 where both verify and lie below the rollback counter, else 3 (log 38). -/
def State.imageError (s : State) (a b : ImageSet) : Nat := if s.setVerifies a && s.setVerifies b then 7 else 3

/-- The lowest bit set of a mask of halls or ports. -/
def lowestBit {w : Nat} (m : BitVec w) : Nat := ((List.range w).find? fun i => m.getLsbD i).getD 0

/-- Record a start-up failure; the first stands. -/
def State.bootError (s : State) (failed : Bool) (code unit : Nat) : State :=
  if failed && s.boot.errCode == 0 then
    { s with boot := { s.boot with errCode := BitVec.ofNat 8 code, errUnit := BitVec.ofNat 8 unit } }
  else s

/-- Start-up ends in FAILED after step `n`. -/
def State.bootFailed (s : State) (n : Nat) : State := { s with boot := { s.boot with state := .failed, step := n } }

/-- Mark halls absent after step `n`, in which they failed. -/
def State.markHalls (s : State) (bad : BitVec 8) (n code : Nat) : State :=
  let bad := bad &&& s.boot.hallsOk
  (({ s with boot := { s.boot with hallsOk := s.boot.hallsOk &&& ~~~bad, step := n } } : State)).bootError (bad != 0) code (lowestBit bad)

/-- A hall core that step 1 brings to 0.75 V (R308, R343). -/
def State.coreUp (s : State) (h : Nat) : State :=
  s.modKeeper h fun k => { k with railMv := 750, railSince := s.newel.time, goalMv := 750 }

/-- Step 1: the rails rise, and every hall core that is not fused off stands at 0.75 V (R308, R329, R343). -/
def State.bootRails (s : State) : State :=
  let s := ((List.range 8).filter fun h => !s.part.hallFused.getLsbD h).foldl State.coreUp s.inputReached
  { s with boot := { s.boot with step := 1, hallsOk := ~~~s.part.hallFused } }

/-- Step 6: flights that fail calibration are absent. -/
def State.bootFlights (s : State) (bad : BitVec 12) : State :=
  let bad := bad &&& ~~~s.part.flightFused
  (({ s with boot := { s.boot with flightsFailed := bad, step := 6 } } : State)).bootError (bad != 0) 6 (lowestBit bad)

/-- Steps 4, 5 and 7 leave every word of the stacks, galleries and loom stores zero, every token empty, windows and rings unset, and every
context, whose record lies in a gallery, FREE. -/
def State.bootClear (s : State) : State :=
  { s with mem := s.mem.filter hostCell, poison := [], corrected := [], full := [], windows := [], arrived := [], rings := [], caches := []
           looms := [], bobbins := [], scrubs := [], heldSince := [], items := [], lanes := [], sel := [], streams := [], ledgers := [] }

/-- A present hall at READY: its rail stands where its keeper drives it (R308 step 1), and its monitor's first window begins (DESIGN CHOICE, log
37: the rules do not say when it does). -/
def State.hallReady (s : State) (h : Nat) : State :=
  let goal := BitVec.ofNat 10 (s.railGoal h)
  (s.modKeeper h fun k => { k with railMv := goal, railSince := s.newel.time, goalMv := goal, since := s.newel.time }).touch h

/-- Step 7: the module key is drawn, and the module is READY. -/
def State.bootReady (s : State) : State :=
  let s := s.bootClear.zeroise.loadRoutines.loadPrograms
  let s := { s with boot := { s.boot with state := .ready, step := 7 } }
  let s := ((List.range 8).filter s.hallHere).foldl State.hallReady s
  s.serveSelvs.placeSelvs

/-- Steps 4 to 7, once an image set is accepted. -/
def State.bootOn (s : State) (r : StartupResult) (secondary : Bool) : State :=
  let version := if secondary then r.secondary.version else r.primary.version
  let s := { s with boot := { s.boot with secondary := secondary, imageVersion := version, step := 3 } }
  let s := (s.markHalls r.hbmFail 4 4).markHalls r.galleryFail 5 5
  if s.boot.hallsOk = 0 then s.bootFailed 5 else (s.bootFlights r.flightFail).bootReady

/-- Whether start-up can run: the module waits for it, with power and the input in range. -/
def State.canStart (s : State) : Bool :=
  s.newel.powered && s.awake && !s.power.lowInput && !s.power.switchOpen && s.power.senseMated && s.boot.state == .booting

/-- `STARTUP`: the seven steps with the results that the tests and loads gave. -/
def State.startup (s : State) (r : StartupResult) : State :=
  if !s.canStart then s
  else if !r.railsReached then s.bootError true 1 0
  else
    let s := s.bootRails.markHalls r.loomFail 2 2
    if s.boot.hallsOk = 0 then s.bootFailed 2
    else if s.setAccepted r.primary then s.bootOn r false
    else if s.setAccepted r.secondary then s.bootOn r true
    else (s.bootError true (s.imageError r.primary r.secondary) 0).bootFailed 2

/-- `STARTUP` (R308, R309). -/
def execStartup (result : StartupResult) (s : State) : Host.Outcome State Fault Refusal := .next (s.startup result)

end Sys2Proof.Machine
end

