-- ==== Sys2Proof/Machine/Registers.lean ====
section
/-!
DEFINITION. The register pages of halls, flights, selvedges and express channels, with the commands that act through them (R126, R129, R155–R160,
R206, R212, R215, R255, R261, R267, R344–R362), and BAR0 accesses (R345, R346, R353).
-/
namespace Sys2Proof.Machine

/-! ### Rings (R129, R356, R357) -/

/-- The ring that hall `h`'s treadle page has selected. -/
def State.selectedRing (s : State) (h : Nat) : Nat := 2048 * h + (s.hall h).treadle.ringSel.toNat

/-- `RING_SELECT`. -/
def State.ringSelect (s : State) (h : Nat) (v : W32) : State :=
  s.modTreadle h fun t => { t with ringSel := v.setWidth 11, ringData := (s.ring (2048 * h + fieldNat v 0 11)).entry }

/-- `RING_COMMIT`: every byte of the staged entry but byte 17. -/
def State.ringCommit (s : State) (h : Nat) : State :=
  let g := s.selectedRing h
  if ringState (s.ring g).entry = ringDisabled then
    s.modRing g fun r => { r with entry := setField (s.hall h).treadle.ringData 136 8 0 }
  else s.refuse (pgTreadle h) (wordOf g)

/-- Whether the module can address `n` bytes from `a`, aligned to `al`, in space 1, 2 or 3. -/
def State.ringMemory (s : State) (a n al : Nat) : Bool :=
  decide (1 ≤ addrSpace a ∧ addrSpace a ≤ 3) && a % al == 0 && rangeOk a n && !s.addrAbsent a

/-- Whether an entry breaks the table of R129. -/
def State.ringEntryOk (s : State) (e : Block512) : Bool :=
  let n := ringSize e
  let own := ringOwner e
  let vec := ringVector e
  decide (6 ≤ fieldNat e 128 5 ∧ fieldNat e 128 5 ≤ 16) && fieldNat e 133 3 == 0 && fieldNat e 138 6 == 0 && fieldNat e 158 2 == 0 &&
    fieldNat e 167 1 == 0 && fieldNat e 175 1 == 0 && fieldNat e 272 240 == 0 &&
    decide (1 ≤ ringLoomCount e) && decide (ringFirstLoom e + ringLoomCount e ≤ 96) &&
    (decide (vec ≤ 2047) || vec == 0xFFFF) &&
    s.ringMemory (ringCommandBase e) (64 * n) (64 * n) && s.ringMemory (ringCompletionBase e) (32 * n) (32 * n) &&
    s.ringMemory (ringWriteback e) 4 4 &&
    (own == operatorOwner || (decide (own < 12288) && s.ctxHere own && ctxState (s.ctx own) == ctxBound))

/-- Whether hall `h` lets ring `g` be enabled: the level is not 0 (R140), and in DIAGNOSTIC state only its own ring runs (R160). -/
def State.ringAllowed (s : State) (h g : Nat) : Bool :=
  s.ready && s.mod.levelAct != 0 && ((s.hall h).treadle.diag == .none || (s.hall h).treadle.diagRing.toNat == g % 2048)

/-- `RING_ENABLE`, written through `function`: from DISABLED to ENABLED, with the counts from 0. The state of a ring that is not DISABLED
is not changed, and the write is refused as one to its entry (R129, R284). -/
def State.ringEnable (s : State) (h fn : Nat) : State :=
  let g := s.selectedRing h
  let e := (s.ring g).entry
  if ringState e = ringDisabled ∧ s.ringAllowed h g ∧ s.ringEntryOk e then
    s.modRing g fun r =>
      { Ring.reset with entry := setField r.entry 136 2 (BitVec.ofNat 2 ringEnabled), function := fn, enabledAt := some s.newel.time }
  else s.refuse (pgTreadle h) (wordOf g)

/-- A write of `TRD_RING_CMD`. -/
def State.ringCmdWrite (s : State) (h fn : Nat) (v : W32) : State :=
  if v.getLsbD 1 && v.getLsbD 2 then s.refuse (pgTreadle h) v
  else
    let s := if v.getLsbD 0 then s.ringCommit h else s
    let s := if v.getLsbD 1 then s.ringEnable h fn else s
    if v.getLsbD 2 then s.resetRing (s.selectedRing h) else s

/-! ### Knot owners (R146, R358) -/

/-- `KNOT_OWNER_WRITE`. -/
def State.knotOwnerWrite (s : State) (h : Nat) (v : W32) : State :=
  let o := fieldNat v 0 14
  if o < 12288 ∨ o = operatorOwner then
    s.modKnot (knotKey h (s.hall h).treadle.knotSel.toNat) fun k => { k with owner := v.setWidth 14 }
  else s.refuse (pgTreadle h) v

/-! ### The pattern book (R155, R156, R359) -/

/-- The routines of hall `h` by index. -/
def State.book (s : State) (h : Nat) : List (Nat × List Byte) :=
  (s.patterns.filter fun p => p.1 / 1024 == h).filterMap fun p => p.2.map fun r => (p.1 % 1024, r.image)
/-- The size of a pattern book: 4 MiB. -/
def bookSize : Nat := 4 * 2 ^ 20
/-- The bytes of a book. -/
def bookBytes (b : List (Nat × List Byte)) : Nat := (b.map fun r => r.2.length).sum

/-- The image a load would take; none where `SRC` or `LEN` cannot be used, as at their reset values or on a host that has departed: such a load is
refused with `ST_ACCESS` and `INDEX`, like those that R359 names (DESIGN CHOICE; log 56). -/
def State.patternImage (s : State) (h : Nat) : Option (List Byte) :=
  let t := (s.hall h).treadle
  let a := t.patSrc.toNat
  let n := 64 * t.patLen.toNat
  if 0 < n ∧ s.ringMemory a n 64 ∧ !(addrSpace a == 3 && s.hif.departed.getLsbD 0) then some (s.mem.readBytes a n) else none

/-- Whether a book keeps within 4 MiB and its calls within a depth of 4. -/
def bookOk (b : List (Nat × List Byte)) : Bool := decide (bookBytes b ≤ bookSize) && b.all fun r => decide (Config.routineDepth r.1 b ≤ 4)

/-- `PATTERN_LOAD`. An image in an absent hall is refused by R37. -/
def State.patternLoad (s : State) (h : Nat) : State :=
  let t := (s.hall h).treadle
  let i := t.patIndex.toNat
  let refused := s.refuse (pgTreadle h) (wordOf i)
  if s.addrAbsent t.patSrc.toNat then s.fault (pgTreadle h) .engineAbsent (wordOf i) 0
  else match s.patternImage h with
  | none => refused
  | some bs =>
    if t.load.isNone && bookOk (((s.book h).filter fun r => r.1 != i) ++ [(i, bs)]) then
      s.modTreadle h fun t => { t with load := some (i, t.patTenant, bs) }
    else refused

/-- Form the measurement of the operator routines of every hall again, each with its hall, index and tenant bit (R312). -/
def State.measureRoutines (s : State) : State :=
  let rs := (s.patterns.filter fun p => 512 ≤ p.1 % 1024).filterMap fun p => p.2.map fun r => (p.1, r.tenant, r.image)
  { s with sec := { s.sec with measuredRoutines := rs } }

/-- `PATTERN_LOAD_COMPLETE`: the routine is replaced as a whole. An image that lies in a range being zeroed is read once that is done (R212). -/
def State.patternLoaded (s : State) (h : Nat) : State :=
  match (s.hall h).treadle.load with
  | none => s
  | some (i, tenant, bs) =>
    if s.hitsZeroing (s.hall h).treadle.patSrc.toNat bs.length then s else ((s.setRoutine h i (some ⟨bs, tenant⟩)).modTreadle h fun t => { t with load := none }).measureRoutines

/-- `PATTERN_CLEAR`. -/
def State.patternClear (s : State) (h : Nat) : State :=
  let t := (s.hall h).treadle
  if t.load.isSome then s.refuse (pgTreadle h) (wordOf t.patIndex.toNat) else s.setRoutine h t.patIndex.toNat none

/-- A write of `TRD_PAT_CTL`. -/
def State.patternCtlWrite (s : State) (h : Nat) (v : W32) : State :=
  if fieldNat v 0 10 < 512 then s.refuse (pgTreadle h) v
  else
    let s := s.modTreadle h fun t => { t with patIndex := v.setWidth 10, patTenant := v.getLsbD 10 }
    let s := if v.getLsbD 18 then s.patternClear h else s
    if v.getLsbD 16 then s.patternLoad h else s

/-! ### DIAGNOSTIC state (R160, R290, R356) -/

/-- Whether hall `h` may enter DIAGNOSTIC state with ring `i` of it. -/
def State.diagAllowed (s : State) (h i : Nat) : Bool :=
  let g := 2048 * h + i
  let e := (s.ring g).entry
  let far (a : Nat) : Bool := addrSpace a == 2 || addrSpace a == 3
  ringOwner e == operatorOwner && far (ringCommandBase e) && far (ringCompletionBase e) && far (ringWriteback e) &&
    (s.rings.all fun p => ringHall p.1 != h || p.1 == g || ringState p.2.entry == ringDisabled) && !s.anyCtxBound h

/-- `DIAG_ENTER`, with the written value of `PG_CTRL`. -/
def State.diagEnter (s : State) (h : Nat) (v : W32) : State :=
  if (s.hall h).treadle.diag ≠ .none then s
  else if s.sec.scanning.getLsbD h then s.fault (pgTreadle h) .conflict 6 0
  else if s.diagAllowed h (fieldNat v 2 11) then
    (s.zeroHallStores h).modTreadle h fun t => { t with diag := .entering, diagRing := field v 2 11 }
  else s.refuse (pgTreadle h) v

/-- `DIAG_ENTRY_COMPLETE`. -/
def State.diagEntered (s : State) (h : Nat) : State :=
  if (s.hall h).treadle.diag = .entering then
    (s.modTreadle h fun t => { t with diag := .inside }).event (pgTreadle h) 2
  else s

/-- `DIAG_EXIT`: the same stores are zeroed again. -/
def State.diagExit (s : State) (h : Nat) : State :=
  if (s.hall h).treadle.diag = .none then s else (s.zeroHallStores h).modTreadle h fun t => { t with diag := .none }

/-- A write of a treadle page's `PG_CTRL`. -/
def State.treadleCtrlWrite (s : State) (h : Nat) (v : W32) : State :=
  if v.getLsbD 1 then s.loseHall h
  else if v.getLsbD 0 then s.diagEnter h v
  else if (s.hall h).treadle.diag = .none then s.modTreadle h fun t => { t with diagRing := field v 2 11 }
  else s.diagExit h

/-! ### The context table and starvation limits (R105, R145, R356) -/

/-- Whether the context table at a base lies wholly in one gallery, below the cache range. -/
def State.ctxBaseOk (s : State) (h base : Nat) : Bool :=
  decide (base * 65536 + ctxTableSize ≤ gallerySize) && !meetsCacheRange (s.hall h).share.toNat (base * 65536) ctxTableSize

/-- `CTX_BASE_WRITE`. -/
def State.ctxBaseWrite (s : State) (h : Nat) (v : W32) : State :=
  if s.ctxBaseOk h (fieldNat v 0 17) && !s.anyCtxInUse h then s.modTreadle h fun t => { t with ctxBase := v.setWidth 17 }
  else s.refuse (pgTreadle h) v

/-- A write of `TRD_STARVE`. -/
def State.starveWrite (s : State) (h : Nat) (v : W32) : State :=
  let ok (lo : Nat) : Bool := decide (16 ≤ fieldNat v lo 6 ∧ fieldNat v lo 6 ≤ 32)
  if ok 0 && ok 8 && ok 16 && ok 24 then
    s.modTreadle h fun t =>
      { t with starveLoad := field v 0 6, starveMatrix := field v 8 6, starveLanding := field v 16 6, starveStore := field v 24 6 }
  else s.refuse (pgTreadle h) v

/-! ### Window table (R126, R189, R360) -/

/-- The bytes of a context record that hold the use of a space; none where the space is not charged. -/
def useByte (sp : Nat) : Option Nat := match sp with | 1 => some 36 | 2 => some 40 | 3 => some 44 | _ => none

/-- The charge of an entry in units of 64 KiB: its extent with its block scales. -/
def winCharge (w : Block512) : Nat :=
  (winExtent w + (if isMx (winFormat w) || winLayout w = 4 then scaleExtent w else 0) + 65535) / 65536

/-- The context that an entry is charged to. -/
def State.chargedTo (s : State) (w : Block512) : Option Nat :=
  if winOwner w < 12288 && s.ctxHere (winOwner w) then some (winOwner w) else none

/-- Add to, or take from, the use of the context that an entry is charged to. -/
def State.chargeWindow (s : State) (w : Block512) (add : Bool) : State :=
  match s.chargedTo w, useByte (addrSpace (winBase w)) with
  | some c, some b =>
    let use := byteField (s.ctx c) b 4
    if winCharge w = 0 then s else s.ctxWrite c b 4 (if add then use + winCharge w else use - winCharge w)
  | _, _ => s

/-- Whether a charge would take use above quota. -/
def State.chargeAbove (s : State) (w : Block512) : Bool :=
  match s.chargedTo w, useByte (addrSpace (winBase w)) with
  | some c, some b => decide (byteField (s.ctx c) b 4 + winCharge w > byteField (s.ctx c) (b - 12) 4)
  | _, _ => false

/-- Whether a close of an entry would carry the generation of a window of host memory past its end (R318). -/
def genSpent (w : Block512) : Bool := winOpen w && addrSpace (winBase w) == 3 && winGen w == 0xFFFFFFFF

/-- Refuse a window command: the page records a code and the index, and its event is set. -/
def State.windowRefuse (s : State) (h : Nat) (st : Status) : State :=
  (s.event (pgWindow h) 0).fault (pgWindow h) st ((s.hall h).winIndex.setWidth 32) 0

/-- The entry that takes the place of `old`: its generation is kept, and goes up where an open entry closes. -/
def replacedEntry (old new : Block512) : Block512 :=
  winSetGen new (if winOpen old && !winOpen new then winGen old + 1 else winGen old)

/-- Put an entry in place of another: charges move, and a close ends what waits on it. -/
def State.replaceWindow (s : State) (key : Nat) (new : Block512) : State :=
  let old := s.window key
  let s := (s.chargeWindow old false).chargeWindow new true
  let s := s.setWindow key (replacedEntry old new)
  if winOpen old && !winOpen new then s.failReceivers key else s

/-- `WINDOW_COMMIT`. A window whose owner is a FREE context, which R107 lets nothing use and R126 does not refuse, is committed and charged like any
other (DESIGN CHOICE; log 56). -/
def State.windowCommit (s : State) (h : Nat) : State :=
  let key := windowKey h (s.hall h).winIndex.toNat
  let new := (s.hall h).winStage
  let old := s.window key
  if winOwner new ≠ operatorOwner ∧ winOwner new ≥ 12288 then s.windowRefuse h .access
  else if winOwner new ≠ operatorOwner ∧ !s.ctxHere (winOwner new) then s.windowRefuse h .engineAbsent
  else if (s.chargeWindow old false).chargeAbove new then s.windowRefuse h .quota
  else if genSpent old ∧ !winOpen new then s.windowRefuse h .key
  else s.replaceWindow key new

/-- `WINDOW_CLEAR`. -/
def State.windowClear (s : State) (h : Nat) : State :=
  let key := windowKey h (s.hall h).winIndex.toNat
  if genSpent (s.window key) then s.windowRefuse h .key else s.replaceWindow key 0

/-- `WINDOW_FETCH`. -/
def State.windowFetch (s : State) (h : Nat) : State :=
  s.modHall h fun hl => { hl with winStage := s.window (windowKey h hl.winIndex.toNat) }

/-- A write of `WIN_CMD`. -/
def State.windowCmdWrite (s : State) (h : Nat) (v : W32) : State :=
  match fieldNat v 0 3 with
  | 0 => s
  | 1 => s.windowCommit h
  | 2 => s.windowClear h
  | 4 => s.windowFetch h
  | _ => s.refuse (pgWindow h) v

/-! ### The tensor-cache share (R206, R212) -/

/-- Whether `n` bytes from `a` lie where a share of `k` would put the cache of hall `h`. -/
def wouldCover (h k a n : Nat) : Bool := addrSpace a == 1 && addrHall a == h && meetsCacheRange k (addrOffset a) n

/-- Whether a ring that is not DISABLED lies there. -/
def ringCovered (h k : Nat) (e : Block512) : Bool :=
  ringState e != ringDisabled &&
    (wouldCover h k (ringCommandBase e) (64 * ringSize e) || wouldCover h k (ringCompletionBase e) (32 * ringSize e) ||
      wouldCover h k (ringWriteback e) 4)

/-- Whether the destination buffer of a stream's active or pending arming lies there. -/
def streamCovered (h k : Nat) (v : Stream) : Bool :=
  (v.active.toList ++ v.pending.toList).any fun a => wouldCover h k (winBase a.dstWin) (winExtent a.dstWin)

/-- What forbids raising the share of hall `h` to `k`. -/
def State.raiseBlocked (s : State) (h k : Nat) : Bool :=
  (s.anyCtxInUse h && meetsCacheRange k ((s.hall h).treadle.ctxBase.toNat * 65536) ctxTableSize) ||
    (s.rings.any fun p => ringCovered h k p.2.entry) || (s.streams.any fun p => streamCovered h k p.2)

/-- Zero the gallery of hall `h` where a share of `k` covers it. -/
def State.zeroCovered (s : State) (h k : Nat) : State :=
  let out (a : Nat) : Bool := !(addrSpace a == 1 && addrHall a == h && inCacheRange k (addrOffset a))
  { s with mem := s.mem.filter fun c => out c.1, poison := s.poison.filter out, corrected := s.corrected.filter out }

/-- The cache lines that stay when the share changes from `k` to `k'`: those whose set is kept and is their set under the new share too, where
alone they can be found (R207, R212). -/
def keptLines (k k' : Nat) (ls : List CacheLine) : List CacheLine :=
  ls.filter fun l => decide (cacheSet k l.line < 64 * k') && cacheSet k l.line == cacheSet k' l.line

/-- Set the share of hall `h`; a share above 8 is refused as a whole (R206, R346), a raise that R212 forbids leaves the share as it is. -/
def State.shareWrite (s : State) (h : Nat) (v : W32) : State :=
  let k := fieldNat v 0 4
  let old := (s.hall h).share.toNat
  if k > 8 ∨ (k > old ∧ s.raiseBlocked h k) then s.refuse (pgGallery h) v
  else if k > old then
    ((s.zeroCovered h k).replaceCache h (keptLines old k (s.cache h))).modHall h fun hl => { hl with share := BitVec.ofNat 4 k }
  else if k < old then
    let s := (s.zeroCovered h old).replaceCache h (keptLines old k (s.cache h))
    s.modHall h fun hl =>
      { hl with share := BitVec.ofNat 4 k, shareBusy := true
                shareOld := if hl.shareBusy && decide (old ≤ hl.shareOld.toNat) then hl.shareOld else BitVec.ofNat 4 old }
  else s

/-- `CACHE_INVALIDATE`. -/
def State.cacheInvalidate (s : State) (h : Nat) : State := s.replaceCache h []

/-- A write of `GAL_CACHE_CTL`: `INVALIDATE` acts unless the write is refused for its `SHARE` (R206). -/
def State.cacheCtlWrite (s : State) (h : Nat) (v : W32) : State :=
  let s' := s.shareWrite h v
  if v.getLsbD 16 && decide (fieldNat v 0 4 ≤ 8) then s'.cacheInvalidate h else s'

/-- `SHARE_ZERO_DONE`. -/
def State.shareZeroed (s : State) (h : Nat) : State :=
  s.modHall h fun hl => if hl.shareBusy then { hl with shareBusy := false, shareOld := 0 } else hl

/-! ### Ledger and stream pages (R215, R361) -/

/-- `LDG_CAP_WRITE`. -/
def State.ledgerCapWrite (s : State) (h : Nat) (v : W32) : State :=
  let ok (n : Nat) : Bool := decide (16 ≤ n ∧ n ≤ 1024)
  if ok (fieldNat v 0 11) && ok (fieldNat v 16 11) then
    s.modHall h fun hl => { hl with hbmCap := field v 0 11, galCap := field v 16 11 }
  else s.refuse (pgLedger h) v

/-- The generation of a pending arming: the one after the latest (R218). -/
def Stream.pendingGen (v : Stream) : BitVec 16 := match v.pending with | some a => a.gen | none => 0

/-- `STR_STATE` of the selected descriptor. -/
def State.streamState (s : State) (h : Nat) : W32 :=
  let v := s.stream h (s.hall h).strSel.toNat
  wordOf (flagAt v.active.isSome 0 + flagAt v.pending.isSome 1 + (match v.active with | some a => a.gen.toNat | none => 0) * 2 ^ 16)

/-- A read of `STR_STATE` latches `STR_PEND_GEN`. -/
def State.latchPending (s : State) (h : Nat) : State :=
  s.modHall h fun hl => { hl with pendGenLatch := (s.stream h hl.strSel.toNat).pendingGen }

/-! ### The pages of a hall -/

/-- The treadle page as it reads (R356). -/
def State.treadleRead (s : State) (h rel : Nat) : W32 :=
  let t := (s.hall h).treadle
  let r := s.ring (s.selectedRing h)
  let k := s.knot (knotKey h t.knotSel.toNat)
  if 0x080 ≤ rel ∧ rel < 0x0C0 then field r.entry (8 * (rel - 0x080)) 32
  else match rel with
    | 0x040 => t.ctxBase.setWidth 32
    | 0x044 => wordOf (t.starveLoad.toNat + t.starveMatrix.toNat * 2 ^ 8 + t.starveLanding.toNat * 2 ^ 16 + t.starveStore.toNat * 2 ^ 24)
    | 0x048 => t.ringSel.setWidth 32
    | 0x050 => r.p
    | 0x054 => r.f
    | 0x058 => r.c
    | 0x05C => r.h
    | 0x060 => t.knotSel.setWidth 32
    | 0x064 => k.owner.setWidth 32
    | 0x068 => k.count
    | 0x06C => wordOf (flagAt k.poison 0)
    | 0x070 => lowWord t.patSrc
    | 0x074 => highWord t.patSrc
    | 0x078 => wordOf (t.patIndex.toNat + flagAt t.patTenant 10 + flagAt t.load.isSome 17)
    | 0x07C => t.patLen.setWidth 32
    | 0x0C0 => t.evtRing.setWidth 32
    | _ => 0

/-- Whether a 64-byte-aligned address names space 1, 2 or 3, as `TRD_PAT_SRC` and `SLV_PROG_SRC` must (R255, R356). -/
def imageAddress (a : W64) : Bool := decide (1 ≤ addrSpace a.toNat ∧ addrSpace a.toNat ≤ 3) && a.toNat % 64 == 0

/-- A write to the treadle page. -/
def State.treadleWrite (s : State) (h fn rel : Nat) (v : W32) : State :=
  if 0x080 ≤ rel ∧ rel < 0x0C0 then
    s.modTreadle h fun t => { t with ringData := setField t.ringData (8 * (rel - 0x080)) 32 v }
  else match rel with
    | 0x010 => s.treadleCtrlWrite h v
    | 0x040 => s.ctxBaseWrite h v
    | 0x044 => s.starveWrite h v
    | 0x048 => s.ringSelect h v
    | 0x04C => s.ringCmdWrite h fn v
    | 0x060 => s.modTreadle h fun t => { t with knotSel := v.setWidth 8 }
    | 0x064 => s.knotOwnerWrite h v
    | 0x070 => s.stageLow (4096 * pgTreadle h + 0x070) v
    | 0x074 =>
      let (w, s) := s.joinHigh (4096 * pgTreadle h + 0x070) (s.hall h).treadle.patSrc v
      if imageAddress w then s.modTreadle h fun t => { t with patSrc := w } else s.refuse (pgTreadle h) v
    | 0x078 => s.patternCtlWrite h v
    | 0x07C => if fieldNat v 0 16 = 0 then s.refuse (pgTreadle h) v else s.modTreadle h fun t => { t with patLen := v.setWidth 16 }
    | _ => s

/-- The window-table page. -/
def State.windowPageRead (s : State) (h rel : Nat) : W32 :=
  if rel = 0x040 then (s.hall h).winIndex.setWidth 32
  else if 0x080 ≤ rel ∧ rel < 0x0C0 then field (s.hall h).winStage (8 * (rel - 0x080)) 32
  else 0
/-- A write to it. -/
def State.windowPageWrite (s : State) (h rel : Nat) (v : W32) : State :=
  if rel = 0x040 then s.modHall h fun hl => { hl with winIndex := v.setWidth 16 }
  else if rel = 0x044 then s.windowCmdWrite h v
  else if 0x080 ≤ rel ∧ rel < 0x0C0 then s.modHall h fun hl => { hl with winStage := setField hl.winStage (8 * (rel - 0x080)) 32 v }
  else s

/-- The rail-keeper page (R335, R362). -/
def State.keeperRead (s : State) (h rel : Nat) : W32 :=
  let k := (s.hall h).keeper
  match rel with
  | 0x040 => k.target.setWidth 32
  | 0x044 => wordOf (flagAt k.idleDis 0)
  | 0x048 =>
    wordOf (k.railNow s.newel.time + k.state.toNat * 2 ^ 10 + flagAt s.power.protect 12 + flagAt k.throttle 13 + k.tj.toNat * 2 ^ 16)
  | 0x050 => k.window.setWidth 32
  | 0x054 => k.rate.setWidth 32
  | 0x058 => wordOf (k.rateMin.toNat + k.rateMax.toNat * 2 ^ 16)
  | 0x05C => lowWord k.endLatch
  | 0x060 => highWord k.endLatch
  | _ => 0
/-- A write to it. -/
def State.keeperWrite (s : State) (h rel : Nat) (v : W32) : State :=
  match rel with
  | 0x040 => s.targetWrite h v
  | 0x044 => s.keeperCtlWrite h v
  | 0x050 => s.monitorWrite h v
  | _ => s

/-! ### Flight, selvedge and express pages (R255, R261, R267) -/

/-- `FLT_STATE.LINK`. -/
def linkCode : Link → Nat
  | .disabled => 0 | .training => 1 | .hello => 2 | .awaitAdmit => 3 | .admitPending => 4 | .up => 5 | .down => 6

/-- The flight page. -/
def State.flightRead (s : State) (p rel : Nat) : W32 :=
  let f := s.flight p
  match rel with
  | 0x040 => wordOf (flagAt f.enable 0 + flagAt f.mode 1)
  | 0x044 => wordOf (linkCode f.link + f.mismatch.toNat * 2 ^ 8)
  | 0x048 => lowWord f.peerSerial
  | 0x04C => highWord f.peerSerial
  | 0x050 => wordOf (f.peerGrade.toNat + f.peerPort.toNat * 2 ^ 2 + f.peerCoord.toNat * 2 ^ 8)
  | 0x058 => wordOf (f.linkTo.toNat + f.joinTo.toNat * 2 ^ 16)
  | 0x060 => lowWord (f.ethPeer.setWidth 64)
  | 0x064 => highWord (f.ethPeer.setWidth 64)
  | 0x068 => lowWord ((Config.ethSelf s.part.serial p).setWidth 64)
  | 0x06C => highWord ((Config.ethSelf s.part.serial p).setWidth 64)
  | _ => 0

/-- A write to it. -/
def State.flightWrite (s : State) (p rel : Nat) (v : W32) : State :=
  match rel with
  | 0x040 => s.flightEnable p v
  | 0x054 =>
    let s := if v.getLsbD 0 then s.flightAdmit p else s
    if v.getLsbD 1 then s.flightReject p else s
  | 0x058 =>
    let l := fieldNat v 0 16
    let j := fieldNat v 16 16
    if 300 ≤ l ∧ l ≤ 10000 ∧ 1 ≤ j ∧ j ≤ 60000 then s.modFlight p fun f => { f with linkTo := field v 0 16, joinTo := field v 16 16 }
    else s.refuse (pgFlight p) v
  | 0x060 => s.stageLow (4096 * pgFlight p + 0x060) v
  | 0x064 =>
    let (w, s) := s.joinHigh (4096 * pgFlight p + 0x060) ((s.flight p).ethPeer.setWidth 64) v
    s.modFlight p fun f => { f with ethPeer := w.setWidth 48 }
  | _ => s

/-- `SLV_TABLE`. -/
def State.selvTable (s : State) (p : Nat) : W32 :=
  let v := s.selv p
  let base := if v.unserved then 0 else reserveBase / 65536 + 96 * v.place
  wordOf (base + homeHall p * 2 ^ 24 + v.serving * 2 ^ 27 + flagAt v.unserved 30)

/-- The selvedge page; programs are loaded through the host-interface one only. -/
def State.selvRead (s : State) (p rel : Nat) : W32 :=
  let v := s.selv p
  match rel with
  | 0x040 => s.selvTable p
  | 0x044 => wordOf (v.queue.length + flagAt v.run.isSome 8)
  | 0x048 => if p = 12 then wordOf (s.slvCtl.index.toNat + flagAt s.slvCtl.load.isSome 17) else 0
  | 0x050 => if p = 12 then lowWord s.slvCtl.src else 0
  | 0x054 => if p = 12 then highWord s.slvCtl.src else 0
  | _ => 0

/-- A write to it. -/
def State.selvWrite (s : State) (p rel : Nat) (v : W32) : State :=
  if p ≠ 12 then s
  else match rel with
    | 0x048 => s.progCtlWrite v
    | 0x050 => s.stageLow (4096 * pgSelvedge 12 + 0x050) v
    | 0x054 =>
      let (w, s) := s.joinHigh (4096 * pgSelvedge 12 + 0x050) s.slvCtl.src v
      if imageAddress w then { s with slvCtl := { s.slvCtl with src := w } } else s.refuse (pgSelvedge 12) v
    | _ => s

/-- A write of `XPR_COORD`: only while every flight is DISABLED, and with every coordinate below its axis size. -/
def State.coordWrite (s : State) (v : W32) : State :=
  let ok (lo : Nat) : Bool := decide (fieldNat v lo 4 ≤ fieldNat v (16 + lo) 4)
  if ((List.range 12).all fun p => (s.flight p).link == .disabled) && ok 0 && ok 4 && ok 8 then
    { s with xprCoord := v &&& 0x1FFF0FFF }
  else s.refuse pgExpress v

/-! ### Any register -/

/-- A block register of any page. -/
def State.blockRead (s : State) (id : PageId) (rel : Nat) : W32 :=
  match id with
  | .treadle h => s.treadleRead h rel
  | .gallery h => if rel = 0x040 then wordOf ((s.hall h).share.toNat + flagAt (s.hall h).shareBusy 8) else 0
  | .ledger h => if rel = 0x040 then wordOf ((s.hall h).hbmCap.toNat + (s.hall h).galCap.toNat * 2 ^ 16) else 0
  | .stream h =>
    if rel = 0x040 then (s.hall h).strSel.setWidth 32
    else if rel = 0x044 then s.streamState h
    else if rel = 0x048 then (s.hall h).pendGenLatch.setWidth 32
    else 0
  | .window h => s.windowPageRead h rel
  | .keeper h => s.keeperRead h rel
  | .flight p => s.flightRead p rel
  | .selvedge p => s.selvRead p rel
  | .express => if rel = 0x040 then s.xprCoord else 0
  | .module | .newel | .power | .security | .hif | .corridor _ | .hbm _ | .switch _ | .loom _ _ => s.moduleBlockRead id rel

/-- A write to a block register, or to `PG_CTRL`, through function `fn`. -/
def State.blockWrite (s : State) (id : PageId) (fn rel : Nat) (v : W32) : State :=
  match id with
  | .treadle h => s.treadleWrite h fn rel v
  | .gallery h => if rel = 0x040 then s.cacheCtlWrite h v else s
  | .ledger h => if rel = 0x040 then s.ledgerCapWrite h v else s
  | .stream h => if rel = 0x040 then s.modHall h fun hl => { hl with strSel := v.setWidth 12 } else s
  | .window h => s.windowPageWrite h rel v
  | .keeper h => s.keeperWrite h rel v
  | .flight p => s.flightWrite p rel v
  | .selvedge p => s.selvWrite p rel v
  | .express => if rel = 0x040 then s.coordWrite v else s
  | .module | .newel | .power | .security | .hif | .corridor _ | .hbm _ | .switch _ | .loom _ _ => s.moduleBlockWrite id rel v

/-- Whether a write of a page is taken: the page answers and its block is present. `FLT_CTL` is refused, not ignored, before READY (R305). -/
def State.writeTaken (s : State) (id : PageId) (rel : Nat) : Bool :=
  s.pagePresent id && (s.pageAnswers id || (s.hostInterfaceUp && rel == 0x040 && (match id with | .flight _ => true | _ => false)))

/-- A 32-bit register write at a BAR0 offset. -/
def State.regWrite (s : State) (fn off : Nat) (v : W32) : State :=
  match pageOf (off / 4096) with
  | none => s
  | some id =>
    let rel := off % 4096
    if !s.writeTaken id rel then s
    else if rel < 0x040 ∧ rel ≠ 0x010 then s.headerWrite (off / 4096) rel v
    else (s.blockWrite id fn rel v).carryReset

/-- What a read of a register does besides giving its value. -/
def State.readEffect (s : State) (id : PageId) (rel : Nat) : State :=
  match id with
  | .security => if rel = 0x040 then s.secStatusRead else s
  | .keeper h =>
    if rel = 0x054 then s.modKeeper h fun k => { k with endLatch := k.endNs }
    else if rel = 0x058 then s.modKeeper h fun k => { k with rateMin := 0, rateMax := 0 }
    else s
  | .stream h => if rel = 0x044 then s.latchPending h else s
  | _ => s

/-- A 32-bit register read of a page: the low half of a 64-bit RO register latches the high half, whose next read returns it (R345). -/
def State.pageRead (s : State) (id : PageId) (off : Nat) : W32 × State :=
  let rel := off % 4096
  if rel < 0x040 then (s.headerRead (off / 4096) id rel, s)
  else match (if wideRead id (rel - 4) then s.latch.find? fun p => p.1 == off else none) with
    | some (_, v) => (v, { s with latch := s.latch.erase off })
    | none =>
      let v := s.blockRead id rel
      let s := if wideRead id rel then { s with latch := s.latch.insert (off + 4) (s.blockRead id (rel + 4)) } else s
      (v, s.readEffect id rel)

/-- A 32-bit register read at a BAR0 offset: its value, and the state after it. -/
def State.regRead (s : State) (off : Nat) : W32 × State :=
  match pageOf (off / 4096) with
  | none => (0, s)
  | some id =>
    if !s.pageAnswers id || (!s.pagePresent id && off % 4096 != 0x000 && off % 4096 != 0x00C) then (0, s) else s.pageRead id off

/-- A 32-bit register read through space 5, which reads as a BAR0 one does (R353). -/
def State.managementRead (s : State) (off : Nat) : W32 × State :=
  match pageOf (off / 4096) with
  | none => (0, s)
  | some id => s.pageRead id off

/-- Whether an access has a whole aligned unit of 4 or 8 bytes. -/
def wholeUnit (off width : Nat) : Bool := (width == 4 || width == 8) && off % width == 0

/-- A BAR0 write through a function that the module presents (R298, R345). One of 8 bytes to two registers of 32 bits, of which R345 says nothing,
is two writes of 4 bytes, the low offset first (DESIGN CHOICE; log 56). -/
def State.barWrite (s : State) (fn off width : Nat) (v : W64) : State :=
  if !s.hostInterfaceUp then s
  else if !wholeUnit off width || !s.functionHere fn then s.emit .unsupported
  else
    let s := s.regWrite fn off (lowWord v)
    if width = 8 then s.regWrite fn (off + 4) (highWord v) else s

/-- A BAR0 read, answered with its data. -/
def State.barRead (s : State) (off width : Nat) : State :=
  if !s.hostInterfaceUp then s
  else if !wholeUnit off width then s.emit .unsupported
  else
    let (lo, s) := s.regRead off
    if width = 8 then
      let (hi, s) := s.regRead (off + 4)
      s.emit (.data (joinWords lo hi))
    else s.emit (.data (lo.setWidth 64))

/-! ### Ring accounting (R295, R296, R299; log 41) -/

/-- The time since a ring was last enabled. -/
def Ring.elapsed (r : Ring) (now : W64) : W64 := match r.enabledAt with | some t => now - t | none => 0

/-- The time in which an item of the ring was fetched and not yet completed. -/
def Ring.busyTime (r : Ring) (now : W64) : W64 := match r.busySince with | some t => r.busyNs + (now - t) | none => r.busyNs

/-- What a 64-bit unit of a doorbell slot reads as: the ring's two counts, and 0 elsewhere (log 41). -/
def State.slotRead (s : State) (off : Nat) : W64 :=
  let r := s.ring (off / 64)
  match off % 64 / 8 with
  | 2 => r.elapsed s.newel.time
  | 3 => r.busyTime s.newel.time
  | _ => 0

/-- A 4-byte read of BAR2: the low half of a count latches the high half, as R345 says. -/
def State.bar2Read (s : State) (off : Nat) : State :=
  let v := s.slotRead off
  if !s.hostInterfaceUp then s
  else if off % 8 = 0 then
    let s := { s with latch := s.latch.insert (2 ^ 28 + off + 4) (highWord v) }
    s.emit (.data ((lowWord v).setWidth 64))
  else match s.latch.find? fun p => p.1 == 2 ^ 28 + off with
    | some (_, w) =>
      let s := { s with latch := s.latch.erase (2 ^ 28 + off) }
      s.emit (.data (w.setWidth 64))
    | none => s.emit (.data ((highWord v).setWidth 64))

/-- The item of a ring that reaches an offset of the management space (R353). -/
def State.managementItem (s : State) (g off : Nat) : Option Item :=
  s.items.find? fun t => t.id.ring == g && t.phase != .decided && ringOwner (s.ring g).entry == operatorOwner &&
    t.wins.any fun w => addrSpace (winBase w.2) == 5 && decide (addrOffset (winBase w.2) ≤ off) &&
      decide (off < addrOffset (winBase w.2) + winExtent w.2)

/-- `MANAGEMENT_SPACE_ACCESS`: one unit of an operator command's access; another unit fails the item. -/
def State.managementAccess (s : State) (g : Nat) (write : Bool) (off width : Nat) (v : W64) : State :=
  match s.managementItem g off with
  | none => s
  | some t =>
    if !wholeUnit off width then s.failItem t.id .access
    else if write then
      let s := s.managementWrite off (lowWord v)
      (if width = 8 then s.managementWrite (off + 4) (highWord v) else s).carryReset
    else
      let (lo, s) := s.managementRead off
      if width = 8 then
        let (hi, s) := s.managementRead (off + 4)
        s.emit (.data (joinWords lo hi))
      else s.emit (.data (lo.setWidth 64))

/-! ### Commands -/

/-- Act on hall `h`'s pages when they answer. -/
def State.onHall (s : State) (h : Nat) (f : State → State) : State := if s.hostInterfaceUp && s.hallUp h then f s else s

/-- `RING_SELECT` (R357). -/
def execRingSelect (hall : Nat) (value : W32) (s : State) : Host.Outcome State Fault Refusal :=
  .next (s.onHall hall fun s => s.ringSelect hall value)
/-- `RING_COMMIT` (R129, R357). -/
def execRingCommit (hall : Nat) (s : State) : Host.Outcome State Fault Refusal := .next (s.onHall hall fun s => s.ringCommit hall)
/-- `RING_ENABLE` (R129, R140), through a function that the module presents (R298). -/
def execRingEnable (hall function : Nat) (s : State) : Host.Outcome State Fault Refusal :=
  .next (s.onHall hall fun s => if s.functionHere function then s.ringEnable hall function else s)
/-- `KNOT_OWNER_WRITE` (R146, R358). -/
def execKnotOwnerWrite (hall : Nat) (value : W32) (s : State) : Host.Outcome State Fault Refusal :=
  .next (s.onHall hall fun s => s.knotOwnerWrite hall value)
/-- `PATTERN_LOAD` (R156, R359). -/
def execPatternLoad (hall : Nat) (s : State) : Host.Outcome State Fault Refusal := .next (s.onHall hall fun s => s.patternLoad hall)
/-- `PATTERN_LOAD_COMPLETE` (R156). -/
def execPatternLoadComplete (hall : Nat) (s : State) : Host.Outcome State Fault Refusal := .next (s.patternLoaded hall)
/-- `PATTERN_CLEAR` (R359). -/
def execPatternClear (hall : Nat) (s : State) : Host.Outcome State Fault Refusal := .next (s.onHall hall fun s => s.patternClear hall)
/-- `DIAG_ENTER` (R160, R356). -/
def execDiagEnter (hall : Nat) (value : W32) (s : State) : Host.Outcome State Fault Refusal :=
  .next (s.onHall hall fun s => s.diagEnter hall value)
/-- `DIAG_ENTRY_COMPLETE` (R160). -/
def execDiagEntryComplete (hall : Nat) (s : State) : Host.Outcome State Fault Refusal := .next (s.diagEntered hall)
/-- `DIAG_EXIT` (R160). -/
def execDiagExit (hall : Nat) (s : State) : Host.Outcome State Fault Refusal := .next (s.onHall hall fun s => s.diagExit hall)
/-- `QUIESCE` (R286, R356). -/
def execQuiesce (hall : Nat) (s : State) : Host.Outcome State Fault Refusal := .next (s.onHall hall fun s => s.loseHall hall)
/-- `CTX_BASE_WRITE` (R105, R356). -/
def execCtxBaseWrite (hall : Nat) (value : W32) (s : State) : Host.Outcome State Fault Refusal :=
  .next (s.onHall hall fun s => s.ctxBaseWrite hall value)
/-- `WINDOW_COMMIT` (R126, R360). -/
def execWindowCommit (hall : Nat) (s : State) : Host.Outcome State Fault Refusal := .next (s.onHall hall fun s => s.windowCommit hall)
/-- `WINDOW_CLEAR` (R126, R360). -/
def execWindowClear (hall : Nat) (s : State) : Host.Outcome State Fault Refusal := .next (s.onHall hall fun s => s.windowClear hall)
/-- `WINDOW_FETCH` (R360). -/
def execWindowFetch (hall : Nat) (s : State) : Host.Outcome State Fault Refusal := .next (s.onHall hall fun s => s.windowFetch hall)
/-- `CACHE_SHARE_SET` (R206, R212). -/
def execCacheShareSet (hall : Nat) (value : W32) (s : State) : Host.Outcome State Fault Refusal :=
  .next (s.onHall hall fun s => s.cacheCtlWrite hall value)
/-- `SHARE_ZERO_DONE` (R212). -/
def execShareZeroDone (hall : Nat) (s : State) : Host.Outcome State Fault Refusal := .next (s.shareZeroed hall)
/-- `CACHE_INVALIDATE` (R206). -/
def execCacheInvalidate (hall : Nat) (s : State) : Host.Outcome State Fault Refusal :=
  .next (s.onHall hall fun s => s.cacheInvalidate hall)
/-- `LDG_CAP_WRITE` (R215). -/
def execLdgCapWrite (hall : Nat) (value : W32) (s : State) : Host.Outcome State Fault Refusal :=
  .next (s.onHall hall fun s => s.ledgerCapWrite hall value)
/-- `STR_STATE_READ` (R361). -/
def execStrStateRead (hall : Nat) (s : State) : Host.Outcome State Fault Refusal :=
  .next (if hall < 8 then s.barRead (4096 * pgStream hall + 0x044) 4 else s)
/-- `RK_MON_RATE_READ` (R362). -/
def execRkMonRateRead (hall : Nat) (s : State) : Host.Outcome State Fault Refusal :=
  .next (if hall < 8 then s.barRead (4096 * pgKeeper hall + 0x054) 4 else s)
/-- `RK_MON_EXT_READ` (R362). -/
def execRkMonExtRead (hall : Nat) (s : State) : Host.Outcome State Fault Refusal :=
  .next (if hall < 8 then s.barRead (4096 * pgKeeper hall + 0x058) 4 else s)
/-- `REG64_LOW_READ` (R345): a read of a register at a BAR0 offset, which latches the high half of a 64-bit RO register; an operand of 2²⁸ or
more reads BAR2 at the offset above 2²⁸ (R295, R299; log 41). -/
def execReg64LowRead (offset : Nat) (s : State) : Host.Outcome State Fault Refusal :=
  .next (if offset < 2 ^ 28 then s.barRead offset 4 else s.bar2Read (offset - 2 ^ 28))
/-- `REGISTER_WRITE` (R345, R346). -/
def execRegisterWrite (function offset width : Nat) (value : W64) (s : State) : Host.Outcome State Fault Refusal :=
  .next (s.barWrite function offset width value)
/-- `MANAGEMENT_SPACE_ACCESS` (R353). -/
def execManagementSpaceAccess (ring : Nat) (write : Bool) (offset width : Nat) (value : W64) (s : State) :
    Host.Outcome State Fault Refusal := .next (s.managementAccess ring write offset width value)

end Sys2Proof.Machine
end

