-- ==== Sys2Proof/Machine/Diag.lean ====
section
/-!
DEFINITION. `TIMESTAMP` (R167), and `CARD_RUN` with its card words (R159, R160, R192).
-/
namespace Sys2Proof.Machine

/-! ### `TIMESTAMP` (R167) -/

/-- The newel time at a byte offset of a window, which has no scales of its own. -/
def State.timestamp (t : Item) (s : State) : State :=
  if word32 t.desc 16 = noHandle then s.finish t.id 0
  else
    let w := t.winD 16
    let fn := s.itemFunction t.id
    let a := winBase w + byteField t.desc 20 4
    let inStore := addrSpace (winBase w) == 0
    match s.accessFault fn w [(a, 8)] with
    | some st => s.failItem t.id st
    | none =>
      if s.hitsZeroing a 8 || (inStore && !s.allEmpty a 8) then s
      else
        let s := (s.store (s.access fn w) a (leBytes 8 s.newel.time.toNat)).treadleRequest t.hall (.operand t.id) true a 8
        (if inStore then s.markFull a 8 else s).finish t.id 8

/-! ### Card words (R159) -/

/-- Whether a card word holds a reserved value. -/
def cardReserved (w : BitVec 128) : Bool :=
  decide (8 ≤ cardUnit w) || decide (5 ≤ cardAction w) || decide (96 ≤ cardLoom w) || cardCount w == 0

/-- The store offset of a repetition: 8-byte words on from the word's address, within the store. -/
def cardOffset (st : Nat) (addr : W64) (i : Nat) : Nat := (addr.toNat / 8 * 8 + 8 * i) % storeSize st

/-- Whether the tokens let a word pass over the given offsets of a store: full for a READ or COMPARE, empty for a WRITE; always with its
bypass bit. -/
def State.cardTokens (s : State) (h : Nat) (w : BitVec 128) (os : List Nat) : Bool :=
  cardBypass w || cardUnit w ≥ 3 || os.all fun o =>
    let a := storeAddr h (cardLoom w) (cardUnit w) o
    if cardAction w = 1 then s.allEmpty a 8 else s.allFull a 8

/-- What a word leaves on the tokens it passed. -/
def State.cardToken (s : State) (h : Nat) (w : BitVec 128) (o : Nat) : State :=
  let a := storeAddr h (cardLoom w) (cardUnit w) o
  if cardBypass w || cardUnit w ≥ 3 then s else if cardAction w = 1 then s.markFull a 8 else s.markEmpty a 8

/-- The 8 bytes that one repetition reads: a word of a store, or what a unit that is no store gives (log 8). -/
def State.cardRead (s : State) (h : Nat) (w : BitVec 128) (i : Nat) : W64 × State :=
  if cardUnit w < 3 then
    let o := cardOffset (cardUnit w) (cardAddress w) i
    (BitVec.ofNat 64 (leNat (s.mem.readBytes (storeAddr h (cardLoom w) (cardUnit w) o) 8)), s.cardToken h w o)
  else
    let (n, s) := s.draw
    (Config.cardUnitData (cardUnit w) (cardLoom w) (cardOperand w) (cardAddress w) n, s)

/-- READ: 8 bytes a repetition. -/
def State.cardReads (s : State) (h : Nat) (w : BitVec 128) : Nat → State × List Byte
  | 0 => (s, [])
  | n + 1 =>
    let (s, bs) := s.cardReads h w n
    let (v, s) := s.cardRead h w n
    (s, bs ++ leBytes 8 v.toNat)

/-- COMPARE: one result bit a repetition. What the masked word is held against, R159 does not say: the bit is a free value (log 8). -/
def State.cardCompares (s : State) (h : Nat) (w : BitVec 128) : Nat → State × List Bool
  | 0 => (s, [])
  | n + 1 =>
    let (s, bs) := s.cardCompares h w n
    let (_, s) := s.cardRead h w n
    let (k, s) := s.draw
    (s, bs ++ [(Config.freeWord k).getLsbD 0])

/-- Bits as bytes, the first in bit 0 of the first byte. -/
def bitBytes (bs : List Bool) : List Byte :=
  leBytes ((bs.length + 7) / 8) (bs.foldr (fun b n => (if b then 1 else 0) + 2 * n) 0)

/-- Where a WRITE puts its data in a store, R159 does not say: a free offset (log 8). -/
def cardPlace (st n : Nat) : Nat := (Config.freeWord n).toNat / 8 * 8 % storeSize st

/-- The offsets that the repetitions of a word touch in a store. -/
def cardOffsets (w : BitVec 128) (free : Nat) : List Nat :=
  (List.range (cardCount w)).map fun i =>
    if cardAction w = 1 then cardPlace (cardUnit w) (free + i) else cardOffset (cardUnit w) (cardAddress w) i

/-- WRITE: the word's data, once a repetition. A unit that is no store takes it as its control value (log 8). -/
def State.cardWrites (s : State) (h : Nat) (w : BitVec 128) : Nat → State
  | 0 => s
  | n + 1 =>
    let s := s.cardWrites h w n
    if cardUnit w < 3 then
      let (k, s) := s.draw
      let o := cardPlace (cardUnit w) k
      (s.store Access.plain (storeAddr h (cardLoom w) (cardUnit w) o) (leBytes 8 (cardAddress w).toNat)).cardToken h w o
    else s.modLoom h (cardLoom w) fun l =>
      { l with controls := Table.set 0 l.controls (cardUnit w) ((cardAddress w).setWidth 32)
               drives := Table.set 0 l.drives (cardUnit w) (Table.get 0 l.drives (cardUnit w) + 1) }

/-- PASS: the unit is driven under its pass control as often as the word says. -/
def State.cardPass (s : State) (h : Nat) (w : BitVec 128) : State :=
  s.modLoom h (cardLoom w) fun l =>
    { l with controls := Table.set 0 l.controls (cardUnit w) (cardOperand w)
             drives := Table.set 0 l.drives (cardUnit w) (Table.get 0 l.drives (cardUnit w) + cardCount w) }

/-- MODE: the unit's mode value. -/
def State.cardMode (s : State) (h : Nat) (w : BitVec 128) : State :=
  s.modLoom h (cardLoom w) fun l => { l with modes := Table.set 0 l.modes (cardUnit w) (cardOperand w) }

/-- Put the results of word `i` of an item into its result window, after those of the words before. -/
def State.cardResult (s : State) (t : Item) (i : Nat) (bs : List Byte) : State :=
  let fn := s.itemFunction t.id
  let w := t.winD 20
  (s.store (s.access fn w) (winBase w + s.cardResults fn (t.winD 16) i) bs).modItem t.id fun t => { t with bytes := t.bytes + bs.length }

/-- Run one card word on the looms of hall `h`. -/
def State.cardAct (s : State) (t : Item) (i : Nat) (w : BitVec 128) : State :=
  match cardAction w with
  | 0 => let (s', bs) := s.cardReads t.hall w (cardCount w); s'.cardResult t i bs
  | 1 => (s.cardWrites t.hall w (cardCount w)).modItem t.id fun t => { t with bytes := t.bytes + 8 * cardCount w }
  | 2 => let (s', bs) := s.cardCompares t.hall w (cardCount w); s'.cardResult t i (bitBytes bs)
  | 3 => s.cardPass t.hall w
  | _ => s.cardMode t.hall w

/-- The card words of an item. -/
def cardWords (t : Item) : Nat := winDim (t.winD 16) 0 / 16

/-- The bytes that an item's words put into its result window (R192). -/
def State.cardTotal (s : State) (t : Item) : Nat := s.cardResults (s.itemFunction t.id) (t.winD 16) (cardWords t)

/-- Whether the next card word reads full, and before the first the result window empty, where they lie in a loom store. -/
def State.cardHere (s : State) (t : Item) : Bool :=
  s.readReady t ⟨word32 t.desc 16, t.winD 16, [0], 16 * t.progress, 16⟩ &&
    (decide (t.progress ≠ 0) || addrSpace (winBase (t.winD 20)) != 0 || s.allEmpty (winBase (t.winD 20)) (s.cardTotal t))

/-- The last word has run: the words are consumed, the results are there, and the item ends. -/
def State.cardEnd (s : State) (t : Item) : State :=
  let total := s.cardTotal t
  let s := (t.reads [16]).foldl (fun s r => s.consume t r) s
  (if addrSpace (winBase (t.winD 20)) = 0 then s.markFull (winBase (t.winD 20)) total else s).finish t.id 0

/-- Whether an item's next card word waits for a token. -/
def State.cardWaits (s : State) (t : Item) : Bool :=
  let w := s.cardWord (s.itemFunction t.id) (t.winD 16) t.progress
  !s.cardHere t || (!cardReserved w && !s.cardTokens t.hall w (cardOffsets w s.free))

/-- Run an item's next card word, if it has the action `only` asks for. It waits for its tokens; the first reserved value fails the item;
the item ends with its last word. -/
def State.cardNext (s : State) (i : ItemId) (only : Option Nat) : State :=
  match s.runnable i .cardRun with
  | none => s
  | some t =>
    let fn := s.itemFunction i
    let k := t.progress
    let dg := (s.hall t.hall).treadle
    let w := s.cardWord fn (t.winD 16) k
    if !s.hallRuns t.hall then s
    else if dg.diag ≠ .inside ∨ dg.diagRing.toNat ≠ i.ring % 2048 then s.failItem i .access
    else match (s.readFault fn true (t.reads [16])).orElse fun _ => s.readFault fn false (t.reads [20]) with
      | some st => s.failItem i st
      | none =>
        if !s.cardHere t || (only.any fun a => a != cardAction w) then s
        else if cardReserved w then s.failItem i .reservedField
        else if !s.cardTokens t.hall w (cardOffsets w s.free) then s
        else
          let s := (s.cardAct t k w).modItem i fun t => { t with progress := k + 1 }
          ((if k + 1 = cardWords t then s.cardEnd t else s).afterManagementRead t).carryReset

/-- Run `n` card words of an item. -/
def State.cardRunAll (s : State) (i : ItemId) : Nat → State
  | 0 => s
  | n + 1 => (s.cardNext i none).cardRunAll i n

/-- `CARD_RUN`: every card word that is left. -/
def State.cardRun (s : State) (i : ItemId) : State :=
  match s.item i with
  | some t => s.cardRunAll i (cardWords t - t.progress)
  | none => s

/-! ### Commands -/

/-- `TIMESTAMP` (R167). -/
def execTimestamp (it : ItemId) (s : State) : Host.Outcome State Fault Refusal := .next (s.withItem it .timestamp State.timestamp)
/-- `CARD_RUN` (R159, R192). -/
def execCardRun (it : ItemId) (s : State) : Host.Outcome State Fault Refusal := .next (s.cardRun it)
/-- `CARD_READ`: the item's next card word, a READ (R159). -/
def execCardRead (it : ItemId) (s : State) : Host.Outcome State Fault Refusal := .next (s.cardNext it (some 0))
/-- `CARD_WRITE` (R159). -/
def execCardWrite (it : ItemId) (s : State) : Host.Outcome State Fault Refusal := .next (s.cardNext it (some 1))
/-- `CARD_COMPARE` (R159). -/
def execCardCompare (it : ItemId) (s : State) : Host.Outcome State Fault Refusal := .next (s.cardNext it (some 2))
/-- `CARD_PASS` (R159). -/
def execCardPass (it : ItemId) (s : State) : Host.Outcome State Fault Refusal := .next (s.cardNext it (some 3))
/-- `CARD_MODE` (R159). -/
def execCardMode (it : ItemId) (s : State) : Host.Outcome State Fault Refusal := .next (s.cardNext it (some 4))

end Sys2Proof.Machine
end

