-- ==== Sys2Proof/Machine/Landing.lean ====
section
/-!
DEFINITION. The landing commands (R166, R178–R183): element-wise work, row reductions, softmax and normalisation in FP32, over
the rows of a window.
-/
namespace Sys2Proof.Machine

/-! ### Arithmetic of one row -/

/-- One `ELTWISE` element (R179): the tensor or scalar operand `b`, and the scalar. -/
def eltwiseOp (op : Nat) (a b scalar : W32) : W32 :=
  match op with
  | 0 => add32 a b
  | 1 => sub32 a b
  | 2 => mul32 a b
  | 3 => max32 a b
  | 4 => min32 a b
  | 5 => fma32 a scalar b
  | 6 => mul32 a scalar
  | 7 => exp32 a
  | 8 => ln32 a
  | 9 => rsqrt32 a
  | 10 => div32 one32 a
  | n => activationGrad (n - 16) a b

/-- The maximum of a row; −∞ for an empty one. -/
def rowMax : List W32 → W32
  | [] => inf32 true
  | x :: xs => xs.foldl max32 x

/-- rne32(1 / E). -/
def recip32 (e : Nat) : W32 := rneQ false 1 e 0

/-- One `ROWREDUCE` row (R180). -/
def rowReduceOp (op : Nat) (xs : List W32) : W32 :=
  match op with
  | 0 => reduce32 xs
  | 1 => rowMax xs
  | 2 => reduce32 (xs.map fun x => mul32 x x)
  | 3 => mul32 (recip32 xs.length) (reduce32 xs)
  | _ =>
    let m := rowMax xs
    if m = inf32 true then inf32 true
    else add32 (ln32 (reduce32 (xs.map fun x => exp32 (sub32 x m)))) m

/-- The masked and scaled row x′ of `SOFTMAX_FWD` (R181). `i` is the row index. -/
def softmaxInput (xs : List W32) (c : W32) (causal : Bool) (i : Nat) (offset : Int) : List W32 :=
  xs.zipIdx.map fun p => if causal && decide ((p.2 : Int) > (i : Int) + offset) then inf32 true else mul32 p.1 c

/-- One `SOFTMAX_FWD` row: y and the pair (m, s) (R181). `given` is the pair under stats read. -/
def softmaxRow (xs' : List W32) (given : Option (W32 × W32)) : List W32 × W32 × W32 :=
  let zeros := xs'.map fun _ => zero32
  if xs'.all (· == inf32 true) then (zeros, inf32 true, zero32)
  else
    let m := match given with
      | some p => p.1
      | none => rowMax xs'
    if given.isSome ∧ m = inf32 true then (zeros, m, zero32)
    else
      let e := xs'.map fun x => exp32 (sub32 x m)
      let sum := match given with
        | some p => p.2
        | none => reduce32 e
      (e.map fun x => div32 x sum, m, sum)

/-- One `SOFTMAX_BWD` row (R181). -/
def softmaxGrad (ys dys : List W32) : List W32 :=
  let r := reduce32 (List.zipWith mul32 dys ys)
  List.zipWith (fun y dy => mul32 y (sub32 dy r)) ys dys

/-- xh and rstd of a row (R182); mode 1 takes the mean off first. -/
def normalise (mode : Nat) (eps : W32) (xs : List W32) : List W32 × W32 :=
  let k := recip32 xs.length
  let xc := if mode = 1 then (let mu := mul32 k (reduce32 xs); xs.map fun x => sub32 x mu) else xs
  let rstd := rsqrt32 (add32 (mul32 k (reduce32 (xc.map fun x => mul32 x x))) eps)
  (xc.map fun x => mul32 x rstd, rstd)

/-- One `NORM_FWD` row. -/
def normRow (mode : Nat) (eps : W32) (gamma beta : List W32) (xs : List W32) : List W32 :=
  let (xh, _) := normalise mode eps xs
  xh.zipIdx.map fun p => add32 (mul32 p.1 (gamma.getD p.2 one32)) (beta.getD p.2 zero32)

/-- One `NORM_BWD` row: dx, and what it adds to dγ. -/
def normGrad (mode : Nat) (eps : W32) (gamma : List W32) (xs dys : List W32) : List W32 × List W32 :=
  let k := recip32 xs.length
  let (xh, rstd) := normalise mode eps xs
  let g := dys.zipIdx.map fun p => mul32 p.1 (gamma.getD p.2 one32)
  let a := mul32 k (reduce32 (List.zipWith mul32 g xh))
  let b := if mode = 1 then mul32 k (reduce32 g) else zero32
  (List.zipWith (fun gj xj => mul32 rstd (sub32 (sub32 gj b) (mul32 xj a))) g xh, List.zipWith mul32 dys xh)

/-! ### The command -/

/-- Row `r` of the window at byte `b` of an item as FP32, `n` elements of it (R178). -/
def State.rowAt (s : State) (t : Item) (b n r : Nat) : List W32 :=
  let w := t.winD b
  s.row32 (s.access (s.itemFunction t.id) w) w (t.scale b) n r

/-- The first row of an optional window at byte `b`; empty where there is none. -/
def State.optRow (s : State) (t : Item) (b n : Nat) : List W32 := if (t.win b).isSome then s.rowAt t b n 0 else []

/-- What one row of a landing command computes: the destination row, and the pair that stats write keeps. -/
def State.landingRow (s : State) (t : Item) (o : Opcode) (r : Nat) : List W32 × Option (W32 × W32) :=
  let src := s.heldView t (r / 32)
  let n := winDim (t.winD 16) 0
  let xs := (src 16).rowAt t 16 n r
  let op := byteField t.desc 28 1
  let mode := byteField t.desc 29 1
  let scalar := word32 t.desc 32
  match o with
  | .epilog => (xs.zipIdx.map fun p => stages456 ((src 40).columnValue t 40 p.2) ((src 44).columnValue t 44 p.2) op p.1, none)
  | .eltwise =>
    let b := if (op ≤ 5 ∨ 17 ≤ op) ∧ mode ≠ 2 then (src 20).rowAt t 20 n (if mode = 0 then r else 0) else []
    (xs.zipIdx.map fun p => eltwiseOp op p.1 (b.getD p.2 scalar) scalar, none)
  | .rowreduce => ([rowReduceOp op xs], none)
  | .softmaxFwd =>
    let c := if (dec32 scalar).isZero then one32 else scalar
    let x' := softmaxInput xs c (mode % 2 == 1) r (word32 t.desc 52).toInt
    let stats := (src 20).rowAt t 20 2 r
    let given := if mode / 2 = 1 then some (stats.getD 0 zero32, stats.getD 1 zero32) else none
    let (ys, pair) := softmaxRow x' given
    (ys, if mode / 2 = 2 then some pair else none)
  | .softmaxBwd => (softmaxGrad xs ((src 20).rowAt t 20 n r), none)
  | .normFwd =>
    (normRow mode scalar ((src 20).optRow t 20 n) (if mode = 1 then (src 40).optRow t 40 n else []) xs, none)
  | .normBwd => ((normGrad mode scalar ((src 20).optRow t 20 n) xs ((src 44).rowAt t 44 n r)).1, none)
  | _ => (xs, none)

/-- Write one row of a landing command whose sources are those of state `s0`. -/
def State.landRow (s0 : State) (t : Item) (o : Opcode) (s : State) (r : Nat) : State × Tally :=
  let (ys, pair) := s0.landingRow t o r
  let (s, tl) := s.writeRow t 24 (convControl t.desc 31) (landingDest t r) 0 ys
  match pair with
  | some p =>
    let (s', tl') := s.writeRow t 20 ⟨false, false, 0⟩ r 0 [p.1, p.2]
    (s', tl.plus tl')
  | none => (s, tl)

/-- What some rows of a `NORM_BWD` add to dγ, in ascending order, each column by itself (R182). What is written last is counted. -/
def State.addGamma (s0 : State) (t : Item) (rs : List Nat) (s : State) : State × Tally :=
  if (t.win 48).isNone then (s, ⟨0, 0, 0⟩)
  else
    let n := winDim (t.winD 16) 0
    let mode := byteField t.desc 29 1
    let sums := rs.foldl (fun acc r =>
      let src := s0.heldView t (r / 32)
      List.zipWith add32 acc
        (normGrad mode (word32 t.desc 32) ((src 20).optRow t 20 n) ((src 16).rowAt t 16 n r) ((src 44).rowAt t 44 n r)).2)
      (s.rowAt t 48 n 0)
    let (s, tl) := s.writeRow t 48 ⟨false, false, 0⟩ 0 0 sums
    (s, if rs.contains (winRows (t.winD 16) - 1) then tl else ⟨0, 0, 0⟩)

/-- One unit of a landing command: its rows, whose sources are those of state `s0`, and what they add to dγ (R178). -/
def State.landUnit (s0 : State) (t : Item) (o : Opcode) (u : Nat) (s : State) : State :=
  let rs := landingRows t u
  let (s, tl) := tallied (State.landRow s0 t o) s rs
  let (s, tl') : State × Tally := if o = .normBwd then State.addGamma s0 t rs s else (s, ⟨0, 0, 0⟩)
  let l := s.unitLoom t u
  ((s.countTally t.hall l (tl.plus tl')).unitFinished t.id u (tl.plus tl').bytes 0).ranOn t.id l |>.modLoom t.hall l fun lm =>
    { lm with slots := lm.slots.filter fun x => !(x.item == t.id && x.unit == u) }

/-! ### What a unit reads and writes -/

/-- Whether a source is the destination itself (R166): its tokens stay full. -/
def inPlace (t : Item) (r : Read) : Bool := r.handle == word32 t.desc 24

/-- Whether an operand that all rows share is the destination itself: then every unit takes it as it stood before the command wrote any of
it (R166). -/
def Item.sharedInPlace (t : Item) (o : Opcode) : Bool :=
  (landingSources o t.desc).any fun b => rowSource o t.desc b && (t.win b).isSome && word32 t.desc b == word32 t.desc 24

/-- What stops a unit, at the place of the piece that it stops. -/
def State.landingFault (s : State) (t : Item) (o : Opcode) (u : Nat) : Option (Status × Nat) :=
  let fn := s.itemFunction t.id
  let rds := t.landingReads o (landingRows t u)
  (atPlace u .load (s.readFault fn true (s.loadsLeft t o u))).orElse fun _ =>
    (atPlace u .landing (s.readFault fn true ((rds.filter fun r => addrSpace (winBase r.win) == 0) ++ t.landingPriors o u))).orElse fun _ =>
      atPlace u .store (s.readFault fn false (t.landingWrites o u))

/-- How the units of a landing command run from a state on: each takes its sources under full tokens, save the destination itself, and gives
what it writes (R166, R178, R203). -/
def State.landingWork (s0 : State) (t : Item) (o : Opcode) : UnitWork :=
  let sources (u : Nat) := (t.landingReads o (landingRows t u)).filter fun r => addrSpace (winBase r.win) == 0
  let takes (u : Nat) := s0.loadsLeft t o u ++ ((sources u).filter fun r => !inPlace t r) ++ outsideReads (t.landingPriors o u)
  let same (u : Nat) : Bool := (sources u).any (inPlace t)
  let waits (s : State) (u : Nat) : Bool :=
    (takes u ++ sources u).all (s.readReady t) && ((t.landingWrites o u).filter fun d => !(same u && inPlace t d)).all s.writeReady
  let shared := t.sharedInPlace o
  { fault := fun s u => s.landingFault t o u
    ready := fun s u => if shared && t.unitsDone.isEmpty then (List.range t.unitCount).all fun v => v < u || waits s v else waits s u
    run := fun u s => State.landUnit (if shared then s0 else s) t o u s
    hold := fun _ s => s
    takes := takes
    gives := t.landingWrites o }

/-- The shared body of the landing commands: every unit that is left. -/
def State.landing (o : Opcode) (t : Item) (s : State) : State := State.runAll (s.landingWork t o) t s

/-! ### Commands -/

/-- `EPILOG` (R100, R183). -/
def execEpilog (it : ItemId) (s : State) : Host.Outcome State Fault Refusal := .next (s.withItem it .epilog (State.landing .epilog))
/-- `ELTWISE` (R179). -/
def execEltwise (it : ItemId) (s : State) : Host.Outcome State Fault Refusal :=
  .next (s.withItem it .eltwise (State.landing .eltwise))
/-- `ROWREDUCE` (R180). -/
def execRowreduce (it : ItemId) (s : State) : Host.Outcome State Fault Refusal :=
  .next (s.withItem it .rowreduce (State.landing .rowreduce))
/-- `SOFTMAX_FWD` (R181). -/
def execSoftmaxFwd (it : ItemId) (s : State) : Host.Outcome State Fault Refusal :=
  .next (s.withItem it .softmaxFwd (State.landing .softmaxFwd))
/-- `SOFTMAX_BWD` (R181). -/
def execSoftmaxBwd (it : ItemId) (s : State) : Host.Outcome State Fault Refusal :=
  .next (s.withItem it .softmaxBwd (State.landing .softmaxBwd))
/-- `NORM_FWD` (R182). -/
def execNormFwd (it : ItemId) (s : State) : Host.Outcome State Fault Refusal :=
  .next (s.withItem it .normFwd (State.landing .normFwd))
/-- `NORM_BWD` (R182). -/
def execNormBwd (it : ItemId) (s : State) : Host.Outcome State Fault Refusal :=
  .next (s.withItem it .normBwd (State.landing .normBwd))
/-- `CONVERT` (R183). -/
def execConvert (it : ItemId) (s : State) : Host.Outcome State Fault Refusal :=
  .next (s.withItem it .convert (State.landing .convert))

end Sys2Proof.Machine
end

