-- ==== Sys2Proof/Machine/Treadle.lean ====
section
/-!
DEFINITION. The treadle's own steps (R132, R135, R143, R144, R155): fetching, resuming, completing pieces and items, pattern calls; and the
starvation limits (R118, R145, R150, R187, R263).
-/
namespace Sys2Proof.Machine

/-! ### What a started piece waits for (R145) -/

/-- The work of an item's units. -/
def State.workOf (s : State) (t : Item) (o : Opcode) : UnitWork :=
  if matrixOp o then s.matWork (matOf t o)
  else if bobbinOp o then s.bobbinWork t o
  else if movementOp o then moveWork o t (s.movesOf t)
  else s.landingWork t o

/-- Whether the pass that a running MATRIX piece is for waits for its operands. -/
def State.passWaits (s : State) (m : Mat) (p : Piece) : Bool :=
  let lm := s.loom p.hall p.loom
  let r := (s.tileOf m.t p.unit).getD (m.tileStart p.unit)
  m.mayStart r && r.pass == p.part && !s.passReady m lm p.unit p.part

/-- Whether the epilogue of a finished tile waits for a token. -/
def State.epilogueWaits (s : State) (m : Mat) (u : Nat) : Bool :=
  ((s.tileOf m.t u).any fun r => r.finished) &&
    !((m.lateReads u).all (s.readReady m.t) && s.writeReady (m.tileWrite u))

/-- Whether a running piece waits for a full or an empty token. -/
def State.workWaits (s : State) (t : Item) (o : Opcode) (p : Piece) : Bool :=
  if s.workDone t o p then false
  else if matrixOp o then (if p.queue = .matrix then s.passWaits (matOf t o) p else s.epilogueWaits (matOf t o) p.unit)
  else !(s.workOf t o).ready s p.unit

/-- Whether the head of a lane waits for a token or a knot: before it is issued for its wait entry and its first operands, after that for
what its unit takes and gives. -/
def State.pieceWaits (s : State) (key : Nat) (p : Piece) : Bool :=
  match s.item p.item with
  | none => false
  | some t => match t.op with
    | none => false
    | some o =>
      if s.laneRunning key then !t.failures.contains p.place && (t.phase == .dispatched || s.runsOn t) && s.workWaits t o p
      else t.phase == .dispatched && !s.headReady p

/-- The lane heads of an item that wait. -/
def State.waitingHeads (s : State) (t : Item) : List Piece :=
  s.lanes.flatMap fun l => match l.2 with
    | p :: _ => if p.item == t.id && s.pieceWaits l.1 p then [p] else []
    | [] => []

/-! ### What a command without pieces waits for (R145, R150, R187, R263) -/

/-- Whether an item finds no channel free that it needs (R263). -/
def State.channelWaits (s : State) (t : Item) : Bool :=
  match t.op with
  | some .send =>
    (s.route (t.desc.getLsbD 288) (byteField t.desc 24 8)).any fun r => (s.takeChannel (t.desc.getLsbD 288) r.1 t.id).isNone
  | some .multicast | some .buddyPush => (s.takeChannel true 0 t.id).isNone
  | some .collReduceScatter | some .collAllGather | some .collAllReduce =>
    let c := s.collectiveOf t
    (s.takeChannels c).isNone
  | _ => false

/-- What a command without pieces reads under full tokens. -/
def Item.treadleReads (t : Item) : List Read :=
  match t.op with
  | some .send | some .multicast | some .collReduceScatter | some .collAllGather | some .collAllReduce => t.reads [16]
  | some .buddyPush => t.reads [20]
  | some .bobbinBind => [⟨word32 t.desc 20, t.winD 20, [0], 0, 512⟩]
  | some .callPattern => t.callReads
  | _ => []

/-- What it writes under empty ones. -/
def Item.treadleWrites (t : Item) : List Read :=
  match t.op with
  | some .collReduceScatter => if updateFlag t.desc then [] else t.reads [20]
  | some .collAllGather | some .collAllReduce => t.reads [20]
  | some .statsSnap => [⟨word32 t.desc 20, t.winD 20, [0], 0, 32⟩]
  | some .timestamp => if word32 t.desc 16 = noHandle then [] else [⟨word32 t.desc 16, t.winD 16, [0], byteField t.desc 20 4, 8⟩]
  | _ => []

/-- Whether an item that the treadle executes waits for a knot, a token, a channel or an arrival count. -/
def State.treadleWaits (s : State) (t : Item) : Bool :=
  s.atWait t ||
    match t.op, t.phase with
    | some .recv, .external => true
    | some .knotWait, .dispatched => t.waitMet && ((openWaits t).any fun w => s.waitState w.2 == .unmet)
    | some .cardRun, .dispatched => t.waitMet && s.cardWaits t
    | some o, .dispatched =>
      t.waitMet && treadleOp o &&
        (s.channelWaits t || !t.treadleReads.all (s.readReady t) || !t.treadleWrites.all s.writeReady)
    | _, _ => false

/-! ### `STARVATION_LIMIT` -/

/-- Whether a finished tile of a matrix command waits for its term knot (R118). -/
def State.termWaits (s : State) (m : Mat) : Bool :=
  m.t.phase == .dispatched && m.t.unitsOpen.any fun u => (s.tileOf m.t u).any fun r => r.finished && s.tileTerm m.t r.gate == .unmet

/-- `STARVATION_LIMIT`: what has waited the limit of its queue fails, a piece at its place and a command of the treadle as a whole; a term
knot that is not met fails its command (R118). Counts stand still while the hall is parked (R334). -/
def State.starve (s : State) (i : ItemId) : State :=
  match s.item i with
  | none => s
  | some t =>
    let heads := s.waitingHeads t
    if !s.hallRuns t.hall then s
    else if !heads.isEmpty then heads.foldl (fun s p => s.failAt i .starved p.place) s
    else match t.mat.filter s.termWaits with
      | some m => s.failTerm m .starved
      | none => if s.treadleWaits t then s.failItem i .starved else s

/-! ### Commands -/

/-- `DESCRIPTOR_FETCH` (R132, R135, R227, R286). -/
def execDescriptorFetch (hall : Nat) (s : State) (entryEcc : Ecc := .clean) (tableEcc : Ecc := .clean) (knotEcc : Ecc := .clean) :
    Host.Outcome State Fault Refusal :=
  .next (s.fetch hall entryEcc tableEcc knotEcc).askSlices
/-- `PARKED_COMMAND_RESUME` (R143). -/
def execParkedCommandResume (ring : Nat) (s : State) : Host.Outcome State Fault Refusal := .next (s.resumeRing ring).askSlices
/-- `PIECE_COMPLETE` (R141, R144). -/
def execPieceComplete (hall loom : Nat) (queue : Queue) (s : State) : Host.Outcome State Fault Refusal :=
  .next (s.completePiece hall loom queue).askSlices
/-- `ITEM_COMPLETE` (R130, R134, R144, R282, R286). -/
def execItemComplete (it : ItemId) (s : State) (knotEcc : Ecc := .clean) : Host.Outcome State Fault Refusal :=
  .next (s.completeItem it knotEcc).askSlices
/-- `STARVATION_LIMIT` (R145). -/
def execStarvationLimit (it : ItemId) (s : State) : Host.Outcome State Fault Refusal := .next (s.starve it)
/-- `CALL_PATTERN` (R155–R158, R169, R286). -/
def execCallPattern (it : ItemId) (s : State) (routineEcc : Ecc := .clean) : Host.Outcome State Fault Refusal :=
  .next (s.withItem it .callPattern (State.callPattern routineEcc)).askSlices

end Sys2Proof.Machine
end

