-- ==== Sys2Proof/Machine/Dispatch.lean ====
section
/-!
DEFINITION. The effect of each command on the module: one arm for each constructor of `Instr`, each one call of its meaning.
-/
namespace Sys2Proof.Machine

def exec (i : Instr) (s : State) : Host.Outcome State Fault Refusal :=
  match i with
  | .doorbellPWrite ring value => Sys2Proof.Machine.execDoorbellPWrite ring value s
  | .doorbellHWrite ring value => Sys2Proof.Machine.execDoorbellHWrite ring value s
  | .descriptorFetch hall entryEcc tableEcc knotEcc => Sys2Proof.Machine.execDescriptorFetch hall s entryEcc tableEcc knotEcc
  | .parkedCommandResume ring => Sys2Proof.Machine.execParkedCommandResume ring s
  | .dobbyChoice hall loom queue knotEcc => Sys2Proof.Machine.execDobbyChoice hall loom queue s knotEcc
  | .pieceComplete hall loom queue => Sys2Proof.Machine.execPieceComplete hall loom queue s
  | .itemComplete it knotEcc => Sys2Proof.Machine.execItemComplete it s knotEcc
  | .knotUpdateArrive position knotEcc => Sys2Proof.Machine.execKnotUpdateArrive position s knotEcc
  | .starvationLimit it => Sys2Proof.Machine.execStarvationLimit it s
  | .ringStalled ring => Sys2Proof.Machine.execRingStalled ring s
  | .nop it => Sys2Proof.Machine.execNop it s
  | .knotSet it knotEcc => Sys2Proof.Machine.execKnotSet it s knotEcc
  | .knotWait it knotEcc => Sys2Proof.Machine.execKnotWait it s knotEcc
  | .fence it => Sys2Proof.Machine.execFence it s
  | .callPattern it routineEcc => Sys2Proof.Machine.execCallPattern it s routineEcc
  | .timestamp it => Sys2Proof.Machine.execTimestamp it s
  | .loadTile it => Sys2Proof.Machine.execLoadTile it s
  | .storeTile it => Sys2Proof.Machine.execStoreTile it s
  | .copy it => Sys2Proof.Machine.execCopy it s
  | .gather it => Sys2Proof.Machine.execGather it s
  | .scatter it => Sys2Proof.Machine.execScatter it s
  | .prefetch it => Sys2Proof.Machine.execPrefetch it s
  | .offload it => Sys2Proof.Machine.execOffload it s
  | .restore it => Sys2Proof.Machine.execRestore it s
  | .streamArm it => Sys2Proof.Machine.execStreamArm it s
  | .matmul it => Sys2Proof.Machine.execMatmul it s
  | .matmulT it => Sys2Proof.Machine.execMatmulT it s
  | .conv it => Sys2Proof.Machine.execConv it s
  | .matmulAcc it => Sys2Proof.Machine.execMatmulAcc it s
  | .epilog it => Sys2Proof.Machine.execEpilog it s
  | .eltwise it => Sys2Proof.Machine.execEltwise it s
  | .rowreduce it => Sys2Proof.Machine.execRowreduce it s
  | .softmaxFwd it => Sys2Proof.Machine.execSoftmaxFwd it s
  | .softmaxBwd it => Sys2Proof.Machine.execSoftmaxBwd it s
  | .normFwd it => Sys2Proof.Machine.execNormFwd it s
  | .normBwd it => Sys2Proof.Machine.execNormBwd it s
  | .convert it => Sys2Proof.Machine.execConvert it s
  | .adaptFwd it => Sys2Proof.Machine.execAdaptFwd it s
  | .adaptBwd it => Sys2Proof.Machine.execAdaptBwd it s
  | .bobbinBind it => Sys2Proof.Machine.execBobbinBind it s
  | .collReduceScatter it => Sys2Proof.Machine.execCollReduceScatter it s
  | .collAllGather it => Sys2Proof.Machine.execCollAllGather it s
  | .collAllReduce it => Sys2Proof.Machine.execCollAllReduce it s
  | .send it => Sys2Proof.Machine.execSend it s
  | .recv it => Sys2Proof.Machine.execRecv it s
  | .multicast it => Sys2Proof.Machine.execMulticast it s
  | .windowOpen it => Sys2Proof.Machine.execWindowOpen it s
  | .windowClose it => Sys2Proof.Machine.execWindowClose it s
  | .buddyPush it => Sys2Proof.Machine.execBuddyPush it s
  | .updateBind it => Sys2Proof.Machine.execUpdateBind it s
  | .statsSnap it => Sys2Proof.Machine.execStatsSnap it s
  | .cardRun it => Sys2Proof.Machine.execCardRun it s
  | .cardRead it => Sys2Proof.Machine.execCardRead it s
  | .cardWrite it => Sys2Proof.Machine.execCardWrite it s
  | .cardCompare it => Sys2Proof.Machine.execCardCompare it s
  | .cardPass it => Sys2Proof.Machine.execCardPass it s
  | .cardMode it => Sys2Proof.Machine.execCardMode it s
  | .warpTileLoad hall loom it unit => Sys2Proof.Machine.execWarpTileLoad hall loom it unit s
  | .tilePass hall loom => Sys2Proof.Machine.execTilePass hall loom s
  | .replayRerun hall loom => Sys2Proof.Machine.execReplayRerun hall loom s
  | .promotion hall loom => Sys2Proof.Machine.execPromotion hall loom s
  | .tileEpilogue hall loom => Sys2Proof.Machine.execTileEpilogue hall loom s
  | .stage3Term hall loom => Sys2Proof.Machine.execStage3Term hall loom s
  | .bobbinWorkItemStart hall loom it unit => Sys2Proof.Machine.execBobbinWorkItemStart hall loom it unit s
  | .bobbinSliceFill hall loom slice ecc => Sys2Proof.Machine.execBobbinSliceFill hall loom slice ecc s
  | .ledgerAdmit hall slotEcc => Sys2Proof.Machine.execLedgerAdmit hall s slotEcc
  | .ledgerResponse hall request ecc => Sys2Proof.Machine.execLedgerResponse hall request ecc s
  | .cacheFill hall request ecc => Sys2Proof.Machine.execCacheFill hall request ecc s
  | .streamGrant hall stateEcc => Sys2Proof.Machine.execStreamGrant hall s stateEcc
  | .streamTransferComplete hall descriptor answer => Sys2Proof.Machine.execStreamTransferComplete hall descriptor answer s
  | .streamStarved hall descriptor => Sys2Proof.Machine.execStreamStarved hall descriptor s
  | .correctedWriteback word => Sys2Proof.Machine.execCorrectedWriteback word s
  | .sramScrubRead word ecc => Sys2Proof.Machine.execSramScrubRead word ecc s
  | .hbmScrubRead hall offset ecc => Sys2Proof.Machine.execHbmScrubRead hall offset ecc s
  | .selvedgeUpdateBegin selvedge => Sys2Proof.Machine.execSelvedgeUpdateBegin selvedge s
  | .selvedgeBlockUpdate selvedge => Sys2Proof.Machine.execSelvedgeBlockUpdate selvedge s
  | .selvedgeUpdateEnd selvedge => Sys2Proof.Machine.execSelvedgeUpdateEnd selvedge s
  | .fma selvedge d a b c => Sys2Proof.Machine.execFma selvedge d a b c s
  | .add selvedge d a b => Sys2Proof.Machine.execAdd selvedge d a b s
  | .sub selvedge d a b => Sys2Proof.Machine.execSub selvedge d a b s
  | .mul selvedge d a b => Sys2Proof.Machine.execMul selvedge d a b s
  | .div selvedge d a b => Sys2Proof.Machine.execDiv selvedge d a b s
  | .sqrt selvedge d a => Sys2Proof.Machine.execSqrt selvedge d a s
  | .min selvedge d a b => Sys2Proof.Machine.execMin selvedge d a b s
  | .max selvedge d a b => Sys2Proof.Machine.execMax selvedge d a b s
  | .abs selvedge d a => Sys2Proof.Machine.execAbs selvedge d a s
  | .neg selvedge d a => Sys2Proof.Machine.execNeg selvedge d a s
  | .lt selvedge d a b => Sys2Proof.Machine.execLt selvedge d a b s
  | .sel selvedge d a b c => Sys2Proof.Machine.execSel selvedge d a b c s
  | .const selvedge d immediate => Sys2Proof.Machine.execConst selvedge d immediate s
  | .exp selvedge d a => Sys2Proof.Machine.execExp selvedge d a s
  | .ln selvedge d a => Sys2Proof.Machine.execLn selvedge d a s
  | .pow selvedge d a b => Sys2Proof.Machine.execPow selvedge d a b s
  | .repeatBlock selvedge times body => Sys2Proof.Machine.execRepeatBlock selvedge times body s
  | .helloSend port => Sys2Proof.Machine.execHelloSend port s
  | .helloReceive port hello => Sys2Proof.Machine.execHelloReceive port hello s
  | .linkTrained port => Sys2Proof.Machine.execLinkTrained port s
  | .admitPendingRelease port => Sys2Proof.Machine.execAdmitPendingRelease port s
  | .linkDown port => Sys2Proof.Machine.execLinkDown port s
  | .lossNotice port axis coordinate lane => Sys2Proof.Machine.execLossNotice port axis coordinate lane s
  | .remoteWriteAccept port head => Sys2Proof.Machine.execRemoteWriteAccept port head s
  | .remoteDatagram port origin data express => Sys2Proof.Machine.execRemoteDatagram port origin data s express
  | .negativeAck it receiver status port passing => Sys2Proof.Machine.execNegativeAck it receiver status s port passing
  | .expressForward portIn vc origin destinations data length stall => Sys2Proof.Machine.execExpressForward portIn vc origin destinations data s length stall
  | .frameReceive port etherType priority => Sys2Proof.Machine.execFrameReceive port etherType priority s
  | .pfcFrame port priorities => Sys2Proof.Machine.execPfcFrame port priorities s
  | .creditReceive port datagrams express => Sys2Proof.Machine.execCreditReceive port datagrams express s
  | .channelAcquire it => Sys2Proof.Machine.execChannelAcquire it s
  | .collectiveOpen head port => Sys2Proof.Machine.execCollectiveOpen head s port
  | .joinTimeout it => Sys2Proof.Machine.execJoinTimeout it s
  | .collectiveWithdrawal port axis tag coordinate group => Sys2Proof.Machine.execCollectiveWithdrawal port axis tag coordinate group s
  | .collectiveData axis tag shard phase data port group express => Sys2Proof.Machine.execCollectiveData axis tag shard phase data s port group express
  | .multicastChunkAck it receiver port passing => Sys2Proof.Machine.execMulticastChunkAck it receiver s port passing
  | .multicastPrune it receivers place => Sys2Proof.Machine.execMulticastPrune it receivers s place
  | .ptpMessage message => Sys2Proof.Machine.execPtpMessage message s
  | .ptpLock offsetNs => Sys2Proof.Machine.execPtpLock offsetNs s
  | .ppsIn => Sys2Proof.Machine.execPpsIn s
  | .hostDepart function cause => Sys2Proof.Machine.execHostDepart function cause s
  | .configRequest function => Sys2Proof.Machine.execConfigRequest function s
  | .bar4Access function write offset length data => Sys2Proof.Machine.execBar4Access function write offset length data s
  | .hostCompletion request answer address data => Sys2Proof.Machine.execHostCompletion request answer address data s
  | .hostMemoryTimeout what => Sys2Proof.Machine.execHostMemoryTimeout what s
  | .cxlSnoop line kind => Sys2Proof.Machine.execCxlSnoop line kind s
  | .spdmRequest request => Sys2Proof.Machine.execSpdmRequest request s
  | .keyInstall slot key ownerSession session => Sys2Proof.Machine.execKeyInstall slot key ownerSession s session
  | .keyErase slot ownerSession session => Sys2Proof.Machine.execKeyErase slot ownerSession s session
  | .rollbackRaise version => Sys2Proof.Machine.execRollbackRaise version s
  | .pldmRequest request => Sys2Proof.Machine.execPldmRequest request s
  | .secOwnerWrite hash => Sys2Proof.Machine.execSecOwnerWrite hash s
  | .secStatusRead => Sys2Proof.Machine.execSecStatusRead s
  | .jtagChallenge instruction => Sys2Proof.Machine.execJtagChallenge s instruction
  | .jtagUnlock signatureValid scope => Sys2Proof.Machine.execJtagUnlock signatureValid s scope
  | .jtagInternalScan hall => Sys2Proof.Machine.execJtagInternalScan hall s
  | .moduleReset => Sys2Proof.Machine.execModuleReset s
  | .moduleSleepEnter => Sys2Proof.Machine.execModuleSleepEnter s
  | .moduleWake cause => Sys2Proof.Machine.execModuleWake cause s
  | .startup result => Sys2Proof.Machine.execStartup result s
  | .powerOn => Sys2Proof.Machine.execPowerOn s
  | .undervoltage cause => Sys2Proof.Machine.execUndervoltage cause s
  | .startupRestart => Sys2Proof.Machine.execStartupRestart s
  | .powerOff => Sys2Proof.Machine.execPowerOff s
  | .inputSwitchOpen => Sys2Proof.Machine.execInputSwitchOpen s
  | .inputSwitchReclose => Sys2Proof.Machine.execInputSwitchReclose s
  | .prechargeBypassClose => Sys2Proof.Machine.execPrechargeBypassClose s
  | .tamperResponse => Sys2Proof.Machine.execTamperResponse s
  | .glitchZeroise => Sys2Proof.Machine.execGlitchZeroise s
  | .protectionEnter watts => Sys2Proof.Machine.execProtectionEnter s watts
  | .protectionExit watts => Sys2Proof.Machine.execProtectionExit s watts
  | .rkTargetWrite hall value => Sys2Proof.Machine.execRkTargetWrite hall value s
  | .idleLowering hall => Sys2Proof.Machine.execIdleLowering hall s
  | .idleExit hall => Sys2Proof.Machine.execIdleExit hall s
  | .thermalThrottle hall celsius => Sys2Proof.Machine.execThermalThrottle hall celsius s
  | .hallPark hall celsius => Sys2Proof.Machine.execHallPark hall celsius s
  | .hallResume hall celsius => Sys2Proof.Machine.execHallResume hall celsius s
  | .hallCoreShutoff hall celsius => Sys2Proof.Machine.execHallCoreShutoff hall celsius s
  | .monitorWindowEnd hall rate => Sys2Proof.Machine.execMonitorWindowEnd hall rate s
  | .rkMonCtlWrite hall value => Sys2Proof.Machine.execRkMonCtlWrite hall value s
  | .rkMonRateRead hall => Sys2Proof.Machine.execRkMonRateRead hall s
  | .rkMonExtRead hall => Sys2Proof.Machine.execRkMonExtRead hall s
  | .railFault hall => Sys2Proof.Machine.execRailFault hall s
  | .hallDieFailure hall => Sys2Proof.Machine.execHallDieFailure hall s
  | .hallQuiesce hall => Sys2Proof.Machine.execHallQuiesce hall s
  | .temperatureTrip celsius => Sys2Proof.Machine.execTemperatureTrip celsius s
  | .coolantFlowTrip pulses => Sys2Proof.Machine.execCoolantFlowTrip pulses s
  | .wakeTimer0Trip => Sys2Proof.Machine.execWakeTimer0Trip s
  | .wakeTimer1Trip => Sys2Proof.Machine.execWakeTimer1Trip s
  | .generalComparatorTrip => Sys2Proof.Machine.execGeneralComparatorTrip s
  | .nwlCmpCtlWrite comparator value => Sys2Proof.Machine.execNwlCmpCtlWrite comparator value s
  | .nwlCmpValWrite comparator value => Sys2Proof.Machine.execNwlCmpValWrite comparator value s
  | .ringSelect hall value => Sys2Proof.Machine.execRingSelect hall value s
  | .ringCommit hall => Sys2Proof.Machine.execRingCommit hall s
  | .ringEnable hall function => Sys2Proof.Machine.execRingEnable hall function s
  | .ringReset hall => Sys2Proof.Machine.execRingReset hall s
  | .knotOwnerWrite hall value => Sys2Proof.Machine.execKnotOwnerWrite hall value s
  | .patternLoad hall => Sys2Proof.Machine.execPatternLoad hall s
  | .patternLoadComplete hall => Sys2Proof.Machine.execPatternLoadComplete hall s
  | .patternClear hall => Sys2Proof.Machine.execPatternClear hall s
  | .diagEnter hall value => Sys2Proof.Machine.execDiagEnter hall value s
  | .diagEntryComplete hall => Sys2Proof.Machine.execDiagEntryComplete hall s
  | .diagExit hall => Sys2Proof.Machine.execDiagExit hall s
  | .quiesce hall => Sys2Proof.Machine.execQuiesce hall s
  | .ctxBaseWrite hall value => Sys2Proof.Machine.execCtxBaseWrite hall value s
  | .levelNegotiate value => Sys2Proof.Machine.execLevelNegotiate value s
  | .eventClear page value => Sys2Proof.Machine.execEventClear page value s
  | .windowCommit hall => Sys2Proof.Machine.execWindowCommit hall s
  | .windowClear hall => Sys2Proof.Machine.execWindowClear hall s
  | .windowFetch hall => Sys2Proof.Machine.execWindowFetch hall s
  | .cacheShareSet hall value => Sys2Proof.Machine.execCacheShareSet hall value s
  | .shareZeroDone hall => Sys2Proof.Machine.execShareZeroDone hall s
  | .cacheInvalidate hall => Sys2Proof.Machine.execCacheInvalidate hall s
  | .ldgCapWrite hall value => Sys2Proof.Machine.execLdgCapWrite hall value s
  | .strStateRead hall => Sys2Proof.Machine.execStrStateRead hall s
  | .reg64LowRead offset => Sys2Proof.Machine.execReg64LowRead offset s
  | .selvedgeProgLoad value => Sys2Proof.Machine.execSelvedgeProgLoad value s
  | .selvedgeProgLoadDone => Sys2Proof.Machine.execSelvedgeProgLoadDone s
  | .flightEnable port value => Sys2Proof.Machine.execFlightEnable port value s
  | .flightAdmit port => Sys2Proof.Machine.execFlightAdmit port s
  | .flightReject port => Sys2Proof.Machine.execFlightReject port s
  | .registerWrite function offset width value => Sys2Proof.Machine.execRegisterWrite function offset width value s
  | .managementSpaceAccess ring write offset width value => Sys2Proof.Machine.execManagementSpaceAccess ring write offset width value s
  | .ptpLockLoss => Sys2Proof.Machine.execPtpLockLoss s
  | .perstRelease function split refclkToggles => Sys2Proof.Machine.execPerstRelease function split refclkToggles s
  | .hostLinkTrained speed width cxl function => Sys2Proof.Machine.execHostLinkTrained speed width cxl s function
  | .sensePinMate => Sys2Proof.Machine.execSensePinMate s

end Sys2Proof.Machine
end

