-- ==== Sys2Proof/Machine/Idle.lean ====
section
/-!
DEFINITION. What passes when no command waits: newel time (R339; log 12).
-/
namespace Sys2Proof.Machine

/-- The nanoseconds of crystal cycle `c` of 64: 30,518 on 37 of them and 30,517 on the other 27. -/
def crystalNs (c : Nat) : Nat := (c + 1) * 1000000000 / 32768 - c * 1000000000 / 32768

/-- One count awake: 1 ns. While an offset is left to slew, one count of each 10,000, which is the bound of +100 ppm, is 2 ns long where the time is
behind, and one count in each 10,000 ns is held back where it is ahead; `cycle` marks that it has been held. -/
def Newel.tickAwake (n : Newel) : Newel :=
  if n.slewNs > 0 then
    (if n.time.toNat % 10001 = 9999 then { n with time := n.time + 2, slewNs := n.slewNs - 1 } else { n with time := n.time + 1 })
  else if n.slewNs = 0 ∨ n.time.toNat % 10000 ≠ 9999 then { n with time := n.time + 1 }
  else if n.cycle = 0 then { n with slewNs := n.slewNs + 1, cycle := 1 }
  else { n with time := n.time + 1, cycle := 0 }

/-- One crystal cycle in MODULE_SLEEP. -/
def Newel.tickAsleep (n : Newel) : Newel :=
  { n with time := n.time + BitVec.ofNat 64 (crystalNs n.cycle.toNat), cycle := n.cycle + 1 }

/-- A pulse of PPS_OUT where the PTP output drives it and a second of newel time has begun (R290; log 4). -/
def pulseAfter (n : Newel) (s : State) : State :=
  if n.ppsOut && n.time.toNat / 1000000000 != s.newel.time.toNat / 1000000000 then s.emit .ppsPulse else s

/-- The idle step: the newel counts on while it has power. -/
def idleTick (s : State) : State :=
  if s.newel.powered then
    pulseAfter s.newel { s with newel := if s.power.asleep then s.newel.tickAsleep else s.newel.tickAwake }
  else s

end Sys2Proof.Machine
end

