-- ==== Sys2Proof/Safety.lean ====
section
/-!
DEFINITION. What counts as a safe run, and the terms the statements are written in.
-/
namespace Sys2Proof

open Sys2Proof.Machine

/-- An outcome that goes on: no fault and no refusal. -/
def GoesOn (o : Host.Outcome State Fault Refusal) : Prop := ∃ s', o = .next s'

namespace Machine

/-- An item command acts: the item is dispatched and the treadle may run its opcode `o` now, its hall runs, its traffic has a route, no reset
is due, and none of its windows lies in the management space, whose registers have statements of their own. -/
structure Runs (s : State) (it : ItemId) (o : Opcode) (t : Item) : Prop where
  runnable : s.runnable it o = some t
  live : t.phase = .dispatched
  hall : s.hallRuns t.hall = true
  route : s.cutOff t = false
  calm : s.mod.resetDue = false
  windows : ∀ w ∈ t.wins, addrSpace (winBase w.2) ≠ 5

/-- The state with one item changed and nothing else. -/
def State.withItemDone (s : State) (it : ItemId) (bytes : Nat) : State :=
  { s with items := s.items.map fun u => if u.id == it then { u with phase := .decided, bytes := u.bytes + bytes } else u }

/-- What names an item: its id, hall and descriptor. -/
def Item.name (t : Item) : ItemId × Nat × Block512 := (t.id, t.hall, t.desc)

/-- The item's outcome is decided, and `bytes` bytes are counted as moved. -/
def State.doneWith (s : State) (it : ItemId) (bytes : Nat) : Prop :=
  ∃ u, s.item it = some u ∧ u.phase = .decided ∧ u.bytes = bytes

/-- The item has failed with a status. -/
def State.failedWith (s : State) (it : ItemId) (st : Status) : Prop :=
  ∃ u, s.item it = some u ∧ u.phase = .decided ∧ u.status = st

/-- Nothing waits on a knot. -/
def State.waitsMet (s : State) : Prop := ∀ u ∈ s.items, u.waitMet = true

/-- Two states agree on the memory and on what is noted of its words. -/
def State.sameBytes (s s' : State) : Prop := s'.mem = s.mem ∧ s'.poison = s.poison ∧ s'.full = s.full

/-- Two states agree on the registers that commands write: pages, halls, rings' entries aside, the module page, the newel, power, security,
the host interface and the fuses. -/
def State.sameRegisters (s s' : State) : Prop :=
  s'.mod = s.mod ∧ s'.newel = s.newel ∧ s'.power = s.power ∧ s'.sec = s.sec ∧ s'.hif = s.hif ∧ s'.part = s.part ∧ s'.boot = s.boot ∧
    s'.halls = s.halls ∧ s'.pages = s.pages

/-- The same, the pages of the halls aside, whose tensor caches count their accesses (R210). -/
def State.sameModule (s s' : State) : Prop :=
  s'.mod = s.mod ∧ s'.newel = s.newel ∧ s'.power = s.power ∧ s'.sec = s.sec ∧ s'.hif = s.hif ∧ s'.part = s.part ∧ s'.boot = s.boot ∧
    s'.pages = s.pages

/-- What goes out on a port for a response-class packet, and for a request-class packet of a priority (R258, R259). -/
def State.response (s : State) (p : Nat) (pk : Packet) (express : Bool := false) (vc : Nat := 0) : Reply :=
  .packet p (s.frameOf p (priorityOf express (s.linkVc p vc)) pk.etherType) pk
def State.requestOut (s : State) (p prio : Nat) (pk : Packet) : Reply := .packet p (s.frameOf p prio etherKwedun) pk

/-- A port holds nothing and pauses nothing, and a sender has every kind of credit (R265). -/
def Flight.clear (f : Flight) (sender : Nat) : Prop :=
  f.held = [] ∧ f.paused = 0 ∧ 0 < f.credits ∧ 0 < f.xcredits ∧ f.ownSpent sender < axisReserve ∧
    (f.xspent.filter (· == sender)).length < expressReserve

/-- The credit that a request taken in on a port gives back to the peer there (R264, R265). -/
def State.creditBack (s : State) (p prio : Nat) : Reply :=
  s.response p (.credit (decide (6 ≤ prio)) 1) (decide (6 ≤ prio))

/-- A byte that the module itself keeps in a context's record (R106): its use and its counts, bytes 36 to 63. -/
def State.chargeByte (s : State) (a : Nat) : Prop := ∃ c, s.ctxAddr c + 36 ≤ a ∧ a < s.ctxAddr c + 64

/-- Two states agree on the memory but for the counts that the module keeps in context records, and on what is noted of its words. -/
def State.keptBytes (s s' : State) : Prop := (∀ x, ¬s.chargeByte x → s'.mem.read x = s.mem.read x) ∧ s'.poison = s.poison ∧ s'.full = s.full

/-- A byte of a context's record (R105, R106). -/
def State.recordByte (s : State) (a : Nat) : Prop := ∃ c, c < 16384 ∧ s.ctxAddr c ≤ a ∧ a < s.ctxAddr c + 512

/-- The units of an item that are left. -/
def Item.unitsLeft (t : Item) : List Nat := (List.range t.unitCount).filter fun u => !t.unitsDone.contains u

/-- The pieces that moving one segment of a movement touches (R51): source address, destination address and bytes, of its elements and then of its
block scales. -/
def MoveRows.pieces (m : MoveRows) (src dst : Block512) (g : Nat × Nat × Nat) : List (Nat × Nat × Nat) :=
  let b := formatBits (winFormat src)
  (rowAddr src (m.src g.1) + g.2.1 * b / 8, rowAddr dst (m.dst g.1) + g.2.1 * b / 8, (g.2.1 * b % 8 + g.2.2 * b + 7) / 8) ::
    scaleMoves src dst (m.src g.1) (m.dst g.1) g.2.1 g.2.1 g.2.2

/-- The bytes that a segment counts as moved: those that its elements begin in, and its block scales. -/
def MoveRows.count (m : MoveRows) (src dst : Block512) (g : Nat × Nat × Nat) : Nat :=
  let b := formatBits (winFormat src)
  ((g.2.1 + g.2.2) * b + 7) / 8 - (g.2.1 * b + 7) / 8 +
    ((scaleMoves src dst (m.src g.1) (m.dst g.1) g.2.1 g.2.1 g.2.2).map fun p => p.2.2).sum

/-- The segments that a movement has left to move. -/
def MoveRows.left (m : MoveRows) (t : Item) : List (Nat × Nat × Nat) := t.unitsLeft.flatMap (m.segs (winFormat (t.winD 16)))

/-- Two ranges of addresses do not meet. -/
def apart (a m b n : Nat) : Prop := a + m ≤ b ∨ b + n ≤ a

/-- A movement keeps to the spaces of its windows, as the range check of R41 sees to at expansion, and writes into no context's record: no piece
runs into another space. -/
def State.piecesWithin (s : State) (src dst : Block512) (ps : List (Nat × Nat × Nat)) : Prop :=
  ∀ p ∈ ps, ∀ i, i < p.2.2 + 1 →
    addrSpace (p.1 + i) = addrSpace (winBase src) ∧ addrSpace (p.2.1 + i) = addrSpace (winBase dst) ∧ ¬s.recordByte (p.2.1 + i)

/-- The pieces of a movement stand apart: no destination meets another, nor any source, nor a context's charge. -/
structure PiecesApart (s : State) (fn : Nat) (ps : List (Nat × Nat × Nat)) : Prop where
  dsts : ps.Pairwise fun p q => apart (hostKey fn p.2.1) p.2.2 (hostKey fn q.2.1) q.2.2
  srcs : ∀ p ∈ ps, ∀ q ∈ ps, apart (hostKey fn p.2.1) p.2.2 (hostKey fn q.1) q.2.2
  charges : ∀ p ∈ ps, ∀ i, i < p.2.2 → ¬s.chargeByte (hostKey fn p.2.1 + i) ∧ ¬s.chargeByte (hostKey fn p.1 + i)

/-- The segments of a movement are whole bytes. -/
def wholeSegments (src : Block512) (gs : List (Nat × Nat × Nat)) : Prop :=
  ∀ g ∈ gs, g.2.1 * formatBits (winFormat src) % 8 = 0 ∧ g.2.2 * formatBits (winFormat src) % 8 = 0

/-- What a movement that ran has done: its item is decided with the bytes of its segments counted; where its destination is not encrypted, no
other byte of memory but a context's charge has changed, and where neither window is and the segments are whole bytes that stand apart, every one
has arrived; and no register has changed. -/
structure Moved (s s' : State) (it : ItemId) (t : Item) (fn : Nat) (src dst : Block512) (m : MoveRows) : Prop where
  done : s'.doneWith it (t.bytes + ((m.left t).map (m.count src dst)).sum)
  registers : s.sameRegisters s'
  knots : s'.knots = s.knots
  windows : s'.windows = s.windows
  frame : (s.access fn dst).keys = none → ∀ x,
    (∀ p ∈ (m.left t).flatMap (m.pieces src dst), x < hostKey fn p.2.1 ∨ hostKey fn p.2.1 + p.2.2 ≤ x) → ¬s.chargeByte x →
      s'.mem.read x = s.mem.read x
  values : (s.access fn src).keys = none → (s.access fn dst).keys = none → wholeSegments src (m.left t) →
    PiecesApart s fn ((m.left t).flatMap (m.pieces src dst)) → ∀ p ∈ (m.left t).flatMap (m.pieces src dst), ∀ i, i < p.2.2 →
      s'.mem.read (hostKey fn p.2.1 + i) = s.mem.read (hostKey fn p.1 + i)

/-- What a movement needs to run through: nothing stops a unit that is left, its tokens stand right, and no word is poisoned. -/
structure MayMove (s : State) (t : Item) (o : Opcode) (m : MoveRows) : Prop where
  free : ∀ u ∈ t.unitsLeft, s.moveFault o t m u = none
  reads : ∀ u ∈ t.unitsLeft, ∀ r ∈ m.reads t u, s.readReady t r = true
  writes : ∀ u ∈ t.unitsLeft, ∀ r ∈ m.writes t u, s.writeReady r = true
  clean : s.poison = []
  within : s.piecesWithin (t.winD 16) (t.winD 20) ((m.left t).flatMap (m.pieces (t.winD 16) (t.winD 20)))

/-- An address outside some ranges, as the memory lists them for a PCIe function. -/
def outsideAll (fn : Nat) (ps : List (Nat × Nat)) (x : Nat) : Prop := ∀ p ∈ ps, x < hostKey fn p.1 ∨ hostKey fn p.1 + p.2 ≤ x

/-- The rows that a command writes keep to the space of their window, and an MX window takes whole blocks. -/
def resultsWithin (rs : List Read) : Prop :=
  ∀ r ∈ rs, (∀ p ∈ r.all, ∀ i, i ≤ p.2 → addrSpace (p.1 + i) = addrSpace (winBase r.win)) ∧
    addrSpace (winBase r.win) ≠ 5 ∧ (isMx (winFormat r.win) = true → r.c0 % 32 = 0 ∧ r.n % 32 = 0)

/-- What a command needs to run all its units through: nothing stops a unit that is left, its tokens stand right, no word is poisoned, and
none of the results `rs` lies in a context's record. -/
structure UnitsFree (s : State) (w : UnitWork) (t : Item) (rs : List Read) : Prop where
  free : ∀ u ∈ t.unitsLeft, w.fault s u = none
  ready : ∀ u ∈ t.unitsLeft, w.ready s u = true
  clean : s.poison = []
  records : ∀ r ∈ rs, ∀ p ∈ r.all, ∀ i, i ≤ p.2 → ¬s.recordByte (p.1 + i)
  within : resultsWithin rs

/-- The rows that the units of a landing command that are left write. -/
def Item.landingLeft (t : Item) (o : Opcode) : List Read := t.unitsLeft.flatMap (t.landingWrites o)

/-- No granule that a unit of a landing command empties is one of a source that is the destination itself (R166). -/
def State.takesApart (s : State) (t : Item) (o : Opcode) : Prop :=
  ∀ u ∈ t.unitsLeft, ∀ v ∈ t.unitsLeft, ∀ r ∈ (s.landingWork t o).takes u, ∀ q ∈ t.landingReads o (landingRows t v), inPlace t q = true →
    ∀ g ∈ r.granules, g ∉ q.granules

/-- A tile in progress has no more rows and columns than its unit of the command. -/
def TileRun.fits (m : Mat) (r : TileRun) : Prop :=
  r.shafts.length ≤ 4 ∧ ∀ x ∈ r.shafts.zipIdx, x.1.land.length ≤ m.shaftRows r.unit x.2 ∧ ∀ row ∈ x.1.land, row.length ≤ m.cols r.unit

/-- Where row `k` of shaft `f` of an output tile stands: the address of its first column, for a destination of 4-byte elements, and the row of
the destination window (R65, R66). -/
def Mat.tileRow (m : Mat) (u f k : Nat) : Nat := outRow m.o m.t.desc m.weft m.warp m.out (m.m0 u + 32 * f + k)
def Mat.tileRowAddr (m : Mat) (u f k : Nat) : Nat := rowAddr m.out (m.tileRow u f k) + 4 * m.n0 u

/-- What stage 7 converts for column `b` of row `k` of shaft `f` of a tile whose landing value there is `l` (R100). -/
def State.tileValue (s : State) (m : Mat) (r : TileRun) (f k b : Nat) (l : W32) : W32 :=
  stages m.scale
    (if m.o = .matmulAcc then
      some (s.elem32 (s.access (s.itemFunction m.t.id) m.out) m.out one32 (m.n0 r.unit + b) (m.tileRow r.unit f k)) else none)
    (((r.terms.find? fun t => t.1 == f).bind fun t => t.2[k]?).map fun ts => ts.getD b zero32)
    (s.columnValue m.t 40 (m.n0 r.unit + b)) (s.columnValue m.t 44 (m.n0 r.unit + b)) (fieldNat m.t.desc 272 4) l

/-- The tile of a unit run to its end, with the terms of its shafts (R66, R118). -/
def State.tileEnd (s : State) (m : Mat) (u : Nat) : TileRun :=
  let r := (s.runTile m m.fuel (s.tileNow m u)).1
  ((m.termShafts r.unit).filter fun k => !r.termed k).foldl (fun r k => r.withTerms k (s.shaftTerms m r.unit k)) r

/-- The bytes of a tile in a destination of FP32 elements that is neither encrypted nor in HBM: each element its value, converted (R100). -/
def State.tileBytesIn (s s' : State) (m : Mat) (r : TileRun) : Prop :=
  let fn := s.itemFunction m.t.id
  winFormat m.out = 0x0A → winLayout m.out = 0 → addrSpace (winBase m.out) ≠ 2 → (s.access fn m.out).keys = none →
    ∀ (f k b : Nat) (x : ShaftRun) (row : List W32) (l : W32), r.shafts[f]? = some x → x.land[k]? = some row → row[b]? = some l →
      s'.mem.readBytes (hostKey fn (m.tileRowAddr r.unit f k + 4 * b)) 4 =
        leBytes 4 (convertPlain 0x0A (convControl m.t.desc 35) (m.n0 r.unit + b + winDim m.out 0 * m.tileRow r.unit f k)
          (s.tileValue m r f k b l) one32).code

/-- The rows that a tile writes stand apart from each other, and from what its epilogue reads of the column windows, which are not encrypted and
not a context's charge. -/
structure TileApart (s : State) (m : Mat) (u : Nat) : Prop where
  rows : ∀ f k g j, k < m.shaftRows u f → j < m.shaftRows u g → (f, k) ≠ (g, j) →
    apart (hostKey (s.itemFunction m.t.id) (m.tileRowAddr u f k)) (4 * m.cols u)
      (hostKey (s.itemFunction m.t.id) (m.tileRowAddr u g j)) (4 * m.cols u)
  columns : ∀ f k, k < m.shaftRows u f → ∀ q ∈ m.lateReads u, ∀ p ∈ q.all,
    apart (hostKey (s.itemFunction m.t.id) (m.tileRowAddr u f k)) (4 * m.cols u) (hostKey (s.itemFunction m.t.id) p.1) p.2
  plain : ∀ q ∈ m.lateReads u, (s.access (s.itemFunction m.t.id) q.win).keys = none ∧
    ∀ p ∈ q.all, ∀ i, i < p.2 → addrSpace (p.1 + i) ≠ 5 ∧ ¬s.chargeByte (hostKey (s.itemFunction m.t.id) p.1 + i)

/-- No slot of a matrix command shares a granule with what its units take: a LOAD piece fills granules that read empty (R67, R203). -/
def State.slotsApart (s : State) (m : Mat) : Prop :=
  ∀ u ∈ m.t.unitsLeft, ∀ x ∈ (s.loom m.t.hall (s.unitLoom m.t u)).slots, x.item = m.t.id →
    ∀ v ∈ m.t.unitsLeft, ∀ r ∈ (s.matWork m).takes v, ∀ g ∈ granulesOf x.base x.len, g ∉ r.granules

/-- A stream descriptor of hall `h` as the next grant of its arbiter compares it (R222). -/
def State.candidate (s : State) (h d : Nat) : Candidate :=
  ⟨d, Stream.seen ((s.hall h).grants + 1) true (s.stream h d), ((s.stream h d).active.map s.timeToEmpty).getD 0⟩

/-- The rows that one unit of an adapter command writes. -/
def Item.unitResult (t : Item) : BobbinUnit → Read
  | .rows c r0 n => ⟨word32 t.desc 48, t.winD 48, (List.range n).map (r0 + ·), 0, t.rank c⟩
  | .grad onB c pos =>
    let g := t.slotWin c (if onB then 12 else 8)
    ⟨0, g, (List.range (t.rank c)).map (t.layerRow g), pos, Nat.min 64 (winDim (if onB then t.winD 16 else t.winD 20) 0 - pos)⟩

/-- The results of the units of an adapter command that are left. -/
def Item.unitResults (t : Item) (o : Opcode) : List Read := t.unitsLeft.flatMap fun u => ((t.bobbinUnits o)[u]?.map t.unitResult).toList

/-- A selvedge after an instruction has put a value into register `d`: every other register, and everything else of the module, stays. -/
def State.slvWrote (s s' : State) (p d : Nat) (v : W32) : Prop :=
  ∃ regs, s' = s.modSelv p (fun sv => { sv with regs := regs }) ∧ ∀ j, Regs.q regs j = if j % 64 = d % 64 then v else Regs.q (s.selv p).regs j

/-- Where the code of the element at linear index `e` of a window lies: the first byte and how many. -/
def elemPlace (w : Block512) (e : Nat) : Nat × Nat :=
  let bit := e % Nat.max 1 (winDim w 0) * formatBits (winFormat w)
  (rowAddr w (e / Nat.max 1 (winDim w 0)) + bit / 8, (bit % 8 + formatBits (winFormat w) + 7) / 8)

/-- What one block of an update writes: its 128 parameters, and its moments with their block scales. -/
def updatePlaces (w m1 m2 : Block512) (e mu : Nat) : List (Nat × Nat) :=
  (List.range 128).flatMap (fun j => [elemPlace w (e + j), elemPlace m1 (mu + j), elemPlace m2 (mu + j)]) ++ [(km8Addr m1 mu, 2), (km8Addr m2 mu, 2)]

end Machine
end Sys2Proof
end

