-- ==== Sys2Proof/Certificates/Slice0/Obligations.lean ====
section
/-!
DEFINITION. The statements for the provers. Each docstring names the rules of the specification that the statement formalises, and the log
entry where a clause is the model's own choice.
-/
open Sys2Proof Sys2Proof.Machine

/-! ### The queue and the whole machine -/

/-- One step takes the command at the front of the queue and runs it on the state with the queue's rest (log 12). -/
def Obligations.StepRunsTheFrontCommand : Prop :=
  ∀ (s : State) (c : Instr) (cs : List Instr), step { s with pending := c :: cs } = exec c { s with pending := cs }

/-- With nothing waiting, only the newel moves, and it stands still without power; awake and with nothing to slew it counts one
nanosecond (R339; that the idle step is one nanosecond, or one crystal cycle in MODULE_SLEEP, is the model's choice, log 12). R290: where the PTP
output drives PPS_OUT, a second that begins gives one pulse. -/
def Obligations.IdleStepMovesOnlyTheNewel : Prop :=
  ∀ s : State, s.pending = [] →
    (s.newel.powered = false → step s = .next s) ∧
    (∃ n : Newel, step s = .next { s with
        newel := n
        out := s.out ++ if s.newel.powered = true ∧ s.newel.ppsOut = true ∧
          n.time.toNat / 1000000000 ≠ s.newel.time.toNat / 1000000000 then [.ppsPulse] else [] } ∧
      (s.newel.powered = true → s.power.asleep = false → s.newel.slewNs = 0 → n = { s.newel with time := s.newel.time + 1 }))

/-- What the specification gives for reset: the keeper's target of 750 mV (R18), the input power limit of 4,200 W, the host-memory timeout of
50 ms (R302), starvation exponents 24 (R145), ledger caps of 256 (R215), knots with count 0, no poison and the operator as owner (R146), links
DISABLED with `LINK_TO` 500, in units of 10 microseconds a link timeout of 5 ms, and a join timeout of 2,000 ms (R267), level 1 (R354), and a
queue with nothing in it. That the memory lists nothing, so that host memory reads as zeros, is the model's choice (log 7). -/
def Obligations.ResetHoldsTheStatedValues : Prop :=
  State.reset.pending = [] ∧ State.reset.boot.state = .booting ∧ State.reset.mod.levelAct = 1 ∧ State.reset.mod.levelReq = 1 ∧
  State.reset.power.limit = 4200 ∧ State.reset.hif.timeoutMs = 50 ∧ State.reset.mem = [] ∧ State.reset.items = [] ∧
  (∀ h, (State.reset.hall h).keeper.target = 750 ∧ (State.reset.hall h).treadle.starveLoad = 24 ∧
    (State.reset.hall h).treadle.starveMatrix = 24 ∧ (State.reset.hall h).treadle.starveLanding = 24 ∧
    (State.reset.hall h).treadle.starveStore = 24 ∧ (State.reset.hall h).hbmCap = 256 ∧ (State.reset.hall h).galCap = 256 ∧
    (State.reset.hall h).share = 0 ∧ (State.reset.hall h).treadle.diag = .none) ∧
  (∀ k, (State.reset.knot k).count = 0 ∧ (State.reset.knot k).poison = false ∧ (State.reset.knot k).owner = 0x3FFF) ∧
  (∀ g, ringState (State.reset.ring g).entry = ringDisabled ∧ (State.reset.ring g).p = 0 ∧ (State.reset.ring g).c = 0) ∧
  (∀ p, (State.reset.flight p).link = .disabled ∧ (State.reset.flight p).linkTo = 500 ∧ (State.reset.flight p).joinTo = 2000) ∧
  (∀ k, State.reset.window k = 0)

/-- The memory of the reset state has the canonical form. -/
def Obligations.ResetMemoryIsCanonical : Prop := State.reset.mem.wf = true

/-- No step takes the memory out of its canonical form, whatever the state and the command. -/
def Obligations.StepKeepsMemoryCanonical : Prop :=
  ∀ s s' : State, s.mem.wf = true → step s = .next s' → s'.mem.wf = true

/-- Whole-machine rules over every command and state. The effect of a command never touches the queue; the grade, the serial, the
fused-off masks, the fused hash and the identity key never change; the rollback counter, kept in fuses, never falls (R310); and what has left the module stays said. -/
def Obligations.EveryCommandKeepsQueueAndFuses : Prop :=
  ∀ (c : Instr) (s s' : State), exec c s = .next s' →
    s'.pending = s.pending ∧ s'.part.serial = s.part.serial ∧ s'.part.grade = s.part.grade ∧ s'.part.hallFused = s.part.hallFused ∧
    s'.part.flightFused = s.part.flightFused ∧ s'.part.kwedunHash = s.part.kwedunHash ∧ s'.part.identityKey = s.part.identityKey ∧
    s.part.rollback.toNat ≤ s'.part.rollback.toNat ∧ s.out <+: s'.out

/-- Every command of the block goes on: none ends in a fault or a refusal. R281 has the module answer a failure with a status, a recorded fault or
an event; that no command at all ends a run is the model's choice (log 1, DESIGN CHOICE). -/
def Obligations.EveryCommandGoesOn : Prop := ∀ (c : Instr) (s : State), GoesOn (exec c s)

/-! ### Status codes, knots and the dobby selector -/

/-- The codes of R7 by name, each its own; and the three classes of R8, decided by the value: 0x00 is success alone, 0x01 to 0x0F are the
adjustments, whose item has not failed, and from 0x10 on the item has failed; an item's final status is an adjustment only where it has not
failed. -/
def Obligations.StatusCodesAndClasses : Prop :=
  [Status.ok, .stepAdopted, .precondFallback, .prunedCatchup].map statusCode = [0x00, 0x01, 0x02, 0x03] ∧
  [Status.reservedField, .level, .badOpcode, .engineAbsent, .lengthBound, .rearmOverrun, .quota, .conflict, .windowClosed, .starved,
    .upstream, .stepHeld, .peerLost, .eccUncorr, .key, .aborted, .hallLost, .access, .timeout].map statusCode =
    [0x10, 0x11, 0x12, 0x13, 0x14, 0x15, 0x16, 0x17, 0x18, 0x19, 0x1A, 0x1B, 0x1C, 0x1D, 0x1E, 0x1F, 0x20, 0x21, 0x22] ∧
  (∀ st, statusCode st = 0 ↔ st = .ok) ∧
  (∀ st, statusFailed st = true ↔ 0x10 ≤ (statusCode st).toNat) ∧
  (∀ st, statusFailed st = false ↔ st = .ok ∨ st = .stepAdopted ∨ st = .precondFallback ∨ st = .prunedCatchup) ∧
  (∀ a b, statusCode a = statusCode b → a = b) ∧
  (∀ t : Item, statusFailed t.status = true → t.finalStatus = t.status) ∧
  (∀ t : Item, statusFailed t.status = false → t.adjust = none → t.finalStatus = t.status) ∧
  (∀ (t : Item) (st : Status), statusFailed t.status = false → t.adjust = some st → t.finalStatus = st)

/-- R151: an item that completes with success or an adjustment adds its increment at the knot its set entry names, one that fails poisons it and
leaves the count, whatever the failure: at once at a knot of its own hall, by an update that crosses the stairwells at another's. Stated where what
the item sends has a route (R28) and its record waits for no zeroing (R212). An increment to a poisoned knot changes the count and leaves the poison; `KNOT_SET` in ASSIGN mode writes the count and clears the poison; what a wait says follows
the knot as it now stands. -/
def Obligations.KnotRules : Prop :=
  (∀ (k : Knot) (n : W32), (k.after (.add n)).count = k.count + n ∧ (k.after (.add n)).poison = k.poison) ∧
  (∀ k : Knot, (k.after .poison).count = k.count ∧ (k.after .poison).poison = true) ∧
  (∀ (k : Knot) (n : W32), (k.after (.assign n)).count = n ∧ (k.after (.assign n)).poison = false) ∧
  (∀ (k : Knot) (a : KnotAction), (k.after a).owner = k.owner) ∧
  (∀ (s : State) (t : Item), s.item t.id = some t → s.itemEnded t = true → s.endCut t = false → s.recordWaits t.id.ring = false →
    entryValid (descSet t.desc) = true → t.setsKnot = true →
    let key := entryKey (descSet t.desc)
    let inc : W32 := BitVec.ofNat 32 (entryIncrement (descSet t.desc))
    ∃ s', exec (.itemComplete t.id) s = .next s' ∧
      (entryHall (descSet t.desc) = t.hall → s'.knotMsgs = s.knotMsgs ∧ (∀ k, k ≠ key → s'.knot k = s.knot k) ∧
        (statusFailed t.finalStatus = false → s'.knot key = { s.knot key with count := (s.knot key).count + inc }) ∧
        (statusFailed t.finalStatus = true → s'.knot key = { s.knot key with poison := true })) ∧
      (entryHall (descSet t.desc) ≠ t.hall → s'.knots = s.knots ∧
        s'.knotMsgs = s.knotMsgs ++ [⟨key, if statusFailed t.finalStatus then .poison else .add inc⟩])) ∧
  (∀ (s : State) (it : ItemId) (t : Item), Runs s it .knotSet t → t.desc.getLsbD 144 = true → fieldNat t.desc 136 3 = t.hall →
    let key := knotKey t.hall (byteField t.desc 16 1)
    ∃ s', exec (.knotSet it) s = .next s' ∧ (s'.knot key).count = word32 t.desc 20 ∧ (s'.knot key).poison = false ∧
      ∀ k, k ≠ key → s'.knot k = s.knot k) ∧
  (∀ (s : State) (e : W32), entryValid e = true →
    (s.knotPoisoned (entryKey e) = true → s.waitState e = .poisoned) ∧
    (s.knotPoisoned (entryKey e) = false → waitMetBy (s.knot (entryKey e)).count (entryTarget e) = true → s.waitState e = .met) ∧
    (s.knotPoisoned (entryKey e) = false → waitMetBy (s.knot (entryKey e)).count (entryTarget e) = false → s.waitState e = .unmet)) ∧
  (∀ (count : W32) (T : Nat), T < 2 ^ 20 → (waitMetBy count T = true ↔ ((count.toNat : Int) - T) % 2 ^ 20 < 2 ^ 19))

/-- R140: a request of 1 or more makes the active level 1, a request of 0 makes it 0; at reset both are 1. While the active level is 0 no ring can
be ENABLED. A request while any ring is ENABLED is refused: both registers keep their values, and `ST_ACCESS` is recorded on the module page. A
descriptor of level 0 or 1 passes the level check while the active level is 1. -/
def Obligations.LevelNegotiation : Prop :=
  State.reset.mod.levelReq = 1 ∧ State.reset.mod.levelAct = 1 ∧
  (∀ (s : State) (v : W32), s.hostInterfaceUp = true → s.anyRingEnabled = false →
    exec (.levelNegotiate v) s = .next { s with mod := { s.mod with
      levelReq := field v 0 4, levelAct := if 1 ≤ fieldNat v 0 4 then 1 else 0 } }) ∧
  (∀ (s : State) (v : W32), s.hostInterfaceUp = true → s.anyRingEnabled = true →
    ∃ s', exec (.levelNegotiate v) s = .next s' ∧ s'.mod = s.mod ∧ (s'.page pgModule).raw.getLsbD 31 = true ∧
      ((s.page pgModule).count = 0 → (s'.page pgModule).code = statusCode .access ∧ (s'.page pgModule).count = 1) ∧ s'.rings = s.rings ∧
      s'.sameBytes s) ∧
  (∀ (s : State) (h fn g : Nat), s.mod.levelAct = 0 → ringState (s.ring g).entry ≠ ringEnabled →
    ∃ s', exec (.ringEnable h fn) s = .next s' ∧ ringState (s'.ring g).entry ≠ ringEnabled) ∧
  (∀ (s : State) (owner : Nat) (d : Block512), s.mod.levelAct = 1 → descLevel d ≤ 1 → s.headCheck owner d ≠ some .level)

/-- R350, R347, R349: a page that records a fault writes its code and both words and counts 1 where its count was 0, and only counts on where it was
not, up to 65,535; `FAULT`, event bit 31, is set, and no other page changes. `EVENT_CLEAR` clears the event bits it names, and with bit 31 the code,
the count and both words with them, so that the next fault is recorded whole. -/
def Obligations.FaultRecording : Prop :=
  (∀ (s : State) (p : Nat) (st : Status) (i0 i1 : W32),
    let old := s.page p
    let new := (s.fault p st i0 i1).page p
    (old.count = 0 → new.code = statusCode st ∧ new.info0 = i0 ∧ new.info1 = i1 ∧ new.count = 1) ∧
    (old.count ≠ 0 → new.code = old.code ∧ new.info0 = old.info0 ∧ new.info1 = old.info1 ∧
      new.count.toNat = Nat.min 65535 (old.count.toNat + 1)) ∧
    new.raw = old.raw ||| 0x80000000 ∧ new.mask = old.mask ∧ ∀ q, q ≠ p → (s.fault p st i0 i1).page q = s.page q) ∧
  (∀ (s : State) (p : Nat) (id : PageId) (v : W32), pageOf p = some id → s.pageAnswers id = true → s.pagePresent id = true →
    ∃ s', exec (.eventClear p v) s = .next s' ∧ (s'.page p).raw = (s.page p).raw &&& ~~~v ∧ (s'.page p).mask = (s.page p).mask ∧
      (v.getLsbD 31 = true → (s'.page p).raw.getLsbD 31 = false ∧ (s'.page p).count = 0 ∧ (s'.page p).code = 0 ∧ (s'.page p).info0 = 0 ∧
        (s'.page p).info1 = 0) ∧
      (v.getLsbD 31 = false → (s'.page p).count = (s.page p).count ∧ (s'.page p).code = (s.page p).code ∧
        (s'.page p).info0 = (s.page p).info0 ∧ (s'.page p).info1 = (s.page p).info1) ∧
      (∀ q, q ≠ p → s'.page q = s.page q) ∧ s'.items = s.items ∧ s'.sameBytes s) ∧
  (∀ (s : State) (p : Nat) (id : PageId) (v i0 i1 : W32) (st : Status), pageOf p = some id → s.pageAnswers id = true → s.pagePresent id = true →
    v.getLsbD 31 = true → ∃ s', exec (.eventClear p v) s = .next s' ∧
      ((s'.fault p st i0 i1).page p).code = statusCode st ∧ ((s'.fault p st i0 i1).page p).count = 1 ∧
      ((s'.fault p st i0 i1).page p).info0 = i0)

/-! ### Doorbells, fetch and the lanes -/

/-- R131: a doorbell write to an ENABLED ring sets P, or H; one that makes P − F, or C − H, exceed N leaves the count and records
`ST_LENGTH_BOUND` and the ring id on the treadle page; one to a ring that is not ENABLED is ignored. A write that is taken also moves the
times that R20 and R133 measure from, `busyAt` and `heldSince`. -/
def Obligations.DoorbellWrites : Prop :=
  ∀ (s : State) (g : Nat) (v : W32), s.ready = true →
    (ringState (s.ring g).entry ≠ ringEnabled →
      exec (.doorbellPWrite g v) s = .next s ∧ exec (.doorbellHWrite g v) s = .next s) ∧
    (ringState (s.ring g).entry = ringEnabled →
      ((v - (s.ring g).f).toNat ≤ ringSize (s.ring g).entry →
        exec (.doorbellPWrite g v) s = .next (((s.modRing g fun r => { r with p := v }).noteHeld g).touch (ringHall g))) ∧
      (ringSize (s.ring g).entry < (v - (s.ring g).f).toNat →
        exec (.doorbellPWrite g v) s = .next (s.fault (pgTreadle (ringHall g)) .lengthBound (BitVec.ofNat 32 g) 0)) ∧
      (((s.ring g).c - v).toNat ≤ ringSize (s.ring g).entry →
        exec (.doorbellHWrite g v) s = .next ((s.modRing g fun r => { r with h := v }).noteHeld g)) ∧
      (ringSize (s.ring g).entry < ((s.ring g).c - v).toNat →
        exec (.doorbellHWrite g v) s = .next (s.fault (pgTreadle (ringHall g)) .lengthBound (BitVec.ofNat 32 g) 0)))

/-- R132, R135: the fetch reads descriptor F of the ring whose turn it is, counts F up, and the item it makes carries the descriptor's 64 bytes;
no byte of memory changes but the counts in context records. Stated for one descriptor submitted in host memory, which needs no ledger; and for a
ring with descriptors read ahead that have come and none further to read: the first of them is expanded. A ring whose descriptor cannot be read
enters ERROR, and no item is made for it, and that descriptors are read ahead of their expansion at all, is the model's inference (log 19,
DEDUCED); R286: so does one whose entry is read with an uncorrectable error, as it is served (log 52, DEDUCED). A descriptor whose operand lists
are being zeroed waits, so it is stated for one whose are not (R212). R132: what the treadle goes on with is a ring of its hall with a descriptor read ahead, or an ENABLED one with a descriptor below P and a completion entry free, fewer than 8 read
ahead, and no command parked. -/
def Obligations.FetchTakesDescriptorF : Prop :=
  (∀ (s : State) (h g : Nat) (ecc : Ecc), s.hallRuns h = true → s.nextRing h = some g → ecc.bad = false →
    s.ledgerBusy (ringHall g) (Requester.ofRing g) = false →
      let r := s.ring g
      let a := descriptorAddr r.entry r.f.toNat
      (r.ahead = [] → r.mayRead = true → r.p = r.f + 1 → addrSpace a = 3 → s.descriptorReadable g = true →
        s.operandsWait (s.descriptorAt g) = false →
        ∃ s', exec (.descriptorFetch h ecc) s = .next s' ∧ (s'.ring g).f = r.f + 1 ∧ (s'.ring g).ahead = [] ∧
          (∀ x, ¬s.chargeByte x → s'.mem.read x = s.mem.read x) ∧
          ((∀ u ∈ s.items, u.id ≠ ⟨g, r.f.toNat, 0⟩) → ∃ u, s'.item ⟨g, r.f.toNat, 0⟩ = some u ∧
            u.desc = BitVec.ofNat 512 (leNat (s.mem.readBytes (hostKey r.function a) 64)))) ∧
      (∀ d ds, r.ahead = d :: ds → (r.mayRead = false ∨ 8 ≤ r.ahead.length) → s.operandsWait d = false →
        let i : ItemId := ⟨g, (r.f - BitVec.ofNat 32 r.ahead.length).toNat, 0⟩
        ∃ s', exec (.descriptorFetch h ecc) s = .next s' ∧ (s'.ring g).f = r.f ∧ (s'.ring g).ahead = ds ∧
          (∀ x, ¬s.chargeByte x → s'.mem.read x = s.mem.read x) ∧
          ((∀ u ∈ s.items, u.id ≠ i) → ∃ u, s'.item i = some u ∧ u.desc = d)) ∧
      (r.ahead = [] → r.mayRead = true → s.descriptorWaits g = false → s.descriptorReadable g = false →
        ∃ s', exec (.descriptorFetch h ecc) s = .next s' ∧ ringState (s'.ring g).entry = ringError ∧ s'.items = s.items ∧
          (s'.hall (ringHall g)).treadle.evtRing = BitVec.ofNat 11 (g % 2048))) ∧
  (∀ (s : State) (h g : Nat) (ecc : Ecc), s.hallRuns h = true → s.nextRing h = some g → ecc.bad = true →
      ∃ s', exec (.descriptorFetch h ecc) s = .next s' ∧ ringState (s'.ring g).entry = ringError ∧ s'.items = s.items) ∧
  (∀ (s : State) (h g : Nat), s.nextRing h = some g →
      ringHall g = h ∧ (s.ring g).parked = none ∧ s.ringHeld g = false ∧
        ((s.ring g).ahead ≠ [] ∨ (ringState (s.ring g).entry = ringEnabled ∧ (s.ring g).p ≠ (s.ring g).f ∧
          ((s.ring g).f - (s.ring g).h).toNat < ringSize (s.ring g).entry)))

/-- R143: once the lane of a parked command's next piece has room, the command goes on: its pieces enter the lane behind those there and
nothing is parked any more. Stated for a hall that runs (R334), a descriptor's own command with one piece left, while no item waits on a knot. -/
def Obligations.ParkedCommandGoesOn : Prop :=
  ∀ (s : State) (g : Nat) (t : Item) (p : Piece), (s.ring g).parked = some t.id → s.item t.id = some t → t.caller = none →
    t.id.ring = g → s.hallRuns (ringHall g) = true → t.emit = [p] → (s.lane p.key).length < 64 → s.waitsMet →
    ∃ s', exec (.parkedCommandResume g) s = .next s' ∧ s'.lane p.key = s.lane p.key ++ [p] ∧ (s'.ring g).parked = none ∧
      s.keptBytes s' ∧ s'.knots = s.knots

/-- R154: where one lane's head is ready the selector issues that head; where both are, it keeps to the lane it chose last, unless it has passed
the other over at 8 consecutive choices; with neither ready it waits. R90: the MATRIX queue changes lanes only at a boundary; elsewhere it issues
the same lane's head and what it remembers stays. Stated of the selector's memory, for a queue of a running hall with nothing running. R141: the
running piece of a queue, its work done, leaves the head of its lane, and the queue is free to choose again. Stated while no command is parked for
the lane, no item waits on a knot, and what a LOAD piece has fetched is not stopped. R67, R75: what a LOAD piece of a matrix command has fetched
then stands in the loom store at the place that has room for it, and no other byte has changed. -/
def Obligations.DobbySelectorChooses : Prop :=
  (∀ (s : State) (h l : Nat) (q : Queue), s.hallRuns h = true → (s.selector (selKey h l q)).running = none →
      let sel := s.selector (selKey h l q)
      let other := otherLane sel.last
      let ready : Lane → Bool := fun ln => ((s.lane (laneKey h l q ln)).head?.map s.headReady).getD false
      let free := q ≠ .matrix ∨ s.matrixBoundary h l sel.last = true
      ∃ s', exec (.dobbyChoice h l q) s = .next s' ∧
        (ready sel.last = true → ready other = false → free → s'.selector (selKey h l q) = ⟨sel.last, 0, some sel.last⟩) ∧
        (ready sel.last = true → ready other = true → free → sel.passed < 8 →
          s'.selector (selKey h l q) = ⟨sel.last, sel.passed + 1, some sel.last⟩) ∧
        (ready sel.last = true → ready other = true → free → 8 ≤ sel.passed → s'.selector (selKey h l q) = ⟨other, 0, some other⟩) ∧
        (ready sel.last = false → ready other = true → free → s'.selector (selKey h l q) = ⟨other, 0, some other⟩) ∧
        (ready sel.last = true → ¬free → s'.selector (selKey h l q) = ⟨sel.last, sel.passed, some sel.last⟩) ∧
        (ready sel.last = false → (ready other = false ∨ ¬free) → s' = s)) ∧
  (∀ (s : State) (h l : Nat) (q : Queue) (ln : Lane) (p : Piece) (ps : List Piece),
      (s.selector (selKey h l q)).running = some ln → s.lane (laneKey h l q ln) = p :: ps → s.pieceDone p = true →
      (∀ r ∈ s.rings, r.2.parked = none) → s.waitsMet → p.queue = q →
      (q = .load → ∀ t, s.item p.item = some t → s.readFault (s.itemFunction t.id) true (s.pieceReads t p) = none) →
      ∃ s', exec (.pieceComplete h l q) s = .next s' ∧ s'.lane (laneKey h l q ln) = ps ∧
        (s'.selector (selKey h l q)).running = none ∧ s'.items = s.items ∧
        (q ≠ .load → s'.poison = s.poison ∧ (∀ x, ¬s.chargeByte x → s'.mem.read x = s.mem.read x) ∧ s'.full = s.full) ∧
        (q = .load → ∀ (t : Item) (m : Mat) (a : Nat), s.item p.item = some t → t.mat = some m → t.phase = .dispatched →
          s.partRoom m p = some a →
          (∀ i, i < (s.partData m p).length → ¬s.chargeByte (a + i) → s'.mem.read (a + i) = (s.partData m p).getD i 0) ∧
          (⟨p.item, p.unit, p.part, a, (s.partData m p).length, []⟩ : Slot) ∈ (s'.loom p.hall p.loom).slots ∧
          ∀ x, (x < a ∨ a + (s.partData m p).length ≤ x) → ¬s.chargeByte x → s'.mem.read x = s.mem.read x))

/-- R134, R144, R151: an item with its outcome decided and no piece left completes. Its record goes to the completion ring at the place C names,
C counts up and is written back, and the item is gone. Stated for a completion ring in host memory that can be written and raises no interrupt,
an item with no set entry and no open link, on a ring that is not FENCED, while no item waits on a knot: the record's 32 bytes stand at its
place, except where the writeback lies. R10: a record's bytes: the tag, the status code, the replay level, the ring, the hall byte, the loom byte,
which is the one loom that has run the item and else 0xFF, the elapsed steps, the bytes moved and the completion time. -/
def Obligations.ItemCompletesWithRecord : Prop :=
  (∀ (s : State) (t : Item), s.item t.id = some t → t.id.sub = 0 → t.caller = none → s.itemEnded t = true → s.canRecord t.id.ring = true →
      s.endCut t = false → s.recordWaits t.id.ring = false → addrSpace (ringCompletionBase (s.ring t.id.ring).entry) = 3 →
      addrSpace (ringCompletionBase (s.ring t.id.ring).entry + 32 * ((s.ring t.id.ring).c.toNat % ringSize (s.ring t.id.ring).entry)) = 3 →
      s.waitsMet →
      ∃ s', exec (.itemComplete t.id) s = .next s' ∧ s'.item t.id = none ∧ (s'.ring t.id.ring).c = (s.ring t.id.ring).c + 1 ∧
        (addrSpace (ringWriteback (s.ring t.id.ring).entry) = 3 →
          s'.mem.readBytes (hostKey (s.ring t.id.ring).function (ringWriteback (s.ring t.id.ring).entry)) 4 =
            leBytes 4 ((s.ring t.id.ring).c + 1).toNat) ∧
        ∃ elapsed : W64, ∀ i, i < 32 →
          let a := hostKey (s.ring t.id.ring).function
            (ringCompletionBase (s.ring t.id.ring).entry + 32 * ((s.ring t.id.ring).c.toNat % ringSize (s.ring t.id.ring).entry)) + i
          let w := hostKey (s.ring t.id.ring).function (ringWriteback (s.ring t.id.ring).entry)
          a < w ∨ w + 4 ≤ a → s'.mem.read a = (recordBytes t elapsed s.newel.time).getD i 0) ∧
  (∀ (t : Item) (elapsed time : W64),
      (recordBytes t elapsed time).length = 32 ∧
      leNat ((recordBytes t elapsed time).take 4) = (descId t.desc).toNat ∧
      (recordBytes t elapsed time)[4]? = some (statusCode t.finalStatus) ∧
      (recordBytes t elapsed time)[5]? = some (BitVec.ofNat 8 (Nat.min t.replay 4)) ∧
      leNat (((recordBytes t elapsed time).drop 6).take 2) = t.id.ring % 2 ^ 16 ∧
      (recordBytes t elapsed time)[8]? = some (BitVec.ofNat 8 t.hallByte) ∧
      (recordBytes t elapsed time)[9]? = some (BitVec.ofNat 8 t.loomByte) ∧
      leNat (((recordBytes t elapsed time).drop 10).take 6) = elapsed.toNat % 2 ^ 48 ∧
      (∀ l, t.loomByte = l → l ≠ 255 → t.looms ≠ [] ∧ ∀ k ∈ t.looms, k = l) ∧
      (∀ l, t.looms ≠ [] → (∀ k ∈ t.looms, k = l) → t.loomByte = l) ∧ (t.looms = [] → t.loomByte = 255) ∧
      (t.bytes < 2 ^ 64 → leNat (((recordBytes t elapsed time).drop 16).take 8) = t.bytes) ∧
      leNat ((recordBytes t elapsed time).drop 24) = time.toNat ∧
      (t.failedAt = none → t.status = .ok → t.finalStatus = t.adjust.getD .ok) ∧
      (statusFailed t.status = true → t.finalStatus = t.status))

/-- R147: an update that has crossed the stairwells is applied at its knot when no earlier one for the same knot is on its way, and leaves the
others on their way; one behind an earlier update for its knot waits. R286: a knot read with an uncorrectable error is poisoned; that the error
shows as the update arrives is the model's inference (log 52, DEDUCED). -/
def Obligations.KnotUpdatesArriveInOrder : Prop :=
  ∀ (s : State) (n : Nat) (m : KnotMsg) (ecc : Ecc), s.knotMsgs[n]? = some m →
    ((∀ x ∈ s.knotMsgs.take n, x.key ≠ m.key) →
      ∃ s', exec (.knotUpdateArrive n ecc) s = .next s' ∧
        s'.knot m.key = (if ecc.bad = true then { (s.knot m.key).after m.action with poison := true } else (s.knot m.key).after m.action) ∧
        (∀ k, k ≠ m.key → s'.knot k = s.knot k) ∧ s'.knotMsgs = s.knotMsgs.eraseIdx n ∧ s'.sameBytes s) ∧
    ((∃ x ∈ s.knotMsgs.take n, x.key = m.key) → exec (.knotUpdateArrive n ecc) s = .next s)

/-- R145, R150, R187, R263: an item with a piece at the head of its lane that waits for a token or its knot, and a command of the treadle that waits
for a knot, a token, a channel or an arrival count, fails with `ST_STARVED` at its limit; every memory, register and knot stays, and every other
item keeps its descriptor. R118: so does a matrix command with finished tiles whose term knot is not met, no tile of it having taken its
terms. R133: a ring that R132 has held for
more than 100 ms of newel time raises RING_STALLED, event 0 of the treadle page, and is named in `TRD_EVT_RING`; before that nothing happens. -/
def Obligations.LimitsAreReported : Prop :=
  (∀ (s : State) (t : Item), s.item t.id = some t → t.caller = none → t.failedAt = none → s.hallRuns t.hall = true →
    (s.waitingHeads t ≠ [] ∨ ((∀ m, t.mat = some m → s.termWaits m = false) ∧ s.treadleWaits t = true)) →
    ∃ s', exec (.starvationLimit t.id) s = .next s' ∧ s'.failedWith t.id .starved ∧ s'.sameBytes s ∧ s'.sameRegisters s ∧
      s'.knots = s.knots ∧ s'.items.map Item.name = s.items.map Item.name) ∧
  (∀ (s : State) (t : Item) (m : Mat), s.item t.id = some t → t.caller = none → t.failedAt = none → s.hallRuns t.hall = true →
    s.waitingHeads t = [] → t.mat = some m → s.termWaits m = true → t.termMet = false →
    ∃ s', exec (.starvationLimit t.id) s = .next s' ∧ s'.failedWith t.id .starved ∧ s'.sameBytes s ∧
      s'.sameRegisters s ∧ s'.knots = s.knots) ∧
  (∀ (s : State) (g : Nat), (s.ring g).heldFull = true → Table.get 0 s.heldSince g ≠ 0 →
    (Table.get 0 s.heldSince g + 100000000 ≤ s.newel.time.toNat →
      ∃ s', exec (.ringStalled g) s = .next s' ∧ (s'.page (pgTreadle (ringHall g))).raw.getLsbD 0 = true ∧
        (s'.hall (ringHall g)).treadle.evtRing = BitVec.ofNat 11 (g % 2048) ∧ s'.rings = s.rings ∧ s'.items = s.items ∧ s'.sameBytes s) ∧
    (s.newel.time.toNat < Table.get 0 s.heldSince g + 100000000 → exec (.ringStalled g) s = .next s))

/-! ### Control commands -/

/-- R167: `NOP` does nothing but complete. R144, R168: `FENCE` completes once every earlier item of its ring has, and until then it changes
nothing (stated for a command that no pattern call emitted, which alone has earlier items it does not wait for). Every register, knot and byte stays. -/
def Obligations.NopAndFenceComplete : Prop :=
  (∀ (s : State) (it : ItemId) (t : Item), Runs s it .nop t → exec (.nop it) s = .next (s.withItemDone it 0)) ∧
  (∀ (s : State) (it : ItemId) (t : Item), Runs s it .fence t →
    ((∀ u ∈ s.items, itemBefore u.id it = false) → exec (.fence it) s = .next (s.withItemDone it 0)) ∧
    (t.caller = none → (∃ u ∈ s.items, itemBefore u.id it = true) → exec (.fence it) s = .next s))

/-- R151, R167: `KNOT_SET` adds its value to the knot at byte 16, or with ASSIGN writes the count and clears the poison, and completes. A knot
of the item's own hall changes at once, another hall's when its update arrives (R147), if a route to it is left (R28). No byte and no register changes. -/
def Obligations.KnotSetUpdatesItsKnot : Prop :=
  ∀ (s : State) (it : ItemId) (t : Item), Runs s it .knotSet t →
    let k := knotKey (fieldNat t.desc 136 3) (byteField t.desc 16 1)
    let a : KnotAction := if t.desc.getLsbD 144 then .assign (word32 t.desc 20) else .add (word32 t.desc 20)
    ∃ s', exec (.knotSet it) s = .next s' ∧ s'.doneWith it t.bytes ∧ s'.sameBytes s ∧ s'.sameRegisters s ∧
      (fieldNat t.desc 136 3 = t.hall → s'.knot k = (s.knot k).after a ∧ (∀ j, j ≠ k → s'.knot j = s.knot j) ∧ s'.knotMsgs = s.knotMsgs) ∧
      (fieldNat t.desc 136 3 ≠ t.hall → s'.knots = s.knots ∧
        s'.knotMsgs = s.knotMsgs ++ if s.hallReaches t.hall (fieldNat t.desc 136 3) = true then [⟨k, a⟩] else [])

/-- R150, R167, R168: `KNOT_WAIT` completes when every one of its entries is met or has been, and fails with `ST_UPSTREAM` at once when one
that is not yet met names a poisoned knot; until then it stays dispatched. No byte, register or knot changes. -/
def Obligations.KnotWaitIsMetOrFails : Prop :=
  ∀ (s : State) (it : ItemId) (t : Item), Runs s it .knotWait t → t.failedAt = none → t.caller = none →
    ∃ s', exec (.knotWait it) s = .next s' ∧ s'.sameBytes s ∧ s'.sameRegisters s ∧ s'.knots = s.knots ∧
      ((∀ w ∈ openWaits t, s.waitState w.2 = .met) → s'.doneWith it t.bytes) ∧
      ((∃ w ∈ openWaits t, s.waitState w.2 = .poisoned) → s'.failedWith it .upstream) ∧
      ((∀ w ∈ openWaits t, s.waitState w.2 ≠ .poisoned) → (∃ w ∈ openWaits t, s.waitState w.2 = .unmet) →
        ∃ u, s'.item it = some u ∧ u.phase = .dispatched)

/-- R155–R157: a pattern call reads its parameters and emits what its routine emits for them; a routine that emits nothing completes at once,
and one that emits commands stays open, its first command dispatched at its place. What a routine emits is not in the specification (log 9): it is
the same for the same image, parameters and windows. R286: a routine read with an uncorrectable error fails the call, as it is called (log 52,
DEDUCED). A command whose operand lists are being zeroed waits, so the first is stated for one whose are not (R212). No byte of memory changes but
the counts in context records. -/
def Obligations.PatternCallEmits : Prop :=
  ∀ (s : State) (it : ItemId) (t : Item) (ecc : Ecc), Runs s it .callPattern t → t.caller = none → t.failedAt = none →
    let ds := Config.routineEmits t.image (s.callParameters t) (s.windows.map fun p => (BitVec.ofNat 32 p.1, p.2))
    (ecc.bad = false → s.readFault (s.itemFunction it) true t.callReads = none → (∀ r ∈ t.callReads, s.readReady t r = true) →
      ∃ s', exec (.callPattern it ecc) s = .next s' ∧ (∀ x, ¬s.chargeByte x → s'.mem.read x = s.mem.read x) ∧ s'.knots = s.knots ∧
        (∃ u, s'.item it = some u ∧ u.desc = t.desc) ∧
        (ds = [] → s'.doneWith it t.bytes) ∧
        (∀ d rest, ds = d :: rest → it.sub = 0 → (s.ring it.ring).parked = none → s.callHeld it = false → s.operandsWait d = false →
          (∀ u ∈ s.items, u.id ≠ { it with sub := t.progress + 1 }) →
          ∃ v, s'.item { it with sub := t.progress + 1 } = some v ∧ v.desc = d ∧ v.caller = some it)) ∧
    (ecc.bad = true → ∃ s', exec (.callPattern it ecc) s = .next s' ∧ s'.failedWith it .eccUncorr ∧ s'.knots = s.knots)

/-- R167: `TIMESTAMP` with a handle writes the newel time, 8 bytes, at the byte offset of its window and counts 8 bytes; with none it only
completes. Stated for the result; the bytes outside the 8 stay, in a window that is neither encrypted nor in HBM. -/
def Obligations.TimestampWritesNewelTime : Prop :=
  ∀ (s : State) (it : ItemId) (t : Item), Runs s it .timestamp t →
    (word32 t.desc 16 = noHandle → exec (.timestamp it) s = .next (s.withItemDone it 0)) ∧
    (∀ w, t.win 16 = some w →
      let a := winBase w + byteField t.desc 20 4
      let fn := s.itemFunction it
      (s.access fn w).keys = none → addrSpace (winBase w) ≠ 2 → addrSpace a ≠ 2 → addrSpace a ≠ 5 → s.accessFault fn w [(a, 8)] = none → s.hitsZeroing a 8 = false →
      (addrSpace (winBase w) = 0 → s.allEmpty a 8 = true) →
      ∃ s', exec (.timestamp it) s = .next s' ∧ s'.doneWith it (t.bytes + 8) ∧
        s'.mem.readBytes (hostKey fn a) 8 = leBytes 8 s.newel.time.toNat ∧
        (∀ x, x < hostKey fn a ∨ hostKey fn a + 8 ≤ x → s'.mem.read x = s.mem.read x) ∧ s'.sameRegisters s ∧ s'.knots = s.knots)

/-! ### Movement -/

/-- R51, R170, R171, R174: `LOAD_TILE`, `STORE_TILE`, `COPY` and the plaintext forms of `OFFLOAD` and `RESTORE` move the rows of their shape,
elements and block scales, unchanged, and complete, when nothing stops the access and the tokens stand right. -/
def Obligations.MovementCopiesTheRowsOfItsShape : Prop :=
  ∀ (s : State) (it : ItemId) (t : Item) (o : Opcode) (c : Instr),
    (o, c) ∈ [(Opcode.loadTile, Instr.loadTile it), (.storeTile, .storeTile it), (.copy, .copy it), (.offload, .offload it),
      (.restore, .restore it)] →
    Runs s it o t → (o = .offload ∨ o = .restore → sealedMove o (t.winD 16) (t.winD 20) = false) → MayMove s t o (s.movesOf t) →
    ∃ s', exec c s = .next s' ∧ Moved s s' it t (s.itemFunction it) (t.winD 16) (t.winD 20) (s.movesOf t)

/-- R172: `GATHER` and a `SCATTER` that does not add move whole rows at the indices of their list, every index inside the indexed window; one out
of range fails the item with `ST_LENGTH_BOUND` and moves nothing. R172: a `SCATTER` that adds gives each word of its one indexed row the FP32 sum
of what stood there and the source word, and counts 4 bytes a word. Stated for one row of one chunk, windows that are not encrypted and stand
apart, and no poisoned word. -/
def Obligations.GatherAndScatterMoveRows : Prop :=
  (∀ (s : State) (it : ItemId) (t : Item) (o : Opcode) (c : Instr),
      (o, c) ∈ [(Opcode.gather, Instr.gather it), (.scatter, .scatter it)] →
      Runs s it o t → (o = .scatter → t.desc.getLsbD 313 = false) → t.failedAt = none → t.caller = none →
      let idx := s.itemIndices t
      let bound := winDim (t.winD (if o = .gather then 16 else 20)) 1
      s.readFault (s.itemFunction it) true (t.reads [40]) = none →
      ((∃ i ∈ idx, bound ≤ i) →
        ∃ s', exec c s = .next s' ∧ s'.failedWith it .lengthBound ∧ s'.sameBytes s ∧ s'.sameRegisters s ∧ s'.knots = s.knots) ∧
      ((∀ i ∈ idx, i < bound) → MayMove s t o (s.movesOf t) →
        ∃ s', exec c s = .next s' ∧ Moved s s' it t (s.itemFunction it) (t.winD 16) (t.winD 20) (s.movesOf t))) ∧
  (∀ (s : State) (it : ItemId) (t : Item) (i : Nat), Runs s it .scatter t → t.desc.getLsbD 313 = true →
      let src := t.winD 16
      let dst := t.winD 20
      let fn := s.itemFunction it
      let n := winDim src 0
      let a := rowAddr src 0
      let b := rowAddr dst i
      s.itemIndices t = [i] → i < winDim dst 1 → t.unitCount = 1 → t.unitsDone = [] → winFormat src = 0x0A → 0 < n → n ≤ 16384 →
      s.readFault fn true (t.reads [40]) = none → MayMove s t .scatter (s.movesOf t) →
      (s.access fn src).keys = none → (s.access fn dst).keys = none → addrSpace (winBase dst) ≠ 2 →
      (∀ k, k ≤ 4 * n → addrSpace (a + k) = addrSpace (winBase src) ∧ addrSpace (b + k) = addrSpace (winBase dst)) →
      apart (hostKey fn a) (4 * n) (hostKey fn b) (4 * n) →
      ∃ s', exec (.scatter it) s = .next s' ∧ s'.doneWith it (t.bytes + 4 * n) ∧ s'.sameRegisters s ∧
        (∀ j, j < n → BitVec.ofNat 32 (leNat (s'.mem.readBytes (hostKey fn (b + 4 * j)) 4)) =
          add32 (BitVec.ofNat 32 (leNat (s.mem.readBytes (hostKey fn (b + 4 * j)) 4)))
            (BitVec.ofNat 32 (leNat (s.mem.readBytes (hostKey fn (a + 4 * j)) 4)))) ∧
        (∀ x, x < hostKey fn b ∨ hostKey fn b + 4 * n ≤ x → s'.mem.read x = s.mem.read x))

/-- R173: `PREFETCH` never faults and moves no byte: it completes, and of the memory only the charge of a context whose lines change differs.
R174, R316, R318: a sealed `OFFLOAD` first closes its host window, whose generation counts up, whatever becomes of it then; it completes, and one
whose context has no key fails with `ST_KEY`, one whose source or host window cannot be reached with that status, and neither writes anything. One
whose host window's generation is spent fails with `ST_KEY` and changes nothing. A sealed `RESTORE` whose every chunk is verified completes with the
shape's bytes counted. -/
def Obligations.PrefetchAndSealedOffload : Prop :=
  (∀ (s : State) (it : ItemId) (t : Item), Runs s it .prefetch t →
      ∃ s', exec (.prefetch it) s = .next s' ∧ s'.doneWith it t.bytes ∧ (∀ x, ¬s.chargeByte x → s'.mem.read x = s.mem.read x) ∧
        s'.knots = s.knots ∧ s'.windows = s.windows ∧ s'.rings = s.rings ∧ s'.items.map Item.name = s.items.map Item.name) ∧
  (∀ (s : State) (it : ItemId) (t : Item), Runs s it .offload t → sealedMove .offload (t.winD 16) (t.winD 20) = true →
      t.failedAt = none → t.caller = none →
      let src := t.winD 16
      let fn := s.itemFunction it
      let key := handleKey (word32 t.desc 20)
      let rd := shapeRead (word32 t.desc 16) src (shapeOf t.desc)
      let stop := (s.readFault fn true [rd]).orElse fun _ => s.accessFault fn (t.winD 20) []
      let closed : State → Prop := fun s' => winOpen (s'.window key) = false ∧ winGen (s'.window key) = winGen (s.window key) + 1 ∧
        ∀ k, k ≠ key → s'.window k = s.window k
      (stop = none → s.readReady t rd = true) → addrSpace (winBase (t.winD 20)) = 3 →
      (winGen (s.window key) = 0xFFFFFFFF →
        ∃ s', exec (.offload it) s = .next s' ∧ s'.failedWith it .key ∧ s'.sameBytes s ∧ s'.windows = s.windows) ∧
      (∀ st, winGen (s.window key) ≠ 0xFFFFFFFF → stop = some st →
        ∃ s', exec (.offload it) s = .next s' ∧ s'.failedWith it st ∧ s'.sameBytes s ∧ closed s') ∧
      (winGen (s.window key) ≠ 0xFFFFFFFF → stop = none → s.hostImageKey (winOwner src) = none →
        ∃ s', exec (.offload it) s = .next s' ∧ s'.failedWith it .key ∧ s'.sameBytes s ∧ closed s') ∧
      (winGen (s.window key) ≠ 0xFFFFFFFF → stop = none → (s.hostImageKey (winOwner src)).isSome = true →
        ∃ s' n, exec (.offload it) s = .next s' ∧ s'.doneWith it (t.bytes + n) ∧ closed s' ∧ s'.sameRegisters s)) ∧
  (∀ (s : State) (it : ItemId) (t : Item) (k : List Byte), Runs s it .restore t → sealedMove .restore (t.winD 16) (t.winD 20) = true →
      t.failedAt = none → t.caller = none →
      let dst := t.winD 20
      let fn := s.itemFunction it
      let n := shapeBytes (winFormat dst) (shapeOf t.desc)
      let chunks := imageChunks n (s.load ⟨none, none, fn⟩ (winBase (t.winD 16)) (sealedBytes n))
      s.accessFault fn (t.winD 16) [] = none → s.readFault fn false [shapeRead (word32 t.desc 20) dst (shapeOf t.desc)] = none →
      s.hostImageKey (winOwner dst) = some k →
      (∀ p ∈ travelSpans dst (shapeOf t.desc), ∀ i, i ≤ p.2 → addrSpace (p.1 + i) = addrSpace (winBase dst)) →
      (∀ c ∈ chunks.zipIdx, (gcmOpen k (imageIv (word32 t.desc 16) (winGen (t.winD 16)) c.2) (imageAad (winOwner dst) c.1.2) c.1.1).isSome =
        true) →
      ∃ s', exec (.restore it) s = .next s' ∧ s'.doneWith it (t.bytes + n) ∧ s'.sameRegisters s ∧ s'.windows = s.windows ∧ s'.knots = s.knots)

/-! ### The landing unit -/

/-- R100, R166, R178–R183: the landing commands run over the rows of their source that are left, write their destination and complete, when
nothing stops their accesses and their tokens stand right. Where no result window is encrypted, no byte of memory changes but those of the
result rows and a context's charge; no register, knot or window entry changes. -/
def Obligations.LandingCommandsComplete : Prop :=
  ∀ (s : State) (it : ItemId) (t : Item) (o : Opcode) (c : Instr),
    (o, c) ∈ [(Opcode.epilog, Instr.epilog it), (.eltwise, .eltwise it), (.rowreduce, .rowreduce it), (.softmaxFwd, .softmaxFwd it),
      (.softmaxBwd, .softmaxBwd it), (.normFwd, .normFwd it), (.normBwd, .normBwd it), (.convert, .convert it)] →
    Runs s it o t → UnitsFree s (s.landingWork t o) t (t.landingLeft o) → s.takesApart t o →
    let fn := s.itemFunction it
    ∃ s' n, exec c s = .next s' ∧ s'.doneWith it (t.bytes + n) ∧ s.sameRegisters s' ∧ s'.knots = s.knots ∧ s'.windows = s.windows ∧
      s'.items.map Item.name = s.items.map Item.name ∧
      ((∀ r ∈ t.landingLeft o, (s.access fn r.win).keys = none) → ∀ x, outsideAll fn ((t.landingLeft o).flatMap Read.all) x →
        ¬s.chargeByte x → s'.mem.read x = s.mem.read x)

/-- What the landing commands write into a one-row FP32 window (format 0x0A) that is neither encrypted nor in HBM: the row that their rule gives,
element by element, 4 bytes each. -/
def Obligations.LandingCommandsWriteTheirRow : Prop :=
  ∀ (s : State) (it : ItemId) (t : Item) (o : Opcode) (c : Instr),
    (o, c) ∈ [(Opcode.epilog, Instr.epilog it), (.eltwise, .eltwise it), (.rowreduce, .rowreduce it), (.softmaxFwd, .softmaxFwd it),
      (.softmaxBwd, .softmaxBwd it), (.normFwd, .normFwd it), (.convert, .convert it)] →
    Runs s it o t → (o = .softmaxFwd → byteField t.desc 29 1 / 2 ≠ 2) →
    UnitsFree s (s.landingWork t o) t (t.landingLeft o) → s.takesApart t o →
    let d := t.winD 24
    let a := rowAddr d (landingDest t 0)
    t.unitCount = 1 → t.unitsDone = [] → winRows (t.winD 16) = 1 → winFormat d = 0x0A → winLayout d = 0 → addrSpace (winBase d) ≠ 2 →
    (s.access (s.itemFunction it) d).keys = none →
    ∃ s', exec c s = .next s' ∧ ∀ j, j < (s.landingRow t o 0).1.length →
      s'.mem.readBytes (hostKey (s.itemFunction it) a + 4 * j) 4 =
        leBytes 4 (convertPlain 0x0A (convControl t.desc 31) (j + winDim d 0 * landingDest t 0) ((s.landingRow t o 0).1.getD j 0) one32).code

/-- What one row of a landing command computes, by R100 and R178–R183: the ELTWISE operations on their operands, element by element, those of the
activations' gradients (17 to 21) with one rounding of b × f′(a), where f′ of ReLU at 0 is 0 and f′ of squared ReLU is 2 max(a, 0); the row
reductions; the softmax and its gradient; the normalisation, its statistics and its gradient; and CONVERT, which computes nothing. That operation 5
is one fused operation with one rounding is the model's choice (log 22). -/
def Obligations.LandingRowArithmetic : Prop :=
  (∀ a b c : W32, eltwiseOp 0 a b c = add32 a b ∧ eltwiseOp 1 a b c = sub32 a b ∧ eltwiseOp 2 a b c = mul32 a b ∧
    eltwiseOp 3 a b c = max32 a b ∧ eltwiseOp 4 a b c = min32 a b ∧ eltwiseOp 5 a b c = fma32 a c b ∧ eltwiseOp 6 a b c = mul32 a c ∧
    eltwiseOp 7 a b c = exp32 a ∧ eltwiseOp 8 a b c = ln32 a ∧ eltwiseOp 9 a b c = rsqrt32 a ∧ eltwiseOp 10 a b c = div32 one32 a) ∧
  (∀ x xs, rowReduceOp 0 (x :: xs) = reduce32 (x :: xs) ∧ rowReduceOp 1 (x :: xs) = xs.foldl max32 x ∧
    rowReduceOp 2 (x :: xs) = reduce32 ((x :: xs).map fun y => mul32 y y) ∧
    rowReduceOp 3 (x :: xs) = mul32 (rneQ false 1 (xs.length + 1) 0) (reduce32 (x :: xs)) ∧
    ((∀ y ∈ x :: xs, y = inf32 true) → rowReduceOp 4 (x :: xs) = inf32 true) ∧
    ∀ m, m = xs.foldl max32 x → m ≠ inf32 true →
      rowReduceOp 4 (x :: xs) = add32 (ln32 (reduce32 ((x :: xs).map fun y => exp32 (sub32 y m)))) m) ∧
  (∀ (a b c : W32) (neg : Bool) (m : Nat) (e : Int), dec32 a = .fin neg m e →
    (neg = true ∨ m = 0 → eltwiseOp 17 a b c = mul32 b 0) ∧ (neg = false → m ≠ 0 → eltwiseOp 17 a b c = mul32 b one32) ∧
    (neg = true → eltwiseOp 21 a b c = mul32 b 0) ∧
    (neg = false → eltwiseOp 21 a b c = rne32 ((dec32 b).mul (.fin false (2 * m) e))) ∧
    ∀ (code : Nat) (nb : Bool) (mb : Nat) (eb : Int), 2 ≤ code → code ≤ 4 → dec32 b = .fin nb mb eb →
      (m = 0 ∨ floorLog2 m 1 + e < gateLimit code) →
      eltwiseOp (16 + code) a b c = (((gateDeriv code (Apx.ofVal (.fin neg m e))).mul (Apx.ofVal (.fin nb mb eb))).trim).round
        (nb != decide ((gateDeriv code (Apx.ofVal (.fin neg m e))).m < 0))) ∧
  (∀ (a b c : W32) (op : Nat), 17 ≤ op → op ≤ 21 → dec32 a = .nan → eltwiseOp op a b c = nan32) ∧
  (∀ xs c i o (j : Nat) (x : W32), xs[j]? = some x →
    (softmaxInput xs c true i o)[j]? = some (if (i : Int) + o < j then inf32 true else mul32 x c) ∧
    (softmaxInput xs c false i o)[j]? = some (mul32 x c)) ∧
  (∀ xs, (∀ x ∈ xs, x = inf32 true) → (softmaxRow xs none).1 = xs.map (fun _ => zero32) ∧ (softmaxRow xs none).2 = (inf32 true, zero32)) ∧
  (∀ (x : W32) (xs : List W32), (∃ y ∈ x :: xs, y ≠ inf32 true) →
    let m := xs.foldl max32 x
    let e := (x :: xs).map fun y => exp32 (sub32 y m)
    (softmaxRow (x :: xs) none).2 = (m, reduce32 e) ∧
    ∀ (j : Nat) (y : W32), (x :: xs)[j]? = some y → (softmaxRow (x :: xs) none).1[j]? = some (div32 (exp32 (sub32 y m)) (reduce32 e))) ∧
  (∀ (xs : List W32) (m sum : W32), (∃ y ∈ xs, y ≠ inf32 true) → ∀ (j : Nat) (y : W32), xs[j]? = some y →
    (softmaxRow xs (some (m, sum))).1[j]? = some (if m = inf32 true then zero32 else div32 (exp32 (sub32 y m)) sum)) ∧
  (∀ ys dys, (softmaxGrad ys dys).length = Nat.min ys.length dys.length) ∧
  (∀ (ys dys : List W32) (j : Nat) (y dy : W32), ys[j]? = some y → dys[j]? = some dy →
    (softmaxGrad ys dys)[j]? = some (mul32 y (sub32 dy (reduce32 (List.zipWith mul32 dys ys))))) ∧
  (∀ mode eps xs, (normalise mode eps xs).1.length = xs.length) ∧
  (∀ (eps : W32) (xs : List W32),
    let k := rneQ false 1 xs.length 0
    let mu := mul32 k (reduce32 xs)
    let rms : List W32 → W32 := fun xc => rsqrt32 (add32 (mul32 k (reduce32 (xc.map fun x => mul32 x x))) eps)
    (normalise 0 eps xs).2 = rms xs ∧ (normalise 1 eps xs).2 = rms (xs.map fun x => sub32 x mu) ∧
    ∀ (j : Nat) (x : W32), xs[j]? = some x → (normalise 0 eps xs).1[j]? = some (mul32 x (normalise 0 eps xs).2) ∧
      (normalise 1 eps xs).1[j]? = some (mul32 (sub32 x mu) (normalise 1 eps xs).2)) ∧
  (∀ (mode : Nat) (eps : W32) (gamma beta xs dys : List W32) (j : Nat) (xh dy : W32), (normalise mode eps xs).1[j]? = some xh →
    (normRow mode eps gamma beta xs)[j]? = some (add32 (mul32 xh (gamma.getD j one32)) (beta.getD j zero32)) ∧
    (dys.length = xs.length → dys[j]? = some dy →
      let g := dys.zipIdx.map fun p => mul32 p.1 (gamma.getD p.2 one32)
      let k := rneQ false 1 xs.length 0
      let a := mul32 k (reduce32 (List.zipWith mul32 g (normalise mode eps xs).1))
      let b := if mode = 1 then mul32 k (reduce32 g) else zero32
      (normGrad mode eps gamma xs dys).1[j]? =
        some (mul32 (normalise mode eps xs).2 (sub32 (sub32 (mul32 dy (gamma.getD j one32)) b) (mul32 xh a))) ∧
      (normGrad mode eps gamma xs dys).2[j]? = some (mul32 dy xh))) ∧
  (∀ (s : State) (t : Item) (r : Nat), (s.landingRow t .convert r).1 = s.rowAt t 16 (winDim (t.winD 16) 0) r)

/-- The reduction order of R116: sums of up to 32 exact terms rounded once, the group results added in ascending order. -/
def Obligations.ReductionOrder : Prop :=
  reduceVals [] = zero32 ∧
  (∀ vs : List Val, 0 < vs.length → vs.length ≤ 32 → reduceVals vs = rne32 (exactSum vs)) ∧
  (∀ vs ws : List Val, vs ≠ [] → vs.length % 32 = 0 → 0 < ws.length → ws.length ≤ 32 →
    reduceVals (vs ++ ws) = add32 (reduceVals vs) (rne32 (exactSum ws)))

/-! ### The matrix arrays -/

/-- R87, R89, R95, the arithmetic of a shaft: an accumulation inside 20 bits adds exactly, one outside is an overflow; a promotion of a narrow
accumulator without a tag replaces L at the first interval and adds to it later, and a tag's value stands whatever is accumulated; a raise puts
the shaft one level up with nothing accumulated. That its tags are then again those with which the interval began is the model's choice (log 47,
DESIGN CHOICE): R55 keeps a tag through the tile, and the rerun meets every product of the interval anew. -/
def Obligations.ShaftArithmetic : Prop :=
  (∀ v g : Int, -(2 ^ 19) ≤ v + g → v + g ≤ 2 ^ 19 - 1 → accumulate false (some v) g = some (v + g)) ∧
  (∀ v g : Int, v + g < -(2 ^ 19) ∨ 2 ^ 19 - 1 < v + g → accumulate false (some v) g = none) ∧
  (∀ (v : Option Int) (g : Int), -(2 ^ 19) ≤ g → g ≤ 2 ^ 19 - 1 → accumulate true v g = some g) ∧
  (∀ (ae v : Int) (l : W32), promoteCell ae true (some v) .none l = rneQ (decide (v < 0)) v.natAbs 1 ae ∧
    promoteCell ae false (some v) .none l = add32 l (rneQ (decide (v < 0)) v.natAbs 1 ae)) ∧
  (∀ (ae : Int) (first : Bool) (v : Option Int) (tag : Tag) (x l : W32), tag.value = some x → promoteCell ae first v tag l = x) ∧
  (∀ r : ShaftRun, r.raise.level = r.level + 1 ∧ r.raise.tags = r.tagsStart ∧ r.raise.hit = none ∧ r.raise.land = r.land)

/-- R63, R66, R70, R78, R100, R177: a matrix command with its term knot met, or none, runs every output tile that is left and completes with
every unit done. No register, knot or window entry changes, and every other item keeps its descriptor; where the destination is not encrypted, no
byte of memory changes but those of its output tiles and the counts in context records. The one tile that is left has its bytes: each element the
value of its accumulated sums through the epilogue (R100), stated for rows that stand apart. -/
def Obligations.MatrixCommandsComplete : Prop :=
  ∀ (s : State) (it : ItemId) (t : Item) (o : Opcode) (c : Instr),
    (o, c) ∈ [(Opcode.matmul, Instr.matmul it), (.matmulT, .matmulT it), (.conv, .conv it), (.matmulAcc, .matmulAcc it)] →
    Runs s it o t →
    let m := matOf t o
    s.termState t = .met → UnitsFree s (s.matWork m) t (t.unitsLeft.map m.tileWrite) → s.slotsApart m →
    (∀ u r, s.tileOf t u = some r → r.fits m) →
    ∃ s' x, exec c s = .next s' ∧ s'.item it = some x ∧ x.phase = .decided ∧ (∀ u, u < t.unitCount → u ∈ x.unitsDone) ∧
      s.sameRegisters s' ∧ s'.knots = s.knots ∧ s'.windows = s.windows ∧ s'.items.map Item.name = s.items.map Item.name ∧
      ((s.access (s.itemFunction it) m.out).keys = none → ∀ x,
        outsideAll (s.itemFunction it) ((t.unitsLeft.map m.tileWrite).flatMap Read.all) x → ¬s.chargeByte x → s'.mem.read x = s.mem.read x) ∧
      ∀ u, t.unitsLeft = [u] → TileApart s m u → s.tileBytesIn s' m (s.tileEnd m u)

/-- R118, R150: a matrix command whose term knot is poisoned before it was met fails with `ST_UPSTREAM`, with no byte changed where no tile of it
had taken its terms, and one whose knot is not met stays as it is. -/
def Obligations.TermKnotHoldsMatrixCommands : Prop :=
  ∀ (s : State) (it : ItemId) (t : Item) (o : Opcode) (c : Instr),
    (o, c) ∈ [(Opcode.matmul, Instr.matmul it), (.matmulT, .matmulT it), (.matmulAcc, .matmulAcc it)] →
    Runs s it o t → t.failedAt = none → t.caller = none →
    (s.termState t = .unmet → exec c s = .next s) ∧
    (s.termState t = .poisoned →
      ∃ s', exec c s = .next s' ∧ s'.failedWith it .upstream ∧ (t.termMet = false → s'.sameBytes s) ∧ s.sameRegisters s' ∧
        s'.knots = s.knots)

/-- R68, R69: `WARP_TILE_LOAD` brings the tile of a unit's next pass (of the one after it, where the next one's stands in the active registers)
down the row latches into the loom's shadow registers, and changes nothing else. Stated for a unit that runs on its own loom, its block there. -/
def Obligations.WarpTileEntersTheShadow : Prop :=
  ∀ (s : State) (h l u : Nat) (t : Item) (m : Mat), s.item t.id = some t → t.mat = some m → s.unitRuns h t u = true → s.unitLoom t u = l →
    s.cutOff t = false →
    let lm := s.loom h l
    let pass := if m.sameTile u (lm.passOf t.id u) lm.active then lm.passOf t.id u + 1 else lm.passOf t.id u
    let rd := tileRead m.o t m.sh u pass
    pass < m.sh.passes → s.blockHere t m.sh lm u pass rd = true →
    s.passFault m u pass = none →
    exec (.warpTileLoad h l t.id u) s = .next (s.modLoom h l fun lm => lm.loadTile m u pass (s.warpRows m u pass)) ∧
    (lm.loadTile m u pass (s.warpRows m u pass)).shadow = ⟨some (t.id, u, pass), s.warpRows m u pass⟩ ∧
    (lm.loadTile m u pass (s.warpRows m u pass)).active = lm.active

/-- R65, R69, R75, R87, R95: `TILE_PASS` runs the next pass of the running piece's tile, its operands and those of the interval it opens
there and no other tile holding it, against its warp tile, which the swap takes from the shadow registers where it stands there: the tile is what
the pass makes of it and has one pass more, no byte of memory changes, no token becomes full, and every item keeps its descriptor. That the swap
exchanges the two registers, so that the tile of the pass before stands in the shadow registers, is the model's inference (log 46, DEDUCED). -/
def Obligations.TilePassAdvancesTheTile : Prop :=
  ∀ (s : State) (h l : Nat) (p : Piece) (m : Mat), s.matrixHead h l = some (p, m) → m.t.id = p.item →
    s.unitLoom m.t p.unit = l → m.t.hall = h → s.cutOff m.t = false →
    let lm := s.loom h l
    let r := s.tileNow m p.unit
    let warp := if m.sameTile p.unit r.pass lm.active = true then lm.active.rows else lm.shadow.rows
    s.passMayStart m lm p = true → (m.sameTile p.unit r.pass lm.active = true ∨ m.sameTile p.unit r.pass lm.shadow = true) →
    s.passFault m p.unit r.pass = none →
    ∃ s' r', exec (.tilePass h l) s = .next s' ∧ s'.tileOf m.t p.unit = some r' ∧ r' = (s.stepPass m warp r).1 ∧ r'.pass = r.pass + 1 ∧
      r'.finished = false ∧
      (m.sameTile p.unit r.pass lm.active = true → (s'.loom h l).active = lm.active ∧ (s'.loom h l).shadow = lm.shadow) ∧
      (m.sameTile p.unit r.pass lm.active = false → (s'.loom h l).active = lm.shadow ∧ (s'.loom h l).shadow = lm.active) ∧
      s'.mem = s.mem ∧ s'.poison = s.poison ∧ (∀ g, g ∈ s'.full → g ∈ s.full) ∧
      s'.items.map Item.name = s.items.map Item.name ∧ s'.knots = s.knots

/-- R89: `PROMOTION` promotes the due tile: every cell of a shaft that is not in wide mode takes the value that its accumulator, tag and landing
value give, and nothing else of the landing values changes; the tile is finished when its passes are. R75, R91: set free are exactly the granules
of the slots that no later pass reads, and of the operands in the loom stores that the promoted passes read and nothing left of the command reads.
R95: `REPLAY_RERUN`, when no pass is left that had started, reruns in every tile of the loom with an overflow the passes that it has run, with every
shaft whose overflow was detected one ladder level up and no other shaft changed; R97: the item's record takes the level. Neither changes a byte of
memory or an item's descriptor. -/
def Obligations.PromotionAndReplayStepTheTile : Prop :=
  ∀ (s : State) (h l : Nat) (m : Mat) (r : TileRun), s.cutOff m.t = false →
    (s.tileWith h l (fun _ r => r.due) = some (m, r) →
      ∃ s' r', exec (.promotion h l) s = .next s' ∧ r' ∈ (s'.loom h l).runs ∧ r'.item = r.item ∧ r'.unit = r.unit ∧ r'.pass = r.pass ∧
        r'.due = false ∧ r'.finished = decide (r.pass = m.sh.passes) ∧ r'.shafts.length = r.shafts.length ∧
        (∀ (k : Nat) (x y : ShaftRun), r.shafts[k]? = some x → r'.shafts[k]? = some y →
          y.base = r.pass ∧ y.level = x.level ∧ y.tags = x.tags ∧ (4 ≤ x.level → y.land = x.land) ∧
          (x.level < 4 → ∀ (i c : Nat) (vs : List (Option Int)) (gs : List Tag) (ls : List W32) (v : Option Int) (g : Tag) (w : W32),
            x.acc[i]? = some vs → x.tags[i]? = some gs → x.land[i]? = some ls → vs[c]? = some v → gs[c]? = some g → ls[c]? = some w →
            ∃ row, y.land[i]? = some row ∧ row[c]? = some (promoteCell (x.align + 2 * x.level) (x.base == 0) v g w))) ∧
        (∀ g, g ∈ s'.full ↔ g ∈ s.full ∧
          (∀ x ∈ (s.loom m.t.hall (s.unitLoom m.t r.unit)).slots, x.item = m.t.id → x.unit = r.unit → partLast m.sh x.part < r.pass →
            g ∉ granulesOf x.base x.len) ∧
          ¬((∃ q ∈ m.runReads r.unit r.base (r.pass - r.base), g ∈ q.granules) ∧
            ∀ u, u < m.t.unitCount → ∀ q ∈ s'.passNeeds m u, g ∉ q.granules)) ∧
        s'.mem = s.mem ∧ s'.poison = s.poison ∧ s'.items.map Item.name = s.items.map Item.name ∧ s'.knots = s.knots) ∧
    (∀ rest, s.tilesWith h l (fun _ r => r.overflow) = (m, r) :: rest →
      (s.passPending h l = true → exec (.replayRerun h l) s = .next s) ∧
      (s.passPending h l = false → (s.loom h l).runs.Pairwise (fun x y => ¬(x.item = y.item ∧ x.unit = y.unit)) →
        ∃ s', exec (.replayRerun h l) s = .next s' ∧ s'.mem = s.mem ∧ s'.poison = s.poison ∧ (∀ g, g ∈ s'.full → g ∈ s.full) ∧
          s'.items.map Item.name = s.items.map Item.name ∧ s'.knots = s.knots ∧
          ∀ x ∈ (m, r) :: rest, ∃ q ∈ (s'.loom h l).runs, q.item = x.2.item ∧ q.unit = x.2.unit ∧ q.pass = x.2.pass ∧
            q.shafts.length = x.2.shafts.length ∧ (∃ t, s'.item x.1.t.id = some t ∧ q.level ≤ t.replay) ∧
            ∀ (k : Nat) (y : ShaftRun), x.2.shafts[k]? = some y → ∃ z : ShaftRun, q.shafts[k]? = some z ∧
              (y.hit.isSome = true → z.level = y.level + 1 ∧ (y.base ≤ x.2.pass → z.done = x.2.pass)) ∧ (y.hit = none → z = y)))

/-- R100, R118: `TILE_EPILOGUE`, the term knot met, writes a finished tile whose shafts have taken their terms: its bytes are those of its landing
values through the stages of R100, stated for rows that stand apart, and where the destination is not encrypted no other byte of memory changes but
the counts in context records; its unit is done and the tile leaves its loom. `STAGE3_TERM`, the term knot met and the slices of a shaft there, gives
that shaft of a finished tile its terms and ends its work item, and changes no byte but those counts. No knot or window entry changes. -/
def Obligations.EpilogueAndTermsOfATile : Prop :=
  ∀ (s : State) (h l : Nat) (m : Mat) (r : TileRun), s.cutOff m.t = false → s.tileTerm m.t r.gate = .met →
    (s.tileWith h l (fun m r => r.finished && m.allTermed r) = some (m, r) → s.unitLoom m.t r.unit = l → s.lateFault m r.unit = none →
      s.lateReady m r.unit = true → resultsWithin [m.tileWrite r.unit] → r.fits m →
      ∃ s' x, exec (.tileEpilogue h l) s = .next s' ∧ s'.item m.t.id = some x ∧ r.unit ∈ x.unitsDone ∧
        (∀ q ∈ (s'.loom h l).runs, ¬(q.item = r.item ∧ q.unit = r.unit)) ∧ s'.knots = s.knots ∧ s'.windows = s.windows ∧
        ((s.access (s.itemFunction m.t.id) m.out).keys = none → ∀ x,
          outsideAll (s.itemFunction m.t.id) (m.tileWrite r.unit).all x → ¬s.chargeByte x → s'.mem.read x = s.mem.read x) ∧
        (TileApart s m r.unit → s.tileBytesIn s' m r)) ∧
    (∀ k, s.tileWith h l (s.stage3Due h l) = some (m, r) → s.readyShaft m h l r = some k →
      s.readFault (s.itemFunction m.t.id) true (m.termReads r.unit k ++ m.slotReads r.unit) = none →
      ∃ s' r', exec (.stage3Term h l) s = .next s' ∧ r' ∈ (s'.loom h l).runs ∧ r'.item = r.item ∧ r'.unit = r.unit ∧
        r'.terms = Table.set [] r.terms k (s.shaftTerms m r.unit k) ∧
        (∀ w ∈ (s'.bobbin h l).work, ¬(w.item = m.t.id ∧ w.unit = 4 * r.unit + k)) ∧ (∀ x, ¬s.chargeByte x → s'.mem.read x = s.mem.read x) ∧
        s'.items.map Item.name = s.items.map Item.name ∧ s'.knots = s.knots ∧ s'.windows = s.windows)

/-! ### The bobbin unit -/

/-- R117, R123, R124: `ADAPT_FWD` and `ADAPT_BWD` carry out every unit of work that is left and complete. Where no result window is encrypted,
no byte changes but those of the result rows and of the module's counts in context records; no register, knot or window entry changes. -/
def Obligations.AdapterCommandsComplete : Prop :=
  ∀ (s : State) (it : ItemId) (t : Item) (o : Opcode) (c : Instr),
    (o, c) ∈ [(Opcode.adaptFwd, Instr.adaptFwd it), (.adaptBwd, .adaptBwd it)] → Runs s it o t →
    t.unitCount = (t.bobbinUnits o).length → UnitsFree s (s.bobbinWork t o) t (t.unitResults o) →
    ∃ s' n, exec c s = .next s' ∧ s'.doneWith it (t.bytes + n) ∧ s.sameRegisters s' ∧ s'.knots = s.knots ∧ s'.windows = s.windows ∧
      s'.items.map Item.name = s.items.map Item.name ∧
      ((∀ r ∈ t.unitResults o, (s.access (s.itemFunction it) r.win).keys = none) → ∀ x,
        outsideAll (s.itemFunction it) ((t.unitResults o).flatMap Read.all) x → ¬s.chargeByte x → s'.mem.read x = s.mem.read x)

/-- R106, R110, R184: `BOBBIN_BIND` installs the 512-byte record of its window as the record of its context, but for the use and statistics
fields, bytes 36 to 63, and for the step counter unless the counter-load flag is set. No other byte and no register changes. -/
def Obligations.BindInstallsTheRecord : Prop :=
  ∀ (s : State) (it : ItemId) (t : Item), Runs s it .bobbinBind t →
    let c := fieldNat t.desc 128 14
    let w := t.winD 20
    let fn := s.itemFunction it
    let rd : Read := ⟨word32 t.desc 20, w, [0], 0, 512⟩
    let bs := s.load (s.access fn w) (winBase w) 512
    c < 12288 → bs.length = 512 → s.readFault fn true [rd] = none → s.readReady t rd = true → s.imageCheck (BitVec.ofNat 4096 (leNat bs)) = none →
    ∃ s', exec (.bobbinBind it) s = .next s' ∧ s'.doneWith it (t.bytes + 512) ∧ s.sameRegisters s' ∧ s'.knots = s.knots ∧
      s'.windows = s.windows ∧
      (∀ i, i < 512 → s'.mem.read (s.ctxAddr c + i) =
        if 36 ≤ i ∧ i < 64 ∨ 8 ≤ i ∧ i < 16 ∧ descFlag t.desc 2 = false then s.mem.read (s.ctxAddr c + i) else bs.getD i 0) ∧
      (∀ x, x < s.ctxAddr c ∨ s.ctxAddr c + 512 ≤ x → s'.mem.read x = s.mem.read x)

/-- R119–R121: `BOBBIN_WORK_ITEM_START` takes another work item while fewer than four are in progress, holding the slices it still needs, and the
first of them that is not in the cache has been requested; `BOBBIN_SLICE_FILL` brings a requested slice, found without an uncorrectable error,
into the cache. Stated for a start with a slice that is not in the cache, and, but for the slice that comes in, where the work items in progress are those of matrix
commands; and for a slice whose tokens stand right and whose item's traffic has a route (R28, R221). -/
def Obligations.BobbinWorkAndSlices : Prop :=
  ∀ (s : State) (h l : Nat),
    let terms : Prop := ∀ w ∈ (s.bobbin h l).work, ∀ x, s.item w.item = some x → ∃ m, x.mat = some m
    (∀ (unit : Nat) (t : Item) (o : Opcode) (needs sls : List SliceId) (sl : SliceId), s.item t.id = some t → t.op = some o →
      s.unitRuns h t (if matrixOp o then unit / 4 else unit) = true → s.unitLoom t (if matrixOp o then unit / 4 else unit) = l →
      s.cutOff t = false → (s.bobbin h l).work.length < 4 → (∀ w ∈ (s.bobbin h l).work, ¬(w.item = t.id ∧ w.unit = unit)) →
      s.workReady h l t o unit = true → sliceNeeds t o unit = some needs → needs.dropWhile (s.bobbin h l).has = sl :: sls → terms →
      ∃ s', exec (.bobbinWorkItemStart h l t.id unit) s = .next s' ∧ (⟨t.id, unit, sl :: sls⟩ : WorkItem) ∈ (s'.bobbin h l).work ∧
        (∃ w ∈ (s'.bobbin h l).wanted, w.1 = sl) ∧ s'.knots = s.knots ∧ s'.windows = s.windows) ∧
    (∀ (sl : SliceId) (w : SliceId × ItemId) (t : Item) (ecc : Ecc), (s.bobbin h l).wanted.find? (fun w => w.1 == sl) = some w →
      s.sliceFlying h l sl = false → s.sliceWaits w.2 sl = false → s.item w.2 = some t → s.cutOff t = false → ecc.bad = false →
      s.readFault (s.itemFunction t.id) true [t.sliceRead sl] = none →
      ∃ s', exec (.bobbinSliceFill h l sl ecc) s = .next s' ∧ (s'.bobbin h l).has sl = true ∧
        (terms → s'.knots = s.knots ∧ s'.windows = s.windows))

/-! ### Streams -/

/-- R175, R218: `STREAM_ARM` makes its arming active, or pending behind an active one, counts the generation up and leaves its item waiting;
a descriptor with a pending arming refuses it with `ST_REARM_OVERRUN`. R224: `STREAM_STARVED` fails the item of an arming whose next entry has
stayed full, and the pending arming, another item's, becomes active. No byte of memory changes. -/
def Obligations.StreamsArmAndStarve : Prop :=
  (∀ (s : State) (it : ItemId) (t : Item), Runs s it .streamArm t → t.failedAt = none → t.caller = none →
    let d := fieldNat t.desc 128 12
    ((s.stream t.hall d).pending = none →
      ∃ s', exec (.streamArm it) s = .next s' ∧ (s'.stream t.hall d).gen = (s.stream t.hall d).gen + 1 ∧
        ((s.stream t.hall d).active = none → (s'.stream t.hall d).active = some (armingOf t ((s.stream t.hall d).gen + 1))) ∧
        (∀ a, (s.stream t.hall d).active = some a →
          (s'.stream t.hall d).active = some a ∧ (s'.stream t.hall d).pending = some (armingOf t ((s.stream t.hall d).gen + 1))) ∧
        (∃ u, s'.item it = some u ∧ u.phase = .external) ∧ s'.sameBytes s ∧ s'.knots = s.knots ∧ s'.windows = s.windows) ∧
    ((s.stream t.hall d).pending.isSome = true →
      ∃ s', exec (.streamArm it) s = .next s' ∧ s'.failedWith it .rearmOverrun ∧ s'.sameBytes s ∧
        ((∀ h e a, (s.stream h e).active = some a ∨ (s.stream h e).pending = some a → a.item ≠ it) → ∀ h e, s'.stream h e = s.stream h e))) ∧
  (∀ (s : State) (h d : Nat) (a : Arming) (t : Item), (s.stream h d).active = some a → s.hallRuns h = true →
    s.item a.item = some t → t.failedAt = none → t.caller = none → a.granted < a.transfers → s.entryEmpty a (a.entry a.granted) = false →
    (∀ b, (s.stream h d).pending = some b → b.item ≠ a.item) →
    ∃ s', exec (.streamStarved h d) s = .next s' ∧ s'.failedWith a.item .starved ∧ s'.stream h d = (s.stream h d).next ∧ s'.sameBytes s)

/-- R222: `STREAM_GRANT` grants the transfer of the eligible descriptor that comes before every other eligible one: it is under way, and counted,
and each other has been passed over once more. R220, R223: the oldest transfer under way, its requests answered, completes: the arming counts it, or
ends with its last, its item decided and the pending arming active. R222's order: an aged descriptor before one that is not, the longest aged
first; then the least time-to-empty, then the longest eligible, then the lowest number. -/
def Obligations.StreamTransfers : Prop :=
  (∀ (s : State) (h d : Nat) (a : Arming), s.hallUp h = true → d < 4096 →
    (s.streams.map (·.1)).Pairwise (· < ·) → (s.stream h d).active = some a →
    s.eligible (s.stream h d) = true →
    (∀ k, k < 4096 → k ≠ d → s.eligible (s.stream h k) = true → candidateBefore (s.candidate h d) (s.candidate h k) = true) →
    ∃ s' b, exec (.streamGrant h) s = .next s' ∧ (s'.stream h d).active = some b ∧ b.granted = a.granted + 1 ∧
      b.flying = a.flying ++ [a.granted] ∧ b.completed = a.completed ∧ (s'.hall h).grants = (s.hall h).grants + 1 ∧ s'.sameBytes s ∧
      ∀ k, k < 4096 → k ≠ d → s.eligible (s.stream h k) = true →
        s'.stream h k = Stream.passedOver ((s.hall h).grants + 1) (s.candidate h k).st) ∧
  (∀ (s : State) (h d i : Nat) (rest : List Nat) (a : Arming) (t : Item) (answer : HostAnswer),
    (s.stream h d).active = some a → a.flying = i :: rest → s.item a.item = some t → s.transferDone h d i = true →
    s.transferHeld a i = false → s.cutOff t = false → s.transferFault a i answer = none →
    (∀ p ∈ a.entrySpans i, ∀ k, k ≤ p.2 → addrSpace (p.1 + k) ≠ 5) → (∀ b, (s.stream h d).pending = some b → b.item ≠ a.item) →
    ∃ s', exec (.streamTransferComplete h d answer) s = .next s' ∧
      (a.completed + 1 ≠ a.transfers →
        ∃ b, (s'.stream h d).active = some b ∧ b.completed = a.completed + 1 ∧ b.flying = rest ∧ b.granted = a.granted) ∧
      (a.completed + 1 = a.transfers →
        (∃ u, s'.item a.item = some u ∧ u.phase = .decided) ∧ (s'.stream h d).active = (s.stream h d).pending ∧
          (s'.stream h d).pending = none)) ∧
  (∀ x y : Candidate, x.st.agedAt.isSome = true → y.st.agedAt = none → candidateBefore x y = true ∧ candidateBefore y x = false) ∧
  (∀ x y : Candidate, x.st.agedAt = none → y.st.agedAt = none → x.tte < y.tte → candidateBefore x y = true ∧ candidateBefore y x = false) ∧
  (∀ (x y : Candidate) (a b : Nat), x.st.agedAt = some a → y.st.agedAt = some b →
    (candidateBefore x y = true ↔ a < b ∨ (a = b ∧ x.d < y.d))) ∧
  (∀ x y : Candidate, x.st.agedAt = none → y.st.agedAt = none → x.tte = y.tte →
    (candidateBefore x y = true ↔ x.st.since < y.st.since ∨ (x.st.since = y.st.since ∧ x.d < y.d)))

/-! ### The ledger, the tensor cache and error correction -/

/-- R216: of the admissible requests a ledger admits one that no other is to be admitted before: an aged one first, then the lowest
time-to-empty, then the oldest. It takes a slot; an admissible request that it passes over counts one loss more, and one that was not admissible
begins to count again. Stated where every request has a route (R28) and nothing merges into the one admitted. R214, R228, R230: the answer to a
write, or to a read outside the stacks found clean, frees its slot and changes no byte. R210: so does a hit in the tensor cache, and its line counts
as used. R209, R211: an answer that fills a line frees its slot and poisons nothing, and the line is in the cache, unless its context is at its quota
and has no line there, when the cache stays. -/
def Obligations.LedgerSlots : Prop :=
  (∀ (s : State) (h : Nat), (∀ q ∈ (s.ledger h).waiting, s.hallReaches h (addrHall q.address) = true) →
    ((∀ q ∈ (s.ledger h).waiting, s.admissible h q = false) ∧
      ∃ s', exec (.ledgerAdmit h) s = .next s' ∧ s'.ledger h = s.ledger h ∧ s'.sameBytes s ∧ s'.items = s.items) ∨
      ∃ r, r ∈ (s.ledger h).waiting ∧ s.admissible h r = true ∧
        (∀ q ∈ (s.ledger h).waiting, s.admissible h q = true → admitBefore q r = false) ∧
        ((∀ q ∈ (s.ledger h).waiting, mergesWith r q = false) →
          ∃ s', exec (.ledgerAdmit h) s = .next s' ∧ (s'.ledger h).slots = (s.ledger h).slots ++ [r] ∧
            (s'.ledger h).waiting = ((s.ledger h).waiting.filter fun q => q.id != r.id).map (fun q =>
              { q with lost := if s.admissible h q then q.lost + 1 else 0 }) ∧ s'.sameBytes s ∧ s'.items = s.items)) ∧
  (∀ (s : State) (h id : Nat) (r : Request) (e : Ecc), (s.ledger h).slot id = some r →
      (r.write = true ∨ r.cached = false ∧ s.hallLost (addrHall r.address) = false ∧ e = .clean) →
      ∃ s', exec (.ledgerResponse h id e) s = .next s' ∧ (s'.ledger h).slots = (s.ledger h).slots.filter (fun q => q.id != r.id) ∧
        s'.sameBytes s ∧ s'.items.map Item.name = s.items.map Item.name ∧ s'.knots = s.knots) ∧
  (∀ a b : Request, (8 ≤ a.lost → b.lost < 8 → admitBefore a b = true ∧ admitBefore b a = false) ∧
    (8 ≤ a.lost → 8 ≤ b.lost → (admitBefore a b = true ↔ a.id < b.id)) ∧
    (a.lost < 8 → b.lost < 8 →
      (∀ x y, a.tte = some x → b.tte = some y → (admitBefore a b = true ↔ x < y ∨ (x = y ∧ a.id < b.id))) ∧
      (∀ x, a.tte = some x → b.tte = none → admitBefore a b = true ∧ admitBefore b a = false) ∧
      (a.tte = none → b.tte = none → (admitBefore a b = true ↔ a.id < b.id)))) ∧
  (∀ (s : State) (h id : Nat) (r : Request) (c : CacheLine), (s.ledger h).slot id = some r → r.cached = true → s.requestHit r = some c →
      s.lineTaken r = false → s.hallLost (addrHall r.address) = false →
      ∃ s', exec (.ledgerResponse h id .clean) s = .next s' ∧ (s'.ledger h).slots = (s.ledger h).slots.filter (fun q => q.id != r.id) ∧
        ({ c with lastUse := (s.hall (addrHall r.address)).accesses + 1 } : CacheLine) ∈ s'.cache (addrHall r.address) ∧
        s'.sameBytes s ∧ s'.items.map Item.name = s.items.map Item.name ∧ s'.knots = s.knots) ∧
  (∀ (s : State) (h id : Nat) (r : Request), (s.ledger h).slot id = some r → r.allocates = true → (s.hall (addrHall r.address)).share ≠ 0 →
      s.requestHit r = none → s.lineTaken r = false → s.hallLost (addrHall r.address) = false →
      let th := addrHall r.address
      ∃ s', exec (.cacheFill h id .clean) s = .next s' ∧ (s'.ledger h).slot id = none ∧
        (s.atQuota r.owner = false → ∃ c ∈ s'.cache th, c.line = cacheLineIndex (addrOffset r.address) ∧ c.owner = r.owner ∧ c.hint = r.hint ∧
          c.keySlot = r.keySlot ∧ c.lastUse = (s.hall th).accesses + 1 ∧ ∀ d ∈ s'.cache th, d.line = c.line → d = c) ∧
        (s.atQuota r.owner = true → (∀ c ∈ s.cache th, c.owner ≠ r.owner) → s'.cache th = s.cache th) ∧
        s'.items.map Item.name = s.items.map Item.name ∧ s'.knots = s.knots ∧ s'.poison = s.poison)

/-- R228, R231, R232: a scrubber reads its units in address order, the next unit alone, and begins again behind its last; a stack's waits 65,536 ns of newel
time between two reads. A read that finds an uncorrectable error poisons the word, raises event 0 of its memory's page and records
`ST_ECC_UNCORR`, but not in the tensor-cache range, which poisons nothing (R229); one that finds a single-bit error notes the word for its write-back
and raises event 1; a clean one changes no word. The event bits are R349's. The write-back takes the word off the list. No byte of memory changes but a
context's charge. Where a scrubber begins again, and that an error shows at the word that the scrub read names, is the model's inference (log 23,
DEDUCED). -/
def Obligations.ScrubReads : Prop :=
  (∀ (s : State) (a : Nat) (c : Ecc → Instr),
    (∃ w, c = Instr.sramScrubRead w ∧ a = w / 64 * 64 ∧ addrSpace w < 2 ∧ addrShapeOk w = true ∧ s.hallHere (addrHall w) = true) ∨
    (∃ h o, c = Instr.hbmScrubRead h o ∧ a = hbmAddr h (o / 64 * 64) ∧ h < 8 ∧ s.hallHere h = true ∧ o < stackSize ∧
      ((s.scrubber (scrubUnit a).1).last = 0 ∨ (s.scrubber (scrubUnit a).1).last + 65536 ≤ s.newel.time.toNat + 1)) →
    s.awake = true → (s.scrubber (scrubUnit a).1).next = (scrubUnit a).2.1 → (addrSpace a = 0 ∨ s.targetIdle (ledgerTarget a) = true) →
    (∀ e, ∃ s', exec (c e) s = .next s' ∧ (∀ x, ¬s.chargeByte x → s'.mem.read x = s.mem.read x) ∧
      (s'.scrubber (scrubUnit a).1).next = if (scrubUnit a).2.1 + 1 = (scrubUnit a).2.2 then 0 else (scrubUnit a).2.1 + 1) ∧
    (∀ i, i < 8 → s.hitsCacheRange a 64 = false → ∃ s', exec (c (.uncorrectable i)) s = .next s' ∧ a + 8 * i ∈ s'.poison ∧
      (s'.page (memoryPage (a + 8 * i)).1).raw.getLsbD 0 = true ∧ (s'.page (memoryPage (a + 8 * i)).1).raw.getLsbD 31 = true ∧
      0 < (s'.page (memoryPage (a + 8 * i)).1).count.toNat ∧ s'.mem = s.mem) ∧
    (∀ i, s.hitsCacheRange a 64 = true → ∃ s', exec (c (.uncorrectable i)) s = .next s' ∧ s'.poison = s.poison) ∧
    (∀ i, i < 8 → ∃ s', exec (c (.corrected i)) s = .next s' ∧ a + 8 * i ∈ s'.corrected ∧
      (s'.page (memoryPage (a + 8 * i)).1).raw.getLsbD 1 = true ∧ s'.poison = s.poison ∧ s'.mem = s.mem) ∧
    (∃ s', exec (c .clean) s = .next s' ∧ s'.poison = s.poison ∧ s'.corrected = s.corrected ∧ s'.mem = s.mem)) ∧
  (∀ (s : State) (h o : Nat) (e : Ecc),
    let k := (scrubUnit (hbmAddr h (o / 64 * 64))).1
    (s.scrubber k).last ≠ 0 → s.newel.time.toNat + 1 < (s.scrubber k).last + 65536 → exec (.hbmScrubRead h o e) s = .next s) ∧
  (∀ (s : State) (w : Nat), exec (.correctedWriteback w) s = .next { s with corrected := removeNat s.corrected w })

/-! ### The selvedges -/

/-- R365: an instruction of a selvedge program puts its result into register d, taken modulo 64, of a selvedge that is present while the module
is READY, and changes nothing else; REPEAT runs its body that many times. -/
def Obligations.SelvedgeInstructions : Prop :=
  ∀ (s : State) (p d a b c : Nat) (imm : W32), s.ready = true → s.selvPresent p = true →
    let q : Nat → W32 := Regs.q (s.selv p).regs
    let gives : Instr → W32 → Prop := fun i v => ∃ s', exec i s = .next s' ∧ s.slvWrote s' p d v
    gives (.fma p d a b c) (fma32 (q a) (q b) (q c)) ∧ gives (.add p d a b) (add32 (q a) (q b)) ∧
      gives (.sub p d a b) (sub32 (q a) (q b)) ∧ gives (.mul p d a b) (mul32 (q a) (q b)) ∧
      gives (.div p d a b) (div32 (q a) (q b)) ∧ gives (.sqrt p d a) (sqrt32 (q a)) ∧
      gives (.min p d a b) (min32 (q a) (q b)) ∧ gives (.max p d a b) (max32 (q a) (q b)) ∧
      gives (.abs p d a) (abs32 (q a)) ∧ gives (.neg p d a) (neg32 (q a)) ∧
      ((dec32 (q a)).lt (dec32 (q b)) = true → gives (.lt p d a b) 0x3F800000) ∧
      ((dec32 (q a)).lt (dec32 (q b)) = false → gives (.lt p d a b) 0) ∧
      ((dec32 (q c)).isZero = false → dec32 (q c) ≠ .nan → gives (.sel p d a b c) (q a)) ∧
      ((dec32 (q c)).isZero = true ∨ dec32 (q c) = .nan → gives (.sel p d a b c) (q b)) ∧
      gives (.const p d imm) imm ∧ gives (.exp p d a) (exp32 (q a)) ∧ gives (.ln p d a) (ln32 (q a)) ∧
      gives (.pow p d a b) (pow32 (q a) (q b)) ∧
      ∀ (n : Nat) (body : List W64), exec (.repeatBlock p n body) s =
        .next (s.modSelv p fun v => { v with regs := Nat.repeat (fun r => Regs.program r body) n v.regs })

/-- R240, R248: an update that nothing refuses begins with the record of its context as it stands and the step number: c + 1 where the root's
counter agrees, c_root + 1 where it adopts; rule 1 forms its factors first (R250); a held one fails with `ST_STEP_HELD` and leaves the selvedge. R254: a
block whose elements have arrived is updated, the next one follows, and no byte but the block's changes; where its places stand apart, each element
of the adapter window but a kept one holds the code of its p, and the moment windows the KM8 blocks of m and of the roots of v (R243, R246); one that
a lost peer leaves incomplete fails the item. An element that is kept stays as it is (R245); another becomes what its program's registers say (R365),
or what the standard rule makes of its gradient, preconditioned where the update has factors (R244, R251): clipped, the moments averaged, their
bias taken off by the powers of the betas, and p moved by lr. R250: the factor of a matrix is Cholesky's at the first λ at which it succeeds. R247,
R248: the counter after an update is the step of the closing slot, else the root's where the update adopted it. R249, R252: at its end the update leaves the queue, its item is decided, and its counter is written only if the context still
holds what the update read; no byte outside the counter and the use of the record changes. -/
def Obligations.SelvedgeUpdates : Prop :=
  (∀ (s : State) (p : Nat) (u : Update) (us : List Update), (s.selv p).run = none → (s.selv p).queue = u :: us → s.ready = true →
    s.selvPresent p = true → s.updateLive u = true → s.updateRefusal p u = none →
    let r := s.ctx u.context
    let g := s.updGroup u
    let fn := s.itemFunction u.item
    ((ctxCounter r = u.rootCounter ∨ ctxHold r = false) →
      (ctxRule r g = 1 → (∀ q ∈ (s.otherRead u).all, s.hitsZeroing q.1 q.2 = false) ∧ s.readFault fn true [s.otherRead u] = none) →
      ∃ s' run, exec (.selvedgeUpdateBegin p) s = .next s' ∧ (s'.selv p).run = some run ∧ run.record = r ∧ run.group = g ∧ run.next = 0 ∧
        run.counter = ctxCounter r ∧ run.t = u.rootCounter + 1 ∧ (run.adopted = true ↔ ctxCounter r ≠ u.rootCounter) ∧
        run.factors = (if ctxRule r g = 1 then (s.factorsOf fn u (groupOf r g).eps).1.getD [] else []) ∧
        run.program = (if ctxRule r g = 2 then s.boundProgram p u.context g else none) ∧
        (s'.selv p).queue = u :: us ∧ s'.sameBytes s ∧ s.sameRegisters s' ∧ s'.knots = s.knots ∧ s'.windows = s.windows) ∧
    (ctxCounter r ≠ u.rootCounter → ctxHold r = true → (∀ t, s.item u.item = some t → t.failedAt = none ∧ t.caller = none) →
      ∃ s', exec (.selvedgeUpdateBegin p) s = .next s' ∧ s'.failedWith u.item .stepHeld ∧ (s'.selv p).queue = us ∧
        (s'.selv p).run = none ∧ s'.sameBytes s ∧ s'.windows = s.windows)) ∧
  (∀ (s : State) (p : Nat) (u : Update) (us : List Update) (run : UpdateRun), (s.selv p).run = some run → (s.selv p).queue = u :: us →
    s.updateLive u = true → 128 * run.next < u.total → s.selvWaits p u = false →
    let w := s.adapterOf u
    let m1 := s.momentOf u false
    let m2 := s.momentOf u true
    let e := u.first + 128 * run.next
    let mu := s.momentIndex u e
    let fn := s.itemFunction u.item
    (blockArrived u run (s.gradOf u) run.next = true → s.blockHeld u run.next = false → s.blockFault p u run.next = none →
      (∀ q ∈ updatePlaces w m1 m2 e mu, addrSpace q.1 ≠ 5) →
      ∃ s' run', exec (.selvedgeBlockUpdate p) s = .next s' ∧ (s'.selv p).run = some run' ∧ run'.next = run.next + 1 ∧ run'.t = run.t ∧
        (s'.selv p).queue = u :: us ∧ s'.items.map Item.name = s.items.map Item.name ∧ s'.knots = s.knots ∧ s'.windows = s.windows ∧
        ((s.access fn w).keys = none → (s.access fn m1).keys = none → (s.access fn m2).keys = none → ∀ x,
          outsideAll fn (updatePlaces w m1 m2 e mu) x → ¬s.chargeByte x → s'.mem.read x = s.mem.read x) ∧
        (formatBits (winFormat w) = 16 → winFormat m1 = 0x0C → winFormat m2 = 0x0D →
          (∀ v ∈ [w, m1, m2], (s.access fn v).keys = none) →
          (updatePlaces w m1 m2 e mu).Pairwise (fun a b => apart (hostKey fn a.1) a.2 (hostKey fn b.1) b.2) →
          (∀ a ∈ updatePlaces w m1 m2 e mu, ∀ i, i < a.2 → ¬s.recordByte (hostKey fn a.1 + i)) →
          let outs := s.blockOuts u run
          let b1 := km8Block false (outs.map (·.m))
          let b2 := km8Block true ((outs.map (·.v)).map sqrt32)
          (leNat (s'.mem.readBytes (hostKey fn (km8Addr m1 mu)) 2) = b1.1 ∧ leNat (s'.mem.readBytes (hostKey fn (km8Addr m2 mu)) 2) = b2.1) ∧
          ∀ (j : Nat) (o : ElemOut), outs[j]? = some o →
            s'.codeLinear ⟨none, none, fn⟩ w (e + j) =
              (if o.kept then s.codeLinear ⟨none, none, fn⟩ w (e + j)
               else (convertPlain (winFormat w) (adapterConv u run.t o.stochastic) (e + j) o.p one32).code) ∧
            s'.codeLinear ⟨none, none, fn⟩ m1 (mu + j) = b1.2.1.getD j 0 ∧ s'.codeLinear ⟨none, none, fn⟩ m2 (mu + j) = b2.2.1.getD j 0)) ∧
    (∀ st, blockArrived u run (s.gradOf u) run.next = false → u.cut = some st →
      (∀ t, s.item u.item = some t → t.failedAt = none ∧ t.caller = none) →
      ∃ s', exec (.selvedgeBlockUpdate p) s = .next s' ∧ s'.failedWith u.item st ∧ s'.sameBytes s ∧ s'.windows = s.windows)) ∧
  (∀ (s : State) (p : Nat) (u : Update) (us : List Update) (run : UpdateRun) (t : Item), (s.selv p).run = some run →
    (s.selv p).queue = u :: us → s.item u.item = some t → t.phase = .external → u.total ≤ 128 * run.next → s.selvWaits p u = false →
    s.holdsFor u.item = false → s.ctxHere u.context = true → u.cut = none →
    let after := counterAfter u run (closingSlot (s.slotRecord u))
    ∃ s', exec (.selvedgeUpdateEnd p) s = .next s' ∧ (s'.selv p).run = none ∧ (s'.selv p).queue = us ∧ s'.doneWith u.item t.bytes ∧
      (∀ v, after = some v → ctxCounter (s.ctx u.context) = run.counter → ctxCounter (s'.ctx u.context) = v) ∧
      (after = none ∨ ctxCounter (s.ctx u.context) ≠ run.counter → ctxCounter (s'.ctx u.context) = ctxCounter (s.ctx u.context)) ∧
      (∀ x, (x < s.ctxAddr u.context + 8 ∨ s.ctxAddr u.context + 16 ≤ x) → (x < s.ctxAddr u.context + 60 ∨ s.ctxAddr u.context + 64 ≤ x) →
        s'.mem.read x = s.mem.read x) ∧ s'.knots = s.knots ∧ s'.windows = s.windows) ∧
  ((∀ (u : Update) (run : UpdateRun) (closing : Nat), (closing = u.slot → counterAfter u run closing = some run.t) ∧
      (closing ≠ u.slot → run.adopted = true → counterAfter u run closing = some u.rootCounter) ∧
      (closing ≠ u.slot → run.adopted = false → counterAfter u run closing = none)) ∧
    (∀ (r : BitVec 4096) (i : Nat), i < 8 → ctxSlotValid r i = true → i ≤ closingSlot r ∧ ctxSlotValid r (closingSlot r) = true) ∧
    (∀ (u : Update) (run : UpdateRun) (grad : Block512) (i : Nat) (p m v : W32),
      let k := groupOf run.record run.group
      let out := updateElem u run grad i p m v
      let rule : W32 → W32 × W32 × W32 := fun g => standardRule k (betaPower k.b1 run.t) (betaPower k.b2 run.t) g p m v
      (u.isKept i = true → out.p = p ∧ out.m = m ∧ out.v = v ∧ out.kept = true) ∧
      (u.isKept i = false → out.kept = false ∧
        (run.program = none → run.factors = [] → (out.p, out.m, out.v) = rule (u.grad i) ∧ out.stochastic = true) ∧
        (run.program = none → run.factors ≠ [] → (out.p, out.m, out.v) = rule (precondGrad u grad run.factors i) ∧ out.stochastic = true) ∧
        (∀ ws rounding, run.program = some (ws, rounding) →
          let q := ((startRegs u k run.t (u.grad i) p m v).program ws).q
          out.p = q 1 ∧ out.m = q 2 ∧ out.v = q 3 ∧ (out.stochastic = true ↔ rounding = 1 ∨ (rounding = 2 ∧ q 15 ≠ 0))))) ∧
    (∀ (u : Update) (i : Nat), (u.isKept i = true ↔ (dec32 (u.reduced.getD i zero32)).isFinite = false) ∧
      u.grad i = mul32 (u.reduced.getD i zero32) (if u.globalBatch = 0 then one32 else rneQ false 1 u.globalBatch.toNat 0)) ∧
    (∀ (k : GroupValues) (b1t b2t g p m v : W32),
      let c := if (Val.fin false 0 0).lt (dec32 k.clip) then min32 (max32 g (neg32 k.clip)) k.clip else g
      let m' := add32 (mul32 k.b1 m) (mul32 (sub32 one32 k.b1) c)
      let v' := add32 (mul32 k.b2 v) (mul32 (sub32 one32 k.b2) (mul32 c c))
      (standardRule k b1t b2t g p m v).2 = (m', v') ∧
      (standardRule k b1t b2t g p m v).1 =
        sub32 p (mul32 k.lr (add32 (div32 (div32 m' (sub32 one32 b1t)) (add32 (sqrt32 (div32 v' (sub32 one32 b2t))) k.eps)) (mul32 k.wd p)))) ∧
    (∀ (eps : W32) (a : List (List W32)) (f : List (List W32)) (n : Nat), factorise eps a = (some f, n) →
      ∃ lam, (lam, n) ∈ lambdas (lambda0 eps a) ∧ cholesky a lam = some f ∧
        ∀ x ∈ lambdas (lambda0 eps a), x.2 < n → cholesky a x.1 = none))

/-- R191: `UPDATE_BIND` binds its program to the group of the context in every present selvedge. `STATS_SNAP` writes the 32 bytes of the
statistics record into its window. R237, R255: a load of an image that keeps the rules of R364 and R365, to an index of 512 or above, is under
way, and complete once every copy is, stated for an image that is not being zeroed (R212): the program of its index is then the image's. A load of
any other image is refused: `ST_ACCESS`, or `ST_ENGINE_ABSENT` for an image in an absent hall (R37), is recorded with the index in `PG_FAULT_INFO0`,
and no program changes. A write with an index below 512 is refused whole, with the register as it was: R346 refuses a value outside a field's range,
and that 512 to 1,023 is such a range is the model's inference (log 28, DEDUCED). -/
def Obligations.SelvedgeTablesAndPrograms : Prop :=
  ((∀ (s : State) (it : ItemId) (t : Item), Runs s it .updateBind t →
      let k := 8 * fieldNat t.desc 128 16 + fieldNat t.desc 144 3
      ∃ s', exec (.updateBind it) s = .next s' ∧ s'.doneWith it t.bytes ∧ s'.sameBytes s ∧ s.sameRegisters s' ∧ s'.knots = s.knots ∧
        s'.windows = s.windows ∧
        (∀ p, s.selvPresent p = true → ∀ j, Table.get 0 (s'.selv p).binds j =
          if j = k then fieldNat t.desc 160 10 else Table.get 0 (s.selv p).binds j) ∧
        ∀ p, s.selvPresent p = false → s'.selv p = s.selv p) ∧
    (∀ (s : State) (it : ItemId) (t : Item), Runs s it .statsSnap t →
      let p := byteField t.desc 19 1
      let w := t.winD 20
      let fn := s.itemFunction it
      let wr : Read := ⟨word32 t.desc 20, w, [0], 0, 32⟩
      s.readFault fn false [wr] = none → (s.selv p).unserved = false → s.selvServed p = true → s.writeReady wr = true →
      ∃ s', exec (.statsSnap it) s = .next s' ∧ s'.doneWith it (t.bytes + 32) ∧ s.sameRegisters s' ∧ s'.knots = s.knots ∧
        s'.windows = s.windows ∧ s'.selvs = s.selvs ∧
        (addrSpace (winBase w) ≠ 2 → (s.access fn w).keys = none →
          s'.mem.readBytes (hostKey fn (winBase w)) 32 =
            statsBytes (Table.get Stats.zero (s.selv p).stats (8 * fieldNat t.desc 128 16 + fieldNat t.desc 144 3)) ∧
          ∀ x, x < hostKey fn (winBase w) ∨ hostKey fn (winBase w) + 32 ≤ x → s'.mem.read x = s.mem.read x))) ∧
  ((∀ (s : State) (v : W32), s.ready = true → s.slvCtl.load = none → v.getLsbD 16 = true →
      let i := fieldNat v 0 10
      let loaded : State := { s with slvCtl := { s.slvCtl with index := field v 0 10 } }
      let refusedAs : BitVec 8 → Prop := fun code => ∃ s', exec (.selvedgeProgLoad v) s = .next s' ∧ s'.progs = s.progs ∧ s'.slvCtl.load = none ∧
        (s'.page (pgSelvedge 12)).raw.getLsbD 31 = true ∧
        ((s.page (pgSelvedge 12)).count = 0 → (s'.page (pgSelvedge 12)).code = code ∧
          (s'.page (pgSelvedge 12)).info0 = BitVec.ofNat 32 i ∧ (s'.page (pgSelvedge 12)).count = 1) ∧ s'.sameBytes s
      (∀ bs, 512 ≤ i → s.addrAbsent s.slvCtl.src.toNat = false → loaded.programImage = some bs → slvImageOk bs = true →
        exec (.selvedgeProgLoad v) s =
          .next { s with slvCtl := { s.slvCtl with index := field v 0 10, load := some (i, imageWords bs, bs.getD 3 0) } }) ∧
      (512 ≤ i → s.addrAbsent s.slvCtl.src.toNat = true → refusedAs 0x13) ∧
      (i < 512 → refusedAs 0x21 ∧ ∃ s', exec (.selvedgeProgLoad v) s = .next s' ∧ s'.slvCtl = s.slvCtl) ∧
      (512 ≤ i → s.addrAbsent s.slvCtl.src.toNat = false → (∀ bs, loaded.programImage = some bs → slvImageOk bs = false) → refusedAs 0x21)) ∧
    (∀ (s : State) (i : Nat) (ws : List W64) (rounding : BitVec 8), s.slvCtl.load = some (i, ws, rounding) →
      s.hitsZeroing s.slvCtl.src.toNat (64 + 8 * ws.length) = false →
      ∃ s', exec .selvedgeProgLoadDone s = .next s' ∧ Table.get none s'.progs i = some (ws, rounding) ∧
        (∀ j, j ≠ i → Table.get none s'.progs j = Table.get none s.progs j) ∧ s'.slvCtl.load = none ∧ s'.sameBytes s ∧ s'.selvs = s.selvs))

/-! ### Flights, remote writes and collectives -/

/-- R266–R268: how a port comes up: enabled it trains; trained it enters HELLO; its hellos say what it is; a peer that passes every check takes it
to AWAIT_ADMIT, one that fails a check holds it in HELLO with the reason in `MISMATCH`, and another peer than the one shown takes it back to
AWAIT_ADMIT, each raising the port's event 0; `ADMIT` takes it to ADMIT_PENDING and `REJECT` to DISABLED with `ENABLE` clear; with no collective open
on its axis it is admitted; and it is UP, with all its credits, when both ends are. No other port, item or byte changes. That another peer takes the
approval back, that a failing hello returns the port to HELLO, and the states in which `REJECT` acts, are the model's choices (log 33); so are the 192
and 32 datagrams of 8 KiB that the credits count (log 31). -/
def Obligations.LinksComeUp : Prop :=
  ∀ (s : State) (p : Nat), s.flightOut p = false →
    let f := s.flight p
    let becomes : Instr → (Flight → Prop) → Prop := fun c g => ∃ s', exec c s = .next s' ∧ g (s'.flight p) ∧
      (∀ q, q ≠ p → s'.flight q = s.flight q) ∧ s'.sameBytes s ∧ s'.items = s.items
    (f.link.sendsHello = true → f.paused = 0 → exec (.helloSend p) s = .next (s.emit (s.response p (.hello (s.helloOf p))))) ∧
    (∀ v : W32, f.enable = false → v.getLsbD 0 = true → s.axisSize (portAxis p) ≠ 1 →
      becomes (.flightEnable p v) fun g => g = { f with enable := true, mode := v.getLsbD 1, link := .training, mismatch := 0 }) ∧
    (f.enable = true → (f.link = .training ∨ f.link = .down) →
      becomes (.linkTrained p) fun g => g = { f with link := .hello, admitted := false, peerAdmitted := false }) ∧
    (∀ h, f.enable = true →
      (f.link = .hello ∨ (f.link = .awaitAdmit ∨ f.link = .admitPending) ∧ f.peerSerial ≠ h.serial) → s.helloMismatch p h = 0 →
      becomes (.helloReceive p h) (fun g => g.link = .awaitAdmit ∧ g.mismatch = 0 ∧ g.peerSerial = h.serial ∧ g.admitted = false) ∧
      ∃ s', exec (.helloReceive p h) s = .next s' ∧ (s'.page (pgFlight p)).raw.getLsbD 0 = true) ∧
    (∀ h, f.enable = true → f.link.sendsHello = true → f.link ≠ .up → s.helloMismatch p h ≠ 0 →
      becomes (.helloReceive p h) (fun g => g.link = .hello ∧ g.mismatch = s.helloMismatch p h ∧ g.admitted = false) ∧
      ∃ s', exec (.helloReceive p h) s = .next s' ∧ (s'.page (pgFlight p)).raw.getLsbD 0 = true) ∧
    (f.link = .awaitAdmit → becomes (.flightAdmit p) fun g => g = { f with link := .admitPending }) ∧
    ((f.link = .awaitAdmit ∨ f.link = .admitPending) →
      becomes (.flightReject p) fun g => g.link = .disabled ∧ g.enable = false ∧ g.admitted = false) ∧
    (f.link = .admitPending → f.admitted = false → (∀ c ∈ s.colls, c.axis ≠ portAxis p) →
      becomes (.admitPendingRelease p) fun g => g.admitted = true ∧ (g.link = if f.peerAdmitted then .up else .admitPending)) ∧
    (∀ h, f.enable = true → f.link = .admitPending → f.admitted = true → h.admitted = true → f.peerSerial = h.serial →
      s.helloMismatch p h = 0 →
      becomes (.helloReceive p h) fun g => g.link = .up ∧ g.credits = 192 ∧ g.xcredits = 32 ∧ g.admitted = true)

/-- R269, R270: a port that is UP and has heard nothing for its link timeout of newel time goes to DOWN, or to DISABLED when `ENABLE` is clear, raises
its event 0 and counts one loss, and every collective whose group includes the link fails with `ST_PEER_LOST`; before that nothing happens. So
they fail on a loss notice, which goes on round the axis, and with them a `RECV` that names the axis (R187). Stated for collectives without a running
update and with no send open. R259: a frame of another EtherType or priority is counted and dropped; a PFC frame pauses
priorities 4 to 7. R265: credits come back, at most to the full buffers, and each request taken in gives
one back to the peer. R262, R270: an express datagram goes on over the next link of its route, its branch noted with the receivers beyond as its first
datagram passes, or a negative acknowledgement goes back; R278: on a branch that has been pruned nothing more goes on. That credits count 192 and 32
datagrams of 8 KiB, and that a credit goes back as a datagram of its own, is the model's choice (log 31); so is that a PTP frame is taken on any
priority (log 56), and that a link timeout counts from what was last heard (log 33). -/
def Obligations.LinkLossAndFrames : Prop :=
  (∀ (s : State) (p : Nat), s.portUp p = true →
    let f := s.flight p
    (s.newel.time.toNat < f.heardAt.toNat + 10000 * f.linkTo.toNat → exec (.linkDown p) s = .next s) ∧
    (f.heardAt.toNat + 10000 * f.linkTo.toNat ≤ s.newel.time.toNat →
      ∃ s', exec (.linkDown p) s = .next s' ∧ (s'.flight p).link = (if f.enable then .down else .disabled) ∧
        (s'.page (pgFlight p)).raw.getLsbD 0 = true ∧ s'.counter (pgFlight p) 0x21 = s.counter (pgFlight p) 0x21 + 1 ∧
        ((∀ x ∈ s.txs, x.catchUp = false) → s'.sameBytes s) ∧ s'.knots = s.knots ∧ (∀ x ∈ s'.rxs, x.port ≠ p) ∧
        (∀ x ∈ s'.transits, x.port ≠ p ∧ x.out ≠ p) ∧ (∀ x ∈ s'.passages, x.port ≠ p ∧ x.out ≠ p) ∧
        (s.txs = [] → (∀ i, s.updateRuns i = false) → (∀ u ∈ s.items, u.caller = none ∧ u.failedAt = none) → ∀ c ∈ s.colls,
          (s.item c.item).isSome = true → s.portLink p ∈ s.groupLinks c.axis c.tag c.group → s'.failedWith c.item .peerLost))) ∧
  (∀ (s : State) (p : Nat) (a : Axis) (c l : Nat), s.txs = [] → (∀ i, s.updateRuns i = false) →
    (∀ u ∈ s.items, u.caller = none ∧ u.failedAt = none) →
    let onward := axisPort a (!portPlus p) (p % 2)
    ∃ s', exec (.lossNotice p a c l) s = .next s' ∧ s'.sameBytes s ∧ s'.knots = s.knots ∧
      (∀ k ∈ s.colls, (s.item k.item).isSome = true → (⟨a, c, l⟩ : LinkId) ∈ s.groupLinks k.axis k.tag k.group →
        s'.failedWith k.item .peerLost) ∧
      (∀ t, s.item t.id = some t → recvOnAxis a t = true → s'.failedWith t.id .peerLost) ∧
      (s.colls = [] → s.items = [] → (s.flight onward).paused = 0 → s'.out = s.out ++
        if s.coord a ≠ c ∧ s.coord a ≠ (c + 1) % s.axisSize a ∧ s.portUp onward = true then
          [s.response onward (.loss a c l) false (s.arrivedVc p (if portPlus p then c else (c + 1) % s.axisSize a))] else [])) ∧
  (∀ (s : State) (p : Nat) (ty : BitVec 16) (prio : Nat), s.flightAbsent p = false → (s.flight p).mode = true → (s.flight p).link ≠ .disabled →
    (ty = 0x88F7 ∨ (ty = 0x88B5 ∧ 4 ≤ prio ∧ prio ≤ 7) → exec (.frameReceive p ty prio) s = .next (s.hear p)) ∧
    (ty ≠ 0x88F7 → (ty ≠ 0x88B5 ∨ prio < 4 ∨ 7 < prio) → exec (.frameReceive p ty prio) s = .next (s.bump (pgFlight p) 0x20 1))) ∧
  (∀ (s : State) (p : Nat) (b : BitVec 8), s.flightAbsent p = false → (s.flight p).mode = true → (s.flight p).held = [] →
    (s.flight p).replies = [] →
    ∃ s', exec (.pfcFrame p b) s = .next s' ∧ s'.flight p = { s.flight p with paused := b &&& 0xF0 } ∧
      (∀ q, q ≠ p → s'.flight q = s.flight q) ∧ s'.out = s.out) ∧
  (∀ (s : State) (p n : Nat) (express : Bool), s.portUp p = true → (s.flight p).held = [] → (s.flight p).replies = [] → s.colls = [] →
    ∃ s', exec (.creditReceive p n express) s = .next s' ∧
      (s'.flight p).credits = (if express then (s.flight p).credits else Nat.min 192 ((s.flight p).credits + n)) ∧
      (s'.flight p).xcredits = (if express then Nat.min 32 ((s.flight p).xcredits + n) else (s.flight p).xcredits) ∧
      (∀ q, q ≠ p → s'.flight q = s.flight q) ∧ s'.out = s.out) ∧
  (∀ (s : State) (portIn vc origin length stall : Nat) (dest : W64) (data : List Byte) (q : Nat) (ls : List LinkId),
    s.route true dest.toNat = some (q, ls) → s.ready = true → s.portUp portIn = true → (s.flight portIn).paused = 0 → (s.flight portIn).inbox = [] →
    let prio := priorityOf true (s.linkVc q (if portAxis q = portAxis portIn then vc else 0))
    let credit := s.creditBack portIn (priorityOf true vc)
    (s.portUp q = false → ∃ s', exec (.expressForward portIn vc origin [dest] data length stall) s = .next s' ∧
      s'.out = s.out ++ [credit, s.response portIn (.nack origin .peerLost) true] ∧ s'.items = s.items ∧ s'.sameBytes s) ∧
    (s.portUp q = true → (s.flight q).clear origin → (length ≠ 0 ∨ s.passage origin q = none ∨ ∃ x, s.passage origin q = some x ∧ x.pruned = false) →
      ∃ s', exec (.expressForward portIn vc origin [dest] data length stall) s = .next s' ∧
        s'.out = s.out ++ [credit, s.requestOut q prio (.forwarded origin [dest] data length stall)] ∧
        (s'.flight q).xcredits = (s.flight q).xcredits - 1 ∧ s'.items = s.items ∧ s'.sameBytes s ∧
        (length ≠ 0 → s'.passage origin q = some ⟨portIn, origin, q, [dest], stall, false⟩)) ∧
    (∀ x, s.portUp q = true → length = 0 → s.passage origin q = some x → x.pruned = true →
      ∃ s', exec (.expressForward portIn vc origin [dest] data length stall) s = .next s' ∧ s'.out = s.out ++ [credit] ∧
        s'.items = s.items ∧ s'.sameBytes s))

/-- R276: a remote write is accepted whole, or refused whole with the first status that applies: `ST_ENGINE_ABSENT` for a hall that is not here,
`ST_WINDOW_CLOSED` for a window that is closed or of another generation, and what R37 says of the window's base. R187, R277: an accepted write's
bytes land in order at its place in the window and the arrival count rises by them; no byte outside them changes; it waits while their granules are
not empty (R203) or are being zeroed (R212). R37, R276: an accepted write lies within its window and its region, in the window's format. R288, R319: a
write that stops is dropped with a negative acknowledgement, as where its hall is lost; a sealed chunk is kept until it is whole, and one whose tag
fails is dropped with `ST_KEY`. R262: an axis-class write for another module of the axis goes on by the next port, and so does what follows it; of a
write that is neither here nor on its way nothing is kept. That a datagram is noted in the receive buffer while it waits, and that each taken in gives
its credit back, is the model's choice (log 31); so are the base refusals (log 20) and the rule of the acknowledgements (log 32). -/
def Obligations.RemoteWrites : Prop :=
  (∀ (s : State) (p : Nat) (h : RemoteHead), s.ready = true → s.portUp p = true → s.addressedHere h.address.toNat = true →
    let w := s.window (windowKey (peerHall h.address.toNat) (peerWindow h.address.toNat))
    let taken := s.takeIn p h.origin (priorityOf h.express h.vc)
    (s.acceptRefusal h = none → exec (.remoteWriteAccept p h) s = .next { taken with
      rxs := s.rxs ++ [⟨p, h, windowKey (peerHall h.address.toNat) (peerWindow h.address.toNat), 0, [], []⟩] }) ∧
    (∀ st, s.acceptRefusal h = some st → (s.flight p).paused = 0 →
      exec (.remoteWriteAccept p h) s = .next (taken.emit (s.response p (.nack h.origin st) h.express))) ∧
    (s.acceptRefusal h = none → winFormat w = h.sourceFormat ∧ peerOffset h.address.toNat + h.sourceBytes ≤ winExtent w ∧
      (h.sourceBytes ≠ 0 → rangeOk (winBase w + peerOffset h.address.toNat) h.sourceBytes = true)) ∧
    (s.hallHere (peerHall h.address.toNat) = false → s.acceptRefusal h = some .engineAbsent) ∧
    (s.hallHere (peerHall h.address.toNat) = true → (winOpen w = false ∨ winGen w ≠ h.generation) → s.acceptRefusal h = some .windowClosed) ∧
    (∀ st, s.hallHere (peerHall h.address.toNat) = true → winOpen w = true → winGen w = h.generation →
      (h.sourceOwner = operatorOwner ∨ winOwner w = h.sourceOwner) → s.baseRefusal (winBase w) = some st → s.acceptRefusal h = some st)) ∧
  (∀ (s : State) (p origin : Nat) (data : List Byte) (r : Receiving), s.ready = true → s.portUp p = true →
    s.rxs.find? (fun r => r.port == p && r.head.origin == origin) = some r →
    let w := s.window r.windowKey
    let a := winBase w + peerOffset r.head.address.toNat + r.got
    let bs := data.take (r.head.sourceBytes - r.got)
    let n := if r.head.sealedPush then r.chunkLength - 16 else bs.length
    (s.hallLost (r.windowKey / 65536) = true → s.writeStop r n = some .hallLost) ∧
    (s.writeStop r n = none → r.head.sealedPush = false →
      (s.writeHeld a bs.length = true → exec (.remoteDatagram p origin data) s = .next (s.bufferIn p origin r.priority)) ∧
      (addrSpace a ≠ 5 → s.writeHeld a bs.length = false →
        ∃ s', exec (.remoteDatagram p origin data) s = .next s' ∧ s'.arrival r.windowKey = s.arrival r.windowKey + bs.length ∧
          (∀ x ∈ s'.rxs, x.port = p → x.head.origin = origin → x.got = r.got + bs.length) ∧ s'.windows = s.windows ∧ s'.knots = s.knots ∧
          (addrSpace (winBase w) ≠ 2 → addrSpace a ≠ 2 → (s.access 0 w).keys = none → s'.mem.readBytes a bs.length = bs ∧
            ∀ x, x < a ∨ a + bs.length ≤ x → s'.mem.read x = s.mem.read x))) ∧
    (∀ st, s.writeStop r n = some st → (s.flight p).paused = 0 →
      ∃ s', exec (.remoteDatagram p origin data) s = .next s' ∧ (∀ x ∈ s'.rxs, ¬(x.port = p ∧ x.head.origin = origin)) ∧
        s.response p (.nack origin st) r.head.express ∈ s'.out ∧ s'.sameBytes s) ∧
    (s.writeStop r n = none → r.head.sealedPush = true → (r.chunk ++ data).length < r.chunkLength →
      ∃ s', exec (.remoteDatagram p origin data) s = .next s' ∧ s'.sameBytes s ∧ s'.items = s.items ∧
        ∀ x ∈ s'.rxs, x.port = p → x.head.origin = origin → x.chunk = r.chunk ++ data) ∧
    (s.writeStop r n = none → r.head.sealedPush = true → r.chunkLength ≤ (r.chunk ++ data).length →
      s.writeHeld a (r.chunkLength - 16) = false →
      let sealedChunk := (r.chunk ++ data).take r.chunkLength
      let opened := (s.dataKey (s.keySlotOf (winOwner w))).bind fun k =>
        gcmOpen (pushKey k r.head.context r.head.pushNonce) (pushIv r.head.pushCounter (r.got / 65536))
          (pushAad r.head.context (r.windowKey % 65536) r.head.generation) sealedChunk
      (opened = none → (s.flight p).paused = 0 → ∃ s', exec (.remoteDatagram p origin data) s = .next s' ∧
        (∀ x ∈ s'.rxs, ¬(x.port = p ∧ x.head.origin = origin)) ∧ s.response p (.nack origin .key) r.head.express ∈ s'.out ∧ s'.sameBytes s) ∧
      (∀ plain, opened = some plain → addrSpace a ≠ 5 → ∃ s', exec (.remoteDatagram p origin data) s = .next s' ∧
        s'.arrival r.windowKey = s.arrival r.windowKey + plain.length))) ∧
  (∀ (s : State) (p : Nat) (h : RemoteHead), s.ready = true → s.portUp p = true → h.express = false →
    s.awayAxes h.address.toNat = [portAxis p] → s.portUp (onwardPort p) = true →
    s.channelRoom (onwardPort p) (some (peerHall h.address.toNat)) = true → (s.flight (onwardPort p)).clear h.origin →
    (s.flight p).paused = 0 → (s.flight p).inbox = [] →
    let q := onwardPort p
    let vc := s.linkVc q h.vc
    ∃ s', exec (.remoteWriteAccept p h) s = .next s' ∧ s'.items = s.items ∧ s'.sameBytes s ∧ s'.rxs = s.rxs ∧
      s'.out = s.out ++ [s.creditBack p (priorityOf false h.vc), s.requestOut q (priorityOf false vc) (.head { h with vc := vc })] ∧
      (h.sourceBytes ≠ 0 → s'.transits = s.transits ++
        [⟨p, h.origin, q, vc, peerHall h.address.toNat, h.sourceBytes, chunkCount h.sourceBytes⟩])) ∧
  (∀ (s : State) (p origin : Nat) (data : List Byte) (express : Bool), s.ready = true → s.portUp p = true →
    s.rxs.find? (fun r => r.port == p && r.head.origin == origin) = none → (s.flight p).paused = 0 → (s.flight p).inbox = [] →
    let onItsWay := s.transits.find? fun x => x.port == p && x.origin == origin && decide (0 < x.left)
    (onItsWay = none → ∃ s', exec (.remoteDatagram p origin data express) s = .next s' ∧ s'.items = s.items ∧ s'.sameBytes s ∧
      s'.out = s.out ++ [s.creditBack p (priorityOf express 0)]) ∧
    (∀ x, onItsWay = some x → (s.flight x.out).clear origin →
      ∃ s', exec (.remoteDatagram p origin data express) s = .next s' ∧ s'.items = s.items ∧ s'.sameBytes s ∧
        s'.out = s.out ++ [s.creditBack p (priorityOf false 0), s.requestOut x.out (priorityOf false x.vc) (.body origin data)]))

/-- R186, R188, R190, R263: `SEND`, `MULTICAST` and `BUDDY_PUSH`, their first port UP, their source ready and a channel free, hold that channel and
leave their item waiting for the acknowledgements of its receivers, its bytes counted (`BUDDY_PUSH` numbers the push); with no channel free
`SEND` waits and changes nothing, with its port not UP it fails with `ST_PEER_LOST`; `CHANNEL_ACQUIRE` is their next try. R186, R278: the last
acknowledgement decides the item, a refusal fails it, and a pruned receiver is noted; R270: a link that is not UP on the route of express traffic
fails its item at once. R187, R189: `RECV` completes when its count has arrived and
waits until then; `WINDOW_OPEN` opens its window with a count of 0; `WINDOW_CLOSE` closes it, its generation raised by one, once no write accepted before
it is left. R262, R278: what comes back for another module's write, acknowledgements, refusals and the report of a pruned branch, goes on by the way
the write came, and a branch of its tree that stalls here is pruned here, with its receivers reported. That the receivers of `SEND` and `BUDDY_PUSH`
acknowledge by chunks, that a refusal with `ST_PEER_LOST` fails a `MULTICAST` at once, and how replies find their way back, are the model's choices
(log 32); the counts of channels and credits are log 31's. -/
def Obligations.SendsAndReceivers : Prop :=
  (∀ (s : State) (it : ItemId) (t : Item) (p : Nat) (ls : List LinkId), Runs s it .send t →
    let w := t.winD 16
    let express := t.desc.getLsbD 288
    let data := s.elementBytes (s.itemFunction it) w 0 (winBytes w)
    let free := if express then s.xprHeld.length < 16 else s.channelFree p it = true
    s.route express (byteField t.desc 24 8) = some (p, ls) → ∀ c, (c = .send it ∨ c = .channelAcquire it) →
    (s.portUp p = true → s.readFault (s.itemFunction it) true [readAll (word32 t.desc 16) w] = none →
      s.readReady t (readAll (word32 t.desc 16) w) = true →
      (free → ∃ s', exec c s = .next s' ∧ (∃ u, s'.item it = some u ∧ u.phase = .external ∧ u.bytes = t.bytes + data.length) ∧
        s'.txs = s.txs ++ [⟨it, data.length, [(byteField t.desc 24 8, word32 t.desc 32)], [], [], false, []⟩] ∧
        s'.xprHeld = (if express then s.xprHeld ++ [it] else s.xprHeld) ∧ (∀ x, ¬s.chargeByte x → s'.mem.read x = s.mem.read x) ∧
        s.sameModule s' ∧ s'.windows = s.windows ∧ s'.knots = s.knots) ∧
      (¬free → exec c s = .next s)) ∧
    (s.portUp p = false → t.failedAt = none → t.caller = none → ∃ s', exec c s = .next s' ∧ s'.failedWith it .peerLost ∧ s'.sameBytes s)) ∧
  (∀ (s : State) (it : ItemId) (t : Item), Runs s it .multicast t →
    let w := t.winD 16
    let fn := s.itemFunction it
    let ps := s.firstPorts (s.receiversOf t)
    let data := s.elementBytes fn w 0 (winBytes w)
    s.readFault fn true (t.reads [20]) = none → (∀ p ∈ ps, s.hallReaches t.hall (homeHall p) = true) → (∀ p ∈ ps, s.portUp p = true) → ps ≠ [] →
    s.readFault fn true [readAll (word32 t.desc 16) w] = none → s.readReady t (readAll (word32 t.desc 16) w) = true → s.xprHeld.length < 16 →
    (∀ x ∈ s.txs, x.item ≠ it) → ∀ c, (c = .multicast it ∨ c = .channelAcquire it) →
    ∃ s', exec c s = .next s' ∧ (∃ u, s'.item it = some u ∧ u.phase = .external ∧ u.bytes = t.bytes + data.length * ps.length) ∧
      s'.txs = s.txs ++ [⟨it, data.length, s.receiversOf t, [], [], false, []⟩] ∧ s'.xprHeld = s.xprHeld ++ [it] ∧
      (∀ x, ¬s.chargeByte x → s'.mem.read x = s.mem.read x) ∧ s.sameModule s' ∧ s'.windows = s.windows ∧ s'.knots = s.knots) ∧
  (∀ (s : State) (it : ItemId) (t : Item) (p slot : Nat) (ls : List LinkId) (k : List Byte) (ks : KeySlot), Runs s it .buddyPush t →
    let w := t.winD 20
    s.route true (byteField t.desc 24 8) = some (p, ls) → s.keySlotOf (fieldNat t.desc 128 16) = slot → s.dataKey slot = some k →
    s.sec.keys.find? (fun q => q.1 == slot) = some (slot, ks) → ks.pushCount ≠ 0xFFFFFFFF → s.portUp p = true →
    s.readFault (s.itemFunction it) true [readAll (word32 t.desc 20) w] = none → s.readReady t (readAll (word32 t.desc 20) w) = true →
    s.xprHeld.length < 16 → ∀ c, (c = .buddyPush it ∨ c = .channelAcquire it) →
    ∃ s', exec c s = .next s' ∧ (∃ u, s'.item it = some u ∧ u.phase = .external) ∧ s'.xprHeld = s.xprHeld ++ [it] ∧
      (∀ x, ¬s.chargeByte x → s'.mem.read x = s.mem.read x) ∧ s'.windows = s.windows ∧ s'.knots = s.knots ∧
      s'.sec.keys.find? (fun q => q.1 == slot) = some (slot, { ks with pushCount := ks.pushCount + 1 })) ∧
  (∀ (s : State) (i : ItemId) (t : Item) (x : Sending) (r p : Nat), s.portUp p = true → s.txs.find? (fun x => x.item == i) = some x →
    s.item i = some t → x.refusals = [] → r < x.receivers.length → (∀ q, q < x.receivers.length → q ≠ r → x.served q = true) →
    (x.chunks ≤ x.acked r + 1 → ∃ s', exec (.multicastChunkAck i r p) s = .next s' ∧ s'.doneWith i t.bytes ∧ (∀ y ∈ s'.txs, y.item ≠ i) ∧
      s'.sameBytes s ∧ s.sameRegisters s') ∧
    (∀ st, statusFailed st = true → t.failedAt = none → t.caller = none → ∃ s', exec (.negativeAck i r st p) s = .next s' ∧
      s'.failedWith i st ∧ s'.sameBytes s ∧ s.sameRegisters s')) ∧
  (∀ (s : State) (i : ItemId) (t : Item) (x : Sending) (r p : Nat), s.portUp p = true → x ∈ s.txs → x.item = i → x.catchUp = false →
    r < x.receivers.length → s.item i = some t → t.failedAt = none → t.caller = none →
    ∃ s', exec (.negativeAck i r .peerLost p) s = .next s' ∧ s'.failedWith i .peerLost ∧ s'.sameBytes s ∧ s.sameRegisters s') ∧
  (∀ (s : State) (i : ItemId) (r p o : Nat) (st : Status), s.portUp p = true →
    let away : Instr → Reply → Prop := fun c reply => ∃ s', exec c s = .next s' ∧ s'.out = s.out ++ [reply] ∧
      s'.items = s.items ∧ s'.txs = s.txs ∧ s'.sameBytes s ∧ s.sameRegisters s'
    (∀ x, s.transits.find? (fun x => x.out == p && x.origin == o) = some x → (s.flight x.port).paused = 0 →
      away (.multicastChunkAck i r p (some o)) (s.response x.port (.ack o) false (s.linkVc p 0)) ∧
      away (.negativeAck i r st p (some o)) (s.response x.port (.nack o st) false (s.linkVc p 0)) ∧
      ∃ s', exec (.negativeAck i r st p (some o)) s = .next s' ∧ ∀ y ∈ s'.transits, ¬(y.out = p ∧ y.origin = o)) ∧
    (∀ x, s.transits.find? (fun x => x.out == p && x.origin == o) = none → s.passage o p = some x → (s.flight x.port).paused = 0 →
      let vc := if portAxis x.port = portAxis p then s.linkVc p 0 else 0
      away (.multicastChunkAck i r p (some o)) (s.response x.port (.ack o) true vc) ∧
      away (.negativeAck i r st p (some o)) (s.response x.port (.nack o st) true vc) ∧
      ∀ ds, away (.multicastPrune i [] (.report o p ds)) (s.response x.port (.pruned o ds) true vc)) ∧
    (∀ x, s.ready = true → s.passage o p = some x → x.pruned = false → x.stall ≠ 0 → (s.flight x.port).paused = 0 →
      s.branchStalled o p x.stall ((s.passages.filter fun y => y.origin == o && y.port == x.port && !y.pruned).map (·.out)) = true →
      away (.multicastPrune i [] (.branch o p)) (s.response x.port (.pruned o x.receivers) true) ∧
      ∃ s', exec (.multicastPrune i [] (.branch o p)) s = .next s' ∧ (s'.passage o p).map (·.pruned) = some true ∧
        ∀ q ∈ (s'.flight p).held, q.2.sender ≠ o)) ∧
  (∀ (s : State) (i : ItemId) (t : Item) (x : Sending) (rs : List Nat) (q : Nat), s.txs.find? (fun x => x.item == i) = some x →
    s.item i = some t → t.op = some .multicast → (∀ y ∈ s.txs, y.item = i → s.mayPrune t y rs = true) → x.catchUp = false → q < x.receivers.length → q ∉ rs → q ∉ x.pruned → x.served q = false →
    ∃ s' y, exec (.multicastPrune i rs) s = .next s' ∧ s'.txs.find? (fun x => x.item == i) = some y ∧ y = { x with pruned := y.pruned } ∧
      (∀ r ∈ rs, r < x.receivers.length → x.served r = false → r ∈ y.pruned) ∧ s'.items = s.items ∧ s'.sameBytes s) ∧
  (∀ (s : State) (it : ItemId) (t : Item), Runs s it .recv t → s.hallLost (windowHall t) = false →
    winOpen (s.window (handleKey (word32 t.desc 16))) = true →
    (byteField t.desc 24 8 ≤ s.arrival (handleKey (word32 t.desc 16)) → exec (.recv it) s = .next (s.withItemDone it 0)) ∧
    (s.arrival (handleKey (word32 t.desc 16)) < byteField t.desc 24 8 →
      ∃ s', exec (.recv it) s = .next s' ∧ (∃ u, s'.item it = some u ∧ u.phase = .external) ∧ s'.sameBytes s ∧ s'.windows = s.windows)) ∧
  (∀ (s : State) (it : ItemId) (t : Item), Runs s it .windowOpen t → s.hallLost (windowHall t) = false →
    let k := handleKey (word32 t.desc 16)
    (winOpen (s.window k) = true → exec (.windowOpen it) s = .next (s.withItemDone it 0)) ∧
    (winOpen (s.window k) = false → ∃ s', exec (.windowOpen it) s = .next s' ∧ s'.doneWith it t.bytes ∧ winOpen (s'.window k) = true ∧
      winGen (s'.window k) = winGen (s.window k) ∧ s'.arrival k = 0 ∧ (∀ j, j ≠ k → s'.window j = s.window j ∧ s'.arrival j = s.arrival j) ∧
      s'.sameBytes s ∧ s.sameRegisters s')) ∧
  (∀ (s : State) (it : ItemId) (t : Item), Runs s it .windowClose t → s.hallLost (windowHall t) = false →
    let k := handleKey (word32 t.desc 16)
    (winOpen (s.window k) = false → exec (.windowClose it) s = .next (s.withItemDone it 0)) ∧
    (winOpen (s.window k) = true → ¬(addrSpace (winBase (s.window k)) = 3 ∧ winGen (s.window k) = 0xFFFFFFFF) →
      ∃ s', exec (.windowClose it) s = .next s' ∧ winOpen (s'.window k) = false ∧ winGen (s'.window k) = winGen (s.window k) + 1 ∧
        (∀ j, j ≠ k → s'.window j = s.window j) ∧ s'.sameBytes s ∧ s.sameRegisters s' ∧
        ((∀ r ∈ s.rxs, r.windowKey ≠ k) → s'.doneWith it t.bytes)))

/-- R271, R273: `COLL_REDUCE_SCATTER`, `COLL_ALL_GATHER` and `COLL_ALL_REDUCE`, their port UP, their windows ready and a channel free, join: the
collective is open with its own position joined, its item waits, and its opening goes to the next member; what they do from there is done by the
fabric's commands. An opening of another member is noted, or kept where this member has not joined yet, and one with another element count fails the
item with `ST_LENGTH_BOUND`. A member whose others have not joined fails at the join timeout of its port, and one that hears a withdrawal fails
too, joined or only dispatched, with `ST_TIMEOUT`. R272: what only passes through this module's flights goes on and changes nothing here. R274: a
datagram of another member's shard goes on with this member's part added; the sum of one of its own shard goes to its selvedge where the collective
carries an update, the first with the update itself (R234), and is stored otherwise, in an all-reduce at the shard's place and on to the next member;
and one of the gather is stored as it came, and goes on. That a withdrawal fails a member only dispatched, and that the join timeout is that of the
port it sends on, are the model's inferences (log 30, DEDUCED); the counts of channels and credits are log 31's. -/
def Obligations.Collectives : Prop :=
  (∀ (s : State) (it : ItemId) (t : Item) (o : Opcode) (c : Instr), (o, c) ∈ [(Opcode.collReduceScatter, Instr.collReduceScatter it),
      (.collAllGather, .collAllGather it), (.collAllReduce, .collAllReduce it), (.collReduceScatter, .channelAcquire it),
      (.collAllGather, .channelAcquire it), (.collAllReduce, .channelAcquire it)] → Runs s it o t →
    let k := s.collectiveOf t
    let out := s.collSendPort k
    let rd := readAll (word32 t.desc 16) (t.winD 16)
    let wr := if k.update then [] else [readAll (word32 t.desc 20) (t.winD 20)]
    let fn := s.itemFunction it
    s.collective k.axis k.tag = none → s.portUp out = true → s.readFault fn true [rd] = none → s.readFault fn false wr = none →
    s.readReady t rd = true → (∀ r ∈ wr, s.writeReady r = true) → (if k.express then s.xprHeld.length < 16 else s.channelFree out it = true) →
    (k.express = false → ∀ p, s.collPassPort k = some p → s.channelFree p it = true) → s.earlyOpenings k.axis k.tag = [] →
    ∃ s', exec c s = .next s' ∧ s'.colls = s.colls ++ [k] ∧ k.joined = [k.position] ∧
      (∃ u, s'.item it = some u ∧ u.phase = .external ∧ u.bytes = t.bytes) ∧ s'.sameBytes s ∧ s.sameRegisters s' ∧ s'.knots = s.knots ∧
      s'.windows = s.windows ∧
      ((s.flight out).clear (Packet.opening (openHeadOf k)).sender →
        s'.out = s.out ++ [s.requestOut out (priorityOf k.express (s.linkVc out 0)) (.opening (openHeadOf k))])) ∧
  (∀ (s : State) (q : Nat) (h : OpenHead), s.ready = true → s.portUp q = true →
    (s.passesThrough q h.axis h.tag h.group = true →
      ∃ s', exec (.collectiveOpen h q) s = .next s' ∧ s'.items = s.items ∧ s'.colls = s.colls ∧ s'.openings = s.openings ∧ s'.sameBytes s) ∧
    (s.passesThrough q h.axis h.tag h.group = false → h.position ≠ s.coord h.axis % Nat.max 1 h.group →
      (h.axis, h.tag, h.position) ∉ s.stale →
      (s.collective h.axis h.tag = none →
        ∃ s', exec (.collectiveOpen h q) s = .next s' ∧ s'.openings = s.openings ++ [h] ∧ s'.items = s.items ∧ s'.sameBytes s) ∧
      (∀ c, s.collective h.axis h.tag = some c → h.position ≠ c.position → h.position ∉ c.joined →
        (h.elements = c.elements → h.opcode = c.opcode → h.reduceType = c.reduceType →
          (c.started = true ∨ (insertNat c.joined h.position).length ≠ c.group) →
          ∃ s' k, exec (.collectiveOpen h q) s = .next s' ∧ s'.collective h.axis h.tag = some k ∧ k.joined = insertNat c.joined h.position ∧
            s'.items = s.items ∧ s'.sameBytes s) ∧
        (∀ t, h.elements ≠ c.elements → s.item c.item = some t → t.failedAt = none → t.caller = none →
          ∃ s', exec (.collectiveOpen h q) s = .next s' ∧ s'.failedWith c.item .lengthBound ∧ s'.sameBytes s)))) ∧
  (∀ (s : State) (i : ItemId) (c : Collective) (t : Item), s.colls.find? (fun c => c.item == i) = some c → s.item i = some t →
    t.failedAt = none → t.caller = none →
    let limit := c.joinedAt.toNat + 1000000 * (s.flight (s.collSendPort c)).joinTo.toNat
    (c.started = true ∨ s.newel.time.toNat < limit → exec (.joinTimeout i) s = .next s) ∧
    (c.started = false → limit ≤ s.newel.time.toNat →
      ∃ s', exec (.joinTimeout i) s = .next s' ∧ s'.failedWith i .timeout ∧ s'.sameBytes s)) ∧
  (∀ (s : State) (p : Nat) (a : Axis) (tag c g : Nat) (i : ItemId) (t : Item), s.ready = true → s.portUp p = true →
    s.coord a / Nat.max 1 g = c / Nat.max 1 g → s.coord a ≠ c → s.item i = some t → t.failedAt = none → t.caller = none →
    ((∃ x, s.collective a tag = some x ∧ x.item = i) ∨ (s.collective a tag = none ∧ s.waitingMember a tag (Nat.max 1 g) = some t ∧ t.id = i)) →
    ∃ s', exec (.collectiveWithdrawal p a tag c g) s = .next s' ∧ s'.failedWith i .timeout ∧ s'.sameBytes s) ∧
  (∀ (s : State) (q : Nat) (a : Axis) (tag g j phase : Nat) (data : List Byte) (express : Bool), s.ready = true → s.portUp q = true →
    s.passesThrough q a tag g = true →
    let onward := onwardPort q
    let pk := Packet.partialData a tag g j phase data
    ∃ s', exec (.collectiveData a tag j phase data q g express) s = .next s' ∧ s'.items = s.items ∧ s'.colls = s.colls ∧ s'.sameBytes s ∧
      (s.portUp onward = true → s.groupBeyond onward g = true → (s.flight onward).clear pk.sender →
        s.requestOut onward (priorityOf express 0) pk ∈ s'.out)) ∧
  (∀ (s : State) (q : Nat) (a : Axis) (tag j : Nat) (data : List Byte) (c : Collective) (t : Item) (express : Bool), s.ready = true → s.portUp q = true →
    s.passesThrough q a tag c.group = false → s.collective a tag = some c → s.item c.item = some t →
    c.started = true → t.phase = .external → j < c.group → c.group ≤ 16 → data ≠ [] → data.length ≤ 8192 →
    let src := t.winD 16
    let dst := t.winD 20
    let fn := s.itemFunction t.id
    let sz := elemBytes src
    let got := Table.get 0 c.got j
    let gathered := Table.get 0 c.got (16 + j)
    let sum := reduceBytes c.reduceType sz data (s.elementBytes fn src (c.shardStart j * sz + got) data.length)
    let out := s.collSendPort c
    let passed : Nat → List Byte → Reply := fun phase bs =>
      s.requestOut out (priorityOf c.express (s.linkVc out 0)) (.partialData a tag c.group j phase bs)
    let clear := (s.flight out).clear (Packet.partialData a tag c.group j 0 []).sender
    (j ≠ c.firstShard → got + data.length ≤ c.shardLength j * sz → s.collFault t c true 16 = none →
      s.dataHeld t c j 0 data.length = false → s.updateHeld t c j 0 = false →
      (j ≠ c.position → c.update = true →
        ∃ s' k, exec (.collectiveData a tag j 0 data q c.group express) s = .next s' ∧ s'.collective a tag = some k ∧
          Table.get 0 k.got j = got + data.length ∧ (clear → sum ≠ [] → passed 0 sum ∈ s'.out) ∧ s.keptBytes s' ∧ s'.selvs = s.selvs ∧
          s'.knots = s.knots ∧ s'.windows = s.windows) ∧
      (j ≠ c.position → c.update = false →
        ∃ s', exec (.collectiveData a tag j 0 data q c.group express) s = .next s' ∧ (clear → sum ≠ [] → passed 0 sum ∈ s'.out) ∧
          (∀ x, ¬s.chargeByte x → s'.mem.read x = s.mem.read x) ∧ s'.selvs = s.selvs ∧ s'.knots = s.knots ∧ s'.windows = s.windows ∧
          ∀ k, s'.collective a tag = some k → Table.get 0 k.got j = got + data.length) ∧
      (j = c.position → c.update = true →
        let v := s.selv (s.shardSelvedge t c)
        let words := (chunksOf sz (sum.length / Nat.max 1 sz) sum).map (reducedWord c.reduceType)
        let add : Update → Update := fun u => if u.item = t.id then { u with reduced := u.reduced ++ words } else u
        ∃ s' u, exec (.collectiveData a tag j 0 data q c.group express) s = .next s' ∧ s.keptBytes s' ∧ s'.knots = s.knots ∧
          s'.windows = s.windows ∧ s'.selv (s.shardSelvedge t c) = { v with queue := (if got = 0 then v.queue ++ [u] else v.queue).map add } ∧
          u = { s.updateOf t c with localGrad := u.localGrad } ∧
          ((∀ m ∈ byteParts src (c.shardStart j * sz + got) data.length, addrSpace m.1 ≠ 2) → u = s.updateOf t c)) ∧
      (∀ m, j = c.position → c.update = false → s.collFault t c false 20 = none →
        byteParts dst (if c.opcode = codeReduceScatter then got else c.shardStart j * sz + got) sum.length = [(m, sum.length)] →
        addrSpace m ≠ 5 → (s.access fn dst).keys = none →
        ∃ s', exec (.collectiveData a tag j 0 data q c.group express) s = .next s' ∧ s'.knots = s.knots ∧ s'.windows = s.windows ∧
          (c.opcode = codeAllReduce → clear → sum ≠ [] → passed 1 sum ∈ s'.out) ∧
          (addrSpace m ≠ 2 → s'.mem.readBytes (hostKey fn m) sum.length = sum ∧
            ∀ x, (x < hostKey fn m ∨ hostKey fn m + sum.length ≤ x) → ¬s.chargeByte x → s'.mem.read x = s.mem.read x))) ∧
    (∀ m, j ≠ c.position → c.opcode ≠ codeReduceScatter → gathered + data.length ≤ c.blockBytes sz j →
      s.collFault t c false 20 = none → byteParts dst (c.blockStart sz j + gathered) data.length = [(m, data.length)] →
      addrSpace m ≠ 5 → (s.access fn dst).keys = none → s.dataHeld t c j 1 data.length = false →
      ∃ s', exec (.collectiveData a tag j 1 data q c.group express) s = .next s' ∧ s'.knots = s.knots ∧ s'.windows = s.windows ∧
        (clear → c.next ≠ j → passed 1 data ∈ s'.out) ∧
        (addrSpace m ≠ 2 → s'.mem.readBytes (hostKey fn m) data.length = data ∧
          ∀ x, x < hostKey fn m ∨ hostKey fn m + data.length ≤ x → s'.mem.read x = s.mem.read x)))

/-! ### The host interface and the security block -/

/-- R285: a host that departs has its function's rings reset, FENCED and then DISABLED once C equals F; on a link that only goes down `BAR4` stays,
otherwise it is reset; an item of another ring that waits on host memory through it fails with `ST_TIMEOUT`. R304: a configuration request is
answered with Retry Status until the function is ready, 100 ms after the later of its PERST# release and the input's 740 V at the latest. R300: a `BAR4` access outside the enabled range
of a present hall is an Unsupported Request; a read gives the bytes as stored and says whether they are poisoned; a write lands below the selvedge
reserve only. R301, R302, R135, R283: host data arrives at its space-3 address, the first failing completion or the host-memory timeout fails the
item, and puts a ring into ERROR for its descriptor or its record. R303, R298, R307: the device cache answers snoops, and PERST# release and link
training report what they sample, each port its own clock (R338). That a trained link or an answered configuration request brings a departed host back,
and that `HIF_LINK` shows the port trained last, is the model's inference (log 34, DEDUCED); that host data arrives in the model's own copy of host
memory, that of function 1 under keys of its own, is its choice (log 7). -/
def Obligations.HostInterface : Prop :=
  (∀ (s : State) (f : Nat) (cause : DepartCause), s.functionHere f = true → (s.rings.map Prod.fst).Nodup →
    (s.items = [] → (∀ r ∈ s.rings, r.2.ahead = []) → ∃ s', exec (.hostDepart f cause) s = .next s' ∧ s'.hif.departed.getLsbD f = true ∧
      s'.bar4 f = (if cause = .linkDown then s.bar4 f else ⟨0, 0, false⟩) ∧
      (∀ g, (s.ring g).function = f → (ringState (s.ring g).entry = 1 ∨ ringState (s.ring g).entry = 3) →
        ringState (s'.ring g).entry = if (s.ring g).c = (s.ring g).f then 0 else 2) ∧
      (∀ g, (s.ring g).function ≠ f → s'.ring g = s.ring g) ∧ s'.sameBytes s ∧ s'.knots = s.knots) ∧
    ((∀ r ∈ s.rings, r.2.function = f → ringState r.2.entry ≠ 1 ∧ ringState r.2.entry ≠ 3) → (∀ u ∈ s.items, u.caller = none) →
      ∃ s', exec (.hostDepart f cause) s = .next s' ∧ s'.sameBytes s ∧
        ∀ t, s.item t.id = some t → s.usesHost f t = true → t.failedAt = none → s'.failedWith t.id .timeout)) ∧
  (∀ (s : State) (f : Nat), s.hostInterfaceUp = true →
    (s.functionHere f = false → exec (.configRequest f) s = .next (s.emit .unsupported)) ∧
    (s.functionHere f = true → s.hif.configReady.getLsbD f = false → s.readyFrom f = none →
      exec (.configRequest f) s = .next (s.emit (.configRetry f))) ∧
    (s.functionHere f = true → (s.hif.configReady.getLsbD f = true ∨
        ∃ since, s.readyFrom f = some since ∧ since + 100000000 ≤ s.newel.time.toNat) →
      ∃ s', exec (.configRequest f) s = .next s' ∧ s'.out = s.out ++ [.configOk f] ∧ s'.hif.configReady.getLsbD f = true ∧
        s'.hif.departed.getLsbD f = false ∧ s'.sameBytes s ∧ s'.items = s.items)) ∧
  (∀ (s : State) (f off n : Nat) (data : List Byte), s.hostInterfaceUp = true →
    (∀ write, s.bar4Target f off n = none → exec (.bar4Access f write off n data) s = .next (s.emit .unsupported)) ∧
    (∀ a, s.bar4Target f off n = some a →
      (∃ s', exec (.bar4Access f false off n data) s = .next s' ∧
        s'.out.getLast? = some (.bytes (s.mem.readBytes a n) (s.poisoned a n)) ∧ s'.sameBytes s ∧ s'.items = s.items) ∧
      (let bs := data.take (Nat.min n (reserveBase - addrOffset a))
       ∃ s', exec (.bar4Access f true off n data) s = .next s' ∧ s'.items = s.items ∧ s'.windows = s.windows ∧
        ∀ x, ¬s.chargeByte x → s'.mem.read x = if a ≤ x ∧ x < a + bs.length then bs.getD (x - a) 0 else s.mem.read x))) ∧
  (∀ (s : State) (i : ItemId) (t : Item) (a : W64) (data : List Byte), s.item i = some t → waitsOnHost t = true →
    (let m := hostKey (s.itemFunction i) (3 * 2 ^ 60 + a.toNat % 2 ^ 57)
     ∃ s', exec (.hostCompletion (.item i) .success a data) s = .next s' ∧ s'.items = s.items ∧
      s'.mem.readBytes m data.length = data ∧ ∀ x, x < m ∨ m + data.length ≤ x → s'.mem.read x = s.mem.read x) ∧
    (t.failedAt = none → t.caller = none →
      (∃ s', exec (.hostCompletion (.item i) .poisoned a data) s = .next s' ∧ s'.failedWith i .eccUncorr ∧ s'.sameBytes s) ∧
      (∀ q, q = .unsupportedRequest ∨ q = .completerAbort →
        ∃ s', exec (.hostCompletion (.item i) q a data) s = .next s' ∧ s'.failedWith i .access ∧ s'.sameBytes s) ∧
      ∃ s', exec (.hostMemoryTimeout (.item i)) s = .next s' ∧ s'.failedWith i .timeout ∧ s'.sameBytes s)) ∧
  (∀ (s : State) (g : Nat) (q : HostAnswer) (a : W64) (data : List Byte), ringState (s.ring g).entry = 1 → (s.ring g).p ≠ (s.ring g).f →
    addrSpace (ringCommandBase (s.ring g).entry) = 3 → q ≠ .success → ∀ c, (c = .hostCompletion (.descriptor g) q a data ∨
      c = .hostMemoryTimeout (.descriptor g)) →
    ∃ s', exec c s = .next s' ∧ ringState (s'.ring g).entry = 3 ∧ (s'.page (pgTreadle (ringHall g))).raw.getLsbD 1 = true ∧
      s'.items = s.items ∧ s'.sameBytes s) ∧
  (∀ (s : State) (g : Nat), ringState (s.ring g).entry ≠ 0 → (addrSpace (ringCompletionBase (s.ring g).entry) = 3 ∨ addrSpace (ringWriteback (s.ring g).entry) = 3) →
    ∃ s', exec (.hostMemoryTimeout (.recordWrite g)) s = .next s' ∧ ringState (s'.ring g).entry = 3 ∧ s'.canRecord g = false ∧
      s'.items = s.items ∧ s'.sameBytes s) ∧
  (∀ (s : State) (line : Nat) (kind : Snoop), s.hif.cxl = true → s.hostInterfaceUp = true →
    ∃ s', exec (.cxlSnoop line kind) s = .next s' ∧ s'.out = s.out ++ [.snoop line (s.hif.deviceCache.contains line)] ∧
      (kind = .invalidate → line ∉ s'.hif.deviceCache) ∧ (kind ≠ .invalidate → s'.hif = s.hif) ∧ s'.sameBytes s) ∧
  (∀ (s : State) (f : Nat) (split toggles : Bool), s.hostInterfaceUp = true → ¬(f = 1 ∧ split = false) →
    ∃ s', exec (.perstRelease f split toggles) s = .next s' ∧ s'.hif.split = split ∧
      (f < 2 → s'.hif.sris.getLsbD f = !toggles) ∧ (∀ g, g ≠ f → s'.hif.sris.getLsbD g = s.hif.sris.getLsbD g) ∧
      s'.hif.configReady.getLsbD f = false ∧ Table.get 0 s'.hif.released f = s.newel.time.toNat + 1 ∧ s'.sameBytes s) ∧
  (∀ (s : State) (f speed width : Nat) (cxl : Bool), s.hostInterfaceUp = true → s.functionHere f = true →
    ∃ s', exec (.hostLinkTrained speed width cxl f) s = .next s' ∧ s'.hif.speed = BitVec.ofNat 3 speed ∧
      s'.hif.width = BitVec.ofNat 5 width ∧ s'.hif.cxl = cxl ∧ s'.hif.departed.getLsbD f = false ∧
      (∀ g, g ≠ f → s'.hif.departed.getLsbD g = s.hif.departed.getLsbD g) ∧ s'.sameBytes s)

/-- R311, R312: the module answers SPDM, with its certificate chain, signed
measurements and challenges, and with at most four sessions at once. R310: the rollback counter rises only, and only to the version of the
running set. R315: a key is installed only in a session of the owner, into an empty slot, with the debug port closed and the owner set, and
starts with no push; an erase empties the slot. R321, R323: a glitch and the opening of the debug port erase every key slot and draw a new module
key. R322: a tamper-loop break does the same, puts every ring into ERROR, takes every link down, zeroes every gallery and loom store and leaves the module LOCKED.
R324: `SEC_OWNER` is written once, and reading `SEC_STATUS` clears `GLITCH`. R313, R342: PLDM reads sensors and sets the heartbeat. R315: a session
is the owner's where its requester's chain leads to the root whose hash `SEC_OWNER` holds, and a key request names its session. R323: a locked port takes
the challenge, BYPASS, IDCODE and boundary scan only. How sessions are numbered and updated is the model's choice (log 9), so are the fresh values of
keys, nonces and the challenge, the answer to a signature that does not hold and what an open port does with an instruction that R323 does not name
(log 5), the sensors and their readings (log 13), and the heartbeat interval at reset (log 4). -/
def Obligations.SecurityBlock : Prop :=
  (∀ s : State, s.awake = true →
    exec (.spdmRequest (.getCertificate 0)) s = .next (s.emit (.certificate s.chain)) ∧
    (∀ nonce, ∃ s', exec (.spdmRequest (.challenge 0 nonce)) s = .next s' ∧
      s'.out = s.out ++ [.signature (Config.signature s.part.identityKey nonce (digest384 s.chain) s.free)]) ∧
    (∀ i d nonce, s.measurement i = some d →
      exec (.spdmRequest (.getMeasurement i false nonce)) s = .next (s.emit (.measurement i d)) ∧
      ∃ s', exec (.spdmRequest (.getMeasurement i true nonce)) s = .next s' ∧
        s'.out = s.out ++ [.measurement i d, .signature (Config.signature s.part.identityKey nonce d s.free)]) ∧
    (∀ a root n, ((List.range 4).find? fun k => !s.inSession k) = some n →
      exec (.spdmRequest (.openSession a root)) s = .next ((s.setSessions (s.sec.sessions ++
        [⟨n, a && s.sec.ownerSet && root == s.sec.owner, 0⟩])).emit .sessionOpen)) ∧
    (∀ a root, (∀ n, n < 4 → s.inSession n = true) → exec (.spdmRequest (.openSession a root)) s = .next (s.emit .requestError)) ∧
    (∀ n, (s.inSession n = true → exec (.spdmRequest (.heartbeat n)) s = .next (s.emit .accepted) ∧
        (∃ s', exec (.spdmRequest (.keyUpdate n)) s = .next s' ∧ s'.out = s.out ++ [.accepted] ∧
          s'.sec.sessions.map Session.id = s.sec.sessions.map Session.id) ∧
        ∃ s', exec (.spdmRequest (.endSession n)) s = .next s' ∧ s'.out = s.out ++ [.sessionClosed] ∧ s'.inSession n = false) ∧
      (s.inSession n = false → ∀ r, r = .heartbeat n ∨ r = .keyUpdate n ∨ r = .endSession n →
        exec (.spdmRequest r) s = .next (s.emit .requestError))) ∧
    (∀ v : BitVec 16, (3 ≤ s.boot.step → s.part.rollback.toNat < v.toNat → v = s.boot.imageVersion →
        ∃ s', exec (.rollbackRaise v) s = .next s' ∧ s'.part = { s.part with rollback := v } ∧ s'.out = s.out ++ [.accepted]) ∧
      ((s.boot.step < 3 ∨ v.toNat ≤ s.part.rollback.toNat ∨ v ≠ s.boot.imageVersion) →
        exec (.rollbackRaise v) s = .next (s.emit .requestError))) ∧
    (∀ x, exec (.pldmRequest (.readSensor x)) s = .next (s.emit (match s.sensor x with
      | some v => .data (BitVec.ofNat 64 v)
      | none => .requestError))) ∧
    (∀ ns, s.cmpWake 6 = false → ∃ s', exec (.pldmRequest (.heartbeatEnable ns)) s = .next s' ∧ s'.newel.heartbeatNs = ns ∧
      s'.cmpAlt 6 = true ∧ s'.out.getLast? = some .accepted) ∧
    (∃ s', exec (.pldmRequest .heartbeatDisable) s = .next s' ∧ s'.cmpAlt 6 = false ∧ s'.out.getLast? = some .accepted) ∧
    (∀ slot key claimed session,
      let inside := claimed = true ∧ ∃ x ∈ s.sec.sessions, x.id = session ∧ x.owner = true
      (inside → s.moduleKeyDrawn = true → slot < 16384 → (∀ p ∈ s.sec.keys, p.1 ≠ slot) → s.sec.debugOpen = false →
        s.sec.ownerSet = true →
        ∃ s' k, exec (.keyInstall slot key claimed session) s = .next s' ∧ s'.sec.keys.find? (fun p => p.1 == slot) = some (slot, k) ∧
          k.pushCount = 0 ∧ s'.out = s.out ++ [.accepted] ∧ s'.sameBytes s) ∧
      ((¬inside ∨ (∃ p ∈ s.sec.keys, p.1 = slot) ∨ s.sec.debugOpen = true ∨ s.sec.ownerSet = false) →
        exec (.keyInstall slot key claimed session) s = .next (s.emit .requestError)) ∧
      (inside → slot < 16384 →
        ∃ s', exec (.keyErase slot claimed session) s = .next s' ∧ (∀ p ∈ s'.sec.keys, p.1 ≠ slot) ∧ s'.out = s.out ++ [.accepted] ∧
          s'.sameBytes s) ∧
      (¬inside → exec (.keyErase slot claimed session) s = .next (s.emit .requestError))) ∧
    (∃ s', exec .glitchZeroise s = .next s' ∧ s'.sec.keys = [] ∧ s'.sec.moduleKey = Config.freeKey s.free ∧ s'.sec.glitch = true ∧
      s'.items = s.items ∧ s'.rings = s.rings ∧ s'.sameBytes s) ∧
    (∃ s' nonce, exec .jtagChallenge s = .next s' ∧ s'.sec.challenge = some nonce ∧ s'.out = s.out ++ [.challenge s.part.serial nonce] ∧
      s'.sec.keys = s.sec.keys) ∧
    exec (.jtagChallenge .bypass) s = .next (s.emit .accepted) ∧ exec (.jtagChallenge .extest) s = .next (s.emit .accepted) ∧
    exec (.jtagChallenge .idcode) s = .next (s.emit (.data (Config.jtagIdcode.setWidth 64))) ∧
    (s.sec.debugOpen = false → exec (.jtagChallenge .other) s = .next (s.emit .refusedRequest)) ∧
    (s.sec.debugOpen = true → exec (.jtagChallenge .other) s = .next (s.emit .accepted)) ∧
    (∀ scope, s.sec.challenge.isSome = true → ∃ s', exec (.jtagUnlock true scope) s = .next s' ∧ s'.sec.debugOpen = true ∧
      s'.sec.debugScope = scope ∧ s'.sec.challenge = none ∧ s'.sec.keys = [] ∧ s'.sec.moduleKey = Config.freeKey s.free ∧ s'.items = s.items ∧ s'.sameBytes s) ∧
    (∀ scope, exec (.jtagUnlock false scope) s = .next (s.emit .refusedRequest) ∧
      (s.sec.challenge = none → exec (.jtagUnlock true scope) s = .next (s.emit .refusedRequest))) ∧
    (∀ h, s.sec.debugOpen = true → s.hallHere h = true → (s.hall h).treadle.diag = .none →
      ∃ s', exec (.jtagInternalScan h) s = .next s' ∧ s'.sec.scanning.getLsbD h = true ∧ s'.out = s.out ++ [.accepted] ∧
        (s.sec.scanning.getLsbD h = false → ∀ a, a < 2 ^ 64 → addrShapeOk a = true → addrSpace a = 0 → addrHall a = h →
          s'.mem.read a = 0)) ∧
    (∀ h, s.sec.debugOpen = false → exec (.jtagInternalScan h) s = .next (s.emit .refusedRequest))) ∧
  (∀ s : State, s.newel.powered = true → s.power.asleep = false →
    ∃ s', exec .tamperResponse s = .next s' ∧ s'.boot.state = .locked ∧ s'.sec.tamper = true ∧ s'.sec.keys = [] ∧ (s.items = [] → (∀ r ∈ s.rings, r.2.ahead = []) → s'.cmpTripped 4 = true) ∧
      (∀ g, s.hallHere (ringHall g) = true → ringState (s'.ring g).entry = 3) ∧ (∀ p, s'.portUp p = false) ∧ s'.rxs = [] ∧
      (∀ a, a < 2 ^ 64 → addrShapeOk a = true → addrSpace a < 2 → s'.mem.read a = 0)) ∧
  (∀ (s : State) (hash : BitVec 384), s.hostInterfaceUp = true →
    (s.sec.ownerSet = false → exec (.secOwnerWrite hash) s = .next { s with sec := { s.sec with owner := hash, ownerSet := true } }) ∧
    (s.sec.ownerSet = true → ∃ s', exec (.secOwnerWrite hash) s = .next s' ∧ s'.sec = s.sec ∧
      (s'.page pgSecurity).raw.getLsbD 31 = true ∧ s'.sameBytes s) ∧
    (∃ s', exec .secStatusRead s = .next s' ∧ s'.out = s.out ++ [.data (s.secStatus.setWidth 64)] ∧ s'.sec = { s.sec with glitch := false } ∧
      s'.sameBytes s))

/-! ### Power, rails and the newel -/

/-- R306, R331, R343: a module reset leaves no item, ring, window or key, memory zero but for the host's, start-up to do again, and the newel's
time and the fuses as they were; with `SLEEP` the module stays in MODULE_SLEEP, from which an I3C command, or the trip of an enabled comparator
with `WAKE`, wakes it. R308, R309: start-up with every test passed brings the module to READY after step 7 with every hall that is not fused off;
a rail that does not come up, or no image set that is accepted, is reported with its code; step 3 loads the selvedge programs 0 to 511. R326–R328, R330: undervoltage resets the module until the input has
been back; the input switch, precharge and the sense pin act as their rules say; below 300 V the module is OFF, and its newel starts again from
0. That two sets that verify and lie below the rollback counter end with code 7 is the model's inference (log 38, DEDUCED); so is what a module reset
returns and keeps (log 43), the rails at READY (log 37), and the first lock that is due after a wake (log 4); that an undervoltage opens the precharge
bypass is its choice (log 56). -/
def Obligations.PowerAndStartup : Prop :=
  (∀ (s : State) (asleep : Bool) (c : Instr), (asleep, c) ∈ [(false, Instr.moduleReset), (true, .moduleSleepEnter)] → s.hostInterfaceUp = true →
    ∃ s', exec c s = .next s' ∧ s'.items = [] ∧ s'.rings = [] ∧ s'.windows = [] ∧ s'.knots = [] ∧ s'.sec.keys = [] ∧
      s'.boot = State.reset.boot ∧ s'.halls = State.reset.halls ∧ s'.power.asleep = asleep ∧ s'.newel.time = s.newel.time ∧ s'.part = s.part ∧
      ∀ a, addrSpace a ≠ 3 → s'.mem.read a = 0) ∧
  (∀ s : State, s.newel.powered = true → s.power.asleep = true →
    (∃ s', exec (.moduleWake .i3c) s = .next s' ∧ s'.power.asleep = false ∧ s'.newel.firstLockDue = true ∧ s'.boot = s.boot ∧ s'.sameBytes s) ∧
    (∀ n, (n = 2 ∨ n = 3) → s.cmpEnabled n = true → s.cmpWake n = true →
      ∃ s', exec (.moduleWake (.comparator n)) s = .next s' ∧ s'.power.asleep = false ∧ s'.cmpTripped n = true ∧
        (s'.page pgNewel).raw.getLsbD n = true) ∧
    (∀ n, s.timeDue n = true → s.cmpWake n = true →
      ∃ s', exec (.moduleWake (.comparator n)) s = .next s' ∧ s'.power.asleep = false ∧ s'.cmpTripped n = true)) ∧
  (∀ (s : State) (r : StartupResult), s.canStart = true →
    (r.railsReached = false → s.boot.errCode = 0 → ∃ s', exec (.startup r) s = .next s' ∧ s'.boot.errCode = 1 ∧ s'.boot.state = .booting) ∧
    (r.railsReached = true → r.loomFail = 0 → s.part.hallFused ≠ 0xFF →
      (s.setAccepted r.primary = false → s.setAccepted r.secondary = false → s.boot.errCode = 0 →
        ∃ s', exec (.startup r) s = .next s' ∧ s'.boot.state = .failed ∧
          s'.boot.errCode = if s.setVerifies r.primary && s.setVerifies r.secondary then 7 else 3) ∧
      ((s.setAccepted r.primary = true ∨ s.setAccepted r.secondary = true) → r.hbmFail = 0 → r.galleryFail = 0 → r.flightFail = 0 → s.boot.hallsLost = 0 →
        ∃ s', exec (.startup r) s = .next s' ∧ s'.boot.state = .ready ∧ s'.boot.step = 7 ∧ s'.boot.hallsOk = ~~~s.part.hallFused ∧
          s'.boot.secondary = !s.setAccepted r.primary ∧ s'.sec.moduleKey = Config.freeKey s.free ∧
          (∀ i, i < 512 → Table.get none s'.progs i = some (Config.kwedunProgram i)) ∧
          (∀ h, h < 8 → s.part.hallFused.getLsbD h = false → s'.hallUp h = true) ∧ s'.windows = [] ∧ s'.rings = [] ∧
          ∀ a, addrSpace a ≠ 3 → s'.mem.read a = 0))) ∧
  (∀ (s : State) (c : UndervoltageCause), s.newel.powered = true →
    ∃ s', exec (.undervoltage c) s = .next s' ∧ s'.power.lowInput = true ∧ s'.power.precharged = false ∧ s'.items = [] ∧ s'.rings = [] ∧
      s'.sec.keys = [] ∧ (c = .senseOpen → s'.power.senseMated = false) ∧ (s.items = [] → (∀ r ∈ s.rings, r.2.ahead = []) → s'.cmpTripped 0 = true)) ∧
  (∀ s : State, s.newel.powered = true → s.power.lowInput = true → s.power.senseMated = true → s.power.switchOpen = false →
    exec .startupRestart s = .next { s with power := { s.power with lowInput := false, inputSeen := true, inputAt := s.newel.time } }) ∧
  (∀ s : State, s.newel.powered = true → ∃ s', exec .powerOff s = .next s' ∧ s'.power.off = true ∧ s'.newel.powered = false ∧ s'.items = [] ∧
    s'.sec.keys = [] ∧ s'.part = s.part) ∧
  (∀ s : State, s.power.off = true → ∃ s', exec .powerOn s = .next s' ∧ s'.power.off = false ∧ s'.newel.powered = true ∧ s'.newel.time = 0 ∧
    s'.boot = s.boot ∧ s'.sameBytes s) ∧
  (∀ s : State, s.newel.powered = true → s.power.switchOpen = false →
    ∃ s', exec .inputSwitchOpen s = .next s' ∧ s'.power.switchOpen = true ∧ s'.power.precharged = false ∧ s'.cmpTripped 1 = true ∧
      (s'.page pgNewel).raw.getLsbD 1 = true ∧ s'.items = s.items) ∧
  (∀ s : State, s.power.switchOpen = true →
    exec .inputSwitchReclose s = .next { s with power := { s.power with switchOpen := false, precharged := false } }) ∧
  (∀ s : State, s.newel.powered = true → s.power.switchOpen = false →
    (s.power.senseMated = true → ∃ s', exec .prechargeBypassClose s = .next s' ∧ s'.power.precharged = true ∧
      (s.power.inputSeen = false → s.power.lowInput = false → s'.power.inputSeen = true ∧ s'.power.inputAt = s.newel.time) ∧
      (s.power.inputSeen = true ∨ s.power.lowInput = true → s'.power.inputSeen = s.power.inputSeen ∧ s'.power.inputAt = s.power.inputAt) ∧
      s'.items = s.items ∧ s'.sameBytes s) ∧
    (s.power.senseMated = false → exec .prechargeBypassClose s = .next s)) ∧
  (∀ s : State, exec .sensePinMate s = .next { s with power := { s.power with senseMated := true } })

/-- R18: a target in range and a multiple of 5 mV is taken, and the rail slews to it from where it stands; another is refused and the keeper keeps
its target. R21, R22: entry to protection, above the power limit, and its end each raise their event of the module page; a hall in work is held at no
more than 0.72 V, and a target written meanwhile takes effect when protection ends. R20: idle lowering brings a hall that has been quiet for 50 µs
to 0.65 V or below its target, and the next dispatch ends it. R16: above 105 °C the rail goes down by 10 mV a degree, not below 0.65 V; R334: at
115 °C the hall parks, at 100 °C it resumes, and a parked hall at 125 °C is lost. R24, R362: a monitor window's end gives the rate, its extremes and
its time; a read of the rate latches that time and a read of the extremes clears them. R335: `THROTTLE` says whether R16 lowers the rail. R329: the
switch-domain rail is that of the core, and 0.65 V while the core is off. That a rail slews at exactly 10 mV/µs is the model's inference (log 37,
DEDUCED), and that a monitor's window begins anew at a resume its choice (log 37). -/
def Obligations.RailsAndTemperature : Prop :=
  ∀ (s : State) (h : Nat), s.hallUp h = true → h < 8 →
    let k := (s.hall h).keeper
    let calm := k.state = 0 ∧ k.tj.toNat ≤ 105
    let keeps : Instr → (Keeper → Prop) → Prop := fun c g => ∃ s', exec c s = .next s' ∧ g (s'.hall h).keeper ∧
      (s'.hall h).keeper.railNow s.newel.time = k.railNow s.newel.time ∧ s'.sameBytes s ∧
      s'.items = s.items ∧ s'.knots = s.knots ∧ ∀ j, j ≠ h → s'.hall j = s.hall j
    (s.hostInterfaceUp = true → ∀ v : W32,
      (650 ≤ fieldNat v 0 10 → fieldNat v 0 10 ≤ 850 → fieldNat v 0 10 % 5 = 0 →
        keeps (.rkTargetWrite h v) fun n => n.target = field v 0 10 ∧ n.state = k.state ∧
          (s.power.protect = true → n.inForce = k.inForce ∧ n.goalMv.toNat = s.railGoal h) ∧
          (s.power.protect = false → n.inForce = field v 0 10 ∧ (calm → n.goalMv = field v 0 10 ∧ (n.goalMv ≠ k.goalMv → ∀ now : W64,
            s.newel.time.toNat + 100 * (Nat.max (k.railNow s.newel.time) (fieldNat v 0 10) - Nat.min (k.railNow s.newel.time) (fieldNat v 0 10)) ≤
              now.toNat → n.railNow now = fieldNat v 0 10)))) ∧
      ((fieldNat v 0 10 < 650 ∨ 850 < fieldNat v 0 10 ∨ fieldNat v 0 10 % 5 ≠ 0) →
        keeps (.rkTargetWrite h v) (fun n => n = k) ∧
        ∃ s', exec (.rkTargetWrite h v) s = .next s' ∧ (s'.page (pgKeeper h)).raw.getLsbD 31 = true ∧
          ((s.page (pgKeeper h)).count = 0 → (s'.page (pgKeeper h)).info0 = v)) ∧
      keeps (.rkMonCtlWrite h v) fun n => n = { k with window := field v 0 2, since := s.newel.time }) ∧
    (∀ watts, s.awake = true → s.power.protect = false →
      (watts ≤ s.power.limit.toNat → exec (.protectionEnter watts) s = .next (s.measurePower watts)) ∧
      (s.power.limit.toNat < watts → ∃ s', exec (.protectionEnter watts) s = .next s' ∧ s'.power.protect = true ∧
        (s'.page pgModule).raw.getLsbD 0 = true ∧ s'.items = s.items ∧ s'.sameBytes s ∧ (s'.hall h).keeper.target = k.target ∧
        (calm → (s'.hall h).keeper.goalMv.toNat = Nat.min k.inForce.toNat 720))) ∧
    (∀ watts, s.awake = true → s.power.protect = true →
      (s.power.limit.toNat < watts → exec (.protectionExit watts) s = .next (s.measurePower watts)) ∧
      (watts ≤ s.power.limit.toNat → ∃ s', exec (.protectionExit watts) s = .next s' ∧ s'.power.protect = false ∧
        (s'.page pgModule).raw.getLsbD 1 = true ∧ s'.items = s.items ∧ s'.sameBytes s ∧ (s'.hall h).keeper.inForce = k.target ∧
        (calm → (s'.hall h).keeper.goalMv = k.target))) ∧
    (k.state = 0 → k.idleDis = false → s.hallQuiet h = true → s.lastBusy h + 50000 ≤ s.newel.time.toNat →
      keeps (.idleLowering h) fun n => n.state = 1 ∧ n.goalMv.toNat ≤ 650) ∧
    (s.newel.time.toNat < s.lastBusy h + 50000 → exec (.idleLowering h) s = .next s) ∧
    (k.state = 1 → s.hallQuiet h = false → keeps (.idleExit h) fun n => n.state = 0 ∧ n.target = k.target ∧
      (s.power.protect = false → k.tj.toNat ≤ 105 → n.goalMv = k.inForce)) ∧
    (∀ c, c < 115 → keeps (.thermalThrottle h c) fun n => n.tj = BitVec.ofNat 8 c ∧ n.state = k.state ∧ n.throttle = decide (105 < c ∧ Nat.max 650 (k.inForce.toNat - 10 * (c - 105)) < k.inForce.toNat) ∧
      (k.state = 0 → s.power.protect = false →
        n.goalMv.toNat = if c ≤ 105 then k.inForce.toNat else Nat.max 650 (k.inForce.toNat - 10 * (c - 105)))) ∧
    (∀ c, 115 ≤ c → c < 125 → keeps (.hallPark h c) fun n => n.state = 2 ∧ n.goalMv = 650) ∧
    (∀ c, c ≤ 100 → k.state = 2 → keeps (.hallResume h c) fun n => n.state = 0 ∧ n.since = s.newel.time) ∧
    (∀ c, 125 ≤ c → k.state = 2 → ∃ s', exec (.hallCoreShutoff h c) s = .next s' ∧ s'.hallLost h = true ∧ (s'.hall h).keeper.railMv = 0 ∧
      (s'.hall h).keeper.throttle = false ∧ (s.newel.powered = true → s.power.asleep = false → s'.switchRail h = 650)) ∧
    (s.newel.powered = true → s.power.asleep = false → s.switchRail h =
      if k.railNow s.newel.time = 0 then 650 else k.railNow s.newel.time) ∧
    (∀ rate, s.hallRuns h = true → k.since.toNat + 100000 * 10 ^ k.window.toNat ≤ s.newel.time.toNat →
      keeps (.monitorWindowEnd h rate) fun n => n.rate = rate ∧ n.endNs.toNat = k.since.toNat + 100000 * 10 ^ k.window.toNat ∧
        n.rateMax.toNat = Nat.max k.rateMax.toNat rate.toNat ∧
        (k.rateMin ≠ 0 → n.rateMin.toNat = Nat.min k.rateMin.toNat rate.toNat)) ∧
    (s.hostInterfaceUp = true → s.ready = true →
      (∃ s', exec (.rkMonRateRead h) s = .next s' ∧ s'.out = s.out ++ [.data (k.rate.setWidth 64)] ∧ (s'.hall h).keeper.endLatch = k.endNs) ∧
      (∃ s', exec (.rkMonExtRead h) s = .next s' ∧
        s'.out = s.out ++ [.data ((BitVec.ofNat 32 (k.rateMin.toNat + k.rateMax.toNat * 65536)).setWidth 64)] ∧
        (s'.hall h).keeper.rateMin = 0 ∧ (s'.hall h).keeper.rateMax = 0))

/-- R286, R287: a hall that is lost is gone from service: its knots are poisoned, its rings are in ERROR, its loom stores are zero and its
rail is off. R289: a hall's die that fails raises event 2 of the module page with the hall number, its items leave without
records, and its flights go down. R341, R342:
comparators 2 and 3 trip on their measurements, time comparators once for each value with their second feature, and each trip sets `TRIPPED` and
raises its event; a write that would give a timer to two features is refused with `ST_CONFLICT`. R280, R339, R340: a PTP lock is the source of the
count and only the first may step it, forward; its loss leaves the crystal; PPS_IN serves as reference; a port that is UP sends PTP messages, and
an announce that comes in is noted, the best clock followed. R290: a pulse output, the PLDM alert and a comparator's second feature keep apart. That
the pulse output is asked for by a message, that a PTP message that is received is only noted as heard, how a foreign master is kept, and that a time
comparator trips once for each value, are the model's choices (log 4). -/
def Obligations.HallLossAndNewel : Prop :=
  (∀ (s : State) (h : Nat) (c : Instr), s.hallUp h = true →
    (c = .railFault h ∨ c = .hallQuiesce h ∨ c = .quiesce h ∧ s.hostInterfaceUp = true) →
    ∃ s', exec c s = .next s' ∧ s'.hallLost h = true ∧ (s'.hall h).keeper.state = 3 ∧ (s'.hall h).keeper.railMv = 0 ∧
      (∀ k, k < 256 → (s'.knot (knotKey h k)).poison = true) ∧
      (∀ g, ringHall g = h → ringState (s'.ring g).entry = 3) ∧
      (∀ a, a < 2 ^ 64 → addrShapeOk a = true → addrSpace a = 0 → addrHall a = h → s'.mem.read a = 0)) ∧
  (∀ (s : State) (h : Nat), s.ready = true → s.hallAbsent h = false → s.boot.diesFailed.getLsbD h = false →
    ∃ s', exec (.hallDieFailure h) s = .next s' ∧ s'.boot.diesFailed.getLsbD h = true ∧ s'.hallLost h = true ∧
      (s'.page pgModule).raw.getLsbD 2 = true ∧ (s'.page pgModule).raw.getLsbD 31 = true ∧
      ((s.page pgModule).count = 0 → (s'.page pgModule).info0 = BitVec.ofNat 32 h) ∧
      (∀ u ∈ s'.items, ringHall u.id.ring ≠ h) ∧ (∀ g, ringHall g = h → ringState (s'.ring g).entry = 3) ∧
      (∀ p, p < 12 → homeHall p = h → s'.portUp p = false)) ∧
  (∀ s : State, s.newel.powered = true →
    let tripped : Nat → Instr → Prop := fun n c => ∃ s', exec c s = .next s' ∧ s'.cmpTripped n = true ∧
      (s'.page pgNewel).raw.getLsbD n = true ∧ s'.items = s.items ∧ s'.sameBytes s ∧ s'.newel.time = s.newel.time
    (∀ c, s.cmpEnabled 2 = true → (s.cmpVal 2).toNat ≤ c → tripped 2 (.temperatureTrip c)) ∧
    (∀ c, s.cmpEnabled 2 = false ∨ c < (s.cmpVal 2).toNat → exec (.temperatureTrip c) s = .next s) ∧
    (∀ p, s.cmpEnabled 3 = true → p < (s.cmpVal 3).toNat → tripped 3 (.coolantFlowTrip p)) ∧
    (∀ p, s.cmpVal 3 = 0 → exec (.coolantFlowTrip p) s = .next s) ∧
    (s.timeDue 5 = true → tripped 5 .wakeTimer0Trip ∧
      (s.cmpAlt 5 = true → ∃ s', exec .wakeTimer0Trip s = .next s' ∧ s'.out.getLast? = some .wakePulse)) ∧
    (s.timeDue 6 = true → tripped 6 .wakeTimer1Trip ∧
      (s.cmpAlt 6 = true → ∃ s', exec .wakeTimer1Trip s = .next s' ∧ s'.out.getLast? = some .heartbeat ∧
        s'.cmpVal 6 = s.cmpVal 6 + s.newel.heartbeatNs)) ∧
    (s.timeDue 7 = true → tripped 7 .generalComparatorTrip ∧
      (s.cmpAlt 7 = true → ∃ s', exec .generalComparatorTrip s = .next s' ∧ s'.out.getLast? = some .ppsPulse)) ∧
    (s.timeDue 7 = false → exec .generalComparatorTrip s = .next s)) ∧
  (∀ (s : State) (n : Nat), s.hostInterfaceUp = true → s.ready = true → n < 8 →
    (∀ v, s.cmpConflict n v = none → ∃ s', exec (.nwlCmpCtlWrite n v) s = .next s' ∧ s'.items = s.items ∧ s'.sameBytes s ∧
      ∀ b, b < 3 → (s'.cmpBits n).getLsbD b = (v &&& cmpMask n).getLsbD b) ∧
    (∀ v r, s.cmpConflict n v = some r → ∃ s', exec (.nwlCmpCtlWrite n v) s = .next s' ∧ s'.newel = s.newel ∧
      (s'.page pgNewel).raw.getLsbD 31 = true ∧ ((s.page pgNewel).count = 0 → (s'.page pgNewel).code = 0x17 ∧
        (s'.page pgNewel).info0 = BitVec.ofNat 32 r)) ∧
    (∀ v, n = 5 → v.getLsbD 1 = true → v.getLsbD 2 = true → s.cmpConflict n v = some 3) ∧
    (∀ v, n = 2 → v.getLsbD 2 = true → s.newel.pldmAlert = true → s.cmpConflict n v = some 5) ∧
    (∀ v, n = 7 → v.getLsbD 2 = true → s.cmpEnabled 7 = false → s.newel.ppsOut = true → s.cmpConflict n v = some 1) ∧
    (∀ v : W64, cmpFixed n = false → cmpInRange n v = true → (n = 6 → s.cmpAlt 6 = false) →
      ∃ s', exec (.nwlCmpValWrite n v) s = .next s' ∧ s'.cmpVal n = v ∧ s'.items = s.items ∧ s'.sameBytes s) ∧
    (∀ v : W64, cmpFixed n = false → cmpInRange n v = false →
      ∃ s', exec (.nwlCmpValWrite n v) s = .next s' ∧ s'.newel = s.newel ∧ (s'.page pgNewel).raw.getLsbD 31 = true)) ∧
  (∀ s : State, s.newel.powered = true → s.awake = true →
    (∀ d : Int, ∃ s', exec (.ptpLock d) s = .next s' ∧ s'.newel.source = 1 ∧ s'.newel.firstLockDue = false ∧ s'.sameBytes s ∧
      (s.newel.firstLockDue = true → 1000000 < d → s'.newel.time = s.newel.time + BitVec.ofInt 64 d ∧ s'.newel.slewNs = 0) ∧
      (s.newel.firstLockDue = false ∨ d ≤ 1000000 → s'.newel.time = s.newel.time ∧ s'.newel.slewNs = d)) ∧
    (s.newel.source = 1 → exec .ptpLockLoss s = .next { s with newel := { s.newel with source := 0, slewNs := 0 } }) ∧
    (s.newel.source ≠ 1 → exec .ppsIn s = .next { s with newel := { s.newel with source := 2 } }) ∧
    (∀ p, s.clockPort p = true → exec (.ptpMessage (.received p)) s = .next (s.hear p) ∧
      ((s.flight p).paused = 0 → exec (.ptpMessage (.sent p)) s = .next (s.emit (s.response p .ptp))) ∧
      ∀ c, c.identity ≠ s.part.serial → ∃ s', exec (.ptpMessage (.announce p c)) s = .next s' ∧
        Table.get none s'.newel.foreign p = some { c with steps := c.steps + 1 } ∧ s'.newel.slave = s'.bestMaster.2 ∧ s'.items = s.items ∧
        s'.sameBytes s) ∧
    (∀ on, on = false ∨ s.cmpAlt 7 = false → exec (.ptpMessage (.ppsOutput on)) s =
      .next (({ s with newel := { s.newel with ppsOut := on } } : State).emit .accepted)) ∧
    (s.cmpAlt 7 = true → exec (.ptpMessage (.ppsOutput true)) s = .next (s.emit .requestError)))

/-! ### Register pages -/

/-- R129, R356, R357: a ring's entry is committed and the ring ENABLED, with its counts from 0, only while it is DISABLED, and an entry that breaks
the table of R129 is refused; R284: a reset leaves it FENCED, or DISABLED once C equals F, and is
refused while a FENCED ring has items. R146, R358: a knot's owner is a context or the operator.
R155, R156, R359: a pattern load is under way and replaces its routine as a whole when complete; a clear empties its index. R160: DIAGNOSTIC state
is entered only where the hall allows it; entry and exit zero the loom stores, and the gallery but for its context table. R105: the context table
moves only while no context of the hall is in use. R298: a ring is enabled only through a function that the module presents. That a load whose source
or length cannot be used is refused with `ST_ACCESS` is the model's choice (log 56), and that an image in a range being zeroed waits its inference
(log 55, DEDUCED). -/
def Obligations.RingsAndTreadlePage : Prop :=
  ∀ (s : State) (h : Nat), s.hostInterfaceUp = true → s.hallUp h = true →
    let t := (s.hall h).treadle
    let g := s.selectedRing h
    let e := (s.ring g).entry
    let i := t.patIndex.toNat
    let refused : Instr → Prop := fun c => ∃ s', exec c s = .next s' ∧ (s'.page (pgTreadle h)).raw.getLsbD 31 = true ∧
      ((s.page (pgTreadle h)).count = 0 → (s'.page (pgTreadle h)).code = 0x21) ∧ s'.rings = s.rings ∧ s'.knots = s.knots ∧
      s'.patterns = s.patterns ∧ s'.halls = s.halls ∧ s'.items = s.items ∧ s'.sameBytes s
    let zeroed : State → Prop := fun s' =>
      (∀ a, a < 2 ^ 64 → addrShapeOk a = true → addrSpace a = 0 → addrHall a = h → s'.mem.read a = 0) ∧
      (∀ a, a < 2 ^ 64 → addrShapeOk a = true → addrSpace a = 1 → addrHall a = h →
        (addrOffset a < t.ctxBase.toNat * 65536 ∨ t.ctxBase.toNat * 65536 + 786432 ≤ addrOffset a) → s'.mem.read a = 0) ∧
      (∀ j, j < 786432 → ¬s.chargeByte (galleryAddr h (t.ctxBase.toNat * 65536) + j) →
        s'.mem.read (galleryAddr h (t.ctxBase.toNat * 65536) + j) = s.mem.read (galleryAddr h (t.ctxBase.toNat * 65536) + j))
    (∀ v : W32, ∃ s', exec (.ringSelect h v) s = .next s' ∧ (s'.hall h).treadle.ringSel = field v 0 11 ∧
      (s'.hall h).treadle.ringData = (s.ring (2048 * h + fieldNat v 0 11)).entry ∧ s'.rings = s.rings ∧ s'.items = s.items ∧ s'.sameBytes s) ∧
    (ringState e = 0 → ∃ s', exec (.ringCommit h) s = .next s' ∧ (s'.ring g).entry = setField t.ringData 136 8 0 ∧
      (∀ j, j ≠ g → s'.ring j = s.ring j) ∧ s'.items = s.items ∧ s'.sameBytes s) ∧
    (ringState e ≠ 0 → refused (.ringCommit h)) ∧
    (∀ fn, s.functionHere fn = false → exec (.ringEnable h fn) s = .next s) ∧
    (∀ fn, s.functionHere fn = true → ringState e = 0 → s.ringAllowed h g = true → s.ringEntryOk e = true →
      ∃ s', exec (.ringEnable h fn) s = .next s' ∧ ringState (s'.ring g).entry = 1 ∧ (s'.ring g).p = 0 ∧ (s'.ring g).f = 0 ∧
        (s'.ring g).c = 0 ∧ (s'.ring g).h = 0 ∧ (s'.ring g).function = fn ∧ (∀ j, j ≠ g → s'.ring j = s.ring j) ∧ s'.items = s.items ∧
        s'.sameBytes s) ∧
    (∀ fn, s.functionHere fn = true → ¬(ringState e = 0 ∧ s.ringAllowed h g = true ∧ s.ringEntryOk e = true) → refused (.ringEnable h fn)) ∧
    (ringState e = 2 → ((∃ u ∈ s.items, u.id.ring = g) → refused (.ringReset h)) ∧
      ((∀ u ∈ s.items, u.id.ring ≠ g) → ∃ s', exec (.ringReset h) s = .next s' ∧ ringState (s'.ring g).entry = 0 ∧ s'.sameBytes s)) ∧
    (ringState e = 1 ∨ ringState e = 3 → addrSpace (ringCompletionBase e) ≠ 5 → addrSpace (ringWriteback e) ≠ 5 →
      ∃ s', exec (.ringReset h) s = .next s' ∧
      (ringState (s'.ring g).entry = 0 ∨ ringState (s'.ring g).entry = 2) ∧
      (s.items = [] → (∀ r ∈ s.rings, r.2.ahead = []) → ringState (s'.ring g).entry = if (s.ring g).c = (s.ring g).f then 0 else 2)) ∧
    (∀ v : W32, (fieldNat v 0 14 < 12288 ∨ fieldNat v 0 14 = 0x3FFF) →
      ∃ s', exec (.knotOwnerWrite h v) s = .next s' ∧
        s'.knot (knotKey h t.knotSel.toNat) = { s.knot (knotKey h t.knotSel.toNat) with owner := field v 0 14 } ∧
        (∀ j, j ≠ knotKey h t.knotSel.toNat → s'.knot j = s.knot j) ∧ s'.items = s.items ∧ s'.sameBytes s) ∧
    (∀ v : W32, 12288 ≤ fieldNat v 0 14 → fieldNat v 0 14 ≠ 0x3FFF → refused (.knotOwnerWrite h v)) ∧
    (∀ bs, s.patternImage h = some bs → t.load = none → ∃ s', exec (.patternLoad h) s = .next s' ∧
      (s'.hall h).treadle.load =
        (if bookOk (((s.book h).filter fun r => r.1 != i) ++ [(i, bs)]) = true then some (i, t.patTenant, bs) else none) ∧
      s'.patterns = s.patterns ∧ s'.sameBytes s) ∧
    (t.load.isSome = true → (s.addrAbsent t.patSrc.toNat = false → refused (.patternLoad h)) ∧ refused (.patternClear h)) ∧
    (s.patternImage h = none → s.addrAbsent t.patSrc.toNat = false → refused (.patternLoad h)) ∧
    (s.addrAbsent t.patSrc.toNat = true → ∃ s', exec (.patternLoad h) s = .next s' ∧ s'.patterns = s.patterns ∧ s'.halls = s.halls ∧
      s'.sameBytes s ∧ ((s.page (pgTreadle h)).count = 0 → (s'.page (pgTreadle h)).code = 0x13)) ∧
    (∀ n tenant bs, t.load = some (n, tenant, bs) → s.hitsZeroing t.patSrc.toNat bs.length = true → exec (.patternLoadComplete h) s = .next s) ∧
    (∀ n tenant bs, t.load = some (n, tenant, bs) → s.hitsZeroing t.patSrc.toNat bs.length = false → ∃ s', exec (.patternLoadComplete h) s = .next s' ∧ s'.routine h n = some ⟨bs, tenant⟩ ∧
      (∀ h' n', 1024 * h' + n' ≠ 1024 * h + n → s'.routine h' n' = s.routine h' n') ∧ (s'.hall h).treadle.load = none ∧ s'.sameBytes s) ∧
    (t.load = none → ∃ s', exec (.patternClear h) s = .next s' ∧ s'.routine h i = none ∧
      (∀ h' n', 1024 * h' + n' ≠ 1024 * h + i → s'.routine h' n' = s.routine h' n') ∧ s'.sameBytes s) ∧
    (∀ v : W32, t.diag = .none → s.sec.scanning.getLsbD h = false → s.diagAllowed h (fieldNat v 2 11) = true →
      ∃ s', exec (.diagEnter h v) s = .next s' ∧ (s'.hall h).treadle.diag = .entering ∧ (s'.hall h).treadle.diagRing = field v 2 11 ∧
        zeroed s' ∧ s'.items = s.items ∧ s'.rings = s.rings) ∧
    (∀ v : W32, t.diag = .none → s.sec.scanning.getLsbD h = false → s.diagAllowed h (fieldNat v 2 11) = false → refused (.diagEnter h v)) ∧
    (t.diag = .entering → ∃ s', exec (.diagEntryComplete h) s = .next s' ∧ (s'.hall h).treadle.diag = .inside ∧
      (s'.page (pgTreadle h)).raw.getLsbD 2 = true ∧ s'.items = s.items ∧ s'.sameBytes s) ∧
    (t.diag ≠ .none → ∃ s', exec (.diagExit h) s = .next s' ∧ (s'.hall h).treadle.diag = .none ∧ zeroed s' ∧ s'.items = s.items ∧
      s'.rings = s.rings) ∧
    (∀ v : W32, s.ctxBaseOk h (fieldNat v 0 17) = true → s.anyCtxInUse h = false →
      ∃ s', exec (.ctxBaseWrite h v) s = .next s' ∧ (s'.hall h).treadle.ctxBase = field v 0 17 ∧ (∀ j, j ≠ h → s'.hall j = s.hall j) ∧
        s'.items = s.items ∧ s'.sameBytes s) ∧
    (∀ v : W32, (s.ctxBaseOk h (fieldNat v 0 17) = false ∨ s.anyCtxInUse h = true) → refused (.ctxBaseWrite h v))

/-- R126, R189, R360: a window is committed from the staged image, keeping its generation but where an open entry closes, or refused with the code
of R126; a clear leaves only the generation, a fetch copies the entry into the stage. R206, R212, R215: the share of the tensor cache, its zeroing,
an invalidation and the caps of the ledger are set as their registers say. R361: a read of `STR_STATE` latches `STR_PEND_GEN`. R345, R346: a register write through a function that
the module presents does what the register's own command does, or stores its fields, or is refused where its value is out of range; a 64-bit register
takes both halves at once, and one that is only read stays. R345, R353: a 64-bit
register is read whole through the latch, and so is a ring's elapsed time through its doorbell slot (R295); an access of another width or alignment is an Unsupported Request, or fails the item in space 5.
That a doorbell slot is read as offset 2²⁸ and above is the model's choice (log 41), and which cache lines a change of the share keeps its inference
(log 27, DEDUCED); so is what a window takes of a context's use. -/
def Obligations.WindowsCacheAndManagement : Prop :=
  (∀ (s : State) (h : Nat), s.hostInterfaceUp = true → s.hallUp h = true →
    let k := windowKey h (s.hall h).winIndex.toNat
    let old := s.window k
    let new := (s.hall h).winStage
    let share := (s.hall h).share.toNat
    let stays : State → Prop := fun s' => s'.items.map Item.name = s.items.map Item.name ∧ (∀ g, (s'.ring g).entry = (s.ring g).entry) ∧
      s'.knots = s.knots ∧ ∀ x, ¬s.chargeByte x → s'.mem.read x = s.mem.read x
    let keptOf : State → Nat → Prop := fun s' n => (∀ l, l ∈ s'.cache h ↔ l ∈ s.cache h ∧ cacheSet share l.line < 64 * n ∧
      cacheSet share l.line = cacheSet n l.line) ∧ ∀ j, j ≠ h → s'.cache j = s.cache j
    let refusedAt : Instr → Nat → BitVec 8 → Prop := fun c p code => ∃ s', exec c s = .next s' ∧ s'.windows = s.windows ∧
      s'.halls = s.halls ∧ s'.sameBytes s ∧ s'.items = s.items ∧ (s'.page p).raw.getLsbD 31 = true ∧
      ((s.page p).count = 0 → (s'.page p).code = code)
    ((winOwner new = operatorOwner ∨ winOwner new < 12288 ∧ s.ctxHere (winOwner new) = true) →
      (s.chargeWindow old false).chargeAbove new = false → (genSpent old = false ∨ winOpen new = true) →
      ∃ s', exec (.windowCommit h) s = .next s' ∧ winSetGen (s'.window k) 0 = winSetGen new 0 ∧
        winGen (s'.window k) = (if winOpen old = true ∧ winOpen new = false then winGen old + 1 else winGen old) ∧
        (∀ j, j ≠ k → s'.window j = s.window j) ∧ stays s') ∧
    (winOwner new ≠ operatorOwner → 12288 ≤ winOwner new → refusedAt (.windowCommit h) (pgWindow h) 0x21) ∧
    (winOwner new < 12288 → s.ctxHere (winOwner new) = false → refusedAt (.windowCommit h) (pgWindow h) 0x13) ∧
    (winOwner new < 12288 → s.ctxHere (winOwner new) = true → (s.chargeWindow old false).chargeAbove new = true →
      refusedAt (.windowCommit h) (pgWindow h) 0x16) ∧
    (genSpent old = false → ∃ s', exec (.windowClear h) s = .next s' ∧
      s'.window k = winSetGen 0 (if winOpen old = true then winGen old + 1 else winGen old) ∧ (∀ j, j ≠ k → s'.window j = s.window j) ∧ stays s') ∧
    (∃ s', exec (.windowFetch h) s = .next s' ∧ (s'.hall h).winStage = old ∧ s'.windows = s.windows ∧ stays s') ∧
    (∀ v : W32, v.getLsbD 16 = false →
      (share < fieldNat v 0 4 → fieldNat v 0 4 ≤ 8 → s.raiseBlocked h (fieldNat v 0 4) = false →
        ∃ s', exec (.cacheShareSet h v) s = .next s' ∧ (s'.hall h).share = field v 0 4 ∧ keptOf s' (fieldNat v 0 4) ∧
          (∀ a, ¬s.chargeByte a → addrSpace a = 1 → addrHall a = h → inCacheRange (fieldNat v 0 4) (addrOffset a) = true → s'.mem.read a = 0) ∧
          (∀ a, ¬s.chargeByte a → ¬(addrSpace a = 1 ∧ addrHall a = h) → s'.mem.read a = s.mem.read a)) ∧
      (share < fieldNat v 0 4 → fieldNat v 0 4 ≤ 8 → s.raiseBlocked h (fieldNat v 0 4) = true →
        refusedAt (.cacheShareSet h v) (pgGallery h) 0x21) ∧
      (8 < fieldNat v 0 4 → refusedAt (.cacheShareSet h v) (pgGallery h) 0x21) ∧
      (fieldNat v 0 4 < share → share ≤ 8 → ∃ s', exec (.cacheShareSet h v) s = .next s' ∧ (s'.hall h).share = field v 0 4 ∧
        (s'.hall h).shareBusy = true ∧ keptOf s' (fieldNat v 0 4) ∧
        (∀ a, ¬s.chargeByte a → addrSpace a = 1 → addrHall a = h → inCacheRange share (addrOffset a) = true → s'.mem.read a = 0) ∧
        (∀ x, ¬(addrSpace x = 1 ∧ addrHall x = h) → ¬s.chargeByte x → s'.mem.read x = s.mem.read x))) ∧
    (∃ s', exec (.shareZeroDone h) s = .next s' ∧ (s'.hall h).shareBusy = false ∧ (s'.hall h).share = (s.hall h).share ∧ s'.sameBytes s) ∧
    (∃ s', exec (.cacheInvalidate h) s = .next s' ∧ s'.cache h = [] ∧ (∀ j, j ≠ h → s'.cache j = s.cache j) ∧ s'.windows = s.windows ∧
      stays s') ∧
    (∀ v : W32, (16 ≤ fieldNat v 0 11 ∧ fieldNat v 0 11 ≤ 1024 ∧ 16 ≤ fieldNat v 16 11 ∧ fieldNat v 16 11 ≤ 1024 →
        ∃ s', exec (.ldgCapWrite h v) s = .next s' ∧ (s'.hall h).hbmCap = field v 0 11 ∧ (s'.hall h).galCap = field v 16 11 ∧
          s'.ledgers = s.ledgers ∧ stays s') ∧
      ((fieldNat v 0 11 < 16 ∨ 1024 < fieldNat v 0 11 ∨ fieldNat v 16 11 < 16 ∨ 1024 < fieldNat v 16 11) →
        refusedAt (.ldgCapWrite h v) (pgLedger h) 0x21)) ∧
    (s.ready = true → ∃ s', exec (.strStateRead h) s = .next s' ∧ s'.out = s.out ++ [.data ((s.streamState h).setWidth 64)] ∧
      (s'.hall h).pendGenLatch = (s.stream h (s.hall h).strSel.toNat).pendingGen ∧ s'.sameBytes s)) ∧
  (∀ s : State, s.hostInterfaceUp = true →
    (s.ready = true → ∃ s', exec (.reg64LowRead 0x1040) s = .next s' ∧ s'.out = s.out ++ [.data ((lowWord s.newel.time).setWidth 64)] ∧
      ∀ t : W64, ∃ s'', exec (.reg64LowRead 0x1044) { s' with newel := { s'.newel with time := t } } = .next s'' ∧
        s''.out = s'.out ++ [.data ((highWord s.newel.time).setWidth 64)]) ∧
    (∀ g, ∃ s', exec (.reg64LowRead (2 ^ 28 + 64 * g + 16)) s = .next s' ∧
      s'.out = s.out ++ [.data ((lowWord ((s.ring g).elapsed s.newel.time)).setWidth 64)] ∧ s'.rings = s.rings ∧
      ∀ t : W64, ∃ s'', exec (.reg64LowRead (2 ^ 28 + 64 * g + 20)) { s' with newel := { s'.newel with time := t } } = .next s'' ∧
        s''.out = s'.out ++ [.data ((highWord ((s.ring g).elapsed s.newel.time)).setWidth 64)]) ∧
    (∀ off, off < 2 ^ 28 → off % 4 ≠ 0 → exec (.reg64LowRead off) s = .next (s.emit .unsupported)) ∧
    (∀ fn off width v, (width ≠ 4 ∧ width ≠ 8 ∨ off % width ≠ 0) → exec (.registerWrite fn off width v) s = .next (s.emit .unsupported)) ∧
    (∀ fn off width v, s.functionHere fn = false → exec (.registerWrite fn off width v) s = .next (s.emit .unsupported)) ∧
    (∀ fn v, s.functionHere fn = true → ∃ s', exec (.registerWrite fn 0x018 4 v) s = .next s' ∧ (s'.page 0).mask = lowWord v ∧ (s'.page 0).raw = (s.page 0).raw ∧
      s'.mod = s.mod ∧ s'.items = s.items ∧ s'.sameBytes s)) ∧
  (∀ (s : State) (fn h p n : Nat) (v : W64), s.hostInterfaceUp = true → s.functionHere fn = true → s.mod.resetDue = false → s.hallUp h = true →
    h < 8 → s.flightAbsent p = false → n < 8 →
    let w := lowWord v
    let at4 : Nat → Host.Outcome State Fault Refusal := fun off => exec (.registerWrite fn off 4 v) s
    let at8 : Nat → Host.Outcome State Fault Refusal := fun off => exec (.registerWrite fn off 8 v) s
    let becomes : Nat → State → Prop := fun off t => at4 off = .next t
    let page := fun (pg rel : Nat) => 4096 * pg + rel
    let treadle := fun (f : Treadle → Treadle) => s.modTreadle h f
    (∀ x ∈ [(page pgModule 0x040, Instr.levelNegotiate w), (page pgModule 0x020, .eventClear pgModule w),
        (page pgNewel (0x050 + 4 * n), .nwlCmpCtlWrite n w), (page (pgTreadle h) 0x040, .ctxBaseWrite h w),
        (page (pgTreadle h) 0x048, .ringSelect h w), (page (pgTreadle h) 0x064, .knotOwnerWrite h w),
        (page (pgGallery h) 0x040, .cacheShareSet h w), (page (pgLedger h) 0x040, .ldgCapWrite h w),
        (page (pgKeeper h) 0x040, .rkTargetWrite h w), (page (pgKeeper h) 0x050, .rkMonCtlWrite h w)], at4 x.1 = exec x.2 s) ∧
    (s.portUp p = false → at4 (page (pgFlight p) 0x040) = exec (.flightEnable p w) s) ∧
    (s.selvPresent 12 = true → at4 (page (pgSelvedge 12) 0x048) = exec (.selvedgeProgLoad w) s) ∧
    (w = 1 → at4 (page (pgTreadle h) 0x04C) = exec (.ringCommit h) s ∧ at4 (page (pgTreadle h) 0x010) = exec (.diagEnter h w) s) ∧
    (w = 2 → at4 (page (pgTreadle h) 0x04C) = exec (.ringEnable h fn) s) ∧
    (w = 4 → at4 (page (pgWindow h) 0x044) = exec (.windowFetch h) s) ∧
    (w.getLsbD 0 = true → w.getLsbD 1 = false → at4 (page (pgFlight p) 0x054) = exec (.flightAdmit p) s) ∧
    (w.getLsbD 11 = false → becomes (page pgModule 0x05C)
      { s with mod := { s.mod with vector := w.setWidth 11, function := false, vectorEnable := w.getLsbD 31 } }) ∧
    becomes (page pgPower 0x040) (if 3000 ≤ fieldNat w 0 13 ∧ fieldNat w 0 13 ≤ 4200 ∧ fieldNat w 0 13 % 50 = 0 then
      { s with power := { s.power with limit := w.setWidth 13 } } else s.refuse pgPower w) ∧
    (s.sec.ownerSet = false → ∀ k, k < 12 → becomes (page pgSecurity (0x080 + 4 * k))
      { s with sec := { s.sec with owner := setField s.sec.owner (32 * k) 32 w, ownerSet := k == 11 } }) ∧
    becomes (page pgHif 0x048) (if 1 ≤ fieldNat w 0 10 ∧ fieldNat w 0 10 ≤ 1000 then { s with hif := { s.hif with timeoutMs := w.setWidth 10 } }
      else s.refuse pgHif w) ∧
    becomes (page pgHif 0x04C) (if fieldNat w 0 7 ≤ 71 then { s with hif := { s.hif with bar4f0 := ⟨w.setWidth 7, field w 8 3, w.getLsbD 31⟩ } }
      else s.refuse pgHif w) ∧
    becomes (page pgHif 0x050) (if fieldNat w 0 7 ≤ 71 then { s with hif := { s.hif with bar4f1 := ⟨w.setWidth 7, field w 8 3, w.getLsbD 31⟩ } }
      else s.refuse pgHif w) ∧
    (let off := page pgHif (0x060 + 8 * n)
     at8 off = .next (({ s with lowHalf := (s.lowHalf.insert off w).erase off } : State).cohWrite n v)) ∧
    (let off := page (pgTreadle h) 0x070
     imageAddress v = true → ∃ t, at8 off = .next t ∧ (t.hall h).treadle.patSrc = v ∧ t.rings = s.rings ∧ t.items = s.items ∧ t.sameBytes s) ∧
    (let off := page (pgTreadle h) 0x070
     imageAddress v = false → ∃ t, at8 off = .next t ∧ t.halls = s.halls ∧ (t.page (pgTreadle h)).raw.getLsbD 31 = true) ∧
    becomes (page (pgTreadle h) 0x060) (treadle fun t => { t with knotSel := w.setWidth 8 }) ∧
    becomes (page (pgTreadle h) 0x07C) (if fieldNat w 0 16 = 0 then s.refuse (pgTreadle h) w else treadle fun t => { t with patLen := w.setWidth 16 }) ∧
    (∀ k, k < 16 → becomes (page (pgTreadle h) (0x080 + 4 * k)) (treadle fun t => { t with ringData := setField t.ringData (32 * k) 32 w })) ∧
    ((∀ b ∈ [0, 8, 16, 24], 16 ≤ fieldNat w b 6 ∧ fieldNat w b 6 ≤ 32) → becomes (page (pgTreadle h) 0x044) (treadle fun t =>
      { t with starveLoad := field w 0 6, starveMatrix := field w 8 6, starveLanding := field w 16 6, starveStore := field w 24 6 })) ∧
    ((∃ b ∈ [0, 8, 16, 24], fieldNat w b 6 < 16 ∨ 32 < fieldNat w b 6) → becomes (page (pgTreadle h) 0x044) (s.refuse (pgTreadle h) w)) ∧
    becomes (page (pgStream h) 0x040) (s.modHall h fun hl => { hl with strSel := w.setWidth 12 }) ∧
    becomes (page (pgWindow h) 0x040) (s.modHall h fun hl => { hl with winIndex := w.setWidth 16 }) ∧
    (∀ k, k < 16 → becomes (page (pgWindow h) (0x080 + 4 * k)) (s.modHall h fun hl => { hl with winStage := setField hl.winStage (32 * k) 32 w })) ∧
    becomes (page (pgKeeper h) 0x044) (s.keeperCtlWrite h w) ∧
    becomes (page (pgFlight p) 0x058) (if 300 ≤ fieldNat w 0 16 ∧ fieldNat w 0 16 ≤ 10000 ∧ 1 ≤ fieldNat w 16 16 ∧ fieldNat w 16 16 ≤ 60000 then
      s.modFlight p fun f => { f with linkTo := field w 0 16, joinTo := field w 16 16 } else s.refuse (pgFlight p) w) ∧
    (∃ t, at8 (page (pgFlight p) 0x060) = .next t ∧ (t.flight p).ethPeer = v.setWidth 48 ∧ t.items = s.items ∧ t.sameBytes s) ∧
    becomes (page pgExpress 0x040) (if ((List.range 12).all fun q => (s.flight q).link == .disabled) ∧ ([0, 4, 8].all fun b => decide (fieldNat w b 4 ≤ fieldNat w (16 + b) 4)) then
      { s with xprCoord := w &&& 0x1FFF0FFF } else s.refuse pgExpress w) ∧
    (∀ x ∈ [(pgModule, 0x044), (pgModule, 0x048), (pgModule, 0x050), (pgNewel, 0x040), (pgPower, 0x044), (pgSecurity, 0x044), (pgHif, 0x040)],
      becomes (page x.1 x.2) s)) ∧
  (∀ (s : State) (g off : Nat) (t : Item), s.managementItem g off = some t → s.mod.resetDue = false →
    (∀ write width v, (width ≠ 4 ∧ width ≠ 8 ∨ off % width ≠ 0) → t.failedAt = none → t.caller = none → s.item t.id = some t →
      ∃ s', exec (.managementSpaceAccess g write off width v) s = .next s' ∧ s'.failedWith t.id .access ∧ s'.sameBytes s) ∧
    (∀ v, off % 4 = 0 → ∃ s', exec (.managementSpaceAccess g false off 4 v) s = .next s' ∧
      s'.out = s.out ++ [.data ((s.managementRead off).1.setWidth 64)] ∧ s'.items = s.items ∧ s'.sameBytes s) ∧
    (∀ v, off = 0x018 → ∃ s', exec (.managementSpaceAccess g true off 4 v) s = .next s' ∧ (s'.page 0).mask = lowWord v ∧
      s'.items = s.items ∧ s'.sameBytes s))

/-! ### Card words -/

/-- R159, R192: in DIAGNOSTIC state, from the named ring, an item's next card word that is not reserved and whose tokens allow it runs, and the item
goes on to the next word or ends with its last; a command for another action leaves the item as it is. READ puts the
words of a store into the result window, WRITE its data into the store or unit, COMPARE one bit a repetition into the result window; PASS and MODE
give their unit of the loom its control or mode value, and change no byte. (Where WRITE puts its data and what COMPARE finds are free values, log 8.) `CARD_RUN` runs the words that are left one after another. Outside DIAGNOSTIC state, or from another
ring, each fails with `ST_ACCESS`. -/
def Obligations.CardWordsRun : Prop :=
  ∀ (s : State) (it : ItemId) (t : Item), s.runnable it .cardRun = some t → s.hallRuns t.hall = true →
    let fn := s.itemFunction it
    let w := s.cardWord fn (t.winD 16) t.progress
    let rw := t.winD 20
    let a := winBase rw + s.cardResults fn (t.winD 16) t.progress
    let unit := cardUnit w
    let n := cardCount w
    let plain := (s.access fn rw).keys = none ∧ addrSpace a ≠ 2
    let keepsBut : State → Nat → Nat → Prop := fun s' m len => ∀ y, y < m ∨ m + len ≤ y → s'.mem.read y = s.mem.read y
    let cards := [(0, Instr.cardRead it), (1, .cardWrite it), (2, .cardCompare it), (3, .cardPass it), (4, .cardMode it)]
    ((s.hall t.hall).treadle.diag = .inside → (s.hall t.hall).treadle.diagRing.toNat = it.ring % 2048 → s.mod.resetDue = false →
      (∀ x ∈ t.wins, addrSpace (winBase x.2) ≠ 5) →
      addrSpace a ≠ 5 →
      s.readFault fn true (t.reads [16]) = none → s.readFault fn false (t.reads [20]) = none → cardReserved w = false →
      s.cardHere t = true → s.cardTokens t.hall w (cardOffsets w s.free) = true →
      (∀ x ∈ cards, cardAction w = x.1 → ∃ s' u, exec x.2 s = .next s' ∧ s'.item it = some u ∧ u.progress = t.progress + 1 ∧
        (t.progress + 1 = cardWords t → u.phase = .decided) ∧ (t.progress + 1 ≠ cardWords t → u.phase = t.phase ∧ (3 ≤ x.1 → s'.full = s.full)) ∧
        s'.knots = s.knots ∧ s'.windows = s.windows ∧ s'.rings = s.rings ∧
        (x.1 = 0 → u.bytes = t.bytes + 8 * n ∧ (unit < 3 → plain → s'.mem.readBytes (hostKey fn a) (8 * n) =
          (List.range n).flatMap fun i => s.mem.readBytes (storeAddr t.hall (cardLoom w) unit (cardOffset unit (cardAddress w) i)) 8) ∧
          (plain → keepsBut s' (hostKey fn a) (8 * n))) ∧
        (x.1 = 1 → u.bytes = t.bytes + 8 * n ∧
          (unit < 3 → n = 1 → let m := storeAddr t.hall (cardLoom w) unit (cardPlace unit s.free)
            s'.mem.readBytes m 8 = leBytes 8 (cardAddress w).toNat ∧ keepsBut s' m 8) ∧
          (3 ≤ unit → s'.mem = s.mem ∧ Table.get 0 (s'.loom t.hall (cardLoom w)).controls unit = (cardAddress w).setWidth 32)) ∧
        (x.1 = 2 → u.bytes = t.bytes + (n + 7) / 8 ∧ (unit < 3 → plain → s'.mem.readBytes (hostKey fn a) ((n + 7) / 8) =
          bitBytes ((List.range n).map fun i => (Config.freeWord (s.free + i)).getLsbD 0)) ∧ (plain → keepsBut s' (hostKey fn a) ((n + 7) / 8))) ∧
        (x.1 = 3 → s'.mem = s.mem ∧ s'.poison = s.poison ∧ Table.get 0 (s'.loom t.hall (cardLoom w)).controls (cardUnit w) = cardOperand w ∧
          Table.get 0 (s'.loom t.hall (cardLoom w)).drives (cardUnit w) =
            Table.get 0 (s.loom t.hall (cardLoom w)).drives (cardUnit w) + cardCount w) ∧
        (x.1 = 4 → s'.mem = s.mem ∧ s'.poison = s.poison ∧ Table.get 0 (s'.loom t.hall (cardLoom w)).modes (cardUnit w) = cardOperand w)) ∧
      (∀ x ∈ cards, cardAction w ≠ x.1 → exec x.2 s = .next s) ∧
      (t.progress + 1 = cardWords t → ∃ s' u, exec (.cardRun it) s = .next s' ∧ s'.item it = some u ∧ u.progress = t.progress + 1 ∧
        u.phase = .decided)) ∧
    exec (.cardRun it) s = .next (Nat.repeat (fun s => s.cardNext it none) (cardWords t - t.progress) s) ∧
    (((s.hall t.hall).treadle.diag ≠ .inside ∨ (s.hall t.hall).treadle.diagRing.toNat ≠ it.ring % 2048) → t.failedAt = none → t.caller = none →
      (∀ x ∈ cards, ∃ s', exec x.2 s = .next s' ∧ s'.failedWith it .access ∧ s'.sameBytes s) ∧
      (t.progress < cardWords t → ∃ s', exec (.cardRun it) s = .next s' ∧ s'.failedWith it .access ∧ s'.sameBytes s))
end

