-- ==== Sys2Proof/Laws/Memory.lean ====
section
/-!
SUPPORT. The laws of the sparse tables and of the memory: a read after a write, and that every memory operation keeps the canonical form.
-/
namespace Sys2Proof.Machine
set_option linter.unusedTactic false
set_option linter.unreachableTactic false

/-! ### Tables -/

/-- Every key of a table lies above a bound. -/
def Table.Above {α : Type} (k : Nat) (t : Table α) : Prop := ∀ p ∈ t, k < p.1

@[simp] theorem Table.get_nil {α : Type} (d : α) (i : Nat) : Table.get d [] i = d := rfl

theorem Table.get_insert {α : Type} (d : α) (t : Table α) (i j : Nat) (v : α) :
    Table.get d (t.insert i v) j = if i = j then v else Table.get d t j := by
  induction t with
  | nil => rfl
  | cons p t ih =>
    obtain ⟨k, w⟩ := p
    simp only [Table.insert]
    split
    · next h =>
      simp only [Table.get, ih]
      have hk : k ≠ i := by omega
      split <;> split <;> first | rfl | omega | (exfalso; omega)
    · split
      · next h => subst h; simp only [Table.get]; split <;> rfl
      · rfl

theorem Table.get_erase {α : Type} (d : α) (t : Table α) (i j : Nat) :
    Table.get d (t.erase i) j = if i = j then d else Table.get d t j := by
  induction t with
  | nil => simp [Table.erase]
  | cons p t ih =>
    obtain ⟨k, w⟩ := p
    simp only [Table.erase, List.filter_cons] at ih ⊢
    by_cases hk : k = i
    · subst hk
      simp only [bne_self_eq_false, Bool.false_eq_true, if_false, ih, Table.get]
      split <;> rfl
    · simp only [bne_iff_ne, ne_eq, hk, not_false_eq_true, if_true, Table.get, ih]
      split <;> split <;> first | rfl | (exfalso; omega)

/-- A table reads what was set at a key, and elsewhere what it read before. -/
theorem Table.get_set {α : Type} [DecidableEq α] (d : α) (t : Table α) (i j : Nat) (v : α) :
    Table.get d (Table.set d t i v) j = if i = j then v else Table.get d t j := by
  unfold Table.set
  split
  · next h => subst h; exact Table.get_erase _ t i j
  · exact Table.get_insert d t i j v

@[simp] theorem Table.get_set_self {α : Type} [DecidableEq α] (d : α) (t : Table α) (i : Nat) (v : α) :
    Table.get d (Table.set d t i v) i = v := by simp [Table.get_set]

theorem Table.get_set_other {α : Type} [DecidableEq α] (d : α) (t : Table α) {i j : Nat} (v : α) (h : i ≠ j) :
    Table.get d (Table.set d t i v) j = Table.get d t j := by simp [Table.get_set, h]

/-! ### The canonical form -/

theorem Memory.wf_cons (a : Nat) (b : Byte) (m : Memory) :
    Memory.wf ((a, b) :: m) = true ↔ b ≠ memDefault ∧ Table.Above a m ∧ m.wf = true := by
  induction m generalizing a b with
  | nil => simp [Memory.wf, Table.Above]
  | cons p m ih =>
    obtain ⟨a', b'⟩ := p
    have := ih a' b'
    simp only [Memory.wf, Bool.and_eq_true, bne_iff_ne, ne_eq, decide_eq_true_eq]
    constructor
    · rintro ⟨⟨hb, hlt⟩, hw⟩
      refine ⟨hb, ?_, hw⟩
      intro q hq
      rcases List.mem_cons.mp hq with rfl | hq
      · exact hlt
      · exact Nat.lt_trans hlt ((this.mp hw).2.1 q hq)
    · rintro ⟨hb, ha, hw⟩
      exact ⟨⟨hb, ha (a', b') (List.mem_cons_self ..)⟩, hw⟩

@[simp] theorem Memory.wf_nil : Memory.wf [] = true := rfl

theorem Memory.wf_filter (m : Memory) (f : Host.Cell → Bool) (h : m.wf = true) : Memory.wf (m.filter f) = true := by
  induction m with
  | nil => rfl
  | cons p m ih =>
    obtain ⟨a, b⟩ := p
    obtain ⟨hb, ha, hw⟩ := (Memory.wf_cons a b m).mp h
    rw [List.filter_cons]
    split
    · exact (Memory.wf_cons a b _).mpr ⟨hb, fun q hq => ha q (List.mem_filter.mp hq).1, ih hw⟩
    · exact ih hw

theorem Memory.above_insert {k i : Nat} {v : Byte} {m : Memory} (h : Table.Above k m) (hi : k < i) :
    Table.Above k (Table.insert m i v) := by
  induction m with
  | nil => intro q hq; simp [Table.insert] at hq; subst hq; exact hi
  | cons p m ih =>
    obtain ⟨a, b⟩ := p
    have hm : Table.Above k m := fun q hq => h q (List.mem_cons_of_mem _ hq)
    have ha : k < a := h (a, b) (List.mem_cons_self ..)
    simp only [Table.insert]
    split
    · intro q hq
      rcases List.mem_cons.mp hq with rfl | hq
      · exact ha
      · exact ih hm q hq
    · split
      · intro q hq
        rcases List.mem_cons.mp hq with rfl | hq
        · exact hi
        · exact hm q hq
      · intro q hq
        rcases List.mem_cons.mp hq with rfl | hq
        · exact hi
        · exact h q hq

theorem Memory.wf_insert {i : Nat} {v : Byte} {m : Memory} (h : m.wf = true) (hv : v ≠ memDefault) :
    Memory.wf (Table.insert m i v) = true := by
  induction m with
  | nil => simp [Table.insert, Memory.wf, hv]
  | cons p m ih =>
    obtain ⟨a, b⟩ := p
    obtain ⟨hb, ha, hw⟩ := (Memory.wf_cons a b m).mp h
    simp only [Table.insert]
    split
    · next hlt => exact (Memory.wf_cons a b _).mpr ⟨hb, Memory.above_insert ha hlt, ih hw⟩
    · next hlt =>
      split
      · next he => subst he; exact (Memory.wf_cons a v m).mpr ⟨hv, ha, hw⟩
      · next he =>
        refine (Memory.wf_cons i v _).mpr ⟨hv, ?_, h⟩
        intro q hq
        rcases List.mem_cons.mp hq with rfl | hq
        · show i < a; omega
        · exact Nat.lt_trans (by omega) (ha q hq)

/-- A write of one byte keeps the canonical form. -/
theorem Memory.wf_write {m : Memory} (a : Nat) (b : Byte) (h : m.wf = true) : (m.write a b).wf = true := by
  unfold Memory.write Table.set
  split
  · exact Memory.wf_filter m _ h
  · next hb => exact Memory.wf_insert h hb

/-- A write of a byte string keeps the canonical form. -/
theorem Memory.wf_writeBytes {m : Memory} (a : Nat) (bs : List Byte) (h : m.wf = true) : (m.writeBytes a bs).wf = true := by
  induction bs generalizing m a with
  | nil => exact h
  | cons b bs ih => exact ih (a + 1) (Memory.wf_write a b h)

/-- Zeroing a range keeps the canonical form. -/
theorem Memory.wf_zeroRange {m : Memory} (lo hi : Nat) (h : m.wf = true) : (m.zeroRange lo hi).wf = true :=
  Memory.wf_filter m _ h

/-- A write through an access, encrypted or not, keeps the canonical form. -/
theorem Memory.wf_store {m : Memory} (ac : Access) (a : Nat) (bs : List Byte) (h : m.wf = true) : (m.store ac a bs).wf = true := by
  unfold Memory.store
  split
  · exact Memory.wf_writeBytes _ _ h
  · split
    · exact h
    · exact Memory.wf_writeBytes _ _ h

/-! ### A read after a write -/

@[simp] theorem Memory.read_nil (a : Nat) : Memory.read [] a = memDefault := rfl

/-- A byte reads as written, and every other byte as before. -/
theorem Memory.read_write (m : Memory) (a c : Nat) (b : Byte) : (m.write a b).read c = if a = c then b else m.read c :=
  Table.get_set memDefault m a c b

/-- A byte string reads as written within it, and every byte outside it as before. -/
theorem Memory.read_writeBytes (m : Memory) (a c : Nat) (bs : List Byte) :
    (m.writeBytes a bs).read c = if a ≤ c ∧ c < a + bs.length then bs.getD (c - a) 0 else m.read c := by
  induction bs generalizing m a with
  | nil => simp [Memory.writeBytes] <;> omega
  | cons b bs ih =>
    simp only [Memory.writeBytes, ih, Memory.read_write, List.length_cons]
    by_cases h : a = c
    · subst h; simp <;> omega
    · by_cases h2 : a + 1 ≤ c ∧ c < a + 1 + bs.length
      · have e : c - a = c - (a + 1) + 1 := by omega
        simp only [h2, and_self, if_true, e, List.getD_cons_succ]
        rw [if_pos (by omega)]
      · rw [if_neg h2, if_neg h, if_neg (by omega)]

theorem Memory.readBytes_length (m : Memory) (a n : Nat) : (m.readBytes a n).length = n := by simp [Memory.readBytes]

/-- A byte string reads back as it was written. -/
theorem Memory.readBytes_writeBytes (m : Memory) (a : Nat) (bs : List Byte) :
    (m.writeBytes a bs).readBytes a bs.length = bs := by
  apply List.ext_getElem
  · simp [Memory.readBytes]
  · intro i h1 h2
    simp only [Memory.readBytes, List.getElem_map, List.getElem_range, Memory.read_writeBytes]
    rw [if_pos (by omega)]
    simp [h2]

/-- The bytes outside a written range are those of before. -/
theorem Memory.read_writeBytes_outside (m : Memory) {a c : Nat} (bs : List Byte) (h : c < a ∨ a + bs.length ≤ c) :
    (m.writeBytes a bs).read c = m.read c := by
  rw [Memory.read_writeBytes, if_neg (by omega)]

/-- Zeroed bytes read 0, the others as before. -/
theorem Memory.read_filter (m : Memory) (f : Nat → Bool) (c : Nat) :
    Memory.read (m.filter fun x => f x.1) c = if f c then m.read c else memDefault := by
  unfold Memory.read
  induction m with
  | nil => simp
  | cons p m ih =>
    obtain ⟨a, b⟩ := p
    rw [List.filter_cons]
    by_cases hf : f a
    · simp only [hf, if_true, Table.get, ih]
      by_cases h : a = c
      · subst h; simp [hf]
      · simp [h]
    · simp only [hf, Table.get]
      by_cases h : a = c
      · subst h; simp [hf, ih]
      · simp [h, ih]

theorem Memory.read_zeroRange (m : Memory) (lo hi c : Nat) :
    (m.zeroRange lo hi).read c = if lo ≤ c ∧ c < hi then memDefault else m.read c := by
  have := Memory.read_filter m (fun a => a < lo || hi ≤ a) c
  rw [show m.zeroRange lo hi = m.filter fun x => (fun a => decide (a < lo) || decide (hi ≤ a)) x.1 from rfl, this]
  by_cases h : lo ≤ c ∧ c < hi
  · rw [if_pos h, if_neg (by simp; omega)]
  · rw [if_neg h, if_pos (by simp; omega)]

end Sys2Proof.Machine
end

