-- ==== Sys2Proof/Laws/Keeps.lean ====
section
/-!
SUPPORT. What every operation of the module keeps: the queue of commands, the fuses but for the rollback counter, which only rises, the
memory's canonical form, and what has been drawn and said so far. `Keeps s₀ s` chains: each operation's lemma adds one step to it.
-/
namespace Sys2Proof.Machine
set_option linter.unusedTactic false
set_option linter.unreachableTactic false

/-- What a state owes to an earlier one. -/
structure Keeps (s s' : State) : Prop where
  queue : s'.pending = s.pending
  fuses : s'.part = { s.part with rollback := s'.part.rollback }
  counter : s.part.rollback.toNat ≤ s'.part.rollback.toNat
  drawn : s.free ≤ s'.free
  said : s.out <+: s'.out
  canon : s.mem.wf = true → s'.mem.wf = true

theorem Keeps.refl (s : State) : Keeps s s :=
  ⟨rfl, rfl, Nat.le_refl _, Nat.le_refl _, List.prefix_refl _, id⟩

theorem Keeps.trans {s t u : State} (h : Keeps s t) (k : Keeps t u) : Keeps s u :=
  ⟨k.queue.trans h.queue, by rw [k.fuses, h.fuses], Nat.le_trans h.counter k.counter, Nat.le_trans h.drawn k.drawn,
    h.said.trans k.said, k.canon ∘ h.canon⟩

/-- A change of none of these. -/
theorem Keeps.update_iff {s₀ s : State}
    (boot : Boot) (newel : Newel) (power : Power) (sec : Security) (hif : HostIf) (mod : ModulePage) (pages : Table Page)
    (counters latch lowHalf : Table W32) (halls : Table Hall) (poison corrected full : List Nat) (windows : Table Block512)
    (arrived : Table Nat) (rings : Table Ring) (busyAt : Table W64) (heldSince : Table Nat) (items : List Item)
    (lanes : Table (List Piece)) (sel : Table Selector) (knots loomKnots : Table Knot) (knotMsgs : List KnotMsg)
    (patterns : Table (Option Routine)) (looms : Table Loom) (bobbins : Table Bobbin) (ledgers : Table Ledger) (scrubs : Table Scrub)
    (caches : Table (List CacheLine)) (streams : Table Stream) (selvs : Table Selvedge) (progs : Table (Option (List W64 × BitVec 8)))
    (slvCtl : ProgControl) (flights : Table Flight) (xprCoord : W32) (xprHeld : List ItemId) (colls : List Collective)
    (openings : List OpenHead) (stale : List (Axis × Nat × Nat)) (transits : List Transit) (passages : List Passage)
    (rxs : List Receiving) (txs : List Sending) :
    Keeps s₀ (State.mk s.pending s.free s.out s.part boot newel power sec hif mod pages counters latch lowHalf halls s.mem poison
    corrected full windows arrived rings busyAt heldSince items lanes sel knots loomKnots knotMsgs patterns looms bobbins ledgers scrubs
    caches streams selvs progs slvCtl flights xprCoord xprHeld colls openings stale transits passages rxs txs) ↔
      Keeps s₀ s :=
  ⟨fun h => ⟨h.queue, h.fuses, h.counter, h.drawn, h.said, h.canon⟩,
   fun h => ⟨h.queue, h.fuses, h.counter, h.drawn, h.said, h.canon⟩⟩

/-- A change of the memory that keeps its canonical form, and of others of these. -/
theorem Keeps.updateMem {s₀ s : State}
    (boot : Boot) (newel : Newel) (power : Power) (sec : Security) (hif : HostIf) (mod : ModulePage) (pages : Table Page)
    (counters latch lowHalf : Table W32) (halls : Table Hall) (mem : Memory) (poison corrected full : List Nat) (windows : Table Block512)
    (arrived : Table Nat) (rings : Table Ring) (busyAt : Table W64) (heldSince : Table Nat) (items : List Item)
    (lanes : Table (List Piece)) (sel : Table Selector) (knots loomKnots : Table Knot) (knotMsgs : List KnotMsg)
    (patterns : Table (Option Routine)) (looms : Table Loom) (bobbins : Table Bobbin) (ledgers : Table Ledger) (scrubs : Table Scrub)
    (caches : Table (List CacheLine)) (streams : Table Stream) (selvs : Table Selvedge) (progs : Table (Option (List W64 × BitVec 8)))
    (slvCtl : ProgControl) (flights : Table Flight) (xprCoord : W32) (xprHeld : List ItemId) (colls : List Collective)
    (openings : List OpenHead) (stale : List (Axis × Nat × Nat)) (transits : List Transit) (passages : List Passage)
    (rxs : List Receiving) (txs : List Sending)
    (h : Keeps s₀ s) (hm : s.mem.wf = true → mem.wf = true) :
    Keeps s₀ (State.mk s.pending s.free s.out s.part boot newel power sec hif mod pages counters latch lowHalf halls mem poison corrected
    full windows arrived rings busyAt heldSince items lanes sel knots loomKnots knotMsgs patterns looms bobbins ledgers scrubs caches
    streams selvs progs slvCtl flights xprCoord xprHeld colls openings stale transits passages rxs txs) :=
  ⟨h.queue, h.fuses, h.counter, h.drawn, h.said, hm ∘ h.canon⟩

/-- Keeping goes through a case distinction. -/
theorem Keeps.ite {s₀ a b : State} {c : Prop} [Decidable c] (ha : c → Keeps s₀ a) (hb : ¬c → Keeps s₀ b) :
    Keeps s₀ (if c then a else b) := by
  split
  · exact ha ‹_›
  · exact hb ‹_›

/-- Keeping goes through a fold. -/
theorem Keeps.foldl {α : Type} {s₀ : State} (f : State → α → State) (l : List α) {s : State} (h : Keeps s₀ s)
    (H : ∀ s a, Keeps s₀ s → Keeps s₀ (f s a)) : Keeps s₀ (l.foldl f s) := by
  induction l generalizing s with
  | nil => exact h
  | cons a l ih => exact ih (H s a h)

/-- Keeping goes through a fold whose state carries a result. -/
theorem Keeps.foldlFst {α β : Type} {s₀ : State} (f : State × β → α → State × β) (l : List α) {p : State × β} (h : Keeps s₀ p.1)
    (H : ∀ p a, Keeps s₀ p.1 → Keeps s₀ (f p a).1) : Keeps s₀ (l.foldl f p).1 := by
  induction l generalizing p with
  | nil => exact h
  | cons a l ih => exact ih (H p a h)

/-- Drawing a free value. -/
theorem State.draw_keeps {s₀ s : State} (h : Keeps s₀ s) : Keeps s₀ s.draw.2 :=
  ⟨h.queue, h.fuses, h.counter, Nat.le_succ_of_le h.drawn, h.said, h.canon⟩

/-- Saying something. -/
theorem State.emit_keeps {s₀ s : State} (r : Reply) (h : Keeps s₀ s) : Keeps s₀ (s.emit r) :=
  ⟨h.queue, h.fuses, h.counter, h.drawn, h.said.trans (List.prefix_append _ _), h.canon⟩

end Sys2Proof.Machine
end

