-- ==== Sys2Proof/Laws/KeepsBase.lean ====
section
/-!
SUPPORT. What each operation keeps (Laws/Keeps.lean): the tables, pages, windows, links, items and resets. One lemma an operation, each citing those of the
operations it calls.
-/
namespace Sys2Proof.Machine

theorem State.interrupt_keeps {s₀ s : State} (function : ℕ) (vector : ℕ) (hk : Keeps s₀ s) : Keeps s₀ (State.interrupt s function vector) := by
  unfold State.interrupt
  try dsimp only
  repeat' first
    | with_reducible assumption | with_reducible apply State.emit_keeps | with_reducible apply Keeps.ite | intro _ | split

theorem State.modHall_keeps {s₀ s : State} (h : ℕ) (f : Hall → Hall) (hk : Keeps s₀ s) : Keeps s₀ (State.modHall s h f) := by
  unfold State.modHall
  try dsimp only
  repeat' first
    | with_reducible assumption | with_reducible apply Keeps.ite | simp only [Keeps.update_iff] | intro _ | split

theorem State.modTreadle_keeps {s₀ s : State} (h : ℕ) (f : Treadle → Treadle) (hk : Keeps s₀ s) : Keeps s₀ (State.modTreadle s h f) := by
  unfold State.modTreadle
  try dsimp only
  repeat' first
    | with_reducible assumption | with_reducible apply State.modHall_keeps | with_reducible apply Keeps.ite | intro _ | split

theorem State.modKeeper_keeps {s₀ s : State} (h : ℕ) (f : Keeper → Keeper) (hk : Keeps s₀ s) : Keeps s₀ (State.modKeeper s h f) := by
  unfold State.modKeeper
  try dsimp only
  repeat' first
    | with_reducible assumption | with_reducible apply State.modHall_keeps | with_reducible apply Keeps.ite | intro _ | split

theorem State.modRing_keeps {s₀ s : State} (g : ℕ) (f : Ring → Ring) (hk : Keeps s₀ s) : Keeps s₀ (State.modRing s g f) := by
  unfold State.modRing
  try dsimp only
  repeat' first
    | with_reducible assumption | with_reducible apply Keeps.ite | simp only [Keeps.update_iff] | intro _ | split

theorem State.bump_keeps {s₀ s : State} (p : ℕ) (sel : ℕ) (n : ℕ) (hk : Keeps s₀ s) : Keeps s₀ (State.bump s p sel n) := by
  unfold State.bump
  try dsimp only
  repeat' first
    | with_reducible assumption | with_reducible apply Keeps.ite | simp only [Keeps.update_iff] | intro _ | split

theorem State.modKnot_keeps {s₀ s : State} (k : ℕ) (f : Knot → Knot) (hk : Keeps s₀ s) : Keeps s₀ (State.modKnot s k f) := by
  unfold State.modKnot
  try dsimp only
  repeat' first
    | with_reducible assumption | with_reducible apply Keeps.ite | simp only [Keeps.update_iff] | intro _ | split

theorem State.modLoom_keeps {s₀ s : State} (h : ℕ) (l : ℕ) (f : Loom → Loom) (hk : Keeps s₀ s) : Keeps s₀ (State.modLoom s h l f) := by
  unfold State.modLoom
  try dsimp only
  repeat' first
    | with_reducible assumption | with_reducible apply Keeps.ite | simp only [Keeps.update_iff] | intro _ | split

theorem State.modBobbin_keeps {s₀ s : State} (h : ℕ) (l : ℕ) (f : Bobbin → Bobbin) (hk : Keeps s₀ s) : Keeps s₀ (State.modBobbin s h l f) := by
  unfold State.modBobbin
  try dsimp only
  repeat' first
    | with_reducible assumption | with_reducible apply Keeps.ite | simp only [Keeps.update_iff] | intro _ | split

theorem State.modLedger_keeps {s₀ s : State} (h : ℕ) (f : Ledger → Ledger) (hk : Keeps s₀ s) : Keeps s₀ (State.modLedger s h f) := by
  unfold State.modLedger
  try dsimp only
  repeat' first
    | with_reducible assumption | with_reducible apply Keeps.ite | simp only [Keeps.update_iff] | intro _ | split

theorem State.setCache_keeps {s₀ s : State} (h : ℕ) (c : List CacheLine) (hk : Keeps s₀ s) : Keeps s₀ (State.setCache s h c) := by
  unfold State.setCache
  try dsimp only
  repeat' first
    | with_reducible assumption | with_reducible apply Keeps.ite | simp only [Keeps.update_iff] | intro _ | split

theorem State.modStream_keeps {s₀ s : State} (h : ℕ) (d : ℕ) (f : Stream → Stream) (hk : Keeps s₀ s) : Keeps s₀ (State.modStream s h d f) := by
  unfold State.modStream
  try dsimp only
  repeat' first
    | with_reducible assumption | with_reducible apply Keeps.ite | simp only [Keeps.update_iff] | intro _ | split

theorem State.modSelv_keeps {s₀ s : State} (p : ℕ) (f : Selvedge → Selvedge) (hk : Keeps s₀ s) : Keeps s₀ (State.modSelv s p f) := by
  unfold State.modSelv
  try dsimp only
  repeat' first
    | with_reducible assumption | with_reducible apply Keeps.ite | simp only [Keeps.update_iff] | intro _ | split

theorem State.modFlight_keeps {s₀ s : State} (p : ℕ) (f : Flight → Flight) (hk : Keeps s₀ s) : Keeps s₀ (State.modFlight s p f) := by
  unfold State.modFlight
  try dsimp only
  repeat' first
    | with_reducible assumption | with_reducible apply Keeps.ite | simp only [Keeps.update_iff] | intro _ | split

theorem State.setWindow_keeps {s₀ s : State} (k : ℕ) (w : Block512) (hk : Keeps s₀ s) : Keeps s₀ (State.setWindow s k w) := by
  unfold State.setWindow
  try dsimp only
  repeat' first
    | with_reducible assumption | with_reducible apply Keeps.ite | simp only [Keeps.update_iff] | intro _ | split

theorem State.setArrival_keeps {s₀ s : State} (k : ℕ) (n : ℕ) (hk : Keeps s₀ s) : Keeps s₀ (State.setArrival s k n) := by
  unfold State.setArrival
  try dsimp only
  repeat' first
    | with_reducible assumption | with_reducible apply Keeps.ite | simp only [Keeps.update_iff] | intro _ | split

theorem State.setLane_keeps {s₀ s : State} (k : ℕ) (ps : List Piece) (hk : Keeps s₀ s) : Keeps s₀ (State.setLane s k ps) := by
  unfold State.setLane
  try dsimp only
  repeat' first
    | with_reducible assumption | with_reducible apply Keeps.ite | simp only [Keeps.update_iff] | intro _ | split

theorem State.setSelector_keeps {s₀ s : State} (k : ℕ) (v : Selector) (hk : Keeps s₀ s) : Keeps s₀ (State.setSelector s k v) := by
  unfold State.setSelector
  try dsimp only
  repeat' first
    | with_reducible assumption | with_reducible apply Keeps.ite | simp only [Keeps.update_iff] | intro _ | split

theorem State.setRoutine_keeps {s₀ s : State} (h : ℕ) (i : ℕ) (r : Option Routine) (hk : Keeps s₀ s) : Keeps s₀ (State.setRoutine s h i r) := by
  unfold State.setRoutine
  try dsimp only
  repeat' first
    | with_reducible assumption | with_reducible apply Keeps.ite | simp only [Keeps.update_iff] | intro _ | split

theorem State.modItem_keeps {s₀ s : State} (i : ItemId) (f : Item → Item) (hk : Keeps s₀ s) : Keeps s₀ (State.modItem s i f) := by
  unfold State.modItem
  try dsimp only
  repeat' first
    | with_reducible assumption | with_reducible apply Keeps.ite | simp only [Keeps.update_iff] | intro _ | split

theorem State.unpoison_keeps {s₀ s : State} (a : ℕ) (n : ℕ) (hk : Keeps s₀ s) : Keeps s₀ (State.unpoison s a n) := by
  unfold State.unpoison
  try dsimp only
  repeat' first
    | with_reducible assumption | with_reducible apply Keeps.ite | simp only [Keeps.update_iff] | with_reducible apply Keeps.updateMem
    | exact Memory.wf_filter _ _ | intro _ | split

theorem State.addPoison_keeps {s₀ s : State} (w : ℕ) (hk : Keeps s₀ s) : Keeps s₀ (State.addPoison s w) := by
  unfold State.addPoison
  try dsimp only
  repeat' first
    | with_reducible assumption | with_reducible apply Keeps.ite | simp only [Keeps.update_iff] | intro _ | split

theorem State.markFull_keeps {s₀ s : State} (a : ℕ) (n : ℕ) (hk : Keeps s₀ s) : Keeps s₀ (State.markFull s a n) := by
  unfold State.markFull
  try dsimp only
  repeat' first
    | with_reducible assumption | with_reducible apply Keeps.foldl | with_reducible apply Keeps.foldlFst | with_reducible apply Keeps.ite
    | simp only [Keeps.update_iff] | intro _ | split

theorem State.markEmpty_keeps {s₀ s : State} (a : ℕ) (n : ℕ) (hk : Keeps s₀ s) : Keeps s₀ (State.markEmpty s a n) := by
  unfold State.markEmpty
  try dsimp only
  repeat' first
    | with_reducible assumption | with_reducible apply Keeps.ite | simp only [Keeps.update_iff] | with_reducible apply Keeps.updateMem
    | exact Memory.wf_filter _ _ | intro _ | split

theorem State.modPage_keeps {s₀ s : State} (p : ℕ) (f : Page → Page) (hk : Keeps s₀ s) : Keeps s₀ (State.modPage s p f) := by
  unfold State.modPage
  try dsimp only
  repeat' first
    | with_reducible assumption | with_reducible apply State.interrupt_keeps | with_reducible apply Keeps.ite
    | simp only [Keeps.update_iff] | intro _ | split

theorem State.event_keeps {s₀ s : State} (p : ℕ) (b : ℕ) (hk : Keeps s₀ s) : Keeps s₀ (State.event s p b) := by
  unfold State.event
  try dsimp only
  repeat' first
    | with_reducible assumption | with_reducible apply State.modPage_keeps | with_reducible apply Keeps.ite | intro _ | split

theorem State.fault_keeps {s₀ s : State} (p : ℕ) (st : Status) (i0 : W32) (i1 : W32) (hk : Keeps s₀ s) : Keeps s₀ (State.fault s p st i0 i1) := by
  unfold State.fault
  try dsimp only
  repeat' first
    | with_reducible assumption | with_reducible apply State.modPage_keeps | with_reducible apply Keeps.ite | intro _ | split

theorem State.refuse_keeps {s₀ s : State} (p : ℕ) (value : W32) (hk : Keeps s₀ s) : Keeps s₀ (State.refuse s p value) := by
  unfold State.refuse
  try dsimp only
  repeat' first
    | with_reducible assumption | with_reducible apply State.fault_keeps | with_reducible apply Keeps.ite | intro _ | split

theorem State.retune_keeps {s₀ s : State} (h : ℕ) (hk : Keeps s₀ s) : Keeps s₀ (State.retune s h) := by
  unfold State.retune
  try dsimp only
  repeat' first
    | with_reducible assumption | with_reducible apply State.modKeeper_keeps | with_reducible apply Keeps.ite | intro _ | split

theorem State.retuneAll_keeps {s₀ s : State}  (hk : Keeps s₀ s) : Keeps s₀ (State.retuneAll s) := by
  unfold State.retuneAll
  try dsimp only
  repeat' first
    | with_reducible assumption | with_reducible apply State.retune_keeps | with_reducible apply Keeps.foldl
    | with_reducible apply Keeps.foldlFst | with_reducible apply Keeps.ite | intro _ | split

theorem State.leaveIdle_keeps {s₀ s : State} (h : ℕ) (hk : Keeps s₀ s) : Keeps s₀ (State.leaveIdle s h) := by
  unfold State.leaveIdle
  try dsimp only
  repeat' first
    | with_reducible assumption | with_reducible apply State.retune_keeps | with_reducible apply State.modKeeper_keeps
    | with_reducible apply Keeps.ite | intro _ | split

theorem State.touch_keeps {s₀ s : State} (h : ℕ) (hk : Keeps s₀ s) : Keeps s₀ (State.touch s h) := by
  unfold State.touch
  try dsimp only
  repeat' first
    | with_reducible assumption | with_reducible apply Keeps.ite | simp only [Keeps.update_iff] | intro _ | split

theorem State.driveAlert_keeps {s₀ s : State}  (hk : Keeps s₀ s) : Keeps s₀ (State.driveAlert s) := by
  unfold State.driveAlert
  try dsimp only
  repeat' first
    | with_reducible assumption | with_reducible apply Keeps.ite | simp only [Keeps.update_iff] | intro _ | split

theorem State.noteSensor_keeps {s₀ s : State} (n : ℕ) (hk : Keeps s₀ s) : Keeps s₀ (State.noteSensor s n) := by
  unfold State.noteSensor
  try dsimp only
  repeat' first
    | with_reducible assumption | with_reducible apply Keeps.ite | simp only [Keeps.update_iff] | intro _ | split

theorem State.setCmp_keeps {s₀ s : State} (n : ℕ) (v : W32) (hk : Keeps s₀ s) : Keeps s₀ (State.setCmp s n v) := by
  unfold State.setCmp
  try dsimp only
  repeat' first
    | with_reducible assumption | with_reducible apply State.driveAlert_keeps | with_reducible apply Keeps.ite
    | simp only [Keeps.update_iff] | intro _ | split

theorem State.setCmpVal_keeps {s₀ s : State} (n : ℕ) (v : W64) (hk : Keeps s₀ s) : Keeps s₀ (State.setCmpVal s n v) := by
  unfold State.setCmpVal
  try dsimp only
  repeat' first
    | with_reducible assumption | with_reducible apply Keeps.ite | simp only [Keeps.update_iff] | intro _ | split

theorem State.wake_keeps {s₀ s : State}  (hk : Keeps s₀ s) : Keeps s₀ (State.wake s) := by
  unfold State.wake
  try dsimp only
  repeat' first
    | with_reducible assumption | with_reducible apply Keeps.ite | simp only [Keeps.update_iff] | intro _ | split

theorem State.trip_keeps {s₀ s : State} (n : ℕ) (hk : Keeps s₀ s) : Keeps s₀ (State.trip s n) := by
  unfold State.trip
  try dsimp only
  repeat' first
    | with_reducible assumption | with_reducible apply State.event_keeps | with_reducible apply State.setCmp_keeps
    | with_reducible apply State.noteSensor_keeps | with_reducible apply State.wake_keeps | with_reducible apply Keeps.ite | intro _
    | split

theorem State.timeTrip_keeps {s₀ s : State} (n : ℕ) (hk : Keeps s₀ s) : Keeps s₀ (State.timeTrip s n) := by
  unfold State.timeTrip
  try dsimp only
  repeat' first
    | with_reducible assumption | with_reducible apply State.trip_keeps | with_reducible apply State.emit_keeps
    | with_reducible apply State.setCmpVal_keeps | with_reducible apply Keeps.ite | simp only [Keeps.update_iff] | intro _ | split

theorem State.cmpCtlWrite_keeps {s₀ s : State} (n : ℕ) (v : W32) (hk : Keeps s₀ s) : Keeps s₀ (State.cmpCtlWrite s n v) := by
  unfold State.cmpCtlWrite
  try dsimp only
  repeat' first
    | with_reducible assumption | with_reducible apply State.fault_keeps | with_reducible apply State.timeTrip_keeps
    | with_reducible apply State.setCmp_keeps | with_reducible apply Keeps.ite | intro _ | split

theorem State.cmpValWrite_keeps {s₀ s : State} (n : ℕ) (v : W64) (hk : Keeps s₀ s) : Keeps s₀ (State.cmpValWrite s n v) := by
  unfold State.cmpValWrite
  try dsimp only
  repeat' first
    | with_reducible assumption | with_reducible apply State.timeTrip_keeps | with_reducible apply State.setCmpVal_keeps
    | with_reducible apply State.refuse_keeps | with_reducible apply Keeps.ite | intro _ | split

theorem State.temperatureTrip_keeps {s₀ s : State} (celsius : ℕ) (hk : Keeps s₀ s) : Keeps s₀ (State.temperatureTrip s celsius) := by
  unfold State.temperatureTrip
  try dsimp only
  repeat' first
    | with_reducible assumption | with_reducible apply State.trip_keeps | with_reducible apply Keeps.ite | intro _ | split

theorem State.flowTrip_keeps {s₀ s : State} (pulses : ℕ) (hk : Keeps s₀ s) : Keeps s₀ (State.flowTrip s pulses) := by
  unfold State.flowTrip
  try dsimp only
  repeat' first
    | with_reducible assumption | with_reducible apply State.trip_keeps | with_reducible apply Keeps.ite | intro _ | split

theorem State.moduleWake_keeps {s₀ s : State} (c : WakeCause) (hk : Keeps s₀ s) : Keeps s₀ (State.moduleWake s c) := by
  unfold State.moduleWake
  try dsimp only
  repeat' first
    | with_reducible assumption | with_reducible apply State.wake_keeps | with_reducible apply State.timeTrip_keeps
    | with_reducible apply State.trip_keeps | with_reducible apply Keeps.ite | intro _ | split

theorem State.ptpLock_keeps {s₀ s : State} (offset : ℤ) (hk : Keeps s₀ s) : Keeps s₀ (State.ptpLock s offset) := by
  unfold State.ptpLock
  try dsimp only
  repeat' first
    | with_reducible assumption | with_reducible apply Keeps.ite | simp only [Keeps.update_iff] | intro _ | split

theorem State.ptpLoss_keeps {s₀ s : State}  (hk : Keeps s₀ s) : Keeps s₀ (State.ptpLoss s) := by
  unfold State.ptpLoss
  try dsimp only
  repeat' first
    | with_reducible assumption | with_reducible apply Keeps.ite | simp only [Keeps.update_iff] | intro _ | split

theorem State.ppsIn_keeps {s₀ s : State}  (hk : Keeps s₀ s) : Keeps s₀ (State.ppsIn s) := by
  unfold State.ppsIn
  try dsimp only
  repeat' first
    | with_reducible assumption | with_reducible apply State.draw_keeps | with_reducible apply Keeps.ite | simp only [Keeps.update_iff]
    | intro _ | split

theorem State.followMaster_keeps {s₀ s : State}  (hk : Keeps s₀ s) : Keeps s₀ (State.followMaster s) := by
  unfold State.followMaster
  try dsimp only
  repeat' first
    | with_reducible assumption | with_reducible apply Keeps.ite | simp only [Keeps.update_iff] | intro _ | split

theorem State.setForeign_keeps {s₀ s : State} (p : ℕ) (c : Option PtpClock) (hk : Keeps s₀ s) : Keeps s₀ (State.setForeign s p c) := by
  unfold State.setForeign
  try dsimp only
  repeat' first
    | with_reducible assumption | with_reducible apply State.followMaster_keeps | with_reducible apply Keeps.ite
    | simp only [Keeps.update_iff] | intro _ | split

theorem State.hear_keeps {s₀ s : State} (p : ℕ) (hk : Keeps s₀ s) : Keeps s₀ (State.hear s p) := by
  unfold State.hear
  try dsimp only
  repeat' first
    | with_reducible assumption | with_reducible apply State.modFlight_keeps | with_reducible apply Keeps.ite | intro _ | split

theorem State.headerWrite_keeps {s₀ s : State} (n : ℕ) (rel : ℕ) (v : W32) (hk : Keeps s₀ s) : Keeps s₀ (State.headerWrite s n rel v) := by
  unfold State.headerWrite
  try dsimp only
  repeat' first
    | with_reducible assumption | with_reducible apply State.modPage_keeps | with_reducible apply Keeps.ite | intro _ | split

theorem State.stageLow_keeps {s₀ s : State} (off : ℕ) (v : W32) (hk : Keeps s₀ s) : Keeps s₀ (State.stageLow s off v) := by
  unfold State.stageLow
  try dsimp only
  repeat' first
    | with_reducible assumption | with_reducible apply Keeps.ite | simp only [Keeps.update_iff] | intro _ | split

theorem State.joinHigh_keeps {s₀ s : State} (off : ℕ) (old : W64) (hi : W32) (hk : Keeps s₀ s) : Keeps s₀ (State.joinHigh s off old hi).2 := by
  unfold State.joinHigh
  try dsimp only
  repeat' first
    | with_reducible assumption | with_reducible apply Keeps.ite | simp only [Keeps.update_iff] | intro _ | split

theorem State.levelWrite_keeps {s₀ s : State} (v : W32) (hk : Keeps s₀ s) : Keeps s₀ (State.levelWrite s v) := by
  unfold State.levelWrite
  try dsimp only
  repeat' first
    | with_reducible assumption | with_reducible apply State.refuse_keeps | with_reducible apply Keeps.ite | simp only [Keeps.update_iff]
    | intro _ | split

theorem State.moduleCtrlWrite_keeps {s₀ s : State} (v : W32) (hk : Keeps s₀ s) : Keeps s₀ (State.moduleCtrlWrite s v) := by
  unfold State.moduleCtrlWrite
  try dsimp only
  repeat' first
    | with_reducible assumption | with_reducible apply Keeps.ite | simp only [Keeps.update_iff] | intro _ | split

theorem State.moduleWrite_keeps {s₀ s : State} (rel : ℕ) (v : W32) (hk : Keeps s₀ s) : Keeps s₀ (State.moduleWrite s rel v) := by
  unfold State.moduleWrite
  try dsimp only
  repeat' first
    | with_reducible assumption | with_reducible apply State.moduleCtrlWrite_keeps | with_reducible apply State.levelWrite_keeps
    | with_reducible apply State.refuse_keeps | with_reducible apply Keeps.ite | simp only [Keeps.update_iff] | intro _ | split

theorem State.newelWrite_keeps {s₀ s : State} (rel : ℕ) (v : W32) (hk : Keeps s₀ s) : Keeps s₀ (State.newelWrite s rel v) := by
  unfold State.newelWrite
  try dsimp only
  repeat' first
    | with_reducible assumption | with_reducible apply State.cmpCtlWrite_keeps | with_reducible apply State.stageLow_keeps
    | with_reducible apply State.joinHigh_keeps | with_reducible apply State.cmpValWrite_keeps | with_reducible apply Keeps.ite | intro _
    | split

theorem State.powerWrite_keeps {s₀ s : State} (rel : ℕ) (v : W32) (hk : Keeps s₀ s) : Keeps s₀ (State.powerWrite s rel v) := by
  unfold State.powerWrite
  try dsimp only
  repeat' first
    | with_reducible assumption | with_reducible apply State.refuse_keeps | with_reducible apply Keeps.ite | simp only [Keeps.update_iff]
    | intro _ | split

theorem State.ownerWrite_keeps {s₀ s : State} (hash : BitVec 384) (hk : Keeps s₀ s) : Keeps s₀ (State.ownerWrite s hash) := by
  unfold State.ownerWrite
  try dsimp only
  repeat' first
    | with_reducible assumption | with_reducible apply State.refuse_keeps | with_reducible apply Keeps.ite | simp only [Keeps.update_iff]
    | intro _ | split

theorem State.securityWrite_keeps {s₀ s : State} (rel : ℕ) (v : W32) (hk : Keeps s₀ s) : Keeps s₀ (State.securityWrite s rel v) := by
  unfold State.securityWrite
  try dsimp only
  repeat' first
    | with_reducible assumption | with_reducible apply State.refuse_keeps | with_reducible apply Keeps.ite | simp only [Keeps.update_iff]
    | intro _ | split

theorem State.bar4Write_keeps {s₀ s : State} (f : ℕ) (v : W32) (hk : Keeps s₀ s) : Keeps s₀ (State.bar4Write s f v) := by
  unfold State.bar4Write
  try dsimp only
  repeat' first
    | with_reducible assumption | with_reducible apply State.refuse_keeps | with_reducible apply Keeps.ite | simp only [Keeps.update_iff]
    | intro _ | split

theorem State.cohWrite_keeps {s₀ s : State} (j : ℕ) (v : W64) (hk : Keeps s₀ s) : Keeps s₀ (State.cohWrite s j v) := by
  unfold State.cohWrite
  try dsimp only
  repeat' first
    | with_reducible assumption | with_reducible apply Keeps.ite | simp only [Keeps.update_iff] | intro _ | split

theorem State.hifWrite_keeps {s₀ s : State} (rel : ℕ) (v : W32) (hk : Keeps s₀ s) : Keeps s₀ (State.hifWrite s rel v) := by
  unfold State.hifWrite
  try dsimp only
  repeat' first
    | with_reducible assumption | with_reducible apply State.refuse_keeps | with_reducible apply State.bar4Write_keeps
    | with_reducible apply State.stageLow_keeps | with_reducible apply State.joinHigh_keeps | with_reducible apply State.cohWrite_keeps
    | with_reducible apply Keeps.ite | simp only [Keeps.update_iff] | intro _ | split

theorem State.moduleBlockWrite_keeps {s₀ s : State} (id : PageId) (rel : ℕ) (v : W32)
    (hk : Keeps s₀ s) : Keeps s₀ (State.moduleBlockWrite s id rel v) := by
  unfold State.moduleBlockWrite
  try dsimp only
  repeat' first
    | with_reducible assumption | with_reducible apply State.moduleWrite_keeps | with_reducible apply State.newelWrite_keeps
    | with_reducible apply State.powerWrite_keeps | with_reducible apply State.securityWrite_keeps
    | with_reducible apply State.hifWrite_keeps | with_reducible apply Keeps.ite | intro _ | split

theorem State.managementWrite_keeps {s₀ s : State} (off : ℕ) (v : W32) (hk : Keeps s₀ s) : Keeps s₀ (State.managementWrite s off v) := by
  unfold State.managementWrite
  try dsimp only
  repeat' first
    | with_reducible assumption | with_reducible apply State.headerWrite_keeps | with_reducible apply State.moduleBlockWrite_keeps
    | with_reducible apply Keeps.ite | intro _ | split

theorem State.secStatusRead_keeps {s₀ s : State}  (hk : Keeps s₀ s) : Keeps s₀ (State.secStatusRead s) := by
  unfold State.secStatusRead
  try dsimp only
  repeat' first
    | with_reducible assumption | with_reducible apply Keeps.ite | simp only [Keeps.update_iff] | intro _ | split

theorem State.managementTouch_keeps {s₀ s : State} (off : ℕ) (hk : Keeps s₀ s) : Keeps s₀ (State.managementTouch s off) := by
  unfold State.managementTouch
  try dsimp only
  repeat' first
    | with_reducible assumption | with_reducible apply State.secStatusRead_keeps | with_reducible apply Keeps.ite
    | simp only [Keeps.update_iff] | intro _ | split

theorem State.managementReads_keeps {s₀ s : State} (off : ℕ) (n : ℕ) (hk : Keeps s₀ s) : Keeps s₀ (State.managementReads s off n) := by
  unfold State.managementReads
  try dsimp only
  repeat' first
    | with_reducible assumption | with_reducible apply State.managementTouch_keeps | with_reducible apply Keeps.foldl
    | with_reducible apply Keeps.foldlFst | with_reducible apply Keeps.ite | intro _ | split

theorem State.managementStore_keeps {s₀ s : State} (off : ℕ) (bs : List Byte) (hk : Keeps s₀ s) : Keeps s₀ (State.managementStore s off bs) := by
  unfold State.managementStore
  try dsimp only
  repeat' first
    | with_reducible assumption | with_reducible apply State.managementWrite_keeps | with_reducible apply Keeps.foldl
    | with_reducible apply Keeps.foldlFst | with_reducible apply Keeps.ite | intro _ | split

theorem State.ctxWrite_keeps {s₀ s : State} (c : ℕ) (b : ℕ) (n : ℕ) (v : ℕ) (hk : Keeps s₀ s) : Keeps s₀ (State.ctxWrite s c b n v) := by
  unfold State.ctxWrite
  try dsimp only
  repeat' first
    | with_reducible assumption | with_reducible apply Keeps.ite | simp only [Keeps.update_iff] | with_reducible apply Keeps.updateMem
    | exact Memory.wf_writeBytes _ _ | intro _ | split

theorem State.rechargeLines_keeps {s₀ s : State} (c : ℕ) (b : ℕ) (a : ℕ) (hk : Keeps s₀ s) : Keeps s₀ (State.rechargeLines s c b a) := by
  unfold State.rechargeLines
  try dsimp only
  repeat' first
    | with_reducible assumption | with_reducible apply State.ctxWrite_keeps | with_reducible apply Keeps.ite | intro _ | split

theorem State.replaceCache_keeps {s₀ s : State} (h : ℕ) (ls : List CacheLine) (hk : Keeps s₀ s) : Keeps s₀ (State.replaceCache s h ls) := by
  unfold State.replaceCache
  try dsimp only
  repeat' first
    | with_reducible assumption | with_reducible apply State.setCache_keeps | with_reducible apply State.rechargeLines_keeps
    | with_reducible apply Keeps.foldl | with_reducible apply Keeps.foldlFst | with_reducible apply Keeps.ite | intro _ | split

theorem State.store_keeps {s₀ s : State} (ac : Access) (a : ℕ) (bs : List Byte) (hk : Keeps s₀ s) : Keeps s₀ (State.store s ac a bs) := by
  unfold State.store
  try dsimp only
  repeat' first
    | with_reducible assumption | with_reducible apply State.managementStore_keeps | with_reducible apply State.unpoison_keeps
    | with_reducible apply State.replaceCache_keeps | with_reducible apply Keeps.ite | simp only [Keeps.update_iff]
    | with_reducible apply Keeps.updateMem | exact Memory.wf_store _ _ _ | intro _ | split

theorem State.putCode_keeps {s₀ s : State} (ac : Access) (fmt : ℕ) (ra : ℕ) (i0 : ℕ) (code : ℕ)
    (hk : Keeps s₀ s) : Keeps s₀ (State.putCode s ac fmt ra i0 code) := by
  unfold State.putCode
  try dsimp only
  repeat' first
    | with_reducible assumption | with_reducible apply State.store_keeps | with_reducible apply Keeps.ite | intro _ | split

theorem State.putCodes_keeps {s₀ s : State} (ac : Access) (w : Block512) (r : ℕ) (c0 : ℕ) (cs : List Coded)
    (hk : Keeps s₀ s) : Keeps s₀ (State.putCodes s ac w r c0 cs) := by
  unfold State.putCodes
  try dsimp only
  repeat' first
    | with_reducible assumption | with_reducible apply State.unpoison_keeps | with_reducible apply State.putCode_keeps
    | with_reducible apply Keeps.foldl | with_reducible apply Keeps.foldlFst | with_reducible apply Keeps.ite | intro _ | split

theorem State.putBlock_keeps {s₀ s : State} (ac : Access) (w : Block512) (cv : Conv) (r : ℕ) (b : ℕ) (c0 : ℕ) (xs : List W32)
    (hk : Keeps s₀ s) : Keeps s₀ (State.putBlock s ac w cv r b c0 xs).1 := by
  unfold State.putBlock
  try dsimp only
  repeat' first
    | with_reducible assumption | with_reducible apply State.store_keeps | with_reducible apply State.putCodes_keeps
    | with_reducible apply Keeps.ite | intro _ | split

theorem State.putRow_keeps {s₀ s : State} (ac : Access) (w : Block512) (cv : Conv) (ts : W32) (r : ℕ) (c0 : ℕ) (xs : List W32)
    (hk : Keeps s₀ s) : Keeps s₀ (State.putRow s ac w cv ts r c0 xs).1 := by
  unfold State.putRow
  try dsimp only
  repeat' first
    | with_reducible assumption | with_reducible apply State.putBlock_keeps | with_reducible apply State.unpoison_keeps
    | with_reducible apply State.putCodes_keeps | with_reducible apply Keeps.foldl | with_reducible apply Keeps.foldlFst
    | with_reducible apply Keeps.ite | intro _ | split

theorem State.grantPort_keeps {s₀ s : State} (p : ℕ) (hk : Keeps s₀ s) : ∀ s', State.grantPort s p = some s' → Keeps s₀ s' := by
  intro s' he
  unfold State.grantPort at he
  dsimp only at he
  split at he <;> simp only [Option.some.injEq, reduceCtorEq] at he
  subst he
  exact State.emit_keeps _ (State.modFlight_keeps _ _ hk)

theorem State.drainPort_keeps {s₀ a2 : State} (p : ℕ) (a1 : ℕ) (hk : Keeps s₀ a2) : Keeps s₀ (State.drainPort p a1 a2) := by
  induction a1 generalizing a2 with
  | zero => exact hk
  | succ n ih =>
    unfold State.drainPort
    split
    · next h => exact ih (State.grantPort_keeps _ hk _ h)
    · exact hk

theorem State.sendRequest_keeps {s₀ s : State} (p : ℕ) (prio : ℕ) (pk : Packet) (hk : Keeps s₀ s) : Keeps s₀ (State.sendRequest s p prio pk) := by
  unfold State.sendRequest
  try dsimp only
  repeat' first
    | with_reducible assumption | with_reducible apply State.modFlight_keeps | with_reducible apply State.drainPort_keeps
    | with_reducible apply Keeps.ite | intro _ | split

theorem State.sendReply_keeps {s₀ s : State} (p : ℕ) (express : Bool) (vc : ℕ) (pk : Packet)
    (hk : Keeps s₀ s) : Keeps s₀ (State.sendReply s p express vc pk) := by
  unfold State.sendReply
  try dsimp only
  repeat' first
    | with_reducible assumption | with_reducible apply State.modFlight_keeps | with_reducible apply State.emit_keeps
    | with_reducible apply Keeps.ite | intro _ | split

theorem State.sendResponse_keeps {s₀ s : State} (p : ℕ) (pk : Packet) (hk : Keeps s₀ s) : Keeps s₀ (State.sendResponse s p pk) := by
  unfold State.sendResponse
  try dsimp only
  repeat' first
    | with_reducible assumption | with_reducible apply State.sendReply_keeps | with_reducible apply Keeps.ite | intro _ | split

theorem State.flushHeld_keeps {s₀ s : State} (p : ℕ) (hk : Keeps s₀ s) : Keeps s₀ (State.flushHeld s p) := by
  unfold State.flushHeld
  try dsimp only
  repeat' first
    | with_reducible assumption | with_reducible apply State.modFlight_keeps | with_reducible apply State.emit_keeps
    | with_reducible apply State.drainPort_keeps | with_reducible apply Keeps.foldl | with_reducible apply Keeps.foldlFst
    | with_reducible apply Keeps.ite | intro _ | split

theorem State.setInbox_keeps {s₀ s : State} (p : ℕ) (l : List (ℕ × ℕ)) (hk : Keeps s₀ s) : Keeps s₀ (State.setInbox s p l) := by
  unfold State.setInbox
  try dsimp only
  repeat' first
    | with_reducible assumption | with_reducible apply State.modFlight_keeps | with_reducible apply State.emit_keeps
    | with_reducible apply Keeps.ite | intro _ | split

theorem State.bufferIn_keeps {s₀ s : State} (p : ℕ) (sender : ℕ) (prio : ℕ) (hk : Keeps s₀ s) : Keeps s₀ (State.bufferIn s p sender prio) := by
  unfold State.bufferIn
  try dsimp only
  repeat' first
    | with_reducible assumption | with_reducible apply State.setInbox_keeps | with_reducible apply State.hear_keeps
    | with_reducible apply Keeps.ite | intro _ | split

theorem State.takeIn_keeps {s₀ s : State} (p : ℕ) (sender : ℕ) (prio : ℕ) (hk : Keeps s₀ s) : Keeps s₀ (State.takeIn s p sender prio) := by
  unfold State.takeIn
  try dsimp only
  repeat' first
    | with_reducible assumption | with_reducible apply State.sendReply_keeps | with_reducible apply State.setInbox_keeps
    | with_reducible apply State.hear_keeps | with_reducible apply Keeps.ite | intro _ | split

theorem State.holdChannel_keeps {s₀ s : State} (p : ℕ) (i : ItemId) (hk : Keeps s₀ s) : Keeps s₀ (State.holdChannel s p i) := by
  unfold State.holdChannel
  try dsimp only
  repeat' first
    | with_reducible assumption | with_reducible apply State.modFlight_keeps | with_reducible apply Keeps.ite | intro _ | split

theorem State.takeChannel_keeps {s₀ s : State} (express : Bool) (p : ℕ) (i : ItemId)
    (hk : Keeps s₀ s) : ∀ s', State.takeChannel s express p i = some s' → Keeps s₀ s' := by
  intro s' he
  unfold State.takeChannel at he
  split at he <;> split at he <;> simp only [Option.some.injEq, reduceCtorEq] at he
  · subst he; simp only [Keeps.update_iff]; exact hk
  · subst he; exact State.holdChannel_keeps _ _ hk

theorem State.releaseLinks_keeps {s₀ s : State} (i : ItemId) (hk : Keeps s₀ s) : Keeps s₀ (State.releaseLinks s i) := by
  unfold State.releaseLinks
  try dsimp only
  repeat' first
    | with_reducible assumption | with_reducible apply State.modFlight_keeps | with_reducible apply Keeps.foldl
    | with_reducible apply Keeps.foldlFst | with_reducible apply Keeps.ite | simp only [Keeps.update_iff]
    | with_reducible apply Keeps.updateMem | exact Memory.wf_filter _ _ | intro _ | split

theorem State.withdraw_keeps {s₀ s : State} (a : Axis) (tag : ℕ) (g : ℕ) (hk : Keeps s₀ s) : Keeps s₀ (State.withdraw s a tag g) := by
  unfold State.withdraw
  try dsimp only
  repeat' first
    | with_reducible assumption | with_reducible apply State.sendResponse_keeps | with_reducible apply Keeps.foldl
    | with_reducible apply Keeps.foldlFst | with_reducible apply Keeps.ite | intro _ | split

theorem State.leaveFabric_keeps {s₀ s : State} (i : ItemId) (st : Status) (hk : Keeps s₀ s) : Keeps s₀ (State.leaveFabric s i st) := by
  unfold State.leaveFabric
  try dsimp only
  repeat' first
    | with_reducible assumption | with_reducible apply State.releaseLinks_keeps | with_reducible apply State.withdraw_keeps
    | with_reducible apply Keeps.ite | intro _ | split

theorem State.setRingState_keeps {s₀ s : State} (g : ℕ) (st : ℕ) (hk : Keeps s₀ s) : Keeps s₀ (State.setRingState s g st) := by
  unfold State.setRingState
  try dsimp only
  repeat' first
    | with_reducible assumption | with_reducible apply State.touch_keeps | with_reducible apply State.modRing_keeps
    | with_reducible apply State.event_keeps | with_reducible apply State.modTreadle_keeps | with_reducible apply Keeps.ite | intro _
    | split

theorem State.request_keeps {s₀ s : State} (h : ℕ) (from_ : Requester) (tte : Option ℕ) (via : Option Block512) (spans : List (ℕ × ℕ × Bool))
    (hk : Keeps s₀ s) : Keeps s₀ (State.request s h from_ tte via spans) := by
  unfold State.request
  try dsimp only
  repeat' first
    | with_reducible assumption | with_reducible apply State.modLedger_keeps | with_reducible apply Keeps.ite | intro _ | split

theorem State.treadleRequest_keeps {s₀ s : State} (h : ℕ) (from_ : Requester) (write : Bool) (a : ℕ) (n : ℕ)
    (hk : Keeps s₀ s) : Keeps s₀ (State.treadleRequest s h from_ write a n) := by
  unfold State.treadleRequest
  try dsimp only
  repeat' first
    | with_reducible assumption | with_reducible apply State.request_keeps | with_reducible apply Keeps.ite | intro _ | split

theorem State.knotAct_keeps {s₀ s : State} (k : ℕ) (a : KnotAction) (hk : Keeps s₀ s) : Keeps s₀ (State.knotAct s k a) := by
  unfold State.knotAct
  try dsimp only
  repeat' first
    | with_reducible assumption | with_reducible apply State.modKnot_keeps | with_reducible apply Keeps.ite | intro _ | split

theorem State.knotSend_keeps {s₀ s : State} (h : ℕ) (k : ℕ) (a : KnotAction) (hk : Keeps s₀ s) : Keeps s₀ (State.knotSend s h k a) := by
  unfold State.knotSend
  try dsimp only
  repeat' first
    | with_reducible assumption | with_reducible apply State.knotAct_keeps | with_reducible apply Keeps.ite | simp only [Keeps.update_iff]
    | intro _ | split

theorem State.dropPieces_keeps {s₀ s : State} (i : ItemId) (hk : Keeps s₀ s) : Keeps s₀ (State.dropPieces s i) := by
  unfold State.dropPieces
  try dsimp only
  repeat' first
    | with_reducible assumption | with_reducible apply State.touch_keeps | with_reducible apply State.modItem_keeps
    | with_reducible apply State.modRing_keeps | with_reducible apply Keeps.ite | simp only [Keeps.update_iff]
    | with_reducible apply Keeps.updateMem | exact Memory.wf_filter _ _ | intro _ | split

theorem State.dropArmings_keeps {s₀ s : State} (i : ItemId) (hk : Keeps s₀ s) : Keeps s₀ (State.dropArmings s i) := by
  unfold State.dropArmings
  try dsimp only
  repeat' first
    | with_reducible assumption | with_reducible apply State.modStream_keeps | with_reducible apply Keeps.foldl
    | with_reducible apply Keeps.foldlFst | with_reducible apply Keeps.ite | intro _ | split

theorem State.failOne_keeps {s₀ s : State} (i : ItemId) (st : Status) (u : ℕ) (hk : Keeps s₀ s) : Keeps s₀ (State.failOne s i st u) := by
  unfold State.failOne
  try dsimp only
  repeat' first
    | with_reducible assumption | with_reducible apply State.dropPieces_keeps | with_reducible apply State.modItem_keeps
    | with_reducible apply State.dropArmings_keeps | with_reducible apply State.leaveFabric_keeps | with_reducible apply Keeps.ite
    | intro _ | split

theorem State.endCalled_keeps {s₀ a1 : State} (a0 : ℕ) (a2 : ItemId) (hk : Keeps s₀ a1) : Keeps s₀ (State.endCalled a0 a1 a2) := by
  induction a0 generalizing a1 a2 with
  | zero => exact hk
  | succ n ih =>
    unfold State.endCalled
    try dsimp only
    repeat' first
      | with_reducible assumption | with_reducible apply ih | with_reducible apply State.failOne_keeps | with_reducible apply Keeps.foldl
      | with_reducible apply Keeps.foldlFst | with_reducible apply Keeps.ite | intro _ | split

theorem State.failCallers_keeps {s₀ a1 : State} (a0 : ℕ) (a2 : ItemId) (hk : Keeps s₀ a1) : Keeps s₀ (State.failCallers a0 a1 a2) := by
  induction a0 generalizing a1 a2 with
  | zero => exact hk
  | succ n ih =>
    unfold State.failCallers
    try dsimp only
    repeat' first
      | with_reducible assumption | with_reducible apply ih | with_reducible apply State.dropPieces_keeps
      | with_reducible apply State.modItem_keeps | with_reducible apply State.endCalled_keeps | with_reducible apply Keeps.ite | intro _
      | split

theorem State.failAt_keeps {s₀ s : State} (i : ItemId) (st : Status) (u : ℕ) (hk : Keeps s₀ s) : Keeps s₀ (State.failAt s i st u) := by
  unfold State.failAt
  try dsimp only
  repeat' first
    | with_reducible assumption | with_reducible apply State.failCallers_keeps | with_reducible apply State.failOne_keeps
    | with_reducible apply Keeps.ite | intro _ | split

theorem State.haltPieces_keeps {s₀ s : State} (i : ItemId) (hk : Keeps s₀ s) : Keeps s₀ (State.haltPieces s i) := by
  unfold State.haltPieces
  try dsimp only
  repeat' first
    | with_reducible assumption | with_reducible apply State.modItem_keeps | with_reducible apply Keeps.foldl
    | with_reducible apply Keeps.foldlFst | with_reducible apply Keeps.ite | intro _ | split

theorem State.failItem_keeps {s₀ s : State} (i : ItemId) (st : Status) (hk : Keeps s₀ s) : Keeps s₀ (State.failItem s i st) := by
  unfold State.failItem
  try dsimp only
  repeat' first
    | with_reducible assumption | with_reducible apply State.haltPieces_keeps | with_reducible apply State.failAt_keeps
    | with_reducible apply Keeps.ite | intro _ | split

theorem State.finish_keeps {s₀ s : State} (i : ItemId) (bytes : ℕ) (hk : Keeps s₀ s) : Keeps s₀ (State.finish s i bytes) := by
  unfold State.finish
  try dsimp only
  repeat' first
    | with_reducible assumption | with_reducible apply State.modItem_keeps | with_reducible apply Keeps.ite | intro _ | split

theorem State.adjust_keeps {s₀ s : State} (i : ItemId) (st : Status) (hk : Keeps s₀ s) : Keeps s₀ (State.adjust s i st) := by
  unfold State.adjust
  try dsimp only
  repeat' first
    | with_reducible assumption | with_reducible apply State.modItem_keeps | with_reducible apply Keeps.foldl
    | with_reducible apply Keeps.foldlFst | with_reducible apply Keeps.ite | intro _ | split

theorem State.settleWait_keeps {s₀ s : State} (t : Item) (hk : Keeps s₀ s) : Keeps s₀ (State.settleWait s t) := by
  unfold State.settleWait
  try dsimp only
  repeat' first
    | with_reducible assumption | with_reducible apply State.modItem_keeps | with_reducible apply State.failItem_keeps
    | with_reducible apply Keeps.ite | intro _ | split

theorem State.settleWaits_keeps {s₀ s : State}  (hk : Keeps s₀ s) : Keeps s₀ (State.settleWaits s) := by
  unfold State.settleWaits
  try dsimp only
  repeat' first
    | with_reducible assumption | with_reducible apply State.settleWait_keeps | with_reducible apply Keeps.foldl
    | with_reducible apply Keeps.foldlFst | with_reducible apply Keeps.ite | intro _ | split

theorem State.knotUpdate_keeps {s₀ s : State} (h : ℕ) (k : ℕ) (a : KnotAction) (hk : Keeps s₀ s) : Keeps s₀ (State.knotUpdate s h k a) := by
  unfold State.knotUpdate
  try dsimp only
  repeat' first
    | with_reducible assumption | with_reducible apply State.settleWaits_keeps | with_reducible apply State.knotSend_keeps
    | with_reducible apply Keeps.ite | intro _ | split

theorem State.ranOn_keeps {s₀ s : State} (i : ItemId) (l : ℕ) (hk : Keeps s₀ s) : Keeps s₀ (State.ranOn s i l) := by
  unfold State.ranOn
  try dsimp only
  repeat' first
    | with_reducible assumption | with_reducible apply State.modItem_keeps | with_reducible apply Keeps.ite | intro _ | split

theorem State.ringInterrupt_keeps {s₀ s : State} (g : ℕ) (irq : Bool) (hk : Keeps s₀ s) : Keeps s₀ (State.ringInterrupt s g irq) := by
  unfold State.ringInterrupt
  try dsimp only
  repeat' first
    | with_reducible assumption | with_reducible apply State.interrupt_keeps | with_reducible apply State.modRing_keeps
    | with_reducible apply Keeps.ite | intro _ | split

theorem State.put_keeps {s₀ s : State} (fn : ℕ) (a : ℕ) (bs : List Byte) (hk : Keeps s₀ s) : Keeps s₀ (State.put s fn a bs) := by
  unfold State.put
  try dsimp only
  repeat' first
    | with_reducible assumption | with_reducible apply State.store_keeps | with_reducible apply Keeps.ite | intro _ | split

theorem State.writeRecord_keeps {s₀ s : State} (t : Item) (hk : Keeps s₀ s) : Keeps s₀ (State.writeRecord s t) := by
  unfold State.writeRecord
  try dsimp only
  repeat' first
    | with_reducible assumption | with_reducible apply State.draw_keeps | with_reducible apply State.treadleRequest_keeps
    | with_reducible apply State.put_keeps | with_reducible apply Keeps.ite | intro _ | split

theorem State.countRecord_keeps {s₀ s : State} (t : Item) (hk : Keeps s₀ s) : Keeps s₀ (State.countRecord s t) := by
  unfold State.countRecord
  try dsimp only
  repeat' first
    | with_reducible assumption | with_reducible apply State.modRing_keeps | with_reducible apply State.treadleRequest_keeps
    | with_reducible apply State.put_keeps | with_reducible apply State.ringInterrupt_keeps | with_reducible apply Keeps.ite | intro _
    | split

theorem State.applySet_keeps {s₀ s : State} (t : Item) (hk : Keeps s₀ s) : Keeps s₀ (State.applySet s t) := by
  unfold State.applySet
  try dsimp only
  repeat' first
    | with_reducible assumption | with_reducible apply State.knotSend_keeps | with_reducible apply Keeps.ite | intro _ | split

theorem State.ringSettle_keeps {s₀ s : State} (g : ℕ) (hk : Keeps s₀ s) : Keeps s₀ (State.ringSettle s g) := by
  unfold State.ringSettle
  try dsimp only
  repeat' first
    | with_reducible assumption | with_reducible apply State.setRingState_keeps | with_reducible apply Keeps.ite | intro _ | split

theorem State.busySettle_keeps {s₀ s : State} (g : ℕ) (hk : Keeps s₀ s) : Keeps s₀ (State.busySettle s g) := by
  unfold State.busySettle
  try dsimp only
  repeat' first
    | with_reducible assumption | with_reducible apply State.modRing_keeps | with_reducible apply Keeps.ite | intro _ | split

theorem State.removeItem_keeps {s₀ s : State} (i : ItemId) (hk : Keeps s₀ s) : Keeps s₀ (State.removeItem s i) := by
  unfold State.removeItem
  try dsimp only
  repeat' first
    | with_reducible assumption | with_reducible apply State.releaseLinks_keeps | with_reducible apply State.busySettle_keeps
    | with_reducible apply Keeps.ite | simp only [Keeps.update_iff] | with_reducible apply Keeps.updateMem | exact Memory.wf_filter _ _
    | intro _ | split

theorem State.endItem_keeps {s₀ s : State} (t : Item) (hk : Keeps s₀ s) : Keeps s₀ (State.endItem s t) := by
  unfold State.endItem
  try dsimp only
  repeat' first
    | with_reducible assumption | with_reducible apply State.writeRecord_keeps | with_reducible apply State.applySet_keeps
    | with_reducible apply State.countRecord_keeps | with_reducible apply State.settleWaits_keeps
    | with_reducible apply State.ringSettle_keeps | with_reducible apply State.removeItem_keeps | with_reducible apply Keeps.ite | intro _
    | split

theorem State.shareIn_keeps {s₀ s : State} (t : Item) (hk : Keeps s₀ s) : Keeps s₀ (State.shareIn s t) := by
  unfold State.shareIn
  try dsimp only
  repeat' first
    | with_reducible assumption | with_reducible apply State.modItem_keeps | with_reducible apply Keeps.foldl
    | with_reducible apply Keeps.foldlFst | with_reducible apply Keeps.ite | intro _ | split

theorem State.endSub_keeps {s₀ s : State} (t : Item) (hk : Keeps s₀ s) : Keeps s₀ (State.endSub s t) := by
  unfold State.endSub
  try dsimp only
  repeat' first
    | with_reducible assumption | with_reducible apply State.shareIn_keeps | with_reducible apply State.applySet_keeps
    | with_reducible apply State.releaseLinks_keeps | with_reducible apply State.modItem_keeps
    | with_reducible apply State.settleWaits_keeps | with_reducible apply Keeps.ite | simp only [Keeps.update_iff]
    | with_reducible apply Keeps.updateMem | exact Memory.wf_filter _ _ | intro _ | split

theorem State.loseKnot_keeps {s₀ s : State} (e : W32) (hk : Keeps s₀ s) : Keeps s₀ (State.loseKnot s e) := by
  unfold State.loseKnot
  try dsimp only
  repeat' first
    | with_reducible assumption | with_reducible apply State.settleWaits_keeps | with_reducible apply State.knotAct_keeps
    | with_reducible apply Keeps.ite | intro _ | split

theorem State.endAs_keeps {s₀ s : State} (t : Item) (hk : Keeps s₀ s) : Keeps s₀ (State.endAs s t) := by
  unfold State.endAs
  try dsimp only
  repeat' first
    | with_reducible assumption | with_reducible apply State.endSub_keeps | with_reducible apply State.endItem_keeps
    | with_reducible apply Keeps.ite | intro _ | split

theorem State.complete_keeps {s₀ s : State} (i : ItemId) (hk : Keeps s₀ s) : Keeps s₀ (State.complete s i) := by
  unfold State.complete
  try dsimp only
  repeat' first
    | with_reducible assumption | with_reducible apply State.failItem_keeps | with_reducible apply State.endAs_keeps
    | with_reducible apply Keeps.ite | intro _ | split

theorem State.stopPieces_keeps {s₀ s : State} (f : Piece → Bool) (hk : Keeps s₀ s) : Keeps s₀ (State.stopPieces s f) := by
  unfold State.stopPieces
  try dsimp only
  repeat' first
    | with_reducible assumption | with_reducible apply Keeps.ite | simp only [Keeps.update_iff] | with_reducible apply Keeps.updateMem
    | exact Memory.wf_filter _ _ | intro _ | split

theorem State.failOver_keeps {s₀ s : State} (i : ItemId) (st : Status) (byte : Option ℕ)
    (hk : Keeps s₀ s) : Keeps s₀ (State.failOver s i st byte) := by
  unfold State.failOver
  try dsimp only
  repeat' first
    | with_reducible assumption | with_reducible apply State.modItem_keeps | with_reducible apply State.failOne_keeps
    | with_reducible apply Keeps.ite | intro _ | split

theorem State.flushItems_keeps {s₀ s : State} (f : ItemId → Bool) (st : Status) (byte : Option ℕ)
    (hk : Keeps s₀ s) : Keeps s₀ (State.flushItems s f st byte) := by
  unfold State.flushItems
  refine Keeps.foldl _ _ ?_ fun x a hx => State.complete_keeps _ hx
  simp only [Keeps.update_iff]
  refine Keeps.foldl _ _ (Keeps.foldl _ _ (State.stopPieces_keeps _ hk) fun x a hx => State.failOver_keeps _ _ _ hx) fun x a hx => ?_
  cases x.item a with
  | none => exact hx
  | some t => exact State.shareIn_keeps _ hx

theorem State.admitAhead_keeps {s₀ s : State} (f : ℕ → Bool) (hk : Keeps s₀ s) : Keeps s₀ (State.admitAhead s f) := by
  unfold State.admitAhead
  try dsimp only
  repeat' first
    | with_reducible assumption | with_reducible apply State.modRing_keeps | with_reducible apply Keeps.foldl
    | with_reducible apply Keeps.foldlFst | with_reducible apply Keeps.ite | simp only [Keeps.update_iff]
    | with_reducible apply Keeps.updateMem | exact Memory.wf_filter _ _ | intro _ | split

theorem State.fenceItems_keeps {s₀ s : State} (g : ℕ) (st : Status) (byte : ℕ) (hk : Keeps s₀ s) : Keeps s₀ (State.fenceItems s g st byte) := by
  unfold State.fenceItems
  try dsimp only
  repeat' first
    | with_reducible assumption | with_reducible apply State.admitAhead_keeps | with_reducible apply State.failOver_keeps
    | with_reducible apply State.complete_keeps | with_reducible apply Keeps.foldl | with_reducible apply Keeps.foldlFst
    | with_reducible apply Keeps.ite | intro _ | split

theorem State.zeroBytes_keeps {s₀ s : State} (lo : ℕ) (hi : ℕ) (hk : Keeps s₀ s) : Keeps s₀ (State.zeroBytes s lo hi) := by
  unfold State.zeroBytes
  try dsimp only
  repeat' first
    | with_reducible assumption | with_reducible apply Keeps.ite | simp only [Keeps.update_iff] | with_reducible apply Keeps.updateMem
    | exact Memory.wf_zeroRange _ _ | exact Memory.wf_filter _ _ | intro _ | split

theorem State.zeroLoomBytes_keeps {s₀ s : State} (h : ℕ) (hk : Keeps s₀ s) : Keeps s₀ (State.zeroLoomBytes s h) := by
  unfold State.zeroLoomBytes
  try dsimp only
  repeat' first
    | with_reducible assumption | with_reducible apply State.zeroBytes_keeps | with_reducible apply Keeps.ite
    | simp only [Keeps.update_iff] | intro _ | split

theorem State.zeroLooms_keeps {s₀ s : State} (h : ℕ) (hk : Keeps s₀ s) : Keeps s₀ (State.zeroLooms s h) := by
  unfold State.zeroLooms
  try dsimp only
  repeat' first
    | with_reducible assumption | with_reducible apply State.zeroLoomBytes_keeps | with_reducible apply Keeps.ite
    | simp only [Keeps.update_iff] | with_reducible apply Keeps.updateMem | exact Memory.wf_filter _ _ | intro _ | split

theorem State.zeroGallery_keeps {s₀ s : State} (h : ℕ) (hk : Keeps s₀ s) : Keeps s₀ (State.zeroGallery s h) := by
  unfold State.zeroGallery
  try dsimp only
  repeat' first
    | with_reducible assumption | with_reducible apply State.zeroBytes_keeps | with_reducible apply State.replaceCache_keeps
    | with_reducible apply Keeps.ite | intro _ | split

theorem State.zeroScratch_keeps {s₀ s : State} (h : ℕ) (hk : Keeps s₀ s) : Keeps s₀ (State.zeroScratch s h) := by
  unfold State.zeroScratch
  try dsimp only
  repeat' first
    | with_reducible assumption | with_reducible apply State.replaceCache_keeps | with_reducible apply State.zeroBytes_keeps
    | with_reducible apply Keeps.ite | intro _ | split

theorem State.zeroHallStores_keeps {s₀ s : State} (h : ℕ) (hk : Keeps s₀ s) : Keeps s₀ (State.zeroHallStores s h) := by
  unfold State.zeroHallStores
  try dsimp only
  repeat' first
    | with_reducible assumption | with_reducible apply State.zeroScratch_keeps | with_reducible apply State.zeroLooms_keeps
    | with_reducible apply Keeps.ite | intro _ | split

theorem State.zeroScanned_keeps {s₀ s : State} (h : ℕ) (hk : Keeps s₀ s) : Keeps s₀ (State.zeroScanned s h) := by
  unfold State.zeroScanned
  try dsimp only
  repeat' first
    | with_reducible assumption | with_reducible apply State.zeroScratch_keeps | with_reducible apply State.zeroLoomBytes_keeps
    | with_reducible apply Keeps.ite | intro _ | split

theorem State.zeroise_keeps {s₀ s : State}  (hk : Keeps s₀ s) : Keeps s₀ (State.zeroise s) := by
  unfold State.zeroise
  try dsimp only
  repeat' first
    | with_reducible assumption | with_reducible apply State.draw_keeps | with_reducible apply Keeps.ite | simp only [Keeps.update_iff]
    | intro _ | split

theorem State.stopSequence_keeps {s₀ s : State}  (hk : Keeps s₀ s) : Keeps s₀ (State.stopSequence s) := by
  unfold State.stopSequence
  try dsimp only
  repeat' first
    | with_reducible assumption | with_reducible apply State.flushItems_keeps | with_reducible apply State.admitAhead_keeps
    | with_reducible apply Keeps.ite | simp only [Keeps.update_iff] | intro _ | split

theorem State.moduleReset_keeps {s₀ s : State} (asleep : Bool) (lowInput : Bool)
    (hk : Keeps s₀ s) : Keeps s₀ (State.moduleReset s asleep lowInput) := by
  unfold State.moduleReset
  try dsimp only
  repeat' first
    | with_reducible assumption | with_reducible apply State.stopSequence_keeps | with_reducible apply Keeps.ite
    | simp only [Keeps.update_iff] | with_reducible apply Keeps.updateMem | exact Memory.wf_filter _ _ | intro _ | split

theorem State.carryReset_keeps {s₀ s : State}  (hk : Keeps s₀ s) : Keeps s₀ (State.carryReset s) := by
  unfold State.carryReset
  try dsimp only
  repeat' first
    | with_reducible assumption | with_reducible apply State.moduleReset_keeps | with_reducible apply Keeps.ite | intro _ | split

end Sys2Proof.Machine
end

