-- ==== Sys2Proof/Laws/KeepsWork.lean ====
section
/-!
SUPPORT. What each operation keeps (Laws/Keeps.lean): the ledger, the treadle, the looms and the streams. One lemma an operation, each citing those of the
operations it calls.
-/
namespace Sys2Proof.Machine

theorem State.consume_keeps {s₀ s : State} (t : Item) (r : Read) (hk : Keeps s₀ s) : Keeps s₀ (State.consume s t r) := by
  unfold State.consume
  try dsimp only
  repeat' first
    | with_reducible assumption | with_reducible apply State.markEmpty_keeps | with_reducible apply State.modStream_keeps
    | with_reducible apply Keeps.foldl | with_reducible apply Keeps.foldlFst | with_reducible apply Keeps.ite | intro _ | split

theorem State.consumeExcept_keeps {s₀ s : State} (t : Item) (left : List Read) (r : Read)
    (hk : Keeps s₀ s) : Keeps s₀ (State.consumeExcept s t left r) := by
  unfold State.consumeExcept
  try dsimp only
  repeat' first
    | with_reducible assumption | with_reducible apply State.consume_keeps | with_reducible apply Keeps.ite | simp only [Keeps.update_iff]
    | with_reducible apply Keeps.updateMem | exact Memory.wf_filter _ _ | intro _ | split

theorem State.produceExcept_keeps {s₀ s : State} (left : List Read) (r : Read) (hk : Keeps s₀ s) : Keeps s₀ (State.produceExcept s left r) := by
  unfold State.produceExcept
  try dsimp only
  repeat' first
    | with_reducible assumption | with_reducible apply Keeps.foldl | with_reducible apply Keeps.foldlFst | with_reducible apply Keeps.ite
    | simp only [Keeps.update_iff] | with_reducible apply Keeps.updateMem | exact Memory.wf_filter _ _ | intro _ | split

theorem State.produce_keeps {s₀ s : State} (r : Read) (hk : Keeps s₀ s) : Keeps s₀ (State.produce s r) := by
  unfold State.produce
  try dsimp only
  repeat' first
    | with_reducible assumption | with_reducible apply State.markFull_keeps | with_reducible apply Keeps.foldl
    | with_reducible apply Keeps.foldlFst | with_reducible apply Keeps.ite | intro _ | split

theorem State.carryPoison_keeps {s₀ s : State} (src : ℕ) (dst : ℕ) (n : ℕ) (hk : Keeps s₀ s) : Keeps s₀ (State.carryPoison s src dst n) := by
  unfold State.carryPoison
  try dsimp only
  repeat' first
    | with_reducible assumption | with_reducible apply State.addPoison_keeps | with_reducible apply Keeps.foldl
    | with_reducible apply Keeps.foldlFst | with_reducible apply Keeps.ite | intro _ | split

theorem State.settleTokens_keeps {s₀ s : State} (w : UnitWork) (t : Item) (u : ℕ) (us : List ℕ)
    (hk : Keeps s₀ s) : Keeps s₀ (State.settleTokens s w t u us) := by
  unfold State.settleTokens
  try dsimp only
  repeat' first
    | with_reducible assumption | with_reducible apply State.produceExcept_keeps | with_reducible apply State.consumeExcept_keeps
    | with_reducible apply Keeps.foldl | with_reducible apply Keeps.foldlFst | with_reducible apply Keeps.ite | intro _ | split

theorem State.runUnits_keeps {s₀ a3 : State} (w : UnitWork) (i : ItemId) (a2 : List ℕ) (Hw : ∀ u s, Keeps s₀ s → Keeps s₀ (w.run u s)) (Gw : ∀ u s, Keeps s₀ s → Keeps s₀ (w.hold u s))
    (hk : Keeps s₀ a3) : Keeps s₀ (State.runUnits w i a2 a3) := by
  induction a2 generalizing a3 with
  | nil => exact hk
  | cons m ms ih =>
    unfold State.runUnits
    try dsimp only
    repeat' first
      | with_reducible assumption | with_reducible apply ih | with_reducible apply Hw | with_reducible apply Gw
      | with_reducible apply State.failAt_keeps | with_reducible apply State.settleTokens_keeps | with_reducible apply Keeps.ite
      | (intro _; try dsimp only) | split

theorem State.unitFinished_keeps {s₀ s : State} (i : ItemId) (u : ℕ) (bytes : ℕ) (replay : ℕ)
    (hk : Keeps s₀ s) : Keeps s₀ (State.unitFinished s i u bytes replay) := by
  unfold State.unitFinished
  try dsimp only
  repeat' first
    | with_reducible assumption | with_reducible apply State.modItem_keeps | with_reducible apply Keeps.ite | intro _ | split

theorem State.finishIf_keeps {s₀ s : State} (i : ItemId) (hk : Keeps s₀ s) : Keeps s₀ (State.finishIf s i) := by
  unfold State.finishIf
  try dsimp only
  repeat' first
    | with_reducible assumption | with_reducible apply State.finish_keeps | with_reducible apply Keeps.ite | intro _ | split

theorem State.runAll_keeps {s₀ s : State} (w : UnitWork) (t : Item) (Hw : ∀ u s, Keeps s₀ s → Keeps s₀ (w.run u s)) (Gw : ∀ u s, Keeps s₀ s → Keeps s₀ (w.hold u s))
    (hk : Keeps s₀ s) : Keeps s₀ (State.runAll w t s) := by
  unfold State.runAll
  try dsimp only
  repeat' first
    | with_reducible assumption | with_reducible apply Hw | with_reducible apply Gw | with_reducible apply State.finishIf_keeps
    | with_reducible apply State.runUnits_keeps | with_reducible apply Keeps.ite | (intro _; try dsimp only) | split

theorem State.poisonWord_keeps {s₀ s : State} (w : ℕ) (hk : Keeps s₀ s) : Keeps s₀ (State.poisonWord s w) := by
  unfold State.poisonWord
  try dsimp only
  repeat' first
    | with_reducible assumption | with_reducible apply State.fault_keeps | with_reducible apply State.event_keeps
    | with_reducible apply State.bump_keeps | with_reducible apply State.addPoison_keeps | with_reducible apply Keeps.ite | intro _
    | split

theorem State.correctWord_keeps {s₀ s : State} (w : ℕ) (hk : Keeps s₀ s) : Keeps s₀ (State.correctWord s w) := by
  unfold State.correctWord
  try dsimp only
  repeat' first
    | with_reducible assumption | with_reducible apply State.event_keeps | with_reducible apply State.bump_keeps
    | with_reducible apply Keeps.ite | simp only [Keeps.update_iff] | intro _ | split

theorem State.readEcc_keeps {s₀ s : State} (base : ℕ) (a2 : Ecc) (hk : Keeps s₀ s) : Keeps s₀ (State.readEcc s base a2) := by
  unfold State.readEcc
  try dsimp only
  repeat' first
    | with_reducible assumption | with_reducible apply State.correctWord_keeps | with_reducible apply State.poisonWord_keeps
    | with_reducible apply State.bump_keeps | with_reducible apply Keeps.ite | intro _ | split

theorem State.cacheAccess_keeps {s₀ s : State} (h : ℕ) (hk : Keeps s₀ s) : Keeps s₀ (State.cacheAccess s h) := by
  unfold State.cacheAccess
  try dsimp only
  repeat' first
    | with_reducible assumption | with_reducible apply State.modHall_keeps | with_reducible apply Keeps.ite | intro _ | split

theorem State.touchLine_keeps {s₀ s : State} (h : ℕ) (c : CacheLine) (hk : Keeps s₀ s) : Keeps s₀ (State.touchLine s h c) := by
  unfold State.touchLine
  try dsimp only
  repeat' first
    | with_reducible assumption | with_reducible apply State.bump_keeps | with_reducible apply State.cacheAccess_keeps
    | with_reducible apply State.setCache_keeps | with_reducible apply Keeps.ite | intro _ | split

theorem State.fillLine_keeps {s₀ s : State} (h : ℕ) (o : ℕ) (owner : ℕ) (hint : BitVec 8) (slot : Option ℕ)
    (hk : Keeps s₀ s) : Keeps s₀ (State.fillLine s h o owner hint slot) := by
  unfold State.fillLine
  try dsimp only
  repeat' first
    | with_reducible assumption | with_reducible apply State.bump_keeps | with_reducible apply State.replaceCache_keeps
    | with_reducible apply State.cacheAccess_keeps | with_reducible apply Keeps.ite | intro _ | split

theorem State.issueRows_keeps {s₀ s : State} (h : ℕ) (hk : Keeps s₀ s) : Keeps s₀ (State.issueRows s h) := by
  unfold State.issueRows
  try dsimp only
  repeat' first
    | with_reducible assumption | with_reducible apply State.request_keeps | with_reducible apply State.modLedger_keeps
    | with_reducible apply Keeps.foldl | with_reducible apply Keeps.foldlFst | with_reducible apply Keeps.ite | intro _ | split

theorem State.requestPiece_keeps {s₀ s : State} (t : Item) (p : Piece) (hk : Keeps s₀ s) : Keeps s₀ (State.requestPiece s t p) := by
  unfold State.requestPiece
  try dsimp only
  repeat' first
    | with_reducible assumption | with_reducible apply State.issueRows_keeps | with_reducible apply State.modLedger_keeps
    | with_reducible apply State.request_keeps | with_reducible apply Keeps.foldl | with_reducible apply Keeps.foldlFst
    | with_reducible apply Keeps.ite | intro _ | split

theorem State.freeSlot_keeps {s₀ s : State} (h : ℕ) (id : ℕ) (hk : Keeps s₀ s) : Keeps s₀ (State.freeSlot s h id) := by
  unfold State.freeSlot
  try dsimp only
  repeat' first
    | with_reducible assumption | with_reducible apply State.issueRows_keeps | with_reducible apply State.modLedger_keeps
    | with_reducible apply Keeps.ite | intro _ | split

theorem State.loseDescriptor_keeps {s₀ s : State} (g : ℕ) (idx : ℕ) (hk : Keeps s₀ s) : Keeps s₀ (State.loseDescriptor s g idx) := by
  unfold State.loseDescriptor
  try dsimp only
  repeat' first
    | with_reducible assumption | with_reducible apply State.setRingState_keeps | with_reducible apply State.busySettle_keeps
    | with_reducible apply State.modRing_keeps | with_reducible apply Keeps.ite | intro _ | split

theorem State.failUsers_keeps {s₀ s : State} (from_ : List Requester) (st : Status)
    (hk : Keeps s₀ s) : Keeps s₀ (State.failUsers s from_ st) := by
  unfold State.failUsers
  try dsimp only
  repeat' first
    | with_reducible assumption | with_reducible apply State.failAt_keeps | with_reducible apply State.failItem_keeps
    | with_reducible apply State.loseDescriptor_keeps | with_reducible apply Keeps.foldl | with_reducible apply Keeps.foldlFst
    | with_reducible apply Keeps.ite | intro _ | split

theorem State.cutRequests_keeps {s₀ s : State} (h : ℕ) (hk : Keeps s₀ s) : Keeps s₀ (State.cutRequests s h) := by
  unfold State.cutRequests
  try dsimp only
  repeat' first
    | with_reducible assumption | with_reducible apply State.failUsers_keeps | with_reducible apply State.modLedger_keeps
    | with_reducible apply Keeps.foldl | with_reducible apply Keeps.foldlFst | with_reducible apply Keeps.ite | intro _ | split

theorem State.loseRequest_keeps {s₀ s : State} (h : ℕ) (r : Request) (hk : Keeps s₀ s) : Keeps s₀ (State.loseRequest s h r) := by
  unfold State.loseRequest
  try dsimp only
  repeat' first
    | with_reducible assumption | with_reducible apply State.loseDescriptor_keeps | with_reducible apply State.failItem_keeps
    | with_reducible apply State.freeSlot_keeps | with_reducible apply Keeps.foldl | with_reducible apply Keeps.foldlFst
    | with_reducible apply Keeps.ite | intro _ | split

theorem State.admitOne_keeps {s₀ s : State} (h : ℕ) (slotEcc : Ecc) (hk : Keeps s₀ s) : Keeps s₀ (State.admitOne s h slotEcc) := by
  unfold State.admitOne
  try dsimp only
  repeat' first
    | with_reducible assumption | with_reducible apply State.cutRequests_keeps | with_reducible apply State.modLedger_keeps
    | with_reducible apply State.bump_keeps | with_reducible apply State.loseRequest_keeps | with_reducible apply Keeps.foldl
    | with_reducible apply Keeps.foldlFst | with_reducible apply Keeps.ite | intro _ | split

theorem State.takeLine_keeps {s₀ s : State} (i : ItemId) (line : ℕ) (hk : Keeps s₀ s) : Keeps s₀ (State.takeLine s i line) := by
  unfold State.takeLine
  try dsimp only
  repeat' first
    | with_reducible assumption | with_reducible apply State.modItem_keeps | with_reducible apply Keeps.ite | intro _ | split

theorem State.endRequest_keeps {s₀ s : State} (h : ℕ) (r : Request) (hk : Keeps s₀ s) : Keeps s₀ (State.endRequest s h r) := by
  unfold State.endRequest
  try dsimp only
  repeat' first
    | with_reducible assumption | with_reducible apply State.freeSlot_keeps | with_reducible apply State.takeLine_keeps
    | with_reducible apply Keeps.foldl | with_reducible apply Keeps.foldlFst | with_reducible apply Keeps.ite | intro _ | split

theorem State.respondHit_keeps {s₀ s : State} (h : ℕ) (r : Request) (c : CacheLine) (ecc : Ecc)
    (hk : Keeps s₀ s) : Keeps s₀ (State.respondHit s h r c ecc) := by
  unfold State.respondHit
  try dsimp only
  repeat' first
    | with_reducible assumption | with_reducible apply State.bump_keeps | with_reducible apply State.replaceCache_keeps
    | with_reducible apply State.endRequest_keeps | with_reducible apply State.touchLine_keeps | with_reducible apply State.event_keeps
    | with_reducible apply Keeps.ite | intro _ | split

theorem State.respondRead_keeps {s₀ s : State} (h : ℕ) (r : Request) (ecc : Ecc) (hk : Keeps s₀ s) : Keeps s₀ (State.respondRead s h r ecc) := by
  unfold State.respondRead
  try dsimp only
  repeat' first
    | with_reducible assumption | with_reducible apply State.endRequest_keeps | with_reducible apply State.readEcc_keeps
    | with_reducible apply State.failUsers_keeps | with_reducible apply Keeps.ite | intro _ | split

theorem State.respond_keeps {s₀ s : State} (h : ℕ) (id : ℕ) (ecc : Ecc) (hk : Keeps s₀ s) : Keeps s₀ (State.respond s h id ecc) := by
  unfold State.respond
  try dsimp only
  repeat' first
    | with_reducible assumption | with_reducible apply State.endRequest_keeps | with_reducible apply State.failUsers_keeps
    | with_reducible apply State.respondHit_keeps | with_reducible apply State.respondRead_keeps | with_reducible apply State.bump_keeps
    | with_reducible apply Keeps.ite | intro _ | split

theorem State.fillAnswer_keeps {s₀ s : State} (h : ℕ) (id : ℕ) (ecc : Ecc) (hk : Keeps s₀ s) : Keeps s₀ (State.fillAnswer s h id ecc) := by
  unfold State.fillAnswer
  try dsimp only
  repeat' first
    | with_reducible assumption | with_reducible apply State.respondRead_keeps | with_reducible apply State.bump_keeps
    | with_reducible apply State.fillLine_keeps | with_reducible apply Keeps.ite | intro _ | split

theorem State.lookupLine_keeps {s₀ s : State} (slot : Option ℕ) (fill : Option (ℕ × BitVec 8)) (a : ℕ)
    (hk : Keeps s₀ s) : Keeps s₀ (State.lookupLine s slot fill a) := by
  unfold State.lookupLine
  try dsimp only
  repeat' first
    | with_reducible assumption | with_reducible apply State.touchLine_keeps | with_reducible apply State.bump_keeps
    | with_reducible apply State.fillLine_keeps | with_reducible apply Keeps.ite | intro _ | split

theorem State.lookupRead_keeps {s₀ s : State} (via : Option Block512) (a : ℕ) (n : ℕ)
    (hk : Keeps s₀ s) : Keeps s₀ (State.lookupRead s via a n) := by
  unfold State.lookupRead
  try dsimp only
  repeat' first
    | with_reducible assumption | with_reducible apply State.lookupLine_keeps | with_reducible apply Keeps.foldl
    | with_reducible apply Keeps.foldlFst | with_reducible apply Keeps.ite | intro _ | split

theorem State.dropScrubbed_keeps {s₀ s : State} (h : ℕ) (b : ℕ) (hk : Keeps s₀ s) : Keeps s₀ (State.dropScrubbed s h b) := by
  unfold State.dropScrubbed
  try dsimp only
  repeat' first
    | with_reducible assumption | with_reducible apply State.draw_keeps | with_reducible apply State.bump_keeps
    | with_reducible apply State.replaceCache_keeps | with_reducible apply Keeps.ite | intro _ | split

theorem State.scrubEcc_keeps {s₀ s : State} (a : ℕ) (ecc : Ecc) (hk : Keeps s₀ s) : Keeps s₀ (State.scrubEcc s a ecc) := by
  unfold State.scrubEcc
  try dsimp only
  repeat' first
    | with_reducible assumption | with_reducible apply State.dropScrubbed_keeps | with_reducible apply State.readEcc_keeps
    | with_reducible apply Keeps.ite | intro _ | split

theorem State.countPass_keeps {s₀ s : State} (a : ℕ) (hk : Keeps s₀ s) : Keeps s₀ (State.countPass s a) := by
  unfold State.countPass
  try dsimp only
  repeat' first
    | with_reducible assumption | with_reducible apply State.bump_keeps | with_reducible apply Keeps.ite | intro _ | split

theorem State.scrub_keeps {s₀ s : State} (a : ℕ) (ecc : Ecc) (hk : Keeps s₀ s) : Keeps s₀ (State.scrub s a ecc) := by
  unfold State.scrub
  try dsimp only
  repeat' first
    | with_reducible assumption | with_reducible apply State.scrubEcc_keeps | with_reducible apply State.countPass_keeps
    | with_reducible apply Keeps.ite | simp only [Keeps.update_iff] | intro _ | split

theorem State.pushPieces_keeps {s₀ s : State} (a1 : List Piece) (hk : Keeps s₀ s) : Keeps s₀ (State.pushPieces s a1).1 := by
  induction a1 generalizing s with
  | nil => exact hk
  | cons m ms ih =>
    unfold State.pushPieces
    try dsimp only
    repeat' first
      | with_reducible assumption | with_reducible apply ih | with_reducible apply State.setLane_keeps | with_reducible apply Keeps.ite
      | intro _ | split

theorem State.emitPieces_keeps {s₀ s : State} (i : ItemId) (hk : Keeps s₀ s) : Keeps s₀ (State.emitPieces s i) := by
  unfold State.emitPieces
  try dsimp only
  repeat' first
    | with_reducible assumption | with_reducible apply State.pushPieces_keeps | with_reducible apply State.modItem_keeps
    | with_reducible apply State.modRing_keeps | with_reducible apply Keeps.ite | intro _ | split

theorem State.requestOperands_keeps {s₀ s : State} (t : Item) (hk : Keeps s₀ s) : Keeps s₀ (State.requestOperands s t) := by
  unfold State.requestOperands
  try dsimp only
  repeat' first
    | with_reducible assumption | with_reducible apply State.request_keeps | with_reducible apply Keeps.foldl
    | with_reducible apply Keeps.foldlFst | with_reducible apply Keeps.ite | intro _ | split

theorem State.dispatchFor_keeps {s₀ s : State} (c : Option ItemId) (id : ItemId) (d : Block512)
    (hk : Keeps s₀ s) : Keeps s₀ (State.dispatchFor s c id d) := by
  unfold State.dispatchFor
  try dsimp only
  repeat' first
    | with_reducible assumption | with_reducible apply State.touch_keeps | with_reducible apply State.leaveIdle_keeps
    | with_reducible apply State.settleWaits_keeps | with_reducible apply State.emitPieces_keeps
    | with_reducible apply State.requestOperands_keeps | with_reducible apply Keeps.ite | simp only [Keeps.update_iff] | intro _ | split

theorem State.dispatch_keeps {s₀ s : State} (id : ItemId) (d : Block512) (hk : Keeps s₀ s) : Keeps s₀ (State.dispatch s id d) := by
  unfold State.dispatch
  try dsimp only
  repeat' first
    | with_reducible assumption | with_reducible apply State.dispatchFor_keeps | with_reducible apply Keeps.ite | intro _ | split

theorem State.noteHeld_keeps {s₀ s : State} (g : ℕ) (hk : Keeps s₀ s) : Keeps s₀ (State.noteHeld s g) := by
  unfold State.noteHeld
  try dsimp only
  repeat' first
    | with_reducible assumption | with_reducible apply Keeps.ite | simp only [Keeps.update_iff] | intro _ | split

theorem State.readAhead_keeps {s₀ a2 : State} (g : ℕ) (a1 : ℕ) (hk : Keeps s₀ a2) : Keeps s₀ (State.readAhead g a1 a2) := by
  induction a1 generalizing a2 with
  | zero => exact hk
  | succ n ih =>
    unfold State.readAhead
    try dsimp only
    repeat' first
      | with_reducible assumption | with_reducible apply ih | with_reducible apply State.treadleRequest_keeps
      | with_reducible apply State.modRing_keeps | with_reducible apply State.setRingState_keeps | with_reducible apply Keeps.ite
      | intro _ | split

theorem State.loseEntry_keeps {s₀ s : State} (i : ItemId) (hk : Keeps s₀ s) : Keeps s₀ (State.loseEntry s i) := by
  unfold State.loseEntry
  try dsimp only
  repeat' first
    | with_reducible assumption | with_reducible apply State.failItem_keeps | with_reducible apply Keeps.ite | intro _ | split

theorem State.expandRead_keeps {s₀ s : State} (i : ItemId) (d : Block512) (tableEcc : Ecc) (knotEcc : Ecc)
    (hk : Keeps s₀ s) : Keeps s₀ (State.expandRead s i d tableEcc knotEcc) := by
  unfold State.expandRead
  try dsimp only
  repeat' first
    | with_reducible assumption | with_reducible apply State.dispatch_keeps | with_reducible apply State.loseKnot_keeps
    | with_reducible apply State.loseEntry_keeps | with_reducible apply Keeps.ite | intro _ | split

theorem State.fetchFrom_keeps {s₀ s : State} (g : ℕ) (tableEcc : Ecc) (knotEcc : Ecc)
    (hk : Keeps s₀ s) : Keeps s₀ (State.fetchFrom s g tableEcc knotEcc) := by
  unfold State.fetchFrom
  try dsimp only
  repeat' first
    | with_reducible assumption | with_reducible apply State.modTreadle_keeps | with_reducible apply State.noteHeld_keeps
    | with_reducible apply State.readAhead_keeps | with_reducible apply State.expandRead_keeps | with_reducible apply State.modRing_keeps
    | with_reducible apply Keeps.ite | intro _ | split

theorem State.fetch_keeps {s₀ s : State} (h : ℕ) (entryEcc : Ecc) (tableEcc : Ecc) (knotEcc : Ecc)
    (hk : Keeps s₀ s) : Keeps s₀ (State.fetch s h entryEcc tableEcc knotEcc) := by
  unfold State.fetch
  try dsimp only
  repeat' first
    | with_reducible assumption | with_reducible apply State.setRingState_keeps | with_reducible apply State.fetchFrom_keeps
    | with_reducible apply Keeps.ite | intro _ | split

theorem State.doorbellP_keeps {s₀ s : State} (g : ℕ) (v : W32) (hk : Keeps s₀ s) : Keeps s₀ (State.doorbellP s g v) := by
  unfold State.doorbellP
  try dsimp only
  repeat' first
    | with_reducible assumption | with_reducible apply State.fault_keeps | with_reducible apply State.touch_keeps
    | with_reducible apply State.noteHeld_keeps | with_reducible apply State.modRing_keeps | with_reducible apply Keeps.ite | intro _
    | split

theorem State.doorbellH_keeps {s₀ s : State} (g : ℕ) (v : W32) (hk : Keeps s₀ s) : Keeps s₀ (State.doorbellH s g v) := by
  unfold State.doorbellH
  try dsimp only
  repeat' first
    | with_reducible assumption | with_reducible apply State.fault_keeps | with_reducible apply State.noteHeld_keeps
    | with_reducible apply State.modRing_keeps | with_reducible apply Keeps.ite | intro _ | split

theorem State.emitCall_keeps {s₀ s : State} (i : ItemId) (hk : Keeps s₀ s) : Keeps s₀ (State.emitCall s i) := by
  unfold State.emitCall
  try dsimp only
  repeat' first
    | with_reducible assumption | with_reducible apply State.modItem_keeps | with_reducible apply State.dispatchFor_keeps
    | with_reducible apply State.failCallers_keeps | with_reducible apply Keeps.ite | intro _ | split

theorem State.pumpCall_keeps {s₀ a1 : State} (a0 : ℕ) (a2 : ItemId) (hk : Keeps s₀ a1) : Keeps s₀ (State.pumpCall a0 a1 a2) := by
  induction a0 generalizing a1 a2 with
  | zero => exact hk
  | succ n ih =>
    unfold State.pumpCall
    try dsimp only
    repeat' first
      | with_reducible assumption | with_reducible apply ih | with_reducible apply State.emitCall_keeps | with_reducible apply Keeps.ite
      | intro _ | split

theorem State.pumpUp_keeps {s₀ a1 : State} (a0 : ℕ) (a2 : ItemId) (hk : Keeps s₀ a1) : Keeps s₀ (State.pumpUp a0 a1 a2) := by
  induction a0 generalizing a1 a2 with
  | zero => exact hk
  | succ n ih =>
    unfold State.pumpUp
    try dsimp only
    repeat' first
      | with_reducible assumption | with_reducible apply ih | with_reducible apply State.pumpCall_keeps | with_reducible apply Keeps.ite
      | intro _ | split

theorem State.pumpCaller_keeps {s₀ s : State} (c : Option ItemId) (hk : Keeps s₀ s) : Keeps s₀ (State.pumpCaller s c) := by
  unfold State.pumpCaller
  try dsimp only
  repeat' first
    | with_reducible assumption | with_reducible apply State.pumpUp_keeps | with_reducible apply Keeps.ite | intro _ | split

theorem State.resumeRing_keeps {s₀ s : State} (g : ℕ) (hk : Keeps s₀ s) : Keeps s₀ (State.resumeRing s g) := by
  unfold State.resumeRing
  try dsimp only
  repeat' first
    | with_reducible assumption | with_reducible apply State.pumpUp_keeps | with_reducible apply State.pumpCaller_keeps
    | with_reducible apply State.settleWaits_keeps | with_reducible apply State.emitPieces_keeps | with_reducible apply Keeps.foldl
    | with_reducible apply Keeps.foldlFst | with_reducible apply Keeps.ite | intro _ | split

theorem State.loseHeadKnots_keeps {s₀ s : State} (h : ℕ) (l : ℕ) (q : Queue) (hk : Keeps s₀ s) : Keeps s₀ (State.loseHeadKnots s h l q) := by
  unfold State.loseHeadKnots
  try dsimp only
  repeat' first
    | with_reducible assumption | with_reducible apply State.loseKnot_keeps | with_reducible apply Keeps.foldl
    | with_reducible apply Keeps.foldlFst | with_reducible apply Keeps.ite | intro _ | split

theorem State.dobby_keeps {s₀ s : State} (h : ℕ) (l : ℕ) (q : Queue) (knotEcc : Ecc)
    (hk : Keeps s₀ s) : Keeps s₀ (State.dobby s h l q knotEcc) := by
  unfold State.dobby
  try dsimp only
  repeat' first
    | with_reducible assumption | with_reducible apply State.loseHeadKnots_keeps | with_reducible apply State.setSelector_keeps
    | with_reducible apply State.touch_keeps | with_reducible apply State.requestPiece_keeps | with_reducible apply Keeps.ite | intro _
    | split

theorem State.addSlot_keeps {s₀ s : State} (h : ℕ) (l : ℕ) (x : Slot) (hk : Keeps s₀ s) : Keeps s₀ (State.addSlot s h l x) := by
  unfold State.addSlot
  try dsimp only
  repeat' first
    | with_reducible assumption | with_reducible apply State.modLoom_keeps | with_reducible apply Keeps.ite | intro _ | split

theorem State.putSlot_keeps {s₀ s : State} (t : Item) (p : Piece) (rds : List Read) (hk : Keeps s₀ s) : Keeps s₀ (State.putSlot s t p rds) := by
  unfold State.putSlot
  try dsimp only
  repeat' first
    | with_reducible assumption | with_reducible apply State.addSlot_keeps | with_reducible apply State.markFull_keeps
    | with_reducible apply State.put_keeps | with_reducible apply Keeps.ite | intro _ | split

theorem State.fillSlot_keeps {s₀ s : State} (t : Item) (o : Opcode) (p : Piece) (hk : Keeps s₀ s) : Keeps s₀ (State.fillSlot s t o p) := by
  unfold State.fillSlot
  try dsimp only
  repeat' first
    | with_reducible assumption | with_reducible apply State.failAt_keeps | with_reducible apply State.putSlot_keeps
    | with_reducible apply State.consumeExcept_keeps | with_reducible apply Keeps.foldl | with_reducible apply Keeps.foldlFst
    | with_reducible apply Keeps.ite | intro _ | split

theorem State.afterPiece_keeps {s₀ s : State} (p : Piece) (hk : Keeps s₀ s) : Keeps s₀ (State.afterPiece s p) := by
  unfold State.afterPiece
  try dsimp only
  repeat' first
    | with_reducible assumption | with_reducible apply State.fillSlot_keeps | with_reducible apply Keeps.ite | intro _ | split

theorem State.completePiece_keeps {s₀ s : State} (h : ℕ) (l : ℕ) (q : Queue) (hk : Keeps s₀ s) : Keeps s₀ (State.completePiece s h l q) := by
  unfold State.completePiece
  try dsimp only
  repeat' first
    | with_reducible assumption | with_reducible apply State.setSelector_keeps | with_reducible apply State.afterPiece_keeps
    | with_reducible apply State.touch_keeps | with_reducible apply State.setLane_keeps | with_reducible apply State.settleWaits_keeps
    | with_reducible apply State.resumeRing_keeps | with_reducible apply Keeps.ite | intro _ | split

theorem State.knotArrive_keeps {s₀ s : State} (n : ℕ) (knotEcc : Ecc) (hk : Keeps s₀ s) : Keeps s₀ (State.knotArrive s n knotEcc) := by
  unfold State.knotArrive
  try dsimp only
  repeat' first
    | with_reducible assumption | with_reducible apply State.knotAct_keeps | with_reducible apply State.settleWaits_keeps
    | with_reducible apply Keeps.ite | simp only [Keeps.update_iff] | intro _ | split

theorem State.stall_keeps {s₀ s : State} (g : ℕ) (hk : Keeps s₀ s) : Keeps s₀ (State.stall s g) := by
  unfold State.stall
  try dsimp only
  repeat' first
    | with_reducible assumption | with_reducible apply State.event_keeps | with_reducible apply State.modTreadle_keeps
    | with_reducible apply Keeps.ite | intro _ | split

theorem State.orCut_keeps {s₀ s : State} (t : Item) (f : State → State) (Hf : ∀ s, Keeps s₀ s → Keeps s₀ (f s))
    (hk : Keeps s₀ s) : Keeps s₀ (State.orCut s t f) := by
  unfold State.orCut
  try dsimp only
  repeat' first
    | with_reducible assumption | with_reducible apply Hf | with_reducible apply State.failItem_keeps | with_reducible apply Keeps.ite
    | (intro _; try dsimp only) | split

theorem State.afterManagementRead_keeps {s₀ s : State} (t : Item) (hk : Keeps s₀ s) : Keeps s₀ (State.afterManagementRead s t) := by
  unfold State.afterManagementRead
  try dsimp only
  repeat' first
    | with_reducible assumption | with_reducible apply State.managementReads_keeps | with_reducible apply Keeps.foldl
    | with_reducible apply Keeps.foldlFst | with_reducible apply Keeps.ite | intro _ | split

theorem State.withItem_keeps {s₀ s : State} (i : ItemId) (o : Opcode) (f : Item → State → State) (Hf : ∀ a s, Keeps s₀ s → Keeps s₀ (f a s))
    (hk : Keeps s₀ s) : Keeps s₀ (State.withItem s i o f) := by
  unfold State.withItem
  try dsimp only
  repeat' first
    | with_reducible assumption | with_reducible apply Hf | with_reducible apply State.orCut_keeps
    | with_reducible apply State.carryReset_keeps | with_reducible apply State.afterManagementRead_keeps | with_reducible apply Keeps.ite
    | (intro _; try dsimp only) | split

theorem State.knotSet_keeps {s₀ s : State} (knotEcc : Ecc) (t : Item) (hk : Keeps s₀ s) : Keeps s₀ (State.knotSet knotEcc t s) := by
  unfold State.knotSet
  try dsimp only
  repeat' first
    | with_reducible assumption | with_reducible apply State.knotSend_keeps | with_reducible apply State.finish_keeps
    | with_reducible apply State.settleWaits_keeps | with_reducible apply State.knotAct_keeps | with_reducible apply Keeps.ite | intro _
    | split

theorem State.loseWaitKnot_keeps {s₀ s : State} (t : Item) (knotEcc : Ecc) (hk : Keeps s₀ s) : Keeps s₀ (State.loseWaitKnot s t knotEcc) := by
  unfold State.loseWaitKnot
  try dsimp only
  repeat' first
    | with_reducible assumption | with_reducible apply State.loseKnot_keeps | with_reducible apply Keeps.ite | intro _ | split

theorem State.knotWait_keeps {s₀ s : State} (knotEcc : Ecc) (t : Item) (hk : Keeps s₀ s) : Keeps s₀ (State.knotWait knotEcc t s) := by
  unfold State.knotWait
  try dsimp only
  repeat' first
    | with_reducible assumption | with_reducible apply State.loseWaitKnot_keeps | with_reducible apply State.failItem_keeps
    | with_reducible apply State.modItem_keeps | with_reducible apply State.finish_keeps | with_reducible apply Keeps.ite | intro _
    | split

theorem State.fence_keeps {s₀ s : State} (t : Item) (hk : Keeps s₀ s) : Keeps s₀ (State.fence t s) := by
  unfold State.fence
  try dsimp only
  repeat' first
    | with_reducible assumption | with_reducible apply State.finish_keeps | with_reducible apply Keeps.ite | intro _ | split

theorem State.callPattern_keeps {s₀ s : State} (routineEcc : Ecc) (t : Item) (hk : Keeps s₀ s) : Keeps s₀ (State.callPattern routineEcc t s) := by
  unfold State.callPattern
  try dsimp only
  repeat' first
    | with_reducible assumption | with_reducible apply State.failItem_keeps | with_reducible apply State.consume_keeps
    | with_reducible apply State.pumpCaller_keeps | with_reducible apply State.finish_keeps | with_reducible apply State.pumpUp_keeps
    | with_reducible apply State.modItem_keeps | with_reducible apply Keeps.foldl | with_reducible apply Keeps.foldlFst
    | with_reducible apply Keeps.ite | intro _ | split

theorem State.loseSetKnot_keeps {s₀ s' : State} (s : State) (i : ItemId) (hk : Keeps s₀ s') : Keeps s₀ (State.loseSetKnot s s' i) := by
  unfold State.loseSetKnot
  try dsimp only
  repeat' first
    | with_reducible assumption | with_reducible apply State.loseKnot_keeps | with_reducible apply Keeps.ite | intro _ | split

theorem State.completeItem_keeps {s₀ s : State} (i : ItemId) (knotEcc : Ecc) (hk : Keeps s₀ s) : Keeps s₀ (State.completeItem s i knotEcc) := by
  unfold State.completeItem
  try dsimp only
  repeat' first
    | with_reducible assumption | with_reducible apply State.pumpCaller_keeps | with_reducible apply State.loseSetKnot_keeps
    | with_reducible apply State.complete_keeps | with_reducible apply Keeps.ite | intro _ | split

theorem State.moveByteBits_keeps {s₀ s : State} (acS : Access) (acD : Access) (src : ℕ) (dst : ℕ) (lo : ℕ) (n : ℕ)
    (hk : Keeps s₀ s) : Keeps s₀ (State.moveByteBits s acS acD src dst lo n) := by
  unfold State.moveByteBits
  try dsimp only
  repeat' first
    | with_reducible assumption | with_reducible apply State.store_keeps | with_reducible apply Keeps.ite | intro _ | split

theorem State.moveBits_keeps {s₀ s : State} (acS : Access) (acD : Access) (src : ℕ) (dst : ℕ) (o : ℕ) (n : ℕ)
    (hk : Keeps s₀ s) : Keeps s₀ (State.moveBits s acS acD src dst o n) := by
  unfold State.moveBits
  try dsimp only
  repeat' first
    | with_reducible assumption | with_reducible apply State.moveByteBits_keeps | with_reducible apply State.store_keeps
    | with_reducible apply State.addPoison_keeps | with_reducible apply Keeps.foldl | with_reducible apply Keeps.foldlFst
    | with_reducible apply Keeps.ite | intro _ | split

theorem State.movePart_keeps {s₀ s : State} (fn : ℕ) (src : Block512) (dst : Block512) (rS : ℕ) (rD : ℕ) (c0 : ℕ) (d0 : ℕ) (n : ℕ)
    (hk : Keeps s₀ s) : Keeps s₀ (State.movePart s fn src dst rS rD c0 d0 n).1 := by
  unfold State.movePart
  try dsimp only
  repeat' first
    | with_reducible assumption | with_reducible apply State.moveBits_keeps | with_reducible apply Keeps.foldl
    | with_reducible apply Keeps.foldlFst | with_reducible apply Keeps.ite | intro _ | split

theorem State.moveUnit_keeps {s₀ s : State} (t : Item) (m : MoveRows) (u : ℕ) (hk : Keeps s₀ s) : Keeps s₀ (State.moveUnit s t m u) := by
  unfold State.moveUnit
  try dsimp only
  repeat' first
    | with_reducible assumption | with_reducible apply State.movePart_keeps | with_reducible apply State.unitFinished_keeps
    | with_reducible apply Keeps.foldl | with_reducible apply Keeps.foldlFst | with_reducible apply Keeps.ite | intro _ | split

theorem State.moveShape_keeps {s₀ s : State} (o : Opcode) (t : Item) (hk : Keeps s₀ s) : Keeps s₀ (State.moveShape o t s) := by
  unfold State.moveShape
  try dsimp only
  repeat' first
    | with_reducible assumption | with_reducible apply State.runAll_keeps | with_reducible apply Keeps.ite | (intro _; try dsimp only)
    | split | exact State.moveUnit_keeps _ _ _ ‹_› | exact ‹Keeps _ _›

theorem State.addPart_keeps {s₀ s : State} (fn : ℕ) (src : Block512) (dst : Block512) (rS : ℕ) (rD : ℕ) (c0 : ℕ) (n : ℕ)
    (hk : Keeps s₀ s) : ∀ s', State.addPart s fn src dst rS rD c0 n = some s' → Keeps s₀ s' := by
  intro s' he
  unfold State.addPart at he
  dsimp only at he
  split at he
  · simp at he
  · simp only [Option.some.injEq] at he
    subst he
    exact State.store_keeps _ _ _ hk

theorem State.addParts_keeps {s₀ s : State} (fn : ℕ) (src : Block512) (dst : Block512) (m : MoveRows) (a5 : List (ℕ × ℕ × ℕ)) (a6 : ℕ)
    (hk : Keeps s₀ s) : Keeps s₀ (State.addParts s fn src dst m a5 a6).1 := by
  induction a5 generalizing s a6 with
  | nil => exact hk
  | cons m ms ih =>
    unfold State.addParts
    try dsimp only
    repeat' first
      | with_reducible assumption | with_reducible apply ih | with_reducible refine State.addPart_keeps _ _ _ _ _ _ _ ?_ _ (by assumption)
      | with_reducible apply Keeps.ite | intro _ | split

theorem State.addUnit_keeps {s₀ s : State} (t : Item) (m : MoveRows) (u : ℕ) (hk : Keeps s₀ s) : Keeps s₀ (State.addUnit s t m u) := by
  unfold State.addUnit
  try dsimp only
  repeat' first
    | with_reducible assumption | with_reducible apply State.addParts_keeps | with_reducible apply State.unitFinished_keeps
    | with_reducible apply State.failAt_keeps | with_reducible apply State.modItem_keeps | with_reducible apply Keeps.ite | intro _
    | split

theorem State.indexed_keeps {s₀ s : State} (o : Opcode) (t : Item) (hk : Keeps s₀ s) : Keeps s₀ (State.indexed o t s) := by
  unfold State.indexed
  try dsimp only
  repeat' first
    | with_reducible assumption | with_reducible apply State.failItem_keeps | with_reducible apply State.runAll_keeps
    | with_reducible apply Keeps.ite | (intro _; try dsimp only) | split | exact State.moveUnit_keeps _ _ _ ‹_› | exact ‹Keeps _ _›
    | exact State.addUnit_keeps _ _ _ ‹_› | exact ‹Keeps _ _›

theorem State.prefetchLine_keeps {s₀ s : State} (w : Block512) (slot : Option ℕ) (line : ℕ)
    (hk : Keeps s₀ s) : Keeps s₀ (State.prefetchLine s w slot line) := by
  unfold State.prefetchLine
  try dsimp only
  repeat' first
    | with_reducible assumption | with_reducible apply State.touchLine_keeps | with_reducible apply State.bump_keeps
    | with_reducible apply State.fillLine_keeps | with_reducible apply Keeps.ite | intro _ | split

theorem State.prefetch_keeps {s₀ s : State} (t : Item) (hk : Keeps s₀ s) : Keeps s₀ (State.prefetch t s) := by
  unfold State.prefetch
  try dsimp only
  repeat' first
    | with_reducible assumption | with_reducible apply State.finish_keeps | with_reducible apply State.takeLine_keeps
    | with_reducible apply State.prefetchLine_keeps | with_reducible apply Keeps.foldl | with_reducible apply Keeps.foldlFst
    | with_reducible apply Keeps.ite | intro _ | split

theorem State.failReceivers_keeps {s₀ s : State} (key : ℕ) (hk : Keeps s₀ s) : Keeps s₀ (State.failReceivers s key) := by
  unfold State.failReceivers
  try dsimp only
  repeat' first
    | with_reducible assumption | with_reducible apply State.failItem_keeps | with_reducible apply Keeps.foldl
    | with_reducible apply Keeps.foldlFst | with_reducible apply Keeps.ite | intro _ | split

theorem State.closeWindow_keeps {s₀ s : State} (key : ℕ) (hk : Keeps s₀ s) : Keeps s₀ (State.closeWindow s key) := by
  unfold State.closeWindow
  try dsimp only
  repeat' first
    | with_reducible assumption | with_reducible apply State.failReceivers_keeps | with_reducible apply State.setWindow_keeps
    | with_reducible apply Keeps.ite | intro _ | split

theorem State.putPlaintext_keeps {s₀ s : State} (fn : ℕ) (w : Block512) (sh : List ℕ) (pos : ℕ) (bs : List Byte)
    (hk : Keeps s₀ s) : Keeps s₀ (State.putPlaintext s fn w sh pos bs) := by
  unfold State.putPlaintext
  try dsimp only
  repeat' first
    | with_reducible assumption | with_reducible apply State.store_keeps | with_reducible apply Keeps.foldl
    | with_reducible apply Keeps.foldlFst | with_reducible apply Keeps.ite | intro _ | split

theorem State.sealImage_keeps {s₀ s : State} (t : Item) (rd : Read) (hk : Keeps s₀ s) : Keeps s₀ (State.sealImage s t rd) := by
  unfold State.sealImage
  try dsimp only
  repeat' first
    | with_reducible assumption | with_reducible apply State.failItem_keeps | with_reducible apply State.finish_keeps
    | with_reducible apply State.consume_keeps | with_reducible apply State.store_keeps | with_reducible apply Keeps.ite | intro _ | split

theorem State.offloadSealed_keeps {s₀ s : State} (t : Item) (hk : Keeps s₀ s) : Keeps s₀ (State.offloadSealed t s) := by
  unfold State.offloadSealed
  try dsimp only
  repeat' first
    | with_reducible assumption | with_reducible apply State.failItem_keeps | with_reducible apply State.closeWindow_keeps
    | with_reducible apply State.sealImage_keeps | with_reducible apply Keeps.ite | intro _ | split

theorem State.restoreChunks_keeps {s₀ s : State} (fn : ℕ) (w : Block512) (sh : List ℕ) (key : List Byte) (hd : W32) (gen : W32) (a7 : List (List Byte × ℕ)) (a8 : ℕ)
    (hk : Keeps s₀ s) : Keeps s₀ (State.restoreChunks s fn w sh key hd gen a7 a8).1 := by
  induction a7 generalizing s a8 with
  | nil => exact hk
  | cons m ms ih =>
    unfold State.restoreChunks
    try dsimp only
    repeat' first
      | with_reducible assumption | with_reducible apply ih | with_reducible apply State.putPlaintext_keeps
      | with_reducible apply Keeps.ite | intro _ | split

theorem State.restoreSealed_keeps {s₀ s : State} (t : Item) (hk : Keeps s₀ s) : Keeps s₀ (State.restoreSealed t s) := by
  unfold State.restoreSealed
  try dsimp only
  repeat' first
    | with_reducible assumption | with_reducible apply State.failItem_keeps | with_reducible apply State.restoreChunks_keeps
    | with_reducible apply State.modItem_keeps | with_reducible apply State.finish_keeps | with_reducible apply Keeps.ite | intro _
    | split

theorem State.countMiss_keeps {s₀ s : State} (c : ℕ) (hk : Keeps s₀ s) : Keeps s₀ (State.countMiss s c) := by
  unfold State.countMiss
  try dsimp only
  repeat' first
    | with_reducible assumption | with_reducible apply State.ctxWrite_keeps | with_reducible apply Keeps.ite | intro _ | split

theorem State.requestSlice_keeps {s₀ s : State} (t : Item) (l : ℕ) (sl : SliceId) (hk : Keeps s₀ s) : Keeps s₀ (State.requestSlice s t l sl) := by
  unfold State.requestSlice
  try dsimp only
  repeat' first
    | with_reducible assumption | with_reducible apply State.modBobbin_keeps | with_reducible apply State.countMiss_keeps
    | with_reducible apply State.request_keeps | with_reducible apply Keeps.ite | intro _ | split

theorem State.wantSlices_keeps {s₀ s : State} (t : Item) (l : ℕ) (sls : List SliceId)
    (hk : Keeps s₀ s) : Keeps s₀ (State.wantSlices s t l sls) := by
  unfold State.wantSlices
  try dsimp only
  repeat' first
    | with_reducible assumption | with_reducible apply State.requestSlice_keeps | with_reducible apply Keeps.foldl
    | with_reducible apply Keeps.foldlFst | with_reducible apply Keeps.ite | intro _ | split

theorem State.readSlices_keeps {s₀ s : State} (t : Item) (l : ℕ) (sls : List SliceId)
    (hk : Keeps s₀ s) : Keeps s₀ (State.readSlices s t l sls) := by
  unfold State.readSlices
  try dsimp only
  repeat' first
    | with_reducible assumption | with_reducible apply State.modBobbin_keeps | with_reducible apply Keeps.foldl
    | with_reducible apply Keeps.foldlFst | with_reducible apply Keeps.ite | intro _ | split

theorem State.heldView_keeps {s₀ s : State} (t : Item) (u : ℕ) (b : ℕ) (hk : Keeps s₀ s) : Keeps s₀ (State.heldView s t u b) := by
  unfold State.heldView
  dsimp only
  refine Keeps.ite (fun _ => hk) fun _ => ?_
  with_reducible apply Keeps.updateMem
  · exact hk
  · exact fun h => List.foldlRecOn (motive := fun m => Memory.wf m = true) _ _ h fun m hm e _ => Memory.wf_writeBytes _ _ hm

theorem State.countTally_keeps {s₀ s : State} (h : ℕ) (l : ℕ) (t : Tally) (hk : Keeps s₀ s) : Keeps s₀ (State.countTally s h l t) := by
  unfold State.countTally
  try dsimp only
  repeat' first
    | with_reducible assumption | with_reducible apply State.bump_keeps | with_reducible apply Keeps.ite | intro _ | split

theorem tallied_keeps {s₀ s : State} {α : Type} (f : State → α → State × Tally) (l : List α) (Hf : ∀ s x, Keeps s₀ s → Keeps s₀ (f s x).1)
    (hk : Keeps s₀ s) : Keeps s₀ (tallied f s l).1 := by
  unfold tallied
  try dsimp only
  repeat' first
    | with_reducible assumption | with_reducible apply Hf | with_reducible apply Keeps.foldl | with_reducible apply Keeps.foldlFst
    | with_reducible apply Keeps.ite | (intro _; try dsimp only) | split

theorem State.writeRow_keeps {s₀ s : State} (t : Item) (b : ℕ) (cv : Conv) (r : ℕ) (c0 : ℕ) (xs : List W32)
    (hk : Keeps s₀ s) : Keeps s₀ (State.writeRow s t b cv r c0 xs).1 := by
  unfold State.writeRow
  try dsimp only
  repeat' first
    | with_reducible assumption | with_reducible apply State.putRow_keeps | with_reducible apply Keeps.ite | intro _ | split

theorem State.serveRows_keeps {s₀ s : State} (c : ℕ) (n : ℕ) (hk : Keeps s₀ s) : Keeps s₀ (State.serveRows s c n) := by
  unfold State.serveRows
  try dsimp only
  repeat' first
    | with_reducible assumption | with_reducible apply State.ctxWrite_keeps | with_reducible apply Keeps.ite | intro _ | split

theorem State.countSteps_keeps {s₀ s : State} (h : ℕ) (l : ℕ) (c : Counts) (hk : Keeps s₀ s) : Keeps s₀ (State.countSteps s h l c) := by
  unfold State.countSteps
  try dsimp only
  repeat' first
    | with_reducible assumption | with_reducible apply State.bump_keeps | with_reducible apply Keeps.ite | intro _ | split

theorem State.latchPasses_keeps {s₀ s : State} (m : Mat) (h : ℕ) (l : ℕ) (u : ℕ) (lo : ℕ) (n : ℕ)
    (hk : Keeps s₀ s) : Keeps s₀ (State.latchPasses s m h l u lo n) := by
  unfold State.latchPasses
  try dsimp only
  repeat' first
    | with_reducible assumption | with_reducible apply State.modLoom_keeps | with_reducible apply Keeps.foldl
    | with_reducible apply Keeps.foldlFst | with_reducible apply Keeps.ite | intro _ | split

theorem State.putAccums_keeps {s₀ s : State} (h : ℕ) (l : ℕ) (r : TileRun) (hk : Keeps s₀ s) : Keeps s₀ (State.putAccums s h l r) := by
  unfold State.putAccums
  try dsimp only
  repeat' first
    | with_reducible assumption | with_reducible apply State.draw_keeps | with_reducible apply State.modLoom_keeps
    | with_reducible apply Keeps.foldl | with_reducible apply Keeps.foldlFst | with_reducible apply Keeps.ite | intro _ | split

theorem State.serveShaft_keeps {s₀ s : State} (m : Mat) (u : ℕ) (k : ℕ) (hk : Keeps s₀ s) : Keeps s₀ (State.serveShaft s m u k) := by
  unfold State.serveShaft
  try dsimp only
  repeat' first
    | with_reducible assumption | with_reducible apply State.serveRows_keeps | with_reducible apply Keeps.ite | intro _ | split

theorem State.noteTerm_keeps {s₀ s : State} (i : ItemId) (hk : Keeps s₀ s) : Keeps s₀ (State.noteTerm s i) := by
  unfold State.noteTerm
  try dsimp only
  repeat' first
    | with_reducible assumption | with_reducible apply State.modItem_keeps | with_reducible apply Keeps.ite | intro _ | split

theorem State.epilogueRow_keeps {s₀ s : State} (m : Mat) (u : ℕ) (row : ℕ) (land : List W32) (terms : Option (List W32))
    (hk : Keeps s₀ s) : Keeps s₀ (State.epilogueRow s m u row land terms).1 := by
  unfold State.epilogueRow
  try dsimp only
  repeat' first
    | with_reducible assumption | with_reducible apply State.writeRow_keeps | with_reducible apply Keeps.ite | intro _ | split

theorem State.epilogueTile_keeps {s₀ s : State} (m : Mat) (r : TileRun) (hk : Keeps s₀ s) : Keeps s₀ (State.epilogueTile s m r).1 := by
  unfold State.epilogueTile
  try dsimp only
  repeat' first
    | with_reducible assumption | with_reducible apply tallied_keeps | with_reducible apply State.epilogueRow_keeps
    | with_reducible apply Keeps.ite | intro _ | split

theorem State.writeTile_keeps {s₀ s : State} (m : Mat) (r : TileRun) (hk : Keeps s₀ s) : Keeps s₀ (State.writeTile s m r) := by
  unfold State.writeTile
  try dsimp only
  repeat' first
    | with_reducible assumption | with_reducible apply State.epilogueTile_keeps | with_reducible apply State.unitFinished_keeps
    | with_reducible apply State.countTally_keeps | with_reducible apply Keeps.ite | intro _ | split

theorem State.emptySlots_keeps {s₀ s : State} (h : ℕ) (l : ℕ) (f : Slot → Bool) (hk : Keeps s₀ s) : Keeps s₀ (State.emptySlots s h l f) := by
  unfold State.emptySlots
  try dsimp only
  repeat' first
    | with_reducible assumption | with_reducible apply State.markEmpty_keeps | with_reducible apply State.modLoom_keeps
    | with_reducible apply Keeps.foldl | with_reducible apply Keeps.foldlFst | with_reducible apply Keeps.ite | intro _ | split

theorem State.dropTile_keeps {s₀ s : State} (t : Item) (u : ℕ) (hk : Keeps s₀ s) : Keeps s₀ (State.dropTile s t u) := by
  unfold State.dropTile
  try dsimp only
  repeat' first
    | with_reducible assumption | with_reducible apply State.modLoom_keeps | with_reducible apply State.emptySlots_keeps
    | with_reducible apply Keeps.ite | intro _ | split

theorem State.termTile_keeps {s₀ s : State} (m : Mat) (r : TileRun) (hk : Keeps s₀ s) : Keeps s₀ (State.termTile s m r).1 := by
  unfold State.termTile
  try dsimp only
  repeat' first
    | with_reducible assumption | with_reducible apply State.serveShaft_keeps | with_reducible apply State.readSlices_keeps
    | with_reducible apply Keeps.foldl | with_reducible apply Keeps.foldlFst | with_reducible apply Keeps.ite | intro _ | split

theorem State.noteReplay_keeps {s₀ s : State} (i : ItemId) (n : ℕ) (hk : Keeps s₀ s) : Keeps s₀ (State.noteReplay s i n) := by
  unfold State.noteReplay
  try dsimp only
  repeat' first
    | with_reducible assumption | with_reducible apply State.modItem_keeps | with_reducible apply Keeps.ite | intro _ | split

theorem State.matUnit_keeps {s₀ s : State} (m : Mat) (u : ℕ) (hk : Keeps s₀ s) : Keeps s₀ (State.matUnit m u s) := by
  unfold State.matUnit
  try dsimp only
  repeat' first
    | with_reducible assumption | with_reducible apply State.putAccums_keeps | with_reducible apply State.latchPasses_keeps
    | with_reducible apply State.termTile_keeps | with_reducible apply State.countSteps_keeps | with_reducible apply State.ranOn_keeps
    | with_reducible apply State.dropTile_keeps | with_reducible apply State.writeTile_keeps | with_reducible apply Keeps.ite | intro _
    | split

theorem State.writeTermed_keeps {s₀ s : State} (m : Mat) (hk : Keeps s₀ s) : Keeps s₀ (State.writeTermed s m) := by
  unfold State.writeTermed
  try dsimp only
  repeat' first
    | with_reducible assumption | with_reducible apply State.dropTile_keeps | with_reducible apply State.produce_keeps
    | with_reducible apply State.writeTile_keeps | with_reducible apply Keeps.foldl | with_reducible apply Keeps.foldlFst
    | with_reducible apply Keeps.ite | intro _ | split

theorem State.failTerm_keeps {s₀ s : State} (m : Mat) (st : Status) (hk : Keeps s₀ s) : Keeps s₀ (State.failTerm s m st) := by
  unfold State.failTerm
  try dsimp only
  repeat' first
    | with_reducible assumption | with_reducible apply State.failItem_keeps | with_reducible apply State.writeTermed_keeps
    | with_reducible apply Keeps.ite | intro _ | split

theorem State.matrix_keeps {s₀ s : State} (o : Opcode) (t : Item) (hk : Keeps s₀ s) : Keeps s₀ (State.matrix o t s) := by
  unfold State.matrix
  dsimp only
  cases s.termState t with
  | poisoned => exact State.failTerm_keeps _ _ hk
  | unmet => exact hk
  | met =>
    exact State.runAll_keeps _ _ (fun u x hx => State.matUnit_keeps _ _ hx) (fun u x hx => State.wantSlices_keeps _ _ _ hx)
      (State.noteTerm_keeps _ hk)

theorem State.warpLoad_keeps {s₀ s : State} (h : ℕ) (l : ℕ) (i : ItemId) (u : ℕ) (hk : Keeps s₀ s) : Keeps s₀ (State.warpLoad s h l i u) := by
  unfold State.warpLoad
  split
  · exact hk
  refine Keeps.ite (fun _ => State.orCut_keeps _ _ (fun x hx => ?_) hk) fun _ => hk
  refine Keeps.ite (fun _ => hx) fun _ => ?_
  generalize State.passFault _ _ _ _ = o
  cases o with
  | none => exact State.modLoom_keeps _ _ _ hx
  | some st => exact State.failAt_keeps _ _ _ hx

theorem State.putTile_keeps {s₀ s : State} (h : ℕ) (l : ℕ) (r : TileRun) (hk : Keeps s₀ s) : Keeps s₀ (State.putTile s h l r) := by
  unfold State.putTile
  try dsimp only
  repeat' first
    | with_reducible assumption | with_reducible apply State.modLoom_keeps | with_reducible apply Keeps.ite | intro _ | split

theorem State.freeSlots_keeps {s₀ s : State} (m : Mat) (u : ℕ) (lo : ℕ) (hi : ℕ) (hk : Keeps s₀ s) : Keeps s₀ (State.freeSlots s m u lo hi) := by
  unfold State.freeSlots
  try dsimp only
  repeat' first
    | with_reducible assumption | with_reducible apply State.emptySlots_keeps | with_reducible apply State.consumeExcept_keeps
    | with_reducible apply Keeps.foldl | with_reducible apply Keeps.foldlFst | with_reducible apply Keeps.ite | intro _ | split

theorem State.stepTile_keeps {s₀ s : State} (m : Mat) (h : ℕ) (l : ℕ) (r : TileRun) (r' : TileRun) (c : Counts)
    (hk : Keeps s₀ s) : Keeps s₀ (State.stepTile s m h l r r' c) := by
  unfold State.stepTile
  try dsimp only
  repeat' first
    | with_reducible assumption | with_reducible apply State.freeSlots_keeps | with_reducible apply State.countSteps_keeps
    | with_reducible apply State.putAccums_keeps | with_reducible apply State.putTile_keeps | with_reducible apply Keeps.ite | intro _
    | split

theorem State.tilePass_keeps {s₀ s : State} (h : ℕ) (l : ℕ) (hk : Keeps s₀ s) : Keeps s₀ (State.tilePass s h l) := by
  unfold State.tilePass
  try dsimp only
  repeat' first
    | with_reducible assumption | with_reducible apply State.orCut_keeps | with_reducible apply State.failAt_keeps
    | with_reducible apply State.ranOn_keeps | with_reducible apply State.stepTile_keeps | with_reducible apply State.modLoom_keeps
    | with_reducible apply Keeps.ite | (intro _; try dsimp only) | split

theorem State.replayTile_keeps {s₀ s : State} (h : ℕ) (l : ℕ) (x : Mat × TileRun) (hk : Keeps s₀ s) : Keeps s₀ (State.replayTile s h l x) := by
  unfold State.replayTile
  try dsimp only
  repeat' first
    | with_reducible assumption | with_reducible apply State.noteReplay_keeps | with_reducible apply State.stepTile_keeps
    | with_reducible apply State.latchPasses_keeps | with_reducible apply Keeps.ite | intro _ | split

theorem State.replay_keeps {s₀ s : State} (h : ℕ) (l : ℕ) (hk : Keeps s₀ s) : Keeps s₀ (State.replay s h l) := by
  unfold State.replay
  try dsimp only
  repeat' first
    | with_reducible assumption | with_reducible apply State.orCut_keeps | with_reducible apply State.countSteps_keeps
    | with_reducible apply State.replayTile_keeps | with_reducible apply Keeps.foldl | with_reducible apply Keeps.foldlFst
    | with_reducible apply Keeps.ite | (intro _; try dsimp only) | split

theorem State.promotion_keeps {s₀ s : State} (h : ℕ) (l : ℕ) (hk : Keeps s₀ s) : Keeps s₀ (State.promotion s h l) := by
  unfold State.promotion
  try dsimp only
  repeat' first
    | with_reducible assumption | with_reducible apply State.orCut_keeps | with_reducible apply State.freeSlots_keeps
    | with_reducible apply State.countSteps_keeps | with_reducible apply State.putTile_keeps | with_reducible apply Keeps.ite
    | (intro _; try dsimp only) | split

theorem State.tileEpilogue_keeps {s₀ s : State} (h : ℕ) (l : ℕ) (hk : Keeps s₀ s) : Keeps s₀ (State.tileEpilogue s h l) := by
  unfold State.tileEpilogue
  try dsimp only
  repeat' first
    | with_reducible assumption | with_reducible apply State.orCut_keeps | with_reducible apply State.failTerm_keeps
    | with_reducible apply State.noteTerm_keeps | with_reducible apply State.failAt_keeps | with_reducible apply State.finishIf_keeps
    | with_reducible apply State.settleTokens_keeps | with_reducible apply State.ranOn_keeps | with_reducible apply State.dropTile_keeps
    | with_reducible apply State.writeTile_keeps | with_reducible apply Keeps.ite | (intro _; try dsimp only) | split
    | exact State.matUnit_keeps _ _ ‹_› | exact State.wantSlices_keeps _ _ _ ‹_› | exact ‹Keeps _ _›

theorem State.stage3_keeps {s₀ s : State} (h : ℕ) (l : ℕ) (hk : Keeps s₀ s) : Keeps s₀ (State.stage3 s h l) := by
  unfold State.stage3
  generalize State.tileWith _ _ _ _ = o
  cases o with
  | none => exact hk
  | some p =>
    refine State.orCut_keeps _ _ (fun x hx => ?_) hk
    dsimp only
    generalize State.readyShaft _ _ _ _ _ = o
    cases o with
    | none => exact State.failTerm_keeps _ _ hx
    | some k =>
      refine Keeps.ite (fun _ => State.failTerm_keeps _ _ hx) fun _ => ?_
      generalize State.readFault _ _ _ _ = o
      cases o with
      | none => exact State.modBobbin_keeps _ _ _ (State.serveShaft_keeps _ _ _ (State.putTile_keeps _ _ _ (State.noteTerm_keeps _ hx)))
      | some st => exact State.failAt_keeps _ _ _ (State.noteTerm_keeps _ hx)

theorem State.landRow_keeps {s₀ s : State} (s0 : State) (t : Item) (o : Opcode) (r : ℕ)
    (hk : Keeps s₀ s) : Keeps s₀ (State.landRow s0 t o s r).1 := by
  unfold State.landRow
  try dsimp only
  repeat' first
    | with_reducible assumption | with_reducible apply State.writeRow_keeps | with_reducible apply Keeps.ite | intro _ | split

theorem State.addGamma_keeps {s₀ s : State} (s0 : State) (t : Item) (rs : List ℕ) (hk : Keeps s₀ s) : Keeps s₀ (State.addGamma s0 t rs s).1 := by
  unfold State.addGamma
  try dsimp only
  repeat' first
    | with_reducible assumption | with_reducible apply State.heldView_keeps | with_reducible apply State.writeRow_keeps
    | with_reducible apply Keeps.foldl | with_reducible apply Keeps.foldlFst | with_reducible apply Keeps.ite | intro _ | split

theorem State.landUnit_keeps {s₀ s : State} (s0 : State) (t : Item) (o : Opcode) (u : ℕ)
    (hk : Keeps s₀ s) : Keeps s₀ (State.landUnit s0 t o u s) := by
  unfold State.landUnit
  try dsimp only
  repeat' first
    | with_reducible assumption | with_reducible apply tallied_keeps | with_reducible apply State.landRow_keeps
    | with_reducible apply State.addGamma_keeps | with_reducible apply State.modLoom_keeps | with_reducible apply State.ranOn_keeps
    | with_reducible apply State.unitFinished_keeps | with_reducible apply State.countTally_keeps | with_reducible apply Keeps.ite
    | intro _ | split

theorem State.landing_keeps {s₀ s : State} (o : Opcode) (t : Item) (hk : Keeps s₀ s) : Keeps s₀ (State.landing o t s) := by
  unfold State.landing
  try dsimp only
  repeat' first
    | with_reducible assumption | with_reducible apply State.runAll_keeps | with_reducible apply Keeps.ite | (intro _; try dsimp only)
    | split | exact State.landUnit_keeps _ _ _ _ ‹_› | exact ‹Keeps _ _›

theorem State.clearStats_keeps {s₀ s : State} (c : ℕ) (hk : Keeps s₀ s) : Keeps s₀ (State.clearStats s c) := by
  unfold State.clearStats
  try dsimp only
  repeat' first
    | with_reducible assumption | with_reducible apply Keeps.ite | simp only [Keeps.update_iff] | with_reducible apply Keeps.updateMem
    | exact Memory.wf_filter _ _ | intro _ | split

theorem State.bobbinBind_keeps {s₀ s : State} (t : Item) (hk : Keeps s₀ s) : Keeps s₀ (State.bobbinBind t s) := by
  unfold State.bobbinBind
  try dsimp only
  repeat' first
    | with_reducible assumption | with_reducible apply State.failItem_keeps | with_reducible apply State.put_keeps
    | with_reducible apply State.treadleRequest_keeps | with_reducible apply State.finish_keeps | with_reducible apply State.consume_keeps
    | with_reducible apply State.clearStats_keeps | with_reducible apply Keeps.ite | intro _ | split

theorem State.putAdapt_keeps {s₀ s : State} (t : Item) (o : Opcode) (u : ℕ) (c : ℕ) (row : ℕ)
    (hk : Keeps s₀ s) : Keeps s₀ (State.putAdapt s t o u c row).1 := by
  unfold State.putAdapt
  try dsimp only
  repeat' first
    | with_reducible assumption | with_reducible apply State.writeRow_keeps | with_reducible apply Keeps.ite | intro _ | split

theorem State.putGrad_keeps {s₀ s : State} (t : Item) (u : ℕ) (onB : Bool) (c : ℕ) (pos : ℕ)
    (hk : Keeps s₀ s) : Keeps s₀ (State.putGrad s t u onB c pos).1 := by
  unfold State.putGrad
  try dsimp only
  repeat' first
    | with_reducible assumption | with_reducible apply State.heldView_keeps | with_reducible apply tallied_keeps
    | with_reducible apply State.putRow_keeps | with_reducible apply Keeps.ite | intro _ | split

theorem State.fetchLeft_keeps {s₀ s : State} (t : Item) (o : Opcode) (u : ℕ) (hk : Keeps s₀ s) : Keeps s₀ (State.fetchLeft s t o u) := by
  unfold State.fetchLeft
  try dsimp only
  repeat' first
    | with_reducible assumption | with_reducible apply State.addSlot_keeps | with_reducible apply Keeps.foldl
    | with_reducible apply Keeps.foldlFst | with_reducible apply Keeps.ite | intro _ | split

theorem State.bobbinUnit_keeps {s₀ s : State} (t : Item) (o : Opcode) (u : ℕ) (hk : Keeps s₀ s) : Keeps s₀ (State.bobbinUnit s t o u) := by
  unfold State.bobbinUnit
  try dsimp only
  repeat' first
    | with_reducible assumption | with_reducible apply State.modLoom_keeps | with_reducible apply State.ranOn_keeps
    | with_reducible apply State.unitFinished_keeps | with_reducible apply State.countTally_keeps
    | with_reducible apply State.serveRows_keeps | with_reducible apply tallied_keeps | with_reducible apply State.putAdapt_keeps
    | with_reducible apply State.putGrad_keeps | with_reducible apply Keeps.ite | intro _ | split

theorem State.addWork_keeps {s₀ s : State} (t : Item) (l : ℕ) (u : ℕ) (needs : List SliceId)
    (hk : Keeps s₀ s) : Keeps s₀ (State.addWork s t l u needs) := by
  unfold State.addWork
  try dsimp only
  repeat' first
    | with_reducible assumption | with_reducible apply State.modBobbin_keeps | with_reducible apply State.wantSlices_keeps
    | with_reducible apply Keeps.ite | intro _ | split

theorem State.bobbinCommand_keeps {s₀ s : State} (o : Opcode) (t : Item) (hk : Keeps s₀ s) : Keeps s₀ (State.bobbinCommand o t s) := by
  unfold State.bobbinCommand
  try dsimp only
  repeat' first
    | with_reducible assumption | with_reducible apply State.runAll_keeps | with_reducible apply Keeps.ite | (intro _; try dsimp only)
    | split | exact State.bobbinUnit_keeps _ _ _ (State.fetchLeft_keeps _ _ _ (State.readSlices_keeps _ _ _ ‹_›))
    | exact Keeps.ite (fun _ => State.addWork_keeps _ _ _ _ ‹_›) (fun _ => ‹_›) | exact ‹Keeps _ _›

theorem State.dropWork_keeps {s₀ s : State} (h : ℕ) (l : ℕ) (w : WorkItem) (hk : Keeps s₀ s) : Keeps s₀ (State.dropWork s h l w) := by
  unfold State.dropWork
  try dsimp only
  repeat' first
    | with_reducible assumption | with_reducible apply State.modBobbin_keeps | with_reducible apply Keeps.ite | intro _ | split

theorem State.endUnit_keeps {s₀ s : State} (h : ℕ) (l : ℕ) (t : Item) (o : Opcode) (w : WorkItem)
    (hk : Keeps s₀ s) : Keeps s₀ (State.endUnit s h l t o w) := by
  unfold State.endUnit
  try dsimp only
  repeat' first
    | with_reducible assumption | with_reducible apply State.failItem_keeps | with_reducible apply State.dropWork_keeps
    | with_reducible apply State.failAt_keeps | with_reducible apply State.finishIf_keeps | with_reducible apply State.settleTokens_keeps
    | with_reducible apply State.bobbinUnit_keeps | with_reducible apply State.fetchLeft_keeps | with_reducible apply Keeps.ite | intro _
    | split | exact State.bobbinUnit_keeps _ _ _ (State.fetchLeft_keeps _ _ _ (State.readSlices_keeps _ _ _ ‹_›))
    | exact Keeps.ite (fun _ => State.addWork_keeps _ _ _ _ ‹_›) (fun _ => ‹_›) | exact ‹Keeps _ _›

theorem State.endWork_keeps {s₀ s : State} (h : ℕ) (l : ℕ) (hk : Keeps s₀ s) : Keeps s₀ (State.endWork s h l) := by
  unfold State.endWork
  try dsimp only
  repeat' first
    | with_reducible assumption | with_reducible apply State.dropWork_keeps | with_reducible apply State.endUnit_keeps
    | with_reducible apply Keeps.foldl | with_reducible apply Keeps.foldlFst | with_reducible apply Keeps.ite | intro _ | split

theorem State.workStart_keeps {s₀ s : State} (h : ℕ) (l : ℕ) (i : ItemId) (unit : ℕ)
    (hk : Keeps s₀ s) : Keeps s₀ (State.workStart s h l i unit) := by
  unfold State.workStart
  try dsimp only
  repeat' first
    | with_reducible assumption | with_reducible apply State.orCut_keeps | with_reducible apply State.endWork_keeps
    | with_reducible apply State.addWork_keeps | with_reducible apply Keeps.ite | (intro _; try dsimp only) | split

theorem State.askUnit_keeps {s₀ s : State} (p : Piece) (hk : Keeps s₀ s) : Keeps s₀ (State.askUnit s p) := by
  unfold State.askUnit
  try dsimp only
  repeat' first
    | with_reducible assumption | with_reducible apply State.wantSlices_keeps | with_reducible apply State.modBobbin_keeps
    | with_reducible apply Keeps.ite | intro _ | split

theorem State.askSlices_keeps {s₀ s : State}  (hk : Keeps s₀ s) : Keeps s₀ (State.askSlices s) := by
  unfold State.askSlices
  try dsimp only
  repeat' first
    | with_reducible assumption | with_reducible apply State.askUnit_keeps | with_reducible apply Keeps.foldl
    | with_reducible apply Keeps.foldlFst | with_reducible apply Keeps.ite | intro _ | split

theorem State.requestHeads_keeps {s₀ s : State} (h : ℕ) (l : ℕ) (hk : Keeps s₀ s) : Keeps s₀ (State.requestHeads s h l) := by
  unfold State.requestHeads
  try dsimp only
  repeat' first
    | with_reducible assumption | with_reducible apply State.wantSlices_keeps | with_reducible apply Keeps.foldl
    | with_reducible apply Keeps.foldlFst | with_reducible apply Keeps.ite | intro _ | split

theorem State.loseSlice_keeps {s₀ s : State} (h : ℕ) (l : ℕ) (sl : SliceId) (i : ItemId) (st : Status)
    (hk : Keeps s₀ s) : Keeps s₀ (State.loseSlice s h l sl i st) := by
  unfold State.loseSlice
  try dsimp only
  repeat' first
    | with_reducible assumption | with_reducible apply State.failItem_keeps | with_reducible apply State.modBobbin_keeps
    | with_reducible apply Keeps.foldl | with_reducible apply Keeps.foldlFst | with_reducible apply Keeps.ite | intro _ | split

theorem State.cacheEcc_keeps {s₀ s : State} (h : ℕ) (l : ℕ) (ecc : Ecc) (hk : Keeps s₀ s) : Keeps s₀ (State.cacheEcc s h l ecc) := by
  unfold State.cacheEcc
  try dsimp only
  repeat' first
    | with_reducible assumption | with_reducible apply State.event_keeps | with_reducible apply State.bump_keeps
    | with_reducible apply Keeps.ite | intro _ | split

theorem State.sliceFill_keeps {s₀ s : State} (h : ℕ) (l : ℕ) (sl : SliceId) (ecc : Ecc)
    (hk : Keeps s₀ s) : Keeps s₀ (State.sliceFill s h l sl ecc) := by
  unfold State.sliceFill
  try dsimp only
  repeat' first
    | with_reducible assumption | with_reducible apply State.modBobbin_keeps | with_reducible apply State.requestHeads_keeps
    | with_reducible apply State.cacheEcc_keeps | with_reducible apply State.loseSlice_keeps
    | with_reducible apply State.consumeExcept_keeps | with_reducible apply State.endWork_keeps | with_reducible apply Keeps.ite | intro _
    | split

theorem State.streamArm_keeps {s₀ s : State} (t : Item) (hk : Keeps s₀ s) : Keeps s₀ (State.streamArm t s) := by
  unfold State.streamArm
  try dsimp only
  repeat' first
    | with_reducible assumption | with_reducible apply State.failItem_keeps | with_reducible apply State.bump_keeps
    | with_reducible apply State.modItem_keeps | with_reducible apply State.modStream_keeps | with_reducible apply Keeps.ite | intro _
    | split

theorem State.requestTransfer_keeps {s₀ s : State} (h : ℕ) (d : ℕ) (tte : ℕ) (a : Arming) (i : ℕ)
    (hk : Keeps s₀ s) : Keeps s₀ (State.requestTransfer s h d tte a i) := by
  unfold State.requestTransfer
  try dsimp only
  repeat' first
    | with_reducible assumption | with_reducible apply State.request_keeps | with_reducible apply Keeps.ite | intro _ | split

theorem State.streamGrant_keeps {s₀ s : State} (h : ℕ) (stateEcc : Ecc) (hk : Keeps s₀ s) : Keeps s₀ (State.streamGrant s h stateEcc) := by
  unfold State.streamGrant
  try dsimp only
  repeat' first
    | with_reducible assumption | with_reducible apply State.modStream_keeps | with_reducible apply State.failItem_keeps
    | with_reducible apply State.modHall_keeps | with_reducible apply State.bump_keeps | with_reducible apply State.requestTransfer_keeps
    | with_reducible apply Keeps.foldl | with_reducible apply Keeps.foldlFst | with_reducible apply Keeps.ite | intro _ | split

theorem State.fillEntry_keeps {s₀ s : State} (h : ℕ) (d : ℕ) (a : Arming) (e : ℕ) (hk : Keeps s₀ s) : Keeps s₀ (State.fillEntry s h d a e) := by
  unfold State.fillEntry
  try dsimp only
  repeat' first
    | with_reducible assumption | with_reducible apply State.markFull_keeps | with_reducible apply State.modStream_keeps
    | with_reducible apply Keeps.foldl | with_reducible apply Keeps.foldlFst | with_reducible apply Keeps.ite | intro _ | split

theorem State.streamComplete_keeps {s₀ s : State} (h : ℕ) (d : ℕ) (answer : HostAnswer)
    (hk : Keeps s₀ s) : Keeps s₀ (State.streamComplete s h d answer) := by
  unfold State.streamComplete
  try dsimp only
  repeat' first
    | with_reducible assumption | with_reducible apply State.failItem_keeps | with_reducible apply State.movePart_keeps
    | with_reducible apply State.modItem_keeps | with_reducible apply State.modStream_keeps | with_reducible apply State.fillEntry_keeps
    | with_reducible apply State.dropArmings_keeps | with_reducible apply State.finish_keeps | with_reducible apply Keeps.foldl
    | with_reducible apply Keeps.foldlFst | with_reducible apply Keeps.ite | intro _ | split

theorem State.streamStarved_keeps {s₀ s : State} (h : ℕ) (d : ℕ) (hk : Keeps s₀ s) : Keeps s₀ (State.streamStarved s h d) := by
  unfold State.streamStarved
  try dsimp only
  repeat' first
    | with_reducible assumption | with_reducible apply State.failItem_keeps | with_reducible apply Keeps.ite | intro _ | split

end Sys2Proof.Machine
end

