-- ==== Sys2Proof/Laws/KeepsFabric.lean ====
section
/-!
SUPPORT. What each operation keeps (Laws/Keeps.lean): the selvedges, the fabric and the host. One lemma an operation, each citing those of the
operations it calls.
-/
namespace Sys2Proof.Machine

theorem State.progLoad_keeps {s₀ s : State} (index : ℕ) (hk : Keeps s₀ s) : Keeps s₀ (State.progLoad s index) := by
  unfold State.progLoad
  try dsimp only
  repeat' first
    | with_reducible assumption | with_reducible apply State.fault_keeps | with_reducible apply Keeps.ite | simp only [Keeps.update_iff]
    | intro _ | split

theorem State.progCtlWrite_keeps {s₀ s : State} (v : W32) (hk : Keeps s₀ s) : Keeps s₀ (State.progCtlWrite s v) := by
  unfold State.progCtlWrite
  try dsimp only
  repeat' first
    | with_reducible assumption | with_reducible apply State.fault_keeps | with_reducible apply State.progLoad_keeps
    | with_reducible apply Keeps.ite | simp only [Keeps.update_iff] | intro _ | split

theorem State.progLoaded_keeps {s₀ s : State}  (hk : Keeps s₀ s) : Keeps s₀ (State.progLoaded s) := by
  unfold State.progLoaded
  try dsimp only
  repeat' first
    | with_reducible assumption | with_reducible apply Keeps.ite | simp only [Keeps.update_iff] | intro _ | split

theorem State.slvStep_keeps {s₀ s : State} (p : ℕ) (op : SlvOp) (d : ℕ) (a : ℕ) (b : ℕ) (c : ℕ) (imm : W32)
    (hk : Keeps s₀ s) : Keeps s₀ (State.slvStep s p op d a b c imm) := by
  unfold State.slvStep
  try dsimp only
  repeat' first
    | with_reducible assumption | with_reducible apply State.modSelv_keeps | with_reducible apply Keeps.ite | intro _ | split

theorem State.putLinear_keeps {s₀ s : State} (ac : Access) (w : Block512) (e : ℕ) (code : ℕ)
    (hk : Keeps s₀ s) : Keeps s₀ (State.putLinear s ac w e code) := by
  unfold State.putLinear
  try dsimp only
  repeat' first
    | with_reducible assumption | with_reducible apply State.putCode_keeps | with_reducible apply Keeps.ite | intro _ | split

theorem State.popUpdate_keeps {s₀ s : State} (p : ℕ) (hk : Keeps s₀ s) : Keeps s₀ (State.popUpdate s p) := by
  unfold State.popUpdate
  try dsimp only
  repeat' first
    | with_reducible assumption | with_reducible apply State.modSelv_keeps | with_reducible apply Keeps.ite | intro _ | split

theorem State.refuseUpdate_keeps {s₀ s : State} (p : ℕ) (u : Update) (st : Status)
    (hk : Keeps s₀ s) : Keeps s₀ (State.refuseUpdate s p u st) := by
  unfold State.refuseUpdate
  try dsimp only
  repeat' first
    | with_reducible assumption | with_reducible apply State.popUpdate_keeps | with_reducible apply State.failItem_keeps
    | with_reducible apply Keeps.ite | intro _ | split

theorem State.selvRequest_keeps {s₀ s : State} (p : ℕ) (u : Update) (write : Bool) (w : Block512) (spans : List (ℕ × ℕ))
    (hk : Keeps s₀ s) : Keeps s₀ (State.selvRequest s p u write w spans) := by
  unfold State.selvRequest
  try dsimp only
  repeat' first
    | with_reducible assumption | with_reducible apply State.request_keeps | with_reducible apply Keeps.ite | intro _ | split

theorem State.requestBlock_keeps {s₀ s : State} (p : ℕ) (u : Update) (write : Bool) (b : ℕ)
    (hk : Keeps s₀ s) : Keeps s₀ (State.requestBlock s p u write b) := by
  unfold State.requestBlock
  try dsimp only
  repeat' first
    | with_reducible assumption | with_reducible apply State.selvRequest_keeps | with_reducible apply Keeps.foldl
    | with_reducible apply Keeps.foldlFst | with_reducible apply Keeps.ite | intro _ | split

theorem State.takeUpdate_keeps {s₀ s : State} (p : ℕ) (u : Update) (t : W64) (adopted : Bool)
    (hk : Keeps s₀ s) : Keeps s₀ (State.takeUpdate s p u t adopted) := by
  unfold State.takeUpdate
  try dsimp only
  repeat' first
    | with_reducible assumption | with_reducible apply State.adjust_keeps | with_reducible apply State.bump_keeps
    | with_reducible apply State.request_keeps | with_reducible apply State.selvRequest_keeps
    | with_reducible apply State.requestBlock_keeps | with_reducible apply State.modSelv_keeps | with_reducible apply Keeps.ite | intro _
    | split

theorem State.updateBegin_keeps {s₀ s : State} (p : ℕ) (hk : Keeps s₀ s) : Keeps s₀ (State.updateBegin s p) := by
  unfold State.updateBegin
  try dsimp only
  repeat' first
    | with_reducible assumption | with_reducible apply State.popUpdate_keeps | with_reducible apply State.refuseUpdate_keeps
    | with_reducible apply State.bump_keeps | with_reducible apply State.takeUpdate_keeps | with_reducible apply Keeps.ite | intro _
    | split

theorem State.putMoments_keeps {s₀ s : State} (ac : Access) (w : Block512) (mu : ℕ) (second : Bool) (xs : List W32)
    (hk : Keeps s₀ s) : Keeps s₀ (State.putMoments s ac w mu second xs).1 := by
  unfold State.putMoments
  try dsimp only
  repeat' first
    | with_reducible assumption | with_reducible apply State.putLinear_keeps | with_reducible apply State.store_keeps
    | with_reducible apply Keeps.foldl | with_reducible apply Keeps.foldlFst | with_reducible apply Keeps.ite | intro _ | split

theorem State.updateBlock_keeps {s₀ s : State} (p : ℕ) (u : Update) (run : UpdateRun)
    (hk : Keeps s₀ s) : Keeps s₀ (State.updateBlock s p u run) := by
  unfold State.updateBlock
  try dsimp only
  repeat' first
    | with_reducible assumption | with_reducible apply State.putLinear_keeps | with_reducible apply State.putMoments_keeps
    | with_reducible apply State.bump_keeps | with_reducible apply State.modItem_keeps | with_reducible apply State.requestBlock_keeps
    | with_reducible apply State.modSelv_keeps | with_reducible apply Keeps.foldl | with_reducible apply Keeps.foldlFst
    | with_reducible apply Keeps.ite | intro _ | split

theorem State.blockUpdate_keeps {s₀ s : State} (p : ℕ) (hk : Keeps s₀ s) : Keeps s₀ (State.blockUpdate s p) := by
  unfold State.blockUpdate
  try dsimp only
  repeat' first
    | with_reducible assumption | with_reducible apply State.failItem_keeps | with_reducible apply State.updateBlock_keeps
    | with_reducible apply Keeps.ite | intro _ | split

theorem State.counterWrite_keeps {s₀ s : State} (p : ℕ) (u : Update) (run : UpdateRun)
    (hk : Keeps s₀ s) : Keeps s₀ (State.counterWrite s p u run) := by
  unfold State.counterWrite
  try dsimp only
  repeat' first
    | with_reducible assumption | with_reducible apply State.request_keeps | with_reducible apply State.modItem_keeps
    | with_reducible apply State.ctxWrite_keeps | with_reducible apply State.bump_keeps | with_reducible apply Keeps.ite | intro _ | split

theorem State.closeUpdate_keeps {s₀ s : State} (p : ℕ) (u : Update) (run : UpdateRun)
    (hk : Keeps s₀ s) : Keeps s₀ (State.closeUpdate s p u run) := by
  unfold State.closeUpdate
  try dsimp only
  repeat' first
    | with_reducible assumption | with_reducible apply State.counterWrite_keeps | with_reducible apply State.ctxWrite_keeps
    | with_reducible apply State.bump_keeps | with_reducible apply State.modSelv_keeps | with_reducible apply State.popUpdate_keeps
    | with_reducible apply State.finish_keeps | with_reducible apply Keeps.ite | intro _ | split

theorem State.updateEnd_keeps {s₀ s : State} (p : ℕ) (hk : Keeps s₀ s) : Keeps s₀ (State.updateEnd s p) := by
  unfold State.updateEnd
  try dsimp only
  repeat' first
    | with_reducible assumption | with_reducible apply State.popUpdate_keeps | with_reducible apply State.refuseUpdate_keeps
    | with_reducible apply State.closeUpdate_keeps | with_reducible apply Keeps.ite | intro _ | split

theorem State.giveUpdate_keeps {s₀ s : State} (p : ℕ) (u : Update) (hk : Keeps s₀ s) : Keeps s₀ (State.giveUpdate s p u) := by
  unfold State.giveUpdate
  try dsimp only
  repeat' first
    | with_reducible assumption | with_reducible apply State.modItem_keeps | with_reducible apply State.modSelv_keeps
    | with_reducible apply Keeps.ite | intro _ | split

theorem State.updateBind_keeps {s₀ s : State} (t : Item) (hk : Keeps s₀ s) : Keeps s₀ (State.updateBind t s) := by
  unfold State.updateBind
  try dsimp only
  repeat' first
    | with_reducible assumption | with_reducible apply State.finish_keeps | with_reducible apply State.modSelv_keeps
    | with_reducible apply Keeps.foldl | with_reducible apply Keeps.foldlFst | with_reducible apply Keeps.ite | intro _ | split

theorem State.statsSnap_keeps {s₀ s : State} (t : Item) (hk : Keeps s₀ s) : Keeps s₀ (State.statsSnap t s) := by
  unfold State.statsSnap
  try dsimp only
  repeat' first
    | with_reducible assumption | with_reducible apply State.failItem_keeps | with_reducible apply State.finish_keeps
    | with_reducible apply State.treadleRequest_keeps | with_reducible apply State.produce_keeps | with_reducible apply State.store_keeps
    | with_reducible apply Keeps.ite | intro _ | split

theorem State.ptpMessage_keeps {s₀ s : State} (a1 : PtpMessage) (hk : Keeps s₀ s) : Keeps s₀ (State.ptpMessage s a1) := by
  unfold State.ptpMessage
  try dsimp only
  repeat' first
    | with_reducible assumption | with_reducible apply State.setForeign_keeps | with_reducible apply State.hear_keeps
    | with_reducible apply State.sendResponse_keeps | with_reducible apply State.emit_keeps | with_reducible apply Keeps.ite
    | simp only [Keeps.update_iff] | intro _ | split

theorem State.helloSend_keeps {s₀ s : State} (p : ℕ) (hk : Keeps s₀ s) : Keeps s₀ (State.helloSend s p) := by
  unfold State.helloSend
  try dsimp only
  repeat' first
    | with_reducible assumption | with_reducible apply State.sendResponse_keeps | with_reducible apply Keeps.ite | intro _ | split

theorem State.lookupElements_keeps {s₀ s : State} (w : Block512) (pos : ℕ) (n : ℕ)
    (hk : Keeps s₀ s) : Keeps s₀ (State.lookupElements s w pos n) := by
  unfold State.lookupElements
  try dsimp only
  repeat' first
    | with_reducible assumption | with_reducible apply State.lookupRead_keeps | with_reducible apply Keeps.foldl
    | with_reducible apply Keeps.foldlFst | with_reducible apply Keeps.ite | intro _ | split

theorem State.storeParts_keeps {s₀ s : State} (ac : Access) (a2 : List (ℕ × ℕ)) (a3 : List Byte)
    (hk : Keeps s₀ s) : Keeps s₀ (State.storeParts s ac a2 a3) := by
  induction a2 generalizing s a3 with
  | nil => exact hk
  | cons m ms ih =>
    unfold State.storeParts
    try dsimp only
    repeat' first
      | with_reducible assumption | with_reducible apply ih | with_reducible apply State.store_keeps | with_reducible apply Keeps.ite
      | intro _ | split

theorem State.putElementBytes_keeps {s₀ s : State} (fn : ℕ) (w : Block512) (pos : ℕ) (bs : List Byte)
    (hk : Keeps s₀ s) : Keeps s₀ (State.putElementBytes s fn w pos bs) := by
  unfold State.putElementBytes
  try dsimp only
  repeat' first
    | with_reducible assumption | with_reducible apply State.storeParts_keeps | with_reducible apply Keeps.ite | intro _ | split

theorem State.sendBody_keeps {s₀ s : State} (p : ℕ) (prio : ℕ) (i : ItemId) (bs : List Byte)
    (hk : Keeps s₀ s) : Keeps s₀ (State.sendBody s p prio i bs) := by
  unfold State.sendBody
  try dsimp only
  repeat' first
    | with_reducible assumption | with_reducible apply State.sendRequest_keeps | with_reducible apply Keeps.foldl
    | with_reducible apply Keeps.foldlFst | with_reducible apply Keeps.ite | intro _ | split

theorem State.modSending_keeps {s₀ s : State} (i : ItemId) (f : Sending → Sending) (hk : Keeps s₀ s) : Keeps s₀ (State.modSending s i f) := by
  unfold State.modSending
  try dsimp only
  repeat' first
    | with_reducible assumption | with_reducible apply Keeps.ite | simp only [Keeps.update_iff] | intro _ | split

theorem State.openSending_keeps {s₀ s : State} (i : ItemId) (bytes : ℕ) (rs : List (ℕ × W32))
    (hk : Keeps s₀ s) : Keeps s₀ (State.openSending s i bytes rs) := by
  unfold State.openSending
  try dsimp only
  repeat' first
    | with_reducible assumption | with_reducible apply State.modItem_keeps | with_reducible apply Keeps.ite | simp only [Keeps.update_iff]
    | intro _ | split

theorem State.startSend_keeps {s₀ s : State} (t : Item) (express : Bool) (p : ℕ) (rd : Read)
    (hk : Keeps s₀ s) : Keeps s₀ (State.startSend s t express p rd).1 := by
  unfold State.startSend
  try dsimp only
  repeat' first
    | with_reducible assumption | with_reducible apply State.failItem_keeps
    | with_reducible refine State.takeChannel_keeps _ _ _ ?_ _ (by assumption) | with_reducible apply State.lookupElements_keeps
    | with_reducible apply State.consume_keeps | with_reducible apply Keeps.ite | intro _ | split

theorem State.send_keeps {s₀ s : State} (t : Item) (hk : Keeps s₀ s) : Keeps s₀ (State.send t s) := by
  unfold State.send
  try dsimp only
  repeat' first
    | with_reducible assumption | with_reducible apply State.failItem_keeps | with_reducible apply State.startSend_keeps
    | with_reducible apply State.openSending_keeps | with_reducible apply State.sendBody_keeps
    | with_reducible apply State.sendRequest_keeps | with_reducible apply Keeps.ite | intro _ | split

theorem State.buddyPush_keeps {s₀ s : State} (t : Item) (hk : Keeps s₀ s) : Keeps s₀ (State.buddyPush t s) := by
  unfold State.buddyPush
  try dsimp only
  repeat' first
    | with_reducible assumption | with_reducible apply State.failItem_keeps | with_reducible apply State.startSend_keeps
    | with_reducible apply State.openSending_keeps | with_reducible apply State.modSending_keeps
    | with_reducible apply State.sendBody_keeps | with_reducible apply State.sendRequest_keeps | with_reducible apply Keeps.foldl
    | with_reducible apply Keeps.foldlFst | with_reducible apply Keeps.ite | simp only [Keeps.update_iff] | intro _ | split

theorem State.multicast_keeps {s₀ s : State} (t : Item) (hk : Keeps s₀ s) : Keeps s₀ (State.multicast t s) := by
  unfold State.multicast
  try dsimp only
  repeat' first
    | with_reducible assumption | with_reducible apply State.failItem_keeps | with_reducible apply State.startSend_keeps
    | with_reducible apply State.openSending_keeps | with_reducible apply State.modSending_keeps
    | with_reducible apply State.sendRequest_keeps | with_reducible apply State.sendBody_keeps | with_reducible apply Keeps.foldl
    | with_reducible apply Keeps.foldlFst | with_reducible apply Keeps.ite | intro _ | split

theorem State.catchUpTo_keeps {s₀ s : State} (t : Item) (x : Sending) (r : ℕ) (hk : Keeps s₀ s) : Keeps s₀ (State.catchUpTo s t x r) := by
  unfold State.catchUpTo
  try dsimp only
  repeat' first
    | with_reducible assumption | with_reducible apply State.sendBody_keeps | with_reducible apply State.modItem_keeps
    | with_reducible apply State.lookupElements_keeps | with_reducible apply State.modSending_keeps | with_reducible apply Keeps.ite
    | intro _ | split

theorem State.endSending_keeps {s₀ s : State} (t : Item) (x : Sending) (hk : Keeps s₀ s) : Keeps s₀ (State.endSending s t x) := by
  unfold State.endSending
  try dsimp only
  repeat' first
    | with_reducible assumption | with_reducible apply State.failItem_keeps | with_reducible apply State.adjust_keeps
    | with_reducible apply State.releaseLinks_keeps | with_reducible apply State.finish_keeps | with_reducible apply Keeps.ite | intro _
    | split

theorem State.beginCatchUp_keeps {s₀ s : State} (t : Item) (x : Sending) (hk : Keeps s₀ s) : Keeps s₀ (State.beginCatchUp s t x) := by
  unfold State.beginCatchUp
  try dsimp only
  repeat' first
    | with_reducible assumption | with_reducible apply State.failItem_keeps | with_reducible apply State.modSending_keeps
    | with_reducible apply State.catchUpTo_keeps | with_reducible apply State.endSending_keeps | with_reducible apply Keeps.foldl
    | with_reducible apply Keeps.foldlFst | with_reducible apply Keeps.ite | intro _ | split

theorem State.settleSending_keeps {s₀ s : State} (i : ItemId) (hk : Keeps s₀ s) : Keeps s₀ (State.settleSending s i) := by
  unfold State.settleSending
  try dsimp only
  repeat' first
    | with_reducible assumption | with_reducible apply State.endSending_keeps | with_reducible apply State.beginCatchUp_keeps
    | with_reducible apply Keeps.ite | intro _ | split

theorem State.ownAck_keeps {s₀ s : State} (i : ItemId) (r : ℕ) (hk : Keeps s₀ s) : Keeps s₀ (State.ownAck s i r) := by
  unfold State.ownAck
  try dsimp only
  repeat' first
    | with_reducible assumption | with_reducible apply State.settleSending_keeps | with_reducible apply State.modSending_keeps
    | with_reducible apply Keeps.ite | intro _ | split

theorem State.passReply_keeps {s₀ s : State} (p : ℕ) (origin : ℕ) (pk : Packet) (last : Bool)
    (hk : Keeps s₀ s) : Keeps s₀ (State.passReply s p origin pk last) := by
  unfold State.passReply
  generalize List.find? _ _ = o
  cases o with
  | some x => exact State.sendReply_keeps _ _ _ _ ((Keeps.update_iff ..).2 hk)
  | none =>
    dsimp only
    generalize List.find? _ _ = o
    cases o with
    | some x => exact State.sendReply_keeps _ _ _ _ hk
    | none => exact hk

theorem State.chunkAck_keeps {s₀ s : State} (i : ItemId) (r : ℕ) (p : ℕ) (passing : Option ℕ)
    (hk : Keeps s₀ s) : Keeps s₀ (State.chunkAck s i r p passing) := by
  unfold State.chunkAck
  try dsimp only
  repeat' first
    | with_reducible assumption | with_reducible apply State.passReply_keeps | with_reducible apply State.hear_keeps
    | with_reducible apply State.ownAck_keeps | with_reducible apply Keeps.ite | intro _ | split

theorem State.pruneOwn_keeps {s₀ s : State} (i : ItemId) (rs : List ℕ) (hk : Keeps s₀ s) : Keeps s₀ (State.pruneOwn s i rs) := by
  unfold State.pruneOwn
  try dsimp only
  repeat' first
    | with_reducible assumption | with_reducible apply State.settleSending_keeps | with_reducible apply State.modSending_keeps
    | with_reducible apply Keeps.foldl | with_reducible apply Keeps.foldlFst | with_reducible apply Keeps.ite | intro _ | split

theorem State.pruneBranch_keeps {s₀ s : State} (origin : ℕ) (out : ℕ) (hk : Keeps s₀ s) : Keeps s₀ (State.pruneBranch s origin out) := by
  unfold State.pruneBranch
  generalize List.find? _ _ = o
  cases o with
  | none => exact hk
  | some x => exact Keeps.ite (fun _ => hk) fun _ => State.sendReply_keeps _ _ _ _ (State.modFlight_keeps _ _ ((Keeps.update_iff ..).2 hk))

theorem State.prune_keeps {s₀ s : State} (i : ItemId) (rs : List ℕ) (a3 : PrunePlace) (hk : Keeps s₀ s) : Keeps s₀ (State.prune s i rs a3) := by
  unfold State.prune
  try dsimp only
  repeat' first
    | with_reducible assumption | with_reducible apply State.pruneOwn_keeps | with_reducible apply State.pruneBranch_keeps
    | with_reducible apply State.passReply_keeps | with_reducible apply State.hear_keeps | with_reducible apply Keeps.ite | intro _
    | split

theorem State.ownNack_keeps {s₀ s : State} (i : ItemId) (r : ℕ) (st : Status) (hk : Keeps s₀ s) : Keeps s₀ (State.ownNack s i r st) := by
  unfold State.ownNack
  try dsimp only
  repeat' first
    | with_reducible assumption | with_reducible apply State.failItem_keeps | with_reducible apply State.settleSending_keeps
    | with_reducible apply State.modSending_keeps | with_reducible apply Keeps.ite | intro _ | split

theorem State.negativeAck_keeps {s₀ s : State} (i : ItemId) (r : ℕ) (st : Status) (p : ℕ) (passing : Option ℕ)
    (hk : Keeps s₀ s) : Keeps s₀ (State.negativeAck s i r st p passing) := by
  unfold State.negativeAck
  try dsimp only
  repeat' first
    | with_reducible assumption | with_reducible apply State.passReply_keeps | with_reducible apply State.hear_keeps
    | with_reducible apply State.ownNack_keeps | with_reducible apply Keeps.ite | intro _ | split

theorem State.cutUpdate_keeps {s₀ s : State} (i : ItemId) (st : Status) (hk : Keeps s₀ s) : Keeps s₀ (State.cutUpdate s i st) := by
  unfold State.cutUpdate
  try dsimp only
  repeat' first
    | with_reducible assumption | with_reducible apply State.leaveFabric_keeps | with_reducible apply State.modSelv_keeps
    | with_reducible apply Keeps.foldl | with_reducible apply Keeps.foldlFst | with_reducible apply Keeps.ite | intro _ | split

theorem State.loseItem_keeps {s₀ s : State} (l : LinkId) (st : Status) (i : ItemId) (hk : Keeps s₀ s) : Keeps s₀ (State.loseItem s l st i) := by
  unfold State.loseItem
  try dsimp only
  repeat' first
    | with_reducible assumption | with_reducible apply State.settleSending_keeps | with_reducible apply State.modSending_keeps
    | with_reducible apply State.cutUpdate_keeps | with_reducible apply State.failItem_keeps | with_reducible apply Keeps.foldl
    | with_reducible apply Keeps.foldlFst | with_reducible apply Keeps.ite | intro _ | split

theorem State.failOnLink_keeps {s₀ s : State} (l : LinkId) (st : Status) (hk : Keeps s₀ s) : Keeps s₀ (State.failOnLink s l st) := by
  unfold State.failOnLink
  try dsimp only
  repeat' first
    | with_reducible assumption | with_reducible apply State.loseItem_keeps | with_reducible apply Keeps.foldl
    | with_reducible apply Keeps.foldlFst | with_reducible apply Keeps.ite | intro _ | split

theorem State.settleCloses_keeps {s₀ s : State}  (hk : Keeps s₀ s) : Keeps s₀ (State.settleCloses s) := by
  unfold State.settleCloses
  try dsimp only
  repeat' first
    | with_reducible assumption | with_reducible apply State.finish_keeps | with_reducible apply Keeps.foldl
    | with_reducible apply Keeps.foldlFst | with_reducible apply Keeps.ite | intro _ | split

theorem State.dropPort_keeps {s₀ s : State} (p : ℕ) (hk : Keeps s₀ s) : Keeps s₀ (State.dropPort s p) := by
  unfold State.dropPort
  try dsimp only
  repeat' first
    | with_reducible assumption | with_reducible apply State.modFlight_keeps | with_reducible apply State.setForeign_keeps
    | with_reducible apply Keeps.ite | simp only [Keeps.update_iff] | with_reducible apply Keeps.updateMem | exact Memory.wf_filter _ _
    | intro _ | split

theorem State.declareDown_keeps {s₀ s : State} (p : ℕ) (hk : Keeps s₀ s) : Keeps s₀ (State.declareDown s p) := by
  unfold State.declareDown
  try dsimp only
  repeat' first
    | with_reducible assumption | with_reducible apply State.bump_keeps | with_reducible apply State.event_keeps
    | with_reducible apply State.dropPort_keeps | with_reducible apply State.sendResponse_keeps
    | with_reducible apply State.failOnLink_keeps | with_reducible apply State.settleCloses_keeps
    | with_reducible apply State.failItem_keeps | with_reducible apply Keeps.foldl | with_reducible apply Keeps.foldlFst
    | with_reducible apply Keeps.ite | intro _ | split

theorem State.linkDown_keeps {s₀ s : State} (p : ℕ) (hk : Keeps s₀ s) : Keeps s₀ (State.linkDown s p) := by
  unfold State.linkDown
  try dsimp only
  repeat' first
    | with_reducible assumption | with_reducible apply State.declareDown_keeps | with_reducible apply State.modFlight_keeps
    | with_reducible apply Keeps.ite | intro _ | split

theorem State.linkTimeout_keeps {s₀ s : State} (p : ℕ) (hk : Keeps s₀ s) : Keeps s₀ (State.linkTimeout s p) := by
  unfold State.linkTimeout
  try dsimp only
  repeat' first
    | with_reducible assumption | with_reducible apply State.linkDown_keeps | with_reducible apply Keeps.ite | intro _ | split

theorem State.lossNotice_keeps {s₀ s : State} (p : ℕ) (a : Axis) (c : ℕ) (l : ℕ) (hk : Keeps s₀ s) : Keeps s₀ (State.lossNotice s p a c l) := by
  unfold State.lossNotice
  try dsimp only
  repeat' first
    | with_reducible assumption | with_reducible apply State.hear_keeps | with_reducible apply State.sendReply_keeps
    | with_reducible apply State.failOnLink_keeps | with_reducible apply State.failItem_keeps | with_reducible apply Keeps.foldl
    | with_reducible apply Keeps.foldlFst | with_reducible apply Keeps.ite | intro _ | split

theorem State.helloReceive_keeps {s₀ s : State} (p : ℕ) (h : Hello) (hk : Keeps s₀ s) : Keeps s₀ (State.helloReceive s p h) := by
  unfold State.helloReceive
  try dsimp only
  repeat' first
    | with_reducible assumption | with_reducible apply State.modFlight_keeps | with_reducible apply State.hear_keeps
    | with_reducible apply State.linkDown_keeps | with_reducible apply State.bump_keeps | with_reducible apply State.event_keeps
    | with_reducible apply Keeps.ite | intro _ | split

theorem State.linkTrained_keeps {s₀ s : State} (p : ℕ) (hk : Keeps s₀ s) : Keeps s₀ (State.linkTrained s p) := by
  unfold State.linkTrained
  try dsimp only
  repeat' first
    | with_reducible assumption | with_reducible apply State.modFlight_keeps | with_reducible apply Keeps.ite | intro _ | split

theorem State.admitRelease_keeps {s₀ s : State} (p : ℕ) (hk : Keeps s₀ s) : Keeps s₀ (State.admitRelease s p) := by
  unfold State.admitRelease
  try dsimp only
  repeat' first
    | with_reducible assumption | with_reducible apply State.modFlight_keeps | with_reducible apply Keeps.ite | intro _ | split

theorem State.portOff_keeps {s₀ s : State} (p : ℕ) (hk : Keeps s₀ s) : Keeps s₀ (State.portOff s p) := by
  unfold State.portOff
  try dsimp only
  repeat' first
    | with_reducible assumption | with_reducible apply State.declareDown_keeps | with_reducible apply State.modFlight_keeps
    | with_reducible apply Keeps.ite | intro _ | split

theorem State.flightEnable_keeps {s₀ s : State} (p : ℕ) (v : W32) (hk : Keeps s₀ s) : Keeps s₀ (State.flightEnable s p v) := by
  unfold State.flightEnable
  try dsimp only
  repeat' first
    | with_reducible assumption | with_reducible apply State.refuse_keeps | with_reducible apply State.modFlight_keeps
    | with_reducible apply State.portOff_keeps | with_reducible apply Keeps.ite | intro _ | split

theorem State.flightAdmit_keeps {s₀ s : State} (p : ℕ) (hk : Keeps s₀ s) : Keeps s₀ (State.flightAdmit s p) := by
  unfold State.flightAdmit
  try dsimp only
  repeat' first
    | with_reducible assumption | with_reducible apply State.modFlight_keeps | with_reducible apply Keeps.ite | intro _ | split

theorem State.flightReject_keeps {s₀ s : State} (p : ℕ) (hk : Keeps s₀ s) : Keeps s₀ (State.flightReject s p) := by
  unfold State.flightReject
  try dsimp only
  repeat' first
    | with_reducible assumption | with_reducible apply State.portOff_keeps | with_reducible apply State.modFlight_keeps
    | with_reducible apply Keeps.ite | intro _ | split

theorem State.frameReceive_keeps {s₀ s : State} (p : ℕ) (ty : BitVec 16) (prio : ℕ)
    (hk : Keeps s₀ s) : Keeps s₀ (State.frameReceive s p ty prio) := by
  unfold State.frameReceive
  try dsimp only
  repeat' first
    | with_reducible assumption | with_reducible apply State.hear_keeps | with_reducible apply State.bump_keeps
    | with_reducible apply Keeps.ite | intro _ | split

theorem State.pfcFrame_keeps {s₀ s : State} (p : ℕ) (prios : BitVec 8) (hk : Keeps s₀ s) : Keeps s₀ (State.pfcFrame s p prios) := by
  unfold State.pfcFrame
  try dsimp only
  repeat' first
    | with_reducible assumption | with_reducible apply State.flushHeld_keeps | with_reducible apply State.modFlight_keeps
    | with_reducible apply Keeps.ite | intro _ | split

theorem State.notePassage_keeps {s₀ s : State} (x : Passage) (hk : Keeps s₀ s) : Keeps s₀ (State.notePassage s x) := by
  unfold State.notePassage
  try dsimp only
  repeat' first
    | with_reducible assumption | with_reducible apply Keeps.ite | simp only [Keeps.update_iff] | with_reducible apply Keeps.updateMem
    | exact Memory.wf_filter _ _ | intro _ | split

theorem State.passOn_keeps {s₀ s : State} (portIn : ℕ) (vc : ℕ) (origin : ℕ) (dests : List W64) (data : List Byte) (length : ℕ) (stall : ℕ) (q : ℕ)
    (hk : Keeps s₀ s) : Keeps s₀ (State.passOn portIn vc origin dests data length stall s q) := by
  unfold State.passOn
  try dsimp only
  repeat' first
    | with_reducible assumption | with_reducible apply State.sendRequest_keeps | with_reducible apply State.notePassage_keeps
    | with_reducible apply State.sendReply_keeps | with_reducible apply Keeps.ite | intro _ | split

theorem State.expressForward_keeps {s₀ s : State} (portIn : ℕ) (vc : ℕ) (origin : ℕ) (dests : List W64) (data : List Byte) (length : ℕ) (stall : ℕ)
    (hk : Keeps s₀ s) : Keeps s₀ (State.expressForward s portIn vc origin dests data length stall) := by
  unfold State.expressForward
  try dsimp only
  repeat' first
    | with_reducible assumption | with_reducible apply State.passOn_keeps | with_reducible apply State.takeIn_keeps
    | with_reducible apply Keeps.foldl | with_reducible apply Keeps.foldlFst | with_reducible apply Keeps.ite | intro _ | split

theorem State.passWrite_keeps {s₀ s : State} (p : ℕ) (h : RemoteHead) (hk : Keeps s₀ s) : Keeps s₀ (State.passWrite s p h) := by
  unfold State.passWrite
  try dsimp only
  repeat' first
    | with_reducible assumption | with_reducible apply State.takeIn_keeps | with_reducible apply State.sendRequest_keeps
    | with_reducible apply State.bufferIn_keeps | with_reducible apply Keeps.ite | simp only [Keeps.update_iff] | intro _ | split

theorem State.passBody_keeps {s₀ s : State} (x : Transit) (data : List Byte) (hk : Keeps s₀ s) : Keeps s₀ (State.passBody s x data) := by
  unfold State.passBody
  try dsimp only
  repeat' first
    | with_reducible assumption | with_reducible apply State.takeIn_keeps | with_reducible apply State.sendRequest_keeps
    | with_reducible apply Keeps.ite | simp only [Keeps.update_iff] | intro _ | split

theorem State.acceptWrite_keeps {s₀ s : State} (p : ℕ) (h : RemoteHead) (hk : Keeps s₀ s) : Keeps s₀ (State.acceptWrite s p h) := by
  unfold State.acceptWrite
  try dsimp only
  repeat' first
    | with_reducible assumption | with_reducible apply State.passWrite_keeps | with_reducible apply State.takeIn_keeps
    | with_reducible apply State.sendReply_keeps | with_reducible apply Keeps.ite | simp only [Keeps.update_iff] | intro _ | split

theorem State.settleReceivers_keeps {s₀ s : State} (key : ℕ) (hk : Keeps s₀ s) : Keeps s₀ (State.settleReceivers s key) := by
  unfold State.settleReceivers
  try dsimp only
  repeat' first
    | with_reducible assumption | with_reducible apply State.finish_keeps | with_reducible apply Keeps.foldl
    | with_reducible apply Keeps.foldlFst | with_reducible apply Keeps.ite | intro _ | split

theorem State.dropWrite_keeps {s₀ s : State} (r : Receiving) (st : Status) (hk : Keeps s₀ s) : Keeps s₀ (State.dropWrite s r st) := by
  unfold State.dropWrite
  try dsimp only
  repeat' first
    | with_reducible assumption | with_reducible apply State.settleCloses_keeps | with_reducible apply State.sendReply_keeps
    | with_reducible apply Keeps.ite | simp only [Keeps.update_iff] | with_reducible apply Keeps.updateMem | exact Memory.wf_filter _ _
    | intro _ | split

theorem State.placeWrite_keeps {s₀ s : State} (r : Receiving) (bs : List Byte) (chunk : List Byte)
    (hk : Keeps s₀ s) : Keeps s₀ (State.placeWrite s r bs chunk) := by
  unfold State.placeWrite
  try dsimp only
  repeat' first
    | with_reducible assumption | with_reducible apply State.store_keeps | with_reducible apply State.markFull_keeps
    | with_reducible apply State.setArrival_keeps | with_reducible apply State.sendReply_keeps
    | with_reducible apply State.settleCloses_keeps | with_reducible apply State.settleReceivers_keeps | with_reducible apply Keeps.foldl
    | with_reducible apply Keeps.foldlFst | with_reducible apply Keeps.ite | simp only [Keeps.update_iff]
    | with_reducible apply Keeps.updateMem | exact Memory.wf_filter _ _ | intro _ | split

theorem State.placeSealed_keeps {s₀ s : State} (r : Receiving) (chunk : List Byte)
    (hk : Keeps s₀ s) : Keeps s₀ (State.placeSealed s r chunk) := by
  unfold State.placeSealed
  try dsimp only
  repeat' first
    | with_reducible assumption | with_reducible apply State.dropWrite_keeps | with_reducible apply State.placeWrite_keeps
    | with_reducible apply Keeps.ite | intro _ | split

theorem State.remoteDatagram_keeps {s₀ s : State} (p : ℕ) (origin : ℕ) (data : List Byte) (express : Bool)
    (hk : Keeps s₀ s) : Keeps s₀ (State.remoteDatagram s p origin data express) := by
  unfold State.remoteDatagram
  try dsimp only
  repeat' first
    | with_reducible assumption | with_reducible apply State.passBody_keeps | with_reducible apply State.takeIn_keeps
    | with_reducible apply State.dropWrite_keeps | with_reducible apply State.bufferIn_keeps
    | with_reducible apply State.placeSealed_keeps | with_reducible apply State.placeWrite_keeps | with_reducible apply Keeps.ite
    | simp only [Keeps.update_iff] | intro _ | split

theorem State.recv_keeps {s₀ s : State} (t : Item) (hk : Keeps s₀ s) : Keeps s₀ (State.recv t s) := by
  unfold State.recv
  try dsimp only
  repeat' first
    | with_reducible assumption | with_reducible apply State.failItem_keeps | with_reducible apply State.finish_keeps
    | with_reducible apply State.modItem_keeps | with_reducible apply Keeps.ite | intro _ | split

theorem State.windowOpen_keeps {s₀ s : State} (t : Item) (hk : Keeps s₀ s) : Keeps s₀ (State.windowOpen t s) := by
  unfold State.windowOpen
  try dsimp only
  repeat' first
    | with_reducible assumption | with_reducible apply State.failItem_keeps | with_reducible apply State.finish_keeps
    | with_reducible apply State.setArrival_keeps | with_reducible apply State.setWindow_keeps | with_reducible apply Keeps.ite | intro _
    | split

theorem State.windowClose_keeps {s₀ s : State} (t : Item) (hk : Keeps s₀ s) : Keeps s₀ (State.windowClose t s) := by
  unfold State.windowClose
  try dsimp only
  repeat' first
    | with_reducible assumption | with_reducible apply State.failItem_keeps | with_reducible apply State.finish_keeps
    | with_reducible apply State.closeWindow_keeps | with_reducible apply State.settleCloses_keeps
    | with_reducible apply State.modItem_keeps | with_reducible apply Keeps.ite | simp only [Keeps.update_iff] | intro _ | split

theorem State.takeChannels_keeps {s₀ s : State} (c : Collective) (hk : Keeps s₀ s) : ∀ s', State.takeChannels s c = some s' → Keeps s₀ s' := by
  intro s' he
  unfold State.takeChannels at he
  cases ho : s.takeChannel c.express (s.collSendPort c) c.item with
  | none => rw [ho] at he; simp at he
  | some s1 =>
    have h1 : Keeps s₀ s1 := State.takeChannel_keeps _ _ _ hk _ ho
    cases hp : s.collPassPort c with
    | none => rw [ho, hp] at he; simp only [Option.some.injEq] at he; exact he ▸ h1
    | some p =>
      rw [ho, hp] at he
      dsimp only at he
      split at he
      · simp only [Option.some.injEq] at he; exact he ▸ h1
      · exact State.takeChannel_keeps _ _ _ h1 _ he

theorem State.modCollective_keeps {s₀ s : State} (c : Collective) (f : Collective → Collective)
    (hk : Keeps s₀ s) : Keeps s₀ (State.modCollective s c f) := by
  unfold State.modCollective
  try dsimp only
  repeat' first
    | with_reducible assumption | with_reducible apply Keeps.ite | simp only [Keeps.update_iff] | intro _ | split

theorem State.sendBlock_keeps {s₀ s : State} (c : Collective) (shard : ℕ) (phase : ℕ) (bs : List Byte)
    (hk : Keeps s₀ s) : Keeps s₀ (State.sendBlock s c shard phase bs) := by
  unfold State.sendBlock
  try dsimp only
  repeat' first
    | with_reducible assumption | with_reducible apply State.modItem_keeps | with_reducible apply State.sendRequest_keeps
    | with_reducible apply Keeps.foldl | with_reducible apply Keeps.foldlFst | with_reducible apply Keeps.ite | intro _ | split

theorem State.handShard_keeps {s₀ s : State} (t : Item) (c : Collective) (first : Bool) (bs : List Byte)
    (hk : Keeps s₀ s) : Keeps s₀ (State.handShard s t c first bs) := by
  unfold State.handShard
  try dsimp only
  repeat' first
    | with_reducible assumption | with_reducible apply State.giveUpdate_keeps | with_reducible apply State.modSelv_keeps
    | with_reducible apply Keeps.ite | intro _ | split

theorem State.settleCollective_keeps {s₀ s : State} (a : Axis) (tag : ℕ) (hk : Keeps s₀ s) : Keeps s₀ (State.settleCollective s a tag) := by
  unfold State.settleCollective
  try dsimp only
  repeat' first
    | with_reducible assumption | with_reducible apply State.consume_keeps | with_reducible apply State.produce_keeps
    | with_reducible apply State.releaseLinks_keeps | with_reducible apply State.finish_keeps | with_reducible apply Keeps.ite | intro _
    | split

theorem State.failOpening_keeps {s₀ s : State} (c : Collective) (h : ℕ) (st : Status)
    (hk : Keeps s₀ s) : Keeps s₀ (State.failOpening s c h st) := by
  unfold State.failOpening
  try dsimp only
  repeat' first
    | with_reducible assumption | with_reducible apply State.failItem_keeps | with_reducible apply State.modItem_keeps
    | with_reducible apply Keeps.ite | simp only [Keeps.update_iff] | with_reducible apply Keeps.updateMem | exact Memory.wf_filter _ _
    | intro _ | split

theorem State.startCollective_keeps {s₀ s : State} (c : Collective) (hk : Keeps s₀ s) : Keeps s₀ (State.startCollective s c) := by
  unfold State.startCollective
  try dsimp only
  repeat' first
    | with_reducible assumption | with_reducible apply State.failItem_keeps | with_reducible apply State.modCollective_keeps
    | with_reducible apply State.putElementBytes_keeps | with_reducible apply State.lookupElements_keeps
    | with_reducible apply State.sendBlock_keeps | with_reducible apply State.modItem_keeps
    | with_reducible apply State.settleCollective_keeps | with_reducible apply Keeps.ite | intro _ | split

theorem State.hearOpening_keeps {s₀ s : State} (h : OpenHead) (hk : Keeps s₀ s) : Keeps s₀ (State.hearOpening s h) := by
  unfold State.hearOpening
  try dsimp only
  repeat' first
    | with_reducible assumption | with_reducible apply State.failOpening_keeps | with_reducible apply State.modCollective_keeps
    | with_reducible apply State.startCollective_keeps | with_reducible apply Keeps.ite | simp only [Keeps.update_iff] | intro _ | split

theorem State.passCollective_keeps {s₀ s : State} (q : ℕ) (g : ℕ) (prio : ℕ) (pk : Packet)
    (hk : Keeps s₀ s) : Keeps s₀ (State.passCollective s q g prio pk) := by
  unfold State.passCollective
  try dsimp only
  repeat' first
    | with_reducible assumption | with_reducible apply State.sendRequest_keeps | with_reducible apply Keeps.ite | intro _ | split

theorem State.collectiveOpen_keeps {s₀ s : State} (q : ℕ) (h : OpenHead) (hk : Keeps s₀ s) : Keeps s₀ (State.collectiveOpen s q h) := by
  unfold State.collectiveOpen
  try dsimp only
  repeat' first
    | with_reducible assumption | with_reducible apply State.takeIn_keeps | with_reducible apply State.passCollective_keeps
    | with_reducible apply State.sendRequest_keeps | with_reducible apply State.hearOpening_keeps | with_reducible apply Keeps.ite
    | intro _ | split

theorem State.joinCollective_keeps {s₀ s : State} (t : Item) (hk : Keeps s₀ s) : Keeps s₀ (State.joinCollective t s) := by
  unfold State.joinCollective
  generalize s.collectiveOf t = c
  refine Keeps.ite (fun _ => State.failItem_keeps _ _ hk) fun _ => Keeps.ite (fun _ => State.failItem_keeps _ _ hk) fun _ => ?_
  generalize Option.orElse _ _ = o
  cases o with
  | some st => exact State.failItem_keeps _ _ hk
  | none =>
    refine Keeps.ite (fun _ => ?_) fun _ => hk
    generalize ho : s.takeChannels _ = o
    cases o with
    | none => exact hk
    | some s1 =>
      have h1 : Keeps s₀ s1 := State.takeChannels_keeps _ hk _ ho
      refine Keeps.foldl _ _ (State.sendRequest_keeps _ _ _ (State.modItem_keeps _ _ ?_)) fun x a hx => State.hearOpening_keeps _ hx
      simp only [Keeps.update_iff]; exact h1

theorem State.reduceData_keeps {s₀ s : State} (t : Item) (c : Collective) (j : ℕ) (data : List Byte)
    (hk : Keeps s₀ s) : Keeps s₀ (State.reduceData s t c j data) := by
  unfold State.reduceData
  try dsimp only
  repeat' first
    | with_reducible assumption | with_reducible apply State.failItem_keeps | with_reducible apply State.lookupElements_keeps
    | with_reducible apply State.modCollective_keeps | with_reducible apply State.sendBlock_keeps
    | with_reducible apply State.handShard_keeps | with_reducible apply State.putElementBytes_keeps
    | with_reducible apply State.modItem_keeps | with_reducible apply Keeps.ite | intro _ | split

theorem State.gatherData_keeps {s₀ s : State} (t : Item) (c : Collective) (j : ℕ) (data : List Byte)
    (hk : Keeps s₀ s) : Keeps s₀ (State.gatherData s t c j data) := by
  unfold State.gatherData
  try dsimp only
  repeat' first
    | with_reducible assumption | with_reducible apply State.failItem_keeps | with_reducible apply State.putElementBytes_keeps
    | with_reducible apply State.modItem_keeps | with_reducible apply State.modCollective_keeps
    | with_reducible apply State.sendBlock_keeps | with_reducible apply Keeps.ite | intro _ | split

theorem State.collectiveData_keeps {s₀ s : State} (q : ℕ) (a : Axis) (tag : ℕ) (g : ℕ) (j : ℕ) (phase : ℕ) (data : List Byte) (express : Bool)
    (hk : Keeps s₀ s) : Keeps s₀ (State.collectiveData s q a tag g j phase data express) := by
  unfold State.collectiveData
  try dsimp only
  repeat' first
    | with_reducible assumption | with_reducible apply State.passCollective_keeps | with_reducible apply State.takeIn_keeps
    | with_reducible apply State.bufferIn_keeps | with_reducible apply State.settleCollective_keeps
    | with_reducible apply State.reduceData_keeps | with_reducible apply State.gatherData_keeps | with_reducible apply Keeps.ite | intro _
    | split

theorem State.joinTimeout_keeps {s₀ s : State} (i : ItemId) (hk : Keeps s₀ s) : Keeps s₀ (State.joinTimeout s i) := by
  unfold State.joinTimeout
  try dsimp only
  repeat' first
    | with_reducible assumption | with_reducible apply State.failItem_keeps | with_reducible apply Keeps.ite | intro _ | split

theorem State.collectiveWithdrawal_keeps {s₀ s : State} (p : ℕ) (a : Axis) (tag : ℕ) (c : ℕ) (g : ℕ)
    (hk : Keeps s₀ s) : Keeps s₀ (State.collectiveWithdrawal s p a tag c g) := by
  unfold State.collectiveWithdrawal
  refine Keeps.ite (fun _ => hk) fun _ => ?_
  have h1 : Keeps s₀ (s.hear p) := State.hear_keeps _ hk
  revert h1
  generalize s.hear p = s1
  intro h1
  dsimp only
  generalize hs : (if s1.coord a ≠ c ∧ s1.portUp (axisPort a (!portPlus p) (p % 2)) ∧
      s1.groupBeyond (axisPort a (!portPlus p) (p % 2)) (Nat.max 1 g)
    then s1.sendReply (axisPort a (!portPlus p) (p % 2)) false (s1.arrivedVc p c) (.withdrawal a tag c (Nat.max 1 g)) else s1) = s2
  have h2 : Keeps s₀ s2 := by
    rw [← hs]
    exact Keeps.ite (fun _ => State.sendReply_keeps _ _ _ _ h1) fun _ => h1
  generalize ho : State.collective _ _ _ = o
  cases o with
  | some x => exact Keeps.ite (fun _ => by simp only [Keeps.update_iff]; exact h2) fun _ => State.failItem_keeps _ _ (by simp only [Keeps.update_iff]; exact h2)
  | none =>
    dsimp only
    generalize ho : State.waitingMember _ _ _ _ = o
    cases o with
    | some x => exact Keeps.ite (fun _ => by simp only [Keeps.update_iff]; exact h2) fun _ => State.failItem_keeps _ _ (by simp only [Keeps.update_iff]; exact h2)
    | none => simp only [Keeps.update_iff]; exact h2

theorem State.creditReceive_keeps {s₀ s : State} (p : ℕ) (n : ℕ) (express : Bool)
    (hk : Keeps s₀ s) : Keeps s₀ (State.creditReceive s p n express) := by
  unfold State.creditReceive
  try dsimp only
  repeat' first
    | with_reducible assumption | with_reducible apply State.flushHeld_keeps | with_reducible apply State.modFlight_keeps
    | with_reducible apply State.hear_keeps | with_reducible apply State.settleCollective_keeps | with_reducible apply Keeps.foldl
    | with_reducible apply Keeps.foldlFst | with_reducible apply Keeps.ite | intro _ | split

theorem State.channelAcquire_keeps {s₀ s : State} (i : ItemId) (hk : Keeps s₀ s) : Keeps s₀ (State.channelAcquire s i) := by
  unfold State.channelAcquire
  try dsimp only
  repeat' first
    | with_reducible assumption | with_reducible apply State.withItem_keeps | with_reducible apply State.send_keeps
    | with_reducible apply State.settleSending_keeps | with_reducible apply State.multicast_keeps
    | with_reducible apply State.buddyPush_keeps | with_reducible apply State.joinCollective_keeps | with_reducible apply Keeps.ite
    | intro _ | split

theorem State.fenceRing_keeps {s₀ s : State} (g : ℕ) (hk : Keeps s₀ s) : Keeps s₀ (State.fenceRing s g) := by
  unfold State.fenceRing
  try dsimp only
  repeat' first
    | with_reducible assumption | with_reducible apply State.settleWaits_keeps | with_reducible apply State.ringSettle_keeps
    | with_reducible apply State.fenceItems_keeps | with_reducible apply State.modRing_keeps
    | with_reducible apply State.setRingState_keeps | with_reducible apply Keeps.ite | intro _ | split

theorem State.resetRing_keeps {s₀ s : State} (g : ℕ) (hk : Keeps s₀ s) : Keeps s₀ (State.resetRing s g) := by
  unfold State.resetRing
  try dsimp only
  repeat' first
    | with_reducible assumption | with_reducible apply State.fenceRing_keeps | with_reducible apply State.refuse_keeps
    | with_reducible apply State.setRingState_keeps | with_reducible apply Keeps.ite | intro _ | split

theorem State.hostDepart_keeps {s₀ s : State} (f : ℕ) (cause : DepartCause) (hk : Keeps s₀ s) : Keeps s₀ (State.hostDepart s f cause) := by
  unfold State.hostDepart
  try dsimp only
  repeat' first
    | with_reducible assumption | with_reducible apply State.fenceRing_keeps | with_reducible apply State.failItem_keeps
    | with_reducible apply Keeps.foldl | with_reducible apply Keeps.foldlFst | with_reducible apply Keeps.ite
    | simp only [Keeps.update_iff] | with_reducible apply Keeps.updateMem | exact Memory.wf_filter _ _ | intro _ | split

theorem State.configRequest_keeps {s₀ s : State} (f : ℕ) (hk : Keeps s₀ s) : Keeps s₀ (State.configRequest s f) := by
  unfold State.configRequest
  try dsimp only
  repeat' first
    | with_reducible assumption | with_reducible apply State.emit_keeps | with_reducible apply State.draw_keeps
    | with_reducible apply Keeps.ite | simp only [Keeps.update_iff] | intro _ | split

theorem State.perstRelease_keeps {s₀ s : State} (f : ℕ) (split : Bool) (toggles : Bool)
    (hk : Keeps s₀ s) : Keeps s₀ (State.perstRelease s f split toggles) := by
  unfold State.perstRelease
  try dsimp only
  repeat' first
    | with_reducible assumption | with_reducible apply Keeps.ite | simp only [Keeps.update_iff] | intro _ | split

theorem State.linkTrainedHost_keeps {s₀ s : State} (f : ℕ) (speed : ℕ) (width : ℕ) (cxl : Bool)
    (hk : Keeps s₀ s) : Keeps s₀ (State.linkTrainedHost s f speed width cxl) := by
  unfold State.linkTrainedHost
  try dsimp only
  repeat' first
    | with_reducible assumption | with_reducible apply Keeps.ite | simp only [Keeps.update_iff] | intro _ | split

theorem State.bar4Access_keeps {s₀ s : State} (f : ℕ) (write : Bool) (off : ℕ) (n : ℕ) (data : List Byte)
    (hk : Keeps s₀ s) : Keeps s₀ (State.bar4Access s f write off n data) := by
  unfold State.bar4Access
  try dsimp only
  repeat' first
    | with_reducible assumption | with_reducible apply State.emit_keeps | with_reducible apply State.store_keeps
    | with_reducible apply State.lookupRead_keeps | with_reducible apply Keeps.ite | intro _ | split

theorem State.fillDevice_keeps {s₀ s : State} (a : ℕ) (hk : Keeps s₀ s) : Keeps s₀ (State.fillDevice s a) := by
  unfold State.fillDevice
  try dsimp only
  repeat' first
    | with_reducible assumption | with_reducible apply State.draw_keeps | with_reducible apply Keeps.ite | simp only [Keeps.update_iff]
    | with_reducible apply Keeps.updateMem | exact Memory.wf_filter _ _ | intro _ | split

theorem State.deliver_keeps {s₀ s : State} (f : ℕ) (a : ℕ) (data : List Byte) (hk : Keeps s₀ s) : Keeps s₀ (State.deliver s f a data) := by
  unfold State.deliver
  try dsimp only
  repeat' first
    | with_reducible assumption | with_reducible apply State.fillDevice_keeps | with_reducible apply State.put_keeps
    | with_reducible apply Keeps.ite | intro _ | split

theorem State.hostCompletion_keeps {s₀ s : State} (q : HostRequest) (answer : HostAnswer) (a : W64) (data : List Byte)
    (hk : Keeps s₀ s) : Keeps s₀ (State.hostCompletion s q answer a data) := by
  unfold State.hostCompletion
  try dsimp only
  repeat' first
    | with_reducible assumption | with_reducible apply State.failItem_keeps | with_reducible apply State.deliver_keeps
    | with_reducible apply State.setRingState_keeps | with_reducible apply Keeps.ite | intro _ | split

theorem State.hostTimeout_keeps {s₀ s : State} (a1 : TimeoutOf) (hk : Keeps s₀ s) : Keeps s₀ (State.hostTimeout s a1) := by
  unfold State.hostTimeout
  try dsimp only
  repeat' first
    | with_reducible assumption | with_reducible apply State.failItem_keeps | with_reducible apply State.setRingState_keeps
    | with_reducible apply State.modRing_keeps | with_reducible apply Keeps.ite | intro _ | split

theorem State.cxlSnoop_keeps {s₀ s : State} (line : ℕ) (kind : Snoop) (hk : Keeps s₀ s) : Keeps s₀ (State.cxlSnoop s line kind) := by
  unfold State.cxlSnoop
  refine Keeps.ite (fun _ => State.emit_keeps _ ?_) fun _ => hk
  cases kind <;> first | exact hk | (simp only [Keeps.update_iff]; exact hk)

end Sys2Proof.Machine
end

