-- ==== Sys2Proof/Laws/KeepsModule.lean ====
section
/-!
SUPPORT. What each operation keeps (Laws/Keeps.lean): power, security, start-up, the registers and the diagnostic words. One lemma an operation, each citing those of the
operations it calls.
-/
namespace Sys2Proof.Machine

theorem State.targetWrite_keeps {s₀ s : State} (h : ℕ) (v : W32) (hk : Keeps s₀ s) : Keeps s₀ (State.targetWrite s h v) := by
  unfold State.targetWrite
  try dsimp only
  repeat' first
    | with_reducible assumption | with_reducible apply State.retune_keeps | with_reducible apply State.modKeeper_keeps
    | with_reducible apply State.refuse_keeps | with_reducible apply Keeps.ite | intro _ | split

theorem State.idleLower_keeps {s₀ s : State} (h : ℕ) (hk : Keeps s₀ s) : Keeps s₀ (State.idleLower s h) := by
  unfold State.idleLower
  try dsimp only
  repeat' first
    | with_reducible assumption | with_reducible apply State.retune_keeps | with_reducible apply State.modKeeper_keeps
    | with_reducible apply Keeps.ite | intro _ | split

theorem State.idleExit_keeps {s₀ s : State} (h : ℕ) (hk : Keeps s₀ s) : Keeps s₀ (State.idleExit s h) := by
  unfold State.idleExit
  try dsimp only
  repeat' first
    | with_reducible assumption | with_reducible apply State.leaveIdle_keeps | with_reducible apply Keeps.ite | intro _ | split

theorem State.keeperCtlWrite_keeps {s₀ s : State} (h : ℕ) (v : W32) (hk : Keeps s₀ s) : Keeps s₀ (State.keeperCtlWrite s h v) := by
  unfold State.keeperCtlWrite
  try dsimp only
  repeat' first
    | with_reducible assumption | with_reducible apply State.modKeeper_keeps | with_reducible apply State.leaveIdle_keeps
    | with_reducible apply Keeps.ite | intro _ | split

theorem State.measurePower_keeps {s₀ s : State} (watts : ℕ) (hk : Keeps s₀ s) : Keeps s₀ (State.measurePower s watts) := by
  unfold State.measurePower
  try dsimp only
  repeat' first
    | with_reducible assumption | with_reducible apply Keeps.ite | simp only [Keeps.update_iff] | intro _ | split

theorem State.protectOn_keeps {s₀ s : State} (watts : ℕ) (hk : Keeps s₀ s) : Keeps s₀ (State.protectOn s watts) := by
  unfold State.protectOn
  try dsimp only
  repeat' first
    | with_reducible assumption | with_reducible apply State.measurePower_keeps | with_reducible apply State.retuneAll_keeps
    | with_reducible apply State.event_keeps | with_reducible apply Keeps.ite | simp only [Keeps.update_iff] | intro _ | split

theorem State.applyTargets_keeps {s₀ s : State}  (hk : Keeps s₀ s) : Keeps s₀ (State.applyTargets s) := by
  unfold State.applyTargets
  try dsimp only
  repeat' first
    | with_reducible assumption | with_reducible apply State.modKeeper_keeps | with_reducible apply Keeps.foldl
    | with_reducible apply Keeps.foldlFst | with_reducible apply Keeps.ite | intro _ | split

theorem State.protectOff_keeps {s₀ s : State} (watts : ℕ) (hk : Keeps s₀ s) : Keeps s₀ (State.protectOff s watts) := by
  unfold State.protectOff
  try dsimp only
  repeat' first
    | with_reducible assumption | with_reducible apply State.measurePower_keeps | with_reducible apply State.retuneAll_keeps
    | with_reducible apply State.applyTargets_keeps | with_reducible apply State.event_keeps | with_reducible apply Keeps.ite
    | simp only [Keeps.update_iff] | intro _ | split

theorem State.monitorEnd_keeps {s₀ s : State} (h : ℕ) (rate : BitVec 16) (hk : Keeps s₀ s) : Keeps s₀ (State.monitorEnd s h rate) := by
  unfold State.monitorEnd
  try dsimp only
  repeat' first
    | with_reducible assumption | with_reducible apply State.modKeeper_keeps | with_reducible apply Keeps.ite | intro _ | split

theorem State.monitorWrite_keeps {s₀ s : State} (h : ℕ) (v : W32) (hk : Keeps s₀ s) : Keeps s₀ (State.monitorWrite s h v) := by
  unfold State.monitorWrite
  try dsimp only
  repeat' first
    | with_reducible assumption | with_reducible apply State.modKeeper_keeps | with_reducible apply Keeps.ite | intro _ | split

theorem State.moveSelv_keeps {s₀ s : State} (p : ℕ) (hk : Keeps s₀ s) : Keeps s₀ (State.moveSelv s p) := by
  unfold State.moveSelv
  try dsimp only
  repeat' first
    | with_reducible assumption | with_reducible apply State.modSelv_keeps | with_reducible apply Keeps.ite | intro _ | split

theorem State.takeAway_keeps {s₀ s : State} (h : ℕ) (hk : Keeps s₀ s) : Keeps s₀ (State.takeAway s h) := by
  unfold State.takeAway
  try dsimp only
  repeat' first
    | with_reducible assumption | with_reducible apply State.replaceCache_keeps | with_reducible apply State.zeroLooms_keeps
    | with_reducible apply State.modKeeper_keeps | with_reducible apply State.moveSelv_keeps
    | with_reducible apply State.settleWaits_keeps | with_reducible apply State.failItem_keeps | with_reducible apply Keeps.foldl
    | with_reducible apply Keeps.foldlFst | with_reducible apply Keeps.ite | simp only [Keeps.update_iff]
    | with_reducible apply Keeps.updateMem | exact Memory.wf_filter _ _ | intro _ | split

theorem State.errorRings_keeps {s₀ s : State} (h : ℕ) (hk : Keeps s₀ s) : Keeps s₀ (State.errorRings s h) := by
  unfold State.errorRings
  dsimp only
  generalize ((List.range 2048).map (2048 * h + ·)) = gs
  cases List.getLast? _ with
  | none => simp only [Keeps.update_iff]; exact hk
  | some g => exact State.event_keeps _ _ (State.modTreadle_keeps _ _ (by simp only [Keeps.update_iff]; exact hk))

theorem State.poisonKnots_keeps {s₀ s : State} (h : ℕ) (hk : Keeps s₀ s) : Keeps s₀ (State.poisonKnots s h) := by
  unfold State.poisonKnots
  try dsimp only
  repeat' first
    | with_reducible assumption | with_reducible apply State.modKnot_keeps | with_reducible apply Keeps.foldl
    | with_reducible apply Keeps.foldlFst | with_reducible apply Keeps.ite | intro _ | split

theorem State.loseHall_keeps {s₀ s : State} (h : ℕ) (hk : Keeps s₀ s) : Keeps s₀ (State.loseHall s h) := by
  unfold State.loseHall
  try dsimp only
  repeat' first
    | with_reducible assumption | with_reducible apply State.admitAhead_keeps | with_reducible apply State.poisonKnots_keeps
    | with_reducible apply State.takeAway_keeps | with_reducible apply State.errorRings_keeps
    | with_reducible apply State.flushItems_keeps | with_reducible apply Keeps.ite | intro _ | split

theorem State.dropItems_keeps {s₀ s : State} (f : ItemId → Bool) (hk : Keeps s₀ s) : Keeps s₀ (State.dropItems s f) := by
  unfold State.dropItems
  try dsimp only
  repeat' first
    | with_reducible assumption | with_reducible apply State.stopPieces_keeps | with_reducible apply State.releaseLinks_keeps
    | with_reducible apply State.failOne_keeps | with_reducible apply Keeps.foldl | with_reducible apply Keeps.foldlFst
    | with_reducible apply Keeps.ite | simp only [Keeps.update_iff] | with_reducible apply Keeps.updateMem | exact Memory.wf_filter _ _
    | intro _ | split

theorem State.loseFlight_keeps {s₀ s : State} (p : ℕ) (hk : Keeps s₀ s) : Keeps s₀ (State.loseFlight s p) := by
  unfold State.loseFlight
  try dsimp only
  repeat' first
    | with_reducible assumption | with_reducible apply State.failItem_keeps | with_reducible apply State.settleCloses_keeps
    | with_reducible apply State.failOnLink_keeps | with_reducible apply State.dropPort_keeps | with_reducible apply Keeps.foldl
    | with_reducible apply Keeps.foldlFst | with_reducible apply Keeps.ite | intro _ | split

theorem State.loseSelv_keeps {s₀ s : State} (p : ℕ) (hk : Keeps s₀ s) : Keeps s₀ (State.loseSelv s p) := by
  unfold State.loseSelv
  try dsimp only
  repeat' first
    | with_reducible assumption | with_reducible apply State.modSelv_keeps | with_reducible apply State.failItem_keeps
    | with_reducible apply Keeps.foldl | with_reducible apply Keeps.foldlFst | with_reducible apply Keeps.ite | intro _ | split

theorem State.loseHomed_keeps {s₀ s : State} (h : ℕ) (hk : Keeps s₀ s) : Keeps s₀ (State.loseHomed s h) := by
  unfold State.loseHomed
  try dsimp only
  repeat' first
    | with_reducible assumption | with_reducible apply State.loseFlight_keeps | with_reducible apply State.loseSelv_keeps
    | with_reducible apply Keeps.foldl | with_reducible apply Keeps.foldlFst | with_reducible apply Keeps.ite | intro _ | split

theorem State.loseDead_keeps {s₀ s : State} (h : ℕ) (hk : Keeps s₀ s) : Keeps s₀ (State.loseDead s h) := by
  unfold State.loseDead
  try dsimp only
  repeat' first
    | with_reducible assumption | with_reducible apply State.errorRings_keeps | with_reducible apply State.dropItems_keeps
    | with_reducible apply State.takeAway_keeps | with_reducible apply State.poisonKnots_keeps | with_reducible apply Keeps.ite | intro _
    | split

theorem State.dieFails_keeps {s₀ s : State} (h : ℕ) (hk : Keeps s₀ s) : Keeps s₀ (State.dieFails s h) := by
  unfold State.dieFails
  try dsimp only
  repeat' first
    | with_reducible assumption | with_reducible apply State.event_keeps | with_reducible apply State.fault_keeps
    | with_reducible apply State.loseDead_keeps | with_reducible apply State.settleWaits_keeps
    | with_reducible apply State.loseHomed_keeps | with_reducible apply Keeps.ite | simp only [Keeps.update_iff] | intro _ | split

theorem State.junction_keeps {s₀ s : State} (h : ℕ) (celsius : ℕ) (hk : Keeps s₀ s) : Keeps s₀ (State.junction s h celsius) := by
  unfold State.junction
  try dsimp only
  repeat' first
    | with_reducible assumption | with_reducible apply State.modKeeper_keeps | with_reducible apply State.retune_keeps
    | with_reducible apply State.loseHall_keeps | with_reducible apply Keeps.ite | intro _ | split

theorem State.hallResume_keeps {s₀ s : State} (h : ℕ) (celsius : ℕ) (hk : Keeps s₀ s) : Keeps s₀ (State.hallResume s h celsius) := by
  unfold State.hallResume
  try dsimp only
  repeat' first
    | with_reducible assumption | with_reducible apply State.retune_keeps | with_reducible apply State.modKeeper_keeps
    | with_reducible apply Keeps.ite | intro _ | split

theorem State.undervoltage_keeps {s₀ s : State} (c : UndervoltageCause) (hk : Keeps s₀ s) : Keeps s₀ (State.undervoltage s c) := by
  unfold State.undervoltage
  try dsimp only
  repeat' first
    | with_reducible assumption | with_reducible apply State.moduleReset_keeps | with_reducible apply State.trip_keeps
    | with_reducible apply Keeps.ite | simp only [Keeps.update_iff] | intro _ | split

theorem State.startupRestart_keeps {s₀ s : State}  (hk : Keeps s₀ s) : Keeps s₀ (State.startupRestart s) := by
  unfold State.startupRestart
  try dsimp only
  repeat' first
    | with_reducible assumption | with_reducible apply Keeps.ite | simp only [Keeps.update_iff] | intro _ | split

theorem State.powerOff_keeps {s₀ s : State}  (hk : Keeps s₀ s) : Keeps s₀ (State.powerOff s) := by
  unfold State.powerOff
  try dsimp only
  repeat' first
    | with_reducible assumption | with_reducible apply State.moduleReset_keeps | with_reducible apply Keeps.ite
    | simp only [Keeps.update_iff] | intro _ | split

theorem State.powerOn_keeps {s₀ s : State}  (hk : Keeps s₀ s) : Keeps s₀ (State.powerOn s) := by
  unfold State.powerOn
  try dsimp only
  repeat' first
    | with_reducible assumption | with_reducible apply Keeps.ite | simp only [Keeps.update_iff] | intro _ | split

theorem State.switchOpens_keeps {s₀ s : State}  (hk : Keeps s₀ s) : Keeps s₀ (State.switchOpens s) := by
  unfold State.switchOpens
  try dsimp only
  repeat' first
    | with_reducible assumption | with_reducible apply State.trip_keeps | with_reducible apply Keeps.ite | simp only [Keeps.update_iff]
    | intro _ | split

theorem State.switchCloses_keeps {s₀ s : State}  (hk : Keeps s₀ s) : Keeps s₀ (State.switchCloses s) := by
  unfold State.switchCloses
  try dsimp only
  repeat' first
    | with_reducible assumption | with_reducible apply Keeps.ite | simp only [Keeps.update_iff] | intro _ | split

theorem State.inputReached_keeps {s₀ s : State}  (hk : Keeps s₀ s) : Keeps s₀ (State.inputReached s) := by
  unfold State.inputReached
  try dsimp only
  repeat' first
    | with_reducible assumption | with_reducible apply Keeps.ite | simp only [Keeps.update_iff] | intro _ | split

theorem State.prechargeDone_keeps {s₀ s : State}  (hk : Keeps s₀ s) : Keeps s₀ (State.prechargeDone s) := by
  unfold State.prechargeDone
  try dsimp only
  repeat' first
    | with_reducible assumption | with_reducible apply State.inputReached_keeps | with_reducible apply Keeps.ite | intro _ | split

theorem State.senseMates_keeps {s₀ s : State}  (hk : Keeps s₀ s) : Keeps s₀ (State.senseMates s) := by
  unfold State.senseMates
  try dsimp only
  repeat' first
    | with_reducible assumption | with_reducible apply Keeps.ite | simp only [Keeps.update_iff] | intro _ | split

theorem State.sign_keeps {s₀ s : State} (nonce : BitVec 256) (what : BitVec 384) (hk : Keeps s₀ s) : Keeps s₀ (State.sign s nonce what) := by
  unfold State.sign
  try dsimp only
  repeat' first
    | with_reducible assumption | with_reducible apply State.draw_keeps | with_reducible apply State.emit_keeps
    | with_reducible apply Keeps.ite | intro _ | split

theorem State.setSessions_keeps {s₀ s : State} (l : List Session) (hk : Keeps s₀ s) : Keeps s₀ (State.setSessions s l) := by
  unfold State.setSessions
  try dsimp only
  repeat' first
    | with_reducible assumption | with_reducible apply Keeps.ite | simp only [Keeps.update_iff] | intro _ | split

theorem State.openSession_keeps {s₀ s : State} (chains : Bool) (root : BitVec 384)
    (hk : Keeps s₀ s) : Keeps s₀ (State.openSession s chains root) := by
  unfold State.openSession
  try dsimp only
  repeat' first
    | with_reducible assumption | with_reducible apply State.emit_keeps | with_reducible apply State.setSessions_keeps
    | with_reducible apply Keeps.ite | intro _ | split

theorem State.spdm_keeps {s₀ s : State} (a1 : SpdmRequest) (hk : Keeps s₀ s) : Keeps s₀ (State.spdm s a1) := by
  unfold State.spdm
  try dsimp only
  repeat' first
    | with_reducible assumption | with_reducible apply State.emit_keeps | with_reducible apply State.sign_keeps
    | with_reducible apply State.openSession_keeps | with_reducible apply State.setSessions_keeps | with_reducible apply Keeps.ite
    | intro _ | split

theorem State.rollbackRaise_keeps {s₀ s : State} (v : BitVec 16) (hk : Keeps s₀ s) : Keeps s₀ (State.rollbackRaise s v) := by
  unfold State.rollbackRaise
  split
  · next hv =>
    apply State.emit_keeps
    exact ⟨hk.queue, (show _ = _ by have := hk.fuses; dsimp only; rw [this]), Nat.le_trans hk.counter (Nat.le_of_lt hv.2.1), hk.drawn, hk.said, hk.canon⟩
  · exact State.emit_keeps _ hk

theorem State.setAlert_keeps {s₀ s : State} (on : Bool) (hk : Keeps s₀ s) : Keeps s₀ (State.setAlert s on) := by
  unfold State.setAlert
  try dsimp only
  repeat' first
    | with_reducible assumption | with_reducible apply State.driveAlert_keeps | with_reducible apply Keeps.ite
    | simp only [Keeps.update_iff] | intro _ | split

theorem State.pldm_keeps {s₀ s : State} (a1 : PldmRequest) (hk : Keeps s₀ s) : Keeps s₀ (State.pldm s a1) := by
  unfold State.pldm
  try dsimp only
  repeat' first
    | with_reducible assumption | with_reducible apply State.emit_keeps | with_reducible apply State.cmpCtlWrite_keeps
    | with_reducible apply State.setAlert_keeps | with_reducible apply State.driveAlert_keeps | with_reducible apply Keeps.ite
    | simp only [Keeps.update_iff] | intro _ | split

theorem State.keyInstall_keeps {s₀ s : State} (slot : ℕ) (key : BitVec 256) (claimed : Bool) (session : ℕ)
    (hk : Keeps s₀ s) : Keeps s₀ (State.keyInstall s slot key claimed session) := by
  unfold State.keyInstall
  try dsimp only
  repeat' first
    | with_reducible assumption | with_reducible apply State.draw_keeps | with_reducible apply State.emit_keeps
    | with_reducible apply Keeps.ite | simp only [Keeps.update_iff] | intro _ | split

theorem State.keyErase_keeps {s₀ s : State} (slot : ℕ) (claimed : Bool) (session : ℕ)
    (hk : Keeps s₀ s) : Keeps s₀ (State.keyErase s slot claimed session) := by
  unfold State.keyErase
  try dsimp only
  repeat' first
    | with_reducible assumption | with_reducible apply State.emit_keeps | with_reducible apply Keeps.ite | simp only [Keeps.update_iff]
    | intro _ | split

theorem State.glitch_keeps {s₀ s : State}  (hk : Keeps s₀ s) : Keeps s₀ (State.glitch s) := by
  unfold State.glitch
  try dsimp only
  repeat' first
    | with_reducible assumption | with_reducible apply State.zeroise_keeps | with_reducible apply Keeps.ite | simp only [Keeps.update_iff]
    | intro _ | split

theorem State.zeroAllStores_keeps {s₀ s : State}  (hk : Keeps s₀ s) : Keeps s₀ (State.zeroAllStores s) := by
  unfold State.zeroAllStores
  try dsimp only
  repeat' first
    | with_reducible assumption | with_reducible apply State.zeroGallery_keeps | with_reducible apply State.zeroLoomBytes_keeps
    | with_reducible apply Keeps.foldl | with_reducible apply Keeps.foldlFst | with_reducible apply Keeps.ite | intro _ | split

theorem State.stopFlights_keeps {s₀ s : State}  (hk : Keeps s₀ s) : Keeps s₀ (State.stopFlights s) := by
  unfold State.stopFlights
  try dsimp only
  repeat' first
    | with_reducible assumption | with_reducible apply State.declareDown_keeps | with_reducible apply Keeps.foldl
    | with_reducible apply Keeps.foldlFst | with_reducible apply Keeps.ite | intro _ | split

theorem State.stopSelvs_keeps {s₀ s : State}  (hk : Keeps s₀ s) : Keeps s₀ (State.stopSelvs s) := by
  unfold State.stopSelvs
  try dsimp only
  repeat' first
    | with_reducible assumption | with_reducible apply State.modSelv_keeps | with_reducible apply Keeps.foldl
    | with_reducible apply Keeps.foldlFst | with_reducible apply Keeps.ite | intro _ | split

theorem State.stopWork_keeps {s₀ s : State}  (hk : Keeps s₀ s) : Keeps s₀ (State.stopWork s) := by
  unfold State.stopWork
  try dsimp only
  repeat' first
    | with_reducible assumption | with_reducible apply State.flushItems_keeps | with_reducible apply State.admitAhead_keeps
    | with_reducible apply State.errorRings_keeps | with_reducible apply State.stopSelvs_keeps
    | with_reducible apply State.stopFlights_keeps | with_reducible apply Keeps.foldl | with_reducible apply Keeps.foldlFst
    | with_reducible apply Keeps.ite | simp only [Keeps.update_iff] | with_reducible apply Keeps.updateMem | exact Memory.wf_filter _ _
    | intro _ | split

theorem State.tamper_keeps {s₀ s : State}  (hk : Keeps s₀ s) : Keeps s₀ (State.tamper s) := by
  unfold State.tamper
  try dsimp only
  repeat' first
    | with_reducible assumption | with_reducible apply State.trip_keeps | with_reducible apply State.zeroAllStores_keeps
    | with_reducible apply State.stopWork_keeps | with_reducible apply State.zeroise_keeps | with_reducible apply Keeps.ite
    | simp only [Keeps.update_iff] | intro _ | split

theorem State.jtagInstruct_keeps {s₀ s : State} (i : JtagInstruction) (hk : Keeps s₀ s) : Keeps s₀ (State.jtagInstruct s i) := by
  unfold State.jtagInstruct
  try dsimp only
  repeat' first
    | with_reducible assumption | with_reducible apply State.draw_keeps | with_reducible apply State.emit_keeps
    | with_reducible apply Keeps.ite | simp only [Keeps.update_iff] | intro _ | split

theorem State.jtagUnlock_keeps {s₀ s : State} (valid : Bool) (scope : W32) (hk : Keeps s₀ s) : Keeps s₀ (State.jtagUnlock s valid scope) := by
  unfold State.jtagUnlock
  try dsimp only
  repeat' first
    | with_reducible assumption | with_reducible apply State.zeroise_keeps | with_reducible apply State.emit_keeps
    | with_reducible apply Keeps.ite | simp only [Keeps.update_iff] | intro _ | split

theorem State.jtagScan_keeps {s₀ s : State} (h : ℕ) (hk : Keeps s₀ s) : Keeps s₀ (State.jtagScan s h) := by
  unfold State.jtagScan
  try dsimp only
  repeat' first
    | with_reducible assumption | with_reducible apply State.zeroScanned_keeps | with_reducible apply State.emit_keeps
    | with_reducible apply Keeps.ite | simp only [Keeps.update_iff] | intro _ | split

theorem State.serveSelvs_keeps {s₀ s : State}  (hk : Keeps s₀ s) : Keeps s₀ (State.serveSelvs s) := by
  unfold State.serveSelvs
  try dsimp only
  repeat' first
    | with_reducible assumption | with_reducible apply State.modSelv_keeps | with_reducible apply Keeps.foldl
    | with_reducible apply Keeps.foldlFst | with_reducible apply Keeps.ite | intro _ | split

theorem State.placeSelvs_keeps {s₀ s : State}  (hk : Keeps s₀ s) : Keeps s₀ (State.placeSelvs s) := by
  unfold State.placeSelvs
  try dsimp only
  repeat' first
    | with_reducible assumption | with_reducible apply State.modSelv_keeps | with_reducible apply Keeps.foldl
    | with_reducible apply Keeps.foldlFst | with_reducible apply Keeps.ite | intro _ | split

theorem State.loadRoutines_keeps {s₀ s : State}  (hk : Keeps s₀ s) : Keeps s₀ (State.loadRoutines s) := by
  unfold State.loadRoutines
  try dsimp only
  repeat' first
    | with_reducible assumption | with_reducible apply Keeps.ite | simp only [Keeps.update_iff] | with_reducible apply Keeps.updateMem
    | exact Memory.wf_filter _ _ | intro _ | split

theorem State.loadPrograms_keeps {s₀ s : State}  (hk : Keeps s₀ s) : Keeps s₀ (State.loadPrograms s) := by
  unfold State.loadPrograms
  try dsimp only
  repeat' first
    | with_reducible assumption | with_reducible apply Keeps.ite | simp only [Keeps.update_iff] | intro _ | split

theorem State.bootError_keeps {s₀ s : State} (failed : Bool) (code : ℕ) (unit : ℕ)
    (hk : Keeps s₀ s) : Keeps s₀ (State.bootError s failed code unit) := by
  unfold State.bootError
  try dsimp only
  repeat' first
    | with_reducible assumption | with_reducible apply Keeps.ite | simp only [Keeps.update_iff] | intro _ | split

theorem State.bootFailed_keeps {s₀ s : State} (n : ℕ) (hk : Keeps s₀ s) : Keeps s₀ (State.bootFailed s n) := by
  unfold State.bootFailed
  try dsimp only
  repeat' first
    | with_reducible assumption | with_reducible apply Keeps.ite | simp only [Keeps.update_iff] | intro _ | split

theorem State.markHalls_keeps {s₀ s : State} (bad : BitVec 8) (n : ℕ) (code : ℕ) (hk : Keeps s₀ s) : Keeps s₀ (State.markHalls s bad n code) := by
  unfold State.markHalls
  try dsimp only
  repeat' first
    | with_reducible assumption | with_reducible apply State.bootError_keeps | with_reducible apply Keeps.ite
    | simp only [Keeps.update_iff] | intro _ | split

theorem State.coreUp_keeps {s₀ s : State} (h : ℕ) (hk : Keeps s₀ s) : Keeps s₀ (State.coreUp s h) := by
  unfold State.coreUp
  try dsimp only
  repeat' first
    | with_reducible assumption | with_reducible apply State.modKeeper_keeps | with_reducible apply Keeps.ite | intro _ | split

theorem State.bootRails_keeps {s₀ s : State}  (hk : Keeps s₀ s) : Keeps s₀ (State.bootRails s) := by
  unfold State.bootRails
  try dsimp only
  repeat' first
    | with_reducible assumption | with_reducible apply State.coreUp_keeps | with_reducible apply State.inputReached_keeps
    | with_reducible apply Keeps.foldl | with_reducible apply Keeps.foldlFst | with_reducible apply Keeps.ite
    | simp only [Keeps.update_iff] | with_reducible apply Keeps.updateMem | exact Memory.wf_filter _ _ | intro _ | split

theorem State.bootFlights_keeps {s₀ s : State} (bad : BitVec 12) (hk : Keeps s₀ s) : Keeps s₀ (State.bootFlights s bad) := by
  unfold State.bootFlights
  try dsimp only
  repeat' first
    | with_reducible assumption | with_reducible apply State.bootError_keeps | with_reducible apply Keeps.ite
    | simp only [Keeps.update_iff] | intro _ | split

theorem State.bootClear_keeps {s₀ s : State}  (hk : Keeps s₀ s) : Keeps s₀ (State.bootClear s) := by
  unfold State.bootClear
  try dsimp only
  repeat' first
    | with_reducible assumption | with_reducible apply Keeps.ite | simp only [Keeps.update_iff] | with_reducible apply Keeps.updateMem
    | exact Memory.wf_filter _ _ | intro _ | split

theorem State.hallReady_keeps {s₀ s : State} (h : ℕ) (hk : Keeps s₀ s) : Keeps s₀ (State.hallReady s h) := by
  unfold State.hallReady
  try dsimp only
  repeat' first
    | with_reducible assumption | with_reducible apply State.touch_keeps | with_reducible apply State.modKeeper_keeps
    | with_reducible apply Keeps.ite | intro _ | split

theorem State.bootReady_keeps {s₀ s : State}  (hk : Keeps s₀ s) : Keeps s₀ (State.bootReady s) := by
  unfold State.bootReady
  try dsimp only
  repeat' first
    | with_reducible assumption | with_reducible apply State.loadPrograms_keeps | with_reducible apply State.loadRoutines_keeps
    | with_reducible apply State.zeroise_keeps | with_reducible apply State.bootClear_keeps | with_reducible apply State.hallReady_keeps
    | with_reducible apply State.placeSelvs_keeps | with_reducible apply State.serveSelvs_keeps | with_reducible apply Keeps.foldl
    | with_reducible apply Keeps.foldlFst | with_reducible apply Keeps.ite | simp only [Keeps.update_iff]
    | with_reducible apply Keeps.updateMem | exact Memory.wf_filter _ _ | intro _ | split

theorem State.bootOn_keeps {s₀ s : State} (r : StartupResult) (secondary : Bool) (hk : Keeps s₀ s) : Keeps s₀ (State.bootOn s r secondary) := by
  unfold State.bootOn
  try dsimp only
  repeat' first
    | with_reducible assumption | with_reducible apply State.markHalls_keeps | with_reducible apply State.bootFailed_keeps
    | with_reducible apply State.bootReady_keeps | with_reducible apply State.bootFlights_keeps | with_reducible apply Keeps.ite
    | simp only [Keeps.update_iff] | intro _ | split

theorem State.startup_keeps {s₀ s : State} (r : StartupResult) (hk : Keeps s₀ s) : Keeps s₀ (State.startup s r) := by
  unfold State.startup
  try dsimp only
  repeat' first
    | with_reducible assumption | with_reducible apply State.bootError_keeps | with_reducible apply State.markHalls_keeps
    | with_reducible apply State.bootRails_keeps | with_reducible apply State.bootFailed_keeps | with_reducible apply State.bootOn_keeps
    | with_reducible apply Keeps.ite | intro _ | split

theorem State.ringSelect_keeps {s₀ s : State} (h : ℕ) (v : W32) (hk : Keeps s₀ s) : Keeps s₀ (State.ringSelect s h v) := by
  unfold State.ringSelect
  try dsimp only
  repeat' first
    | with_reducible assumption | with_reducible apply State.modTreadle_keeps | with_reducible apply Keeps.ite | intro _ | split

theorem State.ringCommit_keeps {s₀ s : State} (h : ℕ) (hk : Keeps s₀ s) : Keeps s₀ (State.ringCommit s h) := by
  unfold State.ringCommit
  try dsimp only
  repeat' first
    | with_reducible assumption | with_reducible apply State.modRing_keeps | with_reducible apply State.refuse_keeps
    | with_reducible apply Keeps.ite | intro _ | split

theorem State.ringEnable_keeps {s₀ s : State} (h : ℕ) (fn : ℕ) (hk : Keeps s₀ s) : Keeps s₀ (State.ringEnable s h fn) := by
  unfold State.ringEnable
  try dsimp only
  repeat' first
    | with_reducible assumption | with_reducible apply State.modRing_keeps | with_reducible apply State.refuse_keeps
    | with_reducible apply Keeps.ite | intro _ | split

theorem State.ringCmdWrite_keeps {s₀ s : State} (h : ℕ) (fn : ℕ) (v : W32) (hk : Keeps s₀ s) : Keeps s₀ (State.ringCmdWrite s h fn v) := by
  unfold State.ringCmdWrite
  try dsimp only
  repeat' first
    | with_reducible assumption | with_reducible apply State.refuse_keeps | with_reducible apply State.ringCommit_keeps
    | with_reducible apply State.ringEnable_keeps | with_reducible apply State.resetRing_keeps | with_reducible apply Keeps.ite | intro _
    | split

theorem State.knotOwnerWrite_keeps {s₀ s : State} (h : ℕ) (v : W32) (hk : Keeps s₀ s) : Keeps s₀ (State.knotOwnerWrite s h v) := by
  unfold State.knotOwnerWrite
  try dsimp only
  repeat' first
    | with_reducible assumption | with_reducible apply State.modKnot_keeps | with_reducible apply State.refuse_keeps
    | with_reducible apply Keeps.ite | intro _ | split

theorem State.patternLoad_keeps {s₀ s : State} (h : ℕ) (hk : Keeps s₀ s) : Keeps s₀ (State.patternLoad s h) := by
  unfold State.patternLoad
  try dsimp only
  repeat' first
    | with_reducible assumption | with_reducible apply State.refuse_keeps | with_reducible apply State.fault_keeps
    | with_reducible apply State.modTreadle_keeps | with_reducible apply Keeps.ite | intro _ | split

theorem State.measureRoutines_keeps {s₀ s : State}  (hk : Keeps s₀ s) : Keeps s₀ (State.measureRoutines s) := by
  unfold State.measureRoutines
  try dsimp only
  repeat' first
    | with_reducible assumption | with_reducible apply Keeps.ite | simp only [Keeps.update_iff] | with_reducible apply Keeps.updateMem
    | exact Memory.wf_filter _ _ | intro _ | split

theorem State.patternLoaded_keeps {s₀ s : State} (h : ℕ) (hk : Keeps s₀ s) : Keeps s₀ (State.patternLoaded s h) := by
  unfold State.patternLoaded
  try dsimp only
  repeat' first
    | with_reducible assumption | with_reducible apply State.measureRoutines_keeps | with_reducible apply State.modTreadle_keeps
    | with_reducible apply State.setRoutine_keeps | with_reducible apply Keeps.ite | intro _ | split

theorem State.patternClear_keeps {s₀ s : State} (h : ℕ) (hk : Keeps s₀ s) : Keeps s₀ (State.patternClear s h) := by
  unfold State.patternClear
  try dsimp only
  repeat' first
    | with_reducible assumption | with_reducible apply State.refuse_keeps | with_reducible apply State.setRoutine_keeps
    | with_reducible apply Keeps.ite | intro _ | split

theorem State.patternCtlWrite_keeps {s₀ s : State} (h : ℕ) (v : W32) (hk : Keeps s₀ s) : Keeps s₀ (State.patternCtlWrite s h v) := by
  unfold State.patternCtlWrite
  try dsimp only
  repeat' first
    | with_reducible assumption | with_reducible apply State.refuse_keeps | with_reducible apply State.modTreadle_keeps
    | with_reducible apply State.patternClear_keeps | with_reducible apply State.patternLoad_keeps | with_reducible apply Keeps.ite
    | intro _ | split

theorem State.diagEnter_keeps {s₀ s : State} (h : ℕ) (v : W32) (hk : Keeps s₀ s) : Keeps s₀ (State.diagEnter s h v) := by
  unfold State.diagEnter
  try dsimp only
  repeat' first
    | with_reducible assumption | with_reducible apply State.fault_keeps | with_reducible apply State.modTreadle_keeps
    | with_reducible apply State.zeroHallStores_keeps | with_reducible apply State.refuse_keeps | with_reducible apply Keeps.ite | intro _
    | split

theorem State.diagEntered_keeps {s₀ s : State} (h : ℕ) (hk : Keeps s₀ s) : Keeps s₀ (State.diagEntered s h) := by
  unfold State.diagEntered
  try dsimp only
  repeat' first
    | with_reducible assumption | with_reducible apply State.event_keeps | with_reducible apply State.modTreadle_keeps
    | with_reducible apply Keeps.ite | intro _ | split

theorem State.diagExit_keeps {s₀ s : State} (h : ℕ) (hk : Keeps s₀ s) : Keeps s₀ (State.diagExit s h) := by
  unfold State.diagExit
  try dsimp only
  repeat' first
    | with_reducible assumption | with_reducible apply State.modTreadle_keeps | with_reducible apply State.zeroHallStores_keeps
    | with_reducible apply Keeps.ite | intro _ | split

theorem State.treadleCtrlWrite_keeps {s₀ s : State} (h : ℕ) (v : W32) (hk : Keeps s₀ s) : Keeps s₀ (State.treadleCtrlWrite s h v) := by
  unfold State.treadleCtrlWrite
  try dsimp only
  repeat' first
    | with_reducible assumption | with_reducible apply State.loseHall_keeps | with_reducible apply State.diagEnter_keeps
    | with_reducible apply State.modTreadle_keeps | with_reducible apply State.diagExit_keeps | with_reducible apply Keeps.ite | intro _
    | split

theorem State.ctxBaseWrite_keeps {s₀ s : State} (h : ℕ) (v : W32) (hk : Keeps s₀ s) : Keeps s₀ (State.ctxBaseWrite s h v) := by
  unfold State.ctxBaseWrite
  try dsimp only
  repeat' first
    | with_reducible assumption | with_reducible apply State.modTreadle_keeps | with_reducible apply State.refuse_keeps
    | with_reducible apply Keeps.ite | intro _ | split

theorem State.starveWrite_keeps {s₀ s : State} (h : ℕ) (v : W32) (hk : Keeps s₀ s) : Keeps s₀ (State.starveWrite s h v) := by
  unfold State.starveWrite
  try dsimp only
  repeat' first
    | with_reducible assumption | with_reducible apply State.modTreadle_keeps | with_reducible apply State.refuse_keeps
    | with_reducible apply Keeps.ite | intro _ | split

theorem State.chargeWindow_keeps {s₀ s : State} (w : Block512) (add : Bool) (hk : Keeps s₀ s) : Keeps s₀ (State.chargeWindow s w add) := by
  unfold State.chargeWindow
  try dsimp only
  repeat' first
    | with_reducible assumption | with_reducible apply State.ctxWrite_keeps | with_reducible apply Keeps.ite | intro _ | split

theorem State.windowRefuse_keeps {s₀ s : State} (h : ℕ) (st : Status) (hk : Keeps s₀ s) : Keeps s₀ (State.windowRefuse s h st) := by
  unfold State.windowRefuse
  try dsimp only
  repeat' first
    | with_reducible assumption | with_reducible apply State.fault_keeps | with_reducible apply State.event_keeps
    | with_reducible apply Keeps.ite | intro _ | split

theorem State.replaceWindow_keeps {s₀ s : State} (key : ℕ) (new : Block512) (hk : Keeps s₀ s) : Keeps s₀ (State.replaceWindow s key new) := by
  unfold State.replaceWindow
  try dsimp only
  repeat' first
    | with_reducible assumption | with_reducible apply State.chargeWindow_keeps | with_reducible apply State.setWindow_keeps
    | with_reducible apply State.failReceivers_keeps | with_reducible apply Keeps.ite | intro _ | split

theorem State.windowCommit_keeps {s₀ s : State} (h : ℕ) (hk : Keeps s₀ s) : Keeps s₀ (State.windowCommit s h) := by
  unfold State.windowCommit
  try dsimp only
  repeat' first
    | with_reducible assumption | with_reducible apply State.windowRefuse_keeps | with_reducible apply State.chargeWindow_keeps
    | with_reducible apply State.replaceWindow_keeps | with_reducible apply Keeps.ite | intro _ | split

theorem State.windowClear_keeps {s₀ s : State} (h : ℕ) (hk : Keeps s₀ s) : Keeps s₀ (State.windowClear s h) := by
  unfold State.windowClear
  try dsimp only
  repeat' first
    | with_reducible assumption | with_reducible apply State.windowRefuse_keeps | with_reducible apply State.replaceWindow_keeps
    | with_reducible apply Keeps.ite | intro _ | split

theorem State.windowFetch_keeps {s₀ s : State} (h : ℕ) (hk : Keeps s₀ s) : Keeps s₀ (State.windowFetch s h) := by
  unfold State.windowFetch
  try dsimp only
  repeat' first
    | with_reducible assumption | with_reducible apply State.modHall_keeps | with_reducible apply Keeps.ite | intro _ | split

theorem State.windowCmdWrite_keeps {s₀ s : State} (h : ℕ) (v : W32) (hk : Keeps s₀ s) : Keeps s₀ (State.windowCmdWrite s h v) := by
  unfold State.windowCmdWrite
  try dsimp only
  repeat' first
    | with_reducible assumption | with_reducible apply State.windowCommit_keeps | with_reducible apply State.windowClear_keeps
    | with_reducible apply State.windowFetch_keeps | with_reducible apply State.refuse_keeps | with_reducible apply Keeps.ite | intro _
    | split

theorem State.zeroCovered_keeps {s₀ s : State} (h : ℕ) (k : ℕ) (hk : Keeps s₀ s) : Keeps s₀ (State.zeroCovered s h k) := by
  unfold State.zeroCovered
  try dsimp only
  repeat' first
    | with_reducible assumption | with_reducible apply Keeps.ite | simp only [Keeps.update_iff] | with_reducible apply Keeps.updateMem
    | exact Memory.wf_filter _ _ | intro _ | split

theorem State.shareWrite_keeps {s₀ s : State} (h : ℕ) (v : W32) (hk : Keeps s₀ s) : Keeps s₀ (State.shareWrite s h v) := by
  unfold State.shareWrite
  try dsimp only
  repeat' first
    | with_reducible assumption | with_reducible apply State.refuse_keeps | with_reducible apply State.modHall_keeps
    | with_reducible apply State.replaceCache_keeps | with_reducible apply State.zeroCovered_keeps | with_reducible apply Keeps.ite
    | intro _ | split

theorem State.cacheInvalidate_keeps {s₀ s : State} (h : ℕ) (hk : Keeps s₀ s) : Keeps s₀ (State.cacheInvalidate s h) := by
  unfold State.cacheInvalidate
  try dsimp only
  repeat' first
    | with_reducible assumption | with_reducible apply State.replaceCache_keeps | with_reducible apply Keeps.ite | intro _ | split

theorem State.cacheCtlWrite_keeps {s₀ s : State} (h : ℕ) (v : W32) (hk : Keeps s₀ s) : Keeps s₀ (State.cacheCtlWrite s h v) := by
  unfold State.cacheCtlWrite
  try dsimp only
  repeat' first
    | with_reducible assumption | with_reducible apply State.shareWrite_keeps | with_reducible apply State.cacheInvalidate_keeps
    | with_reducible apply Keeps.ite | intro _ | split

theorem State.shareZeroed_keeps {s₀ s : State} (h : ℕ) (hk : Keeps s₀ s) : Keeps s₀ (State.shareZeroed s h) := by
  unfold State.shareZeroed
  try dsimp only
  repeat' first
    | with_reducible assumption | with_reducible apply State.modHall_keeps | with_reducible apply Keeps.ite | intro _ | split

theorem State.ledgerCapWrite_keeps {s₀ s : State} (h : ℕ) (v : W32) (hk : Keeps s₀ s) : Keeps s₀ (State.ledgerCapWrite s h v) := by
  unfold State.ledgerCapWrite
  try dsimp only
  repeat' first
    | with_reducible assumption | with_reducible apply State.modHall_keeps | with_reducible apply State.refuse_keeps
    | with_reducible apply Keeps.ite | intro _ | split

theorem State.latchPending_keeps {s₀ s : State} (h : ℕ) (hk : Keeps s₀ s) : Keeps s₀ (State.latchPending s h) := by
  unfold State.latchPending
  try dsimp only
  repeat' first
    | with_reducible assumption | with_reducible apply State.modHall_keeps | with_reducible apply Keeps.ite | intro _ | split

theorem State.treadleWrite_keeps {s₀ s : State} (h : ℕ) (fn : ℕ) (rel : ℕ) (v : W32)
    (hk : Keeps s₀ s) : Keeps s₀ (State.treadleWrite s h fn rel v) := by
  unfold State.treadleWrite
  try dsimp only
  repeat' first
    | with_reducible assumption | with_reducible apply State.modTreadle_keeps | with_reducible apply State.treadleCtrlWrite_keeps
    | with_reducible apply State.ctxBaseWrite_keeps | with_reducible apply State.starveWrite_keeps
    | with_reducible apply State.ringSelect_keeps | with_reducible apply State.ringCmdWrite_keeps
    | with_reducible apply State.knotOwnerWrite_keeps | with_reducible apply State.stageLow_keeps
    | with_reducible apply State.joinHigh_keeps | with_reducible apply State.refuse_keeps
    | with_reducible apply State.patternCtlWrite_keeps | with_reducible apply Keeps.ite | intro _ | split

theorem State.windowPageWrite_keeps {s₀ s : State} (h : ℕ) (rel : ℕ) (v : W32)
    (hk : Keeps s₀ s) : Keeps s₀ (State.windowPageWrite s h rel v) := by
  unfold State.windowPageWrite
  try dsimp only
  repeat' first
    | with_reducible assumption | with_reducible apply State.modHall_keeps | with_reducible apply State.windowCmdWrite_keeps
    | with_reducible apply Keeps.ite | intro _ | split

theorem State.keeperWrite_keeps {s₀ s : State} (h : ℕ) (rel : ℕ) (v : W32) (hk : Keeps s₀ s) : Keeps s₀ (State.keeperWrite s h rel v) := by
  unfold State.keeperWrite
  try dsimp only
  repeat' first
    | with_reducible assumption | with_reducible apply State.targetWrite_keeps | with_reducible apply State.keeperCtlWrite_keeps
    | with_reducible apply State.monitorWrite_keeps | with_reducible apply Keeps.ite | intro _ | split

theorem State.flightWrite_keeps {s₀ s : State} (p : ℕ) (rel : ℕ) (v : W32) (hk : Keeps s₀ s) : Keeps s₀ (State.flightWrite s p rel v) := by
  unfold State.flightWrite
  try dsimp only
  repeat' first
    | with_reducible assumption | with_reducible apply State.flightEnable_keeps | with_reducible apply State.flightAdmit_keeps
    | with_reducible apply State.flightReject_keeps | with_reducible apply State.modFlight_keeps | with_reducible apply State.refuse_keeps
    | with_reducible apply State.stageLow_keeps | with_reducible apply State.joinHigh_keeps | with_reducible apply Keeps.ite | intro _
    | split

theorem State.selvWrite_keeps {s₀ s : State} (p : ℕ) (rel : ℕ) (v : W32) (hk : Keeps s₀ s) : Keeps s₀ (State.selvWrite s p rel v) := by
  unfold State.selvWrite
  try dsimp only
  repeat' first
    | with_reducible assumption | with_reducible apply State.progCtlWrite_keeps | with_reducible apply State.stageLow_keeps
    | with_reducible apply State.joinHigh_keeps | with_reducible apply State.refuse_keeps | with_reducible apply Keeps.ite
    | simp only [Keeps.update_iff] | intro _ | split

theorem State.coordWrite_keeps {s₀ s : State} (v : W32) (hk : Keeps s₀ s) : Keeps s₀ (State.coordWrite s v) := by
  unfold State.coordWrite
  try dsimp only
  repeat' first
    | with_reducible assumption | with_reducible apply State.refuse_keeps | with_reducible apply Keeps.ite | simp only [Keeps.update_iff]
    | intro _ | split

theorem State.blockWrite_keeps {s₀ s : State} (id : PageId) (fn : ℕ) (rel : ℕ) (v : W32)
    (hk : Keeps s₀ s) : Keeps s₀ (State.blockWrite s id fn rel v) := by
  unfold State.blockWrite
  try dsimp only
  repeat' first
    | with_reducible assumption | with_reducible apply State.treadleWrite_keeps | with_reducible apply State.cacheCtlWrite_keeps
    | with_reducible apply State.ledgerCapWrite_keeps | with_reducible apply State.modHall_keeps
    | with_reducible apply State.windowPageWrite_keeps | with_reducible apply State.keeperWrite_keeps
    | with_reducible apply State.flightWrite_keeps | with_reducible apply State.selvWrite_keeps
    | with_reducible apply State.coordWrite_keeps | with_reducible apply State.moduleBlockWrite_keeps | with_reducible apply Keeps.ite
    | intro _ | split

theorem State.regWrite_keeps {s₀ s : State} (fn : ℕ) (off : ℕ) (v : W32) (hk : Keeps s₀ s) : Keeps s₀ (State.regWrite s fn off v) := by
  unfold State.regWrite
  try dsimp only
  repeat' first
    | with_reducible assumption | with_reducible apply State.headerWrite_keeps | with_reducible apply State.carryReset_keeps
    | with_reducible apply State.blockWrite_keeps | with_reducible apply Keeps.ite | intro _ | split

theorem State.readEffect_keeps {s₀ s : State} (id : PageId) (rel : ℕ) (hk : Keeps s₀ s) : Keeps s₀ (State.readEffect s id rel) := by
  unfold State.readEffect
  try dsimp only
  repeat' first
    | with_reducible assumption | with_reducible apply State.secStatusRead_keeps | with_reducible apply State.modKeeper_keeps
    | with_reducible apply State.latchPending_keeps | with_reducible apply Keeps.ite | intro _ | split

theorem State.pageRead_keeps {s₀ s : State} (id : PageId) (off : ℕ) (hk : Keeps s₀ s) : Keeps s₀ (State.pageRead s id off).2 := by
  unfold State.pageRead
  try dsimp only
  repeat' first
    | with_reducible assumption | with_reducible apply State.readEffect_keeps | with_reducible apply Keeps.ite
    | simp only [Keeps.update_iff] | intro _ | split

theorem State.regRead_keeps {s₀ s : State} (off : ℕ) (hk : Keeps s₀ s) : Keeps s₀ (State.regRead s off).2 := by
  unfold State.regRead
  try dsimp only
  repeat' first
    | with_reducible assumption | with_reducible apply State.pageRead_keeps | with_reducible apply Keeps.ite | intro _ | split

theorem State.managementRead_keeps {s₀ s : State} (off : ℕ) (hk : Keeps s₀ s) : Keeps s₀ (State.managementRead s off).2 := by
  unfold State.managementRead
  try dsimp only
  repeat' first
    | with_reducible assumption | with_reducible apply State.pageRead_keeps | with_reducible apply Keeps.ite | intro _ | split

theorem State.barWrite_keeps {s₀ s : State} (fn : ℕ) (off : ℕ) (width : ℕ) (v : W64)
    (hk : Keeps s₀ s) : Keeps s₀ (State.barWrite s fn off width v) := by
  unfold State.barWrite
  try dsimp only
  repeat' first
    | with_reducible assumption | with_reducible apply State.emit_keeps | with_reducible apply State.regWrite_keeps
    | with_reducible apply Keeps.ite | intro _ | split

theorem State.barRead_keeps {s₀ s : State} (off : ℕ) (width : ℕ) (hk : Keeps s₀ s) : Keeps s₀ (State.barRead s off width) := by
  unfold State.barRead
  try dsimp only
  repeat' first
    | with_reducible assumption | with_reducible apply State.emit_keeps | with_reducible apply State.regRead_keeps
    | with_reducible apply Keeps.ite | intro _ | split

theorem State.bar2Read_keeps {s₀ s : State} (off : ℕ) (hk : Keeps s₀ s) : Keeps s₀ (State.bar2Read s off) := by
  unfold State.bar2Read
  try dsimp only
  repeat' first
    | with_reducible assumption | with_reducible apply State.emit_keeps | with_reducible apply Keeps.ite | simp only [Keeps.update_iff]
    | intro _ | split

theorem State.managementAccess_keeps {s₀ s : State} (g : ℕ) (write : Bool) (off : ℕ) (width : ℕ) (v : W64)
    (hk : Keeps s₀ s) : Keeps s₀ (State.managementAccess s g write off width v) := by
  unfold State.managementAccess
  try dsimp only
  repeat' first
    | with_reducible assumption | with_reducible apply State.failItem_keeps | with_reducible apply State.managementWrite_keeps
    | with_reducible apply State.carryReset_keeps | with_reducible apply State.managementRead_keeps
    | with_reducible apply State.emit_keeps | with_reducible apply Keeps.ite | intro _ | split

theorem State.onHall_keeps {s₀ s : State} (h : ℕ) (f : State → State) (Hf : ∀ s, Keeps s₀ s → Keeps s₀ (f s))
    (hk : Keeps s₀ s) : Keeps s₀ (State.onHall s h f) := by
  unfold State.onHall
  try dsimp only
  repeat' first
    | with_reducible assumption | with_reducible apply Hf | with_reducible apply Keeps.ite | (intro _; try dsimp only) | split

theorem State.timestamp_keeps {s₀ s : State} (t : Item) (hk : Keeps s₀ s) : Keeps s₀ (State.timestamp t s) := by
  unfold State.timestamp
  try dsimp only
  repeat' first
    | with_reducible assumption | with_reducible apply State.finish_keeps | with_reducible apply State.failItem_keeps
    | with_reducible apply State.treadleRequest_keeps | with_reducible apply State.store_keeps | with_reducible apply State.markFull_keeps
    | with_reducible apply Keeps.ite | intro _ | split

theorem State.cardToken_keeps {s₀ s : State} (h : ℕ) (w : BitVec 128) (o : ℕ) (hk : Keeps s₀ s) : Keeps s₀ (State.cardToken s h w o) := by
  unfold State.cardToken
  try dsimp only
  repeat' first
    | with_reducible assumption | with_reducible apply State.markFull_keeps | with_reducible apply State.markEmpty_keeps
    | with_reducible apply Keeps.ite | intro _ | split

theorem State.cardRead_keeps {s₀ s : State} (h : ℕ) (w : BitVec 128) (i : ℕ) (hk : Keeps s₀ s) : Keeps s₀ (State.cardRead s h w i).2 := by
  unfold State.cardRead
  try dsimp only
  repeat' first
    | with_reducible assumption | with_reducible apply State.cardToken_keeps | with_reducible apply State.draw_keeps
    | with_reducible apply Keeps.ite | intro _ | split

theorem State.cardReads_keeps {s₀ s : State} (h : ℕ) (w : BitVec 128) (a3 : ℕ) (hk : Keeps s₀ s) : Keeps s₀ (State.cardReads s h w a3).1 := by
  induction a3 generalizing s with
  | zero => exact hk
  | succ n ih =>
    unfold State.cardReads
    try dsimp only
    repeat' first
      | with_reducible assumption | with_reducible apply ih | with_reducible apply State.cardRead_keeps | with_reducible apply Keeps.ite
      | intro _ | split

theorem State.cardCompares_keeps {s₀ s : State} (h : ℕ) (w : BitVec 128) (a3 : ℕ)
    (hk : Keeps s₀ s) : Keeps s₀ (State.cardCompares s h w a3).1 := by
  induction a3 generalizing s with
  | zero => exact hk
  | succ n ih =>
    unfold State.cardCompares
    try dsimp only
    repeat' first
      | with_reducible assumption | with_reducible apply ih | with_reducible apply State.cardRead_keeps
      | with_reducible apply State.draw_keeps | with_reducible apply Keeps.ite | intro _ | split

theorem State.cardWrites_keeps {s₀ s : State} (h : ℕ) (w : BitVec 128) (a3 : ℕ) (hk : Keeps s₀ s) : Keeps s₀ (State.cardWrites s h w a3) := by
  induction a3 generalizing s with
  | zero => exact hk
  | succ n ih =>
    unfold State.cardWrites
    try dsimp only
    repeat' first
      | with_reducible assumption | with_reducible apply ih | with_reducible apply State.draw_keeps
      | with_reducible apply State.cardToken_keeps | with_reducible apply State.store_keeps | with_reducible apply State.modLoom_keeps
      | with_reducible apply Keeps.ite | intro _ | split

theorem State.cardPass_keeps {s₀ s : State} (h : ℕ) (w : BitVec 128) (hk : Keeps s₀ s) : Keeps s₀ (State.cardPass s h w) := by
  unfold State.cardPass
  try dsimp only
  repeat' first
    | with_reducible assumption | with_reducible apply State.modLoom_keeps | with_reducible apply Keeps.ite | intro _ | split

theorem State.cardMode_keeps {s₀ s : State} (h : ℕ) (w : BitVec 128) (hk : Keeps s₀ s) : Keeps s₀ (State.cardMode s h w) := by
  unfold State.cardMode
  try dsimp only
  repeat' first
    | with_reducible assumption | with_reducible apply State.modLoom_keeps | with_reducible apply Keeps.ite | intro _ | split

theorem State.cardResult_keeps {s₀ s : State} (t : Item) (i : ℕ) (bs : List Byte) (hk : Keeps s₀ s) : Keeps s₀ (State.cardResult s t i bs) := by
  unfold State.cardResult
  try dsimp only
  repeat' first
    | with_reducible assumption | with_reducible apply State.modItem_keeps | with_reducible apply State.store_keeps
    | with_reducible apply Keeps.ite | intro _ | split

theorem State.cardAct_keeps {s₀ s : State} (t : Item) (i : ℕ) (w : BitVec 128) (hk : Keeps s₀ s) : Keeps s₀ (State.cardAct s t i w) := by
  unfold State.cardAct
  try dsimp only
  repeat' first
    | with_reducible assumption | with_reducible apply State.cardReads_keeps | with_reducible apply State.cardResult_keeps
    | with_reducible apply State.modItem_keeps | with_reducible apply State.cardWrites_keeps
    | with_reducible apply State.cardCompares_keeps | with_reducible apply State.cardPass_keeps
    | with_reducible apply State.cardMode_keeps | with_reducible apply Keeps.ite | intro _ | split

theorem State.cardEnd_keeps {s₀ s : State} (t : Item) (hk : Keeps s₀ s) : Keeps s₀ (State.cardEnd s t) := by
  unfold State.cardEnd
  try dsimp only
  repeat' first
    | with_reducible assumption | with_reducible apply State.consume_keeps | with_reducible apply State.finish_keeps
    | with_reducible apply State.markFull_keeps | with_reducible apply Keeps.foldl | with_reducible apply Keeps.foldlFst
    | with_reducible apply Keeps.ite | intro _ | split

theorem State.cardNext_keeps {s₀ s : State} (i : ItemId) (only : Option ℕ) (hk : Keeps s₀ s) : Keeps s₀ (State.cardNext s i only) := by
  unfold State.cardNext
  try dsimp only
  repeat' first
    | with_reducible assumption | with_reducible apply State.failItem_keeps | with_reducible apply State.modItem_keeps
    | with_reducible apply State.cardAct_keeps | with_reducible apply State.carryReset_keeps
    | with_reducible apply State.afterManagementRead_keeps | with_reducible apply State.cardEnd_keeps | with_reducible apply Keeps.ite
    | intro _ | split

theorem State.cardRunAll_keeps {s₀ s : State} (i : ItemId) (a2 : ℕ) (hk : Keeps s₀ s) : Keeps s₀ (State.cardRunAll s i a2) := by
  induction a2 generalizing s with
  | zero => exact hk
  | succ n ih =>
    unfold State.cardRunAll
    try dsimp only
    repeat' first
      | with_reducible assumption | with_reducible apply ih | with_reducible apply State.cardNext_keeps | with_reducible apply Keeps.ite
      | intro _ | split

theorem State.cardRun_keeps {s₀ s : State} (i : ItemId) (hk : Keeps s₀ s) : Keeps s₀ (State.cardRun s i) := by
  unfold State.cardRun
  try dsimp only
  repeat' first
    | with_reducible assumption | with_reducible apply State.cardRunAll_keeps | with_reducible apply Keeps.ite | intro _ | split

theorem State.starve_keeps {s₀ s : State} (i : ItemId) (hk : Keeps s₀ s) : Keeps s₀ (State.starve s i) := by
  unfold State.starve
  try dsimp only
  repeat' first
    | with_reducible assumption | with_reducible apply State.failAt_keeps | with_reducible apply State.failTerm_keeps
    | with_reducible apply State.failItem_keeps | with_reducible apply Keeps.foldl | with_reducible apply Keeps.foldlFst
    | with_reducible apply Keeps.ite | intro _ | split

theorem pulseAfter_keeps {s₀ s : State} (n : Newel) (hk : Keeps s₀ s) : Keeps s₀ (pulseAfter n s) := by
  unfold pulseAfter
  try dsimp only
  repeat' first
    | with_reducible assumption | with_reducible apply State.emit_keeps | with_reducible apply Keeps.ite | intro _ | split

theorem idleTick_keeps {s₀ s : State}  (hk : Keeps s₀ s) : Keeps s₀ (idleTick s) := by
  unfold idleTick
  try dsimp only
  repeat' first
    | with_reducible assumption | with_reducible apply pulseAfter_keeps | with_reducible apply Keeps.ite | simp only [Keeps.update_iff]
    | intro _ | split

end Sys2Proof.Machine
end

