-- ==== Sys2Proof/Laws/State.lean ====
section
/-!
SUPPORT. The record updates of the state: for each named update, every field it leaves as it was (one rewriting rule a field), and what the
field it changes reads as afterwards.
-/
namespace Sys2Proof.Machine

/-- `draw` leaves every field but `free`. -/
@[simp] theorem State.draw_fields (s : State) :
    s.draw.2.pending = s.pending ∧ s.draw.2.out = s.out ∧ s.draw.2.part = s.part ∧ s.draw.2.boot = s.boot ∧ s.draw.2.newel = s.newel ∧
    s.draw.2.power = s.power ∧ s.draw.2.sec = s.sec ∧ s.draw.2.hif = s.hif ∧ s.draw.2.mod = s.mod ∧ s.draw.2.pages = s.pages ∧
    s.draw.2.counters = s.counters ∧ s.draw.2.latch = s.latch ∧ s.draw.2.lowHalf = s.lowHalf ∧ s.draw.2.halls = s.halls ∧
    s.draw.2.mem = s.mem ∧ s.draw.2.poison = s.poison ∧ s.draw.2.corrected = s.corrected ∧ s.draw.2.full = s.full ∧
    s.draw.2.windows = s.windows ∧ s.draw.2.arrived = s.arrived ∧ s.draw.2.rings = s.rings ∧ s.draw.2.busyAt = s.busyAt ∧
    s.draw.2.heldSince = s.heldSince ∧ s.draw.2.items = s.items ∧ s.draw.2.lanes = s.lanes ∧ s.draw.2.sel = s.sel ∧
    s.draw.2.knots = s.knots ∧ s.draw.2.loomKnots = s.loomKnots ∧ s.draw.2.knotMsgs = s.knotMsgs ∧ s.draw.2.patterns = s.patterns ∧
    s.draw.2.looms = s.looms ∧ s.draw.2.bobbins = s.bobbins ∧ s.draw.2.ledgers = s.ledgers ∧ s.draw.2.scrubs = s.scrubs ∧
    s.draw.2.caches = s.caches ∧ s.draw.2.streams = s.streams ∧ s.draw.2.selvs = s.selvs ∧ s.draw.2.progs = s.progs ∧
    s.draw.2.slvCtl = s.slvCtl ∧ s.draw.2.flights = s.flights ∧ s.draw.2.xprCoord = s.xprCoord ∧ s.draw.2.xprHeld = s.xprHeld ∧
    s.draw.2.colls = s.colls ∧ s.draw.2.openings = s.openings ∧ s.draw.2.stale = s.stale ∧ s.draw.2.transits = s.transits ∧
    s.draw.2.rxs = s.rxs ∧ s.draw.2.txs = s.txs := by
  and_intros <;> rfl

/-- `emit` leaves every field but `out`. -/
@[simp] theorem State.emit_fields (s : State) (r : Reply) :
    (s.emit r).pending = s.pending ∧ (s.emit r).free = s.free ∧ (s.emit r).part = s.part ∧ (s.emit r).boot = s.boot ∧
    (s.emit r).newel = s.newel ∧ (s.emit r).power = s.power ∧ (s.emit r).sec = s.sec ∧ (s.emit r).hif = s.hif ∧ (s.emit r).mod = s.mod ∧
    (s.emit r).pages = s.pages ∧ (s.emit r).counters = s.counters ∧ (s.emit r).latch = s.latch ∧ (s.emit r).lowHalf = s.lowHalf ∧
    (s.emit r).halls = s.halls ∧ (s.emit r).mem = s.mem ∧ (s.emit r).poison = s.poison ∧ (s.emit r).corrected = s.corrected ∧
    (s.emit r).full = s.full ∧ (s.emit r).windows = s.windows ∧ (s.emit r).arrived = s.arrived ∧ (s.emit r).rings = s.rings ∧
    (s.emit r).busyAt = s.busyAt ∧ (s.emit r).heldSince = s.heldSince ∧ (s.emit r).items = s.items ∧ (s.emit r).lanes = s.lanes ∧
    (s.emit r).sel = s.sel ∧ (s.emit r).knots = s.knots ∧ (s.emit r).loomKnots = s.loomKnots ∧ (s.emit r).knotMsgs = s.knotMsgs ∧
    (s.emit r).patterns = s.patterns ∧ (s.emit r).looms = s.looms ∧ (s.emit r).bobbins = s.bobbins ∧ (s.emit r).ledgers = s.ledgers ∧
    (s.emit r).scrubs = s.scrubs ∧ (s.emit r).caches = s.caches ∧ (s.emit r).streams = s.streams ∧ (s.emit r).selvs = s.selvs ∧
    (s.emit r).progs = s.progs ∧ (s.emit r).slvCtl = s.slvCtl ∧ (s.emit r).flights = s.flights ∧ (s.emit r).xprCoord = s.xprCoord ∧
    (s.emit r).xprHeld = s.xprHeld ∧ (s.emit r).colls = s.colls ∧ (s.emit r).openings = s.openings ∧ (s.emit r).stale = s.stale ∧
    (s.emit r).transits = s.transits ∧ (s.emit r).rxs = s.rxs ∧ (s.emit r).txs = s.txs := by
  and_intros <;> rfl

/-- `modHall` leaves every field but `halls`. -/
@[simp] theorem State.modHall_fields (s : State) (h : Nat) (f : Hall → Hall) :
    (s.modHall h f).pending = s.pending ∧ (s.modHall h f).free = s.free ∧ (s.modHall h f).out = s.out ∧ (s.modHall h f).part = s.part ∧
    (s.modHall h f).boot = s.boot ∧ (s.modHall h f).newel = s.newel ∧ (s.modHall h f).power = s.power ∧ (s.modHall h f).sec = s.sec ∧
    (s.modHall h f).hif = s.hif ∧ (s.modHall h f).mod = s.mod ∧ (s.modHall h f).pages = s.pages ∧ (s.modHall h f).counters = s.counters ∧
    (s.modHall h f).latch = s.latch ∧ (s.modHall h f).lowHalf = s.lowHalf ∧ (s.modHall h f).mem = s.mem ∧
    (s.modHall h f).poison = s.poison ∧ (s.modHall h f).corrected = s.corrected ∧ (s.modHall h f).full = s.full ∧
    (s.modHall h f).windows = s.windows ∧ (s.modHall h f).arrived = s.arrived ∧ (s.modHall h f).rings = s.rings ∧
    (s.modHall h f).busyAt = s.busyAt ∧ (s.modHall h f).heldSince = s.heldSince ∧ (s.modHall h f).items = s.items ∧
    (s.modHall h f).lanes = s.lanes ∧ (s.modHall h f).sel = s.sel ∧ (s.modHall h f).knots = s.knots ∧
    (s.modHall h f).loomKnots = s.loomKnots ∧ (s.modHall h f).knotMsgs = s.knotMsgs ∧ (s.modHall h f).patterns = s.patterns ∧
    (s.modHall h f).looms = s.looms ∧ (s.modHall h f).bobbins = s.bobbins ∧ (s.modHall h f).ledgers = s.ledgers ∧
    (s.modHall h f).scrubs = s.scrubs ∧ (s.modHall h f).caches = s.caches ∧ (s.modHall h f).streams = s.streams ∧
    (s.modHall h f).selvs = s.selvs ∧ (s.modHall h f).progs = s.progs ∧ (s.modHall h f).slvCtl = s.slvCtl ∧
    (s.modHall h f).flights = s.flights ∧ (s.modHall h f).xprCoord = s.xprCoord ∧ (s.modHall h f).xprHeld = s.xprHeld ∧
    (s.modHall h f).colls = s.colls ∧ (s.modHall h f).openings = s.openings ∧ (s.modHall h f).stale = s.stale ∧
    (s.modHall h f).transits = s.transits ∧ (s.modHall h f).rxs = s.rxs ∧ (s.modHall h f).txs = s.txs := by
  and_intros <;> rfl

/-- `modTreadle` leaves every field but `halls`. -/
@[simp] theorem State.modTreadle_fields (s : State) (h : Nat) (f : Treadle → Treadle) :
    (s.modTreadle h f).pending = s.pending ∧ (s.modTreadle h f).free = s.free ∧ (s.modTreadle h f).out = s.out ∧
    (s.modTreadle h f).part = s.part ∧ (s.modTreadle h f).boot = s.boot ∧ (s.modTreadle h f).newel = s.newel ∧
    (s.modTreadle h f).power = s.power ∧ (s.modTreadle h f).sec = s.sec ∧ (s.modTreadle h f).hif = s.hif ∧ (s.modTreadle h f).mod = s.mod ∧
    (s.modTreadle h f).pages = s.pages ∧ (s.modTreadle h f).counters = s.counters ∧ (s.modTreadle h f).latch = s.latch ∧
    (s.modTreadle h f).lowHalf = s.lowHalf ∧ (s.modTreadle h f).mem = s.mem ∧ (s.modTreadle h f).poison = s.poison ∧
    (s.modTreadle h f).corrected = s.corrected ∧ (s.modTreadle h f).full = s.full ∧ (s.modTreadle h f).windows = s.windows ∧
    (s.modTreadle h f).arrived = s.arrived ∧ (s.modTreadle h f).rings = s.rings ∧ (s.modTreadle h f).busyAt = s.busyAt ∧
    (s.modTreadle h f).heldSince = s.heldSince ∧ (s.modTreadle h f).items = s.items ∧ (s.modTreadle h f).lanes = s.lanes ∧
    (s.modTreadle h f).sel = s.sel ∧ (s.modTreadle h f).knots = s.knots ∧ (s.modTreadle h f).loomKnots = s.loomKnots ∧
    (s.modTreadle h f).knotMsgs = s.knotMsgs ∧ (s.modTreadle h f).patterns = s.patterns ∧ (s.modTreadle h f).looms = s.looms ∧
    (s.modTreadle h f).bobbins = s.bobbins ∧ (s.modTreadle h f).ledgers = s.ledgers ∧ (s.modTreadle h f).scrubs = s.scrubs ∧
    (s.modTreadle h f).caches = s.caches ∧ (s.modTreadle h f).streams = s.streams ∧ (s.modTreadle h f).selvs = s.selvs ∧
    (s.modTreadle h f).progs = s.progs ∧ (s.modTreadle h f).slvCtl = s.slvCtl ∧ (s.modTreadle h f).flights = s.flights ∧
    (s.modTreadle h f).xprCoord = s.xprCoord ∧ (s.modTreadle h f).xprHeld = s.xprHeld ∧ (s.modTreadle h f).colls = s.colls ∧
    (s.modTreadle h f).openings = s.openings ∧ (s.modTreadle h f).stale = s.stale ∧ (s.modTreadle h f).transits = s.transits ∧
    (s.modTreadle h f).rxs = s.rxs ∧ (s.modTreadle h f).txs = s.txs := by
  and_intros <;> rfl

/-- `modKeeper` leaves every field but `halls`. -/
@[simp] theorem State.modKeeper_fields (s : State) (h : Nat) (f : Keeper → Keeper) :
    (s.modKeeper h f).pending = s.pending ∧ (s.modKeeper h f).free = s.free ∧ (s.modKeeper h f).out = s.out ∧
    (s.modKeeper h f).part = s.part ∧ (s.modKeeper h f).boot = s.boot ∧ (s.modKeeper h f).newel = s.newel ∧
    (s.modKeeper h f).power = s.power ∧ (s.modKeeper h f).sec = s.sec ∧ (s.modKeeper h f).hif = s.hif ∧ (s.modKeeper h f).mod = s.mod ∧
    (s.modKeeper h f).pages = s.pages ∧ (s.modKeeper h f).counters = s.counters ∧ (s.modKeeper h f).latch = s.latch ∧
    (s.modKeeper h f).lowHalf = s.lowHalf ∧ (s.modKeeper h f).mem = s.mem ∧ (s.modKeeper h f).poison = s.poison ∧
    (s.modKeeper h f).corrected = s.corrected ∧ (s.modKeeper h f).full = s.full ∧ (s.modKeeper h f).windows = s.windows ∧
    (s.modKeeper h f).arrived = s.arrived ∧ (s.modKeeper h f).rings = s.rings ∧ (s.modKeeper h f).busyAt = s.busyAt ∧
    (s.modKeeper h f).heldSince = s.heldSince ∧ (s.modKeeper h f).items = s.items ∧ (s.modKeeper h f).lanes = s.lanes ∧
    (s.modKeeper h f).sel = s.sel ∧ (s.modKeeper h f).knots = s.knots ∧ (s.modKeeper h f).loomKnots = s.loomKnots ∧
    (s.modKeeper h f).knotMsgs = s.knotMsgs ∧ (s.modKeeper h f).patterns = s.patterns ∧ (s.modKeeper h f).looms = s.looms ∧
    (s.modKeeper h f).bobbins = s.bobbins ∧ (s.modKeeper h f).ledgers = s.ledgers ∧ (s.modKeeper h f).scrubs = s.scrubs ∧
    (s.modKeeper h f).caches = s.caches ∧ (s.modKeeper h f).streams = s.streams ∧ (s.modKeeper h f).selvs = s.selvs ∧
    (s.modKeeper h f).progs = s.progs ∧ (s.modKeeper h f).slvCtl = s.slvCtl ∧ (s.modKeeper h f).flights = s.flights ∧
    (s.modKeeper h f).xprCoord = s.xprCoord ∧ (s.modKeeper h f).xprHeld = s.xprHeld ∧ (s.modKeeper h f).colls = s.colls ∧
    (s.modKeeper h f).openings = s.openings ∧ (s.modKeeper h f).stale = s.stale ∧ (s.modKeeper h f).transits = s.transits ∧
    (s.modKeeper h f).rxs = s.rxs ∧ (s.modKeeper h f).txs = s.txs := by
  and_intros <;> rfl

/-- `modRing` leaves every field but `rings`. -/
@[simp] theorem State.modRing_fields (s : State) (g : Nat) (f : Ring → Ring) :
    (s.modRing g f).pending = s.pending ∧ (s.modRing g f).free = s.free ∧ (s.modRing g f).out = s.out ∧ (s.modRing g f).part = s.part ∧
    (s.modRing g f).boot = s.boot ∧ (s.modRing g f).newel = s.newel ∧ (s.modRing g f).power = s.power ∧ (s.modRing g f).sec = s.sec ∧
    (s.modRing g f).hif = s.hif ∧ (s.modRing g f).mod = s.mod ∧ (s.modRing g f).pages = s.pages ∧ (s.modRing g f).counters = s.counters ∧
    (s.modRing g f).latch = s.latch ∧ (s.modRing g f).lowHalf = s.lowHalf ∧ (s.modRing g f).halls = s.halls ∧ (s.modRing g f).mem = s.mem ∧
    (s.modRing g f).poison = s.poison ∧ (s.modRing g f).corrected = s.corrected ∧ (s.modRing g f).full = s.full ∧
    (s.modRing g f).windows = s.windows ∧ (s.modRing g f).arrived = s.arrived ∧ (s.modRing g f).busyAt = s.busyAt ∧
    (s.modRing g f).heldSince = s.heldSince ∧ (s.modRing g f).items = s.items ∧ (s.modRing g f).lanes = s.lanes ∧
    (s.modRing g f).sel = s.sel ∧ (s.modRing g f).knots = s.knots ∧ (s.modRing g f).loomKnots = s.loomKnots ∧
    (s.modRing g f).knotMsgs = s.knotMsgs ∧ (s.modRing g f).patterns = s.patterns ∧ (s.modRing g f).looms = s.looms ∧
    (s.modRing g f).bobbins = s.bobbins ∧ (s.modRing g f).ledgers = s.ledgers ∧ (s.modRing g f).scrubs = s.scrubs ∧
    (s.modRing g f).caches = s.caches ∧ (s.modRing g f).streams = s.streams ∧ (s.modRing g f).selvs = s.selvs ∧
    (s.modRing g f).progs = s.progs ∧ (s.modRing g f).slvCtl = s.slvCtl ∧ (s.modRing g f).flights = s.flights ∧
    (s.modRing g f).xprCoord = s.xprCoord ∧ (s.modRing g f).xprHeld = s.xprHeld ∧ (s.modRing g f).colls = s.colls ∧
    (s.modRing g f).openings = s.openings ∧ (s.modRing g f).stale = s.stale ∧ (s.modRing g f).transits = s.transits ∧
    (s.modRing g f).rxs = s.rxs ∧ (s.modRing g f).txs = s.txs := by
  and_intros <;> rfl

/-- `bump` leaves every field but `counters`. -/
@[simp] theorem State.bump_fields (s : State) (p c n : Nat) :
    (s.bump p c n).pending = s.pending ∧ (s.bump p c n).free = s.free ∧ (s.bump p c n).out = s.out ∧ (s.bump p c n).part = s.part ∧
    (s.bump p c n).boot = s.boot ∧ (s.bump p c n).newel = s.newel ∧ (s.bump p c n).power = s.power ∧ (s.bump p c n).sec = s.sec ∧
    (s.bump p c n).hif = s.hif ∧ (s.bump p c n).mod = s.mod ∧ (s.bump p c n).pages = s.pages ∧ (s.bump p c n).latch = s.latch ∧
    (s.bump p c n).lowHalf = s.lowHalf ∧ (s.bump p c n).halls = s.halls ∧ (s.bump p c n).mem = s.mem ∧ (s.bump p c n).poison = s.poison ∧
    (s.bump p c n).corrected = s.corrected ∧ (s.bump p c n).full = s.full ∧ (s.bump p c n).windows = s.windows ∧
    (s.bump p c n).arrived = s.arrived ∧ (s.bump p c n).rings = s.rings ∧ (s.bump p c n).busyAt = s.busyAt ∧
    (s.bump p c n).heldSince = s.heldSince ∧ (s.bump p c n).items = s.items ∧ (s.bump p c n).lanes = s.lanes ∧ (s.bump p c n).sel = s.sel ∧
    (s.bump p c n).knots = s.knots ∧ (s.bump p c n).loomKnots = s.loomKnots ∧ (s.bump p c n).knotMsgs = s.knotMsgs ∧
    (s.bump p c n).patterns = s.patterns ∧ (s.bump p c n).looms = s.looms ∧ (s.bump p c n).bobbins = s.bobbins ∧
    (s.bump p c n).ledgers = s.ledgers ∧ (s.bump p c n).scrubs = s.scrubs ∧ (s.bump p c n).caches = s.caches ∧
    (s.bump p c n).streams = s.streams ∧ (s.bump p c n).selvs = s.selvs ∧ (s.bump p c n).progs = s.progs ∧
    (s.bump p c n).slvCtl = s.slvCtl ∧ (s.bump p c n).flights = s.flights ∧ (s.bump p c n).xprCoord = s.xprCoord ∧
    (s.bump p c n).xprHeld = s.xprHeld ∧ (s.bump p c n).colls = s.colls ∧ (s.bump p c n).openings = s.openings ∧
    (s.bump p c n).stale = s.stale ∧ (s.bump p c n).transits = s.transits ∧ (s.bump p c n).rxs = s.rxs ∧ (s.bump p c n).txs = s.txs := by
  and_intros <;> rfl

/-- `modKnot` leaves every field but `knots`. -/
@[simp] theorem State.modKnot_fields (s : State) (k : Nat) (f : Knot → Knot) :
    (s.modKnot k f).pending = s.pending ∧ (s.modKnot k f).free = s.free ∧ (s.modKnot k f).out = s.out ∧ (s.modKnot k f).part = s.part ∧
    (s.modKnot k f).boot = s.boot ∧ (s.modKnot k f).newel = s.newel ∧ (s.modKnot k f).power = s.power ∧ (s.modKnot k f).sec = s.sec ∧
    (s.modKnot k f).hif = s.hif ∧ (s.modKnot k f).mod = s.mod ∧ (s.modKnot k f).pages = s.pages ∧ (s.modKnot k f).counters = s.counters ∧
    (s.modKnot k f).latch = s.latch ∧ (s.modKnot k f).lowHalf = s.lowHalf ∧ (s.modKnot k f).halls = s.halls ∧ (s.modKnot k f).mem = s.mem ∧
    (s.modKnot k f).poison = s.poison ∧ (s.modKnot k f).corrected = s.corrected ∧ (s.modKnot k f).full = s.full ∧
    (s.modKnot k f).windows = s.windows ∧ (s.modKnot k f).arrived = s.arrived ∧ (s.modKnot k f).rings = s.rings ∧
    (s.modKnot k f).busyAt = s.busyAt ∧ (s.modKnot k f).heldSince = s.heldSince ∧ (s.modKnot k f).items = s.items ∧
    (s.modKnot k f).lanes = s.lanes ∧ (s.modKnot k f).sel = s.sel ∧ (s.modKnot k f).loomKnots = s.loomKnots ∧
    (s.modKnot k f).knotMsgs = s.knotMsgs ∧ (s.modKnot k f).patterns = s.patterns ∧ (s.modKnot k f).looms = s.looms ∧
    (s.modKnot k f).bobbins = s.bobbins ∧ (s.modKnot k f).ledgers = s.ledgers ∧ (s.modKnot k f).scrubs = s.scrubs ∧
    (s.modKnot k f).caches = s.caches ∧ (s.modKnot k f).streams = s.streams ∧ (s.modKnot k f).selvs = s.selvs ∧
    (s.modKnot k f).progs = s.progs ∧ (s.modKnot k f).slvCtl = s.slvCtl ∧ (s.modKnot k f).flights = s.flights ∧
    (s.modKnot k f).xprCoord = s.xprCoord ∧ (s.modKnot k f).xprHeld = s.xprHeld ∧ (s.modKnot k f).colls = s.colls ∧
    (s.modKnot k f).openings = s.openings ∧ (s.modKnot k f).stale = s.stale ∧ (s.modKnot k f).transits = s.transits ∧
    (s.modKnot k f).rxs = s.rxs ∧ (s.modKnot k f).txs = s.txs := by
  and_intros <;> rfl

/-- `modLoom` leaves every field but `looms`. -/
@[simp] theorem State.modLoom_fields (s : State) (h l : Nat) (f : Loom → Loom) :
    (s.modLoom h l f).pending = s.pending ∧ (s.modLoom h l f).free = s.free ∧ (s.modLoom h l f).out = s.out ∧
    (s.modLoom h l f).part = s.part ∧ (s.modLoom h l f).boot = s.boot ∧ (s.modLoom h l f).newel = s.newel ∧
    (s.modLoom h l f).power = s.power ∧ (s.modLoom h l f).sec = s.sec ∧ (s.modLoom h l f).hif = s.hif ∧ (s.modLoom h l f).mod = s.mod ∧
    (s.modLoom h l f).pages = s.pages ∧ (s.modLoom h l f).counters = s.counters ∧ (s.modLoom h l f).latch = s.latch ∧
    (s.modLoom h l f).lowHalf = s.lowHalf ∧ (s.modLoom h l f).halls = s.halls ∧ (s.modLoom h l f).mem = s.mem ∧
    (s.modLoom h l f).poison = s.poison ∧ (s.modLoom h l f).corrected = s.corrected ∧ (s.modLoom h l f).full = s.full ∧
    (s.modLoom h l f).windows = s.windows ∧ (s.modLoom h l f).arrived = s.arrived ∧ (s.modLoom h l f).rings = s.rings ∧
    (s.modLoom h l f).busyAt = s.busyAt ∧ (s.modLoom h l f).heldSince = s.heldSince ∧ (s.modLoom h l f).items = s.items ∧
    (s.modLoom h l f).lanes = s.lanes ∧ (s.modLoom h l f).sel = s.sel ∧ (s.modLoom h l f).knots = s.knots ∧
    (s.modLoom h l f).loomKnots = s.loomKnots ∧ (s.modLoom h l f).knotMsgs = s.knotMsgs ∧ (s.modLoom h l f).patterns = s.patterns ∧
    (s.modLoom h l f).bobbins = s.bobbins ∧ (s.modLoom h l f).ledgers = s.ledgers ∧ (s.modLoom h l f).scrubs = s.scrubs ∧
    (s.modLoom h l f).caches = s.caches ∧ (s.modLoom h l f).streams = s.streams ∧ (s.modLoom h l f).selvs = s.selvs ∧
    (s.modLoom h l f).progs = s.progs ∧ (s.modLoom h l f).slvCtl = s.slvCtl ∧ (s.modLoom h l f).flights = s.flights ∧
    (s.modLoom h l f).xprCoord = s.xprCoord ∧ (s.modLoom h l f).xprHeld = s.xprHeld ∧ (s.modLoom h l f).colls = s.colls ∧
    (s.modLoom h l f).openings = s.openings ∧ (s.modLoom h l f).stale = s.stale ∧ (s.modLoom h l f).transits = s.transits ∧
    (s.modLoom h l f).rxs = s.rxs ∧ (s.modLoom h l f).txs = s.txs := by
  and_intros <;> rfl

/-- `modBobbin` leaves every field but `bobbins`. -/
@[simp] theorem State.modBobbin_fields (s : State) (h l : Nat) (f : Bobbin → Bobbin) :
    (s.modBobbin h l f).pending = s.pending ∧ (s.modBobbin h l f).free = s.free ∧ (s.modBobbin h l f).out = s.out ∧
    (s.modBobbin h l f).part = s.part ∧ (s.modBobbin h l f).boot = s.boot ∧ (s.modBobbin h l f).newel = s.newel ∧
    (s.modBobbin h l f).power = s.power ∧ (s.modBobbin h l f).sec = s.sec ∧ (s.modBobbin h l f).hif = s.hif ∧
    (s.modBobbin h l f).mod = s.mod ∧ (s.modBobbin h l f).pages = s.pages ∧ (s.modBobbin h l f).counters = s.counters ∧
    (s.modBobbin h l f).latch = s.latch ∧ (s.modBobbin h l f).lowHalf = s.lowHalf ∧ (s.modBobbin h l f).halls = s.halls ∧
    (s.modBobbin h l f).mem = s.mem ∧ (s.modBobbin h l f).poison = s.poison ∧ (s.modBobbin h l f).corrected = s.corrected ∧
    (s.modBobbin h l f).full = s.full ∧ (s.modBobbin h l f).windows = s.windows ∧ (s.modBobbin h l f).arrived = s.arrived ∧
    (s.modBobbin h l f).rings = s.rings ∧ (s.modBobbin h l f).busyAt = s.busyAt ∧ (s.modBobbin h l f).heldSince = s.heldSince ∧
    (s.modBobbin h l f).items = s.items ∧ (s.modBobbin h l f).lanes = s.lanes ∧ (s.modBobbin h l f).sel = s.sel ∧
    (s.modBobbin h l f).knots = s.knots ∧ (s.modBobbin h l f).loomKnots = s.loomKnots ∧ (s.modBobbin h l f).knotMsgs = s.knotMsgs ∧
    (s.modBobbin h l f).patterns = s.patterns ∧ (s.modBobbin h l f).looms = s.looms ∧ (s.modBobbin h l f).ledgers = s.ledgers ∧
    (s.modBobbin h l f).scrubs = s.scrubs ∧ (s.modBobbin h l f).caches = s.caches ∧ (s.modBobbin h l f).streams = s.streams ∧
    (s.modBobbin h l f).selvs = s.selvs ∧ (s.modBobbin h l f).progs = s.progs ∧ (s.modBobbin h l f).slvCtl = s.slvCtl ∧
    (s.modBobbin h l f).flights = s.flights ∧ (s.modBobbin h l f).xprCoord = s.xprCoord ∧ (s.modBobbin h l f).xprHeld = s.xprHeld ∧
    (s.modBobbin h l f).colls = s.colls ∧ (s.modBobbin h l f).openings = s.openings ∧ (s.modBobbin h l f).stale = s.stale ∧
    (s.modBobbin h l f).transits = s.transits ∧ (s.modBobbin h l f).rxs = s.rxs ∧ (s.modBobbin h l f).txs = s.txs := by
  and_intros <;> rfl

/-- `modLedger` leaves every field but `ledgers`. -/
@[simp] theorem State.modLedger_fields (s : State) (h : Nat) (f : Ledger → Ledger) :
    (s.modLedger h f).pending = s.pending ∧ (s.modLedger h f).free = s.free ∧ (s.modLedger h f).out = s.out ∧
    (s.modLedger h f).part = s.part ∧ (s.modLedger h f).boot = s.boot ∧ (s.modLedger h f).newel = s.newel ∧
    (s.modLedger h f).power = s.power ∧ (s.modLedger h f).sec = s.sec ∧ (s.modLedger h f).hif = s.hif ∧ (s.modLedger h f).mod = s.mod ∧
    (s.modLedger h f).pages = s.pages ∧ (s.modLedger h f).counters = s.counters ∧ (s.modLedger h f).latch = s.latch ∧
    (s.modLedger h f).lowHalf = s.lowHalf ∧ (s.modLedger h f).halls = s.halls ∧ (s.modLedger h f).mem = s.mem ∧
    (s.modLedger h f).poison = s.poison ∧ (s.modLedger h f).corrected = s.corrected ∧ (s.modLedger h f).full = s.full ∧
    (s.modLedger h f).windows = s.windows ∧ (s.modLedger h f).arrived = s.arrived ∧ (s.modLedger h f).rings = s.rings ∧
    (s.modLedger h f).busyAt = s.busyAt ∧ (s.modLedger h f).heldSince = s.heldSince ∧ (s.modLedger h f).items = s.items ∧
    (s.modLedger h f).lanes = s.lanes ∧ (s.modLedger h f).sel = s.sel ∧ (s.modLedger h f).knots = s.knots ∧
    (s.modLedger h f).loomKnots = s.loomKnots ∧ (s.modLedger h f).knotMsgs = s.knotMsgs ∧ (s.modLedger h f).patterns = s.patterns ∧
    (s.modLedger h f).looms = s.looms ∧ (s.modLedger h f).bobbins = s.bobbins ∧ (s.modLedger h f).scrubs = s.scrubs ∧
    (s.modLedger h f).caches = s.caches ∧ (s.modLedger h f).streams = s.streams ∧ (s.modLedger h f).selvs = s.selvs ∧
    (s.modLedger h f).progs = s.progs ∧ (s.modLedger h f).slvCtl = s.slvCtl ∧ (s.modLedger h f).flights = s.flights ∧
    (s.modLedger h f).xprCoord = s.xprCoord ∧ (s.modLedger h f).xprHeld = s.xprHeld ∧ (s.modLedger h f).colls = s.colls ∧
    (s.modLedger h f).openings = s.openings ∧ (s.modLedger h f).stale = s.stale ∧ (s.modLedger h f).transits = s.transits ∧
    (s.modLedger h f).rxs = s.rxs ∧ (s.modLedger h f).txs = s.txs := by
  and_intros <;> rfl

/-- `setCache` leaves every field but `caches`. -/
@[simp] theorem State.setCache_fields (s : State) (h : Nat) (c : List CacheLine) :
    (s.setCache h c).pending = s.pending ∧ (s.setCache h c).free = s.free ∧ (s.setCache h c).out = s.out ∧ (s.setCache h c).part = s.part ∧
    (s.setCache h c).boot = s.boot ∧ (s.setCache h c).newel = s.newel ∧ (s.setCache h c).power = s.power ∧ (s.setCache h c).sec = s.sec ∧
    (s.setCache h c).hif = s.hif ∧ (s.setCache h c).mod = s.mod ∧ (s.setCache h c).pages = s.pages ∧
    (s.setCache h c).counters = s.counters ∧ (s.setCache h c).latch = s.latch ∧ (s.setCache h c).lowHalf = s.lowHalf ∧
    (s.setCache h c).halls = s.halls ∧ (s.setCache h c).mem = s.mem ∧ (s.setCache h c).poison = s.poison ∧
    (s.setCache h c).corrected = s.corrected ∧ (s.setCache h c).full = s.full ∧ (s.setCache h c).windows = s.windows ∧
    (s.setCache h c).arrived = s.arrived ∧ (s.setCache h c).rings = s.rings ∧ (s.setCache h c).busyAt = s.busyAt ∧
    (s.setCache h c).heldSince = s.heldSince ∧ (s.setCache h c).items = s.items ∧ (s.setCache h c).lanes = s.lanes ∧
    (s.setCache h c).sel = s.sel ∧ (s.setCache h c).knots = s.knots ∧ (s.setCache h c).loomKnots = s.loomKnots ∧
    (s.setCache h c).knotMsgs = s.knotMsgs ∧ (s.setCache h c).patterns = s.patterns ∧ (s.setCache h c).looms = s.looms ∧
    (s.setCache h c).bobbins = s.bobbins ∧ (s.setCache h c).ledgers = s.ledgers ∧ (s.setCache h c).scrubs = s.scrubs ∧
    (s.setCache h c).streams = s.streams ∧ (s.setCache h c).selvs = s.selvs ∧ (s.setCache h c).progs = s.progs ∧
    (s.setCache h c).slvCtl = s.slvCtl ∧ (s.setCache h c).flights = s.flights ∧ (s.setCache h c).xprCoord = s.xprCoord ∧
    (s.setCache h c).xprHeld = s.xprHeld ∧ (s.setCache h c).colls = s.colls ∧ (s.setCache h c).openings = s.openings ∧
    (s.setCache h c).stale = s.stale ∧ (s.setCache h c).transits = s.transits ∧ (s.setCache h c).rxs = s.rxs ∧
    (s.setCache h c).txs = s.txs := by
  and_intros <;> rfl

/-- `modStream` leaves every field but `streams`. -/
@[simp] theorem State.modStream_fields (s : State) (h d : Nat) (f : Stream → Stream) :
    (s.modStream h d f).pending = s.pending ∧ (s.modStream h d f).free = s.free ∧ (s.modStream h d f).out = s.out ∧
    (s.modStream h d f).part = s.part ∧ (s.modStream h d f).boot = s.boot ∧ (s.modStream h d f).newel = s.newel ∧
    (s.modStream h d f).power = s.power ∧ (s.modStream h d f).sec = s.sec ∧ (s.modStream h d f).hif = s.hif ∧
    (s.modStream h d f).mod = s.mod ∧ (s.modStream h d f).pages = s.pages ∧ (s.modStream h d f).counters = s.counters ∧
    (s.modStream h d f).latch = s.latch ∧ (s.modStream h d f).lowHalf = s.lowHalf ∧ (s.modStream h d f).halls = s.halls ∧
    (s.modStream h d f).mem = s.mem ∧ (s.modStream h d f).poison = s.poison ∧ (s.modStream h d f).corrected = s.corrected ∧
    (s.modStream h d f).full = s.full ∧ (s.modStream h d f).windows = s.windows ∧ (s.modStream h d f).arrived = s.arrived ∧
    (s.modStream h d f).rings = s.rings ∧ (s.modStream h d f).busyAt = s.busyAt ∧ (s.modStream h d f).heldSince = s.heldSince ∧
    (s.modStream h d f).items = s.items ∧ (s.modStream h d f).lanes = s.lanes ∧ (s.modStream h d f).sel = s.sel ∧
    (s.modStream h d f).knots = s.knots ∧ (s.modStream h d f).loomKnots = s.loomKnots ∧ (s.modStream h d f).knotMsgs = s.knotMsgs ∧
    (s.modStream h d f).patterns = s.patterns ∧ (s.modStream h d f).looms = s.looms ∧ (s.modStream h d f).bobbins = s.bobbins ∧
    (s.modStream h d f).ledgers = s.ledgers ∧ (s.modStream h d f).scrubs = s.scrubs ∧ (s.modStream h d f).caches = s.caches ∧
    (s.modStream h d f).selvs = s.selvs ∧ (s.modStream h d f).progs = s.progs ∧ (s.modStream h d f).slvCtl = s.slvCtl ∧
    (s.modStream h d f).flights = s.flights ∧ (s.modStream h d f).xprCoord = s.xprCoord ∧ (s.modStream h d f).xprHeld = s.xprHeld ∧
    (s.modStream h d f).colls = s.colls ∧ (s.modStream h d f).openings = s.openings ∧ (s.modStream h d f).stale = s.stale ∧
    (s.modStream h d f).transits = s.transits ∧ (s.modStream h d f).rxs = s.rxs ∧ (s.modStream h d f).txs = s.txs := by
  and_intros <;> rfl

/-- `modSelv` leaves every field but `selvs`. -/
@[simp] theorem State.modSelv_fields (s : State) (p : Nat) (f : Selvedge → Selvedge) :
    (s.modSelv p f).pending = s.pending ∧ (s.modSelv p f).free = s.free ∧ (s.modSelv p f).out = s.out ∧ (s.modSelv p f).part = s.part ∧
    (s.modSelv p f).boot = s.boot ∧ (s.modSelv p f).newel = s.newel ∧ (s.modSelv p f).power = s.power ∧ (s.modSelv p f).sec = s.sec ∧
    (s.modSelv p f).hif = s.hif ∧ (s.modSelv p f).mod = s.mod ∧ (s.modSelv p f).pages = s.pages ∧ (s.modSelv p f).counters = s.counters ∧
    (s.modSelv p f).latch = s.latch ∧ (s.modSelv p f).lowHalf = s.lowHalf ∧ (s.modSelv p f).halls = s.halls ∧ (s.modSelv p f).mem = s.mem ∧
    (s.modSelv p f).poison = s.poison ∧ (s.modSelv p f).corrected = s.corrected ∧ (s.modSelv p f).full = s.full ∧
    (s.modSelv p f).windows = s.windows ∧ (s.modSelv p f).arrived = s.arrived ∧ (s.modSelv p f).rings = s.rings ∧
    (s.modSelv p f).busyAt = s.busyAt ∧ (s.modSelv p f).heldSince = s.heldSince ∧ (s.modSelv p f).items = s.items ∧
    (s.modSelv p f).lanes = s.lanes ∧ (s.modSelv p f).sel = s.sel ∧ (s.modSelv p f).knots = s.knots ∧
    (s.modSelv p f).loomKnots = s.loomKnots ∧ (s.modSelv p f).knotMsgs = s.knotMsgs ∧ (s.modSelv p f).patterns = s.patterns ∧
    (s.modSelv p f).looms = s.looms ∧ (s.modSelv p f).bobbins = s.bobbins ∧ (s.modSelv p f).ledgers = s.ledgers ∧
    (s.modSelv p f).scrubs = s.scrubs ∧ (s.modSelv p f).caches = s.caches ∧ (s.modSelv p f).streams = s.streams ∧
    (s.modSelv p f).progs = s.progs ∧ (s.modSelv p f).slvCtl = s.slvCtl ∧ (s.modSelv p f).flights = s.flights ∧
    (s.modSelv p f).xprCoord = s.xprCoord ∧ (s.modSelv p f).xprHeld = s.xprHeld ∧ (s.modSelv p f).colls = s.colls ∧
    (s.modSelv p f).openings = s.openings ∧ (s.modSelv p f).stale = s.stale ∧ (s.modSelv p f).transits = s.transits ∧
    (s.modSelv p f).rxs = s.rxs ∧ (s.modSelv p f).txs = s.txs := by
  and_intros <;> rfl

/-- `modFlight` leaves every field but `flights`. -/
@[simp] theorem State.modFlight_fields (s : State) (p : Nat) (f : Flight → Flight) :
    (s.modFlight p f).pending = s.pending ∧ (s.modFlight p f).free = s.free ∧ (s.modFlight p f).out = s.out ∧
    (s.modFlight p f).part = s.part ∧ (s.modFlight p f).boot = s.boot ∧ (s.modFlight p f).newel = s.newel ∧
    (s.modFlight p f).power = s.power ∧ (s.modFlight p f).sec = s.sec ∧ (s.modFlight p f).hif = s.hif ∧ (s.modFlight p f).mod = s.mod ∧
    (s.modFlight p f).pages = s.pages ∧ (s.modFlight p f).counters = s.counters ∧ (s.modFlight p f).latch = s.latch ∧
    (s.modFlight p f).lowHalf = s.lowHalf ∧ (s.modFlight p f).halls = s.halls ∧ (s.modFlight p f).mem = s.mem ∧
    (s.modFlight p f).poison = s.poison ∧ (s.modFlight p f).corrected = s.corrected ∧ (s.modFlight p f).full = s.full ∧
    (s.modFlight p f).windows = s.windows ∧ (s.modFlight p f).arrived = s.arrived ∧ (s.modFlight p f).rings = s.rings ∧
    (s.modFlight p f).busyAt = s.busyAt ∧ (s.modFlight p f).heldSince = s.heldSince ∧ (s.modFlight p f).items = s.items ∧
    (s.modFlight p f).lanes = s.lanes ∧ (s.modFlight p f).sel = s.sel ∧ (s.modFlight p f).knots = s.knots ∧
    (s.modFlight p f).loomKnots = s.loomKnots ∧ (s.modFlight p f).knotMsgs = s.knotMsgs ∧ (s.modFlight p f).patterns = s.patterns ∧
    (s.modFlight p f).looms = s.looms ∧ (s.modFlight p f).bobbins = s.bobbins ∧ (s.modFlight p f).ledgers = s.ledgers ∧
    (s.modFlight p f).scrubs = s.scrubs ∧ (s.modFlight p f).caches = s.caches ∧ (s.modFlight p f).streams = s.streams ∧
    (s.modFlight p f).selvs = s.selvs ∧ (s.modFlight p f).progs = s.progs ∧ (s.modFlight p f).slvCtl = s.slvCtl ∧
    (s.modFlight p f).xprCoord = s.xprCoord ∧ (s.modFlight p f).xprHeld = s.xprHeld ∧ (s.modFlight p f).colls = s.colls ∧
    (s.modFlight p f).openings = s.openings ∧ (s.modFlight p f).stale = s.stale ∧ (s.modFlight p f).transits = s.transits ∧
    (s.modFlight p f).rxs = s.rxs ∧ (s.modFlight p f).txs = s.txs := by
  and_intros <;> rfl

/-- `setWindow` leaves every field but `windows`. -/
@[simp] theorem State.setWindow_fields (s : State) (k : Nat) (w : Block512) :
    (s.setWindow k w).pending = s.pending ∧ (s.setWindow k w).free = s.free ∧ (s.setWindow k w).out = s.out ∧
    (s.setWindow k w).part = s.part ∧ (s.setWindow k w).boot = s.boot ∧ (s.setWindow k w).newel = s.newel ∧
    (s.setWindow k w).power = s.power ∧ (s.setWindow k w).sec = s.sec ∧ (s.setWindow k w).hif = s.hif ∧ (s.setWindow k w).mod = s.mod ∧
    (s.setWindow k w).pages = s.pages ∧ (s.setWindow k w).counters = s.counters ∧ (s.setWindow k w).latch = s.latch ∧
    (s.setWindow k w).lowHalf = s.lowHalf ∧ (s.setWindow k w).halls = s.halls ∧ (s.setWindow k w).mem = s.mem ∧
    (s.setWindow k w).poison = s.poison ∧ (s.setWindow k w).corrected = s.corrected ∧ (s.setWindow k w).full = s.full ∧
    (s.setWindow k w).arrived = s.arrived ∧ (s.setWindow k w).rings = s.rings ∧ (s.setWindow k w).busyAt = s.busyAt ∧
    (s.setWindow k w).heldSince = s.heldSince ∧ (s.setWindow k w).items = s.items ∧ (s.setWindow k w).lanes = s.lanes ∧
    (s.setWindow k w).sel = s.sel ∧ (s.setWindow k w).knots = s.knots ∧ (s.setWindow k w).loomKnots = s.loomKnots ∧
    (s.setWindow k w).knotMsgs = s.knotMsgs ∧ (s.setWindow k w).patterns = s.patterns ∧ (s.setWindow k w).looms = s.looms ∧
    (s.setWindow k w).bobbins = s.bobbins ∧ (s.setWindow k w).ledgers = s.ledgers ∧ (s.setWindow k w).scrubs = s.scrubs ∧
    (s.setWindow k w).caches = s.caches ∧ (s.setWindow k w).streams = s.streams ∧ (s.setWindow k w).selvs = s.selvs ∧
    (s.setWindow k w).progs = s.progs ∧ (s.setWindow k w).slvCtl = s.slvCtl ∧ (s.setWindow k w).flights = s.flights ∧
    (s.setWindow k w).xprCoord = s.xprCoord ∧ (s.setWindow k w).xprHeld = s.xprHeld ∧ (s.setWindow k w).colls = s.colls ∧
    (s.setWindow k w).openings = s.openings ∧ (s.setWindow k w).stale = s.stale ∧ (s.setWindow k w).transits = s.transits ∧
    (s.setWindow k w).rxs = s.rxs ∧ (s.setWindow k w).txs = s.txs := by
  and_intros <;> rfl

/-- `setArrival` leaves every field but `arrived`. -/
@[simp] theorem State.setArrival_fields (s : State) (k n : Nat) :
    (s.setArrival k n).pending = s.pending ∧ (s.setArrival k n).free = s.free ∧ (s.setArrival k n).out = s.out ∧
    (s.setArrival k n).part = s.part ∧ (s.setArrival k n).boot = s.boot ∧ (s.setArrival k n).newel = s.newel ∧
    (s.setArrival k n).power = s.power ∧ (s.setArrival k n).sec = s.sec ∧ (s.setArrival k n).hif = s.hif ∧ (s.setArrival k n).mod = s.mod ∧
    (s.setArrival k n).pages = s.pages ∧ (s.setArrival k n).counters = s.counters ∧ (s.setArrival k n).latch = s.latch ∧
    (s.setArrival k n).lowHalf = s.lowHalf ∧ (s.setArrival k n).halls = s.halls ∧ (s.setArrival k n).mem = s.mem ∧
    (s.setArrival k n).poison = s.poison ∧ (s.setArrival k n).corrected = s.corrected ∧ (s.setArrival k n).full = s.full ∧
    (s.setArrival k n).windows = s.windows ∧ (s.setArrival k n).rings = s.rings ∧ (s.setArrival k n).busyAt = s.busyAt ∧
    (s.setArrival k n).heldSince = s.heldSince ∧ (s.setArrival k n).items = s.items ∧ (s.setArrival k n).lanes = s.lanes ∧
    (s.setArrival k n).sel = s.sel ∧ (s.setArrival k n).knots = s.knots ∧ (s.setArrival k n).loomKnots = s.loomKnots ∧
    (s.setArrival k n).knotMsgs = s.knotMsgs ∧ (s.setArrival k n).patterns = s.patterns ∧ (s.setArrival k n).looms = s.looms ∧
    (s.setArrival k n).bobbins = s.bobbins ∧ (s.setArrival k n).ledgers = s.ledgers ∧ (s.setArrival k n).scrubs = s.scrubs ∧
    (s.setArrival k n).caches = s.caches ∧ (s.setArrival k n).streams = s.streams ∧ (s.setArrival k n).selvs = s.selvs ∧
    (s.setArrival k n).progs = s.progs ∧ (s.setArrival k n).slvCtl = s.slvCtl ∧ (s.setArrival k n).flights = s.flights ∧
    (s.setArrival k n).xprCoord = s.xprCoord ∧ (s.setArrival k n).xprHeld = s.xprHeld ∧ (s.setArrival k n).colls = s.colls ∧
    (s.setArrival k n).openings = s.openings ∧ (s.setArrival k n).stale = s.stale ∧ (s.setArrival k n).transits = s.transits ∧
    (s.setArrival k n).rxs = s.rxs ∧ (s.setArrival k n).txs = s.txs := by
  and_intros <;> rfl

/-- `setLane` leaves every field but `lanes`. -/
@[simp] theorem State.setLane_fields (s : State) (k : Nat) (ps : List Piece) :
    (s.setLane k ps).pending = s.pending ∧ (s.setLane k ps).free = s.free ∧ (s.setLane k ps).out = s.out ∧ (s.setLane k ps).part = s.part ∧
    (s.setLane k ps).boot = s.boot ∧ (s.setLane k ps).newel = s.newel ∧ (s.setLane k ps).power = s.power ∧ (s.setLane k ps).sec = s.sec ∧
    (s.setLane k ps).hif = s.hif ∧ (s.setLane k ps).mod = s.mod ∧ (s.setLane k ps).pages = s.pages ∧
    (s.setLane k ps).counters = s.counters ∧ (s.setLane k ps).latch = s.latch ∧ (s.setLane k ps).lowHalf = s.lowHalf ∧
    (s.setLane k ps).halls = s.halls ∧ (s.setLane k ps).mem = s.mem ∧ (s.setLane k ps).poison = s.poison ∧
    (s.setLane k ps).corrected = s.corrected ∧ (s.setLane k ps).full = s.full ∧ (s.setLane k ps).windows = s.windows ∧
    (s.setLane k ps).arrived = s.arrived ∧ (s.setLane k ps).rings = s.rings ∧ (s.setLane k ps).busyAt = s.busyAt ∧
    (s.setLane k ps).heldSince = s.heldSince ∧ (s.setLane k ps).items = s.items ∧ (s.setLane k ps).sel = s.sel ∧
    (s.setLane k ps).knots = s.knots ∧ (s.setLane k ps).loomKnots = s.loomKnots ∧ (s.setLane k ps).knotMsgs = s.knotMsgs ∧
    (s.setLane k ps).patterns = s.patterns ∧ (s.setLane k ps).looms = s.looms ∧ (s.setLane k ps).bobbins = s.bobbins ∧
    (s.setLane k ps).ledgers = s.ledgers ∧ (s.setLane k ps).scrubs = s.scrubs ∧ (s.setLane k ps).caches = s.caches ∧
    (s.setLane k ps).streams = s.streams ∧ (s.setLane k ps).selvs = s.selvs ∧ (s.setLane k ps).progs = s.progs ∧
    (s.setLane k ps).slvCtl = s.slvCtl ∧ (s.setLane k ps).flights = s.flights ∧ (s.setLane k ps).xprCoord = s.xprCoord ∧
    (s.setLane k ps).xprHeld = s.xprHeld ∧ (s.setLane k ps).colls = s.colls ∧ (s.setLane k ps).openings = s.openings ∧
    (s.setLane k ps).stale = s.stale ∧ (s.setLane k ps).transits = s.transits ∧ (s.setLane k ps).rxs = s.rxs ∧
    (s.setLane k ps).txs = s.txs := by
  and_intros <;> rfl

/-- `setSelector` leaves every field but `sel`. -/
@[simp] theorem State.setSelector_fields (s : State) (k : Nat) (v : Selector) :
    (s.setSelector k v).pending = s.pending ∧ (s.setSelector k v).free = s.free ∧ (s.setSelector k v).out = s.out ∧
    (s.setSelector k v).part = s.part ∧ (s.setSelector k v).boot = s.boot ∧ (s.setSelector k v).newel = s.newel ∧
    (s.setSelector k v).power = s.power ∧ (s.setSelector k v).sec = s.sec ∧ (s.setSelector k v).hif = s.hif ∧
    (s.setSelector k v).mod = s.mod ∧ (s.setSelector k v).pages = s.pages ∧ (s.setSelector k v).counters = s.counters ∧
    (s.setSelector k v).latch = s.latch ∧ (s.setSelector k v).lowHalf = s.lowHalf ∧ (s.setSelector k v).halls = s.halls ∧
    (s.setSelector k v).mem = s.mem ∧ (s.setSelector k v).poison = s.poison ∧ (s.setSelector k v).corrected = s.corrected ∧
    (s.setSelector k v).full = s.full ∧ (s.setSelector k v).windows = s.windows ∧ (s.setSelector k v).arrived = s.arrived ∧
    (s.setSelector k v).rings = s.rings ∧ (s.setSelector k v).busyAt = s.busyAt ∧ (s.setSelector k v).heldSince = s.heldSince ∧
    (s.setSelector k v).items = s.items ∧ (s.setSelector k v).lanes = s.lanes ∧ (s.setSelector k v).knots = s.knots ∧
    (s.setSelector k v).loomKnots = s.loomKnots ∧ (s.setSelector k v).knotMsgs = s.knotMsgs ∧ (s.setSelector k v).patterns = s.patterns ∧
    (s.setSelector k v).looms = s.looms ∧ (s.setSelector k v).bobbins = s.bobbins ∧ (s.setSelector k v).ledgers = s.ledgers ∧
    (s.setSelector k v).scrubs = s.scrubs ∧ (s.setSelector k v).caches = s.caches ∧ (s.setSelector k v).streams = s.streams ∧
    (s.setSelector k v).selvs = s.selvs ∧ (s.setSelector k v).progs = s.progs ∧ (s.setSelector k v).slvCtl = s.slvCtl ∧
    (s.setSelector k v).flights = s.flights ∧ (s.setSelector k v).xprCoord = s.xprCoord ∧ (s.setSelector k v).xprHeld = s.xprHeld ∧
    (s.setSelector k v).colls = s.colls ∧ (s.setSelector k v).openings = s.openings ∧ (s.setSelector k v).stale = s.stale ∧
    (s.setSelector k v).transits = s.transits ∧ (s.setSelector k v).rxs = s.rxs ∧ (s.setSelector k v).txs = s.txs := by
  and_intros <;> rfl

/-- `setRoutine` leaves every field but `patterns`. -/
@[simp] theorem State.setRoutine_fields (s : State) (h i : Nat) (r : Option Routine) :
    (s.setRoutine h i r).pending = s.pending ∧ (s.setRoutine h i r).free = s.free ∧ (s.setRoutine h i r).out = s.out ∧
    (s.setRoutine h i r).part = s.part ∧ (s.setRoutine h i r).boot = s.boot ∧ (s.setRoutine h i r).newel = s.newel ∧
    (s.setRoutine h i r).power = s.power ∧ (s.setRoutine h i r).sec = s.sec ∧ (s.setRoutine h i r).hif = s.hif ∧
    (s.setRoutine h i r).mod = s.mod ∧ (s.setRoutine h i r).pages = s.pages ∧ (s.setRoutine h i r).counters = s.counters ∧
    (s.setRoutine h i r).latch = s.latch ∧ (s.setRoutine h i r).lowHalf = s.lowHalf ∧ (s.setRoutine h i r).halls = s.halls ∧
    (s.setRoutine h i r).mem = s.mem ∧ (s.setRoutine h i r).poison = s.poison ∧ (s.setRoutine h i r).corrected = s.corrected ∧
    (s.setRoutine h i r).full = s.full ∧ (s.setRoutine h i r).windows = s.windows ∧ (s.setRoutine h i r).arrived = s.arrived ∧
    (s.setRoutine h i r).rings = s.rings ∧ (s.setRoutine h i r).busyAt = s.busyAt ∧ (s.setRoutine h i r).heldSince = s.heldSince ∧
    (s.setRoutine h i r).items = s.items ∧ (s.setRoutine h i r).lanes = s.lanes ∧ (s.setRoutine h i r).sel = s.sel ∧
    (s.setRoutine h i r).knots = s.knots ∧ (s.setRoutine h i r).loomKnots = s.loomKnots ∧ (s.setRoutine h i r).knotMsgs = s.knotMsgs ∧
    (s.setRoutine h i r).looms = s.looms ∧ (s.setRoutine h i r).bobbins = s.bobbins ∧ (s.setRoutine h i r).ledgers = s.ledgers ∧
    (s.setRoutine h i r).scrubs = s.scrubs ∧ (s.setRoutine h i r).caches = s.caches ∧ (s.setRoutine h i r).streams = s.streams ∧
    (s.setRoutine h i r).selvs = s.selvs ∧ (s.setRoutine h i r).progs = s.progs ∧ (s.setRoutine h i r).slvCtl = s.slvCtl ∧
    (s.setRoutine h i r).flights = s.flights ∧ (s.setRoutine h i r).xprCoord = s.xprCoord ∧ (s.setRoutine h i r).xprHeld = s.xprHeld ∧
    (s.setRoutine h i r).colls = s.colls ∧ (s.setRoutine h i r).openings = s.openings ∧ (s.setRoutine h i r).stale = s.stale ∧
    (s.setRoutine h i r).transits = s.transits ∧ (s.setRoutine h i r).rxs = s.rxs ∧ (s.setRoutine h i r).txs = s.txs := by
  and_intros <;> rfl

/-- `modItem` leaves every field but `items`. -/
@[simp] theorem State.modItem_fields (s : State) (i : ItemId) (f : Item → Item) :
    (s.modItem i f).pending = s.pending ∧ (s.modItem i f).free = s.free ∧ (s.modItem i f).out = s.out ∧ (s.modItem i f).part = s.part ∧
    (s.modItem i f).boot = s.boot ∧ (s.modItem i f).newel = s.newel ∧ (s.modItem i f).power = s.power ∧ (s.modItem i f).sec = s.sec ∧
    (s.modItem i f).hif = s.hif ∧ (s.modItem i f).mod = s.mod ∧ (s.modItem i f).pages = s.pages ∧ (s.modItem i f).counters = s.counters ∧
    (s.modItem i f).latch = s.latch ∧ (s.modItem i f).lowHalf = s.lowHalf ∧ (s.modItem i f).halls = s.halls ∧ (s.modItem i f).mem = s.mem ∧
    (s.modItem i f).poison = s.poison ∧ (s.modItem i f).corrected = s.corrected ∧ (s.modItem i f).full = s.full ∧
    (s.modItem i f).windows = s.windows ∧ (s.modItem i f).arrived = s.arrived ∧ (s.modItem i f).rings = s.rings ∧
    (s.modItem i f).busyAt = s.busyAt ∧ (s.modItem i f).heldSince = s.heldSince ∧ (s.modItem i f).lanes = s.lanes ∧
    (s.modItem i f).sel = s.sel ∧ (s.modItem i f).knots = s.knots ∧ (s.modItem i f).loomKnots = s.loomKnots ∧
    (s.modItem i f).knotMsgs = s.knotMsgs ∧ (s.modItem i f).patterns = s.patterns ∧ (s.modItem i f).looms = s.looms ∧
    (s.modItem i f).bobbins = s.bobbins ∧ (s.modItem i f).ledgers = s.ledgers ∧ (s.modItem i f).scrubs = s.scrubs ∧
    (s.modItem i f).caches = s.caches ∧ (s.modItem i f).streams = s.streams ∧ (s.modItem i f).selvs = s.selvs ∧
    (s.modItem i f).progs = s.progs ∧ (s.modItem i f).slvCtl = s.slvCtl ∧ (s.modItem i f).flights = s.flights ∧
    (s.modItem i f).xprCoord = s.xprCoord ∧ (s.modItem i f).xprHeld = s.xprHeld ∧ (s.modItem i f).colls = s.colls ∧
    (s.modItem i f).openings = s.openings ∧ (s.modItem i f).stale = s.stale ∧ (s.modItem i f).transits = s.transits ∧
    (s.modItem i f).rxs = s.rxs ∧ (s.modItem i f).txs = s.txs := by
  and_intros <;> rfl

/-- `unpoison` leaves every field but `poison`. -/
@[simp] theorem State.unpoison_fields (s : State) (a n : Nat) :
    (s.unpoison a n).pending = s.pending ∧ (s.unpoison a n).free = s.free ∧ (s.unpoison a n).out = s.out ∧ (s.unpoison a n).part = s.part ∧
    (s.unpoison a n).boot = s.boot ∧ (s.unpoison a n).newel = s.newel ∧ (s.unpoison a n).power = s.power ∧ (s.unpoison a n).sec = s.sec ∧
    (s.unpoison a n).hif = s.hif ∧ (s.unpoison a n).mod = s.mod ∧ (s.unpoison a n).pages = s.pages ∧
    (s.unpoison a n).counters = s.counters ∧ (s.unpoison a n).latch = s.latch ∧ (s.unpoison a n).lowHalf = s.lowHalf ∧
    (s.unpoison a n).halls = s.halls ∧ (s.unpoison a n).mem = s.mem ∧ (s.unpoison a n).corrected = s.corrected ∧
    (s.unpoison a n).full = s.full ∧ (s.unpoison a n).windows = s.windows ∧ (s.unpoison a n).arrived = s.arrived ∧
    (s.unpoison a n).rings = s.rings ∧ (s.unpoison a n).busyAt = s.busyAt ∧ (s.unpoison a n).heldSince = s.heldSince ∧
    (s.unpoison a n).items = s.items ∧ (s.unpoison a n).lanes = s.lanes ∧ (s.unpoison a n).sel = s.sel ∧ (s.unpoison a n).knots = s.knots ∧
    (s.unpoison a n).loomKnots = s.loomKnots ∧ (s.unpoison a n).knotMsgs = s.knotMsgs ∧ (s.unpoison a n).patterns = s.patterns ∧
    (s.unpoison a n).looms = s.looms ∧ (s.unpoison a n).bobbins = s.bobbins ∧ (s.unpoison a n).ledgers = s.ledgers ∧
    (s.unpoison a n).scrubs = s.scrubs ∧ (s.unpoison a n).caches = s.caches ∧ (s.unpoison a n).streams = s.streams ∧
    (s.unpoison a n).selvs = s.selvs ∧ (s.unpoison a n).progs = s.progs ∧ (s.unpoison a n).slvCtl = s.slvCtl ∧
    (s.unpoison a n).flights = s.flights ∧ (s.unpoison a n).xprCoord = s.xprCoord ∧ (s.unpoison a n).xprHeld = s.xprHeld ∧
    (s.unpoison a n).colls = s.colls ∧ (s.unpoison a n).openings = s.openings ∧ (s.unpoison a n).stale = s.stale ∧
    (s.unpoison a n).transits = s.transits ∧ (s.unpoison a n).rxs = s.rxs ∧ (s.unpoison a n).txs = s.txs := by
  and_intros <;> rfl

/-- `addPoison` leaves every field but `poison`. -/
@[simp] theorem State.addPoison_fields (s : State) (w : Nat) :
    (s.addPoison w).pending = s.pending ∧ (s.addPoison w).free = s.free ∧ (s.addPoison w).out = s.out ∧ (s.addPoison w).part = s.part ∧
    (s.addPoison w).boot = s.boot ∧ (s.addPoison w).newel = s.newel ∧ (s.addPoison w).power = s.power ∧ (s.addPoison w).sec = s.sec ∧
    (s.addPoison w).hif = s.hif ∧ (s.addPoison w).mod = s.mod ∧ (s.addPoison w).pages = s.pages ∧ (s.addPoison w).counters = s.counters ∧
    (s.addPoison w).latch = s.latch ∧ (s.addPoison w).lowHalf = s.lowHalf ∧ (s.addPoison w).halls = s.halls ∧ (s.addPoison w).mem = s.mem ∧
    (s.addPoison w).corrected = s.corrected ∧ (s.addPoison w).full = s.full ∧ (s.addPoison w).windows = s.windows ∧
    (s.addPoison w).arrived = s.arrived ∧ (s.addPoison w).rings = s.rings ∧ (s.addPoison w).busyAt = s.busyAt ∧
    (s.addPoison w).heldSince = s.heldSince ∧ (s.addPoison w).items = s.items ∧ (s.addPoison w).lanes = s.lanes ∧
    (s.addPoison w).sel = s.sel ∧ (s.addPoison w).knots = s.knots ∧ (s.addPoison w).loomKnots = s.loomKnots ∧
    (s.addPoison w).knotMsgs = s.knotMsgs ∧ (s.addPoison w).patterns = s.patterns ∧ (s.addPoison w).looms = s.looms ∧
    (s.addPoison w).bobbins = s.bobbins ∧ (s.addPoison w).ledgers = s.ledgers ∧ (s.addPoison w).scrubs = s.scrubs ∧
    (s.addPoison w).caches = s.caches ∧ (s.addPoison w).streams = s.streams ∧ (s.addPoison w).selvs = s.selvs ∧
    (s.addPoison w).progs = s.progs ∧ (s.addPoison w).slvCtl = s.slvCtl ∧ (s.addPoison w).flights = s.flights ∧
    (s.addPoison w).xprCoord = s.xprCoord ∧ (s.addPoison w).xprHeld = s.xprHeld ∧ (s.addPoison w).colls = s.colls ∧
    (s.addPoison w).openings = s.openings ∧ (s.addPoison w).stale = s.stale ∧ (s.addPoison w).transits = s.transits ∧
    (s.addPoison w).rxs = s.rxs ∧ (s.addPoison w).txs = s.txs := by
  and_intros <;> rfl

/-- `markFull` leaves every field but `full`. -/
@[simp] theorem State.markFull_fields (s : State) (a n : Nat) :
    (s.markFull a n).pending = s.pending ∧ (s.markFull a n).free = s.free ∧ (s.markFull a n).out = s.out ∧ (s.markFull a n).part = s.part ∧
    (s.markFull a n).boot = s.boot ∧ (s.markFull a n).newel = s.newel ∧ (s.markFull a n).power = s.power ∧ (s.markFull a n).sec = s.sec ∧
    (s.markFull a n).hif = s.hif ∧ (s.markFull a n).mod = s.mod ∧ (s.markFull a n).pages = s.pages ∧
    (s.markFull a n).counters = s.counters ∧ (s.markFull a n).latch = s.latch ∧ (s.markFull a n).lowHalf = s.lowHalf ∧
    (s.markFull a n).halls = s.halls ∧ (s.markFull a n).mem = s.mem ∧ (s.markFull a n).poison = s.poison ∧
    (s.markFull a n).corrected = s.corrected ∧ (s.markFull a n).windows = s.windows ∧ (s.markFull a n).arrived = s.arrived ∧
    (s.markFull a n).rings = s.rings ∧ (s.markFull a n).busyAt = s.busyAt ∧ (s.markFull a n).heldSince = s.heldSince ∧
    (s.markFull a n).items = s.items ∧ (s.markFull a n).lanes = s.lanes ∧ (s.markFull a n).sel = s.sel ∧ (s.markFull a n).knots = s.knots ∧
    (s.markFull a n).loomKnots = s.loomKnots ∧ (s.markFull a n).knotMsgs = s.knotMsgs ∧ (s.markFull a n).patterns = s.patterns ∧
    (s.markFull a n).looms = s.looms ∧ (s.markFull a n).bobbins = s.bobbins ∧ (s.markFull a n).ledgers = s.ledgers ∧
    (s.markFull a n).scrubs = s.scrubs ∧ (s.markFull a n).caches = s.caches ∧ (s.markFull a n).streams = s.streams ∧
    (s.markFull a n).selvs = s.selvs ∧ (s.markFull a n).progs = s.progs ∧ (s.markFull a n).slvCtl = s.slvCtl ∧
    (s.markFull a n).flights = s.flights ∧ (s.markFull a n).xprCoord = s.xprCoord ∧ (s.markFull a n).xprHeld = s.xprHeld ∧
    (s.markFull a n).colls = s.colls ∧ (s.markFull a n).openings = s.openings ∧ (s.markFull a n).stale = s.stale ∧
    (s.markFull a n).transits = s.transits ∧ (s.markFull a n).rxs = s.rxs ∧ (s.markFull a n).txs = s.txs := by
  and_intros <;> rfl

/-- `markEmpty` leaves every field but `full`. -/
@[simp] theorem State.markEmpty_fields (s : State) (a n : Nat) :
    (s.markEmpty a n).pending = s.pending ∧ (s.markEmpty a n).free = s.free ∧ (s.markEmpty a n).out = s.out ∧
    (s.markEmpty a n).part = s.part ∧ (s.markEmpty a n).boot = s.boot ∧ (s.markEmpty a n).newel = s.newel ∧
    (s.markEmpty a n).power = s.power ∧ (s.markEmpty a n).sec = s.sec ∧ (s.markEmpty a n).hif = s.hif ∧ (s.markEmpty a n).mod = s.mod ∧
    (s.markEmpty a n).pages = s.pages ∧ (s.markEmpty a n).counters = s.counters ∧ (s.markEmpty a n).latch = s.latch ∧
    (s.markEmpty a n).lowHalf = s.lowHalf ∧ (s.markEmpty a n).halls = s.halls ∧ (s.markEmpty a n).mem = s.mem ∧
    (s.markEmpty a n).poison = s.poison ∧ (s.markEmpty a n).corrected = s.corrected ∧ (s.markEmpty a n).windows = s.windows ∧
    (s.markEmpty a n).arrived = s.arrived ∧ (s.markEmpty a n).rings = s.rings ∧ (s.markEmpty a n).busyAt = s.busyAt ∧
    (s.markEmpty a n).heldSince = s.heldSince ∧ (s.markEmpty a n).items = s.items ∧ (s.markEmpty a n).lanes = s.lanes ∧
    (s.markEmpty a n).sel = s.sel ∧ (s.markEmpty a n).knots = s.knots ∧ (s.markEmpty a n).loomKnots = s.loomKnots ∧
    (s.markEmpty a n).knotMsgs = s.knotMsgs ∧ (s.markEmpty a n).patterns = s.patterns ∧ (s.markEmpty a n).looms = s.looms ∧
    (s.markEmpty a n).bobbins = s.bobbins ∧ (s.markEmpty a n).ledgers = s.ledgers ∧ (s.markEmpty a n).scrubs = s.scrubs ∧
    (s.markEmpty a n).caches = s.caches ∧ (s.markEmpty a n).streams = s.streams ∧ (s.markEmpty a n).selvs = s.selvs ∧
    (s.markEmpty a n).progs = s.progs ∧ (s.markEmpty a n).slvCtl = s.slvCtl ∧ (s.markEmpty a n).flights = s.flights ∧
    (s.markEmpty a n).xprCoord = s.xprCoord ∧ (s.markEmpty a n).xprHeld = s.xprHeld ∧ (s.markEmpty a n).colls = s.colls ∧
    (s.markEmpty a n).openings = s.openings ∧ (s.markEmpty a n).stale = s.stale ∧ (s.markEmpty a n).transits = s.transits ∧
    (s.markEmpty a n).rxs = s.rxs ∧ (s.markEmpty a n).txs = s.txs := by
  and_intros <;> rfl

/-- `touch` leaves every field but `busyAt`. -/
@[simp] theorem State.touch_fields (s : State) (h : Nat) :
    (s.touch h).pending = s.pending ∧ (s.touch h).free = s.free ∧ (s.touch h).out = s.out ∧ (s.touch h).part = s.part ∧
    (s.touch h).boot = s.boot ∧ (s.touch h).newel = s.newel ∧ (s.touch h).power = s.power ∧ (s.touch h).sec = s.sec ∧
    (s.touch h).hif = s.hif ∧ (s.touch h).mod = s.mod ∧ (s.touch h).pages = s.pages ∧ (s.touch h).counters = s.counters ∧
    (s.touch h).latch = s.latch ∧ (s.touch h).lowHalf = s.lowHalf ∧ (s.touch h).halls = s.halls ∧ (s.touch h).mem = s.mem ∧
    (s.touch h).poison = s.poison ∧ (s.touch h).corrected = s.corrected ∧ (s.touch h).full = s.full ∧ (s.touch h).windows = s.windows ∧
    (s.touch h).arrived = s.arrived ∧ (s.touch h).rings = s.rings ∧ (s.touch h).heldSince = s.heldSince ∧ (s.touch h).items = s.items ∧
    (s.touch h).lanes = s.lanes ∧ (s.touch h).sel = s.sel ∧ (s.touch h).knots = s.knots ∧ (s.touch h).loomKnots = s.loomKnots ∧
    (s.touch h).knotMsgs = s.knotMsgs ∧ (s.touch h).patterns = s.patterns ∧ (s.touch h).looms = s.looms ∧ (s.touch h).bobbins = s.bobbins ∧
    (s.touch h).ledgers = s.ledgers ∧ (s.touch h).scrubs = s.scrubs ∧ (s.touch h).caches = s.caches ∧ (s.touch h).streams = s.streams ∧
    (s.touch h).selvs = s.selvs ∧ (s.touch h).progs = s.progs ∧ (s.touch h).slvCtl = s.slvCtl ∧ (s.touch h).flights = s.flights ∧
    (s.touch h).xprCoord = s.xprCoord ∧ (s.touch h).xprHeld = s.xprHeld ∧ (s.touch h).colls = s.colls ∧ (s.touch h).openings = s.openings ∧
    (s.touch h).stale = s.stale ∧ (s.touch h).transits = s.transits ∧ (s.touch h).rxs = s.rxs ∧ (s.touch h).txs = s.txs := by
  and_intros <;> rfl

/-- `ctxWrite` leaves every field but `mem`. -/
@[simp] theorem State.ctxWrite_fields (s : State) (c b n v : Nat) :
    (s.ctxWrite c b n v).pending = s.pending ∧ (s.ctxWrite c b n v).free = s.free ∧ (s.ctxWrite c b n v).out = s.out ∧
    (s.ctxWrite c b n v).part = s.part ∧ (s.ctxWrite c b n v).boot = s.boot ∧ (s.ctxWrite c b n v).newel = s.newel ∧
    (s.ctxWrite c b n v).power = s.power ∧ (s.ctxWrite c b n v).sec = s.sec ∧ (s.ctxWrite c b n v).hif = s.hif ∧
    (s.ctxWrite c b n v).mod = s.mod ∧ (s.ctxWrite c b n v).pages = s.pages ∧ (s.ctxWrite c b n v).counters = s.counters ∧
    (s.ctxWrite c b n v).latch = s.latch ∧ (s.ctxWrite c b n v).lowHalf = s.lowHalf ∧ (s.ctxWrite c b n v).halls = s.halls ∧
    (s.ctxWrite c b n v).poison = s.poison ∧ (s.ctxWrite c b n v).corrected = s.corrected ∧ (s.ctxWrite c b n v).full = s.full ∧
    (s.ctxWrite c b n v).windows = s.windows ∧ (s.ctxWrite c b n v).arrived = s.arrived ∧ (s.ctxWrite c b n v).rings = s.rings ∧
    (s.ctxWrite c b n v).busyAt = s.busyAt ∧ (s.ctxWrite c b n v).heldSince = s.heldSince ∧ (s.ctxWrite c b n v).items = s.items ∧
    (s.ctxWrite c b n v).lanes = s.lanes ∧ (s.ctxWrite c b n v).sel = s.sel ∧ (s.ctxWrite c b n v).knots = s.knots ∧
    (s.ctxWrite c b n v).loomKnots = s.loomKnots ∧ (s.ctxWrite c b n v).knotMsgs = s.knotMsgs ∧ (s.ctxWrite c b n v).patterns = s.patterns ∧
    (s.ctxWrite c b n v).looms = s.looms ∧ (s.ctxWrite c b n v).bobbins = s.bobbins ∧ (s.ctxWrite c b n v).ledgers = s.ledgers ∧
    (s.ctxWrite c b n v).scrubs = s.scrubs ∧ (s.ctxWrite c b n v).caches = s.caches ∧ (s.ctxWrite c b n v).streams = s.streams ∧
    (s.ctxWrite c b n v).selvs = s.selvs ∧ (s.ctxWrite c b n v).progs = s.progs ∧ (s.ctxWrite c b n v).slvCtl = s.slvCtl ∧
    (s.ctxWrite c b n v).flights = s.flights ∧ (s.ctxWrite c b n v).xprCoord = s.xprCoord ∧ (s.ctxWrite c b n v).xprHeld = s.xprHeld ∧
    (s.ctxWrite c b n v).colls = s.colls ∧ (s.ctxWrite c b n v).openings = s.openings ∧ (s.ctxWrite c b n v).stale = s.stale ∧
    (s.ctxWrite c b n v).transits = s.transits ∧ (s.ctxWrite c b n v).rxs = s.rxs ∧ (s.ctxWrite c b n v).txs = s.txs := by
  and_intros <;> rfl

/-! ### What a changed table reads as -/

theorem State.modHall_hall (s : State) (h k : Nat) (f : Hall → Hall) : (s.modHall h f).hall k = if h = k then f (s.hall h) else s.hall k :=
  Table.get_set _ _ _ _ _

theorem State.modRing_ring (s : State) (h k : Nat) (f : Ring → Ring) : (s.modRing h f).ring k = if h = k then f (s.ring h) else s.ring k :=
  Table.get_set _ _ _ _ _

theorem State.modKnot_knot (s : State) (h k : Nat) (f : Knot → Knot) : (s.modKnot h f).knot k = if h = k then f (s.knot h) else s.knot k :=
  Table.get_set _ _ _ _ _

theorem State.modLedger_ledger (s : State) (h k : Nat) (f : Ledger → Ledger) : (s.modLedger h f).ledger k = if h = k then f (s.ledger h) else s.ledger k :=
  Table.get_set _ _ _ _ _

theorem State.modSelv_selv (s : State) (h k : Nat) (f : Selvedge → Selvedge) : (s.modSelv h f).selv k = if h = k then f (s.selv h) else s.selv k :=
  Table.get_set _ _ _ _ _

theorem State.modFlight_flight (s : State) (h k : Nat) (f : Flight → Flight) : (s.modFlight h f).flight k = if h = k then f (s.flight h) else s.flight k :=
  Table.get_set _ _ _ _ _

theorem State.setCache_cache (s : State) (h k : Nat) (c : List CacheLine) : (s.setCache h c).cache k = if h = k then c else s.cache k :=
  Table.get_set _ _ _ _ _

theorem State.setWindow_window (s : State) (h k : Nat) (w : Block512) : (s.setWindow h w).window k = if h = k then w else s.window k :=
  Table.get_set _ _ _ _ _

theorem State.setArrival_arrival (s : State) (h k n : Nat) : (s.setArrival h n).arrival k = if h = k then n else s.arrival k :=
  Table.get_set _ _ _ _ _

theorem State.setLane_lane (s : State) (h k : Nat) (ps : List Piece) : (s.setLane h ps).lane k = if h = k then ps else s.lane k :=
  Table.get_set _ _ _ _ _

theorem State.setSelector_selector (s : State) (h k : Nat) (v : Selector) : (s.setSelector h v).selector k = if h = k then v else s.selector k :=
  Table.get_set _ _ _ _ _

theorem State.modTreadle_hall (s : State) (h k : Nat) (f : Treadle → Treadle) :
    (s.modTreadle h f).hall k = if h = k then { s.hall h with treadle := f (s.hall h).treadle } else s.hall k :=
  Table.get_set _ _ _ _ _

theorem State.modKeeper_hall (s : State) (h k : Nat) (f : Keeper → Keeper) :
    (s.modKeeper h f).hall k = if h = k then { s.hall h with keeper := f (s.hall h).keeper } else s.hall k :=
  Table.get_set _ _ _ _ _

theorem State.bump_counter (s : State) (p c n q d : Nat) :
    (s.bump p c n).counter q d = if 256 * p + c = 256 * q + d then s.counter p c + BitVec.ofNat 32 n else s.counter q d :=
  Table.get_set _ _ _ _ _

theorem State.modLoom_loom (s : State) (h l h' l' : Nat) (f : Loom → Loom) :
    (s.modLoom h l f).loom h' l' = if loomKey h l = loomKey h' l' then f (s.loom h l) else s.loom h' l' :=
  Table.get_set _ _ _ _ _

theorem State.modBobbin_bobbin (s : State) (h l h' l' : Nat) (f : Bobbin → Bobbin) :
    (s.modBobbin h l f).bobbin h' l' = if loomKey h l = loomKey h' l' then f (s.bobbin h l) else s.bobbin h' l' :=
  Table.get_set _ _ _ _ _

theorem State.modStream_stream (s : State) (h d h' d' : Nat) (f : Stream → Stream) :
    (s.modStream h d f).stream h' d' = if 4096 * h + d = 4096 * h' + d' then f (s.stream h d) else s.stream h' d' :=
  Table.get_set _ _ _ _ _

/-- An item after a change of the item `i`, which leaves ids as they are. -/
theorem State.modItem_item (s : State) (i j : ItemId) (f : Item → Item) (hf : ∀ t, (f t).id = t.id) :
    (s.modItem i f).item j = if i = j then (s.item j).map f else s.item j := by
  unfold State.item State.modItem
  dsimp only
  induction s.items with
  | nil => split <;> rfl
  | cons t ts ih =>
    rw [List.map_cons, List.find?_cons, List.find?_cons, ih]
    by_cases hti : t.id = i
    · subst hti
      by_cases hij : t.id = j
      · subst hij; simp [hf]
      · have hb : (t.id == j) = false := by simpa using hij
        simp [hf, hij, hb]
    · have hb : (t.id == i) = false := by simpa using hti
      by_cases hij : i = j
      · subst hij; simp [hb]
      · by_cases htj : t.id = j
        · subst htj; simp [hb, hij]
        · have hc : (t.id == j) = false := by simpa using htj
          simp [hb, hij, hc]

end Sys2Proof.Machine
end

