-- ==== Sys2Proof/Laws/Quiet.lean ====
section
/-!
SUPPORT. What an item's end or wait leaves alone. `Quiet s s'`: from `s` to `s'` only items, lanes, parked commands, and what items hold on
the fabric or in the streams have changed, and when each hall was last busy; every memory, register, knot, window and count is as it was,
and every item keeps its descriptor.
-/
namespace Sys2Proof.Machine
set_option Elab.async false

/-- Only items, lanes, parked commands, streams and the fabric's bookkeeping differ. -/
structure Quiet (s s' : State) : Prop where
  rest : s' = { s with
    out := s'.out, rings := s'.rings, busyAt := s'.busyAt, items := s'.items, lanes := s'.lanes, streams := s'.streams
    flights := s'.flights, xprHeld := s'.xprHeld, colls := s'.colls, txs := s'.txs }
  ring : ∀ g, s'.ring g = { s.ring g with parked := (s'.ring g).parked }
  names : s'.items.map Item.name = s.items.map Item.name

theorem Quiet.refl (s : State) : Quiet s s := ⟨rfl, fun _ => rfl, rfl⟩

theorem Quiet.trans {s t u : State} (h : Quiet s t) (k : Quiet t u) : Quiet s u where
  rest := by
    have e := k.rest
    rw [h.rest] at e
    exact e
  ring g := by rw [k.ring g, h.ring g]
  names := k.names.trans h.names

theorem State.emit_quiet {s₀ s : State} (r : Reply) (h : Quiet s₀ s) : Quiet s₀ (s.emit r) :=
  h.trans ⟨rfl, fun _ => rfl, rfl⟩

theorem State.modFlight_quiet {s₀ s : State} (p : Nat) (f : Flight → Flight) (h : Quiet s₀ s) : Quiet s₀ (s.modFlight p f) :=
  h.trans ⟨rfl, fun _ => rfl, rfl⟩

theorem State.modItem_quiet {s₀ s : State} (i : ItemId) (f : Item → Item) (hf : ∀ t, (f t).name = t.name) (h : Quiet s₀ s) :
    Quiet s₀ (s.modItem i f) := by
  refine h.trans ⟨rfl, fun _ => rfl, ?_⟩
  simp only [State.modItem, List.map_map]
  apply List.map_congr_left
  intro t _
  simp only [Function.comp]
  split
  · exact hf t
  · rfl

theorem State.park_quiet {s₀ s : State} (g : Nat) (o : Option ItemId) (h : Quiet s₀ s) :
    Quiet s₀ (s.modRing g fun r => { r with parked := o }) := by
  refine h.trans ⟨rfl, fun k => ?_, rfl⟩
  rw [State.modRing_ring]
  split
  · next e => subst e; rfl
  · rfl

theorem Quiet.foldl {α : Type} {s₀ : State} (f : State → α → State) (l : List α) {s : State} (h : Quiet s₀ s)
    (H : ∀ s a, Quiet s₀ s → Quiet s₀ (f s a)) : Quiet s₀ (l.foldl f s) := by
  induction l generalizing s with
  | nil => exact h
  | cons a l ih => exact ih (H s a h)

theorem Quiet.ite {s₀ a b : State} {c : Prop} [Decidable c] (ha : c → Quiet s₀ a) (hb : ¬c → Quiet s₀ b) :
    Quiet s₀ (if c then a else b) := by
  split
  · exact ha ‹_›
  · exact hb ‹_›

theorem State.sendReply_quiet {s₀ s : State} (p : Nat) (express : Bool) (vc : Nat) (pk : Packet) (h : Quiet s₀ s) :
    Quiet s₀ (s.sendReply p express vc pk) :=
  Quiet.ite (fun _ => State.modFlight_quiet _ _ h) fun _ => State.emit_quiet _ h

theorem State.sendResponse_quiet {s₀ s : State} (p : Nat) (pk : Packet) (h : Quiet s₀ s) : Quiet s₀ (s.sendResponse p pk) :=
  State.sendReply_quiet _ _ _ _ h

theorem State.withdraw_quiet {s₀ s : State} (a : Axis) (tag g : Nat) (h : Quiet s₀ s) : Quiet s₀ (s.withdraw a tag g) :=
  Quiet.foldl _ _ h fun _ _ h => State.sendResponse_quiet _ _ h

theorem State.releaseLinks_quiet {s₀ s : State} (i : ItemId) (h : Quiet s₀ s) : Quiet s₀ (s.releaseLinks i) := by
  unfold State.releaseLinks
  refine Quiet.ite (fun _ => h) fun _ => ?_
  have k (f : Flight → Flight) := Quiet.foldl (fun s p => s.modFlight p f) (s.flights.map (·.1)) h
    fun _ _ h => State.modFlight_quiet _ _ h
  exact (k _).trans ⟨rfl, fun _ => rfl, rfl⟩

theorem State.leaveFabric_quiet {s₀ s : State} (i : ItemId) (st : Status) (h : Quiet s₀ s) : Quiet s₀ (s.leaveFabric i st) := by
  unfold State.leaveFabric
  split
  · exact h
  · exact State.releaseLinks_quiet _ (Quiet.ite (fun _ => State.withdraw_quiet _ _ _ h) fun _ => h)

theorem State.touch_quiet {s₀ s : State} (n : Nat) (h : Quiet s₀ s) : Quiet s₀ (s.touch n) :=
  h.trans ⟨rfl, fun _ => rfl, rfl⟩

theorem State.dropPieces_quiet {s₀ s : State} (i : ItemId) (h : Quiet s₀ s) : Quiet s₀ (s.dropPieces i) := by
  have k := State.touch_quiet (ringHall i.ring) h
  unfold State.dropPieces
  generalize s.touch (ringHall i.ring) = u at k ⊢
  have k (l : Table (List Piece)) : Quiet s₀ { u with lanes := l } := k.trans ⟨rfl, fun _ => rfl, rfl⟩
  exact Quiet.ite (fun _ => State.park_quiet _ _ (State.modItem_quiet _ _ (fun _ => rfl) (k _)))
    fun _ => State.modItem_quiet _ _ (fun _ => rfl) (k _)

/-- A failure at a place leaves what names an item. -/
theorem Item.failAt_name (st : Status) (u : Nat) (t : Item) : (t.failAt st u).name = t.name := by
  unfold Item.failAt
  dsimp only
  split
  · split <;> rfl
  · rfl

theorem Item.failSub_name (st : Status) (u : Nat) (t : Item) : (t.failSub st u).name = t.name := by
  unfold Item.failSub
  split
  · split <;> rfl
  · rfl

theorem State.dropArmings_quiet {s₀ s : State} (i : ItemId) (h : Quiet s₀ s) : Quiet s₀ (s.dropArmings i) :=
  Quiet.foldl _ _ h fun _ _ h => h.trans ⟨rfl, fun _ => rfl, rfl⟩

theorem State.failOne_quiet {s₀ s : State} (i : ItemId) (st : Status) (u : Nat) (h : Quiet s₀ s) : Quiet s₀ (s.failOne i st u) :=
  State.dropPieces_quiet _ (State.modItem_quiet _ _ (Item.failAt_name st u) (State.dropArmings_quiet _ (State.leaveFabric_quiet _ _ h)))

theorem State.endCalled_quiet {s₀ : State} (n : Nat) {s : State} (c : ItemId) (h : Quiet s₀ s) : Quiet s₀ (State.endCalled n s c) := by
  induction n generalizing s c with
  | zero => exact h
  | succ n ih => exact Quiet.foldl _ _ h fun _ _ h => ih _ (State.failOne_quiet _ _ _ h)

theorem State.failCallers_quiet {s₀ : State} (n : Nat) {s : State} (i : ItemId) (h : Quiet s₀ s) :
    Quiet s₀ (State.failCallers n s i) := by
  induction n generalizing s i with
  | zero => exact h
  | succ n ih =>
    unfold State.failCallers
    split
    · exact h
    · split
      · exact h
      · exact ih _ (State.endCalled_quiet _ _ (State.dropPieces_quiet _ (State.modItem_quiet _ _ (Item.failSub_name _ _) h)))

theorem State.failAt_quiet {s₀ s : State} (i : ItemId) (st : Status) (u : Nat) (h : Quiet s₀ s) : Quiet s₀ (s.failAt i st u) :=
  State.failCallers_quiet _ _ (State.failOne_quiet i st u h)

/-- An item that fails leaves every memory, register, knot and count alone. -/
theorem State.failItem_quiet {s₀ s : State} (i : ItemId) (st : Status) (h : Quiet s₀ s) : Quiet s₀ (s.failItem i st) :=
  State.modItem_quiet _ _ (fun _ => rfl) (State.failAt_quiet i st 0 h)

/-- So does one whose outcome is decided. -/
theorem State.finish_quiet {s₀ s : State} (i : ItemId) (n : Nat) (h : Quiet s₀ s) : Quiet s₀ (s.finish i n) :=
  State.modItem_quiet _ _ (fun _ => rfl) h

theorem State.adjust_quiet {s₀ s : State} (i : ItemId) (st : Status) (h : Quiet s₀ s) : Quiet s₀ (s.adjust i st) :=
  Quiet.foldl _ _ h fun _ _ h => State.modItem_quiet _ _ (fun _ => rfl) h

theorem State.settleWait_quiet {s₀ s : State} (t : Item) (h : Quiet s₀ s) : Quiet s₀ (s.settleWait t) := by
  unfold State.settleWait
  refine Quiet.ite (fun _ => ?_) fun _ => h
  split
  · exact State.modItem_quiet _ _ (fun _ => rfl) h
  · exact State.failItem_quiet _ _ h
  · exact h

/-- Evaluating the waits changes items only. -/
theorem State.settleWaits_quiet {s₀ s : State} (h : Quiet s₀ s) : Quiet s₀ s.settleWaits :=
  Quiet.foldl _ _ h fun _ _ h => State.settleWait_quiet _ h

theorem State.pushPieces_quiet {s₀ s : State} (ps : List Piece) (h : Quiet s₀ s) : Quiet s₀ (s.pushPieces ps).1 := by
  induction ps generalizing s with
  | nil => exact h
  | cons p ps ih =>
    unfold State.pushPieces
    split
    · exact ih (h.trans ⟨rfl, fun _ => rfl, rfl⟩)
    · exact h

/-- Emitting an item's pieces changes lanes and what the ring has parked. -/
theorem State.emitPieces_quiet {s₀ s : State} (i : ItemId) (h : Quiet s₀ s) : Quiet s₀ (s.emitPieces i) := by
  unfold State.emitPieces
  split
  · exact h
  · next t _ =>
    have k := State.pushPieces_quiet t.emit h
    generalize s.pushPieces t.emit = r at k ⊢
    obtain ⟨u, rest⟩ := r
    exact State.park_quiet _ _ (State.modItem_quiet _ _ (fun _ => rfl) k)

/-- With every wait met, there is nothing to evaluate. -/
theorem State.settleWaits_met {s : State} (h : ∀ u ∈ s.items, u.waitMet = true) : s.settleWaits = s := by
  unfold State.settleWaits
  have H : ∀ l : List Item, (∀ u ∈ l, u.waitMet = true) → l.foldl State.settleWait s = s := by
    intro l hl
    induction l with
    | nil => rfl
    | cons t l ih =>
      have e : s.settleWait t = s := by
        unfold State.settleWait State.atWait
        rw [if_neg]
        simp [hl t (List.mem_cons_self ..)]
      rw [List.foldl_cons, e]
      exact ih fun u hu => hl u (List.mem_cons_of_mem _ hu)
  exact H _ h

/-- An item that a quiet change had is still there, with its descriptor. -/
theorem Quiet.item {s s' : State} (h : Quiet s s') (i : ItemId) : (s'.item i).map Item.name = (s.item i).map Item.name := by
  have H : ∀ l : List Item, (l.find? fun t => t.id == i).map Item.name = (l.map Item.name).find? fun n => n.1 == i := by
    intro l
    induction l with
    | nil => rfl
    | cons t l ih =>
      rw [List.map_cons, List.find?_cons, List.find?_cons]
      by_cases e : t.id == i
      · simp [e, Item.name]
      · simp only [Bool.not_eq_true] at e
        simp [e, Item.name, ih]
  unfold State.item
  rw [H, H, h.names]

end Sys2Proof.Machine
end

