-- ==== Sys2Proof/Laws/Ops.lean ====
section
/-!
SUPPORT. What each shared operation can do, said once: running an opcode on its item, a failure, an end, the recording of a fault or an
event, a knot update that leaves its hall, and the step.
-/
namespace Sys2Proof.Machine
set_option Elab.async false

/-! ### The step -/

theorem step_empty {s : State} (h : s.pending = []) : step s = .next (idleTick s) := by
  simp only [step, h]

theorem step_front {s : State} {c : Instr} {cs : List Instr} (h : s.pending = c :: cs) :
    step s = exec c { s with pending := cs } := by
  simp only [step, h]

theorem State.withFetchWord_eq (s : State) (nbits w : Nat) : s.withFetchWord nbits w = s := rfl

/-! ### Running an opcode on its item -/

/-- A handle of an item leads to one of the windows read at its expansion. -/
theorem Item.win_mem {t : Item} {b : Nat} {w : Block512} (h : t.win b = some w) : ∃ p ∈ t.wins, p.2 = w := by
  unfold Item.win at h
  split at h
  · cases h
  · obtain ⟨p, hp, rfl⟩ := Option.map_eq_some_iff.1 h
    exact ⟨p, List.mem_of_find?_eq_some hp, rfl⟩

/-- With no window in the management space, an item's reads leave its registers as they are. -/
theorem State.afterManagementRead_of_windows {s : State} {t : Item} (h : ∀ w ∈ t.wins, addrSpace (winBase w.2) ≠ 5) :
    s.afterManagementRead t = s := by
  have none5 (b : Nat) : (t.win b).filter (fun w => addrSpace (winBase w) == 5) = none := by
    cases hw : t.win b with
    | none => rfl
    | some w =>
      obtain ⟨p, hp, rfl⟩ := Item.win_mem hw
      simp [Option.filter, h p hp]
  have empty : t.managementWins = [] := by
    unfold Item.managementWins
    split
    · rfl
    · exact List.filterMap_eq_nil_iff.2 fun b _ => none5 b
  simp [State.afterManagementRead, empty]

theorem State.carryReset_of_calm {s : State} (h : s.mod.resetDue = false) : s.carryReset = s := by
  simp [State.carryReset, h]

/-- An opcode that runs acts by its own meaning, and by a reset that its meaning may have noted. -/
theorem Runs.withItem {s : State} {it : ItemId} {o : Opcode} {t : Item} (h : Runs s it o t) (f : Item → State → State) :
    s.withItem it o f = (f t s).carryReset := by
  simp only [State.withItem, State.orCut, h.runnable, h.hall, h.route, State.afterManagementRead_of_windows h.windows, Bool.not_true,
    Bool.false_eq_true, if_false]

/-- The same where the meaning notes no reset. -/
theorem Runs.withItem_calm {s : State} {it : ItemId} {o : Opcode} {t : Item} (h : Runs s it o t) {f : Item → State → State}
    (hf : (f t s).mod.resetDue = false) : s.withItem it o f = f t s := by
  rw [h.withItem, State.carryReset_of_calm hf]

/-- An opcode whose item's turn has not come leaves the state as it is. -/
theorem State.withItem_of_none {s : State} {it : ItemId} {o : Opcode} (h : s.runnable it o = none) (f : Item → State → State) :
    s.withItem it o f = s := by
  simp only [State.withItem, h]

/-- An opcode of an item whose traffic has no route fails its item (R28). -/
theorem State.withItem_of_cutOff {s : State} {it : ItemId} {o : Opcode} {t : Item} (h : s.runnable it o = some t)
    (hall : s.hallRuns t.hall = true) (cut : s.cutOff t = true) (f : Item → State → State) :
    s.withItem it o f = s.failItem t.id .hallLost := by
  simp only [State.withItem, State.orCut, h, hall, cut, Bool.not_true, Bool.false_eq_true, if_false, if_true]

/-! ### The end of an item's work -/

/-- Finishing decides the item and counts its bytes; nothing else of the state changes. -/
theorem State.finish_item (s : State) (i j : ItemId) (n : Nat) :
    (s.finish i n).item j =
      if i = j then (s.item j).map fun t => { t with phase := .decided, bytes := t.bytes + n } else s.item j := by
  unfold State.finish
  exact State.modItem_item s i j _ fun _ => rfl

theorem State.finish_rest (s : State) (i : ItemId) (n : Nat) : s.finish i n = { s with items := (s.finish i n).items } := rfl

/-! ### Faults and events of a page -/

/-- Changing a page's header changes the page table, and may send the module's message (R355); nothing else changes. -/
theorem State.modPage_rest (s : State) (p : Nat) (f : Page → Page) :
    s.modPage p f = { s with pages := (s.modPage p f).pages, out := (s.modPage p f).out } := by
  simp only [State.modPage]
  split <;> rfl

theorem State.event_rest (s : State) (p b : Nat) :
    s.event p b = { s with pages := (s.event p b).pages, out := (s.event p b).out } := s.modPage_rest p _

theorem State.fault_rest (s : State) (p : Nat) (st : Status) (i0 i1 : W32) :
    s.fault p st i0 i1 = { s with pages := (s.fault p st i0 i1).pages, out := (s.fault p st i0 i1).out } := s.modPage_rest p _

theorem State.refuse_rest (s : State) (p : Nat) (v : W32) :
    s.refuse p v = { s with pages := (s.refuse p v).pages, out := (s.refuse p v).out } := s.fault_rest p .access v 0

/-! ### Knots -/

/-- An update of a knot of the same hall acts at once, one of another hall is sent where a route is left (R28, R147, R151). -/
theorem State.knotSend_cases (s : State) (h k : Nat) (a : KnotAction) :
    (k / 256 = h ∧ s.knotSend h k a = s.knotAct k a) ∨
      (k / 256 ≠ h ∧ s.hallReaches h (k / 256) = true ∧ s.knotSend h k a = { s with knotMsgs := s.knotMsgs ++ [⟨k, a⟩] }) ∨
      (k / 256 ≠ h ∧ s.hallReaches h (k / 256) = false ∧ s.knotSend h k a = s) := by
  unfold State.knotSend
  by_cases e : k / 256 = h
  · exact .inl ⟨e, by simp [e]⟩
  · cases r : s.hallReaches h (k / 256)
    · exact .inr (.inr ⟨e, rfl, by simp [e]⟩)
    · exact .inr (.inl ⟨e, rfl, by simp [e]⟩)

end Sys2Proof.Machine
end

