-- ==== Sys2Proof/WellFormed.lean ====
section
/-!
DEFINITION. Which commands are well formed: every operand lies in the range the specification gives the thing it names.
-/
namespace Sys2Proof

/-- Halls are numbered 0–7 (R26). -/
def hallOk (h : Nat) : Bool := h < 8
/-- Looms are numbered 0–95 in a hall (R30). -/
def loomOk (l : Nat) : Bool := l < 96
/-- Rings are numbered 0–16,383 (R128). -/
def ringOk (g : Nat) : Bool := g < 16384
/-- Flights are numbered 0–11 (R33). -/
def portOk (p : Nat) : Bool := p < 12
/-- Selvedges are numbered 0–12, 12 being the host interface's (R191). -/
def selvedgeOk (p : Nat) : Bool := p < 13
/-- Lane registers are numbered 0–63 (R365). -/
def regOk (q : Nat) : Bool := q < 64
/-- PCIe functions are numbered 0 and 1 (R298). -/
def functionOk (f : Nat) : Bool := f < 2
/-- An item lies on a ring and has a 32-bit index (R128, R130). -/
def ItemId.ok (i : ItemId) : Bool := ringOk i.ring && i.idx < 2 ^ 32
/-- BAR0 is 256 MiB (R299). -/
def bar0Ok (o : Nat) : Bool := o < 2 ^ 28
/-- A register's offset in BAR0, or 2^28 above its offset in BAR2, whose 1 MiB holds the doorbell slots (R295, R299). -/
def bar02Ok (o : Nat) : Bool := o < 2 ^ 28 + 2 ^ 20
/-- A hello's coordinate and axis sizes fit the fields of R261. -/
def Hello.ok (h : Hello) : Bool :=
  h.x < 16 && h.y < 16 && h.z < 16 && decide (1 ≤ h.nx ∧ h.nx ≤ 16 ∧ 1 ≤ h.ny ∧ h.ny ≤ 16 ∧ 1 ≤ h.nz ∧ h.nz ≤ 16) &&
    portOk h.port && h.grade < 3
/-- The length of one datagram's payload (R258). -/
def payloadOk (d : List Byte) : Bool := d.length ≤ 8192

/-- Every operand of a command is in range. -/
def Instr.wf : Instr → Bool
  | .doorbellPWrite g _ | .doorbellHWrite g _ | .parkedCommandResume g | .ringStalled g => ringOk g
  | .descriptorFetch h _ _ _ => hallOk h
  | .dobbyChoice h l _ _ | .pieceComplete h l _ | .tilePass h l | .replayRerun h l | .promotion h l
  | .tileEpilogue h l | .stage3Term h l => hallOk h && loomOk l
  | .itemComplete i _ | .starvationLimit i | .nop i | .knotSet i _ | .knotWait i _ | .fence i | .callPattern i _
  | .timestamp i | .loadTile i | .storeTile i | .copy i | .gather i | .scatter i | .prefetch i | .offload i
  | .restore i | .streamArm i | .matmul i | .matmulT i | .conv i | .matmulAcc i | .epilog i | .eltwise i
  | .rowreduce i | .softmaxFwd i | .softmaxBwd i | .normFwd i | .normBwd i | .convert i | .adaptFwd i
  | .adaptBwd i | .bobbinBind i | .collReduceScatter i | .collAllGather i | .collAllReduce i | .send i
  | .recv i | .multicast i | .windowOpen i | .windowClose i | .buddyPush i | .updateBind i | .statsSnap i
  | .cardRun i | .cardRead i | .cardWrite i | .cardCompare i | .cardPass i | .cardMode i
  | .channelAcquire i | .joinTimeout i => i.ok
  | .knotUpdateArrive _ _ => true
  | .warpTileLoad h l i _ | .bobbinWorkItemStart h l i _ => hallOk h && loomOk l && i.ok
  | .bobbinSliceFill h l s _ => hallOk h && loomOk l && s.context < 12288 && s.slot < 8
  | .ledgerAdmit h _ | .streamGrant h _ => hallOk h
  | .ledgerResponse h _ _ | .cacheFill h _ _ => hallOk h
  | .streamTransferComplete h d _ | .streamStarved h d => hallOk h && d < 4096
  | .correctedWriteback w | .sramScrubRead w _ => w % 8 == 0 && w < 2 ^ 64
  | .hbmScrubRead h o _ => hallOk h && o < 72 * 2 ^ 30 && o % 8 == 0
  | .selvedgeUpdateBegin p | .selvedgeBlockUpdate p | .selvedgeUpdateEnd p => selvedgeOk p
  | .fma p d a b c | .sel p d a b c => selvedgeOk p && regOk d && regOk a && regOk b && regOk c
  | .add p d a b | .sub p d a b | .mul p d a b | .div p d a b | .min p d a b | .max p d a b | .lt p d a b
  | .pow p d a b => selvedgeOk p && regOk d && regOk a && regOk b
  | .sqrt p d a | .abs p d a | .neg p d a | .exp p d a | .ln p d a => selvedgeOk p && regOk d && regOk a
  | .const p d _ => selvedgeOk p && regOk d
  | .repeatBlock p n b => selvedgeOk p && 1 ≤ n && n < 65536 && 1 ≤ b.length && b.length < 65536
  | .helloSend p | .linkTrained p | .admitPendingRelease p | .linkDown p | .flightAdmit p | .flightReject p => portOk p
  | .helloReceive p h => portOk p && h.ok
  | .lossNotice p _ c l => portOk p && c < 16 && l < 2
  | .remoteWriteAccept p h => portOk p && h.vc < 2
  | .remoteDatagram p _ d _ => portOk p && payloadOk d
  | .negativeAck i r _ p _ => i.ok && r < 256 && portOk p
  | .expressForward p v _ _ d _ t => portOk p && v < 2 && payloadOk d && decide (t ≤ 1000000)
  | .frameReceive p _ q => portOk p && q < 8
  | .pfcFrame p _ | .creditReceive p _ _ => portOk p
  | .collectiveOpen o p => portOk p && o.position < 16 && o.tag < 65536 && decide (2 ≤ o.group ∧ o.group ≤ 16)
  | .collectiveWithdrawal p _ t c g => portOk p && t < 65536 && c < 16 && decide (2 ≤ g ∧ g ≤ 16)
  | .collectiveData _ t j k _ p g _ => portOk p && t < 65536 && decide (2 ≤ g ∧ g ≤ 16) && j < 16 && k < 2
  | .multicastChunkAck i r p _ => i.ok && r < 256 && portOk p
  | .multicastPrune i rs .source => i.ok && rs.all (· < 256)
  | .multicastPrune _ _ (.branch _ p) | .multicastPrune _ _ (.report _ p _) => portOk p
  | .ptpMessage (.announce p _) | .ptpMessage (.received p) | .ptpMessage (.sent p) => portOk p
  | .ptpMessage (.ppsOutput _) => true
  | .ptpLock _ | .ppsIn | .ptpLockLoss => true
  | .hostDepart f _ | .configRequest f | .perstRelease f _ _ => functionOk f
  | .bar4Access f w o n d => functionOk f && o + n ≤ 2 ^ 36 && (!w || d.length == n)
  | .hostCompletion (.item i) _ a _ => i.ok && a.toNat < 2 ^ 57
  | .hostCompletion (.descriptor g) _ a _ => ringOk g && a.toNat < 2 ^ 57
  | .hostMemoryTimeout (.item i) => i.ok
  | .hostMemoryTimeout (.descriptor g) | .hostMemoryTimeout (.recordWrite g) => ringOk g
  | .cxlSnoop _ _ | .spdmRequest _ | .pldmRequest _ => true
  | .keyInstall n _ _ _ | .keyErase n _ _ => n < 16384
  | .rollbackRaise _ | .secOwnerWrite _ | .secStatusRead | .jtagChallenge _ | .jtagUnlock _ _ => true
  | .jtagInternalScan h => hallOk h
  | .moduleReset | .moduleSleepEnter | .startup _ | .powerOn | .undervoltage _ | .startupRestart
  | .powerOff | .inputSwitchOpen | .inputSwitchReclose | .prechargeBypassClose | .tamperResponse
  | .glitchZeroise | .protectionEnter _ | .protectionExit _ | .sensePinMate => true
  | .moduleWake (.comparator n) => n < 8
  | .moduleWake .i3c => true
  | .rkTargetWrite h _ | .idleLowering h | .idleExit h | .monitorWindowEnd h _ | .rkMonCtlWrite h _
  | .rkMonRateRead h | .rkMonExtRead h | .railFault h | .hallDieFailure h | .hallQuiesce h => hallOk h
  | .thermalThrottle h c | .hallPark h c | .hallResume h c | .hallCoreShutoff h c => hallOk h && c < 256
  | .temperatureTrip c => c < 256
  | .coolantFlowTrip p => p ≤ 2000
  | .wakeTimer0Trip | .wakeTimer1Trip | .generalComparatorTrip => true
  | .nwlCmpCtlWrite n _ | .nwlCmpValWrite n _ => n < 8
  | .ringSelect h _ | .ringCommit h | .ringReset h | .knotOwnerWrite h _ | .patternLoad h
  | .patternLoadComplete h | .patternClear h | .diagEnter h _ | .diagEntryComplete h | .diagExit h
  | .quiesce h | .ctxBaseWrite h _ | .windowCommit h | .windowClear h | .windowFetch h | .cacheShareSet h _
  | .shareZeroDone h | .cacheInvalidate h | .ldgCapWrite h _ | .strStateRead h => hallOk h
  | .ringEnable h f => hallOk h && functionOk f
  | .levelNegotiate _ | .selvedgeProgLoad _ | .selvedgeProgLoadDone => true
  | .eventClear p _ => p < 65536
  | .reg64LowRead o => bar02Ok o && o % 4 == 0
  | .flightEnable p _ => portOk p
  | .registerWrite f o w _ => functionOk f && bar0Ok o && (w == 1 || w == 2 || w == 4 || w == 8)
  | .managementSpaceAccess g _ o w _ => ringOk g && o < 2 ^ 24 && (w == 1 || w == 2 || w == 4 || w == 8)
  | .hostLinkTrained s w _ f => functionOk f && decide (1 ≤ s ∧ s ≤ 6) && w ≤ 16

end Sys2Proof
end

