-- ==== Sys2Proof/Laws/PerInstr.lean ====
section
/-!
SUPPORT. The family `Hall`: a well-formed command that names a hall names one of the eight (R26). One lemma for each constructor.
-/
namespace Sys2Proof.Laws.Hall
set_option Elab.async false

/-- The hall that a command names directly, if it names one. -/
def named : Instr → Option Nat
  | .descriptorFetch h _ _ _
  | .dobbyChoice h _ _ _
  | .pieceComplete h _ _
  | .warpTileLoad h _ _ _
  | .tilePass h _
  | .replayRerun h _
  | .promotion h _
  | .tileEpilogue h _
  | .stage3Term h _
  | .bobbinWorkItemStart h _ _ _
  | .bobbinSliceFill h _ _ _
  | .ledgerAdmit h _
  | .ledgerResponse h _ _
  | .cacheFill h _ _
  | .streamGrant h _
  | .streamTransferComplete h _ _
  | .streamStarved h _
  | .hbmScrubRead h _ _
  | .jtagInternalScan h
  | .rkTargetWrite h _
  | .idleLowering h
  | .idleExit h
  | .thermalThrottle h _
  | .hallPark h _
  | .hallResume h _
  | .hallCoreShutoff h _
  | .monitorWindowEnd h _
  | .rkMonCtlWrite h _
  | .rkMonRateRead h
  | .rkMonExtRead h
  | .railFault h
  | .hallDieFailure h
  | .hallQuiesce h
  | .ringSelect h _
  | .ringCommit h
  | .ringEnable h _
  | .ringReset h
  | .knotOwnerWrite h _
  | .patternLoad h
  | .patternLoadComplete h
  | .patternClear h
  | .diagEnter h _
  | .diagEntryComplete h
  | .diagExit h
  | .quiesce h
  | .ctxBaseWrite h _
  | .windowCommit h
  | .windowClear h
  | .windowFetch h
  | .cacheShareSet h _
  | .shareZeroDone h
  | .cacheInvalidate h
  | .ldgCapWrite h _
  | .strStateRead h => some h
  | _ => none

/-- A well-formed command that names a hall names one of 0 to 7. -/
def Statement (i : Instr) : Prop := i.wf = true → ∀ h, named i = some h → h < 8

theorem doorbellPWrite (ring : Nat) (value : W32) : Statement (.doorbellPWrite ring value) := fun _ _ e => nomatch e
theorem doorbellHWrite (ring : Nat) (value : W32) : Statement (.doorbellHWrite ring value) := fun _ _ e => nomatch e
theorem descriptorFetch (hall : Nat) (entryEcc : Ecc := .clean) (tableEcc : Ecc := .clean) (knotEcc : Ecc := .clean) : Statement (.descriptorFetch hall entryEcc tableEcc knotEcc) := by
  intro w h e; cases e; simp [Instr.wf, hallOk] at w; omega
theorem parkedCommandResume (ring : Nat) : Statement (.parkedCommandResume ring) := fun _ _ e => nomatch e
theorem dobbyChoice (hall loom : Nat) (queue : Queue) (knotEcc : Ecc := .clean) : Statement (.dobbyChoice hall loom queue knotEcc) := by
  intro w h e; cases e; simp [Instr.wf, hallOk] at w; omega
theorem pieceComplete (hall loom : Nat) (queue : Queue) : Statement (.pieceComplete hall loom queue) := by
  intro w h e; cases e; simp [Instr.wf, hallOk] at w; omega
theorem itemComplete (it : ItemId) (knotEcc : Ecc := .clean) : Statement (.itemComplete it knotEcc) := fun _ _ e => nomatch e
theorem knotUpdateArrive (position : Nat) (knotEcc : Ecc := .clean) : Statement (.knotUpdateArrive position knotEcc) := fun _ _ e => nomatch e
theorem starvationLimit (it : ItemId) : Statement (.starvationLimit it) := fun _ _ e => nomatch e
theorem ringStalled (ring : Nat) : Statement (.ringStalled ring) := fun _ _ e => nomatch e
theorem nop (it : ItemId) : Statement (.nop it) := fun _ _ e => nomatch e
theorem knotSet (it : ItemId) (knotEcc : Ecc := .clean) : Statement (.knotSet it knotEcc) := fun _ _ e => nomatch e
theorem knotWait (it : ItemId) (knotEcc : Ecc := .clean) : Statement (.knotWait it knotEcc) := fun _ _ e => nomatch e
theorem fence (it : ItemId) : Statement (.fence it) := fun _ _ e => nomatch e
theorem callPattern (it : ItemId) (routineEcc : Ecc := .clean) : Statement (.callPattern it routineEcc) := fun _ _ e => nomatch e
theorem timestamp (it : ItemId) : Statement (.timestamp it) := fun _ _ e => nomatch e
theorem loadTile (it : ItemId) : Statement (.loadTile it) := fun _ _ e => nomatch e
theorem storeTile (it : ItemId) : Statement (.storeTile it) := fun _ _ e => nomatch e
theorem copy (it : ItemId) : Statement (.copy it) := fun _ _ e => nomatch e
theorem gather (it : ItemId) : Statement (.gather it) := fun _ _ e => nomatch e
theorem scatter (it : ItemId) : Statement (.scatter it) := fun _ _ e => nomatch e
theorem prefetch (it : ItemId) : Statement (.prefetch it) := fun _ _ e => nomatch e
theorem offload (it : ItemId) : Statement (.offload it) := fun _ _ e => nomatch e
theorem restore (it : ItemId) : Statement (.restore it) := fun _ _ e => nomatch e
theorem streamArm (it : ItemId) : Statement (.streamArm it) := fun _ _ e => nomatch e
theorem matmul (it : ItemId) : Statement (.matmul it) := fun _ _ e => nomatch e
theorem matmulT (it : ItemId) : Statement (.matmulT it) := fun _ _ e => nomatch e
theorem conv (it : ItemId) : Statement (.conv it) := fun _ _ e => nomatch e
theorem matmulAcc (it : ItemId) : Statement (.matmulAcc it) := fun _ _ e => nomatch e
theorem epilog (it : ItemId) : Statement (.epilog it) := fun _ _ e => nomatch e
theorem eltwise (it : ItemId) : Statement (.eltwise it) := fun _ _ e => nomatch e
theorem rowreduce (it : ItemId) : Statement (.rowreduce it) := fun _ _ e => nomatch e
theorem softmaxFwd (it : ItemId) : Statement (.softmaxFwd it) := fun _ _ e => nomatch e
theorem softmaxBwd (it : ItemId) : Statement (.softmaxBwd it) := fun _ _ e => nomatch e
theorem normFwd (it : ItemId) : Statement (.normFwd it) := fun _ _ e => nomatch e
theorem normBwd (it : ItemId) : Statement (.normBwd it) := fun _ _ e => nomatch e
theorem convert (it : ItemId) : Statement (.convert it) := fun _ _ e => nomatch e
theorem adaptFwd (it : ItemId) : Statement (.adaptFwd it) := fun _ _ e => nomatch e
theorem adaptBwd (it : ItemId) : Statement (.adaptBwd it) := fun _ _ e => nomatch e
theorem bobbinBind (it : ItemId) : Statement (.bobbinBind it) := fun _ _ e => nomatch e
theorem collReduceScatter (it : ItemId) : Statement (.collReduceScatter it) := fun _ _ e => nomatch e
theorem collAllGather (it : ItemId) : Statement (.collAllGather it) := fun _ _ e => nomatch e
theorem collAllReduce (it : ItemId) : Statement (.collAllReduce it) := fun _ _ e => nomatch e
theorem send (it : ItemId) : Statement (.send it) := fun _ _ e => nomatch e
theorem recv (it : ItemId) : Statement (.recv it) := fun _ _ e => nomatch e
theorem multicast (it : ItemId) : Statement (.multicast it) := fun _ _ e => nomatch e
theorem windowOpen (it : ItemId) : Statement (.windowOpen it) := fun _ _ e => nomatch e
theorem windowClose (it : ItemId) : Statement (.windowClose it) := fun _ _ e => nomatch e
theorem buddyPush (it : ItemId) : Statement (.buddyPush it) := fun _ _ e => nomatch e
theorem updateBind (it : ItemId) : Statement (.updateBind it) := fun _ _ e => nomatch e
theorem statsSnap (it : ItemId) : Statement (.statsSnap it) := fun _ _ e => nomatch e
theorem cardRun (it : ItemId) : Statement (.cardRun it) := fun _ _ e => nomatch e
theorem cardRead (it : ItemId) : Statement (.cardRead it) := fun _ _ e => nomatch e
theorem cardWrite (it : ItemId) : Statement (.cardWrite it) := fun _ _ e => nomatch e
theorem cardCompare (it : ItemId) : Statement (.cardCompare it) := fun _ _ e => nomatch e
theorem cardPass (it : ItemId) : Statement (.cardPass it) := fun _ _ e => nomatch e
theorem cardMode (it : ItemId) : Statement (.cardMode it) := fun _ _ e => nomatch e
theorem warpTileLoad (hall loom : Nat) (it : ItemId) (unit : Nat) : Statement (.warpTileLoad hall loom it unit) := by
  intro w h e; cases e; simp [Instr.wf, hallOk] at w; omega
theorem tilePass (hall loom : Nat) : Statement (.tilePass hall loom) := by
  intro w h e; cases e; simp [Instr.wf, hallOk] at w; omega
theorem replayRerun (hall loom : Nat) : Statement (.replayRerun hall loom) := by
  intro w h e; cases e; simp [Instr.wf, hallOk] at w; omega
theorem promotion (hall loom : Nat) : Statement (.promotion hall loom) := by
  intro w h e; cases e; simp [Instr.wf, hallOk] at w; omega
theorem tileEpilogue (hall loom : Nat) : Statement (.tileEpilogue hall loom) := by
  intro w h e; cases e; simp [Instr.wf, hallOk] at w; omega
theorem stage3Term (hall loom : Nat) : Statement (.stage3Term hall loom) := by
  intro w h e; cases e; simp [Instr.wf, hallOk] at w; omega
theorem bobbinWorkItemStart (hall loom : Nat) (it : ItemId) (unit : Nat) : Statement (.bobbinWorkItemStart hall loom it unit) := by
  intro w h e; cases e; simp [Instr.wf, hallOk] at w; omega
theorem bobbinSliceFill (hall loom : Nat) (slice : SliceId) (ecc : Ecc) : Statement (.bobbinSliceFill hall loom slice ecc) := by
  intro w h e; cases e; simp [Instr.wf, hallOk] at w; omega
theorem ledgerAdmit (hall : Nat) (slotEcc : Ecc := .clean) : Statement (.ledgerAdmit hall slotEcc) := by
  intro w h e; cases e; simp [Instr.wf, hallOk] at w; omega
theorem ledgerResponse (hall request : Nat) (ecc : Ecc) : Statement (.ledgerResponse hall request ecc) := by
  intro w h e; cases e; simp [Instr.wf, hallOk] at w; omega
theorem cacheFill (hall request : Nat) (ecc : Ecc) : Statement (.cacheFill hall request ecc) := by
  intro w h e; cases e; simp [Instr.wf, hallOk] at w; omega
theorem streamGrant (hall : Nat) (stateEcc : Ecc := .clean) : Statement (.streamGrant hall stateEcc) := by
  intro w h e; cases e; simp [Instr.wf, hallOk] at w; omega
theorem streamTransferComplete (hall descriptor : Nat) (answer : HostAnswer) : Statement (.streamTransferComplete hall descriptor answer) := by
  intro w h e; cases e; simp [Instr.wf, hallOk] at w; omega
theorem streamStarved (hall descriptor : Nat) : Statement (.streamStarved hall descriptor) := by
  intro w h e; cases e; simp [Instr.wf, hallOk] at w; omega
theorem correctedWriteback (word : Nat) : Statement (.correctedWriteback word) := fun _ _ e => nomatch e
theorem sramScrubRead (word : Nat) (ecc : Ecc) : Statement (.sramScrubRead word ecc) := fun _ _ e => nomatch e
theorem hbmScrubRead (hall offset : Nat) (ecc : Ecc) : Statement (.hbmScrubRead hall offset ecc) := by
  intro w h e; cases e; simp [Instr.wf, hallOk] at w; omega
theorem selvedgeUpdateBegin (selvedge : Nat) : Statement (.selvedgeUpdateBegin selvedge) := fun _ _ e => nomatch e
theorem selvedgeBlockUpdate (selvedge : Nat) : Statement (.selvedgeBlockUpdate selvedge) := fun _ _ e => nomatch e
theorem selvedgeUpdateEnd (selvedge : Nat) : Statement (.selvedgeUpdateEnd selvedge) := fun _ _ e => nomatch e
theorem fma (selvedge d a b c : Nat) : Statement (.fma selvedge d a b c) := fun _ _ e => nomatch e
theorem add (selvedge d a b : Nat) : Statement (.add selvedge d a b) := fun _ _ e => nomatch e
theorem sub (selvedge d a b : Nat) : Statement (.sub selvedge d a b) := fun _ _ e => nomatch e
theorem mul (selvedge d a b : Nat) : Statement (.mul selvedge d a b) := fun _ _ e => nomatch e
theorem div (selvedge d a b : Nat) : Statement (.div selvedge d a b) := fun _ _ e => nomatch e
theorem sqrt (selvedge d a : Nat) : Statement (.sqrt selvedge d a) := fun _ _ e => nomatch e
theorem min (selvedge d a b : Nat) : Statement (.min selvedge d a b) := fun _ _ e => nomatch e
theorem max (selvedge d a b : Nat) : Statement (.max selvedge d a b) := fun _ _ e => nomatch e
theorem abs (selvedge d a : Nat) : Statement (.abs selvedge d a) := fun _ _ e => nomatch e
theorem neg (selvedge d a : Nat) : Statement (.neg selvedge d a) := fun _ _ e => nomatch e
theorem lt (selvedge d a b : Nat) : Statement (.lt selvedge d a b) := fun _ _ e => nomatch e
theorem sel (selvedge d a b c : Nat) : Statement (.sel selvedge d a b c) := fun _ _ e => nomatch e
theorem const (selvedge d : Nat) (immediate : W32) : Statement (.const selvedge d immediate) := fun _ _ e => nomatch e
theorem exp (selvedge d a : Nat) : Statement (.exp selvedge d a) := fun _ _ e => nomatch e
theorem ln (selvedge d a : Nat) : Statement (.ln selvedge d a) := fun _ _ e => nomatch e
theorem pow (selvedge d a b : Nat) : Statement (.pow selvedge d a b) := fun _ _ e => nomatch e
theorem repeatBlock (selvedge times : Nat) (body : List W64) : Statement (.repeatBlock selvedge times body) := fun _ _ e => nomatch e
theorem helloSend (port : Nat) : Statement (.helloSend port) := fun _ _ e => nomatch e
theorem helloReceive (port : Nat) (hello : Hello) : Statement (.helloReceive port hello) := fun _ _ e => nomatch e
theorem linkTrained (port : Nat) : Statement (.linkTrained port) := fun _ _ e => nomatch e
theorem admitPendingRelease (port : Nat) : Statement (.admitPendingRelease port) := fun _ _ e => nomatch e
theorem linkDown (port : Nat) : Statement (.linkDown port) := fun _ _ e => nomatch e
theorem lossNotice (port : Nat) (axis : Axis) (coordinate lane : Nat) : Statement (.lossNotice port axis coordinate lane) := fun _ _ e => nomatch e
theorem remoteWriteAccept (port : Nat) (head : RemoteHead) : Statement (.remoteWriteAccept port head) := fun _ _ e => nomatch e
theorem remoteDatagram (port origin : Nat) (data : List Byte) (express : Bool := false) : Statement (.remoteDatagram port origin data express) := fun _ _ e => nomatch e
theorem negativeAck (it : ItemId) (receiver : Nat) (status : Status) (port : Nat := 0) (passing : Option Nat := none) : Statement (.negativeAck it receiver status port passing) := fun _ _ e => nomatch e
theorem expressForward (portIn vc origin : Nat) (destinations : List W64) (data : List Byte) (length : Nat := 0) (stall : Nat := 0) : Statement (.expressForward portIn vc origin destinations data length stall) := fun _ _ e => nomatch e
theorem frameReceive (port : Nat) (etherType : BitVec 16) (priority : Nat) : Statement (.frameReceive port etherType priority) := fun _ _ e => nomatch e
theorem pfcFrame (port : Nat) (priorities : BitVec 8) : Statement (.pfcFrame port priorities) := fun _ _ e => nomatch e
theorem creditReceive (port datagrams : Nat) (express : Bool) : Statement (.creditReceive port datagrams express) := fun _ _ e => nomatch e
theorem channelAcquire (it : ItemId) : Statement (.channelAcquire it) := fun _ _ e => nomatch e
theorem collectiveOpen (head : OpenHead) (port : Nat := 0) : Statement (.collectiveOpen head port) := fun _ _ e => nomatch e
theorem joinTimeout (it : ItemId) : Statement (.joinTimeout it) := fun _ _ e => nomatch e
theorem collectiveWithdrawal (port : Nat) (axis : Axis) (tag coordinate group : Nat) : Statement (.collectiveWithdrawal port axis tag coordinate group) := fun _ _ e => nomatch e
theorem collectiveData (axis : Axis) (tag shard phase : Nat) (data : List Byte) (port : Nat := 0) (group : Nat := 2) (express : Bool := false) : Statement (.collectiveData axis tag shard phase data port group express) := fun _ _ e => nomatch e
theorem multicastChunkAck (it : ItemId) (receiver : Nat) (port : Nat := 0) (passing : Option Nat := none) : Statement (.multicastChunkAck it receiver port passing) := fun _ _ e => nomatch e
theorem multicastPrune (it : ItemId) (receivers : List Nat) (place : PrunePlace := .source) : Statement (.multicastPrune it receivers place) := fun _ _ e => nomatch e
theorem ptpMessage (message : PtpMessage) : Statement (.ptpMessage message) := fun _ _ e => nomatch e
theorem ptpLock (offsetNs : Int) : Statement (.ptpLock offsetNs) := fun _ _ e => nomatch e
theorem ppsIn : Statement (.ppsIn) := fun _ _ e => nomatch e
theorem hostDepart (function : Nat) (cause : DepartCause) : Statement (.hostDepart function cause) := fun _ _ e => nomatch e
theorem configRequest (function : Nat) : Statement (.configRequest function) := fun _ _ e => nomatch e
theorem bar4Access (function : Nat) (write : Bool) (offset length : Nat) (data : List Byte) : Statement (.bar4Access function write offset length data) := fun _ _ e => nomatch e
theorem hostCompletion (request : HostRequest) (answer : HostAnswer) (address : W64) (data : List Byte) : Statement (.hostCompletion request answer address data) := fun _ _ e => nomatch e
theorem hostMemoryTimeout (what : TimeoutOf) : Statement (.hostMemoryTimeout what) := fun _ _ e => nomatch e
theorem cxlSnoop (line : Nat) (kind : Snoop) : Statement (.cxlSnoop line kind) := fun _ _ e => nomatch e
theorem spdmRequest (request : SpdmRequest) : Statement (.spdmRequest request) := fun _ _ e => nomatch e
theorem keyInstall (slot : Nat) (key : BitVec 256) (ownerSession : Bool) (session : Nat := 0) : Statement (.keyInstall slot key ownerSession session) := fun _ _ e => nomatch e
theorem keyErase (slot : Nat) (ownerSession : Bool) (session : Nat := 0) : Statement (.keyErase slot ownerSession session) := fun _ _ e => nomatch e
theorem rollbackRaise (version : BitVec 16) : Statement (.rollbackRaise version) := fun _ _ e => nomatch e
theorem pldmRequest (request : PldmRequest) : Statement (.pldmRequest request) := fun _ _ e => nomatch e
theorem secOwnerWrite (hash : BitVec 384) : Statement (.secOwnerWrite hash) := fun _ _ e => nomatch e
theorem secStatusRead : Statement (.secStatusRead) := fun _ _ e => nomatch e
theorem jtagChallenge (instruction : JtagInstruction := .challenge) : Statement (.jtagChallenge instruction) := fun _ _ e => nomatch e
theorem jtagUnlock (signatureValid : Bool) (scope : W32 := 0) : Statement (.jtagUnlock signatureValid scope) := fun _ _ e => nomatch e
theorem jtagInternalScan (hall : Nat) : Statement (.jtagInternalScan hall) := by
  intro w h e; cases e; simp [Instr.wf, hallOk] at w; omega
theorem moduleReset : Statement (.moduleReset) := fun _ _ e => nomatch e
theorem moduleSleepEnter : Statement (.moduleSleepEnter) := fun _ _ e => nomatch e
theorem moduleWake (cause : WakeCause) : Statement (.moduleWake cause) := fun _ _ e => nomatch e
theorem startup (result : StartupResult) : Statement (.startup result) := fun _ _ e => nomatch e
theorem powerOn : Statement (.powerOn) := fun _ _ e => nomatch e
theorem undervoltage (cause : UndervoltageCause) : Statement (.undervoltage cause) := fun _ _ e => nomatch e
theorem startupRestart : Statement (.startupRestart) := fun _ _ e => nomatch e
theorem powerOff : Statement (.powerOff) := fun _ _ e => nomatch e
theorem inputSwitchOpen : Statement (.inputSwitchOpen) := fun _ _ e => nomatch e
theorem inputSwitchReclose : Statement (.inputSwitchReclose) := fun _ _ e => nomatch e
theorem prechargeBypassClose : Statement (.prechargeBypassClose) := fun _ _ e => nomatch e
theorem tamperResponse : Statement (.tamperResponse) := fun _ _ e => nomatch e
theorem glitchZeroise : Statement (.glitchZeroise) := fun _ _ e => nomatch e
theorem protectionEnter (watts : Nat := 0) : Statement (.protectionEnter watts) := fun _ _ e => nomatch e
theorem protectionExit (watts : Nat := 0) : Statement (.protectionExit watts) := fun _ _ e => nomatch e
theorem rkTargetWrite (hall : Nat) (value : W32) : Statement (.rkTargetWrite hall value) := by
  intro w h e; cases e; simp [Instr.wf, hallOk] at w; omega
theorem idleLowering (hall : Nat) : Statement (.idleLowering hall) := by
  intro w h e; cases e; simp [Instr.wf, hallOk] at w; omega
theorem idleExit (hall : Nat) : Statement (.idleExit hall) := by
  intro w h e; cases e; simp [Instr.wf, hallOk] at w; omega
theorem thermalThrottle (hall celsius : Nat) : Statement (.thermalThrottle hall celsius) := by
  intro w h e; cases e; simp [Instr.wf, hallOk] at w; omega
theorem hallPark (hall celsius : Nat) : Statement (.hallPark hall celsius) := by
  intro w h e; cases e; simp [Instr.wf, hallOk] at w; omega
theorem hallResume (hall celsius : Nat) : Statement (.hallResume hall celsius) := by
  intro w h e; cases e; simp [Instr.wf, hallOk] at w; omega
theorem hallCoreShutoff (hall celsius : Nat) : Statement (.hallCoreShutoff hall celsius) := by
  intro w h e; cases e; simp [Instr.wf, hallOk] at w; omega
theorem monitorWindowEnd (hall : Nat) (rate : BitVec 16) : Statement (.monitorWindowEnd hall rate) := by
  intro w h e; cases e; simp [Instr.wf, hallOk] at w; omega
theorem rkMonCtlWrite (hall : Nat) (value : W32) : Statement (.rkMonCtlWrite hall value) := by
  intro w h e; cases e; simp [Instr.wf, hallOk] at w; omega
theorem rkMonRateRead (hall : Nat) : Statement (.rkMonRateRead hall) := by
  intro w h e; cases e; simp [Instr.wf, hallOk] at w; omega
theorem rkMonExtRead (hall : Nat) : Statement (.rkMonExtRead hall) := by
  intro w h e; cases e; simp [Instr.wf, hallOk] at w; omega
theorem railFault (hall : Nat) : Statement (.railFault hall) := by
  intro w h e; cases e; simp [Instr.wf, hallOk] at w; omega
theorem hallDieFailure (hall : Nat) : Statement (.hallDieFailure hall) := by
  intro w h e; cases e; simp [Instr.wf, hallOk] at w; omega
theorem hallQuiesce (hall : Nat) : Statement (.hallQuiesce hall) := by
  intro w h e; cases e; simp [Instr.wf, hallOk] at w; omega
theorem temperatureTrip (celsius : Nat) : Statement (.temperatureTrip celsius) := fun _ _ e => nomatch e
theorem coolantFlowTrip (pulses : Nat) : Statement (.coolantFlowTrip pulses) := fun _ _ e => nomatch e
theorem wakeTimer0Trip : Statement (.wakeTimer0Trip) := fun _ _ e => nomatch e
theorem wakeTimer1Trip : Statement (.wakeTimer1Trip) := fun _ _ e => nomatch e
theorem generalComparatorTrip : Statement (.generalComparatorTrip) := fun _ _ e => nomatch e
theorem nwlCmpCtlWrite (comparator : Nat) (value : W32) : Statement (.nwlCmpCtlWrite comparator value) := fun _ _ e => nomatch e
theorem nwlCmpValWrite (comparator : Nat) (value : W64) : Statement (.nwlCmpValWrite comparator value) := fun _ _ e => nomatch e
theorem ringSelect (hall : Nat) (value : W32) : Statement (.ringSelect hall value) := by
  intro w h e; cases e; simp [Instr.wf, hallOk] at w; omega
theorem ringCommit (hall : Nat) : Statement (.ringCommit hall) := by
  intro w h e; cases e; simp [Instr.wf, hallOk] at w; omega
theorem ringEnable (hall function : Nat) : Statement (.ringEnable hall function) := by
  intro w h e; cases e; simp [Instr.wf, hallOk] at w; omega
theorem ringReset (hall : Nat) : Statement (.ringReset hall) := by
  intro w h e; cases e; simp [Instr.wf, hallOk] at w; omega
theorem knotOwnerWrite (hall : Nat) (value : W32) : Statement (.knotOwnerWrite hall value) := by
  intro w h e; cases e; simp [Instr.wf, hallOk] at w; omega
theorem patternLoad (hall : Nat) : Statement (.patternLoad hall) := by
  intro w h e; cases e; simp [Instr.wf, hallOk] at w; omega
theorem patternLoadComplete (hall : Nat) : Statement (.patternLoadComplete hall) := by
  intro w h e; cases e; simp [Instr.wf, hallOk] at w; omega
theorem patternClear (hall : Nat) : Statement (.patternClear hall) := by
  intro w h e; cases e; simp [Instr.wf, hallOk] at w; omega
theorem diagEnter (hall : Nat) (value : W32) : Statement (.diagEnter hall value) := by
  intro w h e; cases e; simp [Instr.wf, hallOk] at w; omega
theorem diagEntryComplete (hall : Nat) : Statement (.diagEntryComplete hall) := by
  intro w h e; cases e; simp [Instr.wf, hallOk] at w; omega
theorem diagExit (hall : Nat) : Statement (.diagExit hall) := by
  intro w h e; cases e; simp [Instr.wf, hallOk] at w; omega
theorem quiesce (hall : Nat) : Statement (.quiesce hall) := by
  intro w h e; cases e; simp [Instr.wf, hallOk] at w; omega
theorem ctxBaseWrite (hall : Nat) (value : W32) : Statement (.ctxBaseWrite hall value) := by
  intro w h e; cases e; simp [Instr.wf, hallOk] at w; omega
theorem levelNegotiate (value : W32) : Statement (.levelNegotiate value) := fun _ _ e => nomatch e
theorem eventClear (page : Nat) (value : W32) : Statement (.eventClear page value) := fun _ _ e => nomatch e
theorem windowCommit (hall : Nat) : Statement (.windowCommit hall) := by
  intro w h e; cases e; simp [Instr.wf, hallOk] at w; omega
theorem windowClear (hall : Nat) : Statement (.windowClear hall) := by
  intro w h e; cases e; simp [Instr.wf, hallOk] at w; omega
theorem windowFetch (hall : Nat) : Statement (.windowFetch hall) := by
  intro w h e; cases e; simp [Instr.wf, hallOk] at w; omega
theorem cacheShareSet (hall : Nat) (value : W32) : Statement (.cacheShareSet hall value) := by
  intro w h e; cases e; simp [Instr.wf, hallOk] at w; omega
theorem shareZeroDone (hall : Nat) : Statement (.shareZeroDone hall) := by
  intro w h e; cases e; simp [Instr.wf, hallOk] at w; omega
theorem cacheInvalidate (hall : Nat) : Statement (.cacheInvalidate hall) := by
  intro w h e; cases e; simp [Instr.wf, hallOk] at w; omega
theorem ldgCapWrite (hall : Nat) (value : W32) : Statement (.ldgCapWrite hall value) := by
  intro w h e; cases e; simp [Instr.wf, hallOk] at w; omega
theorem strStateRead (hall : Nat) : Statement (.strStateRead hall) := by
  intro w h e; cases e; simp [Instr.wf, hallOk] at w; omega
theorem reg64LowRead (offset : Nat) : Statement (.reg64LowRead offset) := fun _ _ e => nomatch e
theorem selvedgeProgLoad (value : W32) : Statement (.selvedgeProgLoad value) := fun _ _ e => nomatch e
theorem selvedgeProgLoadDone : Statement (.selvedgeProgLoadDone) := fun _ _ e => nomatch e
theorem flightEnable (port : Nat) (value : W32) : Statement (.flightEnable port value) := fun _ _ e => nomatch e
theorem flightAdmit (port : Nat) : Statement (.flightAdmit port) := fun _ _ e => nomatch e
theorem flightReject (port : Nat) : Statement (.flightReject port) := fun _ _ e => nomatch e
theorem registerWrite (function offset width : Nat) (value : W64) : Statement (.registerWrite function offset width value) := fun _ _ e => nomatch e
theorem managementSpaceAccess (ring : Nat) (write : Bool) (offset width : Nat) (value : W64) : Statement (.managementSpaceAccess ring write offset width value) := fun _ _ e => nomatch e
theorem ptpLockLoss : Statement (.ptpLockLoss) := fun _ _ e => nomatch e
theorem perstRelease (function : Nat) (split refclkToggles : Bool) : Statement (.perstRelease function split refclkToggles) := fun _ _ e => nomatch e
theorem hostLinkTrained (speed width : Nat) (cxl : Bool) (function : Nat := 0) : Statement (.hostLinkTrained speed width cxl function) := fun _ _ e => nomatch e
theorem sensePinMate : Statement (.sensePinMate) := fun _ _ e => nomatch e

end Sys2Proof.Laws.Hall
end

