-- ==== Sys2Proof/Tests/Slice0.lean ====
section
/-!
SUPPORT. The tests of the model: ill-formed commands that the checks refuse, small checks of single commands against the specification's
own examples or a calculation by hand, and, for every statement with hypotheses, a concrete state and operands that meet them together.
-/
namespace Sys2Proof.Tests
open Sys2Proof Sys2Proof.Machine
set_option Elab.async false

/-! ### Small states -/

/-- A module in READY state with every hall up. -/
def up : State := { State.reset with boot := { State.reset.boot with state := .ready, step := 7, hallsOk := 0xFF } }

/-- A 64-byte block from its fields, each given as its first bit and its value. -/
def block (fs : List (Nat × Nat)) : Block512 := BitVec.ofNat 512 (fs.foldl (fun n f => n + f.2 * 2 ^ f.1) 0)

/-- An open operator window: its base, format code, row length, rows and row stride (R39). -/
def win (base fmt n rows stride : Nat) : Block512 :=
  block [(0, base), (64, fmt), (72, 2), (75, 1), (80, 0x3FFF), (128, n), (152, rows), (176, 1), (200, 1), (224, 1), (256, stride)]

/-- Ring 0: ENABLED, the operator's, 16 entries, loom 0, no interrupt, its three areas in host memory (R129). -/
def ring0 : Ring :=
  { Ring.reset with entry := block [(0, 3 * 2 ^ 60 + 0x1000), (64, 3 * 2 ^ 60 + 0x2000), (128, 4), (136, 1), (144, 0x3FFF), (168, 1),
      (176, 0xFFFF), (192, 3 * 2 ^ 60 + 0x3000)], f := 1, p := 1 }

/-- The item of descriptor 0 of ring 0. -/
def id0 : ItemId := ⟨0, 0, 0⟩

/-- An item that may run, with its descriptor and its windows by handle. -/
def item0 (d : Block512) (ws : List (W32 × Block512)) : Item :=
  { id := id0, hall := 0, desc := d, phase := .dispatched, status := .ok, failedAt := none, failures := [], adjust := none, setsKnot := true, waitMet := true
    wins := ws, scales := [], ctxs := [], runs := [], buffers := [], emit := [], calls := [], caller := none, termMet := false
    image := [], unitCount := 1, unitsDone := [], linesDone := [], progress := 0, replay := 0, bytes := 0, hallByte := 0, looms := [] }

/-- A READY module whose only item is the one given, on ring 0. -/
def holding (t : Item) : State := { up with rings := [(0, ring0)], items := [t] }

/-- What `Runs` asks, as one check. -/
def runsCheck (s : State) (it : ItemId) (o : Opcode) (t : Item) : Bool :=
  decide (s.runnable it o = some t) && decide (t.phase = .dispatched) && s.hallRuns t.hall && !s.cutOff t && !s.mod.resetDue && t.wins.all fun w => addrSpace (winBase w.2) != 5

theorem runs_of {s : State} {it : ItemId} {o : Opcode} {t : Item} (h : runsCheck s it o t = true) : Runs s it o t := by
  simp only [runsCheck, Bool.and_eq_true, decide_eq_true_eq, Bool.not_eq_true', List.all_eq_true, bne_iff_ne, ne_eq] at h
  exact ⟨h.1.1.1.1.1, h.1.1.1.1.2, h.1.1.1.2, h.1.1.2, h.1.2, h.2⟩

/-! ### Well-formedness: one ill-formed command for each check -/

theorem test_wf_ring : Instr.wf (.doorbellPWrite 16384 0) = false ∧ Instr.wf (.doorbellPWrite 16383 0) = true := by decide
theorem test_wf_hall : Instr.wf (.descriptorFetch 8 .clean) = false ∧ Instr.wf (.descriptorFetch 7 .clean) = true := by decide
theorem test_wf_loom : Instr.wf (.tilePass 0 96) = false ∧ Instr.wf (.tilePass 0 95) = true := by decide
theorem test_wf_item : Instr.wf (.nop ⟨0, 2 ^ 32, 0⟩) = false ∧ Instr.wf (.nop ⟨16384, 0, 0⟩) = false ∧ Instr.wf (.nop ⟨16383, 5, 0⟩) = true := by decide
theorem test_wf_slice : Instr.wf (.bobbinSliceFill 0 0 ⟨12288, 0, false, 0, 0⟩ .clean) = false ∧
    Instr.wf (.bobbinSliceFill 0 0 ⟨12287, 8, false, 0, 0⟩ .clean) = false ∧ Instr.wf (.bobbinSliceFill 0 0 ⟨12287, 7, false, 0, 0⟩ .clean) = true := by decide
theorem test_wf_stream : Instr.wf (.streamStarved 0 4096) = false ∧ Instr.wf (.streamStarved 0 4095) = true := by decide
theorem test_wf_word : Instr.wf (.correctedWriteback 4) = false ∧ Instr.wf (.correctedWriteback (2 ^ 64)) = false ∧ Instr.wf (.correctedWriteback 8) = true := by decide
theorem test_wf_stack : Instr.wf (.hbmScrubRead 0 (72 * 2 ^ 30) .clean) = false ∧ Instr.wf (.hbmScrubRead 0 8 .clean) = true := by decide
theorem test_wf_selvedge : Instr.wf (.selvedgeUpdateBegin 13) = false ∧ Instr.wf (.selvedgeUpdateBegin 12) = true := by decide
theorem test_wf_register : Instr.wf (.add 0 64 0 0) = false ∧ Instr.wf (.add 0 63 0 0) = true := by decide
theorem test_wf_repeat : Instr.wf (.repeatBlock 0 0 [0]) = false ∧ Instr.wf (.repeatBlock 0 2 []) = false ∧ Instr.wf (.repeatBlock 0 2 [0]) = true := by decide
theorem test_wf_port : Instr.wf (.linkDown 12) = false ∧ Instr.wf (.linkDown 11) = true := by decide
theorem test_wf_hello : Instr.wf (.helloReceive 0 ⟨0, 0, 1, 16, 0, 0, 1, 1, 1, false, 0, false, false⟩) = false ∧
    Instr.wf (.helloReceive 0 ⟨0, 0, 1, 15, 0, 0, 16, 1, 1, false, 0, false, false⟩) = true := by decide
theorem test_wf_notice : Instr.wf (.lossNotice 0 .x 16 0) = false ∧ Instr.wf (.lossNotice 0 .x 0 2) = false ∧ Instr.wf (.lossNotice 0 .x 15 1) = true := by decide
theorem test_wf_payload : payloadOk (List.replicate 8193 0) = false ∧ payloadOk (List.replicate 8192 0) = true := by decide +kernel
theorem test_wf_receiver : Instr.wf (.negativeAck ⟨0, 0, 0⟩ 256 .ok) = false ∧ Instr.wf (.negativeAck ⟨0, 0, 0⟩ 255 .ok) = true := by decide
theorem test_wf_express : Instr.wf (.expressForward 0 2 0 [] []) = false ∧ Instr.wf (.expressForward 0 1 0 [] []) = true := by decide
theorem test_wf_stall : Instr.wf (.expressForward 0 1 0 [] [] 0 1000001) = false ∧ Instr.wf (.expressForward 0 1 0 [] [] 0 1000000) = true := by decide
theorem test_wf_ack_port : Instr.wf (.negativeAck ⟨0, 0, 0⟩ 0 .ok 12) = false ∧ Instr.wf (.multicastChunkAck ⟨0, 0, 0⟩ 0 12) = false ∧
    Instr.wf (.multicastChunkAck ⟨0, 0, 0⟩ 0 11 (some 3)) = true := by decide
theorem test_wf_branch : Instr.wf (.multicastPrune ⟨0, 0, 0⟩ [] (.branch 0 12)) = false ∧
    Instr.wf (.multicastPrune ⟨0, 0, 0⟩ [] (.report 0 12 [])) = false ∧ Instr.wf (.multicastPrune ⟨0, 0, 0⟩ [] (.report 0 11 [])) = true := by decide
theorem test_wf_priority : Instr.wf (.frameReceive 0 0 8) = false ∧ Instr.wf (.frameReceive 0 0 7) = true := by decide
theorem test_wf_opening : Instr.wf (.collectiveOpen ⟨.x, 0, 16, 0x50, 1, 2, 0, false, none⟩) = false ∧
    Instr.wf (.collectiveOpen ⟨.x, 0, 0, 0x50, 1, 17, 0, false, none⟩) = false ∧
    Instr.wf (.collectiveOpen ⟨.x, 0, 1, 0x50, 1, 2, 0, false, none⟩) = true := by decide
theorem test_wf_withdrawal : Instr.wf (.collectiveWithdrawal 0 .x 65536 0 2) = false ∧ Instr.wf (.collectiveWithdrawal 0 .x 65535 15 16) = true := by decide
theorem test_wf_shard : Instr.wf (.collectiveData .x 0 16 0 [] 0 2) = false ∧ Instr.wf (.collectiveData .x 0 0 2 [] 0 2) = false ∧
    Instr.wf (.collectiveData .x 0 15 1 [] 0 16) = true := by decide
theorem test_wf_prune : Instr.wf (.multicastPrune ⟨0, 0, 0⟩ [256]) = false ∧ Instr.wf (.multicastPrune ⟨0, 0, 0⟩ [255]) = true := by decide
theorem test_wf_function : Instr.wf (.configRequest 2) = false ∧ Instr.wf (.configRequest 1) = true := by decide
theorem test_wf_bar4 : Instr.wf (.bar4Access 0 true 0 4 [1]) = false ∧ Instr.wf (.bar4Access 0 false (2 ^ 36) 1 []) = false ∧
    Instr.wf (.bar4Access 0 true 0 1 [1]) = true := by decide
theorem test_wf_host : Instr.wf (.hostCompletion (.descriptor 0) .success (BitVec.ofNat 64 (2 ^ 57)) []) = false ∧
    Instr.wf (.hostCompletion (.descriptor 0) .success 64 []) = true := by decide
theorem test_wf_slot : Instr.wf (.keyErase 16384 true) = false ∧ Instr.wf (.keyErase 16383 true) = true := by decide
theorem test_wf_comparator : Instr.wf (.moduleWake (.comparator 8)) = false ∧ Instr.wf (.moduleWake (.comparator 7)) = true := by decide
theorem test_wf_celsius : Instr.wf (.hallPark 0 256) = false ∧ Instr.wf (.hallPark 0 255) = true := by decide
theorem test_wf_pulses : Instr.wf (.coolantFlowTrip 2001) = false ∧ Instr.wf (.coolantFlowTrip 2000) = true := by decide
theorem test_wf_page : Instr.wf (.eventClear 65536 0) = false ∧ Instr.wf (.eventClear 65535 0) = true := by decide
theorem test_wf_bar0 : Instr.wf (.reg64LowRead (2 ^ 28 + 2 ^ 20)) = false ∧ Instr.wf (.reg64LowRead 2) = false ∧ Instr.wf (.reg64LowRead 4) = true := by decide
theorem test_wf_width : Instr.wf (.registerWrite 0 0 3 0) = false ∧ Instr.wf (.registerWrite 0 0 8 0) = true := by decide
theorem test_wf_management : Instr.wf (.managementSpaceAccess 0 false (2 ^ 24) 4 0) = false ∧ Instr.wf (.managementSpaceAccess 0 false 0 4 0) = true := by decide
theorem test_wf_link : Instr.wf (.hostLinkTrained 7 16 false 0) = false ∧ Instr.wf (.hostLinkTrained 6 17 false 0) = false ∧
    Instr.wf (.hostLinkTrained 6 16 false 2) = false ∧ Instr.wf (.hostLinkTrained 6 16 true 1) = true := by decide

/-- No word spells a command: the table gives no row bits. -/
theorem test_no_word : decodeTableWord 32 0x1234 = none ∧ (up.withFetchWord 32 0x1234) = up := by decide +kernel

/-! ### States and operands that meet the hypotheses of the statements -/

/-- Hypotheses of `IdleStepMovesOnlyTheNewel`: nothing waits, with power and without. -/
theorem witness_idle : State.reset.pending = [] ∧ State.reset.newel.powered = true ∧ State.reset.power.asleep = false ∧
    State.reset.newel.slewNs = 0 ∧ ({ up with newel := { up.newel with powered := false } } : State).newel.powered = false := by decide +kernel

/-- `StepKeepsMemoryCanonical` and `EveryCommandKeepsQueueAndFuses`: a step and a command that go on from a canonical memory. -/
theorem witness_steps : up.mem.wf = true ∧ (∃ s', step { up with pending := [.sensePinMate] } = .next s') ∧ ∃ s', exec .sensePinMate up = .next s' :=
  ⟨by decide +kernel, ⟨_, rfl⟩, ⟨_, rfl⟩⟩

/-- `StatusCodesAndClasses`: items that have failed, have not, and have an adjustment. -/
theorem witness_classes : statusFailed ({ item0 0 [] with status := .access } : Item).status = true ∧
    statusFailed (item0 0 []).status = false ∧ (item0 0 []).adjust = none ∧
    ({ item0 0 [] with adjust := some .stepAdopted } : Item).adjust = some .stepAdopted := by decide +kernel

/-- An item that has ended: a NOP whose set entry adds 3 at knot 5 of hall `h`. -/
def ended (h : Nat) (st : Status) : Item := { item0 (block [(96, 3), (116, 5), (124, h), (127, 1)]) [] with phase := .decided, status := st }

/-- `KnotRules`, an item's end: at its own hall's knot and at another's, with success and with failure. -/
theorem witness_knot_end :
    (let s := holding (ended 0 .ok)
     s.item id0 = some (ended 0 .ok) ∧ s.itemEnded (ended 0 .ok) = true ∧ entryValid (descSet (ended 0 .ok).desc) = true ∧
      (ended 0 .ok).setsKnot = true ∧ entryHall (descSet (ended 0 .ok).desc) = (ended 0 .ok).hall ∧ statusFailed (ended 0 .ok).finalStatus = false) ∧
    (let s := holding (ended 7 .access)
     s.item id0 = some (ended 7 .access) ∧ s.itemEnded (ended 7 .access) = true ∧ entryHall (descSet (ended 7 .access).desc) ≠ (ended 7 .access).hall ∧
      statusFailed (ended 7 .access).finalStatus = true) := by decide +kernel

/-- `KNOT_SET` of value 9 at knot 255 of hall `h`, by assignment when `a` is 1. -/
def knotSet (h a : Nat) : Item := item0 (block [(0, 1), (128, 255), (136, h), (144, a), (160, 9)]) []

/-- `KnotRules` and `KnotSetUpdatesItsKnot`: both modes, at its own hall and at another. -/
theorem witness_knot_set : Runs (holding (knotSet 0 1)) id0 .knotSet (knotSet 0 1) ∧ (knotSet 0 1).desc.getLsbD 144 = true ∧
    fieldNat (knotSet 0 1).desc 136 3 = (knotSet 0 1).hall ∧ Runs (holding (knotSet 7 0)) id0 .knotSet (knotSet 7 0) ∧
    fieldNat (knotSet 7 0).desc 136 3 ≠ (knotSet 7 0).hall :=
  ⟨runs_of (by decide +kernel), by decide +kernel, by decide +kernel, runs_of (by decide +kernel), by decide +kernel⟩

/-- `KnotRules`, a wait entry of target 1 at knot 0 of hall 0: poisoned, met at the bound, unmet at the bound. -/
theorem witness_wait_states : entryValid 0x80000001 = true ∧
    ({ up with knots := [(0, ⟨1, true, 0x3FFF⟩)] } : State).knotPoisoned (entryKey 0x80000001) = true ∧
    (let s : State := { up with knots := [(0, ⟨2 ^ 19, false, 0x3FFF⟩)] }
     s.knotPoisoned (entryKey 0x80000001) = false ∧ waitMetBy (s.knot (entryKey 0x80000001)).count (entryTarget 0x80000001) = true) ∧
    (let s : State := { up with knots := [(0, ⟨2 ^ 19 + 1, false, 0x3FFF⟩)] }
     s.knotPoisoned (entryKey 0x80000001) = false ∧ waitMetBy (s.knot (entryKey 0x80000001)).count (entryTarget 0x80000001) = false) := by
  decide +kernel

/-- `LevelNegotiation`: no ring ENABLED, one ENABLED, level 0 with a ring that is DISABLED, and a descriptor of level 1. -/
theorem witness_levels : up.hostInterfaceUp = true ∧ up.anyRingEnabled = false ∧ (holding (item0 0 [])).hostInterfaceUp = true ∧
    (holding (item0 0 [])).anyRingEnabled = true ∧ (let s : State := { up with mod := { up.mod with levelAct := 0 } }
      s.mod.levelAct = 0 ∧ ringState (s.ring 0).entry ≠ ringEnabled) ∧ up.mod.levelAct = 1 ∧ descLevel (block [(8, 1)]) ≤ 1 := by decide +kernel

/-- A module whose treadle page of hall 0 has recorded a fault. -/
def faulty : State := { up with pages := [(pgTreadle 0, ⟨0x80000001, 0, 0x14, 1, 7, 0, 0⟩)] }

/-- `FaultRecording`: pages with and without a recorded fault; an answering page; masks with bit 31 and without. -/
theorem witness_faults : (up.page (pgTreadle 0)).count = 0 ∧ (faulty.page (pgTreadle 0)).count ≠ 0 ∧
    pageOf (pgTreadle 0) = some (.treadle 0) ∧ faulty.pageAnswers (.treadle 0) = true ∧ faulty.pagePresent (.treadle 0) = true ∧
    (0x80000000 : W32).getLsbD 31 = true ∧ (0x7FFFFFFF : W32).getLsbD 31 = false := by decide +kernel

/-- `DoorbellWrites`: a DISABLED ring, and an ENABLED one at both sides of the bounds of P and of H. -/
theorem witness_doorbells : up.ready = true ∧ ringState (up.ring 0).entry ≠ ringEnabled ∧
    (let s := holding (item0 0 [])
     s.ready = true ∧ ringState (s.ring 0).entry = ringEnabled ∧ ((17 : W32) - (s.ring 0).f).toNat ≤ ringSize (s.ring 0).entry ∧
      ringSize (s.ring 0).entry < ((18 : W32) - (s.ring 0).f).toNat ∧ ((s.ring 0).c - 0xFFFFFFF0).toNat ≤ ringSize (s.ring 0).entry ∧
      ringSize (s.ring 0).entry < ((s.ring 0).c - 0xFFFFFFEF).toNat) := by decide +kernel

/-- Ring 0 with one descriptor to fetch; with `gone`, the host of its function has departed. With `ahead`, the descriptor has been read. -/
def fetching (gone ahead : Bool) : State :=
  { up with rings := [(0, { ring0 with f := if ahead then 1 else 0, ahead := if ahead then [0] else [] })]
            hif := { up.hif with departed := if gone then 1 else 0 } }

/-- `FetchTakesDescriptorF`: a descriptor to read that is not in the module, one that has been read ahead, and one that cannot be read. -/
theorem witness_fetch :
    (let s := fetching false false
     s.hallRuns 0 = true ∧ s.nextRing 0 = some 0 ∧ Ecc.clean.bad = false ∧ s.ledgerBusy 0 (Requester.ofRing 0) = false ∧ (s.ring 0).ahead = [] ∧
      (s.ring 0).mayRead = true ∧ (s.ring 0).p = (s.ring 0).f + 1 ∧ addrSpace (descriptorAddr (s.ring 0).entry (s.ring 0).f.toNat) = 3 ∧
      s.descriptorReadable 0 = true ∧ (∀ u ∈ s.items, u.id ≠ ⟨0, (s.ring 0).f.toNat, 0⟩) ∧ (Ecc.uncorrectable 0).bad = true) ∧
    (let s := fetching false true
     s.hallRuns 0 = true ∧ s.nextRing 0 = some 0 ∧ s.ledgerBusy 0 (Requester.ofRing 0) = false ∧ (s.ring 0).ahead = [0] ∧
      (s.ring 0).mayRead = false ∧ (∀ u ∈ s.items, u.id ≠ ⟨0, 0, 0⟩)) ∧
    (let s := fetching true false
     s.hallRuns 0 = true ∧ s.nextRing 0 = some 0 ∧ s.ledgerBusy 0 (Requester.ofRing 0) = false ∧ (s.ring 0).ahead = [] ∧
      (s.ring 0).mayRead = true ∧ s.descriptorWaits 0 = false ∧ s.descriptorReadable 0 = false) := by decide +kernel

/-- A piece of the item of descriptor 0 for a queue of loom 0. -/
def pieceIn (q : Queue) : Piece := ⟨id0, 0, 0, q, .forward, 0, 0, true, []⟩
/-- Its piece for the load queue. -/
def piece0 : Piece := pieceIn .load

/-- `ParkedCommandGoesOn`: a parked command with one piece left. -/
theorem witness_parked :
    let t : Item := { item0 (block [(0, 0x10)]) [] with emit := [piece0] }
    let s : State := { holding t with rings := [(0, { ring0 with parked := some id0 })] }
    (s.ring 0).parked = some t.id ∧ s.item t.id = some t ∧ t.caller = none ∧ t.id.ring = 0 ∧ t.emit = [piece0] ∧
      (s.lane piece0.key).length < 64 ∧ s.waitsMet := by
  intro t s; unfold State.waitsMet; decide +kernel

/-- Two lanes of a landing queue with ready heads, the selector having passed the other over `n` times, `ln` running. -/
def twoLanes (ps qs : List Piece) (n : Nat) (ln : Option Lane) : State :=
  { holding { item0 (block [(0, 0x30)]) [] with phase := .decided } with
    lanes := [(laneKey 0 0 .landing .forward, ps), (laneKey 0 0 .landing .backward, qs)], sel := [(selKey 0 0 .landing, ⟨.forward, n, ln⟩)] }

/-- Whether the head of a landing lane of loom 0 is ready, as `DobbySelectorChooses` asks. -/
def landingReady (s : State) (ln : Lane) : Bool := ((s.lane (laneKey 0 0 .landing ln)).head?.map s.headReady).getD false

/-- `DobbySelectorChooses`: one lane ready, the other, both below and at the limit of 8, neither; and a running piece that is done. -/
theorem witness_dobby : (twoLanes [pieceIn .landing] [pieceIn .landing] 7 none).hallRuns 0 = true ∧
    ((twoLanes [pieceIn .landing] [pieceIn .landing] 7 none).selector (selKey 0 0 .landing)).running = none ∧ Queue.landing ≠ Queue.matrix ∧
    ((twoLanes [pieceIn .landing] [pieceIn .landing] 7 none).selector (selKey 0 0 .landing)).passed < 8 ∧
    landingReady (twoLanes [pieceIn .landing] [pieceIn .landing] 7 none) .forward = true ∧ landingReady (twoLanes [pieceIn .landing] [pieceIn .landing] 7 none) .backward = true ∧
    8 ≤ ((twoLanes [pieceIn .landing] [pieceIn .landing] 8 none).selector (selKey 0 0 .landing)).passed ∧
    landingReady (twoLanes [pieceIn .landing] [] 0 none) .backward = false ∧ landingReady (twoLanes [] [pieceIn .landing] 0 none) .forward = false ∧
    landingReady (twoLanes [] [pieceIn .landing] 0 none) .backward = true ∧
    (let s := twoLanes [pieceIn .landing] [] 0 (some .forward)
     (s.selector (selKey 0 0 .landing)).running = some .forward ∧ s.lane (laneKey 0 0 .landing .forward) = pieceIn .landing :: [] ∧ s.pieceDone (pieceIn .landing) = true ∧ (pieceIn .landing).queue = .landing ∧
      (∀ r ∈ s.rings, r.2.parked = none) ∧ ∀ u ∈ s.items, u.waitMet = true) := by decide +kernel

/-- A NOP that has ended with no set entry. -/
def endedPlain : Item := { item0 0 [] with phase := .decided }

/-- `ItemCompletesWithRecord`: an ended item on a ring whose completion ring and writeback lie in host memory. -/
theorem witness_record :
    let s := holding endedPlain
    s.item id0 = some endedPlain ∧ id0.sub = 0 ∧ endedPlain.caller = none ∧ s.itemEnded endedPlain = true ∧ s.canRecord 0 = true ∧
      addrSpace (ringCompletionBase (s.ring 0).entry) = 3 ∧
      addrSpace (ringCompletionBase (s.ring 0).entry + 32 * ((s.ring 0).c.toNat % ringSize (s.ring 0).entry)) = 3 ∧
      addrSpace (ringWriteback (s.ring 0).entry) = 3 ∧ (∀ u ∈ s.items, u.waitMet = true) ∧ endedPlain.failedAt = none ∧
      endedPlain.status = .ok ∧ endedPlain.bytes < 2 ^ 64 := by decide +kernel

/-- Three updates on their way, two to one knot. -/
def crossing : State := { up with knotMsgs := [⟨5, .add 1⟩, ⟨6, .poison⟩, ⟨5, .add 2⟩] }

/-- `KnotUpdatesArriveInOrder`: an update with none before it, and one behind another for its knot. -/
theorem witness_crossing : crossing.knotMsgs[1]? = some ⟨6, .poison⟩ ∧ (∀ x ∈ crossing.knotMsgs.take 1, x.key ≠ 6) ∧
    crossing.knotMsgs[2]? = some ⟨5, .add 2⟩ ∧ ∃ x ∈ crossing.knotMsgs.take 2, x.key = 5 := by decide +kernel

/-- A `RECV` that waits outside the looms. -/
def receiving : Item := { item0 (block [(0, 0x54)]) [] with phase := .external }

/-- `LimitsAreReported`: a wait at its limit, and a ring that its host has not drained for 100 ms of newel time, and for less. -/
theorem witness_limits :
    (holding receiving).item id0 = some receiving ∧ receiving.failedAt = none ∧ receiving.caller = none ∧
      (holding receiving).hallRuns receiving.hall = true ∧ receiving.mat = none ∧ (holding receiving).treadleWaits receiving = true ∧
    (let s : State := { up with rings := [(0, { ring0 with f := 16, p := 17 })], heldSince := [(0, 1)] }
     (s.ring 0).heldFull = true ∧ Table.get 0 s.heldSince 0 ≠ 0 ∧ s.newel.time.toNat < Table.get 0 s.heldSince 0 + 100000000 ∧
      Table.get 0 s.heldSince 0 + 100000000 ≤ ({ s.newel with time := 100000001 } : Newel).time.toNat) := by decide +kernel

/-- The same of a piece at the head of its lane that waits for its knot. -/
theorem witness_waiting_head :
    let t : Item := { item0 (block [(0, 0x30), (64, 0x80000001)]) [] with waitMet := false }
    let s : State := { holding t with lanes := [(laneKey 0 0 .landing .forward, [pieceIn .landing])] }
    s.item id0 = some t ∧ t.caller = none ∧ t.failedAt = none ∧ s.hallRuns t.hall = true ∧ s.waitingHeads t ≠ [] := by decide +kernel

/-- `NopAndFenceComplete`: a `NOP`, a `FENCE` with nothing before it, and one behind an earlier item. -/
theorem witness_nop_fence : Runs (holding (item0 0 [])) id0 .nop (item0 0 []) ∧ Runs (holding (item0 3 [])) id0 .fence (item0 3 []) ∧
    (∀ u ∈ (holding (item0 3 [])).items, itemBefore u.id id0 = false) ∧
    (let t : Item := { item0 3 [] with id := ⟨0, 1, 0⟩ }
     let s : State := { holding receiving with items := [receiving, t] }
     Runs s ⟨0, 1, 0⟩ .fence t ∧ ∃ u ∈ s.items, itemBefore u.id ⟨0, 1, 0⟩ = true) :=
  ⟨runs_of (by decide +kernel), runs_of (by decide +kernel), by decide +kernel, runs_of (by decide +kernel), by decide +kernel⟩

/-- A `KNOT_WAIT` for knot 0 of hall 0 at target 1, and a module where that knot has a count and a poison bit. -/
def waiter : Item := item0 (block [(0, 2), (128, 0x80000001)]) []
def waitingAt (n : W32) (poison : Bool) : State := { holding waiter with knots := [(0, ⟨n, poison, 0x3FFF⟩)] }

/-- `KnotWaitIsMetOrFails`: met, poisoned, unmet. -/
theorem witness_knot_wait : Runs (waitingAt 1 false) id0 .knotWait waiter ∧ waiter.failedAt = none ∧ waiter.caller = none ∧
    (∀ w ∈ openWaits waiter, (waitingAt 1 false).waitState w.2 = .met) ∧ Runs (waitingAt 1 true) id0 .knotWait waiter ∧
    (∃ w ∈ openWaits waiter, (waitingAt 1 true).waitState w.2 = .poisoned) ∧ Runs (waitingAt 0 false) id0 .knotWait waiter ∧
    (∀ w ∈ openWaits waiter, (waitingAt 0 false).waitState w.2 ≠ .poisoned) ∧
    ∃ w ∈ openWaits waiter, (waitingAt 0 false).waitState w.2 = .unmet :=
  ⟨runs_of (by decide +kernel), by decide +kernel, by decide +kernel, by decide +kernel, runs_of (by decide +kernel), by decide +kernel,
    runs_of (by decide +kernel), by decide +kernel, by decide +kernel⟩

/-- `PatternCallEmits`: a call with its parameters in the descriptor, and errors of both kinds. -/
theorem witness_pattern : Runs (holding (item0 4 [])) id0 .callPattern (item0 4 []) ∧ (item0 4 []).caller = none ∧
    (item0 4 []).failedAt = none ∧ Ecc.clean.bad = false ∧ (Ecc.uncorrectable 0).bad = true ∧
    (holding (item0 4 [])).readFault ((holding (item0 4 [])).itemFunction id0) true (item0 4 []).callReads = none ∧
    (∀ r ∈ (item0 4 []).callReads, (holding (item0 4 [])).readReady (item0 4 []) r = true) ∧
    ((holding (item0 4 [])).ring 0).parked = none ∧ (holding (item0 4 [])).callHeld id0 = false ∧
    ∀ u ∈ (holding (item0 4 [])).items, u.id ≠ { id0 with sub := (item0 4 []).progress + 1 } :=
  ⟨runs_of (by decide +kernel), by decide +kernel⟩

/-- A window of 8 byte elements at a gallery address, under handle 1. -/
def stampWin : Block512 := win (galleryAddr 0 0x1000000) 0x0E 8 1 8
/-- `TIMESTAMP` into it, and with no handle. -/
def stamping : Item := item0 (block [(0, 5), (128, 1)]) [(1, stampWin)]
def stampless : Item := item0 (block [(0, 5), (128, noHandle.toNat)]) []

/-- `TimestampWritesNewelTime`: with no handle, and into a gallery window. -/
theorem witness_timestamp : Runs (holding stampless) id0 .timestamp stampless ∧ word32 stampless.desc 16 = noHandle ∧
    Runs (holding stamping) id0 .timestamp stamping ∧ stamping.win 16 = some stampWin ∧
    (let a := winBase stampWin + byteField stamping.desc 20 4
     addrSpace (winBase stampWin) ≠ 2 ∧ addrSpace a ≠ 2 ∧ addrSpace a ≠ 5 ∧
      (holding stamping).accessFault ((holding stamping).itemFunction id0) stampWin [(a, 8)] = none ∧ (holding stamping).hitsZeroing a 8 = false ∧
      addrSpace (winBase stampWin) ≠ 0) :=
  ⟨runs_of (by decide +kernel), by decide +kernel, runs_of (by decide +kernel), by decide +kernel, by decide +kernel⟩

/-- Gallery windows of 8 FP32 elements in one row, and of 4 rows of 8; an index list of one 32-bit index. -/
def rowSrc : Block512 := win (galleryAddr 0 0x1000000) 0x0A 8 1 32
def rowDst : Block512 := win (galleryAddr 0 0x1001000) 0x0A 8 1 32
def tallSrc : Block512 := win (galleryAddr 0 0x1002000) 0x0A 8 4 32
def tallDst : Block512 := win (galleryAddr 0 0x1003000) 0x0A 8 4 32
def indexWin : Block512 := win (galleryAddr 0 0x1004000) 0x0E 4 1 4
/-- All of them, by handle. -/
def someWins : List (W32 × Block512) := [(1, rowSrc), (2, rowDst), (3, tallSrc), (4, tallDst), (5, indexWin)]
/-- An item of an opcode code over windows by handle at bytes 16, 20 and 24. -/
def onWins (code a b c : Nat) (more : List (Nat × Nat)) : Item := item0 (block ([(0, code), (128, a), (160, b), (192, c)] ++ more)) someWins

/-- The context tables of a module as it leaves reset lie low in their galleries: no byte at an offset behind them is a context's. -/
theorem clear_of_records {s : State} (h : s.halls = []) {x : Nat} (hx : 786432 ≤ x % 2 ^ 50) : ¬s.recordByte x ∧ ¬s.chargeByte x := by
  have e (c : Nat) : s.ctxAddr c = 2 ^ 60 + c / 1536 * 2 ^ 57 + c % 1536 * 512 := by
    have : s.hall (c / 1536) = Hall.reset := by rw [State.hall, h]; rfl
    rw [State.ctxAddr, this, galleryAddr, Nat.shiftLeft_eq]
    show 2 ^ 60 + c / 1536 * 2 ^ 57 + (0 * 65536 + c % 1536 * 512) = _
    omega
  constructor
  · rintro ⟨c, -, h1, h2⟩
    rw [e] at h1 h2; omega
  · rintro ⟨c, h1, h2⟩
    rw [e] at h1 h2; omega

/-- What `MayMove` asks, as one check. -/
def moveCheck (s : State) (t : Item) (o : Opcode) : Bool :=
  let m := s.movesOf t
  decide (∀ u ∈ t.unitsLeft, s.moveFault o t m u = none) && (t.unitsLeft.all fun u => (m.reads t u).all (s.readReady t)) &&
    (t.unitsLeft.all fun u => (m.writes t u).all s.writeReady) && s.poison.isEmpty && s.halls.isEmpty &&
    decide (∀ p ∈ (m.left t).flatMap (m.pieces (t.winD 16) (t.winD 20)), ∀ i, i < p.2.2 + 1 →
      addrSpace (p.1 + i) = addrSpace (winBase (t.winD 16)) ∧ addrSpace (p.2.1 + i) = addrSpace (winBase (t.winD 20)) ∧
        786432 ≤ (p.2.1 + i) % 2 ^ 50)
theorem mayMove_of {s : State} {t : Item} {o : Opcode} (h : moveCheck s t o = true) : MayMove s t o (s.movesOf t) := by
  simp only [moveCheck, Bool.and_eq_true, decide_eq_true_eq, List.all_eq_true, List.isEmpty_iff] at h
  obtain ⟨⟨⟨⟨⟨h1, h2⟩, h3⟩, h4⟩, h5⟩, h6⟩ := h
  exact ⟨h1, h2, h3, h4, fun p hp i hi => ⟨(h6 p hp i hi).1, (h6 p hp i hi).2.1, (clear_of_records h5 (h6 p hp i hi).2.2).1⟩⟩

/-- What `UnitsFree` asks, as one check. -/
def unitsCheck (s : State) (w : UnitWork) (t : Item) (rs : List Read) : Bool :=
  decide (∀ u ∈ t.unitsLeft, w.fault s u = none) && (t.unitsLeft.all fun u => w.ready s u) && s.poison.isEmpty && s.halls.isEmpty &&
    decide (∀ r ∈ rs, (∀ p ∈ r.all, ∀ i, i ≤ p.2 → addrSpace (p.1 + i) = addrSpace (winBase r.win) ∧ 786432 ≤ (p.1 + i) % 2 ^ 50) ∧
      addrSpace (winBase r.win) ≠ 5 ∧ (isMx (winFormat r.win) = true → r.c0 % 32 = 0 ∧ r.n % 32 = 0))
theorem unitsFree_of {s : State} {w : UnitWork} {t : Item} {rs : List Read} (h : unitsCheck s w t rs = true) : UnitsFree s w t rs := by
  simp only [unitsCheck, Bool.and_eq_true, decide_eq_true_eq, List.all_eq_true, List.isEmpty_iff] at h
  obtain ⟨⟨⟨⟨h1, h2⟩, h3⟩, h4⟩, h5⟩ := h
  exact ⟨h1, h2, h3, fun r hr p hp i hi => (clear_of_records h4 ((h5 r hr).1 p hp i hi).2).1,
    fun r hr => ⟨fun p hp i hi => ((h5 r hr).1 p hp i hi).1, (h5 r hr).2⟩⟩

/-- `MovementCopiesTheRowsOfItsShape`: a `COPY` of one row of 8 elements. -/
def copying : Item := onWins 0x12 1 2 8 [(216, 1), (240, 1), (264, 1), (288, 1)]
theorem witness_copy : Runs (holding copying) id0 .copy copying ∧ MayMove (holding copying) copying .copy ((holding copying).movesOf copying) ∧
    ((holding copying).movesOf copying).left copying = [(0, 0, 8)] :=
  ⟨runs_of (by decide +kernel), mayMove_of (by decide +kernel), by decide +kernel⟩
/-- `Moved.values`: its segments are whole bytes, its pieces stand apart, and neither window is encrypted. -/
theorem witness_copy_apart :
    let s := holding copying
    let m := s.movesOf copying
    let src := copying.winD 16
    let dst := copying.winD 20
    wholeSegments src (m.left copying) ∧ PiecesApart s 0 ((m.left copying).flatMap (m.pieces src dst)) ∧
      (s.access 0 src).keys = none ∧ (s.access 0 dst).keys = none := by
  intro s m src dst
  have c : ∀ p ∈ (m.left copying).flatMap (m.pieces src dst), ∀ i, i < p.2.2 →
      786432 ≤ (hostKey 0 p.2.1 + i) % 2 ^ 50 ∧ 786432 ≤ (hostKey 0 p.1 + i) % 2 ^ 50 := by decide +kernel
  refine ⟨by unfold wholeSegments; decide +kernel, ⟨by unfold apart; decide +kernel, by unfold apart; decide +kernel, fun p hp i hi => ?_⟩,
    by decide +kernel, by decide +kernel⟩
  exact ⟨(clear_of_records rfl (c p hp i hi).1).2, (clear_of_records rfl (c p hp i hi).2).2⟩

/-- A `GATHER` of one row; the index list names row `i`. -/
def gathering : Item := onWins 0x13 3 2 0 [(320, 5)]
def gatherAt (i : BitVec 8) : State := { holding gathering with mem := [(galleryAddr 0 0x1004000, i)] }

/-- `GatherAndScatterMoveRows`: the last row, and an index one past it. -/
theorem witness_gather : Runs (gatherAt 3) id0 .gather gathering ∧ Runs (gatherAt 4) id0 .gather gathering ∧
    gathering.failedAt = none ∧ gathering.caller = none ∧
    (let s := gatherAt 3
     s.itemIndices gathering = [3] ∧ winDim (gathering.winD 16) 1 = 4 ∧ s.readFault (s.itemFunction id0) true (gathering.reads [40]) = none ∧
      MayMove s gathering .gather (s.movesOf gathering)) ∧
    (let s := gatherAt 4
     s.itemIndices gathering = [4] ∧ s.readFault (s.itemFunction id0) true (gathering.reads [40]) = none) :=
  ⟨runs_of (by decide +kernel), runs_of (by decide +kernel), rfl, rfl,
    ⟨by decide +kernel, by decide +kernel, by decide +kernel, mayMove_of (by decide +kernel)⟩, by decide +kernel, by decide +kernel⟩

/-- A `SCATTER` of one row that adds. -/
def scattering : Item := onWins 0x14 1 4 0 [(313, 1), (320, 5)]
def scatterAt : State := { holding scattering with mem := [(galleryAddr 0 0x1004000, 3)] }
theorem witness_scatter_runs : Runs scatterAt id0 .scatter scattering ∧
    MayMove scatterAt scattering .scatter (scatterAt.movesOf scattering) := ⟨runs_of (by decide +kernel), mayMove_of (by decide +kernel)⟩
theorem witness_scatter :
    let s := scatterAt
    let src := scattering.winD 16
    let dst := scattering.winD 20
    let n := winDim src 0
    let fn := s.itemFunction id0
    let a := rowAddr src 0
    let b := rowAddr dst 3
    scattering.desc.getLsbD 313 = true ∧ s.itemIndices scattering = [3] ∧ 3 < winDim dst 1 ∧ scattering.unitCount = 1 ∧
      scattering.unitsDone = [] ∧ winFormat src = 0x0A ∧ n = 8 ∧ s.readFault fn true (scattering.reads [40]) = none ∧
      (s.access fn src).keys = none ∧ (s.access fn dst).keys = none ∧ addrSpace (winBase dst) ≠ 2 ∧
      (∀ k, k ≤ 4 * n → addrSpace (a + k) = addrSpace (winBase src) ∧ addrSpace (b + k) = addrSpace (winBase dst)) ∧
      apart (hostKey fn a) (4 * n) (hostKey fn b) (4 * n) := by unfold apart; decide +kernel

/-- A `PREFETCH` of one row, and a sealed `OFFLOAD` of a gallery window of context 0 into a host window. -/
def prefetching : Item := onWins 0x15 1 0 8 [(216, 1), (240, 1), (264, 1), (288, 1)]
def sealedSrc : Block512 := setField rowSrc 80 14 0
def hostWin : Block512 := win (3 * 2 ^ 60 + 0x10000) 0x0E 48 1 48
def offloading : Item :=
  { onWins 0x16 1 2 8 [(216, 1), (240, 1), (264, 1), (288, 1)] with wins := [(1, sealedSrc), (2, hostWin)] }
/-- Key slot 0 holds the key of zeros, wrapped under the module key of zeros. -/
def slot0 : KeySlot := ⟨BitVec.ofNat 320 (beNat (keyWrap (List.replicate 32 0) (List.replicate 32 0))), 7, 0⟩
def keyed : State := { holding offloading with sec := { up.sec with keys := [(0, slot0)] }, windows := [(2, hostWin)] }

/-- `PrefetchAndSealedOffload`: with no key; with a spent generation; with a key and a generation left. -/
theorem witness_prefetch_offload : Runs (holding prefetching) id0 .prefetch prefetching ∧ Runs (holding offloading) id0 .offload offloading ∧
    Runs keyed id0 .offload offloading :=
  ⟨runs_of (by decide +kernel), runs_of (by decide +kernel), runs_of (by decide +kernel)⟩
theorem witness_sealed :
    let src := offloading.winD 16
    let rd := shapeRead (word32 offloading.desc 16) src (shapeOf offloading.desc)
    sealedMove .offload (offloading.winD 16) (offloading.winD 20) = true ∧ offloading.failedAt = none ∧ offloading.caller = none ∧
    keyed.readFault (keyed.itemFunction id0) true [rd] = none ∧ keyed.readReady offloading rd = true ∧
    keyed.accessFault (keyed.itemFunction id0) (offloading.winD 20) [] = none ∧ addrSpace (winBase (offloading.winD 20)) = 3 ∧
    (holding offloading).hostImageKey (winOwner src) = none ∧ winGen (keyed.window (handleKey (word32 offloading.desc 20))) ≠ 0xFFFFFFFF ∧
    winGen (({ keyed with windows := [(2, setField hostWin 96 32 0xFFFFFFFF)] } : State).window (handleKey (word32 offloading.desc 20))) = 0xFFFFFFFF := by
  decide +kernel

/-- `LandingCommandsComplete` and `LandingCommandsWriteTheirRow`: an `ELTWISE` that adds two rows of 8 FP32 elements. -/
def adding : Item := { onWins 0x31 1 2 6 [] with wins := someWins ++ [(6, win (galleryAddr 0 0x1005000) 0x0A 8 1 32)] }
theorem witness_landing : Runs (holding adding) id0 .eltwise adding ∧
    UnitsFree (holding adding) ((holding adding).landingWork adding .eltwise) adding (adding.landingLeft .eltwise) ∧
    (holding adding).takesApart adding .eltwise :=
  ⟨runs_of (by decide +kernel), unitsFree_of (by decide +kernel), by unfold State.takesApart; decide +kernel⟩
theorem witness_landing_row : (adding.landingLeft .eltwise).length = 1 ∧
    (∀ r ∈ adding.landingLeft .eltwise, ((holding adding).access 0 r.win).keys = none) ∧ adding.unitCount = 1 ∧ adding.unitsDone = [] ∧
    winRows (adding.winD 16) = 1 ∧ winFormat (adding.winD 24) = 0x0A ∧ winLayout (adding.winD 24) = 0 ∧
    addrSpace (winBase (adding.winD 24)) ≠ 2 := by decide +kernel

/-- `LandingRowArithmetic`, `ReductionOrder` and `ShaftArithmetic`: values at the ends of their ranges. -/
theorem witness_masked_row : ∀ x ∈ [inf32 true, inf32 true], x = inf32 true := by simp
theorem witness_arithmetic :
    0 < [Val.nan].length ∧ [Val.nan].length ≤ 32 ∧ (List.replicate 32 Val.nan).length ≤ 32 ∧ List.replicate 32 Val.nan ≠ [] ∧
    (List.replicate 32 Val.nan).length % 32 = 0 ∧ Tag.nan.value = some nan32 := by decide +kernel
theorem witness_bounds : -(2 ^ 19) ≤ (2 ^ 19 - 2 : Int) + 1 ∧ (2 ^ 19 - 2 : Int) + 1 ≤ 2 ^ 19 - 1 ∧
    (2 ^ 19 - 1 : Int) < (2 ^ 19 - 1) + 1 ∧ (-(2 ^ 19) : Int) + -1 < -(2 ^ 19) ∧ (-(2 ^ 19) : Int) ≤ 2 ^ 19 - 1 := by norm_num

/-! #### A matrix command of one output element -/

/-- Windows of one BF16 element, and of one FP32 element. -/
def one16 (o : Nat) : Block512 := win (galleryAddr 0 o) 0x08 1 1 2
def multiplying : Item :=
  item0 (block [(0, 0x20), (128, 1), (160, 2), (192, 3), (224, 0xFFFFFFFF), (320, 0xFFFFFFFF), (352, 0xFFFFFFFF)])
    [(1, one16 0x1000000), (2, one16 0x1001000), (3, win (galleryAddr 0 0x1002000) 0x0A 1 1 4)]
def mat1 : Mat := matOf multiplying .matmul

/-- `MatrixCommandsComplete` and `TermKnotHoldsMatrixCommands`: with no term knot, and with one not met or poisoned. -/
theorem witness_matmul : Runs (holding multiplying) id0 .matmul multiplying ∧ (holding multiplying).termState multiplying = .met ∧
    UnitsFree (holding multiplying) ((holding multiplying).matWork mat1) multiplying (multiplying.unitsLeft.map mat1.tileWrite) ∧
    multiplying.unitsLeft = [0] ∧ (holding multiplying).slotsApart mat1 :=
  ⟨runs_of (by decide +kernel), by decide +kernel, unitsFree_of (by decide +kernel), by decide +kernel, by unfold State.slotsApart; decide +kernel⟩
/-- `tileBytesIn`: its one row stands apart from nothing else, and its destination takes FP32 elements in the gallery. -/
theorem witness_tile_apart : TileApart (holding multiplying) mat1 0 ∧ winFormat mat1.out = 0x0A ∧ winLayout mat1.out = 0 ∧
    addrSpace (winBase mat1.out) = 1 ∧ ((holding multiplying).access 0 mat1.out).keys = none := by
  have rows : ∀ f k, k < mat1.shaftRows 0 f → f = 0 ∧ k = 0 := by
    intro f k h
    have e : mat1.shaftRows 0 f = Nat.min 32 (1 - 0 - 32 * f) := rfl
    rw [e] at h
    have : k < 1 - 0 - 32 * f := Nat.lt_of_lt_of_le h (Nat.min_le_right ..)
    omega
  have none : mat1.lateReads 0 = [] := by decide +kernel
  refine ⟨⟨fun f k g j h1 h2 ne => ?_, fun _ _ _ q hq => ?_, fun q hq => ?_⟩, by decide +kernel⟩
  · obtain ⟨rfl, rfl⟩ := rows f k h1
    obtain ⟨rfl, rfl⟩ := rows g j h2
    exact absurd rfl ne
  · rw [none] at hq; exact absurd hq (List.not_mem_nil)
  · rw [none] at hq; exact absurd hq (List.not_mem_nil)
theorem witness_no_tiles (t : Item) (u : Nat) : ∀ r, (holding t).tileOf t u = some r → r.fits mat1 := by
  intro r h; exact nomatch h

/-- The same with the adapter flag and the term knot 0 of hall 0 at target 1. -/
def termed : Item := { multiplying with desc := block [(0, 0x20), (18, 1), (128, 1), (160, 2), (192, 3), (224, 0xFFFFFFFF), (320, 0xFFFFFFFF), (352, 0xFFFFFFFF),
  (384, 0xFFFFFFFF), (416, 0x80000001)] }
theorem witness_term_knot : Runs (holding termed) id0 .matmul termed ∧ termed.failedAt = none ∧ termed.caller = none ∧
    (holding termed).termState termed = .unmet ∧
    ({ holding termed with knots := [(0, ⟨0, true, 0x3FFF⟩)] } : State).termState termed = .poisoned ∧
    Runs { holding termed with knots := [(0, ⟨0, true, 0x3FFF⟩)] } id0 .matmul termed :=
  ⟨runs_of (by decide +kernel), rfl, rfl, by decide +kernel, by decide +kernel, runs_of (by decide +kernel)⟩

/-- Loom 0 with a tile, the piece of its pass running, what the shadow registers hold, and what its LOAD pieces have brought. -/
def passPiece : Piece := ⟨id0, 0, 0, .matrix, .forward, 0, 0, true, []⟩
def weft0 : Slot := ⟨id0, 0, weftPart 0 0, storeAddr 0 0 0 0, 128, []⟩
def block0 : Slot := ⟨id0, 0, blockPart mat1.sh 0, storeAddr 0 0 1 0, 8320, []⟩
def onLoom (w : WarpTile) (rs : List TileRun) : State :=
  { holding multiplying with
    lanes := [(laneKey 0 0 .matrix .forward, [passPiece])], sel := [(selKey 0 0 .matrix, ⟨.forward, 0, some .forward⟩)]
    looms := [(0, { Loom.reset with shadow := w, runs := rs, slots := [weft0, block0] })]
    full := granulesOf weft0.base weft0.len ++ granulesOf block0.base block0.len }
def warp0 : WarpTile := ⟨some (id0, 0, 0), [[(0x3F80, 127)]]⟩

/-- `WarpTileEntersTheShadow`: the one tile of the command, on loom 0, its block in its slot. -/
theorem witness_warp_tile :
    let s := onLoom WarpTile.reset []
    let lm := s.loom 0 0
    let rd := tileRead mat1.o multiplying mat1.sh 0 0
    s.item id0 = some multiplying ∧ multiplying.mat = some mat1 ∧ s.unitRuns 0 multiplying 0 = true ∧ s.unitLoom multiplying 0 = 0 ∧
    s.cutOff multiplying = false ∧ lm.passOf id0 0 = 0 ∧ mat1.sameTile 0 0 lm.active = false ∧ 0 < mat1.sh.passes ∧
    s.blockHere multiplying mat1.sh lm 0 0 rd = true ∧ s.passFault mat1 0 0 = none := by decide +kernel

/-- `TilePassAdvancesTheTile`: the tile's warp tile stands in the shadow registers, and its operands in their slots. -/
theorem witness_tile_pass :
    let s := onLoom warp0 []
    let lm := s.loom 0 0
    s.matrixHead 0 0 = some (passPiece, mat1) ∧ mat1.t.id = passPiece.item ∧ s.unitLoom mat1.t 0 = 0 ∧ mat1.t.hall = 0 ∧
    s.cutOff mat1.t = false ∧ s.tileNow mat1 0 = mat1.tileStart 0 ∧ s.passMayStart mat1 lm passPiece = true ∧
    mat1.sameTile 0 0 lm.shadow = true ∧ mat1.sameTile 0 0 lm.active = false ∧ s.passFault mat1 0 0 = none := by decide +kernel
/-- The same with the warp tile already active. -/
theorem witness_tile_pass_active :
    let s : State := { onLoom warp0 [] with looms := [(0, { Loom.reset with active := warp0, slots := [weft0, block0] })] }
    mat1.sameTile 0 0 (s.loom 0 0).active = true ∧ s.passMayStart mat1 (s.loom 0 0) passPiece = true := by decide +kernel

/-- A tile of the command with its one pass done: due for promotion, with an overflow, and finished. -/
def shaft1 (hit : Option (Nat × Nat)) : ShaftRun := ⟨1, 0, 0, 1, 0, [[some 1]], [[.none]], [[.none]], [[0]], hit⟩
def tile1 (due finished : Bool) (hit : Option (Nat × Nat)) : TileRun := ⟨id0, 0, .forward, 1, due, finished, false, [shaft1 hit], []⟩
def plainLoom (rs : List TileRun) : State := onLoom WarpTile.reset rs

/-- `PromotionAndReplayStepTheTile`. -/
theorem witness_promotion : (plainLoom [tile1 true false none]).cutOff mat1.t = false ∧
    (plainLoom [tile1 true false none]).tileWith 0 0 (fun _ r => r.due) = some (mat1, tile1 true false none) ∧
    (let s := plainLoom [tile1 false false (some (0, 0))]
     s.tilesWith 0 0 (fun _ r => r.overflow) = [(mat1, tile1 false false (some (0, 0)))] ∧ s.passPending 0 0 = false ∧
      (s.loom 0 0).runs.Pairwise fun x y => ¬(x.item = y.item ∧ x.unit = y.unit)) := by
  decide +kernel
/-- `PromotionAndReplayStepTheTile`: a cell that the promotion lands. -/
theorem witness_promoted_cell : (shaft1 none).level < 4 ∧ (shaft1 none).acc[0]? = some [some 1] ∧ (shaft1 none).tags[0]? = some [Tag.none] ∧
    (shaft1 none).land[0]? = some [0] ∧ (shaft1 none).base = 0 := by decide
/-- The same where a pass is left that had started before the overflow was detected: a command of two passes, the second still to run. -/
def twoPass : Item :=
  item0 (block [(0, 0x20), (128, 1), (160, 2), (192, 3), (224, 0xFFFFFFFF), (320, 0xFFFFFFFF), (352, 0xFFFFFFFF)])
    [(1, win (galleryAddr 0 0x1000000) 0x08 65 1 130), (2, win (galleryAddr 0 0x1001000) 0x08 65 1 130), (3, win (galleryAddr 0 0x1002000) 0x0A 1 1 4)]
theorem witness_pending :
    let m := matOf twoPass .matmul
    let r := tile1 false false (some (0, 1000))
    let s : State := { holding twoPass with
      lanes := [(laneKey 0 0 .matrix .forward, [{ passPiece with part := 1 }])], sel := [(selKey 0 0 .matrix, ⟨.forward, 0, some .forward⟩)]
      looms := [(0, { Loom.reset with runs := [r], slots := [{ weft0 with part := weftPart 1 0 }, { block0 with part := blockPart m.sh 1 }] })]
      full := granulesOf weft0.base weft0.len ++ granulesOf block0.base block0.len }
    s.tilesWith 0 0 (fun _ r => r.overflow) = [(m, r)] ∧ s.passPending 0 0 = true := by decide +kernel

/-- `EpilogueAndTermsOfATile`, its first clause: a finished tile that waits for no term. -/
theorem witness_epilogue :
    let s := plainLoom [tile1 false true none]
    let w := mat1.tileWrite 0
    s.tileWith 0 0 (fun m r => r.finished && m.allTermed r) = some (mat1, tile1 false true none) ∧ s.cutOff mat1.t = false ∧
      s.tileTerm mat1.t false = .met ∧ s.unitLoom mat1.t 0 = 0 ∧ s.lateFault mat1 0 = none ∧ s.lateReady mat1 0 = true ∧
      ((∀ p ∈ w.all, ∀ i, i ≤ p.2 → addrSpace (p.1 + i) = addrSpace (winBase w.win)) ∧ addrSpace (winBase w.win) ≠ 5 ∧
        (isMx (winFormat w.win) = true → w.c0 % 32 = 0 ∧ w.n % 32 = 0)) ∧
      (tile1 false true none).shafts.length ≤ 4 ∧
      ∀ x ∈ (tile1 false true none).shafts.zipIdx, x.1.land.length ≤ mat1.shaftRows 0 x.2 ∧ ∀ row ∈ x.1.land, row.length ≤ mat1.cols 0 := by
  decide +kernel

/-! #### The key store -/

/-- The vector of RFC 3394, 4.6: a 256-bit key under a 256-bit key (log 14). -/
def rfcKek : BitVec 256 := 0x000102030405060708090A0B0C0D0E0F101112131415161718191A1B1C1D1E1F
def rfcKey : List Byte := beBytes 32 0x00112233445566778899AABBCCDDEEFF000102030405060708090A0B0C0D0E0F
def rfcWrapped : BitVec 320 := 0x28C9F404C4B810F4CBCCB35CFB87F8263F5786E2D80ED326CBC7F0E71A99F43BFB988B9B7A02DD21
theorem test_key_unwrap_vector : keyUnwrap (beBytes 32 rfcKek.toNat) (beBytes 40 rfcWrapped.toNat) = some rfcKey := by decide +kernel

/-- FIPS 197, C.3: one block under AES-256. FIPS 180-4: SHA-384 of "abc". The GCM test case of 16 zero bytes (log 14). -/
theorem test_aes_vector : aesEncrypt (aesRoundKeys (beBytes 32 rfcKek.toNat)) (beBytes 16 0x00112233445566778899AABBCCDDEEFF) =
    beBytes 16 0x8EA2B7CA516745BFEAFC49904B496089 := by decide +kernel
theorem test_sha384_vector : sha384 [0x61, 0x62, 0x63] =
    beBytes 48 0xCB00753F45A35E8BB5A03D699AC65007272C32AB0EDED1631A8B605A43FF5BED8086072BA1E7CC2358BAECA134C825A7 := by decide +kernel
theorem test_gcm_vector : gcmSeal (List.replicate 32 0) (List.replicate 12 0) [] (List.replicate 16 0) =
    beBytes 32 0xCEA7403D4D606B6E074EC5D3BAF39D18D0D1C8A799996BF0265B98B5D48AB919 := by decide +kernel

/-- A module whose key slot 0 holds that key. -/
def keyStore (s : State) : State := { s with sec := { s.sec with moduleKey := rfcKek, keys := [(0, ⟨rfcWrapped, 0, 0⟩)] } }
/-- A context whose record names slot 0 has that key: `PrefetchAndSealedOffload`, its last clause, among others. -/
theorem witness_data_key (s : State) : (keyStore s).dataKey 0 = some rfcKey := by
  simp only [State.dataKey, keyStore, List.find?_cons_of_pos, beq_self_eq_true]
  exact test_key_unwrap_vector

/-! #### The bobbin unit -/

/-- A context's record with slot 0 valid, rank 1, its A at handle 4 and its B at handle 5. -/
def record1 : BitVec 4096 := BitVec.ofNat 4096 (2 ^ 128 + 4 * 2 ^ 512 + 5 * 2 ^ 544 + 2 ^ 704)
/-- A matrix command of one element with its adapter, the row's tag being context 0. -/
def adapted : Item :=
  { termed with
    desc := block [(0, 0x20), (18, 1), (128, 1), (160, 2), (192, 3), (224, 0xFFFFFFFF), (320, 0xFFFFFFFF), (352, 0xFFFFFFFF), (384, 6)]
    runs := [(0, 1)], ctxs := [(0, record1)]
    wins := termed.wins ++ [(4, one16 0x1003000), (5, one16 0x1004000), (6, win (galleryAddr 0 0x1005000) 0x0A 1 1 4)] }
def slice0 : SliceId := ⟨0, 0, true, 0, 0⟩

/-- `EpilogueAndTermsOfATile`, its second clause: a finished tile whose row takes a term, the slices read. -/
def waitingTile : State :=
  { holding adapted with
    looms := [(0, { Loom.reset with runs := [tile1 false true none] })], bobbins := [(0, { Bobbin.reset with work := [⟨id0, 0, []⟩] })] }
theorem witness_term :
    let s := waitingTile
    let m := matOf adapted .matmul
    s.tileWith 0 0 (s.stage3Due 0 0) = some (m, tile1 false true none) ∧
      s.cutOff adapted = false ∧ s.tileTerm adapted false = .met ∧ s.readyShaft m 0 0 (tile1 false true none) = some 0 ∧
      (m.termReads 0 0 ++ m.slotReads 0).length = 2 ∧
      s.readFault (s.itemFunction id0) true (m.termReads 0 0 ++ m.slotReads 0) = none := by decide +kernel

/-- `AdapterCommandsComplete`: an `ADAPT_FWD` of one row. -/
def adapting : Item :=
  { item0 (block [(0, 0x40), (128, 1), (224, 0xFFFFFFFF), (384, 6)]) adapted.wins with runs := [(0, 1)], ctxs := [(0, record1)] }
def sliced : State :=
  { holding adapting with bobbins := [(0, { Bobbin.reset with cache := (adapting.unitNeeds .adaptFwd 0).map fun sl => ⟨sl, 1, 0⟩ })] }
theorem witness_adapter : Runs sliced id0 .adaptFwd adapting ∧ adapting.unitCount = (adapting.bobbinUnits .adaptFwd).length ∧
    UnitsFree sliced (sliced.bobbinWork adapting .adaptFwd) adapting (adapting.unitResults .adaptFwd) ∧
    (adapting.unitResults .adaptFwd).length = 1 ∧
    ∀ r ∈ adapting.unitResults .adaptFwd, (sliced.access (sliced.itemFunction id0) r.win).keys = none :=
  ⟨runs_of (by decide +kernel), by decide +kernel, unitsFree_of (by decide +kernel), by decide +kernel, by decide +kernel⟩

/-- `BindInstallsTheRecord`: an image of zeros for context 0, from a window of 512 bytes. -/
def binding : Item := item0 (block [(0, 0x42), (160, 1)]) [(1, win (galleryAddr 0 0x1000000) 0x0E 512 1 512)]
theorem witness_bind : Runs (holding binding) id0 .bobbinBind binding := runs_of (by decide +kernel)
theorem witness_bind_image :
    let s := holding binding
    let w := binding.winD 20
    let rd : Read := ⟨word32 binding.desc 20, w, [0], 0, 512⟩
    let bs := s.load (s.access (s.itemFunction id0) w) (winBase w) 512
    fieldNat binding.desc 128 14 < 12288 ∧ bs.length = 512 ∧ s.readFault (s.itemFunction id0) true [rd] = none ∧ s.readReady binding rd = true ∧
      s.imageCheck (BitVec.ofNat 4096 (leNat bs)) = none := by decide +kernel

/-- `BobbinWorkAndSlices`: a shaft of the adapted command, and the slice it waits for. -/
theorem witness_work :
    let s : State := { holding adapted with lanes := [(laneKey 0 0 .matrix .forward, [passPiece])], sel := [(selKey 0 0 .matrix, ⟨.forward, 0, some .forward⟩)] }
    s.item adapted.id = some adapted ∧ (adapted.mat.map (·.t)) = some adapted ∧ adapted.op = some .matmul ∧ s.unitRuns 0 adapted 0 = true ∧ s.unitLoom adapted 0 = 0 ∧
      s.cutOff adapted = false ∧ (s.bobbin 0 0).work.length < 4 ∧ (s.bobbin 0 0).work = [] ∧ s.workReady 0 0 adapted .matmul 0 = true ∧
      sliceNeeds adapted .matmul 0 = some [slice0] ∧ [slice0].dropWhile (s.bobbin 0 0).has = slice0 :: [] := by decide +kernel
def slicing : State := { holding adapted with bobbins := [(0, { Bobbin.reset with wanted := [(slice0, id0)], asked := [(id0, 0)] })] }
theorem witness_slice :
    (slicing.bobbin 0 0).wanted.find? (fun w => w.1 == slice0) = some (slice0, id0) ∧ slicing.sliceFlying 0 0 slice0 = false ∧
    slicing.sliceWaits id0 slice0 = false ∧ slicing.item id0 = some adapted ∧ slicing.cutOff adapted = false ∧ Ecc.clean.bad = false ∧
    slicing.readFault (slicing.itemFunction adapted.id) true [adapted.sliceRead slice0] = none := by decide +kernel

/-! #### Streams, the ledger and error correction -/

/-- A `STREAM_ARM` of descriptor 0, from an HBM window of 16 elements into a gallery buffer of 2 entries of 8. -/
def arming : Item :=
  item0 (block [(0, 0x18), (160, 1), (192, 2), (224, 1024), (256, 1)])
    [(1, win (hbmAddr 0 0x1000) 0x0A 16 1 64), (2, win (galleryAddr 0 0x1000000) 0x0A 8 2 32)]
/-- The item of an arming that is active, and one that is pending. -/
def armed : Item := { arming with id := ⟨0, 1, 0⟩, phase := .external }
def armed2 : Item := { arming with id := ⟨0, 2, 0⟩, phase := .external }
/-- Descriptor 0 with an active arming and, where asked, a pending one. -/
def streaming (a : Arming) (both : Bool) : State :=
  { holding arming with
    items := [arming, armed, armed2]
    streams := [(0, { Stream.reset with active := some a, pending := if both then some (armingOf armed2 2) else none, gen := 2 })] }

/-- `StreamsArmAndStarve`: no arming, one active, and one pending. -/
theorem witness_arm : Runs (holding arming) id0 .streamArm arming ∧ Runs (streaming (armingOf armed 1) false) id0 .streamArm arming ∧
    Runs (streaming (armingOf armed 1) true) id0 .streamArm arming :=
  ⟨runs_of (by decide +kernel), runs_of (by decide +kernel), runs_of (by decide +kernel)⟩
theorem witness_arm_states : ((holding arming).stream 0 0).pending = none ∧
    ((holding arming).stream 0 0).active = none ∧ ((streaming (armingOf armed 1) false).stream 0 0).pending = none ∧
    ((streaming (armingOf armed 1) false).stream 0 0).active = some (armingOf armed 1) ∧
    ((streaming (armingOf armed 1) true).stream 0 0).pending.isSome = true ∧ arming.failedAt = none ∧ arming.caller = none ∧
    (∀ x ∈ (streaming (armingOf armed 1) true).streams, ∀ a ∈ x.2.active.toList ++ x.2.pending.toList, a.item ≠ id0) := by decide +kernel

/-- The active arming with its first entry full. -/
def fullArming : Arming := { armingOf armed 1 with full := [0] }
theorem witness_starved :
    let s := streaming fullArming false
    (s.stream 0 0).active = some fullArming ∧ s.hallRuns 0 = true ∧ s.item fullArming.item = some armed ∧
      armed.failedAt = none ∧ armed.caller = none ∧ (s.stream 0 0).pending = none ∧ fullArming.granted < fullArming.transfers ∧
      s.entryEmpty fullArming (fullArming.entry fullArming.granted) = false := by decide +kernel

/-- `StreamTransfers`: one eligible descriptor; a transfer under way that is not the last, and the last. -/
theorem witness_grant :
    let s := streaming (armingOf armed 1) false
    s.hallUp 0 = true ∧ (s.streams.map (·.1)).Pairwise (· < ·) ∧ (s.stream 0 0).active = some (armingOf armed 1) ∧
      s.eligible (s.stream 0 0) = true := by decide +kernel
/-- The same beside an eligible descriptor of a higher number, which has been eligible as long. -/
theorem witness_grant_second :
    let s := streaming (armingOf armed 1) false
    let s : State := { s with streams := s.streams ++ [(1, { Stream.reset with active := some (armingOf armed2 1), gen := 1 })] }
    s.eligible (s.stream 0 0) = true ∧ s.eligible (s.stream 0 1) = true ∧ (s.streams.map (·.1)).Pairwise (· < ·) ∧
      candidateBefore (s.candidate 0 0) (s.candidate 0 1) = true := by decide +kernel
theorem witness_grant_others (k : Nat) (h : k ≠ 0) : (streaming (armingOf armed 1) false).eligible ((streaming (armingOf armed 1) false).stream 0 k) = false := by
  have e : (streaming (armingOf armed 1) false).stream 0 k = Stream.reset := by
    show (if 0 = 4096 * 0 + k then _ else Stream.reset) = Stream.reset
    rw [if_neg (by omega)]
  rw [e]; rfl
def flyingArming (done : Nat) : Arming := { armingOf armed 1 with granted := done + 1, completed := done, flying := [done] }
theorem witness_transfers :
    (let s := streaming (flyingArming 0) false
     (s.stream 0 0).active = some (flyingArming 0) ∧ (flyingArming 0).flying = 0 :: [] ∧
      s.item (flyingArming 0).item = some armed ∧ s.transferDone 0 0 0 = true ∧ s.transferHeld (flyingArming 0) 0 = false ∧
      s.cutOff armed = false ∧ s.transferFault (flyingArming 0) 0 .success = none ∧
      (∀ p ∈ (flyingArming 0).entrySpans 0, ∀ k, k ≤ p.2 → addrSpace (p.1 + k) ≠ 5) ∧ (s.stream 0 0).pending = none ∧
      (flyingArming 0).completed + 1 ≠ (flyingArming 0).transfers) ∧
    (let s := streaming (flyingArming 1) false
     (s.stream 0 0).active = some (flyingArming 1) ∧ (flyingArming 1).flying = 1 :: [] ∧ s.transferDone 0 0 1 = true ∧ s.transferHeld (flyingArming 1) 1 = false ∧
      s.transferFault (flyingArming 1) 1 .success = none ∧ (flyingArming 1).completed + 1 = (flyingArming 1).transfers) := by decide +kernel
theorem witness_candidates : (⟨1, { Stream.reset with agedAt := some 3 }, 9⟩ : Candidate).st.agedAt.isSome = true ∧
    (⟨0, Stream.reset, 4⟩ : Candidate).st.agedAt = none ∧ (⟨0, Stream.reset, 4⟩ : Candidate).tte < (⟨1, Stream.reset, 5⟩ : Candidate).tte := by
  decide +kernel

/-- A read request of an HBM line, and a write. -/
def request (id : Nat) (write : Bool) : Request :=
  ⟨id, [(.fill id0, hbmAddr 0 0x1000, 4096)], ledgerTarget (hbmAddr 0 0x1000), hbmAddr 0 0x1000, 4096, write, none, 0, 0x3FFF, 1, none, false⟩
/-- Hall 0's ledger with a request waiting or in a slot; the hall has a tensor-cache share, and the item of the requests is a `PREFETCH`. -/
def ledgered (w sl : List Request) : State :=
  { holding prefetching with ledgers := [(0, ⟨w, sl, [], 2⟩)], halls := [(0, { Hall.reset with share := 1 })] }
/-- The line of the request above, in the cache. -/
def line0 : CacheLine := ⟨cacheLineIndex (addrOffset (hbmAddr 0 0x1000)), 0x3FFF, 1, none, 0⟩

/-- `LedgerSlots`: a request that is admissible, has a route and merges with nothing; answers to a write, to a cached read that misses and to one
that hits. -/
theorem witness_ledger :
    (let s := ledgered [request 0 false] []
     ∀ r ∈ (s.ledger 0).waiting, s.hallReaches 0 (addrHall r.address) = true ∧ s.admissible 0 r = true ∧
      ∀ q ∈ (s.ledger 0).waiting, mergesWith r q = false) ∧
    ((ledgered [request 0 false] []).ledger 0).waiting ≠ [] ∧ (ledgered [] [request 0 false]).lineTaken (request 0 false) = false ∧
    (ledgered [] [request 0 false]).hallLost 0 = false ∧ (ledgered [] [request 0 false]).atQuota 0x3FFF = false ∧
    (ledgered [] []).atQuota 5 = true ∧ (∀ c ∈ (ledgered [] []).cache 0, c.owner ≠ 5) ∧ (request 0 false).cached = true ∧
    ({ ledgered [] [request 0 false] with caches := [(0, [line0])] } : State).requestHit (request 0 false) = some line0 ∧
    ((ledgered [] [request 0 true]).ledger 0).slot 0 = some (request 0 true) ∧ (request 0 true).write = true ∧
    ((ledgered [] [request 0 false]).ledger 0).slot 0 = some (request 0 false) ∧ (request 0 false).allocates = true ∧
    ((ledgered [] [request 0 false]).hall (addrHall (request 0 false).address)).share ≠ 0 ∧
    (ledgered [] [request 0 false]).requestHit (request 0 false) = none := by decide +kernel

/-- `ScrubReads`: a word of a gallery, the last of a loom store, and a hall's stack. -/
theorem witness_scrub :
    (let w := galleryAddr 7 8
     addrSpace w < 2 ∧ addrShapeOk w = true ∧ up.hallHere (addrHall w) = true ∧ up.awake = true ∧
      (up.scrubber (scrubUnit (w / 64 * 64)).1).next = (scrubUnit (w / 64 * 64)).2.1 ∧ up.targetIdle (ledgerTarget (w / 64 * 64)) = true ∧
      up.hitsCacheRange (w / 64 * 64) 64 = false ∧
      ({ up with halls := [(7, { Hall.reset with share := 8 })] } : State).hitsCacheRange (galleryAddr 7 (2 ^ 32 - 64)) 64 = true) ∧
    (let w := storeAddr 7 95 2 (2 ^ 19 - 8)
     addrSpace w < 2 ∧ addrShapeOk w = true ∧ (scrubUnit (w / 64 * 64)).2.1 + 1 = (scrubUnit (w / 64 * 64)).2.2) ∧
    (let a := hbmAddr 7 0
     up.hallHere 7 = true ∧ (up.scrubber (scrubUnit a).1).last = 0 ∧ (up.scrubber (scrubUnit a).1).next = (scrubUnit a).2.1 ∧
      up.targetIdle (ledgerTarget a) = true ∧
      (let s : State := { up with scrubs := [((scrubUnit a).1, ⟨1, 1⟩)] }
       (s.scrubber (scrubUnit a).1).last ≠ 0 ∧ s.newel.time.toNat + 1 < (s.scrubber (scrubUnit a).1).last + 65536)) := by decide +kernel

/-! #### The selvedges -/

/-- `SelvedgeInstructions`: a present selvedge, registers that compare, and sources of SEL that are zero, not zero and not a number. -/
theorem witness_selvedge_registers :
    let s : State := { up with selvs := [(12, { Selvedge.reset with regs := [(1, 0x3F800000), (2, 0x40000000), (3, 0x7FC00000)] })] }
    let q := Regs.q (s.selv 12).regs
    s.ready = true ∧ s.selvPresent 12 = true ∧ s.selvPresent 0 = true ∧ (dec32 (q 1)).lt (dec32 (q 2)) = true ∧
      (dec32 (q 2)).lt (dec32 (q 1)) = false ∧ (dec32 (q 1)).isZero = false ∧ dec32 (q 1) ≠ .nan ∧ (dec32 (q 0)).isZero = true ∧
      dec32 (q 3) = .nan := by decide +kernel

/-- A KM8 window of 128 moments. -/
def kmWin (base fmt : Nat) : Block512 := win base fmt 128 1 128 + block [(416, 4096), (456, 4)]
/-- The windows of a shard of 128 parameters: the adapter's, its gradient's and its moments'. -/
def shardWins : List (W32 × Block512) :=
  [(1, win (galleryAddr 0 0x1000000) 0x08 128 1 256), (3, win (galleryAddr 0 0x1001000) 0x0A 128 1 512),
    (4, kmWin (galleryAddr 0 0x1002000) 0x0C), (5, kmWin (galleryAddr 0 0x1005000) 0x0D)]
/-- Context 0's record: BOUND, step counter 5, slot 0 in group 0 under rule 0; with `hold`, it holds. -/
def record2 (hold : Bool) : BitVec 4096 :=
  BitVec.ofNat 4096 ((if hold then 5 else 1) * 2 ^ 48 + 5 * 2 ^ 64 + 2 ^ 128 + 2 ^ 136 + 2 ^ 512 + 3 * 2 ^ 576 + 4 * 2 ^ 640 + 5 * 2 ^ 672)
/-- The reduce-scatter that brings the update, waiting for it. -/
def updating (hold : Bool) : Item := { item0 (block [(0, 0x50), (18, 1)]) shardWins with phase := .external, ctxs := [(0, record2 hold)] }
/-- Its update, the root's counter being `c`; one that a lost peer has cut short before its block came. -/
def update0 (c : W64) : Update := ⟨id0, 0, 0, 0, false, 128, List.replicate 128 0x3F800000, [], c, 1, 1, none⟩
def cutUpdate : Update := { update0 5 with reduced := [], cut := some .peerLost }
/-- The context's record in its table, and an update first in selvedge 12. -/
def selvedgedWith (hold : Bool) (u : Update) (run : Option UpdateRun) : State :=
  { holding (updating hold) with
    mem := [(galleryAddr 0 6, if hold then 5 else 1), (galleryAddr 0 8, 5), (galleryAddr 0 16, 1), (galleryAddr 0 17, 1),
      (galleryAddr 0 64, 1), (galleryAddr 0 72, 3), (galleryAddr 0 80, 4), (galleryAddr 0 84, 5)]
    selvs := [(12, { Selvedge.reset with queue := [u], run := run })] }
def selvedged (hold : Bool) (c : W64) (run : Option UpdateRun) : State := selvedgedWith hold (update0 c) run
/-- An update of it that has begun. -/
def running (next : Nat) : UpdateRun :=
  { record := record2 false, group := 0, counter := 5, t := 6, adopted := false, fallback := false, program := none, factors := [], next := next }

/-- `SelvedgeUpdates`, the beginning: the counters agree, the root's is adopted, the update is held. -/
theorem witness_update_begin :
    (let s := selvedged false 5 none
     (s.selv 12).run = none ∧ (s.selv 12).queue = update0 5 :: [] ∧ s.ready = true ∧ s.selvPresent 12 = true ∧ s.updateLive (update0 5) = true ∧
      s.updateRefusal 12 (update0 5) = none ∧ ctxRule (s.ctx 0) (s.updGroup (update0 5)) ≠ 1 ∧ ctxCounter (s.ctx 0) = (update0 5).rootCounter) ∧
    (let s := selvedged false 6 none
     s.updateRefusal 12 (update0 6) = none ∧ ctxCounter (s.ctx 0) ≠ (update0 6).rootCounter ∧ ctxHold (s.ctx 0) = false) ∧
    (let s := selvedged true 6 none
     s.updateLive (update0 6) = true ∧ s.updateRefusal 12 (update0 6) = none ∧ ctxCounter (s.ctx 0) ≠ (update0 6).rootCounter ∧
      ctxHold (s.ctx 0) = true ∧ (updating true).failedAt = none ∧ (updating true).caller = none) := by decide +kernel

/-- `SelvedgeUpdates`, a block that has come, and one that a lost peer leaves incomplete. -/
theorem witness_update_block :
    (let s := selvedged false 5 (some (running 0))
     let u := update0 5
     let w := s.adapterOf u
     let m1 := s.momentOf u false
     let m2 := s.momentOf u true
     let mu := s.momentIndex u 0
     (s.selv 12).run = some (running 0) ∧ s.updateLive u = true ∧ 128 * (running 0).next < u.total ∧ s.selvWaits 12 u = false ∧
      blockArrived u (running 0) (s.gradOf u) 0 = true ∧ s.blockHeld u 0 = false ∧ s.blockFault 12 u 0 = none ∧
      ((updatePlaces w m1 m2 0 mu).all fun q => addrSpace q.1 != 5) = true ∧ (s.access (s.itemFunction u.item) w).keys = none) ∧
    (let s := selvedgedWith false cutUpdate (some (running 0))
     s.updateLive cutUpdate = true ∧ 128 * (running 0).next < cutUpdate.total ∧ s.selvWaits 12 cutUpdate = false ∧
      blockArrived cutUpdate (running 0) (s.gradOf cutUpdate) 0 = false ∧ cutUpdate.cut = some .peerLost) := by decide +kernel

/-- The places of the block: they stand apart, and apart from the records of contexts. -/
def placesOf : List (Nat × Nat) :=
  let s := selvedged false 5 (some (running 0))
  updatePlaces (s.adapterOf (update0 5)) (s.momentOf (update0 5) false) (s.momentOf (update0 5) true) 0 (s.momentIndex (update0 5) 0)
theorem places_eq : placesOf = (List.range 128).flatMap (fun j =>
    [(galleryAddr 0 0x1000000 + 2 * j, 2), (galleryAddr 0 0x1002000 + j, 1), (galleryAddr 0 0x1005000 + j, 1)]) ++
      [(galleryAddr 0 0x1003000, 2), (galleryAddr 0 0x1006000, 2)] := by decide +kernel
theorem places_host : ∀ q ∈ placesOf, hostKey ((selvedged false 5 none).itemFunction id0) q.1 = q.1 := by decide +kernel
theorem witness_update_formats :
    let s := selvedged false 5 (some (running 0))
    let fn := s.itemFunction id0
    formatBits (winFormat (s.adapterOf (update0 5))) = 16 ∧ winFormat (s.momentOf (update0 5) false) = 0x0C ∧
      winFormat (s.momentOf (update0 5) true) = 0x0D ∧ (s.access fn (s.adapterOf (update0 5))).keys = none ∧
      (s.access fn (s.momentOf (update0 5) false)).keys = none ∧ (s.access fn (s.momentOf (update0 5) true)).keys = none := by
  decide +kernel
theorem witness_update_clear : ∀ a ∈ placesOf, (selvedged false 5 none).ctxAddr 0 + 512 * 12288 ≤ a.1 := by decide +kernel
theorem witness_update_places : placesOf.Pairwise (fun a b => apart a.1 a.2 b.1 b.2) := by
  rw [places_eq, List.pairwise_append, List.pairwise_flatMap]
  unfold apart galleryAddr
  refine ⟨⟨fun j hj => ?_, List.pairwise_lt_range.imp_of_mem fun {a b} ha hb h => ?_⟩, by simp, ?_⟩
  · simp at hj ⊢; omega
  · simp at ha hb ⊢; omega
  · intro a ha b hb
    simp at ha hb
    obtain ⟨j, hj, rfl | rfl | rfl⟩ := ha <;> rcases hb with rfl | rfl <;> simp <;> omega

/-- `SelvedgeUpdates`, the beginning under rule 1: the factors' window is read without a fault. -/
def factored : State :=
  let s := selvedged false 5 none
  { s with mem := s.mem ++ [(galleryAddr 0 18, 1)] }
theorem witness_update_factors :
    let u := update0 5
    ctxRule (factored.ctx 0) (factored.updGroup u) = 1 ∧ (∀ q ∈ (factored.otherRead u).all, factored.hitsZeroing q.1 q.2 = false) ∧
      factored.readFault (factored.itemFunction u.item) true [factored.otherRead u] = none := by decide +kernel

/-- `SelvedgeUpdates`, the end: the context holds what was read, so the counter is written. -/
theorem witness_update_end :
    let s := selvedged false 5 (some (running 1))
    let u := update0 5
    (s.selv 12).run = some (running 1) ∧ s.item u.item = some (updating false) ∧ (updating false).phase = .external ∧
      u.total ≤ 128 * (running 1).next ∧ closingSlot (s.slotRecord u) = u.slot ∧ s.selvWaits 12 u = false ∧ s.holdsFor u.item = false ∧ s.ctxHere 0 = true ∧ u.cut = none ∧
      counterAfter u (running 1) (closingSlot (s.slotRecord u)) = some 6 ∧ ctxCounter (s.ctx 0) = (running 1).counter := by decide +kernel
theorem witness_update_end_dropped :
    ctxSlotValid (record2 false) 0 = true ∧ (update0 5).isKept 0 = false ∧ ({ update0 5 with reduced := [inf32 false] } : Update).isKept 0 = true ∧
    (running 0).program = none ∧ (running 0).factors = [] ∧ (lambdas (lambda0 one32 [[one32]])).length ≠ 0 ∧
    (factorise one32 [[one32]]).1.isSome = true ∧
    ctxCounter ((holding (updating false)).ctx 0) ≠ (running 1).counter ∧ counterAfter { update0 5 with slot := 1 } (running 1) 0 = none := by
  decide +kernel

/-- `UPDATE_BIND` of context 0, group 0, and `STATS_SNAP` from selvedge 12 into 32 bytes. -/
def binder : Item := item0 (block [(0, 0x60), (160, 513)]) []
def snapping : Item := item0 (block [(0, 0x61), (152, 12), (160, 1)]) [(1, win (galleryAddr 0 0x1000000) 0x0E 32 1 32)]
theorem witness_tables : Runs (holding binder) id0 .updateBind binder ∧ Runs (holding snapping) id0 .statsSnap snapping :=
  ⟨runs_of (by decide +kernel), runs_of (by decide +kernel)⟩
theorem witness_snap :
    let s := holding snapping
    let w := snapping.winD 20
    let wr : Read := ⟨word32 snapping.desc 20, w, [0], 0, 32⟩
    byteField snapping.desc 19 1 = 12 ∧ s.readFault (s.itemFunction id0) false [wr] = none ∧ (s.selv 12).unserved = false ∧ s.selvServed 12 = true ∧
      s.writeReady wr = true ∧ addrSpace (winBase w) ≠ 2 ∧ s.selvPresent 12 = true ∧
      ({ s with part := { s.part with flightFused := 1 } } : State).selvPresent 0 = false := by decide +kernel

/-- An image of one `ADD` of register 0 at an HBM address, or none there; the index is 512. -/
def imaged (there : Bool) : State :=
  { up with
    slvCtl := { up.slvCtl with index := 512, src := BitVec.ofNat 64 (hbmAddr 0 0) }
    mem := if there then [(hbmAddr 0 0, 1), (hbmAddr 0 2, 1), (hbmAddr 0 71, 2)] else [] }

/-- `SelvedgeTablesAndPrograms`, the loads: an image that keeps the rules, one that does not, an index below 512, and a load under way. -/
theorem witness_program_load : (0x10200 : W32).getLsbD 16 = true ∧ fieldNat (0x10200 : W32) 0 10 = 512 ∧ (imaged true).ready = true ∧
    (imaged true).slvCtl.load = none ∧ (imaged true).addrAbsent (imaged true).slvCtl.src.toNat = false ∧
    ({ imaged true with part := { up.part with hallFused := 1 }, boot := { up.boot with hallsOk := 0xFE } } : State).addrAbsent (imaged true).slvCtl.src.toNat = true ∧ (imaged true).programImage.map slvImageOk = some true ∧
    (imaged false).programImage.map slvImageOk = some false ∧ (0x101FF : W32).getLsbD 16 = true ∧ fieldNat (0x101FF : W32) 0 10 < 512 ∧
    ({ up with slvCtl := { up.slvCtl with load := some (512, [0x0200000000000000], 0) } } : State).slvCtl.load =
      some (512, [0x0200000000000000], 0) ∧ (imaged true).hitsZeroing (imaged true).slvCtl.src.toNat 72 = false := by decide +kernel

/-! #### Links and remote writes -/

/-- A module at X coordinate 1 of an X axis of 4, with its port 0 as given. -/
def wired (f : Flight) : State := { up with xprCoord := 0x00030001, flights := [(0, f)] }
/-- A port in a link state; one that is UP. -/
def port (l : Link) : Flight := { Flight.reset with enable := true, link := l }
/-- What the neighbour says. -/
def hello0 : Hello := ⟨7, 0, 1, 2, 0, 0, 4, 1, 1, false, 2, false, true⟩

/-- `LinksComeUp`: each state of the way, with a hello that passes the checks and one that fails each of them. -/
theorem witness_links : (wired (port .hello)).flightOut 0 = false ∧ (port .hello).link.sendsHello = true ∧
    (port .hello).paused = 0 ∧ (wired Flight.reset).flightOut 0 = false ∧ Flight.reset.enable = false ∧ (1 : W32).getLsbD 0 = true ∧ (wired Flight.reset).axisSize (portAxis 0) ≠ 1 ∧
    (port .training).enable = true ∧ (port .down).link = .down ∧ (wired (port .hello)).helloMismatch 0 hello0 = 0 ∧
    ((port .awaitAdmit).link = .awaitAdmit ∧ (port .awaitAdmit).peerSerial ≠ hello0.serial) ∧ (port .awaitAdmit).link.sendsHello = true ∧ (port .awaitAdmit).link ≠ .up ∧
    (wired (port .awaitAdmit)).helloMismatch 0 { hello0 with level := 0 } = 1 ∧ (wired (port .awaitAdmit)).helloMismatch 0 { hello0 with nx := 5 } = 2 ∧
    (wired (port .awaitAdmit)).helloMismatch 0 { hello0 with x := 3 } = 3 ∧ (wired (port .awaitAdmit)).helloMismatch 0 { hello0 with port := 3 } = 4 ∧
    (port .admitPending).admitted = false ∧ (∀ c ∈ (wired (port .admitPending)).colls, c.axis ≠ portAxis 0) ∧
    (let f := { port .admitPending with admitted := true }
     f.enable = true ∧ f.link = .admitPending ∧ hello0.admitted = true ∧ { f with peerSerial := 7 }.peerSerial = hello0.serial ∧ (wired f).helloMismatch 0 hello0 = 0) := by decide +kernel

/-- A collective of the four modules of the X axis, open with its own part joined, on the item of descriptor 0. -/
def member (code : Nat) : Item := { item0 (block [(0, code), (200, 4)]) [] with phase := .external }
def coll0 (code : Nat) (started : Bool) : Collective :=
  { item := id0, axis := .x, tag := 0, opcode := code, elements := 4, group := 4, position := 1, reduceType := 0, plus := true, lane := 0
    express := false, joined := [1], rootCounter := 0, update := false, started := started, got := [], joinedAt := 0 }
/-- A module with that collective, its ports 0 and 2 UP. -/
def grouped (t : Item) (c : Collective) : State :=
  { holding t with xprCoord := 0x00030001, flights := [(0, port .up), (2, port .up)], colls := [c] }

/-- `LinkLossAndFrames`, its first two clauses: a link of the group is lost here, and further away. -/
theorem witness_link_loss :
    let s := grouped (member 0x51) (coll0 0x51 false)
    s.portUp 0 = true ∧ s.newel.time.toNat < (s.flight 0).heardAt.toNat + 10000 * (s.flight 0).linkTo.toNat ∧
      (s.flight 0).heardAt.toNat + 10000 * (s.flight 0).linkTo.toNat ≤ ({ s.newel with time := 5000000 } : Newel).time.toNat ∧
      s.txs = [] ∧ (∀ u ∈ s.items, u.caller = none ∧ u.failedAt = none) ∧ (s.item id0).isSome = true ∧
      s.portLink 0 ∈ s.groupLinks .x 0 4 ∧ (⟨.x, 3, 0⟩ : LinkId) ∈ s.groupLinks .x 0 4 ∧ (wired (port .up)).colls = [] ∧
      recvOnAxis .x { receiving with desc := block [(0, 0x54), (290, 1)] } = true := by decide +kernel
theorem witness_no_updates (i : ItemId) : (grouped (member 0x51) (coll0 0x51 false)).updateRuns i = false := rfl

/-- The other clauses: frames of every kind, a PFC frame, credits, and an express datagram with its next link UP and not. -/
def xpr2 : W64 := 0x4200000000000000
theorem witness_frames :
    (let s := wired { port .up with mode := true }
     s.flightAbsent 0 = false ∧ (s.flight 0).mode = true ∧ (s.flight 0).link ≠ .disabled ∧ (s.flight 0).held = [] ∧ (s.flight 0).replies = [] ∧ s.ready = true ∧ s.portUp 0 = true ∧
      s.colls = [] ∧ s.route true xpr2.toNat = some (0, [⟨.x, 1, 0⟩]) ∧ (s.flight 0).clear 1) ∧
    (0x0800 : BitVec 16) ≠ 0x88F7 ∧ (0x0800 : BitVec 16) ≠ 0x88B5 ∧ (wired (port .down)).portUp 0 = false ∧
    (wired (port .down)).route true xpr2.toNat = some (0, [⟨.x, 1, 0⟩]) ∧
    (let s : State := { wired (port .down) with flights := [(0, port .down), (2, port .up)] }
     s.portUp 0 = false ∧ s.portUp 2 = true ∧ (s.flight 2).paused = 0 ∧ (s.flight 2).inbox = [] ∧ s.route true xpr2.toNat = some (0, [⟨.x, 1, 0⟩])) := by
  unfold Flight.clear; decide +kernel
/-- The branch of an express write of another module, which comes in on port 2 and leaves by port 0; its own reserve there has been spent, and
that of port 4 has not. -/
def branch (pruned : Bool) : Passage := ⟨2, 5, 0, [xpr2], 40, pruned⟩
def branching (pruned : Bool) : State :=
  { wired { port .up with dry := [(5, 1)] } with
    flights := [(0, { port .up with dry := [(5, 1)] }), (2, port .up), (4, port .up)]
    passages := [branch pruned, { branch pruned with out := 4 }], newel := { up.newel with time := 2 ^ 20 } }
theorem witness_branches : (branching false).passage 5 0 = some (branch false) ∧ (branching true).passage 5 0 = some (branch true) ∧
    (wired (port .up)).passage 5 0 = none ∧ ((branching true).flight 2).paused = 0 ∧ ((branching true).flight 2).inbox = [] ∧
    (branching true).ready = true ∧ (branching true).portUp 2 = true ∧ (branching true).portUp 0 = true ∧
    (branching true).route true xpr2.toNat = some (0, [⟨.x, 1, 0⟩]) ∧
    ((branching false).transits.find? fun x => x.out == 0 && x.origin == 5) = none ∧ (branch false).stall ≠ 0 ∧
    (branching false).branchStalled 5 0 40
      (((branching false).passages.filter fun y => y.origin == 5 && y.port == 2 && !y.pruned).map (·.out)) = true := by decide +kernel

/-- A write of 8 bytes from the operator into window 0 of hall 0, and the window. -/
def head0 : RemoteHead := ⟨1, 0x4100000000000000, 0, 0x3FFF, 0x0E, 8, false, 0, 0, 0, false, 0⟩
def landingWin : Block512 := win (galleryAddr 0 0x1000000) 0x0E 8 1 8
/-- The module with that window, and a write being placed as given. -/
def placing (w : Block512) (rs : List Receiving) : State := { wired (port .up) with windows := [(0, w)], rxs := rs }

/-- `RemoteWrites`, acceptance: accepted, refused for an absent hall, for a closed window, for another generation. -/
theorem witness_accept : (placing landingWin []).ready = true ∧ (placing landingWin []).portUp 0 = true ∧
    (placing landingWin []).addressedHere head0.address.toNat = true ∧ (placing landingWin []).acceptRefusal head0 = none ∧
    (placing (winSetOpen landingWin false) []).acceptRefusal head0 = some .windowClosed ∧
    (let s : State := { placing landingWin [] with part := { up.part with hallFused := 1 } }
     s.hallHere (peerHall head0.address.toNat) = false) ∧
    (placing landingWin []).hallHere (peerHall head0.address.toNat) = true ∧ winOpen (winSetOpen landingWin false) = false ∧
    winGen (winSetGen landingWin 9) ≠ head0.generation ∧ ((placing landingWin []).flight 0).paused = 0 ∧
    (let w := setField landingWin 60 4 5
     winOpen w = true ∧ winGen w = head0.generation ∧ head0.sourceOwner = operatorOwner ∧ up.baseRefusal (winBase w) = some .access) := by decide +kernel

/-- A write of which nothing has come yet. -/
def rx0 (h : RemoteHead) : Receiving := ⟨0, h, 0, 0, [], []⟩

/-- `RemoteWrites`, the datagrams: bytes that go in, a write that stops, and a sealed chunk for a context without a key. -/
theorem witness_datagram :
    (let s := placing landingWin [rx0 head0]
     s.ready = true ∧ s.portUp 0 = true ∧ s.rxs.find? (fun r => r.port == 0 && r.head.origin == 1) = some (rx0 head0) ∧ s.writeStop (rx0 head0) 8 = none ∧
      s.writeHeld (winBase (s.window 0) + peerOffset head0.address.toNat + 0) 8 = false ∧
      ({ s with full := [storeAddr 0 0 0 0] } : State).writeHeld (storeAddr 0 0 0 0) 8 = true ∧
      addrSpace (winBase (s.window 0) + peerOffset head0.address.toNat + 0) ≠ 5 ∧ addrSpace (winBase (s.window 0) + peerOffset head0.address.toNat + 0) ≠ 0 ∧
      addrSpace (winBase (s.window 0)) ≠ 2) ∧
    (let s : State := { placing landingWin [rx0 head0] with boot := { up.boot with hallsLost := 1 } }
     s.writeStop (rx0 head0) 8 = some .hallLost ∧ (s.flight 0).paused = 0) ∧
    (let h := { head0 with sealedPush := true }
     let s := placing landingWin [rx0 h]
     s.writeStop (rx0 h) 8 = none ∧ h.sealedPush = true ∧ (rx0 h).chunkLength = 24 ∧ s.writeHeld (winBase (s.window 0) + peerOffset h.address.toNat) 8 = false ∧
      s.dataKey (s.keySlotOf (winOwner (s.window 0))) = none) := by decide +kernel

/-- The same module with its keys, and a sealed chunk of one byte that opens: `RemoteWrites`, its last clause. -/
def sealHead : RemoteHead := { head0 with sealedPush := true, sourceBytes := 1 }
def sealedByte : List Byte := gcmSeal (pushKey rfcKey 0 0) (pushIv 0 0) (pushAad 0 0 0) [7]
theorem witness_sealed_open : gcmOpen (pushKey rfcKey sealHead.context sealHead.pushNonce) (pushIv sealHead.pushCounter ((rx0 sealHead).got / 65536))
    (pushAad sealHead.context ((rx0 sealHead).windowKey % 65536) sealHead.generation) sealedByte = some [7] := by decide +kernel
theorem witness_sealed_write :
    let s := keyStore (placing landingWin [rx0 sealHead])
    s.keySlotOf (winOwner (s.window 0)) = 0 ∧ s.dataKey 0 = some rfcKey ∧ s.writeStop (rx0 sealHead) 1 = none ∧ (rx0 sealHead).chunkLength = 17 ∧
      s.rxs.find? (fun r => r.port == 0 && r.head.origin == 1) = some (rx0 sealHead) ∧
      addrSpace (winBase (s.window 0) + peerOffset sealHead.address.toNat + 0) ≠ 5 :=
  ⟨by decide +kernel, witness_data_key _, by decide +kernel⟩

/-- `RemoteWrites`, its last clauses: a write for module 2 that comes in on port 2 and goes on by port 0, and what follows it. -/
def passHead : RemoteHead := { head0 with address := xpr2 }
def passingBy : State := { wired (port .up) with flights := [(0, port .up), (2, port .up)] }
def transit0 : Transit := ⟨2, 1, 0, 0, 0, 8, 1⟩
theorem witness_passing :
    passingBy.ready = true ∧ passingBy.portUp 2 = true ∧ passHead.express = false ∧ passingBy.awayAxes passHead.address.toNat = [portAxis 2] ∧
    onwardPort 2 = 0 ∧ passingBy.portUp 0 = true ∧ passingBy.channelRoom 0 (some (peerHall passHead.address.toNat)) = true ∧
    (passingBy.flight 0).clear passHead.origin ∧ (passingBy.flight 2).paused = 0 ∧ (passingBy.flight 2).inbox = [] ∧ passHead.sourceBytes ≠ 0 ∧
    (passingBy.rxs.find? fun r => r.port == 2 && r.head.origin == 1) = none ∧
    (passingBy.transits.find? fun x => x.port == 2 && x.origin == 1 && decide (0 < x.left)) = none ∧
    (let s : State := { passingBy with transits := [transit0] }
     (s.transits.find? fun x => x.port == 2 && x.origin == 1 && decide (0 < x.left)) = some transit0 ∧ (s.flight 0).clear 1 ∧
      (s.transits.find? fun x => x.out == 0 && x.origin == 1) = some transit0) := by unfold Flight.clear; decide +kernel

/-! #### Sends and receivers -/

/-- A module that holds an item, at X coordinate 1 of 4, with its port 0 as given. -/
def linked (t : Item) (f : Flight) : State := { holding t with xprCoord := 0x00030001, flights := [(0, f)] }
/-- Gallery windows of 8 bytes, the second of 16. -/
def byteWins : List (W32 × Block512) := [(1, win (galleryAddr 0 0x1000000) 0x0E 8 1 8), (2, win (galleryAddr 0 0x1001000) 0x0E 16 1 16)]
/-- A `SEND` of the first to module 2, by its port or express. -/
def sender (express : Nat) : Item := item0 (block [(0, 0x53), (128, 1), (192, xpr2.toNat), (288, express)]) byteWins
theorem witness_send : Runs (linked (sender 0) (port .up)) id0 .send (sender 0) ∧ Runs (linked (sender 1) (port .up)) id0 .send (sender 1) ∧
    Runs (linked (sender 0) (port .down)) id0 .send (sender 0) :=
  ⟨runs_of (by decide +kernel), runs_of (by decide +kernel), runs_of (by decide +kernel)⟩
theorem witness_send_free :
    let s := linked (sender 0) (port .up)
    let rd := readAll (word32 (sender 0).desc 16) ((sender 0).winD 16)
    s.route false (byteField (sender 0).desc 24 8) = some (0, [⟨.x, 1, 0⟩]) ∧ s.portUp 0 = true ∧ s.readFault (s.itemFunction id0) true [rd] = none ∧
      s.readReady (sender 0) rd = true ∧ s.channelFree 0 id0 = true ∧
      (linked (sender 0) { port .up with channels := List.replicate 32 id0 }).channelFree 0 id0 = false ∧
      (linked (sender 1) (port .up)).xprHeld.length < 16 ∧ (linked (sender 0) (port .down)).portUp 0 = false ∧ (sender 0).failedAt = none ∧ (sender 0).caller = none := by
  decide +kernel

/-- A `MULTICAST` to the one receiver of its list: module 2. -/
def caster : Item := item0 (block [(0, 0x55), (128, 1), (160, 2)]) byteWins
def casting (t : Item) : State := { linked t (port .up) with mem := [(galleryAddr 0 0x1001007, 0x42)] }
theorem witness_multicast : Runs (casting caster) id0 .multicast caster := runs_of (by decide +kernel)
theorem witness_multicast_ready :
    let s := casting caster
    let rd := readAll (word32 caster.desc 16) (caster.winD 16)
    s.firstPorts (s.receiversOf caster) = [0] ∧ s.readFault (s.itemFunction id0) true (caster.reads [20]) = none ∧
      (∀ p ∈ s.firstPorts (s.receiversOf caster), s.hallReaches caster.hall (homeHall p) = true ∧ s.portUp p = true) ∧ s.readFault (s.itemFunction id0) true [rd] = none ∧
      s.readReady caster rd = true ∧ s.xprHeld.length < 16 ∧ (∀ x ∈ s.txs, x.item ≠ id0) := by decide +kernel

/-- A `BUDDY_PUSH` of context 0. -/
def pusher : Item := item0 (block [(0, 0x58), (160, 1), (192, xpr2.toNat)]) byteWins
theorem witness_push : Runs (keyStore (linked pusher (port .up))) id0 .buddyPush pusher := runs_of (by decide +kernel)
theorem witness_push_ready :
    let s := keyStore (linked pusher (port .up))
    let rd := readAll (word32 pusher.desc 20) (pusher.winD 20)
    s.route true (byteField pusher.desc 24 8) = some (0, [⟨.x, 1, 0⟩]) ∧ s.keySlotOf (fieldNat pusher.desc 128 16) = 0 ∧ s.dataKey 0 = some rfcKey ∧
      s.sec.keys.find? (fun q => q.1 == 0) = some (0, ⟨rfcWrapped, 0, 0⟩) ∧ (⟨rfcWrapped, 0, 0⟩ : KeySlot).pushCount ≠ 0xFFFFFFFF ∧ s.portUp 0 = true ∧
      s.readFault (s.itemFunction id0) true [rd] = none ∧ s.readReady pusher rd = true ∧ s.xprHeld.length < 16 :=
  ⟨by decide +kernel, by decide +kernel, witness_data_key _, by decide +kernel⟩

/-- A send of 8 bytes to its receivers, none of which has answered. -/
def tx0 (rs : List (Nat × W32)) : Sending := ⟨id0, 8, rs, [], [], false, []⟩
/-- `SendsAndReceivers`, the answers: the one receiver of a send; two of a multicast, of which one is pruned. -/
theorem witness_answers :
    (let t := { sender 0 with phase := .external }
     let x := tx0 [(xpr2.toNat, 0)]
     let s : State := { linked t (port .up) with txs := [x] }
     s.txs.find? (fun x => x.item == id0) = some x ∧ s.item id0 = some t ∧ x.refusals = [] ∧ 0 < x.receivers.length ∧
      (∀ q, q < x.receivers.length → q ≠ 0 → x.served q = true) ∧ x.chunks ≤ x.acked 0 + 1 ∧ statusFailed .access = true ∧ t.failedAt = none ∧ t.caller = none ∧
      x ∈ s.txs ∧ x.item = id0 ∧ x.catchUp = false) ∧
    (let t := { caster with phase := .external }
     let x := tx0 [(xpr2.toNat, 0), (xpr2.toNat + 1, 0)]
     let s : State := { casting t with txs := [x] }
     s.txs.find? (fun x => x.item == id0) = some x ∧ s.item id0 = some t ∧ t.op = some .multicast ∧ (∀ y ∈ s.txs, y.item = id0 → s.mayPrune t y [0] = true) ∧
      x.catchUp = false ∧ 1 < x.receivers.length ∧ 1 ∉ [0] ∧
      1 ∉ x.pruned ∧ x.served 1 = false) := by decide +kernel

/-- A `RECV` of 8 bytes, a `WINDOW_OPEN` and a `WINDOW_CLOSE` of window 0, and a module that holds one with the window as given. -/
def onWindow (code : Nat) : Item := item0 (block [(0, code), (192, 8)]) []
def opener (code : Nat) : Item := item0 (block [(0, code)]) []
def windowed (t : Item) (w : Block512) (n : Nat) : State := { holding t with windows := [(0, w)], arrived := if n = 0 then [] else [(0, n)] }
theorem witness_recv : Runs (windowed (onWindow 0x54) landingWin 8) id0 .recv (onWindow 0x54) ∧
    Runs (windowed (onWindow 0x54) landingWin 7) id0 .recv (onWindow 0x54) ∧ Runs (windowed (opener 0x56) landingWin 0) id0 .windowOpen (opener 0x56) ∧
    Runs (windowed (opener 0x56) (winSetOpen landingWin false) 0) id0 .windowOpen (opener 0x56) ∧
    Runs (windowed (opener 0x57) landingWin 0) id0 .windowClose (opener 0x57) ∧
    Runs (windowed (opener 0x57) (winSetOpen landingWin false) 0) id0 .windowClose (opener 0x57) :=
  by refine ⟨?_, ?_, ?_, ?_, ?_, ?_⟩ <;> exact runs_of (by decide +kernel)
theorem witness_recv_states :
    let s := windowed (onWindow 0x54) landingWin 8
    s.hallLost (windowHall (onWindow 0x54)) = false ∧ winOpen (s.window 0) = true ∧ byteField (onWindow 0x54).desc 24 8 ≤ s.arrival 0 ∧
      (windowed (onWindow 0x54) landingWin 7).arrival 0 < byteField (onWindow 0x54).desc 24 8 ∧ winOpen (winSetOpen landingWin false) = false ∧
      addrSpace (winBase landingWin) ≠ 3 ∧ (∀ r ∈ s.rxs, r.windowKey ≠ 0) := by decide +kernel

/-! #### Collectives -/

/-- FP32 windows of 4 elements, one and 16. -/
def collWins : List (W32 × Block512) :=
  [(1, win (galleryAddr 0 0x1000000) 0x0A 4 1 16), (2, win (galleryAddr 0 0x1001000) 0x0A 1 1 4), (3, win (galleryAddr 0 0x1002000) 0x0A 16 1 64)]
/-- A collective of the four modules of the X axis from the first into the window of handle `d`. -/
def joiner (code d : Nat) : Item := item0 (block [(0, code), (128, 1), (160, d), (200, 4)]) collWins

/-- What `Collectives` asks of a member that joins. -/
def joinReady (t : Item) : Bool :=
  let s := linked t (port .up)
  let k := s.collectiveOf t
  let out := s.collSendPort k
  let rd := readAll (word32 t.desc 16) (t.winD 16)
  let wr := [readAll (word32 t.desc 20) (t.winD 20)]
  let fn := s.itemFunction id0
  k.update == false && s.collective k.axis k.tag == none && s.portUp out && s.readFault fn true [rd] == none && s.readFault fn false wr == none &&
    s.readReady t rd && wr.all s.writeReady && !k.express && s.channelFree out id0 && s.earlyOpenings k.axis k.tag == [] &&
    (s.flight out).held == [] && (s.flight out).paused == 0 && decide (0 < (s.flight out).credits) && decide (0 < (s.flight out).xcredits) &&
    decide ((s.flight out).ownSpent (Packet.opening (openHeadOf k)).sender < axisReserve) &&
    decide (((s.flight out).xspent.filter (· == (Packet.opening (openHeadOf k)).sender)).length < expressReserve)

/-- `Collectives`, its first clause: one of each. -/
theorem witness_join : Runs (linked (joiner 0x50 2) (port .up)) id0 .collReduceScatter (joiner 0x50 2) ∧
    Runs (linked (joiner 0x51 3) (port .up)) id0 .collAllGather (joiner 0x51 3) ∧ Runs (linked (joiner 0x52 1) (port .up)) id0 .collAllReduce (joiner 0x52 1) :=
  ⟨runs_of (by decide +kernel), runs_of (by decide +kernel), runs_of (by decide +kernel)⟩
theorem witness_join_ready : joinReady (joiner 0x50 2) = true ∧ joinReady (joiner 0x51 3) = true ∧ joinReady (joiner 0x52 1) = true := by
  decide +kernel

/-- An opening of member 2. -/
def opening2 : OpenHead := ⟨.x, 0, 2, 0x51, 4, 4, 0, false, none⟩
/-- `Collectives`, the openings, the limits and the withdrawals. -/
theorem witness_openings :
    (let s := linked (joiner 0x51 3) (port .up)
     opening2.position ≠ s.coord opening2.axis % Nat.max 1 opening2.group ∧ s.collective .x 0 = none ∧ s.ready = true ∧
      (opening2.axis, opening2.tag, opening2.position) ∉ s.stale ∧ s.waitingMember .x 0 4 = some (joiner 0x51 3)) ∧
    (let c := coll0 0x51 false
     let t := member 0x51
     let s := grouped t c
     s.ready = true ∧ s.portUp 2 = true ∧ s.portUp 0 = true ∧ s.passesThrough 2 .x 0 4 = false ∧ s.passesThrough 0 .x 0 4 = true ∧ s.collective .x 0 = some c ∧ opening2.position ≠ c.position ∧ opening2.position ∉ c.joined ∧ opening2.elements = c.elements ∧
      opening2.opcode = c.opcode ∧ opening2.reduceType = c.reduceType ∧ (insertNat c.joined opening2.position).length ≠ c.group ∧
      ({ opening2 with elements := 5 } : OpenHead).elements ≠ c.elements ∧ s.item c.item = some t ∧ t.failedAt = none ∧ t.caller = none ∧
      s.colls.find? (fun c => c.item == id0) = some c ∧ c.started = false ∧
      s.newel.time.toNat < c.joinedAt.toNat + 1000000 * (s.flight (s.collSendPort c)).joinTo.toNat ∧
      c.joinedAt.toNat + 1000000 * (s.flight (s.collSendPort c)).joinTo.toNat ≤ (2000000000 : W64).toNat ∧ s.coord .x / Nat.max 1 4 = 2 / Nat.max 1 4 ∧ s.coord .x ≠ 2) := by
  decide +kernel

/-- An open collective that has started, its item with the windows above. -/
def moving (code d : Nat) (update : Bool) : State :=
  grouped { joiner code d with phase := .external } { coll0 code true with update := update }
/-- `Collectives`, the data: a partial sum that goes on, one that is kept, and a block of the gather. -/
theorem witness_coll_data :
    (let s := moving 0x50 2 true
     let c := { coll0 0x50 true with update := true }
     let t := { joiner 0x50 2 with phase := .external }
     s.ready = true ∧ s.portUp 2 = true ∧ s.passesThrough 2 .x 0 c.group = false ∧ s.dataHeld t c 2 0 4 = false ∧ s.updateHeld t c 2 0 = false ∧
      (s.flight (s.collSendPort c)).clear (Packet.partialData .x 0 c.group 2 0 []).sender ∧ s.collective .x 0 = some c ∧ s.item c.item = some t ∧ c.started = true ∧ t.phase = .external ∧ 2 < c.group ∧ 2 ≠ c.firstShard ∧
      Table.get 0 c.got 2 + 4 ≤ c.shardLength 2 * elemBytes (t.winD 16) ∧
      s.readFault (s.itemFunction t.id) true [readAll (word32 t.desc 16) (t.winD 16)] = none ∧ 2 ≠ c.position) ∧
    (let s := moving 0x50 2 false
     let c := coll0 0x50 true
     let t := { joiner 0x50 2 with phase := .external }
     let dst := t.winD 20
     let sum := reduceBytes c.reduceType 4 [0, 0, 0x80, 0x3F] (s.elementBytes (s.itemFunction t.id) (t.winD 16) (c.shardStart 1 * 4 + 0) 4)
     1 ≠ c.firstShard ∧ s.dataHeld t c 1 0 4 = false ∧ s.updateHeld t c 1 0 = false ∧ c.position = 1 ∧ c.opcode = codeReduceScatter ∧ s.readFault (s.itemFunction t.id) false [readAll (word32 t.desc 20) dst] = none ∧
      byteParts dst (Table.get 0 c.got 1) sum.length = [(galleryAddr 0 0x1001000, sum.length)] ∧ addrSpace (galleryAddr 0 0x1001000) ≠ 5 ∧
      (s.access (s.itemFunction t.id) dst).keys = none) ∧
    (let s := moving 0x51 3 false
     let c := coll0 0x51 true
     let t := { joiner 0x51 3 with phase := .external }
     let dst := t.winD 20
     2 ≠ c.position ∧ c.opcode ≠ codeReduceScatter ∧ s.dataHeld t c 2 1 4 = false ∧ c.next ≠ 3 ∧ Table.get 0 c.got 18 + 4 ≤ c.blockBytes 4 2 ∧
      s.readFault (s.itemFunction t.id) false [readAll (word32 t.desc 20) dst] = none ∧
      byteParts dst (c.blockStart 4 2 + 0) 4 = [(galleryAddr 0 0x1002020, 4)] ∧ (s.access (s.itemFunction t.id) dst).keys = none) := by
  unfold Flight.clear; decide +kernel
/-- The same of this member's own shard, with an update and in an all-reduce, of another member's shard without an update, and of data that only
passes through. -/
theorem witness_own_shard :
    (let s := moving 0x50 2 true
     let c := { coll0 0x50 true with update := true }
     let t := { joiner 0x50 2 with phase := .external }
     1 = c.position ∧ 1 ≠ c.firstShard ∧ s.collFault t c true 16 = none ∧ s.dataHeld t c 1 0 4 = false ∧ s.updateHeld t c 1 0 = false ∧
      ∀ m ∈ byteParts (t.winD 16) (c.shardStart 1 * 4 + 0) 4, addrSpace m.1 ≠ 2) ∧
    (let s := moving 0x50 2 false
     let c := coll0 0x50 true
     let t := { joiner 0x50 2 with phase := .external }
     2 ≠ c.position ∧ 2 ≠ c.firstShard ∧ s.collFault t c true 16 = none ∧ s.dataHeld t c 2 0 4 = false ∧ s.updateHeld t c 2 0 = false) ∧
    (let s := moving 0x52 1 false
     let c := coll0 0x52 true
     let t := { joiner 0x52 1 with phase := .external }
     c.opcode = codeAllReduce ∧ s.collFault t c true 16 = none ∧ s.collFault t c false 20 = none ∧ s.dataHeld t c 1 0 4 = false ∧
      s.updateHeld t c 1 0 = false ∧ byteParts (t.winD 20) (c.shardStart 1 * 4 + 0) 4 = [(galleryAddr 0 0x1000004, 4)]) ∧
    (let s := moving 0x50 2 false
     s.passesThrough 0 .x 0 4 = true ∧ onwardPort 0 = 2 ∧ s.portUp 2 = true ∧ s.groupBeyond 2 4 = true ∧
      (s.flight 2).clear (Packet.partialData .x 0 4 2 0 [0]).sender) := by
  unfold Flight.clear; decide +kernel

/-! #### The host interface -/

/-- An item that waits on host memory: a `RECV` into a window of space 3. -/
def hostWaiter : Item := { receiving with wins := [(1, win (3 * 2 ^ 60) 0x0E 8 1 8)] }
/-- A module whose ring 0 is FENCED, with that item; ring 0 alone, with C below F and equal to it. -/
def fencedRing : State := { holding hostWaiter with rings := [(0, { ring0 with entry := ring0.entry ^^^ block [(136, 3)] })] }
def lone (f : W32) : State := { up with rings := [(0, { ring0 with f := f })] }

/-- `HostInterface`, departure. -/
theorem witness_depart : (lone 1).functionHere 0 = true ∧ ((lone 1).rings.map Prod.fst).Nodup ∧ (lone 1).items = [] ∧ (∀ r ∈ (lone 1).rings, r.2.ahead = []) ∧
    ringState ((lone 1).ring 0).entry = 1 ∧ ((lone 1).ring 0).function = 0 ∧ ((lone 1).ring 0).c ≠ ((lone 1).ring 0).f ∧
    ((lone 0).ring 0).c = ((lone 0).ring 0).f ∧ (fencedRing.rings.map Prod.fst).Nodup ∧
    (∀ r ∈ fencedRing.rings, r.2.function = 0 → ringState r.2.entry ≠ 1 ∧ ringState r.2.entry ≠ 3) ∧
    (∀ u ∈ fencedRing.items, u.caller = none) ∧ fencedRing.item hostWaiter.id = some hostWaiter ∧ fencedRing.usesHost 0 hostWaiter = true ∧
    hostWaiter.failedAt = none ∧ (1 : Nat) ≠ (lone 1).rings.length - 1 := by decide +kernel

/-- Readiness: not presented, still in reset, ready, past its interval to the nanosecond. -/
theorem witness_config : up.hostInterfaceUp = true ∧ up.functionHere 1 = false ∧ up.functionHere 0 = true ∧ up.hif.configReady.getLsbD 0 = false ∧
    up.readyFrom 0 = none ∧ ({ up with hif := { up.hif with configReady := 1 } } : State).hif.configReady.getLsbD 0 = true ∧
    (let s : State := { up with newel := { up.newel with time := 100000007 }, hif := { up.hif with released := [(0, 1)] }
                                power := { up.power with precharged := true, inputSeen := true, inputAt := 7 } }
     s.readyFrom 0 = some 7 ∧ 7 + 100000000 ≤ s.newel.time.toNat) ∧ ¬((0 : Nat) = 1 ∧ false = false) ∧ (0 : Nat) < 2 ∧ ¬((1 : Nat) = 1 ∧ true = false) := by
  decide +kernel

/-- BAR4 with its window off and on; a completion or a timeout for an item, for a descriptor, for a record; a device cache. -/
theorem witness_bar4 : up.bar4Target 0 0 4 = none ∧
    ({ up with hif := { up.hif with bar4f0 := ⟨0, 0, true⟩ } } : State).bar4Target 0 8 4 = some (hbmAddr 0 8) ∧
    (holding hostWaiter).item id0 = some hostWaiter ∧ waitsOnHost hostWaiter = true ∧ hostWaiter.failedAt = none ∧ hostWaiter.caller = none ∧
    ringState ((lone 0).ring 0).entry = 1 ∧ ((lone 0).ring 0).p ≠ ((lone 0).ring 0).f ∧ addrSpace (ringCommandBase ((lone 0).ring 0).entry) = 3 ∧
    HostAnswer.poisoned ≠ .success ∧ ringState ((lone 1).ring 0).entry ≠ 0 ∧ (addrSpace (ringCompletionBase ((lone 1).ring 0).entry) = 3 ∨ addrSpace (ringWriteback ((lone 1).ring 0).entry) = 3) ∧
    (let s : State := { up with hif := { up.hif with cxl := true } }
     s.hif.cxl = true ∧ s.hostInterfaceUp = true) := by decide +kernel

/-! #### The security block -/

/-- A module with sessions 0 to n − 1 open, the first of the owner, an owner, a running image set of version 5 and a challenge outstanding. -/
def secured (n : Nat) : State :=
  { up with boot := { up.boot with imageVersion := 5 }
            sec := { up.sec with sessions := (List.range n).map fun i => ⟨i, i == 0, 0⟩, ownerSet := true, challenge := some 0 } }

/-- `SecurityBlock`, its first clause. -/
theorem witness_security : (secured 1).awake = true ∧ (secured 1).measurement 1 = some (Config.firmwareDigest 1) ∧
    ((List.range 4).find? fun k => !(secured 1).inSession k) = some 1 ∧ (∀ n, n < 4 → (secured 4).inSession n = true) ∧
    (secured 1).inSession 0 = true ∧ (secured 1).inSession 1 = false ∧ 3 ≤ (secured 1).boot.step ∧
    (secured 1).part.rollback.toNat < (5 : BitVec 16).toNat ∧ 5 = (secured 1).boot.imageVersion ∧ (6 : BitVec 16) ≠ (secured 1).boot.imageVersion ∧
    (0 : BitVec 16).toNat ≤ (secured 1).part.rollback.toNat ∧ State.reset.boot.step < 3 ∧ (secured 1).cmpWake 6 = false :=
  ⟨by decide +kernel, rfl, by decide +kernel⟩
theorem witness_keys : (∃ x ∈ (secured 1).sec.sessions, x.id = 0 ∧ x.owner = true) ∧ ¬(∃ x ∈ (secured 1).sec.sessions, x.id = 1 ∧ x.owner = true) ∧ (secured 1).moduleKeyDrawn = true ∧ 16383 < 16384 ∧
    (∀ p ∈ (secured 1).sec.keys, p.1 ≠ 16383) ∧ (secured 1).sec.debugOpen = false ∧ (secured 1).sec.ownerSet = true ∧
    (secured 1).sec.challenge.isSome = true ∧ (∀ x ∈ up.sec.sessions, x.owner = false) ∧
    up.sec.ownerSet = false ∧ (∃ p ∈ (keyStore (secured 1)).sec.keys, p.1 = 0) ∧
    (let s : State := { secured 1 with sec := { (secured 1).sec with debugOpen := true } }
     s.sec.debugOpen = true ∧ s.hallHere 0 = true ∧ (s.hall 0).treadle.diag = .none ∧ s.sec.scanning.getLsbD 0 = false) ∧
    storeAddr 0 95 2 0 < 2 ^ 64 ∧ addrShapeOk (storeAddr 0 95 2 0) = true ∧ addrSpace (storeAddr 0 95 2 0) = 0 ∧ addrHall (storeAddr 0 95 2 0) = 0 := by
  decide +kernel
/-- Its others: a tamper-loop break, with a ring that is ENABLED and an address of a gallery; the owner's hash, and `SEC_STATUS`. -/
theorem witness_tamper : (lone 1).newel.powered = true ∧ (lone 1).power.asleep = false ∧ (lone 1).items = [] ∧ (∀ r ∈ (lone 1).rings, r.2.ahead = []) ∧
    (lone 1).hallHere (ringHall 0) = true ∧ ringState ((lone 1).ring 0).entry = 1 ∧
    galleryAddr 7 0 < 2 ^ 64 ∧ addrShapeOk (galleryAddr 7 0) = true ∧ addrSpace (galleryAddr 7 0) < 2 ∧ up.hostInterfaceUp = true := by
  decide +kernel

/-! #### Power, rails and temperature -/

/-- A module in MODULE_SLEEP with comparators 2 and 5 enabled and `WAKE` set; one that is off, one whose switch is open. -/
def sleeping : State := { State.reset with power := { State.reset.power with asleep := true }, newel := { State.reset.newel with ctl := [(2, 3), (5, 3)] } }
def unpowered : State := { State.reset with power := { State.reset.power with off := true }, newel := { State.reset.newel with powered := false } }
def switched : State := { State.reset with power := { State.reset.power with switchOpen := true } }

/-- An image set that verifies, of version 0, and one whose signatures are wrong. -/
def goodSet : ImageSet := ⟨true, State.reset.part.kwedunHash, 0⟩
def badSet : ImageSet := ⟨false, State.reset.part.kwedunHash, 0⟩
/-- `PowerAndStartup`: resets, wakes, the results of start-up, and the input. -/
theorem witness_power : (false, Instr.moduleReset) ∈ [(false, Instr.moduleReset), (true, .moduleSleepEnter)] ∧ up.hostInterfaceUp = true ∧
    sleeping.newel.powered = true ∧ sleeping.power.asleep = true ∧ sleeping.cmpEnabled 2 = true ∧ sleeping.cmpWake 2 = true ∧
    sleeping.timeDue 5 = true ∧ sleeping.cmpWake 5 = true ∧ State.reset.canStart = true ∧ State.reset.boot.errCode = 0 ∧
    State.reset.part.hallFused ≠ 0xFF ∧ State.reset.setAccepted goodSet = true ∧
    State.reset.setVerifies badSet = false ∧ State.reset.setAccepted badSet = false ∧
    (let s : State := { State.reset with part := { State.reset.part with rollback := 1 } }
     s.setVerifies goodSet = true ∧ s.setAccepted goodSet = false ∧ s.canStart = true) ∧ State.reset.boot.hallsLost = 0 ∧
    up.newel.powered = true ∧ up.items = [] ∧ up.rings = [] ∧
    (let s : State := { State.reset with power := { State.reset.power with lowInput := true } }
     s.newel.powered = true ∧ s.power.lowInput = true ∧ s.power.senseMated = true ∧ s.power.switchOpen = false) ∧
    unpowered.power.off = true ∧ switched.power.switchOpen = true ∧
    (let s : State := { State.reset with power := { State.reset.power with senseMated := false } }
     s.newel.powered = true ∧ s.power.switchOpen = false ∧ s.power.senseMated = false) := by decide +kernel

/-- A READY module whose keeper of hall 0 is as given; with protection on, or off. -/
def kept (k : Keeper) (protect : Bool) : State :=
  { up with halls := [(0, { Hall.reset with keeper := k })], power := { up.power with protect := protect }
            newel := { up.newel with time := 1000000 } }
/-- `RailsAndTemperature`: a keeper ACTIVE, IDLE and PARKED, with targets, powers and temperatures at both sides of their bounds. -/
theorem witness_rails :
    (let s := kept Keeper.reset false
     s.hallUp 0 = true ∧ s.hostInterfaceUp = true ∧ fieldNat (850 : W32) 0 10 = 850 ∧ fieldNat (650 : W32) 0 10 = 650 ∧
      fieldNat (855 : W32) 0 10 = 855 ∧ fieldNat (751 : W32) 0 10 % 5 = 1 ∧ (s.hall 0).keeper.state = 0 ∧ s.power.protect = false ∧
      (s.hall 0).keeper.tj.toNat ≤ 105 ∧ s.awake = true ∧ (s.hall 0).keeper.idleDis = false ∧ s.hallQuiet 0 = true ∧ s.hallRuns 0 = true ∧
      s.lastBusy 0 + 50000 ≤ s.newel.time.toNat ∧ up.newel.time.toNat < up.lastBusy 0 + 50000 ∧ s.power.limit.toNat = 4200 ∧
      (s.hall 0).keeper.since.toNat + 100000 * 10 ^ (s.hall 0).keeper.window.toNat ≤ s.newel.time.toNat ∧ s.ready = true ∧
      (s.page (pgKeeper 0)).count = 0) ∧
    ((kept Keeper.reset true).hallUp 0 = true ∧ (kept Keeper.reset true).power.protect = true) ∧
    (let s : State := { kept { Keeper.reset with state := 1 } false with lanes := [(laneKey 0 0 .load .forward, [piece0])] }
     s.hallUp 0 = true ∧ (s.hall 0).keeper.state = 1 ∧ s.hallQuiet 0 = false) ∧
    (let s := kept { Keeper.reset with state := 2, rateMin := 4 } false
     s.hallUp 0 = true ∧ (s.hall 0).keeper.state = 2 ∧ (s.hall 0).keeper.rateMin ≠ 0) := by decide +kernel

/-! #### Hall loss and the newel -/

/-- A newel at 1 s with the comparators' bits as given; comparator 3 at 2,000 pulses. -/
def timed (cs : List (Nat × W32)) : State :=
  { up with newel := { up.newel with time := 1000000000, ctl := cs, val := [(3, 2000)] } }

/-- `HallLossAndNewel`, its first three clauses. -/
theorem witness_hall_loss : (lone 1).hallUp 0 = true ∧ (lone 1).hostInterfaceUp = true ∧ ringHall 0 = 0 ∧ (lone 1).ready = true ∧
    (lone 1).hallAbsent 0 = false ∧ (lone 1).boot.diesFailed.getLsbD 0 = false ∧ ((lone 1).page pgModule).count = 0 ∧
    storeAddr 0 0 0 0 < 2 ^ 64 ∧ addrShapeOk (storeAddr 0 0 0 0) = true ∧ addrSpace (storeAddr 0 0 0 0) = 0 ∧ addrHall (storeAddr 0 0 0 0) = 0 := by
  decide +kernel
theorem witness_trips :
    (let s := timed [(2, 1), (3, 1), (5, 5), (6, 5), (7, 5)]
     s.newel.powered = true ∧ s.cmpEnabled 2 = true ∧ (s.cmpVal 2).toNat ≤ 105 ∧ 104 < (s.cmpVal 2).toNat ∧ s.cmpEnabled 3 = true ∧
      1999 < (s.cmpVal 3).toNat ∧ s.timeDue 5 = true ∧ s.cmpAlt 5 = true ∧ s.timeDue 6 = true ∧ s.cmpAlt 6 = true ∧ s.timeDue 7 = true ∧
      s.cmpAlt 7 = true) ∧ up.cmpEnabled 2 = false ∧ up.cmpVal 3 = 0 ∧ up.timeDue 7 = false := by decide +kernel

/-- Its others: writes of the comparators that conflict and that do not, values in and out of range, and the clock's sources. -/
theorem witness_newel : up.hostInterfaceUp = true ∧ up.ready = true ∧ up.cmpConflict 7 5 = none ∧ up.cmpConflict 5 6 = some 3 ∧
    (up.page pgNewel).count = 0 ∧ (6 : W32).getLsbD 1 = true ∧ (6 : W32).getLsbD 2 = true ∧ cmpFixed 2 = false ∧ cmpInRange 2 60 = true ∧
    cmpInRange 2 110 = true ∧ cmpInRange 2 59 = false ∧ cmpInRange 2 111 = false ∧ cmpInRange 6 0 = true ∧ up.cmpAlt 6 = false ∧
    up.newel.powered = true ∧ up.awake = true ∧ up.newel.firstLockDue = true ∧ up.newel.source ≠ 1 ∧
    ({ up with newel := { up.newel with source := 1, firstLockDue := false } } : State).newel.source = 1 ∧
    (wired (port .up)).clockPort 0 = true ∧ ((wired (port .up)).flight 0).paused = 0 ∧ (⟨128, 248, 0xFE, 0xFFFF, 128, 7, 0⟩ : PtpClock).identity ≠ up.part.serial ∧
    (timed [(7, 5)]).cmpAlt 7 = true ∧ up.cmpAlt 7 = false ∧ up.cmpEnabled 7 = false ∧ (4 : W32).getLsbD 2 = true ∧
    (let s : State := { up with newel := { up.newel with ppsOut := true, pldmAlert := true } }
     s.cmpConflict 2 4 = some 5 ∧ s.cmpConflict 7 4 = some 1) := by decide +kernel

/-! #### Register pages -/

/-- An entry that R129 allows, DISABLED, and one with a reserved bit set. -/
def goodEntry : Block512 := ring0.entry ^^^ block [(128, 2), (136, 1)]
/-- A READY module whose ring 0 has an entry and whose treadle of hall 0 is as given. -/
def paged (e : Block512) (t : Treadle) : State :=
  { up with rings := [(0, { Ring.reset with entry := e })], halls := [(0, { Hall.reset with treadle := t })] }

/-- `RingsAndTreadlePage`, the rings. -/
theorem witness_ring_page :
    (let s := paged goodEntry Treadle.reset
     s.hostInterfaceUp = true ∧ s.hallUp 0 = true ∧ s.selectedRing 0 = 0 ∧ ringState (s.ring 0).entry = 0 ∧ s.ringAllowed 0 0 = true ∧
      s.functionHere 0 = true ∧ s.functionHere 1 = false ∧ s.ringEntryOk (s.ring 0).entry = true ∧ (s.page (pgTreadle 0)).count = 0) ∧
    (let s := paged (goodEntry ||| block [(511, 1)]) Treadle.reset
     ringState (s.ring 0).entry = 0 ∧ s.ringEntryOk (s.ring 0).entry = false) ∧
    (let s := paged ring0.entry Treadle.reset
     ringState (s.ring 0).entry = 1 ∧ addrSpace (ringCompletionBase (s.ring 0).entry) ≠ 5 ∧ addrSpace (ringWriteback (s.ring 0).entry) ≠ 5 ∧
      s.items = [] ∧ (∀ r ∈ s.rings, r.2.ahead = []) ∧ (s.ring 0).c = (s.ring 0).f) ∧
    (let s : State := { paged (ring0.entry ^^^ block [(136, 3)]) Treadle.reset with items := [item0 0 []] }
     ringState (s.ring 0).entry = 2 ∧ (∃ u ∈ s.items, u.id.ring = 0) ∧ ∀ u ∈ ({ s with items := [] } : State).items, u.id.ring ≠ 0) ∧
    fieldNat (12287 : W32) 0 14 < 12288 ∧ fieldNat (0x3FFF : W32) 0 14 = 0x3FFF ∧ 12288 ≤ fieldNat (12288 : W32) 0 14 := by decide +kernel

/-- A pattern source at an HBM address with 64 bytes of zeros, and a load. -/
def patterned (ld : Option (Nat × Bool × List Byte)) : State :=
  paged goodEntry { Treadle.reset with patSrc := BitVec.ofNat 64 (hbmAddr 0 0), patLen := 1, load := ld }
theorem witness_pattern_page : (patterned none).patternImage 0 = some (List.replicate 64 0) ∧
    (patterned none).addrAbsent (BitVec.ofNat 64 (hbmAddr 0 0)).toNat = false ∧
    (let s : State := { patterned none with halls := [(0, { Hall.reset with treadle := { Treadle.reset with patSrc := BitVec.ofNat 64 (hbmAddr 7 0) } })]
                                            part := { up.part with hallFused := 0x80 }, boot := { up.boot with hallsOk := 0x7F } }
     s.addrAbsent (s.hall 0).treadle.patSrc.toNat = true) ∧
    (paged goodEntry Treadle.reset).patternImage 0 = none ∧ (paged goodEntry Treadle.reset).addrAbsent 0 = false ∧
    (patterned none).hitsZeroing (hbmAddr 0 0) 64 = false ∧
    (let t := { Treadle.reset with patSrc := BitVec.ofNat 64 (galleryAddr 0 (2 ^ 32 - 64)), load := some (512, true, [0]) }
     let s : State := { patterned none with halls := [(0, { Hall.reset with treadle := t, shareBusy := true, shareOld := 8 })] }
     s.hitsZeroing t.patSrc.toNat 1 = true) ∧
    ((patterned none).hall 0).treadle.load = none ∧ ((patterned (some (512, true, [0]))).hall 0).treadle.load = some (512, true, [0]) := by
  decide +kernel

/-- With no byte of memory listed, every context is FREE. -/
theorem leNat_zeros {α : Type} (l : List α) : leNat (l.map fun _ => (0 : Byte)) = 0 := by
  induction l with
  | nil => rfl
  | cons a l ih => simp only [List.map_cons, leNat, ih]; rfl
theorem ctx_of_no_memory {s : State} (h : s.mem = []) (c : Nat) : s.ctx c = 0 := by
  have e : s.mem.readBytes (s.ctxAddr c) 512 = (List.range 512).map fun _ => (0 : Byte) := by rw [h]; rfl
  rw [State.ctx, e, leNat_zeros]; rfl
theorem no_ctx_bound {s : State} (h : s.mem = []) (k : Nat) : s.anyCtxBound k = false ∧ s.anyCtxInUse k = false := by
  simp only [State.anyCtxBound, State.anyCtxInUse, ctx_of_no_memory h]
  constructor <;> exact List.any_eq_false.mpr fun _ _ => by decide +kernel

/-- DIAGNOSTIC states: a ring that may be left alone, and one beside it that is ENABLED. -/
def diagnosable : State := paged goodEntry Treadle.reset
theorem witness_diag_enter : (diagnosable.hall 0).treadle.diag = .none ∧ diagnosable.sec.scanning.getLsbD 0 = false ∧ fieldNat (1 : W32) 2 11 = 0 ∧
    diagnosable.diagAllowed 0 0 = true := by
  refine ⟨by decide +kernel, by decide +kernel, by decide +kernel, ?_⟩
  simp only [State.diagAllowed, (no_ctx_bound (s := diagnosable) rfl 0).1]
  decide +kernel
theorem witness_diag_refused : (paged ring0.entry Treadle.reset).diagAllowed 0 7 = false ∧
    ((paged goodEntry { Treadle.reset with diag := .entering }).hall 0).treadle.diag = .entering := by
  refine ⟨?_, by decide +kernel⟩
  simp only [State.diagAllowed, (no_ctx_bound (s := paged ring0.entry Treadle.reset) rfl 0).1]
  decide +kernel

/-- The context table's base: in range with no context in use, out of range. -/
theorem witness_ctx_base : diagnosable.ctxBaseOk 0 (fieldNat (1 : W32) 0 17) = true ∧ diagnosable.anyCtxInUse 0 = false ∧
    diagnosable.ctxBaseOk 0 (fieldNat (0x1FFFF : W32) 0 17) = false :=
  ⟨by decide +kernel, (no_ctx_bound rfl 0).2, by decide +kernel⟩

/-- A READY module with hall 0 as given and, where there is one, an open window at index 0 of hall 0. -/
def shared (hl : Hall) (ws : Table Block512) : State := { up with halls := [(0, hl)], windows := ws }
/-- A stage with a window of an owner; the operator is 0x3FFF. -/
def staged (owner : Nat) : Hall := { Hall.reset with winStage := landingWin ^^^ block [(80, owner ^^^ 0x3FFF)] }
/-- A window of host memory at the last generation. -/
def spentWin : Block512 := winSetGen (win (3 * 2 ^ 60) 0x0E 8 1 8) 0xFFFFFFFF

/-- `WindowsCacheAndManagement`, the window commands: owners in and out of range, absent, and without quota. -/
theorem witness_window_page :
    (let s := shared (staged 0x3FFF) [(0, landingWin)]
     s.hostInterfaceUp = true ∧ s.hallUp 0 = true ∧ winOwner (s.hall 0).winStage = operatorOwner ∧
      (s.chargeWindow (s.window 0) false).chargeAbove (s.hall 0).winStage = false ∧ genSpent (s.window 0) = false) ∧
    (let s := shared { staged 0x3FFF with winStage := 0 } [(0, landingWin)]
     winOpen (s.window 0) = true ∧ winOpen (s.hall 0).winStage = false) ∧
    winOwner (staged 12288).winStage = 12288 ∧ genSpent spentWin = true ∧
    (let s := shared (staged 1536) []
     let s' : State := { s with part := { s.part with hallFused := 2 } }
     winOwner (s'.hall 0).winStage < 12288 ∧ s'.ctxHere (winOwner (s'.hall 0).winStage) = false ∧ s'.hallUp 0 = true) ∧
    (let s := shared (staged 0) []
     winOwner (s.hall 0).winStage < 12288 ∧ s.ctxHere 0 = true ∧ (s.chargeWindow (s.window 0) false).chargeAbove (s.hall 0).winStage = true ∧
      (s.page (pgWindow 0)).count = 0) := by decide +kernel

/-- A ring whose commands lie where a share of 1 would cover them. -/
def coveredRing : State :=
  { up with rings := [(0, { Ring.reset with entry := block [(0, galleryAddr 0 (2 ^ 26 - 4096)), (64, 3 * 2 ^ 60 + 0x2000), (128, 6), (136, 1),
      (144, 0x3FFF), (168, 1), (176, 0xFFFF), (192, 3 * 2 ^ 60 + 0x3000)] })] }
/-- The shares of the tensor cache: raised, blocked, too large, lowered; and the ledger's caps at their bounds. -/
theorem witness_share : (1 : W32).getLsbD 16 = false ∧ (up.hall 0).share.toNat < fieldNat (1 : W32) 0 4 ∧ fieldNat (8 : W32) 0 4 ≤ 8 ∧
    8 < fieldNat (9 : W32) 0 4 ∧ up.raiseBlocked 0 1 = false ∧ coveredRing.raiseBlocked 0 1 = true ∧ coveredRing.hallUp 0 = true ∧
    ((shared { Hall.reset with share := 8 } []).hall 0).share.toNat = 8 ∧ fieldNat (0x04000010 : W32) 0 11 = 16 ∧
    fieldNat (0x04000010 : W32) 16 11 = 1024 ∧ fieldNat (0x0401000F : W32) 0 11 < 16 ∧ 1024 < fieldNat (0x0401000F : W32) 16 11 := by
  refine ⟨by decide +kernel, by decide +kernel, by decide +kernel, by decide +kernel, ?_, ?_, by decide +kernel⟩
  · simp only [State.raiseBlocked, (no_ctx_bound (s := up) rfl 0).2]; decide +kernel
  · simp only [State.raiseBlocked, (no_ctx_bound (s := coveredRing) rfl 0).2]; decide +kernel

/-- An operator's item with a window over the module page's mask register: register accesses through BAR0 and space 5. -/
def manager : Item := item0 (block [(0, 0x12), (128, 1)]) [(1, win (5 * 2 ^ 60 + 0x018) 0x0E 8 1 8)]
theorem witness_management : (holding manager).managementItem 0 0x018 = some manager ∧ (holding manager).mod.resetDue = false ∧
    manager.failedAt = none ∧ manager.caller = none ∧ (holding manager).item manager.id = some manager ∧ 0x018 % 4 = 0 ∧ (2 ≠ 4 ∧ 2 ≠ 8) ∧
    0x01C % 8 ≠ 0 ∧ 0x1042 % 4 ≠ 0 ∧ up.hostInterfaceUp = true ∧ up.ready = true := by decide +kernel

/-- Its clause on register writes: both functions, the registers' pages there, and values at both sides of their ranges. -/
theorem witness_registers : up.functionHere 0 = true ∧ up.functionHere 1 = false ∧ up.mod.resetDue = false ∧ up.hallUp 7 = true ∧
    up.flightAbsent 11 = false ∧ up.portUp 11 = false ∧ up.selvPresent 12 = true ∧ up.sec.ownerSet = false ∧ (1 : W32).getLsbD 0 = true ∧
    (1 : W32).getLsbD 1 = false ∧ (0x3FF : W32).getLsbD 11 = false ∧ imageAddress (BitVec.ofNat 64 (hbmAddr 0 64)) = true ∧ imageAddress 1 = false ∧
    (∀ b ∈ [0, 8, 16, 24], 16 ≤ fieldNat (0x20102010 : W32) b 6 ∧ fieldNat (0x20102010 : W32) b 6 ≤ 32) ∧
    (∃ b ∈ [0, 8, 16, 24], fieldNat (0x2010200F : W32) b 6 < 16 ∨ 32 < fieldNat (0x2010200F : W32) b 6) := by decide +kernel

/-! #### Card words -/

/-- A `CARD_RUN` of one word at a gallery address, its results in the window beside it. -/
def carding : Item := item0 (block [(0, 0xE0), (128, 1), (160, 2)])
  [(1, win (galleryAddr 0 0x1000000) 0x0E 16 1 16), (2, win (galleryAddr 0 0x1001000) 0x0E 8 1 8)]
/-- The word: one repetition of an action on store 0 of loom 0, past its tokens. The module is in DIAGNOSTIC state or not. -/
def carded (action : Nat) (inside : Bool) : State :=
  { holding carding with
    mem := [(galleryAddr 0 0x100000C, 1), (galleryAddr 0 0x100000E, 0x80)] ++ (if action = 0 then [] else [(galleryAddr 0 0x100000F, BitVec.ofNat 8 action)])
    halls := [(0, { Hall.reset with treadle := { Treadle.reset with diag := if inside then .inside else .none } })] }

/-- What `CardWordsRun` asks of a word of an action. -/
def cardReady (action : Nat) : Bool :=
  let s := carded action true
  let fn := s.itemFunction id0
  let w := s.cardWord fn (carding.winD 16) carding.progress
  s.runnable id0 .cardRun == some carding && s.hallRuns 0 && (s.hall 0).treadle.diag == .inside && (s.hall 0).treadle.diagRing.toNat == 0 &&
    !s.mod.resetDue && (carding.wins.all fun x => addrSpace (winBase x.2) != 5) &&
    addrSpace (winBase (carding.winD 20) + s.cardResults fn (carding.winD 16) carding.progress) != 5 &&
    s.readFault fn true (carding.reads [16]) == none && s.readFault fn false (carding.reads [20]) == none && !cardReserved w && s.cardHere carding &&
    cardAction w == action && carding.progress + 1 == cardWords carding
/-- `CardWordsRun`: each action in DIAGNOSTIC state, and outside it. -/
theorem witness_cards : ([0, 1, 2, 3, 4].all cardReady) = true := by decide +kernel
theorem witness_card_places (a : Nat) (h : a = 0 ∨ a = 1 ∨ a = 2) :
    let s := carded a true
    let w := s.cardWord (s.itemFunction id0) (carding.winD 16) carding.progress
    cardUnit w = 0 ∧ cardCount w = 1 ∧ (s.access (s.itemFunction id0) (carding.winD 20)).keys = none ∧
      addrSpace (winBase (carding.winD 20) + s.cardResults (s.itemFunction id0) (carding.winD 16) carding.progress) ≠ 2 := by
  rcases h with rfl | rfl | rfl <;> decide +kernel
theorem witness_card_tokens (a : Nat) (h : a = 0 ∨ a = 1 ∨ a = 2 ∨ a = 3 ∨ a = 4) :
    let s := carded a true
    let w := s.cardWord (s.itemFunction id0) (carding.winD 16) carding.progress
    s.cardTokens carding.hall w (cardOffsets w s.free) = true := by
  have b : cardBypass ((carded a true).cardWord ((carded a true).itemFunction id0) (carding.winD 16) carding.progress) = true := by
    rcases h with rfl | rfl | rfl | rfl | rfl <;> decide +kernel
  simp only [State.cardTokens, b, Bool.true_or]
theorem witness_card_outside : (carded 3 false).runnable id0 .cardRun = some carding ∧ (carded 3 false).hallRuns carding.hall = true ∧
    ((carded 3 false).hall carding.hall).treadle.diag ≠ .inside ∧ carding.failedAt = none ∧ carding.caller = none ∧ carding.progress < cardWords carding := by decide +kernel

/-! ### The specification's worked examples -/

/-- The state that a command's outcome goes on to, the state before it where it does not go on. -/
def after (c : Instr) (s : State) : State :=
  match exec c s with
  | .next s' => s'
  | _ => s

/-- 00_scope.md, the example after R11: the first ten bytes of a record. -/
theorem test_record_example :
    let t : Item := { item0 (block [(32, 0x2A17)]) [] with id := ⟨0x2843, 0, 0⟩, replay := 2, hallByte := 5, looms := [0, 1] }
    (recordBytes t 0 0).take 10 = [0x17, 0x2A, 0, 0, 0, 2, 0x43, 0x28, 5, 0xFF] ∧ ringHall 0x2843 = 5 := by decide +kernel

/-- 03_number_formats.md, R58: 460 and 470 converted to E4M3, saturating and not. -/
theorem test_e4m3_example : (convertPlain 6 ⟨false, true, 0⟩ 0 0x43E60000 one32).code = 0x7E ∧
    (convertPlain 6 ⟨false, false, 0⟩ 0 0x43E60000 one32).code = 0x7E ∧ (convertPlain 6 ⟨false, true, 0⟩ 0 0x43EB0000 one32).code = 0x7E ∧
    (convertPlain 6 ⟨false, false, 0⟩ 0 0x43EB0000 one32).code = 0x7F := by decide +kernel

/-- 03_number_formats.md, "one MXFP4 block": 22.0, -9.0, 1.25, 0.9 and 2.0, and the block with an infinity. -/
def mxRow (x : W32) : List (Nat × Val) :=
  (List.range 32).zip (([x, 0xC1100000, 0x3FA00000, 0x3F666666, 0x40000000] ++ List.replicate 27 0).map dec32)
theorem test_mxfp4_example :
    (convertBlock 1 ⟨false, true, 0⟩ (mxRow 0x41B00000)).1 = 0x81 ∧
    ((convertBlock 1 ⟨false, true, 0⟩ (mxRow 0x41B00000)).2.map (·.code)).take 5 = [0x7, 0xC, 0x1, 0x0, 0x1] ∧
    (convertBlock 1 ⟨false, true, 0⟩ (mxRow 0x7F800000)).1 = 0xFF ∧
    ((convertBlock 1 ⟨false, true, 0⟩ (mxRow 0x7F800000)).2.map (·.code)) = List.replicate 32 0 := by decide +kernel

/-- 05_accumulation_and_epilogue.md, the worked example: the alignment of MXFP4 operands with scale codes 0x79 and 0x7D. -/
theorem test_alignment_example : alignment 1 1 [(7, 0x79), (1, 0x70)] [(7, 0x7D), (2, 0x7C)] = -16 := by decide +kernel

/-- 07_command_architecture.md, the worked example: the set entry, the term knot, and a knot at 47 and at 48 of a target of 48. -/
theorem test_entry_example : entryValid 0x81100001 = true ∧ entryHall 0x81100001 = 0 ∧ entryKnot 0x81100001 = 17 ∧ entryIncrement 0x81100001 = 1 ∧
    setEntryOk 0x81100001 = true ∧ entryKnot 0x81100030 = 17 ∧ entryTarget 0x81100030 = 48 ∧ waitMetBy 47 48 = false ∧ waitMetBy 48 48 = true := by
  decide +kernel

/-- 08_macro_operation_reference.md, the worked example: the descriptor of an adapted projection from its bytes. -/
def exampleDesc : Block512 := BitVec.ofNat 512 (leNat (
  [0x20, 0x21, 0x04, 0x00, 0x10, 0x03, 0x00, 0x00, 0, 0, 0, 0, 0x01, 0x00, 0x20, 0x81] ++
  [0x00, 0x01, 0x02, 0x00, 0x10, 0x00, 0x02, 0x00, 0x00, 0x02, 0x02, 0x00, 0x00, 0x03, 0x02, 0x00] ++
  [0, 0, 0, 0, 0, 0, 0, 0, 0xFF, 0xFF, 0xFF, 0xFF, 0xFF, 0xFF, 0xFF, 0xFF] ++
  [0x00, 0x04, 0x02, 0x00, 0x30, 0x00, 0x10, 0x81, 0x0C, 0x00, 0, 0, 0, 0, 0, 0]))
theorem test_descriptor_example : descOp exampleDesc = some .matmul ∧ opcodeOk exampleDesc = true ∧ reservedOk .matmul exampleDesc = true ∧
    descLevel exampleDesc = 1 ∧ adapterFlag exampleDesc = true ∧ descId exampleDesc = 0x310 ∧ entryKey (descSet exampleDesc) = 18 ∧
    handleKey (word32 exampleDesc 16) = windowKey 2 0x100 ∧ word32 exampleDesc 40 = noHandle ∧ (item0 exampleDesc []).termKnot = 0x81100030 ∧
    up.headCheck operatorOwner exampleDesc = none ∧ reservedOk .matmul (exampleDesc ||| block [(511, 1)]) = false := by decide +kernel

/-- 10_memory_and_streams.md, the example of R209 and its pseudo-channel: stack offset 0x1_2345_6000 with k = 3. -/
theorem test_cache_example : cacheLineIndex 0x123456000 = 1193046 ∧ cacheBank 1193046 = 54 ∧ cacheSet 3 1193046 = 139 ∧
    pseudoChannel 0x123456000 = 36 := by decide +kernel

/-- 10_memory_and_streams.md, the deadline example: the times to empty of its three descriptors. -/
theorem test_deadline_example :
    let a (bytes rows : Nat) (rate : W32) (full : Nat) : Arming :=
      { armingOf armed 1 with dstWin := win (galleryAddr 0 0x1000000) 0x0E bytes rows bytes, rate := rate, full := List.range full }
    up.timeToEmpty (a 4096 16 139264 8) = 240 ∧ up.timeToEmpty (a 65536 32 13107 16) = 81921 ∧ up.timeToEmpty (a 8192 2 8192 1) = 1024 := by
  decide +kernel

/-- 11_selvedge_update.md, the KM8 example: a first moment block with a = 0.0030 and an element of -0.0011. -/
theorem test_km8_example : (km8Block false [0x3B449BA6, 0xBA902DE0]).1 = 0x3E32 ∧ ((km8Block false [0x3B449BA6, 0xBA902DE0]).2.1)[1]? = some 0xD1 := by
  decide +kernel

/-- 16_register_reference.md, the worked example: ring 5 of hall 2. Its entry is enabled, and refused with the other command base. -/
def exampleRing (base : Nat) : Block512 :=
  block [(0, base), (64, 0x3000000012350000), (128, 10), (144, 0x3FFF), (160, 0), (168, 96), (176, 0x40), (192, 0x3000000012358000), (256, 16)]
def exampleModule (base : Nat) : State :=
  { up with rings := [(4101, { Ring.reset with entry := exampleRing base })], halls := [(2, { Hall.reset with treadle := { Treadle.reset with ringSel := 5 } })] }
theorem test_ring_example : ringState ((after (.ringEnable 2 0) (exampleModule 0x3000000012340000)).ring 4101).entry = ringEnabled ∧
    ringState ((after (.ringEnable 2 0) (exampleModule 0x3000000012348000)).ring 4101).entry = ringDisabled ∧
    ((after (.ringEnable 2 0) (exampleModule 0x3000000012348000)).page (pgTreadle 2)).code = 0x21 ∧
    (after (.doorbellPWrite 4101 8) (exampleModule 0x3000000012348000)).rings = (exampleModule 0x3000000012348000).rings := by decide +kernel

/-! ### Single commands -/

/-- R150: after 47 increments and a poison the waiting item fails with `ST_UPSTREAM`; R151: `KNOT_SET` assigns 9 at knot 255. -/
theorem test_knot_wait_poisoned : ((after (.knotWait id0) (waitingAt 47 true)).item id0).map (·.status) = some .upstream := by decide +kernel
theorem test_knot_set_assigns : (after (.knotSet id0) (holding (knotSet 0 1))).knot 255 = ⟨9, false, 0x3FFF⟩ := by decide +kernel
/-- R131: P = 17 on a ring of 16 entries with F = 1 stands; 18 is refused with `ST_LENGTH_BOUND`. -/
theorem test_doorbell : ((after (.doorbellPWrite 0 17) (holding (item0 0 []))).ring 0).p = 17 ∧
    ((after (.doorbellPWrite 0 18) (holding (item0 0 []))).ring 0).p = 1 ∧
    ((after (.doorbellPWrite 0 18) (holding (item0 0 []))).page (pgTreadle 0)).code = 0x14 := by decide +kernel
/-- R365: 1.0 + 2.0 = 3.0, 1.0 / 3.0 rounded to nearest even, and FMA of 2.0, 2.0 and 1.0. -/
def regged : State := { up with selvs := [(12, { Selvedge.reset with regs := [(1, 0x3F800000), (2, 0x40000000), (3, 0x40400000)] })] }
theorem test_selvedge_arithmetic : Regs.q ((after (.add 12 4 1 2) regged).selv 12).regs 4 = 0x40400000 ∧
    Regs.q ((after (.div 12 4 1 3) regged).selv 12).regs 4 = 0x3EAAAAAB ∧ Regs.q ((after (.fma 12 4 2 2 1) regged).selv 12).regs 4 = 0x40A00000 ∧
    Regs.q ((after (.sqrt 12 4 2) regged).selv 12).regs 4 = 0x3FB504F3 := by decide +kernel
/-- R18: 851 mV is refused and recorded, 850 mV is taken. -/
theorem test_rail_target : ((after (.rkTargetWrite 0 850) up).hall 0).keeper.target = 850 ∧ ((after (.rkTargetWrite 0 851) up).hall 0).keeper.target = 750 ∧
    ((after (.rkTargetWrite 0 851) up).page (pgKeeper 0)).info0 = 851 := by decide +kernel
/-- R18: 10 mV a microsecond: 5 µs after the write the rail stands half way from 750 mV to 850 mV, after 10 µs it is there. -/
theorem test_rail_slew :
    let s := after (.rkTargetWrite 0 850) (kept { Keeper.reset with railMv := 750, goalMv := 750 } false)
    (s.hall 0).keeper.railNow 1000000 = 750 ∧ (s.hall 0).keeper.railNow 1005000 = 800 ∧ (s.hall 0).keeper.railNow 1010000 = 850 := by decide +kernel
/-- R350: a second fault only counts; clearing bit 31 clears the first. -/
theorem test_fault_then_clear : ((faulty.fault (pgTreadle 0) .access 9 9).page (pgTreadle 0)).code = 0x14 ∧
    ((faulty.fault (pgTreadle 0) .access 9 9).page (pgTreadle 0)).count = 2 ∧
    ((after (.eventClear (pgTreadle 0) 0x80000000) faulty).page (pgTreadle 0)).count = 0 := by decide +kernel
/-- R339: a reference 2 ms ahead steps the first lock; one 0.5 ms behind slews. -/
theorem test_ptp_lock : (after (.ptpLock 2000000) up).newel.time = 2000000 ∧ (after (.ptpLock (-500000)) up).newel.time = 0 ∧
    (after (.ptpLock (-500000)) up).newel.slewNs = -500000 := by decide +kernel
/-- R171: a `COPY` of one row of 8 FP32 elements moves its bytes and counts 32. -/
theorem test_copy : let s : State := { holding copying with mem := [(galleryAddr 0 0x1000000, 0x11), (galleryAddr 0 0x100001F, 0x22)] }
    (after (.copy id0) s).mem.read (galleryAddr 0 0x100101F) = 0x22 ∧ (after (.copy id0) s).mem.read (galleryAddr 0 0x1001000) = 0x11 ∧
    ((after (.copy id0) s).item id0).map (·.bytes) = some 32 := by decide +kernel
/-- R266: a hello from a module of another level holds the port in HELLO with `MISMATCH` 1. -/
theorem test_hello_level : ((after (.helloReceive 0 { hello0 with level := 0 }) (wired (port .hello))).flight 0).mismatch = 1 ∧
    ((after (.helloReceive 0 hello0) (wired (port .hello))).flight 0).link = .awaitAdmit := by decide +kernel

end Sys2Proof.Tests
end

section
/-!
Status codes and their classes (R7, R8): the codes of the two lists of statuses, every status in one of them, what that says of the class and
of a code that two statuses share, and the final status of an item (R144).
-/
namespace Sys2Proof.Machine

/-! ### The statuses of R7 by class -/

/-- The statuses that say that the item's effects are in place: success and the adjustments (R8). -/
def inPlaceStatuses : List Status := [.ok, .stepAdopted, .precondFallback, .prunedCatchup]

/-- The statuses of the failure class (R8). -/
def failureStatuses : List Status :=
  [.reservedField, .level, .badOpcode, .engineAbsent, .lengthBound, .rearmOverrun, .quota, .conflict, .windowClosed, .starved,
    .upstream, .stepHeld, .peerLost, .eccUncorr, .key, .aborted, .hallLost, .access, .timeout]

theorem inPlaceStatuses_codes : inPlaceStatuses.map statusCode = [0x00, 0x01, 0x02, 0x03] := rfl

theorem failureStatuses_codes : failureStatuses.map statusCode =
    [0x10, 0x11, 0x12, 0x13, 0x14, 0x15, 0x16, 0x17, 0x18, 0x19, 0x1A, 0x1B, 0x1C, 0x1D, 0x1E, 0x1F, 0x20, 0x21, 0x22] := rfl

theorem mem_inPlaceStatuses_append_failureStatuses (st : Status) : st ∈ inPlaceStatuses ++ failureStatuses := by
  cases st <;> decide

/-! ### The class and the code of a status -/

theorem statusFailed_iff_code (st : Status) : statusFailed st = true ↔ 0x10 ≤ (statusCode st).toNat := decide_eq_true_iff

theorem statusFailed_of_mem_inPlaceStatuses : ∀ st ∈ inPlaceStatuses, statusFailed st = false := by decide

theorem statusFailed_of_mem_failureStatuses : ∀ st ∈ failureStatuses, statusFailed st = true := by decide

theorem statusFailed_eq_false_iff_mem (st : Status) : statusFailed st = false ↔ st ∈ inPlaceStatuses := by
  refine ⟨fun hpass => ?_, statusFailed_of_mem_inPlaceStatuses st⟩
  rcases List.mem_append.mp (mem_inPlaceStatuses_append_failureStatuses st) with hin | hfail
  · exact hin
  · simp [statusFailed_of_mem_failureStatuses st hfail] at hpass

/-- No code stands twice in the table of R7, and the table holds every status. -/
theorem statusCode_injective : Function.Injective statusCode := by
  have hcodes : ((inPlaceStatuses ++ failureStatuses).map statusCode).Nodup := by
    rw [List.map_append, inPlaceStatuses_codes, failureStatuses_codes]
    decide
  exact fun a b hab => List.inj_on_of_nodup_map hcodes (mem_inPlaceStatuses_append_failureStatuses a)
    (mem_inPlaceStatuses_append_failureStatuses b) hab

theorem statusCode_eq_zero_iff (st : Status) : statusCode st = 0 ↔ st = .ok := statusCode_injective.eq_iff' rfl

/-! ### The final status of an item -/

theorem Item.finalStatus_of_failed {t : Item} (hfail : statusFailed t.status = true) : t.finalStatus = t.status := if_pos hfail

theorem Item.finalStatus_of_not_failed {t : Item} (hpass : statusFailed t.status = false) :
    t.finalStatus = t.adjust.getD t.status := by
  simp [Item.finalStatus, hpass]

/-- Settles O8: the codes are read off the two lists of R7's statuses, the classes and the uniqueness of codes from every status standing in
one of them, and an item's final status from whether it has failed. -/
theorem statusCodesAndClasses : Obligations.StatusCodesAndClasses := by
  unfold Obligations.StatusCodesAndClasses
  refine ⟨inPlaceStatuses_codes, failureStatuses_codes, statusCode_eq_zero_iff, statusFailed_iff_code, ?inPlace,
    fun _ _ hab => statusCode_injective hab, fun _ => Item.finalStatus_of_failed, ?unadjusted, ?adjusted⟩
  case inPlace =>
    intro st
    simpa [inPlaceStatuses] using statusFailed_eq_false_iff_mem st
  case unadjusted =>
    intro t hpass hnone
    rw [Item.finalStatus_of_not_failed hpass, hnone, Option.getD_none]
  case adjusted =>
    intro t st hpass hsome
    rw [Item.finalStatus_of_not_failed hpass, hsome, Option.getD_some]

end Sys2Proof.Machine
end

section
/-!
The level pair (R140): what the checks of R139 answer while the level passes, what a page reads as after a recorded fault (R350), and what a
request of a level and `RING_ENABLE` do at each active level.
-/
namespace Sys2Proof.Machine

/-! ### The level check of a descriptor -/

/-- What the first failing check answers, one of the checks answers. -/
theorem firstFail_mem {l : List (Option Status)} {st : Status} (h : firstFail l = some st) : some st ∈ l := by
  induction l with
  | nil => cases h
  | cons x l ih =>
    cases x with
    | none => exact List.mem_cons_of_mem _ (ih h)
    | some u =>
      obtain rfl : u = st := Option.some.inj h
      exact List.mem_cons_self

theorem State.knotRefusal_ne_level (s : State) (owner : Nat) (k : Nat × Nat) : s.knotRefusal owner k ≠ some .level := by
  unfold State.knotRefusal
  split
  · simp
  · split <;> simp

theorem State.ringContextRefusal_ne_level (s : State) (owner : Nat) : s.ringContextRefusal owner ≠ some .level := by
  unfold State.ringContextRefusal
  split
  · simp
  · split
    · simp
    · split <;> simp

/-- Step 1 of R139 alone answers `ST_LEVEL`. -/
theorem State.headCheck_ne_level {s : State} {d : Block512} (owner : Nat) (hlevel : descLevel d ≤ s.mod.levelAct.toNat) :
    s.headCheck owner d ≠ some .level := by
  unfold State.headCheck
  rw [if_neg (Nat.not_lt.mpr hlevel)]
  split
  · simp
  · split
    · simp
    · next o _ =>
      split
      · simp
      · intro hfail
        rcases List.mem_append.mp (firstFail_mem hfail) with hknot | hrest
        · obtain ⟨k, -, hk⟩ := List.mem_map.mp hknot
          exact s.knotRefusal_ne_level owner k hk
        · rcases List.mem_pair.mp hrest with hctx | hop
          · exact s.ringContextRefusal_ne_level owner hctx.symm
          · simp [failIf] at hop

/-! ### A page after a recorded fault -/

theorem State.modPage_page (s : State) (p q : Nat) (f : Page → Page) :
    (s.modPage p f).page q = if p = q then f (s.page p) else s.page q := by
  have hset : ({ s with pages := Table.set Page.zero s.pages p (f (s.page p)) } : State).page q =
      if p = q then f (s.page p) else s.page q := Table.get_set _ _ _ _ _
  unfold State.modPage
  dsimp only
  split <;> exact hset

theorem State.fault_page_self (s : State) (p : Nat) (st : Status) (i0 i1 : W32) :
    (s.fault p st i0 i1).page p = (s.page p).withFault (statusCode st) i0 i1 := by
  rw [State.fault, State.modPage_page, if_pos rfl]

theorem Page.withFault_of_none {p : Page} (h : p.count = 0) (code : BitVec 8) (i0 i1 : W32) :
    p.withFault code i0 i1 = { p.withEvent 31 with code := code, info0 := i0, info1 := i1, count := 1 } := if_pos h

theorem Page.withFault_of_some {p : Page} (h : p.count ≠ 0) (code : BitVec 8) (i0 i1 : W32) :
    p.withFault code i0 i1 = { p.withEvent 31 with count := if p.count = 0xFFFF then p.count else p.count + 1 } := if_neg h

/-- `FAULT` is event bit 31 (R349). -/
theorem Page.withFault_raw (p : Page) (code : BitVec 8) (i0 i1 : W32) : (p.withFault code i0 i1).raw = p.raw ||| 0x80000000 := by
  by_cases h : p.count = 0
  · rw [Page.withFault_of_none h]; rfl
  · rw [Page.withFault_of_some h]; rfl

/-! ### A request of a level -/

/-- A request is taken as it comes, and the active level follows whether it is 0. -/
theorem State.levelWrite_of_noneEnabled {s : State} (h : s.anyRingEnabled = false) (v : W32) :
    s.levelWrite v = { s with mod := { s.mod with
      levelReq := field v 0 4, levelAct := if 1 ≤ fieldNat v 0 4 then 1 else 0 } } := by
  have hreq : field v 0 4 = v.setWidth 4 := by simp [field]
  have hzero : v.setWidth 4 = 0#4 ↔ ¬1 ≤ fieldNat v 0 4 := by
    rw [BitVec.toNat_inj.symm, BitVec.toNat_setWidth]
    simp only [fieldNat, Nat.shiftRight_zero, BitVec.toNat_ofNat, Nat.zero_mod]
    omega
  have hact : (if v.setWidth 4 = 0#4 then (0 : BitVec 4) else 1) = if 1 ≤ fieldNat v 0 4 then 1 else 0 := by
    by_cases hv : 1 ≤ fieldNat v 0 4
    · rw [if_neg (mt hzero.mp (not_not.mpr hv)), if_pos hv]
    · rw [if_pos (hzero.mpr hv), if_neg hv]
  rw [State.levelWrite, h, hreq, ← hact]
  rfl

theorem State.levelWrite_of_anyEnabled {s : State} (h : s.anyRingEnabled = true) (v : W32) : s.levelWrite v = s.refuse pgModule v := by
  rw [State.levelWrite, if_pos h]

/-- The module page answers whenever the host interface does, before READY too (R305). -/
theorem exec_levelNegotiate {s : State} (h : s.hostInterfaceUp = true) (v : W32) :
    exec (.levelNegotiate v) s = .next (s.levelWrite v) := by
  have hpage : s.pageAnswers .module = true := by simp [State.pageAnswers, PageId.early, h]
  exact congrArg Host.Outcome.next (if_pos hpage)

/-! ### Enabling a ring -/

/-- A refused write leaves every ring as it was. -/
theorem State.refuse_rings (s : State) (p : Nat) (v : W32) : (s.refuse p v).rings = s.rings := by rw [State.refuse_rest]

/-- While the active level is 0, `RING_ENABLE` is refused on every ring. -/
theorem State.ringEnable_of_level_zero {s : State} (hlevel : s.mod.levelAct = 0) (h fn : Nat) :
    s.ringEnable h fn = s.refuse (pgTreadle h) (wordOf (s.selectedRing h)) := by
  have hallow : s.ringAllowed h (s.selectedRing h) = false := by simp [State.ringAllowed, hlevel]
  unfold State.ringEnable
  exact if_neg (by simp [hallow])

theorem exec_ringEnable_of_level_zero {s : State} (hlevel : s.mod.levelAct = 0) (h fn : Nat) :
    ∃ s', exec (.ringEnable h fn) s = .next s' ∧ s'.rings = s.rings := by
  refine ⟨_, rfl, ?_⟩
  unfold State.onHall
  split
  · dsimp only
    split
    · rw [State.ringEnable_of_level_zero hlevel, State.refuse_rings]
    · rfl
  · rfl

/-- Settles O10: a request is written or refused by whether a ring is ENABLED, level 0 refuses `RING_ENABLE`, and step 1 of R139 passes a
descriptor of the active level or below. -/
theorem levelNegotiation : Obligations.LevelNegotiation := by
  unfold Obligations.LevelNegotiation
  refine ⟨rfl, rfl, ?taken, ?refused, ?enable, ?check⟩
  case taken =>
    intro s v hup hnone
    rw [exec_levelNegotiate hup, State.levelWrite_of_noneEnabled hnone]
  case refused =>
    intro s v hup hany
    have hpage := s.fault_page_self pgModule .access v 0
    refine ⟨s.refuse pgModule v, ?next, ?mod, ?event, fun hcount => ?record, s.refuse_rings pgModule v, ?bytes⟩
    case next => rw [exec_levelNegotiate hup, State.levelWrite_of_anyEnabled hany]
    case mod => rw [State.refuse_rest]
    case event =>
      rw [State.refuse, hpage, Page.withFault_raw]
      simp
    case record =>
      rw [State.refuse, hpage, Page.withFault_of_none hcount]
      exact ⟨rfl, rfl⟩
    case bytes =>
      rw [State.refuse_rest]
      exact ⟨rfl, rfl, rfl⟩
  case enable =>
    intro s h fn g hlevel hring
    obtain ⟨s', hnext, hrings⟩ := exec_ringEnable_of_level_zero hlevel h fn
    exact ⟨s', hnext, by rwa [State.ring, hrings]⟩
  case check =>
    intro s owner d hact hlevel
    exact State.headCheck_ne_level owner (by rw [hact]; exact hlevel)

end Sys2Proof.Machine
end

section
/-!
What the end of an item and the commands after it leave of the knots (R147, R151): the operations around a knot update change no knot, send
no update of their own, and let no die fail.
-/
namespace Sys2Proof.Machine

/-- What a knot update meets: the knots, the updates on their way, and what start-up and losses say of the dies (R28, R147). -/
def State.knotSide (s : State) : Table Knot × List KnotMsg × Boot := (s.knots, s.knotMsgs, s.boot)

theorem State.knotSide_iff {s s' : State} :
    s'.knotSide = s.knotSide ↔ s'.knots = s.knots ∧ s'.knotMsgs = s.knotMsgs ∧ s'.boot = s.boot := by
  simp only [State.knotSide, Prod.mk.injEq]

/-- A loop leaves what each of its rounds leaves. -/
theorem State.foldl_knotSide {α : Type} {f : State → α → State} (hf : ∀ s a, (f s a).knotSide = s.knotSide) (l : List α) (s : State) :
    (l.foldl f s).knotSide = s.knotSide := by
  induction l generalizing s with
  | nil => rfl
  | cons a l ih => rw [List.foldl_cons, ih, hf]

/-! ### The named updates -/

@[simp] theorem State.draw_knotSide (s : State) : s.draw.2.knotSide = s.knotSide := rfl
@[simp] theorem State.modTreadle_knotSide (s : State) (h : Nat) (f : Treadle → Treadle) : (s.modTreadle h f).knotSide = s.knotSide := rfl
@[simp] theorem State.modRing_knotSide (s : State) (g : Nat) (f : Ring → Ring) : (s.modRing g f).knotSide = s.knotSide := rfl
@[simp] theorem State.modItem_knotSide (s : State) (i : ItemId) (f : Item → Item) : (s.modItem i f).knotSide = s.knotSide := rfl
@[simp] theorem State.modBobbin_knotSide (s : State) (h l : Nat) (f : Bobbin → Bobbin) : (s.modBobbin h l f).knotSide = s.knotSide := rfl
@[simp] theorem State.touch_knotSide (s : State) (h : Nat) : (s.touch h).knotSide = s.knotSide := rfl
@[simp] theorem State.ctxWrite_knotSide (s : State) (c b n v : Nat) : (s.ctxWrite c b n v).knotSide = s.knotSide := rfl
@[simp] theorem State.request_knotSide (s : State) (h : Nat) (r : Requester) (tte : Option Nat) (via : Option Block512)
    (l : List (Nat × Nat × Bool)) : (s.request h r tte via l).knotSide = s.knotSide := rfl
@[simp] theorem State.treadleRequest_knotSide (s : State) (h : Nat) (r : Requester) (w : Bool) (a n : Nat) :
    (s.treadleRequest h r w a n).knotSide = s.knotSide := rfl
@[simp] theorem State.modPage_knotSide (s : State) (p : Nat) (f : Page → Page) : (s.modPage p f).knotSide = s.knotSide := by
  rw [State.modPage_rest]; rfl
@[simp] theorem State.event_knotSide (s : State) (p b : Nat) : (s.event p b).knotSide = s.knotSide := s.modPage_knotSide _ _
@[simp] theorem State.fault_knotSide (s : State) (p : Nat) (st : Status) (i0 i1 : W32) : (s.fault p st i0 i1).knotSide = s.knotSide :=
  s.modPage_knotSide _ _
@[simp] theorem State.refuse_knotSide (s : State) (p : Nat) (v : W32) : (s.refuse p v).knotSide = s.knotSide := s.modPage_knotSide _ _

/-! ### Items that wait, fail or leave the fabric -/

theorem Quiet.knotSide {s s' : State} (h : Quiet s s') : s'.knotSide = s.knotSide := by rw [h.rest]; rfl

@[simp] theorem State.settleWaits_knotSide (s : State) : s.settleWaits.knotSide = s.knotSide :=
  (State.settleWaits_quiet (Quiet.refl s)).knotSide
@[simp] theorem State.failCallers_knotSide (n : Nat) (s : State) (i : ItemId) : (State.failCallers n s i).knotSide = s.knotSide :=
  (State.failCallers_quiet n i (Quiet.refl s)).knotSide
@[simp] theorem State.releaseLinks_knotSide (s : State) (i : ItemId) : (s.releaseLinks i).knotSide = s.knotSide :=
  (State.releaseLinks_quiet i (Quiet.refl s)).knotSide
@[simp] theorem State.emitPieces_knotSide (s : State) (i : ItemId) : (s.emitPieces i).knotSide = s.knotSide :=
  (State.emitPieces_quiet i (Quiet.refl s)).knotSide

/-! ### Writes to the module pages (R353) -/

@[simp] theorem State.setCmp_knotSide (s : State) (n : Nat) (v : W32) : (s.setCmp n v).knotSide = s.knotSide := rfl
@[simp] theorem State.setCmpVal_knotSide (s : State) (n : Nat) (v : W64) : (s.setCmpVal n v).knotSide = s.knotSide := rfl
@[simp] theorem State.wake_knotSide (s : State) : s.wake.knotSide = s.knotSide := rfl
@[simp] theorem State.stageLow_knotSide (s : State) (off : Nat) (v : W32) : (s.stageLow off v).knotSide = s.knotSide := rfl
@[simp] theorem State.joinHigh_knotSide (s : State) (off : Nat) (old : W64) (hi : W32) : (s.joinHigh off old hi).2.knotSide = s.knotSide := rfl
@[simp] theorem State.cohWrite_knotSide (s : State) (j : Nat) (v : W64) : (s.cohWrite j v).knotSide = s.knotSide := rfl

@[simp] theorem State.noteSensor_knotSide (s : State) (n : Nat) : (s.noteSensor n).knotSide = s.knotSide := by
  unfold State.noteSensor
  split <;> rfl

@[simp] theorem State.trip_knotSide (s : State) (n : Nat) : (s.trip n).knotSide = s.knotSide := by
  unfold State.trip
  dsimp only
  split <;> simp

@[simp] theorem State.timeTrip_knotSide (s : State) (n : Nat) : (s.timeTrip n).knotSide = s.knotSide := by
  have hspent : ∀ b, (({ s with newel := { s.newel with spent := b } } : State).trip n).knotSide = s.knotSide :=
    fun b => State.trip_knotSide _ n
  unfold State.timeTrip
  dsimp only
  split
  · split
    · split
      · exact hspent _
      · split <;> exact hspent _
    · exact hspent _
  · rfl

@[simp] theorem State.cmpCtlWrite_knotSide (s : State) (n : Nat) (v : W32) : (s.cmpCtlWrite n v).knotSide = s.knotSide := by
  unfold State.cmpCtlWrite
  split <;> simp

@[simp] theorem State.cmpValWrite_knotSide (s : State) (n : Nat) (v : W64) : (s.cmpValWrite n v).knotSide = s.knotSide := by
  unfold State.cmpValWrite
  split
  · rfl
  · split <;> simp

@[simp] theorem State.levelWrite_knotSide (s : State) (v : W32) : (s.levelWrite v).knotSide = s.knotSide := by
  unfold State.levelWrite
  split
  · simp
  · rfl

theorem State.moduleWrite_knotSide (s : State) (rel : Nat) (v : W32) : (s.moduleWrite rel v).knotSide = s.knotSide := by
  unfold State.moduleWrite
  split
  · rfl
  · simp
  · split
    · simp
    · rfl
  · rfl

theorem State.newelWrite_knotSide (s : State) (rel : Nat) (v : W32) : (s.newelWrite rel v).knotSide = s.knotSide := by
  unfold State.newelWrite
  split
  · simp
  · split
    · dsimp only
      split <;> simp
    · rfl

theorem State.powerWrite_knotSide (s : State) (rel : Nat) (v : W32) : (s.powerWrite rel v).knotSide = s.knotSide := by
  unfold State.powerWrite
  split
  · dsimp only
    split
    · rfl
    · simp
  · rfl

theorem State.securityWrite_knotSide (s : State) (rel : Nat) (v : W32) : (s.securityWrite rel v).knotSide = s.knotSide := by
  unfold State.securityWrite
  split
  · split
    · simp
    · rfl
  · rfl

theorem State.bar4Write_knotSide (s : State) (f : Nat) (v : W32) : (s.bar4Write f v).knotSide = s.knotSide := by
  unfold State.bar4Write
  split
  · simp
  · rfl

theorem State.hifWrite_knotSide (s : State) (rel : Nat) (v : W32) : (s.hifWrite rel v).knotSide = s.knotSide := by
  unfold State.hifWrite
  split
  · dsimp only
    split
    · rfl
    · simp
  · split
    · exact s.bar4Write_knotSide 0 v
    · split
      · exact s.bar4Write_knotSide 1 v
      · split
        · dsimp only
          split <;> simp
        · rfl

theorem State.headerWrite_knotSide (s : State) (n rel : Nat) (v : W32) : (s.headerWrite n rel v).knotSide = s.knotSide := by
  unfold State.headerWrite
  split <;> simp

theorem State.moduleBlockWrite_knotSide (s : State) (id : PageId) (rel : Nat) (v : W32) :
    (s.moduleBlockWrite id rel v).knotSide = s.knotSide := by
  unfold State.moduleBlockWrite
  split
  · exact s.moduleWrite_knotSide rel v
  · exact s.newelWrite_knotSide rel v
  · exact s.powerWrite_knotSide rel v
  · exact s.securityWrite_knotSide rel v
  · exact s.hifWrite_knotSide rel v
  · rfl

theorem State.managementWrite_knotSide (s : State) (off : Nat) (v : W32) : (s.managementWrite off v).knotSide = s.knotSide := by
  unfold State.managementWrite
  split
  · dsimp only
    split
    · exact s.headerWrite_knotSide _ _ _
    · exact s.moduleBlockWrite_knotSide _ _ _
  · rfl

/-! ### Bytes that the module writes -/

theorem State.managementStore_knotSide (s : State) (off : Nat) (bs : List Byte) : (s.managementStore off bs).knotSide = s.knotSide :=
  State.foldl_knotSide (fun s _ => s.managementWrite_knotSide _ _) _ s

theorem State.rechargeLines_knotSide (s : State) (c b a : Nat) : (s.rechargeLines c b a).knotSide = s.knotSide := by
  unfold State.rechargeLines
  dsimp only
  split
  · simp
  · rfl

theorem State.replaceCache_knotSide (s : State) (h : Nat) (ls : List CacheLine) : (s.replaceCache h ls).knotSide = s.knotSide := by
  unfold State.replaceCache
  split
  · rfl
  · exact State.foldl_knotSide (fun s _ => s.rechargeLines_knotSide _ _ _) _ (s.setCache h ls)

theorem State.store_knotSide (s : State) (ac : Access) (a : Nat) (bs : List Byte) : (s.store ac a bs).knotSide = s.knotSide := by
  unfold State.store
  split
  · exact s.managementStore_knotSide _ _
  · dsimp only
    split
    · exact State.replaceCache_knotSide _ _ _
    · rfl

@[simp] theorem State.put_knotSide (s : State) (fn a : Nat) (bs : List Byte) : (s.put fn a bs).knotSide = s.knotSide :=
  s.store_knotSide _ _ _

/-! ### The record of an item (R10, R134) -/

@[simp] theorem State.writeRecord_knotSide (s : State) (t : Item) : (s.writeRecord t).knotSide = s.knotSide := by
  simp [State.writeRecord]

@[simp] theorem State.ringInterrupt_knotSide (s : State) (g : Nat) (irq : Bool) : (s.ringInterrupt g irq).knotSide = s.knotSide := by
  unfold State.ringInterrupt
  dsimp only
  split
  · rfl
  · split <;> rfl

@[simp] theorem State.countRecord_knotSide (s : State) (t : Item) : (s.countRecord t).knotSide = s.knotSide := by
  unfold State.countRecord
  dsimp only
  split <;> simp

@[simp] theorem State.busySettle_knotSide (s : State) (g : Nat) : (s.busySettle g).knotSide = s.knotSide := by
  unfold State.busySettle
  split <;> rfl

@[simp] theorem State.removeItem_knotSide (s : State) (i : ItemId) : (s.removeItem i).knotSide = s.knotSide := by
  unfold State.removeItem
  rw [State.busySettle_knotSide]
  exact s.releaseLinks_knotSide i

@[simp] theorem State.setRingState_knotSide (s : State) (g st : Nat) : (s.setRingState g st).knotSide = s.knotSide := by
  unfold State.setRingState
  dsimp only
  split <;> split <;> simp

@[simp] theorem State.ringSettle_knotSide (s : State) (g : Nat) : (s.ringSettle g).knotSide = s.knotSide := by
  unfold State.ringSettle
  dsimp only
  split <;> simp

/-! ### The commands that a call emits next (R155), and the slices that the bobbin units ask for (R120) -/

@[simp] theorem State.leaveIdle_knotSide (s : State) (h : Nat) : (s.leaveIdle h).knotSide = s.knotSide := by
  unfold State.leaveIdle
  split <;> rfl

@[simp] theorem State.requestOperands_knotSide (s : State) (t : Item) : (s.requestOperands t).knotSide = s.knotSide :=
  State.foldl_knotSide (fun s _ => s.request_knotSide _ _ _ _ _) _ s

@[simp] theorem State.dispatchFor_knotSide (s : State) (c : Option ItemId) (id : ItemId) (d : Block512) :
    (s.dispatchFor c id d).knotSide = s.knotSide := by
  have hidle := s.leaveIdle_knotSide (ringHall id.ring)
  unfold State.dispatchFor
  dsimp only
  rw [State.settleWaits_knotSide, State.emitPieces_knotSide]
  split
  · exact hidle
  · rw [State.requestOperands_knotSide]
    exact hidle

theorem State.emitCall_knotSide (s : State) (i : ItemId) : (s.emitCall i).knotSide = s.knotSide := by
  unfold State.emitCall
  split
  · split
    · rfl
    · split
      · rfl
      · dsimp only
        split
        · split <;> simp
        · simp
  · rfl

theorem State.pumpCall_knotSide (n : Nat) (s : State) (i : ItemId) : (State.pumpCall n s i).knotSide = s.knotSide := by
  induction n generalizing s with
  | zero => rfl
  | succ n ih =>
    unfold State.pumpCall
    split
    · rfl
    · split
      · rfl
      · rw [ih, State.emitCall_knotSide]

theorem State.pumpUp_knotSide (n : Nat) (s : State) (i : ItemId) : (State.pumpUp n s i).knotSide = s.knotSide := by
  induction n generalizing s i with
  | zero => rfl
  | succ n ih =>
    unfold State.pumpUp
    split
    · rfl
    · dsimp only
      split
      · rw [ih, State.pumpCall_knotSide]
      · exact State.pumpCall_knotSide _ s i

@[simp] theorem State.pumpCaller_knotSide (s : State) (c : Option ItemId) : (s.pumpCaller c).knotSide = s.knotSide := by
  cases c with
  | none => rfl
  | some c => exact State.pumpUp_knotSide 4 s c

theorem State.requestSlice_knotSide (s : State) (t : Item) (l : Nat) (sl : SliceId) : (s.requestSlice t l sl).knotSide = s.knotSide := by
  have hmiss : (s.countMiss sl.context).knotSide = s.knotSide := by
    unfold State.countMiss
    split <;> rfl
  exact hmiss

theorem State.wantSlices_knotSide (s : State) (t : Item) (l : Nat) (sls : List SliceId) : (s.wantSlices t l sls).knotSide = s.knotSide := by
  refine State.foldl_knotSide (fun s sl => ?_) sls s
  dsimp only
  split
  · rfl
  · exact s.requestSlice_knotSide t l sl

theorem State.askUnit_knotSide (s : State) (p : Piece) : (s.askUnit p).knotSide = s.knotSide := by
  unfold State.askUnit
  split
  · rfl
  · split
    · rfl
    · split
      · rfl
      · rw [State.wantSlices_knotSide, State.modBobbin_knotSide]

@[simp] theorem State.askSlices_knotSide (s : State) : s.askSlices.knotSide = s.knotSide :=
  State.foldl_knotSide State.askUnit_knotSide _ s

end Sys2Proof.Machine
end

section
/-!
Knots (R150, R151): what an update of a knot does and where it goes, an item's set entry at its end, `KNOT_SET`, and what a wait entry says.
-/
namespace Sys2Proof.Machine

/-! ### Keys of knots -/

theorem knotKey_div {k : Nat} (h : Nat) (hk : k < 256) : knotKey h k / 256 = h := by
  unfold knotKey
  omega

theorem entryKey_div (e : W32) : entryKey e / 256 = entryHall e := knotKey_div _ (Nat.mod_lt _ (by decide))

/-! ### An update at a knot and on its way -/

@[simp] theorem Knot.after_owner (a : KnotAction) (k : Knot) : (k.after a).owner = k.owner := by cases a <;> rfl

theorem State.knotAct_knot_self (s : State) (k : Nat) (a : KnotAction) : (s.knotAct k a).knot k = (s.knot k).after a := by
  rw [State.knotAct, State.modKnot_knot, if_pos rfl]

theorem State.knotAct_knot_other (s : State) {k j : Nat} (a : KnotAction) (h : j ≠ k) : (s.knotAct k a).knot j = s.knot j := by
  rw [State.knotAct, State.modKnot_knot, if_neg h.symm]

theorem State.knot_of_knots {s s' : State} (h : s'.knots = s.knots) (k : Nat) : s'.knot k = s.knot k := by
  rw [State.knot, State.knot, h]

/-- With every die alive, there is a route between any two halls (R28). -/
theorem State.hallReaches_of_alive {s : State} (h : s.boot.diesFailed = 0) (a b : Nat) : s.hallReaches a b = true := by
  simp [State.hallReaches, hallRoutes, h]

theorem State.knotSend_own (s : State) {h k : Nat} (a : KnotAction) (hk : k / 256 = h) : s.knotSend h k a = s.knotAct k a := if_pos hk

theorem State.knotSend_across {s : State} {h k : Nat} (a : KnotAction) (hk : k / 256 ≠ h) (hroute : s.hallReaches h (k / 256) = true) :
    s.knotSend h k a = { s with knotMsgs := s.knotMsgs ++ [⟨k, a⟩] } := by
  rw [State.knotSend, if_neg hk, if_pos hroute]

theorem State.knotSend_cutOff {s : State} {h k : Nat} (a : KnotAction) (hk : k / 256 ≠ h) (hcut : s.hallReaches h (k / 256) = false) :
    s.knotSend h k a = s := by
  rw [State.knotSend, if_neg hk, hcut, if_neg Bool.false_ne_true]

/-- Where an update goes and what it leaves, the knots, the updates on their way and the dies decide. -/
theorem State.knotSend_knotSide {s s' : State} (h : s'.knotSide = s.knotSide) (hall k : Nat) (a : KnotAction) :
    (s'.knotSend hall k a).knotSide = (s.knotSend hall k a).knotSide := by
  obtain ⟨hknots, hmsgs, hboot⟩ := State.knotSide_iff.mp h
  have hreach : s'.hallReaches hall (k / 256) = s.hallReaches hall (k / 256) := by simp only [State.hallReaches, hboot]
  rcases s.knotSend_cases hall k a with ⟨hown, heq⟩ | ⟨hother, hroute, heq⟩ | ⟨hother, hcut, heq⟩
  · rw [heq, State.knotSend_own s' a hown]
    simp only [State.knotSide, State.knotAct, State.modKnot, State.knot, hknots, hmsgs, hboot]
  · rw [heq, State.knotSend_across a hother (hreach.trans hroute)]
    simp only [State.knotSide, hknots, hmsgs, hboot]
  · rw [heq, State.knotSend_cutOff a hother (hreach.trans hcut)]
    exact h

/-! ### An item's set entry at its end -/

/-- What an item's end sends to the knot of its set entry (R151). -/
def Item.setAction (t : Item) : KnotAction :=
  if statusFailed t.finalStatus then .poison else .add (BitVec.ofNat 32 (entryIncrement (descSet t.desc)))

theorem Item.setAction_of_failed {t : Item} (h : statusFailed t.finalStatus = true) : t.setAction = .poison := if_pos h

theorem Item.setAction_of_done {t : Item} (h : statusFailed t.finalStatus = false) :
    t.setAction = .add (BitVec.ofNat 32 (entryIncrement (descSet t.desc))) := by
  simp [Item.setAction, h]

theorem State.applySet_of_sets {t : Item} (s : State) (hvalid : entryValid (descSet t.desc) = true) (hset : t.setsKnot = true) :
    s.applySet t = s.knotSend t.hall (entryKey (descSet t.desc)) t.setAction := by
  simp [State.applySet, Item.setAction, hvalid, hset]

theorem State.applySet_knotSide {s s' : State} (h : s'.knotSide = s.knotSide) (t : Item) :
    (s'.applySet t).knotSide = (s.applySet t).knotSide := by
  unfold State.applySet
  dsimp only
  split
  · exact State.knotSend_knotSide h _ _ _
  · exact h

/-- An item's update has a route where nothing that it sends is cut off (R28). -/
theorem State.hallReaches_of_not_endCut {s : State} {t : Item} (hcut : s.endCut t = false) (hvalid : entryValid (descSet t.desc) = true)
    (hset : t.setsKnot = true) : s.hallReaches t.hall (entryHall (descSet t.desc)) = true := by
  by_cases hdies : s.boot.diesFailed = 0#8
  · exact State.hallReaches_of_alive hdies _ _
  · cases hroute : s.hallReaches t.hall (entryHall (descSet t.desc)) with
    | true => rfl
    | false =>
      have hcuts : s.endCut t = true := by simp [State.endCut, hvalid, hset, entryKey_div, hdies, hroute]
      exact hcut.symm.trans hcuts

/-! ### What else an item's end does leaves the knots alone -/

theorem State.shareIn_knotSide (s : State) (t : Item) : (s.shareIn t).knotSide = s.knotSide := rfl

/-- The record, its count and the item's removal leave what the set entry has done. -/
theorem State.endItem_knotSide (s : State) (t : Item) : (s.endItem t).knotSide = (s.applySet t).knotSide := by
  unfold State.endItem
  dsimp only
  rw [State.settleWaits_knotSide, State.ringSettle_knotSide, State.removeItem_knotSide]
  split
  · rw [State.countRecord_knotSide]
    exact State.applySet_knotSide (s.writeRecord_knotSide t) t
  · rfl

/-- So does a command's share in the record of its call. -/
theorem State.endSub_knotSide (s : State) (t : Item) : (s.endSub t).knotSide = (s.applySet t).knotSide := by
  have hshare : (((s.applySet t).shareIn t).releaseLinks t.id).knotSide = (s.applySet t).knotSide :=
    (State.releaseLinks_knotSide _ _).trans (State.shareIn_knotSide _ t)
  unfold State.endSub
  dsimp only
  rw [State.settleWaits_knotSide]
  split
  · exact hshare
  · exact hshare

theorem State.endAs_knotSide {s : State} {t : Item} (hwait : s.recordWaits t.id.ring = false) :
    (s.endAs t).knotSide = (s.applySet t).knotSide := by
  unfold State.endAs
  split
  · exact s.endSub_knotSide t
  · rw [hwait]
    exact s.endItem_knotSide t

/-- An item that has ended, with a route for what it sends, ends as it stands. -/
theorem State.complete_of_ended {s : State} {t : Item} (hitem : s.item t.id = some t) (hended : s.itemEnded t = true)
    (hcut : s.endCut t = false) : s.complete t.id = s.endAs t := by
  simp [State.complete, hitem, hended, hcut]

/-- `ITEM_COMPLETE` of such an item leaves the knots as its set entry does; the call that emitted it goes on behind that. -/
theorem exec_itemComplete_knotSide {s : State} {t : Item} (hitem : s.item t.id = some t) (hended : s.itemEnded t = true)
    (hcut : s.endCut t = false) (hwait : s.recordWaits t.id.ring = false) :
    ∃ s', exec (.itemComplete t.id) s = .next s' ∧ s'.knotSide = (s.applySet t).knotSide := by
  refine ⟨_, rfl, ?_⟩
  have hclean : s.completeItem t.id .clean = (s.complete t.id).pumpCaller ((s.item t.id).bind (·.caller)) := rfl
  rw [State.askSlices_knotSide, hclean, State.pumpCaller_knotSide, State.complete_of_ended hitem hended hcut, State.endAs_knotSide hwait]

/-! ### `KNOT_SET` -/

/-- A `KNOT_SET` on a knot of its own hall acts on it at once, and changes no other knot. -/
theorem exec_knotSet_own {s : State} {it : ItemId} {t : Item} (hruns : Runs s it .knotSet t) (hhall : fieldNat t.desc 136 3 = t.hall) :
    ∃ s', exec (.knotSet it) s = .next s' ∧
      s'.knots = (s.knotAct (knotKey t.hall (byteField t.desc 16 1))
        (if t.desc.getLsbD 144 then .assign (word32 t.desc 20) else .add (word32 t.desc 20))).knots := by
  have hkey : knotKey t.hall (byteField t.desc 16 1) / 256 = t.hall := knotKey_div _ (Nat.mod_lt _ (by decide))
  have hmeans : State.knotSet .clean t s = ((s.finish t.id 0).knotAct (knotKey t.hall (byteField t.desc 16 1))
      (if t.desc.getLsbD 144 then .assign (word32 t.desc 20) else .add (word32 t.desc 20))).settleWaits := by
    rw [← State.knotSend_own _ _ hkey, State.knotSet, hhall]
    rfl
  have hquiet : Quiet _ (State.knotSet .clean t s) := hmeans ▸ State.settleWaits_quiet (Quiet.refl _)
  have hcalm : (State.knotSet .clean t s).mod.resetDue = false := by
    rw [hquiet.rest]
    exact hruns.calm
  refine ⟨State.knotSet .clean t s, congrArg Host.Outcome.next (hruns.withItem_calm hcalm), ?_⟩
  rw [hquiet.rest]
  rfl

/-! ### Wait entries -/

theorem State.waitState_of_poisoned {s : State} {e : W32} (hvalid : entryValid e = true) (hpoison : s.knotPoisoned (entryKey e) = true) :
    s.waitState e = .poisoned := by
  simp [State.waitState, hvalid, hpoison]

theorem State.waitState_of_clean {s : State} {e : W32} (hvalid : entryValid e = true) (hclean : s.knotPoisoned (entryKey e) = false) :
    s.waitState e = if waitMetBy (s.knot (entryKey e)).count (entryTarget e) then .met else .unmet := by
  simp [State.waitState, hvalid, hclean]

/-- The distance from the target to the count is taken modulo 2^20 (R150). -/
theorem waitMetBy_iff (count : W32) {T : Nat} (hT : T < 2 ^ 20) :
    waitMetBy count T = true ↔ ((count.toNat : Int) - T) % 2 ^ 20 < 2 ^ 19 := by
  rw [waitMetBy, decide_eq_true_iff, Nat.mod_eq_of_lt hT]
  omega

/-! ### The rules together -/

/-- Settles O9: what an update does at a knot, then an item's end through its set entry, `KNOT_SET` by assignment, and the cases of a wait. -/
theorem knotRules : Obligations.KnotRules := by
  unfold Obligations.KnotRules
  refine ⟨fun _ _ => ⟨rfl, rfl⟩, fun _ => ⟨rfl, rfl⟩, fun _ _ => ⟨rfl, rfl⟩, fun k a => k.after_owner a, ?itemEnd, ?assign, ?wait,
    fun count T hT => waitMetBy_iff count hT⟩
  case itemEnd =>
    intro s t hitem hended hcut hwait hvalid hset
    obtain ⟨s', hnext, hside⟩ := exec_itemComplete_knotSide hitem hended hcut hwait
    rw [State.applySet_of_sets s hvalid hset] at hside
    have hroute := State.hallReaches_of_not_endCut hcut hvalid hset
    rw [← entryKey_div] at hroute ⊢
    refine ⟨s', hnext, fun hown => ?own, fun hother => ?other⟩
    case own =>
      rw [State.knotSend_own s _ hown] at hside
      obtain ⟨hknots, hmsgs, -⟩ := State.knotSide_iff.mp hside
      refine ⟨hmsgs, fun k hk => ?_, fun hdone => ?_, fun hfail => ?_⟩
      · rw [State.knot_of_knots hknots, State.knotAct_knot_other s _ hk]
      · rw [State.knot_of_knots hknots, State.knotAct_knot_self, Item.setAction_of_done hdone]
        rfl
      · rw [State.knot_of_knots hknots, State.knotAct_knot_self, Item.setAction_of_failed hfail]
        rfl
    case other =>
      rw [State.knotSend_across _ hother hroute] at hside
      obtain ⟨hknots, hmsgs, -⟩ := State.knotSide_iff.mp hside
      exact ⟨hknots, hmsgs⟩
  case assign =>
    intro s it t hruns hassign hhall
    obtain ⟨s', hnext, hknots⟩ := exec_knotSet_own hruns hhall
    rw [if_pos hassign] at hknots
    have hself := (State.knot_of_knots hknots (knotKey t.hall (byteField t.desc 16 1))).trans (State.knotAct_knot_self s _ _)
    refine ⟨s', hnext, ?count, ?poison, fun k hk => ?others⟩
    case count => rw [hself]; rfl
    case poison => rw [hself]; rfl
    case others => rw [State.knot_of_knots hknots, State.knotAct_knot_other s _ hk]
  case wait =>
    intro s e hvalid
    refine ⟨State.waitState_of_poisoned hvalid, fun hclean hmet => ?met, fun hclean hunmet => ?unmet⟩
    case met => rw [State.waitState_of_clean hvalid hclean, if_pos hmet]
    case unmet => rw [State.waitState_of_clean hvalid hclean, hunmet, if_neg Bool.false_ne_true]

end Sys2Proof.Machine
end

section
/-!
Faults of a page (R350): what a recorded fault makes of the count and of the other pages, what a write of `PG_EVT_CLR` leaves of a page header
by whether it names bit 31, and `EVENT_CLEAR` as such a write.
-/
namespace Sys2Proof.Machine

/-! ### One page and the others -/

theorem State.modPage_page_self (s : State) (p : Nat) (f : Page → Page) : (s.modPage p f).page p = f (s.page p) := by
  rw [State.modPage_page, if_pos rfl]

theorem State.modPage_page_of_ne (s : State) {p q : Nat} (h : q ≠ p) (f : Page → Page) : (s.modPage p f).page q = s.page q := by
  rw [State.modPage_page, if_neg h.symm]

/-! ### Recording a fault -/

theorem Page.withFault_mask (p : Page) (code : BitVec 8) (i0 i1 : W32) : (p.withFault code i0 i1).mask = p.mask := by
  by_cases h : p.count = 0
  · rw [Page.withFault_of_none h]; rfl
  · rw [Page.withFault_of_some h]; rfl

/-- The count of faults stays at its greatest value once it has reached it (R347). -/
theorem Page.withFault_count_of_some {p : Page} (h : p.count ≠ 0) (code : BitVec 8) (i0 i1 : W32) :
    (p.withFault code i0 i1).count.toNat = min 65535 (p.count.toNat + 1) := by
  rw [Page.withFault_of_some h]
  dsimp only
  by_cases hfull : p.count = 0xFFFF
  · rw [if_pos hfull, hfull]
    rfl
  · rw [if_neg hfull]
    bv_omega

/-! ### Clearing events -/

theorem Page.cleared_of_fault {v : W32} (h : v.getLsbD 31 = true) (p : Page) :
    p.cleared v = { p with raw := p.raw &&& ~~~v, code := 0, count := 0, info0 := 0, info1 := 0 } := if_pos h

theorem Page.cleared_of_no_fault {v : W32} (h : v.getLsbD 31 = false) (p : Page) :
    p.cleared v = { p with raw := p.raw &&& ~~~v } := if_neg (Bool.eq_false_iff.mp h)

theorem Page.cleared_raw (v : W32) (p : Page) : (p.cleared v).raw = p.raw &&& ~~~v := by
  cases h : v.getLsbD 31
  · rw [Page.cleared_of_no_fault h]
  · rw [Page.cleared_of_fault h]

theorem Page.cleared_mask (v : W32) (p : Page) : (p.cleared v).mask = p.mask := by
  cases h : v.getLsbD 31
  · rw [Page.cleared_of_no_fault h]
  · rw [Page.cleared_of_fault h]

/-- A page that is cleared of its fault records the next one whole. -/
theorem Page.withFault_cleared {v : W32} (h : v.getLsbD 31 = true) (p : Page) (code : BitVec 8) (i0 i1 : W32) :
    (p.cleared v).withFault code i0 i1 = { (p.cleared v).withEvent 31 with code := code, info0 := i0, info1 := i1, count := 1 } := by
  have hcount : (p.cleared v).count = 0 := by rw [Page.cleared_of_fault h]
  exact Page.withFault_of_none hcount code i0 i1

/-! ### `EVENT_CLEAR` -/

/-- On a page that answers and whose block is there, `EVENT_CLEAR` is a write of `PG_EVT_CLR`. -/
theorem exec_eventClear {s : State} {p : Nat} {id : PageId} (hpage : pageOf p = some id) (hanswers : s.pageAnswers id = true)
    (hpresent : s.pagePresent id = true) (v : W32) : exec (.eventClear p v) s = .next (s.modPage p (Page.cleared v)) := by
  change execEventClear p v s = _
  simp only [execEventClear, hpage, hanswers, hpresent, Bool.and_self, if_true]
  rfl

/-- Settles O11: the cases of a recorded fault by whether one stands already, those of a clear by bit 31, and a fault behind such a clear as
one on a page without any. -/
theorem faultRecording : Obligations.FaultRecording := by
  unfold Obligations.FaultRecording
  refine ⟨?record, ?clear, ?again⟩
  case record =>
    intro s p st i0 i1
    dsimp only
    rw [State.fault_page_self]
    refine ⟨fun hnone => ?first, fun hsome => ?further, Page.withFault_raw _ _ _ _, Page.withFault_mask _ _ _ _,
      fun q hq => s.modPage_page_of_ne hq _⟩
    case first =>
      rw [Page.withFault_of_none hnone]
      exact ⟨rfl, rfl, rfl, rfl⟩
    case further =>
      have hcount := Page.withFault_count_of_some hsome (statusCode st) i0 i1
      rw [Page.withFault_of_some hsome] at hcount ⊢
      exact ⟨rfl, rfl, rfl, hcount⟩
  case clear =>
    intro s p id v hpage hanswers hpresent
    have hself := s.modPage_page_self p (Page.cleared v)
    refine ⟨_, exec_eventClear hpage hanswers hpresent v, ?raw, ?mask, fun hfault => ?named, fun hkept => ?unnamed,
      fun q hq => s.modPage_page_of_ne hq _, ?items, ?bytes⟩
    case raw => rw [hself, Page.cleared_raw]
    case mask => rw [hself, Page.cleared_mask]
    case named =>
      rw [hself, Page.cleared_of_fault hfault]
      refine ⟨?_, rfl, rfl, rfl, rfl⟩
      simp [hfault]
    case unnamed =>
      rw [hself, Page.cleared_of_no_fault hkept]
      exact ⟨rfl, rfl, rfl, rfl⟩
    case items => rw [State.modPage_rest]
    case bytes =>
      rw [State.modPage_rest]
      exact ⟨rfl, rfl, rfl⟩
  case again =>
    intro s p id v i0 i1 st hpage hanswers hpresent hfault
    refine ⟨_, exec_eventClear hpage hanswers hpresent v, ?_⟩
    rw [State.fault_page_self, State.modPage_page_self, Page.withFault_cleared hfault]
    exact ⟨rfl, rfl, rfl⟩

end Sys2Proof.Machine
end

section
/-!
The whole machine: what every command owes to the state it starts from (one lemma an operation in Laws/Keeps*.lean, put together here by the
command that calls it), the step, its idle form, and the state after reset.
-/
namespace Sys2Proof.Machine

/-! ### What a command keeps -/

theorem Keeps.ofNext {s₀ s s' : State} (hk : Keeps s₀ s) (h : (Host.Outcome.next s : Host.Outcome State Fault Refusal) = .next s') :
    Keeps s₀ s' := Host.Outcome.next.inj h ▸ hk

/-- Whatever command runs, the state after it keeps what it owes to the state before. -/
theorem exec_keeps {c : Instr} {s s' : State} (h : exec c s = .next s') : Keeps s s' := by
  have hk := Keeps.refl s
  cases c with
  | doorbellPWrite _ _ => exact .ofNext (State.doorbellP_keeps _ _ hk) h
  | doorbellHWrite _ _ => exact .ofNext (State.doorbellH_keeps _ _ hk) h
  | descriptorFetch _ _ _ _ => exact .ofNext (State.askSlices_keeps (State.fetch_keeps _ _ _ _ hk)) h
  | parkedCommandResume _ => exact .ofNext (State.askSlices_keeps (State.resumeRing_keeps _ hk)) h
  | dobbyChoice _ _ _ _ => exact .ofNext (State.dobby_keeps _ _ _ _ hk) h
  | pieceComplete _ _ _ => exact .ofNext (State.askSlices_keeps (State.completePiece_keeps _ _ _ hk)) h
  | itemComplete _ _ => exact .ofNext (State.askSlices_keeps (State.completeItem_keeps _ _ hk)) h
  | knotUpdateArrive _ _ => exact .ofNext (State.knotArrive_keeps _ _ hk) h
  | starvationLimit _ => exact .ofNext (State.starve_keeps _ hk) h
  | ringStalled _ => exact .ofNext (State.stall_keeps _ hk) h
  | nop _ => exact .ofNext (State.withItem_keeps _ _ _ (fun _ _ hk => State.finish_keeps _ _ hk) hk) h
  | knotSet _ _ => exact .ofNext (State.withItem_keeps _ _ _ (fun _ _ hk => State.knotSet_keeps _ _ hk) hk) h
  | knotWait _ _ => exact .ofNext (State.withItem_keeps _ _ _ (fun _ _ hk => State.knotWait_keeps _ _ hk) hk) h
  | fence _ => exact .ofNext (State.withItem_keeps _ _ _ (fun _ _ hk => State.fence_keeps _ hk) hk) h
  | callPattern _ _ => exact .ofNext (State.askSlices_keeps (State.withItem_keeps _ _ _ (fun _ _ hk => State.callPattern_keeps _ _ hk) hk)) h
  | timestamp _ => exact .ofNext (State.withItem_keeps _ _ _ (fun _ _ hk => State.timestamp_keeps _ hk) hk) h
  | loadTile _ => exact .ofNext (State.withItem_keeps _ _ _ (fun _ _ hk => State.moveShape_keeps _ _ hk) hk) h
  | storeTile _ => exact .ofNext (State.withItem_keeps _ _ _ (fun _ _ hk => State.moveShape_keeps _ _ hk) hk) h
  | copy _ => exact .ofNext (State.withItem_keeps _ _ _ (fun _ _ hk => State.moveShape_keeps _ _ hk) hk) h
  | gather _ => exact .ofNext (State.withItem_keeps _ _ _ (fun _ _ hk => State.indexed_keeps _ _ hk) hk) h
  | scatter _ => exact .ofNext (State.withItem_keeps _ _ _ (fun _ _ hk => State.indexed_keeps _ _ hk) hk) h
  | prefetch _ => exact .ofNext (State.withItem_keeps _ _ _ (fun _ _ hk => State.prefetch_keeps _ hk) hk) h
  | offload _ => exact .ofNext (State.withItem_keeps _ _ _ (fun _ _ hk => Keeps.ite (fun _ => State.offloadSealed_keeps _ hk) fun _ => State.moveShape_keeps _ _ hk) hk) h
  | restore _ => exact .ofNext (State.withItem_keeps _ _ _ (fun _ _ hk => Keeps.ite (fun _ => State.restoreSealed_keeps _ hk) fun _ => State.moveShape_keeps _ _ hk) hk) h
  | streamArm _ => exact .ofNext (State.withItem_keeps _ _ _ (fun _ _ hk => State.streamArm_keeps _ hk) hk) h
  | matmul _ => exact .ofNext (State.withItem_keeps _ _ _ (fun _ _ hk => State.matrix_keeps _ _ hk) hk) h
  | matmulT _ => exact .ofNext (State.withItem_keeps _ _ _ (fun _ _ hk => State.matrix_keeps _ _ hk) hk) h
  | conv _ => exact .ofNext (State.withItem_keeps _ _ _ (fun _ _ hk => State.matrix_keeps _ _ hk) hk) h
  | matmulAcc _ => exact .ofNext (State.withItem_keeps _ _ _ (fun _ _ hk => State.matrix_keeps _ _ hk) hk) h
  | epilog _ => exact .ofNext (State.withItem_keeps _ _ _ (fun _ _ hk => State.landing_keeps _ _ hk) hk) h
  | eltwise _ => exact .ofNext (State.withItem_keeps _ _ _ (fun _ _ hk => State.landing_keeps _ _ hk) hk) h
  | rowreduce _ => exact .ofNext (State.withItem_keeps _ _ _ (fun _ _ hk => State.landing_keeps _ _ hk) hk) h
  | softmaxFwd _ => exact .ofNext (State.withItem_keeps _ _ _ (fun _ _ hk => State.landing_keeps _ _ hk) hk) h
  | softmaxBwd _ => exact .ofNext (State.withItem_keeps _ _ _ (fun _ _ hk => State.landing_keeps _ _ hk) hk) h
  | normFwd _ => exact .ofNext (State.withItem_keeps _ _ _ (fun _ _ hk => State.landing_keeps _ _ hk) hk) h
  | normBwd _ => exact .ofNext (State.withItem_keeps _ _ _ (fun _ _ hk => State.landing_keeps _ _ hk) hk) h
  | convert _ => exact .ofNext (State.withItem_keeps _ _ _ (fun _ _ hk => State.landing_keeps _ _ hk) hk) h
  | adaptFwd _ => exact .ofNext (State.withItem_keeps _ _ _ (fun _ _ hk => State.bobbinCommand_keeps _ _ hk) hk) h
  | adaptBwd _ => exact .ofNext (State.withItem_keeps _ _ _ (fun _ _ hk => State.bobbinCommand_keeps _ _ hk) hk) h
  | bobbinBind _ => exact .ofNext (State.withItem_keeps _ _ _ (fun _ _ hk => State.bobbinBind_keeps _ hk) hk) h
  | collReduceScatter _ => exact .ofNext (State.withItem_keeps _ _ _ (fun _ _ hk => State.joinCollective_keeps _ hk) hk) h
  | collAllGather _ => exact .ofNext (State.withItem_keeps _ _ _ (fun _ _ hk => State.joinCollective_keeps _ hk) hk) h
  | collAllReduce _ => exact .ofNext (State.withItem_keeps _ _ _ (fun _ _ hk => State.joinCollective_keeps _ hk) hk) h
  | send _ => exact .ofNext (State.withItem_keeps _ _ _ (fun _ _ hk => State.send_keeps _ hk) hk) h
  | recv _ => exact .ofNext (State.withItem_keeps _ _ _ (fun _ _ hk => State.recv_keeps _ hk) hk) h
  | multicast _ => exact .ofNext (State.withItem_keeps _ _ _ (fun _ _ hk => State.multicast_keeps _ hk) hk) h
  | windowOpen _ => exact .ofNext (State.withItem_keeps _ _ _ (fun _ _ hk => State.windowOpen_keeps _ hk) hk) h
  | windowClose _ => exact .ofNext (State.withItem_keeps _ _ _ (fun _ _ hk => State.windowClose_keeps _ hk) hk) h
  | buddyPush _ => exact .ofNext (State.withItem_keeps _ _ _ (fun _ _ hk => State.buddyPush_keeps _ hk) hk) h
  | updateBind _ => exact .ofNext (State.withItem_keeps _ _ _ (fun _ _ hk => State.updateBind_keeps _ hk) hk) h
  | statsSnap _ => exact .ofNext (State.withItem_keeps _ _ _ (fun _ _ hk => State.statsSnap_keeps _ hk) hk) h
  | cardRun _ => exact .ofNext (State.cardRun_keeps _ hk) h
  | cardRead _ => exact .ofNext (State.cardNext_keeps _ _ hk) h
  | cardWrite _ => exact .ofNext (State.cardNext_keeps _ _ hk) h
  | cardCompare _ => exact .ofNext (State.cardNext_keeps _ _ hk) h
  | cardPass _ => exact .ofNext (State.cardNext_keeps _ _ hk) h
  | cardMode _ => exact .ofNext (State.cardNext_keeps _ _ hk) h
  | warpTileLoad _ _ _ _ => exact .ofNext (State.warpLoad_keeps _ _ _ _ hk) h
  | tilePass _ _ => exact .ofNext (State.tilePass_keeps _ _ hk) h
  | replayRerun _ _ => exact .ofNext (State.replay_keeps _ _ hk) h
  | promotion _ _ => exact .ofNext (State.promotion_keeps _ _ hk) h
  | tileEpilogue _ _ => exact .ofNext (State.tileEpilogue_keeps _ _ hk) h
  | stage3Term _ _ => exact .ofNext (State.stage3_keeps _ _ hk) h
  | bobbinWorkItemStart _ _ _ _ => exact .ofNext (State.workStart_keeps _ _ _ _ hk) h
  | bobbinSliceFill _ _ _ _ => exact .ofNext (State.sliceFill_keeps _ _ _ _ hk) h
  | ledgerAdmit _ _ => exact .ofNext (State.admitOne_keeps _ _ hk) h
  | ledgerResponse _ _ _ => exact .ofNext (State.respond_keeps _ _ _ hk) h
  | cacheFill _ _ _ => exact .ofNext (State.fillAnswer_keeps _ _ _ hk) h
  | streamGrant _ _ => exact .ofNext (State.streamGrant_keeps _ _ hk) h
  | streamTransferComplete _ _ _ => exact .ofNext (State.streamComplete_keeps _ _ _ hk) h
  | streamStarved _ _ => exact .ofNext (State.streamStarved_keeps _ _ hk) h
  | correctedWriteback _ => exact .ofNext ((Keeps.update_iff ..).mpr hk) h
  | sramScrubRead _ _ => exact .ofNext (Keeps.ite (fun _ => State.scrub_keeps _ _ hk) fun _ => hk) h
  | hbmScrubRead _ _ _ => exact .ofNext (Keeps.ite (fun _ => State.scrub_keeps _ _ hk) fun _ => hk) h
  | selvedgeUpdateBegin _ => exact .ofNext (State.updateBegin_keeps _ hk) h
  | selvedgeBlockUpdate _ => exact .ofNext (State.blockUpdate_keeps _ hk) h
  | selvedgeUpdateEnd _ => exact .ofNext (State.updateEnd_keeps _ hk) h
  | fma _ _ _ _ _ => exact .ofNext (State.slvStep_keeps _ _ _ _ _ _ _ hk) h
  | add _ _ _ _ => exact .ofNext (State.slvStep_keeps _ _ _ _ _ _ _ hk) h
  | sub _ _ _ _ => exact .ofNext (State.slvStep_keeps _ _ _ _ _ _ _ hk) h
  | mul _ _ _ _ => exact .ofNext (State.slvStep_keeps _ _ _ _ _ _ _ hk) h
  | div _ _ _ _ => exact .ofNext (State.slvStep_keeps _ _ _ _ _ _ _ hk) h
  | sqrt _ _ _ => exact .ofNext (State.slvStep_keeps _ _ _ _ _ _ _ hk) h
  | min _ _ _ _ => exact .ofNext (State.slvStep_keeps _ _ _ _ _ _ _ hk) h
  | max _ _ _ _ => exact .ofNext (State.slvStep_keeps _ _ _ _ _ _ _ hk) h
  | abs _ _ _ => exact .ofNext (State.slvStep_keeps _ _ _ _ _ _ _ hk) h
  | neg _ _ _ => exact .ofNext (State.slvStep_keeps _ _ _ _ _ _ _ hk) h
  | lt _ _ _ _ => exact .ofNext (State.slvStep_keeps _ _ _ _ _ _ _ hk) h
  | sel _ _ _ _ _ => exact .ofNext (State.slvStep_keeps _ _ _ _ _ _ _ hk) h
  | const _ _ _ => exact .ofNext (State.slvStep_keeps _ _ _ _ _ _ _ hk) h
  | exp _ _ _ => exact .ofNext (State.slvStep_keeps _ _ _ _ _ _ _ hk) h
  | ln _ _ _ => exact .ofNext (State.slvStep_keeps _ _ _ _ _ _ _ hk) h
  | pow _ _ _ _ => exact .ofNext (State.slvStep_keeps _ _ _ _ _ _ _ hk) h
  | repeatBlock _ _ _ => exact .ofNext (Keeps.ite (fun _ => State.modSelv_keeps _ _ hk) fun _ => hk) h
  | helloSend _ => exact .ofNext (State.helloSend_keeps _ hk) h
  | helloReceive _ _ => exact .ofNext (State.helloReceive_keeps _ _ hk) h
  | linkTrained _ => exact .ofNext (State.linkTrained_keeps _ hk) h
  | admitPendingRelease _ => exact .ofNext (State.admitRelease_keeps _ hk) h
  | linkDown _ => exact .ofNext (State.linkTimeout_keeps _ hk) h
  | lossNotice _ _ _ _ => exact .ofNext (State.lossNotice_keeps _ _ _ _ hk) h
  | remoteWriteAccept _ _ => exact .ofNext (State.acceptWrite_keeps _ _ hk) h
  | remoteDatagram _ _ _ _ => exact .ofNext (State.remoteDatagram_keeps _ _ _ _ hk) h
  | negativeAck _ _ _ _ _ => exact .ofNext (State.negativeAck_keeps _ _ _ _ _ hk) h
  | expressForward _ _ _ _ _ _ _ => exact .ofNext (State.expressForward_keeps _ _ _ _ _ _ _ hk) h
  | frameReceive _ _ _ => exact .ofNext (State.frameReceive_keeps _ _ _ hk) h
  | pfcFrame _ _ => exact .ofNext (State.pfcFrame_keeps _ _ hk) h
  | creditReceive _ _ _ => exact .ofNext (State.creditReceive_keeps _ _ _ hk) h
  | channelAcquire _ => exact .ofNext (State.channelAcquire_keeps _ hk) h
  | collectiveOpen _ _ => exact .ofNext (State.collectiveOpen_keeps _ _ hk) h
  | joinTimeout _ => exact .ofNext (State.joinTimeout_keeps _ hk) h
  | collectiveWithdrawal _ _ _ _ _ => exact .ofNext (State.collectiveWithdrawal_keeps _ _ _ _ _ hk) h
  | collectiveData _ _ _ _ _ _ _ _ => exact .ofNext (State.collectiveData_keeps _ _ _ _ _ _ _ _ hk) h
  | multicastChunkAck _ _ _ _ => exact .ofNext (State.chunkAck_keeps _ _ _ _ hk) h
  | multicastPrune _ _ _ => exact .ofNext (State.prune_keeps _ _ _ hk) h
  | ptpMessage _ => exact .ofNext (State.ptpMessage_keeps _ hk) h
  | ptpLock _ => exact .ofNext (State.ptpLock_keeps _ hk) h
  | ppsIn => exact .ofNext (State.ppsIn_keeps hk) h
  | hostDepart _ _ => exact .ofNext (State.hostDepart_keeps _ _ hk) h
  | configRequest _ => exact .ofNext (State.configRequest_keeps _ hk) h
  | bar4Access _ _ _ _ _ => exact .ofNext (State.bar4Access_keeps _ _ _ _ _ hk) h
  | hostCompletion _ _ _ _ => exact .ofNext (State.hostCompletion_keeps _ _ _ _ hk) h
  | hostMemoryTimeout _ => exact .ofNext (State.hostTimeout_keeps _ hk) h
  | cxlSnoop _ _ => exact .ofNext (State.cxlSnoop_keeps _ _ hk) h
  | spdmRequest _ => exact .ofNext (Keeps.ite (fun _ => State.spdm_keeps _ hk) fun _ => hk) h
  | keyInstall _ _ _ _ => exact .ofNext (Keeps.ite (fun _ => State.keyInstall_keeps _ _ _ _ hk) fun _ => hk) h
  | keyErase _ _ _ => exact .ofNext (Keeps.ite (fun _ => State.keyErase_keeps _ _ _ hk) fun _ => hk) h
  | rollbackRaise _ => exact .ofNext (Keeps.ite (fun _ => State.rollbackRaise_keeps _ hk) fun _ => hk) h
  | pldmRequest _ => exact .ofNext (Keeps.ite (fun _ => State.pldm_keeps _ hk) fun _ => hk) h
  | secOwnerWrite _ => exact .ofNext (Keeps.ite (fun _ => State.ownerWrite_keeps _ hk) fun _ => hk) h
  | secStatusRead => exact .ofNext (Keeps.ite (fun _ => State.emit_keeps _ (State.secStatusRead_keeps hk)) fun _ => hk) h
  | jtagChallenge _ => exact .ofNext (State.jtagInstruct_keeps _ hk) h
  | jtagUnlock _ _ => exact .ofNext (State.jtagUnlock_keeps _ _ hk) h
  | jtagInternalScan _ => exact .ofNext (State.jtagScan_keeps _ hk) h
  | moduleReset => exact .ofNext (Keeps.ite (fun _ => State.moduleReset_keeps _ _ hk) fun _ => hk) h
  | moduleSleepEnter => exact .ofNext (Keeps.ite (fun _ => State.moduleReset_keeps _ _ hk) fun _ => hk) h
  | moduleWake _ => exact .ofNext (State.moduleWake_keeps _ hk) h
  | startup _ => exact .ofNext (State.startup_keeps _ hk) h
  | powerOn => exact .ofNext (State.powerOn_keeps hk) h
  | undervoltage _ => exact .ofNext (State.undervoltage_keeps _ hk) h
  | startupRestart => exact .ofNext (State.startupRestart_keeps hk) h
  | powerOff => exact .ofNext (State.powerOff_keeps hk) h
  | inputSwitchOpen => exact .ofNext (State.switchOpens_keeps hk) h
  | inputSwitchReclose => exact .ofNext (State.switchCloses_keeps hk) h
  | prechargeBypassClose => exact .ofNext (State.prechargeDone_keeps hk) h
  | tamperResponse => exact .ofNext (State.tamper_keeps hk) h
  | glitchZeroise => exact .ofNext (State.glitch_keeps hk) h
  | protectionEnter _ => exact .ofNext (State.protectOn_keeps _ hk) h
  | protectionExit _ => exact .ofNext (State.protectOff_keeps _ hk) h
  | rkTargetWrite _ _ => exact .ofNext (Keeps.ite (fun _ => State.targetWrite_keeps _ _ hk) fun _ => hk) h
  | idleLowering _ => exact .ofNext (State.idleLower_keeps _ hk) h
  | idleExit _ => exact .ofNext (State.idleExit_keeps _ hk) h
  | thermalThrottle _ _ => exact .ofNext (State.junction_keeps _ _ hk) h
  | hallPark _ _ => exact .ofNext (Keeps.ite (fun _ => State.junction_keeps _ _ hk) fun _ => hk) h
  | hallResume _ _ => exact .ofNext (State.hallResume_keeps _ _ hk) h
  | hallCoreShutoff _ _ => exact .ofNext (Keeps.ite (fun _ => State.junction_keeps _ _ hk) fun _ => hk) h
  | monitorWindowEnd _ _ => exact .ofNext (State.monitorEnd_keeps _ _ hk) h
  | rkMonCtlWrite _ _ => exact .ofNext (Keeps.ite (fun _ => State.monitorWrite_keeps _ _ hk) fun _ => hk) h
  | rkMonRateRead _ => exact .ofNext (Keeps.ite (fun _ => State.barRead_keeps _ _ hk) fun _ => hk) h
  | rkMonExtRead _ => exact .ofNext (Keeps.ite (fun _ => State.barRead_keeps _ _ hk) fun _ => hk) h
  | railFault _ => exact .ofNext (State.loseHall_keeps _ hk) h
  | hallDieFailure _ => exact .ofNext (State.dieFails_keeps _ hk) h
  | hallQuiesce _ => exact .ofNext (State.loseHall_keeps _ hk) h
  | temperatureTrip _ => exact .ofNext (State.temperatureTrip_keeps _ hk) h
  | coolantFlowTrip _ => exact .ofNext (State.flowTrip_keeps _ hk) h
  | wakeTimer0Trip => exact .ofNext (Keeps.ite (fun _ => State.timeTrip_keeps _ hk) fun _ => hk) h
  | wakeTimer1Trip => exact .ofNext (Keeps.ite (fun _ => State.timeTrip_keeps _ hk) fun _ => hk) h
  | generalComparatorTrip => exact .ofNext (Keeps.ite (fun _ => State.timeTrip_keeps _ hk) fun _ => hk) h
  | nwlCmpCtlWrite _ _ => exact .ofNext (Keeps.ite (fun _ => State.cmpCtlWrite_keeps _ _ hk) fun _ => hk) h
  | nwlCmpValWrite _ _ => exact .ofNext (Keeps.ite (fun _ => State.cmpValWrite_keeps _ _ hk) fun _ => hk) h
  | ringSelect _ _ => exact .ofNext (State.onHall_keeps _ _ (fun _ hk => State.ringSelect_keeps _ _ hk) hk) h
  | ringCommit _ => exact .ofNext (State.onHall_keeps _ _ (fun _ hk => State.ringCommit_keeps _ hk) hk) h
  | ringEnable _ _ => exact .ofNext (State.onHall_keeps _ _ (fun _ hk => Keeps.ite (fun _ => State.ringEnable_keeps _ _ hk) fun _ => hk) hk) h
  | ringReset _ => exact .ofNext (Keeps.ite (fun _ => State.resetRing_keeps _ hk) fun _ => hk) h
  | knotOwnerWrite _ _ => exact .ofNext (State.onHall_keeps _ _ (fun _ hk => State.knotOwnerWrite_keeps _ _ hk) hk) h
  | patternLoad _ => exact .ofNext (State.onHall_keeps _ _ (fun _ hk => State.patternLoad_keeps _ hk) hk) h
  | patternLoadComplete _ => exact .ofNext (State.patternLoaded_keeps _ hk) h
  | patternClear _ => exact .ofNext (State.onHall_keeps _ _ (fun _ hk => State.patternClear_keeps _ hk) hk) h
  | diagEnter _ _ => exact .ofNext (State.onHall_keeps _ _ (fun _ hk => State.diagEnter_keeps _ _ hk) hk) h
  | diagEntryComplete _ => exact .ofNext (State.diagEntered_keeps _ hk) h
  | diagExit _ => exact .ofNext (State.onHall_keeps _ _ (fun _ hk => State.diagExit_keeps _ hk) hk) h
  | quiesce _ => exact .ofNext (State.onHall_keeps _ _ (fun _ hk => State.loseHall_keeps _ hk) hk) h
  | ctxBaseWrite _ _ => exact .ofNext (State.onHall_keeps _ _ (fun _ hk => State.ctxBaseWrite_keeps _ _ hk) hk) h
  | levelNegotiate _ => exact .ofNext (Keeps.ite (fun _ => State.levelWrite_keeps _ hk) fun _ => hk) h
  | eventClear p v =>
    refine .ofNext ?_ h
    split
    · exact Keeps.ite (fun _ => State.headerWrite_keeps _ _ _ hk) fun _ => hk
    · exact hk
  | windowCommit _ => exact .ofNext (State.onHall_keeps _ _ (fun _ hk => State.windowCommit_keeps _ hk) hk) h
  | windowClear _ => exact .ofNext (State.onHall_keeps _ _ (fun _ hk => State.windowClear_keeps _ hk) hk) h
  | windowFetch _ => exact .ofNext (State.onHall_keeps _ _ (fun _ hk => State.windowFetch_keeps _ hk) hk) h
  | cacheShareSet _ _ => exact .ofNext (State.onHall_keeps _ _ (fun _ hk => State.cacheCtlWrite_keeps _ _ hk) hk) h
  | shareZeroDone _ => exact .ofNext (State.shareZeroed_keeps _ hk) h
  | cacheInvalidate _ => exact .ofNext (State.onHall_keeps _ _ (fun _ hk => State.cacheInvalidate_keeps _ hk) hk) h
  | ldgCapWrite _ _ => exact .ofNext (State.onHall_keeps _ _ (fun _ hk => State.ledgerCapWrite_keeps _ _ hk) hk) h
  | strStateRead _ => exact .ofNext (Keeps.ite (fun _ => State.barRead_keeps _ _ hk) fun _ => hk) h
  | reg64LowRead _ => exact .ofNext (Keeps.ite (fun _ => State.barRead_keeps _ _ hk) fun _ => State.bar2Read_keeps _ hk) h
  | selvedgeProgLoad _ => exact .ofNext (Keeps.ite (fun _ => State.progCtlWrite_keeps _ hk) fun _ => hk) h
  | selvedgeProgLoadDone => exact .ofNext (State.progLoaded_keeps hk) h
  | flightEnable _ _ => exact .ofNext (State.flightEnable_keeps _ _ hk) h
  | flightAdmit _ => exact .ofNext (State.flightAdmit_keeps _ hk) h
  | flightReject _ => exact .ofNext (State.flightReject_keeps _ hk) h
  | registerWrite _ _ _ _ => exact .ofNext (State.barWrite_keeps _ _ _ _ hk) h
  | managementSpaceAccess _ _ _ _ _ => exact .ofNext (State.managementAccess_keeps _ _ _ _ _ hk) h
  | ptpLockLoss => exact .ofNext (State.ptpLoss_keeps hk) h
  | perstRelease _ _ _ => exact .ofNext (State.perstRelease_keeps _ _ _ hk) h
  | hostLinkTrained _ _ _ _ => exact .ofNext (State.linkTrainedHost_keeps _ _ _ _ hk) h
  | sensePinMate => exact .ofNext (State.senseMates_keeps hk) h

theorem step_keeps_canon {s s' : State} (hwf : s.mem.wf = true) (h : step s = .next s') : s'.mem.wf = true := by
  cases hq : s.pending with
  | nil =>
    rw [step_empty hq] at h
    exact (Keeps.ofNext (idleTick_keeps (Keeps.refl s)) h).canon hwf
  | cons c cs =>
    rw [step_front hq] at h
    exact (exec_keeps h).canon hwf

/-- Settles O5, from what the idle step keeps and what each command keeps. -/
theorem stepKeepsMemoryCanonical : Obligations.StepKeepsMemoryCanonical := by
  unfold Obligations.StepKeepsMemoryCanonical
  exact fun _ _ => step_keeps_canon

/-- Settles O6: what each command keeps, field by field of the fuses. -/
theorem everyCommandKeepsQueueAndFuses : Obligations.EveryCommandKeepsQueueAndFuses := by
  unfold Obligations.EveryCommandKeepsQueueAndFuses
  intro c s s' h
  have hk := exec_keeps h
  rw [hk.fuses]
  exact ⟨hk.queue, rfl, rfl, rfl, rfl, rfl, rfl, hk.counter, hk.said⟩

/-! ### Outcomes and the step -/

theorem exec_goesOn (c : Instr) (s : State) : GoesOn (exec c s) := by
  cases c <;> exact ⟨_, rfl⟩

/-- Settles O7: each command's meaning is a next state. -/
theorem everyCommandGoesOn : Obligations.EveryCommandGoesOn := by
  unfold Obligations.EveryCommandGoesOn
  exact exec_goesOn

/-- Settles O1: a queue with a command at its front. -/
theorem stepRunsTheFrontCommand : Obligations.StepRunsTheFrontCommand := by
  unfold Obligations.StepRunsTheFrontCommand
  exact fun _ _ _ => step_front rfl

/-- The newel after one idle step with power: a count, or a crystal cycle in MODULE_SLEEP (R339). -/
def State.idleNewel (s : State) : Newel := if s.power.asleep then s.newel.tickAsleep else s.newel.tickAwake

theorem Newel.tickAwake_of_calm {n : Newel} (h : n.slewNs = 0) : n.tickAwake = { n with time := n.time + 1 } := by
  simp [Newel.tickAwake, h]

theorem idleTick_of_dark {s : State} (h : s.newel.powered = false) : idleTick s = s := by simp [idleTick, h]

theorem pulseAfter_eq (n : Newel) (s : State) :
    pulseAfter n s = { s with out := s.out ++
      if n.ppsOut = true ∧ s.newel.time.toNat / 1000000000 ≠ n.time.toNat / 1000000000 then [.ppsPulse] else [] } := by
  unfold pulseAfter
  by_cases hpulse : n.ppsOut = true ∧ s.newel.time.toNat / 1000000000 ≠ n.time.toNat / 1000000000
  · rw [if_pos hpulse, if_pos (Bool.and_eq_true_iff.mpr ⟨hpulse.1, bne_iff_ne.mpr hpulse.2.symm⟩)]
    rfl
  · rw [if_neg hpulse, List.append_nil, if_neg fun h => hpulse ((Bool.and_eq_true_iff.mp h).imp_right fun h => (bne_iff_ne.mp h).symm)]

theorem idleTick_of_powered {s : State} (h : s.newel.powered = true) :
    idleTick s = pulseAfter s.newel { s with newel := s.idleNewel } := if_pos h

/-- Settles O2, by whether the newel has power. -/
theorem idleStepMovesOnlyTheNewel : Obligations.IdleStepMovesOnlyTheNewel := by
  unfold Obligations.IdleStepMovesOnlyTheNewel
  intro s hq
  rw [step_empty hq]
  cases hpow : s.newel.powered with
  | false =>
    refine ⟨fun _ => by rw [idleTick_of_dark hpow], s.newel, ?_, fun h => nomatch h⟩
    rw [idleTick_of_dark hpow, if_neg (fun h => nomatch h.1), List.append_nil]
  | true =>
    refine ⟨(nomatch ·), s.idleNewel, ?_, fun _ hawake hcalm => ?_⟩
    · rw [idleTick_of_powered hpow, pulseAfter_eq]
      simp only [true_and]
    · rw [State.idleNewel, hawake, if_neg Bool.false_ne_true, Newel.tickAwake_of_calm hcalm]

/-! ### The state after reset -/

theorem fieldNat_zero {n : Nat} (lo w : Nat) : fieldNat (0#n) lo w = 0 := by simp [fieldNat]

/-- Settles O4. -/
theorem resetMemoryIsCanonical : Obligations.ResetMemoryIsCanonical := by
  unfold Obligations.ResetMemoryIsCanonical
  exact Memory.wf_nil

/-- Settles O3: each table of the reset state lists nothing, so each entry of it is its default. -/
theorem resetHoldsTheStatedValues : Obligations.ResetHoldsTheStatedValues := by
  unfold Obligations.ResetHoldsTheStatedValues
  refine ⟨rfl, rfl, rfl, rfl, rfl, rfl, rfl, rfl, fun _ => ?halls, fun _ => ⟨rfl, rfl, rfl⟩, fun _ => ⟨?entry, rfl, rfl⟩,
    fun _ => ⟨rfl, rfl, rfl⟩, fun _ => rfl⟩
  case halls => exact ⟨rfl, rfl, rfl, rfl, rfl, rfl, rfl, rfl, rfl⟩
  case entry => exact fieldNat_zero 136 2

end Sys2Proof.Machine
end

section
/-!
What becomes of the items while others fail, end or wait: the failure of one item, said field by field, and the relation `Fates`, which says
of every item that what decides its record once decided stays so.
-/
namespace Sys2Proof.Machine

/-! ### The failure of one item -/

theorem State.foldl_items {α : Type} {f : State → α → State} (hf : ∀ s a, (f s a).items = s.items) (l : List α) (s : State) :
    (l.foldl f s).items = s.items := by
  induction l generalizing s with
  | nil => rfl
  | cons a l ih => exact (ih _).trans (hf s a)

@[simp] theorem State.sendReply_items (s : State) (p : Nat) (x : Bool) (vc : Nat) (pk : Packet) : (s.sendReply p x vc pk).items = s.items := by
  unfold State.sendReply
  dsimp only
  split <;> rfl

@[simp] theorem State.withdraw_items (s : State) (a : Axis) (tag g : Nat) : (s.withdraw a tag g).items = s.items :=
  State.foldl_items (fun s p => s.sendReply_items p false 0 _) _ s

@[simp] theorem State.releaseLinks_items (s : State) (i : ItemId) : (s.releaseLinks i).items = s.items := by
  unfold State.releaseLinks
  dsimp only
  split
  · rfl
  · exact State.foldl_items (f := fun s p => s.modFlight p _) (fun _ _ => rfl) _ s

@[simp] theorem State.leaveFabric_items (s : State) (i : ItemId) (st : Status) : (s.leaveFabric i st).items = s.items := by
  unfold State.leaveFabric
  split
  · rfl
  · rw [State.releaseLinks_items]
    split
    · exact State.withdraw_items _ _ _ _
    · rfl

@[simp] theorem State.dropArmings_items (s : State) (i : ItemId) : (s.dropArmings i).items = s.items := by
  unfold State.dropArmings
  refine State.foldl_items ?_ _ s
  intro _ _
  rfl

/-- An item with nothing left to emit (R144). -/
def Item.dropped (t : Item) : Item := { t with emit := [], calls := [] }

theorem State.dropPieces_items (s : State) (i : ItemId) :
    (s.dropPieces i).items = s.items.map fun t => if t.id == i then t.dropped else t := by
  unfold State.dropPieces
  dsimp only
  split <;> rfl

@[simp] theorem Item.failAt_id (st : Status) (u : Nat) (t : Item) : (t.failAt st u).id = t.id :=
  congrArg Prod.fst (Item.failAt_name st u t)

@[simp] theorem Item.failSub_id (st : Status) (u : Nat) (t : Item) : (t.failSub st u).id = t.id :=
  congrArg Prod.fst (Item.failSub_name st u t)

theorem State.failOne_items (s : State) (i : ItemId) (st : Status) (u : Nat) :
    (s.failOne i st u).items = s.items.map fun t => if t.id == i then (t.failAt st u).dropped else t := by
  rw [State.failOne, State.dropPieces_items]
  simp only [State.modItem, State.dropArmings_items, State.leaveFabric_items, List.map_map]
  refine List.map_congr_left fun t _ => ?_
  simp only [Function.comp_apply]
  by_cases ht : t.id == i <;> simp [ht]

/-- An item of a list that is changed in place where it bears an id. -/
theorem find?_map_if_id (l : List Item) (i j : ItemId) {f : Item → Item} (hf : ∀ t, (f t).id = t.id) :
    ((l.map fun t => if t.id == i then f t else t).find? fun t => t.id == j) =
      if i = j then (l.find? fun t => t.id == j).map f else l.find? fun t => t.id == j :=
  State.modItem_item { State.reset with items := l } i j f hf

theorem State.failOne_item (s : State) (i j : ItemId) (st : Status) (u : Nat) :
    (s.failOne i st u).item j = if i = j then (s.item j).map fun t => (t.failAt st u).dropped else s.item j := by
  rw [State.item, State.failOne_items]
  exact find?_map_if_id s.items i j fun t => Item.failAt_id st u t

theorem State.failOne_item_self {s : State} {i : ItemId} {t : Item} (h : s.item i = some t) (st : Status) (u : Nat) :
    (s.failOne i st u).item i = some (t.failAt st u).dropped := by
  rw [State.failOne_item, if_pos rfl, h, Option.map_some]

theorem Item.failAt_caller (st : Status) (u : Nat) (t : Item) : (t.failAt st u).caller = t.caller := by
  unfold Item.failAt
  dsimp only
  split
  · split <;> rfl
  · rfl

/-- An item that no call has emitted fails alone. -/
theorem State.failAt_of_noCaller {s : State} {i : ItemId} {t : Item} (h : s.item i = some t) (hcall : t.caller = none) (st : Status) (u : Nat) :
    s.failAt i st u = s.failOne i st u := by
  have hitem := State.failOne_item_self h st u
  have hcaller : (t.failAt st u).dropped.caller = none := (Item.failAt_caller st u t).trans hcall
  simp [State.failAt, State.failCallers, hitem, hcaller]

theorem State.haltPieces_item (s : State) (i j : ItemId) : (s.haltPieces i).item j =
    if i = j then (s.item j).map fun t => { t with failures := (s.runningPlaces i).foldl insertNat t.failures } else s.item j :=
  State.modItem_item s i j _ fun _ => rfl

theorem Item.failAt_of_unfailed {t : Item} (h : t.failedAt = none) (st : Status) (u : Nat) :
    t.failAt st u = { t with failures := insertNat t.failures u, status := st, failedAt := some u, phase := .decided } := by
  simp [Item.failAt, h]

/-- An item that no call has emitted and that has not failed before fails with the status it is given. -/
theorem State.failItem_failedWith {s : State} {i : ItemId} {t : Item} (h : s.item i = some t) (hfirst : t.failedAt = none)
    (hcall : t.caller = none) (st : Status) : (s.failItem i st).failedWith i st := by
  have hitem := State.failOne_item_self h st 0
  rw [Item.failAt_of_unfailed hfirst] at hitem
  have hhalt := State.haltPieces_item (s.failOne i st 0) i i
  rw [if_pos rfl, hitem, Option.map_some, ← State.failAt_of_noCaller h hcall] at hhalt
  exact ⟨_, hhalt, rfl, rfl⟩

/-- No other item changes. -/
theorem State.failItem_item_other {s : State} {i j : ItemId} {t : Item} (h : s.item i = some t) (hcall : t.caller = none) (hij : i ≠ j)
    (st : Status) : (s.failItem i st).item j = s.item j := by
  rw [State.failItem, State.failAt_of_noCaller h hcall, State.haltPieces_item, if_neg hij, State.failOne_item, if_neg hij]

/-! ### What a quiet change leaves -/

theorem Quiet.sameBytes {s s' : State} (h : Quiet s s') : s'.sameBytes s := by
  rw [h.rest]
  exact ⟨rfl, rfl, rfl⟩

theorem Quiet.sameRegisters {s s' : State} (h : Quiet s s') : s'.sameRegisters s := by
  rw [h.rest]
  exact ⟨rfl, rfl, rfl, rfl, rfl, rfl, rfl, rfl, rfl⟩

theorem Quiet.knots {s s' : State} (h : Quiet s s') : s'.knots = s.knots := by rw [h.rest]

theorem Quiet.windows {s s' : State} (h : Quiet s s') : s'.windows = s.windows := by rw [h.rest]

theorem Quiet.mod {s s' : State} (h : Quiet s s') : s'.mod = s.mod := by rw [h.rest]

theorem State.failItem_isQuiet (s : State) (i : ItemId) (st : Status) : Quiet s (s.failItem i st) :=
  State.failItem_quiet i st (Quiet.refl s)

/-! ### What is decided stays decided -/

/-- What an item keeps while it and others fail or wait: its name, its call and its bytes, and a decided outcome. -/
structure Item.Fate (t u : Item) : Prop where
  name : u.name = t.name
  caller : u.caller = t.caller
  bytes : u.bytes = t.bytes
  decided : t.phase = .decided → u.phase = .decided

theorem Item.Fate.refl (t : Item) : Item.Fate t t := ⟨rfl, rfl, rfl, fun h => h⟩

theorem Item.Fate.trans {t u v : Item} (h : Item.Fate t u) (k : Item.Fate u v) : Item.Fate t v :=
  ⟨k.name.trans h.name, k.caller.trans h.caller, k.bytes.trans h.bytes, fun hd => k.decided (h.decided hd)⟩

/-- Every item of the one state is in the other, at its place, with what it keeps. -/
def Fates (s s' : State) : Prop := List.Forall₂ Item.Fate s.items s'.items

theorem Fates.refl (s : State) : Fates s s := List.forall₂_same.mpr fun t _ => Item.Fate.refl t

theorem Fates.of_items {s s' : State} (h : s'.items = s.items) : Fates s s' := by
  unfold Fates
  rw [h]
  exact Fates.refl s

theorem Fates.trans {s s' s'' : State} (h : Fates s s') (k : Fates s' s'') : Fates s s'' := by
  unfold Fates at *
  generalize s.items = a, s'.items = b, s''.items = c at h k ⊢
  induction h generalizing c with
  | nil => cases k; exact .nil
  | cons hd _ ih => cases k with | cons hd' tl' => exact .cons (hd.trans hd') (ih _ tl')

theorem Fates.map_if {s s' : State} {i : ItemId} {f : Item → Item} (hf : ∀ t, Item.Fate t (f t))
    (h : s'.items = s.items.map fun t => if t.id == i then f t else t) : Fates s s' := by
  unfold Fates
  rw [h, List.forall₂_map_right_iff]
  refine List.forall₂_same.mpr fun t _ => ?_
  split
  · exact hf t
  · exact Item.Fate.refl t

theorem State.modItem_fates (s : State) (i : ItemId) (f : Item → Item) (hf : ∀ t, Item.Fate t (f t)) : Fates s (s.modItem i f) :=
  Fates.map_if hf rfl

theorem Fates.foldl {α : Type} {s₀ s : State} (f : State → α → State) (l : List α) (h : Fates s₀ s) (hf : ∀ s a, Fates s (f s a)) :
    Fates s₀ (l.foldl f s) := by
  induction l generalizing s with
  | nil => exact h
  | cons a l ih => exact ih (h.trans (hf s a))

theorem Fates.item {s s' : State} (h : Fates s s') {i : ItemId} {t : Item} (hi : s.item i = some t) :
    ∃ u, s'.item i = some u ∧ Item.Fate t u := by
  unfold Fates at h
  unfold State.item at hi ⊢
  generalize s.items = l, s'.items = l' at h hi ⊢
  induction h with
  | nil => cases hi
  | @cons a b as bs hd _ ih =>
    have hid : b.id = a.id := congrArg Prod.fst hd.name
    rw [List.find?_cons] at hi ⊢
    rw [hid]
    cases hcase : a.id == i with
    | true =>
      rw [hcase] at hi
      obtain rfl := Option.some.inj hi
      exact ⟨b, rfl, hd⟩
    | false =>
      rw [hcase] at hi
      exact ih hi

theorem Fates.doneWith {s s' : State} (h : Fates s s') {i : ItemId} {n : Nat} (hdone : s.doneWith i n) : s'.doneWith i n := by
  obtain ⟨t, hi, hphase, hbytes⟩ := hdone
  obtain ⟨u, hu, hfate⟩ := h.item hi
  exact ⟨u, hu, hfate.decided hphase, hfate.bytes.trans hbytes⟩

theorem Item.failAt_fate (st : Status) (u : Nat) (t : Item) : Item.Fate t (t.failAt st u) := by
  refine ⟨Item.failAt_name st u t, Item.failAt_caller st u t, ?_, fun _ => ?_⟩
  all_goals
    unfold Item.failAt
    dsimp only
    split
    · split <;> rfl
    · rfl

theorem Item.failSub_fate (st : Status) (u : Nat) (t : Item) : Item.Fate t (t.failSub st u) := by
  refine ⟨Item.failSub_name st u t, ?_, ?_, fun _ => ?_⟩
  all_goals
    unfold Item.failSub
    split
    · split <;> rfl
    · rfl

theorem Item.dropped_fate (t : Item) : Item.Fate t t.dropped := ⟨rfl, rfl, rfl, fun h => h⟩

theorem State.dropPieces_fates (s : State) (i : ItemId) : Fates s (s.dropPieces i) :=
  Fates.map_if Item.dropped_fate (s.dropPieces_items i)

theorem State.failOne_fates (s : State) (i : ItemId) (st : Status) (u : Nat) : Fates s (s.failOne i st u) :=
  Fates.map_if (fun t => (Item.failAt_fate st u t).trans (Item.dropped_fate _)) (s.failOne_items i st u)

theorem State.endCalled_fates (n : Nat) (s : State) (c : ItemId) : Fates s (State.endCalled n s c) := by
  induction n generalizing s c with
  | zero => exact Fates.refl s
  | succ n ih => exact Fates.foldl _ _ (Fates.refl s) fun s u => (s.failOne_fates u.id .aborted lastPlace).trans (ih _ _)

theorem State.failCallers_fates (n : Nat) (s : State) (i : ItemId) : Fates s (State.failCallers n s i) := by
  induction n generalizing s i with
  | zero => exact Fates.refl s
  | succ n ih =>
    unfold State.failCallers
    split
    · exact Fates.refl s
    · split
      · exact Fates.refl s
      · exact ((State.modItem_fates _ _ _ (Item.failSub_fate _ _)).trans (State.dropPieces_fates _ _)).trans
          ((State.endCalled_fates _ _ _).trans (ih _ _))

theorem State.failAt_fates (s : State) (i : ItemId) (st : Status) (u : Nat) : Fates s (s.failAt i st u) :=
  (s.failOne_fates i st u).trans (State.failCallers_fates _ _ _)

theorem State.failItem_fates (s : State) (i : ItemId) (st : Status) : Fates s (s.failItem i st) :=
  (s.failAt_fates i st 0).trans (State.modItem_fates _ _ _ fun _ => ⟨rfl, rfl, rfl, fun h => h⟩)

theorem State.settleWait_fates (s : State) (t : Item) : Fates s (s.settleWait t) := by
  unfold State.settleWait
  split
  · split
    · refine State.modItem_fates _ _ _ fun u => ⟨rfl, rfl, rfl, fun hdone => ?_⟩
      exact (if_neg fun hzero => nomatch hzero.symm.trans hdone).trans hdone
    · exact s.failItem_fates _ _
    · exact Fates.refl s
  · exact Fates.refl s

/-- Evaluating the waits decides no item anew and counts no bytes. -/
theorem State.settleWaits_fates (s : State) : Fates s s.settleWaits :=
  Fates.foldl _ _ (Fates.refl s) State.settleWait_fates

/-! ### An item that is done -/

theorem State.finish_doneWith {s : State} {i : ItemId} {t : Item} (h : s.item i = some t) (n : Nat) : (s.finish i n).doneWith i (t.bytes + n) := by
  have hitem := State.finish_item s i i n
  rw [if_pos rfl, h, Option.map_some] at hitem
  exact ⟨_, hitem, rfl, rfl⟩

/-- The item of an opcode's row that may run is in the module, under its own id. -/
theorem State.runnable_item {s : State} {i : ItemId} {o : Opcode} {t : Item} (h : s.runnable i o = some t) : s.item i = some t := by
  unfold State.runnable at h
  split at h
  · next u hu =>
    split at h
    · obtain rfl := Option.some.inj h
      exact hu
    · cases h
  · cases h

theorem State.item_id {s : State} {i : ItemId} {t : Item} (h : s.item i = some t) : t.id = i := by
  simpa using List.find?_some h

theorem Runs.item {s : State} {it : ItemId} {o : Opcode} {t : Item} (h : Runs s it o t) : s.item it = some t := State.runnable_item h.runnable

theorem Runs.id {s : State} {it : ItemId} {o : Opcode} {t : Item} (h : Runs s it o t) : t.id = it := State.item_id h.item

theorem Runs.op {s : State} {it : ItemId} {o : Opcode} {t : Item} (h : Runs s it o t) : t.op = some o := by
  have hrun := h.runnable
  unfold State.runnable at hrun
  rw [h.item] at hrun
  dsimp only at hrun
  split at hrun
  · next hall => exact hall.2.1
  · cases hrun

theorem Runs.waitMet {s : State} {it : ItemId} {o : Opcode} {t : Item} (h : Runs s it o t) : t.waitMet = true := by
  have hrun := h.runnable
  unfold State.runnable at hrun
  rw [h.item] at hrun
  dsimp only at hrun
  split at hrun
  · next hall => exact hall.2.2.1
  · cases hrun

/-- An item that runs and only changes items, lanes and the like notes no reset. -/
theorem Runs.withItem_quiet {s : State} {it : ItemId} {o : Opcode} {t : Item} (h : Runs s it o t) {f : Item → State → State}
    (hf : Quiet s (f t s)) : s.withItem it o f = f t s :=
  h.withItem_calm (by rw [hf.mod]; exact h.calm)

theorem Runs.withItem_mod {s : State} {it : ItemId} {o : Opcode} {t : Item} (h : Runs s it o t) {f : Item → State → State}
    (hf : (f t s).mod = s.mod) : s.withItem it o f = f t s :=
  h.withItem_calm (by rw [hf]; exact h.calm)

end Sys2Proof.Machine
end

section
/-!
Doorbells (R131), knot updates on their way (R147) and the control commands (R150, R151, R167, R168).
-/
namespace Sys2Proof.Machine

/-! ### Doorbells -/

theorem State.doorbellP_of_ignored {s : State} {g : Nat} (h : ringState (s.ring g).entry ≠ ringEnabled) (v : W32) : s.doorbellP g v = s := by
  simp [State.doorbellP, h]

theorem State.doorbellH_of_ignored {s : State} {g : Nat} (h : ringState (s.ring g).entry ≠ ringEnabled) (v : W32) : s.doorbellH g v = s := by
  simp [State.doorbellH, h]

/-- A write to an ENABLED ring of a READY module is taken, or refused, by the bound of R131. -/
theorem State.doorbellP_of_enabled {s : State} {g : Nat} (hready : s.ready = true) (h : ringState (s.ring g).entry = ringEnabled) (v : W32) :
    s.doorbellP g v =
      if ringSize (s.ring g).entry < (v - (s.ring g).f).toNat then s.fault (pgTreadle (ringHall g)) .lengthBound (BitVec.ofNat 32 g) 0
      else ((s.modRing g fun r => { r with p := v }).noteHeld g).touch (ringHall g) := by
  simp [State.doorbellP, hready, h]

theorem State.doorbellH_of_enabled {s : State} {g : Nat} (hready : s.ready = true) (h : ringState (s.ring g).entry = ringEnabled) (v : W32) :
    s.doorbellH g v =
      if ringSize (s.ring g).entry < ((s.ring g).c - v).toNat then s.fault (pgTreadle (ringHall g)) .lengthBound (BitVec.ofNat 32 g) 0
      else (s.modRing g fun r => { r with h := v }).noteHeld g := by
  simp [State.doorbellH, hready, h]

/-- Settles O12, by the ring's state and then by the bound on either count. -/
theorem doorbellWrites : Obligations.DoorbellWrites := by
  unfold Obligations.DoorbellWrites
  intro s g v hready
  have hP : exec (.doorbellPWrite g v) s = .next (s.doorbellP g v) := rfl
  have hH : exec (.doorbellHWrite g v) s = .next (s.doorbellH g v) := rfl
  rw [hP, hH]
  refine ⟨fun hoff => ?ignored, fun hon => ?enabled⟩
  case ignored => rw [State.doorbellP_of_ignored hoff, State.doorbellH_of_ignored hoff]; exact ⟨rfl, rfl⟩
  case enabled =>
    rw [State.doorbellP_of_enabled hready hon, State.doorbellH_of_enabled hready hon]
    refine ⟨fun hle => ?_, fun hlt => ?_, fun hle => ?_, fun hlt => ?_⟩
    · rw [if_neg (Nat.not_lt.mpr hle)]
    · rw [if_pos hlt]
    · rw [if_neg (Nat.not_lt.mpr hle)]
    · rw [if_pos hlt]

/-! ### Updates on their way -/

theorem State.knotArrive_of_waiting {s : State} {n : Nat} {m : KnotMsg} (hm : s.knotMsgs[n]? = some m)
    (h : ∃ x ∈ s.knotMsgs.take n, x.key = m.key) (ecc : Ecc) : s.knotArrive n ecc = s := by
  have hany : ((s.knotMsgs.take n).any fun x => x.key == m.key) = true := by simpa using h
  simp [State.knotArrive, hm, hany]

/-- An update that nothing comes before leaves the stairwells and acts at its knot; an error found there poisons the knot (R286). -/
def State.arrived1 (s : State) (n : Nat) (m : KnotMsg) (ecc : Ecc) : State :=
  let s := ({ s with knotMsgs := s.knotMsgs.eraseIdx n } : State).knotAct m.key m.action
  if ecc.bad then s.knotAct m.key .poison else s

theorem State.knotArrive_of_first {s : State} {n : Nat} {m : KnotMsg} (hm : s.knotMsgs[n]? = some m)
    (h : ∀ x ∈ s.knotMsgs.take n, x.key ≠ m.key) (ecc : Ecc) : s.knotArrive n ecc = (s.arrived1 n m ecc).settleWaits := by
  have hany : ((s.knotMsgs.take n).any fun x => x.key == m.key) = false := by simpa using h
  simp [State.knotArrive, State.arrived1, hm, hany]

theorem State.arrived1_rest (s : State) (n : Nat) (m : KnotMsg) (ecc : Ecc) :
    s.arrived1 n m ecc = { s with knotMsgs := s.knotMsgs.eraseIdx n, knots := (s.arrived1 n m ecc).knots } := by
  unfold State.arrived1
  dsimp only
  split <;> rfl

/-- What an update leaves of its knot as it arrives: an uncorrectable error poisons the knot. -/
def Knot.arrivedAt (k : Knot) (a : KnotAction) (bad : Bool) : Knot := if bad = true then { k.after a with poison := true } else k.after a

theorem State.arrived1_knot_self (s : State) (n : Nat) (m : KnotMsg) (ecc : Ecc) :
    (s.arrived1 n m ecc).knot m.key = (s.knot m.key).arrivedAt m.action ecc.bad := by
  unfold State.arrived1 Knot.arrivedAt
  dsimp only
  split
  · rw [State.knotAct_knot_self, State.knotAct_knot_self]
    rfl
  · rw [State.knotAct_knot_self]
    rfl

theorem State.arrived1_knot_other (s : State) (n : Nat) (m : KnotMsg) (ecc : Ecc) {k : Nat} (hk : k ≠ m.key) :
    (s.arrived1 n m ecc).knot k = s.knot k := by
  unfold State.arrived1
  dsimp only
  split
  · rw [State.knotAct_knot_other _ _ hk, State.knotAct_knot_other _ _ hk]
    rfl
  · rw [State.knotAct_knot_other _ _ hk]
    rfl

/-- Settles O17, by whether an earlier update for the same knot is on its way. -/
theorem knotUpdatesArriveInOrder : Obligations.KnotUpdatesArriveInOrder := by
  unfold Obligations.KnotUpdatesArriveInOrder
  intro s n m ecc hm
  refine ⟨fun hfirst => ?first, fun hearlier => ?later⟩
  case first =>
    have hquiet : Quiet _ (s.arrived1 n m ecc).settleWaits := State.settleWaits_quiet (Quiet.refl _)
    have hrest := s.arrived1_rest n m ecc
    refine ⟨_, congrArg Host.Outcome.next (State.knotArrive_of_first hm hfirst ecc), ?own, fun k hk => ?other, ?msgs, ?bytes⟩
    case own => 
      rw [State.knot_of_knots hquiet.knots, State.arrived1_knot_self]
      rfl
    case other => rw [State.knot_of_knots hquiet.knots, State.arrived1_knot_other _ _ _ _ hk]
    case msgs => rw [hquiet.rest, hrest]
    case bytes =>
      rw [hquiet.rest, hrest]
      exact ⟨rfl, rfl, rfl⟩
  case later => exact congrArg Host.Outcome.next (State.knotArrive_of_waiting hm hearlier ecc)

/-! ### `NOP` and `FENCE` -/

theorem State.finish_eq_withItemDone (s : State) (i : ItemId) (n : Nat) : s.finish i n = s.withItemDone i n := rfl

theorem State.fence_of_free {s : State} {t : Item} (h : ∀ u ∈ s.items, itemBefore u.id t.id = false) : State.fence t s = s.finish t.id 0 := by
  have hany : (s.items.any fun u => itemBefore u.id t.id && !(State.callersOf 4 s t.caller).contains u.id) = false :=
    List.any_eq_false.mpr fun u hu => by simp [h u hu]
  simp only [State.fence, hany, Bool.false_eq_true, if_false]

theorem State.fence_of_earlier {s : State} {t : Item} (hcall : t.caller = none) (h : ∃ u ∈ s.items, itemBefore u.id t.id = true) :
    State.fence t s = s := by
  obtain ⟨u, hu, hbefore⟩ := h
  have hany : (s.items.any fun u => itemBefore u.id t.id && !(State.callersOf 4 s t.caller).contains u.id) = true :=
    List.any_eq_true.mpr ⟨u, hu, by simp [hcall, hbefore, State.callersOf]⟩
  simp only [State.fence, hany, if_true]

theorem exec_nop {s : State} {it : ItemId} {t : Item} (h : Runs s it .nop t) : exec (.nop it) s = .next (s.finish it 0) := by
  have hrun := h.withItem_quiet (f := fun t s => s.finish t.id 0) (State.finish_quiet _ _ (Quiet.refl s))
  rw [h.id] at hrun
  exact congrArg Host.Outcome.next hrun

theorem State.fence_quiet (t : Item) (s : State) : Quiet s (State.fence t s) :=
  Quiet.ite (fun _ => Quiet.refl s) fun _ => State.finish_quiet _ _ (Quiet.refl s)

theorem exec_fence {s : State} {it : ItemId} {t : Item} (h : Runs s it .fence t) : exec (.fence it) s = .next (State.fence t s) :=
  congrArg Host.Outcome.next (h.withItem_quiet (State.fence_quiet t s))

/-- Settles O19: `NOP`, and `FENCE` with and without an earlier item. -/
theorem nopAndFenceComplete : Obligations.NopAndFenceComplete := by
  unfold Obligations.NopAndFenceComplete
  refine ⟨fun s it t h => ?nop, fun s it t h => ⟨fun hfree => ?free, fun hcall hearlier => ?held⟩⟩
  case nop => rw [exec_nop h, State.finish_eq_withItemDone]
  case free =>
    rw [exec_fence h, State.fence_of_free (by rwa [h.id]), h.id, State.finish_eq_withItemDone]
  case held => rw [exec_fence h, State.fence_of_earlier hcall (by rwa [h.id])]

/-! ### `KNOT_SET` -/

theorem State.knotSend_rest (s : State) (h k : Nat) (a : KnotAction) :
    s.knotSend h k a = { s with knots := (s.knotSend h k a).knots, knotMsgs := (s.knotSend h k a).knotMsgs } := by
  rcases s.knotSend_cases h k a with ⟨-, hown⟩ | ⟨-, -, hacross⟩ | ⟨-, -, hcutOff⟩
  · rw [hown]
    rfl
  · rw [hacross]
  · rw [hcutOff]

/-- What a `KNOT_SET` sends to its knot. -/
def Item.knotSetAction (t : Item) : KnotAction := if t.desc.getLsbD 144 then .assign (word32 t.desc 20) else .add (word32 t.desc 20)

/-- The knot that a `KNOT_SET` names. -/
def Item.knotSetKey (t : Item) : Nat := knotKey (fieldNat t.desc 136 3) (byteField t.desc 16 1)

theorem Item.knotSetKey_div (t : Item) : t.knotSetKey / 256 = fieldNat t.desc 136 3 := knotKey_div _ (Nat.mod_lt _ (by decide))

theorem State.knotSet_clean (t : Item) (s : State) :
    State.knotSet .clean t s = ((s.finish t.id 0).knotSend t.hall t.knotSetKey t.knotSetAction).settleWaits := rfl

theorem State.knotSet_rest (t : Item) (s : State) :
    Quiet ((s.finish t.id 0).knotSend t.hall t.knotSetKey t.knotSetAction) (State.knotSet .clean t s) :=
  State.settleWaits_quiet (Quiet.refl _)

theorem State.knotSet_mod (t : Item) (s : State) : (State.knotSet .clean t s).mod = s.mod := by
  rw [(State.knotSet_rest t s).mod, State.knotSend_rest]
  rfl

/-- Settles O20, by whether the knot is of the item's own hall, and for another's by whether a route is left. -/
theorem knotSetUpdatesItsKnot : Obligations.KnotSetUpdatesItsKnot := by
  unfold Obligations.KnotSetUpdatesItsKnot
  intro s it t h
  have hquiet := State.knotSet_rest t s
  have hrest := (s.finish t.id 0).knotSend_rest t.hall t.knotSetKey t.knotSetAction
  have hfates : Fates ((s.finish t.id 0).knotSend t.hall t.knotSetKey t.knotSetAction) (State.knotSet .clean t s) := State.settleWaits_fates _
  refine ⟨_, congrArg Host.Outcome.next (h.withItem_mod (State.knotSet_mod t s)), ?done, ?bytes, ?registers, fun hown => ?own, fun hother => ?other⟩
  case done =>
    refine hfates.doneWith ?_
    have hdone := State.finish_doneWith (h.id.symm ▸ h.item) 0
    rw [hrest, ← h.id]
    exact hdone
  case bytes =>
    rw [hquiet.rest, hrest]
    exact ⟨rfl, rfl, rfl⟩
  case registers =>
    rw [hquiet.rest, hrest]
    exact ⟨rfl, rfl, rfl, rfl, rfl, rfl, rfl, rfl, rfl⟩
  case own =>
    have hsend := (s.finish t.id 0).knotSend_own (k := t.knotSetKey) t.knotSetAction (t.knotSetKey_div.trans hown)
    refine ⟨?_, fun j hj => ?_, ?_⟩
    · rw [State.knot_of_knots hquiet.knots, hsend]
      exact State.knotAct_knot_self _ _ _
    · rw [State.knot_of_knots hquiet.knots, hsend]
      exact State.knotAct_knot_other _ _ hj
    · rw [hquiet.rest, hsend]
      rfl
  case other =>
    have haway : t.knotSetKey / 256 ≠ t.hall := t.knotSetKey_div.symm ▸ hother
    have hdiv : (s.finish t.id 0).hallReaches t.hall (t.knotSetKey / 256) = s.hallReaches t.hall (fieldNat t.desc 136 3) := by
      rw [t.knotSetKey_div]
      rfl
    cases hroute : s.hallReaches t.hall (fieldNat t.desc 136 3) with
    | true =>
      rw [hquiet.rest, State.knotSend_across _ haway (hdiv.trans hroute)]
      exact ⟨rfl, rfl⟩
    | false =>
      rw [hquiet.rest, State.knotSend_cutOff _ haway (hdiv.trans hroute)]
      exact ⟨rfl, (List.append_nil _).symm⟩

/-! ### `KNOT_WAIT` -/

theorem State.loseWaitKnot_clean (s : State) (t : Item) : s.loseWaitKnot t .clean = s := by
  have hnone : ((openWaits t).find? fun w => Ecc.clean.bad && Ecc.clean.word == some w.1) = none := List.find?_eq_none.mpr fun _ _ => by
    simp [Ecc.bad]
  rw [State.loseWaitKnot, hnone]

/-- What a `KNOT_WAIT` notes of its entries that are met. -/
def State.waitNoted (s : State) (t : Item) : State :=
  s.modItem t.id fun u => { u with progress := u.progress +
    ((((openWaits t).map fun w => (w.1, s.waitState w.2)).filter fun w => w.2 == .met).map fun w => 2 ^ w.1).sum }

theorem State.knotWait_clean (t : Item) (s : State) : State.knotWait .clean t s =
    if ((openWaits t).any fun w => s.waitState w.2 == .poisoned) then s.failItem t.id .upstream
    else if ((openWaits t).all fun w => s.waitState w.2 == .met) then (s.waitNoted t).finish t.id 0 else s.waitNoted t := by
  simp only [State.knotWait, State.loseWaitKnot_clean, List.any_map, List.all_map, Function.comp_def]
  rfl

theorem State.knotWait_quiet (t : Item) (s : State) : Quiet s (State.knotWait .clean t s) := by
  have hnoted : Quiet s (s.waitNoted t) := State.modItem_quiet _ _ (fun _ => rfl) (Quiet.refl s)
  rw [State.knotWait_clean]
  exact Quiet.ite (fun _ => s.failItem_isQuiet _ _) fun _ => Quiet.ite (fun _ => State.finish_quiet _ _ hnoted) fun _ => hnoted

theorem State.waitNoted_item {s : State} {t : Item} (h : s.item t.id = some t) :
    ∃ u, (s.waitNoted t).item t.id = some u ∧ u.phase = t.phase ∧ u.bytes = t.bytes := by
  have hget := State.modItem_item s t.id t.id (fun u => { u with progress := u.progress +
    ((((openWaits t).map fun w => (w.1, s.waitState w.2)).filter fun w => w.2 == .met).map fun w => 2 ^ w.1).sum }) (fun _ => rfl)
  rw [if_pos rfl, h, Option.map_some] at hget
  exact ⟨_, hget, rfl, rfl⟩

/-- Settles O21: the three outcomes of the entries that are not yet met. -/
theorem knotWaitIsMetOrFails : Obligations.KnotWaitIsMetOrFails := by
  unfold Obligations.KnotWaitIsMetOrFails
  intro s it t h hfirst hcall
  have hquiet := State.knotWait_quiet t s
  have hitem : s.item t.id = some t := h.id.symm ▸ h.item
  obtain ⟨u, hu, hphase, hbytes⟩ := State.waitNoted_item hitem
  refine ⟨_, congrArg Host.Outcome.next (h.withItem_quiet hquiet), hquiet.sameBytes, hquiet.sameRegisters, hquiet.knots,
    fun hmet => ?met, fun hpoisoned => ?poisoned, fun hclean hunmet => ?unmet⟩
  case met =>
    have hnone : ¬((openWaits t).any fun w => s.waitState w.2 == .poisoned) = true := by
      simp only [List.any_eq_true, not_exists, not_and]
      intro w hw
      simp [hmet w hw]
    have hall : ((openWaits t).all fun w => s.waitState w.2 == .met) = true := List.all_eq_true.mpr fun w hw => by simp [hmet w hw]
    rw [State.knotWait_clean, if_neg hnone, if_pos hall, ← h.id, ← hbytes]
    exact State.finish_doneWith hu 0
  case poisoned =>
    have hany : ((openWaits t).any fun w => s.waitState w.2 == .poisoned) = true := by
      obtain ⟨w, hw, hstate⟩ := hpoisoned
      exact List.any_eq_true.mpr ⟨w, hw, by simp [hstate]⟩
    rw [State.knotWait_clean, if_pos hany, ← h.id]
    exact State.failItem_failedWith hitem hfirst hcall .upstream
  case unmet =>
    have hnone : ¬((openWaits t).any fun w => s.waitState w.2 == .poisoned) = true := by
      simp only [List.any_eq_true, not_exists, not_and]
      intro w hw
      simpa using hclean w hw
    have hsome : ¬((openWaits t).all fun w => s.waitState w.2 == .met) = true := by
      obtain ⟨w, hw, hstate⟩ := hunmet
      simp only [List.all_eq_true, not_forall]
      exact ⟨w, hw, by simp [hstate]⟩
    rw [State.knotWait_clean, if_neg hnone, if_neg hsome, ← h.id]
    exact ⟨u, hu, hphase.trans h.live⟩

end Sys2Proof.Machine
end

section
/-!
R145, R118, R133: items that wait too long, and a ring that its host does not drain.
-/
namespace Sys2Proof.Machine

/-! ### Failing an item again -/

theorem Item.failAt_failed_again {t : Item} {st : Status} (hphase : t.status = st) (u : Nat) :
    (t.failAt st u).status = st ∧ (t.failAt st u).phase = .decided := by
  unfold Item.failAt
  dsimp only
  split
  · split
    · exact ⟨rfl, rfl⟩
    · exact ⟨hphase, rfl⟩
  · exact ⟨rfl, rfl⟩

/-- An item that no call emitted and that has failed with a status. -/
def State.FailedAlone (s : State) (i : ItemId) (st : Status) : Prop :=
  ∃ u, s.item i = some u ∧ u.caller = none ∧ u.phase = .decided ∧ u.status = st

theorem State.FailedAlone.failedWith {s : State} {i : ItemId} {st : Status} (h : s.FailedAlone i st) : s.failedWith i st := by
  obtain ⟨u, hu, -, hphase, hstatus⟩ := h
  exact ⟨u, hu, hphase, hstatus⟩

theorem State.failAt_item {s : State} {i : ItemId} {t : Item} (h : s.item i = some t) (hcall : t.caller = none) (st : Status) (u : Nat) :
    (s.failAt i st u).item i = some (t.failAt st u).dropped := by
  rw [State.failAt_of_noCaller h hcall]
  exact State.failOne_item_self h st u

theorem State.failAt_failedAlone {s : State} {i : ItemId} {t : Item} (h : s.item i = some t) (hcall : t.caller = none)
    (hfirst : t.failedAt = none) (st : Status) (u : Nat) : (s.failAt i st u).FailedAlone i st := by
  refine ⟨_, State.failAt_item h hcall st u, (Item.failAt_caller st u t).trans hcall, ?_⟩
  rw [Item.failAt_of_unfailed hfirst]
  exact ⟨rfl, rfl⟩

theorem State.FailedAlone.failAt {s : State} {i : ItemId} {st : Status} (h : s.FailedAlone i st) (u : Nat) :
    (s.failAt i st u).FailedAlone i st := by
  obtain ⟨t, ht, hcall, -, hstatus⟩ := h
  obtain ⟨hstatus', hphase'⟩ := Item.failAt_failed_again hstatus u
  exact ⟨_, State.failAt_item ht hcall st u, (Item.failAt_caller st u t).trans hcall, hphase', hstatus'⟩

theorem State.FailedAlone.foldl_failAt {s : State} {i : ItemId} {st : Status} (ps : List Piece) (h : s.FailedAlone i st) :
    (ps.foldl (fun s p => s.failAt i st p.place) s).FailedAlone i st := by
  induction ps generalizing s with
  | nil => exact h
  | cons p ps ih => exact ih (h.failAt p.place)

theorem State.foldl_failAt_failedAlone {s : State} {i : ItemId} {t : Item} {ps : List Piece} (h : s.item i = some t) (hcall : t.caller = none)
    (hfirst : t.failedAt = none) (hps : ps ≠ []) (st : Status) : (ps.foldl (fun s p => s.failAt i st p.place) s).FailedAlone i st := by
  match ps, hps with
  | p :: ps, _ => exact (State.failAt_failedAlone h hcall hfirst st p.place).foldl_failAt ps

theorem State.foldl_failAt_quiet (i : ItemId) (st : Status) (ps : List Piece) {s₀ s : State} (h : Quiet s₀ s) :
    Quiet s₀ (ps.foldl (fun s p => s.failAt i st p.place) s) := by
  induction ps generalizing s with
  | nil => exact h
  | cons p ps ih => exact ih (State.failAt_quiet i st p.place h)

/-! ### The starvation limit -/

theorem State.starve_of_heads {s : State} {t : Item} (h : s.item t.id = some t) (hruns : s.hallRuns t.hall = true) (hheads : s.waitingHeads t ≠ []) :
    s.starve t.id = (s.waitingHeads t).foldl (fun s p => s.failAt t.id .starved p.place) s := by
  have hsome : (s.waitingHeads t).isEmpty = false := by simpa using hheads
  simp only [State.starve, h, hruns, hsome, Bool.not_true, Bool.not_false, Bool.false_eq_true, if_false, if_true]

theorem State.starve_of_treadle {s : State} {t : Item} (h : s.item t.id = some t) (hruns : s.hallRuns t.hall = true) (hheads : s.waitingHeads t = [])
    (hterm : ∀ m, t.mat = some m → s.termWaits m = false) (hwaits : s.treadleWaits t = true) : s.starve t.id = s.failItem t.id .starved := by
  have hnone : t.mat.filter s.termWaits = none := by
    cases hmat : t.mat with
    | none => rfl
    | some m => simp [Option.filter, hterm m hmat]
  simp only [State.starve, h, hruns, hheads, hnone, hwaits, List.isEmpty_nil, Bool.not_true, Bool.false_eq_true, if_false, if_true]

theorem Item.mat_item {t : Item} {m : Mat} (h : t.mat = some m) : m.t = t := by
  unfold Item.mat at h
  split at h
  · split at h
    · exact (Option.some.inj h) ▸ rfl
    · exact nomatch h
  · exact nomatch h

/-- A matrix command that waits on its term knot, no tile of it having taken its terms, has nothing to write as it fails. -/
theorem State.failTerm_of_unmet {s : State} {m : Mat} (h : m.t.termMet = false) (st : Status) : s.failTerm m st = s.failItem m.t.id st := by
  simp only [State.failTerm, State.writeTermed, h, Bool.not_false, if_true]

theorem State.starve_of_term {s : State} {t : Item} {m : Mat} (h : s.item t.id = some t) (hruns : s.hallRuns t.hall = true)
    (hheads : s.waitingHeads t = []) (hmat : t.mat = some m) (hwaits : s.termWaits m = true) (hunmet : t.termMet = false) :
    s.starve t.id = s.failItem t.id .starved := by
  have hsome : t.mat.filter s.termWaits = some m := by simp [Option.filter, hmat, hwaits]
  have hitem := Item.mat_item hmat
  simp only [State.starve, h, hruns, hheads, hsome, List.isEmpty_nil, Bool.not_true, Bool.false_eq_true, if_false,
    State.failTerm_of_unmet (hitem.symm ▸ hunmet), hitem]

/-! ### A ring that is not drained -/

theorem State.stall_eq {s : State} {g : Nat} (hheld : (s.ring g).heldFull = true) (hsince : Table.get 0 s.heldSince g ≠ 0) :
    s.stall g = if Table.get 0 s.heldSince g + 100000000 ≤ s.newel.time.toNat then
      (s.modTreadle (ringHall g) fun t => { t with evtRing := BitVec.ofNat 11 (g % 2048) }).event (pgTreadle (ringHall g)) 0 else s := by
  have hbound : (Table.get 0 s.heldSince g - 1 + drainBoundNs < s.newel.time.toNat) ↔
      Table.get 0 s.heldSince g + 100000000 ≤ s.newel.time.toNat := by
    unfold drainBoundNs
    omega
  have hne : (Table.get 0 s.heldSince g != 0) = true := by simpa using hsince
  simp only [State.stall, hheld, hne, Bool.and_true, Bool.true_and, decide_eq_true_eq, hbound]

theorem Page.withEvent_raw {b : Nat} (hb : b < 32) (p : Page) : (p.withEvent b).raw.getLsbD b = true := by
  simp [Page.withEvent, hb]

/-- Settles O18: the piece that waits, the treadle's command, the term knot, and the ring. -/
theorem limitsAreReported : Obligations.LimitsAreReported := by
  unfold Obligations.LimitsAreReported
  refine ⟨fun s t h hcall hfirst hruns hwaits => ?item, fun s t m h hcall hfirst hruns hheads hmat hwaits hunmet => ?term,
    fun s g hheld hsince => ⟨fun hlong => ?stalled, fun hshort => ?early⟩⟩
  case item =>
    by_cases hheads : s.waitingHeads t = []
    · obtain ⟨hterm, htreadle⟩ := hwaits.resolve_left (· hheads)
      have hquiet := s.failItem_isQuiet t.id .starved
      exact ⟨_, congrArg Host.Outcome.next (State.starve_of_treadle h hruns hheads hterm htreadle), State.failItem_failedWith h hfirst hcall _,
        hquiet.sameBytes, hquiet.sameRegisters, hquiet.knots, hquiet.names⟩
    · have hquiet := State.foldl_failAt_quiet t.id .starved (s.waitingHeads t) (Quiet.refl s)
      exact ⟨_, congrArg Host.Outcome.next (State.starve_of_heads h hruns hheads),
        (State.foldl_failAt_failedAlone h hcall hfirst hheads _).failedWith, hquiet.sameBytes, hquiet.sameRegisters, hquiet.knots, hquiet.names⟩
  case term =>
    have hquiet := s.failItem_isQuiet t.id .starved
    exact ⟨_, congrArg Host.Outcome.next (State.starve_of_term h hruns hheads hmat hwaits hunmet), State.failItem_failedWith h hfirst hcall _,
      hquiet.sameBytes, hquiet.sameRegisters, hquiet.knots⟩
  case stalled =>
    refine ⟨_, congrArg Host.Outcome.next ((State.stall_eq hheld hsince).trans (if_pos hlong)), ?bit, ?ring, ?_⟩
    case bit =>
      rw [State.event, State.modPage_page_self]
      exact Page.withEvent_raw (by decide) _
    case ring =>
      rw [State.event_rest]
      have hhall := s.modTreadle_hall (ringHall g) (ringHall g) fun t => { t with evtRing := BitVec.ofNat 11 (g % 2048) }
      rw [if_pos rfl] at hhall
      exact congrArg (fun hl : Hall => hl.treadle.evtRing) hhall
    rw [State.event_rest]
    exact ⟨rfl, rfl, rfl, rfl, rfl⟩
  case early =>
    exact congrArg Host.Outcome.next ((State.stall_eq hheld hsince).trans (if_neg (Nat.not_le.mpr hshort)))

end Sys2Proof.Machine
end

section
/-!
The bytes of the memory under the state's operations. `Charged` says that of the memory only the counts that the module keeps in the records of
present contexts may change (R106), `Kept` that the notes of its words stay too; then what a store through an access changes, and what a write to a module
page leaves alone.
-/
namespace Sys2Proof.Machine

/-! ### Counts in context records -/

/-- A byte that the module keeps in the record of a context whose hall is here (R106). -/
def State.liveCharge (s : State) (a : Nat) : Prop := ∃ c, s.ctxHere c = true ∧ s.ctxAddr c + 36 ≤ a ∧ a < s.ctxAddr c + 64

theorem State.liveCharge.chargeByte {s : State} {a : Nat} (h : s.liveCharge a) : s.chargeByte a := by
  obtain ⟨c, -, hlo, hhi⟩ := h
  exact ⟨c, hlo, hhi⟩

theorem State.hall_lt_of_ctxHere {s : State} {c : Nat} (h : s.ctxHere c = true) : c / 1536 < 8 := by
  have habsent : s.hallAbsent (c / 1536) = false := by
    unfold State.ctxHere State.hallHere at h
    simpa using (Bool.and_eq_true_iff.mp h).1
  unfold State.hallAbsent at habsent
  by_contra hge
  simp [Nat.not_lt.mp hge] at habsent

/-- Context records lie in galleries. -/
theorem State.liveCharge.bounds {s : State} {a : Nat} (h : s.liveCharge a) : 2 ^ 60 ≤ a ∧ a < 2 ^ 61 := by
  obtain ⟨c, hhere, hlo, hhi⟩ := h
  have hhall := State.hall_lt_of_ctxHere hhere
  have hbase := (s.hall (c / 1536)).treadle.ctxBase.isLt
  unfold State.ctxAddr galleryAddr at hlo hhi
  rw [Nat.shiftLeft_eq] at hlo hhi
  omega

/-- Of the memory only counts in records of present contexts have changed. -/
structure Charged (s s' : State) : Prop where
  here : ∀ h, s'.hallHere h = s.hallHere h
  addr : ∀ c, s'.ctxAddr c = s.ctxAddr c
  bytes : ∀ x, ¬s.liveCharge x → s'.mem.read x = s.mem.read x

/-- The same, and the notes of the memory's words stay. -/
structure Kept (s s' : State) : Prop extends Charged s s' where
  poison : s'.poison = s.poison
  full : s'.full = s.full

theorem Charged.liveCharge_iff {s s' : State} (h : Charged s s') (x : Nat) : s'.liveCharge x ↔ s.liveCharge x := by
  simp only [State.liveCharge, State.ctxHere, h.here, h.addr]

theorem Charged.chargeByte_iff {s s' : State} (h : Charged s s') (x : Nat) : s'.chargeByte x ↔ s.chargeByte x := by
  simp only [State.chargeByte, h.addr]

theorem Charged.refl (s : State) : Charged s s := ⟨fun _ => rfl, fun _ => rfl, fun _ _ => rfl⟩

theorem Charged.trans {s s' s'' : State} (h : Charged s s') (k : Charged s' s'') : Charged s s'' :=
  ⟨fun i => (k.here i).trans (h.here i), fun c => (k.addr c).trans (h.addr c),
    fun x hx => (k.bytes x fun hlive => hx ((h.liveCharge_iff x).mp hlive)).trans (h.bytes x hx)⟩

theorem Kept.refl (s : State) : Kept s s := ⟨Charged.refl s, rfl, rfl⟩

theorem Kept.trans {s s' s'' : State} (h : Kept s s') (k : Kept s' s'') : Kept s s'' :=
  ⟨h.toCharged.trans k.toCharged, k.poison.trans h.poison, k.full.trans h.full⟩

theorem Kept.keptBytes {s s' : State} (h : Kept s s') : s.keptBytes s' :=
  ⟨fun x hx => h.bytes x fun hlive => hx hlive.chargeByte, h.poison, h.full⟩

/-- What leaves the memory, its notes, the halls, the boot record and the fuses alone keeps every byte. -/
theorem Kept.of_fields {s s' : State} (hmem : s'.mem = s.mem) (hpoison : s'.poison = s.poison) (hfull : s'.full = s.full)
    (hhalls : s'.halls = s.halls) (hboot : s'.boot = s.boot) (hpart : s'.part = s.part) : Kept s s' where
  here h := by simp only [State.hallHere, State.hallAbsent, State.hallLost, hboot, hpart]
  addr c := by simp only [State.ctxAddr, State.hall, hhalls]
  bytes x _ := by rw [hmem]
  poison := hpoison
  full := hfull

theorem Quiet.kept {s s' : State} (h : Quiet s s') : Kept s s' := by
  rw [h.rest]
  exact Kept.of_fields rfl rfl rfl rfl rfl rfl

theorem Kept.foldl {α : Type} {f : State → α → State} (hf : ∀ s a, Kept s (f s a)) (l : List α) (s : State) : Kept s (l.foldl f s) := by
  induction l generalizing s with
  | nil => exact Kept.refl s
  | cons a l ih => exact (hf s a).trans (ih (f s a))

theorem Kept.foldl_from {α : Type} {f : State → α → State} (hf : ∀ s a, Kept s (f s a)) (l : List α) {s₀ s : State} (h : Kept s₀ s) :
    Kept s₀ (l.foldl f s) := h.trans (Kept.foldl hf l s)

theorem leBytes_length (n v : Nat) : (leBytes n v).length = n := by
  induction n generalizing v with
  | zero => rfl
  | succ n ih => simp [leBytes, ih]

/-- A count that the module writes into the record of a present context. -/
theorem State.ctxWrite_kept {s : State} {c : Nat} (hhere : s.ctxHere c = true) {b n : Nat} (hlo : 36 ≤ b) (hhi : b + n ≤ 64) (v : Nat) :
    Kept s (s.ctxWrite c b n v) where
  here _ := rfl
  addr _ := rfl
  bytes x hx := by
    refine Memory.read_writeBytes_outside _ _ ?_
    rw [leBytes_length]
    by_contra hin
    exact hx ⟨c, hhere, by omega, by omega⟩
  poison := rfl
  full := rfl

theorem State.rechargeLines_kept (s : State) (c b a : Nat) : Kept s (s.rechargeLines c b a) := by
  unfold State.rechargeLines
  dsimp only
  split
  case isTrue h => exact State.ctxWrite_kept h.1 (by decide) (by decide) _
  case isFalse => exact Kept.refl s

theorem State.setCache_kept (s : State) (h : Nat) (ls : List CacheLine) : Kept s (s.setCache h ls) := Kept.of_fields rfl rfl rfl rfl rfl rfl

theorem State.replaceCache_kept (s : State) (h : Nat) (ls : List CacheLine) : Kept s (s.replaceCache h ls) := by
  unfold State.replaceCache
  split
  · exact Kept.refl s
  · exact Kept.foldl_from (fun _ _ => State.rechargeLines_kept _ _ _ _) _ (s.setCache_kept h ls)

theorem State.countMiss_kept (s : State) (c : Nat) : Kept s (s.countMiss c) := by
  unfold State.countMiss
  split
  case isTrue h => exact State.ctxWrite_kept h (by decide) (by decide) _
  case isFalse => exact Kept.refl s

theorem State.serveRows_kept (s : State) (c n : Nat) : Kept s (s.serveRows c n) := by
  unfold State.serveRows
  split
  case isTrue h => exact State.ctxWrite_kept h (by decide) (by decide) _
  case isFalse => exact Kept.refl s

/-! ### Slices asked for (R120) -/

theorem State.requestSlice_kept (s : State) (t : Item) (l : Nat) (sl : SliceId) : Kept s (s.requestSlice t l sl) :=
  (s.countMiss_kept sl.context).trans (Kept.of_fields rfl rfl rfl rfl rfl rfl)

theorem State.wantSlices_kept (s : State) (t : Item) (l : Nat) (sls : List SliceId) : Kept s (s.wantSlices t l sls) := by
  refine Kept.foldl (fun s sl => ?_) sls s
  dsimp only
  split
  · exact Kept.refl s
  · exact s.requestSlice_kept t l sl

theorem State.askUnit_kept (s : State) (p : Piece) : Kept s (s.askUnit p) := by
  unfold State.askUnit
  split
  · exact Kept.refl s
  · split
    · exact Kept.refl s
    · split
      · exact Kept.refl s
      · exact Kept.trans (s' := s.modBobbin p.hall p.loom _) (Kept.of_fields rfl rfl rfl rfl rfl rfl) (State.wantSlices_kept _ _ _ _)

theorem State.askSlices_kept (s : State) : Kept s s.askSlices := Kept.foldl State.askUnit_kept _ s

/-- What asking for slices may change: counts of misses, bobbin units and ledgers. -/
def Asked (s s' : State) : Prop := s' = { s with mem := s'.mem, bobbins := s'.bobbins, ledgers := s'.ledgers }

theorem Asked.refl (s : State) : Asked s s := rfl

theorem Asked.trans {s s' s'' : State} (h : Asked s s') (k : Asked s' s'') : Asked s s'' := by
  unfold Asked at h k ⊢
  rw [k, h]

theorem Asked.foldl {α : Type} {f : State → α → State} (hf : ∀ s a, Asked s (f s a)) (l : List α) (s : State) : Asked s (l.foldl f s) := by
  induction l generalizing s with
  | nil => exact Asked.refl s
  | cons a l ih => exact (hf s a).trans (ih (f s a))

theorem State.countMiss_asked (s : State) (c : Nat) : Asked s (s.countMiss c) := by
  unfold State.countMiss
  split
  · rfl
  · rfl

theorem State.requestSlice_asked (s : State) (t : Item) (l : Nat) (sl : SliceId) : Asked s (s.requestSlice t l sl) :=
  (s.countMiss_asked sl.context).trans rfl

theorem State.wantSlices_asked (s : State) (t : Item) (l : Nat) (sls : List SliceId) : Asked s (s.wantSlices t l sls) := by
  refine Asked.foldl (fun s sl => ?_) sls s
  dsimp only
  split
  · exact Asked.refl s
  · exact s.requestSlice_asked t l sl

theorem State.askUnit_asked (s : State) (p : Piece) : Asked s (s.askUnit p) := by
  unfold State.askUnit
  split
  · exact Asked.refl s
  · split
    · exact Asked.refl s
    · split
      · exact Asked.refl s
      · exact Asked.trans (s' := s.modBobbin p.hall p.loom _) rfl (State.wantSlices_asked _ _ _ _)

theorem State.askSlices_asked (s : State) : Asked s s.askSlices := Asked.foldl State.askUnit_asked _ s

theorem State.askSlices_rest (s : State) :
    s.askSlices = { s with mem := s.askSlices.mem, bobbins := s.askSlices.bobbins, ledgers := s.askSlices.ledgers } := s.askSlices_asked

/-! ### Writes to the module pages (R353) -/

/-- What a write to a module page may change; the module's power is not part of it. -/
structure Managed (s s' : State) : Prop where
  rest : s' = { s with mod := s'.mod, newel := s'.newel, power := s'.power, sec := s'.sec, hif := s'.hif, pages := s'.pages, out := s'.out,
                       lowHalf := s'.lowHalf }
  powered : s'.newel.powered = s.newel.powered
  awake : s.power.asleep = false → s'.power.asleep = false
  keys : s'.sec.keys = s.sec.keys
  time : s'.newel.time = s.newel.time

theorem Managed.refl (s : State) : Managed s s := ⟨rfl, rfl, id, rfl, rfl⟩

theorem Managed.trans {s s' s'' : State} (h : Managed s s') (k : Managed s' s'') : Managed s s'' where
  rest := by rw [k.rest, h.rest]
  powered := k.powered.trans h.powered
  awake := k.awake ∘ h.awake
  keys := k.keys.trans h.keys
  time := k.time.trans h.time

theorem Managed.kept {s s' : State} (h : Managed s s') : Kept s s' := by
  rw [h.rest]
  exact Kept.of_fields rfl rfl rfl rfl rfl rfl

theorem State.modPage_managed (s : State) (p : Nat) (f : Page → Page) : Managed s (s.modPage p f) := by
  rw [State.modPage_rest]
  exact ⟨rfl, rfl, id, rfl, rfl⟩

theorem State.event_managed (s : State) (p b : Nat) : Managed s (s.event p b) := s.modPage_managed p _
theorem State.fault_managed (s : State) (p : Nat) (st : Status) (i0 i1 : W32) : Managed s (s.fault p st i0 i1) := s.modPage_managed p _
theorem State.refuse_managed (s : State) (p : Nat) (v : W32) : Managed s (s.refuse p v) := s.modPage_managed p _

theorem State.noteSensor_managed (s : State) (n : Nat) : Managed s (s.noteSensor n) := by
  unfold State.noteSensor
  split
  · exact ⟨rfl, rfl, id, rfl, rfl⟩
  · exact ⟨rfl, rfl, id, rfl, rfl⟩

theorem State.driveAlert_managed (s : State) : Managed s s.driveAlert := ⟨rfl, rfl, id, rfl, rfl⟩

theorem State.setCmp_managed (s : State) (n : Nat) (v : W32) : Managed s (s.setCmp n v) :=
  Managed.trans (s' := { s with newel := { s.newel with ctl := Table.set 0 s.newel.ctl n v } }) ⟨rfl, rfl, id, rfl, rfl⟩ (State.driveAlert_managed _)

theorem State.trip_managed (s : State) (n : Nat) : Managed s (s.trip n) := by
  have htrip := ((s.noteSensor_managed n).trans (State.setCmp_managed _ n (s.cmpBits n ||| 8))).trans (State.event_managed _ pgNewel n)
  unfold State.trip
  dsimp only
  split
  · exact htrip.trans ⟨rfl, rfl, fun _ => rfl, rfl, rfl⟩
  · exact htrip

theorem State.timeTrip_managed (s : State) (n : Nat) : Managed s (s.timeTrip n) := by
  have htrip : Managed s (({ s with newel := { s.newel with spent := s.newel.spent ||| (1#8 <<< n) } } : State).trip n) :=
    Managed.trans (s' := { s with newel := { s.newel with spent := s.newel.spent ||| (1#8 <<< n) } }) ⟨rfl, rfl, id, rfl, rfl⟩ (State.trip_managed _ n)
  unfold State.timeTrip
  dsimp only
  split
  · split
    · split
      · exact htrip.trans ⟨rfl, rfl, id, rfl, rfl⟩
      · split
        · exact htrip.trans ⟨rfl, rfl, id, rfl, rfl⟩
        · exact htrip.trans ⟨rfl, rfl, id, rfl, rfl⟩
    · exact htrip
  · exact Managed.refl s

theorem State.cmpCtlWrite_managed (s : State) (n : Nat) (v : W32) : Managed s (s.cmpCtlWrite n v) := by
  unfold State.cmpCtlWrite
  split
  · exact s.fault_managed _ _ _ _
  · exact (s.setCmp_managed n _).trans (State.timeTrip_managed _ n)

theorem State.cmpValWrite_managed (s : State) (n : Nat) (v : W64) : Managed s (s.cmpValWrite n v) := by
  unfold State.cmpValWrite
  split
  · exact Managed.refl s
  · split
    · exact Managed.trans (s' := s.setCmpVal n v) ⟨rfl, rfl, id, rfl, rfl⟩ (State.timeTrip_managed _ n)
    · exact s.refuse_managed _ _

theorem State.levelWrite_managed (s : State) (v : W32) : Managed s (s.levelWrite v) := by
  unfold State.levelWrite
  split
  · exact s.refuse_managed _ _
  · exact ⟨rfl, rfl, id, rfl, rfl⟩

theorem State.moduleWrite_managed (s : State) (rel : Nat) (v : W32) : Managed s (s.moduleWrite rel v) := by
  unfold State.moduleWrite
  split
  · exact ⟨rfl, rfl, id, rfl, rfl⟩
  · exact s.levelWrite_managed v
  · split
    · exact s.refuse_managed _ _
    · exact ⟨rfl, rfl, id, rfl, rfl⟩
  · exact ⟨rfl, rfl, id, rfl, rfl⟩

theorem State.newelWrite_managed (s : State) (rel : Nat) (v : W32) : Managed s (s.newelWrite rel v) := by
  unfold State.newelWrite
  split
  · exact s.cmpCtlWrite_managed _ v
  · split
    · dsimp only
      split
      · exact ⟨rfl, rfl, id, rfl, rfl⟩
      · exact Managed.trans (s' := (s.joinHigh _ _ v).2) ⟨rfl, rfl, id, rfl, rfl⟩ (State.cmpValWrite_managed _ _ _)
    · exact ⟨rfl, rfl, id, rfl, rfl⟩

theorem State.powerWrite_managed (s : State) (rel : Nat) (v : W32) : Managed s (s.powerWrite rel v) := by
  unfold State.powerWrite
  split
  · dsimp only
    split
    · exact ⟨rfl, rfl, id, rfl, rfl⟩
    · exact s.refuse_managed _ _
  · exact ⟨rfl, rfl, id, rfl, rfl⟩

theorem State.securityWrite_managed (s : State) (rel : Nat) (v : W32) : Managed s (s.securityWrite rel v) := by
  unfold State.securityWrite
  split
  · split
    · exact s.refuse_managed _ _
    · exact ⟨rfl, rfl, id, rfl, rfl⟩
  · exact ⟨rfl, rfl, id, rfl, rfl⟩

theorem State.bar4Write_managed (s : State) (f : Nat) (v : W32) : Managed s (s.bar4Write f v) := by
  unfold State.bar4Write
  split
  · exact s.refuse_managed _ _
  · exact ⟨rfl, rfl, id, rfl, rfl⟩

theorem State.hifWrite_managed (s : State) (rel : Nat) (v : W32) : Managed s (s.hifWrite rel v) := by
  unfold State.hifWrite
  split
  · dsimp only
    split
    · exact ⟨rfl, rfl, id, rfl, rfl⟩
    · exact s.refuse_managed _ _
  · split
    · exact s.bar4Write_managed 0 v
    · split
      · exact s.bar4Write_managed 1 v
      · split
        · dsimp only
          split
          · exact ⟨rfl, rfl, id, rfl, rfl⟩
          · exact ⟨rfl, rfl, id, rfl, rfl⟩
        · exact ⟨rfl, rfl, id, rfl, rfl⟩

theorem State.headerWrite_managed (s : State) (n rel : Nat) (v : W32) : Managed s (s.headerWrite n rel v) := by
  unfold State.headerWrite
  split
  · exact s.modPage_managed _ _
  · exact s.modPage_managed _ _
  · exact s.modPage_managed _ _
  · exact ⟨rfl, rfl, id, rfl, rfl⟩

theorem State.moduleBlockWrite_managed (s : State) (id : PageId) (rel : Nat) (v : W32) : Managed s (s.moduleBlockWrite id rel v) := by
  unfold State.moduleBlockWrite
  split
  · exact s.moduleWrite_managed rel v
  · exact s.newelWrite_managed rel v
  · exact s.powerWrite_managed rel v
  · exact s.securityWrite_managed rel v
  · exact s.hifWrite_managed rel v
  · exact ⟨rfl, rfl, fun h => h, rfl, rfl⟩

theorem State.managementWrite_managed (s : State) (off : Nat) (v : W32) : Managed s (s.managementWrite off v) := by
  unfold State.managementWrite
  split
  · dsimp only
    split
    · exact s.headerWrite_managed _ _ _
    · exact s.moduleBlockWrite_managed _ _ _
  · exact ⟨rfl, rfl, id, rfl, rfl⟩

theorem Managed.foldl {α : Type} {f : State → α → State} (hf : ∀ s a, Managed s (f s a)) (l : List α) (s : State) : Managed s (l.foldl f s) := by
  induction l generalizing s with
  | nil => exact Managed.refl s
  | cons a l ih => exact (hf s a).trans (ih (f s a))

theorem State.managementStore_managed (s : State) (off : Nat) (bs : List Byte) : Managed s (s.managementStore off bs) :=
  Managed.foldl (fun s _ => s.managementWrite_managed _ _) _ s

/-! ### A store through an access (R208, R228, R317) -/

/-- What a store outside the management space may change: the memory, the poison of its words, and the lines of the tensor caches. -/
def Stored (s s' : State) : Prop := s' = { s with mem := s'.mem, poison := s'.poison, caches := s'.caches }

theorem Stored.refl (s : State) : Stored s s := rfl

theorem Stored.trans {s s' s'' : State} (h : Stored s s') (k : Stored s' s'') : Stored s s'' := by
  unfold Stored at h k ⊢
  rw [k, h]

theorem Stored.foldl {α : Type} {f : State → α → State} (hf : ∀ s a, Stored s (f s a)) (l : List α) (s : State) : Stored s (l.foldl f s) := by
  induction l generalizing s with
  | nil => exact Stored.refl s
  | cons a l ih => exact (hf s a).trans (ih (f s a))

theorem State.rechargeLines_stored (s : State) (c b a : Nat) : Stored s (s.rechargeLines c b a) := by
  unfold State.rechargeLines
  dsimp only
  split
  · rfl
  · rfl

theorem State.replaceCache_stored (s : State) (h : Nat) (ls : List CacheLine) : Stored s (s.replaceCache h ls) := by
  unfold State.replaceCache
  split
  · rfl
  · exact Stored.trans (s' := s.setCache h ls) rfl (Stored.foldl (fun s _ => s.rechargeLines_stored _ _ _) _ _)

theorem State.store_stored (s : State) (ac : Access) {a : Nat} (h : addrSpace a ≠ 5) (bs : List Byte) : Stored s (s.store ac a bs) := by
  unfold State.store
  rw [if_neg h]
  dsimp only
  split
  · exact Stored.trans (s' := ({ s with mem := s.mem.store ac a bs } : State).unpoison (hostKey ac.function a) bs.length) rfl
      (State.replaceCache_stored _ _ _)
  · rfl

theorem State.store_of_plain {s : State} {ac : Access} {a : Nat} (hkeys : ac.keys = none) (h5 : addrSpace a ≠ 5) (h2 : addrSpace a ≠ 2)
    (bs : List Byte) : s.store ac a bs =
      ({ s with mem := s.mem.writeBytes (hostKey ac.function a) bs } : State).unpoison (hostKey ac.function a) bs.length := by
  simp only [State.store, if_neg h5, if_neg h2, Memory.store, hkeys]

theorem State.store_mem_of_plain {s : State} {ac : Access} {a : Nat} (hkeys : ac.keys = none) (h5 : addrSpace a ≠ 5) (h2 : addrSpace a ≠ 2)
    (bs : List Byte) : (s.store ac a bs).mem = s.mem.writeBytes (hostKey ac.function a) bs := by
  rw [State.store_of_plain hkeys h5 h2]
  rfl

/-- A store without encryption changes no byte outside its own but counts of present contexts. -/
theorem State.store_read_outside {s : State} {ac : Access} {a x : Nat} (hkeys : ac.keys = none) (bs : List Byte)
    (hout : x < hostKey ac.function a ∨ hostKey ac.function a + bs.length ≤ x) (hlive : ¬s.liveCharge x) :
    (s.store ac a bs).mem.read x = s.mem.read x := by
  have hwrite : (s.mem.writeBytes (hostKey ac.function a) bs).read x = s.mem.read x := Memory.read_writeBytes_outside _ _ hout
  by_cases h5 : addrSpace a = 5
  · rw [State.store, if_pos h5]
    exact (s.managementStore_managed _ _).kept.bytes x hlive
  · by_cases h2 : addrSpace a = 2
    · simp only [State.store, if_neg h5, if_pos h2, Memory.store, hkeys]
      exact (((({ s with mem := s.mem.writeBytes (hostKey ac.function a) bs } : State).unpoison (hostKey ac.function a) bs.length).replaceCache_kept _
        _).bytes x hlive).trans hwrite
    · rw [State.store_mem_of_plain hkeys h5 h2, hwrite]

end Sys2Proof.Machine
end

section
/-!
`TIMESTAMP` (R167), and the end of an item with its record (R10, R134, R144).
-/
namespace Sys2Proof.Machine

/-! ### `TIMESTAMP` -/

theorem Item.handle_of_win {t : Item} {b : Nat} {w : Block512} (h : t.win b = some w) : word32 t.desc b ≠ noHandle := by
  intro hnone
  simp [Item.win, hnone] at h

theorem Item.winD_of_win {t : Item} {b : Nat} {w : Block512} (h : t.win b = some w) : t.winD b = w := by
  rw [Item.winD, h]
  rfl

@[simp] theorem State.access_function (s : State) (fn : Nat) (w : Block512) : (s.access fn w).function = fn := by
  unfold State.access
  split
  · rfl
  · split
    · rfl
    · rfl

/-- What `TIMESTAMP` does with a window that takes it: the store, its request, and the granules of a loom store. -/
def State.timestamped (s : State) (t : Item) (w : Block512) : State :=
  let a := winBase w + byteField t.desc 20 4
  let s' := (s.store (s.access (s.itemFunction t.id) w) a (leBytes 8 s.newel.time.toNat)).treadleRequest t.hall (.operand t.id) true a 8
  if addrSpace (winBase w) == 0 then s'.markFull a 8 else s'

theorem State.timestamp_of_free {s : State} {t : Item} {w : Block512} (hw : t.win 16 = some w)
    (hfault : s.accessFault (s.itemFunction t.id) w [(winBase w + byteField t.desc 20 4, 8)] = none)
    (hzero : s.hitsZeroing (winBase w + byteField t.desc 20 4) 8 = false)
    (hempty : addrSpace (winBase w) = 0 → s.allEmpty (winBase w + byteField t.desc 20 4) 8 = true) :
    State.timestamp t s = (s.timestamped t w).finish t.id 8 := by
  have hroom : (s.hitsZeroing (winBase w + byteField t.desc 20 4) 8 ||
      (addrSpace (winBase w) == 0 && !s.allEmpty (winBase w + byteField t.desc 20 4) 8)) = false := by
    by_cases hstore : addrSpace (winBase w) = 0
    · simp [hzero, hempty hstore]
    · simp [hzero, hstore]
  simp only [State.timestamp, if_neg (Item.handle_of_win hw), Item.winD_of_win hw, hfault, hroom, Bool.false_eq_true, if_false]
  rfl

/-- Nothing else changes but the poison of its words, the granules it fills and the ledger it asks. -/
theorem State.timestamped_rest (s : State) (t : Item) (w : Block512) (hkeys : (s.access (s.itemFunction t.id) w).keys = none)
    (h5 : addrSpace (winBase w + byteField t.desc 20 4) ≠ 5) (h2 : addrSpace (winBase w + byteField t.desc 20 4) ≠ 2) :
    s.timestamped t w = { s with
      mem := s.mem.writeBytes (hostKey (s.itemFunction t.id) (winBase w + byteField t.desc 20 4)) (leBytes 8 s.newel.time.toNat)
      poison := (s.timestamped t w).poison, full := (s.timestamped t w).full, ledgers := (s.timestamped t w).ledgers } := by
  unfold State.timestamped
  dsimp only
  rw [State.store_of_plain hkeys h5 h2, State.access_function]
  split
  · rfl
  · rfl

/-- Settles O23, by whether the command names a window. -/
theorem timestampWritesNewelTime : Obligations.TimestampWritesNewelTime := by
  unfold Obligations.TimestampWritesNewelTime
  refine fun s it t h => ⟨fun hnone => ?none, fun w hw hkeys _ h2 h5 hfault hzero hempty => ?window⟩
  case none =>
    have hmean : State.timestamp t s = s.finish t.id 0 := if_pos hnone
    have hquiet : Quiet s (State.timestamp t s) := hmean ▸ State.finish_quiet _ _ (Quiet.refl s)
    have hdone : State.timestamp t s = s.withItemDone it 0 := by rw [hmean, h.id, State.finish_eq_withItemDone]
    exact congrArg Host.Outcome.next ((h.withItem_quiet hquiet).trans hdone)
  case window =>
    obtain rfl := h.id
    have hmean := State.timestamp_of_free hw hfault hzero hempty
    have hrest := s.timestamped_rest t w hkeys h5 h2
    have hmod : (State.timestamp t s).mod = s.mod := by
      rw [hmean, State.finish_rest, hrest]
    have hitem : (s.timestamped t w).item t.id = some t := by
      rw [hrest]
      exact h.item
    refine ⟨_, congrArg Host.Outcome.next (h.withItem_mod hmod), ?done, ?bytes, fun x hx => ?frame, ?registers, ?knots⟩
    case done =>
      rw [hmean]
      exact State.finish_doneWith hitem 8
    case bytes =>
      rw [hmean, State.finish_rest, hrest]
      have hread := s.mem.readBytes_writeBytes (hostKey (s.itemFunction t.id) (winBase w + byteField t.desc 20 4)) (leBytes 8 s.newel.time.toNat)
      rwa [leBytes_length] at hread
    case frame =>
      rw [hmean, State.finish_rest, hrest]
      exact Memory.read_writeBytes_outside _ _ (by rwa [leBytes_length])
    case registers =>
      rw [hmean, State.finish_rest, hrest]
      exact ⟨rfl, rfl, rfl, rfl, rfl, rfl, rfl, rfl, rfl⟩
    case knots => rw [hmean, State.finish_rest, hrest]

/-! ### The bytes of a record (R10) -/

theorem leNat_leBytes (n v : Nat) : leNat (leBytes n v) = v % 256 ^ n := by
  induction n generalizing v with
  | zero => simp [leBytes, leNat, Nat.mod_one]
  | succ n ih =>
    rw [leBytes, leNat, ih, BitVec.toNat_ofNat, show 256 ^ (n + 1) = 256 * 256 ^ n from pow_succ' 256 n, Nat.mod_mul]

theorem leBytes_one (v : Nat) : leBytes 1 v = [BitVec.ofNat 8 v] := rfl

/-- The fields of a record in their order, and the number of bytes before each. -/
theorem recordBytes_length (t : Item) (elapsed time : W64) : (recordBytes t elapsed time).length = 32 := by
  simp [recordBytes, leBytes_length]

theorem take_of_length_append {α : Type} {n : Nat} {l : List α} (h : l.length = n) (m : List α) : (l ++ m).take n = l := by
  rw [← h, List.take_left]

theorem drop_of_length_append {α : Type} {n : Nat} {l : List α} (h : l.length = n) (m : List α) : (l ++ m).drop n = m := by
  rw [← h, List.drop_left]

theorem recordBytes_tag (t : Item) (elapsed time : W64) : (recordBytes t elapsed time).take 4 = leBytes 4 (descId t.desc).toNat := by
  simp only [recordBytes, List.append_assoc]
  exact take_of_length_append (leBytes_length 4 _) _

/-- The bytes between the tag and the ring number. -/
theorem recordBytes_bytes (t : Item) (elapsed time : W64) :
    (recordBytes t elapsed time)[4]? = some (statusCode t.finalStatus) ∧
    (recordBytes t elapsed time)[5]? = some (BitVec.ofNat 8 (Nat.min t.replay 4)) ∧
    (recordBytes t elapsed time)[8]? = some (BitVec.ofNat 8 t.hallByte) ∧
    (recordBytes t elapsed time)[9]? = some (BitVec.ofNat 8 t.loomByte) := by
  simp [recordBytes, leBytes]

theorem recordBytes_ring (t : Item) (elapsed time : W64) : ((recordBytes t elapsed time).drop 6).take 2 = leBytes 2 t.id.ring := by
  simp [recordBytes, leBytes]

theorem recordBytes_elapsed (t : Item) (elapsed time : W64) : ((recordBytes t elapsed time).drop 10).take 6 = leBytes 6 elapsed.toNat := by
  simp [recordBytes, leBytes]

theorem recordBytes_moved (t : Item) (elapsed time : W64) : ((recordBytes t elapsed time).drop 16).take 8 = leBytes 8 t.bytes := by
  simp [recordBytes, leBytes]

theorem recordBytes_time (t : Item) (elapsed time : W64) : (recordBytes t elapsed time).drop 24 = leBytes 8 time.toNat := by
  simp [recordBytes, leBytes]

/-- The loom byte names the one loom that has run the item. -/
theorem Item.loomByte_eq {t : Item} {l : Nat} (hsome : t.looms ≠ []) (hall : ∀ k ∈ t.looms, k = l) : t.loomByte = l := by
  match hlooms : t.looms, hsome with
  | k :: ks, _ =>
    rw [hlooms] at hall
    have hk : k = l := hall k (List.mem_cons_self ..)
    have hks : ks.all (· == k) = true := List.all_eq_true.mpr fun j hj => by simp [hall j (List.mem_cons_of_mem _ hj), hk]
    rw [Item.loomByte, hlooms]
    exact (if_pos hks).trans hk

theorem Item.looms_of_loomByte {t : Item} {l : Nat} (h : t.loomByte = l) (hl : l ≠ 255) : t.looms ≠ [] ∧ ∀ k ∈ t.looms, k = l := by
  match hlooms : t.looms with
  | [] => simp [Item.loomByte, hlooms] at h; exact absurd h.symm hl
  | k :: ks =>
    rw [Item.loomByte, hlooms] at h
    dsimp only at h
    split at h
    case isTrue hall =>
      refine ⟨List.cons_ne_nil _ _, fun j hj => ?_⟩
      rcases List.mem_cons.mp hj with rfl | hin
      · exact h
      · exact (eq_of_beq (List.all_eq_true.mp hall j hin)).trans h
    case isFalse => exact absurd h.symm hl

/-! ### The end of an item -/

theorem State.applySet_rest (s : State) (t : Item) :
    s.applySet t = { s with knots := (s.applySet t).knots, knotMsgs := (s.applySet t).knotMsgs } := by
  unfold State.applySet
  dsimp only
  split
  · exact s.knotSend_rest _ _ _
  · rfl

/-- Where the next record of a ring goes. -/
def State.recordAddr (s : State) (g : Nat) : Nat :=
  ringCompletionBase (s.ring g).entry + 32 * ((s.ring g).c.toNat % ringSize (s.ring g).entry)

theorem State.writeRecord_rest (s : State) (t : Item) (h3 : addrSpace (s.recordAddr t.id.ring) = 3) :
    s.writeRecord t = { s with
      free := s.free + 1, poison := (s.writeRecord t).poison, ledgers := (s.writeRecord t).ledgers
      mem := s.mem.writeBytes (hostKey (s.ring t.id.ring).function (s.recordAddr t.id.ring))
        (recordBytes t (Config.freeLong s.free) s.newel.time) } := by
  have hstore := State.store_of_plain (s := { s with free := s.free + 1 }) (ac := ⟨none, none, (s.ring t.id.ring).function⟩) rfl
    (h3.trans_ne (by decide)) (h3.trans_ne (by decide)) (recordBytes t (Config.freeLong s.free) s.newel.time)
  unfold State.writeRecord State.put
  dsimp only [State.draw]
  unfold State.recordAddr at hstore ⊢
  rw [hstore]
  rfl

/-- The writeback of a ring's count of records (R134), where its memory is here and has a route. -/
def State.wroteBack (s : State) (g : Nat) : State :=
  if s.recordMemoryHere (s.ring g).function (ringWriteback (s.ring g).entry) && s.hallReaches (ringHall g) (addrHome (ringWriteback (s.ring g).entry)) then
    (s.put (s.ring g).function (ringWriteback (s.ring g).entry) (leBytes 4 (s.ring g).c.toNat)).treadleRequest (ringHall g) (.record g) true
      (ringWriteback (s.ring g).entry) 4
  else s

theorem State.countRecord_eq (s : State) (t : Item) : s.countRecord t =
    ((s.modRing t.id.ring fun r => { r with c := r.c + 1 }).wroteBack t.id.ring).ringInterrupt t.id.ring (descIrq t.desc) := rfl

theorem State.store_rings (s : State) (ac : Access) (a : Nat) (bs : List Byte) : (s.store ac a bs).rings = s.rings := by
  by_cases h5 : addrSpace a = 5
  · rw [State.store, if_pos h5, (s.managementStore_managed _ _).rest]
  · rw [s.store_stored ac h5]

theorem State.store_items (s : State) (ac : Access) (a : Nat) (bs : List Byte) : (s.store ac a bs).items = s.items := by
  by_cases h5 : addrSpace a = 5
  · rw [State.store, if_pos h5, (s.managementStore_managed _ _).rest]
  · rw [s.store_stored ac h5]

theorem State.wroteBack_rings (s : State) (g : Nat) : (s.wroteBack g).rings = s.rings := by
  unfold State.wroteBack
  split
  · exact s.store_rings _ _ _
  · rfl

theorem State.wroteBack_items (s : State) (g : Nat) : (s.wroteBack g).items = s.items := by
  unfold State.wroteBack
  split
  · exact s.store_items _ _ _
  · rfl

theorem State.wroteBack_read_outside (s : State) (g : Nat) {x : Nat} (hlive : ¬s.liveCharge x)
    (hout : x < hostKey (s.ring g).function (ringWriteback (s.ring g).entry) ∨
      hostKey (s.ring g).function (ringWriteback (s.ring g).entry) + 4 ≤ x) : (s.wroteBack g).mem.read x = s.mem.read x := by
  unfold State.wroteBack
  split
  · exact State.store_read_outside rfl _ (by rwa [leBytes_length]) hlive
  · rfl

theorem State.wroteBack_mem_of_host {s : State} {g : Nat} (hhost : s.hostReachable (s.ring g).function = true)
    (hroute : s.hallReaches (ringHall g) 0 = true) (h3 : addrSpace (ringWriteback (s.ring g).entry) = 3) :
    (s.wroteBack g).mem =
      s.mem.writeBytes (hostKey (s.ring g).function (ringWriteback (s.ring g).entry)) (leBytes 4 (s.ring g).c.toNat) := by
  have hhere : s.recordMemoryHere (s.ring g).function (ringWriteback (s.ring g).entry) = true := by simp [State.recordMemoryHere, h3, hhost]
  have hhome : addrHome (ringWriteback (s.ring g).entry) = 0 := by simp [addrHome, h3]
  rw [State.wroteBack, hhere, hhome, hroute, Bool.and_self, if_pos rfl]
  exact State.store_mem_of_plain rfl (h3.trans_ne (by decide)) (h3.trans_ne (by decide)) _

/-- Two states agree on the items, on a ring's count of records and on the memory. -/
def SameRecords (g : Nat) (s s' : State) : Prop := s'.items = s.items ∧ (s'.ring g).c = (s.ring g).c ∧ s'.mem = s.mem

theorem SameRecords.trans {g : Nat} {s s' s'' : State} (h : SameRecords g s s') (k : SameRecords g s' s'') : SameRecords g s s'' :=
  ⟨k.1.trans h.1, k.2.1.trans h.2.1, k.2.2.trans h.2.2⟩

theorem State.modRing_sameRecords (s : State) (g k : Nat) (f : Ring → Ring) (hf : ∀ r, (f r).c = r.c) : SameRecords g s (s.modRing k f) := by
  refine ⟨rfl, ?_, rfl⟩
  rw [State.modRing_ring]
  split
  case isTrue h => rw [hf, h]
  case isFalse => rfl

theorem State.ringInterrupt_sameRecords (s : State) (g : Nat) (irq : Bool) : SameRecords g s (s.ringInterrupt g irq) := by
  unfold State.ringInterrupt
  dsimp only
  split
  · exact ⟨rfl, rfl, rfl⟩
  · split
    · exact (s.modRing_sameRecords g g (fun r => { r with sinceIrq := 0 }) fun _ => rfl).trans ⟨rfl, rfl, rfl⟩
    · exact s.modRing_sameRecords g g (fun r => { r with sinceIrq := r.sinceIrq + 1 }) fun _ => rfl

theorem State.busySettle_sameRecords (s : State) (g : Nat) : SameRecords g s (s.busySettle g) := by
  unfold State.busySettle
  split
  · exact ⟨rfl, rfl, rfl⟩
  · exact s.modRing_sameRecords g g _ fun _ => rfl

theorem State.setRingState_sameRecords (s : State) (g : Nat) {st : Nat} (h : st ≠ ringError) : SameRecords g s (s.setRingState g st) := by
  unfold State.setRingState
  dsimp only
  rw [if_neg h]
  split
  · exact SameRecords.trans (s' := s.touch (ringHall g)) ⟨rfl, rfl, rfl⟩ (State.modRing_sameRecords _ g g _ fun _ => rfl)
  · exact s.modRing_sameRecords g g _ fun _ => rfl

theorem State.ringSettle_sameRecords (s : State) (g : Nat) : SameRecords g s (s.ringSettle g) := by
  unfold State.ringSettle
  dsimp only
  split
  · exact s.setRingState_sameRecords g (by decide)
  · exact ⟨rfl, rfl, rfl⟩

theorem State.releaseLinks_sameRecords (s : State) (g : Nat) (i : ItemId) : SameRecords g s (s.releaseLinks i) := by
  have hquiet : Quiet s (s.releaseLinks i) := State.releaseLinks_quiet i (Quiet.refl s)
  refine ⟨s.releaseLinks_items i, ?_, ?_⟩
  · rw [hquiet.ring g]
  · rw [hquiet.rest]

/-- With an item goes nothing but the item. -/
theorem State.removeItem_sameRecords (s : State) (g : Nat) (i : ItemId) (hg : i.ring = g) :
    SameRecords g { s with items := s.items.filter fun t => t.id != i } (s.removeItem i) := by
  subst hg
  obtain ⟨hitems, hcount, hmem⟩ := s.releaseLinks_sameRecords i.ring i
  refine SameRecords.trans (s' := { s.releaseLinks i with items := (s.releaseLinks i).items.filter fun t => t.id != i }) ⟨?_, hcount, hmem⟩
    (State.busySettle_sameRecords _ _)
  rw [hitems]

/-- What an item's end does once its record and its set entry are written. -/
def State.endBehind (s : State) (t : Item) : State := ((s.countRecord t).removeItem t.id).ringSettle t.id.ring

theorem State.endItem_of_record {s : State} {t : Item} (h : s.canRecord t.id.ring = true) :
    s.endItem t = (((s.writeRecord t).applySet t).endBehind t).settleWaits := by
  simp only [State.endItem, h, if_true]
  rfl

theorem State.endBehind_sameRecords (s : State) (t : Item) :
    SameRecords t.id.ring
      { (s.modRing t.id.ring fun r => { r with c := r.c + 1 }).wroteBack t.id.ring with items := s.items.filter fun u => u.id != t.id }
      (s.endBehind t) := by
  obtain ⟨hitems, hcount, hmem⟩ := State.ringInterrupt_sameRecords
    ((s.modRing t.id.ring fun r => { r with c := r.c + 1 }).wroteBack t.id.ring) t.id.ring (descIrq t.desc)
  have hrings := State.wroteBack_items (s.modRing t.id.ring fun r => { r with c := r.c + 1 }) t.id.ring
  refine SameRecords.trans (s' := { s.countRecord t with items := (s.countRecord t).items.filter fun u => u.id != t.id }) ⟨?_, hcount, hmem⟩
    ((State.removeItem_sameRecords _ _ t.id rfl).trans (State.ringSettle_sameRecords _ _))
  rw [State.countRecord_eq, hitems, hrings]
  rfl

theorem Memory.readBytes_congr {m m' : Memory} {a n : Nat} (h : ∀ i, i < n → m.read (a + i) = m'.read (a + i)) :
    m.readBytes a n = m'.readBytes a n :=
  List.map_congr_left fun i hi => h i (List.mem_range.mp hi)

theorem le_hostKey {fn a : Nat} (h : addrSpace a = 3) : 3 * 2 ^ 60 ≤ hostKey fn a := by
  have hspace : 3 ≤ a / 2 ^ 60 := by
    unfold addrSpace at h
    rw [Nat.shiftRight_eq_div_pow] at h
    omega
  unfold hostKey
  split
  · omega
  · omega

/-- Host memory holds no context's record. -/
theorem State.not_liveCharge_of_host {s : State} {fn a : Nat} (h : addrSpace a = 3) (i : Nat) : ¬s.liveCharge (hostKey fn a + i) := by
  intro hlive
  have hbounds := hlive.bounds
  have hkey := le_hostKey (fn := fn) h
  omega

/-- The state of `ITEM_COMPLETE` before slices are asked for. -/
theorem exec_itemComplete {s : State} {t : Item} (hitem : s.item t.id = some t) (hsub : t.id.sub = 0) (hcall : t.caller = none)
    (hended : s.itemEnded t = true) (hcut : s.endCut t = false) (hwait : s.recordWaits t.id.ring = false) :
    exec (.itemComplete t.id) s = .next (s.endItem t).askSlices := by
  have hend : s.endAs t = s.endItem t := by simp [State.endAs, hsub, hwait]
  have hclean : s.completeItem t.id .clean = (s.complete t.id).pumpCaller ((s.item t.id).bind (·.caller)) := rfl
  have hnone : (s.item t.id).bind (·.caller) = none := by rw [hitem]; exact hcall
  show Host.Outcome.next (s.completeItem t.id .clean).askSlices = _
  rw [hclean, hnone, State.complete_of_ended hitem hended hcut, hend]
  rfl

theorem State.canRecord_host {s : State} {g : Nat} (h : s.canRecord g = true) (h3 : addrSpace (ringCompletionBase (s.ring g).entry) = 3) :
    s.hostReachable (s.ring g).function = true ∧ s.hallReaches (ringHall g) 0 = true := by
  simp only [State.canRecord, Bool.and_eq_true, State.recordMemoryHere, addrHome, h3, if_true] at h
  exact ⟨h.1.2, h.2⟩

/-- Settles O16: the record, the set entry and the count in their order, and what stands behind them leaves those alone. -/
theorem itemCompletesWithRecord : Obligations.ItemCompletesWithRecord := by
  unfold Obligations.ItemCompletesWithRecord
  refine ⟨fun s t hitem hsub hcall hended hcan hcut hwait hbase haddr hmet => ?item, fun t elapsed time => ?record⟩
  case item =>
    have hwrote := s.writeRecord_rest t haddr
    have hset := (s.writeRecord t).applySet_rest t
    have hstart : ((s.writeRecord t).applySet t).rings = s.rings ∧ ((s.writeRecord t).applySet t).items = s.items ∧
        ((s.writeRecord t).applySet t).mem = s.mem.writeBytes (hostKey (s.ring t.id.ring).function (s.recordAddr t.id.ring))
          (recordBytes t (Config.freeLong s.free) s.newel.time) := by
      rw [hset, hwrote]
      exact ⟨rfl, rfl, rfl⟩
    obtain ⟨hrings, hitems, hmem⟩ := hstart
    have hcounted : (((s.writeRecord t).applySet t).modRing t.id.ring fun r => { r with c := r.c + 1 }).ring t.id.ring =
        { s.ring t.id.ring with c := (s.ring t.id.ring).c + 1 } := by
      rw [State.modRing_ring, if_pos rfl]
      simp only [State.ring, hrings]
    obtain ⟨hitems', hcount', hmem'⟩ := ((s.writeRecord t).applySet t).endBehind_sameRecords t
    have hend : s.endItem t = ((s.writeRecord t).applySet t).endBehind t := by
      rw [State.endItem_of_record hcan]
      refine State.settleWaits_met fun u hu => ?_
      rw [hitems', hitems] at hu
      exact hmet u (List.mem_of_mem_filter hu)
    have hasked := (s.endItem t).askSlices_rest
    have hkept := (s.endItem t).askSlices_kept
    refine ⟨_, exec_itemComplete hitem hsub hcall hended hcut hwait, ?gone, ?count, fun hback => ?back, Config.freeLong s.free, fun i hi => ?bytes⟩
    case gone =>
      rw [hasked, hend]
      refine List.find?_eq_none.mpr fun u hu => ?_
      rw [hitems'] at hu
      have hne := (List.mem_filter.mp hu).2
      simpa using hne
    case count =>
      rw [hasked, hend]
      refine hcount'.trans ?_
      have hring := congrArg Ring.c hcounted
      rwa [State.ring, ← State.wroteBack_rings _ t.id.ring] at hring
    case back =>
      obtain ⟨hhost, hroute⟩ := State.canRecord_host hcan hbase
      refine (Memory.readBytes_congr fun i _ => hkept.bytes _ (State.not_liveCharge_of_host hback i)).trans ?_
      have hmemBack := State.wroteBack_mem_of_host (s := ((s.writeRecord t).applySet t).modRing t.id.ring fun r => { r with c := r.c + 1 })
        (g := t.id.ring) (by rw [hcounted, hset, hwrote]; exact hhost) (by rw [hset, hwrote]; exact hroute) (by rw [hcounted]; exact hback)
      rw [hcounted] at hmemBack
      rw [hend, hmem']
      refine (congrArg (fun m : Memory => m.readBytes _ 4) hmemBack).trans ?_
      exact Memory.readBytes_writeBytes _ _ _
    case bytes =>
      intro a w hout
      have hlive : ¬(s.endItem t).liveCharge (hostKey (s.ring t.id.ring).function (s.recordAddr t.id.ring) + i) :=
        State.not_liveCharge_of_host haddr i
      refine (hkept.bytes _ hlive).trans ?_
      rw [hend, hmem']
      refine (State.wroteBack_read_outside _ _ (State.not_liveCharge_of_host haddr i) ?_).trans ?_
      · rw [hcounted]
        exact hout
      · refine (congrArg (fun m : Memory => m.read _) hmem).trans ?_
        rw [Memory.read_writeBytes, recordBytes_length, if_pos ⟨Nat.le_add_right _ _, Nat.add_lt_add_left hi _⟩]
        exact congrArg (fun n => List.getD _ n 0) (Nat.add_sub_cancel_left _ i)
  case record =>
    refine ⟨recordBytes_length t elapsed time, ?tag, (recordBytes_bytes t elapsed time).1, (recordBytes_bytes t elapsed time).2.1, ?ring,
      (recordBytes_bytes t elapsed time).2.2.1, (recordBytes_bytes t elapsed time).2.2.2, ?elapsedBytes, fun l h hl => Item.looms_of_loomByte h hl,
      fun l hsome hall => Item.loomByte_eq hsome hall, fun hnone => ?noLoom, fun hlt => ?moved, ?timeBytes, fun hfail hok => ?clean, fun hfailed => if_pos hfailed⟩
    case tag =>
      rw [recordBytes_tag, leNat_leBytes]
      exact Nat.mod_eq_of_lt (descId t.desc).isLt
    case ring =>
      rw [recordBytes_ring, leNat_leBytes]
      norm_num
    case elapsedBytes =>
      rw [recordBytes_elapsed, leNat_leBytes]
      norm_num
    case noLoom => rw [Item.loomByte, hnone]
    case moved =>
      rw [recordBytes_moved, leNat_leBytes]
      exact Nat.mod_eq_of_lt hlt
    case timeBytes =>
      rw [recordBytes_time, leNat_leBytes]
      exact Nat.mod_eq_of_lt time.isLt
    case clean =>
      rw [Item.finalStatus, hok]
      rfl

end Sys2Proof.Machine
end

section
/-!
The end of a LOAD piece whose hall field names no hall: its loom store's address then lies in the management space.
-/
namespace Sys2Proof.Machine
open Sys2Proof.Tests

/-- A LOAD piece of the one-element matrix command, for a warp block, with hall number 40. -/
def strayPiece : Piece := ⟨id0, 0, 0, .load, .forward, 40, 0, true, []⟩

/-- The module with that piece running on the load queue of loom 0 of hall 0, and a byte 1 in the warp window. -/
def strayLoad : State :=
  { holding multiplying with
    mem := [(galleryAddr 0 0x1001000, 1)], lanes := [(laneKey 0 0 .load .forward, [strayPiece])]
    sel := [(selKey 0 0 .load, ⟨.forward, 0, some .forward⟩)] }

/-- What is fetched would stand at the base of space 5, and the byte there is not a count of a context's record. -/
theorem strayLoad_room : strayLoad.partRoom mat1 strayPiece = some (5 * 2 ^ 60) := by decide +kernel

theorem strayLoad_data : 0 < (strayLoad.partData mat1 strayPiece).length ∧ (strayLoad.partData mat1 strayPiece).getD 0 0 = 1 := by decide +kernel

theorem strayLoad_not_chargeByte : ¬strayLoad.chargeByte (5 * 2 ^ 60) := by
  rintro ⟨c, hlo, hhi⟩
  have hbase : strayLoad.ctxAddr c = 2 ^ 60 + (c / 1536) * 2 ^ 57 + c % 1536 * 512 := by
    have hreset : (strayLoad.hall (c / 1536)).treadle.ctxBase.toNat = 0 := rfl
    rw [State.ctxAddr, hreset, galleryAddr, Nat.shiftLeft_eq, Nat.zero_mul, Nat.zero_add]
  rw [hbase] at hlo hhi
  omega

/-- Refutes O15: a LOAD piece with hall number 40 finds its room at the base of space 5, so its bytes are written to the registers of the module
pages and the memory stays as it was. -/
theorem not_dobbySelectorChooses : ¬ Obligations.DobbySelectorChooses := by
  unfold Obligations.DobbySelectorChooses
  rintro ⟨-, hpiece⟩
  obtain ⟨s', hexec, -, -, -, -, hload⟩ := hpiece strayLoad 0 0 .load .forward strayPiece [] (by decide +kernel) (by decide +kernel)
    (by decide +kernel) (by decide +kernel) (by unfold State.waitsMet; decide +kernel) rfl
    (fun _ t ht => by
      obtain rfl : multiplying = t := Option.some.inj ((by decide +kernel : strayLoad.item strayPiece.item = some multiplying).symm.trans ht)
      decide +kernel)
  obtain ⟨hbytes, -⟩ := hload rfl multiplying mat1 (5 * 2 ^ 60) (by decide +kernel) (by decide +kernel) rfl strayLoad_room
  have hread := hbytes 0 strayLoad_data.1 strayLoad_not_chargeByte
  have hstate : s' = (strayLoad.completePiece 0 0 .load).askSlices := (Host.Outcome.next.inj hexec).symm
  rw [strayLoad_data.2, hstate] at hread
  exact absurd hread (by decide +kernel)

end Sys2Proof.Machine
end

section
/-!
A command that waits for room in a lane, and goes on (R143).
-/
namespace Sys2Proof.Machine

/-- A command with one piece left whose lane has room: the piece enters it and the command is parked no more. -/
theorem State.emitPieces_of_last {s : State} {t : Item} {p : Piece} (hitem : s.item t.id = some t) (hemit : t.emit = [p])
    (hroom : (s.lane p.key).length < 64) : s.emitPieces t.id =
      ((s.setLane p.key (s.lane p.key ++ [p])).modItem t.id fun u => { u with emit := [] }).modRing t.id.ring fun r => { r with parked := none } := by
  have hpush : s.pushPieces [p] = (s.setLane p.key (s.lane p.key ++ [p]), []) := if_pos hroom
  simp only [State.emitPieces, hitem, hemit, hpush]
  rfl

theorem State.waitsMet_modItem {s : State} (h : s.waitsMet) (i : ItemId) (f : Item → Item) (hf : ∀ u, (f u).waitMet = u.waitMet) :
    (s.modItem i f).waitsMet := by
  intro u hu
  obtain ⟨v, hv, rfl⟩ := List.mem_map.mp hu
  split
  · exact (hf v).trans (h v hv)
  · exact h v hv

/-- Settles O14: the piece enters its lane, nothing waits on a knot, and no call is to be gone on with. -/
theorem parkedCommandGoesOn : Obligations.ParkedCommandGoesOn := by
  unfold Obligations.ParkedCommandGoesOn
  intro s g t p hparked hitem hcall hring hruns hemit hroom hmet
  have hgo := State.emitPieces_of_last hitem hemit hroom
  have hmet' : (s.emitPieces t.id).waitsMet := by
    rw [hgo]
    exact State.waitsMet_modItem (s := s.setLane p.key (s.lane p.key ++ [p])) hmet t.id _ fun _ => rfl
  have hresume : s.resumeRing g = s.emitPieces t.id := by
    have hnone : (s.item t.id).bind (·.caller) = none := by rw [hitem]; exact hcall
    simp only [State.resumeRing, hparked, hruns, Bool.not_true, Bool.false_eq_true, if_false, hnone]
    exact State.settleWaits_met hmet'
  have hquiet : Quiet s (s.emitPieces t.id) := State.emitPieces_quiet t.id (Quiet.refl s)
  have hasked := (s.resumeRing g).askSlices_rest
  refine ⟨_, rfl, ?lane, ?ring, (hquiet.kept.trans (hresume ▸ (s.resumeRing g).askSlices_kept)).keptBytes, ?knots⟩
  case lane =>
    rw [hasked, hresume, hgo]
    have hset := s.setLane_lane p.key p.key (s.lane p.key ++ [p])
    rw [if_pos rfl] at hset
    exact hset
  case ring =>
    rw [hasked, hresume, hgo]
    have hset := State.modRing_ring ((s.setLane p.key (s.lane p.key ++ [p])).modItem t.id fun u => { u with emit := [] }) t.id.ring g
      fun r => { r with parked := none }
    rw [if_pos hring] at hset
    exact congrArg Ring.parked hset
  case knots => rw [hasked, hresume, hquiet.knots]

end Sys2Proof.Machine
end

section
/-!
What dispatching a command leaves alone: `Grown`, that items are only added and keep what they are, and `Emits`, what the treadle may change while it
reads ahead, dispatches and emits commands.
-/
namespace Sys2Proof.Machine

/-! ### Items are added behind those there -/

/-- Every item of the one state is in the other, at its place, with what it keeps; new items stand behind them. -/
def Grown (s s' : State) : Prop := ∃ old new, s'.items = old ++ new ∧ List.Forall₂ Item.Fate s.items old

theorem Fates.grown {s s' : State} (h : Fates s s') : Grown s s' := ⟨s'.items, [], (List.append_nil _).symm, h⟩

theorem Grown.refl (s : State) : Grown s s := (Fates.refl s).grown

theorem Grown.of_items {s s' : State} {l : List Item} (h : s'.items = s.items ++ l) : Grown s s' := ⟨s.items, l, h, Fates.refl s⟩

theorem Grown.trans {s s' s'' : State} (h : Grown s s') (k : Grown s' s'') : Grown s s'' := by
  obtain ⟨old, new, hitems, hfates⟩ := h
  obtain ⟨old', new', hitems', hfates'⟩ := k
  rw [hitems] at hfates'
  have hold := List.forall₂_take old.length hfates'
  rw [List.take_left] at hold
  have htrans : Fates { s with items := s.items } { s with items := old'.take old.length } :=
    Fates.trans (s := { s with items := s.items }) (s' := { s with items := old }) (s'' := { s with items := old'.take old.length }) hfates hold
  exact ⟨old'.take old.length, old'.drop old.length ++ new', by rw [hitems', ← List.append_assoc, List.take_append_drop], htrans⟩

theorem Grown.item {s s' : State} (h : Grown s s') {i : ItemId} {t : Item} (hi : s.item i = some t) :
    ∃ u, s'.item i = some u ∧ Item.Fate t u := by
  obtain ⟨old, new, hitems, hfates⟩ := h
  obtain ⟨u, hu, hfate⟩ := Fates.item (s := s) (s' := { s' with items := old }) hfates hi
  refine ⟨u, ?_, hfate⟩
  have hfind : old.find? (fun t => t.id == i) = some u := hu
  rw [State.item, hitems, List.find?_append, hfind]
  rfl

/-! ### What the treadle changes while it emits -/

/-- What the treadle may change while it reads ahead, dispatches and emits: what is quiet, the rail keepers as a hall leaves IDLE, the ledgers, and the
granules and stream positions of what it has read. -/
structure Emits (s s' : State) : Prop where
  rest : s' = { s with
    out := s'.out, rings := s'.rings, busyAt := s'.busyAt, items := s'.items, lanes := s'.lanes, streams := s'.streams, flights := s'.flights
    xprHeld := s'.xprHeld, colls := s'.colls, txs := s'.txs, halls := s'.halls, ledgers := s'.ledgers }
  charged : Kept s s'
  ring : ∀ g, s'.ring g = { s.ring g with parked := (s'.ring g).parked }
  grown : Grown s s'

theorem Emits.refl (s : State) : Emits s s := ⟨rfl, Kept.refl s, fun _ => rfl, Grown.refl s⟩

theorem Emits.trans {s s' s'' : State} (h : Emits s s') (k : Emits s' s'') : Emits s s'' := by
  refine ⟨?_, h.charged.trans k.charged, fun g => ?_, h.grown.trans k.grown⟩
  · rw [k.rest, h.rest]
  · rw [k.ring g, h.ring g]

theorem Quiet.emits {s s' : State} (h : Quiet s s') (k : Fates s s') : Emits s s' := by
  refine ⟨?_, h.kept, h.ring, k.grown⟩
  rw [h.rest]

theorem Emits.foldl {α : Type} {f : State → α → State} (hf : ∀ s a, Emits s (f s a)) (l : List α) (s : State) : Emits s (l.foldl f s) := by
  induction l generalizing s with
  | nil => exact Emits.refl s
  | cons a l ih => exact (hf s a).trans (ih (f s a))

theorem Emits.knots {s s' : State} (h : Emits s s') : s'.knots = s.knots := by rw [h.rest]
theorem Emits.mod {s s' : State} (h : Emits s s') : s'.mod = s.mod := by rw [h.rest]

theorem State.modKeeper_ctxAddr (s : State) (h : Nat) (f : Keeper → Keeper) (c : Nat) : (s.modKeeper h f).ctxAddr c = s.ctxAddr c := by
  rw [State.ctxAddr, State.modKeeper_hall]
  split
  case isTrue hh => rw [hh]; rfl
  case isFalse => rfl

theorem State.modKeeper_kept (s : State) (h : Nat) (f : Keeper → Keeper) : Kept s (s.modKeeper h f) :=
  ⟨⟨fun _ => rfl, s.modKeeper_ctxAddr h f, fun _ _ => rfl⟩, rfl, rfl⟩

theorem State.modKeeper_emits (s : State) (h : Nat) (f : Keeper → Keeper) : Emits s (s.modKeeper h f) :=
  ⟨rfl, s.modKeeper_kept h f, fun _ => rfl, Grown.refl s⟩

theorem State.leaveIdle_emits (s : State) (h : Nat) : Emits s (s.leaveIdle h) := by
  unfold State.leaveIdle
  split
  · exact (s.modKeeper_emits h _).trans (State.modKeeper_emits _ h _)
  · exact Emits.refl s

theorem State.touch_emits (s : State) (h : Nat) : Emits s (s.touch h) :=
  ⟨rfl, Kept.of_fields rfl rfl rfl rfl rfl rfl, fun _ => rfl, Grown.refl s⟩

theorem State.request_emits (s : State) (h : Nat) (r : Requester) (tte : Option Nat) (via : Option Block512) (l : List (Nat × Nat × Bool)) :
    Emits s (s.request h r tte via l) :=
  ⟨rfl, Kept.of_fields rfl rfl rfl rfl rfl rfl, fun _ => rfl, Grown.refl s⟩

theorem State.requestOperands_emits (s : State) (t : Item) : Emits s (s.requestOperands t) :=
  Emits.foldl (fun s _ => s.request_emits _ _ _ _ _) _ s

@[simp] theorem State.pushPieces_items (s : State) (ps : List Piece) : (s.pushPieces ps).1.items = s.items := by
  induction ps generalizing s with
  | nil => rfl
  | cons p ps ih =>
    unfold State.pushPieces
    split
    · exact ih (s.setLane p.key (s.lane p.key ++ [p]))
    · rfl

theorem State.emitPieces_fates (s : State) (i : ItemId) : Fates s (s.emitPieces i) := by
  unfold State.emitPieces
  split
  · exact Fates.refl s
  · next t _ =>
    refine Fates.map_if (i := i) (f := fun u => { u with emit := (s.pushPieces t.emit).2 }) (fun _ => ⟨rfl, rfl, rfl, fun h => h⟩) ?_
    exact congrArg _ (s.pushPieces_items t.emit)

theorem State.emitPieces_emits (s : State) (i : ItemId) : Emits s (s.emitPieces i) :=
  (State.emitPieces_quiet i (Quiet.refl s)).emits (s.emitPieces_fates i)

theorem State.settleWaits_emits (s : State) : Emits s s.settleWaits := (State.settleWaits_quiet (Quiet.refl s)).emits s.settleWaits_fates

/-- A command's item in the list of items, before anything is requested or emitted for it. -/
def State.enrolled (s : State) (c : Option ItemId) (id : ItemId) (d : Block512) : State :=
  let s' := (s.leaveIdle (ringHall id.ring)).touch (ringHall id.ring)
  { s' with items := s'.items ++ [{ s'.newItem id d with caller := c }] }

theorem State.newItem_name (s : State) (id : ItemId) (d : Block512) : (s.newItem id d).name = (id, ringHall id.ring, d) := by
  unfold State.newItem
  dsimp only
  split
  · rfl
  · rfl
  · rfl

theorem State.enrolled_emits (s : State) (c : Option ItemId) (id : ItemId) (d : Block512) : Emits s (s.enrolled c id d) := by
  refine ((s.leaveIdle_emits _).trans (State.touch_emits _ (ringHall id.ring))).trans ⟨rfl, Kept.of_fields rfl rfl rfl rfl rfl rfl, fun _ => rfl, ?_⟩
  exact Grown.of_items rfl

theorem State.dispatchFor_eq (s : State) (c : Option ItemId) (id : ItemId) (d : Block512) : s.dispatchFor c id d =
    let t : Item := { ((s.leaveIdle (ringHall id.ring)).touch (ringHall id.ring)).newItem id d with caller := c }
    ((if t.phase = .decided then s.enrolled c id d else (s.enrolled c id d).requestOperands t).emitPieces id).settleWaits := rfl

theorem State.dispatchFor_emits_enrolled (s : State) (c : Option ItemId) (id : ItemId) (d : Block512) :
    Emits (s.enrolled c id d) (s.dispatchFor c id d) := by
  rw [State.dispatchFor_eq]
  dsimp only
  refine Emits.trans (Emits.trans ?_ (State.emitPieces_emits _ id)) (State.settleWaits_emits _)
  split
  · exact Emits.refl _
  · exact State.requestOperands_emits _ _

theorem State.dispatchFor_emits (s : State) (c : Option ItemId) (id : ItemId) (d : Block512) : Emits s (s.dispatchFor c id d) :=
  (s.enrolled_emits c id d).trans (s.dispatchFor_emits_enrolled c id d)

theorem State.leaveIdle_items (s : State) (h : Nat) : (s.leaveIdle h).items = s.items := by
  unfold State.leaveIdle
  split
  · rfl
  · rfl

/-- A command that is dispatched under a new id is there, with its descriptor and its call. -/
theorem State.dispatchFor_item {s : State} {c : Option ItemId} {id : ItemId} {d : Block512} (hnew : ∀ u ∈ s.items, u.id ≠ id) :
    ∃ u, (s.dispatchFor c id d).item id = some u ∧ u.desc = d ∧ u.caller = c := by
  have hname := ((s.leaveIdle (ringHall id.ring)).touch (ringHall id.ring)).newItem_name id d
  have hid : (((s.leaveIdle (ringHall id.ring)).touch (ringHall id.ring)).newItem id d).id = id := congrArg Prod.fst hname
  have hdesc : (((s.leaveIdle (ringHall id.ring)).touch (ringHall id.ring)).newItem id d).desc = d := congrArg (fun n => n.2.2) hname
  have hitem : (s.enrolled c id d).item id = some { ((s.leaveIdle (ringHall id.ring)).touch (ringHall id.ring)).newItem id d with caller := c } := by
    have hitems : (s.enrolled c id d).items =
        s.items ++ [{ ((s.leaveIdle (ringHall id.ring)).touch (ringHall id.ring)).newItem id d with caller := c }] :=
      congrArg (· ++ _) (s.leaveIdle_items _)
    have hnone : s.items.find? (fun t => t.id == id) = none := List.find?_eq_none.mpr fun u hu => by simpa using hnew u hu
    rw [State.item, hitems, List.find?_append, hnone]
    simp [hid]
  obtain ⟨u, hu, hfate⟩ := (s.dispatchFor_emits_enrolled c id d).grown.item hitem
  exact ⟨u, hu, (congrArg (fun n => n.2.2) hfate.name).trans hdesc, hfate.caller⟩

end Sys2Proof.Machine
end

section
/-!
The treadle's fetch (R132, R135).
-/
namespace Sys2Proof.Machine

/-! ### Fields of a register -/

theorem field_setField {n : Nat} (x : BitVec n) {lo w : Nat} (h : lo + w ≤ n) (v : BitVec w) : field (setField x lo w v) lo w = v := by
  refine BitVec.eq_of_getLsbD_eq fun i hi => ?_
  have hin : lo + i < n := by omega
  simp [field, setField, hi, hin]

theorem fieldNat_eq_field {n : Nat} (x : BitVec n) (lo w : Nat) : fieldNat x lo w = (field x lo w).toNat := by
  simp [fieldNat, field]

theorem fieldNat_setField {n : Nat} (x : BitVec n) {lo w : Nat} (h : lo + w ≤ n) (v : BitVec w) :
    fieldNat (setField x lo w v) lo w = v.toNat := by rw [fieldNat_eq_field, field_setField x h]

/-! ### A ring enters a state -/

/-- A ring's new state in its entry, and what is noted of its hall's work; the event of a ring in ERROR is behind that. -/
def State.ringStateSet (s : State) (g st : Nat) : State :=
  (if (ringState (s.ring g).entry == ringEnabled && (s.ring g).p != (s.ring g).f) || !(s.ring g).ahead.isEmpty then s.touch (ringHall g)
    else s).modRing g fun r => { r with entry := setField r.entry 136 2 (BitVec.ofNat 2 st) }

theorem State.setRingState_eq (s : State) (g st : Nat) : s.setRingState g st =
    if st = ringError then
      ((s.ringStateSet g st).modTreadle (ringHall g) fun t => { t with evtRing := BitVec.ofNat 11 (g % 2048) }).event (pgTreadle (ringHall g)) 1
    else s.ringStateSet g st := rfl

theorem State.ringStateSet_rest (s : State) (g st : Nat) :
    s.ringStateSet g st = { s with rings := (s.ringStateSet g st).rings, busyAt := (s.ringStateSet g st).busyAt } := by
  unfold State.ringStateSet
  split
  · rfl
  · rfl

theorem State.ringStateSet_ring (s : State) (g st k : Nat) : (s.ringStateSet g st).ring k =
    if g = k then { s.ring g with entry := setField (s.ring g).entry 136 2 (BitVec.ofNat 2 st) } else s.ring k := by
  unfold State.ringStateSet
  rw [State.modRing_ring]
  split
  · split
    · rfl
    · rfl
  · split
    · rfl
    · rfl

theorem State.setRingState_rings (s : State) (g st : Nat) : (s.setRingState g st).rings = (s.ringStateSet g st).rings := by
  rw [State.setRingState_eq]
  split
  · rw [State.event_rest]
    rfl
  · rfl

theorem State.setRingState_ring (s : State) (g st : Nat) :
    (s.setRingState g st).ring g = { s.ring g with entry := setField (s.ring g).entry 136 2 (BitVec.ofNat 2 st) } := by
  rw [State.ring, State.setRingState_rings]
  exact (s.ringStateSet_ring g st g).trans (if_pos rfl)

theorem State.setRingState_state (s : State) (g : Nat) {st : Nat} (h : st < 4) : ringState ((s.setRingState g st).ring g).entry = st := by
  rw [State.setRingState_ring]
  refine (fieldNat_setField _ (by decide) _).trans ?_
  rw [BitVec.toNat_ofNat]
  exact Nat.mod_eq_of_lt h

theorem State.setRingState_items (s : State) (g st : Nat) : (s.setRingState g st).items = s.items := by
  have hset : (s.ringStateSet g st).items = s.items := by rw [State.ringStateSet_rest]
  rw [State.setRingState_eq]
  split
  · rw [State.event_rest]
    exact hset
  · exact hset

theorem State.setRingState_evtRing (s : State) (g : Nat) :
    ((s.setRingState g ringError).hall (ringHall g)).treadle.evtRing = BitVec.ofNat 11 (g % 2048) := by
  have hhall := (s.ringStateSet g ringError).modTreadle_hall (ringHall g) (ringHall g) fun t => { t with evtRing := BitVec.ofNat 11 (g % 2048) }
  rw [if_pos rfl] at hhall
  rw [State.setRingState_eq, if_pos rfl, State.event_rest]
  exact congrArg (fun hl : Hall => hl.treadle.evtRing) hhall

/-! ### What the treadle serves next -/

theorem State.nextRing_mem {s : State} {h g : Nat} (hnext : s.nextRing h = some g) : ringHall g = h ∧ s.fetchable g = true := by
  have hmem : g ∈ (s.rings.map (·.1)).filter fun g => ringHall g == h && s.fetchable g := by
    unfold State.nextRing at hnext
    dsimp only at hnext
    split at hnext
    case h_1 g' hfind =>
      obtain rfl := Option.some.inj hnext
      exact List.mem_of_find?_eq_some hfind
    case h_2 => exact List.mem_of_mem_head? hnext
  simpa using (List.mem_filter.mp hmem).2

theorem Ring.mayRead_iff (r : Ring) :
    r.mayRead = true ↔ ringState r.entry = ringEnabled ∧ r.p ≠ r.f ∧ (r.f - r.h).toNat < ringSize r.entry := by
  simp [Ring.mayRead, and_assoc]

/-- A ring of which the treadle's turn is noted. -/
def State.served (s : State) (g : Nat) : State := s.modTreadle (ringHall g) fun t => { t with lastServed := g % 2048 }

theorem State.served_hall (s : State) (g k : Nat) : ∃ n, (s.served g).hall k = { s.hall k with treadle := { (s.hall k).treadle with lastServed := n } } := by
  have hhall := s.modTreadle_hall (ringHall g) k fun t => { t with lastServed := g % 2048 }
  split at hhall
  case isTrue hk =>
    subst hk
    exact ⟨g % 2048, hhall⟩
  case isFalse => exact ⟨(s.hall k).treadle.lastServed, hhall⟩

theorem State.served_ctxAddr (s : State) (g c : Nat) : (s.served g).ctxAddr c = s.ctxAddr c := by
  obtain ⟨n, hhall⟩ := s.served_hall g (c / 1536)
  rw [State.ctxAddr, hhall]
  rfl

theorem State.served_kept (s : State) (g : Nat) : Kept s (s.served g) := ⟨⟨fun _ => rfl, s.served_ctxAddr g, fun _ _ => rfl⟩, rfl, rfl⟩

theorem State.served_hitsZeroing (s : State) (g a n : Nat) : (s.served g).hitsZeroing a n = s.hitsZeroing a n := by
  obtain ⟨m, hhall⟩ := s.served_hall g (addrHall a)
  rw [State.hitsZeroing, hhall]
  rfl

theorem State.hitsZeroing_congr {s s' : State} (h : s'.halls = s.halls) (a n : Nat) : s'.hitsZeroing a n = s.hitsZeroing a n := by
  simp only [State.hitsZeroing, State.hall, h]

/-- A change that leaves the window tables and the zeroing alone leaves what a command's operand lists wait for. -/
theorem State.operandsWait_congr {s s' : State} (hwin : s'.windows = s.windows) (hzero : ∀ a n, s'.hitsZeroing a n = s.hitsZeroing a n) (d : Block512) :
    s'.operandsWait d = s.operandsWait d := by
  simp only [State.operandsWait, hzero, State.namedWindows, State.winOf, State.window, hwin]

/-! ### Reading ahead -/

theorem State.readAhead_of_idle {s : State} {g n : Nat} (h : (s.ring g).mayRead = false ∨ 8 ≤ (s.ring g).ahead.length) : State.readAhead g n s = s := by
  cases n with
  | zero => rfl
  | succ n =>
    have hno : ((s.ring g).mayRead && decide ((s.ring g).ahead.length < 8) && !s.descriptorWaits g) = false := by
      rcases h with hmay | hlong
      · simp [hmay]
      · simp [Nat.not_lt.mpr hlong]
    simp [State.readAhead, hno]

theorem State.readAhead_of_unreadable {s : State} {g n : Nat} (hmay : (s.ring g).mayRead = true) (hnone : (s.ring g).ahead = [])
    (hwaits : s.descriptorWaits g = false) (hread : s.descriptorReadable g = false) :
    State.readAhead g (n + 1) s = s.setRingState g ringError := by
  simp [State.readAhead, hmay, hnone, hwaits, hread]

/-- A ring with one descriptor read ahead. -/
def State.readOne (s : State) (g : Nat) : State :=
  (s.modRing g fun r =>
    { r with f := r.f + 1, ahead := r.ahead ++ [s.descriptorAt g], busySince := r.busySince.orElse fun _ => some s.newel.time }).treadleRequest
      (ringHall g) (.descriptor g (s.ring g).f.toNat) false (descriptorAddr (s.ring g).entry (s.ring g).f.toNat) 64

theorem State.readOne_ring (s : State) (g : Nat) : (s.readOne g).ring g =
    { s.ring g with f := (s.ring g).f + 1, ahead := (s.ring g).ahead ++ [s.descriptorAt g]
                    busySince := (s.ring g).busySince.orElse fun _ => some s.newel.time } := by
  have hring := s.modRing_ring g g fun r =>
    { r with f := r.f + 1, ahead := r.ahead ++ [s.descriptorAt g], busySince := r.busySince.orElse fun _ => some s.newel.time }
  rw [if_pos rfl] at hring
  exact hring

theorem State.readOne_rest (s : State) (g : Nat) : s.readOne g = { s with rings := (s.readOne g).rings, ledgers := (s.readOne g).ledgers } := rfl

theorem State.readAhead_of_one {s : State} {g n : Nat} (hmay : (s.ring g).mayRead = true) (hnone : (s.ring g).ahead = [])
    (hlast : (s.ring g).p = (s.ring g).f + 1) (hwaits : s.descriptorWaits g = false) (hread : s.descriptorReadable g = true) :
    State.readAhead g (n + 1) s = s.readOne g := by
  have hstep : State.readAhead g (n + 1) s = State.readAhead g n (s.readOne g) := by
    simp only [State.readAhead, hmay, hnone, hwaits, hread, List.length_nil]
    rfl
  rw [hstep]
  refine State.readAhead_of_idle (Or.inl ?_)
  rw [State.readOne_ring]
  simp [Ring.mayRead, hlast]

/-- A descriptor in host memory needs no ledger (R214). -/
theorem State.readOne_ledgerBusy {s : State} {g : Nat} (h3 : addrSpace (descriptorAddr (s.ring g).entry (s.ring g).f.toNat) = 3) (h : Nat)
    (f : Requester → Bool) : (s.readOne g).ledgerBusy h f = s.ledgerBusy h f := by
  have hspans : ledgerSpans false [(descriptorAddr (s.ring g).entry (s.ring g).f.toNat, 64)] = [] := by simp [ledgerSpans, h3]
  have hsame : (s.readOne g).ledger h = s.ledger h := by
    unfold State.readOne State.treadleRequest
    rw [hspans, State.request, State.modLedger_ledger]
    split
    case isTrue hh =>
      subst hh
      simp only [List.flatMap_nil, List.zipIdx_nil, List.map_nil, List.append_nil, List.length_nil, Nat.add_zero]
      rfl
    case isFalse => rfl
  simp only [State.ledgerBusy, hsame]

/-! ### A descriptor is expanded -/

/-- The state in which a fetch expands a descriptor: the turn noted, and what could be read ahead read. -/
def State.readyToExpand (s : State) (g : Nat) : State := (State.readAhead g 8 (s.served g)).noteHeld g

theorem State.noteHeld_ring (s : State) (g k : Nat) : (s.noteHeld g).ring k = s.ring k := rfl

/-- What a fetch does with what it has read ahead. -/
def State.expandFirst (s : State) (g : Nat) : State :=
  match (s.ring g).ahead with
  | [] => s
  | d :: ds =>
    if s.ledgerBusy (ringHall g) (Requester.ofRing g) || s.operandsWait d then s
    else (s.modRing g fun r => { r with ahead := ds }).dispatch ⟨g, ((s.ring g).f - BitVec.ofNat 32 (s.ring g).ahead.length).toNat, 0⟩ d

theorem State.noteHeld_ledgerBusy (s : State) (g h : Nat) (f : Requester → Bool) : (s.noteHeld g).ledgerBusy h f = s.ledgerBusy h f := rfl

theorem State.fetchFrom_eq (s : State) (g : Nat) : s.fetchFrom g .clean .clean = (s.readyToExpand g).expandFirst g := rfl

theorem State.expandFirst_of_none {s : State} {g : Nat} (h : (s.ring g).ahead = []) : s.expandFirst g = s := by
  rw [State.expandFirst, h]

theorem State.expandFirst_of_ahead {s : State} {g : Nat} {d : Block512} {ds : List Block512} (hahead : (s.ring g).ahead = d :: ds)
    (hbusy : s.ledgerBusy (ringHall g) (Requester.ofRing g) = false) (hwait : s.operandsWait d = false) :
    s.expandFirst g = (s.modRing g fun r => { r with ahead := ds }).dispatch
      ⟨g, ((s.ring g).f - BitVec.ofNat 32 (s.ring g).ahead.length).toNat, 0⟩ d := by
  rw [State.expandFirst, hahead]
  dsimp only
  rw [hbusy, hwait]
  rfl

theorem exec_descriptorFetch {s : State} {h g : Nat} {ecc : Ecc} (hruns : s.hallRuns h = true) (hnext : s.nextRing h = some g) :
    exec (.descriptorFetch h ecc) s =
      .next (if ecc.bad = true then s.setRingState g ringError else (s.readyToExpand g).expandFirst g).askSlices := by
  have hfetch : s.fetch h ecc .clean .clean = if ecc.bad = true then s.setRingState g ringError else (s.readyToExpand g).expandFirst g := by
    simp only [State.fetch, hruns, if_true, hnext, State.fetchFrom_eq]
  exact congrArg (fun u : State => Host.Outcome.next u.askSlices) hfetch

theorem State.askSlices_ring (s : State) (g : Nat) : s.askSlices.ring g = s.ring g := by
  rw [State.askSlices_rest]
  rfl

theorem State.askSlices_items (s : State) : s.askSlices.items = s.items := by rw [State.askSlices_rest]

theorem State.askSlices_hall (s : State) (h : Nat) : s.askSlices.hall h = s.hall h := by
  rw [State.askSlices_rest]
  rfl

theorem State.askSlices_item (s : State) (i : ItemId) : s.askSlices.item i = s.item i := by
  rw [State.askSlices_rest]
  rfl

/-- The first descriptor of those read ahead is expanded: the count stays, the others stay, and the item is there. -/
theorem State.dispatch_ahead {s u : State} (hkept : Kept s u) (hitems : u.items = s.items) (g : Nat) (ds : List Block512) (i : ItemId) (d : Block512) :
    let s' := ((u.modRing g fun r => { r with ahead := ds }).dispatch i d).askSlices
    (s'.ring g).f = (u.ring g).f ∧ (s'.ring g).ahead = ds ∧ (∀ x, ¬s.chargeByte x → s'.mem.read x = s.mem.read x) ∧
      ((∀ v ∈ s.items, v.id ≠ i) → ∃ v, s'.item i = some v ∧ v.desc = d) := by
  have hemits := (u.modRing g fun r => { r with ahead := ds }).dispatchFor_emits none i d
  have hring := u.modRing_ring g g fun r => { r with ahead := ds }
  rw [if_pos rfl] at hring
  have hall : Kept s ((u.modRing g fun r => { r with ahead := ds }).dispatch i d).askSlices :=
    (hkept.trans (s' := u) (s'' := u.modRing g fun r => { r with ahead := ds }) (Kept.of_fields rfl rfl rfl rfl rfl rfl)).trans
      (hemits.charged.trans (State.askSlices_kept _))
  refine ⟨?count, ?ahead, hall.keptBytes.1, fun hnew => ?item⟩
  case count => rw [State.askSlices_ring, State.dispatch, hemits.ring g, hring]
  case ahead => rw [State.askSlices_ring, State.dispatch, hemits.ring g, hring]
  case item =>
    rw [State.askSlices_item]
    obtain ⟨v, hv, hdesc, -⟩ := State.dispatchFor_item (s := u.modRing g fun r => { r with ahead := ds }) (c := none) (id := i) (d := d)
      (by rw [← hitems] at hnew; exact hnew)
    exact ⟨v, hv, hdesc⟩

/-! ### The cases of a fetch -/

theorem State.readyToExpand_of_one {s : State} {g : Nat} (hmay : (s.ring g).mayRead = true) (hnone : (s.ring g).ahead = [])
    (hlast : (s.ring g).p = (s.ring g).f + 1) (h3 : addrSpace (descriptorAddr (s.ring g).entry (s.ring g).f.toNat) = 3)
    (hread : s.descriptorReadable g = true) : s.readyToExpand g = ((s.served g).readOne g).noteHeld g := by
  have hzero : (s.served g).descriptorWaits g = false := by
    have hspace : s.descriptorWaits g = false := by simp [State.descriptorWaits, State.hitsZeroing, h3]
    exact (s.served_hitsZeroing g _ _).trans hspace
  exact congrArg (·.noteHeld g) (State.readAhead_of_one (s := s.served g) hmay hnone hlast hzero hread)

theorem State.readyToExpand_of_idle {s : State} {g : Nat} (h : (s.ring g).mayRead = false ∨ 8 ≤ (s.ring g).ahead.length) :
    s.readyToExpand g = (s.served g).noteHeld g := congrArg (·.noteHeld g) (State.readAhead_of_idle (s := s.served g) h)

theorem State.readyToExpand_of_unreadable {s : State} {g : Nat} (hmay : (s.ring g).mayRead = true) (hnone : (s.ring g).ahead = [])
    (hzero : s.descriptorWaits g = false) (hread : s.descriptorReadable g = false) :
    s.readyToExpand g = ((s.served g).setRingState g ringError).noteHeld g :=
  congrArg (·.noteHeld g) (State.readAhead_of_unreadable (s := s.served g) hmay hnone ((s.served_hitsZeroing g _ _).trans hzero) hread)

@[simp] theorem State.noteHeld_halls (s : State) (g : Nat) : (s.noteHeld g).halls = s.halls := rfl
theorem State.noteHeld_hall (s : State) (g h : Nat) : (s.noteHeld g).hall h = s.hall h := rfl
@[simp] theorem State.noteHeld_windows (s : State) (g : Nat) : (s.noteHeld g).windows = s.windows := rfl
@[simp] theorem State.noteHeld_items (s : State) (g : Nat) : (s.noteHeld g).items = s.items := rfl
@[simp] theorem State.readOne_halls (s : State) (g : Nat) : (s.readOne g).halls = s.halls := rfl
@[simp] theorem State.readOne_windows (s : State) (g : Nat) : (s.readOne g).windows = s.windows := rfl
@[simp] theorem State.readOne_items (s : State) (g : Nat) : (s.readOne g).items = s.items := rfl
@[simp] theorem State.served_items (s : State) (g : Nat) : (s.served g).items = s.items := rfl

theorem State.readOne_noteHeld_operandsWait (s : State) (g : Nat) (d : Block512) :
    (((s.served g).readOne g).noteHeld g).operandsWait d = s.operandsWait d := by
  have hhalls : (((s.served g).readOne g).noteHeld g).halls = (s.served g).halls :=
    (State.noteHeld_halls _ g).trans (State.readOne_halls _ g)
  have hwindows : (((s.served g).readOne g).noteHeld g).windows = s.windows := (State.noteHeld_windows _ g).trans (State.readOne_windows _ g)
  exact State.operandsWait_congr hwindows (fun a n => (State.hitsZeroing_congr hhalls a n).trans (s.served_hitsZeroing g a n)) d

theorem State.served_noteHeld_operandsWait (s : State) (g : Nat) (d : Block512) : ((s.served g).noteHeld g).operandsWait d = s.operandsWait d := by
  have hwindows : ((s.served g).noteHeld g).windows = s.windows := rfl
  have hhalls : ((s.served g).noteHeld g).halls = (s.served g).halls := rfl
  exact State.operandsWait_congr hwindows (fun a n => (State.hitsZeroing_congr hhalls a n).trans (s.served_hitsZeroing g a n)) d

theorem State.served_noteHeld_kept (s : State) (g : Nat) : Kept s ((s.served g).noteHeld g) :=
  (s.served_kept g).trans (Kept.of_fields rfl rfl rfl rfl rfl rfl)

theorem State.readOne_noteHeld_kept (s : State) (g : Nat) : Kept s (((s.served g).readOne g).noteHeld g) :=
  (s.served_kept g).trans (Kept.of_fields rfl rfl rfl rfl rfl rfl)

theorem State.readOne_noteHeld_ring (s : State) (g : Nat) : (((s.served g).readOne g).noteHeld g).ring g =
    { s.ring g with f := (s.ring g).f + 1, ahead := (s.ring g).ahead ++ [s.descriptorAt g]
                    busySince := (s.ring g).busySince.orElse fun _ => some s.newel.time } := (s.served g).readOne_ring g

/-- Settles O13: nothing to read, one descriptor to read, one that cannot be read, an entry with an error, and what is served. -/
theorem fetchTakesDescriptorF : Obligations.FetchTakesDescriptorF := by
  unfold Obligations.FetchTakesDescriptorF
  refine ⟨fun s h g ecc hruns hnext hecc hbusy => ⟨?one, ?ahead, ?unreadable⟩, fun s h g ecc hruns hnext hecc => ?error, fun s h g hnext => ?turn⟩
  case one =>
    intro hnone hmay hlast h3 hread hwait
    have hready := State.readyToExpand_of_one hmay hnone hlast h3 hread
    have hring : (s.readyToExpand g).ring g = { s.ring g with
        f := (s.ring g).f + 1, ahead := (s.ring g).ahead ++ [s.descriptorAt g], busySince := (s.ring g).busySince.orElse fun _ => some s.newel.time } := by
      rw [hready, State.readOne_noteHeld_ring]
    have hahead : ((s.readyToExpand g).ring g).ahead = s.descriptorAt g :: [] := by rw [hring, hnone]; rfl
    have hcount : ((s.readyToExpand g).ring g).f = (s.ring g).f + 1 := by rw [hring]
    have hfree : (s.readyToExpand g).ledgerBusy (ringHall g) (Requester.ofRing g) = false := by
      have hone := State.readOne_ledgerBusy (s := s.served g) h3 (ringHall g) (Requester.ofRing g)
      rw [hready, State.noteHeld_ledgerBusy, hone]
      exact hbusy
    have hoperands : (s.readyToExpand g).operandsWait (s.descriptorAt g) = false := by
      rw [hready, State.readOne_noteHeld_operandsWait]
      exact hwait
    have hkept : Kept s (s.readyToExpand g) := hready ▸ s.readOne_noteHeld_kept g
    have hid : ((s.readyToExpand g).ring g).f - BitVec.ofNat 32 ((s.readyToExpand g).ring g).ahead.length = (s.ring g).f := by
      simp [hahead, hcount]
    have hspec := State.dispatch_ahead hkept (by simp [hready]) g [] ⟨g, (s.ring g).f.toNat, 0⟩ (s.descriptorAt g)
    rw [hcount] at hspec
    refine ⟨_, ?_, hspec⟩
    rw [exec_descriptorFetch hruns hnext, hecc, if_neg Bool.false_ne_true, State.expandFirst_of_ahead hahead hfree hoperands, hid]
  case ahead =>
    intro d ds hahead hidle hwait
    have hready := State.readyToExpand_of_idle hidle
    have hring : (s.readyToExpand g).ring g = s.ring g := by rw [hready]; rfl
    have hfree : (s.readyToExpand g).ledgerBusy (ringHall g) (Requester.ofRing g) = false := by
      rw [hready, State.noteHeld_ledgerBusy]
      exact hbusy
    have hoperands : (s.readyToExpand g).operandsWait d = false := by
      rw [hready, State.served_noteHeld_operandsWait]
      exact hwait
    have hkept : Kept s (s.readyToExpand g) := hready ▸ s.served_noteHeld_kept g
    have hspec := State.dispatch_ahead hkept (by simp [hready]) g ds ⟨g, ((s.ring g).f - BitVec.ofNat 32 (s.ring g).ahead.length).toNat, 0⟩ d
    rw [hring] at hspec
    refine ⟨_, ?_, hspec⟩
    rw [exec_descriptorFetch hruns hnext, hecc, if_neg Bool.false_ne_true,
      State.expandFirst_of_ahead (hring.symm ▸ hahead) hfree hoperands, hring]
  case unreadable =>
    intro hnone hmay hzero hread
    have hready := State.readyToExpand_of_unreadable hmay hnone hzero hread
    have hring := (s.served g).setRingState_ring g ringError
    have hempty : ((s.readyToExpand g).ring g).ahead = [] := by
      rw [hready, State.noteHeld_ring, hring]
      exact hnone
    refine ⟨_, exec_descriptorFetch hruns hnext, ?state, ?items, ?event⟩
    all_goals rw [hecc, if_neg Bool.false_ne_true, State.expandFirst_of_none hempty, hready]
    case state =>
      rw [State.askSlices_ring, State.noteHeld_ring]
      exact (s.served g).setRingState_state g (by decide)
    case items => rw [State.askSlices_items, State.noteHeld_items, State.setRingState_items, State.served_items]
    case event =>
      rw [State.askSlices_hall, State.noteHeld_hall]
      exact (s.served g).setRingState_evtRing g
  case error =>
    refine ⟨_, exec_descriptorFetch hruns hnext, ?state, ?items⟩
    all_goals rw [if_pos hecc]
    case state =>
      rw [State.askSlices_ring]
      exact s.setRingState_state g (by decide)
    case items => rw [State.askSlices_items, State.setRingState_items]
  case turn =>
    obtain ⟨hhall, hfetch⟩ := State.nextRing_mem hnext
    simp only [State.fetchable, Bool.and_eq_true, Bool.or_eq_true, Bool.not_eq_true', Option.isNone_iff_eq_none, List.isEmpty_eq_false_iff] at hfetch
    obtain ⟨⟨hparked, hheld⟩, hsome | hmay⟩ := hfetch
    · exact ⟨hhall, hparked, hheld, Or.inl hsome.1⟩
    · exact ⟨hhall, hparked, hheld, Or.inr ((s.ring g).mayRead_iff.mp hmay.1)⟩

end Sys2Proof.Machine
end

section
/-!
What a read takes of its tokens (R75, R203, R221).
-/
namespace Sys2Proof.Machine

/-- What taking an operand may change: the granules of the loom stores, and the positions of the streams. -/
def Took (s s' : State) : Prop := s' = { s with full := s'.full, streams := s'.streams }

theorem Took.refl (s : State) : Took s s := rfl

theorem Took.trans {s s' s'' : State} (h : Took s s') (k : Took s' s'') : Took s s'' := by
  unfold Took at h k ⊢
  rw [k, h]

theorem Took.foldl {α : Type} {f : State → α → State} (hf : ∀ s a, Took s (f s a)) (l : List α) (s : State) : Took s (l.foldl f s) := by
  induction l generalizing s with
  | nil => exact Took.refl s
  | cons a l ih => exact (hf s a).trans (ih (f s a))

theorem Took.charged {s s' : State} (h : Took s s') : Charged s s' := by
  unfold Took at h
  rw [h]
  exact ⟨fun _ => rfl, fun _ => rfl, fun _ _ => rfl⟩

theorem State.consume_took (s : State) (t : Item) (r : Read) : Took s (s.consume t r) := by
  unfold State.consume
  split
  · exact Took.foldl (f := fun s (p : Nat × Nat) => s.markEmpty p.1 p.2) (fun _ _ => rfl) _ s
  · split
    · rfl
    · rfl

theorem State.consumeExcept_took (s : State) (t : Item) (left : List Read) (r : Read) : Took s (s.consumeExcept t left r) := by
  unfold State.consumeExcept
  split
  · rfl
  · exact s.consume_took _ _

end Sys2Proof.Machine
end

section
/-!
Arithmetic: the selvedge's instructions (R365), the order of reductions (R116), and the shafts' accumulation and promotion (R87, R89, R95).
-/
namespace Sys2Proof.Machine

/-! ### The selvedge's instructions -/

theorem Regs.q_put (r : Regs) (d j : Nat) (v : W32) : Regs.q (r.put d v) j = if j % 64 = d % 64 then v else r.q j := by
  rw [Regs.q, Regs.put, Table.get_set]
  simp only [Regs.q, eq_comm (a := d % 64)]

theorem State.slvStep_of_present {s : State} {p : Nat} (hready : s.ready = true) (hpresent : s.selvPresent p = true) (op : SlvOp) (d a b c : Nat)
    (imm : W32) : s.slvStep p op d a b c imm = s.modSelv p fun sv => { sv with regs := Regs.step sv.regs op d a b c imm } := by
  rw [State.slvStep, hready, hpresent]
  rfl

/-- An instruction puts its result into register d of its selvedge, and changes nothing else. -/
theorem State.slvStep_slvWrote {s : State} {p : Nat} (hready : s.ready = true) (hpresent : s.selvPresent p = true) (op : SlvOp) (d a b c : Nat)
    (imm : W32) : s.slvWrote (s.slvStep p op d a b c imm) p d
      (op.eval (Regs.q (s.selv p).regs a) (Regs.q (s.selv p).regs b) (Regs.q (s.selv p).regs c) imm) :=
  ⟨Regs.step (s.selv p).regs op d a b c imm, State.slvStep_of_present hready hpresent op d a b c imm, fun j => Regs.q_put _ d j _⟩

theorem times_succ' {α : Type} (f : α → α) (n : Nat) (a : α) : times f (n + 1) a = f (times f n a) := by
  induction n generalizing a with
  | zero => rfl
  | succ n ih => exact ih (f a)

theorem times_eq_repeat {α : Type} (f : α → α) (n : Nat) (a : α) : times f n a = Nat.repeat f n a := by
  induction n with
  | zero => rfl
  | succ n ih => rw [times_succ', ih, Nat.repeat]

/-- Settles O45: each instruction is one operation on the registers; LT and SEL choose by their operands, and REPEAT runs its body in turn. -/
theorem selvedgeInstructions : Obligations.SelvedgeInstructions := by
  unfold Obligations.SelvedgeInstructions
  intro s p d a b c imm hready hpresent q gives
  have hop (op : SlvOp) (x y z : Nat) (i : W32) := State.slvStep_slvWrote hready hpresent op d x y z i
  refine ⟨⟨_, rfl, hop .fma a b c 0⟩, ⟨_, rfl, hop .add a b 0 0⟩, ⟨_, rfl, hop .sub a b 0 0⟩, ⟨_, rfl, hop .mul a b 0 0⟩, ⟨_, rfl, hop .div a b 0 0⟩,
    ⟨_, rfl, hop .sqrt a 0 0 0⟩, ⟨_, rfl, hop .min a b 0 0⟩, ⟨_, rfl, hop .max a b 0 0⟩, ⟨_, rfl, hop .abs a 0 0 0⟩, ⟨_, rfl, hop .neg a 0 0 0⟩,
    fun hlt => ?less, fun hge => ?notLess, fun hsome hnum => ?first, fun hnone => ?second, ⟨_, rfl, hop .const 0 0 0 imm⟩,
    ⟨_, rfl, hop .exp a 0 0 0⟩, ⟨_, rfl, hop .ln a 0 0 0⟩, ⟨_, rfl, hop .pow a b 0 0⟩, fun n body => ?loop⟩
  case less =>
    refine ⟨_, rfl, ?_⟩
    have hlt' := hop .lt a b 0 0
    rwa [SlvOp.eval, if_pos hlt] at hlt'
  case notLess =>
    refine ⟨_, rfl, ?_⟩
    have hge' := hop .lt a b 0 0
    rwa [SlvOp.eval, if_neg (by rw [hge]; exact Bool.false_ne_true)] at hge'
  case first =>
    refine ⟨_, rfl, ?_⟩
    have hsel := hop .sel a b c 0
    have hcond : (!(dec32 (q c)).isZero && dec32 (q c) != .nan) = true := by simp [hsome, hnum]
    rwa [SlvOp.eval, if_pos hcond] at hsel
  case second =>
    refine ⟨_, rfl, ?_⟩
    have hsel := hop .sel a b c 0
    have hcond : ¬(!(dec32 (q c)).isZero && dec32 (q c) != .nan) = true := by
      rcases hnone with hzero | hnan
      · simp [hzero]
      · simp [hnan]
    rwa [SlvOp.eval, if_neg hcond] at hsel
  case loop =>
    have hrepeat : (fun sv : Selvedge => { sv with regs := times (fun r => Regs.program r body) n sv.regs }) =
        fun sv => { sv with regs := Nat.repeat (fun r => Regs.program r body) n sv.regs } := by
      funext sv
      rw [times_eq_repeat]
    show Host.Outcome.next (if s.ready && s.selvPresent p then _ else s) = _
    rw [hready, hpresent, Bool.and_self, if_pos rfl, hrepeat]

/-! ### The order of reductions (R116) -/

theorem chunksOf_succ {α : Type} (n fuel : Nat) {l : List α} (h : l ≠ []) :
    chunksOf n (fuel + 1) l = l.take n :: chunksOf n fuel (l.drop n) := by
  match l, h with
  | _ :: _, _ => rfl

theorem chunksOf_of_short {α : Type} {n fuel : Nat} {l : List α} (hsome : l ≠ []) (hlen : l.length ≤ n) : chunksOf n (fuel + 1) l = [l] := by
  have hrest : chunksOf n fuel (l.drop n) = [] := by
    rw [List.drop_of_length_le hlen]
    cases fuel <;> rfl
  rw [chunksOf_succ n fuel hsome, hrest, List.take_of_length_le hlen]

theorem chunksOf_append {α : Type} {n k fuel : Nat} {l : List α} (hn : 0 < n) (hlen : l.length = n * k) (m : List α) :
    chunksOf n (k + fuel) (l ++ m) = chunksOf n k l ++ chunksOf n fuel m := by
  induction k generalizing l with
  | zero =>
    have hnil : l = [] := List.eq_nil_of_length_eq_zero (by omega)
    rw [hnil, Nat.zero_add]
    rfl
  | succ k ih =>
    have hlong : n ≤ l.length := by rw [hlen, Nat.mul_succ]; omega
    have hdrop : (l.drop n).length = n * k := by rw [List.length_drop, hlen, Nat.mul_succ]; omega
    have hl : l ≠ [] := List.ne_nil_of_length_pos (by omega)
    rw [Nat.add_right_comm, chunksOf_succ _ _ (by simp [hl]), chunksOf_succ _ _ hl, List.take_append_of_le_length hlong, List.drop_append_of_le_length hlong, ih hdrop]
    rfl

theorem addGroups_append_singleton {gs : List W32} (h : gs ≠ []) (g : W32) : addGroups (gs ++ [g]) = add32 (addGroups gs) g := by
  match gs, h with
  | x :: xs, _ => simp [addGroups, List.foldl_append]

/-- Settles O30: one group, and one group more. -/
theorem reductionOrder : Obligations.ReductionOrder := by
  unfold Obligations.ReductionOrder
  refine ⟨rfl, fun vs hsome hshort => ?one, fun vs ws hvs hwhole hws hshort => ?more⟩
  case one =>
    have hcount : (vs.length + 31) / 32 = 0 + 1 := by omega
    rw [reduceVals, hcount, chunksOf_of_short (List.ne_nil_of_length_pos hsome) hshort]
    rfl
  case more =>
    have hpos : 0 < vs.length := List.length_pos_iff.mpr hvs
    have hcount : ((vs ++ ws).length + 31) / 32 = vs.length / 32 + (0 + 1) := by
      rw [List.length_append]
      omega
    have hgroups : (vs.length + 31) / 32 = vs.length / 32 := by omega
    have hlen : vs.length = 32 * (vs.length / 32) := by omega
    have hws' : ws ≠ [] := List.ne_nil_of_length_pos hws
    have hsome : (chunksOf 32 (vs.length / 32) vs).map (fun c => rne32 (exactSum c)) ≠ [] := by
      obtain ⟨k, hk⟩ : ∃ k, vs.length / 32 = k + 1 := ⟨vs.length / 32 - 1, by omega⟩
      rw [hk]
      match vs, hvs with
      | _ :: _, _ => exact List.cons_ne_nil _ _
    rw [reduceVals, hcount, chunksOf_append (by decide) hlen ws, chunksOf_of_short hws' hshort, List.map_append, List.map_singleton,
      addGroups_append_singleton hsome, reduceVals, hgroups]

/-! ### Shafts -/

/-- Settles O31: the bounds of 20 bits, and the cases of a promotion. -/
theorem shaftArithmetic : Obligations.ShaftArithmetic := by
  unfold Obligations.ShaftArithmetic
  refine ⟨fun v g hlo hhi => ?inside, fun v g hout => ?outside, fun v g hlo hhi => ?replaced, fun ae v l => ⟨rfl, rfl⟩,
    fun ae first v tag x l htag => ?tagged, fun r => ⟨rfl, rfl, rfl, rfl⟩⟩
  case inside =>
    show (if v + g < -(2 ^ 19) ∨ v + g > 2 ^ 19 - 1 then none else some (v + g)) = some (v + g)
    exact if_neg (by omega)
  case outside =>
    show (if v + g < -(2 ^ 19) ∨ v + g > 2 ^ 19 - 1 then none else some (v + g)) = none
    exact if_pos (by omega)
  case replaced =>
    show (if g < -(2 ^ 19) ∨ g > 2 ^ 19 - 1 then none else some g) = some g
    exact if_neg (by omega)
  case tagged => rw [promoteCell, htag]

end Sys2Proof.Machine
end

section
/-!
A row that a LOAD piece has fetched: the landing commands read it as it was fetched, not as the memory holds it now.
-/
namespace Sys2Proof.Machine
open Sys2Proof.Tests

/-- The module with one landing command whose source row has been fetched with 1.0 as its first element, while the memory reads zeros there. -/
def fetchedRow : State :=
  { holding adding with
    looms := [(loomKey 0 0, { Loom.reset with
      slots := [⟨id0, 0, 0, 0, 0, [(word32 adding.desc 16, rowAddr (adding.winD 16) 0, leBytes 4 0x3F800000)]⟩] })] }

/-- Refutes O29: its last clause has CONVERT give the row as the memory holds it, but what CONVERT gives is the row that its LOAD piece fetched. -/
theorem not_landingRowArithmetic : ¬ Obligations.LandingRowArithmetic := by
  unfold Obligations.LandingRowArithmetic
  rintro ⟨-, -, -, -, -, -, -, -, -, -, -, -, -, hconvert⟩
  have hrow := hconvert fetchedRow adding 0
  exact absurd hrow (by decide +kernel)

end Sys2Proof.Machine
end

section
/-!
`BOBBIN_BIND` (R106, R110, R184).
-/
namespace Sys2Proof.Machine

/-- Bytes `b` to `b + n - 1` of a string written at their place of a record. -/
theorem Memory.read_writeSlice (m : Memory) (a b n i : Nat) {bs : List Byte} (h : b + n ≤ bs.length) :
    (m.writeBytes (a + b) ((bs.drop b).take n)).read (a + i) = if b ≤ i ∧ i < b + n then bs.getD i 0 else m.read (a + i) := by
  have hlen : ((bs.drop b).take n).length = n := by
    rw [List.length_take, List.length_drop]
    omega
  rw [Memory.read_writeBytes, hlen]
  by_cases hin : b ≤ i ∧ i < b + n
  · have hat : a + i - (a + b) = i - b := by omega
    have hsum : b + (i - b) = i := by omega
    rw [if_pos (by omega), if_pos hin, hat, List.getD_eq_getElem?_getD, List.getElem?_take_of_lt (by omega), List.getElem?_drop, hsum,
      List.getD_eq_getElem?_getD]
  · rw [if_neg (by omega), if_neg hin]

/-- One part of a record's bytes put at its place. -/
def State.putPart (s : State) (c : Nat) (bs : List Byte) (b n : Nat) : State := s.put 0 (s.ctxAddr c + b) ((bs.drop b).take n)

theorem State.ctxAddr_bounds (s : State) {c : Nat} (hc : c < 12288) : 2 ^ 60 ≤ s.ctxAddr c ∧ s.ctxAddr c + 512 ≤ 2 ^ 61 := by
  have hbase := (s.hall (c / 1536)).treadle.ctxBase.isLt
  unfold State.ctxAddr galleryAddr
  rw [Nat.shiftLeft_eq]
  omega

theorem addrSpace_of_bounds {a k : Nat} (hk : k < 16) (hlo : k * 2 ^ 60 ≤ a) (hhi : a < (k + 1) * 2 ^ 60) : addrSpace a = k := by
  have hdiv : a / 2 ^ 60 = k := Nat.div_eq_of_lt_le hlo hhi
  rw [addrSpace, Nat.shiftRight_eq_div_pow, hdiv, Nat.mod_eq_of_lt hk]

theorem State.putPart_eq (s : State) {c b n : Nat} (bs : List Byte) (hc : c < 12288) (hb : b < 512) : s.putPart c bs b n =
    { s with mem := s.mem.writeBytes (s.ctxAddr c + b) ((bs.drop b).take n), poison := (s.putPart c bs b n).poison } := by
  obtain ⟨hlo, hhi⟩ := s.ctxAddr_bounds hc
  have hspace : addrSpace (s.ctxAddr c + b) = 1 := addrSpace_of_bounds (by decide) (by omega) (by omega)
  have hkey : hostKey 0 (s.ctxAddr c + b) = s.ctxAddr c + b := by simp [hostKey, hspace]
  unfold State.putPart State.put
  rw [State.store_of_plain rfl (by rw [hspace]; decide) (by rw [hspace]; decide), hkey]
  rfl

/-- The record of an image in the place of a context's record. -/
def State.putRecord (s : State) (c : Nat) (bs : List Byte) (counter : Bool) : State :=
  let s' := ((s.putPart c bs 0 8).putPart c bs 16 20).putPart c bs 64 448
  if counter then s'.putPart c bs 8 8 else s'

theorem State.putRecord_rest (s : State) {c : Nat} (bs : List Byte) (counter : Bool) (hc : c < 12288) :
    s.putRecord c bs counter = { s with mem := (s.putRecord c bs counter).mem, poison := (s.putRecord c bs counter).poison } := by
  unfold State.putRecord
  dsimp only
  split
  · rw [State.putPart_eq _ _ hc (by decide), State.putPart_eq _ _ hc (by decide), State.putPart_eq _ _ hc (by decide),
      State.putPart_eq _ _ hc (by decide)]
  · rw [State.putPart_eq _ _ hc (by decide), State.putPart_eq _ _ hc (by decide), State.putPart_eq _ _ hc (by decide)]

theorem State.putPart_read (s : State) {c b n i : Nat} {bs : List Byte} (hc : c < 12288) (hb : b < 512) (hlen : b + n ≤ bs.length) :
    (s.putPart c bs b n).mem.read (s.ctxAddr c + i) = if b ≤ i ∧ i < b + n then bs.getD i 0 else s.mem.read (s.ctxAddr c + i) := by
  rw [State.putPart_eq s bs hc hb]
  exact Memory.read_writeSlice s.mem (s.ctxAddr c) b n i hlen

theorem State.putPart_ctxAddr (s : State) {c b n : Nat} (bs : List Byte) (hc : c < 12288) (hb : b < 512) :
    (s.putPart c bs b n).ctxAddr c = s.ctxAddr c := by
  rw [State.putPart_eq s bs hc hb]
  rfl

theorem State.putPart_read_outside (s : State) {c b n x : Nat} {bs : List Byte} (hc : c < 12288) (hb : b < 512) (hn : b + n ≤ 512)
    (hx : x < s.ctxAddr c ∨ s.ctxAddr c + 512 ≤ x) : (s.putPart c bs b n).mem.read x = s.mem.read x := by
  have hlen : ((bs.drop b).take n).length ≤ n := List.length_take_le _ _
  rw [State.putPart_eq s bs hc hb]
  exact Memory.read_writeBytes_outside _ _ (by omega)

/-- The use and statistics fields stay, and the step counter unless it is loaded (R106, R110). -/
theorem State.putRecord_read (s : State) {c i : Nat} {bs : List Byte} (counter : Bool) (hc : c < 12288) (hbs : bs.length = 512) (hi : i < 512) :
    (s.putRecord c bs counter).mem.read (s.ctxAddr c + i) =
      if 36 ≤ i ∧ i < 64 ∨ 8 ≤ i ∧ i < 16 ∧ counter = false then s.mem.read (s.ctxAddr c + i) else bs.getD i 0 := by
  have haddr₁ := s.putPart_ctxAddr (b := 0) (n := 8) bs hc (by decide)
  have haddr₂ := (s.putPart c bs 0 8).putPart_ctxAddr (b := 16) (n := 20) bs hc (by decide)
  have haddr₃ := ((s.putPart c bs 0 8).putPart c bs 16 20).putPart_ctxAddr (b := 64) (n := 448) bs hc (by decide)
  rw [haddr₁] at haddr₂
  rw [haddr₂] at haddr₃
  have hread₁ := s.putPart_read (b := 0) (n := 8) (i := i) hc (by decide) (by omega : 0 + 8 ≤ bs.length)
  have hread₂ := (s.putPart c bs 0 8).putPart_read (b := 16) (n := 20) (i := i) hc (by decide) (by omega : 16 + 20 ≤ bs.length)
  have hread₃ := ((s.putPart c bs 0 8).putPart c bs 16 20).putPart_read (b := 64) (n := 448) (i := i) hc (by decide) (by omega : 64 + 448 ≤ bs.length)
  have hread₄ := (((s.putPart c bs 0 8).putPart c bs 16 20).putPart c bs 64 448).putPart_read (b := 8) (n := 8) (i := i) hc (by decide)
    (by omega : 8 + 8 ≤ bs.length)
  rw [haddr₁] at hread₂
  rw [haddr₂] at hread₃
  rw [haddr₃] at hread₄
  cases counter with
  | true =>
    refine (hread₄.trans ?_)
    rw [hread₃, hread₂, hread₁]
    grind
  | false =>
    refine (hread₃.trans ?_)
    rw [hread₂, hread₁]
    grind

theorem State.putRecord_read_outside (s : State) {c x : Nat} {bs : List Byte} (counter : Bool) (hc : c < 12288)
    (hx : x < s.ctxAddr c ∨ s.ctxAddr c + 512 ≤ x) : (s.putRecord c bs counter).mem.read x = s.mem.read x := by
  have haddr₁ := s.putPart_ctxAddr (b := 0) (n := 8) bs hc (by decide)
  have haddr₂ := (s.putPart c bs 0 8).putPart_ctxAddr (b := 16) (n := 20) bs hc (by decide)
  have haddr₃ := ((s.putPart c bs 0 8).putPart c bs 16 20).putPart_ctxAddr (b := 64) (n := 448) bs hc (by decide)
  have hthree : (((s.putPart c bs 0 8).putPart c bs 16 20).putPart c bs 64 448).mem.read x = s.mem.read x := by
    rw [State.putPart_read_outside _ hc (by decide) (by decide) (by rwa [haddr₂, haddr₁]),
      State.putPart_read_outside _ hc (by decide) (by decide) (by rwa [haddr₁]), State.putPart_read_outside _ hc (by decide) (by decide) hx]
  cases counter with
  | true => exact (State.putPart_read_outside _ hc (by decide) (by decide) (by rwa [haddr₃, haddr₂, haddr₁])).trans hthree
  | false => exact hthree

/-- A bind that nothing stops, before its item is decided. -/
def State.bound (s : State) (t : Item) (bs : List Byte) : State :=
  let s' := s.putRecord (fieldNat t.desc 128 14) bs (descFlag t.desc 2)
  ((s'.treadleRequest t.hall (.operand t.id) true (s'.ctxAddr (fieldNat t.desc 128 14)) 512).clearStats (fieldNat t.desc 128 14)).consume t
    ⟨word32 t.desc 20, t.winD 20, [0], 0, 512⟩

theorem State.bobbinBind_of_free {s : State} {t : Item} {bs : List Byte}
    (hbs : s.load (s.access (s.itemFunction t.id) (t.winD 20)) (winBase (t.winD 20)) 512 = bs)
    (hfault : s.readFault (s.itemFunction t.id) true [⟨word32 t.desc 20, t.winD 20, [0], 0, 512⟩] = none)
    (hready : s.readReady t ⟨word32 t.desc 20, t.winD 20, [0], 0, 512⟩ = true) (hcheck : s.imageCheck (BitVec.ofNat 4096 (leNat bs)) = none) :
    State.bobbinBind t s = (s.bound t bs).finish t.id 512 := by
  simp only [State.bobbinBind, hfault, hready, hbs, hcheck, Bool.not_true, Bool.false_eq_true, if_false]
  rfl

theorem State.bound_rest (s : State) (t : Item) (bs : List Byte) (hc : fieldNat t.desc 128 14 < 12288) :
    s.bound t bs = { s with
      mem := (s.putRecord (fieldNat t.desc 128 14) bs (descFlag t.desc 2)).mem, poison := (s.bound t bs).poison, ledgers := (s.bound t bs).ledgers
      selvs := (s.bound t bs).selvs, full := (s.bound t bs).full, streams := (s.bound t bs).streams } := by
  unfold State.bound
  dsimp only
  rw [State.consume_took, State.putRecord_rest s bs _ hc]
  rfl

/-- Settles O39: the record's parts one after another, and what no part touches. -/
theorem bindInstallsTheRecord : Obligations.BindInstallsTheRecord := by
  unfold Obligations.BindInstallsTheRecord
  intro s it t h c w fn rd bs hc hlen hfault hready hcheck
  obtain rfl := h.id
  have hmean := State.bobbinBind_of_free (s := s) (t := t) (bs := bs) rfl hfault hready hcheck
  have hrest := s.bound_rest t bs hc
  have hmod : (State.bobbinBind t s).mod = s.mod := by rw [hmean, State.finish_rest, hrest]
  have hitem : (s.bound t bs).item t.id = some t := by
    rw [hrest]
    exact h.item
  refine ⟨_, congrArg Host.Outcome.next (h.withItem_mod hmod), ?done, ?registers, ?knots, ?windows, fun i hi => ?bytes, fun x hx => ?frame⟩
  all_goals rw [hmean]
  case done => exact State.finish_doneWith hitem 512
  all_goals rw [State.finish_rest, hrest]
  case registers => exact ⟨rfl, rfl, rfl, rfl, rfl, rfl, rfl, rfl, rfl⟩
  case bytes => exact s.putRecord_read (descFlag t.desc 2) hc hlen hi
  case frame => exact s.putRecord_read_outside (descFlag t.desc 2) hc hx

end Sys2Proof.Machine
end

section
/-!
Streams: `STREAM_ARM` and `STREAM_STARVED` (R175, R218, R224), and what a failed item leaves of its armings.
-/
namespace Sys2Proof.Machine

/-! ### The armings of an item that fails -/

theorem State.foldl_streams {α : Type} {f : State → α → State} (hf : ∀ s a, (f s a).streams = s.streams) (l : List α) (s : State) :
    (l.foldl f s).streams = s.streams := by
  induction l generalizing s with
  | nil => rfl
  | cons a l ih => exact (ih _).trans (hf s a)

theorem State.sendReply_streams (s : State) (p : Nat) (x : Bool) (vc : Nat) (pk : Packet) : (s.sendReply p x vc pk).streams = s.streams := by
  unfold State.sendReply
  dsimp only
  split
  · rfl
  · rfl

theorem State.releaseLinks_streams (s : State) (i : ItemId) : (s.releaseLinks i).streams = s.streams := by
  unfold State.releaseLinks
  dsimp only
  split
  · rfl
  · exact State.foldl_streams (f := fun s p => s.modFlight p _) (fun _ _ => rfl) _ s

theorem State.leaveFabric_streams (s : State) (i : ItemId) (st : Status) : (s.leaveFabric i st).streams = s.streams := by
  unfold State.leaveFabric
  split
  · rfl
  · rw [State.releaseLinks_streams]
    split
    · exact State.foldl_streams (fun s p => s.sendReply_streams p false 0 _) _ s
    · rfl

theorem State.dropPieces_streams (s : State) (i : ItemId) : (s.dropPieces i).streams = s.streams := by
  unfold State.dropPieces
  dsimp only
  split
  · rfl
  · rfl

theorem Stream.without_reset (i : ItemId) : Stream.without i Stream.reset = Stream.reset := rfl

/-- A descriptor without armings of an item stays as it is. -/
theorem Stream.without_of_others {i : ItemId} {st : Stream} (h : ∀ a, st.active = some a ∨ st.pending = some a → a.item ≠ i) :
    Stream.without i st = st := by
  have hpending : (st.pending.any fun a => a.item == i) = false := by
    rw [Option.any_eq_false]
    exact fun a ha => by simpa using h a (Or.inr ha)
  have hactive : (st.active.any fun a => a.item == i) = false := by
    rw [Option.any_eq_false]
    exact fun a ha => by simpa using h a (Or.inl ha)
  simp [Stream.without, hpending, hactive]

/-- One whose active arming is the item's goes on with its pending one. -/
theorem Stream.without_of_active {i : ItemId} {st : Stream} {a : Arming} (ha : st.active = some a) (hi : a.item = i)
    (hpending : ∀ b, st.pending = some b → b.item ≠ i) : Stream.without i st = st.next := by
  have hother : (st.pending.any fun a => a.item == i) = false := by
    rw [Option.any_eq_false]
    exact fun b hb => by simpa using hpending b hb
  simp [Stream.without, hother, ha, hi]

/-- A descriptor whose pending arming is not the item's. -/
def Stream.pendingFor (i : ItemId) (st : Stream) : Option Arming := if st.pending.any fun a => a.item == i then none else st.pending

theorem Stream.pendingFor_other {i : ItemId} {st : Stream} {a : Arming} (h : st.pendingFor i = some a) : a.item ≠ i := by
  unfold Stream.pendingFor at h
  split at h
  case isTrue => exact nomatch h
  case isFalse hno =>
    intro heq
    exact hno (by simp [h, heq])

theorem Stream.without_eq (i : ItemId) (st : Stream) : Stream.without i st =
    if st.active.any fun a => a.item == i then { st with pending := st.pendingFor i }.next else { st with pending := st.pendingFor i } := by
  unfold Stream.without Stream.pendingFor
  dsimp only
  split
  · rfl
  · rfl

theorem Stream.without_others (i : ItemId) (st : Stream) :
    ∀ a, (Stream.without i st).active = some a ∨ (Stream.without i st).pending = some a → a.item ≠ i := by
  intro a ha
  rw [Stream.without_eq] at ha
  split at ha
  case isTrue =>
    rcases ha with hactive | hpending
    · exact Stream.pendingFor_other hactive
    · exact nomatch hpending
  case isFalse hno =>
    rcases ha with hactive | hpending
    · intro heq
      have hactive' : st.active = some a := hactive
      exact hno (by simp [hactive', heq])
    · exact Stream.pendingFor_other hpending

theorem Stream.without_without (i : ItemId) (st : Stream) : Stream.without i (Stream.without i st) = Stream.without i st :=
  Stream.without_of_others (Stream.without_others i st)

theorem Table.get_of_not_mem {α : Type} {d : α} {t : Table α} {i : Nat} (h : ∀ p ∈ t, p.1 ≠ i) : Table.get d t i = d := by
  induction t with
  | nil => rfl
  | cons p t ih =>
    rw [Table.get, if_neg (h p (List.mem_cons_self ..))]
    exact ih fun q hq => h q (List.mem_cons_of_mem _ hq)

theorem State.foldl_without_stream (i : ItemId) (l : List (Nat × Stream)) (s : State) (h d : Nat) :
    (l.foldl (fun s p => s.modStream (p.1 / 4096) (p.1 % 4096) (Stream.without i)) s).stream h d =
      if (l.any fun p => p.1 == 4096 * h + d) = true then Stream.without i (s.stream h d) else s.stream h d := by
  induction l generalizing s with
  | nil => rfl
  | cons p l ih =>
    have hkey : 4096 * (p.1 / 4096) + p.1 % 4096 = p.1 := Nat.div_add_mod _ _
    rw [List.foldl_cons, ih, State.modStream_stream, hkey, List.any_cons]
    by_cases hp : p.1 = 4096 * h + d
    · have hsame : s.stream (p.1 / 4096) (p.1 % 4096) = s.stream h d := by
        rw [State.stream, hkey, hp]
        rfl
      have hany : (p.1 == 4096 * h + d) = true := by simpa using hp
      rw [if_pos hp, hsame, hany, Bool.true_or, if_pos rfl, Stream.without_without]
      exact ite_self _
    · have hany : (p.1 == 4096 * h + d) = false := by simpa using hp
      rw [if_neg hp, hany, Bool.false_or]

/-- Every descriptor loses the armings of the item. -/
theorem State.dropArmings_stream (s : State) (i : ItemId) (h d : Nat) : (s.dropArmings i).stream h d = Stream.without i (s.stream h d) := by
  rw [State.dropArmings, State.foldl_without_stream]
  split
  case isTrue => rfl
  case isFalse hnone =>
    have hreset : s.stream h d = Stream.reset := by
      refine Table.get_of_not_mem fun p hp heq => hnone (List.any_eq_true.mpr ⟨p, hp, ?_⟩)
      simpa using heq
    rw [hreset, Stream.without_reset]

theorem State.stream_of_streams {s s' : State} (h : s'.streams = s.streams) (hall d : Nat) : s'.stream hall d = s.stream hall d := by
  rw [State.stream, h]
  rfl

/-- So does an item's failure; nothing else happens to the streams. -/
theorem State.failItem_stream {s : State} {i : ItemId} {t : Item} (hitem : s.item i = some t) (hcall : t.caller = none) (st : Status) (h d : Nat) :
    (s.failItem i st).stream h d = Stream.without i (s.stream h d) := by
  have hfail : (s.failItem i st).streams = ((s.leaveFabric i st).dropArmings i).streams := by
    unfold State.failItem
    rw [State.failAt_of_noCaller hitem hcall]
    exact State.dropPieces_streams _ _
  rw [State.stream_of_streams hfail, State.dropArmings_stream, State.stream_of_streams (s.leaveFabric_streams i st)]

/-! ### `STREAM_ARM` -/

/-- The item of an arming waits; an arming behind another is counted. -/
def State.armingWaits (s : State) (t : Item) : State :=
  let s' := s.modItem t.id fun u => { u with phase := .external }
  if (s.stream t.hall (fieldNat t.desc 128 12)).active.isSome then s'.bump (pgStream t.hall) 0x22 1 else s'

/-- A descriptor that takes an arming of generation `gen` for `owner`. -/
def Stream.arm (a : Arming) (owner : Nat) (st : Stream) : Stream :=
  let st := { st with gen := a.gen, owner := some owner }
  if st.active.isSome then { st with pending := some a } else { st with active := some a, since := 0, passed := 0, agedAt := none }

theorem State.streamArm_of_free {s : State} {t : Item} (h : (s.stream t.hall (fieldNat t.desc 128 12)).pending = none) :
    State.streamArm t s = (s.armingWaits t).modStream t.hall (fieldNat t.desc 128 12)
      (Stream.arm (armingOf t ((s.stream t.hall (fieldNat t.desc 128 12)).gen + 1)) ((s.armingWaits t).itemOwner t.id)) := by
  simp only [State.streamArm, h, Option.isSome_none, Bool.false_eq_true, if_false]
  rfl

theorem State.armingWaits_rest (s : State) (t : Item) :
    s.armingWaits t = { s with items := (s.armingWaits t).items, counters := (s.armingWaits t).counters } := by
  unfold State.armingWaits
  dsimp only
  split
  · rfl
  · rfl

theorem State.armingWaits_item {s : State} {t : Item} (h : s.item t.id = some t) :
    (s.armingWaits t).item t.id = some { t with phase := .external } := by
  have hset := s.modItem_item t.id t.id (fun u => { u with phase := .external }) fun _ => rfl
  rw [if_pos rfl, h] at hset
  unfold State.armingWaits
  dsimp only
  split
  · exact hset
  · exact hset

theorem State.streamArm_of_overrun {s : State} {t : Item} (h : (s.stream t.hall (fieldNat t.desc 128 12)).pending.isSome = true) :
    State.streamArm t s = (s.bump (pgStream t.hall) 0x23 1).failItem t.id .rearmOverrun := by
  simp only [State.streamArm, h, if_true]

/-- Settles O41: an arming taken or refused, and one whose next entry stays full. -/
theorem streamsArmAndStarve : Obligations.StreamsArmAndStarve := by
  unfold Obligations.StreamsArmAndStarve
  refine ⟨fun s it t h hfirst hcall => ⟨fun hfree => ?taken, fun hover => ?refused⟩,
    fun s h d a t hactive hruns hitem hfirst hcall hleft hfull hother => ?starved⟩
  case taken =>
    obtain rfl := h.id
    have hmean := State.streamArm_of_free (s := s) (t := t) hfree
    have hrest := s.armingWaits_rest t
    have hmod : (State.streamArm t s).mod = s.mod := by rw [hmean, hrest]; rfl
    have hstream : (State.streamArm t s).stream t.hall (fieldNat t.desc 128 12) = Stream.arm
        (armingOf t ((s.stream t.hall (fieldNat t.desc 128 12)).gen + 1)) ((s.armingWaits t).itemOwner t.id) (s.stream t.hall (fieldNat t.desc 128 12)) := by
      rw [hmean, State.modStream_stream, if_pos rfl, hrest]
      rfl
    refine ⟨_, congrArg Host.Outcome.next (h.withItem_mod hmod), ?gen, fun hnone => ?active, fun a ha => ?pending, ?item, ?bytes, ?knots, ?windows⟩
    case gen =>
      rw [hstream, Stream.arm]
      dsimp only
      split
      · rfl
      · rfl
    case active =>
      rw [hstream, Stream.arm]
      dsimp only
      rw [hnone]
      rfl
    case pending =>
      rw [hstream, Stream.arm]
      dsimp only
      rw [ha]
      exact ⟨rfl, rfl⟩
    case item =>
      have hwaits := State.armingWaits_item h.item
      rw [hmean]
      exact ⟨_, hwaits, rfl⟩
    case bytes =>
      rw [hmean, hrest]
      exact ⟨rfl, rfl, rfl⟩
    case knots => rw [hmean, hrest]; rfl
    case windows => rw [hmean, hrest]; rfl
  case refused =>
    obtain rfl := h.id
    have hmean := State.streamArm_of_overrun (s := s) (t := t) hover
    have hquiet := (s.bump (pgStream t.hall) 0x23 1).failItem_isQuiet t.id .rearmOverrun
    have hmod : (State.streamArm t s).mod = s.mod := by rw [hmean, hquiet.mod]; rfl
    refine ⟨_, congrArg Host.Outcome.next (h.withItem_mod hmod), ?failed, ?same, fun hnone k e => ?streams⟩
    case failed =>
      rw [hmean]
      exact State.failItem_failedWith (s := s.bump (pgStream t.hall) 0x23 1) h.item hfirst hcall _
    case same =>
      rw [hmean]
      exact hquiet.sameBytes
    case streams =>
      rw [hmean, State.failItem_stream (s := s.bump (pgStream t.hall) 0x23 1) h.item hcall]
      exact Stream.without_of_others fun a ha => hnone k e a ha
  case starved =>
    have hstarve : s.streamStarved h d = s.failItem a.item .starved := by
      simp only [State.streamStarved, hactive, hruns, hfull, decide_eq_true hleft, Bool.and_true, Bool.not_false, if_true]
    have hid : t.id = a.item := State.item_id hitem
    refine ⟨_, congrArg Host.Outcome.next hstarve, State.failItem_failedWith hitem hfirst hcall _, ?_, (s.failItem_isQuiet _ _).sameBytes⟩
    rw [State.failItem_stream hitem hcall]
    exact Stream.without_of_active hactive rfl hother

end Sys2Proof.Machine
end

section
/-!
The grants of the stream arbiter and the end of a transfer (R220, R222, R223).
-/
namespace Sys2Proof.Machine

/-! ### The order of R222 -/

theorem candidateBefore_of_aged {x y : Candidate} (hx : x.st.agedAt.isSome = true) (hy : y.st.agedAt = none) :
    candidateBefore x y = true ∧ candidateBefore y x = false := by
  obtain ⟨a, ha⟩ := Option.isSome_iff_exists.mp hx
  simp [candidateBefore, ha, hy]

theorem candidateBefore_of_tte {x y : Candidate} (hx : x.st.agedAt = none) (hy : y.st.agedAt = none) (h : x.tte < y.tte) :
    candidateBefore x y = true ∧ candidateBefore y x = false := by
  have hne : y.tte ≠ x.tte := by omega
  simp [candidateBefore, hx, hy, h, hne, Nat.lt_asymm h]

theorem candidateBefore_iff_of_aged {x y : Candidate} {a b : Nat} (hx : x.st.agedAt = some a) (hy : y.st.agedAt = some b) :
    candidateBefore x y = true ↔ a < b ∨ (a = b ∧ x.d < y.d) := by
  simp [candidateBefore, hx, hy]

theorem candidateBefore_iff_of_sameTte {x y : Candidate} (hx : x.st.agedAt = none) (hy : y.st.agedAt = none) (h : x.tte = y.tte) :
    candidateBefore x y = true ↔ x.st.since < y.st.since ∨ (x.st.since = y.st.since ∧ x.d < y.d) := by
  simp [candidateBefore, hx, hy, h]

/-- Of two descriptors at most one comes before the other. -/
theorem candidateBefore_asymm {x y : Candidate} (h : candidateBefore x y = true) : candidateBefore y x = false := by
  cases hx : x.st.agedAt with
  | some a =>
    cases hy : y.st.agedAt with
    | some b =>
      have hxy := (candidateBefore_iff_of_aged hx hy).mp h
      have hyx := candidateBefore_iff_of_aged hy hx
      rw [Bool.eq_false_iff]
      intro hback
      have := hyx.mp hback
      omega
    | none => exact (candidateBefore_of_aged (by simp [hx]) hy).2
  | none =>
    cases hy : y.st.agedAt with
    | some b =>
      have hback := (candidateBefore_of_aged (x := y) (by simp [hy]) hx).2
      exact absurd h (by simp [hback])
    | none =>
      rcases Nat.lt_trichotomy x.tte y.tte with hlt | heq | hgt
      · exact (candidateBefore_of_tte hx hy hlt).2
      · have hxy := (candidateBefore_iff_of_sameTte hx hy heq).mp h
        have hyx := candidateBefore_iff_of_sameTte hy hx heq.symm
        rw [Bool.eq_false_iff]
        intro hback
        have := hyx.mp hback
        omega
      · exact absurd h (by simp [(candidateBefore_of_tte hy hx hgt).2])

theorem pickBest_mem {α : Type} {better : α → α → Bool} {l : List α} {x : α} (h : pickBest better l = some x) : x ∈ l := by
  induction l generalizing x with
  | nil => exact nomatch h
  | cons a l ih =>
    rw [pickBest] at h
    split at h
    case h_1 => exact Option.some.inj h ▸ List.mem_cons_self ..
    case h_2 b hb =>
      split at h
      · exact Option.some.inj h ▸ List.mem_cons_of_mem _ (ih hb)
      · exact Option.some.inj h ▸ List.mem_cons_self ..

theorem pickBest_ne_none {α : Type} (better : α → α → Bool) {l : List α} (h : l ≠ []) : pickBest better l ≠ none := by
  match l, h with
  | a :: l, _ =>
    rw [pickBest]
    split
    · exact (nomatch ·)
    · split
      · exact (nomatch ·)
      · exact (nomatch ·)

/-- What comes before everything else of a list without repetition is picked. -/
theorem pickBest_eq {α : Type} {better : α → α → Bool} {l : List α} {x : α} (hx : x ∈ l) (hnodup : l.Nodup)
    (hbest : ∀ y ∈ l, y ≠ x → better x y = true ∧ better y x = false) : pickBest better l = some x := by
  induction l with
  | nil => exact absurd hx (List.not_mem_nil)
  | cons a l ih =>
    obtain ⟨hnotin, hnodup'⟩ := List.nodup_cons.mp hnodup
    rw [pickBest]
    rcases List.mem_cons.mp hx with rfl | hin
    · split
      case h_1 => rfl
      case h_2 b hb =>
        have hmem := pickBest_mem hb
        have hne : b ≠ x := fun heq => hnotin (heq ▸ hmem)
        rw [(hbest b (List.mem_cons_of_mem _ hmem) hne).2]
        rfl
    · have hpick := ih hin hnodup' fun y hy hne => hbest y (List.mem_cons_of_mem _ hy) hne
      have hne : a ≠ x := fun heq => hnotin (heq ▸ hin)
      rw [hpick]
      dsimp only
      rw [(hbest a (List.mem_cons_self ..) hne).1]
      rfl

/-! ### Descriptors changed one after another -/

theorem State.foldl_modStream_other {α : Type} {key : α → Nat} {g : α → Stream → Stream} {l : List α} {h k : Nat} (hk : ∀ p ∈ l, key p ≠ k) (s : State) :
    (l.foldl (fun u p => u.modStream h (key p) (g p)) s).stream h k = s.stream h k := by
  induction l generalizing s with
  | nil => rfl
  | cons p l ih =>
    have hne : ¬4096 * h + key p = 4096 * h + k := fun heq => hk p (List.mem_cons_self ..) (Nat.add_left_cancel heq)
    rw [List.foldl_cons, ih fun q hq => hk q (List.mem_cons_of_mem _ hq), State.modStream_stream, if_neg hne]

theorem State.foldl_modStream_mem {α : Type} {key : α → Nat} {g : α → Stream → Stream} {l : List α} {h : Nat} {p : α} (hp : p ∈ l)
    (hnodup : (l.map key).Nodup) (s : State) :
    (l.foldl (fun u p => u.modStream h (key p) (g p)) s).stream h (key p) = g p (s.stream h (key p)) := by
  induction l generalizing s with
  | nil => exact absurd hp List.not_mem_nil
  | cons q l ih =>
    obtain ⟨hnotin, hnodup'⟩ := List.nodup_cons.mp hnodup
    rcases List.mem_cons.mp hp with rfl | hin
    · have hother : ∀ r ∈ l, key r ≠ key p := fun r hr heq => hnotin (heq ▸ List.mem_map_of_mem hr)
      rw [List.foldl_cons, State.foldl_modStream_other hother, State.modStream_stream, if_pos rfl]
    · have hne : ¬4096 * h + key q = 4096 * h + key p := fun heq => hnotin (Nat.add_left_cancel heq ▸ List.mem_map_of_mem hin)
      rw [List.foldl_cons, ih hin hnodup', State.modStream_stream, if_neg hne]

theorem State.foldl_modStream_rest {α : Type} (h : Nat) (key : α → Nat) (g : α → Stream → Stream) (l : List α) (s : State) :
    l.foldl (fun u p => u.modStream h (key p) (g p)) s =
      { s with streams := (l.foldl (fun u p => u.modStream h (key p) (g p)) s).streams } := by
  induction l generalizing s with
  | nil => rfl
  | cons p l ih => rw [List.foldl_cons, ih]; rfl

/-! ### `STREAM_GRANT` -/

theorem State.eligible_congr {s s' : State} (h : s'.full = s.full) (st : Stream) : s'.eligible st = s.eligible st := by
  simp only [State.eligible, State.entryEmpty, State.allEmpty, h]

theorem State.timeToEmpty_congr {s s' : State} (h : s'.full = s.full) (a : Arming) : s'.timeToEmpty a = s.timeToEmpty a := by
  simp only [State.timeToEmpty, State.level, State.entryFull, State.allFull, h]

/-- The descriptors of a hall that are in use. -/
def State.hallStreams (s : State) (h : Nat) : List (Nat × Stream) := s.streams.filter fun p => p.1 / 4096 == h

/-- The streams as a grant of the hall sees them: since when each has been eligible. -/
def State.grantSeen (s : State) (h : Nat) : State :=
  (s.hallStreams h).foldl (fun u p => u.modStream h (p.1 % 4096) (Stream.seen ((s.hall h).grants + 1) (s.eligible p.2))) s

theorem State.foldl_seen_eq (n h : Nat) (l : List (Nat × Stream)) {s u : State} (hfull : u.full = s.full) :
    l.foldl (fun u p => u.modStream h (p.1 % 4096) (Stream.seen n (u.eligible p.2))) u =
      l.foldl (fun u p => u.modStream h (p.1 % 4096) (Stream.seen n (s.eligible p.2))) u := by
  induction l generalizing u with
  | nil => rfl
  | cons p l ih =>
    rw [List.foldl_cons, List.foldl_cons, State.eligible_congr hfull, ih]
    exact hfull

/-- The descriptors that a grant chooses among. -/
def State.grantCandidates (s : State) (h : Nat) : List Candidate :=
  ((s.hallStreams h).filter fun p => s.eligible p.2).map fun p =>
    ⟨p.1 % 4096, (s.grantSeen h).stream h (p.1 % 4096), (p.2.active.map s.timeToEmpty).getD 0⟩

theorem State.grantSeen_rest (s : State) (h : Nat) : s.grantSeen h = { s with streams := (s.grantSeen h).streams } :=
  State.foldl_modStream_rest h _ _ _ s

/-- The grant counted, and the descriptors that it passes over. -/
def State.grantPassed (s : State) (h : Nat) (c : Candidate) : State :=
  ((s.grantCandidates h).filter fun x => x.d != c.d).foldl (fun u x => u.modStream h x.d (Stream.passedOver ((s.hall h).grants + 1)))
    ((s.grantSeen h).modHall h fun hl => { hl with grants := (s.hall h).grants + 1 })

/-- A descriptor whose next transfer is granted. -/
def Stream.granted (a : Arming) (st : Stream) : Stream :=
  { st with passed := 0, agedAt := none, active := some { a with granted := a.granted + 1, flying := a.flying ++ [a.granted] } }

/-- `s` with a grant to `c`, whose arming is `a`, counted, noted in its descriptor and asked of the ledger. -/
def State.noteGrant (s : State) (h : Nat) (c : Candidate) (a : Arming) : State :=
  (((s.bump (pgStream h) 0x20 1).bump (pgStream h) 0x21 (if c.st.agedAt.isSome then 1 else 0)).modStream h c.d
    (Stream.granted a)).requestTransfer h c.d c.tte a a.granted

theorem State.requestTransfer_rest (s : State) (h d tte : Nat) (a : Arming) (i : Nat) :
    s.requestTransfer h d tte a i = { s with ledgers := (s.requestTransfer h d tte a i).ledgers } := rfl

theorem State.noteGrant_sameBytes (s : State) (h : Nat) (c : Candidate) (a : Arming) : (s.noteGrant h c a).sameBytes s := by
  rw [State.noteGrant, State.requestTransfer_rest]
  exact ⟨rfl, rfl, rfl⟩

theorem State.noteGrant_halls (s : State) (h : Nat) (c : Candidate) (a : Arming) : (s.noteGrant h c a).halls = s.halls := by
  rw [State.noteGrant, State.requestTransfer_rest]
  rfl

theorem State.noteGrant_stream (s : State) (h k : Nat) (c : Candidate) (a : Arming) : (s.noteGrant h c a).stream h k =
    if c.d = k then Stream.granted a (s.stream h c.d) else s.stream h k := by
  have hset : (s.noteGrant h c a).stream h k = (s.modStream h c.d (Stream.granted a)).stream h k := by
    rw [State.noteGrant, State.requestTransfer_rest]
    rfl
  rw [hset, State.modStream_stream]
  by_cases hk : c.d = k
  · rw [if_pos (congrArg _ hk), if_pos hk]
  · rw [if_neg fun heq => hk (Nat.add_left_cancel heq), if_neg hk]

/-- The state after a grant to `c`, whose arming is `a`. -/
def State.grantedTo (s : State) (h : Nat) (c : Candidate) (a : Arming) : State := (s.grantPassed h c).noteGrant h c a

theorem State.grantCandidates_seen (s : State) (h : Nat) :
    (((s.streams.filter fun p => p.1 / 4096 == h).filter fun p => (s.grantSeen h).eligible p.2).map fun p =>
      (⟨p.1 % 4096, (s.grantSeen h).stream h (p.1 % 4096), (p.2.active.map (s.grantSeen h).timeToEmpty).getD 0⟩ : Candidate)) = s.grantCandidates h := by
  have hfull : (s.grantSeen h).full = s.full := by rw [State.grantSeen_rest]
  have htte : (s.grantSeen h).timeToEmpty = s.timeToEmpty := funext fun a => State.timeToEmpty_congr hfull a
  simp only [State.grantCandidates, State.hallStreams, State.eligible_congr hfull, htte]

theorem State.streamGrant_eq {s : State} {h : Nat} {c : Candidate} {a : Arming} (hup : s.hallUp h = true)
    (hpick : pickBest candidateBefore (s.grantCandidates h) = some c) (ha : c.st.active = some a) : s.streamGrant h .clean = s.grantedTo h c a := by
  have hseen : (s.streams.filter fun p => p.1 / 4096 == h).foldl (fun u p => u.modStream h (p.1 % 4096) (Stream.seen ((s.hall h).grants + 1) (u.eligible p.2))) s =
      s.grantSeen h := State.foldl_seen_eq _ h _ rfl
  unfold State.streamGrant
  rw [hup]
  simp only [Bool.not_true, Bool.false_eq_true, if_false]
  rw [hseen, State.grantCandidates_seen, hpick]
  simp only [ha]
  rfl

theorem State.grantPassed_rest (s : State) (h : Nat) (c : Candidate) :
    s.grantPassed h c = { s with streams := (s.grantPassed h c).streams, halls := (s.grantPassed h c).halls } := by
  unfold State.grantPassed
  rw [State.foldl_modStream_rest h (fun x : Candidate => x.d), State.grantSeen_rest]
  rfl

/-! #### Which descriptors a grant chooses among -/

theorem Table.get_of_mem {α : Type} {d : α} {t : Table α} (hsorted : (t.map (·.1)).Pairwise (· < ·)) {p : Nat × α} (hp : p ∈ t) :
    Table.get d t p.1 = p.2 := by
  induction t with
  | nil => exact absurd hp List.not_mem_nil
  | cons q t ih =>
    obtain ⟨hfirst, hsorted'⟩ := List.pairwise_cons.mp hsorted
    rcases List.mem_cons.mp hp with rfl | hin
    · rw [Table.get, if_pos rfl]
    · have hlt : q.1 < p.1 := hfirst p.1 (List.mem_map_of_mem hin)
      rw [Table.get, if_neg (by omega)]
      exact ih hsorted' hin

theorem Table.mem_of_get_ne {α : Type} {d : α} {t : Table α} {i : Nat} (h : Table.get d t i ≠ d) : (i, Table.get d t i) ∈ t := by
  induction t with
  | nil => exact absurd rfl h
  | cons p t ih =>
    rw [Table.get] at h ⊢
    split at h
    case isTrue hp =>
      rw [if_pos hp, ← hp]
      exact List.mem_cons_self ..
    case isFalse hp =>
      rw [if_neg hp]
      exact List.mem_cons_of_mem _ (ih h)

/-- A stream table with its keys in order, as the model keeps it. -/
def State.streamsSorted (s : State) : Prop := (s.streams.map (·.1)).Pairwise (· < ·)

theorem State.hallStreams_nodup {s : State} (hsorted : s.streamsSorted) (h : Nat) : ((s.hallStreams h).map fun p => p.1 % 4096).Nodup := by
  have hsub : ((s.hallStreams h).map (·.1)).Pairwise (· < ·) := List.Pairwise.sublist (List.filter_sublist.map _) hsorted
  rw [List.Nodup, List.pairwise_map]
  refine (List.Pairwise.and_mem.mp (List.pairwise_map.mp hsub)).imp fun {p q} hpq => ?_
  obtain ⟨hp, hq, hlt⟩ := hpq
  have hp' : p.1 / 4096 = h := by simpa using (List.mem_filter.mp hp).2
  have hq' : q.1 / 4096 = h := by simpa using (List.mem_filter.mp hq).2
  omega

theorem State.mem_hallStreams {s : State} (hsorted : s.streamsSorted) {h : Nat} {p : Nat × Stream} (hp : p ∈ s.hallStreams h) :
    p.1 = 4096 * h + p.1 % 4096 ∧ p.2 = s.stream h (p.1 % 4096) := by
  have hall : p.1 / 4096 = h := by simpa using (List.mem_filter.mp hp).2
  have hkey : p.1 = 4096 * h + p.1 % 4096 := by omega
  refine ⟨hkey, ?_⟩
  rw [State.stream, ← hkey]
  exact (Table.get_of_mem hsorted (List.mem_filter.mp hp).1).symm

theorem State.hallStreams_of_eligible {s : State} {h k : Nat} (hk : k < 4096) (helig : s.eligible (s.stream h k) = true) :
    (4096 * h + k, s.stream h k) ∈ s.hallStreams h := by
  have hne : s.stream h k ≠ Stream.reset := by
    intro hreset
    rw [hreset] at helig
    exact Bool.false_ne_true helig
  refine List.mem_filter.mpr ⟨Table.mem_of_get_ne hne, ?_⟩
  have hdiv : (4096 * h + k) / 4096 = h := by omega
  simpa using hdiv

theorem State.grantSeen_stream {s : State} (hsorted : s.streamsSorted) {h k : Nat} (hk : k < 4096) (helig : s.eligible (s.stream h k) = true) :
    (s.grantSeen h).stream h k = (s.candidate h k).st := by
  have hmem := State.hallStreams_of_eligible hk helig
  have hmod : (4096 * h + k) % 4096 = k := by omega
  have hseen := State.foldl_modStream_mem (key := fun p : Nat × Stream => p.1 % 4096)
    (g := fun p => Stream.seen ((s.hall h).grants + 1) (s.eligible p.2)) (h := h) hmem (s.hallStreams_nodup hsorted h) s
  dsimp only at hseen
  rw [hmod, helig] at hseen
  exact hseen

theorem State.candidate_of_mem {s : State} (hsorted : s.streamsSorted) {h : Nat} {p : Nat × Stream}
    (hp : p ∈ (s.hallStreams h).filter fun p => s.eligible p.2) :
    (⟨p.1 % 4096, (s.grantSeen h).stream h (p.1 % 4096), (p.2.active.map s.timeToEmpty).getD 0⟩ : Candidate) = s.candidate h (p.1 % 4096) ∧
      s.eligible (s.stream h (p.1 % 4096)) = true := by
  obtain ⟨hin, helig⟩ := List.mem_filter.mp hp
  obtain ⟨-, hstream⟩ := State.mem_hallStreams hsorted hin
  rw [hstream] at helig
  rw [State.grantSeen_stream hsorted (Nat.mod_lt _ (by decide)) helig, hstream]
  exact ⟨rfl, helig⟩

/-- They are the eligible ones of the hall. -/
theorem State.mem_grantCandidates {s : State} (hsorted : s.streamsSorted) {h : Nat} {x : Candidate} :
    x ∈ s.grantCandidates h ↔ x.d < 4096 ∧ s.eligible (s.stream h x.d) = true ∧ x = s.candidate h x.d := by
  constructor
  · intro hx
    obtain ⟨p, hp, rfl⟩ := List.mem_map.mp hx
    obtain ⟨heq, helig⟩ := State.candidate_of_mem hsorted hp
    exact ⟨Nat.mod_lt _ (by decide), helig, heq⟩
  · rintro ⟨hd, helig, hx⟩
    have hmod : (4096 * h + x.d) % 4096 = x.d := by omega
    have hp : (4096 * h + x.d, s.stream h x.d) ∈ (s.hallStreams h).filter fun p => s.eligible p.2 :=
      List.mem_filter.mpr ⟨State.hallStreams_of_eligible hd helig, helig⟩
    obtain ⟨heq, -⟩ := State.candidate_of_mem hsorted hp
    rw [hx]
    refine List.mem_map.mpr ⟨_, hp, heq.trans ?_⟩
    rw [hmod]

theorem State.grantCandidates_nodup {s : State} (hsorted : s.streamsSorted) (h : Nat) : ((s.grantCandidates h).map (·.d)).Nodup := by
  have hsub : (((s.hallStreams h).filter fun p => s.eligible p.2).map fun p => p.1 % 4096).Nodup :=
    (s.hallStreams_nodup hsorted h).sublist (List.filter_sublist.map _)
  rw [State.grantCandidates, List.map_map]
  exact hsub

theorem State.grantPassed_stream {s : State} (hsorted : s.streamsSorted) {h k : Nat} {c : Candidate} (hk : k < 4096) (hne : k ≠ c.d)
    (helig : s.eligible (s.stream h k) = true) :
    (s.grantPassed h c).stream h k = Stream.passedOver ((s.hall h).grants + 1) (s.candidate h k).st := by
  have hmem : s.candidate h k ∈ (s.grantCandidates h).filter fun x => x.d != c.d :=
    List.mem_filter.mpr ⟨(State.mem_grantCandidates hsorted).mpr ⟨hk, helig, rfl⟩, bne_iff_ne.mpr hne⟩
  have hnodup : (((s.grantCandidates h).filter fun x => x.d != c.d).map (·.d)).Nodup :=
    (s.grantCandidates_nodup hsorted h).sublist (List.filter_sublist.map _)
  have hpassed := State.foldl_modStream_mem (key := fun x : Candidate => x.d) (g := fun _ => Stream.passedOver ((s.hall h).grants + 1)) (h := h) hmem hnodup
    ((s.grantSeen h).modHall h fun hl => { hl with grants := (s.hall h).grants + 1 })
  refine hpassed.trans (congrArg _ ?_)
  exact State.grantSeen_stream hsorted hk helig

theorem State.grantPassed_hall (s : State) (h : Nat) (c : Candidate) : ((s.grantPassed h c).hall h).grants = (s.hall h).grants + 1 := by
  have hset := (s.grantSeen h).modHall_hall h h fun hl => { hl with grants := (s.hall h).grants + 1 }
  rw [if_pos rfl] at hset
  unfold State.grantPassed
  rw [State.foldl_modStream_rest h (fun x : Candidate => x.d)]
  exact congrArg Hall.grants hset

/-- The grant of R222: the transfer of the descriptor that comes before every other. -/
theorem exec_streamGrant {s : State} {h d : Nat} {a : Arming} (hup : s.hallUp h = true) (hd : d < 4096) (hsorted : s.streamsSorted)
    (ha : (s.stream h d).active = some a) (helig : s.eligible (s.stream h d) = true)
    (hbest : ∀ k, k < 4096 → k ≠ d → s.eligible (s.stream h k) = true → candidateBefore (s.candidate h d) (s.candidate h k) = true) :
    exec (.streamGrant h) s = .next (s.grantedTo h (s.candidate h d) a) := by
  have hin : s.candidate h d ∈ s.grantCandidates h := (State.mem_grantCandidates hsorted).mpr ⟨hd, helig, rfl⟩
  have hpick : pickBest candidateBefore (s.grantCandidates h) = some (s.candidate h d) := by
    refine pickBest_eq hin (List.Nodup.of_map _ (s.grantCandidates_nodup hsorted h)) fun y hy hne => ?_
    obtain ⟨hyd, hyelig, hyeq⟩ := (State.mem_grantCandidates hsorted).mp hy
    have hdne : y.d ≠ d := fun heq => hne (by rw [hyeq, heq])
    have hbefore := hbest y.d hyd hdne hyelig
    rw [← hyeq] at hbefore
    exact ⟨hbefore, candidateBefore_asymm hbefore⟩
  have hactive : (s.candidate h d).st.active = some a := by
    show (Stream.seen _ true (s.stream h d)).active = some a
    unfold Stream.seen
    simp only [Bool.not_true, Bool.false_eq_true, if_false]
    split
    · exact ha
    · exact ha
  exact congrArg Host.Outcome.next (State.streamGrant_eq hup hpick hactive)

theorem State.grantPassed_sameBytes (s : State) (h : Nat) (c : Candidate) : (s.grantPassed h c).sameBytes s := by
  rw [State.grantPassed_rest]
  exact ⟨rfl, rfl, rfl⟩

theorem State.grantedTo_sameBytes (s : State) (h : Nat) (c : Candidate) (a : Arming) : (s.grantedTo h c a).sameBytes s := by
  obtain ⟨hmem, hpoison, hfull⟩ := (s.grantPassed h c).noteGrant_sameBytes h c a
  obtain ⟨hmem', hpoison', hfull'⟩ := s.grantPassed_sameBytes h c
  exact ⟨hmem'.trans hmem, hpoison'.trans hpoison, hfull'.trans hfull⟩

theorem State.grantedTo_grants (s : State) (h : Nat) (c : Candidate) (a : Arming) :
    ((s.grantedTo h c a).hall h).grants = (s.hall h).grants + 1 := by
  have hhall : (s.grantedTo h c a).hall h = (s.grantPassed h c).hall h := by
    rw [State.hall, State.grantedTo, State.noteGrant_halls, State.hall]
  rw [hhall, State.grantPassed_hall]

/-- A grant counts up its descriptor's arming and passes over every other eligible descriptor. -/
theorem State.grantedTo_other {s : State} (hsorted : s.streamsSorted) {h d k : Nat} (a : Arming) (hk : k < 4096) (hne : k ≠ d)
    (helig : s.eligible (s.stream h k) = true) :
    (s.grantedTo h (s.candidate h d) a).stream h k = Stream.passedOver ((s.hall h).grants + 1) (s.candidate h k).st := by
  have hcd : (s.candidate h d).d ≠ k := Ne.symm hne
  rw [State.grantedTo, State.noteGrant_stream, if_neg hcd, State.grantPassed_stream hsorted hk hne helig]

theorem State.grantedTo_active (s : State) (h d : Nat) (a : Arming) :
    ((s.grantedTo h (s.candidate h d) a).stream h d).active = some { a with granted := a.granted + 1, flying := a.flying ++ [a.granted] } := by
  have hcd : (s.candidate h d).d = d := rfl
  rw [State.grantedTo, State.noteGrant_stream, if_pos hcd]
  rfl

/-! ### What a movement through an access may change (R208, R317, R353) -/

/-- What stores through an access, to memory or to space 5, may change. -/
def Wrote (s s' : State) : Prop :=
  s' = { s with mem := s'.mem, poison := s'.poison, caches := s'.caches, mod := s'.mod, newel := s'.newel, power := s'.power, sec := s'.sec
                hif := s'.hif, pages := s'.pages, out := s'.out, lowHalf := s'.lowHalf }

theorem Wrote.refl (s : State) : Wrote s s := rfl

theorem Wrote.trans {s s' s'' : State} (h : Wrote s s') (k : Wrote s' s'') : Wrote s s'' := by
  unfold Wrote at h k ⊢
  rw [k, h]

theorem Wrote.foldl {α : Type} {f : State → α → State} (hf : ∀ s a, Wrote s (f s a)) (l : List α) (s : State) : Wrote s (l.foldl f s) := by
  induction l generalizing s with
  | nil => exact Wrote.refl s
  | cons a l ih => exact (hf s a).trans (ih (f s a))

theorem Wrote.items {s s' : State} (h : Wrote s s') : s'.items = s.items := by rw [h]
theorem Wrote.streams {s s' : State} (h : Wrote s s') : s'.streams = s.streams := by rw [h]

theorem State.store_wrote (s : State) (ac : Access) (a : Nat) (bs : List Byte) : Wrote s (s.store ac a bs) := by
  by_cases h5 : addrSpace a = 5
  · rw [State.store, if_pos h5]
    have hmanaged := s.managementStore_managed (addrOffset a) bs
    rw [hmanaged.rest]
    rfl
  · have hstored := s.store_stored ac h5 bs
    unfold Stored at hstored
    rw [hstored]
    rfl

theorem State.moveByteBits_wrote (s : State) (acS acD : Access) (src dst lo n : Nat) : Wrote s (s.moveByteBits acS acD src dst lo n) := by
  unfold State.moveByteBits
  split
  · exact Wrote.refl s
  · exact s.store_wrote _ _ _

theorem State.storeUnless_wrote (s : State) (ac : Access) (a n : Nat) (bs : List Byte) :
    Wrote s (if n = 0 then s else s.store ac a bs) := by
  split
  · exact Wrote.refl s
  · exact s.store_wrote _ _ _

/-- The bits that a movement writes, poison apart. -/
def State.movedBits (s : State) (acS acD : Access) (src dst o n : Nat) : State :=
  let lead := if o = 0 then 0 else Nat.min n (8 - o)
  let skip := if o = 0 then 0 else 1
  let whole := (n - lead) / 8
  let s1 := s.moveByteBits acS acD src dst o lead
  (if whole = 0 then s1 else s1.store acD (dst + skip) (s.load acS (src + skip) whole)).moveByteBits acS acD (src + skip + whole)
    (dst + skip + whole) 0 ((n - lead) % 8)

theorem State.movedBits_wrote (s : State) (acS acD : Access) (src dst o n : Nat) : Wrote s (s.movedBits acS acD src dst o n) :=
  ((s.moveByteBits_wrote _ _ _ _ _ _).trans (State.storeUnless_wrote _ _ _ _ _)).trans (State.moveByteBits_wrote _ _ _ _ _ _ _)

theorem State.moveBits_eq (s : State) (acS acD : Access) (src dst o n : Nat) : s.moveBits acS acD src dst o n =
    if s.poison.isEmpty ∨ addrSpace dst = 3 then s.movedBits acS acD src dst o n
    else (List.range ((o + n + 7) / 8)).foldl (fun st i =>
      if s.poison.contains (hostKey acS.function (src + i) / 8 * 8) then st.addPoison ((dst + i) / 8 * 8) else st)
        (s.movedBits acS acD src dst o n) := rfl

theorem State.addPoison_wrote (s : State) (w : Nat) : Wrote s (s.addPoison w) := rfl

theorem State.moveBits_wrote (s : State) (acS acD : Access) (src dst o n : Nat) : Wrote s (s.moveBits acS acD src dst o n) := by
  rw [State.moveBits_eq]
  split
  · exact s.movedBits_wrote _ _ _ _ _ _
  · refine (s.movedBits_wrote _ _ _ _ _ _).trans (Wrote.foldl (fun u i => ?_) _ _)
    split
    · exact u.addPoison_wrote _
    · exact Wrote.refl u

theorem State.movePart_wrote (s : State) (fn : Nat) (src dst : Block512) (rS rD c0 d0 n : Nat) :
    Wrote s (s.movePart fn src dst rS rD c0 d0 n).1 :=
  (s.moveBits_wrote _ _ _ _ _ _).trans (Wrote.foldl (fun u _ => u.moveBits_wrote _ _ _ _ _ _) _ _)

/-! ### The end of a transfer (R220, R223) -/

/-- The parts of a transfer are moved into its entry; the bytes are counted. -/
def State.movedTransfer (s : State) (a : Arming) (i : Nat) : State × Nat :=
  (placeParts 0 (a.parts i)).foldl (fun st p =>
    let (s', n) := st.1.movePart (s.itemFunction a.item) a.srcWin a.dstWin p.1.1 (a.entry i) p.1.2.1 p.2 p.1.2.2
    (s', st.2 + n)) (s, 0)

theorem foldl_counted_wrote {α : Type} {f : State → α → State × Nat} (hf : ∀ s a, Wrote s (f s a).1) (l : List α) (p : State × Nat) :
    Wrote p.1 (l.foldl (fun st a => ((f st.1 a).1, st.2 + (f st.1 a).2)) p).1 := by
  induction l generalizing p with
  | nil => exact Wrote.refl p.1
  | cons a l ih => exact (hf p.1 a).trans (ih _)

theorem State.movedTransfer_wrote (s : State) (a : Arming) (i : Nat) : Wrote s (s.movedTransfer a i).1 :=
  foldl_counted_wrote (f := fun u (p : (Nat × Nat × Nat) × Nat) =>
    u.movePart (s.itemFunction a.item) a.srcWin a.dstWin p.1.1 (a.entry i) p.1.2.1 p.2 p.1.2.2) (fun u _ => u.movePart_wrote _ _ _ _ _ _ _ _) _ (s, 0)

/-- A descriptor whose arming `a` has one transfer more behind it, the rest under way. -/
def Stream.advanced (a : Arming) (rest : List Nat) (st : Stream) : Stream :=
  { st with active := some { a with flying := rest, completed := a.completed + 1 } }

/-- The state in which a transfer has been moved, counted and its entry filled. -/
def State.transferIn (s : State) (h d : Nat) (a : Arming) (i : Nat) (rest : List Nat) : State :=
  (((s.movedTransfer a i).1.modItem a.item fun t => { t with bytes := t.bytes + (s.movedTransfer a i).2 }).modStream h d
    (Stream.advanced a rest)).fillEntry h d a (a.entry i)

theorem State.markFull_rest (s : State) (a n : Nat) : s.markFull a n = { s with full := (s.markFull a n).full } := rfl

theorem State.foldl_markFull_rest (l : List (Nat × Nat)) (s : State) : l.foldl (fun u p => u.markFull p.1 p.2) s =
    { s with full := (l.foldl (fun u p => u.markFull p.1 p.2) s).full } := by
  induction l generalizing s with
  | nil => rfl
  | cons p l ih =>
    rw [List.foldl_cons, ih (s.markFull p.1 p.2)]
    rfl

theorem State.fillEntry_items (s : State) (h d : Nat) (a : Arming) (e : Nat) : (s.fillEntry h d a e).items = s.items := by
  unfold State.fillEntry
  split
  · rw [State.foldl_markFull_rest]
  · rfl

/-- Filling an entry changes nothing of a descriptor but which entries of its arming are full. -/
theorem State.fillEntry_stream {s : State} {h d : Nat} {b : Arming} (hb : (s.stream h d).active = some b) (a : Arming) (e : Nat) :
    ∃ full, ((s.fillEntry h d a e).stream h d).active = some { b with full := full } ∧
      ((s.fillEntry h d a e).stream h d).pending = (s.stream h d).pending := by
  unfold State.fillEntry
  split
  · rw [State.foldl_markFull_rest]
    exact ⟨b.full, hb, rfl⟩
  · rw [State.modStream_stream, if_pos rfl]
    refine ⟨insertNat b.full e, ?_, rfl⟩
    show (s.stream h d).active.map _ = _
    rw [hb]
    rfl

theorem State.transferIn_stream (s : State) (h d : Nat) (a : Arming) (i : Nat) (rest : List Nat) :
    ∃ full, ((s.transferIn h d a i rest).stream h d).active = some { a with flying := rest, completed := a.completed + 1, full := full } ∧
      ((s.transferIn h d a i rest).stream h d).pending = (s.stream h d).pending := by
  have hin : (((s.movedTransfer a i).1.modItem a.item fun t => { t with bytes := t.bytes + (s.movedTransfer a i).2 }).modStream h d
      (Stream.advanced a rest)).stream h d = Stream.advanced a rest (s.stream h d) := by
    rw [State.modStream_stream, if_pos rfl]
    exact congrArg _ (State.stream_of_streams (s.movedTransfer_wrote a i).streams h d)
  obtain ⟨full, hactive, hpending⟩ := State.fillEntry_stream (s := ((s.movedTransfer a i).1.modItem a.item fun t =>
    { t with bytes := t.bytes + (s.movedTransfer a i).2 }).modStream h d (Stream.advanced a rest)) (by rw [hin]; rfl) a (a.entry i)
  refine ⟨full, hactive, hpending.trans ?_⟩
  rw [hin]
  rfl

theorem State.transferIn_item {s : State} {h d : Nat} {a : Arming} {t : Item} (ht : s.item a.item = some t) (i : Nat) (rest : List Nat) :
    ∃ u, (s.transferIn h d a i rest).item a.item = some u := by
  have hmoved : (s.movedTransfer a i).1.item a.item = some t := by
    rw [State.item, (s.movedTransfer_wrote a i).items]
    exact ht
  have hmod := (s.movedTransfer a i).1.modItem_item a.item a.item (fun t => { t with bytes := t.bytes + (s.movedTransfer a i).2 }) fun _ => rfl
  rw [if_pos rfl, hmoved] at hmod
  have hitems : (s.transferIn h d a i rest).items =
      ((s.movedTransfer a i).1.modItem a.item fun t => { t with bytes := t.bytes + (s.movedTransfer a i).2 }).items :=
    State.fillEntry_items _ h d a (a.entry i)
  rw [State.item, hitems]
  exact ⟨_, hmod⟩

/-- The transfer that ends, nothing stopping it. -/
theorem State.streamComplete_eq {s : State} {h d i : Nat} {rest : List Nat} {a : Arming} {answer : HostAnswer} (ha : (s.stream h d).active = some a)
    (hflying : a.flying = i :: rest) (hdone : s.transferDone h d i = true) (hheld : s.transferHeld a i = false) (hcut : s.transferCut a = none)
    (hfault : s.transferFault a i answer = none) : s.streamComplete h d answer =
      if a.completed + 1 = a.transfers then ((s.transferIn h d a i rest).finish a.item 0).dropArmings a.item else s.transferIn h d a i rest := by
  simp only [State.streamComplete, ha, hflying, hdone, hheld, hcut, hfault, Bool.not_true, Bool.or_self, Bool.false_eq_true, if_false,
    Option.orElse_none]
  rfl

/-- The last transfer of an arming decides its item; the pending arming becomes active. -/
theorem State.endedTransfer {s : State} {h d i : Nat} {rest : List Nat} {a : Arming} {t : Item} (ht : s.item a.item = some t)
    (hpending : ∀ b, (s.stream h d).pending = some b → b.item ≠ a.item) :
    (∃ u, (((s.transferIn h d a i rest).finish a.item 0).dropArmings a.item).item a.item = some u ∧ u.phase = .decided) ∧
      ((((s.transferIn h d a i rest).finish a.item 0).dropArmings a.item).stream h d).active = (s.stream h d).pending ∧
      ((((s.transferIn h d a i rest).finish a.item 0).dropArmings a.item).stream h d).pending = none := by
  obtain ⟨u, hu⟩ := State.transferIn_item (h := h) (d := d) ht i rest
  obtain ⟨w, hw, hphase, -⟩ := State.finish_doneWith hu 0
  obtain ⟨full, hactive, hpend⟩ := s.transferIn_stream h d a i rest
  have hstream : (((s.transferIn h d a i rest).finish a.item 0).dropArmings a.item).stream h d = ((s.transferIn h d a i rest).stream h d).next := by
    rw [State.dropArmings_stream]
    exact Stream.without_of_active hactive rfl fun b hb => hpending b (hpend.symm.trans hb)
  refine ⟨⟨w, ?_, hphase⟩, ?_, ?_⟩
  · rw [State.item, State.dropArmings_items]
    exact hw
  · rw [hstream]
    exact hpend
  · rw [hstream]
    rfl

/-- Settles O42: a grant takes the candidate before every other, and the transfer that ends is counted or ends its arming. -/
theorem streamTransfers : Obligations.StreamTransfers := by
  unfold Obligations.StreamTransfers
  refine ⟨?grant, ?complete, fun x y hx hy => candidateBefore_of_aged hx hy, fun x y hx hy htte => candidateBefore_of_tte hx hy htte,
    fun x y a b hx hy => candidateBefore_iff_of_aged hx hy, fun x y hx hy htte => candidateBefore_iff_of_sameTte hx hy htte⟩
  case grant =>
    intro s h d a hup hd hsorted ha helig hbest
    exact ⟨_, _, exec_streamGrant hup hd hsorted ha helig hbest, s.grantedTo_active h d a, rfl, rfl, rfl, s.grantedTo_grants h _ a,
      s.grantedTo_sameBytes h _ a, fun k hk hne hk' => State.grantedTo_other hsorted a hk hne hk'⟩
  case complete =>
    intro s h d i rest a t answer ha hflying ht hdone hheld hcut hfault _ hpending
    have hnocut : s.transferCut a = none := by
      simp only [State.transferCut, ht, Option.bind_some, hcut, failIf, Bool.false_eq_true, if_false]
    refine ⟨_, congrArg Host.Outcome.next (State.streamComplete_eq ha hflying hdone hheld hnocut hfault), fun hmore => ?_, fun hlast => ?_⟩
    · rw [if_neg hmore]
      obtain ⟨full, hactive, -⟩ := s.transferIn_stream h d a i rest
      exact ⟨_, hactive, rfl, rfl, rfl⟩
    · rw [if_pos hlast]
      exact State.endedTransfer ht hpending

end Sys2Proof.Machine
end

section
/-!
The ledgers: admission, the answers to a request and the fills of the tensor cache (R209–R211, R214–R217).
-/
namespace Sys2Proof.Machine

/-! ### The order of R216 -/

/-- The rank of a request in the order of R216: aged, with a time-to-empty, without one. -/
def Request.rank (r : Request) : Nat := if r.lost ≥ 8 then 0 else if r.tte.isSome then 1 else 2

/-- The time-to-empty by which requests of rank 1 are ordered. -/
def Request.urgency (r : Request) : Nat := if r.lost ≥ 8 then 0 else r.tte.getD 0

theorem admitBefore_iff (a b : Request) : admitBefore a b = true ↔
    a.rank < b.rank ∨ (a.rank = b.rank ∧ (a.urgency < b.urgency ∨ (a.urgency = b.urgency ∧ a.id < b.id))) := by
  unfold admitBefore Request.rank Request.urgency
  by_cases ha : a.lost ≥ 8
  · by_cases hb : b.lost ≥ 8
    · simp [ha, hb]
    · by_cases hx : b.tte.isSome <;> simp [ha, hb, hx]
  · by_cases hb : b.lost ≥ 8
    · by_cases hx : a.tte.isSome <;> simp [ha, hb, hx]
    · rcases hx : a.tte with _ | x <;> rcases hy : b.tte with _ | y <;> simp [ha, hb]

theorem admitBefore_asymm {a b : Request} (h : admitBefore a b = true) : admitBefore b a = false := by
  rw [Bool.eq_false_iff, ne_eq, admitBefore_iff]
  rw [admitBefore_iff] at h
  omega

theorem admitBefore_negTrans {a b c : Request} (hab : admitBefore a b = false) (hbc : admitBefore b c = false) : admitBefore a c = false := by
  rw [Bool.eq_false_iff, ne_eq, admitBefore_iff] at hab hbc ⊢
  omega

/-- In an order in which incomparable means equal, what `pickBest` picks has none before it. -/
theorem pickBest_least {α : Type} {better : α → α → Bool} (hasymm : ∀ {a b}, better a b = true → better b a = false)
    (htrans : ∀ {a b c}, better a b = false → better b c = false → better a c = false) {l : List α} {x : α}
    (h : pickBest better l = some x) : ∀ y ∈ l, better y x = false := by
  have hirrefl : ∀ a, better a a = false := by
    intro a
    by_contra hne
    rw [Bool.not_eq_false] at hne
    exact absurd (hasymm hne) (by simp [hne])
  induction l generalizing x with
  | nil => exact nomatch h
  | cons a l ih =>
    rw [pickBest] at h
    cases hrest : pickBest better l with
    | none =>
      rw [hrest] at h
      obtain rfl : a = x := by simpa using h
      intro y hy
      rcases List.mem_cons.mp hy with rfl | hy
      · exact hirrefl _
      · cases l with
        | nil => exact nomatch hy
        | cons b l => exact absurd hrest (pickBest_ne_none better (List.cons_ne_nil b l))
    | some b =>
      rw [hrest] at h
      by_cases hb : better b a = true
      · obtain rfl : b = x := by simpa [hb] using h
        intro y hy
        rcases List.mem_cons.mp hy with rfl | hy
        · exact hasymm hb
        · exact ih hrest y hy
      · obtain rfl : a = x := by simpa [hb] using h
        intro y hy
        rcases List.mem_cons.mp hy with rfl | hy
        · exact hirrefl _
        · exact htrans (ih hrest y hy) (Bool.not_eq_true _ ▸ hb)

theorem pickBest_eq_none_iff {α : Type} {better : α → α → Bool} {l : List α} : pickBest better l = none ↔ l = [] := by
  cases l with
  | nil => exact ⟨fun _ => rfl, fun _ => rfl⟩
  | cons a l => exact ⟨fun h => absurd h (pickBest_ne_none better (List.cons_ne_nil a l)), fun h => nomatch h⟩

/-! ### Admission -/

/-- Where every waiting request has a route none is taken away. -/
theorem State.cutRequests_of_reached {s : State} {h : Nat} (hreach : ∀ q ∈ (s.ledger h).waiting, s.hallReaches h (addrHall q.address) = true) :
    s.cutRequests h = s.modLedger h fun g => { g with waiting := (s.ledger h).waiting } := by
  have hcut : (s.ledger h).waiting.filter (fun r => !s.hallReaches h (addrHall r.address)) = [] := by
    rw [List.filter_eq_nil_iff]
    exact fun q hq => by simp [hreach q hq]
  have hstay : (s.ledger h).waiting.filter (fun r => !!s.hallReaches h (addrHall r.address)) = (s.ledger h).waiting := by
    rw [List.filter_eq_self]
    exact fun q hq => by simp [hreach q hq]
  unfold State.cutRequests
  dsimp only
  rw [hcut]
  show s.modLedger h (fun g => { g with waiting := g.waiting.filter fun r => !!s.hallReaches h (addrHall r.address) }) = _
  unfold State.modLedger
  dsimp only
  rw [hstay]

theorem State.cutRequests_ledger {s : State} {h : Nat} (hreach : ∀ q ∈ (s.ledger h).waiting, s.hallReaches h (addrHall q.address) = true) :
    (s.cutRequests h).ledger h = s.ledger h := by
  rw [State.cutRequests_of_reached hreach, State.modLedger_ledger, if_pos rfl]

theorem State.admissible_congr {s s' : State} {h : Nat} (hledger : s'.ledger h = s.ledger h) (hhalls : s'.halls = s.halls) (q : Request) :
    s'.admissible h q = s.admissible h q := by
  unfold State.admissible State.ledgerCap State.hall
  rw [hledger, hhalls]

theorem State.cutRequests_admissible {s : State} {h : Nat} (hreach : ∀ q ∈ (s.ledger h).waiting, s.hallReaches h (addrHall q.address) = true) :
    (s.cutRequests h).admissible h = s.admissible h :=
  funext (State.admissible_congr (State.cutRequests_ledger hreach) (by rw [State.cutRequests_of_reached hreach]; rfl))

/-- The ledger of a hall with `r` admitted and nothing merged into it. -/
def State.admitted (s : State) (h : Nat) (r : Request) : Ledger :=
  { s.ledger h with
    waiting := ((s.ledger h).waiting.filter fun q => q.id != r.id).map (s.passOver h)
    slots := (s.ledger h).slots ++ [r] }

theorem State.bump_counters (s : State) (p sel n : Nat) : ∃ c, s.bump p sel n = { s with counters := c } := ⟨_, rfl⟩

theorem State.bumps_counters (s : State) (p a b c d : Nat) :
    ∃ k, (((s.bump p 0x20 a).bump p 0x21 b).bump p 0x22 c).bump p 0x23 d = { s with counters := k } := by
  obtain ⟨k, hk⟩ := s.bump_counters p 0x20 a
  obtain ⟨l, hl⟩ := (s.bump p 0x20 a).bump_counters p 0x21 b
  obtain ⟨m, hm⟩ := ((s.bump p 0x20 a).bump p 0x21 b).bump_counters p 0x22 c
  obtain ⟨n, hn⟩ := (((s.bump p 0x20 a).bump p 0x21 b).bump p 0x22 c).bump_counters p 0x23 d
  exact ⟨n, by rw [hn, hm, hl, hk]⟩

theorem State.admitOne_of_none {s : State} {h : Nat} (hreach : ∀ q ∈ (s.ledger h).waiting, s.hallReaches h (addrHall q.address) = true)
    (hnone : pickBest admitBefore ((s.ledger h).waiting.filter (s.admissible h)) = none) : s.admitOne h .clean = s.cutRequests h := by
  unfold State.admitOne
  dsimp only
  rw [State.cutRequests_ledger hreach, State.cutRequests_admissible hreach, hnone]

theorem State.admitOne_of_some {s : State} {h : Nat} {r : Request}
    (hreach : ∀ q ∈ (s.ledger h).waiting, s.hallReaches h (addrHall q.address) = true)
    (hbest : pickBest admitBefore ((s.ledger h).waiting.filter (s.admissible h)) = some r)
    (hmerge : ∀ q ∈ (s.ledger h).waiting, mergesWith r q = false) :
    ∃ c, s.admitOne h .clean = { (s.cutRequests h).modLedger h fun _ => s.admitted h r with counters := c } := by
  have hpartners : (s.ledger h).waiting.filter (mergesWith r) = [] := by
    rw [List.filter_eq_nil_iff]
    exact fun q hq => by simp [hmerge q hq]
  have hpass : (s.cutRequests h).passOver h = s.passOver h := by
    funext q
    unfold State.passOver
    rw [State.cutRequests_admissible hreach]
  unfold State.admitOne
  dsimp only
  rw [State.cutRequests_ledger hreach, State.cutRequests_admissible hreach, hbest]
  dsimp only
  rw [hpartners, hpass]
  simp only [List.any_nil, Bool.or_false, List.foldl_nil, Ecc.bad, Bool.false_eq_true, if_false]
  have hledger : (s.cutRequests h).modLedger h (fun g => { g with
      waiting := ((s.ledger h).waiting.filter fun q => !(q.id == r.id)).map (s.passOver h), slots := g.slots ++ [r] }) =
      (s.cutRequests h).modLedger h fun _ => s.admitted h r := by
    unfold State.modLedger
    rw [State.cutRequests_ledger hreach]
    rfl
  rw [hledger]
  exact State.bumps_counters _ _ _ _ _ _

/-- An admission that finds nothing admissible, and one that merges nothing. -/
theorem exec_ledgerAdmit (s : State) (h : Nat) (hreach : ∀ q ∈ (s.ledger h).waiting, s.hallReaches h (addrHall q.address) = true) :
    ((∀ q ∈ (s.ledger h).waiting, s.admissible h q = false) ∧
      ∃ s', exec (.ledgerAdmit h) s = .next s' ∧ s'.ledger h = s.ledger h ∧ s'.sameBytes s ∧ s'.items = s.items) ∨
      ∃ r, r ∈ (s.ledger h).waiting ∧ s.admissible h r = true ∧
        (∀ q ∈ (s.ledger h).waiting, s.admissible h q = true → admitBefore q r = false) ∧
        ((∀ q ∈ (s.ledger h).waiting, mergesWith r q = false) →
          ∃ s', exec (.ledgerAdmit h) s = .next s' ∧ s'.ledger h = s.admitted h r ∧ s'.sameBytes s ∧ s'.items = s.items) := by
  cases hbest : pickBest admitBefore ((s.ledger h).waiting.filter (s.admissible h)) with
  | none =>
    have hnone := pickBest_eq_none_iff.mp hbest
    rw [List.filter_eq_nil_iff] at hnone
    refine Or.inl ⟨fun q hq => by simpa using hnone q hq, _, congrArg Host.Outcome.next (State.admitOne_of_none hreach hbest),
      State.cutRequests_ledger hreach, ?_, ?_⟩
    · rw [State.cutRequests_of_reached hreach]
      exact ⟨rfl, rfl, rfl⟩
    · rw [State.cutRequests_of_reached hreach]
      rfl
  | some r =>
    obtain ⟨hmem, hadm⟩ := List.mem_filter.mp (pickBest_mem hbest)
    refine Or.inr ⟨r, hmem, hadm, fun q hq hq' => ?_, fun hmerge => ?_⟩
    · exact pickBest_least (better := admitBefore) admitBefore_asymm admitBefore_negTrans hbest q (List.mem_filter.mpr ⟨hq, hq'⟩)
    · obtain ⟨c, hc⟩ := State.admitOne_of_some hreach hbest hmerge
      refine ⟨_, congrArg Host.Outcome.next hc, ?_, ?_, ?_⟩
      · have hset := (s.cutRequests h).modLedger_ledger h h fun _ => s.admitted h r
        rw [if_pos rfl] at hset
        exact hset
      · rw [State.cutRequests_of_reached hreach]
        exact ⟨rfl, rfl, rfl⟩
      · rw [State.cutRequests_of_reached hreach]
        rfl

/-! ### The end of a request (R214) -/

/-- What issuing the rows held back changes: the requests that wait. -/
def Reissued (h : Nat) (s s' : State) : Prop := s' = { s with ledgers := s'.ledgers } ∧ (s'.ledger h).slots = (s.ledger h).slots

theorem Reissued.trans {h : Nat} {s s' s'' : State} (hs : Reissued h s s') (hs' : Reissued h s' s'') : Reissued h s s'' := by
  obtain ⟨hrest, hslots⟩ := hs
  obtain ⟨hrest', hslots'⟩ := hs'
  refine ⟨?_, hslots'.trans hslots⟩
  rw [hrest', hrest]

theorem Reissued.foldl {α : Type} {h : Nat} {f : State → α → State} (hf : ∀ s a, Reissued h s (f s a)) (l : List α) (s : State) :
    Reissued h s (l.foldl f s) := by
  induction l generalizing s with
  | nil => exact ⟨rfl, rfl⟩
  | cons a l ih => exact (hf s a).trans (ih (f s a))

theorem State.modLedger_reissued (s : State) (h : Nat) (f : Ledger → Ledger) (hf : (f (s.ledger h)).slots = (s.ledger h).slots) :
    Reissued h s (s.modLedger h f) := by
  refine ⟨rfl, ?_⟩
  rw [State.modLedger_ledger, if_pos rfl, hf]

theorem State.request_reissued (s : State) (h : Nat) (q : Requester) (tte : Option Nat) (via : Option Block512) (l : List (Nat × Nat × Bool)) :
    Reissued h s (s.request h q tte via l) := by
  unfold State.request
  exact s.modLedger_reissued h _ rfl

theorem State.issueRows_reissued (s : State) (h : Nat) : Reissued h s (s.issueRows h) := by
  refine (s.modLedger_reissued h (fun g => { g with later := [] }) rfl).trans (Reissued.foldl (fun u x => ?_) _ _)
  split
  · exact u.request_reissued h _ _ _ _
  · exact u.modLedger_reissued h _ rfl

theorem State.freeSlot_ledgers (s : State) (h id : Nat) : s.freeSlot h id = { s with ledgers := (s.freeSlot h id).ledgers } ∧
    ((s.freeSlot h id).ledger h).slots = (s.ledger h).slots.filter fun r => r.id != id := by
  obtain ⟨hrest, hslots⟩ := (s.modLedger h fun g => { g with slots := g.slots.filter fun r => r.id != id }).issueRows_reissued h
  rw [State.modLedger_ledger, if_pos rfl] at hslots
  exact ⟨hrest, hslots⟩

/-- A `PREFETCH` takes its line; no other requester does. -/
def State.takeLineFor (line : Nat) (s : State) (q : Requester) : State :=
  match q with
  | .fill i => s.takeLine i line
  | _ => s

/-- The `PREFETCH`es among the requesters of `r` have taken its line. -/
def State.tookLine (s : State) (r : Request) : State := r.from_.foldl (State.takeLineFor (r.address / 4096)) s

/-- What the end of a request changes: the lines that items have taken, and its ledger, where its slot is free. -/
structure Ended (h : Nat) (r : Request) (s s' : State) : Prop where
  rest : s' = { s with items := s'.items, ledgers := s'.ledgers }
  names : s'.items.map Item.name = s.items.map Item.name
  slots : (s'.ledger h).slots = (s.ledger h).slots.filter fun q => q.id != r.id

theorem State.takeLineFor_rest (line : Nat) (s : State) (q : Requester) :
    State.takeLineFor line s q = { s with items := (State.takeLineFor line s q).items } ∧
      (State.takeLineFor line s q).items.map Item.name = s.items.map Item.name := by
  unfold State.takeLineFor
  split
  case h_1 i =>
    have hquiet : Quiet s (s.takeLine i line) := by
      unfold State.takeLine
      exact State.modItem_quiet _ _ (fun _ => rfl) (Quiet.refl s)
    exact ⟨rfl, hquiet.names⟩
  case h_2 => exact ⟨rfl, rfl⟩

theorem State.tookLine_rest (s : State) (r : Request) : s.tookLine r = { s with items := (s.tookLine r).items } ∧
    (s.tookLine r).items.map Item.name = s.items.map Item.name := by
  unfold State.tookLine
  generalize r.from_ = l
  induction l generalizing s with
  | nil => exact ⟨rfl, rfl⟩
  | cons q l ih =>
    obtain ⟨hrest, hnames⟩ := ih (State.takeLineFor (r.address / 4096) s q)
    obtain ⟨hstep, hname⟩ := State.takeLineFor_rest (r.address / 4096) s q
    rw [List.foldl_cons]
    exact ⟨hrest.trans (by rw [hstep]), hnames.trans hname⟩

theorem State.endRequest_ended (s : State) (h : Nat) (r : Request) : Ended h r s (s.endRequest h r) := by
  obtain ⟨htook, hnames⟩ := s.tookLine_rest r
  obtain ⟨hrest, hslots⟩ := (s.tookLine r).freeSlot_ledgers h r.id
  have hend : s.endRequest h r = (s.tookLine r).freeSlot h r.id := rfl
  have hledger : (s.tookLine r).ledger h = s.ledger h := by rw [htook]; rfl
  rw [hend]
  refine ⟨?_, ?_, ?_⟩
  · rw [hrest, htook]
  · rw [hrest]
    exact hnames
  · rw [hslots, hledger]

theorem Ended.sameBytes {h : Nat} {r : Request} {s s' : State} (he : Ended h r s s') : s'.sameBytes s := by
  rw [he.rest]
  exact ⟨rfl, rfl, rfl⟩

theorem Ended.knots {h : Nat} {r : Request} {s s' : State} (he : Ended h r s s') : s'.knots = s.knots := by rw [he.rest]

theorem Ended.caches {h : Nat} {r : Request} {s s' : State} (he : Ended h r s s') : s'.caches = s.caches := by rw [he.rest]

/-- Counters are no part of what an end of a request is about. -/
theorem Ended.of_bump {h : Nat} {r : Request} {s s' : State} {p sel n : Nat} (he : Ended h r (s.bump p sel n) s') :
    s'.sameBytes s ∧ s'.items.map Item.name = s.items.map Item.name ∧ s'.knots = s.knots := ⟨he.sameBytes, he.names, he.knots⟩

/-! ### Answers (R209–R211, R228) -/

theorem Ecc.within_clean (n : Nat) : Ecc.clean.within n = .clean := by
  unfold Ecc.within
  split
  · rfl
  · rfl

theorem State.respondRead_clean (s : State) (h : Nat) (r : Request) : s.respondRead h r .clean = s.endRequest h r := rfl

/-- The answer to a write, or to a clean read outside the stacks. -/
theorem State.respond_plain {s : State} {h id : Nat} {r : Request} {e : Ecc} (hslot : (s.ledger h).slot id = some r)
    (hplain : r.write = true ∨ r.cached = false ∧ s.hallLost (addrHall r.address) = false ∧ e = .clean) :
    s.respond h id e = s.endRequest h r := by
  unfold State.respond
  rw [hslot]
  dsimp only
  split
  case isTrue => rfl
  case isFalse hno =>
    rcases hplain with hwrite | ⟨hcached, hhere, rfl⟩
    · exact absurd (Or.inl hwrite) hno
    · simp only [hhere, hcached, Bool.false_eq_true, if_false, Ecc.within_clean]
      rfl

/-- The answer to a read that hits the line `c`. -/
theorem State.respond_hit {s : State} {h id : Nat} {r : Request} {c : CacheLine} (hslot : (s.ledger h).slot id = some r) (hcached : r.cached = true)
    (hhit : s.requestHit r = some c) (htaken : s.lineTaken r = false) (hhere : s.hallLost (addrHall r.address) = false) :
    s.respond h id .clean = (s.touchLine (addrHall r.address) c).endRequest h r := by
  have hread : r.write = false := by
    simp only [Request.cached, Bool.and_eq_true, Bool.not_eq_true'] at hcached
    exact hcached.1
  unfold State.respond
  rw [hslot]
  simp only [hread, htaken, hhere, hcached, hhit, Bool.false_eq_true, or_self, if_false, if_true, Ecc.within_clean]
  rfl

theorem State.requestHit_mem {s : State} {r : Request} {c : CacheLine} (hhit : s.requestHit r = some c) : c ∈ s.cache (addrHall r.address) := by
  unfold State.requestHit at hhit
  split at hhit
  · exact nomatch hhit
  · exact List.mem_of_find?_eq_some hhit

theorem State.touchLine_mem {s : State} {h : Nat} {c : CacheLine} (hc : c ∈ s.cache h) :
    ({ c with lastUse := (s.hall h).accesses + 1 } : CacheLine) ∈ (s.touchLine h c).cache h := by
  have huse : (((s.cacheAccess h).bump (pgGallery h) 0x22 1).hall h).accesses = (s.hall h).accesses + 1 := by
    have hset := s.modHall_hall h h fun hl => { hl with accesses := hl.accesses + 1 }
    rw [if_pos rfl] at hset
    exact congrArg Hall.accesses hset
  unfold State.touchLine
  dsimp only
  rw [State.setCache_cache, if_pos rfl, huse]
  refine List.mem_map.mpr ⟨c, hc, ?_⟩
  rw [if_pos rfl]

theorem State.touchLine_sameBytes (s : State) (h : Nat) (c : CacheLine) : (s.touchLine h c).sameBytes s := ⟨rfl, rfl, rfl⟩
theorem State.touchLine_ledger (s : State) (h k : Nat) (c : CacheLine) : (s.touchLine h c).ledger k = s.ledger k := rfl
theorem State.touchLine_items (s : State) (h : Nat) (c : CacheLine) : (s.touchLine h c).items = s.items := rfl
theorem State.touchLine_knots (s : State) (h : Nat) (c : CacheLine) : (s.touchLine h c).knots = s.knots := rfl

/-! ### The fill of a line (R209–R211) -/

theorem State.ctxWrite_caches (s : State) (c b n v : Nat) : (s.ctxWrite c b n v).caches = s.caches := rfl

/-- What a change of the lines charged changes: the memory alone. -/
theorem State.rechargeLines_mem (s : State) (c b a : Nat) : s.rechargeLines c b a = { s with mem := (s.rechargeLines c b a).mem } := by
  unfold State.rechargeLines
  dsimp only
  split
  · rfl
  · rfl

theorem State.foldl_rechargeLines_mem (l : List Nat) (b a : Nat → Nat) (s : State) :
    l.foldl (fun st c => st.rechargeLines c (b c) (a c)) s = { s with mem := (l.foldl (fun st c => st.rechargeLines c (b c) (a c)) s).mem } := by
  induction l generalizing s with
  | nil => rfl
  | cons c l ih =>
    rw [List.foldl_cons]
    refine (ih _).trans ?_
    rw [s.rechargeLines_mem]

theorem State.replaceCache_rest (s : State) (h : Nat) (ls : List CacheLine) :
    s.replaceCache h ls = { s with mem := (s.replaceCache h ls).mem, caches := (s.replaceCache h ls).caches } := by
  unfold State.replaceCache
  dsimp only
  split
  · rfl
  · rw [State.foldl_rechargeLines_mem _ s.ctxLines (s.setCache h ls).ctxLines]
    rfl

theorem State.replaceCache_cache (s : State) (h : Nat) (ls : List CacheLine) : (s.replaceCache h ls).cache h = ls := by
  unfold State.replaceCache
  dsimp only
  split
  case isTrue heq => exact heq.symm
  case isFalse =>
    rw [State.foldl_rechargeLines_mem _ s.ctxLines (s.setCache h ls).ctxLines]
    exact (s.setCache_cache h h ls).trans (if_pos rfl)

theorem orElse_ne_none {α : Type} {o : Option α} {f : Unit → Option α} (h : f () ≠ none) : o.orElse f ≠ none := by
  cases o with
  | none => exact h
  | some a => exact nofun

theorem State.victim_ne_none (s : State) (t : Nat) {ls : List CacheLine} (hne : ls ≠ []) : s.victim t ls ≠ none := by
  unfold State.victim
  exact orElse_ne_none (orElse_ne_none (orElse_ne_none (pickBest_ne_none _ hne)))

/-- The line that a fill leaves in the cache. -/
def State.newLine (s : State) (h o owner : Nat) (hint : BitVec 8) (slot : Option Nat) : CacheLine :=
  ⟨cacheLineIndex o, owner, hint, slot, (s.hall h).accesses + 1⟩

/-- A fill below the quota puts the line into the cache, in place of any other of its address. -/
theorem State.fillLine_cache {s : State} {h o owner : Nat} {hint : BitVec 8} {slot : Option Nat} (hshare : (s.hall h).share ≠ 0)
    (hquota : s.atQuota owner = false) :
    ∃ keep : List CacheLine, (∀ d ∈ keep, d.line ≠ cacheLineIndex o) ∧
      (s.fillLine h o owner hint slot).cache h = keep ++ [s.newLine h o owner hint slot] := by
  have hk : (s.hall h).share.toNat ≠ 0 := fun hzero => hshare (BitVec.eq_of_toNat_eq hzero)
  have hkeep : ∀ d ∈ (s.cache h).filter fun c => c.line != cacheLineIndex o, d.line ≠ cacheLineIndex o := by
    intro d hd
    simpa using (List.mem_filter.mp hd).2
  unfold State.fillLine
  simp only [hk, hquota, Bool.false_eq_true, if_false]
  split
  · exact ⟨_, hkeep, State.replaceCache_cache _ _ _⟩
  · split
    case h_1 hfull _ hnone =>
      refine absurd hnone (State.victim_ne_none _ _ fun hnil => hfull ?_)
      rw [hnil]
      decide
    case h_2 hfull _ v hv =>
      exact ⟨_, fun d hd => hkeep d (List.mem_filter.mp hd).1, State.replaceCache_cache _ _ _⟩

/-- One whose context is at its quota, without a line of its own, leaves the cache. -/
theorem State.fillLine_of_atQuota {s : State} {h o owner : Nat} {hint : BitVec 8} {slot : Option Nat} (hquota : s.atQuota owner = true)
    (hnone : ∀ c ∈ s.cache h, c.owner ≠ owner) : (s.fillLine h o owner hint slot).cache h = s.cache h := by
  have hown : ((s.cache h).find? fun c => c.line == cacheLineIndex o && c.owner == owner) = none := by
    rw [List.find?_eq_none]
    exact fun c hc => by simp [hnone c hc]
  have hlru : ((((s.cache h).filter fun c => c.line != cacheLineIndex o).filter fun c => cacheBank c.line == cacheBank (cacheLineIndex o) &&
      cacheSet (s.hall h).share.toNat c.line == cacheSet (s.hall h).share.toNat (cacheLineIndex o)).filter fun c => c.owner == owner) = [] := by
    rw [List.filter_eq_nil_iff]
    exact fun c hc => by simpa using hnone c (List.mem_filter.mp (List.mem_filter.mp hc).1).1
  unfold State.fillLine
  simp only [hquota, if_true, hown, hlru, pickBest, Option.orElse_none]
  split
  · rfl
  · rfl

theorem State.fillLine_rest (s : State) (h o owner : Nat) (hint : BitVec 8) (slot : Option Nat) : s.fillLine h o owner hint slot =
    { s with mem := (s.fillLine h o owner hint slot).mem, halls := (s.fillLine h o owner hint slot).halls
             counters := (s.fillLine h o owner hint slot).counters, caches := (s.fillLine h o owner hint slot).caches } := by
  have hreplace : ∀ ls, ((s.cacheAccess h).replaceCache h ls) = { s with
      mem := ((s.cacheAccess h).replaceCache h ls).mem, halls := ((s.cacheAccess h).replaceCache h ls).halls
      counters := ((s.cacheAccess h).replaceCache h ls).counters, caches := ((s.cacheAccess h).replaceCache h ls).caches } := by
    intro ls
    rw [State.replaceCache_rest]
    rfl
  unfold State.fillLine
  dsimp only
  split
  · rfl
  · split
    · split
      · rfl
      · exact hreplace _
    · split
      · exact hreplace _
      · split
        · rfl
        · exact hreplace _

/-- The state in which the answer has been counted and its slot is free. -/
def State.missAnswered (s : State) (h : Nat) (r : Request) : State := (s.bump (pgGallery (addrHall r.address)) 0x23 1).endRequest h r

theorem State.fillAnswer_eq {s : State} {h id : Nat} {r : Request} (hslot : (s.ledger h).slot id = some r) (hall : r.allocates = true)
    (hshare : (s.hall (addrHall r.address)).share ≠ 0) (hmiss : s.requestHit r = none) (htaken : s.lineTaken r = false)
    (hhere : s.hallLost (addrHall r.address) = false) : s.fillAnswer h id .clean =
      (s.missAnswered h r).fillLine (addrHall r.address) (addrOffset r.address) r.owner r.hint r.keySlot := by
  unfold State.fillAnswer
  rw [hslot]
  simp only [hall, hshare, hmiss, htaken, hhere, Ecc.within_clean, Option.isNone_none, Bool.not_false, ne_eq, not_false_eq_true, and_self, if_true,
    Ecc.bad, Bool.false_eq_true, if_false]
  rfl

theorem State.missAnswered_mem (s : State) (h : Nat) (r : Request) : (s.missAnswered h r).mem = s.mem := by
  rw [State.missAnswered, ((s.bump (pgGallery (addrHall r.address)) 0x23 1).endRequest_ended h r).rest]
  rfl

theorem State.missAnswered_halls (s : State) (h : Nat) (r : Request) : (s.missAnswered h r).halls = s.halls := by
  rw [State.missAnswered, ((s.bump (pgGallery (addrHall r.address)) 0x23 1).endRequest_ended h r).rest]
  rfl

theorem State.missAnswered_caches (s : State) (h : Nat) (r : Request) : (s.missAnswered h r).caches = s.caches := by
  rw [State.missAnswered, ((s.bump (pgGallery (addrHall r.address)) 0x23 1).endRequest_ended h r).rest]
  rfl

theorem State.atQuota_of_mem {s s' : State} (hmem : s'.mem = s.mem) (hhalls : s'.halls = s.halls) (c : Nat) : s'.atQuota c = s.atQuota c := by
  unfold State.atQuota State.ctx State.ctxAddr State.hall
  rw [hmem, hhalls]

/-- The answer that fills a line. -/
theorem exec_cacheFill {s : State} {h id : Nat} {r : Request} (hslot : (s.ledger h).slot id = some r) (hall : r.allocates = true)
    (hshare : (s.hall (addrHall r.address)).share ≠ 0) (hmiss : s.requestHit r = none) (htaken : s.lineTaken r = false)
    (hhere : s.hallLost (addrHall r.address) = false) :
    ∃ s', exec (.cacheFill h id .clean) s = .next s' ∧ (s'.ledger h).slot id = none ∧
      (s.atQuota r.owner = false → ∃ c ∈ s'.cache (addrHall r.address), c.line = cacheLineIndex (addrOffset r.address) ∧ c.owner = r.owner ∧
        c.hint = r.hint ∧ c.keySlot = r.keySlot ∧ c.lastUse = (s.hall (addrHall r.address)).accesses + 1 ∧
          ∀ d ∈ s'.cache (addrHall r.address), d.line = c.line → d = c) ∧
      (s.atQuota r.owner = true → (∀ c ∈ s.cache (addrHall r.address), c.owner ≠ r.owner) →
        s'.cache (addrHall r.address) = s.cache (addrHall r.address)) ∧
      s'.items.map Item.name = s.items.map Item.name ∧ s'.knots = s.knots ∧ s'.poison = s.poison := by
  have hended := (s.bump (pgGallery (addrHall r.address)) 0x23 1).endRequest_ended h r
  have hhall : (s.missAnswered h r).hall (addrHall r.address) = s.hall (addrHall r.address) := by
    rw [State.hall, State.missAnswered_halls, State.hall]
  have hcache : (s.missAnswered h r).cache (addrHall r.address) = s.cache (addrHall r.address) := by
    rw [State.cache, State.missAnswered_caches, State.cache]
  have hquota := State.atQuota_of_mem (s.missAnswered_mem h r) (s.missAnswered_halls h r) r.owner
  have hrest := (s.missAnswered h r).fillLine_rest (addrHall r.address) (addrOffset r.address) r.owner r.hint r.keySlot
  refine ⟨_, congrArg Host.Outcome.next (State.fillAnswer_eq hslot hall hshare hmiss htaken hhere), ?slot, fun hroom => ?line, fun hat hnone => ?stay,
    ?names, ?knots, ?poison⟩
  case slot =>
    have hid : r.id = id := by simpa using List.find?_some hslot
    have hledger : ((s.missAnswered h r).fillLine (addrHall r.address) (addrOffset r.address) r.owner r.hint r.keySlot).ledger h =
        (s.missAnswered h r).ledger h := by rw [hrest]; rfl
    rw [hledger, Ledger.slot, State.missAnswered, hended.slots, List.find?_eq_none]
    intro q hq
    simpa [hid] using (List.mem_filter.mp hq).2
  case line =>
    obtain ⟨keep, hkeep, hline⟩ := State.fillLine_cache (s := s.missAnswered h r) (h := addrHall r.address) (o := addrOffset r.address)
      (owner := r.owner) (hint := r.hint) (slot := r.keySlot) (by rw [hhall]; exact hshare) (hquota.trans hroom)
    rw [hline]
    refine ⟨_, List.mem_append_right _ (List.mem_singleton_self _), rfl, rfl, rfl, rfl, ?_, fun d hd hd' => ?_⟩
    · rw [State.newLine, hhall]
    · rcases List.mem_append.mp hd with hold | hnew
      · exact absurd hd' (hkeep d hold)
      · exact List.mem_singleton.mp hnew
  case stay =>
    rw [State.fillLine_of_atQuota (hquota.trans hat) (by rw [hcache]; exact hnone), hcache]
  case names =>
    rw [hrest]
    exact hended.names
  case knots =>
    rw [hrest]
    exact hended.knots
  case poison =>
    rw [hrest]
    exact hended.sameBytes.2.1.symm

theorem admitBefore_of_aged {a b : Request} (ha : 8 ≤ a.lost) (hb : b.lost < 8) : admitBefore a b = true ∧ admitBefore b a = false := by
  simp [admitBefore, ha, Nat.not_le.mpr hb]

theorem admitBefore_iff_of_aged {a b : Request} (ha : 8 ≤ a.lost) (hb : 8 ≤ b.lost) : admitBefore a b = true ↔ a.id < b.id := by
  simp [admitBefore, ha, hb]

section
variable {a b : Request} (ha : a.lost < 8) (hb : b.lost < 8)
include ha hb

theorem admitBefore_iff_of_tte {x y : Nat} (hx : a.tte = some x) (hy : b.tte = some y) : admitBefore a b = true ↔ x < y ∨ (x = y ∧ a.id < b.id) := by
  simp [admitBefore, Nat.not_le.mpr ha, Nat.not_le.mpr hb, hx, hy]

theorem admitBefore_of_tte {x : Nat} (hx : a.tte = some x) (hy : b.tte = none) : admitBefore a b = true ∧ admitBefore b a = false := by
  simp [admitBefore, Nat.not_le.mpr ha, Nat.not_le.mpr hb, hx, hy]

theorem admitBefore_iff_of_noTte (hx : a.tte = none) (hy : b.tte = none) : admitBefore a b = true ↔ a.id < b.id := by
  simp [admitBefore, Nat.not_le.mpr ha, Nat.not_le.mpr hb, hx, hy]

end

/-- Settles O43: admission by the order of R216, and each answer with its slot freed. -/
theorem ledgerSlotsAnswer : Obligations.LedgerSlots := by
  unfold Obligations.LedgerSlots
  refine ⟨fun s h hreach => ?admission, fun s h id r e hslot hplain => ?plain, fun a b => ?order, fun s h id r c hslot hcached hhit htaken hhere => ?hit,
    fun s h id r hslot hall hshare hmiss htaken hhere => exec_cacheFill hslot hall hshare hmiss htaken hhere⟩
  case admission =>
    refine (exec_ledgerAdmit s h hreach).imp_right fun ⟨r, hmem, hadm, hbest, hadmit⟩ => ⟨r, hmem, hadm, hbest, fun hmerge => ?_⟩
    obtain ⟨s', hrun, hledger, hbytes, hitems⟩ := hadmit hmerge
    exact ⟨s', hrun, by rw [hledger]; rfl, by rw [hledger]; rfl, hbytes, hitems⟩
  case plain =>
    have hended := s.endRequest_ended h r
    exact ⟨_, congrArg Host.Outcome.next (State.respond_plain hslot hplain), hended.slots, hended.sameBytes, hended.names, hended.knots⟩
  case order =>
    exact ⟨admitBefore_of_aged, admitBefore_iff_of_aged, fun ha hb => ⟨fun x y hx hy => admitBefore_iff_of_tte ha hb hx hy,
      fun x hx hy => admitBefore_of_tte ha hb hx hy, fun hx hy => admitBefore_iff_of_noTte ha hb hx hy⟩⟩
  case hit =>
    have hended := (s.touchLine (addrHall r.address) c).endRequest_ended h r
    obtain ⟨hmem, hpoison, hfull⟩ := hended.sameBytes
    obtain ⟨hmem', hpoison', hfull'⟩ := s.touchLine_sameBytes (addrHall r.address) c
    refine ⟨_, congrArg Host.Outcome.next (State.respond_hit hslot hcached hhit htaken hhere), ?_, ?_,
      ⟨hmem'.trans hmem, hpoison'.trans hpoison, hfull'.trans hfull⟩, ?_, ?_⟩
    · rw [hended.slots, State.touchLine_ledger]
    · rw [State.cache, hended.caches]
      exact State.touchLine_mem (State.requestHit_mem hhit)
    · rw [hended.names, State.touchLine_items]
    · rw [hended.knots, State.touchLine_knots]

end Sys2Proof.Machine
end

section
/-!
What the scrubbers find and note (R228, R229, R231, R232).
-/
namespace Sys2Proof.Machine

/-! ### The words that an error names -/

theorem mem_insertNat (l : List Nat) (a : Nat) : a ∈ insertNat l a := by
  induction l with
  | nil => exact List.mem_singleton_self a
  | cons b l ih =>
    rw [insertNat]
    split
    · exact List.mem_cons_of_mem _ ih
    · split
      case isTrue heq => exact heq ▸ List.mem_cons_self ..
      case isFalse => exact List.mem_cons_self ..

theorem Page.withFault_count_pos (p : Page) (code : BitVec 8) (i0 i1 : W32) : 0 < (p.withFault code i0 i1).count.toNat := by
  by_cases h : p.count = 0
  · rw [Page.withFault_of_none h]
    exact Nat.one_pos
  · rw [Page.withFault_count_of_some h]
    omega

theorem State.event_page_self (s : State) (p b : Nat) : (s.event p b).page p = (s.page p).withEvent b := by
  rw [State.event, State.modPage_page, if_pos rfl]

section
variable (s : State) (w : Nat)

theorem State.poisonWord_page : ∃ p : Page, (s.poisonWord w).page (memoryPage w).1 =
    (p.withEvent 0).withFault (statusCode .eccUncorr) (BitVec.ofNat 32 w) (BitVec.ofNat 32 (w / 2 ^ 32)) := by
  unfold State.poisonWord
  dsimp only
  rw [State.fault_page_self, State.event_page_self]
  exact ⟨_, rfl⟩

/-- Poison at a word, the event and the fault in its memory's page: what an uncorrectable error shows. -/
theorem State.poisonWord_shows : w ∈ (s.poisonWord w).poison ∧ ((s.poisonWord w).page (memoryPage w).1).raw.getLsbD 0 = true ∧
    ((s.poisonWord w).page (memoryPage w).1).raw.getLsbD 31 = true ∧ 0 < ((s.poisonWord w).page (memoryPage w).1).count.toNat := by
  obtain ⟨p, hpage⟩ := s.poisonWord_page w
  refine ⟨?_, ?_, ?_, ?_⟩
  · unfold State.poisonWord
    dsimp only
    rw [State.fault_rest, State.event_rest]
    exact mem_insertNat _ w
  · rw [hpage, Page.withFault_raw, Page.withEvent]
    simp
  · rw [hpage, Page.withFault_raw]
    simp
  · rw [hpage]
    exact Page.withFault_count_pos _ _ _ _

theorem State.poisonWord_mem : (s.poisonWord w).mem = s.mem := by
  unfold State.poisonWord
  dsimp only
  rw [State.fault_rest, State.event_rest]
  rfl

/-- A single-bit error notes its word and raises event 1 of its memory's page. -/
theorem State.correctWord_shows : w ∈ (s.correctWord w).corrected ∧ ((s.correctWord w).page (memoryPage w).1).raw.getLsbD 1 = true := by
  unfold State.correctWord
  dsimp only
  refine ⟨?_, ?_⟩
  · rw [State.event_rest]
    exact mem_insertNat _ w
  · rw [State.event_page_self, Page.withEvent_raw]
    simp

theorem State.correctWord_bytes : (s.correctWord w).mem = s.mem ∧ (s.correctWord w).poison = s.poison := by
  unfold State.correctWord
  dsimp only
  rw [State.event_rest]
  exact ⟨rfl, rfl⟩

end

/-! ### A read of the next unit (R231) -/

theorem Ecc.within_of_lt {e : Ecc} {i n : Nat} (hword : e.word = some i) (h : i < n) : e.within n = e := by
  unfold Ecc.within
  rw [hword]
  simp [h]

/-- The scrubber of the unit at `a` notes that it has read it; a pass that ends is counted. -/
def State.noteScrub (s : State) (a : Nat) : State :=
  let next : State := { s with
    scrubs := Table.set Scrub.reset s.scrubs (scrubUnit a).1
      (⟨if (scrubUnit a).2.1 + 1 = (scrubUnit a).2.2 then 0 else (scrubUnit a).2.1 + 1, s.newel.time.toNat + 1⟩ : Scrub) }
  if (scrubUnit a).2.1 + 1 = (scrubUnit a).2.2 then next.countPass a else next

theorem State.countPass_rest (s : State) (a : Nat) : s.countPass a = { s with counters := (s.countPass a).counters } := by
  unfold State.countPass
  split
  · rfl
  · rfl
  · rfl

theorem State.noteScrub_rest (s : State) (a : Nat) :
    s.noteScrub a = { s with scrubs := (s.noteScrub a).scrubs, counters := (s.noteScrub a).counters } := by
  unfold State.noteScrub
  dsimp only
  split
  · rw [State.countPass_rest]
  · rfl

theorem State.noteScrub_next (s : State) (a : Nat) : ((s.noteScrub a).scrubber (scrubUnit a).1).next =
    if (scrubUnit a).2.1 + 1 = (scrubUnit a).2.2 then 0 else (scrubUnit a).2.1 + 1 := by
  have hset : (s.noteScrub a).scrubs = Table.set Scrub.reset s.scrubs (scrubUnit a).1
      ⟨if (scrubUnit a).2.1 + 1 = (scrubUnit a).2.2 then 0 else (scrubUnit a).2.1 + 1, s.newel.time.toNat + 1⟩ := by
    unfold State.noteScrub
    dsimp only
    split
    · rw [State.countPass_rest]
    · rfl
  rw [State.scrubber, hset, Table.get_set, if_pos rfl]

/-- The unit at `a` is the one its scrubber reads next, and its memory is idle. -/
structure State.ScrubsNext (s : State) (a : Nat) : Prop where
  next : (s.scrubber (scrubUnit a).1).next = (scrubUnit a).2.1
  idle : addrSpace a = 0 ∨ s.targetIdle (ledgerTarget a) = true

theorem State.scrub_eq {s : State} {a : Nat} (h : s.ScrubsNext a) (e : Ecc) : s.scrub a e = (s.scrubEcc a (e.within 8)).noteScrub a := by
  have hnext : (s.scrubber (scrubUnit a).1).next = (scrubUnit a).2.1 ∧ (addrSpace a = 0 ∨ s.targetIdle (ledgerTarget a)) := ⟨h.next, h.idle⟩
  unfold State.scrub
  dsimp only
  rw [if_pos hnext]
  rfl

theorem State.scrubEcc_of_outside {s : State} {a : Nat} (h : s.hitsCacheRange a 64 = false) (e : Ecc) : s.scrubEcc a e = s.readEcc a e := by
  simp [State.scrubEcc, h]

theorem State.scrubEcc_of_good {e : Ecc} (h : e.bad = false) (s : State) (a : Nat) : s.scrubEcc a e = s.readEcc a e := by
  simp [State.scrubEcc, h]

/-! ### The memory after a read -/

theorem Kept.bytesOutside {s s' : State} (h : Kept s s') {x : Nat} (hx : ¬s.chargeByte x) : s'.mem.read x = s.mem.read x :=
  h.bytes x fun hlive => hx hlive.chargeByte

/-- A dropped line poisons nothing and changes no byte but a charge. -/
theorem State.dropScrubbed_kept (s : State) (h b : Nat) : Kept s (s.dropScrubbed h b) := by
  have hdraw : Kept s s.draw.2 := Kept.of_fields rfl rfl rfl rfl rfl rfl
  unfold State.dropScrubbed
  dsimp only
  split
  · exact (hdraw.trans (State.replaceCache_kept _ _ _)).trans (Kept.of_fields rfl rfl rfl rfl rfl rfl)
  · exact hdraw

theorem State.readEcc_mem (s : State) (a : Nat) (e : Ecc) : (s.readEcc a e).mem = s.mem := by
  unfold State.readEcc
  split
  · rfl
  · exact (s.correctWord_bytes _).1
  · exact s.poisonWord_mem _
  · dsimp only
    split
    · exact s.poisonWord_mem _
    · exact s.poisonWord_mem _

theorem State.scrubEcc_bytes (s : State) (a : Nat) (e : Ecc) {x : Nat} (hx : ¬s.chargeByte x) : (s.scrubEcc a e).mem.read x = s.mem.read x := by
  unfold State.scrubEcc
  split
  · exact (s.dropScrubbed_kept _ _).bytesOutside hx
  · rw [State.readEcc_mem]

theorem State.scrubEcc_poison {s : State} {a : Nat} (h : s.hitsCacheRange a 64 = true) (i : Nat) :
    (s.scrubEcc a ((Ecc.uncorrectable i).within 8)).poison = s.poison := by
  by_cases hi : i < 8
  · rw [Ecc.within_of_lt rfl hi, State.scrubEcc, h]
    exact (s.dropScrubbed_kept _ _).poison
  · have hclean : (Ecc.uncorrectable i).within 8 = .clean := by simp [Ecc.within, Ecc.word, hi]
    rw [hclean]
    rfl

/-! ### The obligation -/

theorem exec_sramScrubRead {s : State} {w : Nat} (hspace : addrSpace w < 2) (hshape : addrShapeOk w = true) (hhere : s.hallHere (addrHall w) = true)
    (hawake : s.awake = true) (e : Ecc) : exec (.sramScrubRead w e) s = .next (s.scrub (w / 64 * 64) e) :=
  congrArg Host.Outcome.next (if_pos ⟨hspace, hshape, hhere, hawake⟩)

theorem exec_hbmScrubRead {s : State} {h o : Nat} (hh : h < 8) (hhere : s.hallHere h = true) (ho : o < stackSize) (hawake : s.awake = true)
    (hdue : (s.scrubber (scrubUnit (hbmAddr h (o / 64 * 64))).1).last = 0 ∨
      (s.scrubber (scrubUnit (hbmAddr h (o / 64 * 64))).1).last + 65536 ≤ s.newel.time.toNat + 1) (e : Ecc) :
    exec (.hbmScrubRead h o e) s = .next (s.scrub (hbmAddr h (o / 64 * 64)) e) := by
  refine congrArg Host.Outcome.next (if_pos ?_)
  simp only [hh, hhere, ho, hawake, decide_true, Bool.and_true, Bool.true_and, Bool.or_eq_true, beq_iff_eq, decide_eq_true_eq]
  unfold stackScrubNs
  omega

theorem exec_hbmScrubRead_early {s : State} {h o : Nat} (hsome : (s.scrubber (scrubUnit (hbmAddr h (o / 64 * 64))).1).last ≠ 0)
    (hearly : s.newel.time.toNat + 1 < (s.scrubber (scrubUnit (hbmAddr h (o / 64 * 64))).1).last + 65536) (e : Ecc) :
    exec (.hbmScrubRead h o e) s = .next s := by
  refine congrArg Host.Outcome.next (if_neg ?_)
  simp only [Bool.and_eq_true, Bool.or_eq_true, beq_iff_eq, decide_eq_true_eq, hsome, false_or]
  rintro ⟨-, hdue⟩
  unfold stackScrubNs at hdue
  omega

/-- Settles O44: a scrub read is what its error code does to the unit, and the scrubber's note. -/
theorem scrubReads : Obligations.ScrubReads := by
  unfold Obligations.ScrubReads
  refine ⟨fun s a c hread hawake hnext hidle => ?_, fun s h o e hsome hearly => exec_hbmScrubRead_early hsome hearly e, fun s w => rfl⟩
  have hrun : ∀ e, exec (c e) s = .next ((s.scrubEcc a (e.within 8)).noteScrub a) := by
    intro e
    have hscrub : exec (c e) s = .next (s.scrub a e) := by
      rcases hread with ⟨w, rfl, rfl, hspace, hshape, hhere⟩ | ⟨h, o, rfl, rfl, hh, hhere, ho, hdue⟩
      · exact exec_sramScrubRead hspace hshape hhere hawake e
      · exact exec_hbmScrubRead hh hhere ho hawake hdue e
    rw [hscrub, State.scrub_eq ⟨hnext, hidle⟩]
  refine ⟨fun e => ⟨_, hrun e, fun x hx => ?_, State.noteScrub_next _ a⟩, fun i hi hout => ?_, fun i hin => ?_, fun i hi => ?_, ?_⟩
  · rw [State.noteScrub_rest]
    exact s.scrubEcc_bytes a _ hx
  · refine ⟨_, hrun _, ?_⟩
    obtain ⟨hpoison, hevent, hfault, hcount⟩ := s.poisonWord_shows (a + 8 * i)
    rw [Ecc.within_of_lt rfl hi, State.scrubEcc_of_outside hout, State.noteScrub_rest]
    exact ⟨hpoison, hevent, hfault, hcount, s.poisonWord_mem _⟩
  · refine ⟨_, hrun _, ?_⟩
    rw [State.noteScrub_rest]
    exact State.scrubEcc_poison hin i
  · refine ⟨_, hrun _, ?_⟩
    obtain ⟨hnoted, hevent⟩ := s.correctWord_shows (a + 8 * i)
    obtain ⟨hmem, hpoison⟩ := s.correctWord_bytes (a + 8 * i)
    rw [Ecc.within_of_lt rfl hi, State.scrubEcc_of_good rfl, State.noteScrub_rest]
    exact ⟨hnoted, hevent, hpoison, hmem⟩
  · refine ⟨_, hrun _, ?_⟩
    rw [Ecc.within_clean, State.scrubEcc_of_good rfl, State.noteScrub_rest]
    exact ⟨rfl, rfl, rfl⟩

end Sys2Proof.Machine
end

section
/-!
A matrix command that fails on its term knot writes the tiles that have taken their terms (R118), wherever their rows stand.
-/
namespace Sys2Proof.Machine
open Sys2Proof.Tests

/-- Adapter flag set, a poisoned term knot, one of two tiles with its terms; the second row of the destination begins in space 5, at the event mask
of the module page. -/
def spilling : Item :=
  { item0 (block [(0, 0x20), (18, 1), (128, 1), (160, 2), (192, 3), (224, 0xFFFFFFFF), (320, 0xFFFFFFFF), (352, 0xFFFFFFFF), (416, 0x80000001)])
      [(1, one16 0x1000000), (2, one16 0x1001000), (3, win (5 * 2 ^ 60 - 40) 0x0A 1 2 64)] with unitCount := 2, termMet := true }

def spillingShaft : ShaftRun := ⟨2, 0, 0, 1, 0, [[some 1]], [[.none]], [[.none]], [[0], [0x3F800000]], none⟩

def spillingTile : State :=
  { holding spilling with
    knots := [(0, ⟨0, true, 0x3FFF⟩)]
    looms := [(0, { Loom.reset with runs := [⟨id0, 0, .forward, 1, false, true, true, [spillingShaft], []⟩] })] }

theorem spillingTile_runs : Runs spillingTile id0 .matmul spilling := runs_of (by decide +kernel)

theorem spillingTile_pages : (spillingTile.withItem id0 .matmul (State.matrix .matmul)).pages ≠ spillingTile.pages := by decide +kernel

/-- Refutes O33: the premises bound where a window begins, not where its rows stand, so a tile written on the way to `ST_UPSTREAM` may land in a
register of space 5. -/
theorem not_termKnotHoldsMatrixCommands : ¬ Obligations.TermKnotHoldsMatrixCommands := by
  unfold Obligations.TermKnotHoldsMatrixCommands
  intro h
  obtain ⟨-, hfail⟩ := h spillingTile id0 spilling .matmul (.matmul id0) (List.mem_cons_self ..) spillingTile_runs rfl rfl
  obtain ⟨s', hrun, -, -, hregisters, -⟩ := hfail (by decide +kernel)
  obtain ⟨-, -, -, -, -, -, -, -, hpages⟩ := hregisters
  have hnext : spillingTile.withItem id0 .matmul (State.matrix .matmul) = s' := Host.Outcome.next.inj hrun
  exact spillingTile_pages (by rw [hnext, hpages])

end Sys2Proof.Machine
end

section
/-!
`WARP_TILE_LOAD` (R68, R69).
-/
namespace Sys2Proof.Machine

theorem State.orCut_of_route {s : State} {t : Item} (h : s.cutOff t = false) (f : State → State) : s.orCut t f = f s := by
  rw [State.orCut, h]
  rfl

/-- The pass whose tile comes in next: the one after the tile's, where the active registers hold that one's tile. -/
def Mat.nextPass (m : Mat) (u : Nat) (lm : Loom) (i : ItemId) : Nat :=
  if m.sameTile u (lm.passOf i u) lm.active then lm.passOf i u + 1 else lm.passOf i u

/-- A tile that may come in stands in the shadow registers then. -/
theorem State.warpLoad_eq {s : State} {h l u : Nat} {t : Item} {m : Mat} (hitem : s.item t.id = some t) (hmat : t.mat = some m)
    (hruns : s.unitRuns h t u = true) (hloom : s.unitLoom t u = l) (hroute : s.cutOff t = false)
    (hleft : m.nextPass u (s.loom h l) t.id < m.sh.passes)
    (hhere : s.blockHere t m.sh (s.loom h l) u (m.nextPass u (s.loom h l) t.id) (tileRead m.o t m.sh u (m.nextPass u (s.loom h l) t.id)) = true)
    (hfault : s.passFault m u (m.nextPass u (s.loom h l) t.id) = none) : s.warpLoad h l t.id u =
      s.modLoom h l fun lm => lm.loadTile m u (m.nextPass u (s.loom h l) t.id) (s.warpRows m u (m.nextPass u (s.loom h l) t.id)) := by
  obtain rfl := Item.mat_item hmat
  unfold Mat.nextPass at hleft hhere hfault ⊢
  unfold State.warpLoad
  rw [hitem, Option.bind_some, hmat]
  dsimp only
  rw [hruns, hloom, State.orCut_of_route hroute]
  simp only [BEq.rfl, Bool.and_self, if_true, hhere, hfault, Nat.not_le.mpr hleft, Bool.not_true, Bool.false_eq_true, or_self, if_false]

/-- Settles O34. -/
theorem warpTileEntersTheShadow : Obligations.WarpTileEntersTheShadow := by
  unfold Obligations.WarpTileEntersTheShadow
  intro s h l u t m hitem hmat hruns hloom hroute
  dsimp only
  intro hleft hhere hfault
  refine ⟨congrArg Host.Outcome.next (State.warpLoad_eq hitem hmat hruns hloom hroute hleft hhere hfault), ?_, rfl⟩
  obtain rfl := Item.mat_item hmat
  rfl

end Sys2Proof.Machine
end

section
/-!
How a flight port comes up (R266–R268).
-/
namespace Sys2Proof.Machine

/-! ### A change of one port -/

/-- No other port, no byte and no item changes. -/
structure OnlyFlight (p : Nat) (s s' : State) : Prop where
  others : ∀ q, q ≠ p → s'.flight q = s.flight q
  sameBytes : s'.sameBytes s
  items : s'.items = s.items

theorem OnlyFlight.refl (p : Nat) (s : State) : OnlyFlight p s s := ⟨fun _ _ => rfl, ⟨rfl, rfl, rfl⟩, rfl⟩

theorem OnlyFlight.trans {p : Nat} {s s' s'' : State} (h : OnlyFlight p s s') (k : OnlyFlight p s' s'') : OnlyFlight p s s'' where
  others q hq := (k.others q hq).trans (h.others q hq)
  sameBytes := ⟨h.sameBytes.1.trans k.sameBytes.1, h.sameBytes.2.1.trans k.sameBytes.2.1, h.sameBytes.2.2.trans k.sameBytes.2.2⟩
  items := k.items.trans h.items

theorem State.modFlight_self (s : State) (p : Nat) (f : Flight → Flight) : (s.modFlight p f).flight p = f (s.flight p) := by
  rw [State.modFlight_flight, if_pos rfl]

theorem State.modFlight_only (s : State) (p : Nat) (f : Flight → Flight) : OnlyFlight p s (s.modFlight p f) where
  others q hq := by rw [State.modFlight_flight, if_neg (Ne.symm hq)]
  sameBytes := ⟨rfl, rfl, rfl⟩
  items := rfl

theorem State.event_flights (s : State) (p b : Nat) : (s.event p b).flights = s.flights := by rw [State.event_rest]

theorem State.flight_of_flights {s s' : State} (h : s'.flights = s.flights) (p : Nat) : s'.flight p = s.flight p := by
  rw [State.flight, h, State.flight]

theorem State.event_only (s : State) (p n b : Nat) : OnlyFlight p s (s.event n b) where
  others q _ := State.flight_of_flights (s.event_flights n b) q
  sameBytes := by
    rw [State.event_rest]
    exact ⟨rfl, rfl, rfl⟩
  items := by rw [State.event_rest]

theorem State.bump_only (s : State) (p n sel k : Nat) : OnlyFlight p s (s.bump n sel k) := ⟨fun _ _ => rfl, ⟨rfl, rfl, rfl⟩, rfl⟩

theorem State.hear_flight {s : State} {p : Nat} (h : s.flightAbsent p = false) :
    s.hear p = s.modFlight p fun f => { f with heardAt := s.newel.time } := by
  rw [State.hear, h]
  rfl

/-! ### Each command -/

section
variable {s : State} {p : Nat} (hout : s.flightOut p = false)
include hout

theorem State.ready_of_flight : s.ready = true := by
  unfold State.flightOut at hout
  simp only [Bool.or_eq_false_iff, Bool.not_eq_false'] at hout
  exact hout.1.1

theorem State.present_of_flight : s.flightAbsent p = false := by
  unfold State.flightOut at hout
  simp only [Bool.or_eq_false_iff] at hout
  exact hout.1.2

theorem State.helloSend_eq (hsends : (s.flight p).link.sendsHello = true) (hpaused : (s.flight p).paused = 0) :
    s.helloSend p = s.emit (s.response p (.hello (s.helloOf p))) := by
  simp only [State.helloSend, hout, hsends, State.sendResponse, State.sendReply, hpaused]
  simp
  rfl

theorem State.flightEnable_eq {v : W32} (hoff : (s.flight p).enable = false) (hv : v.getLsbD 0 = true) (haxis : s.axisSize (portAxis p) ≠ 1) :
    s.flightEnable p v = (s.modFlight p fun f => { f with enable := true, mode := v.getLsbD 1 }).modFlight p fun f =>
      { f with link := .training, mismatch := 0 } := by
  have hsize : (s.modFlight p fun f => { f with enable := true, mode := v.getLsbD 1 }).axisSize (portAxis p) ≠ 1 := haxis
  simp only [State.flightEnable, State.present_of_flight hout, State.ready_of_flight hout, hoff, hv, hsize, Bool.false_eq_true, if_false, Bool.not_true,
    Bool.false_and, Bool.or_self, Bool.not_false, Bool.and_self, if_true]

theorem State.linkTrained_eq (hon : (s.flight p).enable = true) (hlink : (s.flight p).link = .training ∨ (s.flight p).link = .down) :
    s.linkTrained p = s.modFlight p fun f => { f with link := .hello, admitted := false, peerAdmitted := false } := by
  rcases hlink with hlink | hlink
  · simp [State.linkTrained, hout, hon, hlink]
  · simp [State.linkTrained, hout, hon, hlink]

theorem State.flightAdmit_eq (hlink : (s.flight p).link = .awaitAdmit) : s.flightAdmit p = s.modFlight p fun f => { f with link := .admitPending } := by
  simp [State.flightAdmit, hlink, State.present_of_flight hout]

theorem State.flightReject_eq (hlink : (s.flight p).link = .awaitAdmit ∨ (s.flight p).link = .admitPending) :
    s.flightReject p = (s.modFlight p fun f => { f with enable := false }).modFlight p fun f =>
      { f with link := .disabled, admitted := false, peerAdmitted := false, held := [], replies := [], inbox := [] } := by
  have hdown : (s.modFlight p fun f => { f with enable := false }).portUp p = false := by
    have hlink' : ((s.modFlight p fun f => { f with enable := false }).flight p).link ≠ .up := by
      rw [State.modFlight_self]
      rcases hlink with hlink | hlink
      · exact hlink ▸ nofun
      · exact hlink ▸ nofun
    simp [State.portUp, hlink']
  simp [State.flightReject, hlink, State.present_of_flight hout, State.portOff, hdown]

omit hout in
theorem State.admitRelease_eq (hlink : (s.flight p).link = .admitPending) (hadm : (s.flight p).admitted = false)
    (hfree : ∀ c ∈ s.colls, c.axis ≠ portAxis p) : s.admitRelease p =
      s.modFlight p fun f => if f.peerAdmitted then { f with admitted := true }.bringUp s.newel.time else { f with admitted := true } := by
  have hnone : (s.colls.any fun c => c.axis == portAxis p) = false := by
    rw [List.any_eq_false]
    exact fun c hc => by simpa using hfree c hc
  simp [State.admitRelease, hlink, hadm, hnone]

/-- The port has heard its peer's hello. -/
def State.sawHello (s : State) (p : Nat) (h : Hello) : State := (s.hear p).modFlight p (Flight.seePeer h)

theorem State.sawHello_flight (h : Hello) : (s.sawHello p h).flight p = Flight.seePeer h { s.flight p with heardAt := s.newel.time } := by
  rw [State.sawHello, State.modFlight_self, State.hear_flight (State.present_of_flight hout), State.modFlight_self]

theorem State.sawHello_only (h : Hello) : OnlyFlight p s (s.sawHello p h) := by
  rw [State.sawHello, State.hear_flight (State.present_of_flight hout)]
  exact (s.modFlight_only p _).trans (State.modFlight_only _ p _)

theorem State.sawHello_mismatch (h : Hello) : (s.sawHello p h).helloMismatch p h = s.helloMismatch p h := by
  have hmode : ((s.sawHello p h).flight p).mode = (s.flight p).mode := by
    rw [State.sawHello_flight hout]
    rfl
  have hrest : ∃ fs, s.sawHello p h = { s with flights := fs } := by
    rw [State.sawHello, State.hear_flight (State.present_of_flight hout)]
    exact ⟨_, rfl⟩
  obtain ⟨fs, hfs⟩ := hrest
  unfold State.helloMismatch
  rw [hmode, hfs]
  rfl

/-- What a hello does to a port that is not UP. -/
theorem State.helloReceive_eq {h : Hello} (hon : (s.flight p).enable = true) (hsends : (s.flight p).link.sendsHello = true)
    (hnotUp : (s.flight p).link ≠ .up) : s.helloReceive p h =
      if s.helloMismatch p h ≠ 0 then
        (((s.sawHello p h).modFlight p fun f => { f with mismatch := s.helloMismatch p h, link := .hello, admitted := false }).event (pgFlight p)
          0).bump (pgFlight p) 0x22 1
      else if (s.flight p).link = .hello ∨ (s.flight p).peerSerial ≠ h.serial then
        (((s.sawHello p h).modFlight p fun f => { f with mismatch := 0 }).modFlight p fun f =>
          { f with link := .awaitAdmit, admitted := false }).event (pgFlight p) 0
      else if (s.flight p).link = .admitPending ∧ (s.flight p).admitted = true ∧ h.admitted = true then
        ((s.sawHello p h).modFlight p fun f => { f with mismatch := 0 }).modFlight p
          (Flight.bringUp ((s.sawHello p h).modFlight p fun f => { f with mismatch := 0 }).newel.time)
      else (s.sawHello p h).modFlight p fun f => { f with mismatch := 0 } := by
  have hmismatch := State.sawHello_mismatch hout h
  unfold State.sawHello at hmismatch ⊢
  unfold State.helloReceive
  simp only [hout, hon, hsends, Bool.not_true, Bool.or_self, Bool.false_eq_true, if_false, hnotUp, hmismatch]

section
variable {h : Hello} (hon : (s.flight p).enable = true)
include hon

/-- A peer that passes every check takes the port to AWAIT_ADMIT. -/
theorem exec_helloReceive_passes
    (hnew : (s.flight p).link = .hello ∨ ((s.flight p).link = .awaitAdmit ∨ (s.flight p).link = .admitPending) ∧ (s.flight p).peerSerial ≠ h.serial)
    (hpass : s.helloMismatch p h = 0) :
    ∃ s', exec (.helloReceive p h) s = .next s' ∧ (s'.flight p).link = .awaitAdmit ∧ (s'.flight p).mismatch = 0 ∧
      (s'.flight p).peerSerial = h.serial ∧ (s'.flight p).admitted = false ∧ OnlyFlight p s s' ∧ (s'.page (pgFlight p)).raw.getLsbD 0 = true := by
  have hsends : (s.flight p).link.sendsHello = true := by
    rcases hnew with hlink | ⟨hlink | hlink, -⟩
    · rw [hlink]; rfl
    · rw [hlink]; rfl
    · rw [hlink]; rfl
  have hnotUp : (s.flight p).link ≠ .up := by
    rcases hnew with hlink | ⟨hlink | hlink, -⟩
    · exact hlink ▸ nofun
    · exact hlink ▸ nofun
    · exact hlink ▸ nofun
  have hshown : (s.flight p).link = .hello ∨ (s.flight p).peerSerial ≠ h.serial := hnew.imp_right And.right
  have hrun := State.helloReceive_eq hout (h := h) hon hsends hnotUp
  rw [if_neg (not_not.mpr hpass), if_pos hshown] at hrun
  refine ⟨_, congrArg Host.Outcome.next hrun, ?_, ?_, ?_, ?_, ?_, ?_⟩
  · rw [State.flight_of_flights (State.event_flights _ _ _), State.modFlight_self]
  · rw [State.flight_of_flights (State.event_flights _ _ _), State.modFlight_self, State.modFlight_self]
  · rw [State.flight_of_flights (State.event_flights _ _ _), State.modFlight_self, State.modFlight_self, State.sawHello_flight hout]
    rfl
  · rw [State.flight_of_flights (State.event_flights _ _ _), State.modFlight_self]
  · exact (((State.sawHello_only hout h).trans (State.modFlight_only _ p _)).trans (State.modFlight_only _ p _)).trans (State.event_only _ p _ _)
  · rw [State.event_page_self, Page.withEvent]
    simp

/-- One that fails a check holds it in HELLO with the reason. -/
theorem exec_helloReceive_fails (hsends : (s.flight p).link.sendsHello = true) (hnotUp : (s.flight p).link ≠ .up)
    (hfail : s.helloMismatch p h ≠ 0) :
    ∃ s', exec (.helloReceive p h) s = .next s' ∧ (s'.flight p).link = .hello ∧ (s'.flight p).mismatch = s.helloMismatch p h ∧
      (s'.flight p).admitted = false ∧ OnlyFlight p s s' ∧ (s'.page (pgFlight p)).raw.getLsbD 0 = true := by
  have hrun := State.helloReceive_eq hout (h := h) hon hsends hnotUp
  rw [if_pos hfail] at hrun
  have hflight : ∀ u : State, ((u.event (pgFlight p) 0).bump (pgFlight p) 0x22 1).flight p = u.flight p := fun u =>
    State.flight_of_flights (u.event_flights (pgFlight p) 0) p
  refine ⟨_, congrArg Host.Outcome.next hrun, ?_, ?_, ?_, ?_, ?_⟩
  · rw [hflight, State.modFlight_self]
  · rw [hflight, State.modFlight_self]
  · rw [hflight, State.modFlight_self]
  · exact (((State.sawHello_only hout h).trans (State.modFlight_only _ p _)).trans (State.event_only _ p _ _)).trans (State.bump_only _ p _ _ _)
  · have hpage : ∀ u : State, ((u.event (pgFlight p) 0).bump (pgFlight p) 0x22 1).page (pgFlight p) = (u.page (pgFlight p)).withEvent 0 := fun u =>
      u.event_page_self (pgFlight p) 0
    rw [hpage, Page.withEvent]
    simp

/-- An admitted port whose peer says it is admitted too comes UP with all its credits. -/
theorem exec_helloReceive_up (hlink : (s.flight p).link = .admitPending) (hadm : (s.flight p).admitted = true) (hpeer : h.admitted = true)
    (hsame : (s.flight p).peerSerial = h.serial) (hpass : s.helloMismatch p h = 0) :
    ∃ s', exec (.helloReceive p h) s = .next s' ∧ (s'.flight p).link = .up ∧ (s'.flight p).credits = 192 ∧ (s'.flight p).xcredits = 32 ∧
      (s'.flight p).admitted = true ∧ OnlyFlight p s s' := by
  have hrun := State.helloReceive_eq hout (h := h) hon (by rw [hlink]; rfl) (hlink ▸ nofun)
  have hold : ¬((s.flight p).link = .hello ∨ (s.flight p).peerSerial ≠ h.serial) := by simp [hlink, hsame]
  rw [if_neg (not_not.mpr hpass), if_neg hold, if_pos ⟨hlink, hadm, hpeer⟩] at hrun
  refine ⟨_, congrArg Host.Outcome.next hrun, ?_, ?_, ?_, ?_, ?_⟩
  · rw [State.modFlight_self]
    rfl
  · rw [State.modFlight_self]
    rfl
  · rw [State.modFlight_self]
    rfl
  · rw [State.modFlight_self, State.modFlight_self, State.sawHello_flight hout]
    exact hadm
  · exact ((State.sawHello_only hout h).trans (State.modFlight_only _ p _)).trans (State.modFlight_only _ p _)

end

end

/-- Settles O48. -/
theorem linksComeUp : Obligations.LinksComeUp := by
  unfold Obligations.LinksComeUp
  intro s p hout
  dsimp only
  refine ⟨fun hsends hpaused => congrArg Host.Outcome.next (State.helloSend_eq hout hsends hpaused), fun v hoff hv haxis => ?enable,
    fun hon hlink => ?trained, fun h hon hnew hpass => ?passes, fun h hon hsends hnotUp hfail => ?fails, fun hlink => ?await, fun hlink => ?reject,
    fun hlink hadm hfree => ?release, fun h hon hlink hadm hpeer hsame hpass => ?up⟩
  case enable =>
    have honly := (s.modFlight_only p fun f => { f with enable := true, mode := v.getLsbD 1 }).trans
      (State.modFlight_only _ p fun f => { f with link := .training, mismatch := 0 })
    refine ⟨_, congrArg Host.Outcome.next (State.flightEnable_eq hout hoff hv haxis), ?_, honly.others, honly.sameBytes, honly.items⟩
    rw [State.modFlight_self, State.modFlight_self]
  case trained =>
    have honly := s.modFlight_only p fun f => { f with link := .hello, admitted := false, peerAdmitted := false }
    exact ⟨_, congrArg Host.Outcome.next (State.linkTrained_eq hout hon hlink), s.modFlight_self p _, honly.others, honly.sameBytes, honly.items⟩
  case passes =>
    obtain ⟨s', hrun, hlink, hmismatch, hserial, hadm, honly, hevent⟩ := exec_helloReceive_passes hout hon hnew hpass
    exact ⟨⟨s', hrun, ⟨hlink, hmismatch, hserial, hadm⟩, honly.others, honly.sameBytes, honly.items⟩, s', hrun, hevent⟩
  case fails =>
    obtain ⟨s', hrun, hlink, hmismatch, hadm, honly, hevent⟩ := exec_helloReceive_fails hout hon hsends hnotUp hfail
    exact ⟨⟨s', hrun, ⟨hlink, hmismatch, hadm⟩, honly.others, honly.sameBytes, honly.items⟩, s', hrun, hevent⟩
  case await =>
    have honly := s.modFlight_only p fun f => { f with link := .admitPending }
    exact ⟨_, congrArg Host.Outcome.next (State.flightAdmit_eq hout hlink), s.modFlight_self p _, honly.others, honly.sameBytes, honly.items⟩
  case reject =>
    have honly := (s.modFlight_only p fun f => { f with enable := false }).trans (State.modFlight_only _ p fun f =>
      { f with link := .disabled, admitted := false, peerAdmitted := false, held := [], replies := [], inbox := [] })
    refine ⟨_, congrArg Host.Outcome.next (State.flightReject_eq hout hlink), ?_, honly.others, honly.sameBytes, honly.items⟩
    rw [State.modFlight_self, State.modFlight_self]
    exact ⟨rfl, rfl, rfl⟩
  case release =>
    have honly := s.modFlight_only p fun f =>
      if f.peerAdmitted then { f with admitted := true }.bringUp s.newel.time else { f with admitted := true }
    refine ⟨_, congrArg Host.Outcome.next (State.admitRelease_eq hlink hadm hfree), ?_, honly.others, honly.sameBytes, honly.items⟩
    rw [State.modFlight_self]
    cases hpeer : (s.flight p).peerAdmitted with
    | true => exact ⟨rfl, rfl⟩
    | false => exact ⟨rfl, hlink⟩
  case up =>
    obtain ⟨s', hrun, hup, hcredits, hxcredits, hadmitted, honly⟩ := exec_helloReceive_up hout hon hlink hadm hpeer hsame hpass
    exact ⟨s', hrun, ⟨hup, hcredits, hxcredits, hadmitted⟩, honly.others, honly.sameBytes, honly.items⟩

end Sys2Proof.Machine
end

section
/-!
What a loss leaves: the items of a hall end, and its rings, knots, memory and rail go (R286–R289).
-/
namespace Sys2Proof.Machine

/-! ### What outlives the end of an item -/

/-- The boot record stays, the module stays powered and awake, and a poisoned knot stays poisoned. -/
structure Outlives (s s' : State) : Prop where
  boot : s'.boot = s.boot
  powered : s'.newel.powered = s.newel.powered
  awake : s.power.asleep = false → s'.power.asleep = false
  poisoned : ∀ k, (s.knot k).poison = true → (s'.knot k).poison = true
  keys : s'.sec.keys = s.sec.keys
  time : s'.newel.time = s.newel.time
  part : s'.part = s.part

theorem Outlives.refl (s : State) : Outlives s s := ⟨rfl, rfl, id, fun _ => id, rfl, rfl, rfl⟩

theorem Outlives.trans {s s' s'' : State} (h : Outlives s s') (k : Outlives s' s'') : Outlives s s'' where
  boot := k.boot.trans h.boot
  powered := k.powered.trans h.powered
  awake := k.awake ∘ h.awake
  poisoned n := k.poisoned n ∘ h.poisoned n
  keys := k.keys.trans h.keys
  time := k.time.trans h.time
  part := k.part.trans h.part

theorem Outlives.of_fields {s s' : State} (hboot : s'.boot = s.boot) (hnewel : s'.newel = s.newel) (hpower : s'.power = s.power)
    (hknots : s'.knots = s.knots) (hsec : s'.sec = s.sec) (hpart : s'.part = s.part) :
    Outlives s s' where
  boot := hboot
  powered := by rw [hnewel]
  awake := by rw [hpower]; exact id
  poisoned k := by rw [State.knot_of_knots hknots]; exact id
  keys := by rw [hsec]
  time := by rw [hnewel]
  part := hpart

theorem Outlives.foldl {α : Type} {f : State → α → State} (hf : ∀ s a, Outlives s (f s a)) (l : List α) (s : State) : Outlives s (l.foldl f s) := by
  induction l generalizing s with
  | nil => exact Outlives.refl s
  | cons a l ih => exact (hf s a).trans (ih (f s a))

theorem Quiet.outlives {s s' : State} (h : Quiet s s') : Outlives s s' := by
  rw [h.rest]
  exact Outlives.of_fields rfl rfl rfl rfl rfl rfl

theorem State.failItem_outlives (s : State) (i : ItemId) (st : Status) : Outlives s (s.failItem i st) := (s.failItem_isQuiet i st).outlives
theorem State.settleWaits_outlives (s : State) : Outlives s s.settleWaits := (State.settleWaits_quiet (Quiet.refl s)).outlives
theorem State.releaseLinks_outlives (s : State) (i : ItemId) : Outlives s (s.releaseLinks i) := (State.releaseLinks_quiet i (Quiet.refl s)).outlives

theorem State.event_outlives (s : State) (p b : Nat) : Outlives s (s.event p b) := by
  rw [State.event_rest]
  exact Outlives.of_fields rfl rfl rfl rfl rfl rfl

theorem State.modRing_outlives (s : State) (g : Nat) (f : Ring → Ring) : Outlives s (s.modRing g f) := Outlives.of_fields rfl rfl rfl rfl rfl rfl

theorem State.store_outlives (s : State) (ac : Access) (a : Nat) (bs : List Byte) : Outlives s (s.store ac a bs) := by
  by_cases h5 : addrSpace a = 5
  · have hmanaged := s.managementStore_managed (addrOffset a) bs
    rw [State.store, if_pos h5]
    refine ⟨?_, hmanaged.powered, hmanaged.awake, fun k => ?_, hmanaged.keys, hmanaged.time, ?_⟩
    · rw [hmanaged.rest]
    · have hknots : (s.managementStore (addrOffset a) bs).knots = s.knots := by rw [hmanaged.rest]
      rw [State.knot_of_knots hknots]
      exact id
    · rw [hmanaged.rest]
  · rw [s.store_stored ac h5 bs]
    exact Outlives.of_fields rfl rfl rfl rfl rfl rfl

theorem State.put_outlives (s : State) (fn a : Nat) (bs : List Byte) : Outlives s (s.put fn a bs) := s.store_outlives _ _ _

theorem Knot.after_poison {a : KnotAction} (ha : ∀ n, a ≠ .assign n) {k : Knot} (h : k.poison = true) : (k.after a).poison = true := by
  cases a with
  | add n => exact h
  | poison => rfl
  | assign n => exact absurd rfl (ha n)

theorem State.knotSend_outlives (s : State) (h k : Nat) {a : KnotAction} (ha : ∀ n, a ≠ .assign n) : Outlives s (s.knotSend h k a) := by
  unfold State.knotSend
  split
  · refine ⟨rfl, rfl, id, fun j hj => ?_, rfl, rfl, rfl⟩
    by_cases heq : j = k
    · rw [heq, State.knotAct_knot_self]
      exact Knot.after_poison ha (heq ▸ hj)
    · rw [State.knotAct_knot_other s a heq]
      exact hj
  · split
    · exact Outlives.of_fields rfl rfl rfl rfl rfl rfl
    · exact Outlives.refl s

theorem State.applySet_outlives (s : State) (t : Item) : Outlives s (s.applySet t) := by
  unfold State.applySet
  dsimp only
  split
  · refine s.knotSend_outlives _ _ fun n => ?_
    split
    · exact nofun
    · exact nofun
  · exact Outlives.refl s

theorem State.treadleRequest_outlives (s : State) (h : Nat) (q : Requester) (w : Bool) (a n : Nat) : Outlives s (s.treadleRequest h q w a n) :=
  Outlives.of_fields rfl rfl rfl rfl rfl rfl

theorem State.writeRecord_outlives (s : State) (t : Item) : Outlives s (s.writeRecord t) := by
  have hdraw : Outlives s s.draw.2 := Outlives.of_fields rfl rfl rfl rfl rfl rfl
  unfold State.writeRecord
  exact (hdraw.trans (State.put_outlives _ _ _ _)).trans (State.treadleRequest_outlives _ _ _ _ _ _)

theorem State.ringInterrupt_outlives (s : State) (g : Nat) (irq : Bool) : Outlives s (s.ringInterrupt g irq) := by
  unfold State.ringInterrupt
  dsimp only
  split
  · exact Outlives.refl s
  · split
    · exact Outlives.of_fields rfl rfl rfl rfl rfl rfl
    · exact s.modRing_outlives _ _

theorem State.countRecord_outlives (s : State) (t : Item) : Outlives s (s.countRecord t) := by
  refine Outlives.trans ?_ (State.ringInterrupt_outlives _ _ _)
  refine (s.modRing_outlives t.id.ring fun r => { r with c := r.c + 1 }).trans ?_
  split
  · exact (State.put_outlives _ _ _ _).trans (State.treadleRequest_outlives _ _ _ _ _ _)
  · exact Outlives.refl _

theorem State.modTreadle_outlives (s : State) (h : Nat) (f : Treadle → Treadle) : Outlives s (s.modTreadle h f) :=
  Outlives.of_fields rfl rfl rfl rfl rfl rfl

theorem State.setRingState_outlives (s : State) (g st : Nat) : Outlives s (s.setRingState g st) := by
  have hset : Outlives s (s.ringStateSet g st) := by
    rw [State.ringStateSet_rest]
    exact Outlives.of_fields rfl rfl rfl rfl rfl rfl
  rw [State.setRingState_eq]
  split
  · exact (hset.trans (State.modTreadle_outlives _ _ _)).trans (State.event_outlives _ _ _)
  · exact hset

theorem State.ringSettle_outlives (s : State) (g : Nat) : Outlives s (s.ringSettle g) := by
  unfold State.ringSettle
  dsimp only
  split
  · exact s.setRingState_outlives _ _
  · exact Outlives.refl s

theorem State.busySettle_outlives (s : State) (g : Nat) : Outlives s (s.busySettle g) := by
  unfold State.busySettle
  split
  · exact Outlives.refl s
  · exact s.modRing_outlives _ _

theorem State.removeItem_outlives (s : State) (i : ItemId) : Outlives s (s.removeItem i) := by
  have hgone : ∀ u : State, Outlives u { u with items := u.items.filter fun t => t.id != i } := fun u => Outlives.of_fields rfl rfl rfl rfl rfl rfl
  exact ((s.releaseLinks_outlives i).trans (hgone _)).trans (State.busySettle_outlives _ _)

theorem State.endItem_outlives (s : State) (t : Item) : Outlives s (s.endItem t) := by
  have hrecord : Outlives s (if s.canRecord t.id.ring then s.writeRecord t else s) := by
    split
    · exact s.writeRecord_outlives t
    · exact Outlives.refl s
  have hcount : ∀ u : State, Outlives u (if s.canRecord t.id.ring then u.countRecord t else u) := by
    intro u
    split
    · exact u.countRecord_outlives t
    · exact Outlives.refl u
  exact (((((hrecord.trans (State.applySet_outlives _ t)).trans (hcount _)).trans (State.removeItem_outlives _ _)).trans
    (State.ringSettle_outlives _ _))).trans (State.settleWaits_outlives _)

theorem State.modItem_outlives (s : State) (i : ItemId) (f : Item → Item) : Outlives s (s.modItem i f) := Outlives.of_fields rfl rfl rfl rfl rfl rfl

theorem State.shareIn_outlives (s : State) (t : Item) : Outlives s (s.shareIn t) := s.modItem_outlives _ _

theorem State.endSub_outlives (s : State) (t : Item) : Outlives s (s.endSub t) := by
  have hgone : ∀ u : State, Outlives u { u with items := u.items.filter fun v => v.id != t.id } := fun u => Outlives.of_fields rfl rfl rfl rfl rfl rfl
  have hdecided : ∀ (u : State) (c : ItemId), Outlives u (if u.hasCommands c then u else u.modItem c fun p =>
      if p.calls.isEmpty && p.phase = .external then { p with phase := .decided } else p) := by
    intro u c
    split
    · exact Outlives.refl u
    · exact u.modItem_outlives _ _
  exact (((((s.applySet_outlives t).trans (State.shareIn_outlives _ t)).trans (State.releaseLinks_outlives _ _)).trans (hgone _)).trans
    (hdecided _ _)).trans (State.settleWaits_outlives _)

theorem State.endAs_outlives (s : State) (t : Item) : Outlives s (s.endAs t) := by
  unfold State.endAs
  split
  · exact s.endSub_outlives t
  · split
    · exact Outlives.refl s
    · exact s.endItem_outlives t

theorem State.complete_outlives (s : State) (i : ItemId) : Outlives s (s.complete i) := by
  unfold State.complete
  split
  · split
    · exact Outlives.refl s
    · split
      · dsimp only
        split
        · exact (s.failItem_outlives _ _).trans (State.endAs_outlives _ _)
        · exact s.failItem_outlives _ _
      · exact s.endAs_outlives _
  · exact Outlives.refl s

theorem State.failOver_outlives (s : State) (i : ItemId) (st : Status) (b : Option Nat) : Outlives s (s.failOver i st b) :=
  (State.failOne_quiet i st 0 (Quiet.refl s)).outlives.trans (State.modItem_outlives _ _ _)

/-- A called command's bytes and looms go to its caller. -/
def State.shareUp (s : State) (i : ItemId) : State :=
  match s.item i with
  | some t => s.shareIn t
  | none => s

theorem State.shareUp_outlives (s : State) (i : ItemId) : Outlives s (s.shareUp i) := by
  unfold State.shareUp
  split
  · exact s.shareIn_outlives _
  · exact Outlives.refl s

theorem State.stopPieces_outlives (s : State) (f : Piece → Bool) : Outlives s (s.stopPieces f) := Outlives.of_fields rfl rfl rfl rfl rfl rfl

theorem State.flushItems_outlives (s : State) (f : ItemId → Bool) (st : Status) (b : Option Nat) : Outlives s (s.flushItems f st b) := by
  have hgone : ∀ u : State, Outlives u { u with items := u.items.filter fun t => !(f t.id && t.id.sub != 0) } := fun u =>
    Outlives.of_fields rfl rfl rfl rfl rfl rfl
  have hshare := Outlives.foldl State.shareUp_outlives
  exact ((((s.stopPieces_outlives _).trans (Outlives.foldl (fun u i => u.failOver_outlives i st b) _ _)).trans (hshare _ _)).trans (hgone _)).trans
    (Outlives.foldl State.complete_outlives _ _)

theorem State.admitAhead_outlives (s : State) (f : Nat → Bool) : Outlives s (s.admitAhead f) :=
  (Outlives.of_fields rfl rfl rfl rfl rfl rfl : Outlives s { s with items := s.items ++ ((s.rings.map Prod.fst).filter f).flatMap s.aheadItems }).trans
    (Outlives.foldl (fun u g => u.modRing_outlives g _) _ _)

/-! ### What a loss takes out of service (R287, R288) -/

/-- The rail of a hall that is off. -/
def Keeper.shutOff (now : W64) (k : Keeper) : Keeper := { k with state := keeperOff, railMv := 0, railSince := now, goalMv := 0, throttle := false }

/-- The hall's memory, its ledger, its streams and its rail are gone; its selvedges and the items that wait on it follow. -/
def State.hallTaken (s : State) (h : Nat) : State :=
  let u := (s.zeroLooms h).replaceCache h []
  ({ u with ledgers := u.ledgers.erase h, streams := dropHall 4096 h u.streams
            boot := { u.boot with hallsLost := u.boot.hallsLost ||| (1#8 <<< h) } } : State).modKeeper h (Keeper.shutOff u.newel.time)

theorem State.moveSelv_rest (s : State) (p : Nat) : s.moveSelv p = { s with selvs := (s.moveSelv p).selvs } := by
  unfold State.moveSelv
  dsimp only
  split
  · rfl
  · rfl

theorem State.foldl_moveSelv_rest (l : List Nat) (s : State) : l.foldl State.moveSelv s = { s with selvs := (l.foldl State.moveSelv s).selvs } := by
  induction l generalizing s with
  | nil => rfl
  | cons p l ih =>
    rw [List.foldl_cons]
    refine (ih _).trans ?_
    rw [s.moveSelv_rest p]

/-- Behind that, only selvedges move and items fail or wait. -/
theorem State.takeAway_quiet (s : State) (h : Nat) : ∃ v, Quiet { s.hallTaken h with selvs := v } (s.takeAway h) := by
  obtain ⟨l, hl⟩ : ∃ l : List Nat, s.takeAway h =
      (((l.foldl State.moveSelv (s.hallTaken h)).items.filter (waitsInHall h)).foldl (fun u t => u.failItem t.id .hallLost)
        (l.foldl State.moveSelv (s.hallTaken h))).settleWaits := ⟨_, rfl⟩
  refine ⟨(l.foldl State.moveSelv (s.hallTaken h)).selvs, ?_⟩
  rw [hl, ← State.foldl_moveSelv_rest]
  exact State.settleWaits_quiet (Quiet.foldl _ _ (Quiet.refl _) fun u t hu => State.failItem_quiet _ _ hu)

theorem State.zeroLooms_rest (s : State) (h : Nat) : s.zeroLooms h = { s with
    mem := s.mem.zeroRange (storeAddr h 0 0 0) (storeAddr h 96 0 0), poison := (s.zeroLooms h).poison, corrected := (s.zeroLooms h).corrected
    full := (s.zeroLooms h).full, looms := (s.zeroLooms h).looms, bobbins := (s.zeroLooms h).bobbins } := rfl

theorem State.hallTaken_halls (s : State) (h : Nat) : ((s.hallTaken h).hall h).keeper = Keeper.shutOff s.newel.time (s.hall h).keeper := by
  have hhalls : ((s.zeroLooms h).replaceCache h []).halls = s.halls := by
    rw [State.replaceCache_rest, State.zeroLooms_rest]
  have hnewel : ((s.zeroLooms h).replaceCache h []).newel = s.newel := by
    rw [State.replaceCache_rest, State.zeroLooms_rest]
  have hset := State.modKeeper_hall ({ (s.zeroLooms h).replaceCache h [] with
    ledgers := ((s.zeroLooms h).replaceCache h []).ledgers.erase h, streams := dropHall 4096 h ((s.zeroLooms h).replaceCache h []).streams
    boot := { ((s.zeroLooms h).replaceCache h []).boot with
      hallsLost := ((s.zeroLooms h).replaceCache h []).boot.hallsLost ||| (1#8 <<< h) } } : State) h h
        (Keeper.shutOff ((s.zeroLooms h).replaceCache h []).newel.time)
  rw [if_pos rfl] at hset
  rw [State.hallTaken, hset, hnewel]
  show Keeper.shutOff s.newel.time (Table.get Hall.reset ((s.zeroLooms h).replaceCache h []).halls h).keeper = _
  rw [hhalls]
  rfl

theorem State.hallTaken_boot (s : State) (h : Nat) : (s.hallTaken h).boot = { s.boot with hallsLost := s.boot.hallsLost ||| (1#8 <<< h) } := by
  have hboot : ((s.zeroLooms h).replaceCache h []).boot = s.boot := by
    rw [State.replaceCache_rest, State.zeroLooms_rest]
  show { ((s.zeroLooms h).replaceCache h []).boot with
    hallsLost := ((s.zeroLooms h).replaceCache h []).boot.hallsLost ||| (1#8 <<< h) } = _
  rw [hboot]

theorem State.hallTaken_fields (s : State) (h : Nat) : (s.hallTaken h).newel = s.newel ∧ (s.hallTaken h).power = s.power ∧
    (s.hallTaken h).knots = s.knots ∧ (s.hallTaken h).rings = s.rings ∧ (s.hallTaken h).pages = s.pages ∧ (s.hallTaken h).items = s.items ∧
      (s.hallTaken h).part = s.part := by
  have hrest : ∀ u : State, u.replaceCache h [] = { u with mem := (u.replaceCache h []).mem, caches := (u.replaceCache h []).caches } := fun u =>
    u.replaceCache_rest h []
  unfold State.hallTaken
  dsimp only
  rw [hrest, State.zeroLooms_rest]
  exact ⟨rfl, rfl, rfl, rfl, rfl, rfl, rfl⟩

theorem loomStore_bounds {a : Nat} (hshape : addrShapeOk a = true) (hbound : a < 2 ^ 64) (hspace : addrSpace a = 0) :
    storeAddr (addrHall a) 0 0 0 ≤ a ∧ a < storeAddr (addrHall a) 96 0 0 := by
  have hloom : addrLoom a < 96 := by
    unfold addrShapeOk at hshape
    rw [hspace] at hshape
    simp only [Bool.and_eq_true, decide_eq_true_eq] at hshape
    exact hshape.1.1.2
  simp only [addrSpace, addrLoom, Nat.shiftRight_eq_div_pow] at hspace hloom
  simp only [storeAddr, addrHall, Nat.shiftRight_eq_div_pow, Nat.shiftLeft_eq]
  omega

/-- The loom stores of the hall read as zeros. -/
theorem State.hallTaken_mem (s : State) {h a : Nat} (hshape : addrShapeOk a = true) (hbound : a < 2 ^ 64) (hspace : addrSpace a = 0)
    (hhall : addrHall a = h) : (s.hallTaken h).mem.read a = 0 := by
  have hmem : (s.hallTaken h).mem = ((s.zeroLooms h).replaceCache h []).mem := rfl
  have hlive : ¬(s.zeroLooms h).liveCharge a := by
    intro hlive
    have hlow := hlive.bounds.1
    have hspace' : addrSpace a = 0 := hspace
    rw [addrSpace, Nat.shiftRight_eq_div_pow] at hspace'
    omega
  have hin := loomStore_bounds hshape hbound hspace
  rw [hhall] at hin
  rw [hmem, ((s.zeroLooms h).replaceCache_kept h []).bytes a hlive, State.zeroLooms_rest]
  exact (Memory.read_zeroRange _ _ _ _).trans (if_pos hin)

/-! ### The rings and knots of a lost hall (R287) -/

theorem Table.get_append_of_not_mem {α : Type} {d : α} {t u : Table α} {i : Nat} (h : ∀ p ∈ t, p.1 ≠ i) : Table.get d (t ++ u) i = Table.get d u i := by
  induction t with
  | nil => rfl
  | cons p t ih =>
    rw [List.cons_append, Table.get, if_neg (h p (List.mem_cons_self ..))]
    exact ih fun q hq => h q (List.mem_cons_of_mem _ hq)

theorem Table.get_map_append {α : Type} {d : α} {l : List Nat} {f : Nat → α} {u : Table α} {i : Nat} (h : i ∈ l) :
    Table.get d (l.map (fun g => (g, f g)) ++ u) i = f i := by
  induction l with
  | nil => exact nomatch h
  | cons g l ih =>
    rw [List.map_cons, List.cons_append, Table.get]
    by_cases heq : g = i
    · rw [if_pos heq, heq]
    · rw [if_neg heq]
      exact ih ((List.mem_cons.mp h).resolve_left (Ne.symm heq))

/-- A hall's rings in ERROR. -/
def State.ringsInError (s : State) (h : Nat) : Table Ring :=
  (s.rings.filter fun p => p.1 / 2048 < h) ++ ((List.range 2048).map (2048 * h + ·)).map (fun g => (g, (s.ring g).inError)) ++
    s.rings.filter fun p => h < p.1 / 2048

theorem State.errorRings_rest (s : State) (h : Nat) : s.errorRings h = { s with
    rings := s.ringsInError h, halls := (s.errorRings h).halls, pages := (s.errorRings h).pages, out := (s.errorRings h).out } := by
  unfold State.errorRings
  dsimp only
  split
  · rw [State.event_rest]
    rfl
  · rfl

theorem State.errorRings_ring (s : State) {h g : Nat} (hg : ringHall g = h) : (s.errorRings h).ring g = (s.ring g).inError := by
  have hmem : g ∈ (List.range 2048).map (2048 * h + ·) := by
    refine List.mem_map.mpr ⟨g % 2048, List.mem_range.mpr (Nat.mod_lt _ (by decide)), ?_⟩
    simp only [ringHall] at hg
    omega
  have hbefore : ∀ p ∈ s.rings.filter fun p => decide (p.1 / 2048 < h), p.1 ≠ g := by
    intro p hp heq
    have hlt := of_decide_eq_true (List.mem_filter.mp hp).2
    rw [heq] at hlt
    simp only [ringHall] at hg
    omega
  rw [State.ring, State.errorRings_rest]
  show Table.get Ring.reset (s.ringsInError h) g = _
  rw [State.ringsInError, List.append_assoc, Table.get_append_of_not_mem hbefore, Table.get_map_append hmem]

theorem ringState_setField (e : Block512) (v : BitVec 2) : ringState (setField e 136 2 v) = v.toNat := fieldNat_setField e (by decide) v

theorem Ring.inError_state (r : Ring) : ringState r.inError.entry = ringError := by
  have hentry : r.inError.entry = setField r.entry 136 2 (BitVec.ofNat 2 ringError) := rfl
  rw [hentry, ringState_setField]
  decide

theorem State.errorRings_outlives (s : State) (h : Nat) : Outlives s (s.errorRings h) := by
  rw [State.errorRings_rest]
  exact Outlives.of_fields rfl rfl rfl rfl rfl rfl

theorem State.foldl_poison (l : List Nat) (h : Nat) (s : State) :
    ∀ k, (k ∈ l.map (knotKey h) ∨ (s.knot k).poison = true) →
      ((l.foldl (fun u k => u.modKnot (knotKey h k) fun n => { n with poison := true }) s).knot k).poison = true := by
  induction l generalizing s with
  | nil => exact fun k hk => hk.resolve_left nofun
  | cons a l ih =>
    intro k hk
    rw [List.foldl_cons]
    refine ih _ k ?_
    rw [State.modKnot_knot]
    by_cases heq : knotKey h a = k
    · rw [if_pos heq]
      exact Or.inr rfl
    · rw [if_neg heq]
      refine hk.imp_left fun hmem => ?_
      rw [List.map_cons] at hmem
      exact (List.mem_cons.mp hmem).resolve_left (Ne.symm heq)

/-- Every knot of a hall is poisoned. -/
theorem State.poisonKnots_knot (s : State) (h : Nat) {k : Nat} (hk : k < 256) : ((s.poisonKnots h).knot (knotKey h k)).poison = true :=
  State.foldl_poison (List.range 256) h s _ (Or.inl (List.mem_map.mpr ⟨k, List.mem_range.mpr hk, rfl⟩))

theorem State.poisonKnots_outlives (s : State) (h : Nat) : Outlives s (s.poisonKnots h) := by
  have hone : ∀ (u : State) (k : Nat), Outlives u (u.modKnot (knotKey h k) fun n => { n with poison := true }) := by
    refine fun u k => ⟨rfl, rfl, id, fun j hj => ?_, rfl, rfl, rfl⟩
    rw [State.modKnot_knot]
    split
    · rfl
    · exact hj
  exact Outlives.foldl hone (List.range 256) s

/-! ### A lost hall (R287) -/

/-- What is gone with a hall. -/
structure HallGone (h : Nat) (s s' : State) : Prop where
  lost : s'.hallLost h = true
  keeper : ∃ now k, (s'.hall h).keeper = Keeper.shutOff now k
  rings : ∀ g, ringHall g = h → ringState (s'.ring g).entry = 3
  stores : ∀ a, a < 2 ^ 64 → addrShapeOk a = true → addrSpace a = 0 → addrHall a = h → s'.mem.read a = 0
  powered : s'.newel.powered = s.newel.powered
  awake : s.power.asleep = false → s'.power.asleep = false

theorem State.takeAway_gone {s : State} {h : Nat} (hh : h < 8) (hrings : ∀ g, ringHall g = h → ringState (s.ring g).entry = 3) :
    HallGone h s (s.takeAway h) ∧ (s.takeAway h).knots = s.knots := by
  obtain ⟨v, hquiet⟩ := s.takeAway_quiet h
  obtain ⟨hnewel, hpower, hknots, hring, -, -, -⟩ := s.hallTaken_fields h
  refine ⟨⟨?_, ?_, fun g hg => ?_, fun a hbound hshape hspace hhall => ?_, ?_, ?_⟩, ?_⟩
  · rw [State.hallLost, hquiet.rest]
    show (s.hallTaken h).boot.hallsLost.getLsbD h = true
    rw [State.hallTaken_boot]
    simp [hh]
  · refine ⟨s.newel.time, (s.hall h).keeper, ?_⟩
    rw [State.hall, hquiet.rest]
    exact s.hallTaken_halls h
  · rw [hquiet.ring g]
    show ringState (Table.get Ring.reset (s.hallTaken h).rings g).entry = 3
    rw [hring]
    exact hrings g hg
  · rw [hquiet.rest]
    exact s.hallTaken_mem hshape hbound hspace hhall
  · rw [hquiet.rest]
    exact congrArg Newel.powered hnewel
  · rw [hquiet.rest]
    show s.power.asleep = false → (s.hallTaken h).power.asleep = false
    rw [hpower]
    exact id
  · rw [hquiet.knots]
    exact hknots

/-- A hall that is lost while its die is alive. -/
theorem State.loseHall_gone {s : State} {h : Nat} (hup : s.hallUp h = true) (hh : h < 8) :
    HallGone h s (s.loseHall h) ∧ ∀ k, k < 256 → ((s.loseHall h).knot (knotKey h k)).poison = true := by
  have hflushed := (State.admitAhead_outlives (s.poisonKnots h) fun g => ringHall g == h).trans
    (State.flushItems_outlives _ (fun i => ringHall i.ring == h) .hallLost none)
  have hended := hflushed.trans (State.errorRings_outlives _ h)
  have hall := (s.poisonKnots_outlives h).trans hended
  have heq : s.loseHall h = ((((s.poisonKnots h).admitAhead fun g => ringHall g == h).flushItems (fun i => ringHall i.ring == h) .hallLost
      none).errorRings h).takeAway h := if_pos hup
  rw [heq]
  obtain ⟨hgone, hknots⟩ := State.takeAway_gone (s := (((s.poisonKnots h).admitAhead fun g => ringHall g == h).flushItems
    (fun i => ringHall i.ring == h) .hallLost none).errorRings h) hh fun g hg => by
      rw [State.errorRings_ring _ hg]
      exact Ring.inError_state _
  refine ⟨⟨hgone.lost, hgone.keeper, hgone.rings, hgone.stores, hgone.powered.trans hall.powered, hgone.awake ∘ hall.awake⟩, fun k hk => ?_⟩
  rw [State.knot_of_knots hknots]
  exact hended.poisoned _ (s.poisonKnots_knot h hk)

theorem State.hall_lt_of_up {s : State} {h : Nat} (hup : s.hallUp h = true) : h < 8 := by
  unfold State.hallUp State.hallHere State.hallAbsent at hup
  by_contra hge
  simp [Nat.not_lt.mp hge] at hup

end Sys2Proof.Machine
end

section
/-!
Rails, protection, temperature and the step-rate monitor (R16–R24, R329, R334, R335, R362).
-/
namespace Sys2Proof.Machine

/-! ### A keeper and its goal (R16, R18, R20, R22) -/

/-- What a keeper drives: off, parked, idle, or its target in force as temperature and protection let it. -/
def Keeper.goal (k : Keeper) (protect : Bool) : Nat :=
  let t := thermalRail k.inForce.toNat k.tj.toNat
  if k.state = keeperOff then 0
  else if k.state = keeperParked then 650
  else
    let t := if protect then Nat.min t 720 else t
    if k.state = keeperIdle then Nat.min t 650 else t

theorem State.railGoal_eq (s : State) (h : Nat) : s.railGoal h = (s.hall h).keeper.goal s.power.protect := rfl

theorem thermalRail_lt {n : Nat} (hn : n < 1024) (tj : Nat) : thermalRail n tj < 1024 := by
  unfold thermalRail
  split
  · exact hn
  · simp only [Nat.max_def]
    split
    · omega
    · omega

theorem Keeper.goal_lt (k : Keeper) (protect : Bool) : k.goal protect < 1024 := by
  have hrail := thermalRail_lt k.inForce.isLt k.tj.toNat
  have hmin := Nat.min_le_left
  unfold Keeper.goal
  dsimp only
  split
  · omega
  · split
    · omega
    · cases protect with
      | false =>
        simp only [Bool.false_eq_true, if_false]
        split
        · exact Nat.lt_of_le_of_lt (hmin _ _) hrail
        · exact hrail
      | true =>
        simp only [if_true]
        split
        · exact Nat.lt_of_le_of_lt (hmin _ _) (Nat.lt_of_le_of_lt (hmin _ _) hrail)
        · exact Nat.lt_of_le_of_lt (hmin _ _) hrail

theorem Keeper.goal_of_active {k : Keeper} (hstate : k.state = 0) (protect : Bool) :
    k.goal protect = if protect then Nat.min (thermalRail k.inForce.toNat k.tj.toNat) 720 else thermalRail k.inForce.toNat k.tj.toNat := by
  have hoff : k.state ≠ keeperOff := hstate ▸ by decide
  have hparked : k.state ≠ keeperParked := hstate ▸ by decide
  have hidle : k.state ≠ keeperIdle := hstate ▸ by decide
  simp only [Keeper.goal, if_neg hoff, if_neg hparked, if_neg hidle]

theorem Keeper.goal_of_parked {k : Keeper} (hstate : k.state = 2) (protect : Bool) : k.goal protect = 650 := by
  have hoff : k.state ≠ keeperOff := hstate ▸ by decide
  have hparked : k.state = keeperParked := hstate
  simp only [Keeper.goal, if_neg hoff, if_pos hparked]

theorem Keeper.goal_of_idle {k : Keeper} (hstate : k.state = 1) (protect : Bool) : k.goal protect ≤ 650 := by
  have hoff : k.state ≠ keeperOff := hstate ▸ by decide
  have hparked : k.state ≠ keeperParked := hstate ▸ by decide
  have hidle : k.state = keeperIdle := hstate
  simp only [Keeper.goal, if_neg hoff, if_neg hparked, if_pos hidle]
  exact Nat.min_le_right _ _

theorem thermalRail_of_calm {n tj : Nat} (h : tj ≤ 105) : thermalRail n tj = n := if_pos h

/-! ### Slewing (R18) -/

theorem Keeper.railNow_congr {k n : Keeper} (hmv : n.railMv = k.railMv) (hsince : n.railSince = k.railSince) (hgoal : n.goalMv = k.goalMv) (now : W64) :
    n.railNow now = k.railNow now := by
  unfold Keeper.railNow
  rw [hmv, hsince, hgoal]

theorem Keeper.railNow_lt (k : Keeper) (now : W64) : k.railNow now < 1024 := by
  have hmv := k.railMv.isLt
  have hgoal := k.goalMv.isLt
  unfold Keeper.railNow
  dsimp only
  split
  · exact Nat.lt_of_le_of_lt (Nat.min_le_left _ _) hgoal
  · exact Nat.max_lt.mpr ⟨hgoal, by omega⟩

theorem Keeper.slewTo_goalMv (k : Keeper) (goal : Nat) (now : W64) : (k.slewTo goal now).goalMv = BitVec.ofNat 10 goal := by
  unfold Keeper.slewTo
  split
  case isTrue heq => exact heq.symm
  case isFalse => rfl

theorem Keeper.railNow_fresh {k : Keeper} {now : W64} (hsince : k.railSince = now) : k.railNow now = k.railMv.toNat := by
  unfold Keeper.railNow
  rw [hsince, Nat.sub_self]
  simp only [Nat.zero_div, Nat.add_zero, Nat.sub_zero]
  split
  case isTrue hle => exact Nat.min_eq_right hle
  case isFalse hgt => exact Nat.max_eq_right (Nat.le_of_lt (Nat.lt_of_not_le hgt))

/-- A new goal leaves the rail where it is now. -/
theorem Keeper.slewTo_railNow (k : Keeper) (goal : Nat) (now : W64) : (k.slewTo goal now).railNow now = k.railNow now := by
  unfold Keeper.slewTo
  split
  · rfl
  · refine (Keeper.railNow_fresh rfl).trans ?_
    exact (BitVec.toNat_ofNat _ _).trans (Nat.mod_eq_of_lt (k.railNow_lt now))

/-- A rail that slews at 10 mV/µs is there after the time it takes. -/
theorem Keeper.slewTo_arrives {k : Keeper} {goal : Nat} {since now : W64} (hgoal : goal < 1024) (hnew : (k.slewTo goal since).goalMv ≠ k.goalMv)
    (htime : since.toNat + 100 * (Nat.max (k.railNow since) goal - Nat.min (k.railNow since) goal) ≤ now.toNat) :
    (k.slewTo goal since).railNow now = goal := by
  have hfresh : BitVec.ofNat 10 goal ≠ k.goalMv := fun heq => hnew ((k.slewTo_goalMv goal since).trans heq)
  have hrail : (BitVec.ofNat 10 (k.railNow since)).toNat = k.railNow since :=
    (BitVec.toNat_ofNat _ _).trans (Nat.mod_eq_of_lt (k.railNow_lt since))
  have hset : (BitVec.ofNat 10 goal).toNat = goal := (BitVec.toNat_ofNat _ _).trans (Nat.mod_eq_of_lt hgoal)
  unfold Keeper.slewTo
  rw [if_neg hfresh]
  generalize k.railNow since = r at hrail htime
  unfold Keeper.railNow
  simp only [hset, hrail]
  split
  case isTrue hle =>
    have hmax : Nat.max r goal = goal := Nat.max_eq_right hle
    have hmin : Nat.min r goal = r := Nat.min_eq_left hle
    rw [hmax, hmin] at htime
    exact Nat.min_eq_left (by omega)
  case isFalse hgt =>
    have hle := Nat.le_of_lt (Nat.lt_of_not_le hgt)
    have hmax : Nat.max r goal = r := Nat.max_eq_left hle
    have hmin : Nat.min r goal = goal := Nat.min_eq_right hle
    rw [hmax, hmin] at htime
    exact Nat.max_eq_left (by omega)

/-- A keeper that drives its goal from now on. -/
def Keeper.tuned (k : Keeper) (protect : Bool) (now : W64) : Keeper := { k.slewTo (k.goal protect) now with throttle := k.throttles }

section
variable (k : Keeper) (protect : Bool) (now : W64)

theorem Keeper.slewTo_rest (goal : Nat) : k.slewTo goal now = { k with
    railMv := (k.slewTo goal now).railMv, railSince := (k.slewTo goal now).railSince, goalMv := (k.slewTo goal now).goalMv } := by
  unfold Keeper.slewTo
  split
  · rfl
  · rfl

theorem Keeper.tuned_rest : k.tuned protect now = { k with
    railMv := (k.tuned protect now).railMv, railSince := (k.tuned protect now).railSince, goalMv := (k.tuned protect now).goalMv
    throttle := k.throttles } := by
  unfold Keeper.tuned
  rw [k.slewTo_rest]

theorem Keeper.tuned_goalMv : (k.tuned protect now).goalMv.toNat = k.goal protect := by
  refine (congrArg BitVec.toNat (k.slewTo_goalMv (k.goal protect) now)).trans ?_
  exact (BitVec.toNat_ofNat _ _).trans (Nat.mod_eq_of_lt (k.goal_lt protect))

theorem Keeper.tuned_railNow : (k.tuned protect now).railNow now = k.railNow now :=
  (Keeper.railNow_congr rfl rfl rfl now).trans (k.slewTo_railNow (k.goal protect) now)

end

/-! ### A change of one keeper -/

/-- Of the state only hall `h` changes. -/
structure OnlyHall (h : Nat) (s s' : State) : Prop where
  newel : s'.newel = s.newel
  power : s'.power = s.power
  sameBytes : s'.sameBytes s
  items : s'.items = s.items
  knots : s'.knots = s.knots
  others : ∀ j, j ≠ h → s'.hall j = s.hall j

theorem OnlyHall.refl (h : Nat) (s : State) : OnlyHall h s s := ⟨rfl, rfl, ⟨rfl, rfl, rfl⟩, rfl, rfl, fun _ _ => rfl⟩

theorem OnlyHall.trans {h : Nat} {s s' s'' : State} (a : OnlyHall h s s') (b : OnlyHall h s' s'') : OnlyHall h s s'' where
  newel := b.newel.trans a.newel
  power := b.power.trans a.power
  sameBytes := ⟨a.sameBytes.1.trans b.sameBytes.1, a.sameBytes.2.1.trans b.sameBytes.2.1, a.sameBytes.2.2.trans b.sameBytes.2.2⟩
  items := b.items.trans a.items
  knots := b.knots.trans a.knots
  others j hj := (b.others j hj).trans (a.others j hj)

theorem State.modKeeper_only (s : State) (h : Nat) (f : Keeper → Keeper) : OnlyHall h s (s.modKeeper h f) where
  newel := rfl
  power := rfl
  sameBytes := ⟨rfl, rfl, rfl⟩
  items := rfl
  knots := rfl
  others j hj := by rw [State.modKeeper_hall, if_neg (Ne.symm hj)]

theorem State.modKeeper_keeper (s : State) (h : Nat) (f : Keeper → Keeper) : ((s.modKeeper h f).hall h).keeper = f (s.hall h).keeper := by
  rw [State.modKeeper_hall, if_pos rfl]

theorem State.retune_keeper (s : State) (h : Nat) : ((s.retune h).hall h).keeper = (s.hall h).keeper.tuned s.power.protect s.newel.time :=
  s.modKeeper_keeper h _

theorem State.retune_only (s : State) (h : Nat) : OnlyHall h s (s.retune h) := s.modKeeper_only h _

/-- A keeper that has been given something new, and drives its goal. -/
theorem State.tuned_only (s : State) (h : Nat) (f : Keeper → Keeper) : OnlyHall h s ((s.modKeeper h f).retune h) ∧
    (((s.modKeeper h f).retune h).hall h).keeper = (f (s.hall h).keeper).tuned s.power.protect s.newel.time := by
  refine ⟨(s.modKeeper_only h f).trans (State.retune_only _ h), ?_⟩
  rw [State.retune_keeper, State.modKeeper_keeper]
  rfl

/-- Changes of a keeper but of its rail leave the rail where it is. -/
theorem Keeper.tuned_railNow_of {k n : Keeper} (hmv : n.railMv = k.railMv) (hsince : n.railSince = k.railSince) (hgoal : n.goalMv = k.goalMv)
    (protect : Bool) (now : W64) : (n.tuned protect now).railNow now = k.railNow now :=
  (n.tuned_railNow protect now).trans (Keeper.railNow_congr hmv hsince hgoal now)

/-- What a command that only concerns one keeper is stated to do. -/
def State.keepsRail (s : State) (h : Nat) (c : Instr) (g : Keeper → Prop) : Prop :=
  ∃ s', exec c s = .next s' ∧ g (s'.hall h).keeper ∧
    (s'.hall h).keeper.railNow s.newel.time = (s.hall h).keeper.railNow s.newel.time ∧ s'.sameBytes s ∧
    s'.items = s.items ∧ s'.knots = s.knots ∧ ∀ j, j ≠ h → s'.hall j = s.hall j

theorem State.keepsRail_of_tuned {s : State} {h : Nat} {c : Instr} {g : Keeper → Prop} {f : Keeper → Keeper}
    (hrun : exec c s = .next ((s.modKeeper h f).retune h)) (hmv : (f (s.hall h).keeper).railMv = (s.hall h).keeper.railMv)
    (hsince : (f (s.hall h).keeper).railSince = (s.hall h).keeper.railSince) (hgoal : (f (s.hall h).keeper).goalMv = (s.hall h).keeper.goalMv)
    (hg : g ((f (s.hall h).keeper).tuned s.power.protect s.newel.time)) : s.keepsRail h c g := by
  obtain ⟨honly, hkeeper⟩ := s.tuned_only h f
  refine ⟨_, hrun, hkeeper ▸ hg, ?_, honly.sameBytes, honly.items, honly.knots, honly.others⟩
  rw [hkeeper]
  exact Keeper.tuned_railNow_of hmv hsince hgoal _ _

theorem State.keepsRail_of_only {s s' : State} {h : Nat} {c : Instr} {g : Keeper → Prop} (hrun : exec c s = .next s') (honly : OnlyHall h s s')
    (hg : g (s'.hall h).keeper) (hrail : (s'.hall h).keeper.railNow s.newel.time = (s.hall h).keeper.railNow s.newel.time) : s.keepsRail h c g :=
  ⟨s', hrun, hg, hrail, honly.sameBytes, honly.items, honly.knots, honly.others⟩

/-! ### Targets (R18, R22) -/

section
variable {s : State} {h : Nat} (hup : s.hallUp h = true)
include hup

theorem exec_rkTargetWrite (hhost : s.hostInterfaceUp = true) (v : W32) : exec (.rkTargetWrite h v) s = .next (s.targetWrite h v) :=
  congrArg Host.Outcome.next (if_pos (by rw [hhost, hup]; rfl))

/-- A target in range is taken; during protection it takes effect later. -/
theorem targetWrite_taken (hhost : s.hostInterfaceUp = true) {v : W32} (hlo : 650 ≤ fieldNat v 0 10) (hhi : fieldNat v 0 10 ≤ 850)
    (hstep : fieldNat v 0 10 % 5 = 0) :
    s.keepsRail h (.rkTargetWrite h v) fun n => n.target = field v 0 10 ∧ n.state = (s.hall h).keeper.state ∧
      (s.power.protect = true → n.inForce = (s.hall h).keeper.inForce ∧ n.goalMv.toNat = s.railGoal h) ∧
      (s.power.protect = false → n.inForce = field v 0 10 ∧ ((s.hall h).keeper.state = 0 ∧ (s.hall h).keeper.tj.toNat ≤ 105 →
        n.goalMv = field v 0 10 ∧ (n.goalMv ≠ (s.hall h).keeper.goalMv → ∀ now : W64,
          s.newel.time.toNat + 100 * (Nat.max ((s.hall h).keeper.railNow s.newel.time) (fieldNat v 0 10) -
            Nat.min ((s.hall h).keeper.railNow s.newel.time) (fieldNat v 0 10)) ≤ now.toNat → n.railNow now = fieldNat v 0 10))) := by
  have hfield : v.setWidth 10 = field v 0 10 := by simp [field]
  have hnat : (field v 0 10).toNat = fieldNat v 0 10 := (fieldNat_eq_field v 0 10).symm
  have hwrite : s.targetWrite h v = (s.modKeeper h fun k =>
      { k with target := v.setWidth 10, inForce := if s.power.protect then k.inForce else v.setWidth 10 }).retune h := if_pos ⟨hlo, hhi, hstep⟩
  refine State.keepsRail_of_tuned ((exec_rkTargetWrite hup hhost v).trans (congrArg Host.Outcome.next hwrite)) rfl rfl rfl ?_
  rw [hfield]
  refine ⟨by rw [Keeper.tuned_rest], by rw [Keeper.tuned_rest], fun hprotect => ⟨?_, ?_⟩, fun hprotect => ⟨?_, fun ⟨hactive, hcool⟩ => ?_⟩⟩
  · rw [Keeper.tuned_rest]
    exact if_pos hprotect
  · rw [Keeper.tuned_goalMv, State.railGoal_eq, hprotect]
    rfl
  · rw [Keeper.tuned_rest]
    exact if_neg (hprotect ▸ Bool.false_ne_true)
  · have hgoal : Keeper.goal { (s.hall h).keeper with target := field v 0 10, inForce := field v 0 10 } false = fieldNat v 0 10 := by
      refine (Keeper.goal_of_active (k := { (s.hall h).keeper with target := field v 0 10, inForce := field v 0 10 }) hactive false).trans ?_
      exact (thermalRail_of_calm hcool).trans hnat
    rw [hprotect]
    simp only [Bool.false_eq_true, if_false]
    refine ⟨?_, fun hnew now htime => ?_⟩
    · apply BitVec.eq_of_toNat_eq
      rw [Keeper.tuned_goalMv, hgoal, hnat]
    · unfold Keeper.tuned at hnew ⊢
      rw [hgoal] at hnew ⊢
      exact Keeper.slewTo_arrives (k := { (s.hall h).keeper with target := field v 0 10, inForce := field v 0 10 }) (by omega) hnew htime

/-- One out of range is refused. -/
theorem targetWrite_refused (hhost : s.hostInterfaceUp = true) {v : W32}
    (hbad : fieldNat v 0 10 < 650 ∨ 850 < fieldNat v 0 10 ∨ fieldNat v 0 10 % 5 ≠ 0) :
    s.keepsRail h (.rkTargetWrite h v) (fun n => n = (s.hall h).keeper) ∧
      ∃ s', exec (.rkTargetWrite h v) s = .next s' ∧ (s'.page (pgKeeper h)).raw.getLsbD 31 = true ∧
        ((s.page (pgKeeper h)).count = 0 → (s'.page (pgKeeper h)).info0 = v) := by
  have hwrite : s.targetWrite h v = s.refuse (pgKeeper h) v := if_neg (by omega)
  have hrun := (exec_rkTargetWrite hup hhost v).trans (congrArg Host.Outcome.next hwrite)
  refine ⟨⟨_, hrun, ?_⟩, _, hrun, ?_, fun hcount => ?_⟩
  · rw [State.refuse_rest]
    exact ⟨rfl, rfl, ⟨rfl, rfl, rfl⟩, rfl, rfl, fun _ _ => rfl⟩
  · rw [State.refuse, State.fault_page_self, Page.withFault_raw]
    simp
  · rw [State.refuse, State.fault_page_self, Page.withFault_of_none hcount]

theorem monitorWrite_window (hhost : s.hostInterfaceUp = true) (v : W32) :
    s.keepsRail h (.rkMonCtlWrite h v) fun n => n = { (s.hall h).keeper with window := field v 0 2, since := s.newel.time } := by
  have hfield : v.setWidth 2 = field v 0 2 := by simp [field]
  have hrun : exec (.rkMonCtlWrite h v) s = .next (s.monitorWrite h v) := congrArg Host.Outcome.next (if_pos (by rw [hhost, hup]; rfl))
  refine State.keepsRail_of_only hrun (s.modKeeper_only h _) ?_ ?_
  · rw [State.monitorWrite, State.modKeeper_keeper, hfield]
  · rw [State.monitorWrite, State.modKeeper_keeper]
    rfl

/-! ### Idling (R20) -/

theorem idleLowering_lowers (hactive : (s.hall h).keeper.state = 0) (hidle : (s.hall h).keeper.idleDis = false) (hquiet : s.hallQuiet h = true)
    (htime : s.lastBusy h + 50000 ≤ s.newel.time.toNat) :
    s.keepsRail h (.idleLowering h) fun n => n.state = 1 ∧ n.goalMv.toNat ≤ 650 := by
  have hdue : s.lastBusy h + idleAfterNs ≤ s.newel.time.toNat := htime
  have hrun : exec (.idleLowering h) s = .next ((s.modKeeper h fun k => { k with state := keeperIdle }).retune h) := by
    refine congrArg Host.Outcome.next (if_pos ?_)
    simp [hup, hactive, hidle, hquiet, hdue, keeperActive]
  refine State.keepsRail_of_tuned hrun rfl rfl rfl ⟨by rw [Keeper.tuned_rest]; rfl, ?_⟩
  rw [Keeper.tuned_goalMv]
  exact Keeper.goal_of_idle rfl _

omit hup in
theorem idleLowering_early (htime : s.newel.time.toNat < s.lastBusy h + 50000) : exec (.idleLowering h) s = .next s := by
  have hdue : ¬s.lastBusy h + idleAfterNs ≤ s.newel.time.toNat := Nat.not_le.mpr htime
  refine congrArg Host.Outcome.next (if_neg ?_)
  simp [hdue]

theorem idleExit_leaves (hidle : (s.hall h).keeper.state = 1) (hwork : s.hallQuiet h = false) :
    s.keepsRail h (.idleExit h) fun n => n.state = 0 ∧ n.target = (s.hall h).keeper.target ∧
      (s.power.protect = false → (s.hall h).keeper.tj.toNat ≤ 105 → n.goalMv = (s.hall h).keeper.inForce) := by
  have hrun : exec (.idleExit h) s = .next ((s.modKeeper h fun k => { k with state := keeperActive }).retune h) := by
    refine congrArg Host.Outcome.next ?_
    unfold State.idleExit State.leaveIdle
    simp [hup, hidle, hwork, keeperIdle]
  refine State.keepsRail_of_tuned hrun rfl rfl rfl ⟨by rw [Keeper.tuned_rest]; rfl, by rw [Keeper.tuned_rest], fun hprotect hcool => ?_⟩
  apply BitVec.eq_of_toNat_eq
  rw [Keeper.tuned_goalMv, hprotect]
  exact (Keeper.goal_of_active (k := { (s.hall h).keeper with state := keeperActive }) rfl false).trans (thermalRail_of_calm hcool)

/-! ### Temperature (R16, R334) -/

/-- A keeper at a temperature, parked where that is 115 °C or more. -/
def Keeper.heated (c : Nat) (k : Keeper) : Keeper :=
  if 115 ≤ c then { k with tj := BitVec.ofNat 8 (Nat.min c 255), state := keeperParked } else { k with tj := BitVec.ofNat 8 (Nat.min c 255) }

/-- The module with hall `h` at a temperature, before a loss. -/
def State.heated (s : State) (h c : Nat) : State :=
  (if 115 ≤ c then (s.modKeeper h fun k => { k with tj := BitVec.ofNat 8 (Nat.min c 255) }).modKeeper h fun k => { k with state := keeperParked }
    else s.modKeeper h fun k => { k with tj := BitVec.ofNat 8 (Nat.min c 255) }).retune h

omit hup in
theorem State.modKeeper_hallUp (s : State) (h j : Nat) (f : Keeper → Keeper) : (s.modKeeper h f).hallUp j = s.hallUp j := rfl

omit hup in
theorem State.retune_hallUp (s : State) (h j : Nat) : (s.retune h).hallUp j = s.hallUp j := s.modKeeper_hallUp h j _

theorem State.heated_hallUp (c : Nat) : (s.heated h c).hallUp h = true := by
  unfold State.heated
  rw [State.retune_hallUp]
  split
  · rw [State.modKeeper_hallUp, State.modKeeper_hallUp, hup]
  · rw [State.modKeeper_hallUp, hup]

theorem State.junction_eq (c : Nat) : s.junction h c = if 125 ≤ c then (s.heated h c).loseHall h else s.heated h c := if_pos hup

omit hup in
theorem State.heated_only (c : Nat) : OnlyHall h s (s.heated h c) ∧
    ((s.heated h c).hall h).keeper = (Keeper.heated c (s.hall h).keeper).tuned s.power.protect s.newel.time := by
  unfold State.heated Keeper.heated
  split
  · refine ⟨((s.modKeeper_only h _).trans (State.modKeeper_only _ h _)).trans (State.retune_only _ h), ?_⟩
    rw [State.retune_keeper, State.modKeeper_keeper, State.modKeeper_keeper]
    rfl
  · exact s.tuned_only h _

omit hup in
theorem Keeper.heated_rail (c : Nat) (k : Keeper) : (Keeper.heated c k).railMv = k.railMv ∧ (Keeper.heated c k).railSince = k.railSince ∧
    (Keeper.heated c k).goalMv = k.goalMv := by
  unfold Keeper.heated
  split
  · exact ⟨rfl, rfl, rfl⟩
  · exact ⟨rfl, rfl, rfl⟩

omit hup in
theorem keepsRail_of_heated {c : Nat} {i : Instr} (hrun : exec i s = .next (s.heated h c)) {g : Keeper → Prop}
    (hg : g ((Keeper.heated c (s.hall h).keeper).tuned s.power.protect s.newel.time)) : s.keepsRail h i g := by
  obtain ⟨honly, hkeeper⟩ := State.heated_only (s := s) (h := h) c
  obtain ⟨hmv, hsince, hgoal⟩ := Keeper.heated_rail c (s.hall h).keeper
  refine State.keepsRail_of_only hrun honly (hkeeper ▸ hg) ?_
  rw [hkeeper]
  exact Keeper.tuned_railNow_of hmv hsince hgoal _ _

theorem thermalThrottle_follows {c : Nat} (hc : c < 115) :
    s.keepsRail h (.thermalThrottle h c) fun n => n.tj = BitVec.ofNat 8 c ∧ n.state = (s.hall h).keeper.state ∧
      n.throttle = decide (105 < c ∧ Nat.max 650 ((s.hall h).keeper.inForce.toNat - 10 * (c - 105)) < (s.hall h).keeper.inForce.toNat) ∧
      ((s.hall h).keeper.state = 0 → s.power.protect = false → n.goalMv.toNat = if c ≤ 105 then (s.hall h).keeper.inForce.toNat
        else Nat.max 650 ((s.hall h).keeper.inForce.toNat - 10 * (c - 105))) := by
  have hrun : exec (.thermalThrottle h c) s = .next (s.heated h c) := by
    refine congrArg Host.Outcome.next ((State.junction_eq hup c).trans (if_neg (by omega)))
  have hcool : Keeper.heated c (s.hall h).keeper = { (s.hall h).keeper with tj := BitVec.ofNat 8 c } := by
    have hmin : Nat.min c 255 = c := Nat.min_eq_left (by omega)
    rw [Keeper.heated, if_neg (by omega), hmin]
  have htj : (BitVec.ofNat 8 c).toNat = c := (BitVec.toNat_ofNat _ _).trans (Nat.mod_eq_of_lt (by omega))
  refine keepsRail_of_heated hrun ?_
  rw [hcool]
  refine ⟨by rw [Keeper.tuned_rest], by rw [Keeper.tuned_rest], ?_, fun hactive hprotect => ?_⟩
  · rw [Keeper.tuned_rest]
    show decide (thermalRail (s.hall h).keeper.inForce.toNat (BitVec.ofNat 8 c).toNat < (s.hall h).keeper.inForce.toNat) = _
    rw [htj, thermalRail]
    by_cases hle : c ≤ 105
    · simp [hle, Nat.not_lt.mpr hle]
    · simp [hle, Nat.lt_of_not_le hle]
  · rw [Keeper.tuned_goalMv, hprotect]
    refine (Keeper.goal_of_active (k := { (s.hall h).keeper with tj := BitVec.ofNat 8 c }) hactive false).trans ?_
    show thermalRail _ (BitVec.ofNat 8 c).toNat = _
    rw [htj]
    rfl

theorem hallPark_parks {c : Nat} (hlo : 115 ≤ c) (hhi : c < 125) :
    s.keepsRail h (.hallPark h c) fun n => n.state = 2 ∧ n.goalMv = 650 := by
  have hrun : exec (.hallPark h c) s = .next (s.heated h c) := by
    refine congrArg Host.Outcome.next ((if_pos hlo).trans ((State.junction_eq hup c).trans (if_neg (by omega))))
  refine keepsRail_of_heated hrun ?_
  rw [Keeper.heated, if_pos hlo]
  refine ⟨by rw [Keeper.tuned_rest]; rfl, ?_⟩
  apply BitVec.eq_of_toNat_eq
  rw [Keeper.tuned_goalMv]
  exact Keeper.goal_of_parked rfl _

theorem hallResume_resumes {c : Nat} (hc : c ≤ 100) (hparked : (s.hall h).keeper.state = 2) :
    s.keepsRail h (.hallResume h c) fun n => n.state = 0 ∧ n.since = s.newel.time := by
  have hrun : exec (.hallResume h c) s =
      .next ((s.modKeeper h fun k => { k with tj := BitVec.ofNat 8 c, state := keeperActive, since := s.newel.time }).retune h) := by
    refine congrArg Host.Outcome.next (if_pos ?_)
    simp [hup, hparked, hc, keeperParked]
  exact State.keepsRail_of_tuned hrun rfl rfl rfl ⟨by rw [Keeper.tuned_rest]; rfl, by rw [Keeper.tuned_rest]⟩

theorem hallCoreShutoff_loses {c : Nat} (hc : 125 ≤ c) (hparked : (s.hall h).keeper.state = 2) :
    ∃ s', exec (.hallCoreShutoff h c) s = .next s' ∧ s'.hallLost h = true ∧ (s'.hall h).keeper.railMv = 0 ∧
      (s'.hall h).keeper.throttle = false ∧ (s.newel.powered = true → s.power.asleep = false → s'.switchRail h = 650) := by
  obtain ⟨honly, -⟩ := State.heated_only (s := s) (h := h) c
  obtain ⟨hgone, -⟩ := State.loseHall_gone (State.heated_hallUp hup c) (State.hall_lt_of_up hup)
  obtain ⟨now, k, hkeeper⟩ := hgone.keeper
  have hrun : exec (.hallCoreShutoff h c) s = .next ((s.heated h c).loseHall h) :=
    congrArg Host.Outcome.next ((if_pos ⟨hc, hparked⟩).trans ((State.junction_eq hup c).trans (if_pos hc)))
  refine ⟨_, hrun, hgone.lost, by rw [hkeeper]; rfl, by rw [hkeeper]; rfl, fun hpowered hawake => ?_⟩
  have hpowered' : ((s.heated h c).loseHall h).newel.powered = true := by rw [hgone.powered, honly.newel, hpowered]
  have hawake' : ((s.heated h c).loseHall h).power.asleep = false := hgone.awake (by rw [honly.power, hawake])
  have hoff : (Keeper.shutOff now k).railNow ((s.heated h c).loseHall h).newel.time = 0 := by
    unfold Keeper.railNow Keeper.shutOff
    simp
  simp only [State.switchRail, hpowered', hawake', hkeeper, hoff, Bool.not_true, Bool.or_self, Bool.false_eq_true, if_false, if_true]

omit hup in
theorem State.switchRail_eq (hpowered : s.newel.powered = true) (hawake : s.power.asleep = false) :
    s.switchRail h = if (s.hall h).keeper.railNow s.newel.time = 0 then 650 else (s.hall h).keeper.railNow s.newel.time := by
  simp only [State.switchRail, hpowered, hawake, Bool.not_true, Bool.or_self, Bool.false_eq_true, if_false]

/-! ### The step-rate monitor (R24, R362) -/

omit hup in
theorem highestRate_toNat (lo hi rate : BitVec 16) :
    (if (lo == 0 && hi == 0) || decide (hi.toNat < rate.toNat) then rate else hi).toNat = Nat.max hi.toNat rate.toNat := by
  by_cases hless : hi.toNat < rate.toNat
  · have hmax : Nat.max hi.toNat rate.toNat = rate.toNat := Nat.max_eq_right (Nat.le_of_lt hless)
    simp only [hless, decide_true, Bool.or_true, if_true, hmax]
  · have hmax : Nat.max hi.toNat rate.toNat = hi.toNat := Nat.max_eq_left (Nat.le_of_not_lt hless)
    simp only [hless, decide_false, Bool.or_false, hmax]
    split
    case isTrue hfirst =>
      have hzero : hi = 0 := by simpa using (Bool.and_eq_true_iff.mp hfirst).2
      rw [hzero] at hless ⊢
      exact Nat.eq_zero_of_not_pos hless
    case isFalse => rfl

omit hup in
theorem lowestRate_toNat {lo : BitVec 16} (hlo : lo ≠ 0) (hi rate : BitVec 16) :
    (if (lo == 0 && hi == 0) || decide (rate.toNat < lo.toNat) then rate else lo).toNat = Nat.min lo.toNat rate.toNat := by
  have hfirst : (lo == 0) = false := by simpa using hlo
  by_cases hless : rate.toNat < lo.toNat
  · have hmin : Nat.min lo.toNat rate.toNat = rate.toNat := Nat.min_eq_right (Nat.le_of_lt hless)
    simp only [hless, decide_true, Bool.or_true, if_true, hmin]
  · have hmin : Nat.min lo.toNat rate.toNat = lo.toNat := Nat.min_eq_left (Nat.le_of_not_lt hless)
    simp only [hfirst, hless, Bool.false_and, decide_false, Bool.or_self, Bool.false_eq_true, if_false, hmin]

omit hup in
theorem monitorWindowEnd_rates (hruns : s.hallRuns h = true) (rate : BitVec 16)
    (htime : (s.hall h).keeper.since.toNat + 100000 * 10 ^ (s.hall h).keeper.window.toNat ≤ s.newel.time.toNat) :
    s.keepsRail h (.monitorWindowEnd h rate) fun n => n.rate = rate ∧
      n.endNs.toNat = (s.hall h).keeper.since.toNat + 100000 * 10 ^ (s.hall h).keeper.window.toNat ∧
      n.rateMax.toNat = Nat.max (s.hall h).keeper.rateMax.toNat rate.toNat ∧
      ((s.hall h).keeper.rateMin ≠ 0 → n.rateMin.toNat = Nat.min (s.hall h).keeper.rateMin.toNat rate.toNat) := by
  have hdue : (s.hall h).keeper.since.toNat + windowNs (s.hall h).keeper.window ≤ s.newel.time.toNat := htime
  have hbound : (s.hall h).keeper.since.toNat + 100000 * 10 ^ (s.hall h).keeper.window.toNat < 2 ^ 64 :=
    Nat.lt_of_le_of_lt htime s.newel.time.isLt
  have hcond : (s.hallRuns h && decide ((s.hall h).keeper.since.toNat + windowNs (s.hall h).keeper.window ≤ s.newel.time.toNat)) = true := by
    rw [hruns, decide_eq_true hdue]
    rfl
  have hend : s.monitorEnd h rate = s.modKeeper h fun k => { k with
      rate := rate
      rateMin := if ((s.hall h).keeper.rateMin == 0 && (s.hall h).keeper.rateMax == 0) || decide (rate.toNat < k.rateMin.toNat) then rate else k.rateMin
      rateMax := if ((s.hall h).keeper.rateMin == 0 && (s.hall h).keeper.rateMax == 0) || decide (k.rateMax.toNat < rate.toNat) then rate else k.rateMax
      endNs := BitVec.ofNat 64 ((s.hall h).keeper.since.toNat + windowNs (s.hall h).keeper.window)
      since := BitVec.ofNat 64 ((s.hall h).keeper.since.toNat + windowNs (s.hall h).keeper.window) } := if_pos hcond
  refine State.keepsRail_of_only (congrArg Host.Outcome.next hend) (s.modKeeper_only h _) ?_ ?_
  · rw [State.modKeeper_keeper]
    exact ⟨rfl, (BitVec.toNat_ofNat _ _).trans (Nat.mod_eq_of_lt hbound), highestRate_toNat _ _ _, fun hmin => lowestRate_toNat hmin _ _⟩
  · rw [State.modKeeper_keeper]
    rfl

omit hup in
/-- The page of a hall's keeper stands at its offset. -/
theorem pageOf_keeper {h r : Nat} (hh : h < 8) (hr : r < 4096) : pageOf ((4096 * pgKeeper h + r) / 4096) = some (.keeper h) ∧
    (4096 * pgKeeper h + r) % 4096 = r := by
  have hdiv : (4096 * pgKeeper h + r) / 4096 = pgKeeper h := by omega
  rw [hdiv]
  refine ⟨?_, by omega⟩
  interval_cases h <;> rfl

omit hup in
theorem wholeUnit_keeper (h : Nat) {r : Nat} (hr : r % 4 = 0) : wholeUnit (4096 * pgKeeper h + r) 4 = true := by
  have hmod : (4096 * pgKeeper h + r) % 4 = 0 := by omega
  simp [wholeUnit, hmod]

section
variable (hhost : s.hostInterfaceUp = true) (hready : s.ready = true)
include hhost hready

/-- A 4-byte read of a register of a present hall's keeper page that no latch serves. -/
theorem State.barRead_keeper {off r : Nat} (hpage : pageOf (off / 4096) = some (.keeper h)) (hrel : off % 4096 = r) (hunit : wholeUnit off 4 = true)
    (hblock : 0x040 ≤ r) (hnarrow : wideRead (.keeper h) (r - 4) = false) (hnarrow' : wideRead (.keeper h) r = false) :
    s.barRead off 4 = (s.readEffect (.keeper h) r).emit (.data ((s.keeperRead h r).setWidth 64)) := by
  have hhere : s.hallHere h = true := by
    unfold State.hallUp at hup
    exact (Bool.and_eq_true_iff.mp hup).2
  have hanswers : s.pageAnswers (.keeper h) = true := by simp [State.pageAnswers, hhost, hready]
  have hpresent : s.pagePresent (.keeper h) = true := hhere
  have hread : s.regRead off = (s.keeperRead h r, s.readEffect (.keeper h) r) := by
    unfold State.regRead
    rw [hpage]
    simp only [hanswers, hpresent, Bool.not_true, Bool.false_and, Bool.or_self, Bool.false_eq_true, if_false]
    unfold State.pageRead
    simp only [hrel, Nat.not_lt.mpr hblock, if_false, hnarrow, hnarrow', Bool.false_eq_true]
    rfl
  simp only [State.barRead, hhost, hunit, hread, Bool.not_true, Bool.false_eq_true, if_false, show ¬(4 = 8) by decide]

theorem rkMonRateRead_reads : ∃ s', exec (.rkMonRateRead h) s = .next s' ∧ s'.out = s.out ++ [.data ((s.hall h).keeper.rate.setWidth 64)] ∧
    (s'.hall h).keeper.endLatch = (s.hall h).keeper.endNs := by
  obtain ⟨hpage, hrel⟩ := pageOf_keeper (h := h) (r := 0x054) (State.hall_lt_of_up hup) (by decide)
  have hrun : (if h < 8 then s.barRead (4096 * pgKeeper h + 0x054) 4 else s) =
      (s.readEffect (.keeper h) 0x054).emit (.data ((s.keeperRead h 0x054).setWidth 64)) :=
    (if_pos (State.hall_lt_of_up hup)).trans (State.barRead_keeper hup hhost hready hpage hrel (wholeUnit_keeper h rfl) (by decide) rfl rfl)
  have hwide : ((s.hall h).keeper.rate.setWidth 32).setWidth 64 = (s.hall h).keeper.rate.setWidth 64 := by simp
  refine ⟨_, congrArg Host.Outcome.next hrun, ?_, ?_⟩
  · exact congrArg (s.out ++ [.data ·]) hwide
  · exact congrArg Keeper.endLatch (s.modKeeper_keeper h fun k => { k with endLatch := k.endNs })

theorem rkMonExtRead_reads : ∃ s', exec (.rkMonExtRead h) s = .next s' ∧
    s'.out = s.out ++ [.data ((BitVec.ofNat 32 ((s.hall h).keeper.rateMin.toNat + (s.hall h).keeper.rateMax.toNat * 65536)).setWidth 64)] ∧
    (s'.hall h).keeper.rateMin = 0 ∧ (s'.hall h).keeper.rateMax = 0 := by
  obtain ⟨hpage, hrel⟩ := pageOf_keeper (h := h) (r := 0x058) (State.hall_lt_of_up hup) (by decide)
  have hrun : (if h < 8 then s.barRead (4096 * pgKeeper h + 0x058) 4 else s) =
      (s.readEffect (.keeper h) 0x058).emit (.data ((s.keeperRead h 0x058).setWidth 64)) :=
    (if_pos (State.hall_lt_of_up hup)).trans (State.barRead_keeper hup hhost hready hpage hrel (wholeUnit_keeper h rfl) (by decide) rfl rfl)
  have hkeeper := s.modKeeper_keeper h fun k => { k with rateMin := 0, rateMax := 0 }
  exact ⟨_, congrArg Host.Outcome.next hrun, rfl, congrArg Keeper.rateMin hkeeper, congrArg Keeper.rateMax hkeeper⟩

end

end

/-! ### Protection (R21, R22) -/

section
variable {f : State → Nat → State} {φ : Keeper → Keeper} {p : Power} {n : Newel}

/-- A pass over halls, each changing its own keeper alone. -/
theorem foldl_keeper_other (honly : ∀ u j, OnlyHall j u (f u j)) {h : Nat} (l : List Nat) (hnot : h ∉ l) (s : State) :
    (l.foldl f s).hall h = s.hall h := by
  induction l generalizing s with
  | nil => rfl
  | cons j l ih =>
    rw [List.foldl_cons, ih (fun hin => hnot (List.mem_cons_of_mem _ hin))]
    exact (honly s j).others h fun heq => hnot (heq ▸ List.mem_cons_self ..)

theorem foldl_keeper_mem (honly : ∀ u j, OnlyHall j u (f u j))
    (hkeeper : ∀ u j, u.power = p → u.newel = n → ((f u j).hall j).keeper = φ (u.hall j).keeper) {h : Nat} {l : List Nat} (hnodup : l.Nodup) (hin : h ∈ l)
    {s : State} (hp : s.power = p) (hn : s.newel = n) : ((l.foldl f s).hall h).keeper = φ (s.hall h).keeper := by
  induction l generalizing s with
  | nil => exact nomatch hin
  | cons j l ih =>
    obtain ⟨hfresh, hnodup'⟩ := List.nodup_cons.mp hnodup
    rw [List.foldl_cons]
    by_cases heq : h = j
    · rw [heq, foldl_keeper_other honly l hfresh]
      exact hkeeper s j hp hn
    · rw [ih hnodup' ((List.mem_cons.mp hin).resolve_left heq) ((honly s j).power.trans hp) ((honly s j).newel.trans hn), (honly s j).others h heq]

end

/-- Only keepers change. -/
def RailsOnly (s s' : State) : Prop := s' = { s with halls := s'.halls }

theorem RailsOnly.foldl {α : Type} {f : State → α → State} (hf : ∀ s a, RailsOnly s (f s a)) (l : List α) (s : State) : RailsOnly s (l.foldl f s) := by
  induction l generalizing s with
  | nil => rfl
  | cons a l ih =>
    have hfirst := hf s a
    have hrest := ih (f s a)
    unfold RailsOnly at hfirst hrest ⊢
    rw [List.foldl_cons, hrest, hfirst]

theorem State.retuneAll_rails (s : State) : RailsOnly s s.retuneAll :=
  RailsOnly.foldl (f := State.retune) (fun _ _ => rfl) _ s

theorem State.applyTargets_rails (s : State) : RailsOnly s s.applyTargets :=
  RailsOnly.foldl (f := fun u h => u.modKeeper h fun k => { k with inForce := k.target }) (fun _ _ => rfl) _ s

/-- Every present hall's keeper drives its goal. -/
theorem State.retuneAll_keeper {s : State} {h : Nat} (hup : s.hallUp h = true) :
    (s.retuneAll.hall h).keeper = (s.hall h).keeper.tuned s.power.protect s.newel.time := by
  have hin : h ∈ (List.range 8).filter s.hallUp := List.mem_filter.mpr ⟨List.mem_range.mpr (State.hall_lt_of_up hup), hup⟩
  exact foldl_keeper_mem (φ := fun k => k.tuned s.power.protect s.newel.time) (fun u j => u.retune_only j)
    (fun u j hp hn => by rw [State.retune_keeper, hp, hn]) (List.nodup_range.filter _) hin rfl rfl

theorem State.applyTargets_keeper (s : State) {h : Nat} (hh : h < 8) :
    (s.applyTargets.hall h).keeper = { (s.hall h).keeper with inForce := (s.hall h).keeper.target } :=
  foldl_keeper_mem (φ := fun k => { k with inForce := k.target }) (p := s.power) (n := s.newel) (fun u j => u.modKeeper_only j _)
    (fun u j _ _ => u.modKeeper_keeper j _) List.nodup_range (List.mem_range.mpr hh) rfl rfl

/-- The module with protection set to `on`, its event raised. -/
def State.protectSet (s : State) (watts : Nat) (on : Bool) (b : Nat) : State :=
  ({ s.measurePower watts with power := { (s.measurePower watts).power with protect := on } } : State).event pgModule b

/-- What protection changes but for the keepers. -/
structure Protects (on : Bool) (b : Nat) (s s' : State) : Prop where
  protect : s'.power.protect = on
  event : (s'.page pgModule).raw.getLsbD b = true
  items : s'.items = s.items
  sameBytes : s'.sameBytes s
  hallUp : ∀ h, s'.hallUp h = s.hallUp h

theorem State.hallUp_congr {s s' : State} (hboot : s'.boot = s.boot) (hpart : s'.part = s.part) (h : Nat) : s'.hallUp h = s.hallUp h := by
  simp only [State.hallUp, State.ready, State.hallHere, State.hallAbsent, State.hallLost, hboot, hpart]

theorem State.protectSet_protects (s : State) (watts : Nat) (on : Bool) {b : Nat} (hb : b < 32) : Protects on b s (s.protectSet watts on b) := by
  refine ⟨?_, ?_, ?_, ?_, fun h => ?_⟩
  · rw [State.protectSet, State.event_rest]
  · rw [State.protectSet, State.event_page_self, Page.withEvent]
    simp [hb]
  · rw [State.protectSet, State.event_rest]
    rfl
  · rw [State.protectSet, State.event_rest]
    exact ⟨rfl, rfl, rfl⟩
  · rw [State.protectSet, State.event_rest]
    exact State.hallUp_congr rfl rfl h

theorem State.protectSet_keeper (s : State) (watts : Nat) (on : Bool) (b h : Nat) :
    ((s.protectSet watts on b).hall h).keeper = (s.hall h).keeper := by
  rw [State.protectSet, State.event_rest]
  rfl

theorem Protects.rails {on : Bool} {b : Nat} {s s' s'' : State} (hs : Protects on b s s') (hrails : RailsOnly s' s'') : Protects on b s s'' := by
  rw [hrails]
  exact ⟨hs.protect, hs.event, hs.items, hs.sameBytes, fun h => (State.hallUp_congr rfl rfl h).trans (hs.hallUp h)⟩

theorem protectionEnter_protects {s : State} {h watts : Nat} (hup : s.hallUp h = true) (hawake : s.awake = true) (hoff : s.power.protect = false)
    (hover : s.power.limit.toNat < watts) :
    ∃ s', exec (.protectionEnter watts) s = .next s' ∧ s'.power.protect = true ∧ (s'.page pgModule).raw.getLsbD 0 = true ∧ s'.items = s.items ∧
      s'.sameBytes s ∧ (s'.hall h).keeper.target = (s.hall h).keeper.target ∧
      ((s.hall h).keeper.state = 0 ∧ (s.hall h).keeper.tj.toNat ≤ 105 →
        (s'.hall h).keeper.goalMv.toNat = Nat.min (s.hall h).keeper.inForce.toNat 720) := by
  have hcond : (!(s.measurePower watts).power.protect && decide ((s.measurePower watts).power.limit.toNat < watts)) = true := by
    show (!s.power.protect && decide (s.power.limit.toNat < watts)) = true
    rw [hoff, decide_eq_true hover]
    rfl
  have hon : s.protectOn watts = (s.protectSet watts true 0).retuneAll := by
    unfold State.protectOn
    rw [hawake]
    exact if_pos hcond
  have hset := s.protectSet_protects watts true (b := 0) (by decide)
  have hall := hset.rails (State.retuneAll_rails _)
  have htuned := State.retuneAll_keeper ((hset.hallUp h).trans hup)
  rw [State.protectSet_keeper, hset.protect] at htuned
  refine ⟨_, congrArg Host.Outcome.next hon, hall.protect, hall.event, hall.items, hall.sameBytes, ?_, fun ⟨hactive, hcool⟩ => ?_⟩
  · rw [htuned, Keeper.tuned_rest]
  · rw [htuned, Keeper.tuned_goalMv, Keeper.goal_of_active hactive, thermalRail_of_calm hcool]
    rfl

theorem protectionExit_releases {s : State} {h watts : Nat} (hup : s.hallUp h = true) (hawake : s.awake = true) (hon : s.power.protect = true)
    (hunder : watts ≤ s.power.limit.toNat) :
    ∃ s', exec (.protectionExit watts) s = .next s' ∧ s'.power.protect = false ∧ (s'.page pgModule).raw.getLsbD 1 = true ∧ s'.items = s.items ∧
      s'.sameBytes s ∧ (s'.hall h).keeper.inForce = (s.hall h).keeper.target ∧
      ((s.hall h).keeper.state = 0 ∧ (s.hall h).keeper.tj.toNat ≤ 105 → (s'.hall h).keeper.goalMv = (s.hall h).keeper.target) := by
  have hcond : ((s.measurePower watts).power.protect && decide (watts ≤ (s.measurePower watts).power.limit.toNat)) = true := by
    show (s.power.protect && decide (watts ≤ s.power.limit.toNat)) = true
    rw [hon, decide_eq_true hunder]
    rfl
  have hoff : s.protectOff watts = (s.protectSet watts false 1).applyTargets.retuneAll := by
    unfold State.protectOff
    rw [hawake]
    exact if_pos hcond
  have hset := (s.protectSet_protects watts false (b := 1) (by decide)).rails (State.applyTargets_rails _)
  have hall := hset.rails (State.retuneAll_rails _)
  have htuned := State.retuneAll_keeper ((hset.hallUp h).trans hup)
  rw [State.applyTargets_keeper _ (State.hall_lt_of_up hup), State.protectSet_keeper, hset.protect] at htuned
  refine ⟨_, congrArg Host.Outcome.next hoff, hall.protect, hall.event, hall.items, hall.sameBytes, ?_, fun ⟨hactive, hcool⟩ => ?_⟩
  · rw [htuned, Keeper.tuned_rest]
  · apply BitVec.eq_of_toNat_eq
    rw [htuned, Keeper.tuned_goalMv]
    exact (Keeper.goal_of_active (k := { (s.hall h).keeper with inForce := (s.hall h).keeper.target }) hactive false).trans (thermalRail_of_calm hcool)

/-- Settles O56. -/
theorem railsAndTemperature : Obligations.RailsAndTemperature := by
  unfold Obligations.RailsAndTemperature
  intro s h hup _
  dsimp only
  refine ⟨fun hhost v => ⟨fun hlo hhi hstep => targetWrite_taken hup hhost hlo hhi hstep, fun hbad => targetWrite_refused hup hhost hbad,
    monitorWrite_window hup hhost v⟩, fun watts hawake hoff => ⟨fun hunder => ?underLimit, fun hover => protectionEnter_protects hup hawake hoff hover⟩,
    fun watts hawake hon => ⟨fun hover => ?overLimit, fun hunder => protectionExit_releases hup hawake hon hunder⟩,
    fun hactive hidle hquiet htime => idleLowering_lowers hup hactive hidle hquiet htime, fun htime => idleLowering_early htime,
    fun hidle hwork => idleExit_leaves hup hidle hwork, fun c hc => thermalThrottle_follows hup hc, fun c hlo hhi => hallPark_parks hup hlo hhi,
    fun c hc hparked => hallResume_resumes hup hc hparked, fun c hc hparked => hallCoreShutoff_loses hup hc hparked,
    fun hpowered hawake => State.switchRail_eq hpowered hawake, fun rate hruns htime => monitorWindowEnd_rates hruns rate htime,
    fun hhost hready => ⟨rkMonRateRead_reads hup hhost hready, rkMonExtRead_reads hup hhost hready⟩⟩
  case underLimit =>
    have hcond : (!(s.measurePower watts).power.protect && decide ((s.measurePower watts).power.limit.toNat < watts)) = false := by
      show (!s.power.protect && decide (s.power.limit.toNat < watts)) = false
      rw [decide_eq_false (Nat.not_lt.mpr hunder), Bool.and_false]
    refine congrArg Host.Outcome.next ?_
    unfold State.protectOn
    rw [hawake]
    exact if_neg (hcond ▸ Bool.false_ne_true)
  case overLimit =>
    have hcond : ((s.measurePower watts).power.protect && decide (watts ≤ (s.measurePower watts).power.limit.toNat)) = false := by
      show (s.power.protect && decide (watts ≤ s.power.limit.toNat)) = false
      rw [decide_eq_false (Nat.not_le.mpr hover), Bool.and_false]
    refine congrArg Host.Outcome.next ?_
    unfold State.protectOff
    rw [hawake]
    exact if_neg (hcond ▸ Bool.false_ne_true)

end Sys2Proof.Machine
end

section
/-!
A hall's die that fails, the comparators and the newel's sources (R280, R286–R290, R339–R342).
-/
namespace Sys2Proof.Machine

/-! ### What a change of the fabric leaves (R28, R262–R265, R270, R278) -/

/-- The boot record, the pages, the entries of the rings and the names of the items stay. -/
structure Stands (s s' : State) : Prop where
  boot : s'.boot = s.boot
  pages : s'.pages = s.pages
  entries : ∀ g, (s'.ring g).entry = (s.ring g).entry
  names : s'.items.map Item.name = s.items.map Item.name

theorem Stands.refl (s : State) : Stands s s := ⟨rfl, rfl, fun _ => rfl, rfl⟩

theorem Stands.trans {s s' s'' : State} (h : Stands s s') (k : Stands s' s'') : Stands s s'' where
  boot := k.boot.trans h.boot
  pages := k.pages.trans h.pages
  entries g := (k.entries g).trans (h.entries g)
  names := k.names.trans h.names

theorem Stands.of_fields {s s' : State} (hboot : s'.boot = s.boot) (hpages : s'.pages = s.pages) (hrings : s'.rings = s.rings)
    (hitems : s'.items = s.items) : Stands s s' where
  boot := hboot
  pages := hpages
  entries g := by rw [State.ring, hrings, State.ring]
  names := by rw [hitems]

theorem Stands.foldl {α : Type} {f : State → α → State} (hf : ∀ s a, Stands s (f s a)) (l : List α) (s : State) : Stands s (l.foldl f s) := by
  induction l generalizing s with
  | nil => exact Stands.refl s
  | cons a l ih => exact (hf s a).trans (ih (f s a))

theorem Quiet.stands {s s' : State} (h : Quiet s s') : Stands s s' where
  boot := by rw [h.rest]
  pages := by rw [h.rest]
  entries g := by rw [h.ring g]
  names := h.names

/-! ### Links only fall -/

/-- A flight stays as its operator and its link left it, or its link has gone down. -/
def Flight.Falls (f f' : Flight) : Prop := f'.enable = f.enable ∧ (f'.link = f.link ∨ f'.link = .down)

theorem Flight.Falls.refl (f : Flight) : f.Falls f := ⟨rfl, Or.inl rfl⟩
theorem Flight.Falls.trans {f f' f'' : Flight} (h : f.Falls f') (k : f'.Falls f'') : f.Falls f'' := by
  obtain ⟨henable, hlink⟩ := h
  obtain ⟨kenable, klink⟩ := k
  refine ⟨kenable.trans henable, ?_⟩
  obtain heq | hdown := klink
  · exact hlink.imp heq.trans heq.trans
  · exact Or.inr hdown

/-- No port comes up. -/
def LinksFall (s s' : State) : Prop := ∀ p, (s.flight p).Falls (s'.flight p)

theorem LinksFall.refl (s : State) : LinksFall s s := fun _ => Flight.Falls.refl _
theorem LinksFall.trans {s s' s'' : State} (h : LinksFall s s') (k : LinksFall s' s'') : LinksFall s s'' := fun p => (h p).trans (k p)
theorem LinksFall.of_flights {s s' : State} (h : s'.flights = s.flights) : LinksFall s s' := fun p => by
  rw [State.flight_of_flights h p]
  exact Flight.Falls.refl _

theorem LinksFall.up {s s' : State} (h : LinksFall s s') {p : Nat} (hup : (s'.flight p).link = .up) : (s.flight p).link = .up := by
  obtain ⟨-, heq | hdown⟩ := h p
  · exact heq.symm.trans hup
  · exact absurd (hdown.symm.trans hup) nofun

theorem LinksFall.down {s s' : State} (h : LinksFall s s') {p : Nat} (hdown : (s.flight p).link = .down) : (s'.flight p).link = .down := by
  obtain ⟨-, heq | hdown'⟩ := h p
  · exact heq.trans hdown
  · exact hdown'

theorem LinksFall.foldl {α : Type} {f : State → α → State} (hf : ∀ s a, LinksFall s (f s a)) (l : List α) (s : State) : LinksFall s (l.foldl f s) := by
  induction l generalizing s with
  | nil => exact LinksFall.refl s
  | cons a l ih => exact (hf s a).trans (ih (f s a))

theorem State.modFlight_fall (s : State) (p : Nat) {f : Flight → Flight} (hf : ∀ x : Flight, x.Falls (f x)) : LinksFall s (s.modFlight p f) := by
  intro q
  rw [State.modFlight_flight]
  split
  case isTrue heq => exact heq ▸ hf _
  case isFalse => exact Flight.Falls.refl _

theorem State.sendResponse_fall (s : State) (p : Nat) (pk : Packet) : LinksFall s (s.sendResponse p pk) := by
  unfold State.sendResponse State.sendReply
  dsimp only
  split
  · exact s.modFlight_fall p fun _ => Flight.Falls.refl _
  · exact LinksFall.of_flights rfl

theorem State.withdraw_fall (s : State) (a : Axis) (tag g : Nat) : LinksFall s (s.withdraw a tag g) :=
  LinksFall.foldl (fun u q => u.sendResponse_fall q _) _ s

theorem State.releaseLinks_fall (s : State) (i : ItemId) : LinksFall s (s.releaseLinks i) := by
  unfold State.releaseLinks
  dsimp only
  split
  · exact LinksFall.refl s
  · exact LinksFall.trans (LinksFall.foldl (fun u p => u.modFlight_fall p (f := fun f => { f with
      channels := f.channels.filter (· != i), held := f.held.filter fun q => !q.2.ofItem i (s.colls.find? fun c => c.item == i) }) fun _ => ⟨rfl, Or.inl rfl⟩)
        (s.flights.map (·.1)) s) fun _ => Flight.Falls.refl _

theorem State.leaveFabric_fall (s : State) (i : ItemId) (st : Status) : LinksFall s (s.leaveFabric i st) := by
  unfold State.leaveFabric
  split
  · exact LinksFall.refl s
  · refine LinksFall.trans ?_ (State.releaseLinks_fall _ i)
    split
    · exact s.withdraw_fall _ _ _
    · exact LinksFall.refl s

theorem State.dropPieces_fall (s : State) (i : ItemId) : LinksFall s (s.dropPieces i) := by
  refine LinksFall.of_flights ?_
  unfold State.dropPieces
  dsimp only
  split
  · rfl
  · rfl

theorem State.dropArmings_fall (s : State) (i : ItemId) : LinksFall s (s.dropArmings i) :=
  LinksFall.foldl (f := fun (u : State) (p : Nat × Stream) => u.modStream (p.1 / 4096) (p.1 % 4096) (Stream.without i)) (fun _ _ _ => Flight.Falls.refl _) s.streams s

theorem State.modItem_fall (s : State) (i : ItemId) (f : Item → Item) : LinksFall s (s.modItem i f) := LinksFall.of_flights rfl

theorem State.failOne_fall (s : State) (i : ItemId) (st : Status) (u : Nat) : LinksFall s (s.failOne i st u) :=
  (((s.leaveFabric_fall i st).trans (State.dropArmings_fall _ i)).trans (State.modItem_fall _ i _)).trans (State.dropPieces_fall _ i)

theorem State.endCalled_fall (n : Nat) (s : State) (c : ItemId) : LinksFall s (State.endCalled n s c) := by
  induction n generalizing s c with
  | zero => exact LinksFall.refl s
  | succ n ih => exact LinksFall.foldl (fun u t => (u.failOne_fall _ _ _).trans (ih _ _)) _ s

theorem State.failCallers_fall (n : Nat) (s : State) (i : ItemId) : LinksFall s (State.failCallers n s i) := by
  induction n generalizing s i with
  | zero => exact LinksFall.refl s
  | succ n ih =>
    unfold State.failCallers
    split
    · exact LinksFall.refl s
    · split
      · exact LinksFall.refl s
      · exact (((s.modItem_fall _ _).trans (State.dropPieces_fall _ _)).trans (State.endCalled_fall _ _ _)).trans (ih _ _)

theorem State.failItem_fall (s : State) (i : ItemId) (st : Status) : LinksFall s (s.failItem i st) :=
  ((s.failOne_fall i st 0).trans (State.failCallers_fall 4 _ i)).trans (State.modItem_fall _ i _)

theorem State.settleWaits_fall (s : State) : LinksFall s s.settleWaits := by
  refine LinksFall.foldl (fun u t => ?_) _ s
  unfold State.settleWait
  split
  · split
    · exact u.modItem_fall _ _
    · exact u.failItem_fall _ _
    · exact LinksFall.refl u
  · exact LinksFall.refl u

theorem State.adjust_fall (s : State) (i : ItemId) (st : Status) : LinksFall s (s.adjust i st) := LinksFall.foldl (fun u j => u.modItem_fall j _) _ s

/-! ### What the fabric sheds (R270) -/

/-- Of the rest of the fabric no more is there than before, and nothing outside the fabric, the items and the selvedges has changed but memory. -/
structure Sheds (s s' : State) : Prop extends Stands s s' where
  part : s'.part = s.part
  sec : s'.sec = s.sec
  knots : s'.knots = s.knots
  ctl : s'.newel.ctl = s.newel.ctl
  links : LinksFall s s'
  rxs : ∀ x ∈ s'.rxs, x ∈ s.rxs
  transits : ∀ x ∈ s'.transits, x ∈ s.transits
  passages : ∀ x ∈ s'.passages, x ∈ s.passages
  losses : ∀ p, s'.counter (pgFlight p) 0x21 = s.counter (pgFlight p) 0x21

theorem Sheds.refl (s : State) : Sheds s s :=
  ⟨Stands.refl s, rfl, rfl, rfl, rfl, LinksFall.refl s, fun _ => id, fun _ => id, fun _ => id, fun _ => rfl⟩

theorem Sheds.trans {s s' s'' : State} (h : Sheds s s') (k : Sheds s' s'') : Sheds s s'' where
  toStands := h.toStands.trans k.toStands
  part := k.part.trans h.part
  sec := k.sec.trans h.sec
  knots := k.knots.trans h.knots
  ctl := k.ctl.trans h.ctl
  links := h.links.trans k.links
  rxs x := h.rxs x ∘ k.rxs x
  transits x := h.transits x ∘ k.transits x
  passages x := h.passages x ∘ k.passages x
  losses p := (k.losses p).trans (h.losses p)

theorem Sheds.foldl {α : Type} {f : State → α → State} (hf : ∀ s a, Sheds s (f s a)) (l : List α) (s : State) : Sheds s (l.foldl f s) := by
  induction l generalizing s with
  | nil => exact Sheds.refl s
  | cons a l ih => exact (hf s a).trans (ih (f s a))

theorem Quiet.sheds {s s' : State} (h : Quiet s s') (hlinks : LinksFall s s') : Sheds s s' where
  toStands := h.stands
  part := by rw [h.rest]
  sec := by rw [h.rest]
  knots := by rw [h.rest]
  ctl := by rw [h.rest]
  links := hlinks
  rxs := by rw [h.rest]; exact fun _ => id
  transits := by rw [h.rest]; exact fun _ => id
  passages := by rw [h.rest]; exact fun _ => id
  losses p := by
    have hcounters : s'.counters = s.counters := by rw [h.rest]
    rw [State.counter, hcounters, State.counter]

/-- A change of memory, halls, caches, selvedges, sendings, other counts and what has left. -/
theorem Sheds.of_rest {s s' : State} (h : s' = { s with
    out := s'.out, counters := s'.counters, halls := s'.halls, mem := s'.mem, caches := s'.caches, selvs := s'.selvs, txs := s'.txs })
    (hlosses : ∀ p, s'.counter (pgFlight p) 0x21 = s.counter (pgFlight p) 0x21) : Sheds s s' where
  toStands := by rw [h]; exact Stands.of_fields rfl rfl rfl rfl
  part := by rw [h]
  sec := by rw [h]
  knots := by rw [h]
  ctl := by rw [h]
  links := by rw [h]; exact LinksFall.of_flights rfl
  rxs := by rw [h]; exact fun _ => id
  transits := by rw [h]; exact fun _ => id
  passages := by rw [h]; exact fun _ => id
  losses := hlosses

theorem State.failItem_sheds (s : State) (i : ItemId) (st : Status) : Sheds s (s.failItem i st) :=
  (s.failItem_isQuiet i st).sheds (s.failItem_fall i st)
theorem State.finish_sheds (s : State) (i : ItemId) (n : Nat) : Sheds s (s.finish i n) :=
  (State.finish_quiet i n (Quiet.refl s)).sheds (s.modItem_fall i _)
theorem State.settleWaits_sheds (s : State) : Sheds s s.settleWaits :=
  (State.settleWaits_quiet (Quiet.refl s)).sheds s.settleWaits_fall

theorem State.modItem_sheds (s : State) (i : ItemId) {f : Item → Item} (hf : ∀ t, (f t).name = t.name) : Sheds s (s.modItem i f) :=
  (State.modItem_quiet i f hf (Quiet.refl s)).sheds (s.modItem_fall i f)

theorem State.modFlight_sheds (s : State) (p : Nat) {f : Flight → Flight} (hf : ∀ x : Flight, x.Falls (f x)) : Sheds s (s.modFlight p f) :=
  (State.modFlight_quiet p f (Quiet.refl s)).sheds (s.modFlight_fall p hf)

theorem Flight.spend_falls (prio sender : Nat) (now : W64) (f : Flight) : f.Falls (f.spend prio sender now) := by
  unfold Flight.spend
  split
  · exact Flight.Falls.refl f
  · exact Flight.Falls.refl f

theorem State.modFlight_const_fall (s : State) (p : Nat) {x : Flight} (hx : (s.flight p).Falls x) : LinksFall s (s.modFlight p fun _ => x) := by
  intro q
  rw [State.modFlight_flight]
  split
  case isTrue heq => exact heq ▸ hx
  case isFalse => exact Flight.Falls.refl _

theorem State.grantPort_sheds {s u : State} {p : Nat} (hu : s.grantPort p = some u) : Sheds s u := by
  unfold State.grantPort at hu
  dsimp only at hu
  split at hu
  · exact nomatch hu
  · obtain rfl := Option.some.inj hu
    exact (State.emit_quiet _ (State.modFlight_quiet p _ (Quiet.refl s))).sheds (s.modFlight_const_fall p (Flight.spend_falls _ _ _ _))

theorem State.drainPort_sheds (p n : Nat) (s : State) : Sheds s (State.drainPort p n s) := by
  induction n generalizing s with
  | zero => exact Sheds.refl s
  | succ n ih =>
    unfold State.drainPort
    split
    case h_1 u hu => exact (State.grantPort_sheds hu).trans (ih u)
    case h_2 => exact Sheds.refl s

theorem State.sendRequest_sheds (s : State) (p prio : Nat) (pk : Packet) : Sheds s (s.sendRequest p prio pk) :=
  (s.modFlight_sheds p (f := fun f => { f with held := f.held ++ [(prio, pk)] }) fun _ => ⟨rfl, Or.inl rfl⟩).trans (State.drainPort_sheds _ _ _)

theorem State.sendBody_sheds (s : State) (p prio : Nat) (i : ItemId) (bs : List Byte) : Sheds s (s.sendBody p prio i bs) :=
  Sheds.foldl (f := fun u d => u.sendRequest p prio (.body (originOf i) d)) (fun u _ => u.sendRequest_sheds _ _ _) _ s

theorem State.bump_losses (s : State) {p sel : Nat} (hsel : sel = 0x22 ∨ sel = 0x23 ∨ sel = 0x24) (n q : Nat) :
    (s.bump p sel n).counter (pgFlight q) 0x21 = s.counter (pgFlight q) 0x21 := Table.get_set_other _ _ _ (by omega)

theorem State.bump_sheds (s : State) {p sel : Nat} (hsel : sel = 0x22 ∨ sel = 0x23 ∨ sel = 0x24) (n : Nat) : Sheds s (s.bump p sel n) :=
  Sheds.of_rest rfl (s.bump_losses hsel n)

theorem State.fillLine_sheds (s : State) (h o owner : Nat) (hint : BitVec 8) (slot : Option Nat) : Sheds s (s.fillLine h o owner hint slot) := by
  have hreplace : ∀ ls, Sheds s ((s.cacheAccess h).replaceCache h ls) := fun ls => by
    rw [State.replaceCache_rest]
    exact Sheds.of_rest rfl fun _ => rfl
  unfold State.fillLine
  dsimp only
  split
  · exact Sheds.refl s
  · split
    · split
      · exact s.bump_sheds (Or.inr (Or.inr rfl)) 1
      · exact hreplace _
    · split
      · exact hreplace _
      · split
        · exact Sheds.refl s
        · exact hreplace _

theorem State.touchLine_sheds (s : State) (h : Nat) (c : CacheLine) : Sheds s (s.touchLine h c) :=
  Sheds.of_rest rfl ((s.cacheAccess h).bump_losses (Or.inl rfl) 1)

theorem State.lookupLine_sheds (s : State) (slot : Option Nat) (fill : Option (Nat × BitVec 8)) (a : Nat) : Sheds s (s.lookupLine slot fill a) := by
  unfold State.lookupLine
  dsimp only
  split
  · exact s.touchLine_sheds _ _
  · split
    · split
      · exact s.bump_sheds (Or.inr (Or.inl rfl)) 1
      · exact (s.bump_sheds (Or.inr (Or.inl rfl)) 1).trans (State.fillLine_sheds _ _ _ _ _ _)
    · exact s.bump_sheds (Or.inr (Or.inl rfl)) 1

theorem State.lookupRead_sheds (s : State) (via : Option Block512) (a n : Nat) : Sheds s (s.lookupRead via a n) := by
  unfold State.lookupRead
  split
  · exact Sheds.refl s
  · have hone : ∀ (slot : Option Nat) (fill : Option (Nat × BitVec 8)) (l : List (Nat × Nat)),
        Sheds s (l.foldl (fun u p => u.lookupLine slot fill p.1) s) := fun slot fill l =>
      Sheds.foldl (f := fun (u : State) (p : Nat × Nat) => u.lookupLine slot fill p.1)
        (fun u p => u.lookupLine_sheds slot fill p.1) l s
    dsimp only
    exact hone _ _ _

theorem State.lookupElements_sheds (s : State) (w : Block512) (pos n : Nat) : Sheds s (s.lookupElements w pos n) :=
  Sheds.foldl (f := fun (u : State) (p : Nat × Nat) => u.lookupRead (some w) p.1 p.2) (fun u p => u.lookupRead_sheds (some w) p.1 p.2)
    (byteParts w pos n) s

theorem State.modSending_sheds (s : State) (i : ItemId) (f : Sending → Sending) : Sheds s (s.modSending i f) := Sheds.of_rest rfl fun _ => rfl

theorem State.catchUpTo_sheds (s : State) (t : Item) (x : Sending) (r : Nat) : Sheds s (s.catchUpTo t x r) := by
  unfold State.catchUpTo
  split
  · exact Sheds.refl s
  · dsimp only
    split
    · exact ((s.lookupElements_sheds _ _ _).trans
        (State.modItem_sheds _ t.id (f := fun t' => { t' with bytes := t'.bytes + _ }) fun _ => rfl)).trans (State.sendBody_sheds _ _ _ _ _)
    · exact s.modSending_sheds _ _

theorem State.endSending_sheds (s : State) (t : Item) (x : Sending) : Sheds s (s.endSending t x) := by
  have hadjust : Sheds s (if x.pruned.isEmpty then s else s.adjust t.id .prunedCatchup) := by
    split
    · exact Sheds.refl s
    · exact (State.adjust_quiet _ _ (Quiet.refl s)).sheds (s.adjust_fall _ _)
  unfold State.endSending
  split
  · exact s.failItem_sheds _ _
  · exact (hadjust.trans (State.finish_sheds _ _ _)).trans ((State.releaseLinks_quiet _ (Quiet.refl _)).sheds (State.releaseLinks_fall _ _))

theorem State.beginCatchUp_sheds (s : State) (t : Item) (x : Sending) : Sheds s (s.beginCatchUp t x) := by
  have hserved := (s.modSending_sheds t.id fun y => { y with catchUp := true }).trans
    (Sheds.foldl (fun u r => u.catchUpTo_sheds t x r) (x.pruned.filter fun r => !x.served r) _)
  unfold State.beginCatchUp
  split
  · exact s.failItem_sheds _ _
  · split
    · exact Sheds.refl s
    · dsimp only
      split
      · split
        · exact hserved.trans (State.endSending_sheds _ _ _)
        · exact hserved
      · exact hserved

theorem State.settleSending_sheds (s : State) (i : ItemId) : Sheds s (s.settleSending i) := by
  unfold State.settleSending
  split
  · dsimp only
    split
    · exact s.endSending_sheds _ _
    · split
      · exact s.beginCatchUp_sheds _ _
      · exact Sheds.refl s
  · exact Sheds.refl s

theorem State.modSelv_sheds (s : State) (p : Nat) (f : Selvedge → Selvedge) : Sheds s (s.modSelv p f) := Sheds.of_rest rfl fun _ => rfl

theorem State.loseItem_sheds (s : State) (l : LinkId) (st : Status) (i : ItemId) : Sheds s (s.loseItem l st i) := by
  unfold State.loseItem
  split
  · exact (s.modSending_sheds _ _).trans (State.settleSending_sheds _ _)
  · split
    · exact ((State.leaveFabric_quiet i st (Quiet.refl s)).sheds (s.leaveFabric_fall i st)).trans (Sheds.foldl (fun u p => u.modSelv_sheds p _) _ _)
    · exact s.failItem_sheds _ _

theorem State.failOnLink_sheds (s : State) (l : LinkId) (st : Status) : Sheds s (s.failOnLink l st) :=
  Sheds.foldl (f := fun u i => u.loseItem l st i) (fun u i => u.loseItem_sheds l st i) _ s

theorem State.settleCloses_sheds (s : State) : Sheds s s.settleCloses :=
  Sheds.foldl (f := fun (u : State) (t : Item) => u.finish t.id 0) (fun u t => u.finish_sheds t.id 0) _ s

theorem State.dropPort_flight (s : State) (p q : Nat) : (s.dropPort p).flight q = if p = q then
    { s.flight p with link := .down, admitted := false, peerAdmitted := false, held := [], replies := [], inbox := [] } else s.flight q :=
  s.modFlight_flight p q fun f => { f with link := .down, admitted := false, peerAdmitted := false, held := [], replies := [], inbox := [] }

theorem State.dropPort_sheds (s : State) (p : Nat) : Sheds s (s.dropPort p) where
  toStands := Stands.of_fields rfl rfl rfl rfl
  part := rfl
  sec := rfl
  knots := rfl
  ctl := rfl
  links q := by
    rw [State.dropPort_flight]
    split
    case isTrue heq => exact heq ▸ ⟨rfl, Or.inr rfl⟩
    case isFalse => exact Flight.Falls.refl _
  rxs _ hx := (List.mem_filter.mp hx).1
  transits _ hx := (List.mem_filter.mp hx).1
  passages _ hx := (List.mem_filter.mp hx).1
  losses _ := rfl

/-! ### What goes with a die (R29, R289) -/

theorem State.loseFlight_sheds (s : State) (p : Nat) : Sheds s (s.loseFlight p) := by
  unfold State.loseFlight
  split
  · exact Sheds.refl s
  · exact (((Sheds.foldl (f := fun u i => u.failItem i .hallLost) (fun u i => u.failItem_sheds i _) _ s).trans (State.dropPort_sheds _ p)).trans
      (State.failOnLink_sheds _ _ _)).trans (State.settleCloses_sheds _)

theorem State.loseSelv_sheds (s : State) (p : Nat) : Sheds s (s.loseSelv p) := by
  have hfail : ∀ (u : State) (x : Update), Sheds u (if u.updateLive x then u.failItem x.item .hallLost else u) := by
    intro u x
    split
    · exact u.failItem_sheds _ _
    · exact Sheds.refl u
  exact (Sheds.foldl hfail _ s).trans (State.modSelv_sheds _ p _)

theorem State.loseHomed_sheds (s : State) (h : Nat) : Sheds s (s.loseHomed h) :=
  (Sheds.foldl (f := State.loseFlight) State.loseFlight_sheds _ s).trans (Sheds.foldl State.loseSelv_sheds _ _)

/-! ### A hall's die that fails (R289) -/

/-- A hall's die marked as failed and reported. -/
def State.dieReported (s : State) (h : Nat) : State :=
  ((({ s with boot := { s.boot with diesFailed := s.boot.diesFailed ||| (1#8 <<< h) } } : State).fault pgModule .hallLost (wordOf h) 0).event pgModule 2)

theorem State.dieReported_rest (s : State) (h : Nat) : s.dieReported h = { s with
    boot := { s.boot with diesFailed := s.boot.diesFailed ||| (1#8 <<< h) }, pages := (s.dieReported h).pages, out := (s.dieReported h).out } := by
  unfold State.dieReported
  rw [State.event_rest, State.fault_rest]

theorem State.dieReported_page (s : State) (h : Nat) :
    (s.dieReported h).page pgModule = ((s.page pgModule).withFault (statusCode .hallLost) (wordOf h) 0).withEvent 2 := by
  rw [State.dieReported, State.event_page_self, State.fault_page_self]
  rfl

theorem State.dieFails_eq {s : State} {h : Nat} (hready : s.ready = true) (hhere : s.hallAbsent h = false)
    (hfirst : s.boot.diesFailed.getLsbD h = false) : s.dieFails h = (((s.dieReported h).loseDead h).loseHomed h).settleWaits := by
  have hlt : h < 8 := by
    by_contra hge
    simp [State.hallAbsent, Nat.not_lt.mp hge] at hhere
  have hgone : (s.dieReported h).hallAbsent h = false := by
    rw [State.dieReported_rest]
    exact hhere
  unfold State.dieFails
  rw [hready, hfirst, decide_eq_true hlt]
  show ((if (s.dieReported h).hallAbsent h then s.dieReported h else (s.dieReported h).loseDead h).loseHomed h).settleWaits = _
  rw [hgone]
  rfl

/-- What a hall's items leave with, no record written. -/
def State.itemsGone (s : State) (f : ItemId → Bool) : State :=
  ((s.items.map (·.id)).filter f).foldl (fun u i => (u.failOne i .hallLost 0).releaseLinks i) (s.stopPieces fun q => f q.item)

theorem State.dropItems_eq (s : State) (f : ItemId → Bool) :
    s.dropItems f = { s.itemsGone f with items := (s.itemsGone f).items.filter fun t => !f t.id } := rfl

theorem State.itemsGone_stands (s : State) (f : ItemId → Bool) : Stands s (s.itemsGone f) :=
  (Stands.of_fields rfl rfl rfl rfl : Stands s (s.stopPieces fun q => f q.item)).trans
    (Stands.foldl (f := fun u i => (u.failOne i .hallLost 0).releaseLinks i)
      (fun u i => (State.releaseLinks_quiet i (State.failOne_quiet i .hallLost 0 (Quiet.refl u))).stands) _ _)

theorem State.dropItems_items (s : State) (f : ItemId → Bool) : ∀ t ∈ (s.dropItems f).items, f t.id = false := by
  intro t ht
  rw [State.dropItems_eq] at ht
  simpa using (List.mem_filter.mp ht).2

/-- The boot record, the module page, the rings of a hall in ERROR and its items gone. -/
structure DieGone (h : Nat) (s' : State) : Prop where
  rings : ∀ g, ringHall g = h → ringState (s'.ring g).entry = 3
  items : ∀ u ∈ s'.items, ringHall u.id.ring ≠ h

theorem DieGone.stands {h : Nat} {s s' : State} (hgone : DieGone h s) (hstands : Stands s s') : DieGone h s' where
  rings g hg := by
    rw [hstands.entries g]
    exact hgone.rings g hg
  items u hu := by
    have hname : u.name ∈ s.items.map Item.name := hstands.names ▸ List.mem_map.mpr ⟨u, hu, rfl⟩
    obtain ⟨v, hv, heq⟩ := List.mem_map.mp hname
    have hid : v.id = u.id := congrArg Prod.fst heq
    exact hid ▸ hgone.items v hv

/-- The rings of the hall in ERROR, its items gone. -/
def State.ringsStopped (s : State) (h : Nat) : State := (s.dropItems fun i => ringHall i.ring == h).errorRings h

theorem State.ringsStopped_gone (s : State) (h : Nat) : DieGone h (s.ringsStopped h) where
  rings g hg := by
    rw [State.ringsStopped, State.errorRings_ring _ hg]
    exact Ring.inError_state _
  items u hu := by
    have hitems : (s.ringsStopped h).items = (s.dropItems fun i => ringHall i.ring == h).items := by
      rw [State.ringsStopped, State.errorRings_rest]
    simpa using State.dropItems_items s (fun i => ringHall i.ring == h) u (hitems ▸ hu)

theorem State.ringsStopped_boot (s : State) (h : Nat) : (s.ringsStopped h).boot = s.boot := by
  rw [State.ringsStopped, State.errorRings_rest, State.dropItems_eq]
  exact (s.itemsGone_stands _).boot

theorem State.ringsStopped_page (s : State) (h : Nat) : (s.ringsStopped h).page pgModule = s.page pgModule := by
  have hdropped : (s.dropItems fun i => ringHall i.ring == h).pages = s.pages :=
    (s.itemsGone_stands fun i => ringHall i.ring == h).pages
  have herror : ∀ u : State, (u.errorRings h).page pgModule = u.page pgModule := by
    intro u
    unfold State.errorRings
    dsimp only
    split
    · exact State.modPage_page_of_ne _ (by simp [pgModule, pgTreadle]) _
    · rfl
  rw [State.ringsStopped, herror, State.page, hdropped, State.page]

theorem State.poisonKnots_rest (s : State) (h : Nat) : s.poisonKnots h = { s with knots := (s.poisonKnots h).knots } := by
  unfold State.poisonKnots
  generalize List.range 256 = l
  induction l generalizing s with
  | nil => rfl
  | cons a l ih =>
    rw [List.foldl_cons]
    exact ih (s.modKnot (knotKey h a) fun n => { n with poison := true })

/-- A hall whose rings and items are gone, its knots poisoned and taken away. -/
theorem DieGone.takeAway {h : Nat} {w : State} (hgone : DieGone h w) (hh : h < 8) : DieGone h ((w.poisonKnots h).takeAway h) ∧
    ((w.poisonKnots h).takeAway h).hallLost h = true ∧ ((w.poisonKnots h).takeAway h).boot.diesFailed = w.boot.diesFailed ∧
      ((w.poisonKnots h).takeAway h).page pgModule = w.page pgModule := by
  obtain ⟨k, hpoisoned⟩ : ∃ k, w.poisonKnots h = { w with knots := k } := ⟨_, w.poisonKnots_rest h⟩
  have hgone' : DieGone h (w.poisonKnots h) := by
    rw [hpoisoned]
    exact ⟨hgone.rings, hgone.items⟩
  have hboot : (w.poisonKnots h).boot = w.boot := by rw [hpoisoned]
  have hpage : (w.poisonKnots h).page pgModule = w.page pgModule := by
    rw [hpoisoned]
    rfl
  rw [← hboot, ← hpage]
  generalize w.poisonKnots h = u at hgone' ⊢
  obtain ⟨v, hquiet⟩ := u.takeAway_quiet h
  obtain ⟨-, -, -, hrings, hpages, hitems, -⟩ := u.hallTaken_fields h
  have htaken : DieGone h { u.hallTaken h with selvs := v } := by
    refine ⟨fun g hg => ?_, fun t ht => ?_⟩
    · show ringState (Table.get Ring.reset (u.hallTaken h).rings g).entry = 3
      rw [hrings]
      exact hgone'.rings g hg
    · have hmem : t ∈ (u.hallTaken h).items := ht
      rw [hitems] at hmem
      exact hgone'.items t hmem
  refine ⟨htaken.stands hquiet.stands, (State.takeAway_gone hh hgone'.rings).1.lost, ?_, ?_⟩
  · rw [hquiet.stands.boot]
    show (u.hallTaken h).boot.diesFailed = _
    rw [State.hallTaken_boot]
  · rw [State.page, hquiet.stands.pages]
    show Table.get Page.zero (u.hallTaken h).pages pgModule = _
    rw [hpages]
    rfl

theorem State.loseDead_gone (s : State) {h : Nat} (hh : h < 8) : DieGone h (s.loseDead h) ∧ (s.loseDead h).hallLost h = true ∧
    (s.loseDead h).boot.diesFailed = s.boot.diesFailed ∧ (s.loseDead h).page pgModule = s.page pgModule := by
  have heq : s.loseDead h = if (s.ringsStopped h).hallLost h then s.ringsStopped h else ((s.ringsStopped h).poisonKnots h).takeAway h := rfl
  have hgone := s.ringsStopped_gone h
  rw [heq, ← s.ringsStopped_boot h, ← s.ringsStopped_page h]
  generalize s.ringsStopped h = w at hgone ⊢
  by_cases hlost : w.hallLost h = true
  · rw [if_pos hlost]
    exact ⟨hgone, hlost, rfl, rfl⟩
  · rw [if_neg hlost]
    exact hgone.takeAway hh

theorem hallDieFailure_takes {s : State} {h : Nat} (hready : s.ready = true) (hhere : s.hallAbsent h = false)
    (hfirst : s.boot.diesFailed.getLsbD h = false) :
    ∃ s', exec (.hallDieFailure h) s = .next s' ∧ s'.boot.diesFailed.getLsbD h = true ∧ s'.hallLost h = true ∧
      (s'.page pgModule).raw.getLsbD 2 = true ∧ (s'.page pgModule).raw.getLsbD 31 = true ∧
      ((s.page pgModule).count = 0 → (s'.page pgModule).info0 = BitVec.ofNat 32 h) ∧
      (∀ u ∈ s'.items, ringHall u.id.ring ≠ h) ∧ (∀ g, ringHall g = h → ringState (s'.ring g).entry = 3) ∧
      (∀ p, p < 12 → homeHall p = h → s'.portUp p = false) := by
  have hh : h < 8 := by
    by_contra hge
    simp [State.hallAbsent, Nat.not_lt.mp hge] at hhere
  obtain ⟨hgone, hlost, hdies, hpage⟩ := (s.dieReported h).loseDead_gone hh
  have hend := (((s.dieReported h).loseDead h).loseHomed_sheds h).toStands.trans (State.settleWaits_quiet (Quiet.refl _)).stands
  rw [← State.dieFails_eq hready hhere hfirst] at hend
  have hdead : (s.dieFails h).boot.diesFailed.getLsbD h = true := by
    rw [hend.boot, hdies, State.dieReported_rest]
    simp [hh]
  have hmodule : (s.dieFails h).page pgModule = ((s.page pgModule).withFault (statusCode .hallLost) (wordOf h) 0).withEvent 2 := by
    rw [← State.dieReported_page, ← hpage, State.page, hend.pages, State.page]
  have hall := hgone.stands hend
  refine ⟨_, rfl, hdead, ?_, ?_, ?_, fun hnone => ?_, hall.items, hall.rings, fun p _ hp => ?_⟩
  · rw [State.hallLost, hend.boot]
    exact hlost
  · rw [hmodule]
    exact Page.withEvent_raw (by decide) _
  · rw [hmodule, Page.withEvent, Page.withFault_raw]
    simp
  · rw [hmodule, Page.withFault_of_none hnone]
    rfl
  · rw [State.portUp, hp, hdead]
    simp

/-! ### Comparators (R341, R342) -/

section
variable (s : State) {n : Nat}

/-- What a comparator's trip keeps: what the module holds, and the count. -/
theorem Managed.keeps {s' : State} (h : Managed s s') : s'.items = s.items ∧ s'.sameBytes s := by
  rw [h.rest]
  exact ⟨rfl, rfl, rfl, rfl⟩

theorem State.noteSensor_newel (n : Nat) : (s.noteSensor n).newel = { s.newel with pldmPending := (s.noteSensor n).newel.pldmPending } := by
  unfold State.noteSensor
  split
  · rfl
  · rfl

/-- The newel behind a trip. -/
theorem State.trip_newel (n : Nat) : (s.trip n).newel = { s.newel with
    ctl := Table.set 0 s.newel.ctl n (s.cmpBits n ||| 8), firstLockDue := (s.trip n).newel.firstLockDue
    alertLow := (s.trip n).newel.alertLow, pldmPending := (s.trip n).newel.pldmPending } := by
  have hset : (((s.noteSensor n).setCmp n (s.cmpBits n ||| 8)).event pgNewel n).newel =
      ((s.noteSensor n).setCmp n (s.cmpBits n ||| 8)).newel := by
    rw [State.event_rest]
  have hctl : ((s.noteSensor n).setCmp n (s.cmpBits n ||| 8)).newel = { s.newel with
      ctl := Table.set 0 s.newel.ctl n (s.cmpBits n ||| 8), alertLow := ((s.noteSensor n).setCmp n (s.cmpBits n ||| 8)).newel.alertLow
      pldmPending := (s.noteSensor n).newel.pldmPending } := by
    unfold State.setCmp State.driveAlert
    dsimp only
    rw [State.noteSensor_newel]
  unfold State.trip
  dsimp only
  split
  · unfold State.wake
    dsimp only
    rw [hset, hctl]
  · rw [hset, hctl]

theorem State.trip_page (hn : n < 32) : ((s.trip n).page pgNewel).raw.getLsbD n = true := by
  have hevent : ∀ u : State, ((u.event pgNewel n).page pgNewel).raw.getLsbD n = true := fun u => by
    rw [State.event_page_self]
    exact Page.withEvent_raw hn _
  unfold State.trip
  dsimp only
  split
  · exact hevent _
  · exact hevent _

theorem State.cmpBits_of_ctl {s s' : State} {c : W32} (h : s'.newel.ctl = Table.set 0 s.newel.ctl n c) : s'.cmpBits n = c := by
  rw [State.cmpBits, h]
  exact Table.get_set_self _ _ _ _

theorem State.trip_bits : (s.trip n).cmpBits n = s.cmpBits n ||| 8 :=
  State.cmpBits_of_ctl (s := s) (by rw [s.trip_newel n])

/-- A comparator that has tripped: `TRIPPED`, its event, and nothing else. -/
structure Tripped (n : Nat) (s s' : State) : Prop where
  tripped : s'.cmpTripped n = true
  event : (s'.page pgNewel).raw.getLsbD n = true
  items : s'.items = s.items
  bytes : s'.sameBytes s
  time : s'.newel.time = s.newel.time

theorem Tripped.all {n : Nat} {s : State} {c : Instr} {s' : State} (h : Tripped n s s') (hrun : exec c s = .next s') :
    ∃ s', exec c s = .next s' ∧ s'.cmpTripped n = true ∧ (s'.page pgNewel).raw.getLsbD n = true ∧ s'.items = s.items ∧ s'.sameBytes s ∧
      s'.newel.time = s.newel.time :=
  ⟨s', hrun, h.tripped, h.event, h.items, h.bytes, h.time⟩

theorem State.trip_trips (hn : n < 32) : Tripped n s (s.trip n) where
  tripped := by
    rw [State.cmpTripped, State.trip_bits]
    simp
  event := s.trip_page hn
  items := (s.trip_managed n).keeps.1
  bytes := (s.trip_managed n).keeps.2
  time := by rw [s.trip_newel n]

/-- A value that its comparator has answered. -/
def State.cmpSpent (s : State) (n : Nat) : State := { s with newel := { s.newel with spent := s.newel.spent ||| (1#8 <<< n) } }

theorem State.timeTrip_of_due (hdue : s.timeDue n = true) : s.timeTrip n = if s.cmpAlt n then
      if n = 5 then ((s.cmpSpent n).trip n).emit .wakePulse
      else if n = 6 then (((s.cmpSpent n).trip n).emit .heartbeat).setCmpVal 6 (s.cmpVal 6 + s.newel.heartbeatNs)
      else ((s.cmpSpent n).trip n).emit .ppsPulse
    else (s.cmpSpent n).trip n := by
  have halt : ((s.cmpSpent n).trip n).cmpAlt n = s.cmpAlt n := by
    rw [State.cmpAlt, State.trip_bits, State.cmpAlt]
    simp [State.cmpBits, State.cmpSpent]
  have hval : ((s.cmpSpent n).trip n).cmpVal 6 = s.cmpVal 6 := by
    rw [State.cmpVal, State.trip_newel]
    rfl
  have hbeat : ((s.cmpSpent n).trip n).newel.heartbeatNs = s.newel.heartbeatNs := by
    rw [State.trip_newel]
    rfl
  rw [← halt, ← hval, ← hbeat]
  exact if_pos hdue

theorem Tripped.of_spent {s' : State} (h : Tripped n (s.cmpSpent n) s') : Tripped n s s' := ⟨h.tripped, h.event, h.items, h.bytes, h.time⟩

theorem State.timeTrip_trips (hn : n < 32) (hdue : s.timeDue n = true) : Tripped n s (s.timeTrip n) := by
  have htrip := (State.trip_trips (s.cmpSpent n) hn).of_spent
  rw [State.timeTrip_of_due s hdue]
  split
  · split
    · exact ⟨htrip.tripped, htrip.event, htrip.items, htrip.bytes, htrip.time⟩
    · split
      · exact ⟨htrip.tripped, htrip.event, htrip.items, htrip.bytes, htrip.time⟩
      · exact ⟨htrip.tripped, htrip.event, htrip.items, htrip.bytes, htrip.time⟩
  · exact htrip

theorem State.timeTrip_bits (n : Nat) : (s.timeTrip n).cmpBits n = s.cmpBits n ∨ (s.timeTrip n).cmpBits n = s.cmpBits n ||| 8 := by
  by_cases hdue : s.timeDue n = true
  · refine Or.inr ?_
    have htrip : ((s.cmpSpent n).trip n).cmpBits n = s.cmpBits n ||| 8 := (s.cmpSpent n).trip_bits
    rw [State.timeTrip_of_due s hdue]
    split
    · split
      · exact htrip
      · split
        · exact htrip
        · exact htrip
    · exact htrip
  · exact Or.inl (by rw [State.timeTrip, if_neg hdue])

theorem State.timeTrip_val (hbeat : n = 6 → s.cmpAlt 6 = false) : (s.timeTrip n).cmpVal n = s.cmpVal n := by
  by_cases hdue : s.timeDue n = true
  · have hval : ((s.cmpSpent n).trip n).cmpVal n = s.cmpVal n := by
      rw [State.cmpVal, State.trip_newel]
      rfl
    rw [State.timeTrip_of_due s hdue]
    by_cases halt : s.cmpAlt n = true
    · rw [if_pos halt]
      split
      · exact hval
      · split
        case isTrue hsix => exact absurd (hsix ▸ halt) (by rw [hbeat hsix]; decide)
        case isFalse => exact hval
    · rw [if_neg halt]
      exact hval
  · rw [State.timeTrip, if_neg hdue]

end

theorem comparators_trip {s : State} (hpowered : s.newel.powered = true) :
    let tripped : Nat → Instr → Prop := fun n c => ∃ s', exec c s = .next s' ∧ s'.cmpTripped n = true ∧
      (s'.page pgNewel).raw.getLsbD n = true ∧ s'.items = s.items ∧ s'.sameBytes s ∧ s'.newel.time = s.newel.time
    (∀ c, s.cmpEnabled 2 = true → (s.cmpVal 2).toNat ≤ c → tripped 2 (.temperatureTrip c)) ∧
    (∀ c, s.cmpEnabled 2 = false ∨ c < (s.cmpVal 2).toNat → exec (.temperatureTrip c) s = .next s) ∧
    (∀ p, s.cmpEnabled 3 = true → p < (s.cmpVal 3).toNat → tripped 3 (.coolantFlowTrip p)) ∧
    (∀ p, s.cmpVal 3 = 0 → exec (.coolantFlowTrip p) s = .next s) ∧
    (s.timeDue 5 = true → tripped 5 .wakeTimer0Trip ∧
      (s.cmpAlt 5 = true → ∃ s', exec .wakeTimer0Trip s = .next s' ∧ s'.out.getLast? = some .wakePulse)) ∧
    (s.timeDue 6 = true → tripped 6 .wakeTimer1Trip ∧
      (s.cmpAlt 6 = true → ∃ s', exec .wakeTimer1Trip s = .next s' ∧ s'.out.getLast? = some .heartbeat ∧
        s'.cmpVal 6 = s.cmpVal 6 + s.newel.heartbeatNs)) ∧
    (s.timeDue 7 = true → tripped 7 .generalComparatorTrip ∧
      (s.cmpAlt 7 = true → ∃ s', exec .generalComparatorTrip s = .next s' ∧ s'.out.getLast? = some .ppsPulse)) ∧
    (s.timeDue 7 = false → exec .generalComparatorTrip s = .next s) := by
  have htime : ∀ (n : Nat) (c : Instr), (exec c s = .next (if s.newel.powered then s.timeTrip n else s)) → exec c s = .next (s.timeTrip n) := by
    intro n c hrun
    rw [hrun, hpowered]
    rfl
  have h5 := htime 5 .wakeTimer0Trip rfl
  have h6 := htime 6 .wakeTimer1Trip rfl
  have h7 := htime 7 .generalComparatorTrip rfl
  refine ⟨fun c hon hval => ?_, fun c hcalm => ?_, fun p hon hval => ?_, fun p hzero => ?_, fun hdue => ⟨?_, fun halt => ⟨_, h5, ?_⟩⟩,
    fun hdue => ⟨?_, fun halt => ⟨_, h6, ?_, ?_⟩⟩, fun hdue => ⟨?_, fun halt => ⟨_, h7, ?_⟩⟩, fun hcalm => ?_⟩
  · exact (State.trip_trips s (by decide)).all (congrArg Host.Outcome.next (by simp [State.temperatureTrip, hpowered, hon, hval]))
  · refine congrArg Host.Outcome.next (if_neg ?_)
    simp only [hpowered, Bool.true_and, Bool.and_eq_true, decide_eq_true_eq, not_and, Nat.not_le]
    exact fun hon => hcalm.resolve_left (by simp [hon])
  · exact (State.trip_trips s (by decide)).all (congrArg Host.Outcome.next (by simp [State.flowTrip, hpowered, hon, hval]))
  · refine congrArg Host.Outcome.next (if_neg ?_)
    simp [hzero]
  · exact (State.timeTrip_trips s (by decide) hdue).all h5
  · rw [State.timeTrip_of_due s hdue, if_pos halt, if_pos rfl]
    exact List.getLast?_concat ..
  · exact (State.timeTrip_trips s (by decide) hdue).all h6
  · rw [State.timeTrip_of_due s hdue, if_pos halt, if_neg (by decide), if_pos rfl]
    exact List.getLast?_concat ..
  · rw [State.timeTrip_of_due s hdue, if_pos halt, if_neg (by decide), if_pos rfl, State.cmpVal]
    exact Table.get_set_self _ _ _ _
  · exact (State.timeTrip_trips s (by decide) hdue).all h7
  · rw [State.timeTrip_of_due s hdue, if_pos halt, if_neg (by decide), if_neg (by decide)]
    exact List.getLast?_concat ..
  · rw [h7, State.timeTrip, if_neg (by simp [hcalm])]

section
variable {s : State} {n : Nat} (hhost : s.hostInterfaceUp = true) (hready : s.ready = true) (hn : n < 8)
include hhost hready hn

theorem exec_nwlCmpCtlWrite (v : W32) : exec (.nwlCmpCtlWrite n v) s = .next (s.cmpCtlWrite n v) :=
  congrArg Host.Outcome.next (if_pos (by simp [State.pageAnswers, hhost, hready, hn]))

theorem exec_nwlCmpValWrite (v : W64) : exec (.nwlCmpValWrite n v) s = .next (s.cmpValWrite n v) :=
  congrArg Host.Outcome.next (if_pos (by simp [State.pageAnswers, hhost, hready, hn]))

theorem cmpCtlWrite_taken {v : W32} (hfree : s.cmpConflict n v = none) : ∃ s', exec (.nwlCmpCtlWrite n v) s = .next s' ∧
    s'.items = s.items ∧ s'.sameBytes s ∧ ∀ b, b < 3 → (s'.cmpBits n).getLsbD b = (v &&& cmpMask n).getLsbD b := by
  have heq : s.cmpCtlWrite n v = (s.setCmp n ((v &&& cmpMask n) ||| ((s.cmpBits n &&& 8) &&& ~~~v))).timeTrip n := by
    rw [State.cmpCtlWrite, hfree]
  refine ⟨_, (exec_nwlCmpCtlWrite hhost hready hn v).trans (congrArg Host.Outcome.next heq), ?_⟩
  generalize hbits : (v &&& cmpMask n) ||| ((s.cmpBits n &&& 8) &&& ~~~v) = bits
  have hlow : ∀ b, b < 3 → bits.getLsbD b = (v &&& cmpMask n).getLsbD b ∧ (8#32).getLsbD b = false := by
    intro b hb
    have height : (8#32).getLsbD b = false := by
      interval_cases b <;> rfl
    refine ⟨?_, height⟩
    rw [← hbits]
    simp only [BitVec.getLsbD_or, BitVec.getLsbD_and]
    rw [show (8 : BitVec 32).getLsbD b = false from height]
    simp
  have hset : (s.setCmp n bits).cmpBits n = bits := State.cmpBits_of_ctl (s := s) rfl
  have hkept := ((s.setCmp_managed n bits).trans (State.timeTrip_managed _ n)).keeps
  refine ⟨hkept.1, hkept.2, fun b hb => ?_⟩
  obtain ⟨hb', height⟩ := hlow b hb
  obtain heq | heq := (s.setCmp n bits).timeTrip_bits n
  · rw [heq, hset, hb']
  · rw [heq, hset, BitVec.getLsbD_or, hb', show (8 : BitVec 32).getLsbD b = false from height, Bool.or_false]

theorem cmpCtlWrite_refused {v : W32} {r : Nat} (hconflict : s.cmpConflict n v = some r) : ∃ s', exec (.nwlCmpCtlWrite n v) s = .next s' ∧
    s'.newel = s.newel ∧ (s'.page pgNewel).raw.getLsbD 31 = true ∧
      ((s.page pgNewel).count = 0 → (s'.page pgNewel).code = 0x17 ∧ (s'.page pgNewel).info0 = BitVec.ofNat 32 r) := by
  have heq : s.cmpCtlWrite n v = s.fault pgNewel .conflict (BitVec.ofNat 32 r) 0 := by
    rw [State.cmpCtlWrite, hconflict]
  refine ⟨_, (exec_nwlCmpCtlWrite hhost hready hn v).trans (congrArg Host.Outcome.next heq), ?_, ?_, fun hnone => ?_⟩
  · rw [State.fault_rest]
  · rw [State.fault_page_self, Page.withFault_raw]
    simp
  · rw [State.fault_page_self, Page.withFault_of_none hnone]
    exact ⟨rfl, rfl⟩

theorem cmpValWrite_taken {v : W64} (hfree : cmpFixed n = false) (hrange : cmpInRange n v = true) (hbeat : n = 6 → s.cmpAlt 6 = false) :
    ∃ s', exec (.nwlCmpValWrite n v) s = .next s' ∧ s'.cmpVal n = v ∧ s'.items = s.items ∧ s'.sameBytes s := by
  have heq : s.cmpValWrite n v = (s.setCmpVal n v).timeTrip n := by
    rw [State.cmpValWrite, if_neg (by simp [hfree, hn]), if_pos hrange]
  have hset : (s.setCmpVal n v).cmpVal n = v := Table.get_set_self _ _ _ _
  have hwrite : Managed s (s.setCmpVal n v) := ⟨rfl, rfl, id, rfl, rfl⟩
  have hkept := (hwrite.trans (State.timeTrip_managed _ n)).keeps
  refine ⟨_, (exec_nwlCmpValWrite hhost hready hn v).trans (congrArg Host.Outcome.next heq), ?_, hkept.1, hkept.2⟩
  exact ((s.setCmpVal n v).timeTrip_val hbeat).trans hset

theorem cmpValWrite_refused {v : W64} (hfree : cmpFixed n = false) (hrange : cmpInRange n v = false) :
    ∃ s', exec (.nwlCmpValWrite n v) s = .next s' ∧ s'.newel = s.newel ∧ (s'.page pgNewel).raw.getLsbD 31 = true := by
  have heq : s.cmpValWrite n v = s.refuse pgNewel (v.setWidth 32) := by
    rw [State.cmpValWrite, if_neg (by simp [hfree, hn]), if_neg (by simp [hrange])]
  refine ⟨_, (exec_nwlCmpValWrite hhost hready hn v).trans (congrArg Host.Outcome.next heq), ?_, ?_⟩
  · rw [State.refuse_rest]
  · rw [State.refuse, State.fault_page_self, Page.withFault_raw]
    simp

end

/-! ### The newel's sources (R280, R339, R340) -/

theorem State.setForeign_foreign (s : State) (p : Nat) (c : Option PtpClock) : Table.get none (s.setForeign p c).newel.foreign p = c :=
  Table.get_set_self none s.newel.foreign p c

section
variable {s : State} (hpowered : s.newel.powered = true) (hawake : s.awake = true)
include hpowered hawake

theorem ptpLock_locks (d : Int) : ∃ s', exec (.ptpLock d) s = .next s' ∧ s'.newel.source = 1 ∧ s'.newel.firstLockDue = false ∧ s'.sameBytes s ∧
    (s.newel.firstLockDue = true → 1000000 < d → s'.newel.time = s.newel.time + BitVec.ofInt 64 d ∧ s'.newel.slewNs = 0) ∧
    (s.newel.firstLockDue = false ∨ d ≤ 1000000 → s'.newel.time = s.newel.time ∧ s'.newel.slewNs = d) := by
  refine ⟨_, congrArg Host.Outcome.next (if_pos (by simp [hpowered, hawake])), rfl, rfl, ⟨rfl, rfl, rfl⟩, fun hfirst hfar => ?_, fun hnear => ?_⟩
  · have hstep : (s.newel.firstLockDue && decide (d > stepLimitNs)) = true := by simp [hfirst, stepLimitNs, hfar]
    exact ⟨if_pos hstep, if_pos hstep⟩
  · have hslew : ¬(s.newel.firstLockDue && decide (d > stepLimitNs)) = true := by
      obtain hlater | hnear := hnear
      · simp [hlater]
      · simp [stepLimitNs, hnear]
    exact ⟨if_neg hslew, if_neg hslew⟩

omit hpowered hawake in
theorem ptpMessage_announce {p : Nat} (hport : s.clockPort p = true) {c : PtpClock} (hother : c.identity ≠ s.part.serial) :
    ∃ s', exec (.ptpMessage (.announce p c)) s = .next s' ∧
      Table.get none s'.newel.foreign p = some { c with steps := c.steps + 1 } ∧ s'.newel.slave = s'.bestMaster.2 ∧ s'.items = s.items ∧
        s'.sameBytes s := by
  have heq : s.ptpMessage (.announce p c) = (s.hear p).setForeign p (some { c with steps := c.steps + 1 }) := by
    exact if_pos (by simp [hport, hother])
  have hhear : ∃ f, s.hear p = { s with flights := f } := by
    unfold State.hear
    split
    · exact ⟨s.flights, rfl⟩
    · exact ⟨_, rfl⟩
  obtain ⟨f, hf⟩ := hhear
  refine ⟨_, congrArg Host.Outcome.next heq, State.setForeign_foreign _ p _, rfl, ?_, ?_⟩
  · show (s.hear p).items = s.items
    rw [hf]
  · show (s.hear p).sameBytes s
    rw [hf]
    exact ⟨rfl, rfl, rfl⟩

end

/-- Settles O57: a hall lost, its die failed, the comparators, their registers and the newel's sources. -/
theorem hallLossAndNewel : Obligations.HallLossAndNewel := by
  unfold Obligations.HallLossAndNewel
  refine ⟨fun s h c hup hc => ?lost, fun s h hready hhere hfirst => hallDieFailure_takes hready hhere hfirst,
    fun s hpowered => comparators_trip hpowered, fun s n hhost hready hn => ?registers, fun s hpowered hawake => ?sources⟩
  case lost =>
    obtain ⟨hgone, hpoisoned⟩ := State.loseHall_gone hup (State.hall_lt_of_up hup)
    obtain ⟨now, k, hkeeper⟩ := hgone.keeper
    have hrun : exec c s = .next (s.loseHall h) := by
      obtain rfl | rfl | ⟨rfl, hhost⟩ := hc
      · rfl
      · rfl
      · exact congrArg Host.Outcome.next (if_pos (by simp [hhost, hup]))
    exact ⟨_, hrun, hgone.lost, by rw [hkeeper]; rfl, by rw [hkeeper]; rfl, hpoisoned, hgone.rings, hgone.stores⟩
  case registers =>
    refine ⟨fun v hfree => cmpCtlWrite_taken hhost hready hn hfree, fun v r hr => cmpCtlWrite_refused hhost hready hn hr,
      fun v hfive hwake halt => ?_, fun v htwo halt halert => ?_, fun v hseven halt hoff hpps => ?_,
      fun v hfree hrange hbeat => cmpValWrite_taken hhost hready hn hfree hrange hbeat,
      fun v hfree hrange => cmpValWrite_refused hhost hready hn hfree hrange⟩
    · simp [State.cmpConflict, hfive, hwake, halt]
    · simp [State.cmpConflict, htwo, halt, halert]
    · simp only [State.cmpConflict, hseven, halt, hoff, hpps]
      simp
  case sources =>
    refine ⟨ptpLock_locks hpowered hawake, fun hptp => congrArg Host.Outcome.next (if_pos ⟨hpowered, hptp⟩), fun hother => ?_,
      fun p hport => ⟨?_, fun hfree => ?_, fun c hc => ptpMessage_announce hport hc⟩, fun on hon => ?_, fun halt => ?_⟩
    · refine congrArg Host.Outcome.next ?_
      rw [State.ppsIn, if_pos (by simp [hpowered, hawake])]
      exact if_neg hother
    · exact congrArg Host.Outcome.next (if_pos hport)
    · refine congrArg Host.Outcome.next ((if_pos hport).trans ?_)
      rw [State.sendResponse, State.sendReply, hfree]
      simp [State.response]
    · refine congrArg Host.Outcome.next (if_neg ?_)
      obtain rfl | hoff := hon
      · simp
      · simp [hoff]
    · exact congrArg Host.Outcome.next (if_pos (by simp [halt]))

end Sys2Proof.Machine
end

section
/-!
The treadle page: rings, knots, patterns and DIAGNOSTIC state (R105, R129, R146, R155, R160, R284, R298, R356–R359).
-/
namespace Sys2Proof.Machine

/-! ### Refusals of the treadle page -/

/-- A refusal of the treadle page. -/
def State.refuses (s : State) (h : Nat) (c : Instr) : Prop :=
  ∃ s', exec c s = .next s' ∧ (s'.page (pgTreadle h)).raw.getLsbD 31 = true ∧
    ((s.page (pgTreadle h)).count = 0 → (s'.page (pgTreadle h)).code = 0x21) ∧ s'.rings = s.rings ∧ s'.knots = s.knots ∧
    s'.patterns = s.patterns ∧ s'.halls = s.halls ∧ s'.items = s.items ∧ s'.sameBytes s

theorem State.refuses_of_refuse {s : State} {h : Nat} {c : Instr} {v : W32} (hrun : exec c s = .next (s.refuse (pgTreadle h) v)) : s.refuses h c := by
  refine ⟨_, hrun, ?_, fun hnone => ?_, ?_, ?_, ?_, ?_, ?_, ?_⟩
  · rw [State.refuse, State.fault_page_self, Page.withFault_raw]
    simp
  · rw [State.refuse, State.fault_page_self, Page.withFault_of_none hnone]
    rfl
  all_goals rw [State.refuse_rest]
  exact ⟨rfl, rfl, rfl⟩

theorem State.onHall_of_up {s : State} {h : Nat} (hhost : s.hostInterfaceUp = true) (hup : s.hallUp h = true) (f : State → State) : s.onHall h f = f s :=
  if_pos (by simp [hhost, hup])

theorem ringHall_of_lt {h n : Nat} (hn : n < 2048) : ringHall (2048 * h + n) = h := by
  unfold ringHall
  omega

/-! ### A ring that is settled stays settled (R284) -/

/-- A ring that is DISABLED or FENCED. -/
def State.ringIdle (s : State) (g : Nat) : Prop := ringState (s.ring g).entry = 0 ∨ ringState (s.ring g).entry = 2

/-- Settled rings stay settled. -/
def Settles (s s' : State) : Prop := ∀ g, s.ringIdle g → s'.ringIdle g

theorem Settles.refl (s : State) : Settles s s := fun _ => id
theorem Settles.trans {s s' s'' : State} (h : Settles s s') (k : Settles s' s'') : Settles s s'' := fun g => k g ∘ h g

theorem Settles.of_rings {s s' : State} (h : s'.rings = s.rings) : Settles s s' := fun g hg => by
  rw [State.ringIdle, State.ring, h]
  exact hg

theorem Settles.of_entries {s s' : State} (h : ∀ g, (s'.ring g).entry = (s.ring g).entry) : Settles s s' := fun g hg => by
  rw [State.ringIdle, h g]
  exact hg

theorem Settles.foldl {α : Type} {f : State → α → State} (hf : ∀ s a, Settles s (f s a)) (l : List α) (s : State) : Settles s (l.foldl f s) := by
  induction l generalizing s with
  | nil => exact Settles.refl s
  | cons a l ih => exact (hf s a).trans (ih (f s a))

theorem Quiet.settles {s s' : State} (h : Quiet s s') : Settles s s' := Settles.of_entries h.stands.entries

theorem State.modRing_settles (s : State) (g : Nat) {f : Ring → Ring} (hf : ∀ r, (f r).entry = r.entry) : Settles s (s.modRing g f) := by
  refine Settles.of_entries fun j => ?_
  rw [State.modRing_ring]
  split
  case isTrue heq => rw [hf, heq]
  case isFalse => rfl

theorem State.settleWaits_settles (s : State) : Settles s s.settleWaits := (State.settleWaits_quiet (Quiet.refl s)).settles

theorem State.knotSend_settles (s : State) (h k : Nat) (a : KnotAction) : Settles s (s.knotSend h k a) := by
  rw [State.knotSend_rest]
  exact Settles.of_rings rfl

theorem State.applySet_settles (s : State) (t : Item) : Settles s (s.applySet t) := by
  unfold State.applySet
  dsimp only
  split
  · exact s.knotSend_settles _ _ _
  · exact Settles.refl s

theorem State.put_settles (s : State) (fn a : Nat) (bs : List Byte) : Settles s (s.put fn a bs) := Settles.of_rings (s.store_rings _ _ _)

theorem State.writeRecord_settles (s : State) (t : Item) : Settles s (s.writeRecord t) := by
  unfold State.writeRecord
  have hdraw : Settles s s.draw.2 := Settles.of_rings rfl
  exact (hdraw.trans (State.put_settles _ _ _ _)).trans (Settles.of_rings rfl)

theorem State.ringInterrupt_settles (s : State) (g : Nat) (irq : Bool) : Settles s (s.ringInterrupt g irq) := by
  unfold State.ringInterrupt
  dsimp only
  split
  · exact Settles.refl s
  · split
    · exact (s.modRing_settles g (f := fun r => { r with sinceIrq := 0 }) fun _ => rfl).trans (Settles.of_rings rfl)
    · exact s.modRing_settles g fun _ => rfl

theorem State.countRecord_settles (s : State) (t : Item) : Settles s (s.countRecord t) := by
  refine Settles.trans ?_ (State.ringInterrupt_settles _ _ _)
  refine (s.modRing_settles t.id.ring (f := fun r => { r with c := r.c + 1 }) fun _ => rfl).trans ?_
  split
  · exact (State.put_settles _ _ _ _).trans (Settles.of_rings rfl)
  · exact Settles.refl _

theorem State.setRingState_settles (s : State) (g : Nat) {st : Nat} (hst : st = 0 ∨ st = 2) : Settles s (s.setRingState g st) := by
  intro j hj
  by_cases heq : j = g
  · subst heq
    rw [State.ringIdle, s.setRingState_state j (by omega)]
    exact hst
  · rw [State.ringIdle, State.ring, State.setRingState_rings]
    have hother : Table.get Ring.reset (s.ringStateSet g st).rings j = s.ring j := (s.ringStateSet_ring g st j).trans (if_neg (Ne.symm heq))
    rw [hother]
    exact hj

theorem State.ringSettle_settles (s : State) (g : Nat) : Settles s (s.ringSettle g) := by
  unfold State.ringSettle
  dsimp only
  split
  · exact s.setRingState_settles g (Or.inl rfl)
  · exact Settles.refl s

theorem State.busySettle_settles (s : State) (g : Nat) : Settles s (s.busySettle g) := by
  unfold State.busySettle
  split
  · exact Settles.refl s
  · exact s.modRing_settles g fun _ => rfl

theorem State.removeItem_settles (s : State) (i : ItemId) : Settles s (s.removeItem i) := by
  have hgone : ∀ u : State, Settles u { u with items := u.items.filter fun t => t.id != i } := fun u => Settles.of_rings rfl
  exact ((State.releaseLinks_quiet i (Quiet.refl s)).settles.trans (hgone _)).trans (State.busySettle_settles _ _)

theorem State.endItem_settles (s : State) (t : Item) : Settles s (s.endItem t) := by
  have hrecord : Settles s (if s.canRecord t.id.ring then s.writeRecord t else s) := by
    split
    · exact s.writeRecord_settles t
    · exact Settles.refl s
  have hcount : ∀ u : State, Settles u (if s.canRecord t.id.ring then u.countRecord t else u) := by
    intro u
    split
    · exact u.countRecord_settles t
    · exact Settles.refl u
  exact (((((hrecord.trans (State.applySet_settles _ t)).trans (hcount _)).trans (State.removeItem_settles _ _)).trans
    (State.ringSettle_settles _ _))).trans (State.settleWaits_settles _)

theorem State.endSub_settles (s : State) (t : Item) : Settles s (s.endSub t) := by
  have hgone : ∀ u : State, Settles u { u with items := u.items.filter fun v => v.id != t.id } := fun u => Settles.of_rings rfl
  have hdecided : ∀ (u : State) (c : ItemId), Settles u (if u.hasCommands c then u else u.modItem c fun p =>
      if p.calls.isEmpty && p.phase = .external then { p with phase := .decided } else p) := by
    intro u c
    split
    · exact Settles.refl u
    · exact Settles.of_rings rfl
  have hshare : ∀ u : State, Settles u (u.shareIn t) := fun u => Settles.of_rings rfl
  exact (((((s.applySet_settles t).trans (hshare _)).trans (State.releaseLinks_quiet _ (Quiet.refl _)).settles).trans (hgone _)).trans
    (hdecided _ _)).trans (State.settleWaits_settles _)

theorem State.endAs_settles (s : State) (t : Item) : Settles s (s.endAs t) := by
  unfold State.endAs
  split
  · exact s.endSub_settles t
  · split
    · exact Settles.refl s
    · exact s.endItem_settles t

theorem State.complete_settles (s : State) (i : ItemId) : Settles s (s.complete i) := by
  unfold State.complete
  split
  · split
    · exact Settles.refl s
    · split
      · dsimp only
        split
        · exact (s.failItem_isQuiet _ _).settles.trans (State.endAs_settles _ _)
        · exact (s.failItem_isQuiet _ _).settles
      · exact s.endAs_settles _
  · exact Settles.refl s

theorem State.failOver_settles (s : State) (i : ItemId) (st : Status) (b : Option Nat) : Settles s (s.failOver i st b) :=
  (State.failOne_quiet i st 0 (Quiet.refl s)).settles.trans (Settles.of_rings rfl)

theorem State.admitAhead_settles (s : State) (f : Nat → Bool) : Settles s (s.admitAhead f) :=
  (Settles.of_rings rfl : Settles s { s with items := s.items ++ ((s.rings.map Prod.fst).filter f).flatMap s.aheadItems }).trans
    (Settles.foldl (f := fun (u : State) (g : Nat) => u.modRing g fun r => { r with ahead := [] }) (fun u g => u.modRing_settles g fun _ => rfl) _ _)

theorem State.fenceItems_settles (s : State) (g : Nat) (st : Status) (byte : Nat) : Settles s (s.fenceItems g st byte) :=
  ((s.admitAhead_settles (· == g)).trans (Settles.foldl (fun u i => u.failOver_settles i st (some byte)) _ _)).trans
    (Settles.foldl State.complete_settles _ _)

/-! ### The reset of a ring (R284) -/

section
variable (s : State) (g : Nat)

/-- The ring FENCED, no command of it parked. -/
def State.fenced : State := (s.setRingState g ringFenced).modRing g fun r => { r with parked := none }

theorem State.fenced_ring : (s.fenced g).ring g = { s.ring g with entry := setField (s.ring g).entry 136 2 (BitVec.ofNat 2 ringFenced), parked := none } := by
  rw [State.fenced, State.modRing_ring, if_pos rfl, State.setRingState_ring]

theorem State.fenced_state : ringState ((s.fenced g).ring g).entry = ringFenced := by
  rw [State.fenced_ring, ringState_setField]
  rfl

theorem State.fenceRing_eq : s.fenceRing g = (((s.fenced g).fenceItems g .aborted noHallByte).ringSettle g).settleWaits := rfl

theorem State.fenceRing_idle : (s.fenceRing g).ringIdle g := by
  rw [State.fenceRing_eq]
  refine State.settleWaits_settles _ g (State.ringSettle_settles _ g g (State.fenceItems_settles _ g _ _ g ?_))
  exact Or.inr (s.fenced_state g)

/-- With nothing read ahead and no item, nothing is taken in. -/
theorem State.admitAhead_of_empty (hitems : s.items = []) (hahead : (s.ring g).ahead = []) :
    (s.admitAhead (· == g)).items = [] ∧ ∀ j, (s.admitAhead (· == g)).ring j = s.ring j := by
  have hnone : ∀ (l : List Nat), (l.filter (· == g)).flatMap s.aheadItems = [] := by
    refine fun l => List.flatMap_eq_nil_iff.mpr fun j hj => ?_
    obtain rfl : j = g := eq_of_beq (List.mem_filter.mp hj).2
    rw [State.aheadItems, hahead]
    rfl
  have hall : ∀ (l : List Nat) (u : State), (∀ j ∈ l, j = g) → (u.ring g).ahead = [] →
      (l.foldl (fun u j => u.modRing j fun r => { r with ahead := [] }) u).items = u.items ∧
        ∀ j, (l.foldl (fun u j => u.modRing j fun r => { r with ahead := [] }) u).ring j = u.ring j := by
    intro l
    induction l with
    | nil => exact fun u _ _ => ⟨rfl, fun _ => rfl⟩
    | cons a l ih =>
      intro u hl hu
      obtain rfl : a = g := hl a (List.mem_cons_self ..)
      have hsame : ∀ j, (u.modRing a fun r => { r with ahead := [] }).ring j = u.ring j := by
        intro j
        rw [State.modRing_ring]
        split
        case isTrue heq => rw [← heq, ← hu]
        case isFalse => rfl
      obtain ⟨hitems', hring'⟩ := ih (u.modRing a fun r => { r with ahead := [] }) (fun j hj => hl j (List.mem_cons_of_mem _ hj)) ((hsame a).symm ▸ hu)
      exact ⟨hitems', fun j => (hring' j).trans (hsame j)⟩
  have hkept := hall ((s.rings.map Prod.fst).filter (· == g)) { s with items := s.items ++ ((s.rings.map Prod.fst).filter (· == g)).flatMap s.aheadItems }
    (fun j hj => eq_of_beq (List.mem_filter.mp hj).2) hahead
  refine ⟨hkept.1.trans ?_, hkept.2⟩
  show s.items ++ _ = []
  rw [hitems, hnone]
  rfl

/-- Nothing is then to be failed. -/
theorem State.fenceItems_of_empty {st : Status} {byte : Nat} (hitems : s.items = []) (hahead : (s.ring g).ahead = []) :
    s.fenceItems g st byte = s.admitAhead (· == g) := by
  unfold State.fenceItems
  dsimp only
  rw [(s.admitAhead_of_empty g hitems hahead).1]
  rfl

theorem State.fenceRing_of_empty (hitems : s.items = []) (hahead : (s.ring g).ahead = []) :
    ringState ((s.fenceRing g).ring g).entry = if (s.ring g).c = (s.ring g).f then 0 else 2 := by
  have hnone : (s.fenced g).items = [] := by
    rw [State.fenced]
    exact (s.setRingState_items g ringFenced).trans hitems
  have hring : ((s.fenced g).fenceItems g .aborted noHallByte).ring g = (s.fenced g).ring g :=
    by
      have hahead' : ((s.fenced g).ring g).ahead = [] := by
        rw [State.fenced_ring]
        exact hahead
      rw [(s.fenced g).fenceItems_of_empty g hnone hahead']
      exact ((s.fenced g).admitAhead_of_empty g hnone hahead').2 g
  rw [State.fenceRing_eq, (State.settleWaits_quiet (Quiet.refl _)).stands.entries g]
  generalize (s.fenced g).fenceItems g .aborted noHallByte = u at hring ⊢
  have hfenced : ringState (u.ring g).entry = ringFenced := by
    rw [hring]
    exact s.fenced_state g
  have hc : (u.ring g).c = (s.ring g).c := by rw [hring, State.fenced_ring]
  have hf : (u.ring g).f = (s.ring g).f := by rw [hring, State.fenced_ring]
  rw [State.ringSettle, hc, hf]
  by_cases hdone : (s.ring g).c = (s.ring g).f
  · rw [if_pos ⟨hfenced, hdone⟩, if_pos hdone]
    exact u.setRingState_state g (by decide)
  · rw [if_neg (fun hboth => hdone hboth.2), if_neg hdone]
    exact hfenced

end

/-! ### The stores that DIAGNOSTIC state zeroes (R160) -/

section
variable (s : State) (h : Nat)

/-- What is left in a hall's stores: nothing, but for its context table. -/
def State.storesZeroed (s s' : State) (h : Nat) : Prop :=
  (∀ a, a < 2 ^ 64 → addrShapeOk a = true → addrSpace a = 0 → addrHall a = h → s'.mem.read a = 0) ∧
  (∀ a, a < 2 ^ 64 → addrShapeOk a = true → addrSpace a = 1 → addrHall a = h →
    (addrOffset a < (s.hall h).treadle.ctxBase.toNat * 65536 ∨ (s.hall h).treadle.ctxBase.toNat * 65536 + 786432 ≤ addrOffset a) → s'.mem.read a = 0) ∧
  (∀ j, j < 786432 → ¬s.chargeByte (galleryAddr h ((s.hall h).treadle.ctxBase.toNat * 65536) + j) →
    s'.mem.read (galleryAddr h ((s.hall h).treadle.ctxBase.toNat * 65536) + j) =
      s.mem.read (galleryAddr h ((s.hall h).treadle.ctxBase.toNat * 65536) + j))

/-- The loom stores zeroed and the cache empty. -/
def State.cacheEmptied : State := (s.zeroLooms h).replaceCache h []

theorem State.zeroHallStores_rest : s.zeroHallStores h = { s.cacheEmptied h with
    mem := ((s.cacheEmptied h).mem.zeroRange (galleryAddr h 0) (galleryAddr h ((s.hall h).treadle.ctxBase.toNat * 65536))).zeroRange
      (galleryAddr h ((s.hall h).treadle.ctxBase.toNat * 65536 + ctxTableSize)) (galleryAddr h gallerySize)
    poison := (s.zeroHallStores h).poison, corrected := (s.zeroHallStores h).corrected } := rfl

theorem State.cacheEmptied_rest : s.cacheEmptied h = { s with
    mem := (s.cacheEmptied h).mem, poison := (s.cacheEmptied h).poison, corrected := (s.cacheEmptied h).corrected
    full := (s.cacheEmptied h).full, looms := (s.cacheEmptied h).looms, bobbins := (s.cacheEmptied h).bobbins
    caches := (s.cacheEmptied h).caches } := by
  rw [State.cacheEmptied, State.replaceCache_rest, State.zeroLooms_rest]

theorem State.cacheEmptied_bytes {a : Nat} (hcharge : ¬s.chargeByte a) : (s.cacheEmptied h).mem.read a =
    if storeAddr h 0 0 0 ≤ a ∧ a < storeAddr h 96 0 0 then memDefault else s.mem.read a := by
  have hlive : ¬(s.zeroLooms h).liveCharge a := fun hlive => hcharge hlive.chargeByte
  rw [State.cacheEmptied, ((s.zeroLooms h).replaceCache_kept h []).bytes a hlive, State.zeroLooms_rest]
  exact Memory.read_zeroRange _ _ _ _

theorem State.cacheEmptied_stores {a : Nat} (hlow : a < 2 ^ 60) (hin : storeAddr h 0 0 0 ≤ a ∧ a < storeAddr h 96 0 0) :
    (s.cacheEmptied h).mem.read a = 0 := by
  have hlive : ¬(s.zeroLooms h).liveCharge a := fun hlive => absurd hlive.bounds.1 (by omega)
  rw [State.cacheEmptied, ((s.zeroLooms h).replaceCache_kept h []).bytes a hlive, State.zeroLooms_rest]
  exact (Memory.read_zeroRange _ _ _ _).trans (if_pos hin)

theorem State.zeroHallStores_read (a : Nat) : (s.zeroHallStores h).mem.read a =
    if galleryAddr h ((s.hall h).treadle.ctxBase.toNat * 65536 + ctxTableSize) ≤ a ∧ a < galleryAddr h gallerySize then memDefault
    else if galleryAddr h 0 ≤ a ∧ a < galleryAddr h ((s.hall h).treadle.ctxBase.toNat * 65536) then memDefault
    else (s.cacheEmptied h).mem.read a := by
  rw [State.zeroHallStores_rest]
  exact (Memory.read_zeroRange _ _ _ _).trans (by rw [Memory.read_zeroRange])

theorem galleryAddr_lt_iff (h a b : Nat) : galleryAddr h a < galleryAddr h b ↔ a < b := Nat.add_lt_add_iff_left
theorem galleryAddr_le_iff (h a b : Nat) : galleryAddr h a ≤ galleryAddr h b ↔ a ≤ b := Nat.add_le_add_iff_left
theorem ctxTableSize_eq : ctxTableSize = 786432 := rfl

theorem State.zeroHallStores_zeroed (hh : h < 8) : s.storesZeroed (s.zeroHallStores h) h := by
  refine ⟨fun a hbound hshape hspace hhall => ?loom, fun a hbound hshape hspace hhall hout => ?gallery, fun j hj hcharge => ?table⟩
  case loom =>
    have hin := loomStore_bounds hshape hbound hspace
    rw [hhall] at hin
    have hlow : a < 2 ^ 60 := by
      rw [addrSpace, Nat.shiftRight_eq_div_pow] at hspace
      omega
    rw [s.zeroHallStores_read h, if_neg, if_neg]
    · exact s.cacheEmptied_stores h hlow hin
    · rw [galleryAddr]
      omega
    · rw [galleryAddr]
      omega
  case gallery =>
    have hoffset : a % 2 ^ 33 < gallerySize ∧ a = galleryAddr h (a % 2 ^ 33) := by
      unfold addrShapeOk at hshape
      rw [hspace] at hshape
      simp only [Bool.and_eq_true, decide_eq_true_eq, beq_iff_eq] at hshape
      refine ⟨hshape.2, ?_⟩
      have hhigh := hshape.1
      simp only [addrSpace, addrHall, Nat.shiftRight_eq_div_pow] at hspace hhall hhigh
      simp only [galleryAddr, Nat.shiftLeft_eq]
      omega
    have heq : addrOffset a = a % 2 ^ 33 := by
      unfold addrOffset
      rw [hspace]
      rfl
    rw [heq] at hout
    obtain ⟨hsize, ha⟩ := hoffset
    generalize a % 2 ^ 33 = o at hsize ha hout
    rw [s.zeroHallStores_read h, ha]
    simp only [galleryAddr_lt_iff, galleryAddr_le_iff, ctxTableSize_eq]
    obtain hbelow | habove := hout
    · rw [if_neg fun hboth => absurd hboth.1 (by omega), if_pos ⟨Nat.zero_le _, hbelow⟩]
      rfl
    · rw [if_pos ⟨habove, hsize⟩]
      rfl
  case table =>
    have hadd : ∀ b, galleryAddr h b + j = galleryAddr h (b + j) := fun b => Nat.add_assoc ..
    rw [hadd] at hcharge ⊢
    rw [s.zeroHallStores_read h]
    simp only [galleryAddr_lt_iff, galleryAddr_le_iff, ctxTableSize_eq]
    rw [if_neg fun hboth => absurd hboth.1 (by omega), if_neg fun hboth => absurd hboth.2 (by omega), s.cacheEmptied_bytes h hcharge, if_neg]
    simp only [galleryAddr, storeAddr, Nat.shiftLeft_eq]
    omega

theorem State.zeroHallStores_queues : (s.zeroHallStores h).items = s.items ∧ (s.zeroHallStores h).rings = s.rings := by
  rw [State.zeroHallStores_rest, State.cacheEmptied_rest]
  exact ⟨rfl, rfl⟩

end

/-! ### The registers of the page -/

theorem State.setRoutine_self (s : State) (h n : Nat) (r : Option Routine) : (s.setRoutine h n r).routine h n = r :=
  Table.get_set_self none s.patterns (1024 * h + n) r

theorem State.setRoutine_other (s : State) {h n h' n' : Nat} (r : Option Routine) (hne : 1024 * h' + n' ≠ 1024 * h + n) :
    (s.setRoutine h n r).routine h' n' = s.routine h' n' := Table.get_set_other none s.patterns r (Ne.symm hne)

theorem State.setRingState_sameBytes (s : State) (g : Nat) {st : Nat} (hst : st ≠ ringError) : (s.setRingState g st).sameBytes s := by
  rw [State.setRingState_eq, if_neg hst, State.ringStateSet_rest]
  exact ⟨rfl, rfl, rfl⟩


section
variable {s : State} {h : Nat} (hhost : s.hostInterfaceUp = true) (hup : s.hallUp h = true)
include hhost hup

theorem exec_ringSelect (v : W32) : exec (.ringSelect h v) s = .next (s.ringSelect h v) :=
  congrArg Host.Outcome.next (State.onHall_of_up hhost hup fun s => s.ringSelect h v)

theorem exec_ringCommit : exec (.ringCommit h) s = .next (s.ringCommit h) :=
  congrArg Host.Outcome.next (State.onHall_of_up hhost hup fun s => s.ringCommit h)

theorem exec_ringEnable (fn : Nat) : exec (.ringEnable h fn) s = .next (if s.functionHere fn then s.ringEnable h fn else s) :=
  congrArg Host.Outcome.next (State.onHall_of_up hhost hup fun s => if s.functionHere fn then s.ringEnable h fn else s)

theorem exec_knotOwnerWrite (v : W32) : exec (.knotOwnerWrite h v) s = .next (s.knotOwnerWrite h v) :=
  congrArg Host.Outcome.next (State.onHall_of_up hhost hup fun s => s.knotOwnerWrite h v)

theorem exec_patternLoad : exec (.patternLoad h) s = .next (s.patternLoad h) :=
  congrArg Host.Outcome.next (State.onHall_of_up hhost hup fun s => s.patternLoad h)

theorem exec_patternClear : exec (.patternClear h) s = .next (s.patternClear h) :=
  congrArg Host.Outcome.next (State.onHall_of_up hhost hup fun s => s.patternClear h)

theorem exec_diagEnter (v : W32) : exec (.diagEnter h v) s = .next (s.diagEnter h v) :=
  congrArg Host.Outcome.next (State.onHall_of_up hhost hup fun s => s.diagEnter h v)

theorem exec_diagExit : exec (.diagExit h) s = .next (s.diagExit h) :=
  congrArg Host.Outcome.next (State.onHall_of_up hhost hup fun s => s.diagExit h)

theorem exec_ctxBaseWrite (v : W32) : exec (.ctxBaseWrite h v) s = .next (s.ctxBaseWrite h v) :=
  congrArg Host.Outcome.next (State.onHall_of_up hhost hup fun s => s.ctxBaseWrite h v)

omit hhost in
theorem exec_ringReset : exec (.ringReset h) s = .next (s.resetRing (s.selectedRing h)) := congrArg Host.Outcome.next (if_pos hup)

theorem ringSelect_selects (v : W32) : ∃ s', exec (.ringSelect h v) s = .next s' ∧ (s'.hall h).treadle.ringSel = field v 0 11 ∧
    (s'.hall h).treadle.ringData = (s.ring (2048 * h + fieldNat v 0 11)).entry ∧ s'.rings = s.rings ∧ s'.items = s.items ∧ s'.sameBytes s := by
  have htreadle : ((s.ringSelect h v).hall h).treadle = { (s.hall h).treadle with
      ringSel := v.setWidth 11, ringData := (s.ring (2048 * h + fieldNat v 0 11)).entry } := by
    rw [State.ringSelect, State.modTreadle_hall, if_pos rfl]
  refine ⟨_, exec_ringSelect hhost hup v, ?_, ?_, rfl, rfl, ⟨rfl, rfl, rfl⟩⟩
  · rw [htreadle, field, BitVec.ushiftRight_zero]
  · rw [htreadle]

theorem ringCommit_commits (hoff : ringState (s.ring (s.selectedRing h)).entry = 0) : ∃ s', exec (.ringCommit h) s = .next s' ∧
    (s'.ring (s.selectedRing h)).entry = setField (s.hall h).treadle.ringData 136 8 0 ∧
      (∀ j, j ≠ s.selectedRing h → s'.ring j = s.ring j) ∧ s'.items = s.items ∧ s'.sameBytes s := by
  have heq : s.ringCommit h = s.modRing (s.selectedRing h) fun r => { r with entry := setField (s.hall h).treadle.ringData 136 8 0 } := if_pos hoff
  refine ⟨_, (exec_ringCommit hhost hup).trans (congrArg Host.Outcome.next heq), ?_, fun j hj => ?_, rfl, ⟨rfl, rfl, rfl⟩⟩
  · rw [State.modRing_ring, if_pos rfl]
  · rw [State.modRing_ring, if_neg (Ne.symm hj)]

theorem ringEnable_enables {fn : Nat} (hfn : s.functionHere fn = true) (hoff : ringState (s.ring (s.selectedRing h)).entry = 0)
    (hallowed : s.ringAllowed h (s.selectedRing h) = true) (hentry : s.ringEntryOk (s.ring (s.selectedRing h)).entry = true) :
    ∃ s', exec (.ringEnable h fn) s = .next s' ∧ ringState (s'.ring (s.selectedRing h)).entry = 1 ∧ (s'.ring (s.selectedRing h)).p = 0 ∧
      (s'.ring (s.selectedRing h)).f = 0 ∧ (s'.ring (s.selectedRing h)).c = 0 ∧ (s'.ring (s.selectedRing h)).h = 0 ∧
      (s'.ring (s.selectedRing h)).function = fn ∧ (∀ j, j ≠ s.selectedRing h → s'.ring j = s.ring j) ∧ s'.items = s.items ∧ s'.sameBytes s := by
  have heq : s.ringEnable h fn = s.modRing (s.selectedRing h) fun r => { Ring.reset with
      entry := setField r.entry 136 2 (BitVec.ofNat 2 ringEnabled), function := fn, enabledAt := some s.newel.time } := if_pos ⟨hoff, hallowed, hentry⟩
  have hring : (s.ringEnable h fn).ring (s.selectedRing h) = { Ring.reset with
      entry := setField (s.ring (s.selectedRing h)).entry 136 2 (BitVec.ofNat 2 ringEnabled), function := fn, enabledAt := some s.newel.time } := by
    rw [heq, State.modRing_ring, if_pos rfl]
  have hrun : exec (.ringEnable h fn) s = .next (s.ringEnable h fn) := by
    rw [exec_ringEnable hhost hup, if_pos hfn]
  refine ⟨_, hrun, ?_, ?_, ?_, ?_, ?_, ?_, fun j hj => ?_, ?_, ?_⟩
  · rw [hring, ringState_setField]
    rfl
  · rw [hring, Ring.reset]
  · rw [hring, Ring.reset]
  · rw [hring, Ring.reset]
  · rw [hring, Ring.reset]
  · rw [hring]
  · rw [heq, State.modRing_ring, if_neg (Ne.symm hj)]
  · rw [heq]
    rfl
  · rw [heq]
    exact ⟨rfl, rfl, rfl⟩

omit hhost in
theorem ringReset_fenced (hfenced : ringState (s.ring (s.selectedRing h)).entry = 2) :
    ((∃ u ∈ s.items, u.id.ring = s.selectedRing h) → s.refuses h (.ringReset h)) ∧
    ((∀ u ∈ s.items, u.id.ring ≠ s.selectedRing h) → ∃ s', exec (.ringReset h) s = .next s' ∧
      ringState (s'.ring (s.selectedRing h)).entry = 0 ∧ s'.sameBytes s) := by
  have heq : s.resetRing (s.selectedRing h) = if s.items.any fun t => t.id.ring == s.selectedRing h then
      s.refuse (pgTreadle (ringHall (s.selectedRing h))) (BitVec.ofNat 32 (s.selectedRing h)) else s.setRingState (s.selectedRing h) ringDisabled := by
    unfold State.resetRing
    dsimp only
    rw [hfenced, if_neg (by decide), if_pos (by decide)]
  have hhall : ringHall (s.selectedRing h) = h := ringHall_of_lt (s.hall h).treadle.ringSel.isLt
  have hrun := exec_ringReset hup
  rw [heq, hhall] at hrun
  refine ⟨fun hbusy => ?_, fun hquiet => ?_⟩
  · rw [if_pos (by simpa using hbusy)] at hrun
    exact State.refuses_of_refuse hrun
  · rw [if_neg (by simpa using hquiet)] at hrun
    exact ⟨_, hrun, s.setRingState_state _ (by decide), s.setRingState_sameBytes _ (by decide)⟩

omit hhost in
theorem ringReset_fences (hlive : ringState (s.ring (s.selectedRing h)).entry = 1 ∨ ringState (s.ring (s.selectedRing h)).entry = 3) :
    ∃ s', exec (.ringReset h) s = .next s' ∧ (ringState (s'.ring (s.selectedRing h)).entry = 0 ∨ ringState (s'.ring (s.selectedRing h)).entry = 2) ∧
      (s.items = [] → (∀ r ∈ s.rings, r.2.ahead = []) → ringState (s'.ring (s.selectedRing h)).entry =
        if (s.ring (s.selectedRing h)).c = (s.ring (s.selectedRing h)).f then 0 else 2) := by
  have heq : s.resetRing (s.selectedRing h) = s.fenceRing (s.selectedRing h) := if_pos hlive
  refine ⟨_, (exec_ringReset hup).trans (congrArg Host.Outcome.next heq), s.fenceRing_idle _, fun hitems hahead => ?_⟩
  refine s.fenceRing_of_empty _ hitems ?_
  by_cases hreset : s.ring (s.selectedRing h) = Ring.reset
  · rw [hreset]
    rfl
  · exact hahead _ (Table.mem_of_get_ne hreset)

theorem knotOwnerWrite_sets {v : W32} (howner : fieldNat v 0 14 < 12288 ∨ fieldNat v 0 14 = 0x3FFF) :
    ∃ s', exec (.knotOwnerWrite h v) s = .next s' ∧
      s'.knot (knotKey h (s.hall h).treadle.knotSel.toNat) = { s.knot (knotKey h (s.hall h).treadle.knotSel.toNat) with owner := field v 0 14 } ∧
      (∀ j, j ≠ knotKey h (s.hall h).treadle.knotSel.toNat → s'.knot j = s.knot j) ∧ s'.items = s.items ∧ s'.sameBytes s := by
  have heq : s.knotOwnerWrite h v = s.modKnot (knotKey h (s.hall h).treadle.knotSel.toNat) fun k => { k with owner := v.setWidth 14 } := if_pos howner
  refine ⟨_, (exec_knotOwnerWrite hhost hup v).trans (congrArg Host.Outcome.next heq), ?_, fun j hj => ?_, rfl, ⟨rfl, rfl, rfl⟩⟩
  · rw [State.modKnot_knot, if_pos rfl, field, BitVec.ushiftRight_zero]
  · rw [State.modKnot_knot, if_neg (Ne.symm hj)]

theorem patternLoad_begins {bs : List Byte} (himage : s.patternImage h = some bs) (hnone : (s.hall h).treadle.load = none) :
    ∃ s', exec (.patternLoad h) s = .next s' ∧ (s'.hall h).treadle.load =
      (if bookOk (((s.book h).filter fun r => r.1 != (s.hall h).treadle.patIndex.toNat) ++ [((s.hall h).treadle.patIndex.toNat, bs)]) = true
        then some ((s.hall h).treadle.patIndex.toNat, (s.hall h).treadle.patTenant, bs) else none) ∧
      s'.patterns = s.patterns ∧ s'.sameBytes s := by
  have hhere : s.addrAbsent (s.hall h).treadle.patSrc.toNat = false := by
    unfold State.patternImage at himage
    dsimp only at himage
    split at himage
    case isTrue hok =>
      have hmemory := hok.2
      simp only [State.ringMemory, Bool.and_eq_true, Bool.not_eq_true'] at hmemory
      exact hmemory.1.2
    case isFalse => exact nomatch himage
  have heq : s.patternLoad h =
      if bookOk (((s.book h).filter fun r => r.1 != (s.hall h).treadle.patIndex.toNat) ++ [((s.hall h).treadle.patIndex.toNat, bs)]) = true then
        s.modTreadle h fun t => { t with load := some ((s.hall h).treadle.patIndex.toNat, (s.hall h).treadle.patTenant, bs) }
      else s.refuse (pgTreadle h) (wordOf (s.hall h).treadle.patIndex.toNat) := by
    unfold State.patternLoad
    dsimp only
    rw [hhere, if_neg Bool.false_ne_true, himage, hnone]
    rfl
  refine ⟨_, (exec_patternLoad hhost hup).trans (congrArg Host.Outcome.next heq), ?_, ?_, ?_⟩
  · split
    · rw [State.modTreadle_hall, if_pos rfl]
    · rw [State.refuse_rest]
      exact hnone
  · split
    · rfl
    · rw [State.refuse_rest]
  · split
    · exact ⟨rfl, rfl, rfl⟩
    · rw [State.refuse_rest]
      exact ⟨rfl, rfl, rfl⟩

theorem patternLoad_refuses (hbad : (s.hall h).treadle.load.isSome = true ∨ s.patternImage h = none)
    (hhere : s.addrAbsent (s.hall h).treadle.patSrc.toNat = false) : s.refuses h (.patternLoad h) := by
  have heq : s.patternLoad h = s.refuse (pgTreadle h) (wordOf (s.hall h).treadle.patIndex.toNat) := by
    unfold State.patternLoad
    dsimp only
    rw [hhere, if_neg Bool.false_ne_true]
    split
    · rfl
    case h_2 bs himage =>
      have hloading := hbad.resolve_right (by rw [himage]; exact nofun)
      rw [if_neg]
      obtain ⟨x, hx⟩ := Option.isSome_iff_exists.mp hloading
      simp [hx]
  exact State.refuses_of_refuse ((exec_patternLoad hhost hup).trans (congrArg Host.Outcome.next heq))

theorem patternLoad_absent (hgone : s.addrAbsent (s.hall h).treadle.patSrc.toNat = true) : ∃ s', exec (.patternLoad h) s = .next s' ∧
    s'.patterns = s.patterns ∧ s'.halls = s.halls ∧ s'.sameBytes s ∧
      ((s.page (pgTreadle h)).count = 0 → (s'.page (pgTreadle h)).code = 0x13) := by
  have heq : s.patternLoad h = s.fault (pgTreadle h) .engineAbsent (wordOf (s.hall h).treadle.patIndex.toNat) 0 := if_pos hgone
  refine ⟨_, (exec_patternLoad hhost hup).trans (congrArg Host.Outcome.next heq), ?_, ?_, ?_, fun hnone => ?_⟩
  · rw [State.fault_rest]
  · rw [State.fault_rest]
  · rw [State.fault_rest]
    exact ⟨rfl, rfl, rfl⟩
  · rw [State.fault_page_self, Page.withFault_of_none hnone]
    rfl

theorem patternClear_clears (hnone : (s.hall h).treadle.load = none) : ∃ s', exec (.patternClear h) s = .next s' ∧
    s'.routine h (s.hall h).treadle.patIndex.toNat = none ∧
    (∀ h' n', 1024 * h' + n' ≠ 1024 * h + (s.hall h).treadle.patIndex.toNat → s'.routine h' n' = s.routine h' n') ∧ s'.sameBytes s := by
  have heq : s.patternClear h = s.setRoutine h (s.hall h).treadle.patIndex.toNat none := if_neg (by simp [hnone])
  exact ⟨_, (exec_patternClear hhost hup).trans (congrArg Host.Outcome.next heq), s.setRoutine_self _ _ _,
    fun h' n' hne => s.setRoutine_other _ hne, ⟨rfl, rfl, rfl⟩⟩

theorem patternClear_refuses (hloading : (s.hall h).treadle.load.isSome = true) : s.refuses h (.patternClear h) :=
  State.refuses_of_refuse ((exec_patternClear hhost hup).trans (congrArg Host.Outcome.next (if_pos hloading)))

omit hhost hup in
theorem patternLoadComplete_installs {n : Nat} {tenant : Bool} {bs : List Byte} (hload : (s.hall h).treadle.load = some (n, tenant, bs))
    (hfree : s.hitsZeroing (s.hall h).treadle.patSrc.toNat bs.length = false) : ∃ s', exec (.patternLoadComplete h) s = .next s' ∧
    s'.routine h n = some ⟨bs, tenant⟩ ∧ (∀ h' n', 1024 * h' + n' ≠ 1024 * h + n → s'.routine h' n' = s.routine h' n') ∧
    (s'.hall h).treadle.load = none ∧ s'.sameBytes s := by
  have heq : s.patternLoaded h = ((s.setRoutine h n (some ⟨bs, tenant⟩)).modTreadle h fun t => { t with load := none }).measureRoutines := by
    rw [State.patternLoaded, hload]
    exact if_neg (by simp [hfree])
  refine ⟨_, congrArg Host.Outcome.next heq, s.setRoutine_self h n (some ⟨bs, tenant⟩),
    fun h' n' hne => s.setRoutine_other (some ⟨bs, tenant⟩) hne, ?_, ⟨rfl, rfl, rfl⟩⟩
  have htreadle : (((s.setRoutine h n (some ⟨bs, tenant⟩)).modTreadle h fun t => { t with load := none }).hall h).treadle.load = none := by
    rw [State.modTreadle_hall, if_pos rfl]
  exact htreadle

theorem diagEnter_enters {v : W32} (hout : (s.hall h).treadle.diag = .none) (hfree : s.sec.scanning.getLsbD h = false)
    (hallowed : s.diagAllowed h (fieldNat v 2 11) = true) : ∃ s', exec (.diagEnter h v) s = .next s' ∧
    (s'.hall h).treadle.diag = .entering ∧ (s'.hall h).treadle.diagRing = field v 2 11 ∧ s.storesZeroed s' h ∧ s'.items = s.items ∧ s'.rings = s.rings := by
  have heq : s.diagEnter h v = (s.zeroHallStores h).modTreadle h fun t => { t with diag := .entering, diagRing := field v 2 11 } := by
    rw [State.diagEnter, if_neg (not_not.mpr hout), if_neg (by simp only [hfree, Bool.false_eq_true, not_false_eq_true]), if_pos hallowed]
  have hzeroed := s.zeroHallStores_zeroed h (State.hall_lt_of_up hup)
  obtain ⟨hitems, hrings⟩ := s.zeroHallStores_queues h
  generalize s.zeroHallStores h = u at heq hzeroed hitems hrings
  refine ⟨_, (exec_diagEnter hhost hup v).trans (congrArg Host.Outcome.next heq), ?_, ?_, hzeroed, hitems, hrings⟩
  · rw [State.modTreadle_hall, if_pos rfl]
  · rw [State.modTreadle_hall, if_pos rfl]

theorem diagExit_leaves (hin : (s.hall h).treadle.diag ≠ .none) : ∃ s', exec (.diagExit h) s = .next s' ∧
    (s'.hall h).treadle.diag = .none ∧ s.storesZeroed s' h ∧ s'.items = s.items ∧ s'.rings = s.rings := by
  have heq : s.diagExit h = (s.zeroHallStores h).modTreadle h fun t => { t with diag := .none } := if_neg hin
  have hzeroed := s.zeroHallStores_zeroed h (State.hall_lt_of_up hup)
  obtain ⟨hitems, hrings⟩ := s.zeroHallStores_queues h
  generalize s.zeroHallStores h = u at heq hzeroed hitems hrings
  refine ⟨_, (exec_diagExit hhost hup).trans (congrArg Host.Outcome.next heq), ?_, hzeroed, hitems, hrings⟩
  rw [State.modTreadle_hall, if_pos rfl]

omit hhost hup in
theorem diagEntryComplete_enters (hentering : (s.hall h).treadle.diag = .entering) : ∃ s', exec (.diagEntryComplete h) s = .next s' ∧
    (s'.hall h).treadle.diag = .inside ∧ (s'.page (pgTreadle h)).raw.getLsbD 2 = true ∧ s'.items = s.items ∧ s'.sameBytes s := by
  have heq : s.diagEntered h = (s.modTreadle h fun t => { t with diag := .inside }).event (pgTreadle h) 2 := if_pos hentering
  refine ⟨_, congrArg Host.Outcome.next heq, ?_, ?_, ?_, ?_⟩
  · have hhall : ((s.modTreadle h fun t => { t with diag := .inside }).hall h).treadle.diag = .inside := by
      rw [State.modTreadle_hall, if_pos rfl]
    rw [State.event_rest]
    exact hhall
  · rw [State.event_page_self]
    exact Page.withEvent_raw (by decide) _
  · rw [State.event_rest]
    rfl
  · rw [State.event_rest]
    exact ⟨rfl, rfl, rfl⟩

theorem ctxBaseWrite_moves {v : W32} (hok : s.ctxBaseOk h (fieldNat v 0 17) = true) (hfree : s.anyCtxInUse h = false) :
    ∃ s', exec (.ctxBaseWrite h v) s = .next s' ∧ (s'.hall h).treadle.ctxBase = field v 0 17 ∧ (∀ j, j ≠ h → s'.hall j = s.hall j) ∧
      s'.items = s.items ∧ s'.sameBytes s := by
  have heq : s.ctxBaseWrite h v = s.modTreadle h fun t => { t with ctxBase := v.setWidth 17 } := by
    rw [State.ctxBaseWrite, hok, hfree]
    rfl
  refine ⟨_, (exec_ctxBaseWrite hhost hup v).trans (congrArg Host.Outcome.next heq), ?_, fun j hj => ?_, rfl, ⟨rfl, rfl, rfl⟩⟩
  · rw [State.modTreadle_hall, if_pos rfl, field, BitVec.ushiftRight_zero]
  · rw [State.modTreadle_hall, if_neg (Ne.symm hj)]

end

/-- Settles O58: rings, knots, patterns, DIAGNOSTIC state and the context table, register by register. -/
theorem ringsAndTreadlePage : Obligations.RingsAndTreadlePage := by
  unfold Obligations.RingsAndTreadlePage
  intro s h hhost hup t g e i refused zeroed
  refine ⟨ringSelect_selects hhost hup, ringCommit_commits hhost hup, fun hoff => ?commit, fun fn hfn => ?function,
    fun fn hfn hoff hallowed hentry => ringEnable_enables hhost hup hfn hoff hallowed hentry, fun fn hfn hbad => ?enable, ringReset_fenced hup,
    fun hlive _ _ => ringReset_fences hup hlive, fun v howner => knotOwnerWrite_sets hhost hup howner, fun v hlo hhi => ?owner,
    fun bs himage hnone => patternLoad_begins hhost hup himage hnone,
    fun hloading => ⟨patternLoad_refuses hhost hup (Or.inl hloading), patternClear_refuses hhost hup hloading⟩,
    fun hnone => patternLoad_refuses hhost hup (Or.inr hnone), patternLoad_absent hhost hup, fun n tenant bs hload hzeroing => ?zeroing,
    fun n tenant bs hload hfree => patternLoadComplete_installs hload hfree, patternClear_clears hhost hup,
    fun v hout hfree hallowed => diagEnter_enters hhost hup hout hfree hallowed, fun v hout hfree hbad => ?diag, diagEntryComplete_enters,
    diagExit_leaves hhost hup, fun v hok hfree => ctxBaseWrite_moves hhost hup hok hfree, fun v hbad => ?base⟩
  case commit => exact State.refuses_of_refuse ((exec_ringCommit hhost hup).trans (congrArg Host.Outcome.next (if_neg hoff)))
  case function => rw [exec_ringEnable hhost hup, if_neg (by simp [hfn])]
  case enable =>
    refine State.refuses_of_refuse (v := wordOf g) ?_
    rw [exec_ringEnable hhost hup, if_pos hfn]
    exact congrArg Host.Outcome.next (if_neg hbad)
  case owner =>
    refine State.refuses_of_refuse ((exec_knotOwnerWrite hhost hup v).trans (congrArg Host.Outcome.next (if_neg ?_)))
    exact fun hor => hor.elim (fun hlt => absurd hlt (Nat.not_lt.mpr hlo)) hhi
  case zeroing =>
    refine congrArg Host.Outcome.next ?_
    rw [State.patternLoaded, hload]
    exact if_pos hzeroing
  case diag =>
    refine State.refuses_of_refuse (v := v) ((exec_diagEnter hhost hup v).trans (congrArg Host.Outcome.next ?_))
    rw [State.diagEnter, if_neg (not_not.mpr hout), if_neg (by simp only [hfree, Bool.false_eq_true, not_false_eq_true]),
      if_neg (by simp only [hbad, Bool.false_eq_true, not_false_eq_true])]
  case base =>
    refine State.refuses_of_refuse (v := v) ((exec_ctxBaseWrite hhost hup v).trans (congrArg Host.Outcome.next (if_neg ?_)))
    obtain hbad | hused := hbad
    · simp [hbad]
    · simp [hused]

end Sys2Proof.Machine
end

section
/-!
What a tamper response stops and zeroes (R322), step by step.
-/
namespace Sys2Proof.Machine

/-! ### Galleries and loom stores zeroed, hall by hall -/

/-- An address in the loom stores or the gallery of a hall below `k`. -/
structure InHallsBelow (k a : Nat) : Prop where
  bound : a < 2 ^ 64
  shape : addrShapeOk a = true
  space : addrSpace a < 2
  hall : addrHall a < k

/-- The stores of the halls below `k` read as zeros. -/
def State.zeroBelow (s : State) (k : Nat) : Prop := ∀ a, InHallsBelow k a → s.mem.read a = 0

theorem InHallsBelow.gallery {k a : Nat} (h : InHallsBelow k a) (hlow : 2 ^ 60 ≤ a) :
    a % 2 ^ 33 < gallerySize ∧ a = galleryAddr (addrHall a) (a % 2 ^ 33) := by
  have hspace : addrSpace a = 1 := by
    have hlt := h.space
    have hbound := h.bound
    rw [addrSpace, Nat.shiftRight_eq_div_pow] at hlt ⊢
    omega
  have hshape := h.shape
  unfold addrShapeOk at hshape
  rw [hspace] at hshape
  simp only [Bool.and_eq_true, decide_eq_true_eq, beq_iff_eq] at hshape
  refine ⟨hshape.2, ?_⟩
  have hhigh := hshape.1
  have hbound := h.bound
  simp only [addrSpace, Nat.shiftRight_eq_div_pow] at hspace hhigh
  simp only [galleryAddr, addrHall, Nat.shiftLeft_eq, Nat.shiftRight_eq_div_pow]
  omega

theorem galleryAddr_eq (h o : Nat) : galleryAddr h o = 2 ^ 60 + h * 2 ^ 57 + o := by rw [galleryAddr, Nat.shiftLeft_eq]

theorem InHallsBelow.of_gallery {k h o : Nat} (hh : h < 8) (hk : h < k) (ho : o < gallerySize) : InHallsBelow k (galleryAddr h o) := by
  have hsize : o < 6442450944 := ho
  have heq := galleryAddr_eq h o
  have hspace : addrSpace (galleryAddr h o) = 1 := by
    rw [addrSpace, Nat.shiftRight_eq_div_pow, heq]
    omega
  refine ⟨?_, ?_, ?_, ?_⟩
  · omega
  · unfold addrShapeOk
    rw [hspace]
    simp only [Bool.and_eq_true, decide_eq_true_eq, beq_iff_eq, Nat.shiftRight_eq_div_pow, heq, gallerySize]
    omega
  · rw [hspace]
    decide
  · rw [addrHall, Nat.shiftRight_eq_div_pow, heq]
    omega

/-- A record's count lies in such a gallery only with its whole record. -/
theorem State.record_below (s : State) {k c a : Nat} (hhere : s.ctxHere c = true) (ha : InHallsBelow k a)
    (hin : s.ctxAddr c + 36 ≤ a ∧ a < s.ctxAddr c + 40) {j : Nat} (hj : j < 512) : InHallsBelow k (s.ctxAddr c + j) := by
  have hhall := State.hall_lt_of_ctxHere hhere
  have hbase := (s.hall (c / 1536)).treadle.ctxBase.isLt
  have haddr : s.ctxAddr c = galleryAddr (c / 1536) (512 * ((s.hall (c / 1536)).treadle.ctxBase.toNat * 128 + c % 1536)) := by
    rw [State.ctxAddr]
    congr 1
    omega
  have hsmall : c % 1536 < 1536 := Nat.mod_lt _ (by decide)
  rw [haddr] at hin ⊢
  generalize (s.hall (c / 1536)).treadle.ctxBase.toNat = base at hbase hin ⊢
  generalize c % 1536 = i at hsmall hin ⊢
  generalize c / 1536 = h at hhall hin ⊢
  have hbounds : 2 ^ 60 + h * 2 ^ 57 ≤ a ∧ a < 2 ^ 60 + h * 2 ^ 57 + 2 ^ 57 := by
    rw [galleryAddr_eq] at hin
    omega
  obtain ⟨hsize, heq⟩ := ha.gallery (by omega)
  have hhallA : addrHall a = h := by
    rw [addrHall, Nat.shiftRight_eq_div_pow]
    omega
  rw [hhallA] at heq
  have hlow : a % 2 ^ 33 < 6442450944 := hsize
  have hroom : 512 * (base * 128 + i) + j < gallerySize := by
    rw [galleryAddr_eq] at hin heq
    rw [show gallerySize = 512 * 12582912 from rfl]
    omega
  exact Nat.add_assoc .. ▸ InHallsBelow.of_gallery hhall (hhallA ▸ ha.hall) hroom

theorem leNat_of_zeros {bs : List Byte} (h : ∀ b ∈ bs, b = 0) : leNat bs = 0 := by
  induction bs with
  | nil => rfl
  | cons b bs ih =>
    rw [leNat, h b (List.mem_cons_self ..), ih fun c hc => h c (List.mem_cons_of_mem _ hc)]
    rfl

theorem leBytes_zero (n i : Nat) : (leBytes n 0).getD i 0 = 0 := by
  induction n generalizing i with
  | zero => simp [leBytes]
  | succ n ih =>
    rw [leBytes]
    cases i with
    | zero => rfl
    | succ i => exact ih i

/-- A count that falls is not lowered below zero, so a record that reads as zeros keeps doing so. -/
theorem State.rechargeLines_zeroBelow {s : State} {k : Nat} (hzero : s.zeroBelow k) (c : Nat) {b a : Nat} (hle : a ≤ b) :
    (s.rechargeLines c b a).zeroBelow k := by
  intro x hx
  unfold State.rechargeLines
  dsimp only
  split
  case isFalse => exact hzero x hx
  case isTrue hhere =>
    show (s.mem.writeBytes (s.ctxAddr c + 36) (leBytes 4 _)).read x = 0
    rw [Memory.read_writeBytes, leBytes_length]
    split
    case isFalse => exact hzero x hx
    case isTrue hin =>
      have hctx : s.ctx c = 0 := by
        have hbytes : ∀ y ∈ s.mem.readBytes (s.ctxAddr c) 512, y = 0 := by
          intro y hy
          obtain ⟨j, hj, rfl⟩ := List.mem_map.mp hy
          exact hzero _ (s.record_below hhere.1 hx ⟨hin.1, by omega⟩ (List.mem_range.mp hj))
        rw [State.ctx, leNat_of_zeros hbytes]
        rfl
      have hnone : byteField (s.ctx c) 36 4 + (a + 15) / 16 - (b + 15) / 16 = 0 := by
        rw [hctx]
        simp only [byteField, fieldNat, BitVec.ofNat_eq_ofNat, BitVec.toNat_ofNat, Nat.zero_mod, Nat.zero_shiftRight]
        omega
      rw [hnone]
      exact leBytes_zero 4 _

theorem State.foldl_rechargeLines_zeroBelow {k : Nat} {b a : Nat → Nat} (hle : ∀ c, a c ≤ b c) (l : List Nat) {s : State} (hzero : s.zeroBelow k) :
    (l.foldl (fun st c => st.rechargeLines c (b c) (a c)) s).zeroBelow k := by
  induction l generalizing s with
  | nil => exact hzero
  | cons c l ih => exact ih (State.rechargeLines_zeroBelow hzero c (hle c))

/-- No context has more lines once a cache is empty. -/
theorem State.ctxLines_emptied (s : State) (h c : Nat) : (s.setCache h []).ctxLines c ≤ s.ctxLines c := by
  have hsub : (s.setCache h []).caches.Sublist s.caches := by
    show (Table.set [] s.caches h []).Sublist s.caches
    rw [Table.set, if_pos rfl]
    exact List.filter_sublist
  exact (hsub.map _).sum_le_sum fun _ _ => Nat.zero_le _

theorem State.replaceCache_zeroBelow {s : State} {k : Nat} (hzero : s.zeroBelow k) (h : Nat) : (s.replaceCache h []).zeroBelow k := by
  unfold State.replaceCache
  dsimp only
  split
  · exact hzero
  · exact State.foldl_rechargeLines_zeroBelow (s.ctxLines_emptied h) _ (s := s.setCache h []) hzero

theorem State.zeroBytes_zeroBelow {s : State} {k : Nat} (hzero : s.zeroBelow k) (lo hi : Nat) : (s.zeroBytes lo hi).zeroBelow k := by
  intro a ha
  refine (Memory.read_zeroRange s.mem lo hi a).trans ?_
  split
  · rfl
  · exact hzero a ha

/-- Zeroing the next hall's stores. -/
theorem State.zeroHall_zeroBelow {s : State} {k : Nat} (hzero : s.zeroBelow k) : ((s.zeroLoomBytes k).zeroGallery k).zeroBelow (k + 1) := by
  have hloom : (s.zeroLoomBytes k).zeroBelow k := State.zeroBytes_zeroBelow hzero (storeAddr k 0 0 0) (storeAddr k 96 0 0)
  have hstore : ∀ a, a < 2 ^ 60 → storeAddr k 0 0 0 ≤ a ∧ a < storeAddr k 96 0 0 → (s.zeroLoomBytes k).mem.read a = 0 := fun a _ hin =>
    (Memory.read_zeroRange s.mem _ _ a).trans (if_pos hin)
  generalize s.zeroLoomBytes k = u at hloom hstore
  have hcache : (u.replaceCache k []).zeroBelow k := State.replaceCache_zeroBelow hloom k
  have hkept := u.replaceCache_kept k []
  intro a ha
  refine (Memory.read_zeroRange (u.replaceCache k []).mem (galleryAddr k 0) (galleryAddr k gallerySize) a).trans ?_
  split
  case isTrue => rfl
  case isFalse hout =>
    by_cases hk : addrHall a < k
    · exact hcache a ⟨ha.bound, ha.shape, ha.space, hk⟩
    · have hhall : addrHall a = k := by
        have hlt := ha.hall
        omega
      by_cases hlow : a < 2 ^ 60
      · have hspace : addrSpace a = 0 := by
          rw [addrSpace, Nat.shiftRight_eq_div_pow]
          omega
        rw [hkept.bytes a fun hlive => absurd hlive.bounds.1 (by omega)]
        exact hstore a hlow (hhall ▸ loomStore_bounds ha.shape ha.bound hspace)
      · obtain ⟨hsize, heq⟩ := ha.gallery (by omega)
        rw [hhall] at heq
        rw [heq, galleryAddr_le_iff, galleryAddr_lt_iff] at hout
        exact absurd ⟨Nat.zero_le _, hsize⟩ hout

theorem State.zeroAllStores_zeroed (s : State) {a : Nat} (hbound : a < 2 ^ 64) (hshape : addrShapeOk a = true) (hspace : addrSpace a < 2) :
    s.zeroAllStores.mem.read a = 0 := by
  have hall : ∀ k, ((List.range k).foldl (fun u h => (u.zeroLoomBytes h).zeroGallery h) s).zeroBelow k := by
    intro k
    induction k with
    | zero => exact fun a ha => absurd ha.hall (Nat.not_lt_zero _)
    | succ k ih =>
      rw [List.range_succ, List.foldl_append]
      exact State.zeroHall_zeroBelow ih
  refine hall 8 a ⟨hbound, hshape, hspace, ?_⟩
  rw [addrHall]
  exact Nat.mod_lt _ (by decide)

/-! ### What stops of the rings -/

theorem Table.get_filter {α : Type} {d : α} {P : Nat → Bool} {i : Nat} (hi : P i = true) (t : Table α) :
    Table.get d (t.filter fun p => P p.1) i = Table.get d t i := by
  induction t with
  | nil => rfl
  | cons p t ih =>
    obtain ⟨k, v⟩ := p
    rw [List.filter_cons]
    by_cases hk : P k = true
    · rw [if_pos hk, Table.get, Table.get, ih]
    · rw [if_neg hk, ih, Table.get, if_neg]
      exact fun heq => hk (heq ▸ hi)

theorem Table.get_append_of_absent {α : Type} {d : α} {t u : Table α} {i : Nat} (h : ∀ p ∈ u, p.1 ≠ i) : Table.get d (t ++ u) i = Table.get d t i := by
  induction t with
  | nil => exact Table.get_of_not_mem h
  | cons p t ih =>
    obtain ⟨k, v⟩ := p
    rw [List.cons_append, Table.get, Table.get, ih]

theorem State.errorRings_ring_other (s : State) {h g : Nat} (hg : ringHall g ≠ h) : (s.errorRings h).ring g = s.ring g := by
  have hmid : ∀ p ∈ ((List.range 2048).map (2048 * h + ·)).map (fun j => (j, (s.ring j).inError)), p.1 ≠ g := by
    intro p hp heq
    obtain ⟨j, hj, rfl⟩ := List.mem_map.mp hp
    obtain ⟨n, hn, rfl⟩ := List.mem_map.mp hj
    have hlt := List.mem_range.mp hn
    exact hg (heq ▸ ringHall_of_lt hlt)
  rw [State.ring, State.errorRings_rest]
  show Table.get Ring.reset (s.ringsInError h) g = Table.get Ring.reset s.rings g
  rw [State.ringsInError]
  have hne : g / 2048 ≠ h := hg
  by_cases hlt : g / 2048 < h
  · have hafter : ∀ p ∈ s.rings.filter fun p => decide (h < p.1 / 2048), p.1 ≠ g := by
      intro p hp heq
      have hgt := of_decide_eq_true (List.mem_filter.mp hp).2
      rw [heq] at hgt
      omega
    rw [Table.get_append_of_absent hafter, Table.get_append_of_absent hmid]
    exact Table.get_filter (P := fun j => decide (j / 2048 < h)) (decide_eq_true hlt) s.rings
  · have hbefore : ∀ p ∈ s.rings.filter fun p => decide (p.1 / 2048 < h), p.1 ≠ g := by
      intro p hp heq
      have hgt := of_decide_eq_true (List.mem_filter.mp hp).2
      rw [heq] at hgt
      exact hlt hgt
    rw [List.append_assoc, Table.get_append_of_not_mem hbefore, Table.get_append_of_not_mem hmid]
    exact Table.get_filter (P := fun j => decide (h < j / 2048)) (decide_eq_true (by omega)) s.rings

theorem State.foldl_errorRings (l : List Nat) (s : State) {g : Nat} (hg : ringHall g ∈ l ∨ ringState (s.ring g).entry = 3) :
    ringState ((l.foldl State.errorRings s).ring g).entry = 3 := by
  induction l generalizing s with
  | nil => exact hg.resolve_left List.not_mem_nil
  | cons h l ih =>
    rw [List.foldl_cons]
    refine ih _ ?_
    by_cases heq : ringHall g = h
    · refine Or.inr ?_
      rw [State.errorRings_ring _ heq]
      exact Ring.inError_state _
    · rw [State.errorRings_ring_other _ heq]
      exact hg.imp_left fun hmem => (List.mem_cons.mp hmem).resolve_left heq

theorem State.foldl_errorRings_rest (l : List Nat) (s : State) : l.foldl State.errorRings s = { s with
    rings := (l.foldl State.errorRings s).rings, halls := (l.foldl State.errorRings s).halls, pages := (l.foldl State.errorRings s).pages
    out := (l.foldl State.errorRings s).out } := by
  induction l generalizing s with
  | nil => rfl
  | cons h l ih =>
    rw [List.foldl_cons]
    refine (ih _).trans ?_
    rw [State.errorRings_rest]

/-! ### What stops of the fabric -/

/-- The boot record, the fuses, the comparators and the rings' entries stay, and no port comes up. -/
structure Dims (s s' : State) : Prop where
  boot : s'.boot = s.boot
  part : s'.part = s.part
  sec : s'.sec = s.sec
  ctl : s'.newel.ctl = s.newel.ctl
  entries : ∀ g, (s'.ring g).entry = (s.ring g).entry
  links : LinksFall s s'

theorem Dims.refl (s : State) : Dims s s := ⟨rfl, rfl, rfl, rfl, fun _ => rfl, LinksFall.refl s⟩

theorem Dims.trans {s s' s'' : State} (h : Dims s s') (k : Dims s' s'') : Dims s s'' where
  boot := k.boot.trans h.boot
  part := k.part.trans h.part
  sec := k.sec.trans h.sec
  ctl := k.ctl.trans h.ctl
  entries g := (k.entries g).trans (h.entries g)
  links := h.links.trans k.links

theorem Dims.foldl {α : Type} {f : State → α → State} (hf : ∀ s a, Dims s (f s a)) (l : List α) (s : State) : Dims s (l.foldl f s) := by
  induction l generalizing s with
  | nil => exact Dims.refl s
  | cons a l ih => exact (hf s a).trans (ih (f s a))

theorem Sheds.dims {s s' : State} (h : Sheds s s') : Dims s s' := ⟨h.boot, h.part, h.sec, h.ctl, h.entries, h.links⟩

theorem State.event_dims (s : State) (p b : Nat) : Dims s (s.event p b) := by
  rw [State.event_rest]
  exact ⟨rfl, rfl, rfl, rfl, fun _ => rfl, LinksFall.of_flights rfl⟩

theorem State.bump_dims (s : State) (p sel n : Nat) : Dims s (s.bump p sel n) := ⟨rfl, rfl, rfl, rfl, fun _ => rfl, LinksFall.of_flights rfl⟩

/-- The port dropped, its loss shown and counted (R270). -/
def State.lossShown (s : State) (p : Nat) : State := ((s.dropPort p).event (pgFlight p) 0).bump (pgFlight p) 0x21 1

theorem State.lossShown_dims (s : State) (p : Nat) : Dims s (s.lossShown p) :=
  ((s.dropPort_sheds p).dims.trans (State.event_dims _ _ _)).trans (State.bump_dims _ _ _ _)

/-- The notices sent both ways. -/
def State.lossSent (s : State) (l : LinkId) : State :=
  (s.bothWays l.axis l.lane).foldl (fun u q => u.sendResponse q (.loss l.axis l.lower l.lane)) s

theorem State.lossSent_sheds (s : State) (l : LinkId) : Sheds s (s.lossSent l) :=
  Sheds.foldl (f := fun (u : State) (q : Nat) => u.sendResponse q (.loss l.axis l.lower l.lane))
    (fun u q => (State.sendResponse_quiet q _ (Quiet.refl u)).sheds (u.sendResponse_fall q _)) _ s

/-- The items that a lost link fails. -/
def State.lossFailed (s : State) (l : LinkId) : State :=
  let u := s.failOnLink l .peerLost
  (u.items.filter (recvOnAxis l.axis)).foldl (fun u t => u.failItem t.id .peerLost) u

theorem State.lossFailed_sheds (s : State) (l : LinkId) : Sheds s (s.lossFailed l) :=
  (s.failOnLink_sheds l .peerLost).trans
    (Sheds.foldl (f := fun (u : State) (t : Item) => u.failItem t.id .peerLost) (fun u t => u.failItem_sheds t.id .peerLost) _ _)

theorem State.declareDown_eq (s : State) (p : Nat) :
    s.declareDown p = (((s.lossShown p).lossSent (s.portLink p)).lossFailed (s.portLink p)).settleCloses := rfl

theorem State.declareDown_sheds (s : State) (p : Nat) : Sheds (s.lossShown p) (s.declareDown p) :=
  ((State.lossSent_sheds _ (s.portLink p)).trans (State.lossFailed_sheds _ (s.portLink p))).trans (State.settleCloses_sheds _)

theorem State.declareDown_dims (s : State) (p : Nat) : Dims s (s.declareDown p) := (s.lossShown_dims p).trans (s.declareDown_sheds p).dims

theorem State.lossShown_flight (s : State) (p : Nat) : ((s.lossShown p).flight p).link = .down := by
  have hflight : (s.lossShown p).flight p = (s.dropPort p).flight p := State.flight_of_flights (State.event_flights _ _ _) p
  rw [hflight, State.dropPort_flight, if_pos rfl]

theorem State.declareDown_down (s : State) (p : Nat) : ((s.declareDown p).flight p).link ≠ .up := fun hup =>
  absurd ((s.declareDown_sheds p).links.up hup) (by rw [s.lossShown_flight p]; exact nofun)

theorem Dims.portUp {s s' : State} (h : Dims s s') {p : Nat} (hdown : s.portUp p = false) : s'.portUp p = false := by
  have habsent : s'.flightAbsent p = s.flightAbsent p := by rw [State.flightAbsent, h.boot, h.part, State.flightAbsent]
  unfold State.portUp at hdown ⊢
  rw [habsent, h.boot]
  by_contra hne
  simp only [Bool.not_eq_false, Bool.and_eq_true, beq_iff_eq] at hne
  rw [hne.1.1, h.links.up hne.1.2, hne.2] at hdown
  exact nomatch hdown

theorem State.foldl_declareDown (l : List Nat) (s : State) : Dims s (l.foldl State.declareDown s) ∧
    ∀ p ∈ l, (l.foldl State.declareDown s).portUp p = false := by
  have hall := Dims.foldl State.declareDown_dims
  refine ⟨hall l s, ?_⟩
  induction l generalizing s with
  | nil => exact nofun
  | cons a l ih =>
    intro p hp
    rw [List.foldl_cons]
    obtain rfl | hp := List.mem_cons.mp hp
    · refine (hall l (s.declareDown p)).portUp ?_
      unfold State.portUp
      rw [beq_eq_false_iff_ne.mpr (s.declareDown_down p)]
      simp
    · exact ih (s.declareDown a) p hp

theorem State.stopFlights_down (s : State) : Dims s s.stopFlights ∧ ∀ p, s.stopFlights.portUp p = false := by
  obtain ⟨hdims, hdown⟩ := State.foldl_declareDown ((List.range 12).filter s.portUp) s
  refine ⟨hdims, fun p => ?_⟩
  by_cases hup : s.portUp p = true
  · refine hdown p (List.mem_filter.mpr ⟨List.mem_range.mpr ?_, hup⟩)
    by_contra hge
    simp [State.portUp, State.flightAbsent, Nat.not_lt.mp hge] at hup
  · exact hdims.portUp (Bool.not_eq_true _ ▸ hup)

theorem State.stopSelvs_dims (s : State) : Dims s s.stopSelvs :=
  Dims.foldl (f := fun (u : State) (p : Nat) => u.modSelv p fun v => { v with queue := [], run := none })
    (fun _ _ => ⟨rfl, rfl, rfl, rfl, fun _ => rfl, LinksFall.of_flights rfl⟩) _ s

/-! ### What stops of the work (R322) -/

/-- Every item taken in and flushed. -/
def State.flushedAll (s : State) : State := (s.admitAhead fun _ => true).flushItems (fun _ => true) .key none

/-- The rings of the halls that are here in ERROR. -/
def State.ringsErred (s : State) : State := ((List.range 8).filter s.hallHere).foldl State.errorRings s

theorem State.stopWork_eq (s : State) : s.stopWork =
    { s.flushedAll.ringsErred.stopFlights.stopSelvs with rxs := [], transits := [], passages := [], openings := [], stale := [] } := rfl

theorem State.hallHere_of {s s' : State} (hboot : s'.boot = s.boot) (hfused : s'.part.hallFused = s.part.hallFused) (h : Nat) :
    s'.hallHere h = s.hallHere h := by
  unfold State.hallHere State.hallAbsent State.hallLost
  rw [hboot, hfused]

theorem State.flushedAll_here (s : State) (h : Nat) : s.flushedAll.hallHere h = s.hallHere h := by
  have hflushed : Outlives s s.flushedAll := (s.admitAhead_outlives _).trans (State.flushItems_outlives _ _ _ _)
  exact State.hallHere_of hflushed.boot (congrArg Part.hallFused hflushed.part) h

/-- With no item and nothing read ahead, nothing is flushed. -/
theorem State.flushAll_newel {s : State} (hitems : s.items = []) (hahead : ∀ r ∈ s.rings, r.2.ahead = []) (st : Status) (byte : Option Nat) :
    ((s.admitAhead fun _ => true).flushItems (fun _ => true) st byte).newel = s.newel := by
  have hnone : ((s.rings.map Prod.fst).filter fun _ => true).flatMap s.aheadItems = [] := by
    refine List.flatMap_eq_nil_iff.mpr fun g _ => ?_
    have hring : (s.ring g).ahead = [] := by
      by_cases hreset : s.ring g = Ring.reset
      · rw [hreset]
        rfl
      · exact hahead _ (Table.mem_of_get_ne hreset)
    rw [State.aheadItems, hring]
    rfl
  have hkept : ∀ (l : List Nat) (u : State), (l.foldl (fun u g => u.modRing g fun r => { r with ahead := [] }) u).items = u.items ∧
      (l.foldl (fun u g => u.modRing g fun r => { r with ahead := [] }) u).newel = u.newel := by
    intro l
    induction l with
    | nil => exact fun u => ⟨rfl, rfl⟩
    | cons a l ih => exact fun u => ih (u.modRing a fun r => { r with ahead := [] })
  obtain ⟨hempty, hnewel⟩ := hkept ((s.rings.map Prod.fst).filter fun _ => true)
    { s with items := s.items ++ ((s.rings.map Prod.fst).filter fun _ => true).flatMap s.aheadItems }
  have hadmit : (s.admitAhead fun _ => true).items = [] := by
    refine hempty.trans ?_
    show s.items ++ _ = []
    rw [hitems, hnone]
    rfl
  have hflush : ∀ u : State, u.items = [] → (u.flushItems (fun _ => true) st byte).newel = u.newel := by
    intro u hu
    unfold State.flushItems
    rw [hu]
    rfl
  rw [hflush _ hadmit]
  exact hnewel

/-- What is stopped: rings, ports and what is on its way. -/
theorem State.stopWork_stops (s : State) : (∀ g, s.hallHere (ringHall g) = true → ringState (s.stopWork.ring g).entry = 3) ∧
    (∀ p, s.stopWork.portUp p = false) ∧ s.stopWork.rxs = [] ∧ s.stopWork.newel.ctl = s.flushedAll.newel.ctl ∧
      s.stopWork.sec.keys = s.sec.keys := by
  have herr : ∀ g, s.hallHere (ringHall g) = true → ringState (s.flushedAll.ringsErred.ring g).entry = 3 := by
    intro g hg
    have hlt : ringHall g < 8 := by
      by_contra hge
      simp [State.hallHere, State.hallAbsent, Nat.not_lt.mp hge] at hg
    exact State.foldl_errorRings _ _ (Or.inl (List.mem_filter.mpr ⟨List.mem_range.mpr hlt, (s.flushedAll_here _).trans hg⟩))
  have hctl : s.flushedAll.ringsErred.newel.ctl = s.flushedAll.newel.ctl := by
    rw [State.ringsErred, State.foldl_errorRings_rest]
  have hkeys : s.flushedAll.ringsErred.sec.keys = s.sec.keys := by
    rw [State.ringsErred, State.foldl_errorRings_rest]
    exact ((s.admitAhead_outlives _).trans (State.flushItems_outlives _ _ _ _)).keys
  rw [State.stopWork_eq]
  generalize s.flushedAll.ringsErred = u at herr hctl hkeys
  obtain ⟨hdims, hdown⟩ := u.stopFlights_down
  have hselvs := u.stopFlights.stopSelvs_dims
  refine ⟨fun g hg => ?_, fun p => hselvs.portUp (hdown p), rfl, ?_, ?_⟩
  · show ringState (u.stopFlights.stopSelvs.ring g).entry = 3
    rw [hselvs.entries g, hdims.entries g]
    exact herr g hg
  · show u.stopFlights.stopSelvs.newel.ctl = _
    rw [hselvs.ctl, hdims.ctl, hctl]
  · show u.stopFlights.stopSelvs.sec.keys = _
    rw [hselvs.sec, hdims.sec, hkeys]

theorem State.zeroAllStores_rest (s : State) : s.zeroAllStores = { s with
    mem := s.zeroAllStores.mem, poison := s.zeroAllStores.poison, corrected := s.zeroAllStores.corrected, looms := s.zeroAllStores.looms
    bobbins := s.zeroAllStores.bobbins, caches := s.zeroAllStores.caches } := by
  unfold State.zeroAllStores
  generalize List.range 8 = l
  induction l generalizing s with
  | nil => rfl
  | cons h l ih =>
    have hone : ∀ u : State, (u.zeroLoomBytes h).zeroGallery h = { u with
        mem := ((u.zeroLoomBytes h).zeroGallery h).mem, poison := ((u.zeroLoomBytes h).zeroGallery h).poison
        corrected := ((u.zeroLoomBytes h).zeroGallery h).corrected, looms := ((u.zeroLoomBytes h).zeroGallery h).looms
        bobbins := ((u.zeroLoomBytes h).zeroGallery h).bobbins, caches := ((u.zeroLoomBytes h).zeroGallery h).caches } := by
      intro u
      unfold State.zeroGallery State.zeroBytes
      dsimp only
      rw [State.replaceCache_rest]
      rfl
    rw [List.foldl_cons]
    refine (ih _).trans ?_
    rw [hone s]

end Sys2Proof.Machine
end

section
/-!
The security block: SPDM, PLDM, keys, the debug port and the tamper response (R310–R315, R321–R324, R342).
-/
namespace Sys2Proof.Machine

section
variable {s : State} (hawake : s.awake = true)
include hawake

/-! ### SPDM and PLDM (R311–R313, R342) -/

theorem exec_spdmRequest (r : SpdmRequest) : exec (.spdmRequest r) s = .next (s.spdm r) := congrArg Host.Outcome.next (if_pos hawake)

theorem exec_pldmRequest (r : PldmRequest) : exec (.pldmRequest r) s = .next (s.pldm r) := congrArg Host.Outcome.next (if_pos hawake)

theorem spdm_measurement {i : Nat} {d : BitVec 384} (nonce : BitVec 256) (hd : s.measurement i = some d) :
    exec (.spdmRequest (.getMeasurement i false nonce)) s = .next (s.emit (.measurement i d)) ∧
      ∃ s', exec (.spdmRequest (.getMeasurement i true nonce)) s = .next s' ∧
        s'.out = s.out ++ [.measurement i d, .signature (Config.signature s.part.identityKey nonce d s.free)] := by
  have heq : ∀ signed, s.spdm (.getMeasurement i signed nonce) = if signed then (s.emit (.measurement i d)).sign nonce d else s.emit (.measurement i d) := by
    intro signed
    simp only [State.spdm, hd]
  refine ⟨(exec_spdmRequest hawake _).trans (congrArg Host.Outcome.next (heq false)), _,
    (exec_spdmRequest hawake _).trans (congrArg Host.Outcome.next (heq true)), ?_⟩
  exact List.append_assoc ..

theorem spdm_openSession (a : Bool) (root : BitVec 384) :
    (∀ n, ((List.range 4).find? fun k => !s.inSession k) = some n → exec (.spdmRequest (.openSession a root)) s =
      .next ((s.setSessions (s.sec.sessions ++ [⟨n, a && s.sec.ownerSet && root == s.sec.owner, 0⟩])).emit .sessionOpen)) ∧
    ((∀ n, n < 4 → s.inSession n = true) → exec (.spdmRequest (.openSession a root)) s = .next (s.emit .requestError)) := by
  refine ⟨fun n hn => ?_, fun hfull => ?_⟩
  · refine (exec_spdmRequest hawake _).trans (congrArg Host.Outcome.next ?_)
    have hfree : ((List.range maxSessions).find? fun k => !s.inSession k) = some n := hn
    simp only [State.spdm, State.openSession, hfree]
  · refine (exec_spdmRequest hawake _).trans (congrArg Host.Outcome.next ?_)
    have hnone : ((List.range maxSessions).find? fun k => !s.inSession k) = none :=
      List.find?_eq_none.mpr fun k hk => by simp [hfull k (List.mem_range.mp hk)]
    simp only [State.spdm, State.openSession, hnone]

theorem spdm_session (n : Nat) :
    (s.inSession n = true → exec (.spdmRequest (.heartbeat n)) s = .next (s.emit .accepted) ∧
      (∃ s', exec (.spdmRequest (.keyUpdate n)) s = .next s' ∧ s'.out = s.out ++ [.accepted] ∧
        s'.sec.sessions.map Session.id = s.sec.sessions.map Session.id) ∧
      ∃ s', exec (.spdmRequest (.endSession n)) s = .next s' ∧ s'.out = s.out ++ [.sessionClosed] ∧ s'.inSession n = false) ∧
    (s.inSession n = false → ∀ r, r = .heartbeat n ∨ r = .keyUpdate n ∨ r = .endSession n →
      exec (.spdmRequest r) s = .next (s.emit .requestError)) := by
  refine ⟨fun hin => ⟨?_, ⟨_, (exec_spdmRequest hawake _).trans (congrArg Host.Outcome.next (if_pos hin)), rfl, ?_⟩,
    _, (exec_spdmRequest hawake _).trans (congrArg Host.Outcome.next (if_pos hin)), rfl, ?_⟩, fun hout r hr => ?_⟩
  · exact (exec_spdmRequest hawake _).trans (congrArg Host.Outcome.next (if_pos hin))
  · show (s.sec.sessions.map _).map Session.id = _
    rw [List.map_map]
    refine List.map_congr_left fun x _ => ?_
    simp only [Function.comp]
    split
    · rfl
    · rfl
  · show ((s.sec.sessions.filter fun x => x.id != n).any fun x => x.id == n) = false
    rw [List.any_eq_false]
    intro x hx
    simpa using (List.mem_filter.mp hx).2
  · refine (exec_spdmRequest hawake _).trans (congrArg Host.Outcome.next ?_)
    obtain rfl | rfl | rfl := hr
    · exact if_neg (by simp [hout])
    · exact if_neg (by simp [hout])
    · exact if_neg (by simp [hout])

theorem rollbackRaise_raises (v : BitVec 16) :
    (3 ≤ s.boot.step → s.part.rollback.toNat < v.toNat → v = s.boot.imageVersion →
      ∃ s', exec (.rollbackRaise v) s = .next s' ∧ s'.part = { s.part with rollback := v } ∧ s'.out = s.out ++ [.accepted]) ∧
    ((s.boot.step < 3 ∨ v.toNat ≤ s.part.rollback.toNat ∨ v ≠ s.boot.imageVersion) →
      exec (.rollbackRaise v) s = .next (s.emit .requestError)) := by
  have hrun : exec (.rollbackRaise v) s = .next (s.rollbackRaise v) := congrArg Host.Outcome.next (if_pos hawake)
  refine ⟨fun hstep hup himage => ⟨_, hrun.trans (congrArg Host.Outcome.next (if_pos ⟨hstep, hup, himage⟩)), rfl, rfl⟩, fun hbad => ?_⟩
  refine hrun.trans (congrArg Host.Outcome.next (if_neg ?_))
  rintro ⟨hstep, hup, himage⟩
  obtain hlow | hnot | hother := hbad
  · omega
  · omega
  · exact hother himage

omit hawake in
theorem State.timeTrip_heartbeatNs (s : State) (n : Nat) : (s.timeTrip n).newel.heartbeatNs = s.newel.heartbeatNs := by
  by_cases hdue : s.timeDue n = true
  · have htrip : ((s.cmpSpent n).trip n).newel.heartbeatNs = s.newel.heartbeatNs := by
      rw [State.trip_newel]
      rfl
    rw [State.timeTrip_of_due s hdue]
    split
    · split
      · exact htrip
      · split
        · exact htrip
        · exact htrip
    · exact htrip
  · rw [State.timeTrip, if_neg hdue]

omit hawake in
theorem State.timeTrip_alt (s : State) (n : Nat) : (s.timeTrip n).cmpAlt n = s.cmpAlt n := by
  rw [State.cmpAlt, State.cmpAlt]
  obtain heq | heq := s.timeTrip_bits n
  · rw [heq]
  · rw [heq]
    simp

omit hawake in
theorem State.cmpConflict_six {s : State} {v : W32} (hwake : v.getLsbD 1 = false) (halt : v.getLsbD 2 = false ∨ s.cmpWake 6 = false) :
    s.cmpConflict 6 v = none := by
  unfold State.cmpConflict
  dsimp only
  rw [hwake]
  obtain halt | hfree := halt
  · rw [halt]
    simp
  · rw [hfree]
    simp

omit hawake in
/-- The comparator's control word as a message writes it. -/
theorem State.cmpCtlWrite_six {s : State} {v : W32} (hfree : s.cmpConflict 6 v = none) :
    (s.cmpCtlWrite 6 v).cmpAlt 6 = v.getLsbD 2 ∧ (s.cmpCtlWrite 6 v).newel.heartbeatNs = s.newel.heartbeatNs := by
  have heq : s.cmpCtlWrite 6 v = (s.setCmp 6 ((v &&& cmpMask 6) ||| ((s.cmpBits 6 &&& 8) &&& ~~~v))).timeTrip 6 := by
    rw [State.cmpCtlWrite, hfree]
  have hbits : (s.setCmp 6 ((v &&& cmpMask 6) ||| ((s.cmpBits 6 &&& 8) &&& ~~~v))).cmpBits 6 = (v &&& cmpMask 6) ||| ((s.cmpBits 6 &&& 8) &&& ~~~v) :=
    State.cmpBits_of_ctl (s := s) rfl
  rw [heq, State.timeTrip_alt, State.timeTrip_heartbeatNs, State.cmpAlt, hbits]
  exact ⟨by simp [cmpMask], rfl⟩

theorem pldm_heartbeatEnable (ns : W64) (hfree : s.cmpWake 6 = false) : ∃ s', exec (.pldmRequest (.heartbeatEnable ns)) s = .next s' ∧
    s'.newel.heartbeatNs = ns ∧ s'.cmpAlt 6 = true ∧ s'.out.getLast? = some .accepted := by
  have hset := State.cmpCtlWrite_six (s := { s with newel := { s.newel with heartbeatNs := ns } }) (v := 5)
    (State.cmpConflict_six (by decide) (Or.inr hfree))
  refine ⟨_, (exec_pldmRequest hawake _).trans (congrArg Host.Outcome.next (if_neg (by simp [hfree]))), hset.2, hset.1, ?_⟩
  exact List.getLast?_concat ..

theorem pldm_heartbeatDisable : ∃ s', exec (.pldmRequest .heartbeatDisable) s = .next s' ∧ s'.cmpAlt 6 = false ∧
    s'.out.getLast? = some .accepted := by
  refine ⟨_, exec_pldmRequest hawake _, ?_, List.getLast?_concat ..⟩
  show (if s.cmpAlt 6 then s.cmpCtlWrite 6 0 else s).cmpAlt 6 = false
  by_cases halt : s.cmpAlt 6 = true
  · rw [if_pos halt]
    exact (State.cmpCtlWrite_six (State.cmpConflict_six (by decide) (Or.inl (by decide)))).1
  · rw [if_neg halt]
    exact Bool.not_eq_true _ ▸ halt

/-! ### Key slots (R315) -/

omit hawake in
theorem Table.find_insert {α : Type} {t : Table α} {i : Nat} (h : ∀ p ∈ t, p.1 ≠ i) (v : α) :
    (Table.insert t i v).find? (fun p => p.1 == i) = some (i, v) := by
  induction t with
  | nil => simp [Table.insert]
  | cons p t ih =>
    obtain ⟨k, w⟩ := p
    have hne : (k == i) = false := beq_eq_false_iff_ne.mpr (h (k, w) (List.mem_cons_self ..))
    rw [Table.insert]
    split
    · rw [List.find?_cons, hne]
      exact ih fun p hp => h p (List.mem_cons_of_mem _ hp)
    · split
      case isTrue heq => exact absurd heq (h (k, w) (List.mem_cons_self ..))
      case isFalse => simp

/-- A session of the owner, as the request claims it. -/
def State.insideOwner (s : State) (claimed : Bool) (session : Nat) : Prop := claimed = true ∧ ∃ x ∈ s.sec.sessions, x.id = session ∧ x.owner = true

omit hawake in
theorem State.ownerSession_iff (claimed : Bool) (session : Nat) : s.ownerSession claimed session = true ↔ s.insideOwner claimed session := by
  simp [State.ownerSession, State.insideOwner]

theorem exec_keyInstall (slot : Nat) (key : BitVec 256) (claimed : Bool) (session : Nat) :
    exec (.keyInstall slot key claimed session) s = .next (s.keyInstall slot key claimed session) := congrArg Host.Outcome.next (if_pos hawake)

theorem exec_keyErase (slot : Nat) (claimed : Bool) (session : Nat) :
    exec (.keyErase slot claimed session) s = .next (s.keyErase slot claimed session) := congrArg Host.Outcome.next (if_pos hawake)

theorem keyInstall_installs {slot session : Nat} (key : BitVec 256) {claimed : Bool} (hin : s.insideOwner claimed session)
    (hdrawn : s.moduleKeyDrawn = true) (hslot : slot < keySlots) (hempty : ∀ p ∈ s.sec.keys, p.1 ≠ slot) (hclosed : s.sec.debugOpen = false)
    (howner : s.sec.ownerSet = true) : ∃ s' k, exec (.keyInstall slot key claimed session) s = .next s' ∧
      s'.sec.keys.find? (fun p => p.1 == slot) = some (slot, k) ∧ k.pushCount = 0 ∧ s'.out = s.out ++ [.accepted] ∧ s'.sameBytes s := by
  have hnone : (s.sec.keys.any fun p => p.1 == slot) = false := List.any_eq_false.mpr fun p hp => by simpa using hempty p hp
  have hok : (s.ownerSession claimed session && s.moduleKeyDrawn && decide (slot < keySlots) && !(s.sec.keys.any fun p => p.1 == slot) &&
      !s.sec.debugOpen && s.sec.ownerSet) = true := by
    rw [(State.ownerSession_iff claimed session).mpr hin, hdrawn, decide_eq_true hslot, hnone, hclosed, howner]
    rfl
  exact ⟨_, _, (exec_keyInstall hawake _ _ _ _).trans (congrArg Host.Outcome.next (if_pos hok)), Table.find_insert hempty _, rfl, rfl, ⟨rfl, rfl, rfl⟩⟩

theorem keyInstall_refused {slot session : Nat} (key : BitVec 256) {claimed : Bool}
    (hbad : ¬s.insideOwner claimed session ∨ (∃ p ∈ s.sec.keys, p.1 = slot) ∨ s.sec.debugOpen = true ∨ s.sec.ownerSet = false) :
    exec (.keyInstall slot key claimed session) s = .next (s.emit .requestError) := by
  refine (exec_keyInstall hawake _ _ _ _).trans (congrArg Host.Outcome.next (if_neg ?_))
  simp only [Bool.and_eq_true, Bool.not_eq_true', State.ownerSession_iff]
  rintro ⟨⟨⟨⟨⟨hin, -⟩, -⟩, hnone⟩, hclosed⟩, howner⟩
  obtain hout | ⟨p, hp, heq⟩ | hopen | hunset := hbad
  · exact hout hin
  · exact absurd (List.any_eq_false.mp hnone p hp) (by simp [heq])
  · rw [hopen] at hclosed
    exact nomatch hclosed
  · rw [howner] at hunset
    exact nomatch hunset

theorem keyErase_erases {slot session : Nat} {claimed : Bool} (hin : s.insideOwner claimed session) (hslot : slot < keySlots) :
    ∃ s', exec (.keyErase slot claimed session) s = .next s' ∧ (∀ p ∈ s'.sec.keys, p.1 ≠ slot) ∧ s'.out = s.out ++ [.accepted] ∧ s'.sameBytes s := by
  have hok : (s.ownerSession claimed session && decide (slot < keySlots)) = true := by
    rw [(State.ownerSession_iff claimed session).mpr hin, decide_eq_true hslot]
    rfl
  refine ⟨_, (exec_keyErase hawake _ _ _).trans (congrArg Host.Outcome.next (if_pos hok)), fun p hp => ?_, rfl, ⟨rfl, rfl, rfl⟩⟩
  simpa using (List.mem_filter.mp hp).2

theorem keyErase_refused {slot session : Nat} {claimed : Bool} (hout : ¬s.insideOwner claimed session) :
    exec (.keyErase slot claimed session) s = .next (s.emit .requestError) := by
  refine (exec_keyErase hawake _ _ _).trans (congrArg Host.Outcome.next (if_neg ?_))
  simp only [Bool.and_eq_true, State.ownerSession_iff]
  exact fun hboth => hout hboth.1

/-! ### Glitch and debug port (R321, R323) -/

theorem exec_jtagChallenge (i : JtagInstruction) : exec (.jtagChallenge i) s = .next (match i with
    | .challenge => ({ s.draw.2 with sec := { s.sec with challenge := some (Config.freeKey s.free) } } : State).emit
        (.challenge s.part.serial (Config.freeKey s.free))
    | .idcode => s.emit (.data (Config.jtagIdcode.setWidth 64))
    | .bypass | .extest => s.emit .accepted
    | .other => s.emit (if s.sec.debugOpen then .accepted else .refusedRequest)) := by
  refine congrArg Host.Outcome.next ?_
  have hnot : ¬(!s.awake) = true := by simp [hawake]
  cases i with
  | challenge => exact if_neg hnot
  | bypass => exact if_neg hnot
  | idcode => exact if_neg hnot
  | extest => exact if_neg hnot
  | other => exact if_neg hnot

theorem exec_jtagUnlock (valid : Bool) (scope : W32) : exec (.jtagUnlock valid scope) s = .next (if valid && s.sec.challenge.isSome then
    ({ s.zeroise with sec := { s.zeroise.sec with debugOpen := true, debugScope := scope, challenge := none } } : State).emit .accepted
    else s.emit .refusedRequest) := by
  refine congrArg Host.Outcome.next ?_
  rw [State.jtagUnlock, if_neg (by simp [hawake])]

theorem exec_jtagInternalScan (h : Nat) : exec (.jtagInternalScan h) s = .next (if s.sec.debugOpen && s.hallHere h && (s.hall h).treadle.diag == .none then
    ({ (if s.sec.scanning.getLsbD h then s else s.zeroScanned h) with sec := { (if s.sec.scanning.getLsbD h then s else s.zeroScanned h).sec with
      scanning := (if s.sec.scanning.getLsbD h then s else s.zeroScanned h).sec.scanning ||| (1#8 <<< h) } } : State).emit .accepted
    else s.emit .refusedRequest) := by
  refine congrArg Host.Outcome.next ?_
  rw [State.jtagScan, if_neg (by simp [hawake])]

omit hawake in
theorem State.zeroScratch_rest (s : State) (h : Nat) : s.zeroScratch h = { s with
    mem := (s.zeroScratch h).mem, poison := (s.zeroScratch h).poison, corrected := (s.zeroScratch h).corrected, caches := (s.zeroScratch h).caches } := by
  unfold State.zeroScratch State.zeroBytes
  dsimp only
  rw [State.replaceCache_rest]

omit hawake in
theorem State.zeroScanned_rest (s : State) (h : Nat) : (s.zeroScanned h).sec = s.sec ∧ (s.zeroScanned h).out = s.out := by
  rw [State.zeroScanned, State.zeroScratch_rest]
  exact ⟨rfl, rfl⟩

omit hawake in
/-- The gallery and its cache zeroed: the loom stores stay as they are. -/
theorem State.zeroScratch_stores (s : State) (h : Nat) {a : Nat} (hlow : a < 2 ^ 60) : (s.zeroScratch h).mem.read a = s.mem.read a := by
  have hout : ∀ x y, ¬(galleryAddr h x ≤ a ∧ a < y) := by
    rintro x y ⟨hge, -⟩
    rw [galleryAddr_eq] at hge
    omega
  refine (Memory.read_zeroRange _ _ _ a).trans ((if_neg (hout _ _)).trans ((Memory.read_zeroRange _ _ _ a).trans ((if_neg (hout _ _)).trans ?_)))
  exact (s.replaceCache_kept h []).bytes a fun hlive => absurd hlive.bounds.1 (by omega)

omit hawake in
theorem State.zeroScanned_stores (s : State) {h a : Nat} (hbound : a < 2 ^ 64) (hshape : addrShapeOk a = true) (hspace : addrSpace a = 0)
    (hhall : addrHall a = h) : (s.zeroScanned h).mem.read a = 0 := by
  have hlow : a < 2 ^ 60 := by
    rw [addrSpace, Nat.shiftRight_eq_div_pow] at hspace
    omega
  have hin := loomStore_bounds hshape hbound hspace
  rw [hhall] at hin
  rw [State.zeroScanned, State.zeroScratch_stores _ h hlow]
  exact (Memory.read_zeroRange s.mem _ _ a).trans (if_pos hin)

theorem jtagInternalScan_scans {h : Nat} (hopen : s.sec.debugOpen = true) (hhere : s.hallHere h = true) (hout : (s.hall h).treadle.diag = .none) :
    ∃ s', exec (.jtagInternalScan h) s = .next s' ∧ s'.sec.scanning.getLsbD h = true ∧ s'.out = s.out ++ [.accepted] ∧
      (s.sec.scanning.getLsbD h = false → ∀ a, a < 2 ^ 64 → addrShapeOk a = true → addrSpace a = 0 → addrHall a = h → s'.mem.read a = 0) := by
  have hlt : h < 8 := by
    by_contra hge
    simp [State.hallHere, State.hallAbsent, Nat.not_lt.mp hge] at hhere
  have hrun := exec_jtagInternalScan hawake h
  rw [if_pos (by simp [hopen, hhere, hout])] at hrun
  refine ⟨_, hrun, ?_, ?_, fun hfirst a hbound hshape hspace hhall => ?_⟩
  · show (_ ||| (1#8 <<< h)).getLsbD h = true
    simp [hlt]
  · show (if s.sec.scanning.getLsbD h then s else s.zeroScanned h).out ++ [.accepted] = _
    split
    · rfl
    · rw [(s.zeroScanned_rest h).2]
  · show (if s.sec.scanning.getLsbD h then s else s.zeroScanned h).mem.read a = 0
    rw [hfirst, if_neg Bool.false_ne_true]
    exact s.zeroScanned_stores hbound hshape hspace hhall

end

/-! ### The tamper response (R322) -/

theorem tamperResponse_stops {s : State} (hpowered : s.newel.powered = true) (hawake : s.power.asleep = false) :
    ∃ s', exec .tamperResponse s = .next s' ∧ s'.boot.state = .locked ∧ s'.sec.tamper = true ∧ s'.sec.keys = [] ∧
      (s.items = [] → (∀ r ∈ s.rings, r.2.ahead = []) → s'.cmpTripped 4 = true) ∧
      (∀ g, s.hallHere (ringHall g) = true → ringState (s'.ring g).entry = 3) ∧ (∀ p, s'.portUp p = false) ∧ s'.rxs = [] ∧
      (∀ a, a < 2 ^ 64 → addrShapeOk a = true → addrSpace a < 2 → s'.mem.read a = 0) := by
  have hasleep : (s.trip 4).power.asleep = false := (s.trip_managed 4).awake hawake
  have heq : s.tamper = { (s.trip 4).zeroise.stopWork.zeroAllStores with
      boot := { (s.trip 4).zeroise.stopWork.zeroAllStores.boot with state := .locked }
      sec := { (s.trip 4).zeroise.stopWork.zeroAllStores.sec with tamper := true } } := by
    rw [State.tamper, hpowered, if_neg (by decide)]
    exact if_neg (by simp [hasleep])
  have hsame : (s.trip 4).items = s.items ∧ (s.trip 4).rings = s.rings ∧ (s.trip 4).boot = s.boot ∧ (s.trip 4).part = s.part := by
    rw [(s.trip_managed 4).rest]
    exact ⟨rfl, rfl, rfl, rfl⟩
  obtain ⟨hitems, hrings, hboot, hpart⟩ := hsame
  have hbits : (s.trip 4).newel.ctl = Table.set 0 s.newel.ctl 4 (s.cmpBits 4 ||| 8) := by rw [s.trip_newel 4]
  obtain ⟨hring, hports, hrxs, hctl, hkeys⟩ := (s.trip 4).zeroise.stopWork_stops
  have hstores := fun a => State.zeroAllStores_zeroed (s.trip 4).zeroise.stopWork (a := a)
  have hflushed := fun hitems hahead => congrArg Newel.ctl (State.flushAll_newel (s := (s.trip 4).zeroise) hitems hahead .key none)
  generalize hu : (s.trip 4).zeroise.stopWork = u at heq hring hports hrxs hctl hkeys hstores
  have hrest := u.zeroAllStores_rest
  refine ⟨s.tamper, rfl, ?_, ?_, ?_, fun hnone hahead => ?_, fun g hg => ?_, fun p => ?_, ?_, fun a hbound hshape hspace => ?_⟩
  · rw [heq]
  · rw [heq]
  · rw [heq, hrest]
    exact hkeys
  · have hempty := hflushed (hitems.trans hnone) (hrings.symm ▸ hahead)
    have hlast : s.tamper.newel.ctl = Table.set 0 s.newel.ctl 4 (s.cmpBits 4 ||| 8) := by
      rw [heq, hrest]
      exact hctl.trans (hempty.trans hbits)
    rw [State.cmpTripped, State.cmpBits_of_ctl hlast]
    simp
  · rw [heq, hrest]
    exact hring g ((State.hallHere_of (s' := (s.trip 4).zeroise) hboot (congrArg Part.hallFused hpart) _).trans hg)
  · rw [heq, hrest]
    exact hports p
  · rw [heq, hrest]
    exact hrxs
  · have hmem : s.tamper.mem = u.zeroAllStores.mem := by rw [heq]
    rw [hmem]
    exact hstores a hbound hshape hspace

/-! ### The registers of the security page (R315, R324) -/

theorem secPage_answers {s : State} (hhost : s.hostInterfaceUp = true) (hash : BitVec 384) :
    (s.sec.ownerSet = false → exec (.secOwnerWrite hash) s = .next { s with sec := { s.sec with owner := hash, ownerSet := true } }) ∧
    (s.sec.ownerSet = true → ∃ s', exec (.secOwnerWrite hash) s = .next s' ∧ s'.sec = s.sec ∧
      (s'.page pgSecurity).raw.getLsbD 31 = true ∧ s'.sameBytes s) ∧
    (∃ s', exec .secStatusRead s = .next s' ∧ s'.out = s.out ++ [.data (s.secStatus.setWidth 64)] ∧ s'.sec = { s.sec with glitch := false } ∧
      s'.sameBytes s) := by
  have hpage : s.pageAnswers .security = true := by simp [State.pageAnswers, hhost, PageId.early]
  have hwrite : exec (.secOwnerWrite hash) s = .next (s.ownerWrite hash) := congrArg Host.Outcome.next (if_pos hpage)
  refine ⟨fun hunset => hwrite.trans (congrArg Host.Outcome.next (if_neg (by simp [hunset]))), fun hset => ?_,
    _, congrArg Host.Outcome.next (if_pos hpage), rfl, rfl, ⟨rfl, rfl, rfl⟩⟩
  refine ⟨_, hwrite.trans (congrArg Host.Outcome.next (if_pos hset)), ?_, ?_, ?_⟩
  · rw [State.refuse_rest]
  · rw [State.refuse, State.fault_page_self, Page.withFault_raw]
    simp
  · rw [State.refuse_rest]
    exact ⟨rfl, rfl, rfl⟩

/-- Settles O54: messages, key slots, the debug port, glitch and tamper, and the owner's registers. -/
theorem securityBlock : Obligations.SecurityBlock := by
  unfold Obligations.SecurityBlock
  refine ⟨fun s hawake => ?block, fun s hpowered hawake => tamperResponse_stops hpowered hawake, fun s hash hhost => secPage_answers hhost hash⟩
  have hspdm := exec_spdmRequest hawake
  have hjtag := exec_jtagChallenge hawake
  have hunlock := exec_jtagUnlock hawake
  refine ⟨hspdm _, fun nonce => ⟨_, hspdm _, rfl⟩, fun i d nonce hd => spdm_measurement hawake nonce hd,
    fun a root n hn => (spdm_openSession hawake a root).1 n hn, fun a root hfull => (spdm_openSession hawake a root).2 hfull,
    spdm_session hawake, rollbackRaise_raises hawake, fun x => ?sensor, fun ns hfree => pldm_heartbeatEnable hawake ns hfree,
    pldm_heartbeatDisable hawake, fun slot key claimed session => ?keys, ⟨_, congrArg Host.Outcome.next (if_pos hawake), rfl, rfl, rfl, rfl, rfl, rfl, rfl, rfl⟩,
    ⟨_, _, hjtag .challenge, rfl, rfl, rfl⟩, hjtag .bypass, hjtag .extest, hjtag .idcode, fun hclosed => ?refused, fun hopen => ?accepted,
    fun scope hchallenge => ?unlock, fun scope => ?locked, fun h hopen hhere hout => jtagInternalScan_scans hawake hopen hhere hout, fun h hclosed => ?scan⟩
  case sensor =>
    refine (exec_pldmRequest hawake _).trans (congrArg Host.Outcome.next ?_)
    show (match s.sensor x with
      | some v => s.emit (.data (BitVec.ofNat 64 v))
      | none => s.emit .requestError) = _
    cases s.sensor x with
    | none => rfl
    | some v => rfl
  case keys =>
    exact ⟨fun hin hdrawn hslot hempty hclosed howner => keyInstall_installs hawake key hin hdrawn hslot hempty hclosed howner,
      keyInstall_refused hawake key, keyErase_erases hawake, keyErase_refused hawake⟩
  case refused => exact (hjtag .other).trans (by rw [hclosed]; rfl)
  case accepted => exact (hjtag .other).trans (by rw [hopen]; rfl)
  case unlock =>
    have hrun := hunlock true scope
    rw [if_pos (by simp [hchallenge])] at hrun
    exact ⟨_, hrun, rfl, rfl, rfl, rfl, rfl, rfl, rfl, rfl, rfl⟩
  case locked =>
    refine ⟨(hunlock false scope).trans (by rw [if_neg (by simp)]), fun hnone => (hunlock true scope).trans (by rw [if_neg (by simp [hnone])])⟩
  case scan => exact (exec_jtagInternalScan hawake h).trans (by rw [if_neg (by simp [hclosed])])

end Sys2Proof.Machine
end

section
/-!
Module reset, start-up, sleep, undervoltage and the input switch (R306, R308, R309, R326–R331, R343).
-/
namespace Sys2Proof.Machine

/-! ### A module reset (R306, R331) -/

section
variable (s : State)

theorem State.stopSequence_outlives : Outlives { s with sec := { s.sec with keys := [], moduleKey := 0 } } s.stopSequence :=
  (State.admitAhead_outlives _ _).trans (State.flushItems_outlives _ _ _ _)

theorem State.stopSequence_time : s.stopSequence.newel.time = s.newel.time := s.stopSequence_outlives.time

theorem State.stopSequence_part : s.stopSequence.part = s.part := s.stopSequence_outlives.part

theorem Memory.read_filter_hostCell (m : Memory) {a : Nat} (ha : addrSpace a ≠ 3) : Memory.read (m.filter hostCell) a = 0 := by
  have hread := Memory.read_filter m (fun x => addrSpace x == 3) a
  rw [if_neg (by simpa using ha)] at hread
  exact hread

/-- A reset leaves nothing running, the memory zero but for the host's, and the newel's time and the fuses as they were. -/
theorem moduleReset_resets (asleep : Bool) {c : Instr} (hrun : exec c s = .next (s.moduleReset asleep false)) :
    ∃ s', exec c s = .next s' ∧ s'.items = [] ∧ s'.rings = [] ∧ s'.windows = [] ∧ s'.knots = [] ∧ s'.sec.keys = [] ∧
      s'.boot = State.reset.boot ∧ s'.halls = State.reset.halls ∧ s'.power.asleep = asleep ∧ s'.newel.time = s.newel.time ∧ s'.part = s.part ∧
      ∀ a, addrSpace a ≠ 3 → s'.mem.read a = 0 :=
  ⟨_, hrun, rfl, rfl, rfl, rfl, rfl, rfl, rfl, rfl, s.stopSequence_time, s.stopSequence_part, fun _ => Memory.read_filter_hostCell _⟩

end

/-! ### Sleep and wake (R343) -/

section
variable {s : State}

theorem State.trip_wakes (hasleep : s.power.asleep = true) {n : Nat} (hwake : s.cmpWake n = true) : (s.trip n).power.asleep = false := by
  unfold State.trip
  dsimp only
  rw [hasleep, hwake]
  rfl

theorem State.timeTrip_wakes (hasleep : s.power.asleep = true) {n : Nat} (hwake : s.cmpWake n = true) (hdue : s.timeDue n = true) :
    (s.timeTrip n).power.asleep = false := by
  have htrip : ((s.cmpSpent n).trip n).power.asleep = false :=
    State.trip_wakes (s := s.cmpSpent n) hasleep (n := n) hwake
  rw [State.timeTrip_of_due s hdue]
  split
  · split
    · exact htrip
    · split
      · exact htrip
      · exact htrip
  · exact htrip

theorem State.timeDue_timed {n : Nat} (hdue : s.timeDue n = true) : cmpTimed n = true := by
  unfold State.timeDue at hdue
  simp only [Bool.and_eq_true] at hdue
  exact hdue.1.1.1

theorem moduleWake_wakes (hpowered : s.newel.powered = true) (hasleep : s.power.asleep = true) :
    (∃ s', exec (.moduleWake .i3c) s = .next s' ∧ s'.power.asleep = false ∧ s'.newel.firstLockDue = true ∧ s'.boot = s.boot ∧ s'.sameBytes s) ∧
    (∀ n, (n = 2 ∨ n = 3) → s.cmpEnabled n = true → s.cmpWake n = true →
      ∃ s', exec (.moduleWake (.comparator n)) s = .next s' ∧ s'.power.asleep = false ∧ s'.cmpTripped n = true ∧
        (s'.page pgNewel).raw.getLsbD n = true) ∧
    (∀ n, s.timeDue n = true → s.cmpWake n = true →
      ∃ s', exec (.moduleWake (.comparator n)) s = .next s' ∧ s'.power.asleep = false ∧ s'.cmpTripped n = true) := by
  have hboth : (s.newel.powered && s.power.asleep) = true := by simp [hpowered, hasleep]
  refine ⟨⟨s.wake, congrArg Host.Outcome.next (if_pos hboth), rfl, rfl, rfl, ⟨rfl, rfl, rfl⟩⟩, fun n hn hon hwake => ?_, fun n hdue hwake => ?_⟩
  · have htimed : cmpTimed n = false := by
      obtain rfl | rfl := hn
      · rfl
      · rfl
    have htrips := State.trip_trips s (n := n) (by omega)
    have heq : s.moduleWake (.comparator n) = s.trip n :=
      (if_pos hboth).trans ((if_neg (by simp [htimed])).trans (if_pos (by simp [hon, hwake])))
    exact ⟨_, congrArg Host.Outcome.next heq, State.trip_wakes hasleep hwake, htrips.tripped, htrips.event⟩
  · have htimed := State.timeDue_timed hdue
    have hlt : n < 32 := by
      simp only [cmpTimed, Bool.or_eq_true, beq_iff_eq] at htimed
      omega
    have heq : s.moduleWake (.comparator n) = s.timeTrip n := (if_pos hboth).trans ((if_pos htimed).trans (if_pos hwake))
    exact ⟨_, congrArg Host.Outcome.next heq, State.timeTrip_wakes hasleep hwake hdue, (State.timeTrip_trips s hlt hdue).tripped⟩

/-! ### Start-up (R308, R309) -/

/-- Start-up's halls, when no test fails. -/
theorem State.markHalls_clean (s : State) (n code : Nat) : s.markHalls 0 n code = { s with boot := { s.boot with step := n } } := by
  have hnone : (0 &&& s.boot.hallsOk : BitVec 8) = 0 := BitVec.zero_and
  unfold State.markHalls
  dsimp only
  rw [hnone]
  show ({ s with boot := { s.boot with hallsOk := s.boot.hallsOk &&& ~~~(0 : BitVec 8), step := n } } : State).bootError _ _ _ = _
  rw [State.bootError, if_neg (by simp)]
  have hall : s.boot.hallsOk &&& ~~~(0 : BitVec 8) = s.boot.hallsOk := by
    rw [show ~~~(0 : BitVec 8) = BitVec.allOnes 8 from rfl, BitVec.and_allOnes]
  rw [hall]

/-- After step 1, the halls that are not fused off are to be tested. -/
theorem State.bootRails_boot (s : State) : s.bootRails.boot = { s.boot with step := 1, hallsOk := ~~~s.part.hallFused } ∧
    s.bootRails.part = s.part ∧ s.bootRails.free = s.free := by
  have hcores : ∀ (l : List Nat) (u : State), (l.foldl State.coreUp u).boot = u.boot ∧ (l.foldl State.coreUp u).part = u.part ∧
      (l.foldl State.coreUp u).free = u.free := by
    intro l
    induction l with
    | nil => exact fun u => ⟨rfl, rfl, rfl⟩
    | cons h l ih => exact fun u => ih (u.coreUp h)
  obtain ⟨hboot, hpart, hfree⟩ := hcores ((List.range 8).filter fun h => !s.part.hallFused.getLsbD h) s.inputReached
  unfold State.bootRails
  dsimp only
  rw [hboot, hpart]
  exact ⟨rfl, rfl, hfree⟩

/-- Step 7: the memory cleared, keys drawn, routines and programs loaded. -/
def State.bootLoaded (s : State) : State :=
  let u := s.bootClear.zeroise.loadRoutines.loadPrograms
  { u with boot := { u.boot with state := .ready, step := 7 } }

theorem State.foldl_modSelv_rest (l : List Nat) (f : State → Nat → State) (hf : ∀ u p, f u p = { u with selvs := (f u p).selvs }) (s : State) :
    l.foldl f s = { s with selvs := (l.foldl f s).selvs } := by
  induction l generalizing s with
  | nil => rfl
  | cons p l ih =>
    rw [List.foldl_cons]
    refine (ih _).trans ?_
    rw [hf s p]

theorem State.serveSelvs_rest (s : State) : s.serveSelvs = { s with selvs := s.serveSelvs.selvs } := by
  unfold State.serveSelvs
  dsimp only
  refine (State.foldl_modSelv_rest _ _ (fun u p => ?_) _).trans ?_
  · split
    · rfl
    · rfl
  · rw [State.foldl_modSelv_rest _ _ (fun _ _ => rfl), State.foldl_modSelv_rest _ _ (fun _ _ => rfl) s]

theorem State.placeSelvs_rest (s : State) : s.placeSelvs = { s with selvs := s.placeSelvs.selvs } := by
  unfold State.placeSelvs
  refine State.foldl_modSelv_rest _ _ (fun u p => ?_) s
  dsimp only
  split
  · rfl
  · split
    · rfl
    · rfl

theorem State.foldl_hallReady_rest (l : List Nat) (s : State) : l.foldl State.hallReady s = { s with
    halls := (l.foldl State.hallReady s).halls, busyAt := (l.foldl State.hallReady s).busyAt } := by
  induction l generalizing s with
  | nil => rfl
  | cons h l ih =>
    rw [List.foldl_cons]
    refine (ih _).trans ?_
    have hone : s.hallReady h = { s with halls := (s.hallReady h).halls, busyAt := (s.hallReady h).busyAt } := rfl
    rw [hone]

theorem State.bootReady_rest (s : State) : s.bootReady = { s.bootLoaded with
    halls := s.bootReady.halls, busyAt := s.bootReady.busyAt, selvs := s.bootReady.selvs } := by
  have heq : s.bootReady = (((List.range 8).filter s.bootLoaded.hallHere).foldl State.hallReady s.bootLoaded).serveSelvs.placeSelvs := rfl
  rw [heq, State.placeSelvs_rest, State.serveSelvs_rest, State.foldl_hallReady_rest]

/-- The programs that step 3 loads. -/
def kwedunPrograms : Table (Option (List W64 × BitVec 8)) := (List.range 512).map fun i => (i, some (Config.kwedunProgram i))

/-- What READY finds. -/
structure BootedFrom (s s' : State) : Prop where
  ready : s'.boot.state = .ready
  step : s'.boot.step = 7
  halls : s'.boot.hallsOk = s.boot.hallsOk
  lost : s'.boot.hallsLost = s.boot.hallsLost
  secondary : s'.boot.secondary = s.boot.secondary
  part : s'.part = s.part
  key : s'.sec.moduleKey = Config.freeKey s.free
  progs : s'.progs = kwedunPrograms
  windows : s'.windows = []
  rings : s'.rings = []
  mem : s'.mem = s.mem.filter hostCell

theorem State.bootLoaded_progs (s : State) : s.bootLoaded.progs = kwedunPrograms := by
  unfold State.bootLoaded State.loadPrograms kwedunPrograms
  dsimp only

theorem State.bootReady_booted (s : State) : BootedFrom s s.bootReady := by
  have hprogs : s.bootReady.progs = kwedunPrograms := by
    rw [State.bootReady_rest, ← s.bootLoaded_progs]
  refine ⟨?_, ?_, ?_, ?_, ?_, ?_, ?_, hprogs, ?_, ?_, ?_⟩
  all_goals rw [State.bootReady_rest]
  all_goals rfl

theorem State.bootFlights_clean (s : State) : s.bootFlights 0 = { s with boot := { s.boot with flightsFailed := 0, step := 6 } } := by
  have hnone : (0 &&& ~~~s.part.flightFused : BitVec 12) = 0 := BitVec.zero_and
  unfold State.bootFlights
  dsimp only
  rw [hnone]
  exact if_neg (by simp)

/-- Steps 3 to 7 with no test failed. -/
theorem State.bootOn_booted {s : State} {r : StartupResult} (secondary : Bool) (hok : s.boot.hallsOk ≠ 0) (hhbm : r.hbmFail = 0)
    (hgallery : r.galleryFail = 0) (hflight : r.flightFail = 0) : BootedFrom { s with boot := { s.boot with secondary := secondary } } (s.bootOn r secondary) := by
  unfold State.bootOn
  dsimp only
  rw [hhbm, hgallery, hflight, State.markHalls_clean, State.markHalls_clean, if_neg hok, State.bootFlights_clean]
  have hbooted := State.bootReady_booted ({ s with boot := { s.boot with
    secondary := secondary, imageVersion := if secondary = true then r.secondary.version else r.primary.version, step := 6, flightsFailed := 0 } } : State)
  exact ⟨hbooted.ready, hbooted.step, hbooted.halls, hbooted.lost, hbooted.secondary, hbooted.part, hbooted.key, hbooted.progs, hbooted.windows,
    hbooted.rings, hbooted.mem⟩

theorem Table.get_map_range {α : Type} {d : α} {f : Nat → α} {n i : Nat} (hi : i < n) : Table.get d ((List.range n).map fun j => (j, f j)) i = f i := by
  have hget := Table.get_map_append (d := d) (f := f) (u := []) (List.mem_range.mpr hi)
  rw [List.append_nil] at hget
  exact hget

theorem BitVec.not_ne_zero_of_ne {x : BitVec 8} (h : x ≠ 0xFF) : ~~~x ≠ 0 := fun heq => h (by
  have hnot := congrArg (~~~·) heq
  simpa using hnot)

theorem BootedFrom.result {s u s' : State} {second : Bool} (hbooted : BootedFrom { u with boot := { u.boot with secondary := second } } s')
    (hboot : u.boot.hallsOk = ~~~s.part.hallFused) (hlost : u.boot.hallsLost = 0) (hpart : u.part = s.part) (hfree : u.free = s.free) :
    s'.boot.state = .ready ∧ s'.boot.step = 7 ∧ s'.boot.hallsOk = ~~~s.part.hallFused ∧ s'.boot.secondary = second ∧
      s'.sec.moduleKey = Config.freeKey s.free ∧ (∀ i, i < 512 → Table.get none s'.progs i = some (Config.kwedunProgram i)) ∧
      (∀ h, h < 8 → s.part.hallFused.getLsbD h = false → s'.hallUp h = true) ∧ s'.windows = [] ∧ s'.rings = [] ∧
      ∀ a, addrSpace a ≠ 3 → s'.mem.read a = 0 := by
  have hhalls : s'.boot.hallsOk = ~~~s.part.hallFused := hbooted.halls.trans hboot
  refine ⟨hbooted.ready, hbooted.step, hhalls, hbooted.secondary, ?_, fun i hi => ?_, fun h hh hfused => ?_, hbooted.windows, hbooted.rings,
    fun a ha => ?_⟩
  · rw [hbooted.key]
    exact congrArg Config.freeKey hfree
  · rw [hbooted.progs, kwedunPrograms]
    exact Table.get_map_range hi
  · have hpart' : s'.part = s.part := hbooted.part.trans hpart
    have hlost' : s'.boot.hallsLost = 0 := hbooted.lost.trans hlost
    have hbit : (~~~s.part.hallFused).getLsbD h = true := by
      rw [BitVec.getLsbD_not, hfused, decide_eq_true hh]
      rfl
    have hnone : (0 : BitVec 8).getLsbD h = false := BitVec.getLsbD_zero
    unfold State.hallUp State.ready State.hallHere State.hallAbsent State.hallLost
    rw [hbooted.ready, hpart', hhalls, hlost', hfused, hbit, hnone, decide_eq_false (Nat.not_le.mpr hh)]
    rfl
  · rw [hbooted.mem]
    exact Memory.read_filter_hostCell _ ha

theorem startup_boots {s : State} {r : StartupResult} (hstart : s.canStart = true) :
    (r.railsReached = false → s.boot.errCode = 0 → ∃ s', exec (.startup r) s = .next s' ∧ s'.boot.errCode = 1 ∧ s'.boot.state = .booting) ∧
    (r.railsReached = true → r.loomFail = 0 → s.part.hallFused ≠ 0xFF →
      (s.setAccepted r.primary = false → s.setAccepted r.secondary = false → s.boot.errCode = 0 →
        ∃ s', exec (.startup r) s = .next s' ∧ s'.boot.state = .failed ∧
          s'.boot.errCode = if s.setVerifies r.primary && s.setVerifies r.secondary then 7 else 3) ∧
      ((s.setAccepted r.primary = true ∨ s.setAccepted r.secondary = true) → r.hbmFail = 0 → r.galleryFail = 0 → r.flightFail = 0 → s.boot.hallsLost = 0 →
        ∃ s', exec (.startup r) s = .next s' ∧ s'.boot.state = .ready ∧ s'.boot.step = 7 ∧ s'.boot.hallsOk = ~~~s.part.hallFused ∧
          s'.boot.secondary = !s.setAccepted r.primary ∧ s'.sec.moduleKey = Config.freeKey s.free ∧
          (∀ i, i < 512 → Table.get none s'.progs i = some (Config.kwedunProgram i)) ∧
          (∀ h, h < 8 → s.part.hallFused.getLsbD h = false → s'.hallUp h = true) ∧ s'.windows = [] ∧ s'.rings = [] ∧
          ∀ a, addrSpace a ≠ 3 → s'.mem.read a = 0)) := by
  have hstart' : ¬(!s.canStart) = true := by simp [hstart]
  have hbooting : s.boot.state = .booting := by
    simp only [State.canStart, Bool.and_eq_true, beq_iff_eq] at hstart
    exact hstart.2
  refine ⟨fun hrails herr => ?_, fun hrails hloom hfused => ?_⟩
  · have heq : s.startup r = s.bootError true 1 0 := (if_neg hstart').trans (if_pos (by simp [hrails]))
    have herror : s.bootError true 1 0 = { s with boot := { s.boot with errCode := BitVec.ofNat 8 1, errUnit := BitVec.ofNat 8 0 } } :=
      if_pos (by simp [herr])
    exact ⟨_, congrArg Host.Outcome.next (heq.trans herror), rfl, hbooting⟩
  · obtain ⟨hboot, hpart, hfree⟩ := s.bootRails_boot
    have hmarked : s.bootRails.markHalls r.loomFail 2 2 = { s.bootRails with boot := { s.bootRails.boot with step := 2 } } := by
      rw [hloom]
      exact State.markHalls_clean _ 2 2
    have heq : s.startup r = if (s.bootRails.markHalls r.loomFail 2 2).boot.hallsOk = 0 then (s.bootRails.markHalls r.loomFail 2 2).bootFailed 2
        else if (s.bootRails.markHalls r.loomFail 2 2).setAccepted r.primary then (s.bootRails.markHalls r.loomFail 2 2).bootOn r false
        else if (s.bootRails.markHalls r.loomFail 2 2).setAccepted r.secondary then (s.bootRails.markHalls r.loomFail 2 2).bootOn r true
        else ((s.bootRails.markHalls r.loomFail 2 2).bootError true ((s.bootRails.markHalls r.loomFail 2 2).imageError r.primary r.secondary) 0).bootFailed 2 :=
      (if_neg hstart').trans (if_neg (by simp [hrails]))
    rw [hmarked] at heq
    generalize hu : ({ s.bootRails with boot := { s.bootRails.boot with step := 2 } } : State) = u at heq
    have huboot : u.boot = { s.boot with step := 2, hallsOk := ~~~s.part.hallFused } := by
      rw [← hu, hboot]
    have hupart : u.part = s.part := by
      rw [← hu]
      exact hpart
    have hufree : u.free = s.free := by
      rw [← hu]
      exact hfree
    have hok : u.boot.hallsOk ≠ 0 := by
      rw [huboot]
      exact BitVec.not_ne_zero_of_ne hfused
    have hverifies : ∀ x, u.setVerifies x = s.setVerifies x := fun x => by rw [State.setVerifies, hupart, State.setVerifies]
    have haccepts : ∀ x, u.setAccepted x = s.setAccepted x := fun x => by rw [State.setAccepted, hverifies, hupart, State.setAccepted]
    rw [if_neg hok, haccepts, haccepts] at heq
    refine ⟨fun hprimary hsecondary herr => ?_, fun haccepted hhbm hgallery hflight hlost => ?_⟩
    · have hcode : u.imageError r.primary r.secondary = if s.setVerifies r.primary && s.setVerifies r.secondary then 7 else 3 := by
        rw [State.imageError, hverifies, hverifies]
      rw [if_neg (by simp [hprimary]), if_neg (by simp [hsecondary]), hcode] at heq
      have herror : ∀ n, u.bootError true n 0 = { u with boot := { u.boot with errCode := BitVec.ofNat 8 n, errUnit := BitVec.ofNat 8 0 } } := fun n =>
        if_pos (by simp [huboot, herr])
      rw [herror] at heq
      refine ⟨_, congrArg Host.Outcome.next heq, rfl, ?_⟩
      show BitVec.ofNat 8 (if _ then 7 else 3) = _
      split
      · rfl
      · rfl
    · have hulost : u.boot.hallsLost = 0 := by
        rw [huboot]
        exact hlost
      have huhalls : u.boot.hallsOk = ~~~s.part.hallFused := by rw [huboot]
      have hbooted := fun second => (State.bootOn_booted (s := u) (r := r) second hok hhbm hgallery hflight).result huhalls hulost hupart hufree
      by_cases hprimary : s.setAccepted r.primary = true
      · rw [if_pos hprimary] at heq
        rw [hprimary]
        exact ⟨_, congrArg Host.Outcome.next heq, hbooted false⟩
      · rw [if_neg hprimary, if_pos (haccepted.resolve_left hprimary)] at heq
        have hno : s.setAccepted r.primary = false := by simpa using hprimary
        rw [hno]
        exact ⟨_, congrArg Host.Outcome.next heq, hbooted true⟩

end

/-! ### Undervoltage, power and the input switch (R326–R328, R330) -/

section
variable {s : State} (hpowered : s.newel.powered = true)
include hpowered

theorem undervoltage_resets (c : UndervoltageCause) : ∃ s', exec (.undervoltage c) s = .next s' ∧ s'.power.lowInput = true ∧
    s'.power.precharged = false ∧ s'.items = [] ∧ s'.rings = [] ∧ s'.sec.keys = [] ∧ (c = .senseOpen → s'.power.senseMated = false) ∧
      (s.items = [] → (∀ r ∈ s.rings, r.2.ahead = []) → s'.cmpTripped 0 = true) := by
  refine ⟨_, congrArg Host.Outcome.next (if_pos hpowered), rfl, rfl, rfl, rfl, rfl, fun hopen => ?_, fun hitems hahead => ?_⟩
  · subst hopen
    exact Bool.and_false _
  · have hctl : (s.trip 0).stopSequence.newel.ctl = Table.set 0 s.newel.ctl 0 (s.cmpBits 0 ||| 8) := by
      have hsame : (s.trip 0).items = s.items ∧ (s.trip 0).rings = s.rings := by
        rw [(s.trip_managed 0).rest]
        exact ⟨rfl, rfl⟩
      have hnewel : (s.trip 0).stopSequence.newel = (s.trip 0).newel := State.flushAll_newel
        (s := { s.trip 0 with sec := { (s.trip 0).sec with keys := [], moduleKey := 0 } }) (hsame.1.trans hitems) (hsame.2.symm ▸ hahead) _ _
      rw [hnewel, s.trip_newel 0]
    show (Table.get 0 (s.trip 0).stopSequence.newel.ctl 0).getLsbD 3 = true
    rw [hctl, Table.get_set_self]
    simp

theorem powerOff_clears : ∃ s', exec .powerOff s = .next s' ∧ s'.power.off = true ∧ s'.newel.powered = false ∧ s'.items = [] ∧
    s'.sec.keys = [] ∧ s'.part = s.part :=
  ⟨_, congrArg Host.Outcome.next (if_pos hpowered), rfl, rfl, rfl, rfl, s.stopSequence_part⟩

theorem inputSwitchOpen_opens (hclosed : s.power.switchOpen = false) : ∃ s', exec .inputSwitchOpen s = .next s' ∧ s'.power.switchOpen = true ∧
    s'.power.precharged = false ∧ s'.cmpTripped 1 = true ∧ (s'.page pgNewel).raw.getLsbD 1 = true ∧ s'.items = s.items := by
  have hpower : ∀ u : State, (u.trip 1).power.switchOpen = u.power.switchOpen ∧ (u.trip 1).power.precharged = u.power.precharged := by
    intro u
    have hevent : (((u.noteSensor 1).setCmp 1 (u.cmpBits 1 ||| 8)).event pgNewel 1).power = u.power := by
      rw [State.event_rest]
      show (u.noteSensor 1).power = u.power
      unfold State.noteSensor
      split
      · rfl
      · rfl
    unfold State.trip
    dsimp only
    split
    · unfold State.wake
      dsimp only
      rw [hevent]
      exact ⟨rfl, rfl⟩
    · rw [hevent]
      exact ⟨rfl, rfl⟩
  have htrips := State.trip_trips ({ s with power := { s.power with switchOpen := true, precharged := false } } : State) (n := 1) (by decide)
  obtain ⟨hopen, hcharged⟩ := hpower { s with power := { s.power with switchOpen := true, precharged := false } }
  exact ⟨_, congrArg Host.Outcome.next (if_pos (by simp [hpowered, hclosed])), hopen, hcharged, htrips.tripped, htrips.event, htrips.items⟩

theorem prechargeBypassClose_closes (hclosed : s.power.switchOpen = false) :
    (s.power.senseMated = true → ∃ s', exec .prechargeBypassClose s = .next s' ∧ s'.power.precharged = true ∧
      (s.power.inputSeen = false → s.power.lowInput = false → s'.power.inputSeen = true ∧ s'.power.inputAt = s.newel.time) ∧
      (s.power.inputSeen = true ∨ s.power.lowInput = true → s'.power.inputSeen = s.power.inputSeen ∧ s'.power.inputAt = s.power.inputAt) ∧
      s'.items = s.items ∧ s'.sameBytes s) ∧
    (s.power.senseMated = false → exec .prechargeBypassClose s = .next s) := by
  refine ⟨fun hmated => ⟨_, congrArg Host.Outcome.next (if_pos (by simp [hpowered, hclosed, hmated])), rfl, fun hfirst hlow => ?_, fun hseen => ?_,
    rfl, ⟨rfl, rfl, rfl⟩⟩, fun hopen => congrArg Host.Outcome.next (if_neg (by simp [hopen]))⟩
  · simp [State.inputReached, hfirst, hlow]
  · obtain hseen | hlow := hseen
    · simp [State.inputReached, hseen]
    · simp [State.inputReached, hlow]

end

/-- Settles O55: resets, sleep, start-up, undervoltage, power and the input switch. -/
theorem powerAndStartup : Obligations.PowerAndStartup := by
  unfold Obligations.PowerAndStartup
  refine ⟨fun s asleep c hc hhost => ?reset, fun s hpowered hasleep => moduleWake_wakes hpowered hasleep, fun s r hstart => startup_boots hstart,
    fun s c hpowered => undervoltage_resets hpowered c, fun s hpowered hlow hmated hclosed => ?restart, fun s hpowered => powerOff_clears hpowered,
    fun s hoff => ⟨_, congrArg Host.Outcome.next (if_pos hoff), rfl, rfl, rfl, rfl, ⟨rfl, rfl, rfl⟩⟩,
    fun s hpowered hclosed => inputSwitchOpen_opens hpowered hclosed, fun s hopen => congrArg Host.Outcome.next (if_pos hopen),
    fun s hpowered hclosed => prechargeBypassClose_closes hpowered hclosed, fun s => rfl⟩
  case reset =>
    obtain ⟨rfl, rfl⟩ | ⟨rfl, rfl⟩ : (asleep = false ∧ c = .moduleReset) ∨ (asleep = true ∧ c = .moduleSleepEnter) := by simpa using hc
    · exact moduleReset_resets s false (congrArg Host.Outcome.next (if_pos hhost))
    · exact moduleReset_resets s true (congrArg Host.Outcome.next (if_pos hhost))
  case restart => exact congrArg Host.Outcome.next (if_pos (by simp [hpowered, hlow, hmated, hclosed]))

end Sys2Proof.Machine
end

section
/-!
The host interface: departure, configuration, BAR4, host memory and the device cache (R135, R283, R285, R298, R300–R304, R307).
-/
namespace Sys2Proof.Machine

theorem State.sameBytes_trans {a b c : State} (h : c.sameBytes b) (k : b.sameBytes a) : c.sameBytes a := by
  obtain ⟨hmem, hpoison, hfull⟩ := h
  obtain ⟨kmem, kpoison, kfull⟩ := k
  exact ⟨kmem.trans hmem, kpoison.trans hpoison, kfull.trans hfull⟩

/-! ### Items that fail one after another -/

/-- No item that an id finds has been emitted by a call. -/
def State.uncalled (s : State) : Prop := ∀ i t, s.item i = some t → t.caller = none

theorem State.uncalled_of_items {s : State} (h : ∀ u ∈ s.items, u.caller = none) : s.uncalled := fun _ _ ht => h _ (List.mem_of_find?_eq_some ht)

theorem State.uncalled_of_fates {s s' : State} (h : s.uncalled) (hfates : Fates s s') (hquiet : Quiet s s') : s'.uncalled := by
  intro i u hu
  have hnames := hquiet.item i
  rw [hu] at hnames
  obtain ⟨t, ht, -⟩ := Option.map_eq_some_iff.mp hnames.symm
  obtain ⟨v, hv, hfate⟩ := hfates.item ht
  obtain rfl := Option.some.inj (hv.symm.trans hu)
  exact hfate.caller.trans (h i t ht)

theorem State.failItem_uncalled {s : State} (h : s.uncalled) (i : ItemId) (st : Status) : (s.failItem i st).uncalled :=
  State.uncalled_of_fates h (s.failItem_fates i st) (s.failItem_isQuiet i st)

/-- An item that no call has emitted fails alone, whether an item is there or not. -/
theorem State.failItem_apart {s : State} {i j : ItemId} (h : s.uncalled) (hij : i ≠ j) (st : Status) : (s.failItem i st).item j = s.item j := by
  cases hi : s.item i with
  | some t => exact State.failItem_item_other hi (h i t hi) hij st
  | none =>
    have hnone : (s.failOne i st 0).item i = none := by
      rw [State.failOne_item, if_pos rfl, hi]
      rfl
    have halone : s.failAt i st 0 = s.failOne i st 0 := by
      simp only [State.failAt, State.failCallers, hnone]
    rw [State.failItem, halone, State.haltPieces_item, if_neg hij, State.failOne_item, if_neg hij]

theorem State.foldl_failItem_apart {st : Status} {j : ItemId} (l : List ItemId) {s : State} (h : s.uncalled) (hj : j ∉ l) :
    (l.foldl (fun u i => u.failItem i st) s).item j = s.item j := by
  induction l generalizing s with
  | nil => rfl
  | cons a l ih =>
    obtain ⟨hne, hnot⟩ := not_or.mp (List.mem_cons.not.mp hj)
    exact (ih (State.failItem_uncalled h a st) hnot).trans (State.failItem_apart h (Ne.symm hne) st)

theorem State.FailedAlone.failItem {s : State} {i : ItemId} {st : Status} (h : s.FailedAlone i st) : (s.failItem i st).FailedAlone i st := by
  obtain ⟨t, ht, hcall, hphase, hstatus⟩ := h.failAt 0
  refine ⟨{ t with failures := ((s.failAt i st 0).runningPlaces i).foldl insertNat t.failures }, ?_, hcall, hphase, hstatus⟩
  rw [State.failItem, State.haltPieces_item, if_pos rfl, ht, Option.map_some]

theorem State.failItem_failedAlone {s : State} {i : ItemId} {t : Item} (hi : s.item i = some t) (hcall : t.caller = none) (hfirst : t.failedAt = none)
    (st : Status) : (s.failItem i st).FailedAlone i st := by
  obtain ⟨u, hu, hphase, hstatus⟩ := State.failItem_failedWith hi hfirst hcall st
  have hfate := (s.failItem_fates i st).item hi
  obtain ⟨v, hv, hsame⟩ := hfate
  obtain rfl := Option.some.inj (hv.symm.trans hu)
  exact ⟨v, hv, hsame.caller.trans hcall, hphase, hstatus⟩

/-- An item fails with the status that every item of a list is given, if it is on the list. -/
theorem State.foldl_failItem_alone {st : Status} {i : ItemId} (l : List ItemId) {s : State} (hcall : s.uncalled)
    (h : s.FailedAlone i st ∨ i ∈ l ∧ ∃ t, s.item i = some t ∧ t.failedAt = none) : (l.foldl (fun u j => u.failItem j st) s).FailedAlone i st := by
  induction l generalizing s with
  | nil => exact h.resolve_right fun hmem => List.not_mem_nil hmem.1
  | cons a l ih =>
    rw [List.foldl_cons]
    refine ih (State.failItem_uncalled hcall a st) ?_
    by_cases ha : a = i
    · subst ha
      refine Or.inl ?_
      obtain hfailed | ⟨-, t, ht, hfirst⟩ := h
      · exact hfailed.failItem
      · exact State.failItem_failedAlone ht (hcall _ t ht) hfirst st
    · have hsame := State.failItem_apart hcall ha st
      refine h.imp (fun hfailed => ?_) fun ⟨hmem, t, ht, hfirst⟩ => ?_
      · obtain ⟨u, hu, hrest⟩ := hfailed
        exact ⟨u, hsame.trans hu, hrest⟩
      · exact ⟨(List.mem_cons.mp hmem).resolve_left (Ne.symm ha), t, hsame.trans ht, hfirst⟩

theorem State.foldl_failItem_quiet (l : List Item) (st : Status) (s : State) : Quiet s (l.foldl (fun u t => u.failItem t.id st) s) :=
  Quiet.foldl _ _ (Quiet.refl s) fun _ _ h => State.failItem_quiet _ _ h

theorem State.foldl_failItems_alone {st : Status} {t : Item} {l : List Item} (hmem : t ∈ l) {s : State} (hcall : s.uncalled)
    (hi : s.item t.id = some t) (hfirst : t.failedAt = none) : (l.foldl (fun u x => u.failItem x.id st) s).FailedAlone t.id st := by
  have hall := State.foldl_failItem_alone (i := t.id) (st := st) (l.map (·.id)) hcall
    (Or.inr ⟨List.mem_map.mpr ⟨t, hmem, rfl⟩, t, hi, hfirst⟩)
  rw [List.foldl_map] at hall
  exact hall

/-! ### A host that departs (R285) -/

/-- What fencing a ring with no work leaves. -/
structure FencedOnly (g : Nat) (s s' : State) : Prop where
  state : ringState (s'.ring g).entry = if (s.ring g).c = (s.ring g).f then 0 else 2
  others : ∀ j, j ≠ g → s'.ring j = s.ring j
  items : s'.items = []
  hif : s'.hif = s.hif
  bytes : s'.sameBytes s
  knots : s'.knots = s.knots

theorem State.foldl_emptyAhead_rest (l : List Nat) (s : State) : l.foldl (fun u g => u.modRing g fun r => { r with ahead := [] }) s = { s with
    rings := (l.foldl (fun u g => u.modRing g fun r => { r with ahead := [] }) s).rings } := by
  induction l generalizing s with
  | nil => rfl
  | cons a l ih =>
    rw [List.foldl_cons]
    exact ih (s.modRing a fun r => { r with ahead := [] })

theorem State.admitAhead_rest (s : State) (f : Nat → Bool) : s.admitAhead f = { s with items := (s.admitAhead f).items, rings := (s.admitAhead f).rings } := by
  have hrest := State.foldl_emptyAhead_rest ((s.rings.map Prod.fst).filter f)
    { s with items := s.items ++ ((s.rings.map Prod.fst).filter f).flatMap s.aheadItems }
  unfold State.admitAhead
  dsimp only
  rw [hrest]

theorem State.fenceRing_only {s : State} {g : Nat} (hitems : s.items = []) (hahead : (s.ring g).ahead = []) : FencedOnly g s (s.fenceRing g) := by
  have hstate := s.fenceRing_of_empty g hitems hahead
  have hfenced : s.fenced g = { s with rings := (s.fenced g).rings, busyAt := (s.fenced g).busyAt } := by
    have hset : s.setRingState g ringFenced = s.ringStateSet g ringFenced := by rw [State.setRingState_eq, if_neg (by decide)]
    rw [State.fenced, hset, State.ringStateSet_rest]
    rfl
  have hothers : ∀ j, j ≠ g → (s.fenced g).ring j = s.ring j := by
    intro j hj
    rw [State.fenced, State.modRing_ring, if_neg (Ne.symm hj), State.ring, State.setRingState_rings]
    exact (s.ringStateSet_ring g ringFenced j).trans (if_neg (Ne.symm hj))
  have hnone : (s.fenced g).items = [] := by
    rw [hfenced]
    exact hitems
  have hahead' : ((s.fenced g).ring g).ahead = [] := by
    rw [State.fenced_ring]
    exact hahead
  obtain ⟨hempty, hrings⟩ := (s.fenced g).admitAhead_of_empty g hnone hahead'
  have hrest := (s.fenced g).admitAhead_rest (· == g)
  have heq : s.fenceRing g = (((s.fenced g).admitAhead (· == g)).ringSettle g).settleWaits := by
    rw [State.fenceRing_eq, (s.fenced g).fenceItems_of_empty g hnone hahead']
  rw [heq] at hstate ⊢
  generalize (s.fenced g).admitAhead (· == g) = u at hempty hrings hrest hstate ⊢
  rw [hfenced] at hrest
  have hsettle : u.ringSettle g = { u with rings := (u.ringSettle g).rings, busyAt := (u.ringSettle g).busyAt } := by
    unfold State.ringSettle
    dsimp only
    split
    · rw [State.setRingState_eq, if_neg (by decide), State.ringStateSet_rest]
    · rfl
  have hsettled : ∀ j, j ≠ g → (u.ringSettle g).ring j = u.ring j := by
    intro j hj
    unfold State.ringSettle
    dsimp only
    split
    · rw [State.ring, State.setRingState_rings]
      exact (u.ringStateSet_ring g ringDisabled j).trans (if_neg (Ne.symm hj))
    · rfl
  have hitems' : (u.ringSettle g).items = [] := by
    rw [hsettle]
    exact hempty
  have hwaits : (u.ringSettle g).settleWaits = u.ringSettle g := by
    rw [State.settleWaits, hitems']
    rfl
  rw [hwaits] at hstate ⊢
  refine ⟨hstate, fun j hj => (hsettled j hj).trans ((hrings j).trans (hothers j hj)), hitems', ?_, ?_, ?_⟩
  · rw [hsettle, hrest]
  · rw [hsettle, hrest]
    exact ⟨rfl, rfl, rfl⟩
  · rw [hsettle, hrest]

/-- A ring that is ENABLED or in ERROR is fenced. -/
def State.fenceLive (s : State) (g : Nat) : State :=
  if ringState (s.ring g).entry = ringEnabled ∨ ringState (s.ring g).entry = ringError then s.fenceRing g else s

/-- What fencing rings one after another leaves, with no item and nothing read ahead. -/
structure FencedAll (l : List Nat) (s s' : State) : Prop where
  state : ∀ g ∈ l, (ringState (s.ring g).entry = 1 ∨ ringState (s.ring g).entry = 3) →
    ringState (s'.ring g).entry = if (s.ring g).c = (s.ring g).f then 0 else 2
  others : ∀ j, j ∉ l → s'.ring j = s.ring j
  items : s'.items = []
  hif : s'.hif = s.hif
  bytes : s'.sameBytes s
  knots : s'.knots = s.knots

theorem State.foldl_fenceLive {l : List Nat} (hnodup : l.Nodup) {s : State} (hitems : s.items = []) (hahead : ∀ g ∈ l, (s.ring g).ahead = []) :
    FencedAll l s (l.foldl State.fenceLive s) := by
  induction l generalizing s with
  | nil => exact ⟨nofun, fun _ _ => rfl, hitems, rfl, ⟨rfl, rfl, rfl⟩, rfl⟩
  | cons a l ih =>
    obtain ⟨hnot, hnodup'⟩ := List.nodup_cons.mp hnodup
    have hone : ((ringState (s.ring a).entry = 1 ∨ ringState (s.ring a).entry = 3) →
          ringState ((s.fenceLive a).ring a).entry = if (s.ring a).c = (s.ring a).f then 0 else 2) ∧
        (∀ j, j ≠ a → (s.fenceLive a).ring j = s.ring j) ∧ (s.fenceLive a).items = [] ∧ (s.fenceLive a).hif = s.hif ∧
        (s.fenceLive a).sameBytes s ∧ (s.fenceLive a).knots = s.knots := by
      by_cases hlive : ringState (s.ring a).entry = ringEnabled ∨ ringState (s.ring a).entry = ringError
      · have honly := State.fenceRing_only hitems (hahead a (List.mem_cons_self ..))
        rw [State.fenceLive, if_pos hlive]
        exact ⟨fun _ => honly.state, honly.others, honly.items, honly.hif, honly.bytes, honly.knots⟩
      · rw [State.fenceLive, if_neg hlive]
        exact ⟨fun h => absurd h hlive, fun _ _ => rfl, hitems, rfl, ⟨rfl, rfl, rfl⟩, rfl⟩
    obtain ⟨hstate, hothers, hnone, hhif, hbytes, hknots⟩ := hone
    have hne : ∀ g ∈ l, g ≠ a := fun g hg heq => hnot (heq ▸ hg)
    have hrest := ih hnodup' hnone fun g hg => by
      rw [hothers g (hne g hg)]
      exact hahead g (List.mem_cons_of_mem _ hg)
    rw [List.foldl_cons]
    refine ⟨fun g hg hlive => ?_, fun j hj => ?_, hrest.items, hrest.hif.trans hhif, ?_, hrest.knots.trans hknots⟩
    · obtain rfl | hg := List.mem_cons.mp hg
      · rw [hrest.others g hnot]
        exact hstate hlive
      · have hsame := hothers g (hne g hg)
        have hafter := hrest.state g hg
        rw [hsame] at hafter
        exact hafter hlive
    · rw [hrest.others j fun hmem => hj (List.mem_cons_of_mem _ hmem)]
      exact hothers j fun heq => hj (heq ▸ List.mem_cons_self ..)
    · obtain ⟨hmem, hpoison, hfull⟩ := hrest.bytes
      obtain ⟨hmem', hpoison', hfull'⟩ := hbytes
      exact ⟨hmem'.trans hmem, hpoison'.trans hpoison, hfull'.trans hfull⟩

theorem State.foldl_fenceLive_off (l : List Nat) {s : State} (h : ∀ g ∈ l, ringState (s.ring g).entry ≠ 1 ∧ ringState (s.ring g).entry ≠ 3) :
    l.foldl State.fenceLive s = s := by
  induction l with
  | nil => rfl
  | cons a l ih =>
    have hoff : ¬(ringState (s.ring a).entry = ringEnabled ∨ ringState (s.ring a).entry = ringError) := not_or.mpr (h a (List.mem_cons_self ..))
    rw [List.foldl_cons, State.fenceLive, if_neg hoff]
    exact ih fun g hg => h g (List.mem_cons_of_mem _ hg)

/-- What a departure writes into the host interface's registers. -/
def HostIf.departedFor (h : HostIf) (f : Nat) (cause : DepartCause) : HostIf :=
  let h := { h with departed := h.departed ||| (1#2 <<< f) }
  let h := if cause = .linkDown then h else h.resetFunction f
  if cause = .perst then { h with released := Table.set 0 h.released f 0, configReady := h.configReady &&& ~~~(1#2 <<< f) } else h

theorem HostIf.resetFunction_departed (h : HostIf) (f : Nat) : (h.resetFunction f).departed = h.departed := by
  unfold HostIf.resetFunction
  dsimp only
  split
  · rfl
  · rfl

theorem HostIf.departedFor_departed (h : HostIf) {f : Nat} (hf : f < 2) (cause : DepartCause) : (h.departedFor f cause).departed.getLsbD f = true := by
  have hbit : (h.departed ||| (1#2 <<< f)).getLsbD f = true := by simp [hf]
  unfold HostIf.departedFor
  dsimp only
  split
  · split
    · exact hbit
    · rw [HostIf.resetFunction_departed]
      exact hbit
  · split
    · exact hbit
    · rw [HostIf.resetFunction_departed]
      exact hbit

theorem HostIf.departedFor_bar4 (h : HostIf) (f : Nat) (cause : DepartCause) :
    (if f = 0 then (h.departedFor f cause).bar4f0 else (h.departedFor f cause).bar4f1) =
      if cause = .linkDown then (if f = 0 then h.bar4f0 else h.bar4f1) else ⟨0, 0, false⟩ := by
  by_cases hf : f = 0
  · cases cause <;> simp [HostIf.departedFor, HostIf.resetFunction, hf]
  · cases cause <;> simp [HostIf.departedFor, HostIf.resetFunction, hf]

theorem ringState_zero : ringState 0#512 = 0 := fieldNat_zero 136 2

/-- The rings of a function that the table lists. -/
def State.ringsOf (s : State) (f : Nat) : List Nat := (s.rings.filter fun p => p.2.function == f).map Prod.fst

theorem State.function_lt {s : State} {f : Nat} (hfn : s.functionHere f = true) : f < 2 := by
  simp only [State.functionHere, Bool.or_eq_true, Bool.and_eq_true, beq_iff_eq] at hfn
  omega

/-- The state with the registers of a departure. -/
def State.departing (s : State) (f : Nat) (cause : DepartCause) : State := { s with hif := s.hif.departedFor f cause }

theorem State.departing_items (s : State) (f : Nat) (cause : DepartCause) : (s.departing f cause).items = s.items := rfl
theorem State.departing_ring (s : State) (f : Nat) (cause : DepartCause) (g : Nat) : (s.departing f cause).ring g = s.ring g := rfl
theorem State.departing_hif (s : State) (f : Nat) (cause : DepartCause) : (s.departing f cause).hif = s.hif.departedFor f cause := rfl
theorem State.departing_sameBytes (s : State) (f : Nat) (cause : DepartCause) : (s.departing f cause).sameBytes s := ⟨rfl, rfl, rfl⟩
theorem State.departing_knots (s : State) (f : Nat) (cause : DepartCause) : (s.departing f cause).knots = s.knots := rfl

theorem State.hostDepart_eq {s : State} {f : Nat} (hfn : s.functionHere f = true) (cause : DepartCause) : s.hostDepart f cause =
    (((s.ringsOf f).foldl State.fenceLive (s.departing f cause)).items.filter
      (((s.ringsOf f).foldl State.fenceLive (s.departing f cause)).usesHost f)).foldl (fun u t => u.failItem t.id .timeout)
        ((s.ringsOf f).foldl State.fenceLive (s.departing f cause)) :=
  if_neg (by simp [hfn])

theorem Table.get_of_nodup {α : Type} {d : α} {t : Table α} (h : (t.map Prod.fst).Nodup) {p : Nat × α} (hp : p ∈ t) : Table.get d t p.1 = p.2 := by
  induction t with
  | nil => exact absurd hp List.not_mem_nil
  | cons q t ih =>
    obtain ⟨k, v⟩ := q
    rw [List.map_cons, List.nodup_cons] at h
    rw [Table.get]
    obtain rfl | htail := List.mem_cons.mp hp
    · exact if_pos rfl
    · rw [if_neg fun heq : k = p.1 => h.1 (List.mem_map.mpr ⟨p, htail, heq.symm⟩)]
      exact ih h.2 htail

section
variable {s : State} {f : Nat} (hnodup : (s.rings.map Prod.fst).Nodup)
include hnodup

theorem State.ring_of_mem {p : Nat × Ring} (hp : p ∈ s.rings) : s.ring p.1 = p.2 := Table.get_of_nodup hnodup hp

theorem State.mem_ringsOf {g : Nat} (hg : g ∈ s.ringsOf f) : (s.ring g).function = f ∧ (g, s.ring g) ∈ s.rings := by
  obtain ⟨p, hp, rfl⟩ := List.mem_map.mp hg
  obtain ⟨hmem, hfn⟩ := List.mem_filter.mp hp
  rw [State.ring_of_mem hnodup hmem]
  exact ⟨eq_of_beq hfn, hmem⟩

theorem State.ringsOf_nodup : (s.ringsOf f).Nodup := (List.filter_sublist.map _).nodup hnodup

omit hnodup in
theorem State.mem_ringsOf_of_live {g : Nat} (hfn : (s.ring g).function = f) (hlive : ringState (s.ring g).entry = 1 ∨ ringState (s.ring g).entry = 3) :
    g ∈ s.ringsOf f := by
  have hne : s.ring g ≠ Ring.reset := by
    intro heq
    have hzero : ringState (s.ring g).entry = 0 := by
      rw [heq]
      exact ringState_zero
    omega
  exact List.mem_map.mpr ⟨(g, s.ring g), List.mem_filter.mpr ⟨Table.mem_of_get_ne hne, beq_iff_eq.mpr hfn⟩, rfl⟩

theorem hostDepart_idle (hfn : s.functionHere f = true) (cause : DepartCause) (hitems : s.items = []) (hahead : ∀ r ∈ s.rings, r.2.ahead = []) :
    ∃ s', exec (.hostDepart f cause) s = .next s' ∧ s'.hif.departed.getLsbD f = true ∧
      s'.bar4 f = (if cause = .linkDown then s.bar4 f else ⟨0, 0, false⟩) ∧
      (∀ g, (s.ring g).function = f → (ringState (s.ring g).entry = 1 ∨ ringState (s.ring g).entry = 3) →
        ringState (s'.ring g).entry = if (s.ring g).c = (s.ring g).f then 0 else 2) ∧
      (∀ g, (s.ring g).function ≠ f → s'.ring g = s.ring g) ∧ s'.sameBytes s ∧ s'.knots = s.knots := by
  have hf : f < 2 := State.function_lt hfn
  have hall := State.foldl_fenceLive (l := s.ringsOf f) (State.ringsOf_nodup hnodup) (s := s.departing f cause) hitems
    fun g hg => hahead _ (State.mem_ringsOf hnodup hg).2
  have hdepart := State.hostDepart_eq hfn cause
  generalize (s.ringsOf f).foldl State.fenceLive (s.departing f cause) = u at hall hdepart
  rw [hall.items] at hdepart
  have hbytes := hall.bytes
  have hothers := hall.others
  have hstate := hall.state
  simp only [State.departing_ring] at hothers hstate
  refine ⟨u, congrArg Host.Outcome.next hdepart, ?_, ?_, fun g hg hlive => hstate g (State.mem_ringsOf_of_live hg hlive) hlive,
    fun g hg => hothers g fun hmem => hg (State.mem_ringsOf hnodup hmem).1, hbytes, hall.knots⟩
  · rw [hall.hif, State.departing_hif]
    exact s.hif.departedFor_departed hf cause
  · rw [State.bar4, hall.hif, State.departing_hif]
    exact s.hif.departedFor_bar4 f cause

theorem hostDepart_users (hfn : s.functionHere f = true) (cause : DepartCause)
    (hoff : ∀ r ∈ s.rings, r.2.function = f → ringState r.2.entry ≠ 1 ∧ ringState r.2.entry ≠ 3) (hcall : ∀ u ∈ s.items, u.caller = none) :
    ∃ s', exec (.hostDepart f cause) s = .next s' ∧ s'.sameBytes s ∧
      ∀ t, s.item t.id = some t → s.usesHost f t = true → t.failedAt = none → s'.failedWith t.id .timeout := by
  have hdepart := State.hostDepart_eq hfn cause
  have hitems := s.departing_items f cause
  have hring := s.departing_ring f cause
  have hbytes := s.departing_sameBytes f cause
  generalize s.departing f cause = u at hdepart hitems hring hbytes
  have hnone : (s.ringsOf f).foldl State.fenceLive u = u := by
    refine State.foldl_fenceLive_off _ fun g hg => ?_
    obtain ⟨hfng, hmem⟩ := State.mem_ringsOf hnodup hg
    have hring := hring g
    have hoff := hoff (g, s.ring g) hmem hfng
    rwa [hring]
  rw [hnone, hitems] at hdepart
  have hfind : ∀ i, u.item i = s.item i := fun i => by rw [State.item, hitems, State.item]
  refine ⟨_, congrArg Host.Outcome.next hdepart, State.sameBytes_trans (State.foldl_failItem_quiet _ _ u).sameBytes hbytes, fun t ht huses hfirst => ?_⟩
  have huses' : u.usesHost f t = true := by rwa [State.usesHost, hring]
  exact (State.foldl_failItems_alone (List.mem_filter.mpr ⟨List.mem_of_find?_eq_some ht, huses'⟩)
    (State.uncalled_of_items (hitems ▸ hcall)) ((hfind _).trans ht) hfirst).failedWith

end

/-! ### Configuration and BAR4 (R300, R304) -/

/-- The answer to a configuration request. -/
def State.configAnswered (s : State) (f : Nat) : State :=
  { s with hif := { s.hif with configReady := s.hif.configReady ||| (1#2 <<< f), departed := s.hif.departed &&& ~~~(1#2 <<< f) } }.emit (.configOk f)

theorem State.configAnswered_answers (s : State) {f : Nat} (hf : f < 2) : (s.configAnswered f).out = s.out ++ [.configOk f] ∧
    (s.configAnswered f).hif.configReady.getLsbD f = true ∧ (s.configAnswered f).hif.departed.getLsbD f = false ∧
    (s.configAnswered f).sameBytes s ∧ (s.configAnswered f).items = s.items := by
  refine ⟨rfl, ?_, ?_, ⟨rfl, rfl, rfl⟩, rfl⟩
  · show (s.hif.configReady ||| (1#2 <<< f)).getLsbD f = true
    simp [hf]
  · show (s.hif.departed &&& ~~~(1#2 <<< f)).getLsbD f = false
    simp [hf]

section
variable {s : State} {f : Nat} (hup : s.hostInterfaceUp = true)
include hup

theorem exec_configRequest : exec (.configRequest f) s = .next (if !s.functionHere f then s.emit .unsupported
    else if s.hif.configReady.getLsbD f then s.configAnswered f
    else match s.readyFrom f with
      | none => s.emit (.configRetry f)
      | some since =>
        if since + readinessNs ≤ s.newel.time.toNat then s.configAnswered f
        else if (Config.freeWord s.free).getLsbD 0 then s.draw.2.configAnswered f else s.draw.2.emit (.configRetry f)) := by
  refine congrArg Host.Outcome.next ?_
  rw [State.configRequest, hup]
  rfl

theorem configRequest_absent (hfn : s.functionHere f = false) : exec (.configRequest f) s = .next (s.emit .unsupported) := by
  rw [exec_configRequest hup, hfn]
  rfl

theorem configRequest_retries (hfn : s.functionHere f = true) (hready : s.hif.configReady.getLsbD f = false) (hnone : s.readyFrom f = none) :
    exec (.configRequest f) s = .next (s.emit (.configRetry f)) := by
  rw [exec_configRequest hup, hfn, hready, hnone]
  rfl

theorem configRequest_answers (hfn : s.functionHere f = true)
    (hdue : s.hif.configReady.getLsbD f = true ∨ ∃ since, s.readyFrom f = some since ∧ since + 100000000 ≤ s.newel.time.toNat) :
    exec (.configRequest f) s = .next (s.configAnswered f) := by
  rw [exec_configRequest hup, hfn]
  congr 1
  by_cases hready : s.hif.configReady.getLsbD f = true
  · rw [hready]
    rfl
  · obtain ⟨since, hsince, hlate⟩ := hdue.resolve_left hready
    rw [hsince, if_neg (by decide : ¬(!true) = true), if_neg hready]
    exact if_pos hlate

/-- R304: a configuration request, of each kind. -/
theorem configRequest_rules : (s.functionHere f = false → exec (.configRequest f) s = .next (s.emit .unsupported)) ∧
    (s.functionHere f = true → s.hif.configReady.getLsbD f = false → s.readyFrom f = none →
      exec (.configRequest f) s = .next (s.emit (.configRetry f))) ∧
    (s.functionHere f = true → (s.hif.configReady.getLsbD f = true ∨
        ∃ since, s.readyFrom f = some since ∧ since + 100000000 ≤ s.newel.time.toNat) →
      ∃ s', exec (.configRequest f) s = .next s' ∧ s'.out = s.out ++ [.configOk f] ∧ s'.hif.configReady.getLsbD f = true ∧
        s'.hif.departed.getLsbD f = false ∧ s'.sameBytes s ∧ s'.items = s.items) :=
  ⟨configRequest_absent hup, configRequest_retries hup, fun hfn hdue =>
    ⟨_, configRequest_answers hup hfn hdue, s.configAnswered_answers (State.function_lt hfn)⟩⟩

end

theorem State.lookupLine_none (s : State) (a : Nat) : (s.lookupLine none none a).sameBytes s ∧ (s.lookupLine none none a).items = s.items := by
  unfold State.lookupLine
  dsimp only
  split
  · exact ⟨s.touchLine_sameBytes _ _, s.touchLine_items _ _⟩
  · exact ⟨⟨rfl, rfl, rfl⟩, rfl⟩

theorem State.foldl_lookupLine_none (l : List (Nat × Nat)) (s : State) :
    (l.foldl (fun u p => u.lookupLine none none p.1) s).sameBytes s ∧ (l.foldl (fun u p => u.lookupLine none none p.1) s).items = s.items := by
  induction l generalizing s with
  | nil => exact ⟨⟨rfl, rfl, rfl⟩, rfl⟩
  | cons p l ih =>
    obtain ⟨hbytes, hitems⟩ := ih (s.lookupLine none none p.1)
    obtain ⟨hbytes', hitems'⟩ := s.lookupLine_none p.1
    exact ⟨State.sameBytes_trans hbytes hbytes', hitems.trans hitems'⟩

/-- A lookup through no window moves no byte and touches no item. -/
theorem State.lookupRead_none (s : State) (a n : Nat) : (s.lookupRead none a n).sameBytes s ∧ (s.lookupRead none a n).items = s.items := by
  unfold State.lookupRead
  split
  · exact ⟨⟨rfl, rfl, rfl⟩, rfl⟩
  · exact State.foldl_lookupLine_none _ s

theorem addrSpace_hbmAddr {h o : Nat} (hh : h < 8) (ho : o ≤ stackSize) : addrSpace (hbmAddr h o) = 2 := by
  unfold stackSize at ho
  have hbounds : 2 * 2 ^ 60 ≤ hbmAddr h o ∧ hbmAddr h o < (2 + 1) * 2 ^ 60 := by
    unfold hbmAddr
    rw [Nat.shiftLeft_eq]
    omega
  exact addrSpace_of_bounds (by decide) hbounds.1 hbounds.2

theorem State.bar4Target_space {s : State} {f off n a : Nat} (h : s.bar4Target f off n = some a) : addrSpace a = 2 := by
  unfold State.bar4Target at h
  dsimp only at h
  split at h
  case isTrue hok =>
    obtain rfl := Option.some.inj h
    simp only [Bool.and_eq_true, decide_eq_true_eq] at hok
    obtain ⟨-, hsize⟩ := hok
    exact addrSpace_hbmAddr (s.bar4 f).hall.isLt (Nat.le_trans (Nat.le_add_right _ _) hsize)
  case isFalse => exact nomatch h

theorem hostKey_of_space {fn a k : Nat} (h : addrSpace a = k) (hk : k ≠ 3) : hostKey fn a = a := by
  rw [hostKey, if_neg]
  rintro ⟨h3, -⟩
  exact hk (h.symm.trans h3)

/-- A plain store into a stack: the bytes of its place, and no others but the charges. -/
theorem State.store_read_stack (s : State) {a x : Nat} (h2 : addrSpace a = 2) (bs : List Byte) (hlive : ¬s.chargeByte x) :
    (s.store Access.plain a bs).mem.read x = if a ≤ x ∧ x < a + bs.length then bs.getD (x - a) 0 else s.mem.read x := by
  have hkey : hostKey Access.plain.function a = a := hostKey_of_space h2 (by decide)
  have hwrite := s.mem.read_writeBytes a x bs
  simp only [State.store, if_neg (h2.trans_ne (by decide : 2 ≠ 5)), if_pos h2, Memory.store, Access.plain] at hkey ⊢
  rw [hkey]
  exact ((({ s with mem := s.mem.writeBytes a bs } : State).unpoison a bs.length).replaceCache_kept _ _).bytes x (fun h => hlive h.chargeByte) |>.trans hwrite

theorem State.store_stack_rest (s : State) {a : Nat} (h2 : addrSpace a = 2) (bs : List Byte) :
    (s.store Access.plain a bs).items = s.items ∧ (s.store Access.plain a bs).windows = s.windows := by
  simp only [State.store, if_neg (h2.trans_ne (by decide : 2 ≠ 5)), if_pos h2]
  rw [State.replaceCache_rest]
  exact ⟨rfl, rfl⟩

section
variable {s : State} (hup : s.hostInterfaceUp = true)
include hup

theorem exec_bar4Access {f off n a : Nat} (ha : s.bar4Target f off n = some a) (write : Bool) (data : List Byte) :
    exec (.bar4Access f write off n data) s = .next (if write then s.store Access.plain a (data.take (Nat.min n (reserveBase - addrOffset a)))
      else (s.lookupRead none a n).emit (.bytes (s.load Access.plain a n) (s.poisoned a n))) := by
  refine congrArg Host.Outcome.next ?_
  rw [State.bar4Access, hup, ha]
  rfl

theorem exec_bar4Access_beyond {f off n : Nat} (hnone : s.bar4Target f off n = none) (write : Bool) (data : List Byte) :
    exec (.bar4Access f write off n data) s = .next (s.emit .unsupported) := by
  refine congrArg Host.Outcome.next ?_
  rw [State.bar4Access, hup, hnone]
  rfl

/-- R300: an access that `BAR4` does not reach, a read and a write. -/
theorem bar4Access_rules (f off n : Nat) (data : List Byte) :
    (∀ write, s.bar4Target f off n = none → exec (.bar4Access f write off n data) s = .next (s.emit .unsupported)) ∧
    (∀ a, s.bar4Target f off n = some a →
      (∃ s', exec (.bar4Access f false off n data) s = .next s' ∧
        s'.out.getLast? = some (.bytes (s.mem.readBytes a n) (s.poisoned a n)) ∧ s'.sameBytes s ∧ s'.items = s.items) ∧
      (let bs := data.take (Nat.min n (reserveBase - addrOffset a))
       ∃ s', exec (.bar4Access f true off n data) s = .next s' ∧ s'.items = s.items ∧ s'.windows = s.windows ∧
        ∀ x, ¬s.chargeByte x → s'.mem.read x = if a ≤ x ∧ x < a + bs.length then bs.getD (x - a) 0 else s.mem.read x)) := by
  refine ⟨fun write hnone => exec_bar4Access_beyond hup hnone write data, fun a ha => ?_⟩
  have h2 := State.bar4Target_space ha
  refine ⟨⟨_, exec_bar4Access hup ha false data, ?_, s.lookupRead_none a n⟩, ?_⟩
  · have hload : s.load Access.plain a n = s.mem.readBytes a n := by
      rw [State.load, if_neg (h2.trans_ne (by decide))]
      exact congrArg (fun k => s.mem.readBytes k n) (hostKey_of_space h2 (by decide))
    rw [hload]
    exact List.getLast?_concat
  · obtain ⟨hitems, hwindows⟩ := s.store_stack_rest h2 (data.take (Nat.min n (reserveBase - addrOffset a)))
    exact ⟨_, exec_bar4Access hup ha true data, hitems, hwindows, fun x hx => s.store_read_stack h2 _ hx⟩

end

/-! ### Answers from host memory (R135, R283, R301, R302) -/

theorem State.fillDevice_rest (s : State) (a : Nat) : s.fillDevice a = { s with free := (s.fillDevice a).free, hif := (s.fillDevice a).hif } := by
  unfold State.fillDevice
  dsimp only
  split
  · split
    · rfl
    · rfl
  · rfl

theorem hostSpace_address (a : W64) : addrSpace (3 * 2 ^ 60 + a.toNat % 2 ^ 57) = 3 :=
  addrSpace_of_bounds (by decide) (by omega) (by omega)

theorem State.deliver_delivers (s : State) (fn : Nat) (a : W64) (data : List Byte) :
    (s.deliver fn a.toNat data).items = s.items ∧
      (s.deliver fn a.toNat data).mem = s.mem.writeBytes (hostKey fn (3 * 2 ^ 60 + a.toNat % 2 ^ 57)) data := by
  have hput : s.put fn (3 * 2 ^ 60 + a.toNat % 2 ^ 57) data = _ := State.store_of_plain (s := s) (ac := ⟨none, none, fn⟩) rfl
    ((hostSpace_address a).trans_ne (by decide)) ((hostSpace_address a).trans_ne (by decide)) data
  rw [State.deliver, State.fillDevice_rest, hput]
  exact ⟨rfl, rfl⟩

section
variable {s : State} {i : ItemId} {t : Item} (hi : s.item i = some t) (hwaits : waitsOnHost t = true)
include hi hwaits

theorem exec_hostCompletion_fails {q : HostAnswer} {st : Status} (hq : answerStatus q = some st) (a : W64) (data : List Byte) :
    exec (.hostCompletion (.item i) q a data) s = .next (s.failItem i st) := by
  refine congrArg Host.Outcome.next ?_
  simp only [State.hostCompletion, hi, if_pos hwaits, hq]

theorem exec_hostCompletion_arrives (a : W64) (data : List Byte) :
    exec (.hostCompletion (.item i) .success a data) s = .next (s.deliver (s.itemFunction i) a.toNat data) := by
  refine congrArg Host.Outcome.next ?_
  simp only [State.hostCompletion, hi, if_pos hwaits, answerStatus]

theorem exec_hostTimeout_item : exec (.hostMemoryTimeout (.item i)) s = .next (s.failItem i .timeout) := by
  refine congrArg Host.Outcome.next ?_
  simp only [State.hostTimeout, hi, if_pos hwaits]

theorem hostCompletion_rules (a : W64) (data : List Byte) :
    (let m := hostKey (s.itemFunction i) (3 * 2 ^ 60 + a.toNat % 2 ^ 57)
     ∃ s', exec (.hostCompletion (.item i) .success a data) s = .next s' ∧ s'.items = s.items ∧
      s'.mem.readBytes m data.length = data ∧ ∀ x, x < m ∨ m + data.length ≤ x → s'.mem.read x = s.mem.read x) ∧
    (t.failedAt = none → t.caller = none →
      (∃ s', exec (.hostCompletion (.item i) .poisoned a data) s = .next s' ∧ s'.failedWith i .eccUncorr ∧ s'.sameBytes s) ∧
      (∀ q, q = .unsupportedRequest ∨ q = .completerAbort →
        ∃ s', exec (.hostCompletion (.item i) q a data) s = .next s' ∧ s'.failedWith i .access ∧ s'.sameBytes s) ∧
      ∃ s', exec (.hostMemoryTimeout (.item i)) s = .next s' ∧ s'.failedWith i .timeout ∧ s'.sameBytes s) := by
  refine ⟨?_, fun hfirst hcall => ?_⟩
  · obtain ⟨hitems, hmem⟩ := s.deliver_delivers (s.itemFunction i) a data
    refine ⟨_, exec_hostCompletion_arrives hi hwaits a data, hitems, ?_, fun x hx => ?_⟩
    · rw [hmem, Memory.readBytes_writeBytes]
    · rw [hmem, Memory.read_writeBytes_outside _ _ hx]
  · have hfails : ∀ st, (s.failItem i st).failedWith i st ∧ (s.failItem i st).sameBytes s := fun st =>
      ⟨State.failItem_failedWith hi hfirst hcall st, (s.failItem_isQuiet i st).sameBytes⟩
    refine ⟨⟨_, exec_hostCompletion_fails hi hwaits rfl a data, hfails _⟩, fun q hq => ?_, _, exec_hostTimeout_item hi hwaits, hfails _⟩
    obtain rfl | rfl := hq
    · exact ⟨_, exec_hostCompletion_fails hi hwaits rfl a data, hfails _⟩
    · exact ⟨_, exec_hostCompletion_fails hi hwaits rfl a data, hfails _⟩

end

theorem State.setRingState_error (s : State) (g : Nat) : ringState ((s.setRingState g ringError).ring g).entry = 3 ∧
    ((s.setRingState g ringError).page (pgTreadle (ringHall g))).raw.getLsbD 1 = true ∧
    (s.setRingState g ringError).items = s.items ∧ (s.setRingState g ringError).sameBytes s := by
  have hset : (s.ringStateSet g ringError).sameBytes s := by
    rw [State.ringStateSet_rest]
    exact ⟨rfl, rfl, rfl⟩
  refine ⟨s.setRingState_state g (by decide), ?_, s.setRingState_items g _, ?_⟩
  · rw [State.setRingState_eq, if_pos rfl, State.event_page_self, Page.withEvent]
    simp
  · rw [State.setRingState_eq, if_pos rfl, State.event_rest]
    exact hset

theorem ringError_of_descriptor {s : State} {g : Nat} {q : HostAnswer} {a : W64} {data : List Byte} (hon : ringState (s.ring g).entry = 1)
    (hleft : (s.ring g).p ≠ (s.ring g).f) (h3 : addrSpace (ringCommandBase (s.ring g).entry) = 3) (hq : q ≠ .success) {c : Instr}
    (hc : c = .hostCompletion (.descriptor g) q a data ∨ c = .hostMemoryTimeout (.descriptor g)) :
    exec c s = .next (s.setRingState g ringError) := by
  have hopen : ringState (s.ring g).entry = ringEnabled ∧ (s.ring g).p ≠ (s.ring g).f ∧ addrSpace (ringCommandBase (s.ring g).entry) = 3 :=
    ⟨hon, hleft, h3⟩
  obtain rfl | rfl := hc
  · refine congrArg Host.Outcome.next ?_
    cases q with
    | success => exact absurd rfl hq
    | unsupportedRequest => exact if_pos hopen
    | completerAbort => exact if_pos hopen
    | poisoned => exact if_pos hopen
  · exact congrArg Host.Outcome.next (if_pos hopen)

theorem hostTimeout_recordWrite {s : State} {g : Nat} (hlive : ringState (s.ring g).entry ≠ 0)
    (h3 : addrSpace (ringCompletionBase (s.ring g).entry) = 3 ∨ addrSpace (ringWriteback (s.ring g).entry) = 3) :
    ∃ s', exec (.hostMemoryTimeout (.recordWrite g)) s = .next s' ∧ ringState (s'.ring g).entry = 3 ∧ s'.canRecord g = false ∧
      s'.items = s.items ∧ s'.sameBytes s := by
  have hring : (s.modRing g fun r => { r with noRecord := true }).ring g = { s.ring g with noRecord := true } := by
    rw [State.modRing_ring, if_pos rfl]
  have hopen : ringState (s.ring g).entry ≠ ringDisabled ∧
      (addrSpace (ringCompletionBase (s.ring g).entry) = 3 ∨ addrSpace (ringWriteback (s.ring g).entry) = 3) := ⟨hlive, h3⟩
  obtain ⟨hstate, -, hitems, hbytes⟩ := (s.modRing g fun r => { r with noRecord := true }).setRingState_error g
  have hkept := (s.modRing g fun r => { r with noRecord := true }).setRingState_ring g ringError
  refine ⟨_, congrArg Host.Outcome.next (if_pos hopen), hstate, ?_, hitems, hbytes⟩
  rw [State.canRecord, hkept, hring]
  rfl

/-! ### The device cache, PERST# and the link (R298, R303, R304, R307, R338) -/

theorem cxlSnoop_answers {s : State} (hcxl : s.hif.cxl = true) (hup : s.hostInterfaceUp = true) (line : Nat) (kind : Snoop) :
    ∃ s', exec (.cxlSnoop line kind) s = .next s' ∧ s'.out = s.out ++ [.snoop line (s.hif.deviceCache.contains line)] ∧
      (kind = .invalidate → line ∉ s'.hif.deviceCache) ∧ (kind ≠ .invalidate → s'.hif = s.hif) ∧ s'.sameBytes s := by
  have hon : (s.hif.cxl && s.hostInterfaceUp) = true := by rw [hcxl, hup, Bool.and_true]
  cases kind with
  | invalidate =>
    refine ⟨_, congrArg Host.Outcome.next (if_pos hon), rfl, fun _ => ?_, fun h => absurd rfl h, rfl, rfl, rfl⟩
    exact fun hmem => absurd (List.mem_filter.mp hmem).2 (by simp)
  | data => exact ⟨_, congrArg Host.Outcome.next (if_pos hon), rfl, (nomatch ·), fun _ => rfl, rfl, rfl, rfl⟩
  | current => exact ⟨_, congrArg Host.Outcome.next (if_pos hon), rfl, (nomatch ·), fun _ => rfl, rfl, rfl, rfl⟩

/-- Bit `f` of a register of two, set. -/
theorem getLsbD_set (v : BitVec 2) {f : Nat} (hf : f < 2) : (v ||| (1#2 <<< f)).getLsbD f = true := by simp [hf]

theorem getLsbD_unit_other {f g : Nat} (h : g ≠ f) : (1#2 <<< f).getLsbD g = false := by
  rw [BitVec.getLsbD_shiftLeft, BitVec.getLsbD_ofNat]
  by_cases hg : g < f
  · simp [hg]
  · have hbit : Nat.testBit 1 (g - f) = false := Nat.testBit_lt_two_pow (Nat.one_lt_two_pow (by omega))
    rw [hbit, Bool.and_false, Bool.and_false]

theorem getLsbD_set_other (v : BitVec 2) {f g : Nat} (h : g ≠ f) : (v ||| (1#2 <<< f)).getLsbD g = v.getLsbD g := by
  rw [BitVec.getLsbD_or, getLsbD_unit_other h, Bool.or_false]

theorem getLsbD_clear (v : BitVec 2) (f : Nat) : (v &&& ~~~(1#2 <<< f)).getLsbD f = false := by
  by_cases hf : f < 2
  · simp [hf]
  · exact BitVec.getLsbD_of_ge _ _ (Nat.le_of_not_lt hf)

theorem getLsbD_clear_other (v : BitVec 2) {f g : Nat} (h : g ≠ f) : (v &&& ~~~(1#2 <<< f)).getLsbD g = v.getLsbD g := by
  by_cases hg : g < 2
  · rw [BitVec.getLsbD_and, BitVec.getLsbD_not, getLsbD_unit_other h, decide_eq_true hg, Bool.not_false, Bool.and_self, Bool.and_true]
  · have hge := Nat.le_of_not_lt hg
    exact (BitVec.getLsbD_of_ge _ _ hge).trans (BitVec.getLsbD_of_ge _ _ hge).symm

theorem perstRelease_samples {s : State} (hup : s.hostInterfaceUp = true) {f : Nat} {split : Bool} (hport : ¬(f = 1 ∧ split = false)) (toggles : Bool) :
    ∃ s', exec (.perstRelease f split toggles) s = .next s' ∧ s'.hif.split = split ∧
      (f < 2 → s'.hif.sris.getLsbD f = !toggles) ∧ (∀ g, g ≠ f → s'.hif.sris.getLsbD g = s.hif.sris.getLsbD g) ∧
      s'.hif.configReady.getLsbD f = false ∧ Table.get 0 s'.hif.released f = s.newel.time.toNat + 1 ∧ s'.sameBytes s := by
  have hgo : ¬(!s.hostInterfaceUp ∨ (f = 1 ∧ !split)) := by
    rw [hup]
    simpa using hport
  refine ⟨_, congrArg Host.Outcome.next (if_neg hgo), rfl, fun hf => ?_, fun g hg => ?_, getLsbD_clear _ f, ?_, rfl, rfl, rfl⟩
  · cases toggles with
    | true => exact getLsbD_clear _ f
    | false => exact getLsbD_set _ hf
  · cases toggles with
    | true => exact getLsbD_clear_other _ hg
    | false => exact getLsbD_set_other _ hg
  · exact (Table.get_set 0 s.hif.released f f (s.newel.time.toNat + 1)).trans (if_pos rfl)

theorem hostLinkTrained_reports {s : State} (hup : s.hostInterfaceUp = true) {f : Nat} (hfn : s.functionHere f = true) (speed width : Nat) (cxl : Bool) :
    ∃ s', exec (.hostLinkTrained speed width cxl f) s = .next s' ∧ s'.hif.speed = BitVec.ofNat 3 speed ∧
      s'.hif.width = BitVec.ofNat 5 width ∧ s'.hif.cxl = cxl ∧ s'.hif.departed.getLsbD f = false ∧
      (∀ g, g ≠ f → s'.hif.departed.getLsbD g = s.hif.departed.getLsbD g) ∧ s'.sameBytes s := by
  have hgo : (s.hostInterfaceUp && s.functionHere f) = true := by rw [hup, hfn, Bool.and_true]
  exact ⟨_, congrArg Host.Outcome.next (if_pos hgo), rfl, rfl, rfl, getLsbD_clear _ f, fun _ hg => getLsbD_clear_other _ hg, rfl, rfl, rfl⟩

/-- Settles O53. -/
theorem hostInterface : Obligations.HostInterface := by
  unfold Obligations.HostInterface
  refine ⟨fun s f cause hfn hnodup => ⟨fun hitems hahead => hostDepart_idle hnodup hfn cause hitems hahead,
      fun hoff hcall => hostDepart_users hnodup hfn cause hoff hcall⟩,
    fun s f hup => configRequest_rules hup, fun s f off n data hup => bar4Access_rules hup f off n data,
    fun s i t a data hi hwaits => hostCompletion_rules hi hwaits a data, fun s g q a data hon hleft h3 hq c hc => ?_,
    fun s g hlive h3 => hostTimeout_recordWrite hlive h3, fun s line kind hcxl hup => cxlSnoop_answers hcxl hup line kind,
    fun s f split toggles hup hport => perstRelease_samples hup hport toggles,
    fun s f speed width cxl hup hfn => hostLinkTrained_reports hup hfn speed width cxl⟩
  exact ⟨_, ringError_of_descriptor hon hleft h3 hq hc, s.setRingState_error g⟩

end Sys2Proof.Machine
end

section
/-!
Link loss, frames, credits and express forwarding (R259, R262, R265, R269, R270, R278).
-/
namespace Sys2Proof.Machine

/-! ### Open sends only leave -/

/-- No send is opened or changed. -/
def SendsShrink (s s' : State) : Prop := ∀ x ∈ s'.txs, x ∈ s.txs

theorem SendsShrink.of_txs {s s' : State} (h : s'.txs = s.txs) : SendsShrink s s' := fun _ hx => h ▸ hx
theorem SendsShrink.refl (s : State) : SendsShrink s s := fun _ => id
theorem SendsShrink.trans {s s' s'' : State} (h : SendsShrink s s') (k : SendsShrink s' s'') : SendsShrink s s'' := fun x => h x ∘ k x

theorem SendsShrink.foldl {α : Type} {f : State → α → State} (hf : ∀ s a, SendsShrink s (f s a)) (l : List α) (s : State) :
    SendsShrink s (l.foldl f s) := by
  induction l generalizing s with
  | nil => exact SendsShrink.refl s
  | cons a l ih => exact (hf s a).trans (ih (f s a))

theorem SendsShrink.nil {s s' : State} (h : SendsShrink s s') (hnil : s.txs = []) : s'.txs = [] :=
  List.eq_nil_iff_forall_not_mem.mpr fun x hx => List.not_mem_nil (hnil ▸ h x hx)

theorem State.sendResponse_shrinks (s : State) (p : Nat) (pk : Packet) : SendsShrink s (s.sendResponse p pk) := by
  unfold State.sendResponse State.sendReply
  dsimp only
  split
  · exact SendsShrink.of_txs rfl
  · exact SendsShrink.of_txs rfl

theorem State.releaseLinks_shrinks (s : State) (i : ItemId) : SendsShrink s (s.releaseLinks i) := by
  unfold State.releaseLinks
  dsimp only
  split
  · exact SendsShrink.refl s
  · exact SendsShrink.trans (SendsShrink.foldl (fun u p => SendsShrink.of_txs (s := u) (s' := u.modFlight p fun f => { f with
      channels := f.channels.filter (· != i), held := f.held.filter fun q => !q.2.ofItem i (s.colls.find? fun c => c.item == i) }) rfl)
        (s.flights.map (·.1)) s) fun x hx => (List.mem_filter.mp hx).1

theorem State.leaveFabric_shrinks (s : State) (i : ItemId) (st : Status) : SendsShrink s (s.leaveFabric i st) := by
  unfold State.leaveFabric
  split
  · exact SendsShrink.refl s
  · refine SendsShrink.trans ?_ (State.releaseLinks_shrinks _ i)
    split
    · exact SendsShrink.foldl (fun u q => u.sendResponse_shrinks q _) _ s
    · exact SendsShrink.refl s

theorem State.dropPieces_shrinks (s : State) (i : ItemId) : SendsShrink s (s.dropPieces i) := by
  refine SendsShrink.of_txs ?_
  unfold State.dropPieces
  dsimp only
  split
  · rfl
  · rfl

theorem State.dropArmings_shrinks (s : State) (i : ItemId) : SendsShrink s (s.dropArmings i) :=
  SendsShrink.foldl (f := fun (u : State) (p : Nat × Stream) => u.modStream (p.1 / 4096) (p.1 % 4096) (Stream.without i))
    (fun _ _ => SendsShrink.of_txs rfl) s.streams s

theorem State.modItem_shrinks (s : State) (i : ItemId) (f : Item → Item) : SendsShrink s (s.modItem i f) := SendsShrink.of_txs rfl

theorem State.failOne_shrinks (s : State) (i : ItemId) (st : Status) (u : Nat) : SendsShrink s (s.failOne i st u) :=
  (((s.leaveFabric_shrinks i st).trans (State.dropArmings_shrinks _ i)).trans (State.modItem_shrinks _ i _)).trans (State.dropPieces_shrinks _ i)

theorem State.endCalled_shrinks (n : Nat) (s : State) (c : ItemId) : SendsShrink s (State.endCalled n s c) := by
  induction n generalizing s c with
  | zero => exact SendsShrink.refl s
  | succ n ih => exact SendsShrink.foldl (fun u t => (u.failOne_shrinks _ _ _).trans (ih _ _)) _ s

theorem State.failCallers_shrinks (n : Nat) (s : State) (i : ItemId) : SendsShrink s (State.failCallers n s i) := by
  induction n generalizing s i with
  | zero => exact SendsShrink.refl s
  | succ n ih =>
    unfold State.failCallers
    split
    · exact SendsShrink.refl s
    · split
      · exact SendsShrink.refl s
      · exact (((s.modItem_shrinks _ _).trans (State.dropPieces_shrinks _ _)).trans (State.endCalled_shrinks _ _ _)).trans (ih _ _)

theorem State.failItem_shrinks (s : State) (i : ItemId) (st : Status) : SendsShrink s (s.failItem i st) :=
  ((s.failOne_shrinks i st 0).trans (State.failCallers_shrinks 4 _ i)).trans (State.modItem_shrinks _ i _)

/-! ### What a lost link does to the items that use it -/

/-- Where no send is in its catch-up, a lost link moves no byte. -/
theorem State.loseItem_plain {s : State} (h : ∀ x ∈ s.txs, x.catchUp = false) (l : LinkId) (st : Status) (i : ItemId) :
    (s.loseItem l st i).sameBytes s ∧ SendsShrink s (s.loseItem l st i) := by
  have hnone : (s.txs.find? fun x => x.item == i && x.catchUp) = none := by
    refine List.find?_eq_none.mpr fun x hx => ?_
    rw [h x hx, Bool.and_false]
    exact Bool.false_ne_true
  simp only [State.loseItem, hnone]
  split
  · have hleft := (State.leaveFabric_quiet i st (Quiet.refl s)).sameBytes
    have hshrinks := s.leaveFabric_shrinks i st
    unfold State.cutUpdate
    dsimp only
    rw [State.foldl_modSelv_rest _ _ fun _ _ => rfl]
    exact ⟨hleft, hshrinks⟩
  · exact ⟨(s.failItem_isQuiet i st).sameBytes, s.failItem_shrinks i st⟩

theorem State.foldl_loseItem_sameBytes (l : LinkId) (st : Status) (is : List ItemId) {s : State} (h : ∀ x ∈ s.txs, x.catchUp = false) :
    (is.foldl (fun u i => u.loseItem l st i) s).sameBytes s := by
  induction is generalizing s with
  | nil => exact ⟨rfl, rfl, rfl⟩
  | cons i is ih =>
    obtain ⟨hbytes, hshrinks⟩ := State.loseItem_plain h l st i
    exact State.sameBytes_trans (ih fun x hx => h x (hshrinks x hx)) hbytes

theorem State.failOnLink_sameBytes {s : State} (h : ∀ x ∈ s.txs, x.catchUp = false) (l : LinkId) (st : Status) : (s.failOnLink l st).sameBytes s :=
  State.foldl_loseItem_sameBytes l st _ h

theorem State.updateRuns_of_selvs {s s' : State} (h : s'.selvs = s.selvs) (i : ItemId) : s'.updateRuns i = s.updateRuns i := by
  rw [State.updateRuns, h, State.updateRuns]

theorem State.updateRuns_of_quiet {s s' : State} (h : Quiet s s') (i : ItemId) : s'.updateRuns i = s.updateRuns i :=
  State.updateRuns_of_selvs (by rw [h.rest]) i

/-- With no send open and no update running, every item that uses the link fails. -/
theorem State.foldl_loseItem_fails (l : LinkId) (st : Status) (is : List ItemId) {s : State} (hsends : s.txs = [])
    (hruns : ∀ i, s.updateRuns i = false) : is.foldl (fun u i => u.loseItem l st i) s = is.foldl (fun u i => u.failItem i st) s := by
  induction is generalizing s with
  | nil => rfl
  | cons i is ih =>
    have hone : s.loseItem l st i = s.failItem i st := by
      simp only [State.loseItem, hsends, List.find?_nil, hruns, Bool.false_eq_true, if_false]
    rw [List.foldl_cons, List.foldl_cons, hone]
    refine ih ((s.failItem_shrinks i st).nil hsends) fun j => ?_
    rw [State.updateRuns_of_quiet (s.failItem_isQuiet i st), hruns]

theorem State.foldl_failItem_uncalled {st : Status} (l : List ItemId) {s : State} (h : s.uncalled) :
    (l.foldl (fun u i => u.failItem i st) s).uncalled := by
  induction l generalizing s with
  | nil => exact h
  | cons i l ih => exact ih (State.failItem_uncalled h i st)

/-- What a lost link fails: the collectives whose group includes it, and the receivers that name its axis. -/
theorem State.lossFailed_fails {s : State} (l : LinkId) (hsends : s.txs = []) (hruns : ∀ i, s.updateRuns i = false)
    (hitems : ∀ u ∈ s.items, u.caller = none ∧ u.failedAt = none) :
    (∀ k ∈ s.colls, (s.item k.item).isSome = true → l ∈ s.groupLinks k.axis k.tag k.group → (s.lossFailed l).FailedAlone k.item .peerLost) ∧
      ∀ t, s.item t.id = some t → recvOnAxis l.axis t = true → (s.lossFailed l).FailedAlone t.id .peerLost := by
  have hcall : s.uncalled := State.uncalled_of_items fun u hu => (hitems u hu).1
  have hfirst : ∀ i t, s.item i = some t → t.failedAt = none := fun i t ht => (hitems t (List.mem_of_find?_eq_some ht)).2
  rw [State.lossFailed, State.failOnLink, State.foldl_loseItem_fails l _ _ hsends hruns]
  generalize hlist : s.fabricItems.filter (s.usesLink l) = is
  have hcall' := State.foldl_failItem_uncalled (st := .peerLost) is hcall
  have heach : ∀ i t, s.item i = some t → (i ∈ is → (is.foldl (fun u i => u.failItem i .peerLost) s).FailedAlone i .peerLost) ∧
      (i ∉ is → (is.foldl (fun u i => u.failItem i .peerLost) s).item i = some t) := fun i t ht =>
    ⟨fun hmem => State.foldl_failItem_alone is hcall (Or.inr ⟨hmem, t, ht, hfirst i t ht⟩),
      fun hnot => (State.foldl_failItem_apart is hcall hnot).trans ht⟩
  generalize is.foldl (fun u i => u.failItem i .peerLost) s = v at hcall' heach
  have hmap : ∀ ts : List Item, ts.foldl (fun u t => u.failItem t.id .peerLost) v = (ts.map (·.id)).foldl (fun u i => u.failItem i .peerLost) v :=
    fun ts => (List.foldl_map (f := fun t : Item => t.id) (g := fun (u : State) i => u.failItem i .peerLost)).symm
  rw [hmap]
  refine ⟨fun k hk hsome hlink => ?_, fun t ht hrecv => ?_⟩
  · obtain ⟨t, ht⟩ := Option.isSome_iff_exists.mp hsome
    have hmem : k.item ∈ is := by
      rw [← hlist]
      refine List.mem_filter.mpr ⟨List.mem_append_left _ (List.mem_map.mpr ⟨k, hk, rfl⟩), ?_⟩
      rw [State.usesLink, Bool.or_eq_true]
      refine Or.inl (List.any_eq_true.mpr ⟨k, hk, ?_⟩)
      rw [beq_self_eq_true, Bool.true_and]
      exact List.contains_iff_mem.mpr hlink
    exact State.foldl_failItem_alone _ hcall' (Or.inl ((heach _ t ht).1 hmem))
  · obtain ⟨hin, hout⟩ := heach t.id t ht
    by_cases hmem : t.id ∈ is
    · exact State.foldl_failItem_alone _ hcall' (Or.inl (hin hmem))
    · have hstay := hout hmem
      refine State.foldl_failItem_alone _ hcall' (Or.inr ⟨List.mem_map.mpr ⟨t, ?_, rfl⟩, t, hstay, hfirst _ t ht⟩)
      exact List.mem_filter.mpr ⟨List.mem_of_find?_eq_some hstay, hrecv⟩

theorem State.lossFailed_sameBytes {s : State} (h : ∀ x ∈ s.txs, x.catchUp = false) (l : LinkId) : (s.lossFailed l).sameBytes s :=
  State.sameBytes_trans (State.foldl_failItem_quiet _ _ _).sameBytes (State.failOnLink_sameBytes h l .peerLost)

theorem State.FailedAlone.finish {s : State} {i : ItemId} {st : Status} (h : s.FailedAlone i st) (j : ItemId) (n : Nat) :
    (s.finish j n).FailedAlone i st := by
  obtain ⟨t, ht, hcall, hphase, hstatus⟩ := h
  have hitem := s.finish_item j i n
  by_cases hj : j = i
  · rw [if_pos hj, ht] at hitem
    exact ⟨_, hitem, hcall, rfl, hstatus⟩
  · rw [if_neg hj, ht] at hitem
    exact ⟨t, hitem, hcall, hphase, hstatus⟩

theorem State.FailedAlone.settleCloses {s : State} {i : ItemId} {st : Status} (h : s.FailedAlone i st) : s.settleCloses.FailedAlone i st := by
  unfold State.settleCloses
  generalize (s.items.filter fun t => t.op == some .windowClose && t.phase == .external && !(s.rxs.any fun r => r.closers.contains t.id)) = l
  induction l generalizing s with
  | nil => exact h
  | cons t l ih => exact ih (h.finish t.id 0)

theorem State.settleCloses_sameBytes (s : State) : s.settleCloses.sameBytes s :=
  (Quiet.foldl _ _ (Quiet.refl s) fun _ _ h => State.finish_quiet _ _ h).sameBytes

/-! ### A port that goes down (R269) -/

theorem State.lossShown_rest (s : State) (p : Nat) : (s.lossShown p).items = s.items ∧ (s.lossShown p).txs = s.txs ∧ (s.lossShown p).colls = s.colls ∧
    (s.lossShown p).selvs = s.selvs ∧ (s.lossShown p).xprCoord = s.xprCoord ∧ (s.lossShown p).part = s.part ∧ (s.lossShown p).sameBytes s := by
  unfold State.lossShown
  rw [State.event_rest]
  exact ⟨rfl, rfl, rfl, rfl, rfl, rfl, rfl, rfl, rfl⟩

theorem State.lossShown_knots (s : State) (p : Nat) : (s.lossShown p).knots = s.knots := by
  unfold State.lossShown
  rw [State.event_rest]
  rfl

theorem State.lossShown_counter (s : State) (p : Nat) : (s.lossShown p).counter (pgFlight p) 0x21 = s.counter (pgFlight p) 0x21 + 1 := by
  have hcount : ((s.dropPort p).event (pgFlight p) 0).counter (pgFlight p) 0x21 = s.counter (pgFlight p) 0x21 := by
    rw [State.event_rest]
    rfl
  have hbump := ((s.dropPort p).event (pgFlight p) 0).bump_counter (pgFlight p) 0x21 1 (pgFlight p) 0x21
  rw [if_pos rfl, hcount] at hbump
  exact hbump

theorem State.lossShown_page (s : State) (p : Nat) : ((s.lossShown p).page (pgFlight p)).raw.getLsbD 0 = true := by
  have hpage : (s.lossShown p).page (pgFlight p) = ((s.dropPort p).page (pgFlight p)).withEvent 0 := State.event_page_self _ _ _
  rw [hpage]
  exact Page.withEvent_raw (by decide) _

theorem State.declareDown_enable (s : State) (p : Nat) : ((s.declareDown p).flight p).enable = (s.flight p).enable := by
  have hshown : ((s.lossShown p).flight p).enable = (s.flight p).enable := by
    have hflight : (s.lossShown p).flight p = (s.dropPort p).flight p := State.flight_of_flights (State.event_flights _ _ _) p
    rw [hflight, State.dropPort_flight, if_pos rfl]
  exact ((s.declareDown_sheds p).links p).1.trans hshown

theorem State.lossShown_fabric (s : State) (p : Nat) : (∀ x ∈ (s.lossShown p).rxs, x.port ≠ p) ∧
    (∀ x ∈ (s.lossShown p).transits, x.port ≠ p ∧ x.out ≠ p) ∧ ∀ x ∈ (s.lossShown p).passages, x.port ≠ p ∧ x.out ≠ p := by
  have hrest : (s.lossShown p).rxs = s.rxs.filter (fun r => r.port != p) ∧
      (s.lossShown p).transits = s.transits.filter (fun x => x.port != p && x.out != p) ∧
      (s.lossShown p).passages = s.passages.filter fun x => x.port != p && x.out != p := by
    unfold State.lossShown
    rw [State.event_rest]
    exact ⟨rfl, rfl, rfl⟩
  obtain ⟨hrxs, htransits, hpassages⟩ := hrest
  rw [hrxs, htransits, hpassages]
  refine ⟨fun x hx => ?_, fun x hx => ?_, fun x hx => ?_⟩
  · simpa using (List.mem_filter.mp hx).2
  · simpa using (List.mem_filter.mp hx).2
  · simpa using (List.mem_filter.mp hx).2

theorem State.lossSent_quiet (s : State) (l : LinkId) : Quiet s (s.lossSent l) :=
  Quiet.foldl _ _ (Quiet.refl s) fun _ _ h => State.sendResponse_quiet _ _ h

theorem State.lossSent_shrinks (s : State) (l : LinkId) : SendsShrink s (s.lossSent l) :=
  SendsShrink.foldl (f := fun (u : State) (q : Nat) => u.sendResponse q (.loss l.axis l.lower l.lane)) (fun u q => u.sendResponse_shrinks q _) _ s

theorem State.sendResponse_rest (s : State) (p : Nat) (pk : Packet) : s.sendResponse p pk = { s with
    out := (s.sendResponse p pk).out, flights := (s.sendResponse p pk).flights } := by
  unfold State.sendResponse State.sendReply
  dsimp only
  split
  · rfl
  · rfl

theorem State.lossSent_rest (s : State) (l : LinkId) : s.lossSent l = { s with out := (s.lossSent l).out, flights := (s.lossSent l).flights } := by
  unfold State.lossSent
  generalize s.bothWays l.axis l.lane = qs
  induction qs generalizing s with
  | nil => rfl
  | cons q qs ih =>
    rw [List.foldl_cons]
    refine (ih _).trans ?_
    rw [State.sendResponse_rest s]

/-- A port that goes down moves no byte, where no send is in its catch-up. -/
theorem State.declareDown_sameBytes {s : State} (h : ∀ x ∈ s.txs, x.catchUp = false) (p : Nat) : (s.declareDown p).sameBytes s := by
  obtain ⟨-, htxs, -, -, -, -, hbytes⟩ := s.lossShown_rest p
  have hsent := (s.lossShown p).lossSent_quiet (s.portLink p)
  have hplain : ∀ x ∈ ((s.lossShown p).lossSent (s.portLink p)).txs, x.catchUp = false := fun x hx =>
    h x (htxs ▸ (s.lossShown p).lossSent_shrinks (s.portLink p) x hx)
  rw [State.declareDown_eq]
  exact State.sameBytes_trans (State.settleCloses_sameBytes _)
    (State.sameBytes_trans (State.lossFailed_sameBytes hplain _) (State.sameBytes_trans hsent.sameBytes hbytes))

theorem State.groupLinks_of_place {s s' : State} (hcoord : s'.xprCoord = s.xprCoord) (hpart : s'.part = s.part) (a : Axis) (tag g : Nat) :
    s'.groupLinks a tag g = s.groupLinks a tag g := by
  have hsize : s'.axisSize a = s.axisSize a := by rw [State.axisSize, hcoord, State.axisSize]
  have hplace : s'.coord a = s.coord a := by rw [State.coord, hcoord, State.coord]
  have hway : s'.tagWay tag = s.tagWay tag := by rw [State.tagWay, hpart, State.tagWay]
  rw [State.groupLinks, hsize, hplace, hway, State.groupLinks]

/-- The collectives whose group includes the link of the port fail. -/
theorem State.declareDown_fails {s : State} (p : Nat) (hsends : s.txs = []) (hruns : ∀ i, s.updateRuns i = false)
    (hitems : ∀ u ∈ s.items, u.caller = none ∧ u.failedAt = none) {c : Collective} (hc : c ∈ s.colls) (hsome : (s.item c.item).isSome = true)
    (hlink : s.portLink p ∈ s.groupLinks c.axis c.tag c.group) : (s.declareDown p).failedWith c.item .peerLost := by
  obtain ⟨hitems', htxs, hcolls, hselvs, hcoord, hpart, -⟩ := s.lossShown_rest p
  have hsent := (s.lossShown p).lossSent_rest (s.portLink p)
  rw [State.declareDown_eq]
  generalize s.lossShown p = u at hitems' htxs hcolls hselvs hcoord hpart hsent ⊢
  generalize u.lossSent (s.portLink p) = v at hsent ⊢
  have hvitems : v.items = s.items := by rw [hsent]; exact hitems'
  have hvtxs : v.txs = [] := by rw [hsent]; exact htxs.trans hsends
  have hvcolls : v.colls = s.colls := by rw [hsent]; exact hcolls
  have hvselvs : v.selvs = s.selvs := by rw [hsent]; exact hselvs
  have hvlinks : v.groupLinks c.axis c.tag c.group = s.groupLinks c.axis c.tag c.group := by
    have hvcoord : v.xprCoord = s.xprCoord := by rw [hsent]; exact hcoord
    have hvpart : v.part = s.part := by rw [hsent]; exact hpart
    exact State.groupLinks_of_place hvcoord hvpart _ _ _
  have hfails := State.lossFailed_fails (s := v) (s.portLink p) hvtxs
    (fun i => (State.updateRuns_of_selvs hvselvs i).trans (hruns i)) (hvitems ▸ hitems)
  refine (hfails.1 c (hvcolls ▸ hc) ?_ (hvlinks ▸ hlink)).settleCloses.failedWith
  rw [State.item, hvitems]
  exact hsome

theorem linkDown_early {s : State} {p : Nat} (h : s.newel.time.toNat < (s.flight p).heardAt.toNat + 10000 * (s.flight p).linkTo.toNat) :
    exec (.linkDown p) s = .next s := by
  refine congrArg Host.Outcome.next (if_neg ?_)
  rw [decide_eq_true_eq]
  exact Nat.not_le_of_gt h

theorem exec_linkDown {s : State} {p : Nat} (hup : s.portUp p = true)
    (h : (s.flight p).heardAt.toNat + 10000 * (s.flight p).linkTo.toNat ≤ s.newel.time.toNat) :
    exec (.linkDown p) s = .next (if (s.flight p).enable then s.declareDown p else (s.declareDown p).modFlight p fun f => { f with link := .disabled }) := by
  refine congrArg Host.Outcome.next ?_
  have hlate : s.linkTimeout p = s.linkDown p := if_pos (decide_eq_true h)
  rw [hlate, State.linkDown, if_pos hup]
  dsimp only
  rw [State.declareDown_enable]

/-- R269: what becomes of a port whose link timeout has passed. -/
theorem linkDown_declares {s : State} {p : Nat} (hup : s.portUp p = true)
    (h : (s.flight p).heardAt.toNat + 10000 * (s.flight p).linkTo.toNat ≤ s.newel.time.toNat) :
    ∃ s', exec (.linkDown p) s = .next s' ∧ (s'.flight p).link = (if (s.flight p).enable then .down else .disabled) ∧
      (s'.page (pgFlight p)).raw.getLsbD 0 = true ∧ s'.counter (pgFlight p) 0x21 = s.counter (pgFlight p) 0x21 + 1 ∧
      ((∀ x ∈ s.txs, x.catchUp = false) → s'.sameBytes s) ∧ s'.knots = s.knots ∧ (∀ x ∈ s'.rxs, x.port ≠ p) ∧
      (∀ x ∈ s'.transits, x.port ≠ p ∧ x.out ≠ p) ∧ (∀ x ∈ s'.passages, x.port ≠ p ∧ x.out ≠ p) ∧
      (s.txs = [] → (∀ i, s.updateRuns i = false) → (∀ u ∈ s.items, u.caller = none ∧ u.failedAt = none) → ∀ c ∈ s.colls,
        (s.item c.item).isSome = true → s.portLink p ∈ s.groupLinks c.axis c.tag c.group → s'.failedWith c.item .peerLost) := by
  have hsheds := s.declareDown_sheds p
  obtain ⟨hrxs, htransits, hpassages⟩ := s.lossShown_fabric p
  have hpage : ((s.declareDown p).page (pgFlight p)).raw.getLsbD 0 = true := by
    rw [State.page, hsheds.pages]
    exact s.lossShown_page p
  have hcounter := (hsheds.losses p).trans (s.lossShown_counter p)
  have hknots := hsheds.knots.trans (s.lossShown_knots p)
  have hlink := hsheds.links.down (s.lossShown_flight p)
  have hbytes := fun hplain => State.declareDown_sameBytes (s := s) hplain p
  have hfails := fun hsends hruns hitems c hc hsome hl => State.declareDown_fails (s := s) p hsends hruns hitems (c := c) hc hsome hl
  have hrxs' := fun x hx => hrxs x (hsheds.rxs x hx)
  have htransits' := fun x hx => htransits x (hsheds.transits x hx)
  have hpassages' := fun x hx => hpassages x (hsheds.passages x hx)
  refine ⟨_, exec_linkDown hup h, ?_⟩
  clear hsheds
  generalize s.declareDown p = u at hpage hcounter hknots hlink hbytes hfails hrxs' htransits' hpassages' ⊢
  by_cases hon : (s.flight p).enable = true
  · rw [if_pos hon, if_pos hon]
    exact ⟨hlink, hpage, hcounter, hbytes, hknots, hrxs', htransits', hpassages', hfails⟩
  · rw [if_neg hon, if_neg hon]
    refine ⟨?_, hpage, hcounter, hbytes, hknots, hrxs', htransits', hpassages', hfails⟩
    rw [State.modFlight_self]

/-! ### A loss notice (R187, R269) -/

/-- A port has heard something: at most its own time moves. -/
theorem State.hear_rest (s : State) (p : Nat) : s.hear p = { s with flights := (s.hear p).flights } := by
  unfold State.hear
  split
  · rfl
  · rfl

theorem State.hear_flights (s : State) (p q : Nat) : (s.hear p).flight q = { s.flight q with heardAt := ((s.hear p).flight q).heardAt } := by
  unfold State.hear
  split
  · rfl
  · rw [State.modFlight_flight]
    split
    case isTrue heq => rw [heq]
    case isFalse => rfl

theorem State.hear_paused (s : State) (p q : Nat) : ((s.hear p).flight q).paused = (s.flight q).paused := by rw [State.hear_flights]
theorem State.hear_link (s : State) (p q : Nat) : ((s.hear p).flight q).link = (s.flight q).link := by rw [State.hear_flights]
theorem State.hear_mode (s : State) (p q : Nat) : ((s.hear p).flight q).mode = (s.flight q).mode := by rw [State.hear_flights]
theorem State.hear_inbox (s : State) (p q : Nat) : ((s.hear p).flight q).inbox = (s.flight q).inbox := by rw [State.hear_flights]

theorem State.hear_frameOf (s : State) (p q prio : Nat) (ty : BitVec 16) : (s.hear p).frameOf q prio ty = s.frameOf q prio ty := by
  have hpeer : ((s.hear p).flight q).ethPeer = (s.flight q).ethPeer := by rw [State.hear_flights]
  have hpart : (s.hear p).part = s.part := by rw [State.hear_rest]
  rw [State.frameOf, s.hear_mode p q, hpeer, hpart, State.frameOf]

theorem State.linkVc_of_place {s s' : State} (hcoord : s'.xprCoord = s.xprCoord) (p vc : Nat) : s'.linkVc p vc = s.linkVc p vc := by
  have hsize : ∀ a, s'.axisSize a = s.axisSize a := fun a => by rw [State.axisSize, hcoord, State.axisSize]
  have hplace : ∀ a, s'.coord a = s.coord a := fun a => by rw [State.coord, hcoord, State.coord]
  rw [State.linkVc, State.portLink, hsize, hplace, State.linkVc, State.portLink]

theorem State.hear_response (s : State) (p q : Nat) (pk : Packet) (express : Bool) (vc : Nat) :
    (s.hear p).response q pk express vc = s.response q pk express vc := by
  have hcoord : (s.hear p).xprCoord = s.xprCoord := by rw [State.hear_rest]
  rw [State.response, State.linkVc_of_place hcoord, State.hear_frameOf, State.response]

theorem State.hear_portUp (s : State) (p q : Nat) : (s.hear p).portUp q = s.portUp q := by
  have hlink := s.hear_link p q
  have hrest := s.hear_rest p
  generalize s.hear p = u at hlink hrest
  have hboot : u.boot = s.boot := by rw [hrest]
  have hpart : u.part = s.part := by rw [hrest]
  rw [State.portUp, hlink, State.flightAbsent, hboot, hpart, State.portUp, State.flightAbsent]

/-- The onward notice of a loss: sent as far as the link's ends. -/
def State.lossPassed (s : State) (p : Nat) (a : Axis) (c l : Nat) : State :=
  if !(s.coord a == c || s.coord a == (c + 1) % s.axisSize a) && s.portUp (axisPort a (!portPlus p) (p % 2)) then
    s.sendReply (axisPort a (!portPlus p) (p % 2)) false (s.arrivedVc p (if portPlus p then c else (c + 1) % s.axisSize a)) (.loss a c l)
  else s

theorem State.lossNotice_eq (s : State) (p : Nat) (a : Axis) (c l : Nat) :
    s.lossNotice p a c l = ((s.hear p).lossPassed p a c l).lossFailed ⟨a, c, l⟩ := rfl

theorem State.sendReply_rest (s : State) (p : Nat) (express : Bool) (vc : Nat) (pk : Packet) : s.sendReply p express vc pk = { s with
    out := (s.sendReply p express vc pk).out, flights := (s.sendReply p express vc pk).flights } := by
  unfold State.sendReply
  dsimp only
  split
  · rfl
  · rfl

theorem State.lossPassed_rest (s : State) (p : Nat) (a : Axis) (c l : Nat) : s.lossPassed p a c l = { s with
    out := (s.lossPassed p a c l).out, flights := (s.lossPassed p a c l).flights } := by
  unfold State.lossPassed
  split
  · exact State.sendReply_rest _ _ _ _ _
  · rfl

theorem State.sendReply_unpaused {s : State} {p : Nat} (h : (s.flight p).paused = 0) (express : Bool) (vc : Nat) (pk : Packet) :
    s.sendReply p express vc pk = s.emit (s.response p pk express vc) := by
  unfold State.sendReply
  dsimp only
  rw [h, if_neg]
  · rfl
  · simp

theorem State.lossPassed_out {s : State} {p : Nat} {a : Axis} (h : (s.flight (axisPort a (!portPlus p) (p % 2))).paused = 0) (c l : Nat) :
    ((s.hear p).lossPassed p a c l).out = s.out ++
      if s.coord a ≠ c ∧ s.coord a ≠ (c + 1) % s.axisSize a ∧ s.portUp (axisPort a (!portPlus p) (p % 2)) = true then
        [s.response (axisPort a (!portPlus p) (p % 2)) (.loss a c l) false (s.arrivedVc p (if portPlus p then c else (c + 1) % s.axisSize a))] else [] := by
  have hrest := s.hear_rest p
  have hcoord : (s.hear p).xprCoord = s.xprCoord := by rw [hrest]
  have hsize : (s.hear p).axisSize a = s.axisSize a := by rw [State.axisSize, hcoord, State.axisSize]
  have hplace : ∀ b, (s.hear p).coord b = s.coord b := fun b => by rw [State.coord, hcoord, State.coord]
  have hvc : ∀ x, (s.hear p).arrivedVc p x = s.arrivedVc p x := fun x => by rw [State.arrivedVc, hplace, State.arrivedVc]
  have hout : (s.hear p).out = s.out := by rw [hrest]
  have hpaused := (s.hear_paused p (axisPort a (!portPlus p) (p % 2))).trans h
  have hgoes : (!(s.coord a == c || s.coord a == (c + 1) % s.axisSize a) && s.portUp (axisPort a (!portPlus p) (p % 2))) = true ↔
      s.coord a ≠ c ∧ s.coord a ≠ (c + 1) % s.axisSize a ∧ s.portUp (axisPort a (!portPlus p) (p % 2)) = true := by
    simp only [Bool.and_eq_true, Bool.not_eq_true', Bool.or_eq_false_iff, beq_eq_false_iff_ne, and_assoc]
  rw [State.lossPassed, hplace, hsize, s.hear_portUp]
  by_cases hgo : s.coord a ≠ c ∧ s.coord a ≠ (c + 1) % s.axisSize a ∧ s.portUp (axisPort a (!portPlus p) (p % 2)) = true
  · rw [if_pos (hgoes.mpr hgo), if_pos hgo, State.sendReply_unpaused hpaused, hvc, s.hear_response]
    exact congrArg (· ++ _) hout
  · rw [if_neg (mt hgoes.mp hgo), if_neg hgo, List.append_nil, hout]

theorem State.lossPassed_kept (s : State) (p : Nat) (a : Axis) (c l : Nat) : ((s.hear p).lossPassed p a c l).items = s.items ∧
    ((s.hear p).lossPassed p a c l).txs = s.txs ∧ ((s.hear p).lossPassed p a c l).colls = s.colls ∧
    ((s.hear p).lossPassed p a c l).selvs = s.selvs ∧ ((s.hear p).lossPassed p a c l).xprCoord = s.xprCoord ∧
    ((s.hear p).lossPassed p a c l).part = s.part ∧ ((s.hear p).lossPassed p a c l).knots = s.knots ∧
    ((s.hear p).lossPassed p a c l).sameBytes s := by
  have hrest := (s.hear p).lossPassed_rest p a c l
  have hhear := s.hear_rest p
  generalize (s.hear p).lossPassed p a c l = v at hrest ⊢
  generalize s.hear p = u at hrest hhear
  rw [hrest, hhear]
  exact ⟨rfl, rfl, rfl, rfl, rfl, rfl, rfl, rfl, rfl, rfl⟩

theorem State.lossFailed_of_empty {s : State} (l : LinkId) (hcolls : s.colls = []) (hsends : s.txs = []) (hitems : s.items = []) :
    s.lossFailed l = s := by
  have hlink : s.failOnLink l .peerLost = s := by
    rw [State.failOnLink, State.fabricItems, hcolls, hsends]
    rfl
  rw [State.lossFailed, hlink, hitems]
  rfl

/-- R187, R269: what a loss notice does. -/
theorem lossNotice_fails {s : State} (p : Nat) (a : Axis) (c l : Nat) (hsends : s.txs = []) (hruns : ∀ i, s.updateRuns i = false)
    (hitems : ∀ u ∈ s.items, u.caller = none ∧ u.failedAt = none) :
    let onward := axisPort a (!portPlus p) (p % 2)
    ∃ s', exec (.lossNotice p a c l) s = .next s' ∧ s'.sameBytes s ∧ s'.knots = s.knots ∧
      (∀ k ∈ s.colls, (s.item k.item).isSome = true → (⟨a, c, l⟩ : LinkId) ∈ s.groupLinks k.axis k.tag k.group →
        s'.failedWith k.item .peerLost) ∧
      (∀ t, s.item t.id = some t → recvOnAxis a t = true → s'.failedWith t.id .peerLost) ∧
      (s.colls = [] → s.items = [] → (s.flight onward).paused = 0 → s'.out = s.out ++
        if s.coord a ≠ c ∧ s.coord a ≠ (c + 1) % s.axisSize a ∧ s.portUp onward = true then
          [s.response onward (.loss a c l) false (s.arrivedVc p (if portPlus p then c else (c + 1) % s.axisSize a))] else []) := by
  have hout := fun h => State.lossPassed_out (s := s) (p := p) (a := a) h c l
  obtain ⟨hitems', htxs, hcolls, hselvs, hcoord, hpart, hknots, hbytes⟩ := s.lossPassed_kept p a c l
  refine ⟨_, congrArg Host.Outcome.next (s.lossNotice_eq p a c l), ?_⟩
  generalize (s.hear p).lossPassed p a c l = u at hout hitems' htxs hcolls hselvs hcoord hpart hknots hbytes ⊢
  have hsends' : u.txs = [] := htxs.trans hsends
  have hfind : ∀ i, u.item i = s.item i := fun i => by rw [State.item, hitems', State.item]
  obtain ⟨hmembers, hreceivers⟩ := State.lossFailed_fails ⟨a, c, l⟩ hsends' (fun i => (State.updateRuns_of_selvs hselvs i).trans (hruns i))
    (hitems' ▸ hitems)
  refine ⟨State.sameBytes_trans (State.lossFailed_sameBytes (by rw [hsends']; exact nofun) _) hbytes, (u.lossFailed_sheds _).knots.trans hknots,
    fun k hk hsome hlink => ?_, fun t ht hrecv => (hreceivers t ((hfind _).trans ht) hrecv).failedWith, fun hnone hidle hpaused => ?_⟩
  · exact (hmembers k (hcolls ▸ hk) ((congrArg Option.isSome (hfind _)).trans hsome)
      ((State.groupLinks_of_place hcoord hpart _ _ _) ▸ hlink)).failedWith
  · rw [State.lossFailed_of_empty _ (hcolls.trans hnone) hsends' (hitems'.trans hidle)]
    exact hout hpaused

/-! ### Frames, pauses and credits (R259, R265) -/

theorem frameReceive_takes {s : State} {p : Nat} (hhere : s.flightAbsent p = false) (hmode : (s.flight p).mode = true)
    (hlink : (s.flight p).link ≠ .disabled) (ty : BitVec 16) (prio : Nat) :
    exec (.frameReceive p ty prio) s = .next (if ty = 0x88F7 ∨ (ty = 0x88B5 ∧ 4 ≤ prio ∧ prio ≤ 7) then s.hear p else s.bump (pgFlight p) 0x20 1) := by
  refine congrArg Host.Outcome.next ?_
  have hon : ¬(s.flightAbsent p || !(s.flight p).mode || (s.flight p).link == .disabled) = true := by
    rw [hhere, hmode, beq_eq_false_iff_ne.mpr hlink]
    decide
  rw [State.frameReceive, if_neg hon]
  rfl

theorem State.flushHeld_idle {s : State} {p : Nat} (hheld : (s.flight p).held = []) (hreplies : (s.flight p).replies = []) :
    s.flushHeld p = s.modFlight p fun f => { f with replies := [] } := by
  have hcongr : s.modFlight p (fun f => { f with replies := f.replies.filter fun q => f.paused.getLsbD q.1 }) =
      s.modFlight p fun f => { f with replies := [] } := by
    rw [State.modFlight, State.modFlight, hreplies]
    rfl
  rw [State.flushHeld, hcongr, hheld, hreplies]
  rfl

theorem pfcFrame_pauses {s : State} {p : Nat} (hhere : s.flightAbsent p = false) (hmode : (s.flight p).mode = true) (hheld : (s.flight p).held = [])
    (hreplies : (s.flight p).replies = []) (b : BitVec 8) :
    ∃ s', exec (.pfcFrame p b) s = .next s' ∧ s'.flight p = { s.flight p with paused := b &&& 0xF0 } ∧
      (∀ q, q ≠ p → s'.flight q = s.flight q) ∧ s'.out = s.out := by
  have hon : ¬(s.flightAbsent p || !(s.flight p).mode) = true := by
    rw [hhere, hmode]
    decide
  have hself := s.modFlight_self p fun f => { f with paused := b &&& 0xF0 }
  have hother := (s.modFlight_only p fun f => { f with paused := b &&& 0xF0 }).others
  refine ⟨_, congrArg Host.Outcome.next (if_neg hon), ?_⟩
  generalize hu : s.modFlight p (fun f => { f with paused := b &&& 0xF0 }) = u at hself hother ⊢
  have hout : u.out = s.out := by rw [← hu]; rfl
  rw [State.flushHeld_idle (by rw [hself]; exact hheld) (by rw [hself]; exact hreplies)]
  refine ⟨?_, fun q hq => ?_, hout⟩
  · rw [State.modFlight_self, hself, ← hreplies]
  · rw [(u.modFlight_only p _).others q hq, hother q hq]

theorem Flight.refill_held (express : Bool) (n : Nat) (f : Flight) : (f.refill express n).held = f.held := by
  cases express with
  | true => rfl
  | false => rfl

theorem Flight.refill_replies (express : Bool) (n : Nat) (f : Flight) : (f.refill express n).replies = f.replies := by
  cases express with
  | true => rfl
  | false => rfl

theorem creditReceive_refills {s : State} {p : Nat} (hup : s.portUp p = true) (hheld : (s.flight p).held = []) (hreplies : (s.flight p).replies = [])
    (hcolls : s.colls = []) (n : Nat) (express : Bool) :
    ∃ s', exec (.creditReceive p n express) s = .next s' ∧
      (s'.flight p).credits = (if express then (s.flight p).credits else Nat.min 192 ((s.flight p).credits + n)) ∧
      (s'.flight p).xcredits = (if express then Nat.min 32 ((s.flight p).xcredits + n) else (s.flight p).xcredits) ∧
      (∀ q, q ≠ p → s'.flight q = s.flight q) ∧ s'.out = s.out := by
  have hheard := s.hear_flights p p
  have hothers : ∀ q, q ≠ p → (s.hear p).flight q = s.flight q := by
    intro q hq
    unfold State.hear
    split
    · rfl
    · exact (s.modFlight_only p _).others q hq
  have hout : (s.hear p).out = s.out := by rw [State.hear_rest]
  have hcolls' : (s.hear p).colls = [] := by rw [State.hear_rest]; exact hcolls
  have hgo : s.creditReceive p n express = (((((s.hear p).modFlight p (Flight.refill express n)).flushHeld p).colls.map fun c => (c.axis, c.tag)).foldl
      (fun u x => u.settleCollective x.1 x.2) (((s.hear p).modFlight p (Flight.refill express n)).flushHeld p)) := if_pos hup
  generalize s.hear p = u at hheard hothers hout hcolls' hgo
  have hheld' : (u.flight p).held = [] := by rw [hheard]; exact hheld
  have hreplies' : (u.flight p).replies = [] := by rw [hheard]; exact hreplies
  have hcredits : (u.flight p).credits = (s.flight p).credits := by rw [hheard]
  have hxcredits : (u.flight p).xcredits = (s.flight p).xcredits := by rw [hheard]
  have hself := u.modFlight_self p (Flight.refill express n)
  have hidle : (u.modFlight p (Flight.refill express n)).flushHeld p =
      (u.modFlight p (Flight.refill express n)).modFlight p fun f => { f with replies := [] } := by
    refine State.flushHeld_idle ?_ ?_
    · rw [hself, Flight.refill_held, hheld']
    · rw [hself, Flight.refill_replies, hreplies']
  have hnone : ((u.modFlight p (Flight.refill express n)).flushHeld p).colls = [] := by
    rw [hidle]
    exact hcolls'
  rw [hnone] at hgo
  refine ⟨_, congrArg Host.Outcome.next hgo, ?_⟩
  rw [hidle, List.map_nil, List.foldl_nil, State.modFlight_self, hself, ← hcredits, ← hxcredits]
  refine ⟨?_, ?_, fun q hq => ?_, hout⟩
  · cases express with
    | true => rfl
    | false => rfl
  · cases express with
    | true => rfl
    | false => rfl
  · rw [(State.modFlight_only _ p _).others q hq, (u.modFlight_only p _).others q hq, hothers q hq]

/-! ### Express traffic goes on (R262, R270, R278) -/

theorem State.takeIn_idle {s : State} {p : Nat} (hpaused : (s.flight p).paused = 0) (hinbox : (s.flight p).inbox = []) (sender prio : Nat) :
    s.takeIn p sender prio = (s.hear p).emit (s.creditBack p prio) := by
  have hset : (s.hear p).setInbox p [] = s.hear p := by
    have hnone : ((s.hear p).flight p).inbox = [] := (s.hear_inbox p p).trans hinbox
    rw [State.setInbox, hnone]
    simp
  have htake : s.takeIn p sender prio = ((s.hear p).setInbox p ((s.flight p).inbox.erase (sender, prio))).sendReply p (decide (6 ≤ prio)) 0
      (.credit (decide (6 ≤ prio)) 1) := rfl
  rw [htake, hinbox, List.erase_nil, hset, State.sendReply_unpaused ((s.hear_paused p p).trans hpaused), s.hear_response, State.creditBack]

theorem roundRobin_single (last : Nat) (q : Nat × Packet) : roundRobin last [q] = some q := by
  unfold roundRobin
  dsimp only
  by_cases h : last < q.2.sender
  · simp [pickBest, h]
  · simp [pickBest, h]

theorem Flight.choose_single (f : Flight) (last : Nat) (q : Nat × Packet) : f.choose last [q] = some q := by
  unfold Flight.choose
  dsimp only
  rw [roundRobin_single]
  by_cases h : 8 ≤ Table.get 0 f.passed q.2.sender
  · simp [pickBest, h]
  · simp [pickBest, h]

/-- What sending one express request leaves. -/
structure SentOne (s u : State) (q prio : Nat) (pk : Packet) : Prop where
  rest : u = { s with flights := u.flights, out := s.out ++ [s.requestOut q prio pk] }
  xcredits : (u.flight q).xcredits = (s.flight q).xcredits - 1

theorem State.readyHeld_single {s : State} {q prio : Nat} {pk : Packet} (hheld : (s.flight q).held = [(prio, pk)]) (hexpress : 6 ≤ prio)
    (hpaused : (s.flight q).paused = 0) (hcredits : 0 < (s.flight q).xcredits)
    (hown : ((s.flight q).xspent.filter (· == pk.sender)).length < expressReserve) : s.readyHeld q = [(prio, pk)] := by
  have hsend : (s.flight q).maySend prio pk.sender (s.sharedOk pk) = true := by
    unfold Flight.maySend
    rw [hpaused, if_neg (Nat.not_lt_of_ge hexpress), decide_eq_true hcredits, decide_eq_true hown]
    simp
  rw [State.readyHeld, hheld]
  simp [hsend]

theorem State.grantPort_single {s : State} {q prio : Nat} {pk : Packet} (hexpress : 6 ≤ prio) (hready : s.readyHeld q = [(prio, pk)]) : ∃ f : Flight, f.xcredits = (s.flight q).xcredits - 1 ∧
      s.grantPort q = some ((s.modFlight q fun _ => f).emit (s.requestOut q prio pk)) := by
  have hex : heldExpress (prio, pk) = true := decide_eq_true hexpress
  have hspend : ∀ now : W64, ((s.flight q).spend prio pk.sender now).xcredits = (s.flight q).xcredits - 1 := by
    intro now
    rw [Flight.spend, if_neg (Nat.not_lt_of_ge hexpress)]
  unfold State.grantPort
  dsimp only
  rw [hready]
  have hax : [(prio, pk)].filter (fun q => !heldExpress q) = [] := by rw [List.filter_cons_of_neg (by rw [hex]; decide), List.filter_nil]
  have hxs : [(prio, pk)].filter heldExpress = [(prio, pk)] := by rw [List.filter_cons_of_pos hex, List.filter_nil]
  rw [hax, hxs]
  simp only [List.isEmpty_nil, List.isEmpty_cons, Bool.not_false, Bool.true_and, Bool.true_or, if_true, Flight.choose_single]
  refine ⟨_, ?_, rfl⟩
  exact hspend _

/-- A port with nothing held and every kind of credit sends a request at once. -/
theorem State.sendRequest_clear {s : State} {q prio : Nat} {pk : Packet} (hclear : (s.flight q).clear pk.sender) (hexpress : 6 ≤ prio) :
    SentOne s (s.sendRequest q prio pk) q prio pk := by
  obtain ⟨hheld, hpaused, -, hcredits, -, hown⟩ := hclear
  have hself := s.modFlight_self q fun f => { f with held := f.held ++ [(prio, pk)] }
  have hrest : (s.modFlight q fun f => { f with held := f.held ++ [(prio, pk)] }) =
      { s with flights := (s.modFlight q fun f => { f with held := f.held ++ [(prio, pk)] }).flights } := rfl
  have hreq : (s.modFlight q fun f => { f with held := f.held ++ [(prio, pk)] }).requestOut q prio pk = s.requestOut q prio pk := by
    rw [State.requestOut, State.frameOf, hself, State.requestOut, State.frameOf]
    rfl
  have hsend : s.sendRequest q prio pk = State.drainPort q ((s.modFlight q fun f => { f with held := f.held ++ [(prio, pk)] }).flight q).held.length
    (s.modFlight q fun f => { f with held := f.held ++ [(prio, pk)] }) := rfl
  rw [hsend]
  generalize (s.modFlight q fun f => { f with held := f.held ++ [(prio, pk)] }) = u at hself hrest hreq ⊢
  have hone : (u.flight q).held = [(prio, pk)] := by
    rw [hself, hheld]
    rfl
  have hready := State.readyHeld_single hone hexpress (by rw [hself]; exact hpaused) (by rw [hself]; exact hcredits) (by rw [hself]; exact hown)
  obtain ⟨f, hf, hgrant⟩ := State.grantPort_single hexpress hready
  have hdrain : State.drainPort q (u.flight q).held.length u = (u.modFlight q fun _ => f).emit (u.requestOut q prio pk) := by
    rw [hone, List.length_singleton, State.drainPort, hgrant]
    rfl
  have hxcredits : (u.flight q).xcredits = (s.flight q).xcredits := by rw [hself]
  rw [hdrain, hreq]
  refine ⟨?_, ?_⟩
  · rw [hrest]
    rfl
  · exact ((congrArg Flight.xcredits (u.modFlight_self q fun _ => f)).trans hf).trans (congrArg (· - 1) hxcredits)

/-- What passing express traffic on reads of the state stays as an express request is taken in. -/
structure TookIn (s w : State) (portIn prio : Nat) : Prop where
  rest : w = { s with flights := w.flights, out := s.out ++ [s.creditBack portIn prio] }
  flight : ∀ p, w.flight p = { s.flight p with heardAt := (w.flight p).heardAt }

theorem State.takeIn_took {s : State} {p : Nat} (hpaused : (s.flight p).paused = 0) (hinbox : (s.flight p).inbox = []) (sender prio : Nat) :
    TookIn s (s.takeIn p sender prio) p prio := by
  have hflights := s.hear_flights p
  have hrest := s.hear_rest p
  rw [State.takeIn_idle hpaused hinbox]
  generalize s.hear p = u at hflights hrest
  refine ⟨?_, hflights⟩
  rw [hrest]
  rfl

section
variable {s w : State} {portIn prio : Nat} (h : TookIn s w portIn prio)
include h

theorem TookIn.portUp (q : Nat) : w.portUp q = s.portUp q := by
  have hboot : w.boot = s.boot := by rw [h.rest]
  have hpart : w.part = s.part := by rw [h.rest]
  have hlink : (w.flight q).link = (s.flight q).link := by rw [h.flight]
  rw [State.portUp, hlink, State.flightAbsent, hboot, hpart, State.portUp, State.flightAbsent]

theorem TookIn.nextPort (dest : W64) : w.nextPort dest = s.nextPort dest := by
  rw [h.rest]
  rfl

theorem TookIn.linkVc (q vc : Nat) : w.linkVc q vc = s.linkVc q vc := State.linkVc_of_place (by rw [h.rest]) q vc

theorem TookIn.frameOf (q p : Nat) (ty : BitVec 16) : w.frameOf q p ty = s.frameOf q p ty := by
  have hmode : (w.flight q).mode = (s.flight q).mode := by rw [h.flight]
  have hpeer : (w.flight q).ethPeer = (s.flight q).ethPeer := by rw [h.flight]
  have hpart : w.part = s.part := by rw [h.rest]
  rw [State.frameOf, hmode, hpeer, hpart, State.frameOf]

theorem TookIn.passage (origin q : Nat) : w.passage origin q = s.passage origin q := by
  have hpassages : w.passages = s.passages := by rw [h.rest]
  rw [State.passage, hpassages, State.passage]

theorem TookIn.clear {q sender : Nat} (hclear : (s.flight q).clear sender) : (w.flight q).clear sender := by
  rw [h.flight]
  exact hclear

theorem TookIn.xcredits (q : Nat) : (w.flight q).xcredits = (s.flight q).xcredits := by rw [h.flight]

theorem TookIn.response (q : Nat) (pk : Packet) (express : Bool) (vc : Nat) : w.response q pk express vc = s.response q pk express vc := by
  rw [State.response, h.linkVc, h.frameOf, State.response]

end

/-- A branch noted in place of an earlier one is the one found. -/
theorem find?_replaced {x : Passage} {origin q : Nat} (l : List Passage) (hout : x.out = q) (horigin : x.origin = origin) :
    ((l.filter fun y => !(y.out == x.out && y.origin == x.origin)) ++ [x]).find? (fun y => y.out == q && y.origin == origin) = some x := by
  subst hout horigin
  have hnone : (l.filter fun y => !(y.out == x.out && y.origin == x.origin)).find? (fun y => y.out == x.out && y.origin == x.origin) = none := by
    refine List.find?_eq_none.mpr fun y hy => ?_
    have hnot := (List.mem_filter.mp hy).2
    simpa [imp_iff_not_or] using hnot
  rw [List.find?_append, hnone]
  simp

section
variable {s : State} {portIn q : Nat} {dest : W64} {ls : List LinkId} (hroute : s.route true dest.toNat = some (q, ls)) (hready : s.ready = true)
  (hup : s.portUp portIn = true) (hpaused : (s.flight portIn).paused = 0) (hinbox : (s.flight portIn).inbox = [])
include hroute hready hup

theorem exec_expressForward (vc origin length stall : Nat) (data : List Byte) : exec (.expressForward portIn vc origin [dest] data length stall) s =
    .next (State.passOn portIn vc origin [dest] data length stall (s.takeIn portIn origin (priorityOf true vc)) q) := by
  refine congrArg Host.Outcome.next ?_
  have hnext : s.nextPort dest = some q := by rw [State.nextPort, hroute, Option.map_some]
  have hon : (s.ready && s.portUp portIn) = true := by rw [hready, hup, Bool.and_self]
  rw [State.expressForward, if_pos hon, List.foldl_cons, List.foldl_nil, hnext]
  rfl

include hpaused hinbox

/-- R270: a next link that is not UP answers with a negative acknowledgement. -/
theorem expressForward_refused (hdown : s.portUp q = false) (vc origin length stall : Nat) (data : List Byte) :
    ∃ s', exec (.expressForward portIn vc origin [dest] data length stall) s = .next s' ∧
      s'.out = s.out ++ [s.creditBack portIn (priorityOf true vc), s.response portIn (.nack origin .peerLost) true] ∧ s'.items = s.items ∧
      s'.sameBytes s := by
  have htook := State.takeIn_took (s := s) hpaused hinbox origin (priorityOf true vc)
  refine ⟨_, exec_expressForward hroute hready hup vc origin length stall data, ?_⟩
  generalize s.takeIn portIn origin (priorityOf true vc) = w at htook ⊢
  have hpaused' : (w.flight portIn).paused = 0 := by rw [htook.flight]; exact hpaused
  have hpass : State.passOn portIn vc origin [dest] data length stall w q = w.emit (s.response portIn (.nack origin .peerLost) true) := by
    rw [State.passOn, htook.portUp, hdown, if_neg Bool.false_ne_true, State.sendReply_unpaused hpaused', htook.response]
  rw [hpass, htook.rest]
  exact ⟨List.append_assoc .., rfl, rfl, rfl, rfl⟩

/-- R278: nothing more goes on over a branch that has been pruned. -/
theorem expressForward_pruned {x : Passage} (hon : s.portUp q = true) {origin : Nat} (hx : s.passage origin q = some x) (hpruned : x.pruned = true)
    (vc stall : Nat) (data : List Byte) :
    ∃ s', exec (.expressForward portIn vc origin [dest] data 0 stall) s = .next s' ∧
      s'.out = s.out ++ [s.creditBack portIn (priorityOf true vc)] ∧ s'.items = s.items ∧ s'.sameBytes s := by
  have htook := State.takeIn_took (s := s) hpaused hinbox origin (priorityOf true vc)
  refine ⟨_, exec_expressForward hroute hready hup vc origin 0 stall data, ?_⟩
  generalize s.takeIn portIn origin (priorityOf true vc) = w at htook ⊢
  have hpass : State.passOn portIn vc origin [dest] data 0 stall w q = w := by
    rw [State.passOn, htook.portUp, hon, if_pos rfl, htook.passage, hx, Option.map_some, hpruned]
    rfl
  rw [hpass, htook.rest]
  exact ⟨rfl, rfl, rfl, rfl, rfl⟩

/-- R262, R270: the datagram goes on over the next link, its branch noted as its first passes. -/
theorem expressForward_goes (hon : s.portUp q = true) {origin : Nat} (hclear : (s.flight q).clear origin) {length : Nat}
    (hopen : length ≠ 0 ∨ s.passage origin q = none ∨ ∃ x, s.passage origin q = some x ∧ x.pruned = false) (vc stall : Nat) (data : List Byte) :
    ∃ s', exec (.expressForward portIn vc origin [dest] data length stall) s = .next s' ∧
      s'.out = s.out ++ [s.creditBack portIn (priorityOf true vc), s.requestOut q (priorityOf true (s.linkVc q (if portAxis q = portAxis portIn then vc else 0)))
        (.forwarded origin [dest] data length stall)] ∧
      (s'.flight q).xcredits = (s.flight q).xcredits - 1 ∧ s'.items = s.items ∧ s'.sameBytes s ∧
      (length ≠ 0 → s'.passage origin q = some ⟨portIn, origin, q, [dest], stall, false⟩) := by
  have htook := State.takeIn_took (s := s) hpaused hinbox origin (priorityOf true vc)
  have hnext : s.nextPort dest = some q := by rw [State.nextPort, hroute, Option.map_some]
  refine ⟨_, exec_expressForward hroute hready hup vc origin length stall data, ?_⟩
  generalize s.takeIn portIn origin (priorityOf true vc) = w at htook ⊢
  have hbeyond : [dest].filter (fun d => w.nextPort d == some q) = [dest] := by
    rw [List.filter_cons_of_pos, List.filter_nil]
    rw [htook.nextPort, hnext]
    exact beq_self_eq_true _
  have hfree : (decide (length = 0) && ((w.passage origin q).map (·.pruned)).getD false) = false := by
    rw [htook.passage]
    obtain hlen | hnone | ⟨x, hx, hpruned⟩ := hopen
    · rw [decide_eq_false hlen, Bool.false_and]
    · rw [hnone, Option.map_none, Option.getD_none, Bool.and_false]
    · rw [hx, Option.map_some, hpruned, Option.getD_some, Bool.and_false]
  have hpass : State.passOn portIn vc origin [dest] data length stall w q =
      (if length = 0 then w else w.notePassage ⟨portIn, origin, q, [dest], stall, false⟩).sendRequest q
        (priorityOf true (w.linkVc q (if portAxis q = portAxis portIn then vc else 0))) (.forwarded origin [dest] data length stall) := by
    rw [State.passOn, htook.portUp, hon, if_pos rfl]
    dsimp only
    rw [hbeyond, hfree]
    exact if_neg Bool.false_ne_true
  have hnoted : ∃ ps, (if length = 0 then w else w.notePassage ⟨portIn, origin, q, [dest], stall, false⟩) = { w with passages := ps } ∧
      (length ≠ 0 → (ps.find? fun x => x.out == q && x.origin == origin) = some ⟨portIn, origin, q, [dest], stall, false⟩) := by
    by_cases hlen : length = 0
    · exact ⟨w.passages, by rw [if_pos hlen], fun hne => absurd hlen hne⟩
    · exact ⟨_, by rw [if_neg hlen, State.notePassage], fun _ => find?_replaced w.passages rfl rfl⟩
  obtain ⟨ps, hps, hfind⟩ := hnoted
  rw [hpass, hps, htook.linkVc]
  generalize hprio : priorityOf true (s.linkVc q (if portAxis q = portAxis portIn then vc else 0)) = prio
  have hsent := State.sendRequest_clear (s := { w with passages := ps }) (prio := prio) (pk := .forwarded origin [dest] data length stall) (htook.clear hclear)
    (hprio ▸ Nat.le_add_right 6 _)
  have hreq : ({ w with passages := ps } : State).requestOut q prio (.forwarded origin [dest] data length stall) =
      s.requestOut q prio (.forwarded origin [dest] data length stall) := by
    rw [State.requestOut, State.requestOut, ← htook.frameOf]
    rfl
  have hxcredits : (({ w with passages := ps } : State).flight q).xcredits = (s.flight q).xcredits := htook.xcredits q
  obtain ⟨hrest, hcredits⟩ := hsent
  rw [hreq] at hrest
  generalize State.sendRequest { w with passages := ps } q prio (.forwarded origin [dest] data length stall) = u at hrest hcredits ⊢
  refine ⟨?_, hcredits.trans (congrArg (· - 1) hxcredits), ?_, ?_, fun hne => ?_⟩
  · have hout : u.out = w.out ++ [s.requestOut q prio (.forwarded origin [dest] data length stall)] := by rw [hrest]
    have hwout : w.out = s.out ++ [s.creditBack portIn (priorityOf true vc)] := by rw [htook.rest]
    rw [hout, hwout, List.append_assoc]
    rfl
  · have hitems : u.items = w.items := by rw [hrest]
    have hwitems : w.items = s.items := by rw [htook.rest]
    exact hitems.trans hwitems
  · have hbytes : u.sameBytes w := by rw [hrest]; exact ⟨rfl, rfl, rfl⟩
    have hwbytes : w.sameBytes s := by rw [htook.rest]; exact ⟨rfl, rfl, rfl⟩
    exact State.sameBytes_trans hbytes hwbytes
  · have hpassages : u.passages = ps := by rw [hrest]
    rw [State.passage, hpassages]
    exact hfind hne

end

/-- Settles O49. -/
theorem linkLossAndFrames : Obligations.LinkLossAndFrames := by
  unfold Obligations.LinkLossAndFrames
  refine ⟨fun s p hup => ⟨linkDown_early, linkDown_declares hup⟩, fun s p a c l => lossNotice_fails p a c l, fun s p ty prio hhere hmode hlink => ⟨fun hty => ?_, fun hne hother => ?_⟩,
    fun s p b hhere hmode hheld hreplies => pfcFrame_pauses hhere hmode hheld hreplies b,
    fun s p n express hup hheld hreplies hcolls => creditReceive_refills hup hheld hreplies hcolls n express,
    fun s portIn vc origin length stall dest data q ls hroute hready hup hpaused hinbox => ⟨fun hdown => ?_, fun hon hclear hopen => ?_, fun x hon hlen hx hpruned => ?_⟩⟩
  · rw [frameReceive_takes hhere hmode hlink, if_pos hty]
  · rw [frameReceive_takes hhere hmode hlink, if_neg]
    rintro (hptp | ⟨hdata, hlo, hhi⟩)
    · exact hne hptp
    · obtain hnot | hless | hmore := hother
      · exact hnot hdata
      · omega
      · omega
  · exact expressForward_refused hroute hready hup hpaused hinbox hdown vc origin length stall data
  · exact expressForward_goes hroute hready hup hpaused hinbox hon hclear hopen vc stall data
  · subst hlen
    exact expressForward_pruned hroute hready hup hpaused hinbox hon hx hpruned vc stall data

end Sys2Proof.Machine
end

section
/-!
`UPDATE_BIND` and `STATS_SNAP` (R191), and the loads of selvedge programs (R237, R255, R364, R365).
-/
namespace Sys2Proof.Machine

/-! ### `UPDATE_BIND` -/

/-- The binding of a program in the selvedges of a list. -/
def State.boundAll (s : State) (l : List Nat) (k ix : Nat) : State := l.foldl (fun s p => s.modSelv p fun v => { v with binds := Table.set 0 v.binds k ix }) s

theorem State.boundAll_rest (s : State) (l : List Nat) (k ix : Nat) : s.boundAll l k ix = { s with selvs := (s.boundAll l k ix).selvs } :=
  State.foldl_modSelv_rest l _ (fun _ _ => rfl) s

theorem State.boundAll_other (s : State) {l : List Nat} {p : Nat} (hp : p ∉ l) (k ix : Nat) : (s.boundAll l k ix).selv p = s.selv p := by
  induction l generalizing s with
  | nil => rfl
  | cons q l ih =>
    obtain ⟨hne, hnot⟩ := not_or.mp (List.mem_cons.not.mp hp)
    refine (ih _ hnot).trans ?_
    rw [State.modSelv_selv, if_neg (Ne.symm hne)]

theorem State.boundAll_binds (s : State) {l : List Nat} {p : Nat} (hp : p ∈ l) (k ix j : Nat) :
    Table.get 0 ((s.boundAll l k ix).selv p).binds j = if j = k then ix else Table.get 0 (s.selv p).binds j := by
  induction l generalizing s with
  | nil => exact absurd hp List.not_mem_nil
  | cons q l ih =>
    have hone : Table.get 0 ((s.modSelv q fun v => { v with binds := Table.set 0 v.binds k ix }).selv p).binds j =
        if p = q ∧ j = k then ix else Table.get 0 (s.selv p).binds j := by
      rw [State.modSelv_selv]
      by_cases hq : q = p
      · subst hq
        rw [if_pos rfl]
        refine (Table.get_set 0 (s.selv q).binds k j ix).trans ?_
        by_cases hk : j = k
        · rw [if_pos hk.symm, if_pos ⟨rfl, hk⟩]
        · rw [if_neg (Ne.symm hk), if_neg fun h => hk h.2]
      · rw [if_neg hq, if_neg fun h => hq h.1.symm]
    by_cases hl : p ∈ l
    · refine (ih _ hl).trans ?_
      by_cases hk : j = k
      · rw [if_pos hk, if_pos hk]
      · rw [if_neg hk, if_neg hk, hone, if_neg fun h => hk h.2]
    · obtain rfl := (List.mem_cons.mp hp).resolve_right hl
      rw [State.boundAll, List.foldl_cons]
      have hrest := State.boundAll_other (s.modSelv p fun v => { v with binds := Table.set 0 v.binds k ix }) hl k ix
      rw [State.boundAll] at hrest
      rw [hrest, hone]
      by_cases hk : j = k
      · rw [if_pos ⟨rfl, hk⟩, if_pos hk]
      · rw [if_neg fun h => hk h.2, if_neg hk]

theorem State.mem_presentSelvs {s : State} {p : Nat} : p ∈ s.presentSelvs ↔ s.selvPresent p = true := by
  rw [State.presentSelvs, List.mem_filter, List.mem_range]
  refine ⟨fun h => h.2, fun h => ⟨?_, h⟩⟩
  simp only [State.selvPresent, Bool.and_eq_true, Bool.or_eq_true, beq_iff_eq, decide_eq_true_eq] at h
  omega

/-- R191: `UPDATE_BIND`. -/
theorem updateBind_binds {s : State} {it : ItemId} {t : Item} (h : Runs s it .updateBind t) :
    let k := 8 * fieldNat t.desc 128 16 + fieldNat t.desc 144 3
    ∃ s', exec (.updateBind it) s = .next s' ∧ s'.doneWith it t.bytes ∧ s'.sameBytes s ∧ s.sameRegisters s' ∧ s'.knots = s.knots ∧
      s'.windows = s.windows ∧
      (∀ p, s.selvPresent p = true → ∀ j, Table.get 0 (s'.selv p).binds j =
        if j = k then fieldNat t.desc 160 10 else Table.get 0 (s.selv p).binds j) ∧
      ∀ p, s.selvPresent p = false → s'.selv p = s.selv p := by
  intro k
  obtain rfl := h.id
  have hmean : State.updateBind t s = (s.boundAll s.presentSelvs k (fieldNat t.desc 160 10)).finish t.id 0 := rfl
  have hrest := s.boundAll_rest s.presentSelvs k (fieldNat t.desc 160 10)
  have hbinds := fun p hp j => s.boundAll_binds (l := s.presentSelvs) (p := p) hp k (fieldNat t.desc 160 10) j
  have hother := fun p hp => s.boundAll_other (l := s.presentSelvs) (p := p) hp k (fieldNat t.desc 160 10)
  have hmod : (State.updateBind t s).mod = s.mod := by rw [hmean, State.finish_rest, hrest]
  refine ⟨_, congrArg Host.Outcome.next (h.withItem_mod hmod), ?_⟩
  rw [hmean]
  generalize s.boundAll s.presentSelvs k (fieldNat t.desc 160 10) = u at hrest hbinds hother
  have hitem : u.item t.id = some t := by rw [hrest]; exact h.item
  refine ⟨State.finish_doneWith hitem 0, ?_, ?_, ?_, ?_, fun p hp j => hbinds p (State.mem_presentSelvs.mpr hp) j, fun p hp => hother p fun hmem => ?_⟩
  · rw [State.finish_rest, hrest]
    exact ⟨rfl, rfl, rfl⟩
  · rw [State.finish_rest, hrest]
    exact ⟨rfl, rfl, rfl, rfl, rfl, rfl, rfl, rfl, rfl⟩
  · rw [State.finish_rest, hrest]
  · rw [State.finish_rest, hrest]
  · exact absurd (hp.symm.trans (State.mem_presentSelvs.mp hmem)) Bool.false_ne_true

/-! ### `STATS_SNAP` -/

theorem addrSpace_winBase_zero : addrSpace (winBase (0#512)) ≠ 5 := by
  have hzero : winBase (0#512) = 0 := fieldNat_zero _ _
  rw [hzero]
  decide

theorem Runs.winD_space {s : State} {it : ItemId} {o : Opcode} {t : Item} (h : Runs s it o t) (b : Nat) : addrSpace (winBase (t.winD b)) ≠ 5 := by
  unfold Item.winD Item.win
  split
  · exact addrSpace_winBase_zero
  · cases hfind : t.wins.find? fun w => w.1 == word32 t.desc b with
    | none => exact addrSpace_winBase_zero
    | some w => exact h.windows w (List.mem_of_find?_eq_some hfind)

theorem State.produce_rest (s : State) (r : Read) : s.produce r = { s with full := (s.produce r).full } := by
  unfold State.produce
  split
  · exact State.foldl_markFull_rest r.all s
  · rfl

theorem State.treadleRequest_rest (s : State) (h : Nat) (q : Requester) (w : Bool) (a n : Nat) :
    s.treadleRequest h q w a n = { s with ledgers := (s.treadleRequest h q w a n).ledgers } := rfl

/-- The statistics in the window, the granules and the request of the write. -/
def State.snapped (s : State) (t : Item) (bs : List Byte) : State :=
  ((s.store (s.access (s.itemFunction t.id) (t.winD 20)) (winBase (t.winD 20)) bs).produce ⟨word32 t.desc 20, t.winD 20, [0], 0, 32⟩).treadleRequest t.hall
    (.operand t.id) true (winBase (t.winD 20)) 32

theorem State.snapped_rest (s : State) (t : Item) (h5 : addrSpace (winBase (t.winD 20)) ≠ 5) (bs : List Byte) : s.snapped t bs = { s with
    mem := (s.store (s.access (s.itemFunction t.id) (t.winD 20)) (winBase (t.winD 20)) bs).mem, poison := (s.snapped t bs).poison
    caches := (s.snapped t bs).caches, full := (s.snapped t bs).full, ledgers := (s.snapped t bs).ledgers } := by
  have hstored := s.store_stored (s.access (s.itemFunction t.id) (t.winD 20)) h5 bs
  unfold State.snapped
  generalize s.store (s.access (s.itemFunction t.id) (t.winD 20)) (winBase (t.winD 20)) bs = u at hstored ⊢
  have hproduce := u.produce_rest ⟨word32 t.desc 20, t.winD 20, [0], 0, 32⟩
  generalize u.produce ⟨word32 t.desc 20, t.winD 20, [0], 0, 32⟩ = v at hproduce ⊢
  rw [State.treadleRequest_rest, hproduce, hstored]

theorem statsBytes_length (x : Stats) : (statsBytes x).length = 32 := by
  simp [statsBytes, leBytes_length]

/-- R191: `STATS_SNAP`. -/
theorem statsSnap_writes {s : State} {it : ItemId} {t : Item} (h : Runs s it .statsSnap t) :
    let p := byteField t.desc 19 1
    let w := t.winD 20
    let fn := s.itemFunction it
    let wr : Read := ⟨word32 t.desc 20, w, [0], 0, 32⟩
    s.readFault fn false [wr] = none → (s.selv p).unserved = false → s.selvServed p = true → s.writeReady wr = true →
    ∃ s', exec (.statsSnap it) s = .next s' ∧ s'.doneWith it (t.bytes + 32) ∧ s.sameRegisters s' ∧ s'.knots = s.knots ∧
      s'.windows = s.windows ∧ s'.selvs = s.selvs ∧
      (addrSpace (winBase w) ≠ 2 → (s.access fn w).keys = none →
        s'.mem.readBytes (hostKey fn (winBase w)) 32 =
          statsBytes (Table.get Stats.zero (s.selv p).stats (8 * fieldNat t.desc 128 16 + fieldNat t.desc 144 3)) ∧
        ∀ x, x < hostKey fn (winBase w) ∨ hostKey fn (winBase w) + 32 ≤ x → s'.mem.read x = s.mem.read x) := by
  intro p w fn wr hfault hserved hhere hready
  obtain rfl := h.id
  have h5 := h.winD_space 20
  generalize hbs : statsBytes (Table.get Stats.zero (s.selv p).stats (8 * fieldNat t.desc 128 16 + fieldNat t.desc 144 3)) = bs
  have hlen : bs.length = 32 := hbs ▸ statsBytes_length _
  have hmean : State.statsSnap t s = (s.snapped t bs).finish t.id 32 := by
    have hon : ¬((s.selv p).unserved || !s.selvServed p) = true := by
      rw [hserved, hhere]
      decide
    unfold State.statsSnap
    dsimp only
    rw [hfault]
    dsimp only
    rw [if_neg hon, if_pos hready, hbs]
    rfl
  have hrest := s.snapped_rest t h5 bs
  have hmem := fun hkeys h2 => State.store_mem_of_plain (s := s) (ac := s.access fn w) (a := winBase w) hkeys h5 h2 bs
  have hmod : (State.statsSnap t s).mod = s.mod := by rw [hmean, State.finish_rest, hrest]
  refine ⟨_, congrArg Host.Outcome.next (h.withItem_mod hmod), ?_⟩
  rw [hmean]
  generalize s.snapped t bs = u at hrest ⊢
  have hitem : u.item t.id = some t := by rw [hrest]; exact h.item
  have humem : u.mem = (s.store (s.access fn w) (winBase w) bs).mem := by rw [hrest]
  refine ⟨State.finish_doneWith hitem 32, ?_, ?_, ?_, ?_, fun h2 hkeys => ?_⟩
  · rw [State.finish_rest, hrest]
    exact ⟨rfl, rfl, rfl, rfl, rfl, rfl, rfl, rfl, rfl⟩
  · rw [State.finish_rest, hrest]
  · rw [State.finish_rest, hrest]
  · rw [State.finish_rest, hrest]
  · have hafter : (u.finish t.id 32).mem = s.mem.writeBytes (hostKey fn (winBase w)) bs := by
      refine (humem.trans (hmem hkeys h2)).trans ?_
      rw [State.access_function]
    rw [hafter]
    refine ⟨?_, fun x hx => ?_⟩
    · rw [← hlen]
      exact s.mem.readBytes_writeBytes _ bs
    · exact Memory.read_writeBytes_outside _ _ (by rwa [hlen])

/-! ### Program loads (R237, R255, R346) -/

/-- What a refused program load shows: a fault of the host interface's selvedge page with the index. -/
structure ProgRefused (s s' : State) (code : BitVec 8) (i : Nat) : Prop where
  progs : s'.progs = s.progs
  load : s'.slvCtl.load = none
  event : (s'.page (pgSelvedge 12)).raw.getLsbD 31 = true
  record : (s.page (pgSelvedge 12)).count = 0 → (s'.page (pgSelvedge 12)).code = code ∧
    (s'.page (pgSelvedge 12)).info0 = BitVec.ofNat 32 i ∧ (s'.page (pgSelvedge 12)).count = 1
  bytes : s'.sameBytes s

theorem State.fault_progRefused {s : State} (hload : s.slvCtl.load = none) (st : Status) (i : Nat) :
    ProgRefused s (s.fault (pgSelvedge 12) st (BitVec.ofNat 32 i) 0) (statusCode st) i where
  progs := by rw [State.fault_rest]
  load := by rw [State.fault_rest]; exact hload
  event := by
    rw [State.fault_page_self, Page.withFault_raw]
    simp
  record h := by
    rw [State.fault_page_self, Page.withFault_of_none h]
    exact ⟨rfl, rfl, rfl⟩
  bytes := by
    rw [State.fault_rest]
    exact ⟨rfl, rfl, rfl⟩

/-- The index of a load noted in the register. -/
def State.progIndexed (s : State) (v : W32) : State := { s with slvCtl := { s.slvCtl with index := field v 0 10 } }

theorem ProgRefused.of_indexed {s s' : State} {v : W32} {code : BitVec 8} {i : Nat} (h : ProgRefused (s.progIndexed v) s' code i) :
    ProgRefused s s' code i := ⟨h.progs, h.load, h.event, h.record, h.bytes⟩

section
variable {s : State} {v : W32} (hready : s.ready = true) (hload : s.slvCtl.load = none) (hstart : v.getLsbD 16 = true)
include hready hload

theorem exec_selvedgeProgLoad_below (h : fieldNat v 0 10 < 512) : exec (.selvedgeProgLoad v) s =
    .next (s.fault (pgSelvedge 12) .access (BitVec.ofNat 32 (fieldNat v 0 10)) 0) := by
  refine congrArg Host.Outcome.next ((if_pos hready).trans ?_)
  rw [State.progCtlWrite, hload, if_neg (by decide : ¬(none : Option (Nat × List W64 × BitVec 8)).isSome = true), if_pos h]

include hstart

theorem exec_selvedgeProgLoad (h : 512 ≤ fieldNat v 0 10) : exec (.selvedgeProgLoad v) s = .next ((s.progIndexed v).progLoad (fieldNat v 0 10)) := by
  refine congrArg Host.Outcome.next ((if_pos hready).trans ?_)
  rw [State.progCtlWrite, hload, if_neg (by decide : ¬(none : Option (Nat × List W64 × BitVec 8)).isSome = true), if_neg (Nat.not_lt_of_ge h)]
  exact if_pos hstart

theorem selvedgeProgLoad_starts {bs : List Byte} (h : 512 ≤ fieldNat v 0 10) (hhere : s.addrAbsent s.slvCtl.src.toNat = false)
    (himage : (s.progIndexed v).programImage = some bs) (hok : slvImageOk bs = true) : exec (.selvedgeProgLoad v) s =
      .next { s with slvCtl := { s.slvCtl with index := field v 0 10, load := some (fieldNat v 0 10, imageWords bs, bs.getD 3 0) } } := by
  have hhere' : (s.progIndexed v).addrAbsent (s.progIndexed v).slvCtl.src.toNat = false := hhere
  rw [exec_selvedgeProgLoad hready hload hstart h, State.progLoad, hhere', if_neg Bool.false_ne_true, himage]
  exact congrArg Host.Outcome.next (if_pos hok)

theorem selvedgeProgLoad_absent (h : 512 ≤ fieldNat v 0 10) (haway : s.addrAbsent s.slvCtl.src.toNat = true) :
    ∃ s', exec (.selvedgeProgLoad v) s = .next s' ∧ ProgRefused s s' 0x13 (fieldNat v 0 10) := by
  have haway' : (s.progIndexed v).addrAbsent (s.progIndexed v).slvCtl.src.toNat = true := haway
  refine ⟨_, exec_selvedgeProgLoad hready hload hstart h, ?_⟩
  rw [State.progLoad, if_pos haway']
  exact (State.fault_progRefused (s := s.progIndexed v) hload .engineAbsent _).of_indexed

theorem selvedgeProgLoad_refused (h : 512 ≤ fieldNat v 0 10) (hhere : s.addrAbsent s.slvCtl.src.toNat = false)
    (hbad : ∀ bs, (s.progIndexed v).programImage = some bs → slvImageOk bs = false) :
    ∃ s', exec (.selvedgeProgLoad v) s = .next s' ∧ ProgRefused s s' 0x21 (fieldNat v 0 10) := by
  have hhere' : (s.progIndexed v).addrAbsent (s.progIndexed v).slvCtl.src.toNat = false := hhere
  have hmean : (s.progIndexed v).progLoad (fieldNat v 0 10) =
      (s.progIndexed v).fault (pgSelvedge 12) .access (BitVec.ofNat 32 (fieldNat v 0 10)) 0 := by
    rw [State.progLoad, hhere', if_neg Bool.false_ne_true]
    cases himage : (s.progIndexed v).programImage with
    | none => rfl
    | some bs => exact if_neg (by rw [hbad bs himage]; exact Bool.false_ne_true)
  refine ⟨_, exec_selvedgeProgLoad hready hload hstart h, ?_⟩
  rw [hmean]
  exact (State.fault_progRefused (s := s.progIndexed v) hload .access _).of_indexed

end

theorem selvedgeProgLoadDone_completes {s : State} {i : Nat} {ws : List W64} {rounding : BitVec 8} (hload : s.slvCtl.load = some (i, ws, rounding))
    (hzero : s.hitsZeroing s.slvCtl.src.toNat (64 + 8 * ws.length) = false) :
    ∃ s', exec .selvedgeProgLoadDone s = .next s' ∧ Table.get none s'.progs i = some (ws, rounding) ∧
      (∀ j, j ≠ i → Table.get none s'.progs j = Table.get none s.progs j) ∧ s'.slvCtl.load = none ∧ s'.sameBytes s ∧ s'.selvs = s.selvs := by
  have hmean : s.progLoaded = { s with
      progs := Table.set none s.progs i (some (ws, rounding)), slvCtl := { s.slvCtl with load := none }
      sec := { s.sec with measuredPrograms := measuredPrograms (Table.set none s.progs i (some (ws, rounding))) } } := by
    unfold State.progLoaded
    rw [hload]
    dsimp only
    rw [hzero, if_neg Bool.false_ne_true]
  have hset := Table.get_set (none : Option (List W64 × BitVec 8)) s.progs i
  refine ⟨_, congrArg Host.Outcome.next hmean, ?_, fun j hj => ?_, rfl, ⟨rfl, rfl, rfl⟩, rfl⟩
  · exact (hset i (some (ws, rounding))).trans (if_pos rfl)
  · exact (hset j (some (ws, rounding))).trans (if_neg (Ne.symm hj))

/-- Settles O47. -/
theorem selvedgeTablesAndPrograms : Obligations.SelvedgeTablesAndPrograms := by
  unfold Obligations.SelvedgeTablesAndPrograms
  refine ⟨⟨fun s it t h => updateBind_binds h, fun s it t h => statsSnap_writes h⟩, fun s v hready hload hstart => ?_,
    fun s i ws rounding hload hzero => selvedgeProgLoadDone_completes hload hzero⟩
  intro i loaded refusedAs
  have hrefused : ∀ code, (∃ s', exec (.selvedgeProgLoad v) s = .next s' ∧ ProgRefused s s' code i) → refusedAs code := by
    rintro code ⟨s', hnext, hr⟩
    exact ⟨s', hnext, hr.progs, hr.load, hr.event, hr.record, hr.bytes⟩
  refine ⟨fun bs hi hhere himage hok => selvedgeProgLoad_starts hready hload hstart hi hhere himage hok,
    fun hi haway => hrefused _ (selvedgeProgLoad_absent hready hload hstart hi haway), fun hi => ⟨hrefused _ ?_, ?_⟩,
    fun hi hhere hbad => hrefused _ (selvedgeProgLoad_refused hready hload hstart hi hhere hbad)⟩
  · exact ⟨_, exec_selvedgeProgLoad_below hready hload hi, State.fault_progRefused hload .access _⟩
  · exact ⟨_, exec_selvedgeProgLoad_below hready hload hi, by rw [State.fault_rest]⟩

end Sys2Proof.Machine
end

section
/-!
Card words (R159, R160, R192).
-/
namespace Sys2Proof.Machine

/-! ### What a card word may change -/

/-- The parts of the state that card words reach. -/
def CardReach (s u : State) : Prop := u = { s with
  free := u.free, mem := u.mem, poison := u.poison, caches := u.caches, full := u.full, looms := u.looms, items := u.items, streams := u.streams }

theorem CardReach.refl (s : State) : CardReach s s := rfl
theorem CardReach.trans {s u v : State} (h : CardReach s u) (k : CardReach u v) : CardReach s v := by
  unfold CardReach at h k ⊢
  rw [h] at k
  exact k

/-- What the work of a word itself reaches: neither items nor streams. -/
def CardWork (s u : State) : Prop := u = { s with
  free := u.free, mem := u.mem, poison := u.poison, caches := u.caches, full := u.full, looms := u.looms }

theorem CardWork.trans {s u v : State} (h : CardWork s u) (k : CardWork u v) : CardWork s v := by
  unfold CardWork at h k ⊢
  rw [h] at k
  exact k

theorem CardWork.reach {s u : State} (h : CardWork s u) : CardReach s u := by
  unfold CardWork at h
  unfold CardReach
  rw [h]

/-! ### Reads -/

/-- Only free values and tokens have moved. -/
def TokensOnly (s u : State) : Prop := u = { s with free := u.free, full := u.full }

theorem TokensOnly.trans {s u v : State} (h : TokensOnly s u) (k : TokensOnly u v) : TokensOnly s v := by
  unfold TokensOnly at h k ⊢
  rw [h] at k
  exact k

theorem TokensOnly.work {s u : State} (h : TokensOnly s u) : CardWork s u := by
  unfold TokensOnly at h
  unfold CardWork
  rw [h]

theorem State.cardToken_only (s : State) (h : Nat) (w : BitVec 128) (o : Nat) : TokensOnly s (s.cardToken h w o) := by
  unfold State.cardToken
  dsimp only
  split
  · rfl
  · split
    · rfl
    · rfl

theorem State.cardRead_only (s : State) (h : Nat) (w : BitVec 128) (i : Nat) : TokensOnly s (s.cardRead h w i).2 := by
  unfold State.cardRead
  dsimp only
  split
  · exact s.cardToken_only h w _
  · rfl

theorem State.cardReads_only (s : State) (h : Nat) (w : BitVec 128) (n : Nat) : TokensOnly s (s.cardReads h w n).1 := by
  induction n with
  | zero => rfl
  | succ n ih => exact ih.trans (State.cardRead_only _ h w n)

theorem State.cardCompares_only (s : State) (h : Nat) (w : BitVec 128) (n : Nat) : TokensOnly s (s.cardCompares h w n).1 := by
  induction n with
  | zero => rfl
  | succ n ih => exact (ih.trans (State.cardRead_only _ h w n)).trans rfl

theorem State.cardReads_length (s : State) (h : Nat) (w : BitVec 128) (n : Nat) : (s.cardReads h w n).2.length = 8 * n := by
  induction n with
  | zero => rfl
  | succ n ih =>
    rw [State.cardReads]
    dsimp only
    rw [List.length_append, ih, leBytes_length]
    omega

theorem leBytes_leNat (bs : List Byte) : leBytes bs.length (leNat bs) = bs := by
  induction bs with
  | nil => rfl
  | cons b bs ih =>
    have hb : b.toNat < 256 := b.isLt
    rw [List.length_cons, leBytes, leNat]
    congr 1
    · apply BitVec.eq_of_toNat_eq
      rw [BitVec.toNat_ofNat]
      omega
    · rw [show (b.toNat + 256 * leNat bs) / 256 = leNat bs by omega, ih]

theorem leNat_lt (bs : List Byte) : leNat bs < 256 ^ bs.length := by
  induction bs with
  | nil => exact Nat.one_pos
  | cons b bs ih =>
    have hb : b.toNat < 256 := b.isLt
    rw [leNat, List.length_cons, pow_succ]
    omega

/-- A repetition on a store reads its word as it stands. -/
theorem State.cardRead_store {s : State} {w : BitVec 128} (hunit : cardUnit w < 3) (h i : Nat) :
    leBytes 8 (s.cardRead h w i).1.toNat = s.mem.readBytes (storeAddr h (cardLoom w) (cardUnit w) (cardOffset (cardUnit w) (cardAddress w) i)) 8 := by
  have hlen := s.mem.readBytes_length (storeAddr h (cardLoom w) (cardUnit w) (cardOffset (cardUnit w) (cardAddress w) i)) 8
  have hval : (s.cardRead h w i).1 = BitVec.ofNat 64 (leNat (s.mem.readBytes (storeAddr h (cardLoom w) (cardUnit w)
      (cardOffset (cardUnit w) (cardAddress w) i)) 8)) := by
    rw [State.cardRead, if_pos hunit]
  rw [hval]
  generalize s.mem.readBytes (storeAddr h (cardLoom w) (cardUnit w) (cardOffset (cardUnit w) (cardAddress w) i)) 8 = bs at hlen
  have hlt := leNat_lt bs
  have hback := leBytes_leNat bs
  rw [hlen] at hlt hback
  rw [BitVec.toNat_ofNat, show (2 ^ 64 : Nat) = 256 ^ 8 from rfl, Nat.mod_eq_of_lt hlt, hback]

/-- READ of a store: its words, one a repetition. -/
theorem State.cardReads_store {s : State} {w : BitVec 128} (hunit : cardUnit w < 3) (h n : Nat) : (s.cardReads h w n).2 =
    (List.range n).flatMap fun i => s.mem.readBytes (storeAddr h (cardLoom w) (cardUnit w) (cardOffset (cardUnit w) (cardAddress w) i)) 8 := by
  induction n with
  | zero => rfl
  | succ n ih =>
    have hmem : (s.cardReads h w n).1.mem = s.mem := by rw [s.cardReads_only h w n]
    rw [State.cardReads]
    dsimp only
    rw [State.cardRead_store hunit, ih, hmem, List.range_succ, List.flatMap_append, List.flatMap_singleton]

/-- A repetition on a store draws no free value. -/
theorem State.cardRead_free {s : State} {w : BitVec 128} (hunit : cardUnit w < 3) (h i : Nat) : (s.cardRead h w i).2.free = s.free := by
  unfold State.cardRead
  rw [if_pos hunit]
  dsimp only
  unfold State.cardToken
  dsimp only
  split
  · rfl
  · split
    · rfl
    · rfl

theorem State.cardCompares_free {s : State} {w : BitVec 128} (hunit : cardUnit w < 3) (h n : Nat) : (s.cardCompares h w n).1.free = s.free + n := by
  induction n with
  | zero => rfl
  | succ n ih =>
    have hread := State.cardRead_free (s := (s.cardCompares h w n).1) hunit h n
    exact (congrArg (· + 1) (hread.trans ih)).trans (Nat.add_assoc _ _ _)

/-- COMPARE of a store: a free bit a repetition. -/
theorem State.cardCompares_store {s : State} {w : BitVec 128} (hunit : cardUnit w < 3) (h n : Nat) :
    (s.cardCompares h w n).2 = (List.range n).map fun i => (Config.freeWord (s.free + i)).getLsbD 0 := by
  induction n with
  | zero => rfl
  | succ n ih =>
    have hfree : ((s.cardCompares h w n).1.cardRead h w n).2.free = s.free + n :=
      (State.cardRead_free hunit h n).trans (State.cardCompares_free hunit h n)
    rw [List.range_succ, List.map_append, ← ih, List.map_singleton, ← hfree]
    rfl

theorem State.cardCompares_length (s : State) (h : Nat) (w : BitVec 128) (n : Nat) : (s.cardCompares h w n).2.length = n := by
  induction n with
  | zero => rfl
  | succ n ih => rw [State.cardCompares, List.length_append, ih, List.length_singleton]

theorem bitBytes_length (bs : List Bool) : (bitBytes bs).length = (bs.length + 7) / 8 := by rw [bitBytes, leBytes_length]

/-! ### Writes -/

theorem storeAddr_space {h l st o : Nat} (hh : h < 8) (hl : l < 96) (hst : st < 3) (ho : o < 2 ^ 48) : addrSpace (storeAddr h l st o) = 0 := by
  refine addrSpace_of_bounds (k := 0) (by decide) (by omega) ?_
  unfold storeAddr
  rw [Nat.shiftLeft_eq, Nat.shiftLeft_eq, Nat.shiftLeft_eq]
  omega

theorem State.modLoom_work (s : State) (h l : Nat) (f : Loom → Loom) : CardWork s (s.modLoom h l f) := rfl

theorem State.store_work (s : State) (ac : Access) {a : Nat} (h : addrSpace a ≠ 5) (bs : List Byte) : CardWork s (s.store ac a bs) := by
  have hstored := s.store_stored ac h bs
  unfold Stored at hstored
  unfold CardWork
  rw [hstored]

theorem cardPlace_lt (st n : Nat) : cardPlace st n < 2 ^ 48 := by
  unfold cardPlace storeSize
  split
  · omega
  · omega

theorem State.cardWrites_work {s : State} {h : Nat} {w : BitVec 128} (hh : h < 8) (hl : cardLoom w < 96) (n : Nat) :
    CardWork s (s.cardWrites h w n) := by
  induction n with
  | zero => rfl
  | succ n ih =>
    refine ih.trans ?_
    rw [State.cardWrites]
    dsimp only
    generalize s.cardWrites h w n = u
    split
    case isTrue hunit =>
      have hspace : addrSpace (storeAddr h (cardLoom w) (cardUnit w) (cardPlace (cardUnit w) u.draw.1)) ≠ 5 := by
        rw [storeAddr_space hh hl hunit (cardPlace_lt (cardUnit w) u.draw.1)]
        decide
      exact (CardWork.trans (u := u.draw.2) rfl (State.store_work _ _ hspace _)).trans (State.cardToken_only _ _ _ _).work
    case isFalse => exact u.modLoom_work _ _ _

/-- One WRITE into a store: its data at the free place, and nowhere else. -/
theorem State.cardWrites_one {s : State} {h : Nat} {w : BitVec 128} (hh : h < 8) (hl : cardLoom w < 96) (hunit : cardUnit w < 3) :
    (s.cardWrites h w 1).mem = s.mem.writeBytes (storeAddr h (cardLoom w) (cardUnit w) (cardPlace (cardUnit w) s.free)) (leBytes 8 (cardAddress w).toNat) := by
  have hspace := storeAddr_space hh hl hunit (cardPlace_lt (cardUnit w) s.free)
  have hkey := hostKey_of_space (fn := 0) hspace (by decide)
  have hstore := State.store_mem_of_plain (s := s.draw.2) (ac := Access.plain) (a := storeAddr h (cardLoom w) (cardUnit w) (cardPlace (cardUnit w) s.free)) rfl
    (by rw [hspace]; decide) (by rw [hspace]; decide) (leBytes 8 (cardAddress w).toNat)
  have hmean : s.cardWrites h w 1 = (s.draw.2.store Access.plain (storeAddr h (cardLoom w) (cardUnit w) (cardPlace (cardUnit w) s.free))
      (leBytes 8 (cardAddress w).toNat)).cardToken h w (cardPlace (cardUnit w) s.free) := by
    rw [State.cardWrites, State.cardWrites, if_pos hunit]
    rfl
  rw [hmean, State.cardToken_only]
  exact hstore.trans (congrArg (fun k => s.mem.writeBytes k _) hkey)

/-- WRITE to a unit that is no store moves no byte and gives the unit its control value. -/
theorem State.cardWrites_control {s : State} {h : Nat} {w : BitVec 128} (hunit : 3 ≤ cardUnit w) (n : Nat) : (s.cardWrites h w n).mem = s.mem ∧
    (n ≠ 0 → Table.get 0 ((s.cardWrites h w n).loom h (cardLoom w)).controls (cardUnit w) = (cardAddress w).setWidth 32) := by
  induction n with
  | zero => exact ⟨rfl, fun h => absurd rfl h⟩
  | succ n ih =>
    rw [State.cardWrites, if_neg (Nat.not_lt_of_ge hunit)]
    refine ⟨ih.1, fun _ => ?_⟩
    rw [State.modLoom_loom, if_pos rfl]
    exact (Table.get_set 0 _ _ _ _).trans (if_pos rfl)

/-! ### One word of an item -/

theorem State.modItem_self {s : State} {i : ItemId} {t : Item} (hi : s.item i = some t) {f : Item → Item} (hf : ∀ t, (f t).id = t.id) :
    (s.modItem i f).item i = some (f t) := by
  rw [State.modItem_item s i i f hf, if_pos rfl, hi, Option.map_some]

/-- What running one word leaves: the bytes it counts are `n`. -/
structure CardActed (s u : State) (t : Item) (n : Nat) : Prop where
  reach : CardReach s u
  item : u.item t.id = some { t with bytes := t.bytes + n }

theorem CardActed.of_work {s u : State} {t : Item} (h : CardWork s u) (hi : s.item t.id = some t) : CardActed s u t 0 := by
  refine ⟨h.reach, ?_⟩
  have hitems : u.items = s.items := by rw [h]
  rw [State.item, hitems]
  exact hi

theorem CardActed.counted {s u : State} {t : Item} {n : Nat} (h : CardActed s u t 0) :
    CardActed s (u.modItem t.id fun t => { t with bytes := t.bytes + n }) t n := by
  obtain ⟨hreach, hitem⟩ := h
  exact ⟨hreach.trans rfl, State.modItem_self hitem fun _ => rfl⟩

/-- The bytes that a word counts. -/
def cardCounts (w : BitVec 128) : Nat :=
  match cardAction w with
  | 0 | 1 => 8 * cardCount w
  | 2 => (cardCount w + 7) / 8
  | _ => 0

theorem TokensOnly.cardResults {s u : State} (h : TokensOnly s u) (fn : Nat) (w : Block512) (i : Nat) : u.cardResults fn w i = s.cardResults fn w i := by
  rw [h]
  rfl

theorem TokensOnly.access {s u : State} (h : TokensOnly s u) (fn : Nat) (w : Block512) : u.access fn w = s.access fn w := by
  rw [h]
  rfl

theorem TokensOnly.itemFunction {s u : State} (h : TokensOnly s u) (i : ItemId) : u.itemFunction i = s.itemFunction i := by
  rw [h]
  rfl

/-- Where word `k` of an item puts its results. -/
def State.cardTarget (s : State) (t : Item) (k : Nat) : Nat := winBase (t.winD 20) + s.cardResults (s.itemFunction t.id) (t.winD 16) k

/-- A word's results in the result window. -/
theorem State.cardResult_eq {s u : State} (h : TokensOnly s u) (t : Item) (k : Nat) (bs : List Byte) : u.cardResult t k bs =
    (u.store (s.access (s.itemFunction t.id) (t.winD 20)) (s.cardTarget t k) bs).modItem t.id fun t => { t with bytes := t.bytes + bs.length } := by
  rw [State.cardResult, h.itemFunction, h.access, h.cardResults]
  rfl

theorem State.cardResult_acted {s u : State} {t : Item} {k : Nat} (h : TokensOnly s u) (hi : s.item t.id = some t) (h5 : addrSpace (s.cardTarget t k) ≠ 5)
    (bs : List Byte) : CardActed s (u.cardResult t k bs) t bs.length := by
  rw [State.cardResult_eq h]
  exact (CardActed.of_work (h.work.trans (State.store_work _ _ h5 bs)) hi).counted

/-- A plain result window takes the results of word `k` at their place. -/
theorem State.cardResult_mem {s u : State} {t : Item} {k : Nat} (htokens : TokensOnly s u)
    (hkeys : (s.access (s.itemFunction t.id) (t.winD 20)).keys = none) (h5 : addrSpace (s.cardTarget t k) ≠ 5) (h2 : addrSpace (s.cardTarget t k) ≠ 2)
    (bs : List Byte) : (u.cardResult t k bs).mem = s.mem.writeBytes (hostKey (s.itemFunction t.id) (s.cardTarget t k)) bs := by
  have hmem : u.mem = s.mem := by rw [htokens]
  have hstore := State.store_mem_of_plain (s := u) (ac := s.access (s.itemFunction t.id) (t.winD 20)) (a := s.cardTarget t k) hkeys h5 h2 bs
  rw [State.access_function, hmem] at hstore
  rw [State.cardResult_eq htokens]
  exact hstore

section
variable {s : State} {t : Item} {k : Nat} {w : BitVec 128}

theorem State.cardAct_read (h : cardAction w = 0) : s.cardAct t k w =
    (s.cardReads t.hall w (cardCount w)).1.cardResult t k (s.cardReads t.hall w (cardCount w)).2 := by simp only [State.cardAct, h]

theorem State.cardAct_write (h : cardAction w = 1) : s.cardAct t k w =
    (s.cardWrites t.hall w (cardCount w)).modItem t.id fun t => { t with bytes := t.bytes + 8 * cardCount w } := by simp only [State.cardAct, h]

theorem State.cardAct_compare (h : cardAction w = 2) : s.cardAct t k w =
    (s.cardCompares t.hall w (cardCount w)).1.cardResult t k (bitBytes (s.cardCompares t.hall w (cardCount w)).2) := by simp only [State.cardAct, h]

theorem State.cardAct_pass (h : cardAction w = 3) : s.cardAct t k w = s.cardPass t.hall w := by simp only [State.cardAct, h]
theorem State.cardAct_mode (h : cardAction w = 4) : s.cardAct t k w = s.cardMode t.hall w := by simp only [State.cardAct, h]

variable (hi : s.item t.id = some t)
include hi

theorem State.cardAct_read_acted (h5 : addrSpace (s.cardTarget t k) ≠ 5) (h : cardAction w = 0) :
    CardActed s (s.cardAct t k w) t (8 * cardCount w) := by
  have hacted := State.cardResult_acted (s.cardReads_only t.hall w (cardCount w)) hi h5 (s.cardReads t.hall w (cardCount w)).2
  rwa [State.cardReads_length, ← State.cardAct_read h] at hacted

theorem State.cardAct_write_acted (hh : t.hall < 8) (hl : cardLoom w < 96) (h : cardAction w = 1) :
    CardActed s (s.cardAct t k w) t (8 * cardCount w) := by
  rw [State.cardAct_write h]
  exact (CardActed.of_work (State.cardWrites_work hh hl _) hi).counted

theorem State.cardAct_compare_acted (h5 : addrSpace (s.cardTarget t k) ≠ 5) (h : cardAction w = 2) :
    CardActed s (s.cardAct t k w) t ((cardCount w + 7) / 8) := by
  have hacted := State.cardResult_acted (s.cardCompares_only t.hall w (cardCount w)) hi h5 (bitBytes (s.cardCompares t.hall w (cardCount w)).2)
  rwa [bitBytes_length, State.cardCompares_length, ← State.cardAct_compare h] at hacted

theorem State.cardAct_pass_acted (h : cardAction w = 3) : CardActed s (s.cardAct t k w) t 0 := by
  rw [State.cardAct_pass h]
  exact CardActed.of_work (s.modLoom_work _ _ _) hi

theorem State.cardAct_mode_acted (h : cardAction w = 4) : CardActed s (s.cardAct t k w) t 0 := by
  rw [State.cardAct_mode h]
  exact CardActed.of_work (s.modLoom_work _ _ _) hi

end

/-! ### The item goes on or ends -/

/-- The item's words are one more, and with the last it ends. -/
def State.cardOnward (v : State) (t : Item) : State :=
  let u := v.modItem t.id fun x => { x with progress := t.progress + 1 }
  if t.progress + 1 = cardWords t then u.cardEnd t else u

/-- What the end of a word leaves of what the word did. -/
structure CardOnward (v u : State) (t : Item) (n : Nat) : Prop where
  rest : u = { v with full := u.full, items := u.items, streams := u.streams }
  item : ∃ x, u.item t.id = some x ∧ x.progress = t.progress + 1 ∧ x.bytes = t.bytes + n ∧
    (t.progress + 1 = cardWords t → x.phase = .decided) ∧ (t.progress + 1 ≠ cardWords t → x.phase = t.phase)
  tokens : t.progress + 1 ≠ cardWords t → u.full = v.full

theorem State.foldl_markEmpty_rest (l : List (Nat × Nat)) (s : State) : l.foldl (fun u p => u.markEmpty p.1 p.2) s = { s with
    full := (l.foldl (fun u p => u.markEmpty p.1 p.2) s).full } := by
  induction l generalizing s with
  | nil => rfl
  | cons p l ih => exact ih (s.markEmpty p.1 p.2)

theorem State.consume_rest (s : State) (t : Item) (r : Read) : s.consume t r = { s with full := (s.consume t r).full, streams := (s.consume t r).streams } := by
  unfold State.consume
  split
  · rw [State.foldl_markEmpty_rest]
  · split
    · rfl
    · rfl

theorem State.foldl_consume_rest (t : Item) (l : List Read) (s : State) : l.foldl (fun u r => u.consume t r) s = { s with
    full := (l.foldl (fun u r => u.consume t r) s).full, streams := (l.foldl (fun u r => u.consume t r) s).streams } := by
  induction l generalizing s with
  | nil => rfl
  | cons r l ih =>
    rw [List.foldl_cons]
    refine (ih _).trans ?_
    rw [s.consume_rest t r]

/-- The tokens of an item's end. -/
def State.cardConsumed (s : State) (t : Item) : State :=
  let u := (t.reads [16]).foldl (fun s r => s.consume t r) s
  if addrSpace (winBase (t.winD 20)) = 0 then u.markFull (winBase (t.winD 20)) (s.cardTotal t) else u

theorem State.cardEnd_eq (s : State) (t : Item) : s.cardEnd t = (s.cardConsumed t).finish t.id 0 := rfl

theorem State.cardConsumed_rest (s : State) (t : Item) : s.cardConsumed t = { s with
    full := (s.cardConsumed t).full, streams := (s.cardConsumed t).streams } := by
  have hrest := s.foldl_consume_rest t (t.reads [16])
  unfold State.cardConsumed
  dsimp only
  generalize (t.reads [16]).foldl (fun s r => s.consume t r) s = u at hrest ⊢
  split
  · rw [State.markFull_rest, hrest]
  · exact hrest

theorem State.cardOnward_goes {s v : State} {t : Item} {n : Nat} (h : CardActed s v t n) : CardOnward v (v.cardOnward t) t n := by
  have hitem := State.modItem_self h.item (f := fun x => { x with progress := t.progress + 1 }) fun _ => rfl
  unfold State.cardOnward
  dsimp only
  generalize hu : v.modItem t.id (fun x => { x with progress := t.progress + 1 }) = u at hitem
  have hrest : u = { v with items := u.items } := hu ▸ rfl
  by_cases hend : t.progress + 1 = cardWords t
  · have hconsumed := u.cardConsumed_rest t
    rw [if_pos hend, State.cardEnd_eq]
    generalize u.cardConsumed t = c at hconsumed
    have hc : c.item t.id = some { { t with bytes := t.bytes + n } with progress := t.progress + 1 } := by rw [hconsumed]; exact hitem
    have hdone := c.finish_item t.id t.id 0
    rw [if_pos rfl, hc, Option.map_some] at hdone
    refine ⟨?_, ⟨_, hdone, rfl, rfl, fun _ => rfl, fun hne => absurd hend hne⟩, fun hne => absurd hend hne⟩
    rw [State.finish_rest, hconsumed, hrest]
  · rw [if_neg hend]
    refine ⟨?_, ⟨_, hitem, rfl, rfl, fun heq => absurd heq hend, fun _ => rfl⟩, fun _ => ?_⟩
    · rw [hrest]
    · rw [hrest]

/-! ### Card words in DIAGNOSTIC state (R159) -/

/-- What lets an item's next card word run: everything but its action. -/
structure CardMay (s : State) (t : Item) (w : BitVec 128) : Prop where
  runnable : s.runnable t.id .cardRun = some t
  hall : s.hallRuns t.hall = true
  inside : (s.hall t.hall).treadle.diag = .inside
  ring : (s.hall t.hall).treadle.diagRing.toNat = t.id.ring % 2048
  calm : s.mod.resetDue = false
  windows : ∀ x ∈ t.wins, addrSpace (winBase x.2) ≠ 5
  target : addrSpace (s.cardTarget t t.progress) ≠ 5
  reads : s.readFault (s.itemFunction t.id) true (t.reads [16]) = none
  results : s.readFault (s.itemFunction t.id) false (t.reads [20]) = none
  word : s.cardWord (s.itemFunction t.id) (t.winD 16) t.progress = w
  free : cardReserved w = false
  here : s.cardHere t = true
  tokens : s.cardTokens t.hall w (cardOffsets w s.free) = true

/-- What every card word leaves: the item one word on, and what the word itself did. -/
structure CardDone (s v s' : State) (t : Item) (n : Nat) : Prop where
  item : ∃ u, s'.item t.id = some u ∧ u.progress = t.progress + 1 ∧ u.bytes = t.bytes + n ∧
    (t.progress + 1 = cardWords t → u.phase = .decided) ∧ (t.progress + 1 ≠ cardWords t → u.phase = t.phase)
  tokens : t.progress + 1 ≠ cardWords t → s'.full = v.full
  mem : s'.mem = v.mem
  poison : s'.poison = v.poison
  looms : s'.looms = v.looms
  knots : s'.knots = s.knots
  windows : s'.windows = s.windows
  rings : s'.rings = s.rings

theorem CardActed.done {s v : State} {t : Item} {n : Nat} (h : CardActed s v t n) : CardDone s v (v.cardOnward t) t n := by
  obtain ⟨hrest, hitem, htokens⟩ := State.cardOnward_goes h
  have hreach := h.reach
  generalize v.cardOnward t = u at hrest hitem htokens ⊢
  refine ⟨hitem, htokens, ?_, ?_, ?_, ?_, ?_, ?_⟩
  · rw [hrest]
  · rw [hrest]
  · rw [hrest]
  · rw [hrest, hreach]
  · rw [hrest, hreach]
  · rw [hrest, hreach]

section
variable {s : State} {t : Item} {w : BitVec 128} (h : CardMay s t w)
include h

theorem CardMay.item : s.item t.id = some t := State.runnable_item h.runnable

theorem CardMay.hall_lt : t.hall < 8 := by
  have hall := h.hall
  rw [State.hallRuns, Bool.and_eq_true] at hall
  exact State.hall_lt_of_up hall.1

theorem CardMay.fields : cardAction w < 5 ∧ cardLoom w < 96 ∧ cardCount w ≠ 0 := by
  have hfree := h.free
  simp only [cardReserved, Bool.or_eq_false_iff, decide_eq_false_iff_not, beq_eq_false_iff_ne] at hfree
  obtain ⟨⟨⟨-, haction⟩, hloom⟩, hcount⟩ := hfree
  exact ⟨Nat.lt_of_not_le haction, Nat.lt_of_not_le hloom, hcount⟩

theorem CardMay.next (only : Option Nat) : s.cardNext t.id only = if only.any fun a => a != cardAction w then s else
    ((if t.progress + 1 = cardWords t then ((s.cardAct t t.progress w).modItem t.id fun x => { x with progress := t.progress + 1 }).cardEnd t
      else (s.cardAct t t.progress w).modItem t.id fun x => { x with progress := t.progress + 1 }).afterManagementRead t).carryReset := by
  have hring : ¬((s.hall t.hall).treadle.diag ≠ .inside ∨ (s.hall t.hall).treadle.diagRing.toNat ≠ t.id.ring % 2048) := by
    rw [not_or, not_not, not_not]
    exact ⟨h.inside, h.ring⟩
  unfold State.cardNext
  rw [h.runnable]
  dsimp only
  rw [h.hall, if_neg (by decide : ¬(!true) = true), if_neg hring, h.reads, Option.orElse_none, h.results]
  dsimp only
  rw [h.here, h.word, h.free, h.tokens]
  by_cases honly : (only.any fun a => a != cardAction w) = true
  · rw [honly]
    rfl
  · rw [Bool.not_eq_true] at honly
    rw [honly]
    rfl

/-- A command for another action leaves the item as it is. -/
theorem CardMay.next_other {a : Nat} (ha : cardAction w ≠ a) : s.cardNext t.id (some a) = s := by
  rw [h.next]
  exact if_pos (by simpa using Ne.symm ha)

theorem CardMay.next_onward {n : Nat} (hacted : CardActed s (s.cardAct t t.progress w) t n) {only : Option Nat}
    (honly : only = none ∨ only = some (cardAction w)) : s.cardNext t.id only = (s.cardAct t t.progress w).cardOnward t := by
  have hany : ¬(only.any fun a => a != cardAction w) = true := by
    obtain rfl | rfl := honly
    · exact Bool.false_ne_true
    · simp
  have hmod : ((s.cardAct t t.progress w).cardOnward t).mod.resetDue = false := by
    rw [(State.cardOnward_goes hacted).rest, hacted.reach]
    exact h.calm
  rw [h.next, if_neg hany, State.afterManagementRead_of_windows h.windows]
  exact State.carryReset_of_calm hmod

theorem CardMay.done {n : Nat} (hacted : CardActed s (s.cardAct t t.progress w) t n) {only : Option Nat}
    (honly : only = none ∨ only = some (cardAction w)) : CardDone s (s.cardAct t t.progress w) (s.cardNext t.id only) t n := by
  rw [h.next_onward hacted honly]
  exact hacted.done

/-- READ: the words of the store in the result window. -/
theorem CardMay.read (haction : cardAction w = 0) :
    CardDone s (s.cardAct t t.progress w) (s.cardNext t.id (some 0)) t (8 * cardCount w) ∧
    ((s.access (s.itemFunction t.id) (t.winD 20)).keys = none → addrSpace (s.cardTarget t t.progress) ≠ 2 →
      (s.cardNext t.id (some 0)).mem = s.mem.writeBytes (hostKey (s.itemFunction t.id) (s.cardTarget t t.progress)) (s.cardReads t.hall w (cardCount w)).2) := by
  have hdone := h.done (State.cardAct_read_acted h.item h.target haction) (only := some 0) (Or.inr (congrArg some haction.symm))
  refine ⟨hdone, fun hkeys h2 => hdone.mem.trans ?_⟩
  rw [State.cardAct_read haction]
  exact State.cardResult_mem (s.cardReads_only _ _ _) hkeys h.target h2 _

/-- COMPARE: a bit a repetition in the result window. -/
theorem CardMay.compare (haction : cardAction w = 2) :
    CardDone s (s.cardAct t t.progress w) (s.cardNext t.id (some 2)) t ((cardCount w + 7) / 8) ∧
    ((s.access (s.itemFunction t.id) (t.winD 20)).keys = none → addrSpace (s.cardTarget t t.progress) ≠ 2 →
      (s.cardNext t.id (some 2)).mem = s.mem.writeBytes (hostKey (s.itemFunction t.id) (s.cardTarget t t.progress))
        (bitBytes (s.cardCompares t.hall w (cardCount w)).2)) := by
  have hdone := h.done (State.cardAct_compare_acted h.item h.target haction) (only := some 2) (Or.inr (congrArg some haction.symm))
  refine ⟨hdone, fun hkeys h2 => hdone.mem.trans ?_⟩
  rw [State.cardAct_compare haction]
  exact State.cardResult_mem (s.cardCompares_only _ _ _) hkeys h.target h2 _

/-- WRITE: its data in the store, or in the unit that is none. -/
theorem CardMay.write (haction : cardAction w = 1) :
    CardDone s (s.cardAct t t.progress w) (s.cardNext t.id (some 1)) t (8 * cardCount w) ∧
    (cardUnit w < 3 → cardCount w = 1 → (s.cardNext t.id (some 1)).mem =
      s.mem.writeBytes (storeAddr t.hall (cardLoom w) (cardUnit w) (cardPlace (cardUnit w) s.free)) (leBytes 8 (cardAddress w).toNat)) ∧
    (3 ≤ cardUnit w → (s.cardNext t.id (some 1)).mem = s.mem ∧
      Table.get 0 ((s.cardNext t.id (some 1)).loom t.hall (cardLoom w)).controls (cardUnit w) = (cardAddress w).setWidth 32) := by
  obtain ⟨-, hloom, hcount⟩ := h.fields
  have hdone := h.done (State.cardAct_write_acted h.item h.hall_lt hloom haction) (only := some 1) (Or.inr (congrArg some haction.symm))
  refine ⟨hdone, fun hunit hone => hdone.mem.trans ?_, fun hunit => ?_⟩
  · rw [State.cardAct_write haction, hone]
    exact State.cardWrites_one h.hall_lt hloom hunit
  · obtain ⟨hmem, hcontrol⟩ := State.cardWrites_control (s := s) (h := t.hall) (w := w) hunit (cardCount w)
    have hlooms := hdone.looms
    rw [State.cardAct_write haction] at hlooms
    refine ⟨hdone.mem.trans ?_, ?_⟩
    · rw [State.cardAct_write haction]
      exact hmem
    · rw [State.loom, hlooms]
      exact hcontrol hcount

/-- PASS and MODE: the unit's values, and no byte. -/
theorem CardMay.pass (haction : cardAction w = 3) :
    CardDone s (s.cardAct t t.progress w) (s.cardNext t.id (some 3)) t 0 ∧ (s.cardAct t t.progress w).full = s.full ∧
    (s.cardNext t.id (some 3)).mem = s.mem ∧ (s.cardNext t.id (some 3)).poison = s.poison ∧
    Table.get 0 ((s.cardNext t.id (some 3)).loom t.hall (cardLoom w)).controls (cardUnit w) = cardOperand w ∧
    Table.get 0 ((s.cardNext t.id (some 3)).loom t.hall (cardLoom w)).drives (cardUnit w) =
      Table.get 0 (s.loom t.hall (cardLoom w)).drives (cardUnit w) + cardCount w := by
  have hdone := h.done (State.cardAct_pass_acted h.item haction) (only := some 3) (Or.inr (congrArg some haction.symm))
  have hact : s.cardAct t t.progress w = s.cardPass t.hall w := State.cardAct_pass haction
  have hself : (s.cardPass t.hall w).loom t.hall (cardLoom w) = { s.loom t.hall (cardLoom w) with
      controls := Table.set 0 (s.loom t.hall (cardLoom w)).controls (cardUnit w) (cardOperand w)
      drives := Table.set 0 (s.loom t.hall (cardLoom w)).drives (cardUnit w) (Table.get 0 (s.loom t.hall (cardLoom w)).drives (cardUnit w) + cardCount w) } :=
    (s.modLoom_loom _ _ _ _ _).trans (if_pos rfl)
  rw [hact] at hdone ⊢
  have hloom : (s.cardNext t.id (some 3)).loom t.hall (cardLoom w) = (s.cardPass t.hall w).loom t.hall (cardLoom w) := by
    rw [State.loom, hdone.looms, State.loom]
  rw [hloom, hself]
  exact ⟨hdone, rfl, hdone.mem, hdone.poison, (Table.get_set 0 _ _ _ _).trans (if_pos rfl), (Table.get_set 0 _ _ _ _).trans (if_pos rfl)⟩

theorem CardMay.mode (haction : cardAction w = 4) :
    CardDone s (s.cardAct t t.progress w) (s.cardNext t.id (some 4)) t 0 ∧ (s.cardAct t t.progress w).full = s.full ∧
    (s.cardNext t.id (some 4)).mem = s.mem ∧ (s.cardNext t.id (some 4)).poison = s.poison ∧
    Table.get 0 ((s.cardNext t.id (some 4)).loom t.hall (cardLoom w)).modes (cardUnit w) = cardOperand w := by
  have hdone := h.done (State.cardAct_mode_acted h.item haction) (only := some 4) (Or.inr (congrArg some haction.symm))
  have hact : s.cardAct t t.progress w = s.cardMode t.hall w := State.cardAct_mode haction
  have hself : (s.cardMode t.hall w).loom t.hall (cardLoom w) = { s.loom t.hall (cardLoom w) with
      modes := Table.set 0 (s.loom t.hall (cardLoom w)).modes (cardUnit w) (cardOperand w) } := (s.modLoom_loom _ _ _ _ _).trans (if_pos rfl)
  rw [hact] at hdone ⊢
  have hloom : (s.cardNext t.id (some 4)).loom t.hall (cardLoom w) = (s.cardMode t.hall w).loom t.hall (cardLoom w) := by
    rw [State.loom, hdone.looms, State.loom]
  rw [hloom, hself]
  exact ⟨hdone, rfl, hdone.mem, hdone.poison, (Table.get_set 0 _ _ _ _).trans (if_pos rfl)⟩

/-- The word that runs has one of the five actions. -/
theorem CardMay.acted : ∃ n, CardActed s (s.cardAct t t.progress w) t n := by
  obtain ⟨haction, hloom, -⟩ := h.fields
  generalize ha : cardAction w = a at haction
  match a, haction with
  | 0, _ => exact ⟨_, State.cardAct_read_acted h.item h.target ha⟩
  | 1, _ => exact ⟨_, State.cardAct_write_acted h.item h.hall_lt hloom ha⟩
  | 2, _ => exact ⟨_, State.cardAct_compare_acted h.item h.target ha⟩
  | 3, _ => exact ⟨_, State.cardAct_pass_acted h.item ha⟩
  | 4, _ => exact ⟨_, State.cardAct_mode_acted h.item ha⟩
  | a + 5, hlt => exact absurd hlt (by omega)

end

/-! ### `CARD_RUN`, and words outside DIAGNOSTIC state (R159, R160) -/

theorem State.cardRunAll_repeat (i : ItemId) (n : Nat) (s : State) : s.cardRunAll i n = Nat.repeat (fun s => s.cardNext i none) n s := by
  induction n generalizing s with
  | zero => rfl
  | succ n ih =>
    have hcomm : ∀ (m : Nat) (u : State), Nat.repeat (fun s : State => s.cardNext i none) m (u.cardNext i none) =
        (Nat.repeat (fun s : State => s.cardNext i none) m u).cardNext i none := by
      intro m u
      induction m with
      | zero => rfl
      | succ m ihm => exact congrArg (fun x : State => x.cardNext i none) ihm
    exact (ih _).trans (hcomm n s)

theorem exec_cardRun {s : State} {it : ItemId} {t : Item} (hi : s.item it = some t) :
    exec (.cardRun it) s = .next (s.cardRunAll it (cardWords t - t.progress)) := by
  refine congrArg Host.Outcome.next ?_
  rw [State.cardRun, hi]

section
variable {s : State} {it : ItemId} {t : Item} (hrun : s.runnable it .cardRun = some t) (hall : s.hallRuns t.hall = true)
  (hout : (s.hall t.hall).treadle.diag ≠ .inside ∨ (s.hall t.hall).treadle.diagRing.toNat ≠ it.ring % 2048)
include hrun hall hout

theorem State.cardNext_outside (only : Option Nat) : s.cardNext it only = s.failItem it .access := by
  unfold State.cardNext
  rw [hrun]
  dsimp only
  rw [hall, if_neg (by decide : ¬(!true) = true), if_pos hout]

end

theorem mem_insertNat_of_mem {l : List Nat} {b : Nat} (h : b ∈ l) (a : Nat) : b ∈ insertNat l a := by
  induction l with
  | nil => exact absurd h List.not_mem_nil
  | cons c l ih =>
    rw [insertNat]
    split
    · obtain rfl | hmem := List.mem_cons.mp h
      · exact List.mem_cons_self ..
      · exact List.mem_cons_of_mem _ (ih hmem)
    · split
      · exact h
      · exact List.mem_cons_of_mem _ h

theorem mem_foldl_insertNat {l : List Nat} {b : Nat} : ∀ {m : List Nat}, b ∈ m ∨ b ∈ l → b ∈ l.foldl insertNat m := by
  induction l with
  | nil => exact fun h => h.resolve_right List.not_mem_nil
  | cons a l ih =>
    intro m h
    rw [List.foldl_cons]
    refine ih ?_
    obtain hm | hl := h
    · exact Or.inl (mem_insertNat_of_mem hm a)
    · obtain rfl | hmem := List.mem_cons.mp hl
      · exact Or.inl (mem_insertNat m b)
      · exact Or.inr hmem

/-- A failed item runs nowhere any more: the places where it ran are noted. -/
theorem State.runnable_failItem {s : State} {it : ItemId} {t : Item} (hi : s.item it = some t) (hfirst : t.failedAt = none) (hcall : t.caller = none)
    (st : Status) (o : Opcode) : (s.failItem it st).runnable it o = none := by
  obtain ⟨x, hx, hcallx, hphase, -⟩ := State.failItem_failedAlone hi hcall hfirst st
  have hplaces : (s.failItem it st).runningPlaces it = (s.failAt it st 0).runningPlaces it := rfl
  have hnoted : ∀ p ∈ (s.failItem it st).runningPlaces it, p ∈ x.failures := by
    have hhalt := (s.failAt it st 0).haltPieces_item it it
    rw [if_pos rfl, ← State.failItem, hx] at hhalt
    obtain ⟨y, hy, hxy⟩ := Option.map_eq_some_iff.mp hhalt.symm
    intro p hp
    rw [← hxy]
    exact mem_foldl_insertNat (Or.inr (hplaces ▸ hp))
  have hidle : (s.failItem it st).runsOn x = false := by
    have hid := State.item_id hx
    rw [State.runsOn, hid, Bool.and_eq_false_iff]
    refine Or.inr (List.any_eq_false.mpr fun p hp => ?_)
    rw [Bool.not_eq_true, Bool.not_eq_false', List.contains_iff_mem]
    exact hnoted p hp
  rw [State.runnable, hx]
  dsimp only
  rw [if_neg]
  rintro ⟨hruns, -⟩
  rw [hphase, hidle] at hruns
  exact hruns.elim nofun nofun

theorem State.cardRunAll_idle {s : State} {it : ItemId} (h : s.runnable it .cardRun = none) (n : Nat) : s.cardRunAll it n = s := by
  induction n with
  | zero => rfl
  | succ n ih =>
    have hone : s.cardNext it none = s := by
      unfold State.cardNext
      rw [h]
    rw [State.cardRunAll, hone, ih]

/-- Settles O60. -/
theorem cardWordsRun : Obligations.CardWordsRun := by
  unfold Obligations.CardWordsRun
  intro s it t hrun hall fn w rw a unit n plain keepsBut cards
  have hi := State.runnable_item hrun
  obtain rfl := State.item_id hi
  refine ⟨fun hdiag hring hcalm hwins h5 hreads hresults hfree hhere htokens => ?_, ?_, fun hout hfirst hcall => ?_⟩
  · have hmay : CardMay s t w := ⟨hrun, hall, hdiag, hring, hcalm, hwins, h5, hreads, hresults, rfl, hfree, hhere, htokens⟩
    have haction := hmay.fields.1
    have hplain : ∀ {s' : State} {bs : List Byte} {len : Nat}, bs.length = len → s'.mem = s.mem.writeBytes (hostKey fn a) bs →
        s'.mem.readBytes (hostKey fn a) len = bs ∧ ∀ y, y < hostKey fn a ∨ hostKey fn a + len ≤ y → s'.mem.read y = s.mem.read y := by
      intro s' bs len hlen hmem
      subst hlen
      rw [hmem]
      exact ⟨s.mem.readBytes_writeBytes _ bs, fun y hy => Memory.read_writeBytes_outside _ _ hy⟩
    refine ⟨fun x hx hact => ?_, fun x hx hact => ?_, fun hlast => ?_⟩
    · simp only [cards, List.mem_cons, List.not_mem_nil, or_false] at hx
      obtain rfl | rfl | rfl | rfl | rfl := hx
      case inl =>
        obtain ⟨hdone, hmem⟩ := hmay.read hact
        obtain ⟨u, hu, hprogress, hbytes, hended, hstays⟩ := hdone.item
        refine ⟨_, u, rfl, hu, hprogress, hended, fun hne => ⟨hstays hne, fun h3 => absurd h3 (by decide : ¬3 ≤ 0)⟩, hdone.knots, hdone.windows, hdone.rings,
          fun _ => ⟨hbytes, fun hunit hres => ?_, fun hres => ?_⟩, nofun, nofun, nofun, nofun⟩
        · have hres' := (hplain (s.cardReads_length t.hall w n) (hmem hres.1 hres.2)).1
          exact hres'.trans (State.cardReads_store hunit t.hall n)
        · exact (hplain (s.cardReads_length t.hall w n) (hmem hres.1 hres.2)).2
      case inr.inl =>
        obtain ⟨hdone, hstore, hcontrol⟩ := hmay.write hact
        obtain ⟨u, hu, hprogress, hbytes, hended, hstays⟩ := hdone.item
        refine ⟨_, u, rfl, hu, hprogress, hended, fun hne => ⟨hstays hne, fun h3 => absurd h3 (by decide : ¬3 ≤ 1)⟩, hdone.knots, hdone.windows, hdone.rings,
          nofun, fun _ => ⟨hbytes, fun hunit hone => ?_, hcontrol⟩, nofun, nofun, nofun⟩
        have hmem := hstore hunit hone
        have hread := s.mem.readBytes_writeBytes (storeAddr t.hall (cardLoom w) unit (cardPlace unit s.free)) (leBytes 8 (cardAddress w).toNat)
        rw [leBytes_length] at hread
        intro m
        refine ⟨?_, fun y hy => ?_⟩
        · rw [hmem]
          exact hread
        · rw [hmem]
          exact Memory.read_writeBytes_outside _ _ (by rwa [leBytes_length])
      case inr.inr.inl =>
        obtain ⟨hdone, hmem⟩ := hmay.compare hact
        obtain ⟨u, hu, hprogress, hbytes, hended, hstays⟩ := hdone.item
        have hlen : (bitBytes (s.cardCompares t.hall w n).2).length = (n + 7) / 8 := by rw [bitBytes_length, State.cardCompares_length]
        refine ⟨_, u, rfl, hu, hprogress, hended, fun hne => ⟨hstays hne, fun h3 => absurd h3 (by decide : ¬3 ≤ 2)⟩, hdone.knots, hdone.windows, hdone.rings,
          nofun, nofun, fun _ => ⟨hbytes, fun hunit hres => ?_, fun hres => ?_⟩, nofun, nofun⟩
        · have hres' := (hplain hlen (hmem hres.1 hres.2)).1
          exact hres'.trans (congrArg bitBytes (State.cardCompares_store hunit t.hall n))
        · exact (hplain hlen (hmem hres.1 hres.2)).2
      case inr.inr.inr.inl =>
        obtain ⟨hdone, hfull, hmem, hpoison, hcontrol, hdrives⟩ := hmay.pass hact
        obtain ⟨u, hu, hprogress, hbytes, hended, hstays⟩ := hdone.item
        exact ⟨_, u, rfl, hu, hprogress, hended, fun hne => ⟨hstays hne, fun _ => (hdone.tokens hne).trans hfull⟩, hdone.knots, hdone.windows, hdone.rings,
          nofun, nofun, nofun, fun _ => ⟨hmem, hpoison, hcontrol, hdrives⟩, nofun⟩
      case inr.inr.inr.inr =>
        obtain ⟨hdone, hfull, hmem, hpoison, hmode⟩ := hmay.mode hact
        obtain ⟨u, hu, hprogress, hbytes, hended, hstays⟩ := hdone.item
        exact ⟨_, u, rfl, hu, hprogress, hended, fun hne => ⟨hstays hne, fun _ => (hdone.tokens hne).trans hfull⟩, hdone.knots, hdone.windows, hdone.rings,
          nofun, nofun, nofun, nofun, fun _ => ⟨hmem, hpoison, hmode⟩⟩
    · simp only [cards, List.mem_cons, List.not_mem_nil, or_false] at hx
      obtain rfl | rfl | rfl | rfl | rfl := hx
      · exact congrArg Host.Outcome.next (hmay.next_other hact)
      · exact congrArg Host.Outcome.next (hmay.next_other hact)
      · exact congrArg Host.Outcome.next (hmay.next_other hact)
      · exact congrArg Host.Outcome.next (hmay.next_other hact)
      · exact congrArg Host.Outcome.next (hmay.next_other hact)
    · obtain ⟨k, hacted⟩ := hmay.acted
      obtain ⟨u, hu, hprogress, -, hended, -⟩ := (hmay.done hacted (only := none) (Or.inl rfl)).item
      refine ⟨s.cardNext t.id none, u, ?_, hu, hprogress, hended hlast⟩
      rw [exec_cardRun hi, ← hlast, Nat.add_sub_cancel_left]
      rfl
  · rw [exec_cardRun hi, State.cardRunAll_repeat]
  · have hfails : ∀ only, ∃ s', Host.Outcome.next (s.cardNext t.id only) = (.next s' : Host.Outcome State Fault Refusal) ∧
        s'.failedWith t.id .access ∧ s'.sameBytes s := fun only =>
      ⟨_, congrArg Host.Outcome.next (State.cardNext_outside hrun hall hout only), State.failItem_failedWith hi hfirst hcall _,
        (s.failItem_isQuiet _ _).sameBytes⟩
    refine ⟨fun x hx => ?_, fun hleft => ?_⟩
    · simp only [cards, List.mem_cons, List.not_mem_nil, or_false] at hx
      obtain rfl | rfl | rfl | rfl | rfl := hx
      · exact hfails (some 0)
      · exact hfails (some 1)
      · exact hfails (some 2)
      · exact hfails (some 3)
      · exact hfails (some 4)
    · obtain ⟨k, hk⟩ := Nat.exists_eq_succ_of_ne_zero (Nat.sub_ne_zero_of_lt hleft)
      refine ⟨_, ?_, State.failItem_failedWith hi hfirst hcall .access, (s.failItem_isQuiet t.id .access).sameBytes⟩
      rw [exec_cardRun hi, hk, State.cardRunAll, State.cardNext_outside hrun hall hout,
        State.cardRunAll_idle (State.runnable_failItem hi hfirst hcall .access .cardRun)]

end Sys2Proof.Machine
end

section
/-!
A sealed `OFFLOAD` closes its host window first, and the close fails every `RECV` that waits on that window (R189). A `RECV` that a call emitted takes
the item that called it along; nothing in the premises keeps the `OFFLOAD` itself from being that item.
-/
namespace Sys2Proof.Machine
open Sys2Proof.Tests

/-- A `RECV` that waits on the host window of `offloading`, emitted by `offloading` itself. -/
def waitingRecv : Item := { item0 (block [(0, 0x54), (128, 2)]) [] with id := ⟨0, 1, 0⟩, phase := .external, caller := some id0 }

/-- The sealed `OFFLOAD` of a context with no key, and that `RECV`. -/
def offloadCalling : State := { holding offloading with items := [offloading, waitingRecv], windows := [(2, hostWin)] }

theorem offloadCalling_runs : Runs offloadCalling id0 .offload offloading := runs_of (by decide +kernel)

theorem offloadCalling_status : ((offloadCalling.withItem id0 .offload fun t s =>
    if sealedMove .offload (t.winD 16) (t.winD 20) then s.offloadSealed t else State.moveShape .offload t s).item id0).map Item.status =
      some .windowClosed := by decide +kernel

/-- Refutes O26: the `OFFLOAD` has no key, but the `RECV` that its close fails fails it first, with `ST_WINDOW_CLOSED`. -/
theorem not_prefetchAndSealedOffload : ¬ Obligations.PrefetchAndSealedOffload := by
  unfold Obligations.PrefetchAndSealedOffload
  rintro ⟨-, hoffload, -⟩
  obtain ⟨-, -, hkeyless, -⟩ := hoffload offloadCalling id0 offloading offloadCalling_runs (by decide +kernel) rfl rfl
    (fun _ => by decide +kernel) (by decide +kernel)
  obtain ⟨s', hrun, ⟨u, hitem, -, hstatus⟩, -⟩ := hkeyless (by decide +kernel) (by decide +kernel) (by decide +kernel)
  rw [← Host.Outcome.next.inj hrun] at hitem
  have hclosed := offloadCalling_status
  rw [hitem] at hclosed
  exact absurd (hstatus.symm.trans (Option.some.inj hclosed)) (by decide)

end Sys2Proof.Machine
end
section
/-!
`WINDOW_CLOSE` waits for the writes that name it, on whatever window they are being taken in.
-/
namespace Sys2Proof.Machine
open Sys2Proof.Tests

/-- A `WINDOW_CLOSE` of window 2, which is open. -/
def closing : Item := item0 (block [(0, 0x57), (128, 2)]) []

/-- A write to window 3 that names the `WINDOW_CLOSE` of window 2. -/
def strayWrite : Receiving := ⟨0, ⟨0, 0, 0, 0, 0, 1, false, 0, 0, 0, false, 0⟩, 3, 0, [], [id0]⟩

def closingStray : State := { holding closing with windows := [(2, win 0x1000000 0x0A 1 1 64)], rxs := [strayWrite] }

theorem closingStray_runs : Runs closingStray id0 .windowClose closing := runs_of (by decide +kernel)

theorem closingStray_phase : ((closingStray.withItem id0 .windowClose State.windowClose).item id0).map Item.phase = some .external := by decide +kernel

/-- Refutes O51: no write is being taken in on the window that closes, but one on another window keeps the close waiting. -/
theorem not_sendsAndReceivers : ¬ Obligations.SendsAndReceivers := by
  unfold Obligations.SendsAndReceivers
  rintro ⟨-, -, -, -, -, -, -, -, -, hclose⟩
  obtain ⟨-, hopen⟩ := hclose closingStray id0 closing closingStray_runs (by decide +kernel)
  obtain ⟨s', hrun, -, -, -, -, -, hdone⟩ := hopen (by decide +kernel) (by decide +kernel)
  obtain ⟨u, hitem, hphase, -⟩ := hdone (by decide +kernel)
  rw [← Host.Outcome.next.inj hrun] at hitem
  have hwaits := closingStray_phase
  rw [hitem] at hwaits
  exact absurd (hphase.symm.trans (Option.some.inj hwaits)) (by decide)

end Sys2Proof.Machine
end

section
/-!
The end of an update that writes its counter: the 8 bytes of the counter count as bytes of the item (R10, R249).
-/
namespace Sys2Proof.Machine
open Sys2Proof.Tests

/-- The bytes of the item once its update has ended, the counter written. -/
theorem updateEnd_countsBytes :
    (((selvedged false 5 (some (running 1))).updateEnd 12).item id0).map Item.bytes = some 8 := by decide +kernel

/-- Refutes O46: its clause on the end leaves the item's bytes as they were, but an update that writes its counter has moved 8 more. -/
theorem not_selvedgeUpdates : ¬ Obligations.SelvedgeUpdates := by
  unfold Obligations.SelvedgeUpdates
  rintro ⟨-, -, hend, -⟩
  obtain ⟨hrun, hitem, hphase, htotal, -, hwaits, hholds, hhere, hcut, -⟩ := witness_update_end
  obtain ⟨s', hnext, -, -, ⟨x, hx, -, hbytes⟩, -⟩ := hend _ 12 (update0 5) [] (running 1) (updating false) hrun rfl hitem hphase htotal hwaits
    hholds hhere hcut
  rw [← Host.Outcome.next.inj hnext] at hx
  have hmoved : some x.bytes = some 8 := (congrArg (Option.map Item.bytes) hx).symm.trans updateEnd_countsBytes
  exact absurd (hbytes.symm.trans (Option.some.inj hmoved)) (by decide)

end Sys2Proof.Machine
end

section
/-!
The steps of a tile on its loom: what they leave alone, and the tile they leave behind (R65, R75, R89, R95).
-/
namespace Sys2Proof.Machine

/-- What a step of a tile may change, besides its item: the looms, the tokens of operands, the counters and the fresh numbers. -/
def Woven (s s' : State) : Prop :=
  s' = { s with looms := s'.looms, full := s'.full, streams := s'.streams, counters := s'.counters, free := s'.free }

theorem Woven.refl (s : State) : Woven s s := rfl

theorem Woven.trans {s s' s'' : State} (h : Woven s s') (k : Woven s' s'') : Woven s s'' := by
  unfold Woven at h k ⊢
  rw [k, h]

theorem Woven.of_took {s s' : State} (h : Took s s') : Woven s s' := by
  unfold Took at h
  unfold Woven
  rw [h]

theorem Woven.foldl {α : Type} {f : State → α → State} (hf : ∀ s a, Woven s (f s a)) (l : List α) (s : State) : Woven s (l.foldl f s) := by
  induction l generalizing s with
  | nil => exact Woven.refl s
  | cons a l ih => exact (hf s a).trans (ih (f s a))

section
variable {s s' : State} (h : Woven s s')
include h

theorem Woven.items : s'.items = s.items := by rw [h]
theorem Woven.item (i : ItemId) : s'.item i = s.item i := by rw [h]; rfl
theorem Woven.mem : s'.mem = s.mem := by rw [h]
theorem Woven.poison : s'.poison = s.poison := by rw [h]
theorem Woven.knots : s'.knots = s.knots := by rw [h]
theorem Woven.unitLoom (t : Item) (u : Nat) : s'.unitLoom t u = s.unitLoom t u := by rw [h]; rfl
theorem Woven.liveTile (r : TileRun) : s'.liveTile r = s.liveTile r := by rw [h]; rfl

end

theorem State.bump_woven (s : State) (p sel n : Nat) : Woven s (s.bump p sel n) := rfl

theorem State.modLoom_woven (s : State) (h l : Nat) (f : Loom → Loom) : Woven s (s.modLoom h l f) := rfl

theorem State.putTile_woven (s : State) (h l : Nat) (r : TileRun) : Woven s (s.putTile h l r) := rfl

theorem State.putAccums_woven (s : State) (h l : Nat) (r : TileRun) : Woven s (s.putAccums h l r) := rfl

/-- Only the counters differ. -/
def Counted (s s' : State) : Prop := s' = { s with counters := s'.counters }

theorem Counted.trans {s s' s'' : State} (h : Counted s s') (k : Counted s' s'') : Counted s s'' := by
  unfold Counted at h k ⊢
  rw [k, h]

/-- One counter of a step: nothing where there is nothing to count. -/
theorem State.countOne_counted (s : State) (h l sel n : Nat) : Counted s (if n = 0 then s else s.bump (pgLoom h l) sel n) := by
  split <;> rfl

/-- What a step counts changes nothing but the counters. -/
theorem State.countSteps_counted (s : State) (h l : Nat) (c : Counts) : Counted s (s.countSteps h l c) :=
  ((((s.countOne_counted h l 0x20 c.replays).trans (State.countOne_counted _ h l 0x21 c.wide)).trans
    (State.countOne_counted _ h l 0x22 c.ignored)).trans (State.countOne_counted _ h l 0x23 c.discarded)).trans
    (State.countOne_counted _ h l 0x24 c.infinite)

theorem State.countSteps_rest (s : State) (h l : Nat) (c : Counts) :
    s.countSteps h l c = { s with counters := (s.countSteps h l c).counters } := s.countSteps_counted h l c

theorem State.countSteps_woven (s : State) (h l : Nat) (c : Counts) : Woven s (s.countSteps h l c) := by
  unfold Woven
  rw [State.countSteps_rest]

theorem State.countSteps_loom (s : State) (h l : Nat) (c : Counts) (a b : Nat) : (s.countSteps h l c).loom a b = s.loom a b := by
  rw [State.countSteps_rest]
  rfl

theorem State.putAccums_loom (s : State) (h l : Nat) (r : TileRun) (a b : Nat) :
    (s.putAccums h l r).loom a b = { s.loom a b with accums := ((s.putAccums h l r).loom a b).accums } := by
  unfold State.putAccums
  dsimp only
  rw [State.modLoom_loom]
  by_cases hk : loomKey h l = loomKey a b
  · rw [if_pos hk]
    unfold State.loom State.draw
    rw [hk]
  · rw [if_neg hk]
    rfl

theorem Took.loom {s s' : State} (h : Took s s') (a b : Nat) : s'.loom a b = s.loom a b := by
  unfold Took at h
  rw [h]
  rfl

/-- Emptying slots takes granules away and the slots with them. -/
theorem State.emptySlots_took (s : State) (h l : Nat) (f : Slot → Bool) :
    Took (s.modLoom h l fun lm => { lm with slots := lm.slots.filter fun x => !f x }) (s.emptySlots h l f) :=
  Took.foldl (f := fun s (x : Slot) => s.markEmpty x.base x.len) (fun _ _ => rfl) _ _

theorem State.emptySlots_woven (s : State) (h l : Nat) (f : Slot → Bool) : Woven s (s.emptySlots h l f) :=
  (s.modLoom_woven h l _).trans (Woven.of_took (s.emptySlots_took h l f))

theorem State.emptySlots_loom (s : State) (h l : Nat) (f : Slot → Bool) (a b : Nat) :
    (s.emptySlots h l f).loom a b = { s.loom a b with slots := ((s.emptySlots h l f).loom a b).slots } := by
  rw [(s.emptySlots_took h l f).loom, State.modLoom_loom]
  by_cases hk : loomKey h l = loomKey a b
  · rw [if_pos hk]
    unfold State.loom
    rw [hk]
  · rw [if_neg hk]

theorem State.freeSlots_took (s : State) (m : Mat) (u lo hi : Nat) : Took (s.emptySlots m.t.hall (s.unitLoom m.t u) fun x =>
    x.item == m.t.id && x.unit == u && decide (partLast m.sh x.part < hi)) (s.freeSlots m u lo hi) :=
  Took.foldl (fun v r => v.consumeExcept_took m.t _ r) _ _

theorem State.freeSlots_woven (s : State) (m : Mat) (u lo hi : Nat) : Woven s (s.freeSlots m u lo hi) :=
  (s.emptySlots_woven _ _ _).trans (Woven.of_took (s.freeSlots_took m u lo hi))

theorem State.freeSlots_loom (s : State) (m : Mat) (u lo hi a b : Nat) :
    (s.freeSlots m u lo hi).loom a b = { s.loom a b with slots := ((s.freeSlots m u lo hi).loom a b).slots } := by
  rw [(s.freeSlots_took m u lo hi).loom]
  exact s.emptySlots_loom _ _ _ a b

theorem State.stepTile_woven (s : State) (m : Mat) (h l : Nat) (r r' : TileRun) (c : Counts) : Woven s (s.stepTile m h l r r' c) :=
  (((s.putTile_woven h l r').trans (State.putAccums_woven _ h l r')).trans (State.countSteps_woven _ h l c)).trans (State.freeSlots_woven _ m _ _ _)

/-- A step leaves the tiles, the warp tiles and the latches of every loom as the tile's replacement leaves them. -/
theorem State.stepTile_loom (s : State) (m : Mat) (h l : Nat) (r r' : TileRun) (c : Counts) (a b : Nat) :
    ((s.stepTile m h l r r' c).loom a b).runs = ((s.putTile h l r').loom a b).runs ∧
    ((s.stepTile m h l r r' c).loom a b).active = (s.loom a b).active ∧ ((s.stepTile m h l r r' c).loom a b).shadow = (s.loom a b).shadow := by
  unfold State.stepTile
  rw [State.freeSlots_loom, State.countSteps_loom, State.putAccums_loom]
  refine ⟨rfl, ?_⟩
  unfold State.putTile
  rw [State.modLoom_loom]
  by_cases hk : loomKey h l = loomKey a b
  · have hloom : s.loom h l = s.loom a b := by unfold State.loom; rw [hk]
    rw [if_pos hk, hloom]
    dsimp only
    split <;> exact ⟨rfl, rfl⟩
  · rw [if_neg hk]
    exact ⟨rfl, rfl⟩

/-! ### The granules that a step may set free -/

theorem State.consume_full (s : State) (t : Item) (r : Read) : ∀ g ∈ (s.consume t r).full, g ∈ s.full := by
  unfold State.consume
  split
  · generalize r.all = l
    induction l generalizing s with
    | nil => exact fun _ => id
    | cons p l ih => exact fun g hg => List.mem_of_mem_filter (ih (s.markEmpty p.1 p.2) g hg)
  · split <;> exact fun _ => id

theorem State.consumeExcept_full (s : State) (t : Item) (left : List Read) (r : Read) : ∀ g ∈ (s.consumeExcept t left r).full, g ∈ s.full := by
  unfold State.consumeExcept
  split
  · exact fun _ => List.mem_of_mem_filter
  · exact s.consume_full t _

theorem State.foldl_full {α : Type} {f : State → α → State} (hf : ∀ s a, ∀ g ∈ (f s a).full, g ∈ s.full) (l : List α) (s : State) :
    ∀ g ∈ (l.foldl f s).full, g ∈ s.full := by
  induction l generalizing s with
  | nil => exact fun _ => id
  | cons a l ih => exact fun g hg => hf s a g (ih (f s a) g hg)

theorem State.emptySlots_full (s : State) (h l : Nat) (f : Slot → Bool) : ∀ g ∈ (s.emptySlots h l f).full, g ∈ s.full :=
  State.foldl_full (f := fun s (x : Slot) => s.markEmpty x.base x.len) (fun _ _ _ => List.mem_of_mem_filter) _ (s.modLoom h l _)

theorem State.freeSlots_full (s : State) (m : Mat) (u lo hi : Nat) : ∀ g ∈ (s.freeSlots m u lo hi).full, g ∈ s.full := fun g hg =>
  s.emptySlots_full _ _ _ g (State.foldl_full (fun v r => v.consumeExcept_full m.t _ r) _ _ g hg)

theorem State.stepTile_full (s : State) (m : Mat) (h l : Nat) (r r' : TileRun) (c : Counts) : ∀ g ∈ (s.stepTile m h l r r' c).full, g ∈ s.full := by
  intro g hg
  have hcount := State.freeSlots_full _ m _ _ _ g hg
  rw [State.countSteps_rest] at hcount
  exact hcount

/-! ### The tile of a unit -/

theorem Loom.tile_key {lm : Loom} {i : ItemId} {u : Nat} {r : TileRun} (h : lm.tile i u = some r) : r.item = i ∧ r.unit = u := by
  have hkey := List.find?_some h
  rw [Bool.and_eq_true, beq_iff_eq, beq_iff_eq] at hkey
  exact hkey

theorem State.tileNow_key (s : State) (m : Mat) (u : Nat) : (s.tileNow m u).item = m.t.id ∧ (s.tileNow m u).unit = u := by
  unfold State.tileNow
  cases htile : s.tileOf m.t u with
  | none => exact ⟨rfl, rfl⟩
  | some r => exact Loom.tile_key htile

/-- The tile put on its loom is the tile of its unit. -/
theorem State.putTile_tile (s : State) (h l : Nat) (r : TileRun) : ((s.putTile h l r).loom h l).tile r.item r.unit = some r := by
  unfold State.putTile
  rw [State.modLoom_loom, if_pos rfl]
  unfold Loom.tile
  split
  case isTrue hany =>
    dsimp only
    generalize (s.loom h l).runs = l at hany
    induction l with
    | nil => simp at hany
    | cons x l ih =>
      rw [List.any_cons] at hany
      rw [List.map_cons, List.find?_cons]
      by_cases hx : (x.item == r.item && x.unit == r.unit) = true
      · rw [if_pos hx]
        simp
      · rw [if_neg hx, Bool.not_eq_true] at *
        rw [hx, Bool.false_or] at hany
        rw [hx]
        exact ih hany
  case isFalse hnone =>
    have hrest : ((s.loom h l).runs.filter s.liveTile).find? (fun x => x.item == r.item && x.unit == r.unit) = none :=
      List.find?_eq_none.mpr fun x hx hkey => hnone (List.any_eq_true.mpr ⟨x, List.mem_of_mem_filter hx, hkey⟩)
    rw [List.find?_append, hrest]
    simp

/-! ### `TILE_PASS` -/

theorem State.ranOn_names (s : State) (i : ItemId) (l : Nat) : (s.ranOn i l).items.map Item.name = s.items.map Item.name := by
  unfold State.ranOn State.modItem
  rw [List.map_map]
  refine List.map_congr_left fun t _ => ?_
  rw [Function.comp_apply]
  split <;> rfl

/-- The registers that a pass finds: its warp tile in the active ones. -/
def Loom.forPass (lm : Loom) (m : Mat) (u pass : Nat) : Loom := if m.sameTile u pass lm.active then lm else lm.swap

theorem State.tilePass_eq {s : State} {h l : Nat} {p : Piece} {m : Mat} (hhead : s.matrixHead h l = some (p, m)) (hroute : s.cutOff m.t = false)
    (hstart : s.passMayStart m (s.loom h l) p = true)
    (hwarp : m.sameTile p.unit (s.tileNow m p.unit).pass (s.loom h l).active = true ∨
      m.sameTile p.unit (s.tileNow m p.unit).pass (s.loom h l).shadow = true)
    (hfault : s.passFault m p.unit (s.tileNow m p.unit).pass = none) :
    s.tilePass h l = ((s.modLoom h l fun _ => (s.loom h l).forPass m p.unit (s.tileNow m p.unit).pass).stepTile m h l (s.tileNow m p.unit)
      (s.stepPass m ((s.loom h l).forPass m p.unit (s.tileNow m p.unit).pass).active.rows (s.tileNow m p.unit)).1
      (s.stepPass m ((s.loom h l).forPass m p.unit (s.tileNow m p.unit).pass).active.rows (s.tileNow m p.unit)).2).ranOn m.t.id l := by
  unfold State.tilePass
  rw [hhead]
  dsimp only
  rw [State.orCut_of_route hroute, hstart, hfault]
  unfold Loom.forPass
  cases hactive : m.sameTile p.unit (s.tileNow m p.unit).pass (s.loom h l).active with
  | true => rfl
  | false =>
    have hshadow := hwarp.resolve_left (by rw [hactive]; decide)
    rw [hshadow]
    rfl

theorem Loom.forPass_rows (lm : Loom) (m : Mat) (u pass : Nat) :
    (lm.forPass m u pass).active.rows = if m.sameTile u pass lm.active = true then lm.active.rows else lm.shadow.rows := by
  unfold Loom.forPass
  cases m.sameTile u pass lm.active <;> rfl

/-- Settles O35. -/
theorem tilePassAdvancesTheTile : Obligations.TilePassAdvancesTheTile := by
  unfold Obligations.TilePassAdvancesTheTile
  intro s h l p m hhead _ hloom hhall hroute
  dsimp only
  intro hstart hwarp hfault
  rw [← Loom.forPass_rows]
  have heq := s.tilePass_eq hhead hroute hstart hwarp hfault
  obtain ⟨hitem, hunit⟩ := s.tileNow_key m p.unit
  have hunfinished : (s.tileNow m p.unit).finished = false := by
    unfold State.passMayStart Mat.mayStart at hstart
    simp only [Bool.and_eq_true, Bool.not_eq_true'] at hstart
    exact hstart.1.1.2.1.1.1
  generalize hlm : (s.loom h l).forPass m p.unit (s.tileNow m p.unit).pass = lm at heq ⊢
  generalize hr : s.tileNow m p.unit = r at *
  generalize hstep : s.stepPass m lm.active.rows r = step at *
  have hr' : step.1.item = m.t.id ∧ step.1.unit = p.unit ∧ step.1.pass = r.pass + 1 ∧ step.1.finished = false := by
    rw [← hstep]
    exact ⟨hitem, hunit, rfl, hunfinished⟩
  obtain ⟨hitem', hunit', hpass', hfin'⟩ := hr'
  generalize hu : (s.modLoom h l fun _ => lm) = u at heq
  have hw : Woven s (u.stepTile m h l r step.1 step.2) := by
    rw [← hu]
    exact (s.modLoom_woven h l _).trans (State.stepTile_woven _ m h l r step.1 step.2)
  have hloomu : u.loom h l = lm := by rw [← hu, State.modLoom_loom, if_pos rfl]
  obtain ⟨hruns, hactive, hshadow⟩ := u.stepTile_loom m h l r step.1 step.2 h l
  rw [hloomu] at hactive hshadow
  refine ⟨_, step.1, congrArg Host.Outcome.next heq, ?_, rfl, hpass', hfin', fun hsame => ?_, fun hsame => ?_, hw.mem, hw.poison, fun g hg => ?_, ?_, hw.knots⟩
  · change ((u.stepTile m h l r step.1 step.2).loom m.t.hall ((u.stepTile m h l r step.1 step.2).unitLoom m.t p.unit)).tile m.t.id p.unit = some step.1
    rw [hw.unitLoom, hloom, hhall, ← hitem', ← hunit']
    unfold Loom.tile
    rw [hruns]
    exact u.putTile_tile h l step.1
  · have hstay : lm = s.loom h l := by rw [← hlm]; unfold Loom.forPass; rw [hsame]; rfl
    exact ⟨hactive.trans (congrArg Loom.active hstay), hshadow.trans (congrArg Loom.shadow hstay)⟩
  · have hswap : lm = (s.loom h l).swap := by rw [← hlm]; unfold Loom.forPass; rw [hsame]; rfl
    exact ⟨hactive.trans (congrArg Loom.active hswap), hshadow.trans (congrArg Loom.shadow hswap)⟩
  · have hfull := u.stepTile_full m h l r step.1 step.2 g hg
    rw [← hu] at hfull
    exact hfull
  · rw [State.ranOn_names, hw.items]

end Sys2Proof.Machine
end

section
/-!
`PROMOTION` (R89) and `REPLAY_RERUN` (R95): the tiles that they leave, and the granules that a promotion sets free (R75, R91).
-/
namespace Sys2Proof.Machine

/-! ### The granules set free -/

theorem State.foldl_markEmpty_mem (xs : List Slot) (s : State) (g : Nat) :
    g ∈ (xs.foldl (fun s x => s.markEmpty x.base x.len) s).full ↔ g ∈ s.full ∧ ∀ x ∈ xs, g ∉ granulesOf x.base x.len := by
  induction xs generalizing s with
  | nil => simp
  | cons x xs ih =>
    rw [List.foldl_cons, ih, State.markEmpty]
    simp only [List.mem_filter, Bool.not_eq_true', List.contains_eq_mem, decide_eq_false_iff_not, List.mem_cons, forall_eq_or_imp, and_assoc]

theorem State.emptySlots_mem (s : State) (h l : Nat) (f : Slot → Bool) (g : Nat) : g ∈ (s.emptySlots h l f).full ↔
    g ∈ s.full ∧ ∀ x ∈ (s.loom h l).slots, f x = true → g ∉ granulesOf x.base x.len := by
  unfold State.emptySlots
  rw [State.foldl_markEmpty_mem]
  simp only [List.mem_filter, and_imp]
  exact Iff.rfl

/-- Taking an operand outside the loom stores leaves every granule. -/
theorem State.consumeExcept_mem (s : State) (t : Item) (left : List Read) (r : Read) (g : Nat) : g ∈ (s.consumeExcept t left r).full ↔
    g ∈ s.full ∧ ¬(g ∈ r.granules ∧ ∀ q ∈ left, g ∉ q.granules) := by
  unfold State.consumeExcept
  by_cases hspace : addrSpace (winBase r.win) = 0
  · rw [if_pos hspace]
    simp only [List.mem_filter, Bool.not_eq_true', List.contains_eq_mem, decide_eq_false_iff_not, List.mem_flatMap]
    simp only [not_exists, not_and]
  · rw [if_neg hspace]
    have hnone : r.granules = [] := if_neg hspace
    have hfull : (s.consume t { r with rows := r.rows.filter fun i =>
        !((left.filter fun x => x.handle == r.handle).flatMap (·.rows)).contains i }).full = s.full := by
      unfold State.consume
      rw [if_neg hspace]
      split <;> rfl
    rw [hfull, hnone]
    simp

theorem State.foldl_consumeExcept_mem (t : Item) (left rs : List Read) (s : State) (g : Nat) :
    g ∈ (rs.foldl (fun s r => s.consumeExcept t left r) s).full ↔
      g ∈ s.full ∧ ¬((∃ q ∈ rs, g ∈ q.granules) ∧ ∀ q ∈ left, g ∉ q.granules) := by
  induction rs generalizing s with
  | nil => simp
  | cons r rs ih =>
    rw [List.foldl_cons, ih, State.consumeExcept_mem]
    have hcons : (∃ q ∈ r :: rs, g ∈ q.granules) ↔ g ∈ r.granules ∨ ∃ q ∈ rs, g ∈ q.granules := by simp
    rw [hcons, or_and_right, not_or, and_assoc]

theorem Took.passNeeds {s s' : State} (h : Took s s') (m : Mat) (u : Nat) : s'.passNeeds m u = s.passNeeds m u := by
  unfold Took at h
  rw [h]
  rfl

theorem State.freeSlots_mem (s : State) (m : Mat) (u lo hi g : Nat) : g ∈ (s.freeSlots m u lo hi).full ↔ g ∈ s.full ∧
    (∀ x ∈ (s.loom m.t.hall (s.unitLoom m.t u)).slots, x.item = m.t.id → x.unit = u → partLast m.sh x.part < hi → g ∉ granulesOf x.base x.len) ∧
    ¬((∃ q ∈ m.runReads u lo (hi - lo), g ∈ q.granules) ∧
      ∀ v, v < m.t.unitCount → ∀ q ∈ (s.freeSlots m u lo hi).passNeeds m v, g ∉ q.granules) := by
  simp only [(s.freeSlots_took m u lo hi).passNeeds]
  unfold State.freeSlots
  rw [State.foldl_consumeExcept_mem, State.emptySlots_mem]
  simp only [List.mem_flatMap, List.mem_range, Bool.and_eq_true, beq_iff_eq, decide_eq_true_eq, and_imp, and_assoc, forall_exists_index]
  refine and_congr_right fun _ => and_congr_right fun _ => not_congr (and_congr_right fun _ => ?_)
  exact ⟨fun h v hv q hq => h q v hv hq, fun h q v hv hq => h v hv q hq⟩

/-! ### A promotion -/

theorem ShaftRun.promote_fields (x : ShaftRun) (hi : Nat) : (x.promote hi).base = hi ∧ (x.promote hi).level = x.level ∧
    (x.promote hi).tags = x.tags ∧ (x.promote hi).done = x.done ∧ (4 ≤ x.level → (x.promote hi).land = x.land) := by
  unfold ShaftRun.promote
  split
  next hlow => exact ⟨rfl, rfl, rfl, rfl, fun h => absurd hlow (Nat.not_lt.mpr h)⟩
  next => exact ⟨rfl, rfl, rfl, rfl, fun _ => rfl⟩

/-- A cell of a narrow shaft takes what its accumulator, tag and landing value give. -/
theorem ShaftRun.promote_cell {x : ShaftRun} (hi : Nat) (hlow : x.level < 4) {i c : Nat} {vs : List (Option Int)} {gs : List Tag} {ls : List W32}
    {v : Option Int} {g : Tag} {w : W32} (hacc : x.acc[i]? = some vs) (htags : x.tags[i]? = some gs) (hland : x.land[i]? = some ls)
    (hv : vs[c]? = some v) (hg : gs[c]? = some g) (hw : ls[c]? = some w) :
    ∃ row, (x.promote hi).land[i]? = some row ∧ row[c]? = some (promoteCell (x.align + 2 * x.level) (x.base == 0) v g w) := by
  unfold ShaftRun.promote
  rw [if_pos hlow]
  refine ⟨List.zipWith (fun v y => promoteCell (x.align + 2 * x.level) (x.base == 0) v y.1 y.2) vs (gs.zip ls), ?_, ?_⟩
  · simp [List.getElem?_zipWith, hacc, htags, hland]
  · simp [List.zip, List.getElem?_zipWith, hv, hg, hw]

theorem foldl_min_of_eq (xs : List ShaftRun) (n : Nat) (h : ∀ x ∈ xs, x.base = n) : xs.foldl (fun a x => Nat.min a x.base) n = n := by
  induction xs with
  | nil => rfl
  | cons x xs ih =>
    rw [List.foldl_cons, h x (List.mem_cons_self ..)]
    exact (congrArg (fun k => xs.foldl (fun a x => Nat.min a x.base) k) (Nat.min_self n)).trans (ih fun y hy => h y (List.mem_cons_of_mem _ hy))

theorem Mat.stepPromote_base (m : Mat) (r : TileRun) : (m.stepPromote r).1.base = r.pass := by
  refine foldl_min_of_eq _ _ fun x hx => ?_
  obtain ⟨y, -, rfl⟩ := List.mem_map.mp hx
  exact (y.promote_fields r.pass).1

theorem State.promotion_eq {s : State} {h l : Nat} {m : Mat} {r : TileRun} (hdue : s.tileWith h l (fun _ r => r.due) = some (m, r))
    (hroute : s.cutOff m.t = false) : s.promotion h l =
      ((s.putTile h l (m.stepPromote r).1).countSteps h l (m.stepPromote r).2).freeSlots m r.unit r.base r.pass := by
  unfold State.promotion
  rw [hdue]
  dsimp only
  rw [State.orCut_of_route hroute, Mat.stepPromote_base]

theorem State.putTile_mem (s : State) (h l : Nat) (r : TileRun) : r ∈ ((s.putTile h l r).loom h l).runs :=
  List.mem_of_find?_eq_some (s.putTile_tile h l r)

theorem State.putTile_slots (s : State) (h l : Nat) (r : TileRun) (a b : Nat) : ((s.putTile h l r).loom a b).slots = (s.loom a b).slots := by
  unfold State.putTile
  rw [State.modLoom_loom]
  by_cases hk : loomKey h l = loomKey a b
  · have hloom : s.loom h l = s.loom a b := by unfold State.loom; rw [hk]
    rw [if_pos hk, hloom]
    split <;> rfl
  · rw [if_neg hk]

theorem promotion_steps {s : State} {h l : Nat} {m : Mat} {r : TileRun} (hroute : s.cutOff m.t = false)
    (hdue : s.tileWith h l (fun _ r => r.due) = some (m, r)) :
    ∃ s' r', exec (.promotion h l) s = .next s' ∧ r' ∈ (s'.loom h l).runs ∧ r' = (m.stepPromote r).1 ∧ Woven s s' ∧
      (∀ g, g ∈ s'.full ↔ g ∈ s.full ∧
        (∀ x ∈ (s.loom m.t.hall (s.unitLoom m.t r.unit)).slots, x.item = m.t.id → x.unit = r.unit → partLast m.sh x.part < r.pass →
          g ∉ granulesOf x.base x.len) ∧
        ¬((∃ q ∈ m.runReads r.unit r.base (r.pass - r.base), g ∈ q.granules) ∧
          ∀ u, u < m.t.unitCount → ∀ q ∈ s'.passNeeds m u, g ∉ q.granules)) := by
  have heq := s.promotion_eq hdue hroute
  generalize hv : (s.putTile h l (m.stepPromote r).1).countSteps h l (m.stepPromote r).2 = v at heq
  have hw : Woven s v := by
    rw [← hv]
    exact (s.putTile_woven h l _).trans (State.countSteps_woven _ h l _)
  have hfull : v.full = s.full := by
    rw [← hv, State.countSteps_rest]
    rfl
  have hslots : ∀ a b, (v.loom a b).slots = (s.loom a b).slots := fun a b => by
    rw [← hv, State.countSteps_loom, State.putTile_slots]
  have hmem : (m.stepPromote r).1 ∈ ((v.freeSlots m r.unit r.base r.pass).loom h l).runs := by
    rw [State.freeSlots_loom, ← hv, State.countSteps_loom]
    exact s.putTile_mem h l _
  refine ⟨_, _, congrArg Host.Outcome.next heq, hmem, rfl, hw.trans (v.freeSlots_woven m _ _ _), fun g => ?_⟩
  rw [State.freeSlots_mem, hfull, hslots, hw.unitLoom]

/-! ### A replay -/

/-- The passes that are run again keep the level and count up. -/
theorem State.shaftPass_fields (s : State) (m : Mat) (p : ShaftSpec) (u f : Nat) (warp : List (List Elem)) (x : ShaftRun) :
    (s.shaftPass m p u f warp x).1.level = x.level ∧ (s.shaftPass m p u f warp x).1.done = x.done + 1 := by
  have hrun : ∀ (y : ShaftRun) d, (y.run p d).1.level = y.level ∧ (y.run p d).1.done = y.done + 1 := fun y d => by
    unfold ShaftRun.run
    by_cases hlow : y.level < 4
    · rw [if_pos hlow]
      exact ⟨rfl, rfl⟩
    · rw [if_neg hlow]
      exact ⟨rfl, rfl⟩
  unfold State.shaftPass
  dsimp only
  split
  · exact ⟨rfl, rfl⟩
  · obtain ⟨-, hlevel, -, hdone, -⟩ := x.promote_fields (m.lo x.done)
    split
    · obtain ⟨h1, h2⟩ := hrun (if (x.promote (m.lo x.done)).base = x.done then
        (x.promote (m.lo x.done)).begin p (s.passes m u f x.done (m.hi x.done - x.done)) else x.promote (m.lo x.done))
        ⟨s.weftRows m u x.done f, warp⟩
      refine ⟨h1.trans ?_, h2.trans (congrArg (· + 1) ?_)⟩
      · split <;> exact hlevel
      · split <;> exact hdone
    · obtain ⟨h1, h2⟩ := hrun (if x.base = x.done then x.begin p (s.passes m u f x.done (m.hi x.done - x.done)) else x)
        ⟨s.weftRows m u x.done f, warp⟩
      refine ⟨h1.trans ?_, h2.trans (congrArg (· + 1) ?_)⟩
      · split <;> rfl
      · split <;> rfl

theorem State.rerun_fields (s : State) (m : Mat) (p : ShaftSpec) (u f n : Nat) (x : ShaftRun) :
    (s.rerun m p u f n x).1.level = x.level ∧ (s.rerun m p u f n x).1.done = x.done + n := by
  induction n generalizing x with
  | zero => exact ⟨rfl, rfl⟩
  | succ n ih =>
    obtain ⟨hlevel, hdone⟩ := s.shaftPass_fields m p u f (s.warpRows m u x.done) x
    obtain ⟨h1, h2⟩ := ih (s.shaftPass m p u f (s.warpRows m u x.done) x).1
    exact ⟨h1.trans hlevel, h2.trans (by rw [hdone]; omega)⟩

/-- What a replay leaves of a tile, wherever its operands are read from. -/
theorem State.stepReplay_tile (s : State) (m : Mat) (r : TileRun) :
    (s.stepReplay m r).1.item = r.item ∧ (s.stepReplay m r).1.unit = r.unit ∧ (s.stepReplay m r).1.pass = r.pass ∧
    (s.stepReplay m r).1.shafts.length = r.shafts.length ∧
    ∀ (k : Nat) (y : ShaftRun), r.shafts[k]? = some y → ∃ z : ShaftRun, (s.stepReplay m r).1.shafts[k]? = some z ∧
      (y.hit.isSome = true → z.level = y.level + 1 ∧ (y.base ≤ r.pass → z.done = r.pass)) ∧ (y.hit = none → z = y) := by
  refine ⟨rfl, rfl, rfl, ?_, fun k y hy => ?_⟩
  · unfold State.stepReplay
    simp
  · unfold State.stepReplay
    simp only [List.getElem?_map, List.getElem?_zipIdx, hy, Option.map_some, Nat.zero_add, Option.some.injEq, exists_eq_left']
    cases hhit : y.hit with
    | none => exact ⟨fun h => absurd h (by decide), fun _ => rfl⟩
    | some v =>
      rw [Option.isSome_some, if_pos rfl]
      obtain ⟨hlevel, hdone⟩ := s.rerun_fields m (m.specAt (topLevel (r.shafts.map fun x => if x.hit.isSome then x.raise else x))) r.unit k
        (r.pass - y.base) y.raise
      refine ⟨fun _ => ⟨hlevel, fun hle => hdone.trans ?_⟩, fun h => absurd h (by simp)⟩
      exact Nat.add_sub_cancel' hle

/-- What the replay of some tiles of a loom may change. -/
structure Replays (s s' : State) (h l : Nat) : Prop where
  mem : s'.mem = s.mem
  poison : s'.poison = s.poison
  knots : s'.knots = s.knots
  full : ∀ g ∈ s'.full, g ∈ s.full
  names : s'.items.map Item.name = s.items.map Item.name
  keys : (s'.loom h l).runs.map (fun r => (r.item, r.unit)) = (s.loom h l).runs.map fun r => (r.item, r.unit)
  records : ∀ i t, s.item i = some t → ∃ t', s'.item i = some t' ∧ t.replay ≤ t'.replay

theorem Replays.refl (s : State) (h l : Nat) : Replays s s h l :=
  ⟨rfl, rfl, rfl, fun _ => id, rfl, rfl, fun _ t ht => ⟨t, ht, Nat.le_refl _⟩⟩

theorem Replays.trans {s s' s'' : State} {h l : Nat} (a : Replays s s' h l) (b : Replays s' s'' h l) : Replays s s'' h l where
  mem := b.mem.trans a.mem
  poison := b.poison.trans a.poison
  knots := b.knots.trans a.knots
  full := fun g hg => a.full g (b.full g hg)
  names := b.names.trans a.names
  keys := b.keys.trans a.keys
  records := fun i t ht => by
    obtain ⟨t', ht', hle⟩ := a.records i t ht
    obtain ⟨t'', ht'', hle'⟩ := b.records i t' ht'
    exact ⟨t'', ht'', hle.trans hle'⟩

/-- A tile that stands on its loom already takes its own place; the tiles of other units stay. -/
theorem State.putTile_known {s : State} {h l : Nat} {r : TileRun} (hkey : (r.item, r.unit) ∈ (s.loom h l).runs.map fun r => (r.item, r.unit)) :
    ((s.putTile h l r).loom h l).runs.map (fun r => (r.item, r.unit)) = (s.loom h l).runs.map (fun r => (r.item, r.unit)) ∧
    ∀ i u, (i, u) ≠ (r.item, r.unit) → ((s.putTile h l r).loom h l).tile i u = (s.loom h l).tile i u := by
  have hany : ((s.loom h l).runs.any fun x => x.item == r.item && x.unit == r.unit) = true := by
    obtain ⟨x, hx, hxr⟩ := List.mem_map.mp hkey
    obtain ⟨hitem, hunit⟩ := Prod.mk.inj hxr
    exact List.any_eq_true.mpr ⟨x, hx, by rw [hitem, hunit, beq_self_eq_true, beq_self_eq_true]; rfl⟩
  unfold State.putTile
  rw [State.modLoom_loom, if_pos rfl, if_pos hany]
  refine ⟨?_, fun i u hne => ?_⟩
  · rw [List.map_map]
    refine List.map_congr_left fun x _ => ?_
    rw [Function.comp_apply]
    split
    next hx =>
      rw [Bool.and_eq_true, beq_iff_eq, beq_iff_eq] at hx
      rw [hx.1, hx.2]
    next => rfl
  · unfold Loom.tile
    dsimp only
    generalize (s.loom h l).runs = xs
    induction xs with
    | nil => rfl
    | cons x xs ih =>
      rw [List.map_cons, List.find?_cons, List.find?_cons, ih]
      by_cases hx : (x.item == r.item && x.unit == r.unit) = true
      · rw [if_pos hx]
        rw [Bool.and_eq_true, beq_iff_eq, beq_iff_eq] at hx
        have hmiss : (r.item == i && r.unit == u) = false := by
          rw [Bool.eq_false_iff]
          intro hkey
          rw [Bool.and_eq_true, beq_iff_eq, beq_iff_eq] at hkey
          exact hne (by rw [hkey.1, hkey.2])
        rw [hx.1, hx.2, hmiss]
      · rw [if_neg hx]

theorem State.noteReplay_records (s : State) (i : ItemId) (n : Nat) :
    (∀ j t, s.item j = some t → ∃ t', (s.noteReplay i n).item j = some t' ∧ t.replay ≤ t'.replay) ∧
    (∀ t, s.item i = some t → ∃ t', (s.noteReplay i n).item i = some t' ∧ n ≤ t'.replay) ∧
    (s.noteReplay i n).items.map Item.name = s.items.map Item.name := by
  refine ⟨fun j t ht => ?_, fun t ht => ?_, ?_⟩
  · unfold State.noteReplay
    rw [State.modItem_item _ _ _ _ (by intro t; rfl), ht]
    split
    · exact ⟨_, rfl, Nat.le_max_left _ _⟩
    · exact ⟨_, rfl, Nat.le_refl _⟩
  · unfold State.noteReplay
    rw [State.modItem_item _ _ _ _ (by intro t; rfl), ht, if_pos rfl]
    exact ⟨_, rfl, Nat.le_max_right _ _⟩
  · unfold State.noteReplay State.modItem
    rw [List.map_map]
    refine List.map_congr_left fun t _ => ?_
    rw [Function.comp_apply]
    split <;> rfl

theorem State.latchPasses_woven (s : State) (m : Mat) (h l u lo n : Nat) : Woven s (s.latchPasses m h l u lo n) := rfl

theorem Loom.latch_runs (f : Loom → Nat → Loom) (hf : ∀ lm j, (f lm j).runs = lm.runs) (n : Nat) (lm : Loom) :
    ((List.range n).foldl f lm).runs = lm.runs := by
  generalize List.range n = js
  induction js generalizing lm with
  | nil => rfl
  | cons j js ih => exact (ih (f lm j)).trans (hf lm j)

theorem State.latchPasses_runs (s : State) (m : Mat) (h l u lo n : Nat) : ((s.latchPasses m h l u lo n).loom h l).runs = (s.loom h l).runs := by
  unfold State.latchPasses
  rw [State.modLoom_loom, if_pos rfl]
  exact Loom.latch_runs (fun lm j => (lm.loadTile m u (lo + j) (s.warpRows m u (lo + j))).swap) (fun _ _ => rfl) n _

/-- One tile in a replay, that stands on its loom: it takes its own place, and its item's record the level. -/
theorem State.replayTile_replays {s : State} {h l : Nat} {x : Mat × TileRun}
    (hkey : (x.2.item, x.2.unit) ∈ (s.loom h l).runs.map fun r => (r.item, r.unit)) :
    Replays s (s.replayTile h l x) h l ∧
    (∀ i u, (i, u) ≠ (x.2.item, x.2.unit) → ((s.replayTile h l x).loom h l).tile i u = (s.loom h l).tile i u) ∧
    ((s.replayTile h l x).loom h l).tile x.2.item x.2.unit = some (s.stepReplay x.1 x.2).1 ∧
    (∀ t, s.item x.1.t.id = some t → ∃ t', (s.replayTile h l x).item x.1.t.id = some t' ∧ (s.stepReplay x.1 x.2).1.level ≤ t'.replay) := by
  obtain ⟨hitem, hunit, -⟩ := s.stepReplay_tile x.1 x.2
  unfold State.replayTile
  generalize hstep : s.stepReplay x.1 x.2 = step at *
  obtain ⟨r', c⟩ := step
  dsimp only at hitem hunit ⊢
  have hw1 := s.latchPasses_woven x.1 h l x.2.unit (x.2.pass - c.discarded) c.discarded
  have hruns1 := s.latchPasses_runs x.1 h l x.2.unit (x.2.pass - c.discarded) c.discarded
  have hfull1 : (s.latchPasses x.1 h l x.2.unit (x.2.pass - c.discarded) c.discarded).full = s.full := rfl
  generalize s.latchPasses x.1 h l x.2.unit (x.2.pass - c.discarded) c.discarded = v at *
  have hw : Woven s (v.stepTile x.1 h l x.2 r' c) := hw1.trans (v.stepTile_woven x.1 h l x.2 r' c)
  have hfull := v.stepTile_full x.1 h l x.2 r' c
  obtain ⟨hruns, -, -⟩ := v.stepTile_loom x.1 h l x.2 r' c h l
  generalize v.stepTile x.1 h l x.2 r' c = w at *
  have htile : ∀ i u, (w.loom h l).tile i u = ((v.putTile h l r').loom h l).tile i u := fun i u => by
    unfold Loom.tile
    rw [hruns]
  obtain ⟨hkeys, hothers⟩ := State.putTile_known (s := v) (h := h) (l := l) (r := r') (by rw [hruns1, hitem, hunit]; exact hkey)
  obtain ⟨hrecords, hnoted, hnames⟩ := w.noteReplay_records x.1.t.id r'.level
  refine ⟨⟨hw.mem, hw.poison, hw.knots, fun g hg => ?_, hnames.trans (congrArg _ hw.items), ?_, fun i t ht => hrecords i t ((hw.item i).trans ht)⟩,
    fun i u hne => ?_, ?_, fun t ht => hnoted t ((hw.item _).trans ht)⟩
  · rw [← hfull1]
    exact hfull g hg
  · change (w.loom h l).runs.map _ = _
    rw [hruns, hkeys, hruns1]
  · change (w.loom h l).tile i u = _
    rw [htile, hothers i u (by rw [hitem, hunit]; exact hne)]
    unfold Loom.tile
    rw [hruns1]
  · change (w.loom h l).tile x.2.item x.2.unit = _
    rw [htile, ← hitem, ← hunit]
    exact v.putTile_tile h l r'

/-- Some tiles of a loom, each of another unit, in one replay: each ends as its own replay leaves it. -/
theorem State.foldl_replayTile (h l : Nat) (xs : List (Mat × TileRun)) (s : State)
    (hkeys : ∀ x ∈ xs, (x.2.item, x.2.unit) ∈ (s.loom h l).runs.map fun r => (r.item, r.unit))
    (happart : xs.Pairwise fun x y => (x.2.item, x.2.unit) ≠ (y.2.item, y.2.unit)) :
    Replays s (xs.foldl (fun s x => s.replayTile h l x) s) h l ∧
    (∀ i u, (∀ x ∈ xs, (i, u) ≠ (x.2.item, x.2.unit)) →
      ((xs.foldl (fun s x => s.replayTile h l x) s).loom h l).tile i u = (s.loom h l).tile i u) ∧
    ∀ x ∈ xs, ∃ v : State, ((xs.foldl (fun s x => s.replayTile h l x) s).loom h l).tile x.2.item x.2.unit = some (v.stepReplay x.1 x.2).1 ∧
      ∀ t, s.item x.1.t.id = some t →
        ∃ t', (xs.foldl (fun s x => s.replayTile h l x) s).item x.1.t.id = some t' ∧ (v.stepReplay x.1 x.2).1.level ≤ t'.replay := by
  induction xs generalizing s with
  | nil => exact ⟨Replays.refl s h l, fun _ _ _ => rfl, fun x hx => absurd hx List.not_mem_nil⟩
  | cons x xs ih =>
    obtain ⟨hfirst, hrest⟩ := List.pairwise_cons.mp happart
    obtain ⟨hr, hothers, htile, hnoted⟩ := State.replayTile_replays (hkeys x (List.mem_cons_self ..))
    obtain ⟨ihr, ihothers, ihtiles⟩ := ih (s.replayTile h l x) (fun y hy => by rw [hr.keys]; exact hkeys y (List.mem_cons_of_mem _ hy)) hrest
    rw [List.foldl_cons]
    refine ⟨hr.trans ihr, fun i u hne => ?_, fun y hy => ?_⟩
    · rw [ihothers i u fun y hy => hne y (List.mem_cons_of_mem _ hy), hothers i u (hne x (List.mem_cons_self ..))]
    · obtain rfl | hy := List.mem_cons.mp hy
      · refine ⟨s, (ihothers _ _ hfirst).trans htile, fun t ht => ?_⟩
        obtain ⟨t', ht', hle⟩ := hnoted t ht
        obtain ⟨t'', ht'', hle'⟩ := ihr.records _ t' ht'
        exact ⟨t'', ht'', hle.trans hle'⟩
      · obtain ⟨v, hv, hnote⟩ := ihtiles y hy
        refine ⟨v, hv, fun t ht => ?_⟩
        obtain ⟨t', ht', -⟩ := hr.records _ t ht
        exact hnote t' ht'

/-! ### The tiles that a replay takes -/

theorem State.tilesWith_mem {s : State} {h l : Nat} {f : Mat → TileRun → Bool} {x : Mat × TileRun} (hx : x ∈ s.tilesWith h l f) :
    x.2 ∈ (s.loom h l).runs ∧ s.item x.1.t.id = some x.1.t := by
  obtain ⟨r, hr, hsome⟩ := List.mem_filterMap.mp hx
  cases hmat : (s.item r.item).bind Item.mat with
  | none => rw [hmat] at hsome; exact absurd hsome (by simp)
  | some m =>
    rw [hmat] at hsome
    dsimp only at hsome
    split at hsome
    · obtain rfl := Option.some.inj hsome
      obtain ⟨t, ht, htm⟩ := Option.bind_eq_some_iff.mp hmat
      obtain rfl := Item.mat_item htm
      exact ⟨hr, by rw [State.item_id ht]; exact ht⟩
    · exact absurd hsome (by simp)

/-- The tiles taken stand in the order of the loom's. -/
theorem State.tilesWith_sublist (s : State) (h l : Nat) (f : Mat → TileRun → Bool) :
    ((s.tilesWith h l f).map Prod.snd).Sublist (s.loom h l).runs := by
  unfold State.tilesWith
  generalize (s.loom h l).runs = rs
  induction rs with
  | nil => exact List.Sublist.refl _
  | cons r rs ih =>
    rw [List.filterMap_cons]
    split
    next => exact ih.cons r
    next x hx =>
      have hsnd : x.2 = r := by
        split at hx
        next => exact absurd hx (by simp)
        next m _ =>
          split at hx
          · rw [← Option.some.inj hx]
          · exact absurd hx (by simp)
      rw [List.map_cons, hsnd]
      exact ih.cons_cons r

theorem State.replay_eq {s : State} {h l : Nat} {m : Mat} {r : TileRun} {rest : List (Mat × TileRun)}
    (htiles : s.tilesWith h l (fun _ r => r.overflow) = (m, r) :: rest) (hroute : s.cutOff m.t = false) (hpending : s.passPending h l = false) :
    ∃ c, s.replay h l = (((m, r) :: rest).foldl (fun s x => s.replayTile h l x) s).countSteps h l c := by
  unfold State.replay
  rw [htiles]
  dsimp only
  rw [hpending, State.orCut_of_route hroute, if_neg Bool.false_ne_true]
  exact ⟨_, rfl⟩

theorem State.countSteps_replays (s : State) (h l : Nat) (c : Counts) : Replays s (s.countSteps h l c) h l := by
  have hw := s.countSteps_woven h l c
  refine ⟨hw.mem, hw.poison, hw.knots, fun g hg => ?_, congrArg _ hw.items, ?_, fun i t ht => ⟨t, (hw.item i).trans ht, Nat.le_refl _⟩⟩
  · rw [State.countSteps_rest] at hg
    exact hg
  · rw [State.countSteps_loom]

/-- Settles O36. -/
theorem promotionAndReplayStepTheTile : Obligations.PromotionAndReplayStepTheTile := by
  unfold Obligations.PromotionAndReplayStepTheTile
  intro s h l m r hroute
  refine ⟨fun hdue => ?_, fun rest htiles => ⟨fun hpending => ?_, fun hpending happart => ?_⟩⟩
  · obtain ⟨s', r', hrun, hmem, rfl, hw, hfull⟩ := promotion_steps hroute hdue
    refine ⟨s', _, hrun, hmem, rfl, rfl, rfl, rfl, rfl, List.length_map _, fun k x y hx hy => ?_, hfull, hw.mem, hw.poison,
      congrArg _ hw.items, hw.knots⟩
    have hpromoted : y = x.promote r.pass := by
      have hmap : ((m.stepPromote r).1.shafts)[k]? = some (x.promote r.pass) := by
        unfold Mat.stepPromote
        rw [List.getElem?_map, hx]
        rfl
      exact Option.some.inj (hy.symm.trans hmap)
    obtain ⟨hbase, hlevel, htags, -, hland⟩ := x.promote_fields r.pass
    rw [hpromoted]
    exact ⟨hbase, hlevel, htags, hland, fun hlow i c vs gs ls v g w hacc hgs hls hv hg hw =>
      ShaftRun.promote_cell r.pass hlow hacc hgs hls hv hg hw⟩
  · refine congrArg Host.Outcome.next ?_
    unfold State.replay
    rw [htiles]
    dsimp only
    rw [hpending]
    rfl
  · obtain ⟨c, heq⟩ := s.replay_eq htiles hroute hpending
    have hkeys : ∀ x ∈ (m, r) :: rest, (x.2.item, x.2.unit) ∈ (s.loom h l).runs.map fun r => (r.item, r.unit) := fun x hx => by
      rw [← htiles] at hx
      exact List.mem_map.mpr ⟨x.2, (State.tilesWith_mem hx).1, rfl⟩
    have hpair : ((m, r) :: rest).Pairwise fun x y => (x.2.item, x.2.unit) ≠ (y.2.item, y.2.unit) := by
      have hsub := List.Pairwise.sublist (s.tilesWith_sublist h l fun _ r => r.overflow) happart
      rw [htiles, List.pairwise_map] at hsub
      exact hsub.imp fun {x y} hne heq => hne ⟨congrArg Prod.fst heq, congrArg Prod.snd heq⟩
    obtain ⟨hr, -, hends⟩ := State.foldl_replayTile h l _ s hkeys hpair
    generalize ((m, r) :: rest).foldl (fun s x => s.replayTile h l x) s = v at *
    have hall := hr.trans (v.countSteps_replays h l c)
    refine ⟨_, congrArg Host.Outcome.next heq, hall.mem, hall.poison, hall.full, hall.names, hall.knots, fun x hx => ?_⟩
    obtain ⟨w, htile, hnote⟩ := hends x hx
    obtain ⟨hitem, hunit, hpass, hlength, hshafts⟩ := w.stepReplay_tile x.1 x.2
    refine ⟨_, ?_, hitem, hunit, hpass, hlength, ?_, hshafts⟩
    · rw [State.countSteps_loom]
      exact List.mem_of_find?_eq_some htile
    · rw [(v.countSteps_woven h l c).item]
      exact hnote _ (State.tilesWith_mem (by rw [htiles]; exact hx)).2

end Sys2Proof.Machine
end

section
/-!
What rows written through an access may change, whatever their windows (R51, R58, R353).
-/
namespace Sys2Proof.Machine

theorem State.unpoison_wrote (s : State) (a n : Nat) : Wrote s (s.unpoison a n) := rfl

theorem State.putCode_wrote (s : State) (ac : Access) (fmt ra i0 code : Nat) : Wrote s (s.putCode ac fmt ra i0 code) := by
  unfold State.putCode
  dsimp only
  split
  · exact s.store_wrote ac _ _
  · exact s.store_wrote ac _ _

theorem State.putCodes_wrote (s : State) (ac : Access) (w : Block512) (r c0 : Nat) (cs : List Coded) : Wrote s (s.putCodes ac w r c0 cs) :=
  (Wrote.foldl (f := fun s (p : Coded × Nat) => s.putCode ac (winFormat w) (rowAddr w r) p.2 p.1.code) (fun u _ => u.putCode_wrote ac _ _ _ _) _ s).trans
    (State.unpoison_wrote _ _ _)

theorem State.putBlock_wrote (s : State) (ac : Access) (w : Block512) (cv : Conv) (r b c0 : Nat) (xs : List W32) :
    Wrote s (s.putBlock ac w cv r b c0 xs).1 :=
  (s.store_wrote ac _ _).trans (State.putCodes_wrote _ ac w r b _)

/-- Some writes whose tallies are added together. -/
theorem tally_wrote {α : Type} {f : State → α → State × Tally} (hf : ∀ s a, Wrote s (f s a).1) (l : List α) (p : State × Tally) :
    Wrote p.1 (l.foldl (fun st x => ((f st.1 x).1, st.2.plus (f st.1 x).2)) p).1 := by
  induction l generalizing p with
  | nil => exact Wrote.refl p.1
  | cons a l ih => exact (hf p.1 a).trans (ih _)

theorem tallied_wrote {α : Type} {f : State → α → State × Tally} (hf : ∀ s a, Wrote s (f s a).1) (s : State) (l : List α) :
    Wrote s (tallied f s l).1 := tally_wrote hf l (s, ⟨0, 0, 0⟩)

theorem State.putRow_wrote (s : State) (ac : Access) (w : Block512) (cv : Conv) (ts : W32) (r c0 : Nat) (xs : List W32) :
    Wrote s (s.putRow ac w cv ts r c0 xs).1 := by
  unfold State.putRow
  split
  · exact ((tally_wrote (f := fun u j => u.putBlock ac w cv r (32 * (c0 / 32 + j)) c0 xs) (fun u j => u.putBlock_wrote ac w cv r _ c0 xs) _ (s, ⟨0, 0, 0⟩)).trans
      (State.unpoison_wrote _ _ _)).trans (State.unpoison_wrote _ _ _)
  · exact s.putCodes_wrote ac w r c0 _

theorem State.writeRow_wrote (s : State) (t : Item) (b : Nat) (cv : Conv) (r c0 : Nat) (xs : List W32) : Wrote s (s.writeRow t b cv r c0 xs).1 :=
  s.putRow_wrote _ _ cv _ r c0 xs

end Sys2Proof.Machine
end
section
/-!
Work items of the bobbin unit and their slices (R119–R121).
-/
namespace Sys2Proof.Machine

/-! ### The cache stays -/

/-- The slices in the caches of the bobbin units stay. -/
def CacheSame (s s' : State) : Prop := ∀ h l, (s'.bobbin h l).cache = (s.bobbin h l).cache

theorem CacheSame.refl (s : State) : CacheSame s s := fun _ _ => rfl

theorem CacheSame.trans {s s' s'' : State} (a : CacheSame s s') (b : CacheSame s' s'') : CacheSame s s'' := fun h l => (b h l).trans (a h l)

theorem CacheSame.foldl {α : Type} {f : State → α → State} (hf : ∀ s a, CacheSame s (f s a)) (l : List α) (s : State) : CacheSame s (l.foldl f s) := by
  induction l generalizing s with
  | nil => exact CacheSame.refl s
  | cons a l ih => exact (hf s a).trans (ih (f s a))

theorem CacheSame.of_bobbins {s s' : State} (h : s'.bobbins = s.bobbins) : CacheSame s s' := fun a b => by unfold State.bobbin; rw [h]

theorem CacheSame.of_wrote {s s' : State} (h : Wrote s s') : CacheSame s s' := CacheSame.of_bobbins (by rw [h])

theorem CacheSame.of_woven {s s' : State} (h : Woven s s') : CacheSame s s' := CacheSame.of_bobbins (by rw [h])

theorem CacheSame.of_quiet {s s' : State} (h : Quiet s s') : CacheSame s s' := CacheSame.of_bobbins (by rw [h.rest])

theorem State.modBobbin_cacheSame (s : State) (h l : Nat) {f : Bobbin → Bobbin} (hf : (f (s.bobbin h l)).cache = (s.bobbin h l).cache) :
    CacheSame s (s.modBobbin h l f) := fun a b => by
  rw [State.modBobbin_bobbin]
  by_cases hk : loomKey h l = loomKey a b
  · rw [if_pos hk, hf]
    unfold State.bobbin
    rw [hk]
  · rw [if_neg hk]

theorem State.dropWork_cacheSame (s : State) (h l : Nat) (w : WorkItem) : CacheSame s (s.dropWork h l w) := s.modBobbin_cacheSame h l rfl

theorem State.countTally_woven (s : State) (h l : Nat) (t : Tally) : Woven s (s.countTally h l t) := by
  unfold State.countTally
  dsimp only
  split <;> split <;> rfl

theorem State.fetchLeft_woven (s : State) (t : Item) (o : Opcode) (u : Nat) : Woven s (s.fetchLeft t o u) :=
  Woven.foldl (f := fun (st : State) (x : Nat × List Read) =>
    st.addSlot t.hall (st.unitLoom t u) ⟨t.id, u, x.1, 0, 0, s.heldBytes (s.itemFunction t.id) x.2⟩) (fun _ _ => rfl) _ s

theorem State.serveRows_bobbins (s : State) (c n : Nat) : (s.serveRows c n).bobbins = s.bobbins := by
  unfold State.serveRows
  split <;> rfl

/-- What a unit of an adapter command does once its rows are written. -/
theorem State.unitEnd_cacheSame (s : State) (t : Item) (u l c n : Nat) (tl : Tally) : CacheSame s
    (((((s.serveRows c n).countTally t.hall l tl).unitFinished t.id u tl.bytes 0).ranOn t.id l).modLoom t.hall l fun lm =>
      { lm with slots := lm.slots.filter fun x => !(x.item == t.id && x.unit == u) }) :=
  (CacheSame.of_bobbins (s.serveRows_bobbins c n)).trans ((CacheSame.of_woven (State.countTally_woven _ t.hall l tl)).trans (CacheSame.of_bobbins rfl))

theorem State.putAdapt_wrote (s : State) (t : Item) (o : Opcode) (u c row : Nat) : Wrote s (s.putAdapt t o u c row).1 := s.writeRow_wrote t 48 _ row 0 _

theorem State.putGrad_wrote (s : State) (t : Item) (u : Nat) (onB : Bool) (c pos : Nat) : Wrote s (s.putGrad t u onB c pos).1 := by
  unfold State.putGrad
  refine tallied_wrote ?_ s _
  intro v j
  exact v.putRow_wrote _ _ _ _ _ _ _

theorem State.bobbinUnit_cacheSame (s : State) (t : Item) (o : Opcode) (u : Nat) : CacheSame s (s.bobbinUnit t o u) := by
  unfold State.bobbinUnit
  dsimp only
  split
  · exact CacheSame.refl s
  · exact (CacheSame.of_wrote (tallied_wrote (fun v i => v.putAdapt_wrote t o u _ _) s _)).trans (State.unitEnd_cacheSame _ t u _ _ _ _)
  · exact (CacheSame.of_wrote (s.putGrad_wrote t u _ _ _)).trans (State.unitEnd_cacheSame _ t u _ _ _ _)

theorem State.settleTokens_took (s : State) (w : UnitWork) (t : Item) (u : Nat) (us : List Nat) : Took s (s.settleTokens w t u us) :=
  (Took.foldl (fun v r => v.consumeExcept_took t _ r) _ s).trans (Took.foldl (f := fun v r => v.produceExcept (us.flatMap w.gives) r) (fun _ _ => rfl) _ _)

theorem State.finishIf_bobbins (s : State) (i : ItemId) : (s.finishIf i).bobbins = s.bobbins := by
  unfold State.finishIf
  split
  · split <;> rfl
  · rfl

theorem State.endUnit_cacheSame (s : State) (h l : Nat) (t : Item) (o : Opcode) (w : WorkItem) : CacheSame s (s.endUnit h l t o w) := by
  unfold State.endUnit
  split
  · exact (s.dropWork_cacheSame h l w).trans (CacheSame.of_quiet (State.failItem_isQuiet _ _ _))
  · split
    · exact (s.dropWork_cacheSame h l w).trans (CacheSame.of_quiet (State.failAt_quiet _ _ _ (Quiet.refl _)))
    · exact (s.dropWork_cacheSame h l w).trans ((CacheSame.of_woven (State.fetchLeft_woven _ t o w.unit)).trans
        ((State.bobbinUnit_cacheSame _ t o w.unit).trans ((CacheSame.of_woven (Woven.of_took (State.settleTokens_took _ _ t w.unit _))).trans
          (CacheSame.of_bobbins (State.finishIf_bobbins _ t.id)))))

/-- What becomes of one work item that has read its slices. -/
def State.endOne (s : State) (h l : Nat) (w : WorkItem) : State :=
  match s.item w.item with
  | none => s.dropWork h l w
  | some t => match t.op with
    | none => s.dropWork h l w
    | some o =>
      if !s.unitRuns h t (if matrixOp o then w.unit / 4 else w.unit) then s.dropWork h l w
      else if bobbinOp o then s.endUnit h l t o w
      else s

theorem State.endWork_eq (s : State) (h l : Nat) :
    s.endWork h l = ((s.bobbin h l).work.filter fun w => w.needs.isEmpty).foldl (fun s w => s.endOne h l w) s := rfl

theorem State.endOne_cacheSame (s : State) (h l : Nat) (w : WorkItem) : CacheSame s (s.endOne h l w) := by
  unfold State.endOne
  split
  next => exact s.dropWork_cacheSame h l w
  next t _ =>
    split
    next => exact s.dropWork_cacheSame h l w
    next o _ =>
      generalize (if matrixOp o then w.unit / 4 else w.unit) = u
      split
      · exact s.dropWork_cacheSame h l w
      · split
        · exact s.endUnit_cacheSame h l t o w
        · exact CacheSame.refl s

theorem State.endWork_cacheSame (s : State) (h l : Nat) : CacheSame s (s.endWork h l) := by
  rw [State.endWork_eq]
  exact CacheSame.foldl (fun u w => u.endOne_cacheSame h l w) _ s

/-! ### Slices asked for -/

/-- What asking for slices leaves of the bobbin units: their caches and work, and what they have asked for. -/
def Sought (s s' : State) : Prop := ∀ h l, (s'.bobbin h l).cache = (s.bobbin h l).cache ∧ (s'.bobbin h l).work = (s.bobbin h l).work ∧
  ∀ w ∈ (s.bobbin h l).wanted, w ∈ (s'.bobbin h l).wanted

theorem Sought.refl (s : State) : Sought s s := fun _ _ => ⟨rfl, rfl, fun _ => id⟩

theorem Sought.trans {s s' s'' : State} (a : Sought s s') (b : Sought s' s'') : Sought s s'' := fun h l =>
  ⟨(b h l).1.trans (a h l).1, (b h l).2.1.trans (a h l).2.1, fun w hw => (b h l).2.2 w ((a h l).2.2 w hw)⟩

theorem State.countMiss_bobbins (s : State) (c : Nat) : (s.countMiss c).bobbins = s.bobbins := by
  unfold State.countMiss
  split <;> rfl

theorem State.requestSlice_bobbin (s : State) (t : Item) (l : Nat) (sl : SliceId) (a b : Nat) : (s.requestSlice t l sl).bobbin a b =
    if loomKey t.hall l = loomKey a b then { s.bobbin t.hall l with wanted := (s.bobbin t.hall l).wanted ++ [(sl, t.id)] } else s.bobbin a b := by
  have hcount : ∀ h k, (s.countMiss sl.context).bobbin h k = s.bobbin h k := fun h k => by unfold State.bobbin; rw [State.countMiss_bobbins]
  refine Eq.trans (b := ((s.countMiss sl.context).modBobbin t.hall l fun b => { b with wanted := b.wanted ++ [(sl, t.id)] }).bobbin a b) rfl ?_
  rw [State.modBobbin_bobbin, hcount, hcount]

theorem State.requestSlice_sought (s : State) (t : Item) (l : Nat) (sl : SliceId) : Sought s (s.requestSlice t l sl) := fun a b => by
  rw [State.requestSlice_bobbin]
  by_cases hk : loomKey t.hall l = loomKey a b
  · have hb : s.bobbin t.hall l = s.bobbin a b := by unfold State.bobbin; rw [hk]
    rw [if_pos hk, hb]
    exact ⟨rfl, rfl, fun w hw => List.mem_append_left _ hw⟩
  · rw [if_neg hk]
    exact ⟨rfl, rfl, fun _ => id⟩

/-- One slice asked for: it is in the cache, or on its way. -/
def State.wantSlice (s : State) (t : Item) (l : Nat) (sl : SliceId) : State :=
  if (s.bobbin t.hall l).has sl || (s.bobbin t.hall l).wanted.any (·.1 == sl) then s else s.requestSlice t l sl

theorem State.wantSlices_cons (s : State) (t : Item) (l : Nat) (sl : SliceId) (sls : List SliceId) :
    s.wantSlices t l (sl :: sls) = (s.wantSlice t l sl).wantSlices t l sls := rfl

theorem State.wantSlice_sought (s : State) (t : Item) (l : Nat) (sl : SliceId) : Sought s (s.wantSlice t l sl) := by
  unfold State.wantSlice
  split
  · exact Sought.refl s
  · exact s.requestSlice_sought t l sl

theorem State.wantSlices_sought (s : State) (t : Item) (l : Nat) (sls : List SliceId) : Sought s (s.wantSlices t l sls) := by
  induction sls generalizing s with
  | nil => exact Sought.refl s
  | cons sl sls ih => exact (s.wantSlice_sought t l sl).trans (ih _)

theorem State.wantSlice_wanted {s : State} {t : Item} {l : Nat} {sl : SliceId} (h : (s.bobbin t.hall l).has sl = false) :
    ∃ w ∈ ((s.wantSlice t l sl).bobbin t.hall l).wanted, w.1 = sl := by
  unfold State.wantSlice
  rw [h, Bool.false_or]
  split
  case isTrue hany =>
    obtain ⟨w, hw, hkey⟩ := List.any_eq_true.mp hany
    exact ⟨w, hw, eq_of_beq hkey⟩
  case isFalse =>
    rw [State.requestSlice_bobbin, if_pos rfl]
    exact ⟨(sl, t.id), List.mem_append_right _ (List.mem_singleton.mpr rfl), rfl⟩

theorem Bobbin.has_of_cache {b b' : Bobbin} (h : b'.cache = b.cache) (sl : SliceId) : b'.has sl = b.has sl := by unfold Bobbin.has; rw [h]

/-- A slice asked for that is not in the cache is on its way. -/
theorem State.wantSlices_wanted {s : State} {t : Item} {l : Nat} {sl : SliceId} {sls : List SliceId} (h : (s.bobbin t.hall l).has sl = false)
    (hin : sl ∈ sls) : ∃ w ∈ ((s.wantSlices t l sls).bobbin t.hall l).wanted, w.1 = sl := by
  induction sls generalizing s with
  | nil => exact absurd hin List.not_mem_nil
  | cons sl' sls ih =>
    rw [State.wantSlices_cons]
    rcases List.mem_cons.mp hin with rfl | hin
    · obtain ⟨w, hw, hkey⟩ := State.wantSlice_wanted h
      exact ⟨w, (State.wantSlices_sought _ t l sls t.hall l).2.2 w hw, hkey⟩
    · exact ih ((Bobbin.has_of_cache (s.wantSlice_sought t l sl' t.hall l).1 sl).trans h) hin

theorem State.requestHeads_asked (s : State) (h l : Nat) : Asked s (s.requestHeads h l) := by
  refine Asked.foldl (fun u w => ?_) _ s
  split
  · exact u.wantSlices_asked _ l _
  · exact Asked.refl u

theorem State.requestHeads_cacheSame (s : State) (h l : Nat) : CacheSame s (s.requestHeads h l) := by
  refine CacheSame.foldl (fun u w => ?_) _ s
  split
  · exact fun a b => (u.wantSlices_sought _ l _ a b).1
  · exact CacheSame.refl u

/-! ### Work that ends while only matrix commands have work in progress -/

/-- The work items of a loom's unit are those of matrix commands. -/
def State.termWork (s : State) (ws : List WorkItem) : Prop := ∀ w ∈ ws, ∀ x, s.item w.item = some x → ∃ m, x.mat = some m

/-- What ends of such work: only entries without a slice to read leave their unit. -/
structure WorkDropped (h l : Nat) (s s' : State) : Prop where
  rest : s' = { s with bobbins := s'.bobbins }
  bobbin : s'.bobbin h l = { s.bobbin h l with work := (s'.bobbin h l).work }
  kept : ∀ w ∈ (s.bobbin h l).work, w.needs ≠ [] → w ∈ (s'.bobbin h l).work

theorem WorkDropped.refl (h l : Nat) (s : State) : WorkDropped h l s s := ⟨rfl, rfl, fun _ hw _ => hw⟩

theorem WorkDropped.trans {h l : Nat} {s s' s'' : State} (a : WorkDropped h l s s') (b : WorkDropped h l s' s'') : WorkDropped h l s s'' where
  rest := by
    have hb := b.rest
    rw [a.rest] at hb
    exact hb
  bobbin := by
    have hb := b.bobbin
    rw [a.bobbin] at hb
    exact hb
  kept w hw hneeds := b.kept w (a.kept w hw hneeds) hneeds

theorem State.dropWork_dropped (s : State) (h l : Nat) {w : WorkItem} (hw : w.needs = []) : WorkDropped h l s (s.dropWork h l w) where
  rest := rfl
  bobbin := by
    unfold State.dropWork
    rw [State.modBobbin_bobbin, if_pos rfl]
  kept x hx hneeds := by
    unfold State.dropWork
    rw [State.modBobbin_bobbin, if_pos rfl]
    refine List.mem_filter.mpr ⟨hx, ?_⟩
    rw [bne_iff_ne]
    rintro rfl
    exact hneeds hw

theorem bobbinOp_of_mat {x : Item} {m : Mat} {o : Opcode} (hm : x.mat = some m) (ho : x.op = some o) : bobbinOp o = false := by
  unfold Item.mat at hm
  rw [ho] at hm
  dsimp only at hm
  split at hm
  case isTrue hop =>
    clear ho hm
    revert hop
    cases o <;> decide
  case isFalse => exact absurd hm (by simp)

/-- The entry of a matrix command stays, or leaves its unit with its item. -/
theorem State.endOne_dropped {s : State} (h l : Nat) {w : WorkItem} (hneeds : w.needs = [])
    (hterm : ∀ x, s.item w.item = some x → ∃ m, x.mat = some m) : WorkDropped h l s (s.endOne h l w) := by
  have hdrop := s.dropWork_dropped h l hneeds
  unfold State.endOne
  split
  next => exact hdrop
  next t hitem =>
    obtain ⟨m, hm⟩ := hterm t hitem
    split
    next => exact hdrop
    next o ho =>
      rw [bobbinOp_of_mat hm ho]
      generalize (if matrixOp o then w.unit / 4 else w.unit) = u
      split
      · exact hdrop
      · exact WorkDropped.refl h l s

theorem WorkDropped.item {h l : Nat} {s s' : State} (d : WorkDropped h l s s') (i : ItemId) : s'.item i = s.item i := by
  rw [d.rest]
  rfl

theorem foldl_endOne_dropped (h l : Nat) (ws : List WorkItem) (s : State) (hneeds : ∀ w ∈ ws, w.needs = []) (hterm : s.termWork ws) :
    WorkDropped h l s (ws.foldl (fun s w => s.endOne h l w) s) := by
  induction ws generalizing s with
  | nil => exact WorkDropped.refl h l s
  | cons w ws ih =>
    have hfirst := State.endOne_dropped h l (hneeds w (List.mem_cons_self ..)) (hterm w (List.mem_cons_self ..))
    exact hfirst.trans (ih _ (fun x hx => hneeds x (List.mem_cons_of_mem _ hx)) fun x hx y hy =>
      hterm x (List.mem_cons_of_mem _ hx) y ((hfirst.item x.item).symm.trans hy))

theorem State.endWork_dropped {s : State} {h l : Nat} (hterm : s.termWork ((s.bobbin h l).work.filter fun w => w.needs.isEmpty)) :
    WorkDropped h l s (s.endWork h l) := by
  rw [State.endWork_eq]
  exact foldl_endOne_dropped h l _ s (fun w hw => List.isEmpty_iff.mp (List.mem_filter.mp hw).2) hterm

/-! ### `BOBBIN_WORK_ITEM_START` -/

/-- A bobbin unit with another work item, every one of which has read on. -/
def Bobbin.withWork (w : WorkItem) (b : Bobbin) : Bobbin := Bobbin.advance { b with work := b.work ++ [w] }

theorem Bobbin.withWork_work (w : WorkItem) (b : Bobbin) : (b.withWork w).work = (b.work ++ [w]).map b.readOn := rfl

theorem State.workStart_eq {s : State} {h l unit : Nat} {t : Item} {o : Opcode} {needs : List SliceId} (hitem : s.item t.id = some t)
    (hop : t.op = some o) (hruns : s.unitRuns h t (if matrixOp o then unit / 4 else unit) = true)
    (hloom : s.unitLoom t (if matrixOp o then unit / 4 else unit) = l) (hroute : s.cutOff t = false) (hroom : (s.bobbin h l).work.length < 4)
    (hnew : ∀ w ∈ (s.bobbin h l).work, ¬(w.item = t.id ∧ w.unit = unit)) (hready : s.workReady h l t o unit = true)
    (hneeds : sliceNeeds t o unit = some needs) : s.workStart h l t.id unit =
      ((s.wantSlices t l needs).modBobbin h l (Bobbin.withWork ⟨t.id, unit, needs⟩)).endWork h l := by
  have hhall : t.hall = h := by
    unfold State.unitRuns at hruns
    simp only [Bool.and_eq_true, beq_iff_eq] at hruns
    exact hruns.1.1.1.1.2
  have hany : ((s.bobbin h l).work.any fun w => w.item == t.id && w.unit == unit) = false := by
    rw [List.any_eq_false]
    intro w hw hkey
    rw [Bool.and_eq_true, beq_iff_eq, beq_iff_eq] at hkey
    exact hnew w hw hkey
  unfold State.workStart
  rw [hitem]
  dsimp only
  rw [hop]
  dsimp only
  rw [hruns, hloom, hready, hany, State.orCut_of_route hroute, hneeds]
  simp only [BEq.rfl, hroom, decide_true, Bool.not_false, Bool.and_self, if_true]
  unfold State.addWork
  rw [hhall]
  dsimp only
  rw [hany]
  simp only [hroom, decide_true, Bool.not_false, Bool.and_self, if_true]
  rfl

/-! ### `BOBBIN_SLICE_FILL` -/

theorem Bobbin.makeRoom_work (b : Bobbin) (n k : Nat) : (b.makeRoom n k).work = b.work := by
  induction k generalizing b with
  | zero => rfl
  | succ k ih =>
    unfold Bobbin.makeRoom
    split
    · rfl
    · split
      · exact ih _
      · rfl

theorem Bobbin.freeContext_work (b : Bobbin) : b.freeContext.work = b.work := by
  unfold Bobbin.freeContext
  dsimp only
  split <;> rfl

/-- A slice filled is in the cache, and the work items stand as they stood. -/
theorem Bobbin.fill_fields (b : Bobbin) (sl : SliceId) (n : Nat) : (b.fill sl n).has sl = true ∧ (b.fill sl n).work = b.work := by
  unfold Bobbin.fill
  split
  case isTrue hhas => exact ⟨hhas, rfl⟩
  case isFalse =>
    refine ⟨?_, ?_⟩
    · unfold Bobbin.has
      rw [List.any_append]
      simp
    · refine (Bobbin.makeRoom_work _ _ _).trans ?_
      split
      · exact b.freeContext_work
      · rfl

theorem Bobbin.advance_has (b : Bobbin) (sl : SliceId) : b.advance.has sl = b.has sl := by
  unfold Bobbin.has Bobbin.advance
  dsimp only
  rw [List.any_map]
  refine List.any_congr rfl fun x => ?_
  rw [Function.comp_apply]
  split <;> rfl

theorem Bobbin.advance_work (b : Bobbin) : b.advance.work = b.work.map b.readOn := rfl

/-- The state in which a slice has come in, its tokens taken. -/
def State.sliceIn (s : State) (h l : Nat) (sl : SliceId) (ecc : Ecc) (t : Item) : State :=
  ((s.modBobbin h l fun b => { b with wanted := b.wanted.filter fun x => x.1 != sl }).cacheEcc h l ecc).consumeExcept t
    ((t.op.map fun o => ((s.modBobbin h l fun b => { b with wanted := b.wanted.filter fun x => x.1 != sl }).cacheEcc h l ecc).slicesLeft t o l sl).getD [])
    (t.sliceRead sl)

theorem State.cacheEcc_rest (s : State) (h l : Nat) {ecc : Ecc} (hecc : ecc.bad = false) :
    s.cacheEcc h l ecc = { s with pages := (s.cacheEcc h l ecc).pages, counters := (s.cacheEcc h l ecc).counters, out := (s.cacheEcc h l ecc).out } := by
  unfold State.cacheEcc
  rw [hecc, if_neg Bool.false_ne_true]
  by_cases hfixed : ecc.fixed = true
  · rw [if_pos hfixed, State.event_rest]
    rfl
  · rw [if_neg hfixed]

theorem State.sliceIn_fields (s : State) (h l : Nat) (sl : SliceId) {ecc : Ecc} (hecc : ecc.bad = false) (t : Item) :
    (s.sliceIn h l sl ecc t).items = s.items ∧ (s.sliceIn h l sl ecc t).knots = s.knots ∧ (s.sliceIn h l sl ecc t).windows = s.windows ∧
    ((s.sliceIn h l sl ecc t).bobbin h l).work = (s.bobbin h l).work := by
  unfold State.sliceIn
  have hecc' := (s.modBobbin h l fun b => { b with wanted := b.wanted.filter fun x => x.1 != sl }).cacheEcc_rest h l hecc
  have hwork : ((s.modBobbin h l fun b => { b with wanted := b.wanted.filter fun x => x.1 != sl }).bobbin h l).work = (s.bobbin h l).work := by
    rw [State.modBobbin_bobbin, if_pos rfl]
  generalize (s.modBobbin h l fun b => { b with wanted := b.wanted.filter fun x => x.1 != sl }).cacheEcc h l ecc = v at *
  have htook := v.consumeExcept_took t ((t.op.map fun o => v.slicesLeft t o l sl).getD []) (t.sliceRead sl)
  unfold Took at htook
  rw [htook, hecc']
  exact ⟨rfl, rfl, rfl, hwork⟩

theorem State.sliceFill_eq {s : State} {h l : Nat} {sl : SliceId} {w : SliceId × ItemId} {t : Item} {ecc : Ecc}
    (hwanted : (s.bobbin h l).wanted.find? (fun w => w.1 == sl) = some w) (hflying : s.sliceFlying h l sl = false)
    (hwaits : s.sliceWaits w.2 sl = false) (hitem : s.item w.2 = some t) (hroute : s.cutOff t = false) (hecc : ecc.bad = false)
    (hfault : s.readFault (s.itemFunction t.id) true [t.sliceRead sl] = none) : s.sliceFill h l sl ecc =
      (((s.sliceIn h l sl ecc t).modBobbin h l fun b => (b.fill sl (sliceLines t sl)).advance).endWork h l).requestHeads h l := by
  have hrest := (s.modBobbin h l fun b => { b with wanted := b.wanted.filter fun x => x.1 != sl }).cacheEcc_rest h l hecc
  have hroute' : ((s.modBobbin h l fun b => { b with wanted := b.wanted.filter fun x => x.1 != sl }).cacheEcc h l ecc).cutOff t = false := by
    rw [hrest]
    exact hroute
  have hfault' : ((s.modBobbin h l fun b => { b with wanted := b.wanted.filter fun x => x.1 != sl }).cacheEcc h l ecc).readFault
      (((s.modBobbin h l fun b => { b with wanted := b.wanted.filter fun x => x.1 != sl }).cacheEcc h l ecc).itemFunction t.id) true [t.sliceRead sl] = none := by
    rw [hrest]
    exact hfault
  have hitem' : (s.modBobbin h l fun b => { b with wanted := b.wanted.filter fun x => x.1 != sl }).item w.2 = some t := hitem
  unfold State.sliceFill
  rw [hwanted]
  dsimp only
  rw [hflying, hwaits, hitem']
  dsimp only
  rw [hroute', hfault', hecc]
  rfl

/-- The work of matrix commands is theirs still once it has read on. -/
theorem State.termWork_advanced {s s' : State} {h l : Nat} (hterm : s.termWork (s.bobbin h l).work) (hitems : s'.items = s.items) {b : Bobbin}
    (hwork : b.work = (s.bobbin h l).work) : s'.termWork (b.advance.work.filter fun w => w.needs.isEmpty) := by
  intro w hw x hx
  rw [Bobbin.advance_work] at hw
  obtain ⟨v, hv, rfl⟩ := List.mem_map.mp (List.mem_filter.mp hw).1
  rw [hwork] at hv
  unfold State.item at hx
  rw [hitems] at hx
  exact hterm v hv x hx

theorem dropWhile_head_fails {α : Type} {p : α → Bool} {xs ys : List α} {y : α} (h : xs.dropWhile p = y :: ys) : p y = false ∧ y ∈ xs := by
  have hhead := List.head?_dropWhile_not p xs
  rw [h] at hhead
  exact ⟨hhead, (List.dropWhile_sublist p).subset (h ▸ List.mem_cons_self ..)⟩

/-- Settles O40. -/
theorem bobbinWorkAndSlices : Obligations.BobbinWorkAndSlices := by
  unfold Obligations.BobbinWorkAndSlices
  intro s h l
  dsimp only
  refine ⟨fun unit t o needs sls sl hitem hop hruns hloom hroute hroom hnew hready hneeds hmissing hterm => ?_,
    fun sl w t ecc hwanted hflying hwaits hitem hroute hecc hfault => ?_⟩
  · have heq := State.workStart_eq hitem hop hruns hloom hroute hroom hnew hready hneeds
    obtain ⟨hlacks, hin⟩ := dropWhile_head_fails hmissing
    have hhall : t.hall = h := by
      unfold State.unitRuns at hruns
      simp only [Bool.and_eq_true, beq_iff_eq] at hruns
      exact hruns.1.1.1.1.2
    subst hhall
    have hasked := s.wantSlices_asked t l needs
    obtain ⟨hcache, hwork, -⟩ := s.wantSlices_sought t l needs t.hall l
    obtain ⟨v, hv, hkey⟩ := State.wantSlices_wanted hlacks hin
    generalize s.wantSlices t l needs = u at *
    have hread : (u.bobbin t.hall l).readOn = (s.bobbin t.hall l).readOn := by
      funext x
      unfold Bobbin.readOn
      rw [show (u.bobbin t.hall l).has = (s.bobbin t.hall l).has from funext fun y => Bobbin.has_of_cache hcache y]
    have hbob : (u.modBobbin t.hall l (Bobbin.withWork ⟨t.id, unit, needs⟩)).bobbin t.hall l = (u.bobbin t.hall l).withWork ⟨t.id, unit, needs⟩ := by
      rw [State.modBobbin_bobbin, if_pos rfl]
    have hwork' : ((u.bobbin t.hall l).withWork ⟨t.id, unit, needs⟩).work = (s.bobbin t.hall l).work.map (s.bobbin t.hall l).readOn ++ [⟨t.id, unit, sl :: sls⟩] := by
      rw [Bobbin.withWork_work, hread, hwork, List.map_append]
      unfold Bobbin.readOn
      rw [← hmissing]
      rfl
    have hitems : (u.modBobbin t.hall l (Bobbin.withWork ⟨t.id, unit, needs⟩)).items = s.items := by
      unfold Asked at hasked
      rw [hasked]
      rfl
    have hends : (u.modBobbin t.hall l (Bobbin.withWork ⟨t.id, unit, needs⟩)).termWork
        (((u.modBobbin t.hall l (Bobbin.withWork ⟨t.id, unit, needs⟩)).bobbin t.hall l).work.filter fun w => w.needs.isEmpty) := by
      intro x hx y hy
      rw [hbob, hwork'] at hx
      obtain ⟨hx, hempty⟩ := List.mem_filter.mp hx
      rcases List.mem_append.mp hx with hx | hx
      · obtain ⟨z, hz, rfl⟩ := List.mem_map.mp hx
        unfold State.item at hy
        rw [hitems] at hy
        exact hterm z hz y hy
      · obtain rfl := List.mem_singleton.mp hx
        exact absurd hempty (by simp)
    have hdropped := State.endWork_dropped hends
    refine ⟨_, congrArg Host.Outcome.next heq, hdropped.kept _ ?_ (by simp), ⟨v, ?_, hkey⟩, ?_, ?_⟩
    · rw [hbob, hwork']
      exact List.mem_append_right _ (List.mem_singleton.mpr rfl)
    · rw [hdropped.bobbin, hbob]
      exact hv
    · rw [hdropped.rest]
      unfold Asked at hasked
      rw [hasked]
      rfl
    · rw [hdropped.rest]
      unfold Asked at hasked
      rw [hasked]
      rfl
  · have heq := State.sliceFill_eq hwanted hflying hwaits hitem hroute hecc hfault
    obtain ⟨hitems, hknots, hwindows, hwork⟩ := s.sliceIn_fields h l sl hecc t
    generalize s.sliceIn h l sl ecc t = u at *
    have hbob : (u.modBobbin h l fun b => (b.fill sl (sliceLines t sl)).advance).bobbin h l = ((u.bobbin h l).fill sl (sliceLines t sl)).advance := by
      rw [State.modBobbin_bobbin, if_pos rfl]
    obtain ⟨hhas, hfillwork⟩ := (u.bobbin h l).fill_fields sl (sliceLines t sl)
    refine ⟨_, congrArg Host.Outcome.next heq, ?_, fun hterm => ?_⟩
    · rw [Bobbin.has_of_cache (State.requestHeads_cacheSame _ h l h l), Bobbin.has_of_cache (State.endWork_cacheSame _ h l h l), hbob, Bobbin.advance_has]
      exact hhas
    · have hends := State.endWork_dropped (s := u.modBobbin h l fun b => (b.fill sl (sliceLines t sl)).advance) (h := h) (l := l) (by
        rw [hbob]
        exact State.termWork_advanced hterm hitems (hfillwork.trans hwork))
      have hheads := ((u.modBobbin h l fun b => (b.fill sl (sliceLines t sl)).advance).endWork h l).requestHeads_asked h l
      unfold Asked at hheads
      rw [hheads, hends.rest]
      exact ⟨hknots, hwindows⟩

end Sys2Proof.Machine
end

section
/-!
What a store through an access may change, encrypted or not (R208, R317): the bytes of its own span, or the 64-byte units that the span meets.
`Placed` says that of the memory only given bytes and the counts in context records have changed; the rows that the landing and matrix
commands write keep to the spans of their row.
-/
namespace Sys2Proof.Machine

/-! ### The bytes that a store may change -/

/-- The bytes that stores through an access into some spans may change: the spans, and under keys the 64-byte units that they meet (R317). -/
def touched (ac : Access) (ps : List (Nat × Nat)) (x : Nat) : Prop :=
  ∃ p ∈ ps, if ac.keys = none then hostKey ac.function p.1 ≤ x ∧ x < hostKey ac.function p.1 + p.2
    else hostKey ac.function p.1 / 64 ≤ x / 64 ∧ x / 64 ≤ (hostKey ac.function p.1 + p.2) / 64

theorem xorBytes_length_le (a b : List Byte) : (xorBytes a b).length ≤ a.length := by
  unfold xorBytes
  rw [List.length_zipWith]
  exact Nat.min_le_left ..

theorem aesShift_length (n : Nat) (b : List Byte) : (aesShift n b).length = 16 := by simp [aesShift]

theorem length_flatten_le {α : Type} {n : Nat} {ls : List (List α)} (h : ∀ l ∈ ls, l.length ≤ n) : ls.flatten.length ≤ n * ls.length := by
  induction ls with
  | nil => exact Nat.zero_le _
  | cons l ls ih =>
    have hhead := h l (List.mem_cons_self ..)
    have htail := ih fun x hx => h x (List.mem_cons_of_mem _ hx)
    rw [List.flatten_cons, List.length_append, List.length_cons, Nat.mul_add, Nat.mul_one]
    omega

theorem chunksOf_length_le {α : Type} (n fuel : Nat) (l : List α) : (chunksOf n fuel l).length ≤ fuel := by
  induction fuel generalizing l with
  | zero => exact Nat.le_of_eq (by simp [chunksOf])
  | succ fuel ih => cases l with
    | nil => exact Nat.zero_le _
    | cons x l =>
      rw [chunksOf_succ _ _ (List.cons_ne_nil _ _), List.length_cons]
      exact Nat.succ_le_succ (ih _)

/-- A data unit keeps within its 64 bytes, whatever the cipher makes of its blocks. -/
theorem unit_length_le {f : List Byte → List Byte → List Byte} (hf : ∀ t b, (f t b).length ≤ 16) (ts : List (List Byte)) (unit : List Byte) :
    (List.zipWith f ts (chunksOf 16 4 unit)).flatten.length ≤ 64 := by
  refine (length_flatten_le (n := 16) fun l hl => ?_).trans ?_
  · obtain ⟨i, hi, rfl⟩ := List.mem_iff_getElem.mp hl
    rw [List.getElem_zipWith]
    exact hf _ _
  · have := chunksOf_length_le 16 4 unit
    rw [List.length_zipWith]
    omega

theorem xtsEncrypt_length_le (keys : List Byte) (tweak : Nat) (unit : List Byte) : (xtsEncrypt keys tweak unit).length ≤ 64 :=
  unit_length_le (fun _ _ => (xorBytes_length_le _ _).trans ((xorBytes_length_le _ _).trans (Nat.le_of_eq (aesShift_length _ _)))) _ _

theorem xtsDecrypt_length_le (keys : List Byte) (tweak : Nat) (unit : List Byte) : (xtsDecrypt keys tweak unit).length ≤ 64 := by
  refine unit_length_le (fun _ _ => (xorBytes_length_le _ _).trans ((xorBytes_length_le _ _).trans ?_)) _ _
  rw [List.length_map, aesShift_length]

theorem decryptUnits_length_le (m : Memory) (keys : List Byte) (fn a n : Nat) :
    (decryptUnits m keys fn a n).length ≤ 64 * ((a + n - 1) / 64 - a / 64 + 1) := by
  refine (length_flatten_le (n := 64) fun l hl => ?_).trans (by rw [List.length_map, List.length_range])
  obtain ⟨i, -, rfl⟩ := List.mem_map.mp hl
  exact xtsDecrypt_length_le ..

theorem addrSpace_eq_of_unit {a b : Nat} (h : a / 64 = b / 64) : addrSpace a = addrSpace b := by
  unfold addrSpace
  rw [Nat.shiftRight_eq_div_pow, Nat.shiftRight_eq_div_pow, show (2 : Nat) ^ 60 = 64 * 2 ^ 54 from rfl, ← Nat.div_div_eq_div_mul,
    ← Nat.div_div_eq_div_mul, h]

theorem hostKey_unit (fn a : Nat) : hostKey fn (a / 64 * 64) = hostKey fn a / 64 * 64 := by
  unfold hostKey
  rw [show addrSpace (a / 64 * 64) = addrSpace a from addrSpace_eq_of_unit (by omega)]
  split
  · omega
  · rfl

/-- A store changes only bytes that it touches. -/
theorem Memory.read_store_untouched (m : Memory) {ac : Access} {a x : Nat} {bs : List Byte} (h : ¬touched ac [(a, bs.length)] x) :
    (m.store ac a bs).read x = m.read x := by
  have hout : ¬if ac.keys = none then hostKey ac.function a ≤ x ∧ x < hostKey ac.function a + bs.length
      else hostKey ac.function a / 64 ≤ x / 64 ∧ x / 64 ≤ (hostKey ac.function a + bs.length) / 64 :=
    fun hin => h ⟨_, List.mem_singleton_self _, hin⟩
  unfold Memory.store
  split
  case h_1 hkeys =>
    rw [if_pos hkeys] at hout
    exact Memory.read_writeBytes_outside _ _ (by omega)
  case h_2 ks hkeys =>
    rw [if_neg (by rw [hkeys]; exact Option.some_ne_none ks)] at hout
    by_cases hempty : bs.length = 0
    · rw [if_pos hempty]
    rw [if_neg hempty]
    dsimp only
    refine Memory.read_writeBytes_outside _ _ ?_
    rw [hostKey_unit]
    have hold := decryptUnits_length_le m ks ac.function a bs.length
    generalize decryptUnits m ks ac.function a bs.length = old at *
    have hnew : (old.take (a - a / 64 * 64) ++ bs ++ old.drop (a - a / 64 * 64 + bs.length)).length ≤
        64 * ((a + bs.length - 1) / 64 - a / 64 + 1) := by
      rw [List.length_append, List.length_append, List.length_take, List.length_drop]
      omega
    generalize old.take (a - a / 64 * 64) ++ bs ++ old.drop (a - a / 64 * 64 + bs.length) = new at *
    have hcipher := length_flatten_le (n := 64) (ls := (chunksOf 64 (new.length / 64) new).zipIdx.map fun p => xtsEncrypt ks (a / 64 * 64 + 64 * p.2) p.1)
      fun l hl => by
        obtain ⟨p, -, rfl⟩ := List.mem_map.mp hl
        exact xtsEncrypt_length_le ..
    rw [List.length_map, List.length_zipIdx] at hcipher
    have hcount := chunksOf_length_le 64 (new.length / 64) new
    have hkey : hostKey ac.function a % 64 = a % 64 := by
      unfold hostKey
      split
      · omega
      · rfl
    generalize hostKey ac.function a = k at *
    generalize ((chunksOf 64 (new.length / 64) new).zipIdx.map fun p => xtsEncrypt ks (a / 64 * 64 + 64 * p.2) p.1).flatten.length = c at *
    generalize (chunksOf 64 (new.length / 64) new).length = j at *
    omega

/-! ### Changes that keep to some bytes -/

/-- Of the memory only some bytes and the counts of present contexts have changed, with what a store changes beside it; where no word was poisoned
none is. -/
structure Placed (Q : Nat → Prop) (s s' : State) : Prop where
  stored : Stored s s'
  clean : s.poison = [] → s'.poison = []
  bytes : ∀ x, ¬Q x → ¬s.liveCharge x → s'.mem.read x = s.mem.read x

theorem Stored.liveCharge_iff {s s' : State} (h : Stored s s') (x : Nat) : s'.liveCharge x ↔ s.liveCharge x := by
  rw [h]
  rfl

theorem Placed.refl (Q : Nat → Prop) (s : State) : Placed Q s s := ⟨Stored.refl s, id, fun _ _ _ => rfl⟩

theorem Placed.trans {Q : Nat → Prop} {s s' s'' : State} (h : Placed Q s s') (k : Placed Q s' s'') : Placed Q s s'' where
  stored := h.stored.trans k.stored
  clean hclean := k.clean (h.clean hclean)
  bytes x hx hlive := (k.bytes x hx fun hlive' => hlive ((h.stored.liveCharge_iff x).mp hlive')).trans (h.bytes x hx hlive)

theorem Placed.foldl {α : Type} {Q : Nat → Prop} {f : State → α → State} {l : List α} (hf : ∀ s, ∀ a ∈ l, Placed Q s (f s a)) (s : State) :
    Placed Q s (l.foldl f s) := by
  induction l generalizing s with
  | nil => exact Placed.refl Q s
  | cons a l ih => exact (hf s a (List.mem_cons_self ..)).trans (ih (fun u b hb => hf u b (List.mem_cons_of_mem _ hb)) _)

theorem Placed.foldl_counted {α β : Type} {Q : Nat → Prop} {f : State × β → α → State × β} {l : List α}
    (hf : ∀ p, ∀ a ∈ l, Placed Q p.1 (f p a).1) (p : State × β) : Placed Q p.1 (l.foldl f p).1 := by
  induction l generalizing p with
  | nil => exact Placed.refl Q p.1
  | cons a l ih => exact (hf p a (List.mem_cons_self ..)).trans (ih (fun u b hb => hf u b (List.mem_cons_of_mem _ hb)) _)

theorem Placed.mono {Q R : Nat → Prop} {s s' : State} (h : Placed Q s s') (hsub : ∀ x, Q x → R x) : Placed R s s' :=
  ⟨h.stored, h.clean, fun x hx hlive => h.bytes x (fun hq => hx (hsub x hq)) hlive⟩

theorem State.unpoison_placed (Q : Nat → Prop) (s : State) (a n : Nat) : Placed Q s (s.unpoison a n) :=
  ⟨rfl, fun h => by unfold State.unpoison; rw [h]; rfl, fun _ _ _ => rfl⟩

theorem State.store_placed {Q : Nat → Prop} (s : State) {ac : Access} {a : Nat} {bs : List Byte} (h5 : addrSpace a ≠ 5)
    (hq : ∀ x, touched ac [(a, bs.length)] x → Q x) : Placed Q s (s.store ac a bs) where
  stored := s.store_stored ac h5 bs
  clean hclean := by
    have hfree := ((State.unpoison_placed Q ({ s with mem := s.mem.store ac a bs } : State) (hostKey ac.function a) bs.length).clean hclean)
    rw [State.store, if_neg h5]
    dsimp only
    split
    · rw [(State.replaceCache_kept _ _ _).poison]
      exact hfree
    · exact hfree
  bytes x hx hlive := by
    have hread : (s.mem.store ac a bs).read x = s.mem.read x := s.mem.read_store_untouched fun ht => hx (hq x ht)
    rw [State.store, if_neg h5]
    dsimp only
    split
    · exact ((State.replaceCache_kept (({ s with mem := s.mem.store ac a bs } : State).unpoison (hostKey ac.function a) bs.length) _ _).bytes x
        hlive).trans hread
    · exact hread

/-! ### Spans that stay in one space -/

/-- A span whose addresses, the one behind it included, stand in the space of a window, which is not the management space. -/
def spanWithin (sp : Nat) (p : Nat × Nat) : Prop := ∀ i, i ≤ p.2 → addrSpace (p.1 + i) = sp

theorem spanWithin.hostKey {sp : Nat} {p : Nat × Nat} (h : spanWithin sp p) {i : Nat} (hi : i ≤ p.2) (fn : Nat) :
    hostKey fn (p.1 + i) = hostKey fn p.1 + i := by
  unfold Machine.hostKey
  rw [h i hi, show addrSpace p.1 = sp from h 0 (Nat.zero_le _)]
  split
  · omega
  · rfl

/-- A store into a part of a span touches only what the span does. -/
theorem touched_part {ac : Access} {ps : List (Nat × Nat)} {p : Nat × Nat} {sp a n : Nat} (hp : p ∈ ps) (hin : spanWithin sp p) (hlo : p.1 ≤ a)
    (hhi : a + n ≤ p.1 + p.2) {x : Nat} (h : touched ac [(a, n)] x) : touched ac ps x := by
  obtain ⟨q, hq, hx⟩ := h
  obtain rfl := List.mem_singleton.mp hq
  obtain ⟨i, rfl⟩ := Nat.exists_eq_add_of_le hlo
  refine ⟨p, hp, ?_⟩
  dsimp only at hx
  rw [hin.hostKey (by omega)] at hx
  split at hx
  · rename_i hkeys
    rw [if_pos hkeys]
    omega
  · rename_i hkeys
    rw [if_neg hkeys]
    omega

/-- A store of a part of a span through an access keeps to what the access touches of the spans. -/
theorem State.store_part {ac : Access} {ps : List (Nat × Nat)} {p : Nat × Nat} {sp a : Nat} {bs : List Byte} (s : State) (hp : p ∈ ps)
    (hin : spanWithin sp p) (h5 : sp ≠ 5) (hlo : p.1 ≤ a) (hhi : a + bs.length ≤ p.1 + p.2) :
    Placed (touched ac ps) s (s.store ac a bs) := by
  obtain ⟨i, rfl⟩ := Nat.exists_eq_add_of_le hlo
  refine s.store_placed ?_ fun x hx => touched_part hp hin hlo hhi hx
  rw [hin i (by omega)]
  exact h5

/-! ### A row of a window -/

section
variable {ac : Access} {w : Block512} {ps : List (Nat × Nat)} {sp r c0 n : Nat}

theorem elemSpan_fst (fmt ra c0 n : Nat) : (elemSpan fmt ra c0 n).1 = ra + c0 * formatBits fmt / 8 := rfl
theorem elemSpan_end (fmt ra c0 n : Nat) : (elemSpan fmt ra c0 n).1 + (elemSpan fmt ra c0 n).2 = ra + ((c0 + n) * formatBits fmt + 7) / 8 := by
  have hle : c0 * formatBits fmt / 8 ≤ ((c0 + n) * formatBits fmt + 7) / 8 :=
    Nat.div_le_div_right (Nat.le_add_right_of_le (Nat.mul_le_mul_right _ (Nat.le_add_right c0 n)))
  unfold elemSpan
  dsimp only
  omega

theorem State.putCode_placed {fmt ra i : Nat} (s : State) (hp : elemSpan fmt ra c0 n ∈ ps) (hin : spanWithin sp (elemSpan fmt ra c0 n)) (h5 : sp ≠ 5)
    (hlo : c0 ≤ i) (hhi : i < c0 + n) (code : Nat) : Placed (touched ac ps) s (s.putCode ac fmt ra i code) := by
  have hfrom : c0 * formatBits fmt ≤ i * formatBits fmt := Nat.mul_le_mul_right _ hlo
  have hto : i * formatBits fmt + formatBits fmt ≤ (c0 + n) * formatBits fmt := by
    rw [← Nat.succ_mul]
    exact Nat.mul_le_mul_right _ hhi
  have hend := elemSpan_end fmt ra c0 n
  have hstart := elemSpan_fst fmt ra c0 n
  have hstore : ∀ v, Placed (touched ac ps) s
      (s.store ac (ra + i * formatBits fmt / 8) (leBytes ((i * formatBits fmt % 8 + formatBits fmt + 7) / 8) v)) := fun v =>
    s.store_part hp hin h5 (by omega) (by rw [leBytes_length]; omega)
  unfold State.putCode
  dsimp only
  split
  · exact hstore _
  · exact hstore _

theorem State.putCodes_placed {c : Nat} {cs : List Coded} (s : State) (hp : elemSpan (winFormat w) (rowAddr w r) c0 n ∈ ps)
    (hin : spanWithin sp (elemSpan (winFormat w) (rowAddr w r) c0 n)) (h5 : sp ≠ 5) (hlo : c0 ≤ c) (hhi : c + cs.length ≤ c0 + n) :
    Placed (touched ac ps) s (s.putCodes ac w r c cs) := by
  refine Placed.trans (Placed.foldl (fun u p hmem => ?_) s) (State.unpoison_placed _ _ _ _)
  have hplace := List.mem_zipIdx hmem
  exact u.putCode_placed hp hin h5 (by omega) (by omega) _

/-- The scale of a later block of a row lies behind that of the row's first by no more than the blocks between. -/
theorem scaleAddr_block (hc : c0 % 64 = 0) (w : Block512) (r j : Nat) :
    scaleAddr w c0 r ≤ scaleAddr w (c0 + 32 * j) r ∧ scaleAddr w (c0 + 32 * j) r ≤ scaleAddr w c0 r + j := by
  have hoff : scaleOffset w c0 r ≤ scaleOffset w (c0 + 32 * j) r ∧ scaleOffset w (c0 + 32 * j) r ≤ scaleOffset w c0 r + j := by
    unfold scaleOffset
    generalize winDim w 0 / 32 * r = x
    generalize 64 * ((winDim w 0 + 2047) / 2048) * r = y
    generalize winDim w 0 / 128 * r = z
    split
    · omega
    · omega
    · omega
    · omega
  unfold scaleAddr
  omega

theorem convertBlock_length (code : Nat) (cv : Conv) (xs : List (Nat × Val)) : (convertBlock code cv xs).2.length = xs.length := by
  unfold convertBlock
  dsimp only
  split
  · exact List.length_map _
  · split
    · split
      · exact List.length_map _
      · exact List.length_map _
    · exact List.length_map _

theorem State.putBlock_placed {cv : Conv} {b : Nat} {xs : List W32} (s : State) (hmx : isMx (winFormat w) = true)
    (hsub : ∀ p ∈ rowSpans w r c0 n, p ∈ ps ∧ spanWithin sp p) (h5 : sp ≠ 5) (hc : c0 % 64 = 0) {j : Nat} (hb : b = c0 + 32 * j)
    (hj : 32 * j + 32 ≤ n) (c : Nat) : Placed (touched ac ps) s (s.putBlock ac w cv r b c xs).1 := by
  have helems := hsub _ (List.mem_cons_self ..)
  have hscales : (scaleAddr w c0 r, (c0 + n - 1) / 32 - c0 / 32 + 1) ∈ rowSpans w r c0 n := by
    unfold rowSpans scaleSpans
    rw [if_neg (by omega), if_pos hmx]
    exact List.mem_cons_of_mem _ (List.mem_singleton_self _)
  obtain ⟨hmem, hin⟩ := hsub _ hscales
  obtain ⟨hfrom, hto⟩ := scaleAddr_block hc w r j
  unfold State.putBlock
  dsimp only
  rw [hb]
  refine Placed.trans (s.store_part hmem hin h5 hfrom (by simp only [List.length_singleton]; omega))
    (State.putCodes_placed _ helems.1 helems.2 h5 (Nat.le_add_right ..) ?_)
  rw [convertBlock_length, List.length_map, List.length_range]
  omega

/-- A row keeps to what its access touches of its elements' and scales' spans. -/
theorem State.putRow_placed {cv : Conv} {ts : W32} {xs : List W32} (s : State) (hsub : ∀ p ∈ rowSpans w r c0 n, p ∈ ps ∧ spanWithin sp p)
    (h5 : sp ≠ 5) (hmx : isMx (winFormat w) = true → c0 % 64 = 0 ∧ n % 32 = 0) (hlen : xs.length ≤ n) :
    Placed (touched ac ps) s (s.putRow ac w cv ts r c0 xs).1 := by
  unfold State.putRow
  split
  case isTrue hformat =>
    obtain ⟨hc, hn⟩ := hmx hformat
    dsimp only
    refine Placed.trans (Placed.trans ?_ (State.unpoison_placed _ _ _ _)) (State.unpoison_placed _ _ _ _)
    refine Placed.foldl_counted (fun p j hj => ?_) (s, _)
    have hlast := List.mem_range.mp hj
    exact p.1.putBlock_placed hformat hsub h5 hc (j := j) (by omega) (by omega) c0
  case isFalse =>
    have helems := hsub _ (List.mem_cons_self ..)
    exact s.putCodes_placed helems.1 helems.2 h5 (Nat.le_refl _) (by rw [List.length_map, List.length_zipIdx]; omega)

end

end Sys2Proof.Machine
end

section
/-!
The units of a command that nothing holds up (R143, R203, R212). `Worked` says what the units may change beside given bytes; what stops a unit and
what it waits for then stay as they were, but for the tokens that the units before it took and gave. `Progress` is the invariant of a run: a command
that has done its units below `k` still finds its other units free.
-/
namespace Sys2Proof.Machine

/-! ### What the units of a command change -/

/-- What the units of a command change: of the memory given bytes and the counts in context records, and beside it the poison, caches, tokens,
streams, counters, items, looms and bobbin units; where no word was poisoned none is. -/
structure Worked (Q : Nat → Prop) (s s' : State) : Prop where
  rest : s' = { s with mem := s'.mem, poison := s'.poison, caches := s'.caches, full := s'.full, streams := s'.streams, counters := s'.counters
                       items := s'.items, looms := s'.looms, bobbins := s'.bobbins, free := s'.free }
  clean : s.poison = [] → s'.poison = []
  bytes : ∀ x, ¬Q x → ¬s.liveCharge x → s'.mem.read x = s.mem.read x

/-- What the same step leaves of the records of contexts: no given byte lies in one. -/
def State.recordsApart (s : State) (Q : Nat → Prop) : Prop := ∀ x, Q x → ¬s.recordByte x

section
variable {Q : Nat → Prop} {s s' s'' : State}

theorem Worked.refl (Q : Nat → Prop) (s : State) : Worked Q s s := ⟨rfl, id, fun _ _ _ => rfl⟩

theorem Worked.liveCharge_iff (h : Worked Q s s') (x : Nat) : s'.liveCharge x ↔ s.liveCharge x := by
  rw [h.rest]
  rfl

theorem Worked.trans (h : Worked Q s s') (k : Worked Q s' s'') : Worked Q s s'' where
  rest := by rw [k.rest, h.rest]
  clean hclean := k.clean (h.clean hclean)
  bytes x hx hlive := (k.bytes x hx fun hlive' => hlive ((h.liveCharge_iff x).mp hlive')).trans (h.bytes x hx hlive)

theorem Worked.foldl {α : Type} {f : State → α → State} (hf : ∀ s a, Worked Q s (f s a)) (l : List α) (s : State) : Worked Q s (l.foldl f s) := by
  induction l generalizing s with
  | nil => exact Worked.refl Q s
  | cons a l ih => exact (hf s a).trans (ih (f s a))

theorem Placed.worked (h : Placed Q s s') : Worked Q s s' := by
  refine ⟨?_, h.clean, h.bytes⟩
  have hrest := h.stored
  unfold Stored at hrest
  rw [hrest]

theorem Woven.worked (h : Woven s s') : Worked Q s s' := by
  unfold Woven at h
  refine ⟨?_, fun hclean => ?_, fun _ _ _ => ?_⟩
  · rw [h]
  · rw [h]
    exact hclean
  · rw [h]

theorem State.modItem_worked (s : State) (i : ItemId) (f : Item → Item) : Worked Q s (s.modItem i f) := ⟨rfl, id, fun _ _ _ => rfl⟩

theorem State.modLoom_worked (s : State) (h l : Nat) (f : Loom → Loom) : Worked Q s (s.modLoom h l f) := ⟨rfl, id, fun _ _ _ => rfl⟩

theorem State.modBobbin_worked (s : State) (h l : Nat) (f : Bobbin → Bobbin) : Worked Q s (s.modBobbin h l f) := ⟨rfl, id, fun _ _ _ => rfl⟩

theorem State.countTally_worked (s : State) (h l : Nat) (t : Tally) : Worked Q s (s.countTally h l t) := (s.countTally_woven h l t).worked

theorem State.serveRows_worked (s : State) (c n : Nat) : Worked Q s (s.serveRows c n) := by
  have hkept := s.serveRows_kept c n
  refine ⟨?_, fun hclean => hkept.poison.trans hclean, fun x _ hlive => hkept.bytes x hlive⟩
  unfold State.serveRows
  split
  · rfl
  · rfl

/-! ### What a unit finds after others have worked -/

theorem State.ctxAddr_aligned (s : State) (c : Nat) : s.ctxAddr c % 512 = 0 := by
  unfold State.ctxAddr galleryAddr
  rw [Nat.shiftLeft_eq]
  omega

theorem readBytes_succ (m : Memory) (a n : Nat) : m.readBytes a (n + 1) = m.read a :: m.readBytes (a + 1) n := by
  unfold Memory.readBytes
  rw [List.range_succ_eq_map, List.map_cons, List.map_map]
  refine congrArg _ (List.map_congr_left fun i _ => ?_)
  rw [Function.comp_apply, Nat.succ_eq_add_one, Nat.add_assoc, Nat.add_comm 1]

theorem leNat_readBytes_head (m : Memory) (a n : Nat) : leNat (m.readBytes a (n + 6)) = (m.read a).toNat + 256 * ((m.read (a + 1)).toNat +
    256 * ((m.read (a + 2)).toNat + 256 * ((m.read (a + 3)).toNat + 256 * ((m.read (a + 4)).toNat + 256 * ((m.read (a + 5)).toNat +
      256 * leNat (m.readBytes (a + 6) n)))))) := by
  simp only [readBytes_succ, leNat, Nat.add_assoc, Nat.reduceAdd]

/-- The key slot of a record stands in its bytes 4 and 5. -/
theorem State.keySlotOf_eq (s : State) (c : Nat) : s.keySlotOf c =
    ((s.mem.read (s.ctxAddr c + 4)).toNat + 256 * (s.mem.read (s.ctxAddr c + 5)).toNat) % 2 ^ 14 := by
  unfold State.keySlotOf ctxKey State.ctx fieldNat
  have hlt := leNat_lt (s.mem.readBytes (s.ctxAddr c) 512)
  rw [Memory.readBytes_length, show (256 : Nat) = 2 ^ 8 from rfl, ← pow_mul] at hlt
  rw [BitVec.toNat_ofNat, Nat.mod_eq_of_lt hlt, Nat.shiftRight_eq_div_pow]
  have hhead := leNat_readBytes_head s.mem (s.ctxAddr c) 506
  rw [show 506 + 6 = 512 from rfl] at hhead
  have h0 := (s.mem.read (s.ctxAddr c)).isLt
  have h1 := (s.mem.read (s.ctxAddr c + 1)).isLt
  have h2 := (s.mem.read (s.ctxAddr c + 2)).isLt
  have h3 := (s.mem.read (s.ctxAddr c + 3)).isLt
  clear hlt
  generalize leNat (s.mem.readBytes (s.ctxAddr c) 512) = n at *
  omega

theorem winOwner_lt (w : Block512) : winOwner w < 16384 := by
  unfold winOwner fieldNat
  exact Nat.mod_lt _ (by decide)

theorem State.poisoned_of_clean {s : State} (hclean : s.poison = []) (a n : Nat) : s.poisoned a n = false := by
  unfold State.poisoned
  rw [hclean, List.any_nil, Bool.and_false]

variable (h : Worked Q s s') (hrecords : s.recordsApart Q)
include h

theorem Worked.itemFunction (i : ItemId) : s'.itemFunction i = s.itemFunction i := by
  rw [h.rest]
  rfl

theorem Worked.unitLoom (t : Item) (u : Nat) : s'.unitLoom t u = s.unitLoom t u := by
  rw [h.rest]
  rfl

theorem Worked.ctxAddr (c : Nat) : s'.ctxAddr c = s.ctxAddr c := by
  rw [h.rest]
  rfl

theorem Worked.chargeByte_iff (x : Nat) : s'.chargeByte x ↔ s.chargeByte x := by
  unfold State.chargeByte
  simp only [h.ctxAddr]

theorem Worked.recordByte_iff (x : Nat) : s'.recordByte x ↔ s.recordByte x := by
  unfold State.recordByte
  simp only [h.ctxAddr]

theorem Worked.sameRegisters : s.sameRegisters s' := by
  rw [h.rest]
  exact ⟨rfl, rfl, rfl, rfl, rfl, rfl, rfl, rfl, rfl⟩

theorem Worked.mod : s'.mod = s.mod := by rw [h.rest]
theorem Worked.knots : s'.knots = s.knots := by rw [h.rest]
theorem Worked.windows : s'.windows = s.windows := by rw [h.rest]

theorem Worked.dataKey (c : Nat) : s'.dataKey c = s.dataKey c := by
  rw [h.rest]
  rfl

include hrecords

/-- A byte of a record's head stays. -/
theorem Worked.record {c i : Nat} (hc : c < 16384) (hi : i < 36) : s'.mem.read (s.ctxAddr c + i) = s.mem.read (s.ctxAddr c + i) := by
  refine h.bytes _ (fun hq => hrecords _ hq ⟨c, hc, Nat.le_add_right .., by omega⟩) ?_
  rintro ⟨d, -, hlo, hhi⟩
  have hc := s.ctxAddr_aligned c
  have hd := s.ctxAddr_aligned d
  omega

theorem Worked.keySlotOf {c : Nat} (hc : c < 16384) : s'.keySlotOf c = s.keySlotOf c := by
  rw [State.keySlotOf_eq, State.keySlotOf_eq, h.ctxAddr, h.record hrecords hc (by omega), h.record hrecords hc (by omega)]

theorem Worked.access (fn : Nat) (w : Block512) : s'.access fn w = s.access fn w := by
  unfold State.access State.xtsKeys State.hostKeys
  rw [h.keySlotOf hrecords (winOwner_lt w), h.dataKey]

theorem Worked.accessFault (fn : Nat) (w : Block512) (spans : List (Nat × Nat)) : s'.accessFault fn w spans = s.accessFault fn w spans := by
  have hvalid : s'.keyValid (winOwner w) = s.keyValid (winOwner w) := by
    unfold State.keyValid
    rw [h.keySlotOf hrecords (winOwner_lt w), h.dataKey]
  unfold State.accessFault
  rw [hvalid, h.rest]
  rfl

theorem Worked.readFault (hclean : s.poison = []) (fn : Nat) (uses : Bool) (rs : List Read) : s'.readFault fn uses rs = s.readFault fn uses rs := by
  unfold State.readFault
  refine congrArg firstFail (List.map_congr_left fun r _ => ?_)
  rw [h.accessFault hrecords]
  simp only [State.poisoned_of_clean hclean, State.poisoned_of_clean (h.clean hclean)]

end

/-! ### Tokens (R202, R203, R221) -/

/-- What a read outside the loom stores waits for: the entries of a stream's buffer that it takes. -/
def State.streamReady (s : State) (t : Item) (r : Read) : Bool :=
  match t.buffer r.handle with
  | none => true
  | some k =>
    match (Table.get Stream.reset s.streams k).active with
    | some a => if a.dst = r.handle then r.rows.all fun i => a.full.contains i
      else !((Table.get Stream.reset s.streams k).pending.any fun p => p.dst == r.handle)
    | none => true

theorem State.readReady_eq (s : State) (t : Item) (r : Read) : s.readReady t r =
    if r.all.any fun p => s.hitsZeroing p.1 p.2 then false
    else if addrSpace (winBase r.win) = 0 then r.all.all fun p => s.allFull p.1 p.2 else s.streamReady t r := rfl

theorem State.allFull_iff (s : State) (r : Read) (h : addrSpace (winBase r.win) = 0) :
    (r.all.all fun p => s.allFull p.1 p.2) = true ↔ ∀ g ∈ r.granules, g ∈ s.full := by
  unfold Read.granules State.allFull
  rw [if_pos h]
  simp only [List.all_eq_true, List.contains_iff_mem, List.mem_flatMap, forall_exists_index, and_imp]
  exact ⟨fun hall g p hp hg => hall p hp g hg, fun hall p hp g hg => hall g p hp hg⟩

theorem State.allEmpty_iff (s : State) (r : Read) (h : addrSpace (winBase r.win) = 0) :
    (r.all.all fun p => s.allEmpty p.1 p.2) = true ↔ ∀ g ∈ r.granules, g ∉ s.full := by
  unfold Read.granules State.allEmpty
  rw [if_pos h]
  simp only [List.all_eq_true, Bool.not_eq_true', List.contains_eq_mem, decide_eq_false_iff_not, List.mem_flatMap, forall_exists_index, and_imp]
  exact ⟨fun hall g p hp hg => hall p hp g hg, fun hall p hp g hg => hall g p hp hg⟩

/-- A read finds its tokens still where its granules stay full and the entries of its buffer there. -/
theorem Worked.readReady {Q : Nat → Prop} {s s' : State} (h : Worked Q s s') {t : Item} {r : Read} (hready : s.readReady t r = true)
    (hfull : ∀ g ∈ r.granules, g ∈ s.full → g ∈ s'.full)
    (hstream : addrSpace (winBase r.win) ≠ 0 → s.streamReady t r = true → s'.streamReady t r = true) : s'.readReady t r = true := by
  have hzero : ∀ p : Nat × Nat, s'.hitsZeroing p.1 p.2 = s.hitsZeroing p.1 p.2 := fun p => by
    rw [h.rest]
    rfl
  rw [State.readReady_eq] at hready ⊢
  simp only [hzero]
  split at hready
  · exact absurd hready Bool.false_ne_true
  next hnot =>
    rw [if_neg hnot]
    split at hready
    next hspace =>
      rw [if_pos hspace, State.allFull_iff _ _ hspace]
      exact fun g hg => hfull g hg ((s.allFull_iff r hspace).mp hready g hg)
    next hspace =>
      rw [if_neg hspace]
      exact hstream hspace hready

theorem Worked.writeReady {Q : Nat → Prop} {s s' : State} (h : Worked Q s s') {r : Read} (hready : s.writeReady r = true)
    (hempty : ∀ g ∈ r.granules, g ∈ s'.full → g ∈ s.full) : s'.writeReady r = true := by
  have hzero : ∀ p : Nat × Nat, s'.hitsZeroing p.1 p.2 = s.hitsZeroing p.1 p.2 := fun p => by
    rw [h.rest]
    rfl
  unfold State.writeReady at hready ⊢
  simp only [hzero]
  rw [Bool.and_eq_true] at hready ⊢
  refine ⟨hready.1, ?_⟩
  have hplace := hready.2
  by_cases hspace : addrSpace (winBase r.win) = 0
  · simp only [hspace, bne_self_eq_false, Bool.false_or] at hplace ⊢
    rw [State.allEmpty_iff _ _ hspace] at hplace ⊢
    exact fun g hg hin => hplace g hg (hempty g hg hin)
  · rw [bne_iff_ne.mpr hspace, Bool.true_or]

theorem mem_insertNat_iff {l : List Nat} {a b : Nat} : b ∈ insertNat l a ↔ b = a ∨ b ∈ l := by
  induction l with
  | nil => simp [insertNat]
  | cons c l ih =>
    unfold insertNat
    split
    · rw [List.mem_cons, ih, List.mem_cons]
      exact or_left_comm
    · split
      next heq => simp [heq]
      next => exact List.mem_cons

theorem mem_foldl_insertNat_iff {l m : List Nat} {b : Nat} : b ∈ l.foldl insertNat m ↔ b ∈ l ∨ b ∈ m := by
  induction l generalizing m with
  | nil => simp
  | cons c l ih => rw [List.foldl_cons, ih, mem_insertNat_iff, List.mem_cons, or_assoc, or_left_comm]

theorem State.produceExcept_mem (s : State) (left : List Read) (r : Read) (g : Nat) : g ∈ (s.produceExcept left r).full ↔
    g ∈ r.granules ∧ (∀ q ∈ left, g ∉ q.granules) ∨ g ∈ s.full := by
  unfold State.produceExcept
  dsimp only
  rw [mem_foldl_insertNat_iff, List.mem_filter]
  simp only [Bool.not_eq_true', List.contains_eq_mem, decide_eq_false_iff_not, List.mem_flatMap, not_exists, not_and]

theorem State.foldl_produceExcept_mem (left rs : List Read) (s : State) (g : Nat) : g ∈ (rs.foldl (fun s r => s.produceExcept left r) s).full ↔
    (∃ q ∈ rs, g ∈ q.granules) ∧ (∀ q ∈ left, g ∉ q.granules) ∨ g ∈ s.full := by
  induction rs generalizing s with
  | nil => simp
  | cons r rs ih =>
    rw [List.foldl_cons, ih, State.produceExcept_mem]
    have hcons : (∃ q ∈ r :: rs, g ∈ q.granules) ↔ g ∈ r.granules ∨ ∃ q ∈ rs, g ∈ q.granules := by simp
    rw [hcons, or_and_right, or_assoc, or_left_comm]

theorem State.settleTokens_streams (s : State) (w : UnitWork) (t : Item) (u : Nat) (us : List Nat) : (s.settleTokens w t u us).streams =
    ((w.takes u).foldl (fun s r => s.consumeExcept t (us.flatMap w.takes) r) s).streams := by
  unfold State.settleTokens
  generalize (w.takes u).foldl (fun s r => s.consumeExcept t (us.flatMap w.takes) r) s = v
  induction w.gives u generalizing v with
  | nil => rfl
  | cons r rs ih => exact ih _

/-- The tokens that a unit leaves: those that it takes are gone but where a later unit takes them, those that it gives are there but where a later
one gives them. -/
theorem State.settleTokens_mem (s : State) (w : UnitWork) (t : Item) (u : Nat) (us : List Nat) (g : Nat) : g ∈ (s.settleTokens w t u us).full ↔
    (∃ q ∈ w.gives u, g ∈ q.granules) ∧ (∀ q ∈ us.flatMap w.gives, g ∉ q.granules) ∨
      g ∈ s.full ∧ ¬((∃ q ∈ w.takes u, g ∈ q.granules) ∧ ∀ q ∈ us.flatMap w.takes, g ∉ q.granules) := by
  unfold State.settleTokens
  rw [State.foldl_produceExcept_mem, State.foldl_consumeExcept_mem]

/-- What a later read takes of a stream's buffer stays there. -/
theorem State.consumeExcept_streamReady {s : State} {t : Item} {left : List Read} {q : Read} (hq : q ∈ left) (r : Read)
    (h : s.streamReady t q = true) : (s.consumeExcept t left r).streamReady t q = true := by
  unfold State.consumeExcept
  split
  · exact h
  next hspace =>
    unfold State.consume
    rw [if_neg hspace]
    dsimp only
    cases hr : t.buffer r.handle with
    | none => exact h
    | some k =>
      unfold State.streamReady at h ⊢
      cases hbuf : t.buffer q.handle with
      | none => rfl
      | some j =>
        rw [hbuf] at h
        dsimp only at h ⊢
        have hget := s.modStream_stream (k / 4096) (k % 4096) (j / 4096) (j % 4096) fun st => { st with active := st.active.map fun a =>
          if a.dst = r.handle then { a with full := a.full.filter fun i => !(r.rows.filter fun i =>
            !((left.filter fun x => x.handle == r.handle).flatMap (·.rows)).contains i).contains i } else a }
        unfold State.stream at hget
        rw [show 4096 * (j / 4096) + j % 4096 = j from by omega, show 4096 * (k / 4096) + k % 4096 = k from by omega] at hget
        rw [hget]
        by_cases hkj : k = j
        · subst hkj
          rw [if_pos rfl]
          dsimp only
          cases hact : (Table.get Stream.reset s.streams k).active with
          | none => rfl
          | some a =>
            rw [hact] at h
            rw [Option.map_some]
            dsimp only at h ⊢
            by_cases hdst : a.dst = r.handle
            · rw [if_pos hdst]
              dsimp only
              by_cases hsame : a.dst = q.handle
              · rw [if_pos hsame] at h ⊢
                rw [List.all_eq_true] at h ⊢
                intro i hi
                have hin := h i hi
                rw [List.contains_iff_mem] at hin ⊢
                refine List.mem_filter.mpr ⟨hin, ?_⟩
                have hkept : ((left.filter fun x => x.handle == r.handle).flatMap (·.rows)).contains i = true :=
                  List.contains_iff_mem.mpr (List.mem_flatMap.mpr ⟨q, List.mem_filter.mpr ⟨hq, beq_iff_eq.mpr (hsame.symm.trans hdst)⟩, hi⟩)
                rw [Bool.not_eq_true', ← Bool.not_eq_true, List.contains_iff_mem, List.mem_filter, hkept]
                exact fun hgone => absurd hgone.2 (by decide)
              · rw [if_neg hsame] at h ⊢
                exact h
            · rw [if_neg hdst]
              exact h
        · rw [if_neg hkj]
          exact h

theorem State.streamReady_congr {s s' : State} (h : s'.streams = s.streams) (t : Item) (r : Read) : s'.streamReady t r = s.streamReady t r := by
  unfold State.streamReady
  rw [h]

theorem State.settleTokens_streamReady {s : State} {w : UnitWork} {t : Item} {u v : Nat} {us : List Nat} {q : Read} (hv : v ∈ us) (hq : q ∈ w.takes v)
    (h : s.streamReady t q = true) : (s.settleTokens w t u us).streamReady t q = true := by
  rw [State.streamReady_congr (s.settleTokens_streams w t u us)]
  have hleft : q ∈ us.flatMap w.takes := List.mem_flatMap.mpr ⟨v, hv, hq⟩
  induction w.takes u generalizing s with
  | nil => exact h
  | cons r rs ih => exact ih (State.consumeExcept_streamReady hleft r h)

end Sys2Proof.Machine
end

section
/-!
The run of a command's units (R143, R144). `Progress` is its invariant: the units below `k` are done, and those from `k` on still find the tokens that
they found at the start. `runUnits_progress` runs them all, given that a unit that finds its tokens runs; `runAll_progress` then ends the item.
-/
namespace Sys2Proof.Machine

/-- An item whose units have come further: what it has done, counted and where it has run. -/
def Item.furtherThan (x t : Item) : Prop :=
  x = { t with unitsDone := x.unitsDone, bytes := x.bytes, replay := x.replay, looms := x.looms, termMet := x.termMet }

theorem Item.furtherThan.trans {x y t : Item} (h : y.furtherThan x) (k : x.furtherThan t) : y.furtherThan t := by
  unfold Item.furtherThan at h k ⊢
  rw [h, k]

theorem Item.furtherThan.id {x t : Item} (h : x.furtherThan t) : x.id = t.id := by rw [h]
theorem Item.furtherThan.phase {x t : Item} (h : x.furtherThan t) : x.phase = t.phase := by rw [h]
theorem Item.furtherThan.streamReady {x t : Item} (h : x.furtherThan t) (s : State) (r : Read) : s.streamReady x r = s.streamReady t r := by
  rw [h]
  rfl
theorem Item.furtherThan.unitCount {x t : Item} (h : x.furtherThan t) : x.unitCount = t.unitCount := by rw [h]

theorem Item.mem_unitsLeft {t : Item} {u : Nat} : u ∈ t.unitsLeft ↔ u < t.unitCount ∧ t.unitsDone.contains u = false := by
  unfold Item.unitsLeft
  rw [List.mem_filter, List.mem_range, Bool.not_eq_true']

/-- How far a command has come in a run from `s₀` on: its units below `k` are done, and those from `k` on find their tokens as they were. -/
structure Progress (s₀ : State) (t : Item) (w : UnitWork) (needs : Nat → List Read) (Q : Nat → Prop) (k : Nat) (s : State) : Prop where
  worked : Worked Q s₀ s
  item : ∃ x, s.item t.id = some x ∧ x.furtherThan t ∧ t.bytes ≤ x.bytes ∧
    ∀ u, u < t.unitCount → (x.unitsDone.contains u = true ↔ t.unitsDone.contains u = true ∨ u < k)
  names : s.items.map Item.name = s₀.items.map Item.name
  full : ∀ v, k ≤ v → v ∈ t.unitsLeft → ∀ r ∈ needs v, ∀ g ∈ r.granules, g ∈ s₀.full → g ∈ s.full
  bare : ∀ v, k ≤ v → v ∈ t.unitsLeft → ∀ r ∈ w.gives v, ∀ g ∈ r.granules, g ∈ s.full → g ∈ s₀.full
  streams : ∀ v, k ≤ v → v ∈ t.unitsLeft → ∀ r ∈ needs v, addrSpace (winBase r.win) ≠ 0 → s₀.streamReady t r = true → s.streamReady t r = true

/-- What the run of one unit does, before its tokens are settled. -/
structure UnitRan (t : Item) (needs : Nat → List Read) (Q : Nat → Prop) (k : Nat) (s s' : State) : Prop where
  worked : Worked Q s s'
  item : ∀ x, s.item t.id = some x → ∃ y, s'.item t.id = some y ∧ y.furtherThan x ∧ x.bytes ≤ y.bytes ∧ y.unitsDone = insertNat x.unitsDone k
  names : s'.items.map Item.name = s.items.map Item.name
  kept : ∀ v, k < v → v ∈ t.unitsLeft → ∀ r ∈ needs v, ∀ g ∈ r.granules, g ∈ s.full → g ∈ s'.full
  bare : ∀ g ∈ s'.full, g ∈ s.full
  streams : s'.streams = s.streams

/-- What later units need is what they take, or is in a loom store and apart from everything that units take. -/
def UnitWork.sparesNeeds (w : UnitWork) (t : Item) (needs : Nat → List Read) : Prop :=
  ∀ v ∈ t.unitsLeft, ∀ q ∈ needs v, q ∈ w.takes v ∨
    ∀ u ∈ t.unitsLeft, ∀ r ∈ w.takes u, addrSpace (winBase q.win) = 0 ∧ ∀ g ∈ r.granules, g ∉ q.granules

theorem Took.worked {Q : Nat → Prop} {s s' : State} (h : Took s s') : Worked Q s s' := (Woven.of_took h).worked
theorem Took.item {s s' : State} (h : Took s s') (i : ItemId) : s'.item i = s.item i := by
  rw [h]
  rfl
theorem Took.items {s s' : State} (h : Took s s') : s'.items = s.items := by rw [h]

section
variable {s₀ : State} {t : Item} {w : UnitWork} {needs : Nat → List Read} {Q : Nat → Prop}

/-- A command that begins with its units. -/
theorem Progress.start {s : State} (h : Worked Q s₀ s) {x : Item} (hitem : s.item t.id = some x) (hx : x.furtherThan t) (hbytes : t.bytes ≤ x.bytes)
    (hunits : x.unitsDone = t.unitsDone) (hnames : s.items.map Item.name = s₀.items.map Item.name) (hfull : s.full = s₀.full)
    (hstreams : s.streams = s₀.streams) : Progress s₀ t w needs Q 0 s where
  worked := h
  item := ⟨x, hitem, hx, hbytes, fun u _ => by rw [hunits]; simp⟩
  names := hnames
  full v _ _ r _ g _ hg := by
    rw [hfull]
    exact hg
  bare v _ _ r _ g _ hg := by
    rw [hfull] at hg
    exact hg
  streams v _ _ r _ _ hr := by
    rw [State.streamReady_congr hstreams]
    exact hr

/-- A unit that is done already is passed over. -/
theorem Progress.skip {k : Nat} {s : State} (h : Progress s₀ t w needs Q k s) (hdone : k ∉ t.unitsLeft) : Progress s₀ t w needs Q (k + 1) s where
  worked := h.worked
  item := by
    obtain ⟨x, hitem, hx, hbytes, hunits⟩ := h.item
    refine ⟨x, hitem, hx, hbytes, fun u hu => (hunits u hu).trans ⟨fun hcase => hcase.imp_right Nat.lt_succ_of_lt, fun hcase => ?_⟩⟩
    obtain hcase | hcase := hcase
    · exact .inl hcase
    · obtain hlt | rfl := Nat.lt_succ_iff_lt_or_eq.mp hcase
      · exact .inr hlt
      · rw [Item.mem_unitsLeft] at hdone
        exact .inl (by simpa [hu] using hdone)
  names := h.names
  full v hv := h.full v (Nat.le_of_succ_le hv)
  bare v hv := h.bare v (Nat.le_of_succ_le hv)
  streams v hv := h.streams v (Nat.le_of_succ_le hv)

/-- A unit that has run leaves the later ones their tokens. -/
theorem Progress.ran {k n : Nat} {s s' : State} {x : Item} (h : Progress s₀ t w needs Q k s) (hk : k ∈ t.unitsLeft) (hran : UnitRan t needs Q k s s')
    (hx : x.furtherThan t) (hn : k + (n + 1) = t.unitCount)
    (hneeds : w.sparesNeeds t needs) :
    Progress s₀ t w needs Q (k + 1) (s'.settleTokens w x k (List.range' (k + 1) n)) := by
  have htook := s'.settleTokens_took w x k (List.range' (k + 1) n)
  have hlater : ∀ v, k + 1 ≤ v → v ∈ t.unitsLeft → v ∈ List.range' (k + 1) n := fun v hv hleft => by
    have hlt := (Item.mem_unitsLeft.mp hleft).1
    rw [List.mem_range'_1]
    omega
  refine ⟨(h.worked.trans hran.worked).trans htook.worked, ?_, ?_, ?_, ?_, ?_⟩
  · obtain ⟨y, hitem, hy, hbytes, hunits⟩ := h.item
    obtain ⟨z, hitem', hz, hbytes', hunits'⟩ := hran.item y hitem
    refine ⟨z, (htook.item _).trans hitem', hz.trans hy, Nat.le_trans hbytes hbytes', fun u hu => ?_⟩
    rw [List.contains_iff_mem, hunits', mem_insertNat_iff, ← List.contains_iff_mem, hunits u hu, Nat.lt_succ_iff_lt_or_eq]
    tauto
  · rw [htook.items, hran.names, h.names]
  · intro v hv hleft r hr g hg hin
    have hs' := hran.kept v hv hleft r hr g hg (h.full v (Nat.le_of_succ_le hv) hleft r hr g hg hin)
    refine (State.settleTokens_mem ..).mpr (.inr ⟨hs', fun hgone => ?_⟩)
    obtain ⟨⟨q, hq, hgq⟩, hnone⟩ := hgone
    obtain htakes | hapart := hneeds v hleft r hr
    · exact hnone r (List.mem_flatMap.mpr ⟨v, hlater v hv hleft, htakes⟩) hg
    · exact (hapart k hk q hq).2 g hgq hg
  · intro v hv hleft r hr g hg hin
    obtain ⟨-, hnone⟩ | ⟨hs', -⟩ := (State.settleTokens_mem ..).mp hin
    · exact absurd hg (hnone r (List.mem_flatMap.mpr ⟨v, hlater v hv hleft, hr⟩))
    · exact h.bare v (Nat.le_of_succ_le hv) hleft r hr g hg (hran.bare g hs')
  · intro v hv hleft r hr hspace hready
    have hbefore := h.streams v (Nat.le_of_succ_le hv) hleft r hr hspace hready
    obtain htakes | hapart := hneeds v hleft r hr
    · rw [← hx.streamReady]
      refine State.settleTokens_streamReady (hlater v hv hleft) htakes ?_
      rw [State.streamReady_congr hran.streams, hx.streamReady]
      exact hbefore
    · have hnone : w.takes k = [] := List.eq_nil_iff_forall_not_mem.mpr fun q hq => hspace (hapart k hk q hq).1
      rw [State.streamReady_congr (((s'.settleTokens_streams w x k _).trans (by rw [hnone]; rfl)).trans hran.streams)]
      exact hbefore

/-- A run passes over a unit that is done. -/
theorem State.runUnits_done {w : UnitWork} {i : ItemId} {u : Nat} {us : List Nat} {s : State} {x : Item} (hitem : s.item i = some x)
    (hdone : x.unitsDone.contains u = true) : State.runUnits w i (u :: us) s = State.runUnits w i us s := by
  rw [State.runUnits, hitem]
  simp only [hdone, Bool.true_or, if_true]

/-- A run carries out a unit that nothing stops or holds. -/
theorem State.runUnits_free {w : UnitWork} {i : ItemId} {u : Nat} {us : List Nat} {s : State} {x : Item} (hitem : s.item i = some x)
    (hlive : x.phase = .dispatched) (hopen : x.unitsDone.contains u = false) (hfault : w.fault s u = none) (hready : w.ready s u = true) :
    State.runUnits w i (u :: us) s = State.runUnits w i us ((w.run u s).settleTokens w x u us) := by
  rw [State.runUnits, hitem]
  simp only [hopen, hlive, hfault, hready, bne_self_eq_false, Bool.false_and, Bool.or_false, Bool.false_eq_true, if_false, if_true]

variable (I : Nat → State → Prop)

/-- The units of a command that find their tokens run, one after another. -/
theorem State.runUnits_progress (hlive : t.phase = .dispatched)
    (hneeds : w.sparesNeeds t needs)
    (hskip : ∀ k s, k ∉ t.unitsLeft → I k s → I (k + 1) s)
    (hfree : ∀ k s, k ∈ t.unitsLeft → Progress s₀ t w needs Q k s → I k s → w.fault s k = none ∧ w.ready s k = true)
    (hrun : ∀ k s, k ∈ t.unitsLeft → Progress s₀ t w needs Q k s → I k s →
      UnitRan t needs Q k s (w.run k s) ∧ ∀ s', Took (w.run k s) s' → I (k + 1) s') (n : Nat) :
    ∀ k s, k + n = t.unitCount → Progress s₀ t w needs Q k s → I k s →
      Progress s₀ t w needs Q t.unitCount (State.runUnits w t.id (List.range' k n) s) ∧
        I t.unitCount (State.runUnits w t.id (List.range' k n) s) := by
  induction n with
  | zero =>
    intro k s hk h hI
    obtain rfl : k = t.unitCount := hk
    exact ⟨h, hI⟩
  | succ n ih =>
    intro k s hk h hI
    obtain ⟨x, hitem, hx, -, hunits⟩ := h.item
    have hdone := hunits k (by omega)
    rw [List.range'_succ]
    by_cases hleft : k ∈ t.unitsLeft
    · have hopen : t.unitsDone.contains k = false := (Item.mem_unitsLeft.mp hleft).2
      rw [hopen] at hdone
      have hopen' : x.unitsDone.contains k = false := Bool.eq_false_iff.mpr fun hin => by simpa using hdone.mp hin
      obtain ⟨hfault, hready⟩ := hfree k s hleft h hI
      obtain ⟨hran, hnext⟩ := hrun k s hleft h hI
      rw [State.runUnits_free hitem (hx.phase.trans hlive) hopen' hfault hready]
      exact ih (k + 1) _ (by omega) (h.ran hleft hran hx hk hneeds) (hnext _ (State.settleTokens_took ..))
    · have hin : t.unitsDone.contains k = true := by
        rw [Item.mem_unitsLeft] at hleft
        simpa [show k < t.unitCount by omega] using hleft
      rw [State.runUnits_done hitem (hdone.mpr (.inl hin))]
      exact ih (k + 1) s (by omega) (h.skip hleft) (hskip k s hleft hI)

/-- A whole command whose units find their tokens: they run, and the item is decided. -/
theorem State.runAll_progress {s : State} (hlive : t.phase = .dispatched)
    (hneeds : w.sparesNeeds t needs)
    (hskip : ∀ k s, k ∉ t.unitsLeft → I k s → I (k + 1) s)
    (hfree : ∀ k s, k ∈ t.unitsLeft → Progress s₀ t w needs Q k s → I k s → w.fault s k = none ∧ w.ready s k = true)
    (hrun : ∀ k s, k ∈ t.unitsLeft → Progress s₀ t w needs Q k s → I k s →
      UnitRan t needs Q k s (w.run k s) ∧ ∀ s', Took (w.run k s) s' → I (k + 1) s')
    (h : Progress s₀ t w needs Q 0 s) (hI : I 0 s) :
    ∃ u, State.runAll w t s = u.finish t.id 0 ∧ Progress s₀ t w needs Q t.unitCount u ∧ I t.unitCount u := by
  obtain ⟨hend, hIend⟩ := State.runUnits_progress I hlive hneeds hskip hfree hrun t.unitCount 0 s (Nat.zero_add _) h hI
  refine ⟨_, ?_, hend, hIend⟩
  obtain ⟨x, hitem, hx, -, hunits⟩ := hend.item
  unfold State.runAll State.finishIf
  rw [List.range_eq_range', hitem]
  refine if_pos ⟨hx.phase.trans hlive, List.all_eq_true.mpr fun u hu => ?_⟩
  rw [hx.unitCount, List.mem_range] at hu
  exact (hunits u hu).mpr (.inr hu)

end

/-- The end of a command: its item is decided with what it has counted, and nothing else has changed. -/
theorem Progress.ended {s₀ u : State} {t : Item} {w : UnitWork} {needs : Nat → List Read} {Q : Nat → Prop} (h : Progress s₀ t w needs Q t.unitCount u) :
    ∃ x, (u.finish t.id 0).item t.id = some x ∧ x.phase = .decided ∧ t.bytes ≤ x.bytes ∧ (∀ v, v < t.unitCount → v ∈ x.unitsDone) ∧
      Worked Q s₀ (u.finish t.id 0) ∧ (u.finish t.id 0).items.map Item.name = s₀.items.map Item.name := by
  obtain ⟨x, hitem, -, hbytes, hunits⟩ := h.item
  have hfinal := State.finish_item u t.id t.id 0
  rw [if_pos rfl, hitem, Option.map_some] at hfinal
  refine ⟨_, hfinal, rfl, hbytes, fun v hv => List.contains_iff_mem.mp ((hunits v hv).mpr (.inr hv)), ?_, ?_⟩
  · exact h.worked.trans (State.modItem_worked _ _ _)
  · rw [← h.names]
    unfold State.finish State.modItem
    rw [List.map_map]
    refine List.map_congr_left fun y _ => ?_
    rw [Function.comp_apply]
    split <;> rfl

end Sys2Proof.Machine
end

section
/-!
The rows that a command writes into its result windows: they keep to what the accesses of those windows touch, which lies in no context record
(R51, R58, R106).
-/
namespace Sys2Proof.Machine

/-- The bytes that the writes of some results may change. -/
def written (s : State) (fn : Nat) (rs : List Read) (x : Nat) : Prop := ∃ r ∈ rs, touched (s.access fn r.win) r.all x

theorem State.recordByte_bounds {s : State} {x : Nat} (h : s.recordByte x) : x < 2 ^ 64 := by
  obtain ⟨c, hc, -, hhi⟩ := h
  have hbase := (s.hall (c / 1536)).treadle.ctxBase.isLt
  unfold State.ctxAddr galleryAddr at hhi
  rw [Nat.shiftLeft_eq] at hhi
  omega

/-- Records fill whole units, so that a unit which meets a span outside them lies outside them. -/
theorem State.recordByte_of_unit {s : State} {x y : Nat} (h : s.recordByte x) (hunit : x / 64 = y / 64) : s.recordByte y := by
  obtain ⟨c, hc, hlo, hhi⟩ := h
  have haligned := s.ctxAddr_aligned c
  exact ⟨c, hc, by omega, by omega⟩

theorem hostKey_lt {fn a : Nat} (h : hostKey fn a < 2 ^ 64) : hostKey fn a = a := by
  unfold hostKey at h ⊢
  split at h
  · omega
  next hnot => rw [if_neg hnot]

theorem touched_not_record {s : State} {ac : Access} {ps : List (Nat × Nat)} (hwithin : ∀ p ∈ ps, ∃ sp, spanWithin sp p)
    (hapart : ∀ p ∈ ps, ∀ i, i ≤ p.2 → ¬s.recordByte (p.1 + i)) {x : Nat} (h : touched ac ps x) : ¬s.recordByte x := by
  intro hrec
  obtain ⟨p, hp, hx⟩ := h
  obtain ⟨sp, hspan⟩ := hwithin p hp
  have hlt := State.recordByte_bounds hrec
  have hmeet : ∃ i, i ≤ p.2 ∧ (hostKey ac.function p.1 + i) / 64 = x / 64 := by
    split at hx
    · exact ⟨x - hostKey ac.function p.1, by omega, by congr 1; omega⟩
    · by_cases hlow : hostKey ac.function p.1 ≤ x
      · by_cases hhigh : x ≤ hostKey ac.function p.1 + p.2
        · exact ⟨x - hostKey ac.function p.1, by omega, by congr 1; omega⟩
        · exact ⟨p.2, Nat.le_refl _, by omega⟩
      · exact ⟨0, Nat.zero_le _, by omega⟩
  obtain ⟨i, hi, hunit⟩ := hmeet
  have hin := State.recordByte_of_unit hrec hunit.symm
  have hsmall := State.recordByte_bounds hin
  rw [hostKey_lt (show hostKey ac.function p.1 < 2 ^ 64 by omega)] at hin
  exact hapart p hp i hi hin

theorem State.recordsApart_written {s : State} {fn : Nat} {rs : List Read} (hwithin : resultsWithin rs)
    (hrecords : ∀ r ∈ rs, ∀ p ∈ r.all, ∀ i, i ≤ p.2 → ¬s.recordByte (p.1 + i)) : s.recordsApart (written s fn rs) := by
  rintro x ⟨r, hr, hx⟩
  exact touched_not_record (fun p hp => ⟨_, (hwithin r hr).1 p hp⟩) (hrecords r hr) hx

/-- Where no result is encrypted, a byte outside the results is not written. -/
theorem not_written {s : State} {fn : Nat} {rs : List Read} (hplain : ∀ r ∈ rs, (s.access fn r.win).keys = none) {x : Nat}
    (hout : outsideAll fn (rs.flatMap Read.all) x) : ¬written s fn rs x := by
  rintro ⟨r, hr, p, hp, hx⟩
  rw [if_pos (hplain r hr), State.access_function] at hx
  have := hout p (List.mem_flatMap.mpr ⟨r, hr, hp⟩)
  omega

section
variable {s₀ : State} {fn : Nat} {rs : List Read} (hwithin : resultsWithin rs) (hrecords : s₀.recordsApart (written s₀ fn rs))
include hwithin hrecords

/-- A row of a result keeps to what is written. -/
theorem Worked.putRow_placed {s : State} (h : Worked (written s₀ fn rs) s₀ s) {r : Read} (hr : r ∈ rs) {row : Nat} (hrow : row ∈ r.rows)
    (hmx : isMx (winFormat r.win) = true → r.c0 % 64 = 0) {xs : List W32} (hlen : xs.length ≤ r.n) (cv : Conv) (ts : W32) :
    Placed (written s₀ fn rs) s (s.putRow (s.access fn r.win) r.win cv ts row r.c0 xs).1 := by
  obtain ⟨hspans, h5, hblocks⟩ := hwithin r hr
  rw [h.access hrecords]
  refine (s.putRow_placed (ps := r.all) (n := r.n) (fun p hp => ?_) h5 (fun hf => ⟨hmx hf, (hblocks hf).2⟩) hlen).mono fun x hx => ⟨r, hr, hx⟩
  have hmem : p ∈ r.all := List.mem_flatMap.mpr ⟨row, hrow, hp⟩
  exact ⟨hmem, hspans p hmem⟩

theorem Worked.writeRow_placed {s : State} (h : Worked (written s₀ fn rs) s₀ s) {t : Item} (hfn : s₀.itemFunction t.id = fn) {b : Nat} {r : Read}
    (hr : r ∈ rs) (hwin : t.winD b = r.win) {row : Nat} (hrow : row ∈ r.rows) (hmx : isMx (winFormat r.win) = true → r.c0 % 64 = 0) {xs : List W32}
    (hlen : xs.length ≤ r.n) (cv : Conv) : Placed (written s₀ fn rs) s (s.writeRow t b cv row r.c0 xs).1 := by
  unfold State.writeRow
  rw [h.itemFunction, hfn, hwin]
  exact h.putRow_placed hwithin hrecords hr hrow hmx hlen cv _

end

/-- Some writes, each of which keeps to the bytes that may be written. -/
theorem Worked.tallied_placed {α : Type} {Q : Nat → Prop} {s₀ : State} {f : State → α → State × Tally} {l : List α}
    (hf : ∀ s, Worked Q s₀ s → ∀ a ∈ l, Placed Q s (f s a).1) {s : State} (h : Worked Q s₀ s) : Placed Q s (tallied f s l).1 := by
  unfold tallied
  suffices hall : ∀ p : State × Tally, Worked Q s₀ p.1 → Placed Q p.1 (l.foldl (fun st x => ((f st.1 x).1, st.2.plus (f st.1 x).2)) p).1 from
    hall (s, _) h
  induction l with
  | nil => exact fun p _ => Placed.refl Q p.1
  | cons a l ih =>
    intro p hp
    have hstep := hf p.1 hp a (List.mem_cons_self ..)
    rw [List.foldl_cons]
    exact hstep.trans (ih (fun u hu b hb => hf u hu b (List.mem_cons_of_mem _ hb)) ((f p.1 a).1, p.2.plus (f p.1 a).2) (hp.trans hstep.worked))

/-- The end of a unit: what it has written is counted, and its slots leave the loom. -/
def State.unitEnd (s : State) (t : Item) (l u : Nat) (tl : Tally) : State :=
  ((s.countTally t.hall l tl).unitFinished t.id u tl.bytes 0).ranOn t.id l |>.modLoom t.hall l fun lm =>
    { lm with slots := lm.slots.filter fun x => !(x.item == t.id && x.unit == u) }

theorem State.countTally_items (s : State) (h l : Nat) (t : Tally) : (s.countTally h l t).items = s.items := (s.countTally_woven h l t).items

theorem State.modItem_names (s : State) (i : ItemId) {f : Item → Item} (hf : ∀ x, (f x).name = x.name) :
    (s.modItem i f).items.map Item.name = s.items.map Item.name := by
  unfold State.modItem
  rw [List.map_map]
  refine List.map_congr_left fun y _ => ?_
  rw [Function.comp_apply]
  split
  · exact hf y
  · rfl

theorem State.countTally_tokens (s : State) (h l : Nat) (t : Tally) : (s.countTally h l t).full = s.full ∧ (s.countTally h l t).streams = s.streams ∧
    (s.countTally h l t).looms = s.looms := by
  unfold State.countTally
  split
  · split
    · exact ⟨rfl, rfl, rfl⟩
    · exact ⟨rfl, rfl, rfl⟩
  · split
    · exact ⟨rfl, rfl, rfl⟩
    · exact ⟨rfl, rfl, rfl⟩

theorem State.unitEnd_worked {Q : Nat → Prop} (s : State) (t : Item) (l k : Nat) (tl : Tally) : Worked Q s (s.unitEnd t l k tl) := by
  unfold State.unitEnd State.ranOn State.unitFinished
  exact (((s.countTally_worked t.hall l tl).trans (State.modItem_worked _ _ _)).trans (State.modItem_worked _ _ _)).trans (State.modLoom_worked _ _ _ _)

theorem State.unitEnd_tokens (s : State) (t : Item) (l k : Nat) (tl : Tally) :
    (s.unitEnd t l k tl).full = s.full ∧ (s.unitEnd t l k tl).streams = s.streams := by
  obtain ⟨hfull, hstreams, -⟩ := s.countTally_tokens t.hall l tl
  unfold State.unitEnd
  generalize s.countTally t.hall l tl = v at *
  exact ⟨hfull, hstreams⟩

theorem State.unitFinished_names (s : State) (i : ItemId) (u bytes replay : Nat) :
    (s.unitFinished i u bytes replay).items.map Item.name = s.items.map Item.name := s.modItem_names i fun _ => rfl

theorem State.unitFinished_item {s : State} {i : ItemId} {x : Item} (h : s.item i = some x) (u bytes replay : Nat) :
    (s.unitFinished i u bytes replay).item i =
      some { x with unitsDone := insertNat x.unitsDone u, bytes := x.bytes + bytes, replay := Nat.max x.replay replay } := by
  rw [State.unitFinished, State.modItem_item]
  · rw [if_pos rfl, h]
    rfl
  · exact fun _ => rfl

theorem State.ranOn_item {s : State} {i : ItemId} {x : Item} (h : s.item i = some x) (l : Nat) :
    (s.ranOn i l).item i = some { x with looms := insertNat x.looms l } := by
  rw [State.ranOn, State.modItem_item]
  · rw [if_pos rfl, h]
    rfl
  · exact fun _ => rfl

theorem State.modLoom_items (s : State) (h l : Nat) (f : Loom → Loom) : (s.modLoom h l f).items = s.items := rfl

theorem State.unitEnd_names (s : State) (t : Item) (l k : Nat) (tl : Tally) : (s.unitEnd t l k tl).items.map Item.name = s.items.map Item.name := by
  unfold State.unitEnd
  rw [State.modLoom_items, State.ranOn_names, State.unitFinished_names, State.countTally_items]

/-- An item whose unit has ended. -/
def Item.unitEnded (x : Item) (l k : Nat) (tl : Tally) : Item :=
  { x with unitsDone := insertNat x.unitsDone k, bytes := x.bytes + tl.bytes, replay := Nat.max x.replay 0, looms := insertNat x.looms l }

theorem State.unitEnd_item {s : State} {t x : Item} (hitem : s.item t.id = some x) (l k : Nat) (tl : Tally) :
    (s.unitEnd t l k tl).item t.id = some (x.unitEnded l k tl) := by
  have hcounted : (s.countTally t.hall l tl).item t.id = some x := by
    unfold State.item
    rw [State.countTally_items]
    exact hitem
  exact State.ranOn_item (State.unitFinished_item hcounted k tl.bytes 0) l

/-- A unit whose work has left the items and the tokens alone and that then ends has run. -/
theorem Worked.unitEnd {Q : Nat → Prop} {s s' : State} (h : Worked Q s s') (hitems : s'.items = s.items) (hfull : s'.full = s.full)
    (hstreams : s'.streams = s.streams) (t : Item) (needs : Nat → List Read) (l k : Nat) (tl : Tally) :
    UnitRan t needs Q k s (s'.unitEnd t l k tl) := by
  obtain ⟨hfull', hstreams'⟩ := s'.unitEnd_tokens t l k tl
  refine ⟨h.trans (s'.unitEnd_worked t l k tl), fun x hx => ?_, ?_, fun v _ _ r _ g _ hg => ?_, fun g hg => ?_, hstreams'.trans hstreams⟩
  · refine ⟨_, State.unitEnd_item (x := x) ?_ l k tl, rfl, Nat.le_add_right .., rfl⟩
    unfold State.item
    rw [hitems]
    exact hx
  · rw [State.unitEnd_names, hitems]
  · rw [hfull', hfull]
    exact hg
  · rw [hfull', hfull] at hg
    exact hg

/-- A unit whose rows are placed and that then ends has run. -/
theorem Placed.unitEnd {Q : Nat → Prop} {s s' : State} (h : Placed Q s s') (t : Item) (needs : Nat → List Read) (l k : Nat) (tl : Tally) :
    UnitRan t needs Q k s (s'.unitEnd t l k tl) := by
  have hstored := h.stored
  unfold Stored at hstored
  have hsame : s'.items = s.items ∧ s'.full = s.full ∧ s'.streams = s.streams := by
    rw [hstored]
    exact ⟨rfl, rfl, rfl⟩
  exact h.worked.unitEnd hsame.1 hsame.2.1 hsame.2.2 t needs l k tl

/-- The slots of other units stay where one ends. -/
theorem State.unitEnd_slot (s : State) (t : Item) (l k : Nat) (tl : Tally) (a b : Nat) {v : Nat} (hv : v ≠ k) (part : Nat) :
    ((s.unitEnd t l k tl).loom a b).slot t.id v part = (s.loom a b).slot t.id v part := by
  have hlooms : ∀ a b, (((s.countTally t.hall l tl).unitFinished t.id k tl.bytes 0).ranOn t.id l).loom a b = s.loom a b := fun a b => by
    unfold State.loom
    exact congrArg (fun x => Table.get Loom.reset x _) (s.countTally_tokens t.hall l tl).2.2
  unfold State.unitEnd
  rw [State.modLoom_loom]
  split
  next hkey =>
    rw [hlooms, show s.loom a b = s.loom t.hall l from by unfold State.loom; rw [hkey]]
    unfold Loom.slot
    dsimp only
    rw [List.find?_filter]
    refine congrArg (fun p => List.find? p _) (funext fun x => ?_)
    by_cases hx : x.unit = v
    · have hother : (x.unit == k) = false := beq_eq_false_iff_ne.mpr (by rw [hx]; exact hv)
      rw [hother, Bool.eq_iff_iff]
      simp
    · have hother : (x.unit == v) = false := beq_eq_false_iff_ne.mpr hx
      rw [hother]
      simp
  next => rw [hlooms]

end Sys2Proof.Machine
end

section
/-!
The landing commands run their units (R166, R178–R183): each writes its rows, its statistics and its part of dγ into the result windows and leaves
the later units what they wait for.
-/
namespace Sys2Proof.Machine

/-! ### The lengths of rows -/

theorem State.rowAt_length (s : State) (t : Item) (b n r : Nat) : (s.rowAt t b n r).length = n := by
  unfold State.rowAt State.row32
  rw [List.length_map, List.length_range]

theorem normalise_length (mode : Nat) (eps : W32) (xs : List W32) : (normalise mode eps xs).1.length = xs.length := by
  unfold normalise
  dsimp only
  rw [List.length_map]
  split
  · exact List.length_map _
  · rfl

theorem softmaxRow_length (xs : List W32) (given : Option (W32 × W32)) : (softmaxRow xs given).1.length = xs.length := by
  unfold softmaxRow
  dsimp only
  by_cases hmasked : (xs.all (· == inf32 true)) = true
  · rw [if_pos hmasked]
    exact List.length_map _
  · rw [if_neg hmasked]
    cases given with
    | none =>
      rw [if_neg (fun h => Bool.false_ne_true h.1), List.length_map, List.length_map]
    | some p =>
      dsimp only
      by_cases hmax : (some p).isSome = true ∧ p.1 = inf32 true
      · rw [if_pos hmax]
        exact List.length_map _
      · rw [if_neg hmax, List.length_map, List.length_map]

theorem softmaxGrad_length_le (ys dys : List W32) : (softmaxGrad ys dys).length ≤ ys.length := by
  unfold softmaxGrad
  dsimp only
  rw [List.length_zipWith]
  exact Nat.min_le_left ..

theorem normGrad_length_le (mode : Nat) (eps : W32) (gamma xs dys : List W32) : (normGrad mode eps gamma xs dys).1.length ≤ xs.length := by
  unfold normGrad
  dsimp only
  rw [List.length_zipWith, normalise_length]
  exact Nat.min_le_right ..

/-- The elements of a row that a landing command writes. -/
def landingWidth (t : Item) (o : Opcode) : Nat := if o = .rowreduce then 1 else winDim (t.winD 16) 0

theorem State.landingRow_length_le (s : State) (t : Item) (o : Opcode) (r : Nat) : (s.landingRow t o r).1.length ≤ landingWidth t o := by
  have hsrc := (s.heldView t (r / 32) 16).rowAt_length t 16 (winDim (t.winD 16) 0) r
  unfold State.landingRow landingWidth
  dsimp only
  generalize (s.heldView t (r / 32) 16).rowAt t 16 (winDim (t.winD 16) 0) r = xs at *
  cases o with
  | rowreduce => exact Nat.le_refl 1
  | epilog => exact Nat.le_of_eq (by simpa using hsrc)
  | eltwise => exact Nat.le_of_eq (by simpa using hsrc)
  | softmaxFwd =>
    refine Nat.le_of_eq ((softmaxRow_length _ _).trans ?_)
    rw [softmaxInput, List.length_map, List.length_zipIdx]
    exact hsrc
  | softmaxBwd => exact (softmaxGrad_length_le _ _).trans (Nat.le_of_eq hsrc)
  | normFwd =>
    refine Nat.le_of_eq ?_
    rw [normRow, List.length_map, List.length_zipIdx, normalise_length]
    exact hsrc
  | normBwd => exact (normGrad_length_le _ _ _ _ _).trans (Nat.le_of_eq hsrc)
  | _ => exact Nat.le_of_eq hsrc

/-- Only a softmax that writes its statistics gives a pair. -/
theorem State.landingRow_pair {s : State} {t : Item} {o : Opcode} {r : Nat} {p : W32 × W32} (h : (s.landingRow t o r).2 = some p) :
    o = .softmaxFwd ∧ byteField t.desc 29 1 / 2 = 2 := by
  unfold State.landingRow at h
  cases o with
  | softmaxFwd =>
    dsimp only at h
    split at h
    next hmode => exact ⟨rfl, hmode⟩
    next => exact nomatch h
  | _ => exact nomatch h

theorem foldl_zipWith_length_le {α : Type} (f : W32 → W32 → W32) (g : α → List W32) (l : List α) (xs : List W32) :
    (l.foldl (fun acc a => List.zipWith f acc (g a)) xs).length ≤ xs.length := by
  induction l generalizing xs with
  | nil => exact Nat.le_refl _
  | cons a l ih =>
    refine (ih _).trans ?_
    rw [List.length_zipWith]
    exact Nat.min_le_left ..

/-! ### One unit -/

/-- What a unit of a landing command writes, its rows and its part of dγ, with the tally. -/
def State.landed (src : State) (t : Item) (o : Opcode) (u : Nat) (s : State) : State × Tally :=
  let p := tallied (State.landRow src t o) s (landingRows t u)
  let q : State × Tally := if o = .normBwd then State.addGamma src t (landingRows t u) p.1 else (p.1, ⟨0, 0, 0⟩)
  (q.1, p.2.plus q.2)

theorem State.landUnit_eq (src : State) (t : Item) (o : Opcode) (u : Nat) (s : State) : State.landUnit src t o u s =
    (State.landed src t o u s).1.unitEnd t ((State.landed src t o u s).1.unitLoom t u) u (State.landed src t o u s).2 := rfl

section
variable {s₀ : State} {t : Item} {o : Opcode} (hwithin : resultsWithin (t.landingLeft o))
  (hrecords : s₀.recordsApart (written s₀ (s₀.itemFunction t.id) (t.landingLeft o)))

theorem Item.landingWrites_left {u : Nat} (hu : u ∈ t.unitsLeft) {r : Read} (hr : r ∈ t.landingWrites o u) : r ∈ t.landingLeft o :=
  List.mem_flatMap.mpr ⟨u, hu, hr⟩

include hwithin hrecords

theorem Worked.landRow_placed {s : State} (h : Worked (written s₀ (s₀.itemFunction t.id) (t.landingLeft o)) s₀ s) {u r : Nat}
    (hu : u ∈ t.unitsLeft) (hr : r ∈ landingRows t u) (src : State) :
    Placed (written s₀ (s₀.itemFunction t.id) (t.landingLeft o)) s (State.landRow src t o s r).1 := by
  have hrow := h.writeRow_placed hwithin hrecords (t := t) rfl (b := 24) (r := ⟨word32 t.desc 24, t.winD 24, (landingRows t u).map (landingDest t),
    0, landingWidth t o⟩) (Item.landingWrites_left hu (List.mem_cons_self ..)) rfl (row := landingDest t r) (List.mem_map_of_mem hr) (fun _ => rfl)
    (xs := (src.landingRow t o r).1) (src.landingRow_length_le t o r) (convControl t.desc 31)
  unfold State.landRow
  dsimp only
  split
  next p hp =>
    refine hrow.trans ?_
    have hstats := (h.trans hrow.worked).writeRow_placed hwithin hrecords (t := t) rfl (b := 20) (r := ⟨word32 t.desc 20, t.winD 20, landingRows t u, 0, 2⟩)
      (Item.landingWrites_left hu (List.mem_cons_of_mem _ (List.mem_append_left _ (by
        rw [if_pos (State.landingRow_pair hp)]
        exact List.mem_singleton_self _)))) rfl (row := r) hr (fun _ => rfl) (xs := [p.1, p.2]) (Nat.le_refl 2) ⟨false, false, 0⟩
    exact hstats
  next => exact hrow

theorem Worked.addGamma_placed {s : State} (h : Worked (written s₀ (s₀.itemFunction t.id) (t.landingLeft o)) s₀ s) (ho : o = .normBwd) {u : Nat}
    (hu : u ∈ t.unitsLeft) (src : State) :
    Placed (written s₀ (s₀.itemFunction t.id) (t.landingLeft o)) s (State.addGamma src t (landingRows t u) s).1 := by
  unfold State.addGamma
  split
  next => exact Placed.refl _ _
  next hsome =>
    dsimp only
    refine h.writeRow_placed hwithin hrecords (t := t) rfl (b := 48) (r := ⟨word32 t.desc 48, t.winD 48, [0], 0, landingWidth t o⟩)
      (Item.landingWrites_left hu (List.mem_cons_of_mem _ (List.mem_append_right _ ?_))) rfl (row := 0) (List.mem_singleton_self 0) (fun _ => rfl) ?_ _
    · rw [if_pos ⟨ho, Option.isSome_iff_ne_none.mpr (by simpa using hsome)⟩]
      exact List.mem_singleton_self _
    · refine (foldl_zipWith_length_le _ _ _ _).trans ?_
      rw [State.rowAt_length, landingWidth, if_neg (by rw [ho]; decide)]

theorem Worked.landed_placed {s : State} (h : Worked (written s₀ (s₀.itemFunction t.id) (t.landingLeft o)) s₀ s) {u : Nat} (hu : u ∈ t.unitsLeft)
    (src : State) : Placed (written s₀ (s₀.itemFunction t.id) (t.landingLeft o)) s (State.landed src t o u s).1 := by
  have hrows := h.tallied_placed (f := State.landRow src t o) (l := landingRows t u) (s₀ := s₀) (fun v hv r hr =>
    hv.landRow_placed hwithin hrecords hu hr src)
  unfold State.landed
  dsimp only
  split
  next ho => exact hrows.trans ((h.trans hrows.worked).addGamma_placed hwithin hrecords ho hu src)
  next => exact hrows

end

/-! ### What later units find -/

/-- The sources of a unit in the loom stores. -/
def unitSources (t : Item) (o : Opcode) (u : Nat) : List Read :=
  (t.landingReads o (landingRows t u)).filter fun r => addrSpace (winBase r.win) == 0

/-- What a unit of a landing command waits for of its sources. -/
def State.landingNeeds (s₀ : State) (t : Item) (o : Opcode) (u : Nat) : List Read := (s₀.landingWork t o).takes u ++ unitSources t o u

/-- The slots of the units from `k` on stand as they did. -/
def slotsFrom (s₀ : State) (t : Item) (k : Nat) (s : State) : Prop :=
  ∀ a b v part, k ≤ v → (s.loom a b).slot t.id v part = (s₀.loom a b).slot t.id v part

section
variable {s₀ : State} {t : Item} {o : Opcode}

theorem Worked.loadsLeft {Q : Nat → Prop} {s : State} (h : Worked Q s₀ s) {k : Nat} (hslots : slotsFrom s₀ t k s) (ho : matrixOp o = false) :
    s.loadsLeft t o k = s₀.loadsLeft t o k := by
  unfold State.loadsLeft State.partsLeft
  refine congrArg (List.flatMap Prod.snd) (List.filter_congr fun x _ => ?_)
  unfold State.partLeft
  rw [h.unitLoom, hslots _ _ k x.1 (Nat.le_refl k), ho]
  rfl

variable (happart : s₀.takesApart t o)

include happart in
theorem State.landingNeeds_apart : (s₀.landingWork t o).sparesNeeds t (s₀.landingNeeds t o) := by
  intro v hv q hq
  obtain hq | hq := List.mem_append.mp hq
  · exact .inl hq
  · by_cases hsame : inPlace t q = true
    · exact .inr fun u hu r hr => ⟨beq_iff_eq.mp (List.mem_filter.mp hq).2, happart u hu v hv r hr q (List.mem_filter.mp hq).1 hsame⟩
    · refine .inl (List.mem_append_left _ (List.mem_append_right _ (List.mem_filter.mpr ⟨hq, ?_⟩)))
      rw [Bool.not_eq_true] at hsame
      rw [hsame]
      rfl

/-- Whether a unit finds its tokens. -/
def State.landingWaits (s₀ : State) (t : Item) (o : Opcode) (s : State) (u : Nat) : Bool :=
  (s₀.landingNeeds t o u).all (s.readReady t) &&
    ((t.landingWrites o u).filter fun d => !((unitSources t o u).any (inPlace t) && inPlace t d)).all s.writeReady

theorem State.landingWork_ready (s : State) (u : Nat) : (s₀.landingWork t o).ready s u =
    if t.sharedInPlace o && t.unitsDone.isEmpty then (List.range t.unitCount).all fun v => v < u || s₀.landingWaits t o s v
    else s₀.landingWaits t o s u := rfl

variable {Q : Nat → Prop} {k : Nat} {s : State} (h : Progress s₀ t (s₀.landingWork t o) (s₀.landingNeeds t o) Q k s)
include h

theorem Progress.landingWaits {v : Nat} (hkv : k ≤ v) (hv : v ∈ t.unitsLeft) (hwaits : s₀.landingWaits t o s₀ v = true) :
    s₀.landingWaits t o s v = true := by
  unfold State.landingWaits at hwaits ⊢
  rw [Bool.and_eq_true, List.all_eq_true, List.all_eq_true] at hwaits ⊢
  exact ⟨fun r hr => h.worked.readReady (hwaits.1 r hr) (h.full v hkv hv r hr) (h.streams v hkv hv r hr),
    fun r hr => h.worked.writeReady (hwaits.2 r hr) (h.bare v hkv hv r (List.mem_filter.mp hr).1)⟩

theorem Progress.landingReady (hk : k ∈ t.unitsLeft) (hready : (s₀.landingWork t o).ready s₀ k = true) :
    (s₀.landingWork t o).ready s k = true := by
  rw [State.landingWork_ready] at hready ⊢
  split at hready
  next hshared =>
    rw [if_pos hshared, List.all_eq_true]
    rw [List.all_eq_true] at hready
    intro v hv
    have hwaits := hready v hv
    have hdone : t.unitsDone = [] := List.isEmpty_iff.mp (Bool.and_eq_true_iff.mp hshared).2
    by_cases hkv : v < k
    · rw [decide_eq_true hkv, Bool.true_or]
    · rw [decide_eq_false hkv, Bool.false_or] at hwaits ⊢
      exact h.landingWaits (Nat.le_of_not_lt hkv) (Item.mem_unitsLeft.mpr ⟨List.mem_range.mp hv, by rw [hdone]; rfl⟩) hwaits
  next hown =>
    rw [if_neg hown]
    exact h.landingWaits (Nat.le_refl k) hk hready

end

/-! ### A whole command -/

/-- A unit of a landing command has run. -/
theorem Worked.landUnit_ran {s₀ s src : State} {t : Item} {o : Opcode} {k : Nat} (hwithin : resultsWithin (t.landingLeft o))
    (hrecords : s₀.recordsApart (written s₀ (s₀.itemFunction t.id) (t.landingLeft o)))
    (h : Worked (written s₀ (s₀.itemFunction t.id) (t.landingLeft o)) s₀ s) (hk : k ∈ t.unitsLeft) (needs : Nat → List Read) :
    UnitRan t needs (written s₀ (s₀.itemFunction t.id) (t.landingLeft o)) k s (State.landUnit src t o k s) := by
  rw [State.landUnit_eq]
  exact (h.landed_placed hwithin hrecords hk src).unitEnd t needs _ k _

theorem Worked.landUnit_slots {s₀ s src : State} {t : Item} {o : Opcode} {k : Nat} (hwithin : resultsWithin (t.landingLeft o))
    (hrecords : s₀.recordsApart (written s₀ (s₀.itemFunction t.id) (t.landingLeft o)))
    (h : Worked (written s₀ (s₀.itemFunction t.id) (t.landingLeft o)) s₀ s) (hk : k ∈ t.unitsLeft) (hslots : slotsFrom s₀ t k s) {s' : State}
    (htook : Took (State.landUnit src t o k s) s') : slotsFrom s₀ t (k + 1) s' := by
  intro a b v part hv
  have hplaced := (h.landed_placed hwithin hrecords hk src).stored
  unfold Stored at hplaced
  rw [htook.loom, State.landUnit_eq, State.unitEnd_slot _ _ _ _ _ _ _ (by omega), ← hslots a b v part (by omega)]
  rw [hplaced]
  rfl

section
variable {s : State} {it : ItemId} {t : Item} {o : Opcode} (hruns : Runs s it o t) (hop : matrixOp o = false)
  (hfree : UnitsFree s (s.landingWork t o) t (t.landingLeft o)) (happart : s.takesApart t o) {J : Nat → State → Prop} (hstart : J 0 s)
  (hskip : ∀ k u, k ∉ t.unitsLeft → J k u → J (k + 1) u)
  (hnext : ∀ k u, k ∈ t.unitsLeft → Worked (written s (s.itemFunction it) (t.landingLeft o)) s u → J k u →
    ∀ u', Took ((s.landingWork t o).run k u) u' → J (k + 1) u')
include hruns hop hfree happart hstart hskip hnext

/-- A landing command whose units are free runs them all, and ends. -/
theorem Runs.landing : ∃ u, State.landing o t s = u.finish it 0 ∧
    Progress s t (s.landingWork t o) (s.landingNeeds t o) (written s (s.itemFunction it) (t.landingLeft o)) t.unitCount u ∧ J t.unitCount u := by
  obtain rfl := hruns.id
  obtain ⟨hfault, hready, hclean, hrecs, hwithin⟩ := hfree
  have hrecords : s.recordsApart (written s (s.itemFunction t.id) (t.landingLeft o)) := State.recordsApart_written hwithin hrecs
  have hbegin : Progress s t (s.landingWork t o) (s.landingNeeds t o) (written s (s.itemFunction t.id) (t.landingLeft o)) 0 s :=
    Progress.start (Worked.refl _ s) hruns.item rfl (Nat.le_refl _) rfl rfl rfl rfl
  have hfaults : ∀ k u, k ∈ t.unitsLeft → Worked (written s (s.itemFunction t.id) (t.landingLeft o)) s u → slotsFrom s t k u →
      (s.landingWork t o).fault u k = none := fun k u hk hworked hslots => by
    have hsame := hfault k hk
    change u.landingFault t o k = none
    change s.landingFault t o k = none at hsame
    rw [← hsame]
    unfold State.landingFault
    rw [hworked.itemFunction, hworked.loadsLeft hslots hop]
    simp only [hworked.readFault hrecords hclean]
  obtain ⟨u, hrun, hprog, -, hJ⟩ := State.runAll_progress (fun k u => slotsFrom s t k u ∧ J k u) hruns.live (State.landingNeeds_apart happart)
    (fun k u hk hI => ⟨fun a b v part hv => hI.1 a b v part (Nat.le_of_succ_le hv), hskip k u hk hI.2⟩)
    (fun k u hk h hI => ⟨hfaults k u hk h.worked hI.1, h.landingReady hk (hready k hk)⟩)
    (fun k u hk h hI => ⟨h.worked.landUnit_ran hwithin hrecords hk _, fun u' htook =>
      ⟨h.worked.landUnit_slots hwithin hrecords hk hI.1 htook, hnext k u hk h.worked hI.2 u' htook⟩⟩) hbegin ⟨fun _ _ _ _ _ => rfl, hstart⟩
  exact ⟨u, hrun, hprog, hJ⟩

end

/-- Settles O27. -/
theorem landingCommandsComplete : Obligations.LandingCommandsComplete := by
  unfold Obligations.LandingCommandsComplete
  intro s it t o c hmem hruns hfree happart
  dsimp only
  have hexec : exec c s = .next (s.withItem it o (State.landing o)) ∧ matrixOp o = false := by
    simp only [List.mem_cons, Prod.mk.injEq, List.not_mem_nil, or_false] at hmem
    rcases hmem with ⟨rfl, rfl⟩ | ⟨rfl, rfl⟩ | ⟨rfl, rfl⟩ | ⟨rfl, rfl⟩ | ⟨rfl, rfl⟩ | ⟨rfl, rfl⟩ | ⟨rfl, rfl⟩ | ⟨rfl, rfl⟩ <;> exact ⟨rfl, rfl⟩
  obtain ⟨u, hrun, hprog, -⟩ := hruns.landing hexec.2 hfree happart (J := fun _ _ => True) trivial (fun _ _ _ _ => trivial)
    (fun _ _ _ _ _ _ _ => trivial)
  obtain ⟨x, hitem, hphase, hbytes, -, hworked, hnames⟩ := hprog.ended
  rw [hruns.id, ← hrun] at hitem hworked hnames
  refine ⟨State.landing o t s, x.bytes - t.bytes, hexec.1.trans (congrArg _ (hruns.withItem_mod hworked.mod)), ⟨x, hitem, hphase, by omega⟩,
    hworked.sameRegisters, hworked.knots, hworked.windows, hnames, fun hplain y hout hcharge => ?_⟩
  exact hworked.bytes y (not_written hplain hout) fun hlive => hcharge hlive.chargeByte

end Sys2Proof.Machine
end

section
/-!
What a row of an FP32 window holds once it is written: the codes of its elements, 4 bytes each, one after another (R51). The landing commands write
such a row (R100, R178–R183).
-/
namespace Sys2Proof.Machine

theorem Memory.writeBytes_append (m : Memory) (a : Nat) (xs ys : List Byte) :
    m.writeBytes a (xs ++ ys) = (m.writeBytes a xs).writeBytes (a + xs.length) ys := by
  induction xs generalizing m a with
  | nil => rfl
  | cons x xs ih =>
    rw [List.cons_append, Memory.writeBytes, ih, Memory.writeBytes, List.length_cons]
    congr 1
    omega

/-- The bytes of some codes in a row. -/
def codeBytes (cs : List Coded) : List Byte := cs.flatMap fun c => leBytes 4 c.code

theorem codeBytes_cons (c : Coded) (cs : List Coded) : codeBytes (c :: cs) = leBytes 4 c.code ++ codeBytes cs := rfl

theorem codeBytes_length (cs : List Coded) : (codeBytes cs).length = 4 * cs.length := by
  induction cs with
  | nil => rfl
  | cons c cs ih =>
    rw [codeBytes_cons, List.length_append, leBytes_length, List.length_cons]
    omega

theorem codeBytes_getD (cs : List Coded) {j i : Nat} {c : Coded} (hc : cs[j]? = some c) (hi : i < 4) :
    (codeBytes cs).getD (4 * j + i) 0 = (leBytes 4 c.code).getD i 0 := by
  have hlen := leBytes_length 4
  induction cs generalizing j with
  | nil => exact nomatch hc
  | cons d cs ih =>
    rw [codeBytes_cons]
    cases j with
    | zero =>
      obtain rfl := Option.some.inj hc
      rw [Nat.mul_zero, Nat.zero_add, List.getD_append _ _ _ _ (by rw [hlen]; exact hi)]
    | succ j =>
      rw [List.getD_append_right _ _ _ _ (by rw [hlen]; omega), hlen, show 4 * (j + 1) + i - 4 = 4 * j + i by omega]
      exact ih (by simpa using hc)

/-- An element of a row of codes reads as its own code. -/
theorem Memory.readBytes_codes (m : Memory) (a : Nat) {cs : List Coded} {j : Nat} {c : Coded} (hc : cs[j]? = some c) :
    (m.writeBytes a (codeBytes cs)).readBytes (a + 4 * j) 4 = leBytes 4 c.code := by
  have hj : j < cs.length := (List.getElem?_eq_some_iff.mp hc).1
  apply List.ext_getElem
  · rw [Memory.readBytes_length, leBytes_length]
  · intro i hi hi'
    have hi4 : i < 4 := by rwa [Memory.readBytes_length] at hi
    have hget : ((m.writeBytes a (codeBytes cs)).readBytes (a + 4 * j) 4)[i] = (m.writeBytes a (codeBytes cs)).read (a + 4 * j + i) := by
      simp [Memory.readBytes]
    refine Eq.trans hget ?_
    rw [Memory.read_writeBytes, if_pos (by rw [codeBytes_length]; omega),
      show a + 4 * j + i - a = 4 * j + i by omega, codeBytes_getD cs hc hi4, List.getD_eq_getElem _ _ hi']

section
variable {ac : Access} {w : Block512} {sp r c0 n : Nat} (hkeys : ac.keys = none) (hformat : winFormat w = 0x0A)
  (hin : spanWithin sp (elemSpan 0x0A (rowAddr w r) c0 n)) (h5 : sp ≠ 5) (h2 : sp ≠ 2)

theorem elemSpan_word (ra c0 n : Nat) : elemSpan 0x0A ra c0 n = (ra + 4 * c0, 4 * n) := by
  unfold elemSpan formatBits
  simp only [show ¬(0x0A : Nat) = 1 by decide, show ¬(0x0A : Nat) = 2 by decide, show ¬(0x0A : Nat) = 3 by decide, show ¬(0x0A : Nat) = 8 by decide,
    show ¬(0x0A : Nat) = 9 by decide, or_self, if_false, if_true, Prod.mk.injEq]
  omega

include hkeys hin h5 h2 in
theorem State.putCode_word (s : State) {i : Nat} (hlo : c0 ≤ i) (hhi : i < c0 + n) (code : Nat) :
    s.putCode ac 0x0A (rowAddr w r) i code =
      ({ s with mem := s.mem.writeBytes (hostKey ac.function (rowAddr w r + 4 * c0) + 4 * (i - c0)) (leBytes 4 code) } : State).unpoison
        (hostKey ac.function (rowAddr w r + 4 * c0) + 4 * (i - c0)) 4 := by
  rw [elemSpan_word] at hin
  have hplace := hin.hostKey (i := 4 * (i - c0)) (by omega) ac.function
  have hspace := hin (4 * (i - c0)) (by omega)
  dsimp only at hplace hspace
  rw [show rowAddr w r + 4 * c0 + 4 * (i - c0) = rowAddr w r + 4 * i by omega] at hplace hspace
  have hstore := State.store_of_plain (s := s) hkeys (hspace.trans_ne h5) (hspace.trans_ne h2) (leBytes 4 code)
  rw [leBytes_length, hplace] at hstore
  unfold State.putCode
  dsimp only
  rw [show formatBits 0x0A = 32 from rfl, if_pos (by omega), show (i * 32 % 8 + 32 + 7) / 8 = 4 by omega, show i * 32 / 8 = 4 * i by omega]
  exact hstore

include hkeys hformat hin h5 h2

/-- A row of codes in a plain FP32 window is written as its bytes in order. -/
theorem State.putCodes_word (s : State) {cs : List Coded} (hlen : cs.length ≤ n) :
    (s.putCodes ac w r c0 cs).mem = s.mem.writeBytes (hostKey ac.function (rowAddr w r + 4 * c0)) (codeBytes cs) := by
  unfold State.putCodes
  rw [hformat]
  suffices hall : ∀ (l : List Coded) (k : Nat) (u : State), k + l.length ≤ n →
      ((l.zipIdx (c0 + k)).foldl (fun s p => s.putCode ac 0x0A (rowAddr w r) p.2 p.1.code) u).mem =
        u.mem.writeBytes (hostKey ac.function (rowAddr w r + 4 * c0) + 4 * k) (codeBytes l) from hall cs 0 s (by omega)
  intro l
  induction l with
  | nil => exact fun _ _ _ => rfl
  | cons c l ih =>
    intro k u hk
    rw [List.length_cons] at hk
    rw [List.zipIdx_cons, List.foldl_cons, Nat.add_assoc, ih (k + 1) _ (by omega),
      State.putCode_word hkeys hin h5 h2 u (i := c0 + k) (by omega) (by omega), codeBytes_cons, Memory.writeBytes_append, leBytes_length,
      show c0 + k - c0 = k by omega, Nat.mul_succ, ← Nat.add_assoc]
    rfl

/-- A row written into a plain FP32 window with no scale of its own holds the codes of its values. -/
theorem State.putRow_word (s : State) (hlayout : winLayout w = 0) (cv : Conv) (ts : W32) {xs : List W32} (hlen : xs.length ≤ n) :
    (s.putRow ac w cv ts r c0 xs).1.mem = s.mem.writeBytes (hostKey ac.function (rowAddr w r + 4 * c0))
      (codeBytes ((xs.zipIdx c0).map fun p => convertPlain 0x0A cv (p.2 + winDim w 0 * r) p.1 one32)) := by
  unfold State.putRow
  rw [hformat, if_neg (by decide), hlayout, if_neg (by decide)]
  exact State.putCodes_word hkeys hformat hin h5 h2 s (by rw [List.length_map, List.length_zipIdx]; exact hlen)

end

theorem zipIdx_map_getElem? {α : Type} (xs : List W32) (c0 : Nat) (f : W32 × Nat → α) {j : Nat} (hj : j < xs.length) (d : W32) :
    ((xs.zipIdx c0).map f)[j]? = some (f (xs.getD j d, c0 + j)) := by
  rw [List.getElem?_map, List.getElem?_zipIdx, List.getElem?_eq_getElem hj, List.getD_eq_getElem _ _ hj]
  rfl

/-! ### The single row of a landing command -/

theorem landingRows_one {t : Item} (h : winRows (t.winD 16) = 1) : landingRows t 0 = [0] := by
  unfold landingRows
  rw [h]
  rfl

/-- A command that writes no pair and has one row writes that row. -/
theorem State.landed_one {s : State} {t : Item} {o : Opcode} (hrows : winRows (t.winD 16) = 1) (hgamma : o ≠ .normBwd)
    (hpair : (s.landingRow t o 0).2 = none) : (State.landed s t o 0 s).1 =
      (s.writeRow t 24 (convControl t.desc 31) (landingDest t 0) 0 (s.landingRow t o 0).1).1 := by
  unfold State.landed
  rw [landingRows_one hrows]
  dsimp only
  rw [if_neg hgamma]
  unfold tallied State.landRow
  rw [List.foldl_cons, List.foldl_nil]
  dsimp only
  rw [hpair]

/-- The bytes of the one row of a landing command that writes a plain FP32 window. -/
def State.landingBytes (s s' : State) (t : Item) (o : Opcode) : Prop :=
  ∀ j, j < (s.landingRow t o 0).1.length →
    s'.mem.readBytes (hostKey (s.itemFunction t.id) (rowAddr (t.winD 24) (landingDest t 0)) + 4 * j) 4 =
      leBytes 4 (convertPlain 0x0A (convControl t.desc 31) (j + winDim (t.winD 24) 0 * landingDest t 0) ((s.landingRow t o 0).1.getD j 0) one32).code

theorem State.unitEnd_mem (s : State) (t : Item) (l k : Nat) (tl : Tally) : (s.unitEnd t l k tl).mem = s.mem := by
  have hcounted := (s.countTally_woven t.hall l tl).mem
  unfold State.unitEnd
  generalize s.countTally t.hall l tl = v at *
  exact hcounted

theorem State.landUnit_bytes {s s' : State} {t : Item} {o : Opcode} (hrows : winRows (t.winD 16) = 1) (hgamma : o ≠ .normBwd)
    (hpair : (s.landingRow t o 0).2 = none) (hformat : winFormat (t.winD 24) = 0x0A) (hlayout : winLayout (t.winD 24) = 0)
    (h2 : addrSpace (winBase (t.winD 24)) ≠ 2) (hkeys : (s.access (s.itemFunction t.id) (t.winD 24)).keys = none)
    (hwithin : resultsWithin (t.landingWrites o 0)) (htook : Took (State.landUnit s t o 0 s) s') : s.landingBytes s' t o := by
  obtain ⟨hspans, h5, -⟩ := hwithin _ (List.mem_cons_self ..)
  have hin : spanWithin (addrSpace (winBase (t.winD 24))) (elemSpan 0x0A (rowAddr (t.winD 24) (landingDest t 0)) 0 (landingWidth t o)) := by
    have hrow := hspans (elemSpan (winFormat (t.winD 24)) (rowAddr (t.winD 24) (landingDest t 0)) 0 (landingWidth t o))
      (List.mem_flatMap.mpr ⟨landingDest t 0, by rw [landingRows_one hrows]; exact List.mem_singleton_self _, List.mem_cons_self ..⟩)
    rw [hformat] at hrow
    exact hrow
  intro j hj
  have hmem : s'.mem = (State.landed s t o 0 s).1.mem := by
    rw [(Woven.of_took htook).mem, State.landUnit_eq]
    exact State.unitEnd_mem _ _ _ _ _
  rw [hmem, State.landed_one hrows hgamma hpair]
  unfold State.writeRow
  dsimp only
  rw [State.putRow_word hkeys hformat hin h5 h2 s hlayout _ _ (State.landingRow_length_le s t o 0), Nat.mul_zero, Nat.add_zero, State.access_function]
  refine (Memory.readBytes_codes _ _ (zipIdx_map_getElem? _ 0 _ hj 0)).trans ?_
  rw [Nat.zero_add]

/-- Settles O28. -/
theorem landingCommandsWriteTheirRow : Obligations.LandingCommandsWriteTheirRow := by
  unfold Obligations.LandingCommandsWriteTheirRow
  intro s it t o c hmem hruns hmode hfree happart
  dsimp only
  intro hunits hdone hrows hformat hlayout h2 hkeys
  obtain rfl := hruns.id
  have hexec : exec c s = .next (s.withItem t.id o (State.landing o)) ∧ matrixOp o = false ∧ o ≠ .normBwd := by
    simp only [List.mem_cons, Prod.mk.injEq, List.not_mem_nil, or_false] at hmem
    rcases hmem with ⟨rfl, rfl⟩ | ⟨rfl, rfl⟩ | ⟨rfl, rfl⟩ | ⟨rfl, rfl⟩ | ⟨rfl, rfl⟩ | ⟨rfl, rfl⟩ | ⟨rfl, rfl⟩ <;>
      exact ⟨rfl, rfl, by decide⟩
  have hpair : (s.landingRow t o 0).2 = none := by
    cases hp : (s.landingRow t o 0).2 with
    | none => rfl
    | some p => exact absurd (State.landingRow_pair hp).2 (hmode (State.landingRow_pair hp).1)
  have hleft : ∀ {k}, k ∈ t.unitsLeft ↔ k = 0 := fun {k} => by
    rw [Item.mem_unitsLeft, hunits, hdone]
    simp
  have hwithin : resultsWithin (t.landingWrites o 0) := fun r hr => hfree.within r (Item.landingWrites_left (hleft.mpr rfl) hr)
  obtain ⟨u, hrun, hprog, -, hbytes⟩ := hruns.landing hexec.2.1 hfree happart (J := fun k u => (k = 0 → u = s) ∧ (k = 1 → s.landingBytes u t o))
    ⟨fun _ => rfl, fun h => absurd h (by decide)⟩ (fun k u hk _ => ⟨fun h => absurd h (Nat.succ_ne_zero k), fun h => absurd (hleft.mpr (Nat.succ.inj h)) hk⟩)
    (fun k u hk _ hJ u' htook => ⟨fun h => absurd h (Nat.succ_ne_zero k), fun _ => by
      obtain rfl := hleft.mp hk
      obtain rfl := hJ.1 rfl
      refine State.landUnit_bytes hrows hexec.2.2 hpair hformat hlayout h2 hkeys hwithin ?_
      unfold State.landingWork at htook
      dsimp only at htook
      rw [ite_self] at htook
      exact htook⟩)
  obtain ⟨-, -, -, -, -, hworked, -⟩ := hprog.ended
  rw [← hrun] at hworked
  refine ⟨State.landing o t s, hexec.1.trans (congrArg _ (hruns.withItem_mod hworked.mod)), fun j hj => ?_⟩
  rw [hrun]
  exact hbytes hunits j hj

end Sys2Proof.Machine
end

section
/-!
The adapter commands run their units (R117, R123, R124): each reads its slices through the bobbin cache, fetches its operands, and writes its rows or
its block of a gradient, leaving the later units what they wait for.
-/
namespace Sys2Proof.Machine

/-! ### One unit -/

/-- The slices in the caches of the bobbin units are those that were there. -/
def SlicesSame (s s' : State) : Prop := ∀ h l sl, (s'.bobbin h l).has sl = (s.bobbin h l).has sl

theorem SlicesSame.of_bobbins {s s' : State} (h : s'.bobbins = s.bobbins) : SlicesSame s s' := fun a b sl => by
  unfold State.bobbin
  rw [h]

theorem SlicesSame.trans {s s' s'' : State} (h : SlicesSame s s') (k : SlicesSame s' s'') : SlicesSame s s'' :=
  fun a b sl => (k a b sl).trans (h a b sl)

theorem Bobbin.use_has (b : Bobbin) (x sl : SliceId) : (b.use x).has sl = b.has sl := by
  unfold Bobbin.has Bobbin.use
  dsimp only
  rw [List.any_map]
  refine List.any_congr rfl fun y => ?_
  rw [Function.comp_apply]
  split <;> rfl

theorem State.readSlices_same (s : State) (t : Item) (l : Nat) (sls : List SliceId) : SlicesSame s (s.readSlices t l sls) := by
  unfold State.readSlices
  induction sls generalizing s with
  | nil => exact fun _ _ _ => rfl
  | cons x sls ih =>
    refine SlicesSame.trans (fun a b sl => ?_) (ih _)
    rw [State.modBobbin_bobbin]
    split
    next hkey =>
      rw [Bobbin.use_has]
      unfold State.bobbin
      rw [hkey]
    next => rfl

/-- What reading slices changes. -/
def Used (s s' : State) : Prop := s' = { s with bobbins := s'.bobbins }

theorem State.readSlices_used (s : State) (t : Item) (l : Nat) (sls : List SliceId) : Used s (s.readSlices t l sls) := by
  unfold State.readSlices
  induction sls generalizing s with
  | nil => rfl
  | cons x sls ih =>
    have hstep := ih (s.modBobbin t.hall l fun b => b.use x)
    unfold Used at hstep ⊢
    rw [List.foldl_cons, hstep]
    rfl

theorem Used.worked {Q : Nat → Prop} {s s' : State} (h : Used s s') : Worked Q s s' := by
  unfold Used at h
  refine ⟨?_, fun hclean => ?_, fun _ _ _ => ?_⟩
  · rw [h]
  · rw [h]
    exact hclean
  · rw [h]

/-- What fetching changes. -/
def Fetched (s s' : State) : Prop := s' = { s with looms := s'.looms }

theorem State.fetchLeft_fetched (s : State) (t : Item) (o : Opcode) (u : Nat) : Fetched s (s.fetchLeft t o u) := by
  unfold State.fetchLeft
  generalize s.partsLeft t o u = ps
  suffices hall : ∀ v, Fetched s v → Fetched s (ps.foldl (fun st x => st.addSlot t.hall (st.unitLoom t u) ⟨t.id, u, x.1, 0, 0,
      s.heldBytes (s.itemFunction t.id) x.2⟩) v) from hall s rfl
  induction ps with
  | nil => exact fun v hv => hv
  | cons p ps ih =>
    refine fun v hv => ih _ ?_
    unfold Fetched at hv ⊢
    rw [hv]
    rfl

theorem State.addSlot_slot {s : State} {i : ItemId} (hitem : (s.item i).isSome = true) (h l : Nat) {x : Slot} {v : Nat} (hv : x.unit ≠ v) (a b part : Nat) :
    ((s.addSlot h l x).loom a b).slot i v part = (s.loom a b).slot i v part := by
  unfold State.addSlot
  rw [State.modLoom_loom]
  split
  next hkey =>
    rw [show s.loom a b = s.loom h l from by unfold State.loom; rw [hkey]]
    unfold Loom.slot
    dsimp only
    rw [List.find?_append, List.find?_filter]
    have hnew : [x].find? (fun y => y.item == i && y.unit == v && y.part == part) = none := by
      rw [List.find?_cons, beq_eq_false_iff_ne.mpr hv, Bool.and_false, Bool.false_and]
      rfl
    rw [hnew, Option.or_none]
    refine congrArg (fun p => List.find? p _) (funext fun y => ?_)
    by_cases hy : y.item = i
    · rw [hy, hitem, Bool.eq_iff_iff]
      simp
    · rw [beq_eq_false_iff_ne.mpr hy]
      simp
  next => rfl

theorem State.fetchLeft_slot {s : State} {t : Item} (hitem : (s.item t.id).isSome = true) (o : Opcode) {u v : Nat} (hv : v ≠ u) (a b part : Nat) :
    ((s.fetchLeft t o u).loom a b).slot t.id v part = (s.loom a b).slot t.id v part := by
  unfold State.fetchLeft
  generalize s.partsLeft t o u = ps
  suffices hall : ∀ w : State, (w.item t.id).isSome = true → ((ps.foldl (fun (st : State) x => st.addSlot t.hall (st.unitLoom t u) ⟨t.id, u, x.1, 0, 0,
      s.heldBytes (s.itemFunction t.id) x.2⟩) w).loom a b).slot t.id v part = (w.loom a b).slot t.id v part from hall s hitem
  induction ps with
  | nil => exact fun _ _ => rfl
  | cons p ps ih =>
    intro w hw
    rw [List.foldl_cons, ih (w.addSlot t.hall (w.unitLoom t u) ⟨t.id, u, p.1, 0, 0, s.heldBytes (s.itemFunction t.id) p.2⟩) hw]
    exact State.addSlot_slot hw _ _ (x := ⟨t.id, u, p.1, 0, 0, _⟩) (fun h => hv h.symm) a b part

/-- The first position of a gradient's block is a multiple of 64 (R124). -/
theorem bobbinUnits_aligned {o : Opcode} {d : Block512} {runs : List (Nat × Nat)} {n k c pos : Nat} {onB : Bool}
    (h : BobbinUnit.grad onB c pos ∈ bobbinUnits o d runs n k) : pos % 64 = 0 := by
  have htiles : BobbinUnit.grad onB c pos ∉
      (cutRuns 0 runs).filterMap fun t => if t.1 = operatorOwner then none else some (BobbinUnit.rows t.1 t.2.1 t.2.2) := by
    intro hin
    obtain ⟨x, -, hx⟩ := List.mem_filterMap.mp hin
    split at hx
    · exact nomatch hx
    · exact nomatch Option.some.inj hx
  have hgrads : ∀ {b len}, (BobbinUnit.grad onB c pos ∈ (contextTags runs).flatMap fun c =>
      (List.range ((len + 63) / 64)).map fun j => BobbinUnit.grad b c (64 * j)) → pos % 64 = 0 := by
    intro b len hin
    obtain ⟨d, -, hd⟩ := List.mem_flatMap.mp hin
    obtain ⟨j, -, hj⟩ := List.mem_map.mp hd
    injection hj with _ _ hpos
    omega
  unfold bobbinUnits at h
  dsimp only at h
  split at h
  · exact absurd h htiles
  · obtain hfront | hga := List.mem_append.mp h
    · obtain hdu | hgb := List.mem_append.mp hfront
      · split at hdu
        · exact absurd hdu htiles
        · exact nomatch hdu
      · split at hgb
        · exact hgrads hgb
        · exact nomatch hgb
    · split at hga
      · exact hgrads hga
      · exact nomatch hga

/-- What an adapter unit writes, with its tally; a unit that the command does not have writes nothing. -/
def State.adapted (s : State) (t : Item) (o : Opcode) (u : Nat) : BobbinUnit → State × Tally
  | .rows c r0 n => tallied (fun s i => s.putAdapt t o u c (r0 + i)) s (List.range n)
  | .grad onB c pos => s.putGrad t u onB c pos

/-- The rows that a unit serves, with their context. -/
def Item.served (t : Item) : BobbinUnit → Nat × Nat
  | .rows c _ n => (c, n)
  | .grad _ c _ => (c, (tagRows t.runs c).length)

theorem State.bobbinUnit_eq {s : State} {t : Item} {o : Opcode} {u : Nat} {b : BobbinUnit} (hb : (t.bobbinUnits o)[u]? = some b) :
    s.bobbinUnit t o u = ((s.adapted t o u b).1.serveRows (t.served b).1 (t.served b).2).unitEnd t (s.unitLoom t u) u (s.adapted t o u b).2 := by
  unfold State.bobbinUnit
  rw [hb]
  cases b with
  | rows c r0 n => rfl
  | grad onB c pos => rfl

theorem State.serveRows_fields (s : State) (c n : Nat) : (s.serveRows c n).items = s.items ∧ (s.serveRows c n).full = s.full ∧
    (s.serveRows c n).streams = s.streams ∧ (s.serveRows c n).looms = s.looms ∧ (s.serveRows c n).bobbins = s.bobbins := by
  unfold State.serveRows
  split
  · exact ⟨rfl, rfl, rfl, rfl, rfl⟩
  · exact ⟨rfl, rfl, rfl, rfl, rfl⟩

theorem Stored.fields {s s' : State} (h : Stored s s') : s'.items = s.items ∧ s'.full = s.full ∧ s'.streams = s.streams ∧ s'.looms = s.looms ∧
    s'.bobbins = s.bobbins := by
  unfold Stored at h
  rw [h]
  exact ⟨rfl, rfl, rfl, rfl, rfl⟩

section
variable {s₀ : State} {t : Item} {o : Opcode} (hwithin : resultsWithin (t.unitResults o))
  (hrecords : s₀.recordsApart (written s₀ (s₀.itemFunction t.id) (t.unitResults o)))
include hwithin hrecords

theorem Worked.adapted_placed {s : State} (h : Worked (written s₀ (s₀.itemFunction t.id) (t.unitResults o)) s₀ s) {u : Nat} (hu : u ∈ t.unitsLeft)
    {b : BobbinUnit} (hb : (t.bobbinUnits o)[u]? = some b) :
    Placed (written s₀ (s₀.itemFunction t.id) (t.unitResults o)) s (s.adapted t o u b).1 := by
  have hmem : t.unitResult b ∈ t.unitResults o := by
    unfold Item.unitResults
    refine List.mem_flatMap.mpr ⟨u, hu, ?_⟩
    rw [hb]
    exact List.mem_singleton_self _
  cases b with
  | rows c r0 n =>
    refine h.tallied_placed fun v hv i hi => ?_
    unfold State.putAdapt
    dsimp only
    refine hv.writeRow_placed hwithin hrecords (t := t) rfl hmem rfl (List.mem_map_of_mem hi) (fun _ => rfl) ?_ _
    have hlen : (v.adaptRow t o u c (r0 + i)).length = t.rank c := by
      unfold State.adaptRow
      rw [List.length_map, List.length_range]
    split
    · rw [List.length_zipWith, hlen]
      exact Nat.min_le_right ..
    · exact Nat.le_of_eq hlen
  | grad onB c pos =>
    have haligned := bobbinUnits_aligned (List.mem_of_getElem? hb)
    unfold State.adapted State.putGrad
    dsimp only
    refine h.tallied_placed fun v hv j hj => ?_
    have hwin : (t.winD (gradOperands onB).1) = if onB then t.winD 16 else t.winD 20 := by
      unfold gradOperands
      split
      · rfl
      · rfl
    rw [h.access hrecords, ← hv.access hrecords, h.itemFunction]
    refine hv.putRow_placed hwithin hrecords hmem (List.mem_map_of_mem hj) (fun _ => haligned) ?_ _ _
    rw [List.length_map, List.length_range, hwin]
    exact Nat.le_refl _

/-- A unit of an adapter command has run. -/
theorem Worked.bobbinUnit_ran {s : State} (h : Worked (written s₀ (s₀.itemFunction t.id) (t.unitResults o)) s₀ s) {u : Nat} (hu : u ∈ t.unitsLeft)
    {b : BobbinUnit} (hb : (t.bobbinUnits o)[u]? = some b) (needs : Nat → List Read) :
    UnitRan t needs (written s₀ (s₀.itemFunction t.id) (t.unitResults o)) u s (s.bobbinUnit t o u) := by
  have hplaced := h.adapted_placed hwithin hrecords hu hb
  obtain ⟨hitems, hfull, hstreams, -⟩ := (s.adapted t o u b).1.serveRows_fields (t.served b).1 (t.served b).2
  obtain ⟨hitems', hfull', hstreams', -⟩ := hplaced.stored.fields
  rw [State.bobbinUnit_eq hb]
  exact (hplaced.worked.trans (State.serveRows_worked _ _ _)).unitEnd (hitems.trans hitems') (hfull.trans hfull') (hstreams.trans hstreams') t needs _ u _

end

/-! ### A whole command -/

/-- A unit that begins with work which leaves the items and the tokens alone. -/
theorem UnitRan.after {t : Item} {needs : Nat → List Read} {Q : Nat → Prop} {k : Nat} {s v s' : State} (h : UnitRan t needs Q k v s')
    (hworked : Worked Q s v) (hitems : v.items = s.items) (hfull : v.full = s.full) (hstreams : v.streams = s.streams) : UnitRan t needs Q k s s' where
  worked := hworked.trans h.worked
  item x hx := h.item x (by unfold State.item at hx ⊢; rw [hitems]; exact hx)
  names := h.names.trans (by rw [hitems])
  kept u hu hleft r hr g hg hin := h.kept u hu hleft r hr g hg (by rw [hfull]; exact hin)
  bare g hg := by
    rw [← hfull]
    exact h.bare g hg
  streams := h.streams.trans hstreams

/-- A unit's operands before its work: its slices read and what is left fetched. -/
def State.adaptReady (s : State) (t : Item) (o : Opcode) (u : Nat) : State := (s.readSlices t (s.unitLoom t u) (t.unitNeeds o u)).fetchLeft t o u

theorem State.adaptReady_rest (s : State) (t : Item) (o : Opcode) (u : Nat) : s.adaptReady t o u =
    { s with bobbins := (s.adaptReady t o u).bobbins, looms := (s.adaptReady t o u).looms } := by
  have hfetched := (s.readSlices t (s.unitLoom t u) (t.unitNeeds o u)).fetchLeft_fetched t o u
  have hused := s.readSlices_used t (s.unitLoom t u) (t.unitNeeds o u)
  unfold State.adaptReady
  generalize s.readSlices t (s.unitLoom t u) (t.unitNeeds o u) = v at *
  unfold Fetched at hfetched
  unfold Used at hused
  rw [hfetched, hused]

theorem State.adaptReady_worked {Q : Nat → Prop} (s : State) (t : Item) (o : Opcode) (u : Nat) : Worked Q s (s.adaptReady t o u) := by
  have hrest := s.adaptReady_rest t o u
  refine ⟨?_, fun hclean => ?_, fun x _ _ => ?_⟩
  · rw [hrest]
  · rw [hrest]
    exact hclean
  · rw [hrest]

/-- The slices stay, and the slots of the units from `k` on. -/
structure AdaptKept (s₀ : State) (t : Item) (k : Nat) (s : State) : Prop where
  slots : slotsFrom s₀ t k s
  slices : SlicesSame s₀ s

theorem State.unitEnd_bobbins (s : State) (t : Item) (l k : Nat) (tl : Tally) : (s.unitEnd t l k tl).bobbins = s.bobbins := by
  have hcounted : (s.countTally t.hall l tl).bobbins = s.bobbins := by rw [s.countTally_woven t.hall l tl]
  unfold State.unitEnd
  generalize s.countTally t.hall l tl = v at *
  exact hcounted

section
variable {s₀ : State} {t : Item} {o : Opcode} (hwithin : resultsWithin (t.unitResults o))
  (hrecords : s₀.recordsApart (written s₀ (s₀.itemFunction t.id) (t.unitResults o)))
include hwithin hrecords

theorem Worked.adapt_kept {s s' : State} (h : Worked (written s₀ (s₀.itemFunction t.id) (t.unitResults o)) s₀ s) {k : Nat} (hk : k ∈ t.unitsLeft)
    {b : BobbinUnit} (hb : (t.bobbinUnits o)[k]? = some b) (hitem : (s.item t.id).isSome = true) (hkept : AdaptKept s₀ t k s)
    (htook : Took ((s.adaptReady t o k).bobbinUnit t o k) s') : AdaptKept s₀ t (k + 1) s' := by
  have hplaced := (h.trans (s.adaptReady_worked t o k)).adapted_placed hwithin hrecords hk hb
  obtain ⟨-, -, -, hlooms, hbobbins⟩ := ((s.adaptReady t o k).adapted t o k b).1.serveRows_fields (t.served b).1 (t.served b).2
  obtain ⟨-, -, -, hlooms', hbobbins'⟩ := hplaced.stored.fields
  have hused := s.readSlices_used t (s.unitLoom t k) (t.unitNeeds o k)
  unfold Used at hused
  refine ⟨fun a c v part hv => ?_, (hkept.slices.trans (s.readSlices_same t (s.unitLoom t k) (t.unitNeeds o k))).trans (SlicesSame.of_bobbins ?_)⟩
  · have hread : ((s.readSlices t (s.unitLoom t k) (t.unitNeeds o k)).item t.id).isSome = true := by
      rw [hused]
      exact hitem
    have hfetched := State.fetchLeft_slot hread o (u := k) (v := v) (by omega) a c part
    rw [htook.loom, State.bobbinUnit_eq hb, State.unitEnd_slot _ _ _ _ _ _ _ (by omega), ← hkept.slots a c v part (by omega)]
    have hsame : (((s.adaptReady t o k).adapted t o k b).1.serveRows (t.served b).1 (t.served b).2).loom a c = (s.adaptReady t o k).loom a c := by
      unfold State.loom
      rw [hlooms, hlooms']
    rw [hsame]
    refine hfetched.trans ?_
    rw [hused]
    rfl
  · have htail : s'.bobbins = ((s.adaptReady t o k).bobbinUnit t o k).bobbins := by
      unfold Took at htook
      rw [htook]
    rw [htail, State.bobbinUnit_eq hb, State.unitEnd_bobbins, hbobbins, hbobbins']
    unfold State.adaptReady
    have hfetched := (s.readSlices t (s.unitLoom t k) (t.unitNeeds o k)).fetchLeft_fetched t o k
    unfold Fetched at hfetched
    rw [hfetched]

end

/-- An adapter unit finds what it waits for still. -/
theorem Progress.adaptReady {s₀ s : State} {t : Item} {o : Opcode} {Q : Nat → Prop} {k : Nat}
    (h : Progress s₀ t (s₀.bobbinWork t o) (s₀.bobbinWork t o).takes Q k s) (hkept : AdaptKept s₀ t k s) (hk : k ∈ t.unitsLeft)
    (hready : (s₀.bobbinWork t o).ready s₀ k = true) : (s₀.bobbinWork t o).ready s k = true := by
  change (s.unitReady t o k (s₀.unitTokens t o k) && s.slicesHere t (s.unitLoom t k) (t.unitNeeds o k)) = true
  change (s₀.unitReady t o k (s₀.unitTokens t o k) && s₀.slicesHere t (s₀.unitLoom t k) (t.unitNeeds o k)) = true at hready
  have hslices : s.slicesHere t (s.unitLoom t k) (t.unitNeeds o k) = s₀.slicesHere t (s₀.unitLoom t k) (t.unitNeeds o k) := by
    unfold State.slicesHere
    rw [h.worked.unitLoom, show (s.bobbin t.hall (s₀.unitLoom t k)).has = (s₀.bobbin t.hall (s₀.unitLoom t k)).has from
      funext fun sl => hkept.slices _ _ sl]
  rw [hslices]
  rw [Bool.and_eq_true] at hready ⊢
  refine ⟨?_, hready.2⟩
  have htokens := hready.1
  unfold State.unitReady at htokens ⊢
  rw [Bool.and_eq_true, List.all_eq_true, List.all_eq_true] at htokens ⊢
  exact ⟨fun r hr => h.worked.readReady (htokens.1 r hr) (h.full k (Nat.le_refl k) hk r hr) (h.streams k (Nat.le_refl k) hk r hr),
    fun r hr => h.worked.writeReady (htokens.2 r hr) (h.bare k (Nat.le_refl k) hk r hr)⟩

/-- An adapter command whose units are free runs them all, and ends. -/
theorem Runs.bobbinCommand {s : State} {it : ItemId} {t : Item} {o : Opcode} (hruns : Runs s it o t) (hop : matrixOp o = false)
    (hunits : t.unitCount = (t.bobbinUnits o).length) (hfree : UnitsFree s (s.bobbinWork t o) t (t.unitResults o)) :
    ∃ u, State.bobbinCommand o t s = u.finish it 0 ∧
      Progress s t (s.bobbinWork t o) (s.bobbinWork t o).takes (written s (s.itemFunction it) (t.unitResults o)) t.unitCount u := by
  obtain rfl := hruns.id
  obtain ⟨hfault, hready, hclean, hrecs, hwithin⟩ := hfree
  have hrecords : s.recordsApart (written s (s.itemFunction t.id) (t.unitResults o)) := State.recordsApart_written hwithin hrecs
  have hbegin : Progress s t (s.bobbinWork t o) (s.bobbinWork t o).takes (written s (s.itemFunction t.id) (t.unitResults o)) 0 s :=
    Progress.start (Worked.refl _ s) hruns.item rfl (Nat.le_refl _) rfl rfl rfl rfl
  have hfaults : ∀ k u, k ∈ t.unitsLeft → Worked (written s (s.itemFunction t.id) (t.unitResults o)) s u → slotsFrom s t k u →
      (s.bobbinWork t o).fault u k = none := fun k u hk hworked hslots => by
    have hsame := hfault k hk
    change u.bobbinFault t o k = none
    change s.bobbinFault t o k = none at hsame
    rw [← hsame]
    unfold State.bobbinFault
    rw [hworked.itemFunction, hworked.loadsLeft hslots hop]
    simp only [hworked.readFault hrecords hclean]
  have hunit : ∀ k, k ∈ t.unitsLeft → ∃ b, (t.bobbinUnits o)[k]? = some b := fun k hk => by
    have hlt := (Item.mem_unitsLeft.mp hk).1
    rw [hunits] at hlt
    exact ⟨_, List.getElem?_eq_getElem hlt⟩
  obtain ⟨u, hrun, hprog, -⟩ := State.runAll_progress (AdaptKept s t) hruns.live (fun v _ q hq => .inl hq)
    (fun k u _ hI => ⟨fun a b v part hv => hI.slots a b v part (Nat.le_of_succ_le hv), hI.slices⟩)
    (fun k u hk h hI => ⟨hfaults k u hk h.worked hI.slots, h.adaptReady hI hk (hready k hk)⟩)
    (fun k u hk h hI => by
      obtain ⟨b, hb⟩ := hunit k hk
      obtain ⟨x, hitem, -⟩ := h.item
      have hrest := u.adaptReady_rest t o k
      exact ⟨((h.worked.trans (u.adaptReady_worked t o k)).bobbinUnit_ran hwithin hrecords hk hb _).after (u.adaptReady_worked t o k)
        (by rw [hrest]) (by rw [hrest]) (by rw [hrest]),
        fun u' htook => h.worked.adapt_kept hwithin hrecords hk hb (by rw [hitem]; rfl) hI htook⟩)
    hbegin ⟨fun _ _ _ _ _ => rfl, fun _ _ _ => rfl⟩
  exact ⟨u, hrun, hprog⟩

/-- Settles O38. -/
theorem adapterCommandsComplete : Obligations.AdapterCommandsComplete := by
  unfold Obligations.AdapterCommandsComplete
  intro s it t o c hmem hruns hunits hfree
  have hexec : exec c s = .next (s.withItem it o (State.bobbinCommand o)) ∧ matrixOp o = false := by
    simp only [List.mem_cons, Prod.mk.injEq, List.not_mem_nil, or_false] at hmem
    rcases hmem with ⟨rfl, rfl⟩ | ⟨rfl, rfl⟩ <;> exact ⟨rfl, rfl⟩
  obtain ⟨u, hrun, hprog⟩ := hruns.bobbinCommand hexec.2 hunits hfree
  obtain ⟨x, hitem, hphase, hbytes, -, hworked, hnames⟩ := hprog.ended
  rw [hruns.id, ← hrun] at hitem hworked hnames
  refine ⟨State.bobbinCommand o t s, x.bytes - t.bytes, hexec.1.trans (congrArg _ (hruns.withItem_mod hworked.mod)), ⟨x, hitem, hphase, by omega⟩,
    hworked.sameRegisters, hworked.knots, hworked.windows, hnames, fun hplain y hout hcharge => ?_⟩
  exact hworked.bytes y (not_written hplain hout) fun hlive => hcharge hlive.chargeByte

end Sys2Proof.Machine
end

section
/-!
A tile whose column window runs over the end of the stacks into host memory. `TileApart` counts the bytes of that window from the place of its first
address, but a load takes the place of its own address, and that of function 1's host memory is another (R301): the first row of the tile is written
over the scale that the second row then reads.
-/
namespace Sys2Proof.Machine
open Sys2Proof.Tests

/-- A column scale whose second element is the first word of host memory. -/
def edgeColumn : Block512 := win (3 * 2 ^ 60 - 4) 0x0A 2 1 8

/-- A `MATMUL` of 2 rows and 2 columns with that column scale, into host memory. -/
def edging : Item :=
  item0 (block [(0, 0x20), (128, 1), (160, 2), (192, 3), (224, 0xFFFFFFFF), (320, 4), (352, 0xFFFFFFFF)])
    [(1, win (galleryAddr 0 0x1000000) 0x08 1 2 2), (2, win (galleryAddr 0 0x1001000) 0x08 1 2 2), (3, win (3 * 2 ^ 60) 0x0A 2 2 16), (4, edgeColumn)]

def edgeMat : Mat := matOf edging .matmul

/-- Its tile, finished, every landing value 2. -/
def edgeTile : TileRun := ⟨id0, 0, .forward, 1, false, true, false,
  [⟨2, 0, 1, 1, 0, [], [], [], [[0x40000000, 0x40000000], [0x40000000, 0x40000000]], none⟩], []⟩

/-- The command on a ring of function 1; the first scale is 1, and the second reads 0. -/
def edgeState : State :=
  { holding edging with
    rings := [(0, { ring0 with function := 1 })], mem := [(3 * 2 ^ 60 - 2, 0x80), (3 * 2 ^ 60 - 1, 0x3F)]
    looms := [(0, { Loom.reset with runs := [edgeTile] })] }

theorem edgeState_function : edgeState.itemFunction id0 = 1 := by decide +kernel

theorem edgeState_access : (edgeState.access (edgeState.itemFunction edgeMat.t.id) edgeMat.out).keys = none := by decide +kernel

theorem edgeMat_shaftRows {f k : Nat} (h : k < edgeMat.shaftRows 0 f) : f = 0 ∧ k < 2 := by
  have hrows : edgeMat.shaftRows 0 f = Nat.min 32 (2 - 0 - 32 * f) := rfl
  rw [hrows] at h
  have hlt : k < 2 - 0 - 32 * f := Nat.lt_of_lt_of_le h (Nat.min_le_right ..)
  omega

theorem edgeMat_rowAddr : edgeMat.tileRowAddr 0 0 0 = 3 * 2 ^ 60 ∧ edgeMat.tileRowAddr 0 0 1 = 3 * 2 ^ 60 + 16 ∧ edgeMat.cols 0 = 2 := by decide +kernel

theorem edgeMat_lateReads : edgeMat.lateReads 0 = [⟨4, edgeColumn, [0], 0, 2⟩] ∧ (⟨4, edgeColumn, [0], 0, 2⟩ : Read).all = [(3 * 2 ^ 60 - 4, 8)] :=
  ⟨by rfl, by decide +kernel⟩

/-- No count in a context's record stands at the edge. -/
theorem edgeState_charges {x : Nat} (hlo : 3 * 2 ^ 60 - 4 ≤ x) (hhi : x < 3 * 2 ^ 60 + 4) : ¬edgeState.chargeByte x := by
  rintro ⟨c, hfrom, hto⟩
  have haligned := edgeState.ctxAddr_aligned c
  omega

theorem edgeState_apart : TileApart edgeState edgeMat 0 := by
  obtain ⟨hfirst, hsecond, hcols⟩ := edgeMat_rowAddr
  obtain ⟨hreads, hall⟩ := edgeMat_lateReads
  have hfn : edgeState.itemFunction edgeMat.t.id = 1 := edgeState_function
  have hkeys : hostKey 1 (3 * 2 ^ 60) = 3 * 2 ^ 60 + 2 ^ 64 ∧ hostKey 1 (3 * 2 ^ 60 + 16) = 3 * 2 ^ 60 + 16 + 2 ^ 64 ∧
      hostKey 1 (3 * 2 ^ 60 - 4) = 3 * 2 ^ 60 - 4 := by decide +kernel
  obtain ⟨hkey0, hkey1, hkeyc⟩ := hkeys
  have hrow : ∀ {k}, k < 2 → hostKey 1 (edgeMat.tileRowAddr 0 0 k) = 3 * 2 ^ 60 + 2 ^ 64 + 16 * k := by
    intro k hk
    interval_cases k
    · rw [hfirst, hkey0, Nat.mul_zero, Nat.add_zero]
    · rw [hsecond, hkey1, Nat.mul_one, Nat.add_right_comm]
  refine ⟨fun f k g j hk hj hne => ?_, fun f k hk q hq p hp => ?_, fun q hq => ?_⟩
  · obtain ⟨rfl, hk⟩ := edgeMat_shaftRows hk
    obtain ⟨rfl, hj⟩ := edgeMat_shaftRows hj
    have hkj : k ≠ j := fun h => hne (by rw [h])
    rw [hfn, hrow hk, hrow hj, hcols]
    unfold apart
    omega
  · obtain ⟨rfl, hk⟩ := edgeMat_shaftRows hk
    rw [hreads, List.mem_singleton] at hq
    rw [hq, hall, List.mem_singleton] at hp
    rw [hp, hfn, hrow hk, hcols, hkeyc]
    unfold apart
    omega
  · rw [hreads, List.mem_singleton] at hq
    rw [hq, hall]
    refine ⟨by decide +kernel, fun p hp i hi => ?_⟩
    obtain rfl := List.mem_singleton.mp hp
    rw [hfn, hkeyc]
    refine ⟨?_, edgeState_charges (Nat.le_add_right ..) (by omega)⟩
    have hbound : i < 8 := hi
    interval_cases i <;> decide +kernel

theorem edgeMat_within : resultsWithin [edgeMat.tileWrite 0] := by
  unfold resultsWithin
  decide +kernel

theorem edgeTile_fits : edgeTile.fits edgeMat := by
  unfold TileRun.fits
  decide +kernel

/-- Whether a state holds the bytes that the second row and column of the tile should have. -/
def edgeBytes (s' : State) : Prop :=
  s'.mem.readBytes (hostKey (edgeState.itemFunction edgeMat.t.id) (edgeMat.tileRowAddr 0 0 1 + 4 * 1)) 4 =
    leBytes 4 (convertPlain 0x0A (convControl edgeMat.t.desc 35) (edgeMat.n0 0 + 1 + winDim edgeMat.out 0 * edgeMat.tileRow 0 0 1)
      (edgeState.tileValue edgeMat edgeTile 0 1 1 0x40000000) one32).code

theorem edgeBytes_of_tile {s' : State} (h : edgeState.tileBytesIn s' edgeMat edgeTile) : edgeBytes s' :=
  h (by decide +kernel) (by decide +kernel) (by decide +kernel) edgeState_access 0 1 1 _ _ 0x40000000 rfl rfl rfl

theorem edgeState_tile : edgeState.tileWith 0 0 (fun m r => r.finished && m.allTermed r) = some (edgeMat, edgeTile) := by decide +kernel

theorem edgeState_written : ¬edgeBytes (edgeState.tileEpilogue 0 0) := by
  unfold edgeBytes
  decide +kernel

/-- Refutes O37: the second row is scaled by what the first has written. -/
theorem not_epilogueAndTermsOfATile : ¬ Obligations.EpilogueAndTermsOfATile := by
  unfold Obligations.EpilogueAndTermsOfATile
  intro h
  obtain ⟨hepilogue, -⟩ := h edgeState 0 0 edgeMat edgeTile (by decide +kernel) (by decide +kernel)
  obtain ⟨s', x, hrun, -, -, -, -, -, -, hbytes⟩ := hepilogue edgeState_tile (by decide +kernel) (by decide +kernel) (by decide +kernel)
    edgeMat_within edgeTile_fits
  have hin := edgeBytes_of_tile (hbytes edgeState_apart)
  rw [← Host.Outcome.next.inj hrun] at hin
  exact edgeState_written hin

/-! ### The whole command -/

theorem edgeState_runs : Runs edgeState id0 .matmul edging := runs_of (by decide +kernel)

theorem edgeState_records {x : Nat} (hx : 3 * 2 ^ 60 ≤ x) : ¬edgeState.recordByte x := by
  rintro ⟨c, hc, -, hhi⟩
  have hbase := (edgeState.hall (c / 1536)).treadle.ctxBase.isLt
  unfold State.ctxAddr galleryAddr at hhi
  rw [Nat.shiftLeft_eq] at hhi
  omega

theorem edgeState_free : UnitsFree edgeState (edgeState.matWork edgeMat) edging (edging.unitsLeft.map edgeMat.tileWrite) := by
  have hleft : edging.unitsLeft.map edgeMat.tileWrite = [edgeMat.tileWrite 0] := rfl
  have hspans : ∀ p ∈ (edgeMat.tileWrite 0).all, 3 * 2 ^ 60 ≤ p.1 := by decide +kernel
  rw [hleft]
  refine ⟨by decide +kernel, by decide +kernel, rfl, fun r hr p hp i _ => ?_, edgeMat_within⟩
  obtain rfl := List.mem_singleton.mp hr
  exact edgeState_records (Nat.le_add_right_of_le (hspans p hp))

theorem edgeState_matmul : ¬edgeBytes (edgeState.withItem id0 .matmul (State.matrix .matmul)) := by
  unfold edgeBytes
  decide +kernel

/-- Its tile is the only one of any loom. -/
theorem edgeState_runs_only {a b : Nat} {r : TileRun} (h : r ∈ (edgeState.loom a b).runs) : r = edgeTile := by
  unfold State.loom at h
  generalize loomKey a b = k at h
  cases k with
  | zero => exact List.mem_singleton.mp h
  | succ k => exact nomatch h

theorem edgeState_end : edgeState.tileEnd edgeMat 0 = edgeTile := by decide +kernel

/-- Refutes O32: the same tile, run by its command. -/
theorem not_matrixCommandsComplete : ¬ Obligations.MatrixCommandsComplete := by
  unfold Obligations.MatrixCommandsComplete
  intro h
  have htile : ∀ u r, edgeState.tileOf edging u = some r → r.fits edgeMat := by
    intro u r hr
    rw [edgeState_runs_only (List.mem_of_find?_eq_some hr)]
    exact edgeTile_fits
  have happart : edgeState.slotsApart edgeMat := by
    unfold State.slotsApart
    decide +kernel
  obtain ⟨s', x, hrun, -, -, -, -, -, -, -, -, hbytes⟩ := h edgeState id0 edging .matmul (.matmul id0) (List.mem_cons_self ..) edgeState_runs
    (by decide +kernel) edgeState_free happart htile
  have hunits : edging.unitsLeft = [0] := by decide +kernel
  have hin := hbytes 0 hunits edgeState_apart
  change edgeState.tileBytesIn s' edgeMat (edgeState.tileEnd edgeMat 0) at hin
  rw [edgeState_end] at hin
  have hbytes' := edgeBytes_of_tile hin
  rw [← Host.Outcome.next.inj hrun] at hbytes'
  exact edgeState_matmul hbytes'

end Sys2Proof.Machine
end

section
/-!
The movement commands run their units (R51, R170–R174): each moves the elements and block scales of its rows, and leaves the later units what they
wait for.
-/
namespace Sys2Proof.Machine

/-! ### One piece -/

theorem State.load_length_le (s : State) (ac : Access) {a : Nat} (h5 : addrSpace a ≠ 5) (n : Nat) : (s.load ac a n).length ≤ n := by
  unfold State.load
  rw [if_neg h5]
  split
  · exact Nat.le_of_eq (Memory.readBytes_length _ _ _)
  · split
    · exact Nat.zero_le _
    · exact List.length_take_le _ _

section
variable {ps : List (Nat × Nat)} {acS acD : Access} {src dst len spS spD : Nat} (hp : (dst, len) ∈ ps) (hdst : spanWithin spD (dst, len))
  (hsrc : spanWithin spS (src, len)) (hD : spD ≠ 5) (hS : spS ≠ 5)
include hp hdst hD

theorem State.moveByteBits_placed (s : State) {j lo n : Nat} (hj : n ≠ 0 → j < len) (a : Nat) :
    Placed (touched acD ps) s (s.moveByteBits acS acD a (dst + j) lo n) := by
  unfold State.moveByteBits
  split
  · exact Placed.refl _ s
  next hn =>
    have hin := hj hn
    exact s.store_part hp hdst hD (Nat.le_add_right ..) (by rw [List.length_singleton]; omega)

include hsrc hS

/-- A movement of bits keeps to what its access touches of the bytes that they lie in. -/
theorem State.movedBits_placed (s : State) {o n : Nat} (ho : o < 8) (hlen : len = (o + n + 7) / 8) :
    Placed (touched acD ps) s (s.movedBits acS acD src dst o n) := by
  obtain ⟨lead, hlead⟩ : ∃ x, x = if o = 0 then 0 else Nat.min n (8 - o) := ⟨_, rfl⟩
  obtain ⟨skip, hskip⟩ : ∃ x, x = if o = 0 then 0 else 1 := ⟨_, rfl⟩
  have hplace : (lead ≠ 0 → 0 < len) ∧ ((n - lead) / 8 ≠ 0 → skip + (n - lead) / 8 ≤ len) ∧ ((n - lead) % 8 ≠ 0 → skip + (n - lead) / 8 < len) := by
    by_cases hzero : o = 0
    · rw [if_pos hzero] at hlead hskip
      omega
    · rw [if_neg hzero] at hlead hskip
      have hmin : lead = n ∧ n ≤ 8 - o ∨ lead = 8 - o ∧ 8 - o ≤ n := by
        rw [hlead]
        by_cases hle : n ≤ 8 - o
        · exact .inl ⟨Nat.min_eq_left hle, hle⟩
        · exact .inr ⟨Nat.min_eq_right (Nat.le_of_not_le hle), Nat.le_of_not_le hle⟩
      omega
  obtain ⟨hfirst, hwhole, hlast⟩ := hplace
  unfold State.movedBits
  dsimp only
  rw [← hlead, ← hskip]
  have hbits : Placed (touched acD ps) s (s.moveByteBits acS acD src dst o lead) := s.moveByteBits_placed hp hdst hD (j := 0) hfirst src
  generalize s.moveByteBits acS acD src dst o lead = v at *
  refine (hbits.trans (?_ : Placed _ v (if (n - lead) / 8 = 0 then v else v.store acD (dst + skip) (s.load acS (src + skip) ((n - lead) / 8))))).trans ?_
  · split
    · exact Placed.refl _ _
    next hn =>
      have hin := hwhole hn
      have hload := s.load_length_le acS (a := src + skip) (by rw [hsrc skip (by dsimp only; omega)]; exact hS) ((n - lead) / 8)
      exact State.store_part _ hp hdst hD (Nat.le_add_right ..) (by dsimp only; omega)
  · rw [Nat.add_assoc dst]
    exact State.moveByteBits_placed hp hdst hD _ hlast _

theorem State.moveBits_placed {s : State} (hclean : s.poison = []) {o n : Nat} (ho : o < 8) (hlen : len = (o + n + 7) / 8) :
    Placed (touched acD ps) s (s.moveBits acS acD src dst o n) := by
  rw [State.moveBits_eq, if_pos (.inl (by rw [hclean]; rfl))]
  exact s.movedBits_placed hp hdst hsrc hD hS ho hlen

end

/-- A piece of whole bytes between plain places is copied. -/
theorem State.moveBits_copies {s : State} {acS acD : Access} {src dst len : Nat} {spD : Nat} (hclean : s.poison = []) (hS : acS.keys = none)
    (hD : acD.keys = none) (h5 : addrSpace src ≠ 5) (hdst : spanWithin spD (dst, len)) (hD5 : spD ≠ 5) (x : Nat) (hlive : ¬s.liveCharge x) :
    (s.moveBits acS acD src dst 0 (8 * len)).mem.read x =
      if hostKey acD.function dst ≤ x ∧ x < hostKey acD.function dst + len then s.mem.read (hostKey acS.function src + (x - hostKey acD.function dst))
      else s.mem.read x := by
  have hload : s.load acS src len = s.mem.readBytes (hostKey acS.function src) len := by
    unfold State.load
    rw [if_neg h5, hS]
  have hmoved : s.moveBits acS acD src dst 0 (8 * len) = if len = 0 then s else s.store acD dst (s.load acS src len) := by
    rw [State.moveBits_eq, if_pos (.inl (by rw [hclean]; rfl))]
    unfold State.movedBits State.moveByteBits
    dsimp only
    simp only [if_true, Nat.sub_zero, Nat.mul_mod_right, Nat.mul_div_cancel_left len (by decide : 0 < 8), Nat.add_zero]
  rw [hmoved]
  by_cases hzero : len = 0
  · rw [if_pos hzero, if_neg (by omega)]
  rw [if_neg hzero, hload]
  have hplace : addrSpace dst ≠ 5 := by
    have := hdst 0 (Nat.zero_le _)
    rw [Nat.add_zero] at this
    rw [this]
    exact hD5
  have hstore : (s.mem.store acD dst (s.mem.readBytes (hostKey acS.function src) len)).read x =
      if hostKey acD.function dst ≤ x ∧ x < hostKey acD.function dst + len then s.mem.read (hostKey acS.function src + (x - hostKey acD.function dst))
      else s.mem.read x := by
    unfold Memory.store
    rw [hD]
    dsimp only
    rw [Memory.read_writeBytes, Memory.readBytes_length]
    split
    next hin =>
      unfold Memory.readBytes
      rw [List.getD_eq_getElem _ _ (by rw [List.length_map, List.length_range]; omega), List.getElem_map, List.getElem_range]
    next => rfl
  rw [State.store, if_neg hplace]
  dsimp only
  split
  · exact ((State.replaceCache_kept (({ s with mem := s.mem.store acD dst (s.mem.readBytes (hostKey acS.function src) len) } : State).unpoison
      (hostKey acD.function dst) _) _ _).bytes x hlive).trans hstore
  · exact hstore

/-! ### Some pieces, one after another -/

/-- The bytes of pieces that have moved. -/
structure PiecesMoved (s u : State) (fn : Nat) (ps : List (Nat × Nat × Nat)) : Prop where
  kept : ∀ x, (∀ p ∈ ps, x < hostKey fn p.2.1 ∨ hostKey fn p.2.1 + p.2.2 ≤ x) → ¬s.liveCharge x → u.mem.read x = s.mem.read x
  values : ∀ p ∈ ps, ∀ i, i < p.2.2 → u.mem.read (hostKey fn p.2.1 + i) = s.mem.read (hostKey fn p.1 + i)

/-- One more piece moves, apart from those that have. -/
theorem PiecesMoved.snoc {s u : State} {fn : Nat} {ps : List (Nat × Nat × Nat)} {p : Nat × Nat × Nat} {acS acD : Access} {spD : Nat}
    (h : PiecesMoved s u fn ps) (hlive : ∀ x, u.liveCharge x ↔ s.liveCharge x) (hclean : u.poison = []) (hS : acS.keys = none) (hD : acD.keys = none)
    (hSf : acS.function = fn) (hDf : acD.function = fn) (h5 : addrSpace p.1 ≠ 5) (hdst : spanWithin spD p.2) (hD5 : spD ≠ 5)
    (hapart : PiecesApart s fn (ps ++ [p])) : PiecesMoved s (u.moveBits acS acD p.1 p.2.1 0 (8 * p.2.2)) fn (ps ++ [p]) := by
  have hmem : p ∈ ps ++ [p] := List.mem_append_right _ (List.mem_singleton_self p)
  have hread := State.moveBits_copies (src := p.1) (dst := p.2.1) (len := p.2.2) hclean hS hD h5 hdst hD5
  rw [hSf, hDf] at hread
  refine ⟨fun x hx hx' => ?_, fun q hq i hi => ?_⟩
  · have hout := hx p hmem
    rw [hread x (fun hl => hx' ((hlive x).mp hl)), if_neg (by omega)]
    exact h.kept x (fun q hq => hx q (List.mem_append_left _ hq)) hx'
  · have hcharge := (hapart.charges q hq i hi).1
    rw [hread _ (fun hl => hcharge ((hlive _).mp hl).chargeByte)]
    obtain hq' | hq' := List.mem_append.mp hq
    · have hdsts := (List.pairwise_append.mp hapart.dsts).2.2 q hq' p (List.mem_singleton_self p)
      unfold apart at hdsts
      rw [if_neg (by omega)]
      exact h.values q hq' i hi
    · obtain rfl := List.mem_singleton.mp hq'
      rw [if_pos (by omega), Nat.add_sub_cancel_left]
      refine h.kept _ (fun r hr => ?_) fun hl => (hapart.charges q hq i hi).2 hl.chargeByte
      have hsrcs := hapart.srcs r (List.mem_append_left _ hr) q hq
      unfold apart at hsrcs
      omega

end Sys2Proof.Machine
end

section
/-!
The rows that a movement command moves, unit by unit (R51, R170, R171): what is moved, what is counted and what stays.
-/
namespace Sys2Proof.Machine

/-! ### Folds of placed steps -/

theorem Placed.foldl_from {α : Type} {P : State → Prop} {R : Nat → Prop} {f : State → α → State} {l : List α} (hP : ∀ u v, P u → Placed R u v → P v)
    (hf : ∀ u, P u → ∀ a ∈ l, Placed R u (f u a)) {u : State} (h : P u) : Placed R u (l.foldl f u) := by
  induction l generalizing u with
  | nil => exact Placed.refl R u
  | cons a l ih =>
    have hstep := hf u h a (List.mem_cons_self ..)
    exact hstep.trans (ih (fun v hv b hb => hf v hv b (List.mem_cons_of_mem _ hb)) (hP u _ h hstep))

theorem PiecesApart.sublist {s : State} {fn : Nat} {ps qs : List (Nat × Nat × Nat)} (h : PiecesApart s fn qs) (hsub : ps.Sublist qs) :
    PiecesApart s fn ps :=
  ⟨h.dsts.sublist hsub, fun p hp q hq => h.srcs p (hsub.subset hp) q (hsub.subset hq), fun p hp => h.charges p (hsub.subset hp)⟩

/-- The copy of one piece of whole bytes. -/
def State.copyPiece (acS acD : Access) (u : State) (p : Nat × Nat × Nat) : State := u.moveBits acS acD p.1 p.2.1 0 (8 * p.2.2)

section
variable {s : State} {src dst : Block512} {ps : List (Nat × Nat × Nat)} (hwithin : s.piecesWithin src dst ps)
  (hS : addrSpace (winBase src) ≠ 5) (hD : addrSpace (winBase dst) ≠ 5)

include hwithin in
theorem State.piecesWithin.spans {p : Nat × Nat × Nat} (hp : p ∈ ps) : spanWithin (addrSpace (winBase src)) (p.1, p.2.2) ∧
    spanWithin (addrSpace (winBase dst)) p.2 ∧ ∀ i, i ≤ p.2.2 → ¬s.recordByte (p.2.1 + i) :=
  ⟨fun i hi => (hwithin p hp i (Nat.lt_succ_of_le hi)).1, fun i hi => (hwithin p hp i (Nat.lt_succ_of_le hi)).2.1,
    fun i hi => (hwithin p hp i (Nat.lt_succ_of_le hi)).2.2⟩

include hwithin in
/-- What a movement writes lies in no context record. -/
theorem State.piecesWithin.recordsApart (ac : Access) : s.recordsApart (touched ac (ps.map Prod.snd)) := by
  intro x hx
  refine touched_not_record (fun p hp => ?_) (fun p hp i hi => ?_) hx
  · obtain ⟨q, hq, rfl⟩ := List.mem_map.mp hp
    exact ⟨_, (State.piecesWithin.spans hwithin hq).2.1⟩
  · obtain ⟨q, hq, rfl⟩ := List.mem_map.mp hp
    exact (State.piecesWithin.spans hwithin hq).2.2 i hi

include hwithin hS hD

theorem State.piecesWithin.moveBits_placed {u : State} (hclean : u.poison = []) {p : Nat × Nat × Nat} (hp : p ∈ ps) {acS acD : Access} {o n : Nat} (ho : o < 8)
    (hlen : p.2.2 = (o + n + 7) / 8) : Placed (touched acD (ps.map Prod.snd)) u (u.moveBits acS acD p.1 p.2.1 o n) := by
  obtain ⟨hsrc, hdst, -⟩ := State.piecesWithin.spans hwithin hp
  exact State.moveBits_placed (dst := p.2.1) (len := p.2.2) (List.mem_map.mpr ⟨p, hp, rfl⟩) hdst hsrc hD hS hclean ho hlen

/-- Pieces of whole bytes that move one after another, apart from one another and from those that have moved. -/
theorem PiecesMoved.append {u : State} {fn : Nat} {done qs : List (Nat × Nat × Nat)} {acS acD : Access} (h : PiecesMoved s u fn done)
    (hlive : ∀ x, u.liveCharge x ↔ s.liveCharge x) (hclean : u.poison = []) (hSkeys : acS.keys = none) (hDkeys : acD.keys = none)
    (hSf : acS.function = fn) (hDf : acD.function = fn) (hsub : ∀ q ∈ qs, q ∈ ps) (hapart : PiecesApart s fn (done ++ qs)) :
    PiecesMoved s (qs.foldl (State.copyPiece acS acD) u) fn (done ++ qs) := by
  induction qs generalizing u done with
  | nil =>
    rw [List.append_nil]
    exact h
  | cons q qs ih =>
    have hq := hsub q (List.mem_cons_self ..)
    obtain ⟨hsrc, hdst, -⟩ := State.piecesWithin.spans hwithin hq
    have hplaced : Placed (touched acD (ps.map Prod.snd)) u (State.copyPiece acS acD u q) :=
      State.piecesWithin.moveBits_placed hwithin hS hD hclean hq (by decide) (by omega)
    have hspace : addrSpace q.1 ≠ 5 := by
      have hstart := hsrc 0 (Nat.zero_le _)
      rw [Nat.add_zero] at hstart
      rw [hstart]
      exact hS
    rw [List.append_cons] at hapart ⊢
    have hstep := h.snoc hlive hclean hSkeys hDkeys hSf hDf hspace hdst hD (hapart.sublist (List.sublist_append_left _ _))
    exact ih hstep (fun x => (hplaced.stored.liveCharge_iff x).trans (hlive x)) (hplaced.clean hclean)
      (fun r hr => hsub r (List.mem_cons_of_mem _ hr)) hapart

end

end Sys2Proof.Machine
end

section
/-!
The movement commands (R51, R170–R174) and the indexed ones that copy (R172): every unit moves its segments, and the item counts their bytes.
-/
namespace Sys2Proof.Machine

/-! ### One segment, and one unit -/

theorem foldl_tally {α σ : Type} {mp : σ → α → σ × Nat} {n : α → Nat} (hn : ∀ u a, (mp u a).2 = n a) (l : List α) (p : σ × Nat) :
    l.foldl (fun st a => ((mp st.1 a).1, st.2 + (mp st.1 a).2)) p = (l.foldl (fun u a => (mp u a).1) p.1, p.2 + (l.map n).sum) := by
  induction l generalizing p with
  | nil => rfl
  | cons a l ih =>
    rw [List.foldl_cons, ih, List.map_cons, List.sum_cons, hn, Nat.add_assoc]
    rfl

/-- A segment of a movement moved. -/
def State.moveSegment (fn : Nat) (src dst : Block512) (m : MoveRows) (u : State) (g : Nat × Nat × Nat) : State :=
  (u.movePart fn src dst (m.src g.1) (m.dst g.1) g.2.1 g.2.1 g.2.2).1

theorem State.moveUnit_eq (u : State) (t : Item) (m : MoveRows) (k : Nat) : u.moveUnit t m k =
    ((m.segs (winFormat (t.winD 16)) k).foldl (State.moveSegment (u.itemFunction t.id) (t.winD 16) (t.winD 20) m) u).unitFinished t.id k
      ((m.segs (winFormat (t.winD 16)) k).map (m.count (t.winD 16) (t.winD 20))).sum 0 := by
  have hfold := foldl_tally (mp := fun (v : State) g => v.movePart (u.itemFunction t.id) (t.winD 16) (t.winD 20) (m.src g.1) (m.dst g.1) g.2.1 g.2.1 g.2.2)
    (n := m.count (t.winD 16) (t.winD 20)) (fun _ _ => rfl) (m.segs (winFormat (t.winD 16)) k) (u, 0)
  rw [Nat.zero_add] at hfold
  unfold State.moveUnit
  exact congrArg (fun p : State × Nat => p.1.unitFinished t.id k p.2 0) hfold

/-- A segment moved as its pieces: the bits of its elements, then its block scales. -/
theorem State.moveSegment_eq (fn : Nat) (src dst : Block512) (m : MoveRows) (u : State) (g : Nat × Nat × Nat) : State.moveSegment fn src dst m u g =
    (scaleMoves src dst (m.src g.1) (m.dst g.1) g.2.1 g.2.1 g.2.2).foldl (State.copyPiece (u.access fn src) (u.access fn dst))
      (u.moveBits (u.access fn src) (u.access fn dst) (rowAddr src (m.src g.1) + g.2.1 * formatBits (winFormat src) / 8)
        (rowAddr dst (m.dst g.1) + g.2.1 * formatBits (winFormat src) / 8) (g.2.1 * formatBits (winFormat src) % 8)
        (g.2.2 * formatBits (winFormat src))) := rfl

/-- A segment of whole bytes is moved piece by piece. -/
theorem State.moveSegment_whole {fn : Nat} {src dst : Block512} {m : MoveRows} {g : Nat × Nat × Nat} (u : State)
    (hwhole : g.2.1 * formatBits (winFormat src) % 8 = 0 ∧ g.2.2 * formatBits (winFormat src) % 8 = 0) :
    State.moveSegment fn src dst m u g = (m.pieces src dst g).foldl (State.copyPiece (u.access fn src) (u.access fn dst)) u := by
  rw [State.moveSegment_eq]
  unfold MoveRows.pieces
  dsimp only
  rw [List.foldl_cons]
  have hbits : 8 * ((g.2.1 * formatBits (winFormat src) % 8 + g.2.2 * formatBits (winFormat src) + 7) / 8) = g.2.2 * formatBits (winFormat src) := by
    omega
  unfold State.copyPiece
  rw [hbits, hwhole.1]

/-- The bytes that moving some pieces into a window may change. -/
def movedInto (s : State) (fn : Nat) (dst : Block512) (ps : List (Nat × Nat × Nat)) : Nat → Prop := touched (s.access fn dst) (ps.map Prod.snd)

section
variable {s₀ : State} {fn : Nat} {src dst : Block512} {m : MoveRows} {ps : List (Nat × Nat × Nat)} (hclean : s₀.poison = [])
  (hwithin : s₀.piecesWithin src dst ps) (hS : addrSpace (winBase src) ≠ 5) (hD : addrSpace (winBase dst) ≠ 5)
include hclean hwithin hS hD

theorem Worked.moveSegment_placed {u : State} (h : Worked (movedInto s₀ fn dst ps) s₀ u) {g : Nat × Nat × Nat} (hg : m.pieces src dst g ⊆ ps) :
    Placed (movedInto s₀ fn dst ps) u (State.moveSegment fn src dst m u g) := by
  have hrecords : s₀.recordsApart (movedInto s₀ fn dst ps) := State.piecesWithin.recordsApart hwithin _
  rw [State.moveSegment_eq, h.access hrecords, h.access hrecords]
  have hhead := State.piecesWithin.moveBits_placed hwithin hS hD (h.clean hclean) (hg (List.mem_cons_self ..)) (acS := s₀.access fn src)
    (acD := s₀.access fn dst) (Nat.mod_lt (g.2.1 * formatBits (winFormat src)) (by decide)) (n := g.2.2 * formatBits (winFormat src)) rfl
  refine hhead.trans (Placed.foldl_from (P := fun v => v.poison = []) (fun u v hu hplaced => hplaced.clean hu) (fun v hv p hp => ?_)
    (hhead.clean (h.clean hclean)))
  exact State.piecesWithin.moveBits_placed hwithin hS hD hv (hg (List.mem_cons_of_mem _ hp)) (by decide) (by omega)

theorem Worked.moveSegments_placed {u : State} (h : Worked (movedInto s₀ fn dst ps) s₀ u) {gs : List (Nat × Nat × Nat)}
    (hgs : gs.flatMap (m.pieces src dst) ⊆ ps) : Placed (movedInto s₀ fn dst ps) u (gs.foldl (State.moveSegment fn src dst m) u) :=
  Placed.foldl_from (P := Worked (movedInto s₀ fn dst ps) s₀) (fun _ _ hu hplaced => hu.trans hplaced.worked)
    (fun _ hv g hg => hv.moveSegment_placed hclean hwithin hS hD fun _ hp => hgs (List.mem_flatMap.mpr ⟨g, hg, hp⟩)) h

/-- Segments of whole bytes that stand apart arrive, whatever had moved before them. -/
theorem Worked.moveSegments_moved {u : State} (h : Worked (movedInto s₀ fn dst ps) s₀ u) {done : List (Nat × Nat × Nat)}
    (hdone : PiecesMoved s₀ u fn done) (hSkeys : (s₀.access fn src).keys = none) (hDkeys : (s₀.access fn dst).keys = none)
    {gs : List (Nat × Nat × Nat)} (hgs : gs.flatMap (m.pieces src dst) ⊆ ps) (hwhole : wholeSegments src gs)
    (hapart : PiecesApart s₀ fn (done ++ gs.flatMap (m.pieces src dst))) :
    PiecesMoved s₀ (gs.foldl (State.moveSegment fn src dst m) u) fn (done ++ gs.flatMap (m.pieces src dst)) := by
  induction gs generalizing u done with
  | nil =>
    rw [List.flatMap_nil, List.append_nil]
    exact hdone
  | cons g gs ih =>
    have hrecords : s₀.recordsApart (movedInto s₀ fn dst ps) := State.piecesWithin.recordsApart hwithin _
    rw [List.flatMap_cons] at hgs hapart ⊢
    rw [← List.append_assoc] at hapart ⊢
    have hsub : m.pieces src dst g ⊆ ps := fun p hp => hgs (List.mem_append_left _ hp)
    have hfirst : PiecesMoved s₀ (State.moveSegment fn src dst m u g) fn (done ++ m.pieces src dst g) := by
      rw [State.moveSegment_whole u (hwhole g (List.mem_cons_self ..)), h.access hrecords, h.access hrecords]
      exact PiecesMoved.append hwithin hS hD hdone h.liveCharge_iff (h.clean hclean) hSkeys hDkeys (s₀.access_function fn src)
        (s₀.access_function fn dst) (fun p hp => hsub hp) (hapart.sublist (List.sublist_append_left _ _))
    exact ih (h.trans (h.moveSegment_placed hclean hwithin hS hD hsub).worked) hfirst (fun p hp => hgs (List.mem_append_right _ hp))
      (fun g' hg' => hwhole g' (List.mem_cons_of_mem _ hg')) hapart

end

/-! ### The units of a movement -/

/-- The segments of the units below `k` that were left to move. -/
def MoveRows.below (m : MoveRows) (t : Item) (k : Nat) : List (Nat × Nat × Nat) :=
  ((List.range k).filter fun u => !t.unitsDone.contains u).flatMap (m.segs (winFormat (t.winD 16)))

theorem MoveRows.below_unitCount (m : MoveRows) (t : Item) : m.below t t.unitCount = m.left t := rfl

theorem MoveRows.below_done {m : MoveRows} {t : Item} {k : Nat} (h : t.unitsDone.contains k = true) : m.below t (k + 1) = m.below t k := by
  unfold MoveRows.below
  rw [List.range_succ, List.filter_append, List.filter_cons_of_neg (by rw [h]; decide), List.filter_nil, List.append_nil]

theorem MoveRows.below_left {m : MoveRows} {t : Item} {k : Nat} (h : t.unitsDone.contains k = false) :
    m.below t (k + 1) = m.below t k ++ m.segs (winFormat (t.winD 16)) k := by
  unfold MoveRows.below
  rw [List.range_succ, List.filter_append, List.filter_cons_of_pos (by rw [h]; rfl), List.filter_nil, List.flatMap_append, List.flatMap_singleton]

theorem MoveRows.below_sublist {m : MoveRows} {t : Item} {k : Nat} (h : k ≤ t.unitCount) : (m.below t k).Sublist (m.left t) :=
  (((List.range_sublist).mpr h).filter _).flatMap _

/-- What the units of a movement below `k` have done. -/
structure MovedBelow (s : State) (t : Item) (m : MoveRows) (k : Nat) (u : State) : Prop where
  bytes : ∀ x, u.item t.id = some x → x.bytes = t.bytes + ((m.below t k).map (m.count (t.winD 16) (t.winD 20))).sum
  pieces : (s.access (s.itemFunction t.id) (t.winD 16)).keys = none → (s.access (s.itemFunction t.id) (t.winD 20)).keys = none →
    wholeSegments (t.winD 16) (m.left t) → PiecesApart s (s.itemFunction t.id) ((m.left t).flatMap (m.pieces (t.winD 16) (t.winD 20))) →
    PiecesMoved s u (s.itemFunction t.id) ((m.below t k).flatMap (m.pieces (t.winD 16) (t.winD 20)))

end Sys2Proof.Machine
end

section
/-!
The movement commands complete (R51, R170, R171, R174), and so do those that copy rows by an index list (R172).
-/
namespace Sys2Proof.Machine

/-- A unit that only notes that it is done has run. -/
theorem Placed.unitFinished {Q : Nat → Prop} {s s' : State} (h : Placed Q s s') (t : Item) (needs : Nat → List Read) (k bytes replay : Nat) :
    UnitRan t needs Q k s (s'.unitFinished t.id k bytes replay) := by
  have hstored := h.stored
  unfold Stored at hstored
  have hsame : s'.items = s.items ∧ s'.full = s.full ∧ s'.streams = s.streams := by
    rw [hstored]
    exact ⟨rfl, rfl, rfl⟩
  obtain ⟨hitems, hfull, hstreams⟩ := hsame
  refine ⟨h.worked.trans (State.modItem_worked _ _ _), fun x hx => ?_, ?_, fun v _ _ r _ g _ hg => ?_, fun g hg => ?_, hstreams⟩
  · refine ⟨_, State.unitFinished_item (x := x) ?_ k bytes replay, rfl, Nat.le_add_right .., rfl⟩
    unfold State.item
    rw [hitems]
    exact hx
  · rw [State.unitFinished_names, hitems]
  · change g ∈ s'.full
    rw [hfull]
    exact hg
  · change g ∈ s'.full at hg
    rw [hfull] at hg
    exact hg

section
variable {s : State} {t : Item} {o : Opcode} {m : MoveRows} (hfree : MayMove s t o m) (hS : addrSpace (winBase (t.winD 16)) ≠ 5)
  (hD : addrSpace (winBase (t.winD 20)) ≠ 5)

/-- The pieces of all the units that a movement has left. -/
def MoveRows.piecesLeft (m : MoveRows) (t : Item) : List (Nat × Nat × Nat) := (m.left t).flatMap (m.pieces (t.winD 16) (t.winD 20))

/-- The bytes that a movement may change. -/
def MoveRows.into (m : MoveRows) (s : State) (t : Item) : Nat → Prop := movedInto s (s.itemFunction t.id) (t.winD 20) (m.piecesLeft t)

theorem MoveRows.unit_pieces {k : Nat} (hk : k ∈ t.unitsLeft) :
    (m.segs (winFormat (t.winD 16)) k).flatMap (m.pieces (t.winD 16) (t.winD 20)) ⊆ m.piecesLeft t := by
  intro p hp
  obtain ⟨g, hg, hp⟩ := List.mem_flatMap.mp hp
  exact List.mem_flatMap.mpr ⟨g, List.mem_flatMap.mpr ⟨k, hk, hg⟩, hp⟩

theorem moveWork_sparesNeeds (o : Opcode) (t : Item) (m : MoveRows) : (moveWork o t m).sparesNeeds t (m.reads t) := by
  intro v _ q hq
  by_cases hstays : (o = .storeTile && t.desc.getLsbD 312) = true
  · refine .inr fun u _ r hr => ?_
    change r ∈ (if (o = .storeTile && t.desc.getLsbD 312) = true then [] else m.reads t u) at hr
    rw [if_pos hstays] at hr
    exact absurd hr List.not_mem_nil
  · refine .inl ?_
    change q ∈ (if (o = .storeTile && t.desc.getLsbD 312) = true then [] else m.reads t v)
    rw [if_neg hstays]
    exact hq

include hfree hS hD

theorem MayMove.moveUnit_ran {u : State} (h : Worked (m.into s t) s u) {k : Nat} (hk : k ∈ t.unitsLeft) :
    UnitRan t (m.reads t) (m.into s t) k u (u.moveUnit t m k) := by
  rw [State.moveUnit_eq, h.itemFunction]
  exact (h.moveSegments_placed hfree.clean hfree.within hS hD (MoveRows.unit_pieces hk)).unitFinished t _ k _ 0

theorem MayMove.moveUnit_moved {u : State} (h : Worked (m.into s t) s u) {k : Nat} (hk : k ∈ t.unitsLeft) (hbelow : MovedBelow s t m k u) {u' : State}
    (htook : Took (u.moveUnit t m k) u') (hitem : (u.item t.id).isSome = true) : MovedBelow s t m (k + 1) u' := by
  obtain ⟨hlt, hopen⟩ := Item.mem_unitsLeft.mp hk
  have hplaced := h.moveSegments_placed hfree.clean hfree.within hS hD (MoveRows.unit_pieces hk)
  have hstored := hplaced.stored
  rw [State.moveUnit_eq, h.itemFunction] at htook
  obtain ⟨y, hy⟩ := Option.isSome_iff_exists.mp hitem
  refine ⟨fun x hx => ?_, fun hSkeys hDkeys hwhole hapart => ?_⟩
  · have hmoved : ((m.segs (winFormat (t.winD 16)) k).foldl (State.moveSegment (s.itemFunction t.id) (t.winD 16) (t.winD 20) m) u).item t.id = some y := by
      unfold Stored at hstored
      rw [hstored]
      exact hy
    rw [htook.item, State.unitFinished_item hmoved] at hx
    obtain rfl := Option.some.inj hx
    change y.bytes + _ = _
    rw [hbelow.bytes y hy, MoveRows.below_left hopen, List.map_append, List.sum_append, Nat.add_assoc]
  · have hnext : m.below t (k + 1) = m.below t k ++ m.segs (winFormat (t.winD 16)) k := MoveRows.below_left hopen
    have hsub := (m.below_sublist (t := t) hlt)
    rw [hnext] at hsub
    have hmoved := h.moveSegments_moved hfree.clean hfree.within hS hD (hbelow.pieces hSkeys hDkeys hwhole hapart) hSkeys hDkeys
      (MoveRows.unit_pieces hk) (fun g hg => hwhole g (hsub.subset (List.mem_append_right _ hg))) (by
        rw [← List.flatMap_append]
        exact hapart.sublist (hsub.flatMap _))
    have hmem : u'.mem = ((m.segs (winFormat (t.winD 16)) k).foldl (State.moveSegment (s.itemFunction t.id) (t.winD 16) (t.winD 20) m) u).mem := by
      unfold Took at htook
      rw [htook]
      rfl
    rw [hnext, List.flatMap_append]
    exact ⟨fun x hx hlive => by rw [hmem]; exact hmoved.kept x hx hlive, fun p hp i hi => by rw [hmem]; exact hmoved.values p hp i hi⟩

end

/-- What stops the accesses of a movement's unit, and what it waits for, as long as it goes on. -/
theorem MayMove.unit_free {s u : State} {t : Item} {o : Opcode} {m : MoveRows} (hfree : MayMove s t o m) {k : Nat} (hk : k ∈ t.unitsLeft)
    (h : Progress s t (moveWork o t m) (m.reads t) (m.into s t) k u) :
    (moveWork o t m).fault u k = none ∧ (moveWork o t m).ready u k = true := by
  have hrecords : s.recordsApart (m.into s t) := State.piecesWithin.recordsApart hfree.within _
  refine ⟨?_, ?_⟩
  · change u.moveFault o t m k = none
    rw [← hfree.free k hk]
    unfold State.moveFault
    rw [h.worked.itemFunction]
    simp only [h.worked.readFault hrecords hfree.clean]
  · change ((m.reads t k).all (u.readReady t) && (m.writes t k).all u.writeReady) = true
    rw [Bool.and_eq_true, List.all_eq_true, List.all_eq_true]
    exact ⟨fun r hr => h.worked.readReady (hfree.reads k hk r hr) (h.full k (Nat.le_refl k) hk r hr) (h.streams k (Nat.le_refl k) hk r hr),
      fun r hr => h.worked.writeReady (hfree.writes k hk r hr) (h.bare k (Nat.le_refl k) hk r hr)⟩

/-- A movement that nothing stops or holds runs all its units, and its item is decided. -/
theorem Runs.movement {s : State} {it : ItemId} {o o' : Opcode} {t : Item} (hruns : Runs s it o t) {m : MoveRows} (hfree : MayMove s t o' m) :
    Moved s (s.runAll (moveWork o' t m) t) it t (s.itemFunction it) (t.winD 16) (t.winD 20) m ∧
      (s.runAll (moveWork o' t m) t).mod = s.mod := by
  obtain rfl := hruns.id
  have hS := hruns.winD_space 16
  have hD := hruns.winD_space 20
  have hbegin : Progress s t (moveWork o' t m) (m.reads t) (m.into s t) 0 s :=
    Progress.start (Worked.refl _ s) hruns.item rfl (Nat.le_refl _) rfl rfl rfl rfl
  have hnone : MovedBelow s t m 0 s := ⟨fun x hx => by
      obtain rfl := Option.some.inj (hruns.item.symm.trans hx)
      rfl,
    fun _ _ _ _ => ⟨fun _ _ _ => rfl, fun p hp => absurd hp List.not_mem_nil⟩⟩
  obtain ⟨u, hrun, hprog, hmoved⟩ := State.runAll_progress (fun k u => k ≤ t.unitCount → MovedBelow s t m k u) hruns.live
    (moveWork_sparesNeeds o' t m)
    (fun k u hk hbelow hlast => by
      have hdone : t.unitsDone.contains k = true := by
        rw [Item.mem_unitsLeft] at hk
        simpa [show k < t.unitCount from hlast] using hk
      obtain ⟨hbytes, hpieces⟩ := hbelow (Nat.le_of_succ_le hlast)
      rw [← MoveRows.below_done hdone] at hbytes hpieces
      exact ⟨hbytes, hpieces⟩)
    (fun k u hk h _ => hfree.unit_free hk h)
    (fun k u hk h hbelow => by
      obtain ⟨x, hitem, -⟩ := h.item
      exact ⟨hfree.moveUnit_ran hS hD h.worked hk, fun u' htook _ => hfree.moveUnit_moved hS hD h.worked hk
        (hbelow (Nat.le_of_lt (Item.mem_unitsLeft.mp hk).1)) htook (by rw [hitem]; rfl)⟩)
    hbegin fun _ => hnone
  obtain ⟨hcounted, hpieces⟩ := hmoved (Nat.le_refl _)
  obtain ⟨x, hitem, hphase, hbytes, -, hworked, hnames⟩ := hprog.ended
  rw [hrun]
  obtain ⟨y, hy, -⟩ := hprog.item
  refine ⟨⟨?_, hworked.sameRegisters, hworked.knots, hworked.windows, fun hplain x hout hcharge => ?_, fun hSkeys hDkeys hwhole hapart => ?_⟩, hworked.mod⟩
  · have hdone := State.finish_doneWith hy 0
    rw [hcounted y hy, Nat.add_zero, MoveRows.below_unitCount] at hdone
    exact hdone
  · refine hworked.bytes x (fun hin => ?_) fun hlive => hcharge hlive.chargeByte
    obtain ⟨p, hp, hx⟩ := hin
    obtain ⟨q, hq, rfl⟩ := List.mem_map.mp hp
    rw [if_pos hplain, s.access_function] at hx
    have := hout q hq
    omega
  · exact (hpieces hSkeys hDkeys hwhole hapart).values

/-- Settles O24. -/
theorem movementCopiesTheRowsOfItsShape : Obligations.MovementCopiesTheRowsOfItsShape := by
  unfold Obligations.MovementCopiesTheRowsOfItsShape
  intro s it t o c hmem hruns hplain hfree
  obtain ⟨hmoved, hmod⟩ := hruns.movement hfree
  obtain ⟨f, hexec, hf⟩ : ∃ f, exec c s = .next (s.withItem it o f) ∧ f t s = State.moveShape o t s := by
    simp only [List.mem_cons, Prod.mk.injEq, List.not_mem_nil, or_false] at hmem
    rcases hmem with ⟨rfl, rfl⟩ | ⟨rfl, rfl⟩ | ⟨rfl, rfl⟩ | ⟨rfl, rfl⟩ | ⟨rfl, rfl⟩
    · exact ⟨_, rfl, rfl⟩
    · exact ⟨_, rfl, rfl⟩
    · exact ⟨_, rfl, rfl⟩
    · exact ⟨_, rfl, if_neg (by rw [hplain (.inl rfl)]; decide)⟩
    · exact ⟨_, rfl, if_neg (by rw [hplain (.inr rfl)]; decide)⟩
  refine ⟨_, hexec.trans (congrArg _ (hruns.withItem_mod (hf.symm ▸ hmod))), ?_⟩
  rw [hf]
  exact hmoved

/-! ### The indexed commands -/

/-- Words written in a row stand where they were put. -/
theorem Memory.readBytes_words (m : Memory) (a : Nat) (f : Nat → W32) {n j : Nat} (hj : j < n) :
    (m.writeBytes a ((List.range n).flatMap fun i => leBytes 4 (f i).toNat)).readBytes (a + 4 * j) 4 = leBytes 4 (f j).toNat := by
  have hcodes : ((List.range n).flatMap fun i => leBytes 4 (f i).toNat) =
      codeBytes ((List.range n).map fun i => ({ code := (f i).toNat, saturated := false, wroteNan := false } : Coded)) := by
    unfold codeBytes
    rw [List.flatMap_map]
  rw [hcodes]
  exact Memory.readBytes_codes m a (c := { code := (f j).toNat, saturated := false, wroteNan := false })
    (by rw [List.getElem?_map, List.getElem?_range hj, Option.map_some])

/-- One row of at most a chunk is one segment. -/
theorem chunkSegments_row {fmt n : Nat} (hn : 0 < n) (hchunk : n ≤ chunkElems fmt) : chunkSegments fmt n 1 0 = [(0, 0, n)] := by
  have hmin : Nat.min (n * 1) ((0 + 1) * chunkElems fmt) = n := by
    rw [Nat.mul_one, Nat.zero_add, Nat.one_mul]
    exact Nat.min_eq_left hchunk
  have hlast : (n - 1) / n = 0 := Nat.div_eq_of_lt (by omega)
  have hwidth : (n - 1) % n = n - 1 := Nat.mod_eq_of_lt (by omega)
  unfold chunkSegments segments
  dsimp only
  rw [hmin, Nat.zero_mul, if_neg (by omega), hlast, Nat.zero_div]
  simp only [Nat.sub_self, Nat.zero_add, List.range_one, List.map_cons, List.map_nil, if_true, Nat.zero_mod, hwidth]
  rw [Nat.sub_add_cancel hn, Nat.sub_zero]

/-- An index command whose index list can be read runs its units where every index is in bounds. -/
theorem State.indexed_of_bounds {s : State} {t : Item} {o : Opcode} (hfault : s.readFault (s.itemFunction t.id) true (t.reads [40]) = none)
    (hin : ∀ i ∈ s.itemIndices t, i < winDim (t.winD (if o = .gather then 16 else 20)) 1) : State.indexed o t s =
      s.runAll (if o = .scatter && t.desc.getLsbD 313 then scatterAddWork t (s.movesOf t) else moveWork o t (s.movesOf t)) t := by
  unfold State.indexed
  rw [hfault]
  dsimp only
  rw [if_neg]
  intro hany
  obtain ⟨i, hi, hout⟩ := List.any_eq_true.mp hany
  exact absurd (hin i hi) (Nat.not_lt.mpr (of_decide_eq_true hout))

theorem State.indexed_out_of_bounds {s : State} {t : Item} {o : Opcode} (hfault : s.readFault (s.itemFunction t.id) true (t.reads [40]) = none)
    (hout : ∃ i ∈ s.itemIndices t, winDim (t.winD (if o = .gather then 16 else 20)) 1 ≤ i) :
    State.indexed o t s = s.failItem t.id .lengthBound := by
  obtain ⟨i, hi, hbound⟩ := hout
  unfold State.indexed
  rw [hfault]
  dsimp only
  rw [if_pos]
  exact List.any_eq_true.mpr ⟨i, hi, decide_eq_true hbound⟩

/-- `GATHER`, and a `SCATTER` that does not add. -/
theorem Runs.indexed {s : State} {it : ItemId} {t : Item} {o : Opcode} {c : Instr} (hmem : (o, c) ∈ [(Opcode.gather, Instr.gather it), (.scatter, .scatter it)])
    (hruns : Runs s it o t) (hadds : o = .scatter → t.desc.getLsbD 313 = false) (hnone : t.failedAt = none) (hown : t.caller = none)
    (hfault : s.readFault (s.itemFunction it) true (t.reads [40]) = none) :
    ((∃ i ∈ s.itemIndices t, winDim (t.winD (if o = .gather then 16 else 20)) 1 ≤ i) →
      ∃ s', exec c s = .next s' ∧ s'.failedWith it .lengthBound ∧ s'.sameBytes s ∧ s'.sameRegisters s ∧ s'.knots = s.knots) ∧
    ((∀ i ∈ s.itemIndices t, i < winDim (t.winD (if o = .gather then 16 else 20)) 1) → MayMove s t o (s.movesOf t) →
      ∃ s', exec c s = .next s' ∧ Moved s s' it t (s.itemFunction it) (t.winD 16) (t.winD 20) (s.movesOf t)) := by
  obtain ⟨hexec, hcopies⟩ : exec c s = .next (s.withItem it o (State.indexed o)) ∧ (o = .scatter && t.desc.getLsbD 313) = false := by
    simp only [List.mem_cons, Prod.mk.injEq, List.not_mem_nil, or_false] at hmem
    rcases hmem with ⟨rfl, rfl⟩ | ⟨rfl, rfl⟩
    · exact ⟨rfl, rfl⟩
    · exact ⟨rfl, by rw [hadds rfl]; rfl⟩
  obtain rfl := hruns.id
  refine ⟨fun hout => ?_, fun hin hfree => ?_⟩
  · have hfailed := State.indexed_out_of_bounds hfault hout
    have hquiet := s.failItem_isQuiet t.id .lengthBound
    refine ⟨_, hexec.trans (congrArg _ (hruns.withItem_quiet (hfailed ▸ hquiet))), ?_⟩
    rw [hfailed]
    exact ⟨State.failItem_failedWith hruns.item hnone hown _, hquiet.sameBytes, hquiet.sameRegisters, hquiet.knots⟩
  · have hmoves := State.indexed_of_bounds hfault hin
    rw [hcopies] at hmoves
    obtain ⟨hmoved, hmod⟩ := hruns.movement hfree
    refine ⟨_, hexec.trans (congrArg _ (hruns.withItem_mod (hmoves ▸ hmod))), ?_⟩
    rw [hmoves]
    exact hmoved

/-- The words of a scatter's row after it has added the words of its source. -/
def addedWords (s : State) (fn a b n : Nat) : List Byte :=
  (List.range n).flatMap fun i => leBytes 4 (add32 (BitVec.ofNat 32 (leNat (s.mem.readBytes (hostKey fn (b + 4 * i)) 4)))
    (BitVec.ofNat 32 (leNat (s.mem.readBytes (hostKey fn (a + 4 * i)) 4)))).toNat

theorem addedWords_length (s : State) (fn a b n : Nat) : (addedWords s fn a b n).length = 4 * n := by
  unfold addedWords
  rw [List.length_flatMap]
  simp only [leBytes_length, List.map_const', List.length_range, List.sum_replicate, smul_eq_mul]
  exact Nat.mul_comm n 4

theorem State.load_of_plain {s : State} {ac : Access} {a : Nat} (hkeys : ac.keys = none) (h5 : addrSpace a ≠ 5) (n : Nat) :
    s.load ac a n = s.mem.readBytes (hostKey ac.function a) n := by
  unfold State.load
  rw [if_neg h5, hkeys]

section
variable {s : State} {t : Item} {fn n i : Nat} (hclean : s.poison = []) (hSkeys : (s.access fn (t.winD 16)).keys = none)
  (hDkeys : (s.access fn (t.winD 20)).keys = none) (hS : addrSpace (winBase (t.winD 16)) ≠ 5) (hD : addrSpace (winBase (t.winD 20)) ≠ 5)
  (hspaces : ∀ k, k ≤ 4 * n → addrSpace (rowAddr (t.winD 16) 0 + k) = addrSpace (winBase (t.winD 16)) ∧
    addrSpace (rowAddr (t.winD 20) i + k) = addrSpace (winBase (t.winD 20)))
include hclean hSkeys hDkeys hS hD hspaces

/-- A row of clean words between plain windows is added in one write. -/
theorem State.addPart_row : s.addPart fn (t.winD 16) (t.winD 20) 0 i 0 n =
    some (s.store (s.access fn (t.winD 20)) (rowAddr (t.winD 20) i) (addedWords s fn (rowAddr (t.winD 16) 0) (rowAddr (t.winD 20) i) n)) := by
  unfold State.addPart
  dsimp only
  rw [Nat.mul_zero, Nat.add_zero, Nat.add_zero, State.poisoned_of_clean hclean, State.poisoned_of_clean hclean, Bool.or_self, if_neg (by decide)]
  refine congrArg some (congrArg (s.store _ _) ?_)
  unfold addedWords
  refine List.flatMap_congr fun j hj => ?_
  have hlt := List.mem_range.mp hj
  obtain ⟨hsrc, hdst⟩ := hspaces (4 * j) (by omega)
  rw [State.load_of_plain hDkeys (by rw [hdst]; exact hD), State.load_of_plain hSkeys (by rw [hsrc]; exact hS), s.access_function, s.access_function]

/-- The one unit of an adding scatter of a row. -/
theorem State.addUnit_row (hfn : s.itemFunction t.id = fn) {m : MoveRows} (hsegs : m.segs (winFormat (t.winD 16)) 0 = [(0, 0, n)]) (hsrc : m.src 0 = 0)
    (hdst : m.dst 0 = i) : s.addUnit t m 0 =
      (s.store (s.access fn (t.winD 20)) (rowAddr (t.winD 20) i) (addedWords s fn (rowAddr (t.winD 16) 0) (rowAddr (t.winD 20) i) n)).unitFinished
        t.id 0 (4 * n) 0 := by
  have hpart := State.addPart_row hclean hSkeys hDkeys hS hD hspaces
  unfold State.addUnit
  rw [hfn, hsegs]
  unfold State.addParts
  rw [hsrc, hdst, hpart]
  unfold State.addParts
  dsimp only
  rw [if_pos rfl, Nat.zero_add]

end

/-- An adding `SCATTER` of one row. -/
theorem Runs.scatterAdd {s : State} {it : ItemId} {t : Item} {i n : Nat} (hruns : Runs s it .scatter t) {m : MoveRows} (hfree : MayMove s t .scatter m)
    (hcount : t.unitCount = 1) (hnone : t.unitsDone = []) (hsegs : m.segs (winFormat (t.winD 16)) 0 = [(0, 0, n)]) (hsrc : m.src 0 = 0) (hdst : m.dst 0 = i)
    (hSkeys : (s.access (s.itemFunction it) (t.winD 16)).keys = none) (hDkeys : (s.access (s.itemFunction it) (t.winD 20)).keys = none)
    (hspaces : ∀ k, k ≤ 4 * n → addrSpace (rowAddr (t.winD 16) 0 + k) = addrSpace (winBase (t.winD 16)) ∧
      addrSpace (rowAddr (t.winD 20) i + k) = addrSpace (winBase (t.winD 20))) :
    (s.runAll (scatterAddWork t m) t).doneWith it (t.bytes + 4 * n) ∧ (s.runAll (scatterAddWork t m) t).sameRegisters s ∧
      (s.runAll (scatterAddWork t m) t).mem = (s.store (s.access (s.itemFunction it) (t.winD 20)) (rowAddr (t.winD 20) i)
        (addedWords s (s.itemFunction it) (rowAddr (t.winD 16) 0) (rowAddr (t.winD 20) i) n)).mem := by
  obtain rfl := hruns.id
  have hS := hruns.winD_space 16
  have hD := hruns.winD_space 20
  have hunit := State.addUnit_row hfree.clean hSkeys hDkeys hS hD hspaces rfl hsegs hsrc hdst
  have hzero : 0 ∈ t.unitsLeft := Item.mem_unitsLeft.mpr ⟨by omega, by rw [hnone]; rfl⟩
  have h5 : addrSpace (rowAddr (t.winD 20) i) ≠ 5 := by
    have hstart := (hspaces 0 (Nat.zero_le _)).2
    rw [Nat.add_zero] at hstart
    rw [hstart]
    exact hD
  have hplaced : Placed (fun _ => True) s (s.store (s.access (s.itemFunction t.id) (t.winD 20)) (rowAddr (t.winD 20) i)
      (addedWords s (s.itemFunction t.id) (rowAddr (t.winD 16) 0) (rowAddr (t.winD 20) i) n)) := s.store_placed h5 fun _ _ => trivial
  generalize s.store (s.access (s.itemFunction t.id) (t.winD 20)) (rowAddr (t.winD 20) i)
    (addedWords s (s.itemFunction t.id) (rowAddr (t.winD 16) 0) (rowAddr (t.winD 20) i) n) = v at *
  have hitem : v.item t.id = some t := by
    have hstored := hplaced.stored
    unfold Stored at hstored
    rw [hstored]
    exact hruns.item
  have hbegin : Progress s t (scatterAddWork t m) (m.reads t) (fun _ => True) 0 s :=
    Progress.start (Worked.refl _ s) hruns.item rfl (Nat.le_refl _) rfl rfl rfl rfl
  have hfirst : ∀ k, k ∈ t.unitsLeft → k = 0 := fun k hk => by
    have := (Item.mem_unitsLeft.mp hk).1
    omega
  obtain ⟨u, hrun, hprog, hadded⟩ := State.runAll_progress
    (fun k u => (k = 0 → u = s) ∧ (k = 1 → u.mem = v.mem ∧ ∀ x, u.item t.id = some x → x.bytes = t.bytes + 4 * n)) hruns.live
    (show (scatterAddWork t m).sparesNeeds t (m.reads t) from moveWork_sparesNeeds .scatter t m)
    (fun k u hk hI => ⟨fun h => absurd h (Nat.succ_ne_zero k), fun h => absurd hzero (by rwa [show k = 0 by omega] at hk)⟩)
    (fun k u hk _ hI => by
      obtain rfl := hfirst k hk
      rw [hI.1 rfl]
      exact hfree.unit_free hzero (Progress.start (Worked.refl _ s) hruns.item rfl (Nat.le_refl _) rfl rfl rfl rfl))
    (fun k u hk _ hI => by
      obtain rfl := hfirst k hk
      rw [hI.1 rfl]
      rw [show (scatterAddWork t m).run 0 s = s.addUnit t m 0 from rfl, hunit]
      refine ⟨hplaced.unitFinished t _ 0 _ 0, fun u' htook => ⟨fun h => absurd h Nat.one_ne_zero, fun _ => ⟨?_, fun x hx => ?_⟩⟩⟩
      · unfold Took at htook
        rw [htook]
        rfl
      · rw [htook.item, State.unitFinished_item hitem] at hx
        rw [← Option.some.inj hx])
    hbegin ⟨fun _ => rfl, fun h => absurd h (by decide)⟩
  obtain ⟨hmem, hbytes⟩ := hadded.2 hcount
  obtain ⟨-, -, -, -, -, hworked, -⟩ := hprog.ended
  obtain ⟨y, hy, -⟩ := hprog.item
  have hdone := State.finish_doneWith hy 0
  rw [hbytes y hy, Nat.add_zero] at hdone
  rw [hrun]
  refine ⟨hdone, ?_, hmem⟩
  rw [hworked.rest]
  exact ⟨rfl, rfl, rfl, rfl, rfl, rfl, rfl, rfl, rfl⟩

/-- Settles O25. -/
theorem gatherAndScatterMoveRows : Obligations.GatherAndScatterMoveRows := by
  unfold Obligations.GatherAndScatterMoveRows
  refine ⟨fun s it t o c hmem hruns hadds hnone hown => hruns.indexed hmem hadds hnone hown, ?_⟩
  intro s it t i hruns hadds
  dsimp only
  intro hidx hin hcount hnone hformat hpos hchunk hfault hfree hSkeys hDkeys h2 hspaces _
  have hrows : s.movesOf t = ⟨winDim (t.winD 16) 0, 1, id, fun r => [i].getD r 0⟩ := by
    unfold State.movesOf
    rw [hruns.op, hidx]
    rfl
  have hsegs : (s.movesOf t).segs (winFormat (t.winD 16)) 0 = [(0, 0, winDim (t.winD 16) 0)] := by
    rw [hrows]
    exact chunkSegments_row hpos (by rw [hformat]; exact hchunk)
  obtain ⟨hdone, hregs, hmem⟩ := hruns.scatterAdd hfree hcount hnone hsegs (by rw [hrows]; rfl) (by rw [hrows]; rfl) hSkeys hDkeys hspaces
  have hadd := State.indexed_of_bounds (o := .scatter) (by rw [hruns.id]; exact hfault) (fun j hj => by
    rw [hidx] at hj
    rw [List.mem_singleton.mp hj]
    exact hin)
  rw [hadds, if_pos (by decide)] at hadd
  refine ⟨_, congrArg Host.Outcome.next (hruns.withItem_mod (f := State.indexed .scatter) (by rw [hadd]; exact hregs.1.symm)), ?_⟩
  rw [hadd]
  have hstart := (hspaces 0 (Nat.zero_le _)).2
  rw [Nat.add_zero] at hstart
  have hwritten := State.store_mem_of_plain (s := s) hDkeys (by rw [hstart]; exact hruns.winD_space 20) (by rw [hstart]; exact h2)
    (addedWords s (s.itemFunction it) (rowAddr (t.winD 16) 0) (rowAddr (t.winD 20) i) (winDim (t.winD 16) 0))
  rw [s.access_function] at hwritten
  rw [hwritten] at hmem
  refine ⟨hdone, hregs, fun j hj => ?_, fun x hx => ?_⟩
  · have hkey := spanWithin.hostKey (p := (rowAddr (t.winD 20) i, 4 * winDim (t.winD 16) 0)) (fun k hk => (hspaces k hk).2) (i := 4 * j)
      (by dsimp only; omega) (s.itemFunction it)
    dsimp only at hkey
    have hword := Memory.readBytes_words s.mem (hostKey (s.itemFunction it) (rowAddr (t.winD 20) i)) (fun i_1 =>
      add32 (BitVec.ofNat 32 (leNat (s.mem.readBytes (hostKey (s.itemFunction it) (rowAddr (t.winD 20) i + 4 * i_1)) 4)))
        (BitVec.ofNat 32 (leNat (s.mem.readBytes (hostKey (s.itemFunction it) (rowAddr (t.winD 16) 0 + 4 * i_1)) 4)))) hj
    rw [hmem, hkey]
    unfold addedWords
    rw [hword, leNat_leBytes, ← hkey]
    apply BitVec.eq_of_toNat_eq
    rw [BitVec.toNat_ofNat]
    exact (Nat.mod_mod _ _).trans (Nat.mod_eq_of_lt (BitVec.isLt _))
  · rw [hmem, Memory.read_writeBytes_outside _ _ (by rw [addedWords_length]; exact hx)]

end Sys2Proof.Machine
end

section
/-!
Register writes through BAR0 (R345, R346): which page an offset names, and what each register of a page that answers does with a value.
-/
namespace Sys2Proof.Machine

/-! ### Pages that take a write -/

/-- A page that stands at its offset and takes the writes of its registers. -/
structure State.Takes (s : State) (pg : Nat) (id : PageId) : Prop where
  page : pageOf pg = some id
  present : s.pagePresent id = true
  answers : s.pageAnswers id = true

section
variable {s : State} {fn : Nat} {v : W64} (hhost : s.hostInterfaceUp = true) (hfn : s.functionHere fn = true)
include hhost hfn

theorem exec_registerWrite4 {off : Nat} (hoff : off % 4 = 0) : exec (.registerWrite fn off 4 v) s = .next (s.regWrite fn off (lowWord v)) := by
  refine congrArg Host.Outcome.next ?_
  unfold State.barWrite
  simp [hhost, hfn, wholeUnit, hoff]

theorem exec_registerWrite8 {off : Nat} (hoff : off % 8 = 0) :
    exec (.registerWrite fn off 8 v) s = .next ((s.regWrite fn off (lowWord v)).regWrite fn (off + 4) (highWord v)) := by
  refine congrArg Host.Outcome.next ?_
  unfold State.barWrite
  simp [hhost, hfn, wholeUnit, hoff]

end

section
variable {s : State} {pg : Nat} {id : PageId} (h : s.Takes pg id) {fn rel : Nat} (hrel : rel < 4096)
include h hrel

theorem State.Takes.regWrite_block (hblock : 0x040 ≤ rel ∨ rel = 0x010) (w : W32) :
    s.regWrite fn (4096 * pg + rel) w = (s.blockWrite id fn rel w).carryReset := by
  have htaken : s.writeTaken id rel = true := by
    unfold State.writeTaken
    rw [h.present, h.answers]
    rfl
  unfold State.regWrite
  rw [show (4096 * pg + rel) / 4096 = pg by omega, h.page, show (4096 * pg + rel) % 4096 = rel by omega]
  dsimp only
  rw [htaken, if_neg (by decide), if_neg (by omega)]

theorem State.Takes.regWrite_header (hhead : rel < 0x040) (hctrl : rel ≠ 0x010) (w : W32) : s.regWrite fn (4096 * pg + rel) w = s.headerWrite pg rel w := by
  have htaken : s.writeTaken id rel = true := by
    unfold State.writeTaken
    rw [h.present, h.answers]
    rfl
  unfold State.regWrite
  rw [show (4096 * pg + rel) / 4096 = pg by omega, h.page, show (4096 * pg + rel) % 4096 = rel by omega]
  dsimp only
  rw [htaken, if_neg (by decide), if_pos ⟨hhead, hctrl⟩]

variable {v : W64} (hhost : s.hostInterfaceUp = true) (hfn : s.functionHere fn = true) (hunit : rel % 4 = 0) (hblock : 0x040 ≤ rel ∨ rel = 0x010)
include hhost hfn hunit hblock

/-- A write of a block register that needs no reset of the module. -/
theorem State.Takes.becomes {t : State} (hwrite : s.blockWrite id fn rel (lowWord v) = t) (hcalm : t.mod.resetDue = false) :
    exec (.registerWrite fn (4096 * pg + rel) 4 v) s = .next t := by
  rw [exec_registerWrite4 hhost hfn (by omega), h.regWrite_block hrel hblock, hwrite, State.carryReset_of_calm hcalm]

end

/-! ### The pages of a module whose hall `h` is up -/

section
variable {s : State} (hhost : s.hostInterfaceUp = true)

theorem State.ready_of_hallUp {s : State} {h : Nat} (hup : s.hallUp h = true) : s.ready = true ∧ s.hallHere h = true := by
  unfold State.hallUp at hup
  exact Bool.and_eq_true_iff.mp hup

include hhost

theorem State.takes_early {pg : Nat} {id : PageId} (hpage : pageOf pg = some id) (hpresent : s.pagePresent id = true) (hearly : id.early = true) :
    s.Takes pg id := ⟨hpage, hpresent, by simp [State.pageAnswers, hhost, hearly]⟩

theorem State.takes_ready (hready : s.ready = true) {pg : Nat} {id : PageId} (hpage : pageOf pg = some id) (hpresent : s.pagePresent id = true) :
    s.Takes pg id := ⟨hpage, hpresent, by simp [State.pageAnswers, hhost, hready]⟩

/-- The seven pages of a hall. -/
theorem State.takes_hall {h : Nat} (hup : s.hallUp h = true) : s.Takes (pgTreadle h) (.treadle h) ∧ s.Takes (pgGallery h) (.gallery h) ∧
    s.Takes (pgLedger h) (.ledger h) ∧ s.Takes (pgStream h) (.stream h) ∧ s.Takes (pgWindow h) (.window h) ∧ s.Takes (pgKeeper h) (.keeper h) := by
  obtain ⟨hready, hhere⟩ := State.ready_of_hallUp hup
  have hlt := State.hall_lt_of_up hup
  have hpages : pageOf (pgTreadle h) = some (.treadle h) ∧ pageOf (pgGallery h) = some (.gallery h) ∧ pageOf (pgLedger h) = some (.ledger h) ∧
      pageOf (pgStream h) = some (.stream h) ∧ pageOf (pgWindow h) = some (.window h) ∧ pageOf (pgKeeper h) = some (.keeper h) := by
    interval_cases h <;> exact ⟨rfl, rfl, rfl, rfl, rfl, rfl⟩
  obtain ⟨htreadle, hgallery, hledger, hstream, hwindow, hkeeper⟩ := hpages
  exact ⟨State.takes_ready hhost hready htreadle hhere, State.takes_ready hhost hready hgallery hhere, State.takes_ready hhost hready hledger hhere,
    State.takes_ready hhost hready hstream hhere, State.takes_ready hhost hready hwindow hhere, State.takes_ready hhost hready hkeeper hhere⟩

theorem State.takes_flight (hready : s.ready = true) {p : Nat} (hport : s.flightAbsent p = false) : s.Takes (pgFlight p) (.flight p) := by
  have hlt : p < 12 := by
    unfold State.flightAbsent at hport
    simp only [Bool.or_eq_false_iff, decide_eq_false_iff_not] at hport
    omega
  refine State.takes_ready hhost hready ?_ (by simp [State.pagePresent, hport])
  interval_cases p <;> rfl

end

end Sys2Proof.Machine
end

section
/-!
What each register write of R345 does, page by page.
-/
namespace Sys2Proof.Machine

/-! ### No register but the module's own touches its control (R354) -/

theorem State.refuse_mod (s : State) (p : Nat) (v : W32) : (s.refuse p v).mod = s.mod := by rw [State.refuse_rest]
theorem State.fault_mod (s : State) (p : Nat) (st : Status) (i0 i1 : W32) : (s.fault p st i0 i1).mod = s.mod := by rw [State.fault_rest]
theorem State.event_mod (s : State) (p b : Nat) : (s.event p b).mod = s.mod := by rw [State.event_rest]

theorem State.levelWrite_resetDue (s : State) (v : W32) : (s.levelWrite v).mod.resetDue = s.mod.resetDue := by
  unfold State.levelWrite
  split
  · rw [State.refuse_mod]
  · rfl

theorem State.noteSensor_mod (s : State) (n : Nat) : (s.noteSensor n).mod = s.mod := by
  unfold State.noteSensor
  split
  · rfl
  · rfl

theorem State.trip_mod (s : State) (n : Nat) : (s.trip n).mod = s.mod := by
  have hevent : (((s.noteSensor n).setCmp n (s.cmpBits n ||| 8)).event pgNewel n).mod = s.mod := (State.event_mod _ _ _).trans (s.noteSensor_mod n)
  unfold State.trip
  dsimp only
  split
  · exact hevent
  · exact hevent

theorem State.timeTrip_mod (s : State) (n : Nat) : (s.timeTrip n).mod = s.mod := by
  have htrip := ({ s with newel := { s.newel with spent := s.newel.spent ||| (1#8 <<< n) } } : State).trip_mod n
  unfold State.timeTrip
  dsimp only
  split
  · split
    · split
      · exact htrip
      · split
        · exact htrip
        · exact htrip
    · exact htrip
  · rfl

theorem State.cmpCtlWrite_mod (s : State) (n : Nat) (v : W32) : (s.cmpCtlWrite n v).mod = s.mod := by
  unfold State.cmpCtlWrite
  split
  · exact s.fault_mod ..
  · exact State.timeTrip_mod (s.setCmp n _) n

theorem State.ctxBaseWrite_mod (s : State) (h : Nat) (v : W32) : (s.ctxBaseWrite h v).mod = s.mod := by
  unfold State.ctxBaseWrite
  split
  · rfl
  · exact s.refuse_mod ..

theorem State.knotOwnerWrite_mod (s : State) (h : Nat) (v : W32) : (s.knotOwnerWrite h v).mod = s.mod := by
  unfold State.knotOwnerWrite
  dsimp only
  split
  · rfl
  · exact s.refuse_mod ..

theorem State.replaceCache_mod (s : State) (h : Nat) (ls : List CacheLine) : (s.replaceCache h ls).mod = s.mod := by
  rw [State.replaceCache_rest]

theorem State.cacheCtlWrite_mod (s : State) (h : Nat) (v : W32) : (s.cacheCtlWrite h v).mod = s.mod := by
  have hshare : (s.shareWrite h v).mod = s.mod := by
    unfold State.shareWrite
    dsimp only
    split
    · exact s.refuse_mod ..
    · split
      · exact State.replaceCache_mod (s.zeroCovered h _) h _
      · split
        · exact State.replaceCache_mod (s.zeroCovered h _) h _
        · rfl
  unfold State.cacheCtlWrite
  dsimp only
  split
  · exact (State.replaceCache_mod _ _ _).trans hshare
  · exact hshare

theorem State.ledgerCapWrite_mod (s : State) (h : Nat) (v : W32) : (s.ledgerCapWrite h v).mod = s.mod := by
  unfold State.ledgerCapWrite
  dsimp only
  split
  · rfl
  · exact s.refuse_mod ..

theorem State.targetWrite_mod (s : State) (h : Nat) (v : W32) : (s.targetWrite h v).mod = s.mod := by
  unfold State.targetWrite
  dsimp only
  split
  · rfl
  · exact s.refuse_mod ..

theorem State.keeperCtlWrite_mod (s : State) (h : Nat) (v : W32) : (s.keeperCtlWrite h v).mod = s.mod := by
  unfold State.keeperCtlWrite
  dsimp only
  split
  · exact (State.leaveIdle_emits _ h).mod
  · rfl

theorem State.portOff_mod {s : State} {p : Nat} (hdown : s.portUp p = false) : (s.portOff p).mod = s.mod := by
  unfold State.portOff
  rw [hdown]
  rfl

theorem State.flightEnable_mod {s : State} {p : Nat} (hdown : s.portUp p = false) (v : W32) : (s.flightEnable p v).mod = s.mod := by
  have hflight : (s.modFlight p fun f => { f with enable := v.getLsbD 0, mode := v.getLsbD 1 }).portUp p = false := by
    unfold State.portUp at hdown ⊢
    rw [State.modFlight_flight, if_pos rfl]
    exact hdown
  unfold State.flightEnable
  dsimp only
  split
  · rfl
  · split
    · exact s.refuse_mod ..
    · split
      · split
        · rfl
        · rfl
      · split
        · exact State.portOff_mod hflight
        · rfl

theorem State.progLoad_mod (s : State) (index : Nat) : (s.progLoad index).mod = s.mod := by
  unfold State.progLoad
  dsimp only
  split
  · exact s.fault_mod ..
  · split
    · exact s.fault_mod ..
    · split
      · rfl
      · exact s.fault_mod ..

theorem State.progCtlWrite_mod (s : State) (v : W32) : (s.progCtlWrite v).mod = s.mod := by
  unfold State.progCtlWrite
  dsimp only
  split
  · rfl
  · split
    · exact s.fault_mod ..
    · split
      · exact State.progLoad_mod _ _
      · rfl

theorem State.ringCommit_mod (s : State) (h : Nat) : (s.ringCommit h).mod = s.mod := by
  unfold State.ringCommit
  dsimp only
  split
  · rfl
  · exact s.refuse_mod ..

theorem State.ringEnable_mod (s : State) (h fn : Nat) : (s.ringEnable h fn).mod = s.mod := by
  unfold State.ringEnable
  dsimp only
  split
  · rfl
  · exact s.refuse_mod ..

theorem State.diagEnter_mod (s : State) (h : Nat) (v : W32) : (s.diagEnter h v).mod = s.mod := by
  unfold State.diagEnter
  split
  · rfl
  · split
    · exact s.fault_mod ..
    · split
      · change (s.zeroHallStores h).mod = s.mod
        rw [State.zeroHallStores_rest]
        exact State.replaceCache_mod _ _ _
      · exact s.refuse_mod ..

theorem State.flightAdmit_mod (s : State) (p : Nat) : (s.flightAdmit p).mod = s.mod := by
  unfold State.flightAdmit
  split
  · rfl
  · rfl

/-! ### The treadle page's registers (R356–R359)

The write is named before the match is left to reduction: the kernel then compares it with no arm that it passes over. -/

theorem State.treadleWrite_ctxBase (s : State) (h fn : Nat) (v : W32) {rel : Nat} (hrel : rel = 0x040) :
    s.treadleWrite h fn rel v = s.ctxBaseWrite h v := by
  unfold State.treadleWrite
  rw [if_neg (by omega)]
  split
  case h_2 => rfl
  all_goals contradiction

theorem State.treadleWrite_ringSel (s : State) (h fn : Nat) (v : W32) : s.treadleWrite h fn 0x048 v = s.ringSelect h v := by
  unfold State.treadleWrite
  rw [if_neg (by decide)]
  generalize s.ringSelect h v = t
  rfl

theorem State.treadleWrite_ringCmd (s : State) (h fn : Nat) (v : W32) : s.treadleWrite h fn 0x04C v = s.ringCmdWrite h fn v := by
  unfold State.treadleWrite
  rw [if_neg (by decide)]
  generalize s.ringCmdWrite h fn v = t
  rfl

theorem State.treadleWrite_knotOwner (s : State) (h fn : Nat) (v : W32) : s.treadleWrite h fn 0x064 v = s.knotOwnerWrite h v := by
  unfold State.treadleWrite
  rw [if_neg (by decide)]
  generalize s.knotOwnerWrite h v = t
  rfl

theorem State.treadleWrite_ctrl (s : State) (h fn : Nat) (v : W32) : s.treadleWrite h fn 0x010 v = s.treadleCtrlWrite h v := by
  unfold State.treadleWrite
  rw [if_neg (by decide)]
  generalize s.treadleCtrlWrite h v = t
  rfl

theorem State.treadleWrite_knotSel (s : State) (h fn : Nat) (v : W32) :
    s.treadleWrite h fn 0x060 v = s.modTreadle h fun t => { t with knotSel := v.setWidth 8 } := by
  unfold State.treadleWrite
  rw [if_neg (by decide)]
  generalize (s.modTreadle h fun t => { t with knotSel := v.setWidth 8 }) = t
  rfl

theorem State.treadleWrite_patLen (s : State) (h fn : Nat) (v : W32) : s.treadleWrite h fn 0x07C v =
    if fieldNat v 0 16 = 0 then s.refuse (pgTreadle h) v else s.modTreadle h fun t => { t with patLen := v.setWidth 16 } := by
  unfold State.treadleWrite
  rw [if_neg (by decide)]
  generalize (if fieldNat v 0 16 = 0 then s.refuse (pgTreadle h) v else s.modTreadle h fun t => { t with patLen := v.setWidth 16 }) = t
  rfl

theorem State.treadleWrite_patSrcLow (s : State) (h fn : Nat) (v : W32) :
    s.treadleWrite h fn 0x070 v = s.stageLow (4096 * pgTreadle h + 0x070) v := by
  unfold State.treadleWrite
  rw [if_neg (by decide)]
  generalize s.stageLow (4096 * pgTreadle h + 0x070) v = t
  rfl

theorem State.treadleWrite_patSrcHigh {s u : State} {h : Nat} {v : W32} {w : W64}
    (hjoin : s.joinHigh (4096 * pgTreadle h + 0x070) (s.hall h).treadle.patSrc v = (w, u)) (fn : Nat) {rel : Nat} (hrel : rel = 0x074) :
    s.treadleWrite h fn rel v =
      if imageAddress w = true then u.modTreadle h fun t => { t with patSrc := w } else u.refuse (pgTreadle h) v := by
  unfold State.treadleWrite
  rw [if_neg (by omega)]
  split
  case h_9 => rw [hjoin]
  all_goals contradiction

theorem State.ringCmdWrite_commit (s : State) (h fn : Nat) : s.ringCmdWrite h fn 1 = s.ringCommit h := rfl
theorem State.ringCmdWrite_enable (s : State) (h fn : Nat) : s.ringCmdWrite h fn 2 = s.ringEnable h fn := rfl
theorem State.treadleCtrlWrite_enter (s : State) (h : Nat) : s.treadleCtrlWrite h 1 = s.diagEnter h 1 := rfl

/-! ### The commands of the pages (R345) -/

section
variable {s : State} {fn : Nat} {v : W64} (hhost : s.hostInterfaceUp = true) (hfn : s.functionHere fn = true) (hcalm : s.mod.resetDue = false)

/-- A write of a register that has a command of its own does what the command does. -/
theorem State.Takes.command {pg rel : Nat} {id : PageId} {c : Instr} (h : s.Takes pg id) (hhost : s.hostInterfaceUp = true) (hfn : s.functionHere fn = true)
    (hcalm : s.mod.resetDue = false) (hrel : rel < 4096) (hunit : rel % 4 = 0) (hblock : 0x040 ≤ rel ∨ rel = 0x010) {t : State}
    (hwrite : s.blockWrite id fn rel (lowWord v) = t) (hmod : t.mod = s.mod) (hexec : exec c s = .next t) :
    exec (.registerWrite fn (4096 * pg + rel) 4 v) s = exec c s :=
  (h.becomes hrel hhost hfn hunit hblock hwrite (by rw [hmod]; exact hcalm)).trans hexec.symm

include hhost hfn hcalm

theorem registerWrite_treadle {h : Nat} (hup : s.hallUp h = true) :
    exec (.registerWrite fn (4096 * pgTreadle h + 0x040) 4 v) s = exec (.ctxBaseWrite h (lowWord v)) s ∧
    exec (.registerWrite fn (4096 * pgTreadle h + 0x048) 4 v) s = exec (.ringSelect h (lowWord v)) s ∧
    exec (.registerWrite fn (4096 * pgTreadle h + 0x064) 4 v) s = exec (.knotOwnerWrite h (lowWord v)) s ∧
    (lowWord v = 1 → exec (.registerWrite fn (4096 * pgTreadle h + 0x04C) 4 v) s = exec (.ringCommit h) s ∧
      exec (.registerWrite fn (4096 * pgTreadle h + 0x010) 4 v) s = exec (.diagEnter h (lowWord v)) s) ∧
    (lowWord v = 2 → exec (.registerWrite fn (4096 * pgTreadle h + 0x04C) 4 v) s = exec (.ringEnable h fn) s) := by
  have htakes := (State.takes_hall hhost hup).1
  have honHall := fun f => s.onHall_of_up hhost hup f
  refine ⟨?_, ?_, ?_, fun hone => ⟨?_, ?_⟩, fun htwo => ?_⟩
  · exact htakes.command hhost hfn hcalm (by decide) rfl (.inl (by decide)) (s.treadleWrite_ctxBase h fn (lowWord v) rfl) (s.ctxBaseWrite_mod h _)
      (congrArg Host.Outcome.next (honHall fun s => s.ctxBaseWrite h (lowWord v)))
  · exact htakes.command hhost hfn hcalm (by decide) rfl (.inl (by decide)) (s.treadleWrite_ringSel h fn (lowWord v)) rfl (congrArg _ (honHall _))
  · exact htakes.command hhost hfn hcalm (by decide) rfl (.inl (by decide)) (s.treadleWrite_knotOwner h fn (lowWord v)) (s.knotOwnerWrite_mod h _)
      (congrArg _ (honHall _))
  · exact htakes.command hhost hfn hcalm (by decide) rfl (.inl (by decide)) ((s.treadleWrite_ringCmd h fn (lowWord v)).trans
      ((congrArg (s.ringCmdWrite h fn) hone).trans (s.ringCmdWrite_commit h fn))) (s.ringCommit_mod h) (congrArg _ (honHall _))
  · rw [hone]
    refine htakes.command hhost hfn hcalm (by decide) rfl (.inr rfl) (t := s.diagEnter h 1) ?_ (s.diagEnter_mod h _) (congrArg _ (honHall _))
    rw [hone]
    exact (s.treadleWrite_ctrl h fn 1).trans (s.treadleCtrlWrite_enter h)
  · exact htakes.command hhost hfn hcalm (by decide) rfl (.inl (by decide)) ((s.treadleWrite_ringCmd h fn (lowWord v)).trans
      ((congrArg (s.ringCmdWrite h fn) htwo).trans (s.ringCmdWrite_enable h fn))) (s.ringEnable_mod h fn)
      (congrArg _ ((honHall _).trans (if_pos hfn)))

/-- The commands of a hall's other pages. -/
theorem registerWrite_hall {h : Nat} (hup : s.hallUp h = true) :
    exec (.registerWrite fn (4096 * pgGallery h + 0x040) 4 v) s = exec (.cacheShareSet h (lowWord v)) s ∧
    exec (.registerWrite fn (4096 * pgLedger h + 0x040) 4 v) s = exec (.ldgCapWrite h (lowWord v)) s ∧
    exec (.registerWrite fn (4096 * pgKeeper h + 0x040) 4 v) s = exec (.rkTargetWrite h (lowWord v)) s ∧
    exec (.registerWrite fn (4096 * pgKeeper h + 0x050) 4 v) s = exec (.rkMonCtlWrite h (lowWord v)) s ∧
    (lowWord v = 4 → exec (.registerWrite fn (4096 * pgWindow h + 0x044) 4 v) s = exec (.windowFetch h) s) := by
  obtain ⟨-, hgallery, hledger, -, hwindow, hkeeper⟩ := State.takes_hall hhost hup
  have honHall := fun f => s.onHall_of_up hhost hup f
  have hkeeps : (s.hostInterfaceUp && s.hallUp h) = true := by rw [hhost, hup]; rfl
  refine ⟨?_, ?_, ?_, ?_, fun hfour => ?_⟩
  · exact hgallery.command hhost hfn hcalm (by decide) rfl (.inl (by decide)) rfl (s.cacheCtlWrite_mod h (lowWord v)) (congrArg _ (honHall _))
  · exact hledger.command hhost hfn hcalm (by decide) rfl (.inl (by decide)) rfl (s.ledgerCapWrite_mod h (lowWord v)) (congrArg _ (honHall _))
  · exact hkeeper.command hhost hfn hcalm (by decide) rfl (.inl (by decide)) rfl (s.targetWrite_mod h (lowWord v)) (congrArg _ (if_pos hkeeps))
  · exact hkeeper.command hhost hfn hcalm (by decide) rfl (.inl (by decide)) (t := s.monitorWrite h (lowWord v)) rfl rfl (congrArg _ (if_pos hkeeps))
  · refine hwindow.command hhost hfn hcalm (by decide) rfl (.inl (by decide)) (t := s.windowFetch h) ?_ rfl (congrArg _ (honHall _))
    change s.windowCmdWrite h (lowWord v) = _
    rw [hfour]
    rfl

/-- The commands of the module's pages. -/
theorem registerWrite_module (hready : s.ready = true) {n : Nat} (hn : n < 8) :
    exec (.registerWrite fn (4096 * pgModule + 0x040) 4 v) s = exec (.levelNegotiate (lowWord v)) s ∧
    exec (.registerWrite fn (4096 * pgModule + 0x020) 4 v) s = exec (.eventClear pgModule (lowWord v)) s ∧
    exec (.registerWrite fn (4096 * pgNewel + (0x050 + 4 * n)) 4 v) s = exec (.nwlCmpCtlWrite n (lowWord v)) s ∧
    (s.selvPresent 12 = true → exec (.registerWrite fn (4096 * pgSelvedge 12 + 0x048) 4 v) s = exec (.selvedgeProgLoad (lowWord v)) s) := by
  have hmodule : s.Takes pgModule .module := State.takes_early hhost rfl rfl rfl
  have hnewel : s.Takes pgNewel .newel := State.takes_ready hhost hready rfl rfl
  refine ⟨?_, ?_, ?_, fun hselv => ?_⟩
  · exact (hmodule.becomes (by decide) hhost hfn rfl (.inl (by decide)) (t := s.levelWrite (lowWord v)) rfl
      ((s.levelWrite_resetDue _).trans hcalm)).trans (congrArg Host.Outcome.next (if_pos hmodule.answers).symm)
  · rw [exec_registerWrite4 hhost hfn (by decide), hmodule.regWrite_header (by decide) (by decide) (by decide)]
    refine congrArg Host.Outcome.next (if_pos ?_).symm
    rw [hmodule.answers]
    rfl
  · refine hnewel.command hhost hfn hcalm (by omega) (by omega) (.inl (by omega)) ?_ (s.cmpCtlWrite_mod n (lowWord v)) (congrArg _ (if_pos ?_))
    · change s.newelWrite (0x050 + 4 * n) (lowWord v) = _
      unfold State.newelWrite
      rw [if_pos (by omega), show (0x050 + 4 * n - 0x050) / 4 = n by omega]
    · rw [hnewel.answers, decide_eq_true hn]
      rfl
  · have hpage : s.Takes (pgSelvedge 12) (.selvedge 12) := State.takes_ready hhost hready rfl hselv
    exact hpage.command hhost hfn hcalm (by decide) rfl (.inl (by decide)) (t := s.progCtlWrite (lowWord v)) rfl (s.progCtlWrite_mod _)
      (congrArg _ (if_pos hready))

/-- The commands of a flight's page. -/
theorem registerWrite_flight (hready : s.ready = true) {p : Nat} (hport : s.flightAbsent p = false) :
    (s.portUp p = false → exec (.registerWrite fn (4096 * pgFlight p + 0x040) 4 v) s = exec (.flightEnable p (lowWord v)) s) ∧
    ((lowWord v).getLsbD 0 = true → (lowWord v).getLsbD 1 = false →
      exec (.registerWrite fn (4096 * pgFlight p + 0x054) 4 v) s = exec (.flightAdmit p) s) := by
  have hpage := State.takes_flight hhost hready hport
  refine ⟨fun hdown => ?_, fun hfirst hsecond => ?_⟩
  · exact hpage.command hhost hfn hcalm (by decide) rfl (.inl (by decide)) (t := s.flightEnable p (lowWord v)) rfl (State.flightEnable_mod hdown _) rfl
  · refine hpage.command hhost hfn hcalm (by decide) rfl (.inl (by decide)) (t := s.flightAdmit p) ?_ (s.flightAdmit_mod p) rfl
    have hreject : (lowWord v)[1] = false := hsecond
    simp [State.blockWrite, State.flightWrite, hfirst, hreject]

end

end Sys2Proof.Machine
end

section
/-!
The registers that store their fields (R345, R346).
-/
namespace Sys2Proof.Machine

theorem joinWords_halves (v : W64) : joinWords (lowWord v) (highWord v) = v := by
  unfold joinWords lowWord highWord
  ext i hi
  by_cases hlow : i < 32
  · simp [hlow, BitVec.getLsbD_eq_getElem hi]
  · have hback : 32 + (i - 32) = i := by omega
    simp [hlow, hback, show i - 32 < 32 by omega, BitVec.getLsbD_eq_getElem hi]

/-- What a table holds at an index just put there. -/
theorem Table.find_inserted {α : Type} (t : Table α) (i : Nat) (v : α) : (Table.insert t i v).find? (fun p => p.1 == i) = some (i, v) := by
  induction t with
  | nil => simp [Table.insert]
  | cons p t ih =>
    obtain ⟨k, w⟩ := p
    rw [Table.insert]
    split
    next hlt =>
      rw [List.find?_cons, beq_eq_false_iff_ne.mpr (Nat.ne_of_lt hlt)]
      exact ih
    next =>
      split
      next => simp
      next => simp

/-- A 64-bit register written whole takes both halves. -/
theorem State.stageLow_joinHigh (s : State) (off : Nat) (old : W64) (v : W64) : (s.stageLow off (lowWord v)).joinHigh off old (highWord v) =
    (v, { s with lowHalf := (s.lowHalf.insert off (lowWord v)).erase off }) := by
  unfold State.joinHigh State.stageLow
  dsimp only
  rw [Table.find_inserted]
  dsimp only
  rw [joinWords_halves]

section
variable {s : State} {fn : Nat} {v : W64} (hhost : s.hostInterfaceUp = true) (hfn : s.functionHere fn = true) (hcalm : s.mod.resetDue = false)
include hhost hfn hcalm

/-- A register whose write is stored or refused. -/
theorem State.Takes.stores {pg rel pg' : Nat} {id : PageId} {c : Prop} [Decidable c] {t : State} (h : s.Takes pg id) (hrel : rel < 4096) (hunit : rel % 4 = 0)
    (hblock : 0x040 ≤ rel) (hwrite : s.blockWrite id fn rel (lowWord v) = if c then t else s.refuse pg' (lowWord v)) (hmod : t.mod.resetDue = false) :
    exec (.registerWrite fn (4096 * pg + rel) 4 v) s = .next (if c then t else s.refuse pg' (lowWord v)) := by
  refine h.becomes hrel hhost hfn hunit (.inl hblock) hwrite ?_
  split
  · exact hmod
  · rw [State.refuse_mod]
    exact hcalm

/-- The registers of the module's pages. -/
theorem registerWrite_fields :
    ((lowWord v).getLsbD 11 = false → exec (.registerWrite fn (4096 * pgModule + 0x05C) 4 v) s = .next
      { s with mod := { s.mod with vector := (lowWord v).setWidth 11, function := false, vectorEnable := (lowWord v).getLsbD 31 } }) ∧
    exec (.registerWrite fn (4096 * pgHif + 0x048) 4 v) s = .next (if 1 ≤ fieldNat (lowWord v) 0 10 ∧ fieldNat (lowWord v) 0 10 ≤ 1000 then
      { s with hif := { s.hif with timeoutMs := (lowWord v).setWidth 10 } } else s.refuse pgHif (lowWord v)) ∧
    exec (.registerWrite fn (4096 * pgHif + 0x04C) 4 v) s = .next (if fieldNat (lowWord v) 0 7 ≤ 71 then
      { s with hif := { s.hif with bar4f0 := ⟨(lowWord v).setWidth 7, field (lowWord v) 8 3, (lowWord v).getLsbD 31⟩ } }
      else s.refuse pgHif (lowWord v)) ∧
    exec (.registerWrite fn (4096 * pgHif + 0x050) 4 v) s = .next (if fieldNat (lowWord v) 0 7 ≤ 71 then
      { s with hif := { s.hif with bar4f1 := ⟨(lowWord v).setWidth 7, field (lowWord v) 8 3, (lowWord v).getLsbD 31⟩ } }
      else s.refuse pgHif (lowWord v)) := by
  have hmodule : s.Takes pgModule .module := State.takes_early hhost rfl rfl rfl
  have hhif : s.Takes pgHif .hif := State.takes_early hhost rfl rfl rfl
  refine ⟨fun hfunction => ?_, ?_, ?_, ?_⟩
  · refine hmodule.becomes (by decide) hhost hfn rfl (.inl (by decide)) ?_ hcalm
    change s.moduleWrite 0x05C (lowWord v) = _
    unfold State.moduleWrite
    simp only [hfunction, Bool.false_and, Bool.false_eq_true, if_false]
  · exact hhif.stores hhost hfn hcalm (by decide) rfl (by decide) rfl hcalm
  · refine hhif.stores hhost hfn hcalm (by decide) rfl (by decide) ?_ hcalm
    change s.bar4Write 0 (lowWord v) = _
    unfold State.bar4Write
    simp only [if_true, gt_iff_lt, ← Nat.not_le, ite_not]
  · refine hhif.stores hhost hfn hcalm (by decide) rfl (by decide) ?_ hcalm
    change s.bar4Write 1 (lowWord v) = _
    unfold State.bar4Write
    simp only [Nat.one_ne_zero, if_false, gt_iff_lt, ← Nat.not_le, ite_not]

/-- The owner's words are taken once (R324). -/
theorem registerWrite_owner (hunset : s.sec.ownerSet = false) {k : Nat} (hk : k < 12) :
    exec (.registerWrite fn (4096 * pgSecurity + (0x080 + 4 * k)) 4 v) s = .next
      { s with sec := { s.sec with owner := setField s.sec.owner (32 * k) 32 (lowWord v), ownerSet := k == 11 } } := by
  have hsec : s.Takes pgSecurity .security := State.takes_early hhost rfl rfl rfl
  refine hsec.becomes (by omega) hhost hfn (by omega) (.inl (by omega)) ?_ hcalm
  change s.securityWrite (0x080 + 4 * k) (lowWord v) = _
  unfold State.securityWrite
  have hlast : (0x080 + 4 * k == 0x0AC) = (k == 11) := by
    rw [Bool.eq_iff_iff, beq_iff_eq, beq_iff_eq]
    omega
  rw [if_pos (by omega), hunset, if_neg (by decide), hlast, show 8 * (0x080 + 4 * k - 0x080) = 32 * k by omega]

section
variable (hready : s.ready = true)
include hready

theorem registerWrite_limit : exec (.registerWrite fn (4096 * pgPower + 0x040) 4 v) s = .next
    (if 3000 ≤ fieldNat (lowWord v) 0 13 ∧ fieldNat (lowWord v) 0 13 ≤ 4200 ∧ fieldNat (lowWord v) 0 13 % 50 = 0 then
      { s with power := { s.power with limit := (lowWord v).setWidth 13 } } else s.refuse pgPower (lowWord v)) := by
  have hpower : s.Takes pgPower .power := State.takes_ready hhost hready rfl rfl
  exact hpower.stores hhost hfn hcalm (by decide) rfl (by decide) rfl hcalm

theorem registerWrite_coord : exec (.registerWrite fn (4096 * pgExpress + 0x040) 4 v) s = .next
    (if ((List.range 12).all fun q => (s.flight q).link == .disabled) ∧
        ([0, 4, 8].all fun b => decide (fieldNat (lowWord v) b 4 ≤ fieldNat (lowWord v) (16 + b) 4)) then
      { s with xprCoord := lowWord v &&& 0x1FFF0FFF } else s.refuse pgExpress (lowWord v)) := by
  have hexpress : s.Takes pgExpress .express := State.takes_ready hhost hready rfl rfl
  refine hexpress.stores hhost hfn hcalm (by decide) rfl (by decide) ?_ hcalm
  change s.coordWrite (lowWord v) = _
  unfold State.coordWrite
  simp only [List.all_cons, List.all_nil, Bool.and_true, Bool.and_eq_true, and_assoc, Nat.add_zero]

/-- A register that is only read stays (R345). -/
theorem registerWrite_readOnly : ∀ x ∈ [(pgModule, 0x044), (pgModule, 0x048), (pgModule, 0x050), (pgNewel, 0x040), (pgPower, 0x044),
    (pgSecurity, 0x044), (pgHif, 0x040)], exec (.registerWrite fn (4096 * x.1 + x.2) 4 v) s = .next s := by
  have hmodule : s.Takes pgModule .module := State.takes_early hhost rfl rfl rfl
  intro x hx
  simp only [List.mem_cons, List.not_mem_nil, or_false] at hx
  obtain rfl | rfl | rfl | rfl | rfl | rfl | rfl := hx
  · exact hmodule.becomes (by decide) hhost hfn rfl (.inl (by decide)) rfl hcalm
  · exact hmodule.becomes (by decide) hhost hfn rfl (.inl (by decide)) rfl hcalm
  · exact hmodule.becomes (by decide) hhost hfn rfl (.inl (by decide)) rfl hcalm
  · exact (State.takes_ready hhost hready rfl rfl : s.Takes pgNewel .newel).becomes (by decide) hhost hfn rfl (.inl (by decide)) rfl hcalm
  · exact (State.takes_ready hhost hready rfl rfl : s.Takes pgPower .power).becomes (by decide) hhost hfn rfl (.inl (by decide)) rfl hcalm
  · exact (State.takes_early hhost rfl rfl rfl : s.Takes pgSecurity .security).becomes (by decide) hhost hfn rfl (.inl (by decide)) rfl hcalm
  · exact (State.takes_early hhost rfl rfl rfl : s.Takes pgHif .hif).becomes (by decide) hhost hfn rfl (.inl (by decide)) rfl hcalm

end

section
variable {h : Nat} (hup : s.hallUp h = true)
include hup

/-- The fields of a hall's pages. -/
theorem registerWrite_hallFields :
    exec (.registerWrite fn (4096 * pgTreadle h + 0x060) 4 v) s = .next (s.modTreadle h fun t => { t with knotSel := (lowWord v).setWidth 8 }) ∧
    exec (.registerWrite fn (4096 * pgTreadle h + 0x07C) 4 v) s = .next (if fieldNat (lowWord v) 0 16 = 0 then s.refuse (pgTreadle h) (lowWord v)
      else s.modTreadle h fun t => { t with patLen := (lowWord v).setWidth 16 }) ∧
    exec (.registerWrite fn (4096 * pgStream h + 0x040) 4 v) s = .next (s.modHall h fun hl => { hl with strSel := (lowWord v).setWidth 12 }) ∧
    exec (.registerWrite fn (4096 * pgWindow h + 0x040) 4 v) s = .next (s.modHall h fun hl => { hl with winIndex := (lowWord v).setWidth 16 }) ∧
    exec (.registerWrite fn (4096 * pgKeeper h + 0x044) 4 v) s = .next (s.keeperCtlWrite h (lowWord v)) := by
  obtain ⟨htreadle, -, -, hstream, hwindow, hkeeper⟩ := State.takes_hall hhost hup
  refine ⟨?_, ?_, ?_, ?_, ?_⟩
  · exact htreadle.becomes (by decide) hhost hfn rfl (.inl (by decide)) (s.treadleWrite_knotSel h fn (lowWord v)) hcalm
  · refine htreadle.becomes (by decide) hhost hfn rfl (.inl (by decide)) (s.treadleWrite_patLen h fn (lowWord v)) ?_
    split
    · rw [State.refuse_mod]
      exact hcalm
    · exact hcalm
  · exact hstream.becomes (by decide) hhost hfn rfl (.inl (by decide)) rfl hcalm
  · exact hwindow.becomes (by decide) hhost hfn rfl (.inl (by decide)) rfl hcalm
  · exact hkeeper.becomes (by decide) hhost hfn rfl (.inl (by decide)) rfl (by rw [State.keeperCtlWrite_mod]; exact hcalm)

/-- The staged ring entry and the staged window, word by word. -/
theorem registerWrite_stages {k : Nat} (hk : k < 16) :
    exec (.registerWrite fn (4096 * pgTreadle h + (0x080 + 4 * k)) 4 v) s =
      .next (s.modTreadle h fun t => { t with ringData := setField t.ringData (32 * k) 32 (lowWord v) }) ∧
    exec (.registerWrite fn (4096 * pgWindow h + (0x080 + 4 * k)) 4 v) s =
      .next (s.modHall h fun hl => { hl with winStage := setField hl.winStage (32 * k) 32 (lowWord v) }) := by
  obtain ⟨htreadle, -, -, -, hwindow, -⟩ := State.takes_hall hhost hup
  refine ⟨?_, ?_⟩
  · refine htreadle.becomes (by omega) hhost hfn (by omega) (.inl (by omega)) ?_ hcalm
    change s.treadleWrite h fn (0x080 + 4 * k) (lowWord v) = _
    unfold State.treadleWrite
    rw [if_pos (by omega), show 8 * (0x080 + 4 * k - 0x080) = 32 * k by omega]
  · refine hwindow.becomes (by omega) hhost hfn (by omega) (.inl (by omega)) ?_ hcalm
    change s.windowPageWrite h (0x080 + 4 * k) (lowWord v) = _
    unfold State.windowPageWrite
    rw [if_neg (by omega), if_neg (by omega), if_pos (by omega), show 8 * (0x080 + 4 * k - 0x080) = 32 * k by omega]

/-- The starvation exponents (R145). -/
theorem registerWrite_starve :
    ((∀ b ∈ [0, 8, 16, 24], 16 ≤ fieldNat (lowWord v) b 6 ∧ fieldNat (lowWord v) b 6 ≤ 32) →
      exec (.registerWrite fn (4096 * pgTreadle h + 0x044) 4 v) s = .next (s.modTreadle h fun t =>
        { t with starveLoad := field (lowWord v) 0 6, starveMatrix := field (lowWord v) 8 6, starveLanding := field (lowWord v) 16 6
                 starveStore := field (lowWord v) 24 6 })) ∧
    ((∃ b ∈ [0, 8, 16, 24], fieldNat (lowWord v) b 6 < 16 ∨ 32 < fieldNat (lowWord v) b 6) →
      exec (.registerWrite fn (4096 * pgTreadle h + 0x044) 4 v) s = .next (s.refuse (pgTreadle h) (lowWord v))) := by
  obtain ⟨htreadle, -⟩ := State.takes_hall hhost hup
  refine ⟨fun hin => ?_, fun hout => ?_⟩
  · refine htreadle.becomes (by decide) hhost hfn rfl (.inl (by decide)) ?_ hcalm
    change s.starveWrite h (lowWord v) = _
    unfold State.starveWrite
    simp only [List.mem_cons, List.not_mem_nil, or_false, forall_eq_or_imp, forall_eq] at hin
    obtain ⟨hload, hmatrix, hlanding, hstore⟩ := hin
    exact if_pos (by simp [hload, hmatrix, hlanding, hstore])
  · refine htreadle.becomes (by decide) hhost hfn rfl (.inl (by decide)) ?_ (by rw [State.refuse_mod]; exact hcalm)
    change s.starveWrite h (lowWord v) = _
    unfold State.starveWrite
    refine if_neg ?_
    simp only [List.mem_cons, List.not_mem_nil, or_false, exists_eq_or_imp, exists_eq_left] at hout
    simp only [Bool.and_eq_true, decide_eq_true_eq]
    omega

end

/-- A flight's timeouts. -/
theorem registerWrite_timeouts (hready : s.ready = true) {p : Nat} (hport : s.flightAbsent p = false) :
    exec (.registerWrite fn (4096 * pgFlight p + 0x058) 4 v) s = .next (if 300 ≤ fieldNat (lowWord v) 0 16 ∧ fieldNat (lowWord v) 0 16 ≤ 10000 ∧
        1 ≤ fieldNat (lowWord v) 16 16 ∧ fieldNat (lowWord v) 16 16 ≤ 60000 then
      s.modFlight p fun f => { f with linkTo := field (lowWord v) 0 16, joinTo := field (lowWord v) 16 16 }
      else s.refuse (pgFlight p) (lowWord v)) :=
  (State.takes_flight hhost hready hport).stores hhost hfn hcalm (by decide) rfl (by decide) rfl hcalm

/-! ### 64-bit registers -/

/-- A write of 8 bytes to a 64-bit register: its low half staged, its high half joined to it. -/
theorem State.Takes.becomes8 {pg rel : Nat} {id : PageId} {t : State} (h : s.Takes pg id) (hrel : rel + 4 < 4096) (hunit : rel % 8 = 0) (hblock : 0x040 ≤ rel)
    (hlow : s.blockWrite id fn rel (lowWord v) = s.stageLow (4096 * pg + rel) (lowWord v))
    (hhigh : (s.stageLow (4096 * pg + rel) (lowWord v)).blockWrite id fn (rel + 4) (highWord v) = t) (hmod : t.mod.resetDue = false) :
    exec (.registerWrite fn (4096 * pg + rel) 8 v) s = .next t := by
  have hstaged : (s.stageLow (4096 * pg + rel) (lowWord v)).Takes pg id := ⟨h.page, h.present, h.answers⟩
  rw [exec_registerWrite8 hhost hfn (by omega), h.regWrite_block (by omega) (.inl hblock), hlow, State.carryReset_of_calm (s := s.stageLow _ _) hcalm,
    Nat.add_assoc, hstaged.regWrite_block hrel (.inl (by omega)), hhigh, State.carryReset_of_calm hmod]

theorem registerWrite_coherence {n : Nat} (hn : n < 8) : exec (.registerWrite fn (4096 * pgHif + (0x060 + 8 * n)) 8 v) s =
    .next (({ s with lowHalf := (s.lowHalf.insert (4096 * pgHif + (0x060 + 8 * n)) (lowWord v)).erase (4096 * pgHif + (0x060 + 8 * n)) } : State).cohWrite n
      v) := by
  have hhif : s.Takes pgHif .hif := State.takes_early hhost rfl rfl rfl
  refine hhif.becomes8 hhost hfn hcalm (by omega) (by omega) (by omega) ?_ ?_ hcalm
  · change s.hifWrite (0x060 + 8 * n) (lowWord v) = _
    unfold State.hifWrite
    rw [if_neg (by omega), if_neg (by omega), if_neg (by omega), if_pos (by omega)]
    dsimp only
    rw [if_pos (by omega), show (0x060 + 8 * n - 0x060) / 8 = n by omega, Nat.add_assoc]
  · change (s.stageLow _ _).hifWrite (0x060 + 8 * n + 4) (highWord v) = _
    unfold State.hifWrite
    rw [if_neg (by omega), if_neg (by omega), if_neg (by omega), if_pos (by omega)]
    dsimp only
    rw [if_neg (by omega), show (0x060 + 8 * n + 4 - 0x060) / 8 = n by omega, Nat.add_assoc (4096 * pgHif), State.stageLow_joinHigh]

/-- The address of a pattern's image (R356): taken in space 1 to 3 and aligned, else refused. -/
theorem registerWrite_patSrc {h : Nat} (hup : s.hallUp h = true) :
    exec (.registerWrite fn (4096 * pgTreadle h + 0x070) 8 v) s = .next (if imageAddress v = true then
      ({ s with lowHalf := (s.lowHalf.insert (4096 * pgTreadle h + 0x070) (lowWord v)).erase (4096 * pgTreadle h + 0x070) } : State).modTreadle h
        fun t => { t with patSrc := v }
      else ({ s with lowHalf := (s.lowHalf.insert (4096 * pgTreadle h + 0x070) (lowWord v)).erase (4096 * pgTreadle h + 0x070) } : State).refuse
        (pgTreadle h) (highWord v)) := by
  obtain ⟨htreadle, -⟩ := State.takes_hall hhost hup
  refine htreadle.becomes8 hhost hfn hcalm (by decide) rfl (by decide) (s.treadleWrite_patSrcLow h fn (lowWord v))
    (State.treadleWrite_patSrcHigh (s.stageLow_joinHigh _ _ v) fn rfl) ?_
  split
  · exact hcalm
  · rw [State.refuse_mod]
    exact hcalm

/-- The address of an Ethernet peer. -/
theorem registerWrite_ethPeer (hready : s.ready = true) {p : Nat} (hport : s.flightAbsent p = false) :
    exec (.registerWrite fn (4096 * pgFlight p + 0x060) 8 v) s =
      .next (({ s with lowHalf := (s.lowHalf.insert (4096 * pgFlight p + 0x060) (lowWord v)).erase (4096 * pgFlight p + 0x060) } : State).modFlight p
        fun f => { f with ethPeer := v.setWidth 48 }) := by
  refine (State.takes_flight hhost hready hport).becomes8 hhost hfn hcalm (by decide) rfl (by decide) ?_ ?_ hcalm
  · simp [State.blockWrite, State.flightWrite]
  · simp [State.blockWrite, State.flightWrite, State.stageLow_joinHigh]

end

end Sys2Proof.Machine
end

section
/-!
The window table, the share of the tensor cache and the ledger's caps (R126, R189, R206, R212, R215, R360).
-/
namespace Sys2Proof.Machine

/-! ### What these commands leave (R345) -/

/-- The commands of these pages leave items, rings' entries, knots, and all of memory but counts in context records. -/
structure PageOnly (s s' : State) : Prop where
  names : s'.items.map Item.name = s.items.map Item.name
  entries : ∀ g, (s'.ring g).entry = (s.ring g).entry
  knots : s'.knots = s.knots
  bytes : ∀ x, ¬s.chargeByte x → s'.mem.read x = s.mem.read x

theorem PageOnly.of_kept {s s' : State} (h : Kept s s') (hitems : s'.items = s.items) (hrings : s'.rings = s.rings) (hknots : s'.knots = s.knots) :
    PageOnly s s' := ⟨by rw [hitems], fun g => by unfold State.ring; rw [hrings], hknots, fun x hx => h.bytes x fun hlive => hx hlive.chargeByte⟩

theorem PageOnly.quiet {s s' s'' : State} (h : PageOnly s s') (k : Quiet s' s'') : PageOnly s s'' where
  names := k.names.trans h.names
  entries g := by
    rw [← h.entries g, k.ring g]
  knots := k.knots.trans h.knots
  bytes x hx := by
    rw [show s''.mem = s'.mem from k.sameBytes.1.symm]
    exact h.bytes x hx

/-- A command of a hall's page that is refused with a status. -/
structure Refused (s : State) (c : Instr) (p : Nat) (code : BitVec 8) : Prop where
  runs : ∃ s', exec c s = .next s' ∧ s'.windows = s.windows ∧ s'.halls = s.halls ∧ s'.sameBytes s ∧ s'.items = s.items ∧
    (s'.page p).raw.getLsbD 31 = true ∧ ((s.page p).count = 0 → (s'.page p).code = code)

theorem Refused.of_fault {s u : State} {c : Instr} {p : Nat} {st : Status} {i0 i1 : W32} (hrun : exec c s = .next (u.fault p st i0 i1))
    (hrest : u = { s with pages := u.pages, out := u.out }) (hcount : (u.page p).count = (s.page p).count) : Refused s c p (statusCode st) := by
  refine ⟨_, hrun, ?_, ?_, ?_, ?_, ?_, fun hnone => ?_⟩
  · rw [State.fault_rest, hrest]
  · rw [State.fault_rest, hrest]
  · rw [State.fault_rest, hrest]
    exact ⟨rfl, rfl, rfl⟩
  · rw [State.fault_rest, hrest]
  · rw [State.fault_page_self, Page.withFault_raw]
    simp
  · rw [State.fault_page_self, Page.withFault_of_none (hcount.trans hnone)]

theorem Refused.of_refuse {s : State} {c : Instr} {p : Nat} {v : W32} (hrun : exec c s = .next (s.refuse p v)) : Refused s c p 0x21 :=
  Refused.of_fault (st := .access) (u := s) hrun rfl rfl

/-! ### The window table (R126, R360) -/

section
variable {s : State} {h : Nat} (hhost : s.hostInterfaceUp = true) (hup : s.hallUp h = true)

theorem State.chargeWindow_kept (s : State) (w : Block512) (add : Bool) : Kept s (s.chargeWindow w add) := by
  unfold State.chargeWindow
  split
  next c b hcharged huse =>
    have hhere : s.ctxHere c = true := by
      unfold State.chargedTo at hcharged
      split at hcharged
      next hin =>
        rw [← Option.some.inj hcharged]
        exact (Bool.and_eq_true_iff.mp hin).2
      next => exact nomatch hcharged
    have hbyte : 36 ≤ b ∧ b + 4 ≤ 64 := by
      unfold useByte at huse
      split at huse
      · obtain rfl := Option.some.inj huse
        decide
      · obtain rfl := Option.some.inj huse
        decide
      · obtain rfl := Option.some.inj huse
        decide
      · exact nomatch huse
    dsimp only
    split
    · exact Kept.refl s
    · exact State.ctxWrite_kept hhere hbyte.1 hbyte.2 _
  next => exact Kept.refl s

theorem State.chargeWindow_rest (s : State) (w : Block512) (add : Bool) : s.chargeWindow w add = { s with mem := (s.chargeWindow w add).mem } := by
  unfold State.chargeWindow
  split
  · dsimp only
    split
    · rfl
    · rfl
  · rfl

/-- What the replacement of an entry leaves. -/
theorem State.replaceWindow_only (s : State) (key : Nat) (new : Block512) : PageOnly s (s.replaceWindow key new) := by
  have hcharged := s.chargeWindow_kept (s.window key) false
  have hcharged' := (s.chargeWindow (s.window key) false).chargeWindow_kept new true
  have hrest := s.chargeWindow_rest (s.window key) false
  have hrest' := (s.chargeWindow (s.window key) false).chargeWindow_rest new true
  have hkept := hcharged.trans hcharged'
  unfold State.replaceWindow
  dsimp only
  generalize (s.chargeWindow (s.window key) false).chargeWindow new true = u at *
  generalize s.chargeWindow (s.window key) false = v at *
  have hset : PageOnly s (u.setWindow key (replacedEntry (s.window key) new)) := by
    refine PageOnly.of_kept (hkept.trans (Kept.of_fields rfl rfl rfl rfl rfl rfl)) ?_ ?_ ?_
    · change u.items = s.items
      rw [hrest', hrest]
    · change u.rings = s.rings
      rw [hrest', hrest]
    · change u.knots = s.knots
      rw [hrest', hrest]
  split
  · exact hset.quiet (State.foldl_failItem_quiet _ _ _)
  · exact hset

theorem State.replaceWindow_windows (s : State) (key : Nat) (new : Block512) :
    (s.replaceWindow key new).windows = Table.set 0 s.windows key (replacedEntry (s.window key) new) := by
  have hrest := s.chargeWindow_rest (s.window key) false
  have hrest' := (s.chargeWindow (s.window key) false).chargeWindow_rest new true
  unfold State.replaceWindow
  dsimp only
  generalize (s.chargeWindow (s.window key) false).chargeWindow new true = u at *
  generalize s.chargeWindow (s.window key) false = v at *
  have hset : (u.setWindow key (replacedEntry (s.window key) new)).windows = Table.set 0 s.windows key (replacedEntry (s.window key) new) := by
    change Table.set 0 u.windows key _ = _
    rw [hrest', hrest]
  split
  · exact (State.foldl_failItem_quiet _ _ _).windows.trans hset
  · exact hset

theorem State.replaceWindow_window (s : State) (key : Nat) (new : Block512) (j : Nat) :
    (s.replaceWindow key new).window j = if key = j then replacedEntry (s.window key) new else s.window j := by
  unfold State.window
  rw [State.replaceWindow_windows, Table.get_set]
  rfl

theorem winGen_winSetGen (w : Block512) (g : W32) : winGen (winSetGen w g) = g := field_setField w (by decide) g

theorem setField_setField {n : Nat} (x : BitVec n) (lo w : Nat) (v v' : BitVec w) : setField (setField x lo w v) lo w v' = setField x lo w v' := by
  unfold setField
  ext i hi
  by_cases hin : lo ≤ i ∧ i - lo < w
  · simp [hin.2, Nat.not_lt.mpr hin.1]
  · by_cases hlo : i < lo
    · simp [hlo]
    · have hhi : w ≤ i - lo := by omega
      simp [hlo, BitVec.getLsbD_of_ge _ _ hhi]

theorem winSetGen_winSetGen (w : Block512) (g g' : W32) : winSetGen (winSetGen w g) g' = winSetGen w g' := setField_setField w 96 32 g g'

theorem Refused.of_windowRefuse {c : Instr} {st : Status} (hrun : exec c s = .next (s.windowRefuse h st)) : Refused s c (pgWindow h) (statusCode st) := by
  refine Refused.of_fault (u := s.event (pgWindow h) 0) hrun (State.event_rest ..) ?_
  rw [State.event, State.modPage_page_self]
  rfl

include hhost hup

theorem exec_windowCommit : exec (.windowCommit h) s = .next (s.windowCommit h) :=
  congrArg Host.Outcome.next (State.onHall_of_up hhost hup fun s => s.windowCommit h)

theorem exec_windowClear : exec (.windowClear h) s = .next (s.windowClear h) :=
  congrArg Host.Outcome.next (State.onHall_of_up hhost hup fun s => s.windowClear h)

/-- `WINDOW_COMMIT` where nothing refuses it. -/
theorem windowCommit_commits (howner : winOwner (s.hall h).winStage = operatorOwner ∨
      winOwner (s.hall h).winStage < 12288 ∧ s.ctxHere (winOwner (s.hall h).winStage) = true)
    (hquota : (s.chargeWindow (s.window (windowKey h (s.hall h).winIndex.toNat)) false).chargeAbove (s.hall h).winStage = false)
    (hgen : genSpent (s.window (windowKey h (s.hall h).winIndex.toNat)) = false ∨ winOpen (s.hall h).winStage = true) :
    exec (.windowCommit h) s = .next (s.replaceWindow (windowKey h (s.hall h).winIndex.toNat) (s.hall h).winStage) := by
  refine (exec_windowCommit hhost hup).trans (congrArg _ ?_)
  unfold State.windowCommit
  dsimp only
  have hnumber : ¬(winOwner (s.hall h).winStage ≠ operatorOwner ∧ winOwner (s.hall h).winStage ≥ 12288) := by
    obtain heq | ⟨hlt, -⟩ := howner
    · exact fun hbad => hbad.1 heq
    · omega
  have hhere : ¬(winOwner (s.hall h).winStage ≠ operatorOwner ∧ (!s.ctxHere (winOwner (s.hall h).winStage)) = true) := by
    obtain heq | ⟨-, hctx⟩ := howner
    · exact fun hbad => hbad.1 heq
    · simp [hctx]
  have hspent : ¬(genSpent (s.window (windowKey h (s.hall h).winIndex.toNat)) = true ∧ (!winOpen (s.hall h).winStage) = true) := by
    obtain hfresh | hopen := hgen
    · simp [hfresh]
    · simp [hopen]
  rw [if_neg hnumber, if_neg hhere, if_neg (by rw [hquota]; decide), if_neg hspent]

/-- What refuses a `WINDOW_COMMIT` (R126). -/
theorem windowCommit_refuses :
    (winOwner (s.hall h).winStage ≠ operatorOwner → 12288 ≤ winOwner (s.hall h).winStage → Refused s (.windowCommit h) (pgWindow h) 0x21) ∧
    (winOwner (s.hall h).winStage < 12288 → s.ctxHere (winOwner (s.hall h).winStage) = false → Refused s (.windowCommit h) (pgWindow h) 0x13) ∧
    (winOwner (s.hall h).winStage < 12288 → s.ctxHere (winOwner (s.hall h).winStage) = true →
      (s.chargeWindow (s.window (windowKey h (s.hall h).winIndex.toNat)) false).chargeAbove (s.hall h).winStage = true →
      Refused s (.windowCommit h) (pgWindow h) 0x16) := by
  have hexec := exec_windowCommit hhost hup
  have hnotOperator : winOwner (s.hall h).winStage < 12288 → winOwner (s.hall h).winStage ≠ operatorOwner := fun hlt => by
    unfold operatorOwner
    omega
  refine ⟨fun hne hge => ?_, fun hlt hgone => ?_, fun hlt hhere habove => ?_⟩
  · refine Refused.of_windowRefuse (st := .access) (hexec.trans (congrArg _ ?_))
    unfold State.windowCommit
    exact if_pos ⟨hne, hge⟩
  · refine Refused.of_windowRefuse (st := .engineAbsent) (hexec.trans (congrArg _ ?_))
    unfold State.windowCommit
    dsimp only
    rw [if_neg (by omega), if_pos ⟨hnotOperator hlt, by rw [hgone]; rfl⟩]
  · refine Refused.of_windowRefuse (st := .quota) (hexec.trans (congrArg _ ?_))
    unfold State.windowCommit
    dsimp only
    rw [if_neg (by omega), if_neg (by simp [hhere]), if_pos habove]

end

/-! ### The share of the tensor cache (R206, R212) -/

theorem State.replaceCache_other (s : State) {h j : Nat} (hne : j ≠ h) (ls : List CacheLine) : (s.replaceCache h ls).cache j = s.cache j := by
  unfold State.replaceCache
  dsimp only
  split
  · rfl
  · rw [State.foldl_rechargeLines_mem _ s.ctxLines (s.setCache h ls).ctxLines]
    exact (s.setCache_cache h j ls).trans (if_neg (Ne.symm hne))

theorem keptLines_iff {k n : Nat} {ls : List CacheLine} {l : CacheLine} :
    l ∈ keptLines k n ls ↔ l ∈ ls ∧ cacheSet k l.line < 64 * n ∧ cacheSet k l.line = cacheSet n l.line := by
  simp only [keptLines, List.mem_filter, Bool.and_eq_true, decide_eq_true_eq, beq_iff_eq]

/-- The lines that stay where the share of a hall changes. -/
def State.keepsLines (s s' : State) (h share n : Nat) : Prop :=
  (∀ l, l ∈ s'.cache h ↔ l ∈ s.cache h ∧ cacheSet share l.line < 64 * n ∧ cacheSet share l.line = cacheSet n l.line) ∧
    ∀ j, j ≠ h → s'.cache j = s.cache j

/-- A hall's gallery zeroed where a share of `k` covers it, with its cache cut down to some lines. -/
def State.recut (s : State) (h k : Nat) (ls : List CacheLine) : State := (s.zeroCovered h k).replaceCache h ls

theorem State.recut_cache (s : State) (h k share n : Nat) : s.keepsLines (s.recut h k (keptLines share n (s.cache h))) h share n := by
  unfold State.recut
  exact ⟨fun l => by rw [State.replaceCache_cache, keptLines_iff], fun j hj => State.replaceCache_other _ hj _⟩

theorem State.recut_read (s : State) (h k : Nat) (ls : List CacheLine) {a : Nat} (hcharge : ¬s.chargeByte a) : (s.recut h k ls).mem.read a =
    if addrSpace a = 1 ∧ addrHall a = h ∧ inCacheRange k (addrOffset a) = true then 0 else s.mem.read a := by
  have hkept := ((s.zeroCovered h k).replaceCache_kept h ls).bytes a fun hlive => hcharge hlive.chargeByte
  unfold State.recut
  rw [hkept]
  refine (Memory.read_filter s.mem (fun a => !(addrSpace a == 1 && addrHall a == h && inCacheRange k (addrOffset a))) a).trans ?_
  by_cases hin : addrSpace a = 1 ∧ addrHall a = h ∧ inCacheRange k (addrOffset a) = true
  · rw [if_pos hin, if_neg (by simp [hin.1, hin.2.1, hin.2.2])]
    rfl
  · rw [if_neg hin, if_pos (by rw [Bool.not_eq_true', ← Bool.not_eq_true]; simpa only [Bool.and_eq_true, beq_iff_eq, and_assoc] using hin)]

section
variable {s : State} {h : Nat} (hhost : s.hostInterfaceUp = true) (hup : s.hallUp h = true) {v : W32} (hplain : v.getLsbD 16 = false)

theorem field_toNat_ofNat {n : Nat} (x : BitVec n) (lo w : Nat) : BitVec.ofNat w (fieldNat x lo w) = field x lo w := by
  rw [fieldNat_eq_field]
  rw [BitVec.ofNat_toNat, BitVec.setWidth_eq]

include hhost hup hplain

theorem exec_cacheShareSet : exec (.cacheShareSet h v) s = .next (s.shareWrite h v) := by
  refine congrArg Host.Outcome.next ((State.onHall_of_up hhost hup fun s => s.cacheCtlWrite h v).trans ?_)
  unfold State.cacheCtlWrite
  rw [hplain]
  rfl

/-- A raise of the share. -/
theorem cacheShareSet_raises (hraise : (s.hall h).share.toNat < fieldNat v 0 4) (hmost : fieldNat v 0 4 ≤ 8) (hfree : s.raiseBlocked h (fieldNat v 0 4) = false) :
    ∃ s', exec (.cacheShareSet h v) s = .next s' ∧ (s'.hall h).share = field v 0 4 ∧ s.keepsLines s' h (s.hall h).share.toNat (fieldNat v 0 4) ∧
      (∀ a, ¬s.chargeByte a → addrSpace a = 1 → addrHall a = h → inCacheRange (fieldNat v 0 4) (addrOffset a) = true → s'.mem.read a = 0) ∧
      ∀ a, ¬s.chargeByte a → ¬(addrSpace a = 1 ∧ addrHall a = h) → s'.mem.read a = s.mem.read a := by
  have hrun : s.shareWrite h v = (s.recut h (fieldNat v 0 4) (keptLines (s.hall h).share.toNat (fieldNat v 0 4) (s.cache h))).modHall h fun hl =>
      { hl with share := BitVec.ofNat 4 (fieldNat v 0 4) } := by
    unfold State.shareWrite
    dsimp only
    rw [if_neg (by rw [hfree]; exact fun hbad => hbad.elim (by omega) fun hand => Bool.false_ne_true hand.2), if_pos hraise]
    rfl
  refine ⟨_, (exec_cacheShareSet hhost hup hplain).trans (congrArg _ hrun), ?_, s.recut_cache h _ _ _, fun a hcharge hspace hhall hin => ?_,
    fun a hcharge hout => ?_⟩
  · rw [State.modHall_hall, if_pos rfl]
    exact field_toNat_ofNat v 0 4
  · exact (s.recut_read h _ _ hcharge).trans (if_pos ⟨hspace, hhall, hin⟩)
  · exact (s.recut_read h _ _ hcharge).trans (if_neg fun hin => hout ⟨hin.1, hin.2.1⟩)

theorem cacheShareSet_refuses (hbad : fieldNat v 0 4 > 8 ∨ ((s.hall h).share.toNat < fieldNat v 0 4 ∧ s.raiseBlocked h (fieldNat v 0 4) = true)) :
    Refused s (.cacheShareSet h v) (pgGallery h) 0x21 := by
  refine Refused.of_refuse (v := v) ((exec_cacheShareSet hhost hup hplain).trans (congrArg _ ?_))
  unfold State.shareWrite
  exact if_pos hbad

/-- A cut of the share: the old range is zeroed. -/
theorem cacheShareSet_lowers (hlower : fieldNat v 0 4 < (s.hall h).share.toNat) (hmost : (s.hall h).share.toNat ≤ 8) :
    ∃ s', exec (.cacheShareSet h v) s = .next s' ∧ (s'.hall h).share = field v 0 4 ∧ (s'.hall h).shareBusy = true ∧
      s.keepsLines s' h (s.hall h).share.toNat (fieldNat v 0 4) ∧
      (∀ a, ¬s.chargeByte a → addrSpace a = 1 → addrHall a = h → inCacheRange (s.hall h).share.toNat (addrOffset a) = true → s'.mem.read a = 0) ∧
      ∀ a, ¬(addrSpace a = 1 ∧ addrHall a = h) → ¬s.chargeByte a → s'.mem.read a = s.mem.read a := by
  have hrun : s.shareWrite h v = (s.recut h (s.hall h).share.toNat (keptLines (s.hall h).share.toNat (fieldNat v 0 4) (s.cache h))).modHall h fun hl =>
      { hl with share := BitVec.ofNat 4 (fieldNat v 0 4), shareBusy := true
                shareOld := if hl.shareBusy && decide ((s.hall h).share.toNat ≤ hl.shareOld.toNat) then hl.shareOld
                  else BitVec.ofNat 4 (s.hall h).share.toNat } := by
    unfold State.shareWrite
    dsimp only
    rw [if_neg (by omega), if_neg (by omega), if_pos hlower]
    rfl
  refine ⟨_, (exec_cacheShareSet hhost hup hplain).trans (congrArg _ hrun), ?_, ?_, s.recut_cache h _ _ _, fun a hcharge hspace hhall hin => ?_,
    fun a hout hcharge => ?_⟩
  · rw [State.modHall_hall, if_pos rfl]
    exact field_toNat_ofNat v 0 4
  · rw [State.modHall_hall, if_pos rfl]
  · exact (s.recut_read h _ _ hcharge).trans (if_pos ⟨hspace, hhall, hin⟩)
  · exact (s.recut_read h _ _ hcharge).trans (if_neg fun hin => hout ⟨hin.1, hin.2.1⟩)

end

end Sys2Proof.Machine
end

section
/-!
Reads of registers and of a ring's counts (R295, R345, R361), and the accesses of space 5 (R353).
-/
namespace Sys2Proof.Machine

/-! ### Reads of a page -/

section
variable {s : State} {id : PageId} {off rel : Nat} (hrel : off % 4096 = rel) (hblock : 0x040 ≤ rel)
include hrel hblock

/-- A read of a register of 32 bits. -/
theorem State.pageRead_narrow (hhigh : wideRead id (rel - 4) = false) (hlow : wideRead id rel = false) :
    s.pageRead id off = (s.blockRead id rel, s.readEffect id rel) := by
  unfold State.pageRead
  rw [hrel, if_neg (Nat.not_lt.mpr hblock), hhigh, hlow]
  rfl

/-- A read of the low half of a register of 64 bits latches its high half. -/
theorem State.pageRead_low (hhigh : wideRead id (rel - 4) = false) (hlow : wideRead id rel = true) : s.pageRead id off =
    (s.blockRead id rel, ({ s with latch := s.latch.insert (off + 4) (s.blockRead id (rel + 4)) } : State).readEffect id rel) := by
  unfold State.pageRead
  rw [hrel, if_neg (Nat.not_lt.mpr hblock), hhigh, hlow]
  rfl

/-- The next read of its high half gives what was latched. -/
theorem State.pageRead_high (hhigh : wideRead id (rel - 4) = true) {w : W32} (hlatch : s.latch.find? (fun p => p.1 == off) = some (off, w)) :
    s.pageRead id off = (w, { s with latch := s.latch.erase off }) := by
  unfold State.pageRead
  rw [hrel, if_neg (Nat.not_lt.mpr hblock), hhigh, if_pos rfl, hlatch]

end

theorem State.readEffect_rest (s : State) (id : PageId) (rel : Nat) :
    s.readEffect id rel = { s with sec := (s.readEffect id rel).sec, halls := (s.readEffect id rel).halls, latch := (s.readEffect id rel).latch } := by
  unfold State.readEffect
  cases id with
  | security =>
    dsimp only
    split
    · rfl
    · rfl
  | keeper h =>
    dsimp only
    split
    · rfl
    · split
      · rfl
      · rfl
  | stream h =>
    dsimp only
    split
    · rfl
    · rfl
  | _ => rfl

/-- A read of a page gives nothing but its value. -/
theorem State.pageRead_rest (s : State) (id : PageId) (off : Nat) : (s.pageRead id off).2 =
    { s with sec := (s.pageRead id off).2.sec, halls := (s.pageRead id off).2.halls, latch := (s.pageRead id off).2.latch } := by
  by_cases hhead : off % 4096 < 0x040
  · unfold State.pageRead
    rw [if_pos hhead]
  · unfold State.pageRead
    rw [if_neg hhead]
    split
    · rfl
    · dsimp only
      split
      · exact State.readEffect_rest ({ s with latch := s.latch.insert (off + 4) (s.blockRead id (off % 4096 + 4)) } : State) id _
      · exact s.readEffect_rest id _

theorem State.Takes.regRead {s : State} {pg : Nat} {id : PageId} (h : s.Takes pg id) {rel : Nat} (hrel : rel < 4096) :
    s.regRead (4096 * pg + rel) = s.pageRead id (4096 * pg + rel) := by
  unfold State.regRead
  rw [show (4096 * pg + rel) / 4096 = pg by omega, h.page]
  dsimp only
  rw [h.answers, h.present, if_neg (by simp)]

theorem State.barRead4 {s : State} (hhost : s.hostInterfaceUp = true) {off : Nat} (hoff : off % 4 = 0) :
    s.barRead off 4 = (s.regRead off).2.emit (.data ((s.regRead off).1.setWidth 64)) := by
  unfold State.barRead
  simp [hhost, wholeUnit, hoff]

section
variable {s : State} (hhost : s.hostInterfaceUp = true)
include hhost

/-- R361: a read of `STR_STATE` latches `STR_PEND_GEN`. -/
theorem strStateRead_latches {h : Nat} (hup : s.hallUp h = true) : ∃ s', exec (.strStateRead h) s = .next s' ∧
    s'.out = s.out ++ [.data ((s.streamState h).setWidth 64)] ∧
      (s'.hall h).pendGenLatch = (s.stream h (s.hall h).strSel.toNat).pendingGen ∧ s'.sameBytes s := by
  obtain ⟨-, -, -, hstream, -⟩ := State.takes_hall hhost hup
  have hread : s.regRead (4096 * pgStream h + 0x044) = (s.streamState h, s.latchPending h) := by
    rw [hstream.regRead (by decide), State.pageRead_narrow (rel := 0x044) (by omega) (by decide) rfl rfl]
    rfl
  have hrun : exec (.strStateRead h) s = .next ((s.latchPending h).emit (.data ((s.streamState h).setWidth 64))) := by
    refine congrArg Host.Outcome.next ((if_pos (State.hall_lt_of_up hup)).trans ?_)
    rw [State.barRead4 hhost (by omega), hread]
  refine ⟨_, hrun, rfl, ?_, ⟨rfl, rfl, rfl⟩⟩
  change ((s.latchPending h).hall h).pendGenLatch = _
  unfold State.latchPending
  rw [State.modHall_hall, if_pos rfl]

end

/-- The high half of the newel's time as the latch holds it. -/
theorem newelTime_high {u : State} {w : W32} (hhost : u.hostInterfaceUp = true) (hready : u.ready = true)
    (hlatch : u.latch.find? (fun p => p.1 == 0x1044) = some (0x1044, w)) :
    ∃ s', exec (.reg64LowRead 0x1044) u = .next s' ∧ s'.out = u.out ++ [.data (w.setWidth 64)] := by
  have hnewel : u.Takes pgNewel .newel := State.takes_ready hhost hready rfl rfl
  have hread : u.regRead 0x1044 = (w, { u with latch := u.latch.erase 0x1044 }) :=
    (hnewel.regRead (rel := 0x044) (by decide)).trans (State.pageRead_high (rel := 0x044) rfl (by decide) rfl hlatch)
  refine ⟨({ u with latch := u.latch.erase 0x1044 } : State).emit (.data (w.setWidth 64)), congrArg Host.Outcome.next ((if_pos (by decide)).trans ?_), rfl⟩
  rw [State.barRead4 hhost (by decide), hread]

/-- The high half of a ring's time as the latch holds it. -/
theorem ringElapsed_high {u : State} {w : W32} {g : Nat} (hhost : u.hostInterfaceUp = true)
    (hlatch : u.latch.find? (fun p => p.1 == 2 ^ 28 + (64 * g + 20)) = some (2 ^ 28 + (64 * g + 20), w)) :
    ∃ s', exec (.reg64LowRead (2 ^ 28 + 64 * g + 20)) u = .next s' ∧ s'.out = u.out ++ [.data (w.setWidth 64)] := by
  refine ⟨({ u with latch := u.latch.erase (2 ^ 28 + (64 * g + 20)) } : State).emit (.data (w.setWidth 64)),
    congrArg Host.Outcome.next ((if_neg (by omega)).trans ?_), rfl⟩
  rw [show 2 ^ 28 + 64 * g + 20 - 2 ^ 28 = 64 * g + 20 by omega]
  unfold State.bar2Read
  dsimp only
  rw [hhost, if_neg (by decide), if_neg (by omega), hlatch]

section
variable {s : State} (hhost : s.hostInterfaceUp = true)
include hhost

/-- R345: the newel's time is read whole through the latch. -/
theorem newelTime_reads (hready : s.ready = true) : ∃ s', exec (.reg64LowRead 0x1040) s = .next s' ∧
    s'.out = s.out ++ [.data ((lowWord s.newel.time).setWidth 64)] ∧
      ∀ t : W64, ∃ s'', exec (.reg64LowRead 0x1044) { s' with newel := { s'.newel with time := t } } = .next s'' ∧
        s''.out = s'.out ++ [.data ((highWord s.newel.time).setWidth 64)] := by
  have hnewel : s.Takes pgNewel .newel := State.takes_ready hhost hready rfl rfl
  have hread : s.regRead 0x1040 = (lowWord s.newel.time, { s with latch := s.latch.insert 0x1044 (highWord s.newel.time) }) := by
    refine (hnewel.regRead (rel := 0x040) (by decide)).trans ?_
    rw [State.pageRead_low (rel := 0x040) rfl (by decide) rfl rfl]
    rfl
  have hrun : exec (.reg64LowRead 0x1040) s = .next (({ s with latch := s.latch.insert 0x1044 (highWord s.newel.time) } : State).emit
      (.data ((lowWord s.newel.time).setWidth 64))) := by
    refine congrArg Host.Outcome.next ((if_pos (by decide)).trans ?_)
    rw [State.barRead4 hhost (by decide), hread]
  exact ⟨_, hrun, rfl, fun t => newelTime_high (u := { ({ s with latch := s.latch.insert 0x1044 (highWord s.newel.time) } : State).emit
    (.data ((lowWord s.newel.time).setWidth 64)) with newel := { s.newel with time := t } }) hhost hready (Table.find_inserted _ _ _)⟩

/-- R295, R345: so is the time since a ring was last enabled, through its doorbell slot. -/
theorem ringElapsed_reads (g : Nat) : ∃ s', exec (.reg64LowRead (2 ^ 28 + 64 * g + 16)) s = .next s' ∧
    s'.out = s.out ++ [.data ((lowWord ((s.ring g).elapsed s.newel.time)).setWidth 64)] ∧ s'.rings = s.rings ∧
      ∀ t : W64, ∃ s'', exec (.reg64LowRead (2 ^ 28 + 64 * g + 20)) { s' with newel := { s'.newel with time := t } } = .next s'' ∧
        s''.out = s'.out ++ [.data ((highWord ((s.ring g).elapsed s.newel.time)).setWidth 64)] := by
  have hslot : s.slotRead (64 * g + 16) = (s.ring g).elapsed s.newel.time := by
    unfold State.slotRead
    rw [show (64 * g + 16) / 64 = g by omega, show (64 * g + 16) % 64 / 8 = 2 by omega]
    rfl
  have hrun : exec (.reg64LowRead (2 ^ 28 + 64 * g + 16)) s = .next
      (({ s with latch := s.latch.insert (2 ^ 28 + (64 * g + 20)) (highWord ((s.ring g).elapsed s.newel.time)) } : State).emit
        (.data ((lowWord ((s.ring g).elapsed s.newel.time)).setWidth 64))) := by
    refine congrArg Host.Outcome.next ((if_neg (by omega)).trans ?_)
    rw [show 2 ^ 28 + 64 * g + 16 - 2 ^ 28 = 64 * g + 16 by omega]
    unfold State.bar2Read
    dsimp only
    rw [hhost, if_neg (by decide), if_pos (by omega), hslot]
    rfl
  exact ⟨_, hrun, rfl, rfl, fun t => ringElapsed_high (u := {
    ({ s with latch := s.latch.insert (2 ^ 28 + (64 * g + 20)) (highWord ((s.ring g).elapsed s.newel.time)) } : State).emit
      (.data ((lowWord ((s.ring g).elapsed s.newel.time)).setWidth 64)) with newel := { s.newel with time := t } }) hhost (Table.find_inserted _ _ _)⟩

end

/-! ### Space 5 (R353) -/

section
variable {s : State} {g off : Nat} {t : Item} (hitem : s.managementItem g off = some t)
include hitem

theorem managementAccess_refuses (write : Bool) {width : Nat} (v : W64) (hunit : width ≠ 4 ∧ width ≠ 8 ∨ off % width ≠ 0) (hnone : t.failedAt = none)
    (hcall : t.caller = none) (hin : s.item t.id = some t) :
    ∃ s', exec (.managementSpaceAccess g write off width v) s = .next s' ∧ s'.failedWith t.id .access ∧ s'.sameBytes s := by
  have hbad : wholeUnit off width = false := by
    unfold wholeUnit
    simp only [Bool.and_eq_false_iff, Bool.or_eq_false_iff, beq_eq_false_iff_ne]
    exact hunit
  refine ⟨s.failItem t.id .access, congrArg Host.Outcome.next ?_, State.failItem_failedWith hin hnone hcall _, (s.failItem_isQuiet t.id .access).sameBytes⟩
  unfold State.managementAccess
  rw [hitem]
  dsimp only
  rw [hbad]
  rfl

theorem managementAccess_reads (v : W64) (hunit : off % 4 = 0) : ∃ s', exec (.managementSpaceAccess g false off 4 v) s = .next s' ∧
    s'.out = s.out ++ [.data ((s.managementRead off).1.setWidth 64)] ∧ s'.items = s.items ∧ s'.sameBytes s := by
  have hrest : (s.managementRead off).2 = { s with sec := (s.managementRead off).2.sec, halls := (s.managementRead off).2.halls
                                                   latch := (s.managementRead off).2.latch } := by
    unfold State.managementRead
    split
    · rfl
    · exact s.pageRead_rest _ off
  refine ⟨(s.managementRead off).2.emit (.data ((s.managementRead off).1.setWidth 64)), congrArg Host.Outcome.next ?_, ?_, ?_, ?_⟩
  · unfold State.managementAccess
    rw [hitem]
    simp [wholeUnit, hunit]
  · change (s.managementRead off).2.out ++ _ = _
    rw [hrest]
  · change (s.managementRead off).2.items = _
    rw [hrest]
  · unfold State.emit State.sameBytes
    dsimp only
    rw [hrest]
    exact ⟨rfl, rfl, rfl⟩

theorem managementAccess_masks (hcalm : s.mod.resetDue = false) (v : W64) (hoff : off = 0x018) :
    ∃ s', exec (.managementSpaceAccess g true off 4 v) s = .next s' ∧ (s'.page 0).mask = lowWord v ∧ s'.items = s.items ∧ s'.sameBytes s := by
  subst hoff
  have hmod : (s.modPage 0 fun p => { p with mask := lowWord v }).mod = s.mod := by rw [State.modPage_rest]
  refine ⟨s.modPage 0 fun p => { p with mask := lowWord v }, congrArg Host.Outcome.next ?_, ?_, ?_, ?_⟩
  · unfold State.managementAccess
    rw [hitem]
    dsimp only
    exact State.carryReset_of_calm (s := s.modPage 0 fun p => { p with mask := lowWord v }) (by rw [hmod]; exact hcalm)
  · rw [State.modPage_page_self]
  · rw [State.modPage_rest]
  · rw [State.modPage_rest]
    exact ⟨rfl, rfl, rfl⟩

end

end Sys2Proof.Machine
end

section
/-!
The windows, the cache, the ledger's caps and the register accesses, put together (R126, R189, R206, R212, R215, R345, R353, R360, R361).
-/
namespace Sys2Proof.Machine

section
variable {s : State} {h : Nat} (hhost : s.hostInterfaceUp = true) (hup : s.hallUp h = true)
include hhost hup

/-- `WINDOW_CLEAR` leaves only the generation. -/
theorem windowClear_clears (hgen : genSpent (s.window (windowKey h (s.hall h).winIndex.toNat)) = false) :
    exec (.windowClear h) s = .next (s.replaceWindow (windowKey h (s.hall h).winIndex.toNat) 0) := by
  refine (exec_windowClear hhost hup).trans (congrArg _ ?_)
  unfold State.windowClear
  dsimp only
  rw [hgen]
  rfl

theorem exec_windowFetch : exec (.windowFetch h) s = .next (s.modHall h fun hl => { hl with winStage := s.window (windowKey h hl.winIndex.toNat) }) :=
  congrArg Host.Outcome.next (State.onHall_of_up hhost hup fun s => s.windowFetch h)

theorem exec_cacheInvalidate : exec (.cacheInvalidate h) s = .next (s.replaceCache h []) :=
  congrArg Host.Outcome.next (State.onHall_of_up hhost hup fun s => s.cacheInvalidate h)

theorem exec_ldgCapWrite (v : W32) : exec (.ldgCapWrite h v) s = .next (s.ledgerCapWrite h v) :=
  congrArg Host.Outcome.next (State.onHall_of_up hhost hup fun s => s.ledgerCapWrite h v)

omit hhost hup in
/-- A change of a hall's fields. -/
theorem State.modHall_only (f : Hall → Hall) : PageOnly s (s.modHall h f) :=
  ⟨rfl, fun _ => rfl, rfl, fun _ _ => rfl⟩

omit hhost hup in
theorem winOpen_zero : winOpen 0 = false := by
  unfold winOpen
  exact BitVec.getLsbD_zero

/-- The window commands. -/
theorem windowCommands_hold :
    (winOwner (s.hall h).winStage = operatorOwner ∨ winOwner (s.hall h).winStage < 12288 ∧ s.ctxHere (winOwner (s.hall h).winStage) = true →
      (s.chargeWindow (s.window (windowKey h (s.hall h).winIndex.toNat)) false).chargeAbove (s.hall h).winStage = false →
      genSpent (s.window (windowKey h (s.hall h).winIndex.toNat)) = false ∨ winOpen (s.hall h).winStage = true →
      ∃ s', exec (.windowCommit h) s = .next s' ∧
        winSetGen (s'.window (windowKey h (s.hall h).winIndex.toNat)) 0 = winSetGen (s.hall h).winStage 0 ∧
        winGen (s'.window (windowKey h (s.hall h).winIndex.toNat)) =
          (if winOpen (s.window (windowKey h (s.hall h).winIndex.toNat)) = true ∧ winOpen (s.hall h).winStage = false
            then winGen (s.window (windowKey h (s.hall h).winIndex.toNat)) + 1 else winGen (s.window (windowKey h (s.hall h).winIndex.toNat))) ∧
        (∀ j, j ≠ windowKey h (s.hall h).winIndex.toNat → s'.window j = s.window j) ∧ PageOnly s s') ∧
    (genSpent (s.window (windowKey h (s.hall h).winIndex.toNat)) = false → ∃ s', exec (.windowClear h) s = .next s' ∧
      s'.window (windowKey h (s.hall h).winIndex.toNat) = winSetGen 0
        (if winOpen (s.window (windowKey h (s.hall h).winIndex.toNat)) = true then winGen (s.window (windowKey h (s.hall h).winIndex.toNat)) + 1
          else winGen (s.window (windowKey h (s.hall h).winIndex.toNat))) ∧
      (∀ j, j ≠ windowKey h (s.hall h).winIndex.toNat → s'.window j = s.window j) ∧ PageOnly s s') ∧
    ∃ s', exec (.windowFetch h) s = .next s' ∧ (s'.hall h).winStage = s.window (windowKey h (s.hall h).winIndex.toNat) ∧ s'.windows = s.windows ∧
      PageOnly s s' := by
  obtain ⟨k, hk⟩ : ∃ k, windowKey h (s.hall h).winIndex.toNat = k := ⟨_, rfl⟩
  refine ⟨fun howner hquota hgen => ?_, fun hgen => ?_, ?_⟩
  · refine ⟨_, windowCommit_commits hhost hup howner hquota hgen, ?_, ?_, fun j hj => ?_, s.replaceWindow_only _ _⟩
    · rw [State.replaceWindow_window, if_pos rfl]
      exact winSetGen_winSetGen ..
    · rw [State.replaceWindow_window, if_pos rfl, replacedEntry, winGen_winSetGen]
      simp only [Bool.and_eq_true, Bool.not_eq_true']
    · rw [State.replaceWindow_window, if_neg (Ne.symm hj)]
  · refine ⟨_, windowClear_clears hhost hup hgen, ?_, fun j hj => ?_, s.replaceWindow_only _ _⟩
    · rw [State.replaceWindow_window, if_pos rfl, replacedEntry, winOpen_zero]
      simp only [Bool.not_false, Bool.and_true]
    · rw [State.replaceWindow_window, if_neg (Ne.symm hj)]
  · refine ⟨_, exec_windowFetch hhost hup, ?_, rfl, s.modHall_only _⟩
    rw [State.modHall_hall, if_pos rfl]

/-- The rest of the cache's and the ledger's commands. -/
theorem cacheCommands_hold :
    (∃ s', exec (.cacheInvalidate h) s = .next s' ∧ s'.cache h = [] ∧ (∀ j, j ≠ h → s'.cache j = s.cache j) ∧ s'.windows = s.windows ∧ PageOnly s s') ∧
    ∀ v : W32, (16 ≤ fieldNat v 0 11 ∧ fieldNat v 0 11 ≤ 1024 ∧ 16 ≤ fieldNat v 16 11 ∧ fieldNat v 16 11 ≤ 1024 →
        ∃ s', exec (.ldgCapWrite h v) s = .next s' ∧ (s'.hall h).hbmCap = field v 0 11 ∧ (s'.hall h).galCap = field v 16 11 ∧
          s'.ledgers = s.ledgers ∧ PageOnly s s') ∧
      ((fieldNat v 0 11 < 16 ∨ 1024 < fieldNat v 0 11 ∨ fieldNat v 16 11 < 16 ∨ 1024 < fieldNat v 16 11) →
        Refused s (.ldgCapWrite h v) (pgLedger h) 0x21) := by
  refine ⟨⟨_, exec_cacheInvalidate hhost hup, State.replaceCache_cache .., fun j hj => State.replaceCache_other _ hj _, ?_,
    PageOnly.of_kept (s.replaceCache_kept h []) ?_ ?_ ?_⟩, fun v => ⟨fun hin => ?_, fun hout => ?_⟩⟩
  · rw [State.replaceCache_rest]
  · rw [State.replaceCache_rest]
  · rw [State.replaceCache_rest]
  · rw [State.replaceCache_rest]
  · have hrun : s.ledgerCapWrite h v = s.modHall h fun hl => { hl with hbmCap := field v 0 11, galCap := field v 16 11 } := by
      unfold State.ledgerCapWrite
      exact if_pos (by simp [hin])
    refine ⟨_, (exec_ldgCapWrite hhost hup v).trans (congrArg _ hrun), ?_, ?_, rfl, s.modHall_only _⟩
    · rw [State.modHall_hall, if_pos rfl]
    · rw [State.modHall_hall, if_pos rfl]
  · refine Refused.of_refuse (v := v) ((exec_ldgCapWrite hhost hup v).trans (congrArg _ ?_))
    unfold State.ledgerCapWrite
    refine if_neg ?_
    simp only [Bool.and_eq_true, decide_eq_true_eq]
    omega

omit hhost hup in
theorem shareZeroDone_ends : ∃ s', exec (.shareZeroDone h) s = .next s' ∧ (s'.hall h).shareBusy = false ∧ (s'.hall h).share = (s.hall h).share ∧
    s'.sameBytes s := by
  refine ⟨_, rfl, ?_, ?_, ⟨rfl, rfl, rfl⟩⟩
  · unfold State.shareZeroed
    rw [State.modHall_hall, if_pos rfl]
    split
    · rfl
    next hidle => exact (Bool.not_eq_true _).mp hidle
  · unfold State.shareZeroed
    rw [State.modHall_hall, if_pos rfl]
    split
    · rfl
    · rfl

end

section
variable {s : State} (hhost : s.hostInterfaceUp = true)
include hhost

/-- An access of another width or alignment, or through a function that the module does not present (R298, R345). -/
theorem registerAccess_unsupported :
    (∀ off, off < 2 ^ 28 → off % 4 ≠ 0 → exec (.reg64LowRead off) s = .next (s.emit .unsupported)) ∧
    (∀ fn off width v, (width ≠ 4 ∧ width ≠ 8 ∨ off % width ≠ 0) → exec (.registerWrite fn off width v) s = .next (s.emit .unsupported)) ∧
    ∀ fn off width v, s.functionHere fn = false → exec (.registerWrite fn off width v) s = .next (s.emit .unsupported) := by
  refine ⟨fun off hlow hoff => ?_, fun fn off width v hunit => ?_, fun fn off width v hgone => ?_⟩
  · refine congrArg Host.Outcome.next ((if_pos hlow).trans ?_)
    unfold State.barRead
    simp [hhost, wholeUnit, hoff]
  · have hbad : wholeUnit off width = false := by
      unfold wholeUnit
      simp only [Bool.and_eq_false_iff, Bool.or_eq_false_iff, beq_eq_false_iff_ne]
      exact hunit
    refine congrArg Host.Outcome.next ?_
    unfold State.barWrite
    simp [hhost, hbad]
  · refine congrArg Host.Outcome.next ?_
    unfold State.barWrite
    simp [hhost, hgone]

/-- A page's interrupt mask. -/
theorem registerWrite_mask {fn : Nat} {v : W64} (hfn : s.functionHere fn = true) : ∃ s', exec (.registerWrite fn 0x018 4 v) s = .next s' ∧
    (s'.page 0).mask = lowWord v ∧ (s'.page 0).raw = (s.page 0).raw ∧ s'.mod = s.mod ∧ s'.items = s.items ∧ s'.sameBytes s := by
  have hmodule : s.Takes pgModule .module := State.takes_early hhost rfl rfl rfl
  have hrun : exec (.registerWrite fn 0x018 4 v) s = .next (s.modPage 0 fun p => { p with mask := lowWord v }) := by
    refine (exec_registerWrite4 hhost hfn (by decide)).trans (congrArg _ ?_)
    exact hmodule.regWrite_header (rel := 0x018) (by decide) (by decide) (by decide) (lowWord v)
  refine ⟨_, hrun, ?_, ?_, ?_, ?_, ?_⟩
  · rw [State.modPage_page_self]
  · rw [State.modPage_page_self]
  · rw [State.modPage_rest]
  · rw [State.modPage_rest]
  · rw [State.modPage_rest]
    exact ⟨rfl, rfl, rfl⟩

end

/-- Settles O59. -/
theorem windowsCacheAndManagement : Obligations.WindowsCacheAndManagement := by
  unfold Obligations.WindowsCacheAndManagement
  refine ⟨fun s h hhost hup => ?_, fun s hhost => ?_, ?_, ?_⟩
  · dsimp only
    obtain ⟨hcommit, hclear, hfetch⟩ := windowCommands_hold hhost hup
    obtain ⟨hnumber, hgone, hquota⟩ := windowCommit_refuses hhost hup
    obtain ⟨hinvalid, hledger⟩ := cacheCommands_hold hhost hup
    have honly : ∀ {s'}, PageOnly s s' → s'.items.map Item.name = s.items.map Item.name ∧ (∀ g, (s'.ring g).entry = (s.ring g).entry) ∧
        s'.knots = s.knots ∧ ∀ x, ¬s.chargeByte x → s'.mem.read x = s.mem.read x := fun h => ⟨h.names, h.entries, h.knots, h.bytes⟩
    refine ⟨fun howner hfree hgen => ?_, fun hne hge => (hnumber hne hge).runs, fun hlt hout => (hgone hlt hout).runs,
      fun hlt hhere habove => (hquota hlt hhere habove).runs, fun hgen => ?_, ?_, fun v hplain => ⟨?_, ?_, ?_, ?_⟩, shareZeroDone_ends, ?_,
      fun v => ⟨fun hin => ?_, fun hout => ((hledger v).2 hout).runs⟩, fun _ => strStateRead_latches hhost hup⟩
    · obtain ⟨s', hrun, hentry, hcount, hothers, hstays⟩ := hcommit howner hfree hgen
      exact ⟨s', hrun, hentry, hcount, hothers, honly hstays⟩
    · obtain ⟨s', hrun, hentry, hothers, hstays⟩ := hclear hgen
      exact ⟨s', hrun, hentry, hothers, honly hstays⟩
    · obtain ⟨s', hrun, hstage, hwindows, hstays⟩ := hfetch
      exact ⟨s', hrun, hstage, hwindows, honly hstays⟩
    · exact fun hraise hmost hfree => cacheShareSet_raises hhost hup hplain hraise hmost hfree
    · exact fun hraise _ hblocked => (cacheShareSet_refuses hhost hup hplain (.inr ⟨hraise, hblocked⟩)).runs
    · exact fun hmost => (cacheShareSet_refuses hhost hup hplain (.inl hmost)).runs
    · exact fun hlower hmost => cacheShareSet_lowers hhost hup hplain hlower hmost
    · obtain ⟨s', hrun, hnone, hothers, hwindows, hstays⟩ := hinvalid
      exact ⟨s', hrun, hnone, hothers, hwindows, honly hstays⟩
    · obtain ⟨s', hrun, hhbm, hgal, hledgers, hstays⟩ := (hledger v).1 hin
      exact ⟨s', hrun, hhbm, hgal, hledgers, honly hstays⟩
  · obtain ⟨hread, hwidth, hfunction⟩ := registerAccess_unsupported hhost
    exact ⟨newelTime_reads hhost, ringElapsed_reads hhost, hread, hwidth, hfunction, fun fn v hfn => registerWrite_mask hhost hfn⟩
  · intro s fn h p n v hhost hfn hcalm hup _ hport hn
    dsimp only
    obtain ⟨hready, -⟩ := State.ready_of_hallUp hup
    obtain ⟨hbase, hsel, howner, hone, htwo⟩ := registerWrite_treadle (v := v) hhost hfn hcalm hup
    obtain ⟨hshare, hcap, htarget, hmonitor, hfetch⟩ := registerWrite_hall (v := v) hhost hfn hcalm hup
    obtain ⟨hlevel, hclear, hcmp, hprog⟩ := registerWrite_module (v := v) hhost hfn hcalm hready hn
    obtain ⟨henable, hgrant⟩ := registerWrite_flight (v := v) hhost hfn hcalm hready hport
    obtain ⟨hvector, htimeout, hfirst, hsecond⟩ := registerWrite_fields (v := v) hhost hfn hcalm
    obtain ⟨hknot, hlen, hstream, hindex, hkeeper⟩ := registerWrite_hallFields (v := v) hhost hfn hcalm hup
    obtain ⟨hstarve, hstarved⟩ := registerWrite_starve (v := v) hhost hfn hcalm hup
    have hsrc := registerWrite_patSrc (v := v) hhost hfn hcalm hup
    refine ⟨?_, henable, hprog, hone, htwo, hfetch, hgrant, hvector, registerWrite_limit hhost hfn hcalm hready,
      fun hunset k hk => registerWrite_owner hhost hfn hcalm hunset hk, htimeout, hfirst, hsecond, registerWrite_coherence hhost hfn hcalm hn,
      fun hgood => ?_, fun hbad => ?_, hknot, hlen, fun k hk => (registerWrite_stages hhost hfn hcalm hup hk).1, hstarve, hstarved, hstream, hindex,
      fun k hk => (registerWrite_stages hhost hfn hcalm hup hk).2, hkeeper, registerWrite_timeouts hhost hfn hcalm hready hport,
      ⟨_, registerWrite_ethPeer hhost hfn hcalm hready hport, ?_, rfl, ⟨rfl, rfl, rfl⟩⟩, registerWrite_coord hhost hfn hcalm hready,
      registerWrite_readOnly hhost hfn hcalm hready⟩
    · intro x hx
      simp only [List.mem_cons, List.not_mem_nil, or_false] at hx
      obtain rfl | rfl | rfl | rfl | rfl | rfl | rfl | rfl | rfl | rfl := hx
      · exact hlevel
      · exact hclear
      · exact hcmp
      · exact hbase
      · exact hsel
      · exact howner
      · exact hshare
      · exact hcap
      · exact htarget
      · exact hmonitor
    · rw [if_pos hgood] at hsrc
      refine ⟨_, hsrc, ?_, rfl, rfl, ⟨rfl, rfl, rfl⟩⟩
      rw [State.modTreadle, State.modHall_hall, if_pos rfl]
    · rw [if_neg (by rw [hbad]; decide)] at hsrc
      refine ⟨_, hsrc, ?_, ?_⟩
      · rw [State.refuse_rest]
      · rw [State.refuse, State.fault_page_self, Page.withFault_raw]
        simp
    · rw [State.modFlight_flight, if_pos rfl]
  · intro s g off t hitem hcalm
    exact ⟨fun write width v hunit hnone hcall hin => managementAccess_refuses hitem write v hunit hnone hcall hin,
      fun v hunit => managementAccess_reads hitem v hunit, fun v hoff => managementAccess_masks hitem hcalm v hoff⟩

end Sys2Proof.Machine
end

section
/-!
What a flight does as it takes traffic in and answers it (R262, R265): its links' bookkeeping and what it sends, and nothing else.
-/
namespace Sys2Proof.Machine

/-! ### Traffic taken in -/

/-- Only the flights' bookkeeping and what was sent differ; how each flight stands is the same. -/
structure Heard (s w : State) : Prop where
  rest : w = { s with flights := w.flights, out := w.out }
  mode : ∀ p, (w.flight p).mode = (s.flight p).mode
  peer : ∀ p, (w.flight p).ethPeer = (s.flight p).ethPeer
  link : ∀ p, (w.flight p).link = (s.flight p).link
  paused : ∀ p, (w.flight p).paused = (s.flight p).paused
  sent : ∀ r ∈ s.out, r ∈ w.out

theorem Heard.refl (s : State) : Heard s s := ⟨rfl, fun _ => rfl, fun _ => rfl, fun _ => rfl, fun _ => rfl, fun _ => id⟩

theorem Heard.trans {s w x : State} (h : Heard s w) (k : Heard w x) : Heard s x where
  rest := by rw [k.rest, h.rest]
  mode p := (k.mode p).trans (h.mode p)
  peer p := (k.peer p).trans (h.peer p)
  link p := (k.link p).trans (h.link p)
  paused p := (k.paused p).trans (h.paused p)
  sent r hr := k.sent r (h.sent r hr)

theorem Heard.foldl {α : Type} {f : State → α → State} (hf : ∀ s a, Heard s (f s a)) (l : List α) (s : State) : Heard s (l.foldl f s) := by
  induction l generalizing s with
  | nil => exact Heard.refl s
  | cons a l ih => exact (hf s a).trans (ih _)

theorem State.emit_heard (s : State) (r : Reply) : Heard s (s.emit r) :=
  ⟨rfl, fun _ => rfl, fun _ => rfl, fun _ => rfl, fun _ => rfl, fun _ hr => List.mem_append_left _ hr⟩

theorem State.modFlight_heard (s : State) (p : Nat) {f : Flight → Flight} (hmode : ∀ x, (f x).mode = x.mode) (hpeer : ∀ x, (f x).ethPeer = x.ethPeer)
    (hlink : ∀ x, (f x).link = x.link) (hpaused : ∀ x, (f x).paused = x.paused) : Heard s (s.modFlight p f) := by
  refine ⟨rfl, fun q => ?_, fun q => ?_, fun q => ?_, fun q => ?_, fun _ => id⟩
  all_goals
    rw [State.modFlight_flight]
    split
    next heq => subst heq; simp only [hmode, hpeer, hlink, hpaused]
    next => rfl

theorem State.hear_heard (s : State) (p : Nat) : Heard s (s.hear p) := by
  unfold State.hear
  split
  · exact Heard.refl s
  · exact s.modFlight_heard p (fun _ => rfl) (fun _ => rfl) (fun _ => rfl) fun _ => rfl

theorem State.setInbox_heard (s : State) (p : Nat) (l : List (Nat × Nat)) : Heard s (s.setInbox p l) := by
  have hset : Heard s (if l = (s.flight p).inbox then s else s.modFlight p fun f => { f with inbox := l }) := by
    split
    · exact Heard.refl s
    · exact s.modFlight_heard p (fun _ => rfl) (fun _ => rfl) (fun _ => rfl) fun _ => rfl
  unfold State.setInbox
  dsimp only
  generalize (if l = (s.flight p).inbox then s else s.modFlight p fun f => { f with inbox := l }) = u at hset ⊢
  split
  · exact hset.trans (State.emit_heard _ _)
  · exact hset

theorem State.sendReply_heard (s : State) (p : Nat) (express : Bool) (vc : Nat) (pk : Packet) : Heard s (s.sendReply p express vc pk) := by
  unfold State.sendReply
  dsimp only
  split
  · exact s.modFlight_heard p (fun _ => rfl) (fun _ => rfl) (fun _ => rfl) fun _ => rfl
  · exact s.emit_heard _

theorem State.takeIn_heard (s : State) (p sender prio : Nat) : Heard s (s.takeIn p sender prio) :=
  ((s.hear_heard p).trans (State.setInbox_heard _ _ _)).trans (State.sendReply_heard _ _ _ _ _)

section
variable {s w : State} (h : Heard s w)
include h

theorem Heard.portUp (q : Nat) : w.portUp q = s.portUp q := by
  have hboot : w.boot = s.boot := by rw [h.rest]
  have hpart : w.part = s.part := by rw [h.rest]
  rw [State.portUp, h.link, State.flightAbsent, hboot, hpart, State.portUp, State.flightAbsent]

theorem Heard.linkVc (q vc : Nat) : w.linkVc q vc = s.linkVc q vc := State.linkVc_of_place (by rw [h.rest]) q vc

theorem Heard.frameOf (q p : Nat) (ty : BitVec 16) : w.frameOf q p ty = s.frameOf q p ty := by
  have hpart : w.part = s.part := by rw [h.rest]
  rw [State.frameOf, h.mode, h.peer, hpart, State.frameOf]

theorem Heard.response (q : Nat) (pk : Packet) (express : Bool) (vc : Nat) : w.response q pk express vc = s.response q pk express vc := by
  rw [State.response, h.linkVc, h.frameOf, State.response]

theorem Heard.quiet : Quiet s w := by
  refine ⟨?_, fun g => ?_, ?_⟩
  · rw [h.rest]
  · rw [h.rest]
    rfl
  · rw [h.rest]

/-- An answer on a port that is not paused goes out at once. -/
theorem Heard.sendReply {p : Nat} (hpaused : (s.flight p).paused = 0) (pk : Packet) (express : Bool) (vc : Nat) :
    w.sendReply p express vc pk = w.emit (s.response p pk express vc) := by
  rw [State.sendReply_unpaused ((h.paused p).trans hpaused), h.response]

end

/-! ### Ends of items (R187, R189) -/

theorem foldl_finish_rest (l : List Item) (s : State) : l.foldl (fun s t => s.finish t.id 0) s =
    { s with items := (l.foldl (fun s t => s.finish t.id 0) s).items } := by
  induction l generalizing s with
  | nil => rfl
  | cons t l ih =>
    rw [List.foldl_cons, ih, State.finish_rest]

theorem State.settleCloses_rest (s : State) : s.settleCloses = { s with items := s.settleCloses.items } := foldl_finish_rest _ s

theorem State.settleReceivers_rest (s : State) (key : Nat) : s.settleReceivers key = { s with items := (s.settleReceivers key).items } :=
  foldl_finish_rest _ s

end Sys2Proof.Machine
end

section
/-!
Remote writes at the receiver (R37, R187, R203, R262, R270, R276, R277, R288, R319).
-/
namespace Sys2Proof.Machine

/-! ### Acceptance (R276) -/

theorem Heard.acceptRefusal {s w : State} (h : Heard s w) (hd : RemoteHead) : w.acceptRefusal hd = s.acceptRefusal hd := by
  rw [h.rest]
  rfl

section
variable {s : State} {p : Nat} {h : RemoteHead} (hready : s.ready = true) (hup : s.portUp p = true)

section
variable (hhere : s.addressedHere h.address.toNat = true)
include hready hup hhere

theorem remoteWriteAccept_accepts (hfree : s.acceptRefusal h = none) : exec (.remoteWriteAccept p h) s =
    .next { s.takeIn p h.origin (priorityOf h.express h.vc) with
      rxs := s.rxs ++ [⟨p, h, windowKey (peerHall h.address.toNat) (peerWindow h.address.toNat), 0, [], []⟩] } := by
  have hheard := s.takeIn_heard p h.origin (priorityOf h.express h.vc)
  have hrxs : (s.takeIn p h.origin (priorityOf h.express h.vc)).rxs = s.rxs := by rw [hheard.rest]
  refine congrArg Host.Outcome.next ?_
  unfold State.acceptWrite
  rw [hready, hup, hhere, if_neg (by decide), if_neg (by decide)]
  dsimp only
  rw [hheard.acceptRefusal, hfree]
  dsimp only
  rw [hrxs]

theorem remoteWriteAccept_refuses {st : Status} (hrefused : s.acceptRefusal h = some st) (hpaused : (s.flight p).paused = 0) :
    exec (.remoteWriteAccept p h) s = .next ((s.takeIn p h.origin (priorityOf h.express h.vc)).emit (s.response p (.nack h.origin st) h.express)) := by
  have hheard := s.takeIn_heard p h.origin (priorityOf h.express h.vc)
  refine congrArg Host.Outcome.next ?_
  unfold State.acceptWrite
  rw [hready, hup, hhere, if_neg (by decide), if_neg (by decide)]
  dsimp only
  rw [hheard.acceptRefusal, hrefused]
  exact hheard.sendReply hpaused _ _ _

end

/-- An accepted write lies within its window and its region, in the window's format (R37, R276). -/
theorem State.acceptRefusal_none (hfree : s.acceptRefusal h = none) :
    winFormat (s.window (windowKey (peerHall h.address.toNat) (peerWindow h.address.toNat))) = h.sourceFormat ∧
      peerOffset h.address.toNat + h.sourceBytes ≤ winExtent (s.window (windowKey (peerHall h.address.toNat) (peerWindow h.address.toNat))) ∧
      (h.sourceBytes ≠ 0 → rangeOk (winBase (s.window (windowKey (peerHall h.address.toNat) (peerWindow h.address.toNat))) + peerOffset h.address.toNat)
        h.sourceBytes = true) := by
  unfold State.acceptRefusal at hfree
  dsimp only at hfree
  split at hfree
  · exact nomatch hfree
  split at hfree
  · exact nomatch hfree
  split at hfree
  · exact nomatch hfree
  split at hfree
  next hbase =>
    rw [hfree] at hbase
    exact absurd hbase (by decide)
  split at hfree
  · exact nomatch hfree
  next hformat =>
    split at hfree
    · exact nomatch hfree
    next hextent =>
      split at hfree
      · exact nomatch hfree
      next hrange =>
        simp only [Bool.or_eq_true, bne_iff_ne, not_or, not_not] at hformat
        refine ⟨hformat.1.1, Nat.le_of_not_lt hextent, fun hne => ?_⟩
        simpa [hne] using hrange

theorem State.acceptRefusal_absent (hgone : s.hallHere (peerHall h.address.toNat) = false) : s.acceptRefusal h = some .engineAbsent := by
  unfold State.acceptRefusal
  dsimp only
  rw [hgone]
  rfl

section
variable (hhall : s.hallHere (peerHall h.address.toNat) = true)
include hhall

theorem State.acceptRefusal_closed (hclosed : winOpen (s.window (windowKey (peerHall h.address.toNat) (peerWindow h.address.toNat))) = false ∨
    winGen (s.window (windowKey (peerHall h.address.toNat) (peerWindow h.address.toNat))) ≠ h.generation) : s.acceptRefusal h = some .windowClosed := by
  unfold State.acceptRefusal
  dsimp only
  rw [hhall, if_neg (by decide), if_pos]
  obtain hopen | hgen := hclosed
  · rw [hopen]
    rfl
  · rw [bne_iff_ne.mpr hgen, Bool.or_true]

theorem State.acceptRefusal_base {st : Status} (hopen : winOpen (s.window (windowKey (peerHall h.address.toNat) (peerWindow h.address.toNat))) = true)
    (hgen : winGen (s.window (windowKey (peerHall h.address.toNat) (peerWindow h.address.toNat))) = h.generation)
    (howner : h.sourceOwner = operatorOwner ∨ winOwner (s.window (windowKey (peerHall h.address.toNat) (peerWindow h.address.toNat))) = h.sourceOwner)
    (hbase : s.baseRefusal (winBase (s.window (windowKey (peerHall h.address.toNat) (peerWindow h.address.toNat)))) = some st) :
    s.acceptRefusal h = some st := by
  have hmay : (h.sourceOwner != operatorOwner &&
      winOwner (s.window (windowKey (peerHall h.address.toNat) (peerWindow h.address.toNat))) != h.sourceOwner) = false := by
    obtain heq | heq := howner
    · rw [heq, bne_self_eq_false, Bool.false_and]
    · rw [heq, bne_self_eq_false, Bool.and_false]
  unfold State.acceptRefusal
  dsimp only
  rw [hhall, hopen, hgen, bne_self_eq_false, hmay, hbase]
  rfl

end

end

/-! ### What the datagrams of an accepted write do (R277) -/

/-- A write that stops: it is forgotten, and its sender gets the status. -/
theorem State.dropWrite_drops {s w : State} (hheard : Heard s w) {r : Receiving} (hpaused : (s.flight r.port).paused = 0) (st : Status) :
    (∀ x ∈ (w.dropWrite r st).rxs, ¬(x.port = r.port ∧ x.head.origin = r.head.origin)) ∧
      s.response r.port (.nack r.head.origin st) r.head.express ∈ (w.dropWrite r st).out ∧ (w.dropWrite r st).sameBytes s := by
  have hreply : ({ w with rxs := w.rxs.filter fun x => !(x.port == r.port && x.head.origin == r.head.origin) } : State).sendReply r.port r.head.express 0
      (.nack r.head.origin st) =
        ({ w with rxs := w.rxs.filter fun x => !(x.port == r.port && x.head.origin == r.head.origin) } : State).emit
          (s.response r.port (.nack r.head.origin st) r.head.express) := by
    refine (State.sendReply_unpaused (s := { w with rxs := w.rxs.filter fun x => !(x.port == r.port && x.head.origin == r.head.origin) })
      ((hheard.paused r.port).trans hpaused) _ _ _).trans ?_
    exact congrArg (State.emit _) (hheard.response r.port (.nack r.head.origin st) r.head.express 0)
  unfold State.dropWrite
  rw [hreply, State.settleCloses_rest]
  refine ⟨fun x hx hsame => ?_, List.mem_append_right _ (List.mem_singleton_self _), ?_⟩
  · have hkept := (List.mem_filter.mp hx).2
    rw [hsame.1, hsame.2] at hkept
    simp at hkept
  · unfold State.sameBytes State.emit
    dsimp only
    rw [hheard.rest]
    exact ⟨rfl, rfl, rfl⟩

/-- The bytes of a write stored, with what counts and acknowledges them. -/
def State.writePlaced (s : State) (r : Receiving) (bs : List Byte) : State :=
  let a := winBase (s.window r.windowKey) + peerOffset r.head.address.toNat + r.got
  let s := s.store (s.access 0 (s.window r.windowKey)) a bs
  let s := if addrSpace a = 0 then s.markFull a bs.length else s
  s.setArrival r.windowKey (s.arrival r.windowKey + bs.length)

/-- What placing bytes leaves: the memory and the tokens they fill, and the arrival count of their window. -/
theorem State.writePlaced_rest (s : State) (r : Receiving) {bs : List Byte}
    (h5 : addrSpace (winBase (s.window r.windowKey) + peerOffset r.head.address.toNat + r.got) ≠ 5) : s.writePlaced r bs =
      { s with mem := (s.writePlaced r bs).mem, poison := (s.writePlaced r bs).poison, caches := (s.writePlaced r bs).caches
               full := (s.writePlaced r bs).full, arrived := Table.set 0 s.arrived r.windowKey (s.arrival r.windowKey + bs.length) } := by
  have hstored := s.store_stored (s.access 0 (s.window r.windowKey)) h5 bs
  unfold State.writePlaced
  dsimp only
  generalize s.store (s.access 0 (s.window r.windowKey)) (winBase (s.window r.windowKey) + peerOffset r.head.address.toNat + r.got) bs = u at *
  unfold Stored at hstored
  have harrived : u.arrived = s.arrived := by rw [hstored]
  unfold State.setArrival State.arrival
  split
  · rw [State.markFull_rest]
    dsimp only
    rw [harrived, hstored]
  · rw [harrived, hstored]

theorem State.writePlaced_mem (s : State) (r : Receiving) (bs : List Byte) : (s.writePlaced r bs).mem =
    (s.store (s.access 0 (s.window r.windowKey)) (winBase (s.window r.windowKey) + peerOffset r.head.address.toNat + r.got) bs).mem := by
  unfold State.writePlaced
  dsimp only
  split
  · rfl
  · rfl

/-- The acknowledgements that are due once bytes have been placed. -/
def State.acksSent (s : State) (r : Receiving) (n : Nat) : State :=
  (List.range (acksDue r.got (r.got + n) r.head.sourceBytes)).foldl (fun s _ => s.sendReply r.port r.head.express 0 (.ack r.head.origin)) s

/-- What a receiver notes once bytes of a write have been placed. -/
def Receiving.placed (r : Receiving) (got : Nat) (chunk : List Byte) (x : Receiving) : Receiving :=
  if x.port == r.port && x.head.origin == r.head.origin then { x with got := got, chunk := chunk } else x

theorem State.placeWrite_eq (s : State) (r : Receiving) (bs chunk : List Byte) : s.placeWrite r bs chunk =
    (({ (s.writePlaced r bs).acksSent r bs.length with
        rxs := (((s.writePlaced r bs).acksSent r bs.length).rxs.map (r.placed (r.got + bs.length) chunk)).filter fun x =>
          decide (x.got < x.head.sourceBytes) } : State).settleReceivers r.windowKey).settleCloses := rfl

/-- What placing bytes of a write does. -/
theorem State.placeWrite_places (s : State) (r : Receiving) {bs : List Byte} (chunk : List Byte)
    (h5 : addrSpace (winBase (s.window r.windowKey) + peerOffset r.head.address.toNat + r.got) ≠ 5) :
    (s.placeWrite r bs chunk).arrival r.windowKey = s.arrival r.windowKey + bs.length ∧
      (∀ x ∈ (s.placeWrite r bs chunk).rxs, x.port = r.port → x.head.origin = r.head.origin → x.got = r.got + bs.length) ∧
      (s.placeWrite r bs chunk).windows = s.windows ∧ (s.placeWrite r bs chunk).knots = s.knots ∧
      (s.placeWrite r bs chunk).mem =
        (s.store (s.access 0 (s.window r.windowKey)) (winBase (s.window r.windowKey) + peerOffset r.head.address.toNat + r.got) bs).mem := by
  have hplaced := s.writePlaced_rest r (bs := bs) h5
  have hmem := s.writePlaced_mem r bs
  have hacks : Heard (s.writePlaced r bs) ((s.writePlaced r bs).acksSent r bs.length) := Heard.foldl (fun s _ => s.sendReply_heard _ _ _ _) _ _
  rw [State.placeWrite_eq]
  generalize (s.writePlaced r bs).acksSent r bs.length = u at hacks ⊢
  generalize s.writePlaced r bs = v at *
  have hrest := hacks.rest
  rw [State.settleCloses_rest, State.settleReceivers_rest]
  refine ⟨?_, fun x hx hport horigin => ?_, ?_, ?_, ?_⟩
  · change Table.get 0 u.arrived r.windowKey = _
    rw [hrest, hplaced]
    exact Table.get_set_self _ _ _ _
  · obtain ⟨y, hy, rfl⟩ := List.mem_map.mp (List.mem_filter.mp hx).1
    unfold Receiving.placed at hport horigin ⊢
    split at hport
    next hmine => rw [if_pos hmine]
    next hmine =>
      rw [if_neg hmine] at horigin
      exact absurd (by simp [hport, horigin]) hmine
  · change u.windows = _
    rw [hrest, hplaced]
  · change u.knots = _
    rw [hrest, hplaced]
  · change u.mem = _
    rw [hrest]
    exact hmem

end Sys2Proof.Machine
end

section
/-!
The datagrams of remote writes, and writes that only pass through (R187, R203, R262, R276, R277, R319).
-/
namespace Sys2Proof.Machine

section
variable {s : State} {p origin : Nat} {data : List Byte} {r : Receiving} (hready : s.ready = true) (hup : s.portUp p = true)
  (hfind : s.rxs.find? (fun r => r.port == p && r.head.origin == origin) = some r)

theorem Receiving.found (hfind : s.rxs.find? (fun r => r.port == p && r.head.origin == origin) = some r) : r.port = p ∧ r.head.origin = origin := by
  have hmine := List.find?_some hfind
  rwa [Bool.and_eq_true, beq_iff_eq, beq_iff_eq] at hmine

/-- The bytes that a datagram would place. -/
def Receiving.due (r : Receiving) (data : List Byte) : Nat :=
  if r.head.sealedPush then r.chunkLength - 16 else (data.take (r.head.sourceBytes - r.got)).length

/-- Where they go. -/
def State.writeAddr (s : State) (r : Receiving) : Nat := winBase (s.window r.windowKey) + peerOffset r.head.address.toNat + r.got

theorem State.writeStop_lost (hlost : s.hallLost (r.windowKey / 65536) = true) (n : Nat) : s.writeStop r n = some .hallLost := by
  unfold State.writeStop
  rw [hlost]
  rfl

include hready hup hfind

theorem remoteDatagram_stops {st : Status} (hstop : s.writeStop r (r.due data) = some st) (hpaused : (s.flight p).paused = 0) :
    ∃ s', exec (.remoteDatagram p origin data) s = .next s' ∧ (∀ x ∈ s'.rxs, ¬(x.port = p ∧ x.head.origin = origin)) ∧
      s.response p (.nack origin st) r.head.express ∈ s'.out ∧ s'.sameBytes s := by
  obtain ⟨hport, horigin⟩ := Receiving.found hfind
  have hdrop := State.dropWrite_drops (s.takeIn_heard p origin r.priority) (r := r) (by rw [hport]; exact hpaused) st
  rw [hport, horigin] at hdrop
  refine ⟨_, congrArg Host.Outcome.next ?_, hdrop⟩
  unfold State.remoteDatagram
  rw [hready, hup, if_neg (by decide), hfind]
  dsimp only
  rw [show s.writeStop r (if r.head.sealedPush then r.chunkLength - 16 else (data.take (r.head.sourceBytes - r.got)).length) = some st from hstop]

variable (hgoes : s.writeStop r (r.due data) = none)
include hgoes

/-- A write that goes on, by what it brings. -/
theorem exec_remoteDatagram : exec (.remoteDatagram p origin data) s = .next (
    if r.head.sealedPush && decide ((r.chunk ++ data).length < r.chunkLength) then
      { s.takeIn p origin r.priority with rxs := (s.takeIn p origin r.priority).rxs.map fun x =>
          if x.port == p && x.head.origin == origin then { x with chunk := r.chunk ++ data } else x }
    else if s.writeHeld (s.writeAddr r) (r.due data) then s.bufferIn p origin r.priority
    else if r.head.sealedPush then (s.takeIn p origin r.priority).placeSealed r ((r.chunk ++ data).take r.chunkLength)
    else (s.takeIn p origin r.priority).placeWrite r (data.take (r.due data)) []) := by
  refine congrArg Host.Outcome.next ?_
  unfold State.remoteDatagram
  rw [hready, hup, if_neg (by decide), hfind]
  dsimp only
  rw [show s.writeStop r (if r.head.sealedPush then r.chunkLength - 16 else (data.take (r.head.sourceBytes - r.got)).length) = none from hgoes]
  rfl

section
variable (hplain : r.head.sealedPush = false)
include hplain

omit hready hup hfind hgoes in
theorem Receiving.due_plain : r.due data = (data.take (r.head.sourceBytes - r.got)).length := by
  unfold Receiving.due
  rw [hplain]
  rfl

theorem remoteDatagram_waits (hheld : s.writeHeld (s.writeAddr r) (r.due data) = true) :
    exec (.remoteDatagram p origin data) s = .next (s.bufferIn p origin r.priority) := by
  rw [exec_remoteDatagram hready hup hfind hgoes, hplain, hheld]
  rfl

theorem remoteDatagram_lands (h5 : addrSpace (s.writeAddr r) ≠ 5) (hfree : s.writeHeld (s.writeAddr r) (r.due data) = false) :
    ∃ s', exec (.remoteDatagram p origin data) s = .next s' ∧
      s'.arrival r.windowKey = s.arrival r.windowKey + (data.take (r.head.sourceBytes - r.got)).length ∧
      (∀ x ∈ s'.rxs, x.port = p → x.head.origin = origin → x.got = r.got + (data.take (r.head.sourceBytes - r.got)).length) ∧ s'.windows = s.windows ∧
      s'.knots = s.knots ∧ (addrSpace (winBase (s.window r.windowKey)) ≠ 2 → addrSpace (s.writeAddr r) ≠ 2 →
        (s.access 0 (s.window r.windowKey)).keys = none →
        s'.mem.readBytes (s.writeAddr r) (data.take (r.head.sourceBytes - r.got)).length = data.take (r.head.sourceBytes - r.got) ∧
        ∀ x, x < s.writeAddr r ∨ s.writeAddr r + (data.take (r.head.sourceBytes - r.got)).length ≤ x → s'.mem.read x = s.mem.read x) := by
  obtain ⟨hport, horigin⟩ := Receiving.found hfind
  have hbytes : data.take (r.due data) = data.take (r.head.sourceBytes - r.got) := by
    rw [Receiving.due_plain hplain, List.length_take, List.take_eq_take_iff]
    omega
  have hheard := s.takeIn_heard p origin r.priority
  have hrun := exec_remoteDatagram hready hup hfind hgoes
  rw [hplain, hfree, hbytes, Bool.false_and, if_neg (by decide), if_neg (by decide), if_neg (by decide)] at hrun
  generalize s.takeIn p origin r.priority = w at *
  have hrest := hheard.rest
  have hwindow : w.window r.windowKey = s.window r.windowKey := by
    rw [hrest]
    rfl
  have haccess : w.access 0 (s.window r.windowKey) = s.access 0 (s.window r.windowKey) := by
    rw [hrest]
    rfl
  have hplace := w.placeWrite_places r (bs := data.take (r.head.sourceBytes - r.got)) [] (by rw [hwindow]; exact h5)
  rw [hwindow, haccess, hport, horigin] at hplace
  obtain ⟨harrival, hgot, hwindows, hknots, hmem⟩ := hplace
  refine ⟨_, hrun, harrival.trans ?_, hgot, hwindows.trans ?_, hknots.trans ?_, fun _ h2 hkeys => ?_⟩
  · rw [hrest]
    rfl
  · rw [hrest]
  · rw [hrest]
  · have hkey : hostKey (s.access 0 (s.window r.windowKey)).function (s.writeAddr r) = s.writeAddr r := by
      rw [s.access_function]
      unfold hostKey
      split
      · omega
      · rfl
    have hstore := State.store_mem_of_plain (s := w) hkeys h5 h2 (data.take (r.head.sourceBytes - r.got))
    rw [hkey] at hstore
    rw [hmem.trans hstore]
    refine ⟨?_, fun x hx => ?_⟩
    · exact Memory.readBytes_writeBytes _ _ _
    · rw [Memory.read_writeBytes_outside _ _ hx, hrest]

end

section
variable (hsealed : r.head.sealedPush = true)
include hsealed

/-- A sealed chunk is kept until it is whole (R319). -/
theorem remoteDatagram_keeps (hpart : (r.chunk ++ data).length < r.chunkLength) : ∃ s', exec (.remoteDatagram p origin data) s = .next s' ∧
    s'.sameBytes s ∧ s'.items = s.items ∧ ∀ x ∈ s'.rxs, x.port = p → x.head.origin = origin → x.chunk = r.chunk ++ data := by
  have hheard := s.takeIn_heard p origin r.priority
  have hrun := exec_remoteDatagram hready hup hfind hgoes
  rw [hsealed, decide_eq_true hpart, Bool.and_self, if_pos rfl] at hrun
  generalize s.takeIn p origin r.priority = w at *
  refine ⟨_, hrun, ?_, ?_, fun x hx hport horigin => ?_⟩
  · unfold State.sameBytes
    dsimp only
    rw [hheard.rest]
    exact ⟨rfl, rfl, rfl⟩
  · change w.items = _
    rw [hheard.rest]
  · obtain ⟨y, hy, rfl⟩ := List.mem_map.mp hx
    split at hport
    next hmine => rw [if_pos hmine]
    next hmine =>
      rw [if_neg hmine] at horigin
      exact absurd (by simp [hport, horigin]) hmine

variable (hwhole : r.chunkLength ≤ (r.chunk ++ data).length) (hfree : s.writeHeld (s.writeAddr r) (r.chunkLength - 16) = false)
include hwhole hfree

/-- What a sealed chunk that is whole opens to. -/
def State.openedChunk (s : State) (r : Receiving) (data : List Byte) : Option (List Byte) :=
  (s.dataKey (s.keySlotOf (winOwner (s.window r.windowKey)))).bind fun k =>
    gcmOpen (pushKey k r.head.context r.head.pushNonce) (pushIv r.head.pushCounter (r.got / 65536))
      (pushAad r.head.context (r.windowKey % 65536) r.head.generation) ((r.chunk ++ data).take r.chunkLength)

theorem exec_remoteDatagram_sealed : exec (.remoteDatagram p origin data) s =
    .next ((s.takeIn p origin r.priority).placeSealed r ((r.chunk ++ data).take r.chunkLength)) := by
  have hdue : r.due data = r.chunkLength - 16 := by
    unfold Receiving.due
    rw [hsealed]
    rfl
  rw [exec_remoteDatagram hready hup hfind hgoes, hsealed, hdue, hfree, decide_eq_false (Nat.not_lt.mpr hwhole)]
  rfl

omit hready hup hfind hgoes hsealed hwhole hfree in
/-- A sealed chunk that does not open drops its write. -/
theorem State.placeSealed_none {w : State} (hheard : Heard s w) (hnone : s.openedChunk r data = none) :
    w.placeSealed r ((r.chunk ++ data).take r.chunkLength) = w.dropWrite r .key := by
  have hkey : w.dataKey (w.keySlotOf (winOwner (w.window r.windowKey))) = s.dataKey (s.keySlotOf (winOwner (s.window r.windowKey))) := by
    rw [hheard.rest]
    rfl
  unfold State.openedChunk at hnone
  unfold State.placeSealed
  dsimp only
  rw [hkey]
  generalize s.dataKey (s.keySlotOf (winOwner (s.window r.windowKey))) = key at hnone ⊢
  cases key with
  | none => rfl
  | some k =>
    rw [Option.bind_some] at hnone
    dsimp only
    rw [hnone]

omit hready hup hfind hgoes hsealed hwhole hfree in
/-- One that opens is placed. -/
theorem State.placeSealed_some {w : State} (hheard : Heard s w) {plain : List Byte} (hopen : s.openedChunk r data = some plain) :
    w.placeSealed r ((r.chunk ++ data).take r.chunkLength) = w.placeWrite r plain [] := by
  have hkey : w.dataKey (w.keySlotOf (winOwner (w.window r.windowKey))) = s.dataKey (s.keySlotOf (winOwner (s.window r.windowKey))) := by
    rw [hheard.rest]
    rfl
  unfold State.openedChunk at hopen
  unfold State.placeSealed
  dsimp only
  rw [hkey]
  generalize s.dataKey (s.keySlotOf (winOwner (s.window r.windowKey))) = key at hopen ⊢
  cases key with
  | none => exact nomatch hopen
  | some k =>
    rw [Option.bind_some] at hopen
    dsimp only
    rw [hopen]

theorem remoteDatagram_unopened (hnone : s.openedChunk r data = none) (hpaused : (s.flight p).paused = 0) :
    ∃ s', exec (.remoteDatagram p origin data) s = .next s' ∧ (∀ x ∈ s'.rxs, ¬(x.port = p ∧ x.head.origin = origin)) ∧
      s.response p (.nack origin .key) r.head.express ∈ s'.out ∧ s'.sameBytes s := by
  obtain ⟨hport, horigin⟩ := Receiving.found hfind
  have hheard := s.takeIn_heard p origin r.priority
  have hdrop := State.dropWrite_drops hheard (r := r) (by rw [hport]; exact hpaused) .key
  rw [hport, horigin] at hdrop
  exact ⟨_, (exec_remoteDatagram_sealed hready hup hfind hgoes hsealed hwhole hfree).trans (congrArg _ (State.placeSealed_none hheard hnone)), hdrop⟩

theorem remoteDatagram_opened {plain : List Byte} (hopen : s.openedChunk r data = some plain) (h5 : addrSpace (s.writeAddr r) ≠ 5) :
    ∃ s', exec (.remoteDatagram p origin data) s = .next s' ∧ s'.arrival r.windowKey = s.arrival r.windowKey + plain.length := by
  have hheard := s.takeIn_heard p origin r.priority
  have hrun := (exec_remoteDatagram_sealed hready hup hfind hgoes hsealed hwhole hfree).trans (congrArg _ (State.placeSealed_some hheard hopen))
  generalize s.takeIn p origin r.priority = w at *
  have hwindow : w.window r.windowKey = s.window r.windowKey := by
    rw [hheard.rest]
    rfl
  have harrival : w.arrival r.windowKey = s.arrival r.windowKey := by
    rw [hheard.rest]
    rfl
  exact ⟨_, hrun, (w.placeWrite_places r [] (by rw [hwindow]; exact h5)).1.trans (by rw [harrival])⟩

end

end

/-! ### Writes that pass through (R262) -/

/-- Of one request held, a port with every kind of credit may send that one. -/
theorem State.readyHeld_clear {s : State} {q prio : Nat} {pk : Packet} {f : Flight} (hclear : f.clear pk.sender)
    (hflight : s.flight q = { f with held := [(prio, pk)] }) : s.readyHeld q = [(prio, pk)] := by
  obtain ⟨-, hpaused, hcredits, hxcredits, hown, hxown⟩ := hclear
  have hsend : (s.flight q).maySend prio pk.sender (s.sharedOk pk) = true := by
    unfold Flight.maySend
    rw [hflight]
    dsimp only
    rw [show f.paused.getLsbD prio = false by rw [hpaused]; simp]
    have hown' : ({ f with held := [(prio, pk)] } : Flight).ownSpent pk.sender < axisReserve := hown
    split
    · rw [decide_eq_true hcredits, decide_eq_true hown']
      simp
    · rw [decide_eq_true hxcredits, decide_eq_true hxown]
      simp
  have hheld : (s.flight q).held = [(prio, pk)] := by rw [hflight]
  rw [State.readyHeld, hheld]
  simp [hsend]

/-- It grants that request, whatever its class. -/
theorem State.grantPort_one {s : State} {q prio : Nat} {pk : Packet} (hready : s.readyHeld q = [(prio, pk)]) :
    ∃ f : Flight, s.grantPort q = some ((s.modFlight q fun _ => f).emit (s.requestOut q prio pk)) := by
  unfold State.grantPort
  dsimp only
  rw [hready]
  cases hclass : heldExpress (prio, pk) with
  | false =>
    have hax : [(prio, pk)].filter (fun q => !heldExpress q) = [(prio, pk)] := by rw [List.filter_cons_of_pos (by rw [hclass]; rfl), List.filter_nil]
    have hex : [(prio, pk)].filter heldExpress = [] := by rw [List.filter_cons_of_neg (by rw [hclass]; decide), List.filter_nil]
    rw [hax, hex]
    simp only [List.isEmpty_nil, Bool.not_true, Bool.false_and, Bool.false_eq_true, if_false, Flight.choose_single]
    exact ⟨_, rfl⟩
  | true =>
    have hax : [(prio, pk)].filter (fun q => !heldExpress q) = [] := by rw [List.filter_cons_of_neg (by rw [hclass]; decide), List.filter_nil]
    have hex : [(prio, pk)].filter heldExpress = [(prio, pk)] := by rw [List.filter_cons_of_pos hclass, List.filter_nil]
    rw [hax, hex]
    simp only [List.isEmpty_nil, List.isEmpty_cons, Bool.not_false, Bool.true_and, Bool.true_or, if_true, Flight.choose_single]
    exact ⟨_, rfl⟩

/-- A port with nothing held and every kind of credit sends a request at once, whatever its class. -/
theorem State.sendRequest_sends {s : State} {q prio : Nat} {pk : Packet} (hclear : (s.flight q).clear pk.sender) :
    s.sendRequest q prio pk = { s with flights := (s.sendRequest q prio pk).flights, out := s.out ++ [s.requestOut q prio pk] } := by
  have hself : (s.modFlight q fun f => { f with held := f.held ++ [(prio, pk)] }).flight q = { s.flight q with held := [(prio, pk)] } := by
    rw [State.modFlight_self, hclear.1, List.nil_append]
  have hreq : (s.modFlight q fun f => { f with held := f.held ++ [(prio, pk)] }).requestOut q prio pk = s.requestOut q prio pk := by
    rw [State.requestOut, State.frameOf, hself, State.requestOut, State.frameOf]
    rfl
  have hsend : s.sendRequest q prio pk = State.drainPort q ((s.modFlight q fun f => { f with held := f.held ++ [(prio, pk)] }).flight q).held.length
    (s.modFlight q fun f => { f with held := f.held ++ [(prio, pk)] }) := rfl
  have hrest : (s.modFlight q fun f => { f with held := f.held ++ [(prio, pk)] }) =
      { s with flights := (s.modFlight q fun f => { f with held := f.held ++ [(prio, pk)] }).flights } := rfl
  rw [hsend]
  generalize (s.modFlight q fun f => { f with held := f.held ++ [(prio, pk)] }) = u at hself hreq hrest ⊢
  obtain ⟨f, hgrant⟩ := State.grantPort_one (State.readyHeld_clear hclear hself)
  have hdrain : State.drainPort q (u.flight q).held.length u = (u.modFlight q fun _ => f).emit (u.requestOut q prio pk) := by
    rw [hself, List.length_singleton, State.drainPort, hgrant]
    rfl
  rw [hdrain, hreq, hrest]
  rfl

/-- A request that goes on after what brought it has been taken in. -/
theorem TookIn.sends {s w u : State} {p prio : Nat} (h : TookIn s w p prio) {q prio' : Nat} {pk : Packet} (hclear : (s.flight q).clear pk.sender)
    (htransits : u = { w with transits := u.transits }) :
    (u.sendRequest q prio' pk).items = s.items ∧ (u.sendRequest q prio' pk).sameBytes s ∧ (u.sendRequest q prio' pk).rxs = s.rxs ∧
      (u.sendRequest q prio' pk).out = s.out ++ [s.creditBack p prio, s.requestOut q prio' pk] ∧ (u.sendRequest q prio' pk).transits = u.transits := by
  have hclear' : (u.flight q).clear pk.sender := by
    rw [htransits]
    exact h.clear hclear
  have hreq : u.requestOut q prio' pk = s.requestOut q prio' pk := by
    rw [State.requestOut, State.requestOut, ← h.frameOf, htransits]
    rfl
  have hrest := State.sendRequest_sends (prio := prio') hclear'
  rw [hreq] at hrest
  generalize u.sendRequest q prio' pk = v at hrest ⊢
  have hwrest := h.rest
  refine ⟨?_, ?_, ?_, ?_, ?_⟩
  · rw [hrest, htransits, hwrest]
  · rw [hrest, htransits, hwrest]
    exact ⟨rfl, rfl, rfl⟩
  · rw [hrest, htransits, hwrest]
  · have hout : u.out = w.out := by rw [htransits]
    have hwout : w.out = s.out ++ [s.creditBack p prio] := by rw [hwrest]
    rw [hrest, hout, hwout, List.append_assoc]
    rfl
  · rw [hrest]

/-- The first datagram of a write for another module of the axis goes on. -/
theorem remoteWriteAccept_passes {s : State} {p : Nat} {h : RemoteHead} (hready : s.ready = true) (hup : s.portUp p = true) (haxis : h.express = false)
    (haway : s.awayAxes h.address.toNat = [portAxis p]) (hon : s.portUp (onwardPort p) = true)
    (hroom : s.channelRoom (onwardPort p) (some (peerHall h.address.toNat)) = true) (hclear : (s.flight (onwardPort p)).clear h.origin)
    (hpaused : (s.flight p).paused = 0) (hinbox : (s.flight p).inbox = []) :
    ∃ s', exec (.remoteWriteAccept p h) s = .next s' ∧ s'.items = s.items ∧ s'.sameBytes s ∧ s'.rxs = s.rxs ∧
      s'.out = s.out ++ [s.creditBack p (priorityOf false h.vc), s.requestOut (onwardPort p) (priorityOf false (s.linkVc (onwardPort p) h.vc))
        (.head { h with vc := s.linkVc (onwardPort p) h.vc })] ∧
      (h.sourceBytes ≠ 0 → s'.transits = s.transits ++
        [⟨p, h.origin, onwardPort p, s.linkVc (onwardPort p) h.vc, peerHall h.address.toNat, h.sourceBytes, chunkCount h.sourceBytes⟩]) := by
  have htook := State.takeIn_took hpaused hinbox h.origin (priorityOf false h.vc)
  have helsewhere : s.addressedHere h.address.toNat = false := by
    unfold State.addressedHere
    rw [haway]
    rfl
  obtain ⟨vc, hvc⟩ : ∃ vc, s.linkVc (onwardPort p) h.vc = vc := ⟨_, rfl⟩
  have hrun : exec (.remoteWriteAccept p h) s = .next (({ s.takeIn p h.origin (priorityOf false h.vc) with
      transits := if h.sourceBytes = 0 then (s.takeIn p h.origin (priorityOf false h.vc)).transits
        else (s.takeIn p h.origin (priorityOf false h.vc)).transits ++
          [⟨p, h.origin, onwardPort p, vc, peerHall h.address.toNat, h.sourceBytes, chunkCount h.sourceBytes⟩] } : State).sendRequest
      (onwardPort p) (priorityOf false vc) (.head { h with vc := vc })) := by
    refine congrArg Host.Outcome.next ?_
    unfold State.acceptWrite State.passWrite
    rw [hready, hup, helsewhere, if_neg (by decide), if_pos (by decide)]
    dsimp only
    rw [haway, haxis, hon, hroom, bne_self_eq_false, if_neg (by decide), if_pos rfl, hvc]
  rw [hvc]
  generalize s.takeIn p h.origin (priorityOf false h.vc) = w at htook hrun
  obtain ⟨hitems, hbytes, hrxs, hout, htransits⟩ := htook.sends (q := onwardPort p) (prio' := priorityOf false vc) (pk := .head { h with vc := vc }) hclear
    (u := { w with transits := if h.sourceBytes = 0 then w.transits else w.transits ++
      [⟨p, h.origin, onwardPort p, vc, peerHall h.address.toNat, h.sourceBytes, chunkCount h.sourceBytes⟩] }) rfl
  refine ⟨_, hrun, hitems, hbytes, hrxs, hout, fun hne => htransits.trans ((if_neg hne).trans ?_)⟩
  rw [htook.rest]

section
variable {s : State} {p origin : Nat} {data : List Byte} {express : Bool} (hready : s.ready = true) (hup : s.portUp p = true)
  (hfind : s.rxs.find? (fun r => r.port == p && r.head.origin == origin) = none) (hpaused : (s.flight p).paused = 0) (hinbox : (s.flight p).inbox = [])
include hready hup hfind hpaused hinbox

/-- Of a write that is neither here nor on its way nothing is kept. -/
theorem remoteDatagram_unknown (hnone : (s.transits.find? fun x => x.port == p && x.origin == origin && decide (0 < x.left)) = none) :
    ∃ s', exec (.remoteDatagram p origin data express) s = .next s' ∧ s'.items = s.items ∧ s'.sameBytes s ∧
      s'.out = s.out ++ [s.creditBack p (priorityOf express 0)] := by
  have htook := State.takeIn_took hpaused hinbox origin (priorityOf express 0)
  refine ⟨s.takeIn p origin (priorityOf express 0), congrArg Host.Outcome.next ?_, ?_, ?_, ?_⟩
  · unfold State.remoteDatagram
    rw [hready, hup, if_neg (by decide), hfind, hnone]
  · rw [htook.rest]
  · rw [htook.rest]
    exact ⟨rfl, rfl, rfl⟩
  · rw [htook.rest]

/-- What follows the first datagram of a write goes on as it did. -/
theorem remoteDatagram_passes {x : Transit} (hx : (s.transits.find? fun x => x.port == p && x.origin == origin && decide (0 < x.left)) = some x)
    (hclear : (s.flight x.out).clear origin) : ∃ s', exec (.remoteDatagram p origin data express) s = .next s' ∧ s'.items = s.items ∧ s'.sameBytes s ∧
      s'.out = s.out ++ [s.creditBack p (priorityOf false 0), s.requestOut x.out (priorityOf false x.vc) (.body origin data)] := by
  have hmine := List.find?_some hx
  rw [Bool.and_eq_true, Bool.and_eq_true, beq_iff_eq, beq_iff_eq] at hmine
  obtain ⟨⟨hport, horigin⟩, -⟩ := hmine
  have htook := State.takeIn_took hpaused hinbox origin (priorityOf false 0)
  obtain ⟨hitems, hbytes, -, hout, -⟩ := htook.sends (q := x.out) (prio' := priorityOf false x.vc) (pk := .body origin data) hclear
    (u := { s.takeIn p origin (priorityOf false 0) with transits := (s.takeIn p origin (priorityOf false 0)).transits.map fun y =>
      if y = x then { y with left := y.left - data.length } else y }) rfl
  refine ⟨_, congrArg Host.Outcome.next ?_, hitems, hbytes, hout⟩
  unfold State.remoteDatagram
  rw [hready, hup, if_neg (by decide), hfind, hx]
  dsimp only
  unfold State.passBody
  rw [hport, horigin]

end

/-- Settles O50. -/
theorem remoteWrites : Obligations.RemoteWrites := by
  unfold Obligations.RemoteWrites
  refine ⟨fun s p h hready hup hhere => ?_, fun s p origin data r hready hup hfind => ?_,
    fun s p h hready hup haxis haway hon hroom hclear hpaused hinbox => remoteWriteAccept_passes hready hup haxis haway hon hroom hclear hpaused hinbox,
    fun s p origin data express hready hup hfind hpaused hinbox => ⟨fun hnone => remoteDatagram_unknown hready hup hfind hpaused hinbox hnone,
      fun x hx hclear => remoteDatagram_passes hready hup hfind hpaused hinbox hx hclear⟩⟩
  · exact ⟨fun hfree => remoteWriteAccept_accepts hready hup hhere hfree, fun st hst hpaused => remoteWriteAccept_refuses hready hup hhere hst hpaused,
      State.acceptRefusal_none, State.acceptRefusal_absent, fun hhall hclosed => State.acceptRefusal_closed hhall hclosed,
      fun st hhall hopen hgen howner hbase => State.acceptRefusal_base hhall hopen hgen howner hbase⟩
  · refine ⟨fun hlost => s.writeStop_lost hlost _, fun hgoes hplain => ⟨fun hheld => ?_, fun h5 hfree => ?_⟩,
      fun st hstop hpaused => remoteDatagram_stops hready hup hfind hstop hpaused,
      fun hgoes hsealed hpart => remoteDatagram_keeps hready hup hfind hgoes hsealed hpart,
      fun hgoes hsealed hwhole hfree => ⟨fun hnone hpaused => remoteDatagram_unopened hready hup hfind hgoes hsealed hwhole hfree hnone hpaused,
        fun plain hopen h5 => remoteDatagram_opened hready hup hfind hgoes hsealed hwhole hfree hopen h5⟩⟩
    · exact remoteDatagram_waits hready hup hfind hgoes hplain (by rw [Receiving.due_plain hplain]; exact hheld)
    · exact remoteDatagram_lands hready hup hfind hgoes hplain h5 (by rw [Receiving.due_plain hplain]; exact hfree)

end Sys2Proof.Machine
end

section
/-!
What a collective's traffic goes through: the ports it leaves on, the lookups of its source, and the end of its item (R208, R263, R265, R271).
-/
namespace Sys2Proof.Machine

/-! ### Requests sent (R263, R265) -/

theorem State.setFlight_heard (s : State) (p : Nat) {g : Flight} (hmode : g.mode = (s.flight p).mode) (hpeer : g.ethPeer = (s.flight p).ethPeer)
    (hlink : g.link = (s.flight p).link) (hpaused : g.paused = (s.flight p).paused) : Heard s (s.modFlight p fun _ => g) := by
  refine ⟨rfl, fun q => ?_, fun q => ?_, fun q => ?_, fun q => ?_, fun _ => id⟩
  all_goals
    rw [State.modFlight_flight]
    split
    next heq => subst heq; assumption
    next => rfl

/-- Credits spent are bookkeeping: how the flight stands is the same. -/
theorem Flight.spend_stands (prio sender : Nat) (now : W64) (f : Flight) : (f.spend prio sender now).mode = f.mode ∧
    (f.spend prio sender now).ethPeer = f.ethPeer ∧ (f.spend prio sender now).link = f.link ∧ (f.spend prio sender now).paused = f.paused := by
  unfold Flight.spend
  split
  · exact ⟨rfl, rfl, rfl, rfl⟩
  · exact ⟨rfl, rfl, rfl, rfl⟩

theorem State.grantPort_heard {s w : State} {p : Nat} (h : s.grantPort p = some w) : Heard s w := by
  unfold State.grantPort at h
  dsimp only at h
  split at h
  · exact nomatch h
  next x _ =>
    obtain ⟨hmode, hpeer, hlink, hpaused⟩ := Flight.spend_stands x.1 x.2.sender s.newel.time (s.flight p)
    rw [← Option.some.inj h]
    refine Heard.trans ?_ (State.emit_heard _ _)
    exact s.setFlight_heard p hmode hpeer hlink hpaused

theorem State.drainPort_heard (p n : Nat) (s : State) : Heard s (State.drainPort p n s) := by
  induction n generalizing s with
  | zero => exact Heard.refl s
  | succ n ih =>
    unfold State.drainPort
    split
    next w hw => exact (State.grantPort_heard hw).trans (ih w)
    next => exact Heard.refl s

theorem State.sendRequest_heard (s : State) (p prio : Nat) (pk : Packet) : Heard s (s.sendRequest p prio pk) := by
  refine Heard.trans ?_ (State.drainPort_heard _ _ _)
  exact s.modFlight_heard p (fun _ => rfl) (fun _ => rfl) (fun _ => rfl) fun _ => rfl

theorem State.passCollective_heard (s : State) (q g prio : Nat) (pk : Packet) : Heard s (s.passCollective q g prio pk) := by
  unfold State.passCollective
  split
  · exact s.sendRequest_heard _ _ _
  · exact Heard.refl s

/-- A port that could send at once still can. -/
def StaysClear (s w : State) : Prop := ∀ p sender, (s.flight p).clear sender → (w.flight p).clear sender

theorem StaysClear.trans {s w x : State} (h : StaysClear s w) (k : StaysClear w x) : StaysClear s x := fun p sender hc => k p sender (h p sender hc)

theorem State.modFlight_staysClear (s : State) (p : Nat) {f : Flight → Flight} (hf : ∀ x sender, x.clear sender → (f x).clear sender) :
    StaysClear s (s.modFlight p f) := by
  intro q sender hclear
  rw [State.modFlight_flight]
  split
  next heq =>
    subst heq
    exact hf _ sender hclear
  next => exact hclear

theorem State.hear_staysClear (s : State) (p : Nat) : StaysClear s (s.hear p) := by
  unfold State.hear
  split
  · exact fun _ _ => id
  · exact s.modFlight_staysClear p fun _ _ => id

theorem State.setInbox_staysClear (s : State) (p : Nat) (l : List (Nat × Nat)) : StaysClear s (s.setInbox p l) := by
  have hset : StaysClear s (if l = (s.flight p).inbox then s else s.modFlight p fun f => { f with inbox := l }) := by
    split
    · exact fun _ _ => id
    · exact s.modFlight_staysClear p fun _ _ => id
  unfold State.setInbox
  dsimp only
  generalize (if l = (s.flight p).inbox then s else s.modFlight p fun f => { f with inbox := l }) = u at hset ⊢
  split
  · exact hset
  · exact hset

theorem State.sendReply_staysClear (s : State) (p : Nat) (express : Bool) (vc : Nat) (pk : Packet) : StaysClear s (s.sendReply p express vc pk) := by
  unfold State.sendReply
  dsimp only
  split
  · exact s.modFlight_staysClear p fun _ _ => id
  · exact fun _ _ => id

theorem State.takeIn_staysClear (s : State) (p sender prio : Nat) : StaysClear s (s.takeIn p sender prio) :=
  ((s.hear_staysClear p).trans (State.setInbox_staysClear _ _ _)).trans (State.sendReply_staysClear _ _ _ _ _)

theorem Heard.requestOut {s w : State} (h : Heard s w) (p prio : Nat) (pk : Packet) : w.requestOut p prio pk = s.requestOut p prio pk := by
  rw [State.requestOut, h.frameOf, State.requestOut]

/-! ### Traffic of a collective -/

/-- What the traffic of a collective may change: what is sent, the links, the items, and what is open. -/
structure Linked (s w : State) : Prop where
  rest : w = { s with items := w.items, flights := w.flights, out := w.out, colls := w.colls, xprHeld := w.xprHeld, txs := w.txs }
  sent : ∀ r ∈ s.out, r ∈ w.out

theorem Linked.refl (s : State) : Linked s s := ⟨rfl, fun _ => id⟩

theorem Linked.trans {s w x : State} (h : Linked s w) (k : Linked w x) : Linked s x where
  rest := by rw [k.rest, h.rest]
  sent r hr := k.sent r (h.sent r hr)

theorem Heard.linked {s w : State} (h : Heard s w) : Linked s w := ⟨by rw [h.rest], h.sent⟩

theorem State.modItem_linked (s : State) (i : ItemId) (f : Item → Item) : Linked s (s.modItem i f) := ⟨rfl, fun _ => id⟩

theorem State.modCollective_linked (s : State) (c : Collective) (f : Collective → Collective) : Linked s (s.modCollective c f) := ⟨rfl, fun _ => id⟩

/-- A block goes out and its bytes are counted. -/
theorem State.sendBlock_heard (s : State) (c : Collective) (shard phase : Nat) (bs : List Byte) :
    Heard (s.modItem c.item fun t => { t with bytes := t.bytes + bs.length }) (s.sendBlock c shard phase bs) :=
  Heard.foldl (fun u _ => u.sendRequest_heard _ _ _) _ _

theorem State.sendBlock_linked (s : State) (c : Collective) (shard phase : Nat) (bs : List Byte) : Linked s (s.sendBlock c shard phase bs) :=
  (s.modItem_linked _ _).trans (s.sendBlock_heard c shard phase bs).linked

theorem State.sendBlock_colls (s : State) (c : Collective) (shard phase : Nat) (bs : List Byte) : (s.sendBlock c shard phase bs).colls = s.colls := by
  rw [(s.sendBlock_heard c shard phase bs).rest]
  rfl

/-- Bytes that fit one datagram are one. -/
theorem datagrams_one {bs : List Byte} (hne : bs ≠ []) (hlen : bs.length ≤ 8192) : datagrams bs = [bs] := by
  have hpos : 0 < bs.length := List.length_pos_iff.mpr hne
  have hcount : (bs.length + datagramBytes - 1) / datagramBytes = 1 := by
    unfold datagramBytes
    omega
  unfold datagrams
  rw [hcount]
  cases bs with
  | nil => exact absurd rfl hne
  | cons b bs =>
    change [(b :: bs).take datagramBytes] = _
    exact congrArg (fun l => [l]) (List.take_of_length_le hlen)

/-- One datagram of a block leaves at once where its port is clear. -/
theorem State.sendBlock_sends {s : State} {c : Collective} {shard phase : Nat} {bs : List Byte} (hne : bs ≠ []) (hlen : bs.length ≤ 8192)
    (hclear : (s.flight (s.collSendPort c)).clear (collSender c.axis c.tag)) :
    s.requestOut (s.collSendPort c) (priorityOf c.express (s.linkVc (s.collSendPort c) 0)) (.partialData c.axis c.tag c.group shard phase bs) ∈
      (s.sendBlock c shard phase bs).out := by
  unfold State.sendBlock
  dsimp only
  rw [datagrams_one hne hlen, List.foldl_cons, List.foldl_nil, State.sendRequest_sends (by exact hclear)]
  exact List.mem_append_right _ (List.mem_singleton_self _)

/-! ### The open collective of a tag -/

theorem State.collective_named {s : State} {a : Axis} {tag : Nat} {c : Collective} (h : s.collective a tag = some c) : c.axis = a ∧ c.tag = tag := by
  have hnamed := List.find?_some h
  rwa [Bool.and_eq_true, beq_iff_eq, beq_iff_eq] at hnamed

theorem State.modCollective_collective {s : State} {c x : Collective} {f : Collective → Collective} (hname : ∀ y, (f y).axis = y.axis ∧ (f y).tag = y.tag)
    (hx : s.collective c.axis c.tag = some x) : (s.modCollective c f).collective c.axis c.tag = some (f x) := by
  have hpred : (fun y : Collective => y.axis == c.axis && y.tag == c.tag) ∘ (fun y => if y.axis = c.axis ∧ y.tag = c.tag then f y else y) =
      fun y => y.axis == c.axis && y.tag == c.tag := by
    funext y
    rw [Function.comp_apply]
    split
    · rw [(hname y).1, (hname y).2]
    · rfl
  change (s.colls.map _).find? _ = _
  rw [List.find?_map, hpred]
  have hfind : s.colls.find? (fun y => y.axis == c.axis && y.tag == c.tag) = some x := hx
  rw [hfind, Option.map_some, if_pos (State.collective_named hx)]

/-- How much of a block has come. -/
def Collective.noted (j n : Nat) (c : Collective) : Collective := { c with got := Table.set 0 c.got j n }

theorem State.modCollective_noted {s w : State} {c k : Collective} {j n : Nat} (hcolls : ∀ x ∈ w.colls, x ∈ (s.modCollective c (Collective.noted j n)).colls)
    (hk : w.collective c.axis c.tag = some k) : Table.get 0 k.got j = n := by
  obtain ⟨haxis, htag⟩ := State.collective_named hk
  obtain ⟨x, -, rfl⟩ := List.mem_map.mp (hcolls k (List.mem_of_find?_eq_some hk))
  by_cases hx : x.axis = c.axis ∧ x.tag = c.tag
  · rw [if_pos hx]
    exact Table.get_set_self _ _ _ _
  · rw [if_neg hx] at haxis htag
    exact absurd ⟨haxis, htag⟩ hx

/-! ### The end of a member (R271) -/

theorem State.foldl_modFlight_rest (g : Flight → Flight) (l : List Nat) (s : State) : l.foldl (fun u p => u.modFlight p g) s =
    { s with flights := (l.foldl (fun u p => u.modFlight p g) s).flights } := by
  induction l generalizing s with
  | nil => rfl
  | cons p l ih =>
    rw [List.foldl_cons, ih]
    rfl

theorem State.releaseLinks_rest (s : State) (i : ItemId) : s.releaseLinks i = { s with
    flights := (s.releaseLinks i).flights, xprHeld := (s.releaseLinks i).xprHeld, txs := (s.releaseLinks i).txs, colls := (s.releaseLinks i).colls } := by
  unfold State.releaseLinks
  dsimp only
  split
  · rfl
  · rw [State.foldl_modFlight_rest]

theorem State.releaseLinks_colls (s : State) (i : ItemId) : ∀ x ∈ (s.releaseLinks i).colls, x ∈ s.colls := by
  unfold State.releaseLinks
  dsimp only
  split
  · exact fun _ => id
  · rw [State.foldl_modFlight_rest]
    exact fun _ hx => (List.mem_filter.mp hx).1

/-- What the end of a member may change: its item, its links, the tokens of its windows. -/
structure Settled (s w : State) : Prop where
  rest : w = { s with
    items := w.items, full := w.full, streams := w.streams, flights := w.flights, xprHeld := w.xprHeld, txs := w.txs, colls := w.colls }
  colls : ∀ x ∈ w.colls, x ∈ s.colls

theorem Settled.refl (s : State) : Settled s s := ⟨rfl, fun _ => id⟩

theorem State.settleCollective_settled (s : State) (a : Axis) (tag : Nat) : Settled s (s.settleCollective a tag) := by
  unfold State.settleCollective
  split
  · exact Settled.refl s
  · split
    · exact Settled.refl s
    next t _ =>
      dsimp only
      split
      · generalize hu : s.consume t (readAll (word32 t.desc 16) (t.winD 16)) = u
        generalize hv : u.produce (readAll (word32 t.desc 20) (t.winD 20)) = v
        have hurest : u = { s with full := u.full, streams := u.streams } := by
          rw [← hu]
          exact s.consume_rest _ _
        have hvrest : v = { u with full := v.full } := by
          rw [← hv]
          exact u.produce_rest _
        have hrest := (v.finish t.id 0).releaseLinks_rest t.id
        have hcolls := (v.finish t.id 0).releaseLinks_colls t.id
        generalize (v.finish t.id 0).releaseLinks t.id = x at hrest hcolls ⊢
        refine ⟨?_, fun y hy => ?_⟩
        · rw [hrest, State.finish_rest, hvrest, hurest]
        · have hy' := hcolls y hy
          rw [State.finish_rest, hvrest, hurest] at hy'
          exact hy'
      · exact Settled.refl s

/-- A member with update does not end with its data. -/
theorem State.settleCollective_of_update {s : State} {a : Axis} {tag : Nat} {c : Collective} (hc : s.collective a tag = some c) (hupdate : c.update = true) :
    s.settleCollective a tag = s := by
  unfold State.settleCollective
  rw [hc]
  dsimp only
  split
  · rfl
  · rw [hupdate, if_neg (by simp)]

end Sys2Proof.Machine
end

section
/-!
The data of a collective at one member: what it looks up, the sum it makes, and where that goes (R208, R234, R274).
-/
namespace Sys2Proof.Machine

/-! ### Lookups in the tensor cache (R208–R211) -/

/-- What lookups may change: the caches, their counts, and the charges of contexts. -/
structure Looked (s w : State) : Prop extends Kept s w where
  rest : w = { s with mem := w.mem, halls := w.halls, counters := w.counters, caches := w.caches }
  share : ∀ h, (w.hall h).share = (s.hall h).share

theorem Looked.refl (s : State) : Looked s s := ⟨Kept.refl s, rfl, fun _ => rfl⟩

theorem Looked.trans {s w x : State} (h : Looked s w) (k : Looked w x) : Looked s x :=
  ⟨h.toKept.trans k.toKept, by rw [k.rest, h.rest], fun p => (k.share p).trans (h.share p)⟩

theorem Looked.foldl {α : Type} {f : State → α → State} (hf : ∀ s a, Looked s (f s a)) (l : List α) (s : State) : Looked s (l.foldl f s) := by
  induction l generalizing s with
  | nil => exact Looked.refl s
  | cons a l ih => exact (hf s a).trans (ih (f s a))

theorem State.bump_looked (s : State) (p sel n : Nat) : Looked s (s.bump p sel n) := ⟨Kept.of_fields rfl rfl rfl rfl rfl rfl, rfl, fun _ => rfl⟩

theorem State.setCache_looked (s : State) (h : Nat) (ls : List CacheLine) : Looked s (s.setCache h ls) := ⟨s.setCache_kept h ls, rfl, fun _ => rfl⟩

theorem State.cacheAccess_looked (s : State) (h : Nat) : Looked s (s.cacheAccess h) := by
  have hhall : ∀ k, ((s.cacheAccess h).hall k).treadle = (s.hall k).treadle ∧ ((s.cacheAccess h).hall k).share = (s.hall k).share := by
    intro k
    unfold State.cacheAccess
    rw [State.modHall_hall]
    split
    next heq =>
      subst heq
      exact ⟨rfl, rfl⟩
    next => exact ⟨rfl, rfl⟩
  refine ⟨⟨⟨fun _ => rfl, fun c => ?_, fun _ _ => rfl⟩, rfl, rfl⟩, rfl, fun k => (hhall k).2⟩
  rw [State.ctxAddr, (hhall _).1, State.ctxAddr]

theorem State.replaceCache_looked (s : State) (h : Nat) (ls : List CacheLine) : Looked s (s.replaceCache h ls) := by
  have hrest := s.replaceCache_rest h ls
  have hkept := s.replaceCache_kept h ls
  generalize s.replaceCache h ls = w at hrest hkept
  refine ⟨hkept, ?_, fun k => ?_⟩
  · rw [hrest]
  · rw [hrest]
    rfl

theorem State.fillLine_looked (s : State) (h o owner : Nat) (hint : BitVec 8) (slot : Option Nat) : Looked s (s.fillLine h o owner hint slot) := by
  have hreplace : ∀ ls, Looked s ((s.cacheAccess h).replaceCache h ls) := fun ls => (s.cacheAccess_looked h).trans (State.replaceCache_looked _ _ _)
  unfold State.fillLine
  dsimp only
  split
  · exact Looked.refl s
  · split
    · split
      · exact s.bump_looked _ _ _
      · exact hreplace _
    · split
      · exact hreplace _
      · split
        · exact Looked.refl s
        · exact hreplace _

theorem State.lookupLine_looked (s : State) (slot : Option Nat) (fill : Option (Nat × BitVec 8)) (a : Nat) : Looked s (s.lookupLine slot fill a) := by
  unfold State.lookupLine
  dsimp only
  split
  · exact ((s.cacheAccess_looked _).trans (State.bump_looked _ _ _ _)).trans (State.setCache_looked _ _ _)
  · split
    · split
      · exact s.bump_looked _ _ _
      · exact (s.bump_looked _ _ _).trans (State.fillLine_looked _ _ _ _ _ _)
    · exact s.bump_looked _ _ _

theorem State.lookupRead_looked (s : State) (via : Option Block512) (a n : Nat) : Looked s (s.lookupRead via a n) := by
  unfold State.lookupRead
  split
  · exact Looked.refl s
  · have hlines : ∀ (slot : Option Nat) (fill : Option (Nat × BitVec 8)) (l : List (Nat × Nat)),
        Looked s (l.foldl (fun u p => u.lookupLine slot fill p.1) s) := fun slot fill l =>
      Looked.foldl (f := fun (u : State) (p : Nat × Nat) => u.lookupLine slot fill p.1) (fun u p => u.lookupLine_looked slot fill p.1) l s
    dsimp only
    exact hlines _ _ _

theorem State.lookupElements_looked (s : State) (w : Block512) (pos n : Nat) : Looked s (s.lookupElements w pos n) :=
  Looked.foldl (f := fun (u : State) (p : Nat × Nat) => u.lookupRead (some w) p.1 p.2) (fun u p => u.lookupRead_looked (some w) p.1 p.2) _ s

/-- Outside the stacks there is nothing to look up. -/
theorem State.lookupElements_outside {s : State} {w : Block512} {pos n : Nat} (h : ∀ m ∈ byteParts w pos n, addrSpace m.1 ≠ 2) :
    s.lookupElements w pos n = s := by
  unfold State.lookupElements
  generalize byteParts w pos n = l at h
  induction l with
  | nil => rfl
  | cons p l ih =>
    have hone : s.lookupRead (some w) p.1 p.2 = s := by
      unfold State.lookupRead
      rw [if_pos]
      simp [h p List.mem_cons_self]
    rw [List.foldl_cons, hone]
    exact ih fun m hm => h m (List.mem_cons_of_mem _ hm)

/-! ### Faults of a window while its data moves -/

/-- A window that is reached without keys is not an encrypted one. -/
theorem State.plain_of_keys {s : State} {fn : Nat} {w : Block512} {spans : List (Nat × Nat)} (hfault : s.accessFault fn w spans = none)
    (hkeys : (s.access fn w).keys = none) : ¬((addrSpace (winBase w) = 2 ∨ addrSpace (winBase w) = 3) ∧ winOwner w ≠ operatorOwner) := by
  rintro ⟨hspace, howner⟩
  have hkey : s.dataKey (s.keySlotOf (winOwner w)) = none := by
    unfold State.access at hkeys
    rcases hspace with h2 | h3
    · rw [if_pos ⟨h2, howner⟩] at hkeys
      exact Option.map_eq_none_iff.mp hkeys
    · rw [if_neg (by omega), if_pos ⟨h3, howner⟩] at hkeys
      exact Option.map_eq_none_iff.mp hkeys
  unfold State.accessFault at hfault
  have hinvalid : s.keyValid (winOwner w) = false := by
    rw [State.keyValid, hkey]
    rfl
  dsimp only at hfault
  rw [hinvalid] at hfault
  split at hfault
  · exact nomatch hfault
  · split at hfault
    · exact nomatch hfault
    · split at hfault
      · exact nomatch hfault
      · rw [if_neg (by omega)] at hfault
        split at hfault
        · exact nomatch hfault
        · rw [if_pos ⟨hspace, howner, rfl⟩] at hfault
          exact nomatch hfault

theorem State.access_of_plain {s : State} {fn : Nat} {w : Block512}
    (h : ¬((addrSpace (winBase w) = 2 ∨ addrSpace (winBase w) = 3) ∧ winOwner w ≠ operatorOwner)) : s.access fn w = ⟨none, none, fn⟩ := by
  unfold State.access
  rw [if_neg fun hk => h ⟨Or.inl hk.1, hk.2⟩, if_neg fun hk => h ⟨Or.inr hk.1, hk.2⟩]

/-- Lookups stop no access of a window without keys. -/
theorem Looked.accessFault {s w : State} (h : Looked s w) {fn : Nat} {win : Block512} (spans : List (Nat × Nat))
    (hplain : ¬((addrSpace (winBase win) = 2 ∨ addrSpace (winBase win) = 3) ∧ winOwner win ≠ operatorOwner)) :
    w.accessFault fn win spans = s.accessFault fn win spans := by
  have hboot : w.boot = s.boot := by rw [h.rest]
  have hhif : w.hif = s.hif := by rw [h.rest]
  have hrange : (fun p : Nat × Nat => w.hitsCacheRange p.1 p.2) = fun p => s.hitsCacheRange p.1 p.2 := by
    funext p
    rw [State.hitsCacheRange, h.share, State.hitsCacheRange]
  have hkeyed : ∀ u : State, ¬((addrSpace (winBase win) = 2 ∨ addrSpace (winBase win) = 3) ∧ winOwner win ≠ operatorOwner ∧
      (!u.keyValid (winOwner win)) = true) := fun u hk => hplain ⟨hk.1, hk.2.1⟩
  unfold State.accessFault State.hallLost
  dsimp only
  rw [hboot, hhif, hrange, if_neg (hkeyed w), if_neg (hkeyed s)]

/-- `Option.orElse_eq_none` for the spelling of the model. -/
theorem Option.orElse_none_iff {α : Type} {o p : Option α} : (o.orElse fun _ => p) = none ↔ o = none ∧ p = none := Option.orElse_eq_none o p

theorem firstFail_single {o : Option Status} : firstFail [o] = o := by
  cases o with
  | none => rfl
  | some _ => rfl

/-- Nothing stops the writes of a window while its data moves, by what could. -/
theorem State.collFault_writes {s : State} {t : Item} {c : Collective} {b : Nat} : s.collFault t c false b = none ↔
    s.collCut c (t.winD b) = false ∧
      s.accessFault (s.itemFunction t.id) (t.winD b) (readAll (word32 t.desc b) (t.winD b)).all = none := by
  unfold State.collFault State.readFault
  rw [Option.orElse_none_iff, List.map_cons, List.map_nil, firstFail_single, Option.orElse_none_iff]
  unfold failIf
  simp only [Bool.false_and, Bool.false_eq_true, if_false, and_true]
  cases s.collCut c (t.winD b) with
  | true => simp [readAll]
  | false => simp [readAll]

theorem Linked.collFault {s w : State} (h : Linked s w) (t : Item) (c : Collective) (uses : Bool) (b : Nat) :
    w.collFault t c uses b = s.collFault t c uses b := by
  rw [h.rest]
  rfl

theorem Looked.collFault {s w : State} (h : Looked s w) {t : Item} {c : Collective} {b : Nat} (hfault : s.collFault t c false b = none)
    (hkeys : (s.access (s.itemFunction t.id) (t.winD b)).keys = none) :
    w.collFault t c false b = none ∧ (w.access (s.itemFunction t.id) (t.winD b)).keys = none := by
  obtain ⟨hcut, haccess⟩ := State.collFault_writes.mp hfault
  have hplain := State.plain_of_keys haccess hkeys
  have hcut' : w.collCut c (t.winD b) = s.collCut c (t.winD b) := by
    rw [h.rest]
    rfl
  have hfn : w.itemFunction t.id = s.itemFunction t.id := by
    rw [h.rest]
    rfl
  refine ⟨State.collFault_writes.mpr ⟨hcut'.trans hcut, ?_⟩, ?_⟩
  · rw [hfn, h.accessFault _ hplain]
    exact haccess
  · rw [State.access_of_plain hplain]

theorem Linked.elementBytes {s w : State} (h : Linked s w) (fn : Nat) (win : Block512) (pos n : Nat) :
    w.elementBytes fn win pos n = s.elementBytes fn win pos n := by
  rw [h.rest]
  rfl

end Sys2Proof.Machine
end

section
/-!
One datagram of a collective at one member: the sum it adds to, the bytes it stores, and what goes on (R234, R271, R274).
-/
namespace Sys2Proof.Machine

/-! ### The same links -/

/-- A state whose ports send what the other's would: the same member to send to, the same frames, and as free to send. -/
structure SameLinks (s u : State) : Prop where
  port : ∀ c, u.collSendPort c = s.collSendPort c
  linkVc : ∀ p vc, u.linkVc p vc = s.linkVc p vc
  requestOut : ∀ p prio pk, u.requestOut p prio pk = s.requestOut p prio pk
  clear : StaysClear s u

theorem SameLinks.trans {s u v : State} (h : SameLinks s u) (k : SameLinks u v) : SameLinks s v where
  port c := (k.port c).trans (h.port c)
  linkVc p vc := (k.linkVc p vc).trans (h.linkVc p vc)
  requestOut p prio pk := (k.requestOut p prio pk).trans (h.requestOut p prio pk)
  clear := h.clear.trans k.clear

theorem Heard.sameLinks {s u : State} (h : Heard s u) (hclear : StaysClear s u) : SameLinks s u where
  port c := by
    rw [h.rest]
    rfl
  linkVc := h.linkVc
  requestOut := h.requestOut
  clear := hclear

/-- What leaves the flights and the module's place alone leaves the links alone. -/
theorem SameLinks.of_rest {s u : State} (h : u = { s with
    mem := u.mem, halls := u.halls, counters := u.counters, caches := u.caches, poison := u.poison, colls := u.colls, items := u.items }) : SameLinks s u where
  port _ := by
    rw [h]
    rfl
  linkVc p vc := State.linkVc_of_place (by rw [h]) p vc
  requestOut _ _ _ := by
    rw [h]
    rfl
  clear p sender hclear := by
    rw [h]
    exact hclear

/-- A block of one datagram goes out on the same port. -/
theorem SameLinks.sends {s u : State} (h : SameLinks s u) {c : Collective} {shard phase : Nat} {bs : List Byte} (hne : bs ≠ []) (hlen : bs.length ≤ 8192)
    (hclear : (s.flight (s.collSendPort c)).clear (collSender c.axis c.tag)) :
    s.requestOut (s.collSendPort c) (priorityOf c.express (s.linkVc (s.collSendPort c) 0)) (.partialData c.axis c.tag c.group shard phase bs) ∈
      (u.sendBlock c shard phase bs).out := by
  have hsent := State.sendBlock_sends (s := u) (c := c) (shard := shard) (phase := phase) hne hlen (by rw [h.port]; exact h.clear _ _ hclear)
  rwa [h.port, h.linkVc, h.requestOut] at hsent

/-! ### The sum at a member (R274) -/

/-- A sum is no longer than what was added. -/
theorem reduceBytes_length_le (reduceType sz : Nat) (part own : List Byte) : (reduceBytes reduceType sz part own).length ≤ part.length := by
  have hall : ∀ l : List (List Byte × List Byte),
      (l.flatMap fun p => leBytes sz (reduceElem reduceType (leNat p.1) (leNat p.2))).length = l.length * sz := by
    intro l
    induction l with
    | nil => exact (Nat.zero_mul sz).symm
    | cons p l ih =>
      rw [List.flatMap_cons, List.length_append, ih, leBytes_length, List.length_cons, Nat.succ_mul, Nat.add_comm]
  unfold reduceBytes
  rw [hall, List.length_zip]
  calc min _ _ * sz ≤ part.length / sz * sz := Nat.mul_le_mul_right _ (Nat.le_trans (Nat.min_le_left _ _) (chunksOf_length_le _ _ _))
    _ ≤ part.length := Nat.div_mul_le_self _ _

/-- The sum of a datagram and this member's own part. -/
def State.sumOf (s : State) (t : Item) (c : Collective) (j : Nat) (data : List Byte) : List Byte :=
  reduceBytes c.reduceType (elemBytes (t.winD 16)) data (s.elementBytes (s.itemFunction t.id) (t.winD 16)
    (c.shardStart j * elemBytes (t.winD 16) + Table.get 0 c.got j) data.length)

/-- The state in which the sum goes on: the own part looked up and the datagram noted. -/
def State.summed (s : State) (t : Item) (c : Collective) (j : Nat) (data : List Byte) : State :=
  (s.lookupElements (t.winD 16) (c.shardStart j * elemBytes (t.winD 16) + Table.get 0 c.got j) data.length).modCollective c
    (Collective.noted j (Table.get 0 c.got j + data.length))

/-- The place of a sum in the destination. -/
def Collective.sumPlace (c : Collective) (sz j : Nat) : Nat :=
  if c.opcode = codeReduceScatter then Table.get 0 c.got j else c.shardStart j * sz + Table.get 0 c.got j

/-- The state with the sum stored. -/
def State.sumStored (s : State) (t : Item) (c : Collective) (j : Nat) (data : List Byte) : State :=
  ((s.summed t c j data).putElementBytes (s.itemFunction t.id) (t.winD 20) (c.sumPlace (elemBytes (t.winD 16)) j) (s.sumOf t c j data)).modItem t.id
    fun u => { u with bytes := u.bytes + (s.sumOf t c j data).length }

section
variable (s : State) (t : Item) (c : Collective) (j : Nat) (data : List Byte)

theorem State.summed_linked : Linked (s.lookupElements (t.winD 16) (c.shardStart j * elemBytes (t.winD 16) + Table.get 0 c.got j) data.length)
    (s.summed t c j data) := State.modCollective_linked _ _ _

theorem State.summed_rest : s.summed t c j data = { s with
    mem := (s.summed t c j data).mem, halls := (s.summed t c j data).halls, counters := (s.summed t c j data).counters
    caches := (s.summed t c j data).caches, colls := (s.summed t c j data).colls } := by
  have hlook := (s.lookupElements_looked (t.winD 16) (c.shardStart j * elemBytes (t.winD 16) + Table.get 0 c.got j) data.length).rest
  unfold State.summed
  generalize s.lookupElements (t.winD 16) (c.shardStart j * elemBytes (t.winD 16) + Table.get 0 c.got j) data.length = u at hlook ⊢
  rw [hlook]
  rfl

theorem State.summed_kept : Kept s (s.summed t c j data) :=
  (s.lookupElements_looked _ _ _).toKept.trans (Kept.of_fields rfl rfl rfl rfl rfl rfl)

theorem State.summed_sameLinks : SameLinks s (s.summed t c j data) := SameLinks.of_rest (by rw [State.summed_rest])

theorem State.summed_colls : (s.summed t c j data).colls = (s.modCollective c (Collective.noted j (Table.get 0 c.got j + data.length))).colls := by
  have hlook := (s.lookupElements_looked (t.winD 16) (c.shardStart j * elemBytes (t.winD 16) + Table.get 0 c.got j) data.length).rest
  unfold State.summed
  generalize s.lookupElements (t.winD 16) (c.shardStart j * elemBytes (t.winD 16) + Table.get 0 c.got j) data.length = u at hlook ⊢
  rw [hlook]
  rfl

end

theorem State.summed_collective {s : State} {c : Collective} (hc : s.collective c.axis c.tag = some c) (t : Item) (j : Nat) (data : List Byte) :
    (s.summed t c j data).collective c.axis c.tag = some (c.noted j (Table.get 0 c.got j + data.length)) := by
  rw [State.collective, s.summed_colls]
  exact State.modCollective_collective (fun _ => ⟨rfl, rfl⟩) hc

/-- Nothing stops the store of the sum either. -/
theorem State.summed_unstopped {s : State} {t : Item} {c : Collective} (hfault : s.collFault t c false 20 = none)
    (hkeys : (s.access (s.itemFunction t.id) (t.winD 20)).keys = none) (j : Nat) (data : List Byte) :
    (s.summed t c j data).collFault t c false 20 = none ∧ ((s.summed t c j data).access (s.itemFunction t.id) (t.winD 20)).keys = none := by
  obtain ⟨hgo, hplain⟩ := (s.lookupElements_looked (t.winD 16) (c.shardStart j * elemBytes (t.winD 16) + Table.get 0 c.got j) data.length).collFault
    hfault hkeys
  exact ⟨((s.summed_linked t c j data).collFault t c false 20).trans hgo, hplain⟩

section
variable {s : State} {t : Item} {c : Collective} {j : Nat} {data : List Byte} (hj : j < c.group) (hfirst : j ≠ c.firstShard)
  (hfits : Table.get 0 c.got j + data.length ≤ c.shardLength j * elemBytes (t.winD 16)) (hdata : data ≠ []) (hfault : s.collFault t c true 16 = none)
include hj hfirst hfits hdata hfault

theorem State.reduceData_passes (hpos : j ≠ c.position) :
    s.reduceData t c j data = (s.summed t c j data).sendBlock c j 0 (s.sumOf t c j data) := by
  have hgo : ¬(j ≥ c.group ∨ j = c.firstShard ∨ c.shardLength j * elemBytes (t.winD 16) < Table.get 0 c.got j + data.length ∨ data = []) := by
    rintro (h | h | h | h)
    exacts [by omega, hfirst h, by omega, hdata h]
  unfold State.reduceData
  dsimp only
  rw [if_neg hgo, hfault]
  dsimp only
  rw [if_pos hpos]
  rfl

theorem State.reduceData_hands (hpos : j = c.position) (hupdate : c.update = true) :
    s.reduceData t c j data = (s.summed t c j data).handShard t c (Table.get 0 c.got j == 0) (s.sumOf t c j data) := by
  have hgo : ¬(j ≥ c.group ∨ j = c.firstShard ∨ c.shardLength j * elemBytes (t.winD 16) < Table.get 0 c.got j + data.length ∨ data = []) := by
    rintro (h | h | h | h)
    exacts [by omega, hfirst h, by omega, hdata h]
  unfold State.reduceData
  dsimp only
  rw [if_neg hgo, hfault]
  dsimp only
  rw [if_neg (not_not.mpr hpos), if_pos hupdate]
  rfl

theorem State.reduceData_stores (hpos : j = c.position) (hupdate : c.update = false) (hdst : (s.summed t c j data).collFault t c false 20 = none) :
    s.reduceData t c j data = if c.opcode = codeAllReduce then (s.sumStored t c j data).sendBlock c j 1 (s.sumOf t c j data)
      else s.sumStored t c j data := by
  have hgo : ¬(j ≥ c.group ∨ j = c.firstShard ∨ c.shardLength j * elemBytes (t.winD 16) < Table.get 0 c.got j + data.length ∨ data = []) := by
    rintro (h | h | h | h)
    exacts [by omega, hfirst h, by omega, hdata h]
  have hdst' : ((s.lookupElements (t.winD 16) (c.shardStart j * elemBytes (t.winD 16) + Table.get 0 c.got j) data.length).modCollective c fun x =>
      { x with got := Table.set 0 x.got j (Table.get 0 c.got j + data.length) }).collFault t c false 20 = none := hdst
  unfold State.reduceData
  dsimp only
  rw [if_neg hgo, hfault]
  dsimp only
  rw [if_neg (not_not.mpr hpos), if_neg (by rw [hupdate]; decide), hdst']
  rfl

end

end Sys2Proof.Machine
end

section
/-!
Where a datagram of a collective goes from one member: on to the next, into the destination, or to a selvedge (R234, R271, R274).
-/
namespace Sys2Proof.Machine

/-! ### What the traffic of a collective leaves alone -/

/-- The selvedges, the knots and the windows are as they were. -/
structure Beside (s w : State) : Prop where
  selvs : w.selvs = s.selvs
  knots : w.knots = s.knots
  windows : w.windows = s.windows

theorem Beside.trans {s w x : State} (h : Beside s w) (k : Beside w x) : Beside s x :=
  ⟨k.selvs.trans h.selvs, k.knots.trans h.knots, k.windows.trans h.windows⟩

theorem Linked.beside {s w : State} (h : Linked s w) : Beside s w := ⟨by rw [h.rest], by rw [h.rest], by rw [h.rest]⟩

theorem Settled.beside {s w : State} (h : Settled s w) : Beside s w := ⟨by rw [h.rest], by rw [h.rest], by rw [h.rest]⟩

theorem State.summed_beside (s : State) (t : Item) (c : Collective) (j : Nat) (data : List Byte) : Beside s (s.summed t c j data) :=
  ⟨by rw [State.summed_rest], by rw [State.summed_rest], by rw [State.summed_rest]⟩

theorem Stored.beside {s w : State} (h : Stored s w) : Beside s w := ⟨by rw [h], by rw [h], by rw [h]⟩

theorem Linked.kept {s w : State} (h : Linked s w) : Kept s w :=
  Kept.of_fields (by rw [h.rest]) (by rw [h.rest]) (by rw [h.rest]) (by rw [h.rest]) (by rw [h.rest]) (by rw [h.rest])

theorem Heard.collective {s w : State} (h : Heard s w) (a : Axis) (tag : Nat) : w.collective a tag = s.collective a tag := by
  rw [h.rest]
  rfl

theorem Linked.sumOf {s w : State} (h : Linked s w) (t : Item) (c : Collective) (j : Nat) (data : List Byte) : w.sumOf t c j data = s.sumOf t c j data := by
  have hfn : w.itemFunction t.id = s.itemFunction t.id := by
    rw [h.rest]
    rfl
  rw [State.sumOf, h.elementBytes, hfn, State.sumOf]

/-! ### A shard handed to its selvedge (R234) -/

/-- An update with more of its shard reduced. -/
def Update.joinedBy (i : ItemId) (words : List W32) (u : Update) : Update := if u.item = i then { u with reduced := u.reduced ++ words } else u

/-- The words of reduced bytes. -/
def Collective.words (c : Collective) (sz : Nat) (bs : List Byte) : List W32 :=
  (chunksOf sz (bs.length / Nat.max 1 sz) bs).map (reducedWord c.reduceType)

theorem State.handShard_rest (s : State) (t : Item) (c : Collective) (first : Bool) (bs : List Byte) : s.handShard t c first bs =
    { s with selvs := (s.handShard t c first bs).selvs, items := (s.handShard t c first bs).items } := by
  cases first with
  | true => rfl
  | false => rfl

theorem State.modSelv_selv_self (s : State) (p : Nat) (f : Selvedge → Selvedge) : (s.modSelv p f).selv p = f (s.selv p) := Table.get_set_self _ _ _ _

theorem State.handShard_selv (s : State) (t : Item) (c : Collective) (first : Bool) (bs : List Byte) :
    (s.handShard t c first bs).selv (s.shardSelvedge t c) = { s.selv (s.shardSelvedge t c) with
      queue := (if first then (s.selv (s.shardSelvedge t c)).queue ++ [s.updateOf t c] else (s.selv (s.shardSelvedge t c)).queue).map
        (Update.joinedBy t.id (c.words (elemBytes (t.winD 16)) bs)) } := by
  have hgiven : (s.giveUpdate (s.shardSelvedge t c) (s.updateOf t c)).selv (s.shardSelvedge t c) = { s.selv (s.shardSelvedge t c) with
      queue := (s.selv (s.shardSelvedge t c)).queue ++ [s.updateOf t c] } :=
    s.modSelv_selv_self (s.shardSelvedge t c) fun v => { v with queue := v.queue ++ [s.updateOf t c] }
  unfold State.handShard
  dsimp only
  rw [State.modSelv_selv_self]
  cases first with
  | true =>
    rw [if_pos rfl, if_pos rfl, hgiven]
    rfl
  | false => rfl

/-! ### A datagram of the reduction -/

/-- What a member passes on, and that its port can send it at once. -/
def State.passed (s : State) (c : Collective) (j phase : Nat) (bs : List Byte) : Reply :=
  s.requestOut (s.collSendPort c) (priorityOf c.express (s.linkVc (s.collSendPort c) 0)) (.partialData c.axis c.tag c.group j phase bs)

def State.passClear (s : State) (c : Collective) : Prop := (s.flight (s.collSendPort c)).clear (collSender c.axis c.tag)

theorem State.putElementBytes_single {s : State} {fn pos m : Nat} {w : Block512} {bs : List Byte} (hpart : byteParts w pos bs.length = [(m, bs.length)]) :
    s.putElementBytes fn w pos bs = s.store (s.access fn w) m bs := by
  unfold State.putElementBytes
  rw [hpart, State.storeParts, State.storeParts, List.take_length]

section
variable {s w : State} (hheard : Heard s w) (hstays : StaysClear s w) {t : Item} {c : Collective} {j : Nat} {data : List Byte}
  (hc : s.collective c.axis c.tag = some c) (hj : j < c.group) (hdata : data ≠ []) (hlen : data.length ≤ 8192)
include hheard hstays hc hj hdata hlen

section
variable (hfirst : j ≠ c.firstShard) (hfits : Table.get 0 c.got j + data.length ≤ c.shardLength j * elemBytes (t.winD 16))
  (hfault : s.collFault t c true 16 = none)
include hfirst hfits hfault

theorem reduceOn_update (hpos : j ≠ c.position) (hupdate : c.update = true) :
    ∃ k, ((w.reduceData t c j data).settleCollective c.axis c.tag).collective c.axis c.tag = some k ∧
      Table.get 0 k.got j = Table.get 0 c.got j + data.length ∧
      (s.passClear c → s.sumOf t c j data ≠ [] →
        s.passed c j 0 (s.sumOf t c j data) ∈ ((w.reduceData t c j data).settleCollective c.axis c.tag).out) ∧
      s.keptBytes ((w.reduceData t c j data).settleCollective c.axis c.tag) ∧ Beside s ((w.reduceData t c j data).settleCollective c.axis c.tag) := by
  have hopen : (w.reduceData t c j data).collective c.axis c.tag = some (c.noted j (Table.get 0 c.got j + data.length)) := by
    rw [State.reduceData_passes hj hfirst hfits hdata ((hheard.linked.collFault ..).trans hfault) hpos, State.collective, State.sendBlock_colls]
    exact State.summed_collective ((hheard.collective _ _).trans hc) t j data
  rw [State.settleCollective_of_update hopen hupdate]
  refine ⟨_, hopen, Table.get_set_self _ _ _ _, ?_⟩
  rw [State.reduceData_passes hj hfirst hfits hdata ((hheard.linked.collFault ..).trans hfault) hpos, hheard.linked.sumOf]
  have hsent := State.sendBlock_linked (w.summed t c j data) c j 0 (s.sumOf t c j data)
  exact ⟨fun hclear hne => ((hheard.sameLinks hstays).trans (w.summed_sameLinks t c j data)).sends hne
      (Nat.le_trans (reduceBytes_length_le _ _ _ _) hlen) hclear,
    ((hheard.linked.kept.trans (w.summed_kept t c j data)).trans hsent.kept).keptBytes,
    (hheard.linked.beside.trans (w.summed_beside t c j data)).trans hsent.beside⟩

omit hc in
theorem reduceOn_plain (hpos : j ≠ c.position) :
    (s.passClear c → s.sumOf t c j data ≠ [] →
      s.passed c j 0 (s.sumOf t c j data) ∈ ((w.reduceData t c j data).settleCollective c.axis c.tag).out) ∧
    (∀ x, ¬s.chargeByte x → ((w.reduceData t c j data).settleCollective c.axis c.tag).mem.read x = s.mem.read x) ∧
    Beside s ((w.reduceData t c j data).settleCollective c.axis c.tag) ∧
    ∀ k, ((w.reduceData t c j data).settleCollective c.axis c.tag).collective c.axis c.tag = some k →
      Table.get 0 k.got j = Table.get 0 c.got j + data.length := by
  rw [State.reduceData_passes hj hfirst hfits hdata ((hheard.linked.collFault ..).trans hfault) hpos, hheard.linked.sumOf]
  have hsent := State.sendBlock_linked (w.summed t c j data) c j 0 (s.sumOf t c j data)
  have hcolls := State.sendBlock_colls (w.summed t c j data) c j 0 (s.sumOf t c j data)
  have hpassed := fun hclear hne => ((hheard.sameLinks hstays).trans (w.summed_sameLinks t c j data)).sends (c := c) (shard := j) (phase := 0)
    (bs := s.sumOf t c j data) hne (Nat.le_trans (reduceBytes_length_le _ _ _ _) hlen) hclear
  rw [State.summed_colls] at hcolls
  have hkept := (hheard.linked.kept.trans (w.summed_kept t c j data)).trans hsent.kept
  have hbeside := (hheard.linked.beside.trans (w.summed_beside t c j data)).trans hsent.beside
  generalize (w.summed t c j data).sendBlock c j 0 (s.sumOf t c j data) = v at hcolls hpassed hkept hbeside ⊢
  have hsettled := v.settleCollective_settled c.axis c.tag
  generalize v.settleCollective c.axis c.tag = x at hsettled ⊢
  refine ⟨fun hclear hne => ?_, fun b hb => ?_, hbeside.trans hsettled.beside, fun k hk => State.modCollective_noted (s := w) (fun y hy => ?_) hk⟩
  · rw [hsettled.rest]
    exact hpassed hclear hne
  · rw [hsettled.rest]
    exact hkept.keptBytes.1 b hb
  · rw [← hcolls]
    exact hsettled.colls y hy

omit hstays hlen in
theorem reduceOn_hands (hpos : j = c.position) (hupdate : c.update = true) :
    ∃ u, s.keptBytes ((w.reduceData t c j data).settleCollective c.axis c.tag) ∧
      ((w.reduceData t c j data).settleCollective c.axis c.tag).knots = s.knots ∧
      ((w.reduceData t c j data).settleCollective c.axis c.tag).windows = s.windows ∧
      ((w.reduceData t c j data).settleCollective c.axis c.tag).selv (s.shardSelvedge t c) = { s.selv (s.shardSelvedge t c) with
        queue := (if Table.get 0 c.got j = 0 then (s.selv (s.shardSelvedge t c)).queue ++ [u] else (s.selv (s.shardSelvedge t c)).queue).map
          (Update.joinedBy t.id (c.words (elemBytes (t.winD 16)) (s.sumOf t c j data))) } ∧
      u = { s.updateOf t c with localGrad := u.localGrad } ∧
      ((∀ m ∈ byteParts (t.winD 16) (c.shardStart j * elemBytes (t.winD 16) + Table.get 0 c.got j) data.length, addrSpace m.1 ≠ 2) →
        u = s.updateOf t c) := by
  have hopen : (w.reduceData t c j data).collective c.axis c.tag = some (c.noted j (Table.get 0 c.got j + data.length)) := by
    rw [State.reduceData_hands hj hfirst hfits hdata ((hheard.linked.collFault ..).trans hfault) hpos hupdate, State.handShard_rest]
    exact State.summed_collective ((hheard.collective _ _).trans hc) t j data
  rw [State.settleCollective_of_update hopen hupdate]
  rw [State.reduceData_hands hj hfirst hfits hdata ((hheard.linked.collFault ..).trans hfault) hpos hupdate, hheard.linked.sumOf]
  have hkept := hheard.linked.kept.trans (w.summed_kept t c j data)
  have hbeside := hheard.linked.beside.trans (w.summed_beside t c j data)
  have hselvedge : (w.summed t c j data).shardSelvedge t c = s.shardSelvedge t c := by
    rw [State.summed_rest, hheard.rest]
    rfl
  have hupdates : (w.summed t c j data).updateOf t c = { s.updateOf t c with localGrad := ((w.summed t c j data).updateOf t c).localGrad } := rfl
  have hsame : (∀ m ∈ byteParts (t.winD 16) (c.shardStart j * elemBytes (t.winD 16) + Table.get 0 c.got j) data.length, addrSpace m.1 ≠ 2) →
      (w.summed t c j data).updateOf t c = s.updateOf t c := by
    intro houtside
    have hlinked : Linked s (w.summed t c j data) := by
      unfold State.summed
      rw [State.lookupElements_outside houtside]
      exact hheard.linked.trans (State.modCollective_linked _ _ _)
    have hfn : (w.summed t c j data).itemFunction t.id = s.itemFunction t.id := by
      rw [hlinked.rest]
      rfl
    unfold State.updateOf
    dsimp only
    rw [hlinked.elementBytes, hfn]
  generalize w.summed t c j data = u at hkept hbeside hselvedge hupdates hsame ⊢
  have hselv := u.handShard_selv t c (Table.get 0 c.got j == 0) (s.sumOf t c j data)
  have hsel : u.selv (s.shardSelvedge t c) = s.selv (s.shardSelvedge t c) := by
    rw [State.selv, hbeside.selvs, State.selv]
  rw [hselvedge, hsel] at hselv
  refine ⟨u.updateOf t c, ?_, ?_, ?_, hselv.trans ?_, hupdates, hsame⟩
  · rw [State.handShard_rest]
    exact hkept.keptBytes
  · rw [State.handShard_rest]
    exact hbeside.knots
  · rw [State.handShard_rest]
    exact hbeside.windows
  · simp only [beq_iff_eq]

omit hc in
theorem reduceOn_stores (hpos : j = c.position) (hupdate : c.update = false) (hdst : s.collFault t c false 20 = none) {m : Nat}
    (hpart : byteParts (t.winD 20) (c.sumPlace (elemBytes (t.winD 16)) j) (s.sumOf t c j data).length = [(m, (s.sumOf t c j data).length)])
    (h5 : addrSpace m ≠ 5) (hkeys : (s.access (s.itemFunction t.id) (t.winD 20)).keys = none) :
    ((w.reduceData t c j data).settleCollective c.axis c.tag).knots = s.knots ∧
    ((w.reduceData t c j data).settleCollective c.axis c.tag).windows = s.windows ∧
    (c.opcode = codeAllReduce → s.passClear c → s.sumOf t c j data ≠ [] →
      s.passed c j 1 (s.sumOf t c j data) ∈ ((w.reduceData t c j data).settleCollective c.axis c.tag).out) ∧
    (addrSpace m ≠ 2 → ((w.reduceData t c j data).settleCollective c.axis c.tag).mem.readBytes (hostKey (s.itemFunction t.id) m)
        (s.sumOf t c j data).length = s.sumOf t c j data ∧
      ∀ x, (x < hostKey (s.itemFunction t.id) m ∨ hostKey (s.itemFunction t.id) m + (s.sumOf t c j data).length ≤ x) → ¬s.chargeByte x →
        ((w.reduceData t c j data).settleCollective c.axis c.tag).mem.read x = s.mem.read x) := by
  have hfn : w.itemFunction t.id = s.itemFunction t.id := by
    rw [hheard.rest]
    rfl
  have hkeys' : (w.access (w.itemFunction t.id) (t.winD 20)).keys = none := by
    rw [hfn, hheard.rest]
    exact hkeys
  obtain ⟨hgo, hplain⟩ := State.summed_unstopped ((hheard.linked.collFault ..).trans hdst) hkeys' j data
  rw [State.reduceData_stores hj hfirst hfits hdata ((hheard.linked.collFault ..).trans hfault) hpos hupdate hgo]
  have hkept := hheard.linked.kept.trans (w.summed_kept t c j data)
  have hbeside := hheard.linked.beside.trans (w.summed_beside t c j data)
  have hlinks := (hheard.sameLinks hstays).trans (w.summed_sameLinks t c j data)
  unfold State.sumStored
  rw [hheard.linked.sumOf]
  rw [hfn] at hplain ⊢
  generalize w.summed t c j data = u at hkept hbeside hlinks hplain ⊢
  rw [State.putElementBytes_single hpart]
  have hstored := u.store_stored (u.access (s.itemFunction t.id) (t.winD 20)) h5 (s.sumOf t c j data)
  have hmem := fun h2 => State.store_mem_of_plain (s := u) hplain h5 h2 (s.sumOf t c j data)
  rw [State.access_function] at hmem
  generalize u.store (u.access (s.itemFunction t.id) (t.winD 20)) m (s.sumOf t c j data) = v at hstored hmem ⊢
  have hvlinks : SameLinks s (v.modItem t.id fun x => { x with bytes := x.bytes + (s.sumOf t c j data).length }) :=
    hlinks.trans ((SameLinks.of_rest (by rw [hstored])).trans (SameLinks.of_rest rfl))
  have hcounted := v.modItem_linked t.id fun x => { x with bytes := x.bytes + (s.sumOf t c j data).length }
  generalize (v.modItem t.id fun x => { x with bytes := x.bytes + (s.sumOf t c j data).length }) = y at hvlinks hcounted ⊢
  have hon : Linked y (if c.opcode = codeAllReduce then y.sendBlock c j 1 (s.sumOf t c j data) else y) := by
    split
    · exact y.sendBlock_linked c j 1 _
    · exact Linked.refl y
  have hpassed : c.opcode = codeAllReduce → s.passClear c → s.sumOf t c j data ≠ [] →
      s.passed c j 1 (s.sumOf t c j data) ∈ (if c.opcode = codeAllReduce then y.sendBlock c j 1 (s.sumOf t c j data) else y).out := by
    intro hall hclear hne
    rw [if_pos hall]
    exact hvlinks.sends hne (Nat.le_trans (reduceBytes_length_le _ _ _ _) hlen) hclear
  generalize (if c.opcode = codeAllReduce then y.sendBlock c j 1 (s.sumOf t c j data) else y) = z at hon hpassed ⊢
  have hsettled := z.settleCollective_settled c.axis c.tag
  generalize z.settleCollective c.axis c.tag = x at hsettled ⊢
  have hall := (((hbeside.trans hstored.beside).trans hcounted.beside).trans hon.beside).trans hsettled.beside
  have hxmem : x.mem = v.mem := by rw [hsettled.rest, hon.rest, hcounted.rest]
  refine ⟨hall.knots, hall.windows, fun h hclear hne => ?_, fun h2 => ⟨?_, fun b hb hcharge => ?_⟩⟩
  · rw [hsettled.rest]
    exact hpassed h hclear hne
  · rw [hxmem, hmem h2]
    exact Memory.readBytes_writeBytes _ _ _
  · rw [hxmem, hmem h2, Memory.read_writeBytes_outside _ _ hb]
    exact hkept.keptBytes.1 b hcharge

end

/-! ### A datagram of the gather -/

omit hc in
theorem gatherOn (hpos : j ≠ c.position) (hopcode : c.opcode ≠ codeReduceScatter)
    (hfits : Table.get 0 c.got (16 + j) + data.length ≤ c.blockBytes (elemBytes (t.winD 16)) j) (hdst : s.collFault t c false 20 = none) {m : Nat}
    (hpart : byteParts (t.winD 20) (c.blockStart (elemBytes (t.winD 16)) j + Table.get 0 c.got (16 + j)) data.length = [(m, data.length)])
    (h5 : addrSpace m ≠ 5) (hkeys : (s.access (s.itemFunction t.id) (t.winD 20)).keys = none) :
    ((w.gatherData t c j data).settleCollective c.axis c.tag).knots = s.knots ∧
    ((w.gatherData t c j data).settleCollective c.axis c.tag).windows = s.windows ∧
    (s.passClear c → c.next ≠ j → s.passed c j 1 data ∈ ((w.gatherData t c j data).settleCollective c.axis c.tag).out) ∧
    (addrSpace m ≠ 2 → ((w.gatherData t c j data).settleCollective c.axis c.tag).mem.readBytes (hostKey (s.itemFunction t.id) m) data.length = data ∧
      ∀ x, x < hostKey (s.itemFunction t.id) m ∨ hostKey (s.itemFunction t.id) m + data.length ≤ x →
        ((w.gatherData t c j data).settleCollective c.axis c.tag).mem.read x = s.mem.read x) := by
  have hfn : w.itemFunction t.id = s.itemFunction t.id := by
    rw [hheard.rest]
    rfl
  have hplain : (w.access (s.itemFunction t.id) (t.winD 20)).keys = none := by
    rw [hheard.rest]
    exact hkeys
  have hgo : ¬(j ≥ c.group ∨ j = c.position ∨ c.opcode = codeReduceScatter ∨
      c.blockBytes (elemBytes (t.winD 16)) j < Table.get 0 c.got (16 + j) + data.length) := by
    rintro (h | h | h | h)
    exacts [by omega, hpos h, hopcode h, by omega]
  have hlinks := hheard.sameLinks hstays
  have hbeside := hheard.linked.beside
  have hwmem : w.mem = s.mem := by rw [hheard.rest]
  unfold State.gatherData
  dsimp only
  rw [if_neg hgo, (hheard.linked.collFault ..).trans hdst, hfn]
  dsimp only
  rw [State.putElementBytes_single hpart]
  have hstored := w.store_stored (w.access (s.itemFunction t.id) (t.winD 20)) h5 data
  have hmem := fun h2 => State.store_mem_of_plain (s := w) hplain h5 h2 data
  rw [State.access_function] at hmem
  generalize w.store (w.access (s.itemFunction t.id) (t.winD 20)) m data = v at hstored hmem ⊢
  have hnoted := (v.modItem_linked t.id fun x => { x with bytes := x.bytes + data.length }).trans
    (State.modCollective_linked _ c fun x => { x with got := Table.set 0 x.got (16 + j) (Table.get 0 c.got (16 + j) + data.length) })
  have hvlinks : SameLinks w v := SameLinks.of_rest (by rw [hstored])
  have hylinks : SameLinks s ((v.modItem t.id fun x => { x with bytes := x.bytes + data.length }).modCollective c fun x =>
      { x with got := Table.set 0 x.got (16 + j) (Table.get 0 c.got (16 + j) + data.length) }) :=
    (hlinks.trans hvlinks).trans (SameLinks.of_rest rfl)
  generalize ((v.modItem t.id fun x => { x with bytes := x.bytes + data.length }).modCollective c fun x =>
    { x with got := Table.set 0 x.got (16 + j) (Table.get 0 c.got (16 + j) + data.length) }) = y at hnoted hylinks ⊢
  have hon : Linked y (if c.next = j then y else y.sendBlock c j 1 data) := by
    split
    · exact Linked.refl y
    · exact y.sendBlock_linked c j 1 data
  have hpassed : s.passClear c → c.next ≠ j → s.passed c j 1 data ∈ (if c.next = j then y else y.sendBlock c j 1 data).out := by
    intro hclear hnext
    rw [if_neg hnext]
    exact hylinks.sends hdata hlen hclear
  generalize (if c.next = j then y else y.sendBlock c j 1 data) = z at hon hpassed ⊢
  have hsettled := z.settleCollective_settled c.axis c.tag
  generalize z.settleCollective c.axis c.tag = x at hsettled ⊢
  have hall := (((hbeside.trans hstored.beside).trans hnoted.beside).trans hon.beside).trans hsettled.beside
  have hxmem : x.mem = v.mem := by rw [hsettled.rest, hon.rest, hnoted.rest]
  refine ⟨hall.knots, hall.windows, fun hclear hnext => ?_, fun h2 => ⟨?_, fun b hb => ?_⟩⟩
  · rw [hsettled.rest]
    exact hpassed hclear hnext
  · rw [hxmem, hmem h2]
    exact Memory.readBytes_writeBytes _ _ _
  · rw [hxmem, hmem h2, Memory.read_writeBytes_outside _ _ hb, hwmem]

end

end Sys2Proof.Machine
end

section
/-!
The openings, the limits and the withdrawals of a collective, and what only passes through this module (R263, R271–R273).
-/
namespace Sys2Proof.Machine

/-! ### What only passes through (R272) -/

/-- What is passed on changes nothing here, and leaves at once where the path goes on within the group and the port is clear. -/
theorem State.passCollective_passes {s w : State} (hheard : Heard s w) (hstays : StaysClear s w) (q g prio : Nat) (pk : Packet) :
    Heard s (w.passCollective q g prio pk) ∧ (s.portUp (onwardPort q) = true → s.groupBeyond (onwardPort q) g = true →
      (s.flight (onwardPort q)).clear pk.sender → s.requestOut (onwardPort q) prio pk ∈ (w.passCollective q g prio pk).out) := by
  have hbeyond : w.groupBeyond (onwardPort q) g = s.groupBeyond (onwardPort q) g := by
    rw [hheard.rest]
    rfl
  refine ⟨hheard.trans (w.passCollective_heard q g prio pk), fun hup hgroup hclear => ?_⟩
  unfold State.passCollective
  rw [hheard.portUp, hbeyond, hup, hgroup, if_pos (by decide), State.sendRequest_sends (hstays _ _ hclear), hheard.requestOut]
  exact List.mem_append_right _ (List.mem_singleton_self _)

theorem Heard.passesThrough {s w : State} (h : Heard s w) (q : Nat) (a : Axis) (tag g : Nat) : w.passesThrough q a tag g = s.passesThrough q a tag g := by
  rw [h.rest]
  rfl

theorem Heard.sameBytes {s w : State} (h : Heard s w) : w.sameBytes s := by
  rw [h.rest]
  exact ⟨rfl, rfl, rfl⟩

theorem collectiveData_passes {s : State} {q tag g j phase : Nat} {a : Axis} {data : List Byte} {express : Bool} (hready : s.ready = true)
    (hup : s.portUp q = true) (hpass : s.passesThrough q a tag g = true) :
    ∃ s', exec (.collectiveData a tag j phase data q g express) s = .next s' ∧ s'.items = s.items ∧ s'.colls = s.colls ∧ s'.sameBytes s ∧
      (s.portUp (onwardPort q) = true → s.groupBeyond (onwardPort q) g = true →
        (s.flight (onwardPort q)).clear (Packet.partialData a tag g j phase data).sender →
        s.requestOut (onwardPort q) (priorityOf express 0) (.partialData a tag g j phase data) ∈ s'.out) := by
  obtain ⟨prio, hrun⟩ : ∃ prio, exec (.collectiveData a tag j phase data q g express) s =
      .next ((s.takeIn q (collSender a tag) prio).passCollective q g (priorityOf express 0) (.partialData a tag g j phase data)) := by
    refine ⟨priorityOf express (if (s.portLink q).lower + 1 = s.axisSize a then 1 else 0), congrArg Host.Outcome.next ?_⟩
    unfold State.collectiveData
    dsimp only
    rw [hready, hup, if_neg (by decide), hpass, if_pos rfl]
  obtain ⟨hheard, hsent⟩ := State.passCollective_passes (s.takeIn_heard q (collSender a tag) prio) (s.takeIn_staysClear q (collSender a tag) prio) q g
    (priorityOf express 0) (.partialData a tag g j phase data)
  refine ⟨_, hrun, ?_, ?_, hheard.sameBytes, hsent⟩
  · rw [hheard.rest]
  · rw [hheard.rest]

/-! ### Openings (R271, R273) -/

section
variable {s : State} {q : Nat} {h : OpenHead} (hready : s.ready = true) (hup : s.portUp q = true)
include hready hup

theorem collectiveOpen_passes (hpass : s.passesThrough q h.axis h.tag h.group = true) : ∃ s', exec (.collectiveOpen h q) s = .next s' ∧
    s'.items = s.items ∧ s'.colls = s.colls ∧ s'.openings = s.openings ∧ s'.sameBytes s := by
  obtain ⟨prio, hrun⟩ : ∃ prio, exec (.collectiveOpen h q) s =
      .next ((s.takeIn q (collSender h.axis h.tag) prio).passCollective q h.group (priorityOf h.express 0) (.opening h)) := by
    refine ⟨priorityOf h.express (s.arrivedVc q (s.memberCoord h.axis h.group h.position)), congrArg Host.Outcome.next ?_⟩
    unfold State.collectiveOpen
    dsimp only
    rw [hready, hup, if_neg (by decide), Heard.passesThrough (s.takeIn_heard _ _ _), hpass, if_pos rfl]
  obtain ⟨hheard, -⟩ := State.passCollective_passes (s.takeIn_heard q (collSender h.axis h.tag) prio)
    (s.takeIn_staysClear q (collSender h.axis h.tag) prio) q h.group (priorityOf h.express 0) (.opening h)
  refine ⟨_, hrun, ?_, ?_, ?_, hheard.sameBytes⟩
  · rw [hheard.rest]
  · rw [hheard.rest]
  · rw [hheard.rest]

variable (hstay : s.passesThrough q h.axis h.tag h.group = false) (hother : h.position ≠ s.coord h.axis % Nat.max 1 h.group)
include hstay hother

/-- The opening of another member goes on, and this member takes note of it. -/
theorem exec_collectiveOpen : ∃ w, Heard s w ∧ exec (.collectiveOpen h q) s = .next (w.hearOpening h) := by
  obtain ⟨w, hheard, hrun⟩ : ∃ w, Heard s w ∧ s.collectiveOpen q h = w.hearOpening h := by
    unfold State.collectiveOpen
    dsimp only
    rw [hready, hup, if_neg (by decide), Heard.passesThrough (s.takeIn_heard _ _ _), hstay, if_neg (by decide)]
    generalize s.arrivedVc q (s.memberCoord h.axis h.group h.position) = vc
    have htake := s.takeIn_heard q (collSender h.axis h.tag) (priorityOf h.express vc)
    generalize s.takeIn q (collSender h.axis h.tag) (priorityOf h.express vc) = u at htake ⊢
    have hcoord : u.coord h.axis = s.coord h.axis := by
      rw [htake.rest]
      rfl
    rw [hcoord, if_neg (c := s.coord h.axis % Nat.max 1 h.group = h.position) (Ne.symm hother)]
    refine ⟨_, htake.trans ?_, rfl⟩
    split
    · exact u.sendRequest_heard _ _ _
    · exact Heard.refl u
  exact ⟨w, hheard, congrArg Host.Outcome.next hrun⟩

variable (hfresh : (h.axis, h.tag, h.position) ∉ s.stale)
include hfresh

omit hready hup hstay hother in
theorem Heard.fresh {w : State} (hheard : Heard s w) : ¬w.stale.contains (h.axis, h.tag, h.position) = true := by
  have hstale : w.stale = s.stale := by rw [hheard.rest]
  rw [hstale, List.contains_iff_mem]
  exact hfresh

/-- An opening of a collective that is not open here is kept. -/
theorem collectiveOpen_keeps (hnone : s.collective h.axis h.tag = none) : ∃ s', exec (.collectiveOpen h q) s = .next s' ∧
    s'.openings = s.openings ++ [h] ∧ s'.items = s.items ∧ s'.sameBytes s := by
  obtain ⟨w, hheard, hrun⟩ := exec_collectiveOpen hready hup hstay hother
  have hkeep : w.hearOpening h = { w with openings := w.openings ++ [h] } := by
    unfold State.hearOpening
    rw [if_neg (hheard.fresh hfresh), hheard.collective, hnone]
  refine ⟨_, hrun, ?_, ?_, ?_⟩
  · rw [hkeep, hheard.rest]
  · rw [hkeep, hheard.rest]
  · rw [hkeep, hheard.rest]
    exact ⟨rfl, rfl, rfl⟩

section
variable {c : Collective} (hc : s.collective h.axis h.tag = some c) (hpos : h.position ≠ c.position) (hnew : h.position ∉ c.joined)
include hc hpos hnew

omit hready hup hstay hother hfresh hc in
theorem OpenHead.unheard : ¬(h.position = c.position ∨ c.joined.contains h.position = true) := by
  rintro (hsame | hin)
  · exact hpos hsame
  · exact hnew (List.contains_iff_mem.mp hin)

/-- A collective with one more member heard. -/
def Collective.hears (h : OpenHead) (c : Collective) : Collective :=
  { c with
    joined := insertNat c.joined h.position
    rootCounter := if h.position = 0 then h.rootCounter.getD c.rootCounter else c.rootCounter }

/-- An opening that agrees joins its member. -/
theorem collectiveOpen_joins (helements : h.elements = c.elements) (hopcode : h.opcode = c.opcode) (htype : h.reduceType = c.reduceType)
    (hwait : c.started = true ∨ (insertNat c.joined h.position).length ≠ c.group) :
    ∃ s' k, exec (.collectiveOpen h q) s = .next s' ∧ s'.collective h.axis h.tag = some k ∧ k.joined = insertNat c.joined h.position ∧
      s'.items = s.items ∧ s'.sameBytes s := by
  obtain ⟨w, hheard, hrun⟩ := exec_collectiveOpen hready hup hstay hother
  obtain ⟨haxis, htag⟩ := State.collective_named hc
  have hmod : (w.modCollective c (Collective.hears h)).collective h.axis h.tag = some (c.hears h) := by
    have hx := State.modCollective_collective (s := w) (c := c) (x := c) (f := Collective.hears h) (fun _ => ⟨rfl, rfl⟩) (by
        rw [haxis, htag, hheard.collective]
        exact hc)
    rwa [haxis, htag] at hx
  have hlinked := hheard.linked.trans (w.modCollective_linked c (Collective.hears h))
  have hitems : (w.modCollective c (Collective.hears h)).items = s.items := by
    change w.items = _
    rw [hheard.rest]
  have hhear : w.hearOpening h = w.modCollective c (Collective.hears h) := by
    unfold State.hearOpening
    rw [if_neg (hheard.fresh hfresh), hheard.collective, hc]
    dsimp only
    rw [if_neg (OpenHead.unheard hpos hnew), if_neg (not_not.mpr helements), if_neg (by rw [hopcode, htype]; simp)]
    have hheard' : (w.modCollective c fun c => { c with
        joined := insertNat c.joined h.position
        rootCounter := if h.position = 0 then h.rootCounter.getD c.rootCounter else c.rootCounter }).collective h.axis h.tag = some (c.hears h) := hmod
    rw [hheard']
    dsimp only
    refine if_neg ?_
    rintro ⟨hlength, hidle⟩
    rcases hwait with hstarted | hshort
    · change (!c.started) = true at hidle
      rw [hstarted] at hidle
      exact nomatch hidle
    · exact hshort hlength
  rw [hhear] at hrun
  generalize (w.modCollective c (Collective.hears h)) = x at hmod hlinked hrun hitems
  refine ⟨x, _, hrun, hmod, rfl, hitems, ?_⟩
  rw [hlinked.rest]
  exact ⟨rfl, rfl, rfl⟩

/-- One with another element count ends this member. -/
theorem collectiveOpen_fails {t : Item} (helements : h.elements ≠ c.elements) (hitem : s.item c.item = some t) (hfirst : t.failedAt = none)
    (hcall : t.caller = none) : ∃ s', exec (.collectiveOpen h q) s = .next s' ∧ s'.failedWith c.item .lengthBound ∧ s'.sameBytes s := by
  obtain ⟨w, hheard, hrun⟩ := exec_collectiveOpen hready hup hstay hother
  have hhear : w.hearOpening h = w.failOpening c h.position .lengthBound := by
    unfold State.hearOpening
    rw [if_neg (hheard.fresh hfresh), hheard.collective, hc]
    dsimp only
    rw [if_neg (OpenHead.unheard hpos hnew), if_pos helements]
  rw [hhear] at hrun
  refine ⟨_, hrun, ?_⟩
  unfold State.failOpening
  dsimp only
  generalize w.stale ++ ((List.range c.group).filter fun j => j != h.position && !c.joined.contains j).map (fun j => (c.axis, c.tag, j)) = late
  have hdecided : (({ w with stale := late } : State).modItem c.item fun t => { t with phase := .decided }).item c.item =
      some { t with phase := .decided } := by
    have hwitem : ({ w with stale := late } : State).item c.item = some t := by
      change w.item c.item = _
      rw [hheard.rest]
      exact hitem
    rw [State.modItem_item _ _ _ (fun t => { t with phase := .decided }) fun _ => rfl, if_pos rfl, hwitem]
    rfl
  have hbytes : (({ w with stale := late } : State).modItem c.item fun t => { t with phase := .decided }).sameBytes s := by
    change w.sameBytes s
    exact hheard.sameBytes
  generalize ({ w with stale := late } : State).modItem c.item (fun t => { t with phase := .decided }) = u at hdecided hbytes ⊢
  have hquiet := (u.failItem_isQuiet c.item .lengthBound).sameBytes
  exact ⟨State.failItem_failedWith hdecided hfirst hcall .lengthBound, hbytes.1.trans hquiet.1, hbytes.2.1.trans hquiet.2.1, hbytes.2.2.trans hquiet.2.2⟩

end

end

/-! ### Limits and withdrawals (R273) -/

theorem State.failItem_ends {s : State} {i : ItemId} {t : Item} (hitem : s.item i = some t) (hfirst : t.failedAt = none) (hcall : t.caller = none)
    (st : Status) : (s.failItem i st).failedWith i st ∧ (s.failItem i st).sameBytes s :=
  ⟨State.failItem_failedWith hitem hfirst hcall st, (s.failItem_isQuiet i st).sameBytes⟩

theorem joinTimeout_limit {s : State} {i : ItemId} {c : Collective} {t : Item} (hc : s.colls.find? (fun c => c.item == i) = some c)
    (hitem : s.item i = some t) (hfirst : t.failedAt = none) (hcall : t.caller = none) :
    (c.started = true ∨ s.newel.time.toNat < c.joinedAt.toNat + 1000000 * (s.flight (s.collSendPort c)).joinTo.toNat →
      exec (.joinTimeout i) s = .next s) ∧
    (c.started = false → c.joinedAt.toNat + 1000000 * (s.flight (s.collSendPort c)).joinTo.toNat ≤ s.newel.time.toNat →
      ∃ s', exec (.joinTimeout i) s = .next s' ∧ s'.failedWith i .timeout ∧ s'.sameBytes s) := by
  have hrun : s.joinTimeout i = if !c.started && decide (c.joinedAt.toNat + 1000000 * (s.flight (s.collSendPort c)).joinTo.toNat ≤ s.newel.time.toNat)
      then s.failItem i .timeout else s := by
    unfold State.joinTimeout
    rw [hc]
  refine ⟨fun hgo => congrArg Host.Outcome.next (hrun.trans (if_neg ?_)), fun hidle hdue => ⟨_, congrArg Host.Outcome.next (hrun.trans (if_pos ?_)),
    State.failItem_ends hitem hfirst hcall .timeout⟩⟩
  · rw [Bool.and_eq_true, Bool.not_eq_true', decide_eq_true_iff]
    rintro ⟨hidle, hdue⟩
    rcases hgo with hstarted | hearly
    · rw [hstarted] at hidle
      exact nomatch hidle
    · omega
  · rw [hidle, decide_eq_true hdue]
    rfl

theorem collectiveWithdrawal_fails {s : State} {p tag c g : Nat} {a : Axis} {i : ItemId} {t : Item} (hready : s.ready = true) (hup : s.portUp p = true)
    (hgroup : s.coord a / Nat.max 1 g = c / Nat.max 1 g) (hother : s.coord a ≠ c) (hitem : s.item i = some t) (hfirst : t.failedAt = none)
    (hcall : t.caller = none) (hmember : (∃ x, s.collective a tag = some x ∧ x.item = i) ∨
      (s.collective a tag = none ∧ s.waitingMember a tag (Nat.max 1 g) = some t ∧ t.id = i)) :
    ∃ s', exec (.collectiveWithdrawal p a tag c g) s = .next s' ∧ s'.failedWith i .timeout ∧ s'.sameBytes s := by
  obtain ⟨w, hrest, hrun⟩ : ∃ w : State, w = { s with flights := w.flights, out := w.out, openings := w.openings, stale := w.stale } ∧
      s.collectiveWithdrawal p a tag c g = w.failItem i .timeout := by
    have hgo : ¬(!s.ready || !s.portUp p || decide (s.coord a / Nat.max 1 g ≠ c / Nat.max 1 g)) = true := by
      rw [hready, hup, hgroup]
      simp
    have hhear := s.hear_heard p
    unfold State.collectiveWithdrawal
    dsimp only
    rw [if_neg (by simpa using hgo)]
    generalize s.hear p = u at hhear ⊢
    have hsent : Heard u (if u.coord a ≠ c ∧ u.portUp (axisPort a (!portPlus p) (p % 2)) = true ∧
        u.groupBeyond (axisPort a (!portPlus p) (p % 2)) (Nat.max 1 g) = true then
          u.sendReply (axisPort a (!portPlus p) (p % 2)) false (u.arrivedVc p c) (.withdrawal a tag c (Nat.max 1 g)) else u) := by
      split
      · exact u.sendReply_heard _ _ _ _
      · exact Heard.refl u
    generalize (if u.coord a ≠ c ∧ u.portUp (axisPort a (!portPlus p) (p % 2)) = true ∧
        u.groupBeyond (axisPort a (!portPlus p) (p % 2)) (Nat.max 1 g) = true then
          u.sendReply (axisPort a (!portPlus p) (p % 2)) false (u.arrivedVc p c) (.withdrawal a tag c (Nat.max 1 g)) else u) = v at hsent ⊢
    have hv := (hhear.trans hsent).rest
    generalize v.openings.filter (fun h => !(h.axis == a && h.tag == tag && h.position == c % Nat.max 1 g)) = openings
    generalize v.stale.erase (a, tag, c % Nat.max 1 g) = stale
    have hw : ({ v with openings := openings, stale := stale } : State) =
        { s with flights := v.flights, out := v.out, openings := openings, stale := stale } := by rw [hv]
    have hcoll : ({ v with openings := openings, stale := stale } : State).collective a tag = s.collective a tag := by
      rw [hw]
      rfl
    have hwaiting : ({ v with openings := openings, stale := stale } : State).waitingMember a tag (Nat.max 1 g) =
        s.waitingMember a tag (Nat.max 1 g) := by
      rw [hw]
      rfl
    have hcoord : ({ v with openings := openings, stale := stale } : State).coord a = s.coord a := by
      rw [hw]
      rfl
    generalize ({ v with openings := openings, stale := stale } : State) = w at hw hcoll hwaiting hcoord ⊢
    refine ⟨w, ?_, ?_⟩
    · rw [hw]
    · rcases hmember with ⟨x, hx, rfl⟩ | ⟨hnone, hmine, rfl⟩
      · rw [hcoll, hx]
        exact if_neg (by rw [hcoord]; exact hother)
      · rw [hcoll, hnone, hwaiting, hmine]
        exact if_neg (by rw [hcoord]; exact hother)
  have hwitem : w.item i = some t := by
    rw [hrest]
    exact hitem
  obtain ⟨hfailed, hbytes⟩ := State.failItem_ends hwitem hfirst hcall .timeout
  refine ⟨_, congrArg Host.Outcome.next hrun, hfailed, ?_⟩
  have hw : w.sameBytes s := by
    rw [hrest]
    exact ⟨rfl, rfl, rfl⟩
  exact ⟨hw.1.trans hbytes.1, hw.2.1.trans hbytes.2.1, hw.2.2.trans hbytes.2.2⟩

end Sys2Proof.Machine
end

section
/-!
Joining a collective (R263, R271, R273), and the obligation on collectives.
-/
namespace Sys2Proof.Machine

/-! ### Channels taken (R263) -/

/-- A member between the ends of its ring passes on by another port than it sends on. -/
theorem State.collPassPort_ne {s : State} {k : Collective} {p : Nat} (hplus : k.plus = (s.tagWay k.tag).1) (hlane : k.lane = (s.tagWay k.tag).2)
    (hp : s.collPassPort k = some p) : p ≠ s.collSendPort k := by
  unfold State.collPassPort at hp
  split at hp
  next hmid =>
    have hlast : (k.position == lastPos k.plus k.group) = false := beq_eq_false_iff_ne.mpr hmid.2.2
    have hsend : s.collSendPort k = axisPort k.axis k.plus k.lane := by
      unfold State.collSendPort State.collPorts
      dsimp only
      rw [← hplus, ← hlane, hlast, Bool.and_false]
      rfl
    rw [hsend, ← Option.some.inj hp]
    unfold axisPort
    cases k.plus with
    | true => simp
    | false => simp
  next => exact nomatch hp

theorem State.holdChannel_room {s : State} {p out : Nat} (hne : p ≠ out) (it i : ItemId) : (s.holdChannel out it).channelFree p i = s.channelFree p i := by
  have hflight : (s.holdChannel out it).flight p = s.flight p := by
    unfold State.holdChannel
    rw [State.modFlight_flight, if_neg (Ne.symm hne)]
  unfold State.channelFree State.channelRoom
  dsimp only
  rw [hflight]
  rfl

theorem State.holdChannel_sameLinks (s : State) (p : Nat) (i : ItemId) : SameLinks s (s.holdChannel p i) :=
  Heard.sameLinks (s.modFlight_heard p (fun _ => rfl) (fun _ => rfl) (fun _ => rfl) fun _ => rfl) (s.modFlight_staysClear p fun _ _ => id)

/-- What a member that has its channels may have changed. -/
structure Channelled (s u : State) : Prop extends SameLinks s u where
  rest : u = { s with flights := u.flights, xprHeld := u.xprHeld }

theorem Channelled.trans {s u v : State} (h : Channelled s u) (k : Channelled u v) : Channelled s v where
  toSameLinks := h.toSameLinks.trans k.toSameLinks
  rest := by rw [k.rest, h.rest]

theorem State.holdChannel_channelled (s : State) (p : Nat) (i : ItemId) : Channelled s (s.holdChannel p i) := ⟨s.holdChannel_sameLinks p i, rfl⟩

theorem State.takeChannels_takes {s : State} {k : Collective} (hplus : k.plus = (s.tagWay k.tag).1) (hlane : k.lane = (s.tagWay k.tag).2)
    (hroom : if k.express then s.xprHeld.length < 16 else s.channelFree (s.collSendPort k) k.item = true)
    (hpass : k.express = false → ∀ p, s.collPassPort k = some p → s.channelFree p k.item = true) :
    ∃ u, s.takeChannels k = some u ∧ Channelled s u := by
  cases hexpress : k.express with
  | true =>
    rw [hexpress, if_pos rfl] at hroom
    have htake : s.takeChannel k.express (s.collSendPort k) k.item = some { s with xprHeld := s.xprHeld ++ [k.item] } := by
      unfold State.takeChannel
      rw [hexpress, if_pos rfl]
      exact if_pos hroom
    refine ⟨{ s with xprHeld := s.xprHeld ++ [k.item] }, ?_, ⟨⟨fun _ => rfl, fun _ _ => rfl, fun _ _ _ => rfl, fun _ _ => id⟩, rfl⟩⟩
    unfold State.takeChannels
    rw [htake]
    split
    next u p heq _ =>
      rw [hexpress, if_pos rfl]
      exact heq.symm
    next => rfl
  | false =>
    rw [hexpress, if_neg (by decide)] at hroom
    have htake : s.takeChannel k.express (s.collSendPort k) k.item = some (s.holdChannel (s.collSendPort k) k.item) := by
      unfold State.takeChannel
      rw [hexpress, if_neg (by decide), if_pos hroom]
    have hheld := s.holdChannel_channelled (s.collSendPort k) k.item
    cases hp : s.collPassPort k with
    | none =>
      refine ⟨_, ?_, hheld⟩
      unfold State.takeChannels
      rw [htake, hp]
    | some p =>
      refine ⟨_, ?_, hheld.trans (State.holdChannel_channelled _ p k.item)⟩
      unfold State.takeChannels
      rw [htake, hp]
      dsimp only
      rw [hexpress, if_neg (by decide)]
      unfold State.takeChannel
      rw [if_neg (by decide), State.holdChannel_room (State.collPassPort_ne hplus hlane hp), if_pos (hpass hexpress p hp)]

/-! ### Joining (R271, R273) -/

/-- A member that has joined, before its opening goes out. -/
def State.joinedBy (s : State) (k : Collective) (i : ItemId) : State :=
  ({ s with colls := s.colls ++ [k], openings := s.openings.filter fun h => !(h.axis == k.axis && h.tag == k.tag) } : State).modItem i
    fun t => { t with phase := .external }

/-- What has joined, once its opening is out. -/
theorem Channelled.joined {s u : State} (hheld : Channelled s u) {i : ItemId} {t : Item} (hitem : s.item i = some t) (k : Collective) (out prio : Nat)
    (pk : Packet) :
    ((u.joinedBy k i).sendRequest out prio pk).colls = s.colls ++ [k] ∧
    ((u.joinedBy k i).sendRequest out prio pk).item i = some { t with phase := .external } ∧
    ((u.joinedBy k i).sendRequest out prio pk).sameBytes s ∧ s.sameRegisters ((u.joinedBy k i).sendRequest out prio pk) ∧
    ((u.joinedBy k i).sendRequest out prio pk).knots = s.knots ∧ ((u.joinedBy k i).sendRequest out prio pk).windows = s.windows ∧
    ((s.flight out).clear pk.sender → ((u.joinedBy k i).sendRequest out prio pk).out = s.out ++ [s.requestOut out prio pk]) := by
  have hsent := ((u.joinedBy k i).sendRequest_heard out prio pk).rest
  have hrest : u.joinedBy k i = { s with
      flights := u.flights, xprHeld := u.xprHeld, colls := s.colls ++ [k], items := (u.joinedBy k i).items, openings := (u.joinedBy k i).openings } := by
    unfold State.joinedBy
    rw [hheld.rest]
    rfl
  have hjoined : (u.joinedBy k i).item i = some { t with phase := .external } := by
    have hu : u.item i = some t := by
      rw [hheld.rest]
      exact hitem
    unfold State.joinedBy
    rw [State.modItem_item _ _ _ (fun t => { t with phase := .external }) fun _ => rfl, if_pos rfl]
    change (u.item i).map _ = _
    rw [hu]
    rfl
  have hout : (s.flight out).clear pk.sender →
      ((u.joinedBy k i).sendRequest out prio pk).out = s.out ++ [s.requestOut out prio pk] := by
    intro hclear
    have hreq : (u.joinedBy k i).requestOut out prio pk = s.requestOut out prio pk := hheld.requestOut _ _ _
    have huout : (u.joinedBy k i).out = s.out := by rw [hrest]
    rw [State.sendRequest_sends (show ((u.joinedBy k i).flight out).clear _ from hheld.clear _ _ hclear), hreq, huout]
  generalize (u.joinedBy k i).sendRequest out prio pk = w at hsent hout ⊢
  generalize u.joinedBy k i = v at hsent hrest hjoined
  refine ⟨?_, ?_, ?_, ?_, ?_, ?_, hout⟩
  · rw [hsent, hrest]
  · rw [hsent]
    exact hjoined
  · rw [hsent, hrest]
    exact ⟨rfl, rfl, rfl⟩
  · rw [hsent, hrest]
    exact ⟨rfl, rfl, rfl, rfl, rfl, rfl, rfl, rfl, rfl⟩
  · rw [hsent, hrest]
  · rw [hsent, hrest]

section
variable {s : State} {it : ItemId} {o : Opcode} {t : Item} (h : Runs s it o t) (hnone : s.collective (s.collectiveOf t).axis (s.collectiveOf t).tag = none)
  (hup : s.portUp (s.collSendPort (s.collectiveOf t)) = true)
  (hsource : s.readFault (s.itemFunction it) true [readAll (word32 t.desc 16) (t.winD 16)] = none)
  (hdest : s.readFault (s.itemFunction it) false
    (if (s.collectiveOf t).update then [] else [readAll (word32 t.desc 20) (t.winD 20)]) = none)
  (hready : s.readReady t (readAll (word32 t.desc 16) (t.winD 16)) = true)
  (hfree : ∀ r ∈ (if (s.collectiveOf t).update then [] else [readAll (word32 t.desc 20) (t.winD 20)]), s.writeReady r = true)
  (hroom : if (s.collectiveOf t).express then s.xprHeld.length < 16 else s.channelFree (s.collSendPort (s.collectiveOf t)) it = true)
  (hpass : (s.collectiveOf t).express = false → ∀ p, s.collPassPort (s.collectiveOf t) = some p → s.channelFree p it = true)
  (hearly : s.earlyOpenings (s.collectiveOf t).axis (s.collectiveOf t).tag = [])
include h hnone hup hsource hdest hready hfree hroom hpass hearly

/-- A member that nothing holds back joins, and says so. -/
theorem State.joinCollective_joins : ∃ u, Channelled s u ∧ State.joinCollective t s = (u.joinedBy (s.collectiveOf t) it).sendRequest
    (s.collSendPort (s.collectiveOf t)) (priorityOf (s.collectiveOf t).express (s.linkVc (s.collSendPort (s.collectiveOf t)) 0))
    (.opening (openHeadOf (s.collectiveOf t))) := by
  have hid := h.id
  have hitem : (s.collectiveOf t).item = t.id := rfl
  have hplus : (s.collectiveOf t).plus = (s.tagWay (s.collectiveOf t).tag).1 := rfl
  have hlane : (s.collectiveOf t).lane = (s.tagWay (s.collectiveOf t).tag).2 := rfl
  unfold State.joinCollective
  dsimp only
  rw [hid]
  generalize s.collectiveOf t = k at *
  obtain ⟨u, htake, hheld⟩ := State.takeChannels_takes hplus hlane (by rw [hitem, hid]; exact hroom) (by rw [hitem, hid]; exact hpass)
  have hearly' : u.earlyOpenings k.axis k.tag = [] := by
    rw [hheld.rest]
    exact hearly
  have hvc : (u.joinedBy k it).linkVc (s.collSendPort k) 0 = s.linkVc (s.collSendPort k) 0 := hheld.linkVc _ _
  have hfault : ((s.readFault (s.itemFunction it) true [readAll (word32 t.desc 16) (t.winD 16)]).orElse fun _ => s.readFault (s.itemFunction it) false
      (if k.update = true then [] else [readAll (word32 t.desc 20) (t.winD 20)])) = none := Option.orElse_none_iff.mpr ⟨hsource, hdest⟩
  refine ⟨u, hheld, ?_⟩
  rw [hnone, if_neg (by decide), hup, if_neg (by decide), hfault]
  dsimp only
  rw [if_pos (by rw [hready, List.all_eq_true.mpr hfree]; rfl), htake]
  dsimp only
  rw [hearly', List.foldl_nil, ← hvc]
  rfl

theorem withItem_joins : ∃ w, s.withItem it o State.joinCollective = w ∧ w.colls = s.colls ++ [s.collectiveOf t] ∧
    (s.collectiveOf t).joined = [(s.collectiveOf t).position] ∧ (∃ u, w.item it = some u ∧ u.phase = .external ∧ u.bytes = t.bytes) ∧ w.sameBytes s ∧
    s.sameRegisters w ∧ w.knots = s.knots ∧ w.windows = s.windows ∧
    ((s.flight (s.collSendPort (s.collectiveOf t))).clear (Packet.opening (openHeadOf (s.collectiveOf t))).sender →
      w.out = s.out ++ [s.requestOut (s.collSendPort (s.collectiveOf t))
        (priorityOf (s.collectiveOf t).express (s.linkVc (s.collSendPort (s.collectiveOf t)) 0)) (.opening (openHeadOf (s.collectiveOf t)))]) := by
  obtain ⟨u, hheld, hjoin⟩ := State.joinCollective_joins h hnone hup hsource hdest hready hfree hroom hpass hearly
  obtain ⟨hcolls, hitem, hbytes, hregs, hknots, hwindows, hout⟩ := hheld.joined h.item (s.collectiveOf t) (s.collSendPort (s.collectiveOf t))
    (priorityOf (s.collectiveOf t).express (s.linkVc (s.collSendPort (s.collectiveOf t)) 0)) (.opening (openHeadOf (s.collectiveOf t)))
  rw [← hjoin] at hcolls hitem hbytes hregs hknots hwindows hout
  exact ⟨_, h.withItem_mod hregs.1, hcolls, rfl, ⟨_, hitem, rfl, rfl⟩, hbytes, hregs, hknots, hwindows, hout⟩

end

/-- The commands that join: a collective's own, and the next try of one that waited for a channel. -/
theorem exec_join {s : State} {it : ItemId} {t : Item} {o : Opcode} {i : Instr} (h : Runs s it o t)
    (hi : (o, i) ∈ [(Opcode.collReduceScatter, Instr.collReduceScatter it), (.collAllGather, .collAllGather it), (.collAllReduce, .collAllReduce it),
      (.collReduceScatter, .channelAcquire it), (.collAllGather, .channelAcquire it), (.collAllReduce, .channelAcquire it)]) :
    exec i s = .next (s.withItem it o State.joinCollective) := by
  have hop : (s.item it).bind Item.op = some o := by
    rw [h.item, Option.bind_some, h.op]
  simp only [List.mem_cons, Prod.mk.injEq, List.not_mem_nil, or_false] at hi
  obtain ⟨rfl, rfl⟩ | ⟨rfl, rfl⟩ | ⟨rfl, rfl⟩ | ⟨rfl, rfl⟩ | ⟨rfl, rfl⟩ | ⟨rfl, rfl⟩ := hi
  · rfl
  · rfl
  · rfl
  all_goals
    refine congrArg Host.Outcome.next ?_
    unfold State.channelAcquire
    rw [hop]

/-! ### The obligation -/

section
variable {s : State} {q j phase : Nat} {data : List Byte} {c : Collective} {t : Item} {express : Bool} (hready : s.ready = true) (hup : s.portUp q = true)
  (hstay : s.passesThrough q c.axis c.tag c.group = false) (hc : s.collective c.axis c.tag = some c) (hitem : s.item c.item = some t)
  (hstarted : c.started = true) (hphase : t.phase = .external)
include hready hup hstay hc hitem hstarted hphase

/-- A datagram for a member here that nothing holds back. -/
theorem exec_collectiveData (hheld : s.dataHeld t c j phase data.length = false) (hroom : s.updateHeld t c j phase = false) :
    ∃ w, Heard s w ∧ StaysClear s w ∧ exec (.collectiveData c.axis c.tag j phase data q c.group express) s =
      .next ((if phase = 0 then w.reduceData t c j data else w.gatherData t c j data).settleCollective c.axis c.tag) := by
  have hfor : s.dataFor c.axis c.tag c.group = some (c, t) := by
    unfold State.dataFor
    rw [hc, Option.bind_some, hitem, Option.bind_some, if_pos ⟨hstarted, hphase, rfl⟩]
  refine ⟨s.takeIn q (collSender c.axis c.tag) (priorityOf express (if (s.portLink q).lower + 1 = s.axisSize c.axis then 1 else 0)),
    s.takeIn_heard _ _ _, s.takeIn_staysClear _ _ _, congrArg Host.Outcome.next ?_⟩
  unfold State.collectiveData
  dsimp only
  rw [hready, hup, if_neg (by decide), hstay, if_neg (by decide), hfor]
  dsimp only
  rw [hheld, hroom, if_neg (by decide)]

end

/-- A datagram of the gather begins no update. -/
theorem State.updateHeld_gather (s : State) (t : Item) (c : Collective) (j : Nat) : s.updateHeld t c j 1 = false := by
  unfold State.updateHeld
  rw [show (1 == 0) = false from rfl, Bool.and_false]
  rfl

/-- Settles O52. -/
theorem collectives : Obligations.Collectives := by
  unfold Obligations.Collectives
  refine ⟨fun s it t o i hi h => ?_, fun s q h hready hup => ⟨fun hpass => collectiveOpen_passes hready hup hpass, fun hstay hother hfresh => ⟨fun hnone =>
      collectiveOpen_keeps hready hup hstay hother hfresh hnone, fun c hc hpos hnew => ⟨fun helements hopcode htype hwait =>
        collectiveOpen_joins hready hup hstay hother hfresh hc hpos hnew helements hopcode htype hwait, fun t helements hitem hfirst hcall =>
        collectiveOpen_fails hready hup hstay hother hfresh hc hpos hnew helements hitem hfirst hcall⟩⟩⟩,
    fun s i c t hc hitem hfirst hcall => joinTimeout_limit hc hitem hfirst hcall,
    fun s p a tag c g i t hready hup hgroup hother hitem hfirst hcall hmember =>
      collectiveWithdrawal_fails hready hup hgroup hother hitem hfirst hcall hmember,
    fun s q a tag g j phase data express hready hup hpass => collectiveData_passes hready hup hpass,
    fun s q a tag j data c t express hready hup hstay hc hitem hstarted hphase hj hgroup hdata hlen => ?_⟩
  · intro k out rd wr fn hnone hup hsource hdest hready hfree hroom hpass hearly
    obtain ⟨w, hrun, hw⟩ := withItem_joins h hnone hup hsource hdest hready hfree hroom hpass hearly
    exact ⟨w, (exec_join h hi).trans (congrArg Host.Outcome.next hrun), hw⟩
  · obtain ⟨rfl, rfl⟩ := State.collective_named hc
    have hexec := fun phase => exec_collectiveData (j := j) (phase := phase) (data := data) (express := express) hready hup hstay hc hitem hstarted hphase
    intro src dst fn sz got gathered sum out passed clear
    refine ⟨fun hfirst hfits hfault hheld hroom => ?_, fun m hpos hopcode hfits hdst hpart h5 hkeys hheld => ?_⟩
    · obtain ⟨w, hheard, hstays, hrun⟩ := hexec 0 hheld hroom
      refine ⟨fun hpos hupdate => ?_, fun hpos hplain => ?_, fun hpos hupdate => ?_, fun m hpos hplain hdst hpart h5 hkeys => ?_⟩
      · obtain ⟨k, hk, hgot, hsent, hbytes, hbeside⟩ := reduceOn_update hheard hstays hc hj hdata hlen hfirst hfits hfault hpos hupdate
        exact ⟨_, k, hrun, hk, hgot, hsent, hbytes, hbeside.selvs, hbeside.knots, hbeside.windows⟩
      · obtain ⟨hsent, hbytes, hbeside, hgot⟩ := reduceOn_plain hheard hstays hj hdata hlen hfirst hfits hfault hpos
        exact ⟨_, hrun, hsent, hbytes, hbeside.selvs, hbeside.knots, hbeside.windows, hgot⟩
      · obtain ⟨u, hbytes, hknots, hwindows, hselv, hu, hsame⟩ := reduceOn_hands hheard hc hj hdata hfirst hfits hfault hpos hupdate
        exact ⟨_, u, hrun, hbytes, hknots, hwindows, hselv, hu, hsame⟩
      · exact ⟨_, hrun, reduceOn_stores hheard hstays hj hdata hlen hfirst hfits hfault hpos hplain hdst hpart h5 hkeys⟩
    · obtain ⟨w, hheard, hstays, hrun⟩ := hexec 1 hheld (s.updateHeld_gather t c j)
      exact ⟨_, hrun, gatherOn hheard hstays hj hdata hlen hpos hopcode hfits hdst hpart h5 hkeys⟩

end Sys2Proof.Machine
end
